-- ==== Sys2Proof/Word.lean ====
section
/-! DEFINITION. The words of the machine: widths of registers, instruction words, bytes and register
numbers (spec/00_scope.md R4, R9). Their plain arithmetic is that of `BitVec`. -/

namespace Sys2Proof

/-- A 64-bit register, address or memory word (R4, R9). -/
abbrev Word := BitVec 64
/-- A 32-bit instruction word, lane or f32 pattern (R211, R232). -/
abbrev W32 := BitVec 32
/-- One byte of memory (R4). -/
abbrev Byte := BitVec 8
/-- A 5-bit register field (R218). -/
abbrev Reg := BitVec 5
/-- A mask register number (R218). -/
abbrev MReg := BitVec 3
/-- A fabric register number (R396). -/
abbrev XReg := BitVec 4
/-- The 32-bit extension of a lone bundle, `none` when L = 0 (R212). -/
abbrev Lone := Option (BitVec 32)

end Sys2Proof
end

