-- ==== Sys2Proof/Syntax.lean ====
section
/-! DEFINITION. The instructions and steps of the Lyoryth L9: one constructor of `Instr` for each row of
spec/opcode_table.json. C-words, A-words and fabric words carry the fields of their encoding
(spec/10 R216–R224, spec/15 R396); the operations and events of the machine (spec/95) carry what the step
that makes them hands over, as the structures below. -/

namespace Sys2Proof

/-- The order field of an access (R216, R129). -/
inductive MemOrder where
  | rlx | acq | rel | acqrel
  deriving DecidableEq, Repr

/-- The 2-bit code of an order (R216). -/
def MemOrder.code : MemOrder → BitVec 2
  | .rlx => 0 | .acq => 1 | .rel => 2 | .acqrel => 3

def MemOrder.ofCode (c : BitVec 2) : MemOrder :=
  if c = 0 then .rlx else if c = 1 then .acq else if c = 2 then .rel else .acqrel

def MemOrder.acquires : MemOrder → Bool
  | .acq | .acqrel => true
  | .rlx | .rel => false

def MemOrder.releases : MemOrder → Bool
  | .rel | .acqrel => true
  | .rlx | .acq => false

/-- A lane type (R224). -/
inductive LaneTy where
  | f32 | s32 | n32 | bf16 | e4m3 | e2m1 | s8 | n8 | s4 | n4 | c8 | c4
  deriving DecidableEq, Repr

/-- The 4-bit type code of R224. -/
def LaneTy.code : LaneTy → BitVec 4
  | .f32 => 0 | .s32 => 1 | .n32 => 2 | .bf16 => 3 | .e4m3 => 4 | .e2m1 => 5
  | .s8 => 6 | .n8 => 7 | .s4 => 8 | .n4 => 9 | .c8 => 10 | .c4 => 11

/-- The type a code names; 0xC–0xF are reserved (R224). DEDUCED, log entry 20. -/
def LaneTy.ofCode (c : BitVec 4) : Option LaneTy :=
  match c.toNat with
  | 0 => some .f32 | 1 => some .s32 | 2 => some .n32 | 3 => some .bf16 | 4 => some .e4m3 | 5 => some .e2m1
  | 6 => some .s8 | 7 => some .n8 | 8 => some .s4 | 9 => some .n4 | 10 => some .c8 | 11 => some .c4
  | _ => none

/-- Who issued an access, a message or a command (R56, R69, R127). -/
inductive Agent where
  | proc (pid : Nat)      -- the process of this record address
  | helper (id : Nat)     -- 2 × physical core + (0 loader, 1 storer)
  | engine (id : Nat)     -- an engine queue: 16 × bench + 2 × core in bench + (0 copy, 1 distributor)
  | array (bench : Nat)   -- a matrix array
  | sill (tower : Nat)    -- a sill unit
  | peer (node : Nat)     -- another package
  | peerOp (node tag : Nat) -- one request of another package (R134)
  | host                  -- the host port
  deriving DecidableEq, Repr

/-- What an access does at the owner (R63). -/
inductive MemOp where
  | load (signed : Bool)                          -- R278
  | nibble (signed : Bool) (k : Nat)              -- R280
  | store (x : Word)                              -- R278
  | sub (mask : BitVec 16) (x : Word)             -- R78
  | atom (f : BitVec 5) (b c : Word) (ret : Bool) -- R284
  | tag                                           -- R112
  | ldv (v : Byte)                                -- R108
  | stv (v : Byte) (x : Word)                     -- R107
  | rcl (v : Byte)                                -- R109
  | vinit (k : BitVec 2) (v : Byte)               -- R111
  | park (x : Word)                               -- R307
  | join                                          -- R306
  | joinDec                                       -- the decrement of `exit` (R185)
  deriving DecidableEq, Repr

/-- A request on its way to an owner (R38 passed, resolved, translated). -/
structure Req where
  agent : Agent
  core : Nat            -- physical core of the issuer (R127)
  unit : Nat            -- 0–7 slot, 8 loader, 9 storer (R133); 10 and above for other units
  ctx : Byte
  va : Word             -- the address as the instruction formed it
  pa : Nat              -- memory key: SRAM address, or HBM physical address
  space : Nat           -- 0, 1, 2 or 3
  size : Nat            -- bytes
  op : MemOp
  ord : MemOrder
  scope : Nat           -- effective scope (R129)
  rd : Reg
  pc : Word
  sn : Nat              -- number of the access in its slot (R175)
  passed : Nat := 0     -- later requests that its HBM queue has performed before it (R84)
  deriving DecidableEq, Repr

/-- Cause, TVAL and the words from +32 of a fault record (R398, R402). -/
structure FaultInfo where
  cause : Nat
  tval : Word
  words : List Word
  deriving DecidableEq, Repr

/-- The counter of R287 that an operation is charged to. -/
inductive CntClass where
  | none | loads | stores | copies | matrix | transfers
  deriving DecidableEq, Repr

/-- A channel operation on its way to the home of its channel (R172–R176). -/
structure ChanMsg where
  agent : Agent
  core : Nat
  unit : Nat
  ctx : Byte
  handle : Word          -- as formed, end and external bits included
  key : Nat              -- record address
  send : Bool
  kind : Nat             -- 0 word, 1 block, 2 tile, 3 packet; 4 poll, 5 close, 6 create, 7 delete; 8 a move to try again
  elem : List Byte       -- the element of a send
  addr : Word            -- source or destination range, descriptor or result area
  rs : Reg               -- status register
  re : Reg               -- element register of `crecv`
  pc : Word
  seq : Nat              -- the sender's sequence (R146)
  deadline : Option Nat  -- R297
  issued : Nat           -- ISSUED at the send (R175)
  sel : Option (Nat × Nat) -- alternatives list and index, when a select performs it
  num : Nat              -- number of the operation
  flags : BitVec 7       -- flags that a memory server's reply merges into the receiver's FSR (R91)
  claim : Nat := 0       -- an alternative of a peer's select at its home: 0 no claim, 1 claim sent, 2 granted (R180)
  deriving DecidableEq, Repr

/-- An outcome on its way back to its issuer: register writes, flags for FSR, or a fault. -/
structure Done where
  agent : Agent
  writes : List (Reg × Word)
  flags : BitVec 7
  fault : Option FaultInfo
  cls : CntClass
  sn : Nat
  miss : Bool            -- a scope miss was marked (R134 step 1)
  key : Nat              -- the word or object concerned
  req : Option Req       -- the access, for a RETRY (R405)
  chan : Option ChanMsg  -- the channel operation, likewise
  pc : Word
  deriving DecidableEq, Repr

/-- A record to be created by spawn, fork or `callat` (R182–R184). -/
structure SpawnMsg where
  agent : Agent
  core : Nat             -- the issuer's physical core
  ctx : Byte
  kind : Nat             -- 0 spawn, 1 spawnk, 2 callat, 3 fork
  entry : Word
  prio : BitVec 3
  g14 : List Word        -- g1–g4 of the new record
  target : Nat           -- physical core, for `callat`
  rd : Reg
  pc : Word
  num : Nat              -- number of the operation
  deriving DecidableEq, Repr

/-- A start message to a member core (R200). -/
structure StartMsg where
  tower : Nat
  idx : Nat              -- launch-table entry
  core : Nat             -- logical core
  entry : Word
  prio : BitVec 3
  task : Bool
  g14 : List Word
  rank : Nat
  nrank : Nat
  mc : Bool
  ext : List Nat
  org : List Nat
  ctx : Byte
  chk : Word
  rsFrom : Nat := 0      -- in run B of check mode: the record that this member had in run A (R244)
  deriving DecidableEq, Repr

/-- A DONE notice to a launch unit (R201). -/
structure DoneMsg where
  tower : Nat
  idx : Nat
  faulted : Bool
  deriving DecidableEq, Repr

/-- An arrival at a barrier (R309, R310). -/
structure BarMsg where
  agent : Agent
  core : Nat
  slot : Nat
  ctx : Byte
  name : Word
  waits : Bool
  rd : Reg
  pc : Word
  num : Nat              -- number of the operation
  deriving DecidableEq, Repr

/-- A run-to-completion handler request (R186). -/
structure HandlerMsg where
  agent : Agent
  core : Nat
  ctx : Byte
  object : Nat
  entry : Word
  g14 : List Word
  deriving DecidableEq, Repr

/-- A memory-server request as sent: the server's stack, the eight words, the send (R88). -/
structure MsMsg where
  stack : Nat
  words : List Word
  msg : ChanMsg
  pos : Nat := 0         -- bytes of a FETCH or PUT that have moved (R89)
  deriving DecidableEq, Repr

/-- A tile transfer: from a sender's range or a buffer to a receiver's range or a buffer (R176). -/
structure TileMsg where
  sender : Option ChanMsg
  receiver : Option ChanMsg
  key : Nat
  buf : Nat              -- the buffer slot, when one side is the buffer
  len : Nat
  pos : Nat              -- bytes moved
  stopped : Option Nat   -- record address of the process whose range failed
  num : Nat
  mark : Nat := 0        -- of a stopped transfer: the other side's number, or HEAD or TAIL
  deriving DecidableEq, Repr

/-- A received Ethernet frame: bytes without FCS, port clock at its last byte, MAC verdict (R93). -/
structure Frame where
  bytes : List Byte
  stamp : BitVec 24
  good : Bool
  deriving DecidableEq, Repr

/-- An announcement of a collective post (R422, R426). -/
structure AnnMsg where
  node : Nat
  cid : Nat
  num : Nat
  rank : Nat
  sig : List Word        -- words +16, +24, +32 of an overflow entry: TAG, layouts, extents, OP, ETYPE
  comm : List Word       -- communicator descriptor words
  deriving DecidableEq, Repr

/-- An incoming peer request (R54). -/
structure PeerMsg where
  node : Nat
  lcore : Nat            -- logical core of the issuer (R394)
  ctx : Byte
  va : Word
  size : Nat
  op : MemOp
  ord : MemOrder
  scope : Nat
  tag : Nat              -- returned with the reply
  ex : Bool := false     -- the read is a fetch (R42)
  deriving DecidableEq, Repr

/-- What a flit carries (R411). -/
inductive Payload where
  | request (p : PeerMsg)
  | reply (sn : Nat) (val : Word) (flags : BitVec 5) (cause : Nat) (miss : Nat)
  | released (tag : Nat)
  | announce (a : AnnMsg)
  | chunkReq (cid : Nat) (chunk : Nat)
  | grant (cid : Nat) (chunk : Nat)
  | chan (m : ChanMsg)
  | chanReply (num : Nat) (status : Nat) (elem : List Byte) (flags : BitVec 7) (cause : Nat) (miss : Bool)
  | altClaim (num : Nat)
  | altGrant (num : Nat) (ok : Bool)
  | altFree (num : Nat)
  | withdraw (m : ChanMsg)
  | call (m : SpawnMsg)
  | tileAsk (num : Nat) (pos : Nat) (bytes : List Byte)
  | tileAnswer (num : Nat) (pos : Nat) (ok : Bool) (bytes : List Byte)
  | data (cid : Nat) (chunk : Nat) (len : Nat) (bytes : List Byte)
  deriving DecidableEq, Repr

/-- A Zhovin flit (R410); `crcOk` is the receiver's check. -/
structure Flit where
  dnode : Nat
  snode : Nat
  sctx : Byte
  vc : Nat
  eseq : BitVec 16
  lseq : BitVec 12
  ack : BitVec 12
  crcOk : Bool
  body : Payload
  deriving DecidableEq, Repr

/-- A send armed by a timer or ingest trigger of an evicted context (R408). -/
structure TrigMsg where
  pid : Nat
  buf : Word
  msg : ChanMsg
  deriving DecidableEq, Repr

/-- What ends a boot stage (R447, R450). -/
inductive BootResult where
  | ok
  | fail (reason : Nat)
  deriving DecidableEq, Repr

/-- The instruction type: one constructor for each row of spec/opcode_table.json. A C-word carries its lone
extension in `l` (R212); register fields are `d` (written), `a`, `b`, `c` (read) or as the rule names them. -/
inductive Instr where
  -- C-words (R220)
  | cnop (l : Lone)  -- R271
  | halt (l : Lone)  -- R271
  | brk (l : Lone) (c : BitVec 22)  -- R271
  | br (l : Lone) (o : BitVec 25)  -- R272
  | jal (l : Lone) (o : BitVec 25)  -- R272
  | jr (l : Lone) (a : Reg)  -- R272
  | jalr (l : Lone) (d : Reg) (a : Reg)  -- R272
  | beq (l : Lone) (a : Reg) (b : Reg) (o : BitVec 15)  -- R273
  | bne (l : Lone) (a : Reg) (b : Reg) (o : BitVec 15)  -- R273
  | bltS (l : Lone) (a : Reg) (b : Reg) (o : BitVec 15)  -- R273
  | bgeS (l : Lone) (a : Reg) (b : Reg) (o : BitVec 15)  -- R273
  | bltN (l : Lone) (a : Reg) (b : Reg) (o : BitVec 15)  -- R273
  | bgeN (l : Lone) (a : Reg) (b : Reg) (o : BitVec 15)  -- R273
  | lp (l : Lone) (a : Reg) (e : BitVec 15)  -- R275
  | lpi (l : Lone) (c : BitVec 10) (e : BitVec 15)  -- R275
  | ldbS (l : Lone) (d : Reg) (a : Reg) (ord : MemOrder) (sc : BitVec 3) (f : BitVec 10)  -- R278
  | ldbN (l : Lone) (d : Reg) (a : Reg) (ord : MemOrder) (sc : BitVec 3) (f : BitVec 10)  -- R278
  | ldhS (l : Lone) (d : Reg) (a : Reg) (ord : MemOrder) (sc : BitVec 3) (f : BitVec 10)  -- R278
  | ldhN (l : Lone) (d : Reg) (a : Reg) (ord : MemOrder) (sc : BitVec 3) (f : BitVec 10)  -- R278
  | ldwS (l : Lone) (d : Reg) (a : Reg) (ord : MemOrder) (sc : BitVec 3) (f : BitVec 10)  -- R278
  | ldwN (l : Lone) (d : Reg) (a : Reg) (ord : MemOrder) (sc : BitVec 3) (f : BitVec 10)  -- R278
  | ldd (l : Lone) (d : Reg) (a : Reg) (ord : MemOrder) (sc : BitVec 3) (f : BitVec 10)  -- R278
  | stb (l : Lone) (s : Reg) (a : Reg) (ord : MemOrder) (sc : BitVec 3) (f : BitVec 10)  -- R278
  | sth (l : Lone) (s : Reg) (a : Reg) (ord : MemOrder) (sc : BitVec 3) (f : BitVec 10)  -- R278
  | stw (l : Lone) (s : Reg) (a : Reg) (ord : MemOrder) (sc : BitVec 3) (f : BitVec 10)  -- R278
  | std (l : Lone) (s : Reg) (a : Reg) (ord : MemOrder) (sc : BitVec 3) (f : BitVec 10)  -- R278
  | ldv (l : Lone) (d : Reg) (a : Reg) (ord : MemOrder) (sc : BitVec 3) (v : Reg)  -- R281
  | stv (l : Lone) (d : Reg) (a : Reg) (ord : MemOrder) (sc : BitVec 3) (v : Reg)  -- R281
  | rcl (l : Lone) (a : Reg) (b : Reg) (ord : MemOrder) (sc : BitVec 3)  -- R282
  | vtag (l : Lone) (d : Reg) (a : Reg) (ord : MemOrder) (sc : BitVec 3)  -- R282
  | vinit (l : Lone) (a : Reg) (b : Reg) (ord : MemOrder) (sc : BitVec 3) (k : BitVec 2)  -- R282
  | aswp (l : Lone) (d : Reg) (a : Reg) (b : Reg) (ord : MemOrder) (sc : BitVec 3)  -- R284
  | aswpd (l : Lone) (d : Reg) (a : Reg) (b : Reg) (ord : MemOrder) (sc : BitVec 3)  -- R284
  | acas (l : Lone) (d : Reg) (a : Reg) (b : Reg) (ord : MemOrder) (sc : BitVec 3)  -- R284
  | acasd (l : Lone) (d : Reg) (a : Reg) (b : Reg) (ord : MemOrder) (sc : BitVec 3)  -- R284
  | aadd (l : Lone) (d : Reg) (a : Reg) (b : Reg) (ord : MemOrder) (sc : BitVec 3)  -- R284
  | aaddd (l : Lone) (d : Reg) (a : Reg) (b : Reg) (ord : MemOrder) (sc : BitVec 3)  -- R284
  | aand (l : Lone) (d : Reg) (a : Reg) (b : Reg) (ord : MemOrder) (sc : BitVec 3)  -- R284
  | aandd (l : Lone) (d : Reg) (a : Reg) (b : Reg) (ord : MemOrder) (sc : BitVec 3)  -- R284
  | aor (l : Lone) (d : Reg) (a : Reg) (b : Reg) (ord : MemOrder) (sc : BitVec 3)  -- R284
  | aord (l : Lone) (d : Reg) (a : Reg) (b : Reg) (ord : MemOrder) (sc : BitVec 3)  -- R284
  | axor (l : Lone) (d : Reg) (a : Reg) (b : Reg) (ord : MemOrder) (sc : BitVec 3)  -- R284
  | axord (l : Lone) (d : Reg) (a : Reg) (b : Reg) (ord : MemOrder) (sc : BitVec 3)  -- R284
  | amaxS (l : Lone) (d : Reg) (a : Reg) (b : Reg) (ord : MemOrder) (sc : BitVec 3)  -- R284
  | amaxdS (l : Lone) (d : Reg) (a : Reg) (b : Reg) (ord : MemOrder) (sc : BitVec 3)  -- R284
  | aminS (l : Lone) (d : Reg) (a : Reg) (b : Reg) (ord : MemOrder) (sc : BitVec 3)  -- R284
  | amindS (l : Lone) (d : Reg) (a : Reg) (b : Reg) (ord : MemOrder) (sc : BitVec 3)  -- R284
  | amaxN (l : Lone) (d : Reg) (a : Reg) (b : Reg) (ord : MemOrder) (sc : BitVec 3)  -- R284
  | amaxdN (l : Lone) (d : Reg) (a : Reg) (b : Reg) (ord : MemOrder) (sc : BitVec 3)  -- R284
  | aminN (l : Lone) (d : Reg) (a : Reg) (b : Reg) (ord : MemOrder) (sc : BitVec 3)  -- R284
  | amindN (l : Lone) (d : Reg) (a : Reg) (b : Reg) (ord : MemOrder) (sc : BitVec 3)  -- R284
  | afadd (l : Lone) (d : Reg) (a : Reg) (b : Reg) (ord : MemOrder) (sc : BitVec 3)  -- R284
  | afmax (l : Lone) (d : Reg) (a : Reg) (b : Reg) (ord : MemOrder) (sc : BitVec 3)  -- R284
  | afmin (l : Lone) (d : Reg) (a : Reg) (b : Reg) (ord : MemOrder) (sc : BitVec 3)  -- R284
  | fence (l : Lone) (ord : MemOrder) (sc : BitVec 3)  -- R286
  | waitc (l : Lone) (a : BitVec 5) (b : BitVec 5) (c : BitVec 5) (d : BitVec 5) (e : BitVec 5)  -- R287
  | vld (l : Lone) (d : Reg) (a : Reg) (b : Reg) (t : LaneTy) (m : MReg)  -- R338
  | vst (l : Lone) (d : Reg) (a : Reg) (b : Reg) (t : LaneTy) (m : MReg)  -- R338
  | vldx (l : Lone) (d : Reg) (a : Reg) (b : Reg) (t : LaneTy) (m : MReg)  -- R340
  | vstx (l : Lone) (d : Reg) (a : Reg) (b : Reg) (t : LaneTy) (m : MReg)  -- R340
  | csend (l : Lone) (d : Reg) (a : Reg) (b : Reg)  -- R290
  | crecv (l : Lone) (d : Reg) (a : Reg) (b : Reg)  -- R290
  | csendb (l : Lone) (d : Reg) (a : Reg) (b : Reg)  -- R291
  | crecvb (l : Lone) (d : Reg) (a : Reg) (b : Reg)  -- R291
  | csendt (l : Lone) (d : Reg) (a : Reg) (b : Reg)  -- R292
  | crecvt (l : Lone) (d : Reg) (a : Reg) (b : Reg)  -- R292
  | cpoll (l : Lone) (d : Reg) (a : Reg)  -- R295
  | cclose (l : Lone) (a : Reg)  -- R296
  | csendp (l : Lone) (d : Reg) (a : Reg) (b : Reg)  -- R293
  | crecvp (l : Lone) (d : Reg) (a : Reg) (b : Reg)  -- R294
  | chsel (l : Lone) (d : Reg) (b : Reg) (f : BitVec 1)  -- R301
  | chnew (l : Lone) (d : Reg) (b : Reg)  -- R298
  | chdel (l : Lone) (b : Reg)  -- R299
  | spawn (l : Lone) (d : Reg) (a : Reg) (b : Reg)  -- R303
  | spawnk (l : Lone) (d : Reg) (a : Reg) (b : Reg)  -- R303
  | callat (l : Lone) (h : Reg) (a : Reg) (b : Reg)  -- R304
  | fork (l : Lone) (a : Reg)  -- R305
  | join (l : Lone) (a : Reg)  -- R306
  | jinit (l : Lone) (a : Reg) (b : Reg)  -- R306
  | yield (l : Lone)  -- R307
  | park (l : Lone) (a : Reg) (b : Reg)  -- R307
  | exit (l : Lone) (a : Reg)  -- R306
  | chprio (l : Lone) (b : Reg)  -- R308
  | binit (l : Lone) (a : Reg) (b : Reg)  -- R310
  | barr (l : Lone) (d : Reg) (a : Reg)  -- R310
  | barw (l : Lone) (d : Reg) (a : Reg)  -- R310
  | ginit (l : Lone) (a : Reg) (b : Reg)  -- R311
  | gkill (l : Lone) (a : Reg)  -- R311
  | gquery (l : Lone) (d : Reg) (a : Reg)  -- R311
  | mfs (l : Lone) (d : Reg) (i : BitVec 12)  -- R318
  | mts (l : Lone) (a : Reg) (i : BitVec 12)  -- R318
  | trap (l : Lone) (n : BitVec 6)  -- R319
  | tret (l : Lone)  -- R319
  | xinv (l : Lone) (a : Reg) (k : BitVec 3)  -- R320
  | mreq (l : Lone) (a : Reg)  -- R371
  | mrel (l : Lone)  -- R372
  | mfmt (l : Lone) (a : Reg)  -- R374
  | mscl (l : Lone) (a : Reg) (b : Reg)  -- R374
  | mlid (l : Lone) (b : Reg)  -- R378
  | mclr (l : Lone) (a : Reg)  -- R379
  | mmac (l : Lone) (a : Reg) (b : Reg)  -- R376
  | mmacc (l : Lone) (a : Reg) (b : Reg)  -- R376
  | mmacj (l : Lone) (a : Reg) (b : Reg)  -- R376
  | mdrn (l : Lone) (a : Reg) (b : Reg)  -- R380
  | cpy (l : Lone) (a : Reg) (b : Reg) (p : BitVec 1)  -- R384
  | tcpy (l : Lone) (a : Reg) (b : Reg) (p : BitVec 1)  -- R385
  | deal (l : Lone) (a : Reg) (b : Reg) (p : BitVec 1)  -- R386
  | gath (l : Lone) (a : Reg) (b : Reg) (p : BitVec 1)  -- R386
  | cpost (l : Lone) (a : Reg) (b : Reg)  -- R392
  | fgload (l : Lone) (a : Reg) (b : Reg)  -- R397
  | vclaim (l : Lone) (d : Reg) (a : Reg) (b : Reg)  -- R328
  | vrenew (l : Lone) (d : Reg) (a : Reg) (b : Reg)  -- R329
  | vrel (l : Lone)  -- R330
  | vloop (l : Lone) (n : BitVec 5) (a : Reg)  -- R334
  | vbind (l : Lone) (a : Reg)  -- R336
  | vunbind (l : Lone) (a : Reg)  -- R336
  | lic (l : Lone) (d : Reg) (i : BitVec 15)  -- R266
  | ldnS (l : Lone) (d : Reg) (a : Reg) (b : Reg) (ord : MemOrder) (sc : BitVec 3)  -- R280
  | ldnN (l : Lone) (d : Reg) (a : Reg) (b : Reg) (ord : MemOrder) (sc : BitVec 3)  -- R280
  | stn (l : Lone) (d : Reg) (a : Reg) (b : Reg) (ord : MemOrder) (sc : BitVec 3)  -- R280
  | sgen (l : Lone) (a : Reg) (b : Reg)  -- R315
  | srun (l : Lone) (a : Reg)  -- R316
  | sstat (l : Lone) (d : Reg) (a : Reg)  -- R316
  | hload (l : Lone) (a : Reg) (b : Reg)  -- R313
  | hstart (l : Lone) (a : Reg) (b : Reg)  -- R314
  -- A-words (R223)
  | anop  -- R219
  | add (d : Reg) (a : Reg) (b : Reg)  -- R261
  | sub (d : Reg) (a : Reg) (b : Reg)  -- R261
  | andR (d : Reg) (a : Reg) (b : Reg)  -- R261
  | orR (d : Reg) (a : Reg) (b : Reg)  -- R261
  | xor (d : Reg) (a : Reg) (b : Reg)  -- R261
  | andn (d : Reg) (a : Reg) (b : Reg)  -- R261
  | sll (d : Reg) (a : Reg) (b : Reg)  -- R261
  | srl (d : Reg) (a : Reg) (b : Reg)  -- R261
  | sra (d : Reg) (a : Reg) (b : Reg)  -- R261
  | rol (d : Reg) (a : Reg) (b : Reg)  -- R261
  | addw (d : Reg) (a : Reg) (b : Reg)  -- R261
  | subw (d : Reg) (a : Reg) (b : Reg)  -- R261
  | addsS (d : Reg) (a : Reg) (b : Reg)  -- R261
  | addsN (d : Reg) (a : Reg) (b : Reg)  -- R261
  | subsS (d : Reg) (a : Reg) (b : Reg)  -- R261
  | subsN (d : Reg) (a : Reg) (b : Reg)  -- R261
  | addi (d : Reg) (a : Reg) (i : BitVec 16)  -- R262
  | andi (d : Reg) (a : Reg) (i : BitVec 16)  -- R262
  | ori (d : Reg) (a : Reg) (i : BitVec 16)  -- R262
  | xori (d : Reg) (a : Reg) (i : BitVec 16)  -- R262
  | slli (d : Reg) (a : Reg) (n : BitVec 6)  -- R262
  | srli (d : Reg) (a : Reg) (n : BitVec 6)  -- R262
  | srai (d : Reg) (a : Reg) (n : BitVec 6)  -- R262
  | roli (d : Reg) (a : Reg) (n : BitVec 6)  -- R262
  | mul (d : Reg) (a : Reg) (b : Reg)  -- R263
  | mulhS (d : Reg) (a : Reg) (b : Reg)  -- R263
  | mulhN (d : Reg) (a : Reg) (b : Reg)  -- R263
  | mulw (d : Reg) (a : Reg) (b : Reg)  -- R263
  | divS (d : Reg) (a : Reg) (b : Reg)  -- R263
  | divN (d : Reg) (a : Reg) (b : Reg)  -- R263
  | remS (d : Reg) (a : Reg) (b : Reg)  -- R263
  | remN (d : Reg) (a : Reg) (b : Reg)  -- R263
  | seq (d : Reg) (a : Reg) (b : Reg)  -- R264
  | sne (d : Reg) (a : Reg) (b : Reg)  -- R264
  | sltS (d : Reg) (a : Reg) (b : Reg)  -- R264
  | sleS (d : Reg) (a : Reg) (b : Reg)  -- R264
  | sltN (d : Reg) (a : Reg) (b : Reg)  -- R264
  | sleN (d : Reg) (a : Reg) (b : Reg)  -- R264
  | minS (d : Reg) (a : Reg) (b : Reg)  -- R264
  | maxS (d : Reg) (a : Reg) (b : Reg)  -- R264
  | minN (d : Reg) (a : Reg) (b : Reg)  -- R264
  | maxN (d : Reg) (a : Reg) (b : Reg)  -- R264
  | sel (d : Reg) (a : Reg) (b : Reg) (c : Reg)  -- R264
  | clz (d : Reg) (a : Reg)  -- R265
  | ctz (d : Reg) (a : Reg)  -- R265
  | popc (d : Reg) (a : Reg)  -- R265
  | brev (d : Reg) (a : Reg)  -- R265
  | bswap (d : Reg) (a : Reg)  -- R265
  | sextB (d : Reg) (a : Reg)  -- R265
  | sextH (d : Reg) (a : Reg)  -- R265
  | sextW (d : Reg) (a : Reg)  -- R265
  | zextW (d : Reg) (a : Reg)  -- R265
  | bext (d : Reg) (a : Reg) (b : Reg)  -- R265
  | bins (d : Reg) (a : Reg) (b : Reg)  -- R265
  | lui (d : Reg) (k : BitVec 2) (i : BitVec 16)  -- R266
  | fadd (d : Reg) (a : Reg) (b : Reg)  -- R267
  | fsub (d : Reg) (a : Reg) (b : Reg)  -- R267
  | fmul (d : Reg) (a : Reg) (b : Reg)  -- R267
  | fdiv (d : Reg) (a : Reg) (b : Reg)  -- R267
  | fsqrt (d : Reg) (a : Reg)  -- R267
  | fmin (d : Reg) (a : Reg) (b : Reg)  -- R267
  | fmax (d : Reg) (a : Reg) (b : Reg)  -- R267
  | fmint (d : Reg) (a : Reg) (b : Reg)  -- R267
  | fmaxt (d : Reg) (a : Reg) (b : Reg)  -- R267
  | fabs (d : Reg) (a : Reg)  -- R267
  | fneg (d : Reg) (a : Reg)  -- R267
  | fsgnj (d : Reg) (a : Reg) (b : Reg)  -- R267
  | fmadd (d : Reg) (a : Reg) (b : Reg) (c : Reg)  -- R268
  | fmsub (d : Reg) (a : Reg) (b : Reg) (c : Reg)  -- R268
  | fnmadd (d : Reg) (a : Reg) (b : Reg) (c : Reg)  -- R268
  | fnmsub (d : Reg) (a : Reg) (b : Reg) (c : Reg)  -- R268
  | feq (d : Reg) (a : Reg) (b : Reg)  -- R269
  | flt (d : Reg) (a : Reg) (b : Reg)  -- R269
  | fle (d : Reg) (a : Reg) (b : Reg)  -- R269
  | funord (d : Reg) (a : Reg) (b : Reg)  -- R269
  | fclass (d : Reg) (a : Reg)  -- R269
  | fkey (d : Reg) (a : Reg)  -- R269
  | fcvtF32S32 (d : Reg) (a : Reg)  -- R270
  | fcvtF32S64 (d : Reg) (a : Reg)  -- R270
  | fcvtS32F32 (d : Reg) (a : Reg)  -- R270
  | fcvtS64F32 (d : Reg) (a : Reg)  -- R270
  | fcvtF32Bf16 (d : Reg) (a : Reg)  -- R270
  | fcvtBf16F32 (d : Reg) (a : Reg)  -- R270
  | fcvtF32E4m3 (d : Reg) (a : Reg)  -- R270
  | fcvtE4m3F32 (d : Reg) (a : Reg)  -- R270
  | fcvtF32E2m1 (d : Reg) (a : Reg)  -- R270
  | fcvtE2m1F32 (d : Reg) (a : Reg)  -- R270
  | fcvtF32N32 (d : Reg) (a : Reg)  -- R270
  | fcvtN32F32 (d : Reg) (a : Reg)  -- R270
  | vadd (d : Reg) (a : Reg) (b : Reg) (m : MReg) (t : LaneTy)  -- R341
  | vsub (d : Reg) (a : Reg) (b : Reg) (m : MReg) (t : LaneTy)  -- R341
  | vmul (d : Reg) (a : Reg) (b : Reg) (m : MReg) (t : LaneTy)  -- R341
  | vdiv (d : Reg) (a : Reg) (b : Reg) (m : MReg) (t : LaneTy)  -- R341
  | vmin (d : Reg) (a : Reg) (b : Reg) (m : MReg) (t : LaneTy)  -- R341
  | vmax (d : Reg) (a : Reg) (b : Reg) (m : MReg) (t : LaneTy)  -- R341
  | vand (d : Reg) (a : Reg) (b : Reg) (m : MReg) (t : LaneTy)  -- R341
  | vor (d : Reg) (a : Reg) (b : Reg) (m : MReg) (t : LaneTy)  -- R341
  | vxor (d : Reg) (a : Reg) (b : Reg) (m : MReg) (t : LaneTy)  -- R341
  | vsll (d : Reg) (a : Reg) (b : Reg) (m : MReg) (t : LaneTy)  -- R341
  | vsrl (d : Reg) (a : Reg) (b : Reg) (m : MReg) (t : LaneTy)  -- R341
  | vsra (d : Reg) (a : Reg) (b : Reg) (m : MReg) (t : LaneTy)  -- R341
  | vabs (d : Reg) (a : Reg) (m : MReg) (t : LaneTy)  -- R341
  | vneg (d : Reg) (a : Reg) (m : MReg) (t : LaneTy)  -- R341
  | vadds (d : Reg) (a : Reg) (b : Reg) (m : MReg) (t : LaneTy)  -- R341
  | vsubs (d : Reg) (a : Reg) (b : Reg) (m : MReg) (t : LaneTy)  -- R341
  | vfma (d : Reg) (a : Reg) (b : Reg) (c : Reg) (m : MReg)  -- R343
  | vfms (d : Reg) (a : Reg) (b : Reg) (c : Reg) (m : MReg)  -- R343
  | vfnma (d : Reg) (a : Reg) (b : Reg) (c : Reg) (m : MReg)  -- R343
  | vfnms (d : Reg) (a : Reg) (b : Reg) (c : Reg) (m : MReg)  -- R343
  | vmadS (d : Reg) (a : Reg) (b : Reg) (c : Reg) (m : MReg)  -- R343
  | vmadN (d : Reg) (a : Reg) (b : Reg) (c : Reg) (m : MReg)  -- R343
  | veq (d : MReg) (a : Reg) (b : Reg) (m : MReg) (t : LaneTy)  -- R344
  | vne (d : MReg) (a : Reg) (b : Reg) (m : MReg) (t : LaneTy)  -- R344
  | vlt (d : MReg) (a : Reg) (b : Reg) (m : MReg) (t : LaneTy)  -- R344
  | vle (d : MReg) (a : Reg) (b : Reg) (m : MReg) (t : LaneTy)  -- R344
  | vunord (d : MReg) (a : Reg) (b : Reg) (m : MReg) (t : LaneTy)  -- R344
  | vltt (d : MReg) (a : Reg) (b : Reg) (m : MReg) (t : LaneTy)  -- R344
  | vmov (d : Reg) (a : Reg) (m : MReg)  -- R346
  | vbcast (d : Reg) (a : Reg) (m : MReg)  -- R346
  | vrot (d : Reg) (a : Reg) (b : Reg) (m : MReg)  -- R346
  | vshuf (d : Reg) (a : Reg) (b : Reg) (m : MReg)  -- R346
  | vcomp (d : Reg) (a : Reg) (m : MReg)  -- R346
  | vexpd (d : Reg) (a : Reg) (m : MReg)  -- R346
  | vins (d : Reg) (a : Reg) (b : Reg)  -- R346
  | vext (d : Reg) (a : Reg) (b : Reg)  -- R346
  | vcvt (d : Reg) (a : Reg) (m : MReg) (t : LaneTy) (s : LaneTy)  -- R347
  | vexp (d : Reg) (a : Reg) (m : MReg)  -- R348
  | vexp2 (d : Reg) (a : Reg) (m : MReg)  -- R348
  | vlog (d : Reg) (a : Reg) (m : MReg)  -- R348
  | vlog2 (d : Reg) (a : Reg) (m : MReg)  -- R348
  | vrcp (d : Reg) (a : Reg) (m : MReg)  -- R348
  | vsqrt (d : Reg) (a : Reg) (m : MReg)  -- R348
  | vrsqrt (d : Reg) (a : Reg) (m : MReg)  -- R348
  | vsin (d : Reg) (a : Reg) (m : MReg)  -- R348
  | vcos (d : Reg) (a : Reg) (m : MReg)  -- R348
  | vtanh (d : Reg) (a : Reg) (m : MReg)  -- R348
  | vsigm (d : Reg) (a : Reg) (m : MReg)  -- R348
  | verf (d : Reg) (a : Reg) (m : MReg)  -- R348
  | vrsum (d : Reg) (a : Reg) (m : MReg) (t : LaneTy)  -- R349
  | vrmax (d : Reg) (a : Reg) (m : MReg) (t : LaneTy)  -- R349
  | vrmin (d : Reg) (a : Reg) (m : MReg) (t : LaneTy)  -- R349
  | vrmaxt (d : Reg) (a : Reg) (m : MReg) (t : LaneTy)  -- R349
  | vrmint (d : Reg) (a : Reg) (m : MReg) (t : LaneTy)  -- R349
  | vrand (d : Reg) (a : Reg) (m : MReg) (t : LaneTy)  -- R349
  | vror (d : Reg) (a : Reg) (m : MReg) (t : LaneTy)  -- R349
  | vrxor (d : Reg) (a : Reg) (m : MReg) (t : LaneTy)  -- R349
  | vskq (a : Reg) (b : Reg) (m : MReg) (t : LaneTy)  -- R360
  | vskh (a : Reg) (b : Reg) (m : MReg) (t : LaneTy)  -- R360
  | vskd (a : Reg) (b : Reg) (m : MReg) (t : LaneTy)  -- R360
  | skinit (a : Reg) (b : Reg)  -- R362
  | skmerge (a : Reg) (b : Reg)  -- R363
  | skquant (d : Reg) (a : Reg) (b : Reg)  -- R364
  | skrank (d : Reg) (a : Reg) (b : Reg)  -- R365
  | skest (d : Reg) (a : Reg) (b : Reg)  -- R366
  | skcount (d : Reg) (a : Reg)  -- R365
  | mand (d : MReg) (a : MReg) (b : MReg)  -- R345
  | mor (d : MReg) (a : MReg) (b : MReg)  -- R345
  | mxor (d : MReg) (a : MReg) (b : MReg)  -- R345
  | mandn (d : MReg) (a : MReg) (b : MReg)  -- R345
  | mnot (d : MReg) (a : MReg)  -- R345
  | mpop (d : Reg) (a : MReg)  -- R345
  | mfrst (d : Reg) (a : MReg)  -- R345
  | mfromg (d : MReg) (a : Reg)  -- R345
  | mtog (d : Reg) (a : MReg)  -- R345
  -- fabric words (R396)
  | xend  -- R396
  | xadd (d : XReg) (a : XReg) (b : XReg) (t : BitVec 4)  -- R396
  | xmax (d : XReg) (a : XReg) (b : XReg) (t : BitVec 4)  -- R396
  | xmin (d : XReg) (a : XReg) (b : XReg) (t : BitVec 4)  -- R396
  | xmx6 (d : XReg) (a : XReg) (b : XReg)  -- R396
  | xpack (d : XReg) (a : XReg) (b : XReg)  -- R396
  | xunpk (d : XReg) (a : XReg) (h : BitVec 1)  -- R396
  | xmov (d : XReg) (a : XReg)  -- R396
  | xrecv (d : XReg) (i : BitVec 1)  -- R396
  | xemit (a : XReg) (o : BitVec 2)  -- R396
  -- operations and events of the machine (spec/95)
  | sequencerTrap (pid : Nat) (cause : Nat) (tval : Word)  -- R400
  | sequencerEntry (pid : Nat)  -- R331
  | streamItem (helper : Nat) (stream : Nat)  -- R316
  | ownerAccess (r : Req)  -- R64
  | subByteStore (r : Req)  -- R79
  | versionedStoreAtOwner (r : Req)  -- R107
  | versionedLoadAtOwner (r : Req)  -- R108
  | reclaimAtOwner (r : Req)  -- R109
  | initialiseAtOwner (r : Req)  -- R111
  | heldCompletion (d : Done)  -- R114
  | waiterRetry (r : Req)  -- R115
  | acknowledgement (d : Done)  -- R123
  | widen (key : Nat)  -- R134
  | widened (key : Nat)  -- R134
  | released (a : Agent)  -- R134
  | translationWalk (die : Nat) (ctx : Byte) (space : Nat) (vpage : Nat)  -- R50
  | engineBeat (queue : Nat)  -- R44
  | commandCompletion (queue : Nat) (status : Nat)  -- R383
  | msRequest (m : MsMsg)  -- R90
  | msReply (num : Nat)  -- R92
  | frameReceive (port : Nat) (f : Frame)  -- R94
  | pfcRepeat (port : Nat) (prio : Nat)  -- R100
  | pfcFrame (port : Nat) (prios : Byte) (quanta : List Nat)  -- R93
  | pfcQuantaExpire (port : Nat) (prio : Nat)  -- R93
  | ingestDeposit (port : Nat) (ring : Nat)  -- R98
  | ringDescriptorWrite (addr : Nat) (x : Word)  -- R96
  | portRegisterWrite (addr : Nat) (x : Word)  -- R95
  | frameTransmit (port : Nat) (prio : Nat)  -- R293
  | partGo (x : Word)  -- R22
  | drainComplete  -- R25
  | drainTimeout  -- R23
  | flushComplete  -- R23
  | powerComplete  -- R23
  | enumerate  -- R27
  | roleChangeStop  -- R24
  | frzctlResume (x : Word)  -- R58
  | frzctlDiscard (x : Word)  -- R58
  | peerRequest (p : PeerMsg)  -- R54
  | peerErrorReply (d : Done)  -- R55
  | poolHeadWrite (core : Nat) (x : Word)  -- R166
  | recfree (core : Nat) (x : Word)  -- R166
  | slotFill (core : Nat)  -- R169
  | spillParked (core : Nat)  -- R169
  | preempt (core : Nat)  -- R203
  | spillComplete (pid : Nat)  -- R407
  | taskSteal (core : Nat)  -- R206
  | laneGrant (bench : Nat)  -- R207
  | leaseGrant (bench : Nat)  -- R371
  | mrelEffect (core : Nat)  -- R372
  | mfmtExecute (core : Nat)  -- R374
  | mmacExecute (core : Nat)  -- R376
  | mlidExecute (core : Nat)  -- R378
  | mclrExecute (core : Nat)  -- R379
  | mdrnExecute (core : Nat)  -- R380
  | thermalPeriod (temps : List (Nat × Nat))  -- R210
  | launchTake (q : Nat)  -- R195
  | levelChange (q : Nat)  -- R145
  | queueBarrier (q : Nat)  -- R196
  | contextFence (q : Nat)  -- R196
  | launchQueueWrite (addr : Nat) (x : Word)  -- R192
  | startMessage (m : StartMsg)  -- R200
  | doneNotice (m : DoneMsg)  -- R201
  | checkRunAEnd (tower : Nat) (idx : Nat)  -- R156
  | checkRunBEnd (tower : Nat) (idx : Nat)  -- R157
  | commitTurn (domain : Nat)  -- R151
  | chunkCommit (pid : Nat)  -- R152
  | logUnitWrite (ctx : Byte)  -- R162
  | logPadTimeout (ctx : Byte)  -- R162
  | logctlWrite (ctx : Byte) (x : Word)  -- R161
  | logtailWrite (ctx : Byte) (x : Word)  -- R162
  | logheadWrite (ctx : Byte) (x : Word)  -- R161
  | channelSendAtHome (m : ChanMsg)  -- R173
  | channelReceiveAtHome (m : ChanMsg)  -- R174
  | sendRetry (m : ChanMsg)  -- R173
  | drainQueryReply (m : ChanMsg) (elem : List Byte) (stamp : Word)  -- R175
  | tileTransfer (t : TileMsg)  -- R176
  | selectClaim (list : Nat) (index : Nat)  -- R180
  | timeoutFire (pid : Nat)  -- R181
  | channelTimeout (pid : Nat)  -- R297
  | withdrawal (m : ChanMsg)  -- R297
  | spawnPlace (m : SpawnMsg)  -- R182
  | barrierArrival (m : BarMsg)  -- R187
  | handlerRequest (m : HandlerMsg)  -- R186
  | faultPost (ctx : Byte) (words : List Word)  -- R401
  | fltresRetry (core : Nat) (x : Word)  -- R405
  | fltresSkip (core : Nat) (x : Word)  -- R405
  | fltresDiscard (core : Nat) (x : Word)  -- R405
  | contextEvict (ctx : Byte)  -- R408
  | contextRestore (ctx : Byte)  -- R408
  | triggerLatch (ctx : Byte) (t : TrigMsg)  -- R408
  | deadlock  -- R190
  | collAnnounce (a : AnnMsg)  -- R422
  | announceRetry (a : AnnMsg)  -- R426
  | chunkGrant (cid : Nat) (chunk : Nat) (link : Nat)  -- R423
  | chunkArbitration (resource : Nat)  -- R424
  | collComplete (cid : Nat) (num : Nat)  -- R392
  | trussPush (r : Req)  -- R394
  | trussPop (r : Req)  -- R394
  | trussQueueWrite (addr : Nat) (x : Word)  -- R393
  | linkFlit (link : Nat) (f : Flit)  -- R412
  | linkReplay (link : Nat) (lseq : BitVec 12)  -- R413
  | linkRetrain (link : Nat) (ok : Bool)  -- R413
  | hostBar0 (offset : Nat) (data : Option Word)  -- R417
  | hostLaunchWrite (offset : Nat) (bytes : List Byte)  -- R418
  | hostAperture (offset : Nat) (size : Nat) (data : Option Word)  -- R419
  | msixSend (vector : Nat)  -- R419
  | hostReadCompletion (tag : Nat) (status : Nat) (data : List Byte)  -- R420
  | hostReadTimeout (tag : Nat)  -- R420
  | hwakeExpire  -- R421
  | powerOn  -- R447
  | bootStage (result : BootResult)  -- R447
  | bootWatchdog  -- R447
  | reset  -- R450
  | recgo (valid : Bool)  -- R450
  | calc  -- R453
  | attctlGo  -- R451
  | attestDone  -- R451
  | powerCapStep (watts : Nat)  -- R454
  | thermalTrip  -- R454
  | tripRelease  -- R454
  | blockRead (offset : Nat)  -- R455
  | blockWrite (offset : Nat) (x : Word)  -- R455
  | registerWrite (addr : Nat) (x : Word)  -- R5
  | loadReturn (d : Done)  -- R123
  | linkUp (link : Nat)  -- R414
  | lossOfPower  -- R449
  deriving DecidableEq, Repr

/-- A step in flight: the same operations and events as data of the state's agenda. -/
inductive Ev where
  | sequencerTrap (pid : Nat) (cause : Nat) (tval : Word)
  | sequencerEntry (pid : Nat)
  | streamItem (helper : Nat) (stream : Nat)
  | ownerAccess (r : Req)
  | subByteStore (r : Req)
  | versionedStoreAtOwner (r : Req)
  | versionedLoadAtOwner (r : Req)
  | reclaimAtOwner (r : Req)
  | initialiseAtOwner (r : Req)
  | heldCompletion (d : Done)
  | waiterRetry (r : Req)
  | acknowledgement (d : Done)
  | widen (key : Nat)
  | widened (key : Nat)
  | released (a : Agent)
  | translationWalk (die : Nat) (ctx : Byte) (space : Nat) (vpage : Nat)
  | engineBeat (queue : Nat)
  | commandCompletion (queue : Nat) (status : Nat)
  | msRequest (m : MsMsg)
  | msReply (num : Nat)
  | frameReceive (port : Nat) (f : Frame)
  | pfcRepeat (port : Nat) (prio : Nat)
  | pfcFrame (port : Nat) (prios : Byte) (quanta : List Nat)
  | pfcQuantaExpire (port : Nat) (prio : Nat)
  | ingestDeposit (port : Nat) (ring : Nat)
  | ringDescriptorWrite (addr : Nat) (x : Word)
  | portRegisterWrite (addr : Nat) (x : Word)
  | frameTransmit (port : Nat) (prio : Nat)
  | partGo (x : Word)
  | drainComplete
  | drainTimeout
  | flushComplete
  | powerComplete
  | enumerate
  | roleChangeStop
  | frzctlResume (x : Word)
  | frzctlDiscard (x : Word)
  | peerRequest (p : PeerMsg)
  | peerErrorReply (d : Done)
  | poolHeadWrite (core : Nat) (x : Word)
  | recfree (core : Nat) (x : Word)
  | slotFill (core : Nat)
  | spillParked (core : Nat)
  | preempt (core : Nat)
  | spillComplete (pid : Nat)
  | taskSteal (core : Nat)
  | laneGrant (bench : Nat)
  | leaseGrant (bench : Nat)
  | mrelEffect (core : Nat)
  | mfmtExecute (core : Nat)
  | mmacExecute (core : Nat)
  | mlidExecute (core : Nat)
  | mclrExecute (core : Nat)
  | mdrnExecute (core : Nat)
  | thermalPeriod (temps : List (Nat × Nat))
  | launchTake (q : Nat)
  | levelChange (q : Nat)
  | queueBarrier (q : Nat)
  | contextFence (q : Nat)
  | launchQueueWrite (addr : Nat) (x : Word)
  | startMessage (m : StartMsg)
  | doneNotice (m : DoneMsg)
  | checkRunAEnd (tower : Nat) (idx : Nat)
  | checkRunBEnd (tower : Nat) (idx : Nat)
  | commitTurn (domain : Nat)
  | chunkCommit (pid : Nat)
  | logUnitWrite (ctx : Byte)
  | logPadTimeout (ctx : Byte)
  | logctlWrite (ctx : Byte) (x : Word)
  | logtailWrite (ctx : Byte) (x : Word)
  | logheadWrite (ctx : Byte) (x : Word)
  | channelSendAtHome (m : ChanMsg)
  | channelReceiveAtHome (m : ChanMsg)
  | sendRetry (m : ChanMsg)
  | drainQueryReply (m : ChanMsg) (elem : List Byte) (stamp : Word)
  | tileTransfer (t : TileMsg)
  | selectClaim (list : Nat) (index : Nat)
  | timeoutFire (pid : Nat)
  | channelTimeout (pid : Nat)
  | withdrawal (m : ChanMsg)
  | spawnPlace (m : SpawnMsg)
  | barrierArrival (m : BarMsg)
  | handlerRequest (m : HandlerMsg)
  | faultPost (ctx : Byte) (words : List Word)
  | fltresRetry (core : Nat) (x : Word)
  | fltresSkip (core : Nat) (x : Word)
  | fltresDiscard (core : Nat) (x : Word)
  | contextEvict (ctx : Byte)
  | contextRestore (ctx : Byte)
  | triggerLatch (ctx : Byte) (t : TrigMsg)
  | deadlock
  | collAnnounce (a : AnnMsg)
  | announceRetry (a : AnnMsg)
  | chunkGrant (cid : Nat) (chunk : Nat) (link : Nat)
  | chunkArbitration (resource : Nat)
  | collComplete (cid : Nat) (num : Nat)
  | trussPush (r : Req)
  | trussPop (r : Req)
  | trussQueueWrite (addr : Nat) (x : Word)
  | linkFlit (link : Nat) (f : Flit)
  | linkReplay (link : Nat) (lseq : BitVec 12)
  | linkRetrain (link : Nat) (ok : Bool)
  | hostBar0 (offset : Nat) (data : Option Word)
  | hostLaunchWrite (offset : Nat) (bytes : List Byte)
  | hostAperture (offset : Nat) (size : Nat) (data : Option Word)
  | msixSend (vector : Nat)
  | hostReadCompletion (tag : Nat) (status : Nat) (data : List Byte)
  | hostReadTimeout (tag : Nat)
  | hwakeExpire
  | powerOn
  | bootStage (result : BootResult)
  | bootWatchdog
  | reset
  | recgo (valid : Bool)
  | calc
  | attctlGo
  | attestDone
  | powerCapStep (watts : Nat)
  | thermalTrip
  | tripRelease
  | blockRead (offset : Nat)
  | blockWrite (offset : Nat) (x : Word)
  | registerWrite (addr : Nat) (x : Word)
  | loadReturn (d : Done)
  | linkUp (link : Nat)
  | lossOfPower
  deriving DecidableEq, Repr

/-- The row of the opcode table that a step in flight is (DESIGN CHOICE, log entry 9 on `noncomputable`). -/
noncomputable def Ev.toInstr (e : Ev) : Instr :=
  match e with
  | .sequencerTrap pid cause tval => .sequencerTrap pid cause tval
  | .sequencerEntry pid => .sequencerEntry pid
  | .streamItem helper stream => .streamItem helper stream
  | .ownerAccess r => .ownerAccess r
  | .subByteStore r => .subByteStore r
  | .versionedStoreAtOwner r => .versionedStoreAtOwner r
  | .versionedLoadAtOwner r => .versionedLoadAtOwner r
  | .reclaimAtOwner r => .reclaimAtOwner r
  | .initialiseAtOwner r => .initialiseAtOwner r
  | .heldCompletion d => .heldCompletion d
  | .waiterRetry r => .waiterRetry r
  | .acknowledgement d => .acknowledgement d
  | .widen key => .widen key
  | .widened key => .widened key
  | .released a => .released a
  | .translationWalk die ctx space vpage => .translationWalk die ctx space vpage
  | .engineBeat queue => .engineBeat queue
  | .commandCompletion queue status => .commandCompletion queue status
  | .msRequest m => .msRequest m
  | .msReply num => .msReply num
  | .frameReceive port f => .frameReceive port f
  | .pfcRepeat port prio => .pfcRepeat port prio
  | .pfcFrame port prios quanta => .pfcFrame port prios quanta
  | .pfcQuantaExpire port prio => .pfcQuantaExpire port prio
  | .ingestDeposit port ring => .ingestDeposit port ring
  | .ringDescriptorWrite addr x => .ringDescriptorWrite addr x
  | .portRegisterWrite addr x => .portRegisterWrite addr x
  | .frameTransmit port prio => .frameTransmit port prio
  | .partGo x => .partGo x
  | .drainComplete => .drainComplete
  | .drainTimeout => .drainTimeout
  | .flushComplete => .flushComplete
  | .powerComplete => .powerComplete
  | .enumerate => .enumerate
  | .roleChangeStop => .roleChangeStop
  | .frzctlResume x => .frzctlResume x
  | .frzctlDiscard x => .frzctlDiscard x
  | .peerRequest p => .peerRequest p
  | .peerErrorReply d => .peerErrorReply d
  | .poolHeadWrite core x => .poolHeadWrite core x
  | .recfree core x => .recfree core x
  | .slotFill core => .slotFill core
  | .spillParked core => .spillParked core
  | .preempt core => .preempt core
  | .spillComplete pid => .spillComplete pid
  | .taskSteal core => .taskSteal core
  | .laneGrant bench => .laneGrant bench
  | .leaseGrant bench => .leaseGrant bench
  | .mrelEffect core => .mrelEffect core
  | .mfmtExecute core => .mfmtExecute core
  | .mmacExecute core => .mmacExecute core
  | .mlidExecute core => .mlidExecute core
  | .mclrExecute core => .mclrExecute core
  | .mdrnExecute core => .mdrnExecute core
  | .thermalPeriod temps => .thermalPeriod temps
  | .launchTake q => .launchTake q
  | .levelChange q => .levelChange q
  | .queueBarrier q => .queueBarrier q
  | .contextFence q => .contextFence q
  | .launchQueueWrite addr x => .launchQueueWrite addr x
  | .startMessage m => .startMessage m
  | .doneNotice m => .doneNotice m
  | .checkRunAEnd tower idx => .checkRunAEnd tower idx
  | .checkRunBEnd tower idx => .checkRunBEnd tower idx
  | .commitTurn domain => .commitTurn domain
  | .chunkCommit pid => .chunkCommit pid
  | .logUnitWrite ctx => .logUnitWrite ctx
  | .logPadTimeout ctx => .logPadTimeout ctx
  | .logctlWrite ctx x => .logctlWrite ctx x
  | .logtailWrite ctx x => .logtailWrite ctx x
  | .logheadWrite ctx x => .logheadWrite ctx x
  | .channelSendAtHome m => .channelSendAtHome m
  | .channelReceiveAtHome m => .channelReceiveAtHome m
  | .sendRetry m => .sendRetry m
  | .drainQueryReply m elem stamp => .drainQueryReply m elem stamp
  | .tileTransfer t => .tileTransfer t
  | .selectClaim list index => .selectClaim list index
  | .timeoutFire pid => .timeoutFire pid
  | .channelTimeout pid => .channelTimeout pid
  | .withdrawal m => .withdrawal m
  | .spawnPlace m => .spawnPlace m
  | .barrierArrival m => .barrierArrival m
  | .handlerRequest m => .handlerRequest m
  | .faultPost ctx words => .faultPost ctx words
  | .fltresRetry core x => .fltresRetry core x
  | .fltresSkip core x => .fltresSkip core x
  | .fltresDiscard core x => .fltresDiscard core x
  | .contextEvict ctx => .contextEvict ctx
  | .contextRestore ctx => .contextRestore ctx
  | .triggerLatch ctx t => .triggerLatch ctx t
  | .deadlock => .deadlock
  | .collAnnounce a => .collAnnounce a
  | .announceRetry a => .announceRetry a
  | .chunkGrant cid chunk link => .chunkGrant cid chunk link
  | .chunkArbitration resource => .chunkArbitration resource
  | .collComplete cid num => .collComplete cid num
  | .trussPush r => .trussPush r
  | .trussPop r => .trussPop r
  | .trussQueueWrite addr x => .trussQueueWrite addr x
  | .linkFlit link f => .linkFlit link f
  | .linkReplay link lseq => .linkReplay link lseq
  | .linkRetrain link ok => .linkRetrain link ok
  | .hostBar0 offset data => .hostBar0 offset data
  | .hostLaunchWrite offset bytes => .hostLaunchWrite offset bytes
  | .hostAperture offset size data => .hostAperture offset size data
  | .msixSend vector => .msixSend vector
  | .hostReadCompletion tag status data => .hostReadCompletion tag status data
  | .hostReadTimeout tag => .hostReadTimeout tag
  | .hwakeExpire => .hwakeExpire
  | .powerOn => .powerOn
  | .bootStage result => .bootStage result
  | .bootWatchdog => .bootWatchdog
  | .reset => .reset
  | .recgo valid => .recgo valid
  | .calc => .calc
  | .attctlGo => .attctlGo
  | .attestDone => .attestDone
  | .powerCapStep watts => .powerCapStep watts
  | .thermalTrip => .thermalTrip
  | .tripRelease => .tripRelease
  | .blockRead offset => .blockRead offset
  | .blockWrite offset x => .blockWrite offset x
  | .registerWrite addr x => .registerWrite addr x
  | .loadReturn d => .loadReturn d
  | .linkUp link => .linkUp link
  | .lossOfPower => .lossOfPower

end Sys2Proof
end

