-- ==== Sys2Proof/WellFormed.lean ====
section
/-! DEFINITION. Which instructions are well formed: the checks that decoding makes on the fields of one word
(spec/10 R212, R218–R224; spec/12 R275, R286; spec/13 R317, R321; spec/14 R334, R338–R349, R360;
spec/15 R370, R396). Operations and events have no encoding and are always well formed. -/

namespace Sys2Proof

/-- Why a word is no instruction (R219). -/
inductive DecodeErr where
  | zeroWord          -- a C-word of 32 zero bits: ZERO_BUNDLE
  | reservedMajor     -- a cmaj or amaj that R220 and R223 do not list
  | reservedFunction  -- a function value that its row does not list
  | nonzeroField      -- a field that must be zero
  | scopeReserved     -- scope 7
  | typeReserved      -- a type code that the instruction does not accept
  | loneForm          -- L = 1 against R212
  | reservedValue     -- another value that its rule calls ILLEGAL_OP at decode
  deriving DecidableEq, Repr

/-- The system register indices that R321 lists. -/
def sysRegListed (i : Nat) : Bool :=
  i ∈ [0x001, 0x002, 0x010, 0x011, 0x012, 0x013, 0x014, 0x015, 0x020, 0x021, 0x022, 0x023, 0x024, 0x025, 0x026,
    0x027, 0x028, 0x029, 0x030, 0x040, 0x041, 0x042, 0x043, 0x044, 0x050, 0x051, 0x060, 0x061, 0x070, 0x071, 0x072,
    0x073, 0x074, 0x080, 0x081, 0x0F0, 0x100]

/-- The conversions that `vcvt` accepts (R347): source, destination. -/
def cvtPair (s t : LaneTy) : Bool :=
  match s with
  | .f32 => t ∈ [.s32, .n32, .s8, .n8, .s4, .n4, .bf16, .e4m3, .e2m1]
  | .s32 => t ∈ [.f32, .bf16, .s8, .s4]
  | .n32 => t ∈ [.f32, .bf16, .n8, .n4]
  | .bf16 | .e4m3 | .s8 | .n8 | .s4 | .n4 => t ∈ [.f32]
  | .e2m1 => t ∈ [.f32, .e4m3]
  | .c8 => t ∈ [.c4]
  | .c4 => t ∈ [.c8]

/-- What is wrong with an instruction's fields, if anything. -/
def illFormed (i : Instr) : Option DecodeErr :=
  match i with
  | .cnop l => if l.isSome && l != some 0 then some .loneForm else none
  | .halt l => if l.isSome && l != some 0 then some .loneForm else none
  | .brk l _ => if l.isSome && l != some 0 then some .loneForm else none
  | .br l _ => if l.isSome && l != some 0 then some .loneForm else none
  | .jal l _ => if l.isSome && l != some 0 then some .loneForm else none
  | .jr l _ => if l.isSome && l != some 0 then some .loneForm else none
  | .jalr l _ _ => if l.isSome && l != some 0 then some .loneForm else none
  | .beq l _ _ o => if l.isSome && o != 0 then some .loneForm else none
  | .bne l _ _ o => if l.isSome && o != 0 then some .loneForm else none
  | .bltS l _ _ o => if l.isSome && o != 0 then some .loneForm else none
  | .bgeS l _ _ o => if l.isSome && o != 0 then some .loneForm else none
  | .bltN l _ _ o => if l.isSome && o != 0 then some .loneForm else none
  | .bgeN l _ _ o => if l.isSome && o != 0 then some .loneForm else none
  | .lp l _ e => if (l = none && e == 0) || (l.isSome && (e != 0 || l == some 0)) then some .reservedValue else none
  | .lpi l c e => if e == 0 || (l.isSome && c != 0) then some .reservedValue else none
  | .ldbS l _ _ _ sc f => if sc = 7 then some .scopeReserved else if l.isSome && f != 0 then some .loneForm else none
  | .ldbN l _ _ _ sc f => if sc = 7 then some .scopeReserved else if l.isSome && f != 0 then some .loneForm else none
  | .ldhS l _ _ _ sc f => if sc = 7 then some .scopeReserved else if l.isSome && f != 0 then some .loneForm else none
  | .ldhN l _ _ _ sc f => if sc = 7 then some .scopeReserved else if l.isSome && f != 0 then some .loneForm else none
  | .ldwS l _ _ _ sc f => if sc = 7 then some .scopeReserved else if l.isSome && f != 0 then some .loneForm else none
  | .ldwN l _ _ _ sc f => if sc = 7 then some .scopeReserved else if l.isSome && f != 0 then some .loneForm else none
  | .ldd l _ _ _ sc f => if sc = 7 then some .scopeReserved else if l.isSome && f != 0 then some .loneForm else none
  | .stb l _ _ _ sc f => if sc = 7 then some .scopeReserved else if l.isSome && f != 0 then some .loneForm else none
  | .sth l _ _ _ sc f => if sc = 7 then some .scopeReserved else if l.isSome && f != 0 then some .loneForm else none
  | .stw l _ _ _ sc f => if sc = 7 then some .scopeReserved else if l.isSome && f != 0 then some .loneForm else none
  | .std l _ _ _ sc f => if sc = 7 then some .scopeReserved else if l.isSome && f != 0 then some .loneForm else none
  | .ldv l _ _ _ sc _ => if sc = 7 then some .scopeReserved else if l.isSome && l != some 0 then some .loneForm else none
  | .stv l _ _ _ sc _ => if sc = 7 then some .scopeReserved else if l.isSome && l != some 0 then some .loneForm else none
  | .rcl l _ _ _ sc => if sc = 7 then some .scopeReserved else if l.isSome && l != some 0 then some .loneForm else none
  | .vtag l _ _ _ sc => if sc = 7 then some .scopeReserved else if l.isSome && l != some 0 then some .loneForm else none
  | .vinit l _ _ _ sc _ => if sc = 7 then some .scopeReserved else if l.isSome && l != some 0 then some .loneForm else none
  | .aswp l _ _ _ _ sc => if sc = 7 then some .scopeReserved else if l.isSome && l != some 0 then some .loneForm else none
  | .aswpd l _ _ _ _ sc => if sc = 7 then some .scopeReserved else if l.isSome && l != some 0 then some .loneForm else none
  | .acas l _ _ _ _ sc => if sc = 7 then some .scopeReserved else if l.isSome && l != some 0 then some .loneForm else none
  | .acasd l _ _ _ _ sc => if sc = 7 then some .scopeReserved else if l.isSome && l != some 0 then some .loneForm else none
  | .aadd l _ _ _ _ sc => if sc = 7 then some .scopeReserved else if l.isSome && l != some 0 then some .loneForm else none
  | .aaddd l _ _ _ _ sc => if sc = 7 then some .scopeReserved else if l.isSome && l != some 0 then some .loneForm else none
  | .aand l _ _ _ _ sc => if sc = 7 then some .scopeReserved else if l.isSome && l != some 0 then some .loneForm else none
  | .aandd l _ _ _ _ sc => if sc = 7 then some .scopeReserved else if l.isSome && l != some 0 then some .loneForm else none
  | .aor l _ _ _ _ sc => if sc = 7 then some .scopeReserved else if l.isSome && l != some 0 then some .loneForm else none
  | .aord l _ _ _ _ sc => if sc = 7 then some .scopeReserved else if l.isSome && l != some 0 then some .loneForm else none
  | .axor l _ _ _ _ sc => if sc = 7 then some .scopeReserved else if l.isSome && l != some 0 then some .loneForm else none
  | .axord l _ _ _ _ sc => if sc = 7 then some .scopeReserved else if l.isSome && l != some 0 then some .loneForm else none
  | .amaxS l _ _ _ _ sc => if sc = 7 then some .scopeReserved else if l.isSome && l != some 0 then some .loneForm else none
  | .amaxdS l _ _ _ _ sc => if sc = 7 then some .scopeReserved else if l.isSome && l != some 0 then some .loneForm else none
  | .aminS l _ _ _ _ sc => if sc = 7 then some .scopeReserved else if l.isSome && l != some 0 then some .loneForm else none
  | .amindS l _ _ _ _ sc => if sc = 7 then some .scopeReserved else if l.isSome && l != some 0 then some .loneForm else none
  | .amaxN l _ _ _ _ sc => if sc = 7 then some .scopeReserved else if l.isSome && l != some 0 then some .loneForm else none
  | .amaxdN l _ _ _ _ sc => if sc = 7 then some .scopeReserved else if l.isSome && l != some 0 then some .loneForm else none
  | .aminN l _ _ _ _ sc => if sc = 7 then some .scopeReserved else if l.isSome && l != some 0 then some .loneForm else none
  | .amindN l _ _ _ _ sc => if sc = 7 then some .scopeReserved else if l.isSome && l != some 0 then some .loneForm else none
  | .afadd l _ _ _ _ sc => if sc = 7 then some .scopeReserved else if l.isSome && l != some 0 then some .loneForm else none
  | .afmax l _ _ _ _ sc => if sc = 7 then some .scopeReserved else if l.isSome && l != some 0 then some .loneForm else none
  | .afmin l _ _ _ _ sc => if sc = 7 then some .scopeReserved else if l.isSome && l != some 0 then some .loneForm else none
  | .fence l ord sc => if sc = 7 then some .scopeReserved else if l.isSome && l != some 0 then some .loneForm else if ord = .rlx || (sc = 0 && ord != .acq) then some .reservedValue else none
  | .waitc l _ _ _ _ _ => if l.isSome && l != some 0 then some .loneForm else none
  | .vld l _ _ _ _ _ => if l.isSome && l != some 0 then some .loneForm else none
  | .vst l _ _ _ _ _ => if l.isSome && l != some 0 then some .loneForm else none
  | .vldx l _ _ _ t _ => if l.isSome && l != some 0 then some .loneForm else if t ∉ [.f32, .s32, .n32, .bf16, .e4m3, .s8, .n8, .c8, .c4] then some .typeReserved else none
  | .vstx l _ _ _ t _ => if l.isSome && l != some 0 then some .loneForm else if t ∉ [.f32, .s32, .n32, .bf16, .e4m3, .s8, .n8, .c8, .c4] then some .typeReserved else none
  | .csend l _ _ _ => if l.isSome && l != some 0 then some .loneForm else none
  | .crecv l _ _ _ => if l.isSome && l != some 0 then some .loneForm else none
  | .csendb l _ _ _ => if l.isSome && l != some 0 then some .loneForm else none
  | .crecvb l _ _ _ => if l.isSome && l != some 0 then some .loneForm else none
  | .csendt l _ _ _ => if l.isSome && l != some 0 then some .loneForm else none
  | .crecvt l _ _ _ => if l.isSome && l != some 0 then some .loneForm else none
  | .cpoll l _ _ => if l.isSome && l != some 0 then some .loneForm else none
  | .cclose l _ => if l.isSome && l != some 0 then some .loneForm else none
  | .csendp l _ _ _ => if l.isSome && l != some 0 then some .loneForm else none
  | .crecvp l _ _ _ => if l.isSome && l != some 0 then some .loneForm else none
  | .chsel l _ b _ => if l.isSome && b != 0 then some .loneForm else none
  | .chnew l _ b => if l.isSome && b != 0 then some .loneForm else none
  | .chdel l b => if l.isSome && b != 0 then some .loneForm else none
  | .spawn l _ _ _ => if l.isSome && l != some 0 then some .loneForm else none
  | .spawnk l _ _ _ => if l.isSome && l != some 0 then some .loneForm else none
  | .callat l _ _ _ => if l.isSome && l != some 0 then some .loneForm else none
  | .fork l _ => if l.isSome && l != some 0 then some .loneForm else none
  | .join l _ => if l.isSome && l != some 0 then some .loneForm else none
  | .jinit l _ _ => if l.isSome && l != some 0 then some .loneForm else none
  | .yield l => if l.isSome && l != some 0 then some .loneForm else none
  | .park l _ _ => if l.isSome && l != some 0 then some .loneForm else none
  | .exit l _ => if l.isSome && l != some 0 then some .loneForm else none
  | .chprio l _ => if l.isSome && l != some 0 then some .loneForm else none
  | .binit l _ _ => if l.isSome && l != some 0 then some .loneForm else none
  | .barr l _ _ => if l.isSome && l != some 0 then some .loneForm else none
  | .barw l _ _ => if l.isSome && l != some 0 then some .loneForm else none
  | .ginit l _ _ => if l.isSome && l != some 0 then some .loneForm else none
  | .gkill l _ => if l.isSome && l != some 0 then some .loneForm else none
  | .gquery l _ _ => if l.isSome && l != some 0 then some .loneForm else none
  | .mfs l _ i => if l.isSome && l != some 0 then some .loneForm else if ¬ sysRegListed i.toNat then some .reservedValue else none
  | .mts l _ i => if l.isSome && l != some 0 then some .loneForm else if ¬ sysRegListed i.toNat then some .reservedValue else none
  | .trap l _ => if l.isSome && l != some 0 then some .loneForm else none
  | .tret l => if l.isSome && l != some 0 then some .loneForm else none
  | .xinv l _ k => if l.isSome && l != some 0 then some .loneForm else if 3 < k.toNat then some .reservedValue else none
  | .mreq l _ => if l.isSome then some .loneForm else none
  | .mrel l => if l.isSome then some .loneForm else none
  | .mfmt l _ => if l.isSome then some .loneForm else none
  | .mscl l _ b => if l.isSome && b != 0 then some .loneForm else none
  | .mlid l b => if l.isSome && b != 0 then some .loneForm else none
  | .mclr l _ => if l.isSome then some .loneForm else none
  | .mmac l _ b => if l.isSome && b != 0 then some .loneForm else none
  | .mmacc l _ b => if l.isSome && b != 0 then some .loneForm else none
  | .mmacj l _ b => if l.isSome && b != 0 then some .loneForm else none
  | .mdrn l _ b => if l.isSome && b != 0 then some .loneForm else none
  | .cpy l _ b _ => if l.isSome && b != 0 then some .loneForm else none
  | .tcpy l _ b _ => if l.isSome && b != 0 then some .loneForm else none
  | .deal l _ b _ => if l.isSome && b != 0 then some .loneForm else none
  | .gath l _ b _ => if l.isSome && b != 0 then some .loneForm else none
  | .cpost l _ b => if l.isSome && b != 0 then some .loneForm else none
  | .fgload l _ b => if l.isSome && b != 0 then some .loneForm else none
  | .vclaim l _ _ _ => if l.isSome && l != some 0 then some .loneForm else none
  | .vrenew l _ _ _ => if l.isSome && l != some 0 then some .loneForm else none
  | .vrel l => if l.isSome && l != some 0 then some .loneForm else none
  | .vloop l n _ => if l.isSome && l != some 0 then some .loneForm else if n = 0 || 16 < n.toNat then some .reservedValue else none
  | .vbind l _ => if l.isSome && l != some 0 then some .loneForm else none
  | .vunbind l _ => if l.isSome && l != some 0 then some .loneForm else none
  | .lic _ _ _ => none
  | .ldnS l _ _ _ _ sc => if sc = 7 then some .scopeReserved else if l.isSome && l != some 0 then some .loneForm else none
  | .ldnN l _ _ _ _ sc => if sc = 7 then some .scopeReserved else if l.isSome && l != some 0 then some .loneForm else none
  | .stn l _ _ _ _ sc => if sc = 7 then some .scopeReserved else if l.isSome && l != some 0 then some .loneForm else none
  | .sgen l _ b => if l.isSome && b != 0 then some .loneForm else none
  | .srun _ _ => none
  | .sstat _ _ _ => none
  | .hload l _ b => if l.isSome && b != 0 then some .loneForm else none
  | .hstart l _ b => if l.isSome && b != 0 then some .loneForm else none
  | .anop => none
  | .add _ _ _ => none
  | .sub _ _ _ => none
  | .andR _ _ _ => none
  | .orR _ _ _ => none
  | .xor _ _ _ => none
  | .andn _ _ _ => none
  | .sll _ _ _ => none
  | .srl _ _ _ => none
  | .sra _ _ _ => none
  | .rol _ _ _ => none
  | .addw _ _ _ => none
  | .subw _ _ _ => none
  | .addsS _ _ _ => none
  | .addsN _ _ _ => none
  | .subsS _ _ _ => none
  | .subsN _ _ _ => none
  | .addi _ _ _ => none
  | .andi _ _ _ => none
  | .ori _ _ _ => none
  | .xori _ _ _ => none
  | .slli _ _ _ => none
  | .srli _ _ _ => none
  | .srai _ _ _ => none
  | .roli _ _ _ => none
  | .mul _ _ _ => none
  | .mulhS _ _ _ => none
  | .mulhN _ _ _ => none
  | .mulw _ _ _ => none
  | .divS _ _ _ => none
  | .divN _ _ _ => none
  | .remS _ _ _ => none
  | .remN _ _ _ => none
  | .seq _ _ _ => none
  | .sne _ _ _ => none
  | .sltS _ _ _ => none
  | .sleS _ _ _ => none
  | .sltN _ _ _ => none
  | .sleN _ _ _ => none
  | .minS _ _ _ => none
  | .maxS _ _ _ => none
  | .minN _ _ _ => none
  | .maxN _ _ _ => none
  | .sel _ _ _ _ => none
  | .clz _ _ => none
  | .ctz _ _ => none
  | .popc _ _ => none
  | .brev _ _ => none
  | .bswap _ _ => none
  | .sextB _ _ => none
  | .sextH _ _ => none
  | .sextW _ _ => none
  | .zextW _ _ => none
  | .bext _ _ _ => none
  | .bins _ _ _ => none
  | .lui _ _ _ => none
  | .fadd _ _ _ => none
  | .fsub _ _ _ => none
  | .fmul _ _ _ => none
  | .fdiv _ _ _ => none
  | .fsqrt _ _ => none
  | .fmin _ _ _ => none
  | .fmax _ _ _ => none
  | .fmint _ _ _ => none
  | .fmaxt _ _ _ => none
  | .fabs _ _ => none
  | .fneg _ _ => none
  | .fsgnj _ _ _ => none
  | .fmadd _ _ _ _ => none
  | .fmsub _ _ _ _ => none
  | .fnmadd _ _ _ _ => none
  | .fnmsub _ _ _ _ => none
  | .feq _ _ _ => none
  | .flt _ _ _ => none
  | .fle _ _ _ => none
  | .funord _ _ _ => none
  | .fclass _ _ => none
  | .fkey _ _ => none
  | .fcvtF32S32 _ _ => none
  | .fcvtF32S64 _ _ => none
  | .fcvtS32F32 _ _ => none
  | .fcvtS64F32 _ _ => none
  | .fcvtF32Bf16 _ _ => none
  | .fcvtBf16F32 _ _ => none
  | .fcvtF32E4m3 _ _ => none
  | .fcvtE4m3F32 _ _ => none
  | .fcvtF32E2m1 _ _ => none
  | .fcvtE2m1F32 _ _ => none
  | .fcvtF32N32 _ _ => none
  | .fcvtN32F32 _ _ => none
  | .vadd _ _ _ _ t => if t ∉ [.f32, .s32, .n32] then some .typeReserved else none
  | .vsub _ _ _ _ t => if t ∉ [.f32, .s32, .n32] then some .typeReserved else none
  | .vmul _ _ _ _ t => if t ∉ [.f32, .s32, .n32] then some .typeReserved else none
  | .vdiv _ _ _ _ t => if t ∉ [.f32] then some .typeReserved else none
  | .vmin _ _ _ _ t => if t ∉ [.f32, .s32, .n32] then some .typeReserved else none
  | .vmax _ _ _ _ t => if t ∉ [.f32, .s32, .n32] then some .typeReserved else none
  | .vand _ _ _ _ t => if t ∉ [.f32, .s32, .n32] then some .typeReserved else none
  | .vor _ _ _ _ t => if t ∉ [.f32, .s32, .n32] then some .typeReserved else none
  | .vxor _ _ _ _ t => if t ∉ [.f32, .s32, .n32] then some .typeReserved else none
  | .vsll _ _ _ _ t => if t ∉ [.s32, .n32] then some .typeReserved else none
  | .vsrl _ _ _ _ t => if t ∉ [.s32, .n32] then some .typeReserved else none
  | .vsra _ _ _ _ t => if t ∉ [.s32, .n32] then some .typeReserved else none
  | .vabs _ _ _ t => if t ∉ [.f32, .s32] then some .typeReserved else none
  | .vneg _ _ _ t => if t ∉ [.f32, .s32] then some .typeReserved else none
  | .vadds _ _ _ _ t => if t ∉ [.s32, .n32] then some .typeReserved else none
  | .vsubs _ _ _ _ t => if t ∉ [.s32, .n32] then some .typeReserved else none
  | .vfma _ _ _ _ _ => none
  | .vfms _ _ _ _ _ => none
  | .vfnma _ _ _ _ _ => none
  | .vfnms _ _ _ _ _ => none
  | .vmadS _ _ _ _ _ => none
  | .vmadN _ _ _ _ _ => none
  | .veq _ _ _ _ t => if t ∉ [.f32, .s32, .n32] then some .typeReserved else none
  | .vne _ _ _ _ t => if t ∉ [.f32, .s32, .n32] then some .typeReserved else none
  | .vlt _ _ _ _ t => if t ∉ [.f32, .s32, .n32] then some .typeReserved else none
  | .vle _ _ _ _ t => if t ∉ [.f32, .s32, .n32] then some .typeReserved else none
  | .vunord _ _ _ _ t => if t ∉ [.f32] then some .typeReserved else none
  | .vltt _ _ _ _ t => if t ∉ [.f32] then some .typeReserved else none
  | .vmov _ _ _ => none
  | .vbcast _ _ _ => none
  | .vrot _ _ _ _ => none
  | .vshuf _ _ _ _ => none
  | .vcomp _ _ _ => none
  | .vexpd _ _ _ => none
  | .vins _ _ _ => none
  | .vext _ _ _ => none
  | .vcvt _ _ _ t s => if ¬ cvtPair s t then some .typeReserved else none
  | .vexp _ _ _ => none
  | .vexp2 _ _ _ => none
  | .vlog _ _ _ => none
  | .vlog2 _ _ _ => none
  | .vrcp _ _ _ => none
  | .vsqrt _ _ _ => none
  | .vrsqrt _ _ _ => none
  | .vsin _ _ _ => none
  | .vcos _ _ _ => none
  | .vtanh _ _ _ => none
  | .vsigm _ _ _ => none
  | .verf _ _ _ => none
  | .vrsum _ _ _ t => if t ∉ [.f32, .s32, .n32] then some .typeReserved else none
  | .vrmax _ _ _ t => if t ∉ [.f32, .s32, .n32] then some .typeReserved else none
  | .vrmin _ _ _ t => if t ∉ [.f32, .s32, .n32] then some .typeReserved else none
  | .vrmaxt _ _ _ t => if t ∉ [.f32] then some .typeReserved else none
  | .vrmint _ _ _ t => if t ∉ [.f32] then some .typeReserved else none
  | .vrand _ _ _ t => if t ∉ [.s32, .n32] then some .typeReserved else none
  | .vror _ _ _ t => if t ∉ [.s32, .n32] then some .typeReserved else none
  | .vrxor _ _ _ t => if t ∉ [.s32, .n32] then some .typeReserved else none
  | .vskq _ _ _ t => if t ∉ [.f32, .s32, .n32] then some .typeReserved else none
  | .vskh _ _ _ t => if t ∉ [.f32, .s32, .n32] then some .typeReserved else none
  | .vskd _ _ _ t => if t ∉ [.f32, .s32, .n32] then some .typeReserved else none
  | .skinit _ _ => none
  | .skmerge _ _ => none
  | .skquant _ _ _ => none
  | .skrank _ _ _ => none
  | .skest _ _ _ => none
  | .skcount _ _ => none
  | .mand _ _ _ => none
  | .mor _ _ _ => none
  | .mxor _ _ _ => none
  | .mandn _ _ _ => none
  | .mnot _ _ => none
  | .mpop _ _ => none
  | .mfrst _ _ => none
  | .mfromg _ _ => none
  | .mtog _ _ => none
  | .xend => none
  | .xadd _ _ _ t => if 2 < t.toNat then some .reservedValue else none
  | .xmax _ _ _ t => if 2 < t.toNat then some .reservedValue else none
  | .xmin _ _ _ t => if 2 < t.toNat then some .reservedValue else none
  | .xmx6 d a b => if 13 < d.toNat || 13 < a.toNat || 13 < b.toNat then some .reservedValue else none
  | .xpack _ _ _ => none
  | .xunpk _ _ _ => none
  | .xmov _ _ => none
  | .xrecv _ _ => none
  | .xemit _ o => if o = 3 then some .reservedValue else none
  | .sequencerTrap _ _ _ => none
  | .sequencerEntry _ => none
  | .streamItem _ _ => none
  | .ownerAccess _ => none
  | .subByteStore _ => none
  | .versionedStoreAtOwner _ => none
  | .versionedLoadAtOwner _ => none
  | .reclaimAtOwner _ => none
  | .initialiseAtOwner _ => none
  | .heldCompletion _ => none
  | .waiterRetry _ => none
  | .acknowledgement _ => none
  | .widen _ => none
  | .widened _ => none
  | .released _ => none
  | .translationWalk _ _ _ _ => none
  | .engineBeat _ => none
  | .commandCompletion _ _ => none
  | .msRequest _ => none
  | .msReply _ => none
  | .frameReceive _ _ => none
  | .pfcRepeat _ _ => none
  | .pfcFrame _ _ _ => none
  | .pfcQuantaExpire _ _ => none
  | .ingestDeposit _ _ => none
  | .ringDescriptorWrite _ _ => none
  | .portRegisterWrite _ _ => none
  | .frameTransmit _ _ => none
  | .partGo _ => none
  | .drainComplete => none
  | .drainTimeout => none
  | .flushComplete => none
  | .powerComplete => none
  | .enumerate => none
  | .roleChangeStop => none
  | .frzctlResume _ => none
  | .frzctlDiscard _ => none
  | .peerRequest _ => none
  | .peerErrorReply _ => none
  | .poolHeadWrite _ _ => none
  | .recfree _ _ => none
  | .slotFill _ => none
  | .spillParked _ => none
  | .preempt _ => none
  | .spillComplete _ => none
  | .taskSteal _ => none
  | .laneGrant _ => none
  | .leaseGrant _ => none
  | .mrelEffect _ => none
  | .mfmtExecute _ => none
  | .mmacExecute _ => none
  | .mlidExecute _ => none
  | .mclrExecute _ => none
  | .mdrnExecute _ => none
  | .thermalPeriod _ => none
  | .launchTake _ => none
  | .levelChange _ => none
  | .queueBarrier _ => none
  | .contextFence _ => none
  | .launchQueueWrite _ _ => none
  | .startMessage _ => none
  | .doneNotice _ => none
  | .checkRunAEnd _ _ => none
  | .checkRunBEnd _ _ => none
  | .commitTurn _ => none
  | .chunkCommit _ => none
  | .logUnitWrite _ => none
  | .logPadTimeout _ => none
  | .logctlWrite _ _ => none
  | .logtailWrite _ _ => none
  | .logheadWrite _ _ => none
  | .channelSendAtHome _ => none
  | .channelReceiveAtHome _ => none
  | .sendRetry _ => none
  | .drainQueryReply _ _ _ => none
  | .tileTransfer _ => none
  | .selectClaim _ _ => none
  | .timeoutFire _ => none
  | .channelTimeout _ => none
  | .withdrawal _ => none
  | .spawnPlace _ => none
  | .barrierArrival _ => none
  | .handlerRequest _ => none
  | .faultPost _ _ => none
  | .fltresRetry _ _ => none
  | .fltresSkip _ _ => none
  | .fltresDiscard _ _ => none
  | .contextEvict _ => none
  | .contextRestore _ => none
  | .triggerLatch _ _ => none
  | .deadlock => none
  | .collAnnounce _ => none
  | .announceRetry _ => none
  | .chunkGrant _ _ _ => none
  | .chunkArbitration _ => none
  | .collComplete _ _ => none
  | .trussPush _ => none
  | .trussPop _ => none
  | .trussQueueWrite _ _ => none
  | .linkFlit _ _ => none
  | .linkReplay _ _ => none
  | .linkRetrain _ _ => none
  | .hostBar0 _ _ => none
  | .hostLaunchWrite _ _ => none
  | .hostAperture _ _ _ => none
  | .msixSend _ => none
  | .hostReadCompletion _ _ _ => none
  | .hostReadTimeout _ => none
  | .hwakeExpire => none
  | .powerOn => none
  | .bootStage _ => none
  | .bootWatchdog => none
  | .reset => none
  | .recgo _ => none
  | .calc => none
  | .attctlGo => none
  | .attestDone => none
  | .powerCapStep _ => none
  | .thermalTrip => none
  | .tripRelease => none
  | .blockRead _ => none
  | .blockWrite _ _ => none
  | .registerWrite _ _ => none
  | .loadReturn _ => none
  | .linkUp _ => none
  | .lossOfPower => none

/-- An instruction is well formed when decoding has nothing against it. -/
def wellFormed (i : Instr) : Bool := illFormed i = none

end Sys2Proof
end

