-- ==== Sys2Proof/Decode.lean ====
section
/-! DEFINITION. The decoder, total on any words and rejecting by name, and the encoder, both from the formats
and opcode maps of spec/10 (R211–R224) and the fabric map of spec/15 (R396). A word's fields are read by
their bit positions; a must-be-zero field is checked before the instruction is built. -/

namespace Sys2Proof

/-- Bits [lo + len − 1 : lo] of a word (R4). -/
def bitsOf (w lo len : Nat) : Nat := w / 2 ^ lo % 2 ^ len

/-- The same bits as a field. -/
def fld (w lo len : Nat) : BitVec len := BitVec.ofNat len (w / 2 ^ lo)

/-- Fields that must be zero (R219). -/
def zeros (fs : List Nat) (r : Except DecodeErr Instr) : Except DecodeErr Instr :=
  if fs.all (· == 0) then r else .error .nonzeroField

/-- A type field (R224). -/
def typed (c : BitVec 4) (k : LaneTy → Except DecodeErr Instr) : Except DecodeErr Instr :=
  match LaneTy.ofCode c with
  | some t => k t
  | none => .error .typeReserved

/-- The checks of `illFormed`. -/
def checked (i : Instr) : Except DecodeErr Instr :=
  match illFormed i with
  | none => .ok i
  | some e => .error e

/-- cmaj 0x01 (R271). -/
def decodeC01 (w : Nat) (l : Lone) : Except DecodeErr Instr :=
  match bitsOf w 22 3 with
  | 0 => zeros [bitsOf w 0 22] (checked (.cnop l))
  | 1 => zeros [bitsOf w 0 22] (checked (.halt l))
  | 2 => checked (.brk l (fld w 0 22))
  | _ => .error .reservedFunction

/-- cmaj 0x02 (R272). -/
def decodeC02 (w : Nat) (l : Lone) : Except DecodeErr Instr :=
  checked (.br l (fld w 0 25))

/-- cmaj 0x03 (R272). -/
def decodeC03 (w : Nat) (l : Lone) : Except DecodeErr Instr :=
  checked (.jal l (fld w 0 25))

/-- cmaj 0x04 (R272). -/
def decodeC04 (w : Nat) (l : Lone) : Except DecodeErr Instr :=
  match bitsOf w 0 10 with
  | 0 => zeros [bitsOf w 10 5, bitsOf w 20 5] (checked (.jr l (fld w 15 5)))
  | 1 => zeros [bitsOf w 10 5] (checked (.jalr l (fld w 20 5) (fld w 15 5)))
  | _ => .error .reservedFunction

/-- cmaj 0x05 (R273). -/
def decodeC05 (w : Nat) (l : Lone) : Except DecodeErr Instr :=
  checked (.beq l (fld w 20 5) (fld w 15 5) (fld w 0 15))

/-- cmaj 0x06 (R273). -/
def decodeC06 (w : Nat) (l : Lone) : Except DecodeErr Instr :=
  checked (.bne l (fld w 20 5) (fld w 15 5) (fld w 0 15))

/-- cmaj 0x07 (R273). -/
def decodeC07 (w : Nat) (l : Lone) : Except DecodeErr Instr :=
  checked (.bltS l (fld w 20 5) (fld w 15 5) (fld w 0 15))

/-- cmaj 0x08 (R273). -/
def decodeC08 (w : Nat) (l : Lone) : Except DecodeErr Instr :=
  checked (.bgeS l (fld w 20 5) (fld w 15 5) (fld w 0 15))

/-- cmaj 0x09 (R273). -/
def decodeC09 (w : Nat) (l : Lone) : Except DecodeErr Instr :=
  checked (.bltN l (fld w 20 5) (fld w 15 5) (fld w 0 15))

/-- cmaj 0x0A (R273). -/
def decodeC0A (w : Nat) (l : Lone) : Except DecodeErr Instr :=
  checked (.bgeN l (fld w 20 5) (fld w 15 5) (fld w 0 15))

/-- cmaj 0x0B (R275). -/
def decodeC0B (w : Nat) (l : Lone) : Except DecodeErr Instr :=
  zeros [bitsOf w 15 5] (checked (.lp l (fld w 20 5) (fld w 0 15)))

/-- cmaj 0x0C (R275). -/
def decodeC0C (w : Nat) (l : Lone) : Except DecodeErr Instr :=
  checked (.lpi l (fld w 15 10) (fld w 0 15))

/-- cmaj 0x0D (R278). -/
def decodeC0D (w : Nat) (l : Lone) : Except DecodeErr Instr :=
  checked (.ldbS l (fld w 20 5) (fld w 15 5) (.ofCode (fld w 13 2)) (fld w 10 3) (fld w 0 10))

/-- cmaj 0x0E (R278). -/
def decodeC0E (w : Nat) (l : Lone) : Except DecodeErr Instr :=
  checked (.ldbN l (fld w 20 5) (fld w 15 5) (.ofCode (fld w 13 2)) (fld w 10 3) (fld w 0 10))

/-- cmaj 0x0F (R278). -/
def decodeC0F (w : Nat) (l : Lone) : Except DecodeErr Instr :=
  checked (.ldhS l (fld w 20 5) (fld w 15 5) (.ofCode (fld w 13 2)) (fld w 10 3) (fld w 0 10))

/-- cmaj 0x10 (R278). -/
def decodeC10 (w : Nat) (l : Lone) : Except DecodeErr Instr :=
  checked (.ldhN l (fld w 20 5) (fld w 15 5) (.ofCode (fld w 13 2)) (fld w 10 3) (fld w 0 10))

/-- cmaj 0x11 (R278). -/
def decodeC11 (w : Nat) (l : Lone) : Except DecodeErr Instr :=
  checked (.ldwS l (fld w 20 5) (fld w 15 5) (.ofCode (fld w 13 2)) (fld w 10 3) (fld w 0 10))

/-- cmaj 0x12 (R278). -/
def decodeC12 (w : Nat) (l : Lone) : Except DecodeErr Instr :=
  checked (.ldwN l (fld w 20 5) (fld w 15 5) (.ofCode (fld w 13 2)) (fld w 10 3) (fld w 0 10))

/-- cmaj 0x13 (R278). -/
def decodeC13 (w : Nat) (l : Lone) : Except DecodeErr Instr :=
  checked (.ldd l (fld w 20 5) (fld w 15 5) (.ofCode (fld w 13 2)) (fld w 10 3) (fld w 0 10))

/-- cmaj 0x14 (R278). -/
def decodeC14 (w : Nat) (l : Lone) : Except DecodeErr Instr :=
  checked (.stb l (fld w 20 5) (fld w 15 5) (.ofCode (fld w 13 2)) (fld w 10 3) (fld w 0 10))

/-- cmaj 0x15 (R278). -/
def decodeC15 (w : Nat) (l : Lone) : Except DecodeErr Instr :=
  checked (.sth l (fld w 20 5) (fld w 15 5) (.ofCode (fld w 13 2)) (fld w 10 3) (fld w 0 10))

/-- cmaj 0x16 (R278). -/
def decodeC16 (w : Nat) (l : Lone) : Except DecodeErr Instr :=
  checked (.stw l (fld w 20 5) (fld w 15 5) (.ofCode (fld w 13 2)) (fld w 10 3) (fld w 0 10))

/-- cmaj 0x17 (R278). -/
def decodeC17 (w : Nat) (l : Lone) : Except DecodeErr Instr :=
  checked (.std l (fld w 20 5) (fld w 15 5) (.ofCode (fld w 13 2)) (fld w 10 3) (fld w 0 10))

/-- cmaj 0x18 (R281). -/
def decodeC18 (w : Nat) (l : Lone) : Except DecodeErr Instr :=
  zeros [bitsOf w 0 5] (checked (.ldv l (fld w 20 5) (fld w 15 5) (.ofCode (fld w 13 2)) (fld w 10 3) (fld w 5 5)))

/-- cmaj 0x19 (R281). -/
def decodeC19 (w : Nat) (l : Lone) : Except DecodeErr Instr :=
  zeros [bitsOf w 0 5] (checked (.stv l (fld w 20 5) (fld w 15 5) (.ofCode (fld w 13 2)) (fld w 10 3) (fld w 5 5)))

/-- cmaj 0x1A (R282). -/
def decodeC1A (w : Nat) (l : Lone) : Except DecodeErr Instr :=
  match bitsOf w 2 3 with
  | 0 => zeros [bitsOf w 0 2, bitsOf w 20 5] (checked (.rcl l (fld w 15 5) (fld w 10 5) (.ofCode (fld w 8 2)) (fld w 5 3)))
  | 1 => zeros [bitsOf w 0 2, bitsOf w 10 5] (checked (.vtag l (fld w 20 5) (fld w 15 5) (.ofCode (fld w 8 2)) (fld w 5 3)))
  | 2 => zeros [bitsOf w 20 5] (checked (.vinit l (fld w 15 5) (fld w 10 5) (.ofCode (fld w 8 2)) (fld w 5 3) (fld w 0 2)))
  | _ => .error .reservedFunction

/-- cmaj 0x1B (R284). -/
def decodeC1B (w : Nat) (l : Lone) : Except DecodeErr Instr :=
  match bitsOf w 0 5 with
  | 0 => checked (.aswp l (fld w 20 5) (fld w 15 5) (fld w 10 5) (.ofCode (fld w 8 2)) (fld w 5 3))
  | 1 => checked (.aswpd l (fld w 20 5) (fld w 15 5) (fld w 10 5) (.ofCode (fld w 8 2)) (fld w 5 3))
  | 2 => checked (.acas l (fld w 20 5) (fld w 15 5) (fld w 10 5) (.ofCode (fld w 8 2)) (fld w 5 3))
  | 3 => checked (.acasd l (fld w 20 5) (fld w 15 5) (fld w 10 5) (.ofCode (fld w 8 2)) (fld w 5 3))
  | 4 => checked (.aadd l (fld w 20 5) (fld w 15 5) (fld w 10 5) (.ofCode (fld w 8 2)) (fld w 5 3))
  | 5 => checked (.aaddd l (fld w 20 5) (fld w 15 5) (fld w 10 5) (.ofCode (fld w 8 2)) (fld w 5 3))
  | 6 => checked (.aand l (fld w 20 5) (fld w 15 5) (fld w 10 5) (.ofCode (fld w 8 2)) (fld w 5 3))
  | 7 => checked (.aandd l (fld w 20 5) (fld w 15 5) (fld w 10 5) (.ofCode (fld w 8 2)) (fld w 5 3))
  | 8 => checked (.aor l (fld w 20 5) (fld w 15 5) (fld w 10 5) (.ofCode (fld w 8 2)) (fld w 5 3))
  | 9 => checked (.aord l (fld w 20 5) (fld w 15 5) (fld w 10 5) (.ofCode (fld w 8 2)) (fld w 5 3))
  | 10 => checked (.axor l (fld w 20 5) (fld w 15 5) (fld w 10 5) (.ofCode (fld w 8 2)) (fld w 5 3))
  | 11 => checked (.axord l (fld w 20 5) (fld w 15 5) (fld w 10 5) (.ofCode (fld w 8 2)) (fld w 5 3))
  | 12 => checked (.amaxS l (fld w 20 5) (fld w 15 5) (fld w 10 5) (.ofCode (fld w 8 2)) (fld w 5 3))
  | 13 => checked (.amaxdS l (fld w 20 5) (fld w 15 5) (fld w 10 5) (.ofCode (fld w 8 2)) (fld w 5 3))
  | 14 => checked (.aminS l (fld w 20 5) (fld w 15 5) (fld w 10 5) (.ofCode (fld w 8 2)) (fld w 5 3))
  | 15 => checked (.amindS l (fld w 20 5) (fld w 15 5) (fld w 10 5) (.ofCode (fld w 8 2)) (fld w 5 3))
  | 16 => checked (.amaxN l (fld w 20 5) (fld w 15 5) (fld w 10 5) (.ofCode (fld w 8 2)) (fld w 5 3))
  | 17 => checked (.amaxdN l (fld w 20 5) (fld w 15 5) (fld w 10 5) (.ofCode (fld w 8 2)) (fld w 5 3))
  | 18 => checked (.aminN l (fld w 20 5) (fld w 15 5) (fld w 10 5) (.ofCode (fld w 8 2)) (fld w 5 3))
  | 19 => checked (.amindN l (fld w 20 5) (fld w 15 5) (fld w 10 5) (.ofCode (fld w 8 2)) (fld w 5 3))
  | 20 => checked (.afadd l (fld w 20 5) (fld w 15 5) (fld w 10 5) (.ofCode (fld w 8 2)) (fld w 5 3))
  | 21 => checked (.afmax l (fld w 20 5) (fld w 15 5) (fld w 10 5) (.ofCode (fld w 8 2)) (fld w 5 3))
  | 22 => checked (.afmin l (fld w 20 5) (fld w 15 5) (fld w 10 5) (.ofCode (fld w 8 2)) (fld w 5 3))
  | _ => .error .reservedFunction

/-- cmaj 0x1C (R286). -/
def decodeC1C (w : Nat) (l : Lone) : Except DecodeErr Instr :=
  zeros [bitsOf w 0 10, bitsOf w 15 10] (checked (.fence l (.ofCode (fld w 13 2)) (fld w 10 3)))

/-- cmaj 0x1D (R287). -/
def decodeC1D (w : Nat) (l : Lone) : Except DecodeErr Instr :=
  checked (.waitc l (fld w 20 5) (fld w 15 5) (fld w 10 5) (fld w 5 5) (fld w 0 5))

/-- cmaj 0x1E (R338). -/
def decodeC1E (w : Nat) (l : Lone) : Except DecodeErr Instr :=
  match bitsOf w 9 1 with
  | 0 => zeros [bitsOf w 0 2] (typed (fld w 5 4) fun tT => checked (.vld l (fld w 20 5) (fld w 15 5) (fld w 10 5) tT (fld w 2 3)))
  | _ => zeros [bitsOf w 0 2] (typed (fld w 5 4) fun tT => checked (.vst l (fld w 20 5) (fld w 15 5) (fld w 10 5) tT (fld w 2 3)))

/-- cmaj 0x1F (R340). -/
def decodeC1F (w : Nat) (l : Lone) : Except DecodeErr Instr :=
  match bitsOf w 9 1 with
  | 0 => zeros [bitsOf w 0 2] (typed (fld w 5 4) fun tT => checked (.vldx l (fld w 20 5) (fld w 15 5) (fld w 10 5) tT (fld w 2 3)))
  | _ => zeros [bitsOf w 0 2] (typed (fld w 5 4) fun tT => checked (.vstx l (fld w 20 5) (fld w 15 5) (fld w 10 5) tT (fld w 2 3)))

/-- cmaj 0x20 (R290). -/
def decodeC20 (w : Nat) (l : Lone) : Except DecodeErr Instr :=
  match bitsOf w 0 10 with
  | 0 => checked (.csend l (fld w 20 5) (fld w 15 5) (fld w 10 5))
  | 1 => checked (.crecv l (fld w 20 5) (fld w 15 5) (fld w 10 5))
  | 2 => checked (.csendb l (fld w 20 5) (fld w 15 5) (fld w 10 5))
  | 3 => checked (.crecvb l (fld w 20 5) (fld w 15 5) (fld w 10 5))
  | 4 => checked (.csendt l (fld w 20 5) (fld w 15 5) (fld w 10 5))
  | 5 => checked (.crecvt l (fld w 20 5) (fld w 15 5) (fld w 10 5))
  | 6 => zeros [bitsOf w 10 5] (checked (.cpoll l (fld w 20 5) (fld w 15 5)))
  | 7 => zeros [bitsOf w 10 5, bitsOf w 20 5] (checked (.cclose l (fld w 15 5)))
  | 8 => checked (.csendp l (fld w 20 5) (fld w 15 5) (fld w 10 5))
  | 9 => checked (.crecvp l (fld w 20 5) (fld w 15 5) (fld w 10 5))
  | _ => .error .reservedFunction

/-- cmaj 0x21 (R301). -/
def decodeC21 (w : Nat) (l : Lone) : Except DecodeErr Instr :=
  zeros [bitsOf w 1 9, bitsOf w 15 5] (checked (.chsel l (fld w 20 5) (fld w 10 5) (fld w 0 1)))

/-- cmaj 0x22 (R298). -/
def decodeC22 (w : Nat) (l : Lone) : Except DecodeErr Instr :=
  match bitsOf w 0 10 with
  | 0 => zeros [bitsOf w 15 5] (checked (.chnew l (fld w 20 5) (fld w 10 5)))
  | 1 => zeros [bitsOf w 15 10] (checked (.chdel l (fld w 10 5)))
  | _ => .error .reservedFunction

/-- cmaj 0x23 (R303). -/
def decodeC23 (w : Nat) (l : Lone) : Except DecodeErr Instr :=
  match bitsOf w 0 10 with
  | 0 => checked (.spawn l (fld w 20 5) (fld w 15 5) (fld w 10 5))
  | 1 => checked (.spawnk l (fld w 20 5) (fld w 15 5) (fld w 10 5))
  | 2 => checked (.callat l (fld w 20 5) (fld w 15 5) (fld w 10 5))
  | 3 => zeros [bitsOf w 10 5, bitsOf w 20 5] (checked (.fork l (fld w 15 5)))
  | 4 => zeros [bitsOf w 10 5, bitsOf w 20 5] (checked (.join l (fld w 15 5)))
  | 5 => zeros [bitsOf w 20 5] (checked (.jinit l (fld w 15 5) (fld w 10 5)))
  | 6 => zeros [bitsOf w 10 15] (checked (.yield l))
  | 7 => zeros [bitsOf w 20 5] (checked (.park l (fld w 15 5) (fld w 10 5)))
  | 8 => zeros [bitsOf w 10 5, bitsOf w 20 5] (checked (.exit l (fld w 15 5)))
  | 9 => zeros [bitsOf w 15 10] (checked (.chprio l (fld w 10 5)))
  | _ => .error .reservedFunction

/-- cmaj 0x24 (R310). -/
def decodeC24 (w : Nat) (l : Lone) : Except DecodeErr Instr :=
  match bitsOf w 0 10 with
  | 0 => zeros [bitsOf w 20 5] (checked (.binit l (fld w 15 5) (fld w 10 5)))
  | 1 => zeros [bitsOf w 10 5] (checked (.barr l (fld w 20 5) (fld w 15 5)))
  | 2 => zeros [bitsOf w 10 5] (checked (.barw l (fld w 20 5) (fld w 15 5)))
  | 3 => zeros [bitsOf w 20 5] (checked (.ginit l (fld w 15 5) (fld w 10 5)))
  | 4 => zeros [bitsOf w 10 5, bitsOf w 20 5] (checked (.gkill l (fld w 15 5)))
  | 5 => zeros [bitsOf w 10 5] (checked (.gquery l (fld w 20 5) (fld w 15 5)))
  | _ => .error .reservedFunction

/-- cmaj 0x25 (R318). -/
def decodeC25 (w : Nat) (l : Lone) : Except DecodeErr Instr :=
  match bitsOf w 12 3 with
  | 0 => zeros [bitsOf w 15 5] (checked (.mfs l (fld w 20 5) (fld w 0 12)))
  | 1 => zeros [bitsOf w 20 5] (checked (.mts l (fld w 15 5) (fld w 0 12)))
  | 2 => zeros [bitsOf w 6 6, bitsOf w 15 10] (checked (.trap l (fld w 0 6)))
  | 3 => zeros [bitsOf w 0 12, bitsOf w 15 10] (checked (.tret l))
  | 4 => zeros [bitsOf w 3 9, bitsOf w 20 5] (checked (.xinv l (fld w 15 5) (fld w 0 3)))
  | _ => .error .reservedFunction

/-- cmaj 0x26 (R371). -/
def decodeC26 (w : Nat) (l : Lone) : Except DecodeErr Instr :=
  match bitsOf w 0 10 with
  | 0 => zeros [bitsOf w 10 5, bitsOf w 20 5] (checked (.mreq l (fld w 15 5)))
  | 1 => zeros [bitsOf w 10 15] (checked (.mrel l))
  | 2 => zeros [bitsOf w 10 5, bitsOf w 20 5] (checked (.mfmt l (fld w 15 5)))
  | 3 => zeros [bitsOf w 20 5] (checked (.mscl l (fld w 15 5) (fld w 10 5)))
  | 4 => zeros [bitsOf w 15 10] (checked (.mlid l (fld w 10 5)))
  | 5 => zeros [bitsOf w 10 5, bitsOf w 20 5] (checked (.mclr l (fld w 15 5)))
  | 6 => zeros [bitsOf w 20 5] (checked (.mmac l (fld w 15 5) (fld w 10 5)))
  | 7 => zeros [bitsOf w 20 5] (checked (.mmacc l (fld w 15 5) (fld w 10 5)))
  | 8 => zeros [bitsOf w 20 5] (checked (.mmacj l (fld w 15 5) (fld w 10 5)))
  | 9 => zeros [bitsOf w 20 5] (checked (.mdrn l (fld w 15 5) (fld w 10 5)))
  | _ => .error .reservedFunction

/-- cmaj 0x27 (R384). -/
def decodeC27 (w : Nat) (l : Lone) : Except DecodeErr Instr :=
  match bitsOf w 0 2 with
  | 0 => zeros [bitsOf w 2 7, bitsOf w 20 5] (checked (.cpy l (fld w 15 5) (fld w 10 5) (fld w 9 1)))
  | 1 => zeros [bitsOf w 2 7, bitsOf w 20 5] (checked (.tcpy l (fld w 15 5) (fld w 10 5) (fld w 9 1)))
  | 2 => zeros [bitsOf w 2 7, bitsOf w 20 5] (checked (.deal l (fld w 15 5) (fld w 10 5) (fld w 9 1)))
  | 3 => zeros [bitsOf w 2 7, bitsOf w 20 5] (checked (.gath l (fld w 15 5) (fld w 10 5) (fld w 9 1)))
  | _ => .error .reservedFunction

/-- cmaj 0x28 (R392). -/
def decodeC28 (w : Nat) (l : Lone) : Except DecodeErr Instr :=
  match bitsOf w 0 10 with
  | 0 => zeros [bitsOf w 20 5] (checked (.cpost l (fld w 15 5) (fld w 10 5)))
  | 1 => zeros [bitsOf w 20 5] (checked (.fgload l (fld w 15 5) (fld w 10 5)))
  | _ => .error .reservedFunction

/-- cmaj 0x29 (R328). -/
def decodeC29 (w : Nat) (l : Lone) : Except DecodeErr Instr :=
  match bitsOf w 0 10 with
  | 0 => checked (.vclaim l (fld w 20 5) (fld w 15 5) (fld w 10 5))
  | 1 => checked (.vrenew l (fld w 20 5) (fld w 15 5) (fld w 10 5))
  | 2 => zeros [bitsOf w 10 15] (checked (.vrel l))
  | 3 => zeros [bitsOf w 10 5] (checked (.vloop l (fld w 20 5) (fld w 15 5)))
  | 4 => zeros [bitsOf w 10 5, bitsOf w 20 5] (checked (.vbind l (fld w 15 5)))
  | 5 => zeros [bitsOf w 10 5, bitsOf w 20 5] (checked (.vunbind l (fld w 15 5)))
  | _ => .error .reservedFunction

/-- cmaj 0x2A (R266). -/
def decodeC2A (w : Nat) (l : Lone) : Except DecodeErr Instr :=
  zeros [bitsOf w 15 5] (checked (.lic l (fld w 20 5) (fld w 0 15)))

/-- cmaj 0x2B (R280). -/
def decodeC2B (w : Nat) (l : Lone) : Except DecodeErr Instr :=
  match bitsOf w 3 2 with
  | 0 => zeros [bitsOf w 0 3] (checked (.ldnS l (fld w 20 5) (fld w 15 5) (fld w 10 5) (.ofCode (fld w 8 2)) (fld w 5 3)))
  | 1 => zeros [bitsOf w 0 3] (checked (.ldnN l (fld w 20 5) (fld w 15 5) (fld w 10 5) (.ofCode (fld w 8 2)) (fld w 5 3)))
  | 2 => zeros [bitsOf w 0 3] (checked (.stn l (fld w 20 5) (fld w 15 5) (fld w 10 5) (.ofCode (fld w 8 2)) (fld w 5 3)))
  | _ => .error .reservedFunction

/-- cmaj 0x2C (R315). -/
def decodeC2C (w : Nat) (l : Lone) : Except DecodeErr Instr :=
  match bitsOf w 0 10 with
  | 0 => zeros [bitsOf w 20 5] (checked (.sgen l (fld w 15 5) (fld w 10 5)))
  | 1 => zeros [bitsOf w 10 5, bitsOf w 20 5] (checked (.srun l (fld w 15 5)))
  | 2 => zeros [bitsOf w 10 5] (checked (.sstat l (fld w 20 5) (fld w 15 5)))
  | 3 => zeros [bitsOf w 20 5] (checked (.hload l (fld w 15 5) (fld w 10 5)))
  | 4 => zeros [bitsOf w 20 5] (checked (.hstart l (fld w 15 5) (fld w 10 5)))
  | _ => .error .reservedFunction

/-- The C-word `w` of a bundle whose other word is `ext` (R212, R219, R220). -/
def decodeC (w ext : Nat) : Except DecodeErr Instr :=
  if w = 0 then .error .zeroWord
  else
    let l : Lone := if bitsOf w 31 1 = 1 then some (BitVec.ofNat 32 ext) else none
    match bitsOf w 25 6 with
    | 1 => decodeC01 w l
    | 2 => decodeC02 w l
    | 3 => decodeC03 w l
    | 4 => decodeC04 w l
    | 5 => decodeC05 w l
    | 6 => decodeC06 w l
    | 7 => decodeC07 w l
    | 8 => decodeC08 w l
    | 9 => decodeC09 w l
    | 10 => decodeC0A w l
    | 11 => decodeC0B w l
    | 12 => decodeC0C w l
    | 13 => decodeC0D w l
    | 14 => decodeC0E w l
    | 15 => decodeC0F w l
    | 16 => decodeC10 w l
    | 17 => decodeC11 w l
    | 18 => decodeC12 w l
    | 19 => decodeC13 w l
    | 20 => decodeC14 w l
    | 21 => decodeC15 w l
    | 22 => decodeC16 w l
    | 23 => decodeC17 w l
    | 24 => decodeC18 w l
    | 25 => decodeC19 w l
    | 26 => decodeC1A w l
    | 27 => decodeC1B w l
    | 28 => decodeC1C w l
    | 29 => decodeC1D w l
    | 30 => decodeC1E w l
    | 31 => decodeC1F w l
    | 32 => decodeC20 w l
    | 33 => decodeC21 w l
    | 34 => decodeC22 w l
    | 35 => decodeC23 w l
    | 36 => decodeC24 w l
    | 37 => decodeC25 w l
    | 38 => decodeC26 w l
    | 39 => decodeC27 w l
    | 40 => decodeC28 w l
    | 41 => decodeC29 w l
    | 42 => decodeC2A w l
    | 43 => decodeC2B w l
    | 44 => decodeC2C w l
    | _ => .error .reservedMajor

/-- amaj 0x01 (R261). -/
def decodeA01 (w : Nat) : Except DecodeErr Instr :=
  match bitsOf w 0 11 with
  | 0 => checked (.add (fld w 21 5) (fld w 16 5) (fld w 11 5))
  | 1 => checked (.sub (fld w 21 5) (fld w 16 5) (fld w 11 5))
  | 2 => checked (.andR (fld w 21 5) (fld w 16 5) (fld w 11 5))
  | 3 => checked (.orR (fld w 21 5) (fld w 16 5) (fld w 11 5))
  | 4 => checked (.xor (fld w 21 5) (fld w 16 5) (fld w 11 5))
  | 5 => checked (.andn (fld w 21 5) (fld w 16 5) (fld w 11 5))
  | 6 => checked (.sll (fld w 21 5) (fld w 16 5) (fld w 11 5))
  | 7 => checked (.srl (fld w 21 5) (fld w 16 5) (fld w 11 5))
  | 8 => checked (.sra (fld w 21 5) (fld w 16 5) (fld w 11 5))
  | 9 => checked (.rol (fld w 21 5) (fld w 16 5) (fld w 11 5))
  | 10 => checked (.addw (fld w 21 5) (fld w 16 5) (fld w 11 5))
  | 11 => checked (.subw (fld w 21 5) (fld w 16 5) (fld w 11 5))
  | 12 => checked (.addsS (fld w 21 5) (fld w 16 5) (fld w 11 5))
  | 13 => checked (.addsN (fld w 21 5) (fld w 16 5) (fld w 11 5))
  | 14 => checked (.subsS (fld w 21 5) (fld w 16 5) (fld w 11 5))
  | 15 => checked (.subsN (fld w 21 5) (fld w 16 5) (fld w 11 5))
  | _ => .error .reservedFunction

/-- amaj 0x02 (R262). -/
def decodeA02 (w : Nat) : Except DecodeErr Instr :=
  checked (.addi (fld w 21 5) (fld w 16 5) (fld w 0 16))

/-- amaj 0x03 (R262). -/
def decodeA03 (w : Nat) : Except DecodeErr Instr :=
  checked (.andi (fld w 21 5) (fld w 16 5) (fld w 0 16))

/-- amaj 0x04 (R262). -/
def decodeA04 (w : Nat) : Except DecodeErr Instr :=
  checked (.ori (fld w 21 5) (fld w 16 5) (fld w 0 16))

/-- amaj 0x05 (R262). -/
def decodeA05 (w : Nat) : Except DecodeErr Instr :=
  checked (.xori (fld w 21 5) (fld w 16 5) (fld w 0 16))

/-- amaj 0x06 (R262). -/
def decodeA06 (w : Nat) : Except DecodeErr Instr :=
  match bitsOf w 8 8 with
  | 0 => zeros [bitsOf w 6 2] (checked (.slli (fld w 21 5) (fld w 16 5) (fld w 0 6)))
  | 1 => zeros [bitsOf w 6 2] (checked (.srli (fld w 21 5) (fld w 16 5) (fld w 0 6)))
  | 2 => zeros [bitsOf w 6 2] (checked (.srai (fld w 21 5) (fld w 16 5) (fld w 0 6)))
  | 3 => zeros [bitsOf w 6 2] (checked (.roli (fld w 21 5) (fld w 16 5) (fld w 0 6)))
  | _ => .error .reservedFunction

/-- amaj 0x07 (R263). -/
def decodeA07 (w : Nat) : Except DecodeErr Instr :=
  match bitsOf w 0 11 with
  | 0 => checked (.mul (fld w 21 5) (fld w 16 5) (fld w 11 5))
  | 1 => checked (.mulhS (fld w 21 5) (fld w 16 5) (fld w 11 5))
  | 2 => checked (.mulhN (fld w 21 5) (fld w 16 5) (fld w 11 5))
  | 3 => checked (.mulw (fld w 21 5) (fld w 16 5) (fld w 11 5))
  | 4 => checked (.divS (fld w 21 5) (fld w 16 5) (fld w 11 5))
  | 5 => checked (.divN (fld w 21 5) (fld w 16 5) (fld w 11 5))
  | 6 => checked (.remS (fld w 21 5) (fld w 16 5) (fld w 11 5))
  | 7 => checked (.remN (fld w 21 5) (fld w 16 5) (fld w 11 5))
  | _ => .error .reservedFunction

/-- amaj 0x08 (R264). -/
def decodeA08 (w : Nat) : Except DecodeErr Instr :=
  match bitsOf w 0 6 with
  | 0 => zeros [bitsOf w 6 5] (checked (.seq (fld w 21 5) (fld w 16 5) (fld w 11 5)))
  | 1 => zeros [bitsOf w 6 5] (checked (.sne (fld w 21 5) (fld w 16 5) (fld w 11 5)))
  | 2 => zeros [bitsOf w 6 5] (checked (.sltS (fld w 21 5) (fld w 16 5) (fld w 11 5)))
  | 3 => zeros [bitsOf w 6 5] (checked (.sleS (fld w 21 5) (fld w 16 5) (fld w 11 5)))
  | 4 => zeros [bitsOf w 6 5] (checked (.sltN (fld w 21 5) (fld w 16 5) (fld w 11 5)))
  | 5 => zeros [bitsOf w 6 5] (checked (.sleN (fld w 21 5) (fld w 16 5) (fld w 11 5)))
  | 6 => zeros [bitsOf w 6 5] (checked (.minS (fld w 21 5) (fld w 16 5) (fld w 11 5)))
  | 7 => zeros [bitsOf w 6 5] (checked (.maxS (fld w 21 5) (fld w 16 5) (fld w 11 5)))
  | 8 => zeros [bitsOf w 6 5] (checked (.minN (fld w 21 5) (fld w 16 5) (fld w 11 5)))
  | 9 => zeros [bitsOf w 6 5] (checked (.maxN (fld w 21 5) (fld w 16 5) (fld w 11 5)))
  | 10 => checked (.sel (fld w 21 5) (fld w 16 5) (fld w 11 5) (fld w 6 5))
  | _ => .error .reservedFunction

/-- amaj 0x09 (R265). -/
def decodeA09 (w : Nat) : Except DecodeErr Instr :=
  match bitsOf w 0 11 with
  | 0 => zeros [bitsOf w 11 5] (checked (.clz (fld w 21 5) (fld w 16 5)))
  | 1 => zeros [bitsOf w 11 5] (checked (.ctz (fld w 21 5) (fld w 16 5)))
  | 2 => zeros [bitsOf w 11 5] (checked (.popc (fld w 21 5) (fld w 16 5)))
  | 3 => zeros [bitsOf w 11 5] (checked (.brev (fld w 21 5) (fld w 16 5)))
  | 4 => zeros [bitsOf w 11 5] (checked (.bswap (fld w 21 5) (fld w 16 5)))
  | 5 => zeros [bitsOf w 11 5] (checked (.sextB (fld w 21 5) (fld w 16 5)))
  | 6 => zeros [bitsOf w 11 5] (checked (.sextH (fld w 21 5) (fld w 16 5)))
  | 7 => zeros [bitsOf w 11 5] (checked (.sextW (fld w 21 5) (fld w 16 5)))
  | 8 => zeros [bitsOf w 11 5] (checked (.zextW (fld w 21 5) (fld w 16 5)))
  | 9 => checked (.bext (fld w 21 5) (fld w 16 5) (fld w 11 5))
  | 10 => checked (.bins (fld w 21 5) (fld w 16 5) (fld w 11 5))
  | _ => .error .reservedFunction

/-- amaj 0x0A (R266). -/
def decodeA0A (w : Nat) : Except DecodeErr Instr :=
  zeros [bitsOf w 18 3] (checked (.lui (fld w 21 5) (fld w 16 2) (fld w 0 16)))

/-- amaj 0x0B (R267). -/
def decodeA0B (w : Nat) : Except DecodeErr Instr :=
  match bitsOf w 0 11 with
  | 0 => checked (.fadd (fld w 21 5) (fld w 16 5) (fld w 11 5))
  | 1 => checked (.fsub (fld w 21 5) (fld w 16 5) (fld w 11 5))
  | 2 => checked (.fmul (fld w 21 5) (fld w 16 5) (fld w 11 5))
  | 3 => checked (.fdiv (fld w 21 5) (fld w 16 5) (fld w 11 5))
  | 4 => zeros [bitsOf w 11 5] (checked (.fsqrt (fld w 21 5) (fld w 16 5)))
  | 5 => checked (.fmin (fld w 21 5) (fld w 16 5) (fld w 11 5))
  | 6 => checked (.fmax (fld w 21 5) (fld w 16 5) (fld w 11 5))
  | 7 => checked (.fmint (fld w 21 5) (fld w 16 5) (fld w 11 5))
  | 8 => checked (.fmaxt (fld w 21 5) (fld w 16 5) (fld w 11 5))
  | 9 => zeros [bitsOf w 11 5] (checked (.fabs (fld w 21 5) (fld w 16 5)))
  | 10 => zeros [bitsOf w 11 5] (checked (.fneg (fld w 21 5) (fld w 16 5)))
  | 11 => checked (.fsgnj (fld w 21 5) (fld w 16 5) (fld w 11 5))
  | _ => .error .reservedFunction

/-- amaj 0x0C (R268). -/
def decodeA0C (w : Nat) : Except DecodeErr Instr :=
  match bitsOf w 0 6 with
  | 0 => checked (.fmadd (fld w 21 5) (fld w 16 5) (fld w 11 5) (fld w 6 5))
  | 1 => checked (.fmsub (fld w 21 5) (fld w 16 5) (fld w 11 5) (fld w 6 5))
  | 2 => checked (.fnmadd (fld w 21 5) (fld w 16 5) (fld w 11 5) (fld w 6 5))
  | 3 => checked (.fnmsub (fld w 21 5) (fld w 16 5) (fld w 11 5) (fld w 6 5))
  | _ => .error .reservedFunction

/-- amaj 0x0D (R269). -/
def decodeA0D (w : Nat) : Except DecodeErr Instr :=
  match bitsOf w 0 11 with
  | 0 => checked (.feq (fld w 21 5) (fld w 16 5) (fld w 11 5))
  | 1 => checked (.flt (fld w 21 5) (fld w 16 5) (fld w 11 5))
  | 2 => checked (.fle (fld w 21 5) (fld w 16 5) (fld w 11 5))
  | 3 => checked (.funord (fld w 21 5) (fld w 16 5) (fld w 11 5))
  | 4 => zeros [bitsOf w 11 5] (checked (.fclass (fld w 21 5) (fld w 16 5)))
  | 5 => zeros [bitsOf w 11 5] (checked (.fkey (fld w 21 5) (fld w 16 5)))
  | 16 => zeros [bitsOf w 11 5] (checked (.fcvtF32S32 (fld w 21 5) (fld w 16 5)))
  | 17 => zeros [bitsOf w 11 5] (checked (.fcvtF32S64 (fld w 21 5) (fld w 16 5)))
  | 18 => zeros [bitsOf w 11 5] (checked (.fcvtS32F32 (fld w 21 5) (fld w 16 5)))
  | 19 => zeros [bitsOf w 11 5] (checked (.fcvtS64F32 (fld w 21 5) (fld w 16 5)))
  | 20 => zeros [bitsOf w 11 5] (checked (.fcvtF32Bf16 (fld w 21 5) (fld w 16 5)))
  | 21 => zeros [bitsOf w 11 5] (checked (.fcvtBf16F32 (fld w 21 5) (fld w 16 5)))
  | 22 => zeros [bitsOf w 11 5] (checked (.fcvtF32E4m3 (fld w 21 5) (fld w 16 5)))
  | 23 => zeros [bitsOf w 11 5] (checked (.fcvtE4m3F32 (fld w 21 5) (fld w 16 5)))
  | 24 => zeros [bitsOf w 11 5] (checked (.fcvtF32E2m1 (fld w 21 5) (fld w 16 5)))
  | 25 => zeros [bitsOf w 11 5] (checked (.fcvtE2m1F32 (fld w 21 5) (fld w 16 5)))
  | 26 => zeros [bitsOf w 11 5] (checked (.fcvtF32N32 (fld w 21 5) (fld w 16 5)))
  | 27 => zeros [bitsOf w 11 5] (checked (.fcvtN32F32 (fld w 21 5) (fld w 16 5)))
  | _ => .error .reservedFunction

/-- amaj 0x10 (R341). -/
def decodeA10 (w : Nat) : Except DecodeErr Instr :=
  match bitsOf w 0 4 with
  | 0 => typed (fld w 4 4) fun tT => checked (.vadd (fld w 21 5) (fld w 16 5) (fld w 11 5) (fld w 8 3) tT)
  | 1 => typed (fld w 4 4) fun tT => checked (.vsub (fld w 21 5) (fld w 16 5) (fld w 11 5) (fld w 8 3) tT)
  | 2 => typed (fld w 4 4) fun tT => checked (.vmul (fld w 21 5) (fld w 16 5) (fld w 11 5) (fld w 8 3) tT)
  | 3 => typed (fld w 4 4) fun tT => checked (.vdiv (fld w 21 5) (fld w 16 5) (fld w 11 5) (fld w 8 3) tT)
  | 4 => typed (fld w 4 4) fun tT => checked (.vmin (fld w 21 5) (fld w 16 5) (fld w 11 5) (fld w 8 3) tT)
  | 5 => typed (fld w 4 4) fun tT => checked (.vmax (fld w 21 5) (fld w 16 5) (fld w 11 5) (fld w 8 3) tT)
  | 6 => typed (fld w 4 4) fun tT => checked (.vand (fld w 21 5) (fld w 16 5) (fld w 11 5) (fld w 8 3) tT)
  | 7 => typed (fld w 4 4) fun tT => checked (.vor (fld w 21 5) (fld w 16 5) (fld w 11 5) (fld w 8 3) tT)
  | 8 => typed (fld w 4 4) fun tT => checked (.vxor (fld w 21 5) (fld w 16 5) (fld w 11 5) (fld w 8 3) tT)
  | 9 => typed (fld w 4 4) fun tT => checked (.vsll (fld w 21 5) (fld w 16 5) (fld w 11 5) (fld w 8 3) tT)
  | 10 => typed (fld w 4 4) fun tT => checked (.vsrl (fld w 21 5) (fld w 16 5) (fld w 11 5) (fld w 8 3) tT)
  | 11 => typed (fld w 4 4) fun tT => checked (.vsra (fld w 21 5) (fld w 16 5) (fld w 11 5) (fld w 8 3) tT)
  | 12 => zeros [bitsOf w 11 5] (typed (fld w 4 4) fun tT => checked (.vabs (fld w 21 5) (fld w 16 5) (fld w 8 3) tT))
  | 13 => zeros [bitsOf w 11 5] (typed (fld w 4 4) fun tT => checked (.vneg (fld w 21 5) (fld w 16 5) (fld w 8 3) tT))
  | 14 => typed (fld w 4 4) fun tT => checked (.vadds (fld w 21 5) (fld w 16 5) (fld w 11 5) (fld w 8 3) tT)
  | 15 => typed (fld w 4 4) fun tT => checked (.vsubs (fld w 21 5) (fld w 16 5) (fld w 11 5) (fld w 8 3) tT)
  | _ => .error .reservedFunction

/-- amaj 0x11 (R343). -/
def decodeA11 (w : Nat) : Except DecodeErr Instr :=
  match bitsOf w 0 3 with
  | 0 => checked (.vfma (fld w 21 5) (fld w 16 5) (fld w 11 5) (fld w 6 5) (fld w 3 3))
  | 1 => checked (.vfms (fld w 21 5) (fld w 16 5) (fld w 11 5) (fld w 6 5) (fld w 3 3))
  | 2 => checked (.vfnma (fld w 21 5) (fld w 16 5) (fld w 11 5) (fld w 6 5) (fld w 3 3))
  | 3 => checked (.vfnms (fld w 21 5) (fld w 16 5) (fld w 11 5) (fld w 6 5) (fld w 3 3))
  | 4 => checked (.vmadS (fld w 21 5) (fld w 16 5) (fld w 11 5) (fld w 6 5) (fld w 3 3))
  | 5 => checked (.vmadN (fld w 21 5) (fld w 16 5) (fld w 11 5) (fld w 6 5) (fld w 3 3))
  | _ => .error .reservedFunction

/-- amaj 0x12 (R344). -/
def decodeA12 (w : Nat) : Except DecodeErr Instr :=
  match bitsOf w 0 4 with
  | 0 => zeros [bitsOf w 24 2] (typed (fld w 4 4) fun tT => checked (.veq (fld w 21 3) (fld w 16 5) (fld w 11 5) (fld w 8 3) tT))
  | 1 => zeros [bitsOf w 24 2] (typed (fld w 4 4) fun tT => checked (.vne (fld w 21 3) (fld w 16 5) (fld w 11 5) (fld w 8 3) tT))
  | 2 => zeros [bitsOf w 24 2] (typed (fld w 4 4) fun tT => checked (.vlt (fld w 21 3) (fld w 16 5) (fld w 11 5) (fld w 8 3) tT))
  | 3 => zeros [bitsOf w 24 2] (typed (fld w 4 4) fun tT => checked (.vle (fld w 21 3) (fld w 16 5) (fld w 11 5) (fld w 8 3) tT))
  | 4 => zeros [bitsOf w 24 2] (typed (fld w 4 4) fun tT => checked (.vunord (fld w 21 3) (fld w 16 5) (fld w 11 5) (fld w 8 3) tT))
  | 5 => zeros [bitsOf w 24 2] (typed (fld w 4 4) fun tT => checked (.vltt (fld w 21 3) (fld w 16 5) (fld w 11 5) (fld w 8 3) tT))
  | _ => .error .reservedFunction

/-- amaj 0x13 (R346). -/
noncomputable def decodeA13 (w : Nat) : Except DecodeErr Instr :=
  match bitsOf w 0 4 with
  | 0 => zeros [bitsOf w 4 4, bitsOf w 11 5] (checked (.vmov (fld w 21 5) (fld w 16 5) (fld w 8 3)))
  | 1 => zeros [bitsOf w 4 4, bitsOf w 11 5] (checked (.vbcast (fld w 21 5) (fld w 16 5) (fld w 8 3)))
  | 2 => zeros [bitsOf w 4 4] (checked (.vrot (fld w 21 5) (fld w 16 5) (fld w 11 5) (fld w 8 3)))
  | 3 => zeros [bitsOf w 4 4] (checked (.vshuf (fld w 21 5) (fld w 16 5) (fld w 11 5) (fld w 8 3)))
  | 4 => zeros [bitsOf w 4 4, bitsOf w 11 5] (checked (.vcomp (fld w 21 5) (fld w 16 5) (fld w 8 3)))
  | 5 => zeros [bitsOf w 4 4, bitsOf w 11 5] (checked (.vexpd (fld w 21 5) (fld w 16 5) (fld w 8 3)))
  | 6 => zeros [bitsOf w 4 7] (checked (.vins (fld w 21 5) (fld w 16 5) (fld w 11 5)))
  | 7 => zeros [bitsOf w 4 7] (checked (.vext (fld w 21 5) (fld w 16 5) (fld w 11 5)))
  | _ => .error .reservedFunction

/-- amaj 0x14 (R347). -/
noncomputable def decodeA14 (w : Nat) : Except DecodeErr Instr :=
  zeros [bitsOf w 11 5] (typed (fld w 0 4) fun sT => typed (fld w 4 4) fun tT => checked (.vcvt (fld w 21 5) (fld w 16 5) (fld w 8 3) tT sT))

/-- amaj 0x15 (R348). -/
noncomputable def decodeA15 (w : Nat) : Except DecodeErr Instr :=
  match bitsOf w 0 4 with
  | 0 => zeros [bitsOf w 4 4, bitsOf w 11 5] (checked (.vexp (fld w 21 5) (fld w 16 5) (fld w 8 3)))
  | 1 => zeros [bitsOf w 4 4, bitsOf w 11 5] (checked (.vexp2 (fld w 21 5) (fld w 16 5) (fld w 8 3)))
  | 2 => zeros [bitsOf w 4 4, bitsOf w 11 5] (checked (.vlog (fld w 21 5) (fld w 16 5) (fld w 8 3)))
  | 3 => zeros [bitsOf w 4 4, bitsOf w 11 5] (checked (.vlog2 (fld w 21 5) (fld w 16 5) (fld w 8 3)))
  | 4 => zeros [bitsOf w 4 4, bitsOf w 11 5] (checked (.vrcp (fld w 21 5) (fld w 16 5) (fld w 8 3)))
  | 5 => zeros [bitsOf w 4 4, bitsOf w 11 5] (checked (.vsqrt (fld w 21 5) (fld w 16 5) (fld w 8 3)))
  | 6 => zeros [bitsOf w 4 4, bitsOf w 11 5] (checked (.vrsqrt (fld w 21 5) (fld w 16 5) (fld w 8 3)))
  | 7 => zeros [bitsOf w 4 4, bitsOf w 11 5] (checked (.vsin (fld w 21 5) (fld w 16 5) (fld w 8 3)))
  | 8 => zeros [bitsOf w 4 4, bitsOf w 11 5] (checked (.vcos (fld w 21 5) (fld w 16 5) (fld w 8 3)))
  | 9 => zeros [bitsOf w 4 4, bitsOf w 11 5] (checked (.vtanh (fld w 21 5) (fld w 16 5) (fld w 8 3)))
  | 10 => zeros [bitsOf w 4 4, bitsOf w 11 5] (checked (.vsigm (fld w 21 5) (fld w 16 5) (fld w 8 3)))
  | 11 => zeros [bitsOf w 4 4, bitsOf w 11 5] (checked (.verf (fld w 21 5) (fld w 16 5) (fld w 8 3)))
  | _ => .error .reservedFunction

/-- amaj 0x16 (R349). -/
noncomputable def decodeA16 (w : Nat) : Except DecodeErr Instr :=
  match bitsOf w 0 4 with
  | 0 => zeros [bitsOf w 11 5] (typed (fld w 4 4) fun tT => checked (.vrsum (fld w 21 5) (fld w 16 5) (fld w 8 3) tT))
  | 1 => zeros [bitsOf w 11 5] (typed (fld w 4 4) fun tT => checked (.vrmax (fld w 21 5) (fld w 16 5) (fld w 8 3) tT))
  | 2 => zeros [bitsOf w 11 5] (typed (fld w 4 4) fun tT => checked (.vrmin (fld w 21 5) (fld w 16 5) (fld w 8 3) tT))
  | 3 => zeros [bitsOf w 11 5] (typed (fld w 4 4) fun tT => checked (.vrmaxt (fld w 21 5) (fld w 16 5) (fld w 8 3) tT))
  | 4 => zeros [bitsOf w 11 5] (typed (fld w 4 4) fun tT => checked (.vrmint (fld w 21 5) (fld w 16 5) (fld w 8 3) tT))
  | 5 => zeros [bitsOf w 11 5] (typed (fld w 4 4) fun tT => checked (.vrand (fld w 21 5) (fld w 16 5) (fld w 8 3) tT))
  | 6 => zeros [bitsOf w 11 5] (typed (fld w 4 4) fun tT => checked (.vror (fld w 21 5) (fld w 16 5) (fld w 8 3) tT))
  | 7 => zeros [bitsOf w 11 5] (typed (fld w 4 4) fun tT => checked (.vrxor (fld w 21 5) (fld w 16 5) (fld w 8 3) tT))
  | _ => .error .reservedFunction

/-- amaj 0x17 (R360). -/
noncomputable def decodeA17 (w : Nat) : Except DecodeErr Instr :=
  match bitsOf w 0 4 with
  | 0 => zeros [bitsOf w 21 5] (typed (fld w 4 4) fun tT => checked (.vskq (fld w 16 5) (fld w 11 5) (fld w 8 3) tT))
  | 1 => zeros [bitsOf w 21 5] (typed (fld w 4 4) fun tT => checked (.vskh (fld w 16 5) (fld w 11 5) (fld w 8 3) tT))
  | 2 => zeros [bitsOf w 21 5] (typed (fld w 4 4) fun tT => checked (.vskd (fld w 16 5) (fld w 11 5) (fld w 8 3) tT))
  | _ => .error .reservedFunction

/-- amaj 0x18 (R362). -/
noncomputable def decodeA18 (w : Nat) : Except DecodeErr Instr :=
  match bitsOf w 0 11 with
  | 0 => zeros [bitsOf w 21 5] (checked (.skinit (fld w 16 5) (fld w 11 5)))
  | 1 => zeros [bitsOf w 21 5] (checked (.skmerge (fld w 16 5) (fld w 11 5)))
  | 2 => checked (.skquant (fld w 21 5) (fld w 16 5) (fld w 11 5))
  | 3 => checked (.skrank (fld w 21 5) (fld w 16 5) (fld w 11 5))
  | 4 => checked (.skest (fld w 21 5) (fld w 16 5) (fld w 11 5))
  | 5 => zeros [bitsOf w 11 5] (checked (.skcount (fld w 21 5) (fld w 16 5)))
  | _ => .error .reservedFunction

/-- amaj 0x19 (R345). -/
noncomputable def decodeA19 (w : Nat) : Except DecodeErr Instr :=
  match bitsOf w 0 4 with
  | 0 => zeros [bitsOf w 4 7, bitsOf w 14 2, bitsOf w 19 2, bitsOf w 24 2] (checked (.mand (fld w 21 3) (fld w 16 3) (fld w 11 3)))
  | 1 => zeros [bitsOf w 4 7, bitsOf w 14 2, bitsOf w 19 2, bitsOf w 24 2] (checked (.mor (fld w 21 3) (fld w 16 3) (fld w 11 3)))
  | 2 => zeros [bitsOf w 4 7, bitsOf w 14 2, bitsOf w 19 2, bitsOf w 24 2] (checked (.mxor (fld w 21 3) (fld w 16 3) (fld w 11 3)))
  | 3 => zeros [bitsOf w 4 7, bitsOf w 14 2, bitsOf w 19 2, bitsOf w 24 2] (checked (.mandn (fld w 21 3) (fld w 16 3) (fld w 11 3)))
  | 4 => zeros [bitsOf w 4 12, bitsOf w 19 2, bitsOf w 24 2] (checked (.mnot (fld w 21 3) (fld w 16 3)))
  | 5 => zeros [bitsOf w 4 12, bitsOf w 19 2] (checked (.mpop (fld w 21 5) (fld w 16 3)))
  | 6 => zeros [bitsOf w 4 12, bitsOf w 19 2] (checked (.mfrst (fld w 21 5) (fld w 16 3)))
  | 7 => zeros [bitsOf w 4 12, bitsOf w 24 2] (checked (.mfromg (fld w 21 3) (fld w 16 5)))
  | 8 => zeros [bitsOf w 4 12, bitsOf w 19 2] (checked (.mtog (fld w 21 5) (fld w 16 3)))
  | _ => .error .reservedFunction

/-- The A-word `w` (R219, R223). -/
noncomputable def decodeA (w : Nat) : Except DecodeErr Instr :=
  if w = 0 then .ok .anop
  else
    match bitsOf w 26 6 with
    | 1 => decodeA01 w
    | 2 => decodeA02 w
    | 3 => decodeA03 w
    | 4 => decodeA04 w
    | 5 => decodeA05 w
    | 6 => decodeA06 w
    | 7 => decodeA07 w
    | 8 => decodeA08 w
    | 9 => decodeA09 w
    | 10 => decodeA0A w
    | 11 => decodeA0B w
    | 12 => decodeA0C w
    | 13 => decodeA0D w
    | 16 => decodeA10 w
    | 17 => decodeA11 w
    | 18 => decodeA12 w
    | 19 => decodeA13 w
    | 20 => decodeA14 w
    | 21 => decodeA15 w
    | 22 => decodeA16 w
    | 23 => decodeA17 w
    | 24 => decodeA18 w
    | 25 => decodeA19 w
    | _ => .error .reservedMajor

/-- amaj 0x00 (R396). -/
noncomputable def decodeX00 (w : Nat) : Except DecodeErr Instr :=
  zeros [bitsOf w 0 26] (checked (.xend))

/-- amaj 0x01 (R396). -/
noncomputable def decodeX01 (w : Nat) : Except DecodeErr Instr :=
  zeros [bitsOf w 4 10] (checked (.xadd (fld w 22 4) (fld w 18 4) (fld w 14 4) (fld w 0 4)))

/-- amaj 0x02 (R396). -/
noncomputable def decodeX02 (w : Nat) : Except DecodeErr Instr :=
  zeros [bitsOf w 4 10] (checked (.xmax (fld w 22 4) (fld w 18 4) (fld w 14 4) (fld w 0 4)))

/-- amaj 0x03 (R396). -/
noncomputable def decodeX03 (w : Nat) : Except DecodeErr Instr :=
  zeros [bitsOf w 4 10] (checked (.xmin (fld w 22 4) (fld w 18 4) (fld w 14 4) (fld w 0 4)))

/-- amaj 0x04 (R396). -/
noncomputable def decodeX04 (w : Nat) : Except DecodeErr Instr :=
  zeros [bitsOf w 0 14] (checked (.xmx6 (fld w 22 4) (fld w 18 4) (fld w 14 4)))

/-- amaj 0x05 (R396). -/
noncomputable def decodeX05 (w : Nat) : Except DecodeErr Instr :=
  zeros [bitsOf w 0 14] (checked (.xpack (fld w 22 4) (fld w 18 4) (fld w 14 4)))

/-- amaj 0x06 (R396). -/
noncomputable def decodeX06 (w : Nat) : Except DecodeErr Instr :=
  zeros [bitsOf w 1 17] (checked (.xunpk (fld w 22 4) (fld w 18 4) (fld w 0 1)))

/-- amaj 0x07 (R396). -/
noncomputable def decodeX07 (w : Nat) : Except DecodeErr Instr :=
  zeros [bitsOf w 0 18] (checked (.xmov (fld w 22 4) (fld w 18 4)))

/-- amaj 0x08 (R396). -/
noncomputable def decodeX08 (w : Nat) : Except DecodeErr Instr :=
  zeros [bitsOf w 1 21] (checked (.xrecv (fld w 22 4) (fld w 0 1)))

/-- amaj 0x09 (R396). -/
noncomputable def decodeX09 (w : Nat) : Except DecodeErr Instr :=
  zeros [bitsOf w 2 16, bitsOf w 22 4] (checked (.xemit (fld w 18 4) (fld w 0 2)))

/-- A fabric word (R396). -/
noncomputable def decodeX (w : Nat) : Except DecodeErr Instr :=
  match bitsOf w 26 6 with
  | 0 => decodeX00 w
  | 1 => decodeX01 w
  | 2 => decodeX02 w
  | 3 => decodeX03 w
  | 4 => decodeX04 w
  | 5 => decodeX05 w
  | 6 => decodeX06 w
  | 7 => decodeX07 w
  | 8 => decodeX08 w
  | 9 => decodeX09 w
  | _ => .error .reservedMajor

/-- A bundle: its C-word, and its A-word unless the bundle is lone (R211, R212). -/
structure Bundle where
  c : Instr
  a : Option Instr
  deriving DecidableEq, Repr

/-- The decode steps of R215 on the two words of a bundle, with the word that was refused. -/
noncomputable def decodeBundle (lo hi : Nat) : Except (DecodeErr × Nat) Bundle :=
  match decodeC lo hi with
  | .error e => .error (e, lo)
  | .ok c =>
    if bitsOf lo 31 1 = 1 then .ok { c := c, a := none }
    else
      match decodeA hi with
      | .error e => .error (e, hi)
      | .ok a => .ok { c := c, a := some a }

/-- The number of a little-endian byte list (R4). -/
def leNat : List Byte → Nat
  | [] => 0
  | b :: bs => b.toNat + 256 * leNat bs

/-- A bundle from the eight bytes at the program counter; fewer bytes are no bundle. -/
noncomputable def decodeBytes (bs : List Byte) : Except (DecodeErr × Nat) Bundle :=
  decodeBundle (leNat (bs.take 4)) (leNat ((bs.drop 4).take 4))

/-- The bits of an instruction's word that its row of the opcode map fixes (R219, R220, R221, R396); operations and events have no
word. -/
def fixedMask (i : Instr) : Nat :=
  match i with
  | .cnop .. => 0x7FFFFFFF
  | .halt .. => 0x7FFFFFFF
  | .brk .. => 0x7FC00000
  | .br .. => 0x7E000000
  | .jal .. => 0x7E000000
  | .jr .. => 0x7FF07FFF
  | .jalr .. => 0x7E007FFF
  | .beq .. => 0x7E000000
  | .bne .. => 0x7E000000
  | .bltS .. => 0x7E000000
  | .bgeS .. => 0x7E000000
  | .bltN .. => 0x7E000000
  | .bgeN .. => 0x7E000000
  | .lp .. => 0x7E0F8000
  | .lpi .. => 0x7E000000
  | .ldbS .. => 0x7E000000
  | .ldbN .. => 0x7E000000
  | .ldhS .. => 0x7E000000
  | .ldhN .. => 0x7E000000
  | .ldwS .. => 0x7E000000
  | .ldwN .. => 0x7E000000
  | .ldd .. => 0x7E000000
  | .stb .. => 0x7E000000
  | .sth .. => 0x7E000000
  | .stw .. => 0x7E000000
  | .std .. => 0x7E000000
  | .ldv .. => 0x7E00001F
  | .stv .. => 0x7E00001F
  | .rcl .. => 0x7FF0001F
  | .vtag .. => 0x7E007C1F
  | .vinit .. => 0x7FF0001C
  | .aswp .. => 0x7E00001F
  | .aswpd .. => 0x7E00001F
  | .acas .. => 0x7E00001F
  | .acasd .. => 0x7E00001F
  | .aadd .. => 0x7E00001F
  | .aaddd .. => 0x7E00001F
  | .aand .. => 0x7E00001F
  | .aandd .. => 0x7E00001F
  | .aor .. => 0x7E00001F
  | .aord .. => 0x7E00001F
  | .axor .. => 0x7E00001F
  | .axord .. => 0x7E00001F
  | .amaxS .. => 0x7E00001F
  | .amaxdS .. => 0x7E00001F
  | .aminS .. => 0x7E00001F
  | .amindS .. => 0x7E00001F
  | .amaxN .. => 0x7E00001F
  | .amaxdN .. => 0x7E00001F
  | .aminN .. => 0x7E00001F
  | .amindN .. => 0x7E00001F
  | .afadd .. => 0x7E00001F
  | .afmax .. => 0x7E00001F
  | .afmin .. => 0x7E00001F
  | .fence .. => 0x7FFF83FF
  | .waitc .. => 0x7E000000
  | .vld .. => 0x7E000203
  | .vst .. => 0x7E000203
  | .vldx .. => 0x7E000203
  | .vstx .. => 0x7E000203
  | .csend .. => 0x7E0003FF
  | .crecv .. => 0x7E0003FF
  | .csendb .. => 0x7E0003FF
  | .crecvb .. => 0x7E0003FF
  | .csendt .. => 0x7E0003FF
  | .crecvt .. => 0x7E0003FF
  | .cpoll .. => 0x7E007FFF
  | .cclose .. => 0x7FF07FFF
  | .csendp .. => 0x7E0003FF
  | .crecvp .. => 0x7E0003FF
  | .chsel .. => 0x7E0F83FE
  | .chnew .. => 0x7E0F83FF
  | .chdel .. => 0x7FFF83FF
  | .spawn .. => 0x7E0003FF
  | .spawnk .. => 0x7E0003FF
  | .callat .. => 0x7E0003FF
  | .fork .. => 0x7FF07FFF
  | .join .. => 0x7FF07FFF
  | .jinit .. => 0x7FF003FF
  | .yield .. => 0x7FFFFFFF
  | .park .. => 0x7FF003FF
  | .exit .. => 0x7FF07FFF
  | .chprio .. => 0x7FFF83FF
  | .binit .. => 0x7FF003FF
  | .barr .. => 0x7E007FFF
  | .barw .. => 0x7E007FFF
  | .ginit .. => 0x7FF003FF
  | .gkill .. => 0x7FF07FFF
  | .gquery .. => 0x7E007FFF
  | .mfs .. => 0x7E0FF000
  | .mts .. => 0x7FF07000
  | .trap .. => 0x7FFFFFC0
  | .tret .. => 0x7FFFFFFF
  | .xinv .. => 0x7FF07FF8
  | .mreq .. => 0xFFF07FFF
  | .mrel .. => 0xFFFFFFFF
  | .mfmt .. => 0xFFF07FFF
  | .mscl .. => 0x7FF003FF
  | .mlid .. => 0x7FFF83FF
  | .mclr .. => 0xFFF07FFF
  | .mmac .. => 0x7FF003FF
  | .mmacc .. => 0x7FF003FF
  | .mmacj .. => 0x7FF003FF
  | .mdrn .. => 0x7FF003FF
  | .cpy .. => 0x7FF001FF
  | .tcpy .. => 0x7FF001FF
  | .deal .. => 0x7FF001FF
  | .gath .. => 0x7FF001FF
  | .cpost .. => 0x7FF003FF
  | .fgload .. => 0x7FF003FF
  | .vclaim .. => 0x7E0003FF
  | .vrenew .. => 0x7E0003FF
  | .vrel .. => 0x7FFFFFFF
  | .vloop .. => 0x7E007FFF
  | .vbind .. => 0x7FF07FFF
  | .vunbind .. => 0x7FF07FFF
  | .lic .. => 0x7E0F8000
  | .ldnS .. => 0x7E00001F
  | .ldnN .. => 0x7E00001F
  | .stn .. => 0x7E00001F
  | .sgen .. => 0x7FF003FF
  | .srun .. => 0x7FF07FFF
  | .sstat .. => 0x7E007FFF
  | .hload .. => 0x7FF003FF
  | .hstart .. => 0x7FF003FF
  | .anop .. => 0xFFFFFFFF
  | .add .. => 0xFC0007FF
  | .sub .. => 0xFC0007FF
  | .andR .. => 0xFC0007FF
  | .orR .. => 0xFC0007FF
  | .xor .. => 0xFC0007FF
  | .andn .. => 0xFC0007FF
  | .sll .. => 0xFC0007FF
  | .srl .. => 0xFC0007FF
  | .sra .. => 0xFC0007FF
  | .rol .. => 0xFC0007FF
  | .addw .. => 0xFC0007FF
  | .subw .. => 0xFC0007FF
  | .addsS .. => 0xFC0007FF
  | .addsN .. => 0xFC0007FF
  | .subsS .. => 0xFC0007FF
  | .subsN .. => 0xFC0007FF
  | .addi .. => 0xFC000000
  | .andi .. => 0xFC000000
  | .ori .. => 0xFC000000
  | .xori .. => 0xFC000000
  | .slli .. => 0xFC00FFC0
  | .srli .. => 0xFC00FFC0
  | .srai .. => 0xFC00FFC0
  | .roli .. => 0xFC00FFC0
  | .mul .. => 0xFC0007FF
  | .mulhS .. => 0xFC0007FF
  | .mulhN .. => 0xFC0007FF
  | .mulw .. => 0xFC0007FF
  | .divS .. => 0xFC0007FF
  | .divN .. => 0xFC0007FF
  | .remS .. => 0xFC0007FF
  | .remN .. => 0xFC0007FF
  | .seq .. => 0xFC0007FF
  | .sne .. => 0xFC0007FF
  | .sltS .. => 0xFC0007FF
  | .sleS .. => 0xFC0007FF
  | .sltN .. => 0xFC0007FF
  | .sleN .. => 0xFC0007FF
  | .minS .. => 0xFC0007FF
  | .maxS .. => 0xFC0007FF
  | .minN .. => 0xFC0007FF
  | .maxN .. => 0xFC0007FF
  | .sel .. => 0xFC00003F
  | .clz .. => 0xFC00FFFF
  | .ctz .. => 0xFC00FFFF
  | .popc .. => 0xFC00FFFF
  | .brev .. => 0xFC00FFFF
  | .bswap .. => 0xFC00FFFF
  | .sextB .. => 0xFC00FFFF
  | .sextH .. => 0xFC00FFFF
  | .sextW .. => 0xFC00FFFF
  | .zextW .. => 0xFC00FFFF
  | .bext .. => 0xFC0007FF
  | .bins .. => 0xFC0007FF
  | .lui .. => 0xFC1C0000
  | .fadd .. => 0xFC0007FF
  | .fsub .. => 0xFC0007FF
  | .fmul .. => 0xFC0007FF
  | .fdiv .. => 0xFC0007FF
  | .fsqrt .. => 0xFC00FFFF
  | .fmin .. => 0xFC0007FF
  | .fmax .. => 0xFC0007FF
  | .fmint .. => 0xFC0007FF
  | .fmaxt .. => 0xFC0007FF
  | .fabs .. => 0xFC00FFFF
  | .fneg .. => 0xFC00FFFF
  | .fsgnj .. => 0xFC0007FF
  | .fmadd .. => 0xFC00003F
  | .fmsub .. => 0xFC00003F
  | .fnmadd .. => 0xFC00003F
  | .fnmsub .. => 0xFC00003F
  | .feq .. => 0xFC0007FF
  | .flt .. => 0xFC0007FF
  | .fle .. => 0xFC0007FF
  | .funord .. => 0xFC0007FF
  | .fclass .. => 0xFC00FFFF
  | .fkey .. => 0xFC00FFFF
  | .fcvtF32S32 .. => 0xFC00FFFF
  | .fcvtF32S64 .. => 0xFC00FFFF
  | .fcvtS32F32 .. => 0xFC00FFFF
  | .fcvtS64F32 .. => 0xFC00FFFF
  | .fcvtF32Bf16 .. => 0xFC00FFFF
  | .fcvtBf16F32 .. => 0xFC00FFFF
  | .fcvtF32E4m3 .. => 0xFC00FFFF
  | .fcvtE4m3F32 .. => 0xFC00FFFF
  | .fcvtF32E2m1 .. => 0xFC00FFFF
  | .fcvtE2m1F32 .. => 0xFC00FFFF
  | .fcvtF32N32 .. => 0xFC00FFFF
  | .fcvtN32F32 .. => 0xFC00FFFF
  | .vadd .. => 0xFC00000F
  | .vsub .. => 0xFC00000F
  | .vmul .. => 0xFC00000F
  | .vdiv .. => 0xFC00000F
  | .vmin .. => 0xFC00000F
  | .vmax .. => 0xFC00000F
  | .vand .. => 0xFC00000F
  | .vor .. => 0xFC00000F
  | .vxor .. => 0xFC00000F
  | .vsll .. => 0xFC00000F
  | .vsrl .. => 0xFC00000F
  | .vsra .. => 0xFC00000F
  | .vabs .. => 0xFC00F80F
  | .vneg .. => 0xFC00F80F
  | .vadds .. => 0xFC00000F
  | .vsubs .. => 0xFC00000F
  | .vfma .. => 0xFC000007
  | .vfms .. => 0xFC000007
  | .vfnma .. => 0xFC000007
  | .vfnms .. => 0xFC000007
  | .vmadS .. => 0xFC000007
  | .vmadN .. => 0xFC000007
  | .veq .. => 0xFF00000F
  | .vne .. => 0xFF00000F
  | .vlt .. => 0xFF00000F
  | .vle .. => 0xFF00000F
  | .vunord .. => 0xFF00000F
  | .vltt .. => 0xFF00000F
  | .vmov .. => 0xFC00F8FF
  | .vbcast .. => 0xFC00F8FF
  | .vrot .. => 0xFC0000FF
  | .vshuf .. => 0xFC0000FF
  | .vcomp .. => 0xFC00F8FF
  | .vexpd .. => 0xFC00F8FF
  | .vins .. => 0xFC0007FF
  | .vext .. => 0xFC0007FF
  | .vcvt .. => 0xFC00F800
  | .vexp .. => 0xFC00F8FF
  | .vexp2 .. => 0xFC00F8FF
  | .vlog .. => 0xFC00F8FF
  | .vlog2 .. => 0xFC00F8FF
  | .vrcp .. => 0xFC00F8FF
  | .vsqrt .. => 0xFC00F8FF
  | .vrsqrt .. => 0xFC00F8FF
  | .vsin .. => 0xFC00F8FF
  | .vcos .. => 0xFC00F8FF
  | .vtanh .. => 0xFC00F8FF
  | .vsigm .. => 0xFC00F8FF
  | .verf .. => 0xFC00F8FF
  | .vrsum .. => 0xFC00F80F
  | .vrmax .. => 0xFC00F80F
  | .vrmin .. => 0xFC00F80F
  | .vrmaxt .. => 0xFC00F80F
  | .vrmint .. => 0xFC00F80F
  | .vrand .. => 0xFC00F80F
  | .vror .. => 0xFC00F80F
  | .vrxor .. => 0xFC00F80F
  | .vskq .. => 0xFFE0000F
  | .vskh .. => 0xFFE0000F
  | .vskd .. => 0xFFE0000F
  | .skinit .. => 0xFFE007FF
  | .skmerge .. => 0xFFE007FF
  | .skquant .. => 0xFC0007FF
  | .skrank .. => 0xFC0007FF
  | .skest .. => 0xFC0007FF
  | .skcount .. => 0xFC00FFFF
  | .mand .. => 0xFF18C7FF
  | .mor .. => 0xFF18C7FF
  | .mxor .. => 0xFF18C7FF
  | .mandn .. => 0xFF18C7FF
  | .mnot .. => 0xFF18FFFF
  | .mpop .. => 0xFC18FFFF
  | .mfrst .. => 0xFC18FFFF
  | .mfromg .. => 0xFF00FFFF
  | .mtog .. => 0xFC18FFFF
  | .xend .. => 0xFFFFFFFF
  | .xadd .. => 0xFC003FF0
  | .xmax .. => 0xFC003FF0
  | .xmin .. => 0xFC003FF0
  | .xmx6 .. => 0xFC003FFF
  | .xpack .. => 0
  | .xunpk .. => 0
  | .xmov .. => 0xFC03FFFF
  | .xrecv .. => 0xFC3FFFFE
  | .xemit .. => 0xFFC3FFFC
  | .sequencerTrap .. => 0
  | .sequencerEntry .. => 0
  | .streamItem .. => 0
  | .ownerAccess .. => 0
  | .subByteStore .. => 0
  | .versionedStoreAtOwner .. => 0
  | .versionedLoadAtOwner .. => 0
  | .reclaimAtOwner .. => 0
  | .initialiseAtOwner .. => 0
  | .heldCompletion .. => 0
  | .waiterRetry .. => 0
  | .acknowledgement .. => 0
  | .widen .. => 0
  | .widened .. => 0
  | .released .. => 0
  | .translationWalk .. => 0
  | .engineBeat .. => 0
  | .commandCompletion .. => 0
  | .msRequest .. => 0
  | .msReply .. => 0
  | .frameReceive .. => 0
  | .pfcRepeat .. => 0
  | .pfcFrame .. => 0
  | .pfcQuantaExpire .. => 0
  | .ingestDeposit .. => 0
  | .ringDescriptorWrite .. => 0
  | .portRegisterWrite .. => 0
  | .frameTransmit .. => 0
  | .partGo .. => 0
  | .drainComplete .. => 0
  | .drainTimeout .. => 0
  | .flushComplete .. => 0
  | .powerComplete .. => 0
  | .enumerate .. => 0
  | .roleChangeStop .. => 0
  | .frzctlResume .. => 0
  | .frzctlDiscard .. => 0
  | .peerRequest .. => 0
  | .peerErrorReply .. => 0
  | .poolHeadWrite .. => 0
  | .recfree .. => 0
  | .slotFill .. => 0
  | .spillParked .. => 0
  | .preempt .. => 0
  | .spillComplete .. => 0
  | .taskSteal .. => 0
  | .laneGrant .. => 0
  | .leaseGrant .. => 0
  | .mrelEffect .. => 0
  | .mfmtExecute .. => 0
  | .mmacExecute .. => 0
  | .mlidExecute .. => 0
  | .mclrExecute .. => 0
  | .mdrnExecute .. => 0
  | .thermalPeriod .. => 0
  | .launchTake .. => 0
  | .levelChange .. => 0
  | .queueBarrier .. => 0
  | .contextFence .. => 0
  | .launchQueueWrite .. => 0
  | .startMessage .. => 0
  | .doneNotice .. => 0
  | .checkRunAEnd .. => 0
  | .checkRunBEnd .. => 0
  | .commitTurn .. => 0
  | .chunkCommit .. => 0
  | .logUnitWrite .. => 0
  | .logPadTimeout .. => 0
  | .logctlWrite .. => 0
  | .logtailWrite .. => 0
  | .logheadWrite .. => 0
  | .channelSendAtHome .. => 0
  | .channelReceiveAtHome .. => 0
  | .sendRetry .. => 0
  | .drainQueryReply .. => 0
  | .tileTransfer .. => 0
  | .selectClaim .. => 0
  | .timeoutFire .. => 0
  | .channelTimeout .. => 0
  | .withdrawal .. => 0
  | .spawnPlace .. => 0
  | .barrierArrival .. => 0
  | .handlerRequest .. => 0
  | .faultPost .. => 0
  | .fltresRetry .. => 0
  | .fltresSkip .. => 0
  | .fltresDiscard .. => 0
  | .contextEvict .. => 0
  | .contextRestore .. => 0
  | .triggerLatch .. => 0
  | .deadlock .. => 0
  | .collAnnounce .. => 0
  | .announceRetry .. => 0
  | .chunkGrant .. => 0
  | .chunkArbitration .. => 0
  | .collComplete .. => 0
  | .trussPush .. => 0
  | .trussPop .. => 0
  | .trussQueueWrite .. => 0
  | .linkFlit .. => 0
  | .linkReplay .. => 0
  | .linkRetrain .. => 0
  | .hostBar0 .. => 0
  | .hostLaunchWrite .. => 0
  | .hostAperture .. => 0
  | .msixSend .. => 0
  | .hostReadCompletion .. => 0
  | .hostReadTimeout .. => 0
  | .hwakeExpire .. => 0
  | .powerOn .. => 0
  | .bootStage .. => 0
  | .bootWatchdog .. => 0
  | .reset .. => 0
  | .recgo .. => 0
  | .calc .. => 0
  | .attctlGo .. => 0
  | .attestDone .. => 0
  | .powerCapStep .. => 0
  | .thermalTrip .. => 0
  | .tripRelease .. => 0
  | .blockRead .. => 0
  | .blockWrite .. => 0
  | .registerWrite .. => 0
  | .loadReturn .. => 0
  | .linkUp .. => 0
  | .lossOfPower .. => 0

/-- The bits set in a word of 32. -/
def bitCount (m : Nat) : Nat := ((List.range 32).filter m.testBit).length

/-- How likely a reading of `w` is: first one whose operands are all zero, then by the bits that its row fixes. -/
def rank (w : Nat) (i : Instr) : Nat :=
  (if w % 2 ^ 32 &&& (0xFFFFFFFF - fixedMask i) = 0 then 32 else 0) + bitCount (fixedMask i)

/-- Of two readings of a word the likelier; the first on a tie, and the other where one is refused. -/
def likelier (w : Nat) (x y : Except DecodeErr Instr) : Except DecodeErr Instr :=
  match x, y with
  | .ok i, .ok j => if rank w i < rank w j then .ok j else .ok i
  | .ok i, .error _ => .ok i
  | .error _, y => y

/-- The instruction of an opcode-table word. A word may stand for a C-word (a lone one with an extension of zero bits above
`nbits`), an A-word or a fabric word: only its place in a bundle or in a fabric unit's store, which a table word lacks, tells
the three maps apart. Of the readings that are instructions, one with every operand zero is taken, else the one whose row
fixes most bits (DEDUCED, log entry 8). -/
noncomputable def decodeTableWord (nbits w : Nat) : Option Instr :=
  if nbits < 32 then none
  else
    match likelier w (decodeC (w % 2 ^ 32) (w / 2 ^ 32)) (likelier w (decodeA (w % 2 ^ 32)) (decodeX (w % 2 ^ 32))) with
    | .ok i => some i
    | .error _ => none

/-! ## Encoder -/

/-- L, as the bit of the word (R212). -/
def loneBit (l : Lone) : Nat :=
  match l with
  | none => 0
  | some _ => 1

/-- Fields as (width, value), the lowest first, as one number (R4). -/
def pack (fs : List (Nat × Nat)) : Nat :=
  match fs with
  | [] => 0
  | (n, v) :: r => v + 2 ^ n * pack r

/-- The 32-bit word of an instruction that has an encoding, its fields from bit 0 upward; operations and events have none. -/
def encodeWord (i : Instr) : Option Nat :=
  match i with
  | .cnop l => some (pack [(22, 0), (3, 0), (6, 0x01), (1, loneBit l)])
  | .halt l => some (pack [(22, 0), (3, 1), (6, 0x01), (1, loneBit l)])
  | .brk l c => some (pack [(22, c.toNat), (3, 2), (6, 0x01), (1, loneBit l)])
  | .br l o => some (pack [(25, o.toNat), (6, 0x02), (1, loneBit l)])
  | .jal l o => some (pack [(25, o.toNat), (6, 0x03), (1, loneBit l)])
  | .jr l a => some (pack [(10, 0), (5, 0), (5, a.toNat), (5, 0), (6, 0x04), (1, loneBit l)])
  | .jalr l d a => some (pack [(10, 1), (5, 0), (5, a.toNat), (5, d.toNat), (6, 0x04), (1, loneBit l)])
  | .beq l a b o => some (pack [(15, o.toNat), (5, b.toNat), (5, a.toNat), (6, 0x05), (1, loneBit l)])
  | .bne l a b o => some (pack [(15, o.toNat), (5, b.toNat), (5, a.toNat), (6, 0x06), (1, loneBit l)])
  | .bltS l a b o => some (pack [(15, o.toNat), (5, b.toNat), (5, a.toNat), (6, 0x07), (1, loneBit l)])
  | .bgeS l a b o => some (pack [(15, o.toNat), (5, b.toNat), (5, a.toNat), (6, 0x08), (1, loneBit l)])
  | .bltN l a b o => some (pack [(15, o.toNat), (5, b.toNat), (5, a.toNat), (6, 0x09), (1, loneBit l)])
  | .bgeN l a b o => some (pack [(15, o.toNat), (5, b.toNat), (5, a.toNat), (6, 0x0A), (1, loneBit l)])
  | .lp l a e => some (pack [(15, e.toNat), (5, 0), (5, a.toNat), (6, 0x0B), (1, loneBit l)])
  | .lpi l c e => some (pack [(15, e.toNat), (10, c.toNat), (6, 0x0C), (1, loneBit l)])
  | .ldbS l d a ord sc f => some (pack [(10, f.toNat), (3, sc.toNat), (2, ord.code.toNat), (5, a.toNat), (5, d.toNat), (6, 0x0D), (1, loneBit l)])
  | .ldbN l d a ord sc f => some (pack [(10, f.toNat), (3, sc.toNat), (2, ord.code.toNat), (5, a.toNat), (5, d.toNat), (6, 0x0E), (1, loneBit l)])
  | .ldhS l d a ord sc f => some (pack [(10, f.toNat), (3, sc.toNat), (2, ord.code.toNat), (5, a.toNat), (5, d.toNat), (6, 0x0F), (1, loneBit l)])
  | .ldhN l d a ord sc f => some (pack [(10, f.toNat), (3, sc.toNat), (2, ord.code.toNat), (5, a.toNat), (5, d.toNat), (6, 0x10), (1, loneBit l)])
  | .ldwS l d a ord sc f => some (pack [(10, f.toNat), (3, sc.toNat), (2, ord.code.toNat), (5, a.toNat), (5, d.toNat), (6, 0x11), (1, loneBit l)])
  | .ldwN l d a ord sc f => some (pack [(10, f.toNat), (3, sc.toNat), (2, ord.code.toNat), (5, a.toNat), (5, d.toNat), (6, 0x12), (1, loneBit l)])
  | .ldd l d a ord sc f => some (pack [(10, f.toNat), (3, sc.toNat), (2, ord.code.toNat), (5, a.toNat), (5, d.toNat), (6, 0x13), (1, loneBit l)])
  | .stb l s a ord sc f => some (pack [(10, f.toNat), (3, sc.toNat), (2, ord.code.toNat), (5, a.toNat), (5, s.toNat), (6, 0x14), (1, loneBit l)])
  | .sth l s a ord sc f => some (pack [(10, f.toNat), (3, sc.toNat), (2, ord.code.toNat), (5, a.toNat), (5, s.toNat), (6, 0x15), (1, loneBit l)])
  | .stw l s a ord sc f => some (pack [(10, f.toNat), (3, sc.toNat), (2, ord.code.toNat), (5, a.toNat), (5, s.toNat), (6, 0x16), (1, loneBit l)])
  | .std l s a ord sc f => some (pack [(10, f.toNat), (3, sc.toNat), (2, ord.code.toNat), (5, a.toNat), (5, s.toNat), (6, 0x17), (1, loneBit l)])
  | .ldv l d a ord sc v => some (pack [(5, 0), (5, v.toNat), (3, sc.toNat), (2, ord.code.toNat), (5, a.toNat), (5, d.toNat), (6, 0x18), (1, loneBit l)])
  | .stv l d a ord sc v => some (pack [(5, 0), (5, v.toNat), (3, sc.toNat), (2, ord.code.toNat), (5, a.toNat), (5, d.toNat), (6, 0x19), (1, loneBit l)])
  | .rcl l a b ord sc => some (pack [(2, 0), (3, 0), (3, sc.toNat), (2, ord.code.toNat), (5, b.toNat), (5, a.toNat), (5, 0), (6, 0x1A), (1, loneBit l)])
  | .vtag l d a ord sc => some (pack [(2, 0), (3, 1), (3, sc.toNat), (2, ord.code.toNat), (5, 0), (5, a.toNat), (5, d.toNat), (6, 0x1A), (1, loneBit l)])
  | .vinit l a b ord sc k => some (pack [(2, k.toNat), (3, 2), (3, sc.toNat), (2, ord.code.toNat), (5, b.toNat), (5, a.toNat), (5, 0), (6, 0x1A), (1, loneBit l)])
  | .aswp l d a b ord sc => some (pack [(5, 0), (3, sc.toNat), (2, ord.code.toNat), (5, b.toNat), (5, a.toNat), (5, d.toNat), (6, 0x1B), (1, loneBit l)])
  | .aswpd l d a b ord sc => some (pack [(5, 1), (3, sc.toNat), (2, ord.code.toNat), (5, b.toNat), (5, a.toNat), (5, d.toNat), (6, 0x1B), (1, loneBit l)])
  | .acas l d a b ord sc => some (pack [(5, 2), (3, sc.toNat), (2, ord.code.toNat), (5, b.toNat), (5, a.toNat), (5, d.toNat), (6, 0x1B), (1, loneBit l)])
  | .acasd l d a b ord sc => some (pack [(5, 3), (3, sc.toNat), (2, ord.code.toNat), (5, b.toNat), (5, a.toNat), (5, d.toNat), (6, 0x1B), (1, loneBit l)])
  | .aadd l d a b ord sc => some (pack [(5, 4), (3, sc.toNat), (2, ord.code.toNat), (5, b.toNat), (5, a.toNat), (5, d.toNat), (6, 0x1B), (1, loneBit l)])
  | .aaddd l d a b ord sc => some (pack [(5, 5), (3, sc.toNat), (2, ord.code.toNat), (5, b.toNat), (5, a.toNat), (5, d.toNat), (6, 0x1B), (1, loneBit l)])
  | .aand l d a b ord sc => some (pack [(5, 6), (3, sc.toNat), (2, ord.code.toNat), (5, b.toNat), (5, a.toNat), (5, d.toNat), (6, 0x1B), (1, loneBit l)])
  | .aandd l d a b ord sc => some (pack [(5, 7), (3, sc.toNat), (2, ord.code.toNat), (5, b.toNat), (5, a.toNat), (5, d.toNat), (6, 0x1B), (1, loneBit l)])
  | .aor l d a b ord sc => some (pack [(5, 8), (3, sc.toNat), (2, ord.code.toNat), (5, b.toNat), (5, a.toNat), (5, d.toNat), (6, 0x1B), (1, loneBit l)])
  | .aord l d a b ord sc => some (pack [(5, 9), (3, sc.toNat), (2, ord.code.toNat), (5, b.toNat), (5, a.toNat), (5, d.toNat), (6, 0x1B), (1, loneBit l)])
  | .axor l d a b ord sc => some (pack [(5, 10), (3, sc.toNat), (2, ord.code.toNat), (5, b.toNat), (5, a.toNat), (5, d.toNat), (6, 0x1B), (1, loneBit l)])
  | .axord l d a b ord sc => some (pack [(5, 11), (3, sc.toNat), (2, ord.code.toNat), (5, b.toNat), (5, a.toNat), (5, d.toNat), (6, 0x1B), (1, loneBit l)])
  | .amaxS l d a b ord sc => some (pack [(5, 12), (3, sc.toNat), (2, ord.code.toNat), (5, b.toNat), (5, a.toNat), (5, d.toNat), (6, 0x1B), (1, loneBit l)])
  | .amaxdS l d a b ord sc => some (pack [(5, 13), (3, sc.toNat), (2, ord.code.toNat), (5, b.toNat), (5, a.toNat), (5, d.toNat), (6, 0x1B), (1, loneBit l)])
  | .aminS l d a b ord sc => some (pack [(5, 14), (3, sc.toNat), (2, ord.code.toNat), (5, b.toNat), (5, a.toNat), (5, d.toNat), (6, 0x1B), (1, loneBit l)])
  | .amindS l d a b ord sc => some (pack [(5, 15), (3, sc.toNat), (2, ord.code.toNat), (5, b.toNat), (5, a.toNat), (5, d.toNat), (6, 0x1B), (1, loneBit l)])
  | .amaxN l d a b ord sc => some (pack [(5, 16), (3, sc.toNat), (2, ord.code.toNat), (5, b.toNat), (5, a.toNat), (5, d.toNat), (6, 0x1B), (1, loneBit l)])
  | .amaxdN l d a b ord sc => some (pack [(5, 17), (3, sc.toNat), (2, ord.code.toNat), (5, b.toNat), (5, a.toNat), (5, d.toNat), (6, 0x1B), (1, loneBit l)])
  | .aminN l d a b ord sc => some (pack [(5, 18), (3, sc.toNat), (2, ord.code.toNat), (5, b.toNat), (5, a.toNat), (5, d.toNat), (6, 0x1B), (1, loneBit l)])
  | .amindN l d a b ord sc => some (pack [(5, 19), (3, sc.toNat), (2, ord.code.toNat), (5, b.toNat), (5, a.toNat), (5, d.toNat), (6, 0x1B), (1, loneBit l)])
  | .afadd l d a b ord sc => some (pack [(5, 20), (3, sc.toNat), (2, ord.code.toNat), (5, b.toNat), (5, a.toNat), (5, d.toNat), (6, 0x1B), (1, loneBit l)])
  | .afmax l d a b ord sc => some (pack [(5, 21), (3, sc.toNat), (2, ord.code.toNat), (5, b.toNat), (5, a.toNat), (5, d.toNat), (6, 0x1B), (1, loneBit l)])
  | .afmin l d a b ord sc => some (pack [(5, 22), (3, sc.toNat), (2, ord.code.toNat), (5, b.toNat), (5, a.toNat), (5, d.toNat), (6, 0x1B), (1, loneBit l)])
  | .fence l ord sc => some (pack [(10, 0), (3, sc.toNat), (2, ord.code.toNat), (10, 0), (6, 0x1C), (1, loneBit l)])
  | .waitc l a b c d e => some (pack [(5, e.toNat), (5, d.toNat), (5, c.toNat), (5, b.toNat), (5, a.toNat), (6, 0x1D), (1, loneBit l)])
  | .vld l d a b t m => some (pack [(2, 0), (3, m.toNat), (4, t.code.toNat), (1, 0), (5, b.toNat), (5, a.toNat), (5, d.toNat), (6, 0x1E), (1, loneBit l)])
  | .vst l d a b t m => some (pack [(2, 0), (3, m.toNat), (4, t.code.toNat), (1, 1), (5, b.toNat), (5, a.toNat), (5, d.toNat), (6, 0x1E), (1, loneBit l)])
  | .vldx l d a b t m => some (pack [(2, 0), (3, m.toNat), (4, t.code.toNat), (1, 0), (5, b.toNat), (5, a.toNat), (5, d.toNat), (6, 0x1F), (1, loneBit l)])
  | .vstx l d a b t m => some (pack [(2, 0), (3, m.toNat), (4, t.code.toNat), (1, 1), (5, b.toNat), (5, a.toNat), (5, d.toNat), (6, 0x1F), (1, loneBit l)])
  | .csend l d a b => some (pack [(10, 0), (5, b.toNat), (5, a.toNat), (5, d.toNat), (6, 0x20), (1, loneBit l)])
  | .crecv l d a b => some (pack [(10, 1), (5, b.toNat), (5, a.toNat), (5, d.toNat), (6, 0x20), (1, loneBit l)])
  | .csendb l d a b => some (pack [(10, 2), (5, b.toNat), (5, a.toNat), (5, d.toNat), (6, 0x20), (1, loneBit l)])
  | .crecvb l d a b => some (pack [(10, 3), (5, b.toNat), (5, a.toNat), (5, d.toNat), (6, 0x20), (1, loneBit l)])
  | .csendt l d a b => some (pack [(10, 4), (5, b.toNat), (5, a.toNat), (5, d.toNat), (6, 0x20), (1, loneBit l)])
  | .crecvt l d a b => some (pack [(10, 5), (5, b.toNat), (5, a.toNat), (5, d.toNat), (6, 0x20), (1, loneBit l)])
  | .cpoll l d a => some (pack [(10, 6), (5, 0), (5, a.toNat), (5, d.toNat), (6, 0x20), (1, loneBit l)])
  | .cclose l a => some (pack [(10, 7), (5, 0), (5, a.toNat), (5, 0), (6, 0x20), (1, loneBit l)])
  | .csendp l d a b => some (pack [(10, 8), (5, b.toNat), (5, a.toNat), (5, d.toNat), (6, 0x20), (1, loneBit l)])
  | .crecvp l d a b => some (pack [(10, 9), (5, b.toNat), (5, a.toNat), (5, d.toNat), (6, 0x20), (1, loneBit l)])
  | .chsel l d b f => some (pack [(1, f.toNat), (9, 0), (5, b.toNat), (5, 0), (5, d.toNat), (6, 0x21), (1, loneBit l)])
  | .chnew l d b => some (pack [(10, 0), (5, b.toNat), (5, 0), (5, d.toNat), (6, 0x22), (1, loneBit l)])
  | .chdel l b => some (pack [(10, 1), (5, b.toNat), (10, 0), (6, 0x22), (1, loneBit l)])
  | .spawn l d a b => some (pack [(10, 0), (5, b.toNat), (5, a.toNat), (5, d.toNat), (6, 0x23), (1, loneBit l)])
  | .spawnk l d a b => some (pack [(10, 1), (5, b.toNat), (5, a.toNat), (5, d.toNat), (6, 0x23), (1, loneBit l)])
  | .callat l h a b => some (pack [(10, 2), (5, b.toNat), (5, a.toNat), (5, h.toNat), (6, 0x23), (1, loneBit l)])
  | .fork l a => some (pack [(10, 3), (5, 0), (5, a.toNat), (5, 0), (6, 0x23), (1, loneBit l)])
  | .join l a => some (pack [(10, 4), (5, 0), (5, a.toNat), (5, 0), (6, 0x23), (1, loneBit l)])
  | .jinit l a b => some (pack [(10, 5), (5, b.toNat), (5, a.toNat), (5, 0), (6, 0x23), (1, loneBit l)])
  | .yield l => some (pack [(10, 6), (15, 0), (6, 0x23), (1, loneBit l)])
  | .park l a b => some (pack [(10, 7), (5, b.toNat), (5, a.toNat), (5, 0), (6, 0x23), (1, loneBit l)])
  | .exit l a => some (pack [(10, 8), (5, 0), (5, a.toNat), (5, 0), (6, 0x23), (1, loneBit l)])
  | .chprio l b => some (pack [(10, 9), (5, b.toNat), (10, 0), (6, 0x23), (1, loneBit l)])
  | .binit l a b => some (pack [(10, 0), (5, b.toNat), (5, a.toNat), (5, 0), (6, 0x24), (1, loneBit l)])
  | .barr l d a => some (pack [(10, 1), (5, 0), (5, a.toNat), (5, d.toNat), (6, 0x24), (1, loneBit l)])
  | .barw l d a => some (pack [(10, 2), (5, 0), (5, a.toNat), (5, d.toNat), (6, 0x24), (1, loneBit l)])
  | .ginit l a b => some (pack [(10, 3), (5, b.toNat), (5, a.toNat), (5, 0), (6, 0x24), (1, loneBit l)])
  | .gkill l a => some (pack [(10, 4), (5, 0), (5, a.toNat), (5, 0), (6, 0x24), (1, loneBit l)])
  | .gquery l d a => some (pack [(10, 5), (5, 0), (5, a.toNat), (5, d.toNat), (6, 0x24), (1, loneBit l)])
  | .mfs l d i => some (pack [(12, i.toNat), (3, 0), (5, 0), (5, d.toNat), (6, 0x25), (1, loneBit l)])
  | .mts l a i => some (pack [(12, i.toNat), (3, 1), (5, a.toNat), (5, 0), (6, 0x25), (1, loneBit l)])
  | .trap l n => some (pack [(6, n.toNat), (6, 0), (3, 2), (10, 0), (6, 0x25), (1, loneBit l)])
  | .tret l => some (pack [(12, 0), (3, 3), (10, 0), (6, 0x25), (1, loneBit l)])
  | .xinv l a k => some (pack [(3, k.toNat), (9, 0), (3, 4), (5, a.toNat), (5, 0), (6, 0x25), (1, loneBit l)])
  | .mreq l a => some (pack [(10, 0), (5, 0), (5, a.toNat), (5, 0), (6, 0x26), (1, loneBit l)])
  | .mrel l => some (pack [(10, 1), (15, 0), (6, 0x26), (1, loneBit l)])
  | .mfmt l a => some (pack [(10, 2), (5, 0), (5, a.toNat), (5, 0), (6, 0x26), (1, loneBit l)])
  | .mscl l a b => some (pack [(10, 3), (5, b.toNat), (5, a.toNat), (5, 0), (6, 0x26), (1, loneBit l)])
  | .mlid l b => some (pack [(10, 4), (5, b.toNat), (10, 0), (6, 0x26), (1, loneBit l)])
  | .mclr l a => some (pack [(10, 5), (5, 0), (5, a.toNat), (5, 0), (6, 0x26), (1, loneBit l)])
  | .mmac l a b => some (pack [(10, 6), (5, b.toNat), (5, a.toNat), (5, 0), (6, 0x26), (1, loneBit l)])
  | .mmacc l a b => some (pack [(10, 7), (5, b.toNat), (5, a.toNat), (5, 0), (6, 0x26), (1, loneBit l)])
  | .mmacj l a b => some (pack [(10, 8), (5, b.toNat), (5, a.toNat), (5, 0), (6, 0x26), (1, loneBit l)])
  | .mdrn l a b => some (pack [(10, 9), (5, b.toNat), (5, a.toNat), (5, 0), (6, 0x26), (1, loneBit l)])
  | .cpy l a b p => some (pack [(2, 0), (7, 0), (1, p.toNat), (5, b.toNat), (5, a.toNat), (5, 0), (6, 0x27), (1, loneBit l)])
  | .tcpy l a b p => some (pack [(2, 1), (7, 0), (1, p.toNat), (5, b.toNat), (5, a.toNat), (5, 0), (6, 0x27), (1, loneBit l)])
  | .deal l a b p => some (pack [(2, 2), (7, 0), (1, p.toNat), (5, b.toNat), (5, a.toNat), (5, 0), (6, 0x27), (1, loneBit l)])
  | .gath l a b p => some (pack [(2, 3), (7, 0), (1, p.toNat), (5, b.toNat), (5, a.toNat), (5, 0), (6, 0x27), (1, loneBit l)])
  | .cpost l a b => some (pack [(10, 0), (5, b.toNat), (5, a.toNat), (5, 0), (6, 0x28), (1, loneBit l)])
  | .fgload l a b => some (pack [(10, 1), (5, b.toNat), (5, a.toNat), (5, 0), (6, 0x28), (1, loneBit l)])
  | .vclaim l d a b => some (pack [(10, 0), (5, b.toNat), (5, a.toNat), (5, d.toNat), (6, 0x29), (1, loneBit l)])
  | .vrenew l d a b => some (pack [(10, 1), (5, b.toNat), (5, a.toNat), (5, d.toNat), (6, 0x29), (1, loneBit l)])
  | .vrel l => some (pack [(10, 2), (15, 0), (6, 0x29), (1, loneBit l)])
  | .vloop l n a => some (pack [(10, 3), (5, 0), (5, a.toNat), (5, n.toNat), (6, 0x29), (1, loneBit l)])
  | .vbind l a => some (pack [(10, 4), (5, 0), (5, a.toNat), (5, 0), (6, 0x29), (1, loneBit l)])
  | .vunbind l a => some (pack [(10, 5), (5, 0), (5, a.toNat), (5, 0), (6, 0x29), (1, loneBit l)])
  | .lic l d i => some (pack [(15, i.toNat), (5, 0), (5, d.toNat), (6, 0x2A), (1, loneBit l)])
  | .ldnS l d a b ord sc => some (pack [(3, 0), (2, 0), (3, sc.toNat), (2, ord.code.toNat), (5, b.toNat), (5, a.toNat), (5, d.toNat), (6, 0x2B), (1, loneBit l)])
  | .ldnN l d a b ord sc => some (pack [(3, 0), (2, 1), (3, sc.toNat), (2, ord.code.toNat), (5, b.toNat), (5, a.toNat), (5, d.toNat), (6, 0x2B), (1, loneBit l)])
  | .stn l d a b ord sc => some (pack [(3, 0), (2, 2), (3, sc.toNat), (2, ord.code.toNat), (5, b.toNat), (5, a.toNat), (5, d.toNat), (6, 0x2B), (1, loneBit l)])
  | .sgen l a b => some (pack [(10, 0), (5, b.toNat), (5, a.toNat), (5, 0), (6, 0x2C), (1, loneBit l)])
  | .srun l a => some (pack [(10, 1), (5, 0), (5, a.toNat), (5, 0), (6, 0x2C), (1, loneBit l)])
  | .sstat l d a => some (pack [(10, 2), (5, 0), (5, a.toNat), (5, d.toNat), (6, 0x2C), (1, loneBit l)])
  | .hload l a b => some (pack [(10, 3), (5, b.toNat), (5, a.toNat), (5, 0), (6, 0x2C), (1, loneBit l)])
  | .hstart l a b => some (pack [(10, 4), (5, b.toNat), (5, a.toNat), (5, 0), (6, 0x2C), (1, loneBit l)])
  | .anop => some (0x0)
  | .add d a b => some (pack [(11, 0), (5, b.toNat), (5, a.toNat), (5, d.toNat), (6, 0x01)])
  | .sub d a b => some (pack [(11, 1), (5, b.toNat), (5, a.toNat), (5, d.toNat), (6, 0x01)])
  | .andR d a b => some (pack [(11, 2), (5, b.toNat), (5, a.toNat), (5, d.toNat), (6, 0x01)])
  | .orR d a b => some (pack [(11, 3), (5, b.toNat), (5, a.toNat), (5, d.toNat), (6, 0x01)])
  | .xor d a b => some (pack [(11, 4), (5, b.toNat), (5, a.toNat), (5, d.toNat), (6, 0x01)])
  | .andn d a b => some (pack [(11, 5), (5, b.toNat), (5, a.toNat), (5, d.toNat), (6, 0x01)])
  | .sll d a b => some (pack [(11, 6), (5, b.toNat), (5, a.toNat), (5, d.toNat), (6, 0x01)])
  | .srl d a b => some (pack [(11, 7), (5, b.toNat), (5, a.toNat), (5, d.toNat), (6, 0x01)])
  | .sra d a b => some (pack [(11, 8), (5, b.toNat), (5, a.toNat), (5, d.toNat), (6, 0x01)])
  | .rol d a b => some (pack [(11, 9), (5, b.toNat), (5, a.toNat), (5, d.toNat), (6, 0x01)])
  | .addw d a b => some (pack [(11, 10), (5, b.toNat), (5, a.toNat), (5, d.toNat), (6, 0x01)])
  | .subw d a b => some (pack [(11, 11), (5, b.toNat), (5, a.toNat), (5, d.toNat), (6, 0x01)])
  | .addsS d a b => some (pack [(11, 12), (5, b.toNat), (5, a.toNat), (5, d.toNat), (6, 0x01)])
  | .addsN d a b => some (pack [(11, 13), (5, b.toNat), (5, a.toNat), (5, d.toNat), (6, 0x01)])
  | .subsS d a b => some (pack [(11, 14), (5, b.toNat), (5, a.toNat), (5, d.toNat), (6, 0x01)])
  | .subsN d a b => some (pack [(11, 15), (5, b.toNat), (5, a.toNat), (5, d.toNat), (6, 0x01)])
  | .addi d a i => some (pack [(16, i.toNat), (5, a.toNat), (5, d.toNat), (6, 0x02)])
  | .andi d a i => some (pack [(16, i.toNat), (5, a.toNat), (5, d.toNat), (6, 0x03)])
  | .ori d a i => some (pack [(16, i.toNat), (5, a.toNat), (5, d.toNat), (6, 0x04)])
  | .xori d a i => some (pack [(16, i.toNat), (5, a.toNat), (5, d.toNat), (6, 0x05)])
  | .slli d a n => some (pack [(6, n.toNat), (2, 0), (8, 0), (5, a.toNat), (5, d.toNat), (6, 0x06)])
  | .srli d a n => some (pack [(6, n.toNat), (2, 0), (8, 1), (5, a.toNat), (5, d.toNat), (6, 0x06)])
  | .srai d a n => some (pack [(6, n.toNat), (2, 0), (8, 2), (5, a.toNat), (5, d.toNat), (6, 0x06)])
  | .roli d a n => some (pack [(6, n.toNat), (2, 0), (8, 3), (5, a.toNat), (5, d.toNat), (6, 0x06)])
  | .mul d a b => some (pack [(11, 0), (5, b.toNat), (5, a.toNat), (5, d.toNat), (6, 0x07)])
  | .mulhS d a b => some (pack [(11, 1), (5, b.toNat), (5, a.toNat), (5, d.toNat), (6, 0x07)])
  | .mulhN d a b => some (pack [(11, 2), (5, b.toNat), (5, a.toNat), (5, d.toNat), (6, 0x07)])
  | .mulw d a b => some (pack [(11, 3), (5, b.toNat), (5, a.toNat), (5, d.toNat), (6, 0x07)])
  | .divS d a b => some (pack [(11, 4), (5, b.toNat), (5, a.toNat), (5, d.toNat), (6, 0x07)])
  | .divN d a b => some (pack [(11, 5), (5, b.toNat), (5, a.toNat), (5, d.toNat), (6, 0x07)])
  | .remS d a b => some (pack [(11, 6), (5, b.toNat), (5, a.toNat), (5, d.toNat), (6, 0x07)])
  | .remN d a b => some (pack [(11, 7), (5, b.toNat), (5, a.toNat), (5, d.toNat), (6, 0x07)])
  | .seq d a b => some (pack [(6, 0), (5, 0), (5, b.toNat), (5, a.toNat), (5, d.toNat), (6, 0x08)])
  | .sne d a b => some (pack [(6, 1), (5, 0), (5, b.toNat), (5, a.toNat), (5, d.toNat), (6, 0x08)])
  | .sltS d a b => some (pack [(6, 2), (5, 0), (5, b.toNat), (5, a.toNat), (5, d.toNat), (6, 0x08)])
  | .sleS d a b => some (pack [(6, 3), (5, 0), (5, b.toNat), (5, a.toNat), (5, d.toNat), (6, 0x08)])
  | .sltN d a b => some (pack [(6, 4), (5, 0), (5, b.toNat), (5, a.toNat), (5, d.toNat), (6, 0x08)])
  | .sleN d a b => some (pack [(6, 5), (5, 0), (5, b.toNat), (5, a.toNat), (5, d.toNat), (6, 0x08)])
  | .minS d a b => some (pack [(6, 6), (5, 0), (5, b.toNat), (5, a.toNat), (5, d.toNat), (6, 0x08)])
  | .maxS d a b => some (pack [(6, 7), (5, 0), (5, b.toNat), (5, a.toNat), (5, d.toNat), (6, 0x08)])
  | .minN d a b => some (pack [(6, 8), (5, 0), (5, b.toNat), (5, a.toNat), (5, d.toNat), (6, 0x08)])
  | .maxN d a b => some (pack [(6, 9), (5, 0), (5, b.toNat), (5, a.toNat), (5, d.toNat), (6, 0x08)])
  | .sel d a b c => some (pack [(6, 10), (5, c.toNat), (5, b.toNat), (5, a.toNat), (5, d.toNat), (6, 0x08)])
  | .clz d a => some (pack [(11, 0), (5, 0), (5, a.toNat), (5, d.toNat), (6, 0x09)])
  | .ctz d a => some (pack [(11, 1), (5, 0), (5, a.toNat), (5, d.toNat), (6, 0x09)])
  | .popc d a => some (pack [(11, 2), (5, 0), (5, a.toNat), (5, d.toNat), (6, 0x09)])
  | .brev d a => some (pack [(11, 3), (5, 0), (5, a.toNat), (5, d.toNat), (6, 0x09)])
  | .bswap d a => some (pack [(11, 4), (5, 0), (5, a.toNat), (5, d.toNat), (6, 0x09)])
  | .sextB d a => some (pack [(11, 5), (5, 0), (5, a.toNat), (5, d.toNat), (6, 0x09)])
  | .sextH d a => some (pack [(11, 6), (5, 0), (5, a.toNat), (5, d.toNat), (6, 0x09)])
  | .sextW d a => some (pack [(11, 7), (5, 0), (5, a.toNat), (5, d.toNat), (6, 0x09)])
  | .zextW d a => some (pack [(11, 8), (5, 0), (5, a.toNat), (5, d.toNat), (6, 0x09)])
  | .bext d a b => some (pack [(11, 9), (5, b.toNat), (5, a.toNat), (5, d.toNat), (6, 0x09)])
  | .bins d a b => some (pack [(11, 10), (5, b.toNat), (5, a.toNat), (5, d.toNat), (6, 0x09)])
  | .lui d k i => some (pack [(16, i.toNat), (2, k.toNat), (3, 0), (5, d.toNat), (6, 0x0A)])
  | .fadd d a b => some (pack [(11, 0), (5, b.toNat), (5, a.toNat), (5, d.toNat), (6, 0x0B)])
  | .fsub d a b => some (pack [(11, 1), (5, b.toNat), (5, a.toNat), (5, d.toNat), (6, 0x0B)])
  | .fmul d a b => some (pack [(11, 2), (5, b.toNat), (5, a.toNat), (5, d.toNat), (6, 0x0B)])
  | .fdiv d a b => some (pack [(11, 3), (5, b.toNat), (5, a.toNat), (5, d.toNat), (6, 0x0B)])
  | .fsqrt d a => some (pack [(11, 4), (5, 0), (5, a.toNat), (5, d.toNat), (6, 0x0B)])
  | .fmin d a b => some (pack [(11, 5), (5, b.toNat), (5, a.toNat), (5, d.toNat), (6, 0x0B)])
  | .fmax d a b => some (pack [(11, 6), (5, b.toNat), (5, a.toNat), (5, d.toNat), (6, 0x0B)])
  | .fmint d a b => some (pack [(11, 7), (5, b.toNat), (5, a.toNat), (5, d.toNat), (6, 0x0B)])
  | .fmaxt d a b => some (pack [(11, 8), (5, b.toNat), (5, a.toNat), (5, d.toNat), (6, 0x0B)])
  | .fabs d a => some (pack [(11, 9), (5, 0), (5, a.toNat), (5, d.toNat), (6, 0x0B)])
  | .fneg d a => some (pack [(11, 10), (5, 0), (5, a.toNat), (5, d.toNat), (6, 0x0B)])
  | .fsgnj d a b => some (pack [(11, 11), (5, b.toNat), (5, a.toNat), (5, d.toNat), (6, 0x0B)])
  | .fmadd d a b c => some (pack [(6, 0), (5, c.toNat), (5, b.toNat), (5, a.toNat), (5, d.toNat), (6, 0x0C)])
  | .fmsub d a b c => some (pack [(6, 1), (5, c.toNat), (5, b.toNat), (5, a.toNat), (5, d.toNat), (6, 0x0C)])
  | .fnmadd d a b c => some (pack [(6, 2), (5, c.toNat), (5, b.toNat), (5, a.toNat), (5, d.toNat), (6, 0x0C)])
  | .fnmsub d a b c => some (pack [(6, 3), (5, c.toNat), (5, b.toNat), (5, a.toNat), (5, d.toNat), (6, 0x0C)])
  | .feq d a b => some (pack [(11, 0), (5, b.toNat), (5, a.toNat), (5, d.toNat), (6, 0x0D)])
  | .flt d a b => some (pack [(11, 1), (5, b.toNat), (5, a.toNat), (5, d.toNat), (6, 0x0D)])
  | .fle d a b => some (pack [(11, 2), (5, b.toNat), (5, a.toNat), (5, d.toNat), (6, 0x0D)])
  | .funord d a b => some (pack [(11, 3), (5, b.toNat), (5, a.toNat), (5, d.toNat), (6, 0x0D)])
  | .fclass d a => some (pack [(11, 4), (5, 0), (5, a.toNat), (5, d.toNat), (6, 0x0D)])
  | .fkey d a => some (pack [(11, 5), (5, 0), (5, a.toNat), (5, d.toNat), (6, 0x0D)])
  | .fcvtF32S32 d a => some (pack [(11, 16), (5, 0), (5, a.toNat), (5, d.toNat), (6, 0x0D)])
  | .fcvtF32S64 d a => some (pack [(11, 17), (5, 0), (5, a.toNat), (5, d.toNat), (6, 0x0D)])
  | .fcvtS32F32 d a => some (pack [(11, 18), (5, 0), (5, a.toNat), (5, d.toNat), (6, 0x0D)])
  | .fcvtS64F32 d a => some (pack [(11, 19), (5, 0), (5, a.toNat), (5, d.toNat), (6, 0x0D)])
  | .fcvtF32Bf16 d a => some (pack [(11, 20), (5, 0), (5, a.toNat), (5, d.toNat), (6, 0x0D)])
  | .fcvtBf16F32 d a => some (pack [(11, 21), (5, 0), (5, a.toNat), (5, d.toNat), (6, 0x0D)])
  | .fcvtF32E4m3 d a => some (pack [(11, 22), (5, 0), (5, a.toNat), (5, d.toNat), (6, 0x0D)])
  | .fcvtE4m3F32 d a => some (pack [(11, 23), (5, 0), (5, a.toNat), (5, d.toNat), (6, 0x0D)])
  | .fcvtF32E2m1 d a => some (pack [(11, 24), (5, 0), (5, a.toNat), (5, d.toNat), (6, 0x0D)])
  | .fcvtE2m1F32 d a => some (pack [(11, 25), (5, 0), (5, a.toNat), (5, d.toNat), (6, 0x0D)])
  | .fcvtF32N32 d a => some (pack [(11, 26), (5, 0), (5, a.toNat), (5, d.toNat), (6, 0x0D)])
  | .fcvtN32F32 d a => some (pack [(11, 27), (5, 0), (5, a.toNat), (5, d.toNat), (6, 0x0D)])
  | .vadd d a b m t => some (pack [(4, 0), (4, t.code.toNat), (3, m.toNat), (5, b.toNat), (5, a.toNat), (5, d.toNat), (6, 0x10)])
  | .vsub d a b m t => some (pack [(4, 1), (4, t.code.toNat), (3, m.toNat), (5, b.toNat), (5, a.toNat), (5, d.toNat), (6, 0x10)])
  | .vmul d a b m t => some (pack [(4, 2), (4, t.code.toNat), (3, m.toNat), (5, b.toNat), (5, a.toNat), (5, d.toNat), (6, 0x10)])
  | .vdiv d a b m t => some (pack [(4, 3), (4, t.code.toNat), (3, m.toNat), (5, b.toNat), (5, a.toNat), (5, d.toNat), (6, 0x10)])
  | .vmin d a b m t => some (pack [(4, 4), (4, t.code.toNat), (3, m.toNat), (5, b.toNat), (5, a.toNat), (5, d.toNat), (6, 0x10)])
  | .vmax d a b m t => some (pack [(4, 5), (4, t.code.toNat), (3, m.toNat), (5, b.toNat), (5, a.toNat), (5, d.toNat), (6, 0x10)])
  | .vand d a b m t => some (pack [(4, 6), (4, t.code.toNat), (3, m.toNat), (5, b.toNat), (5, a.toNat), (5, d.toNat), (6, 0x10)])
  | .vor d a b m t => some (pack [(4, 7), (4, t.code.toNat), (3, m.toNat), (5, b.toNat), (5, a.toNat), (5, d.toNat), (6, 0x10)])
  | .vxor d a b m t => some (pack [(4, 8), (4, t.code.toNat), (3, m.toNat), (5, b.toNat), (5, a.toNat), (5, d.toNat), (6, 0x10)])
  | .vsll d a b m t => some (pack [(4, 9), (4, t.code.toNat), (3, m.toNat), (5, b.toNat), (5, a.toNat), (5, d.toNat), (6, 0x10)])
  | .vsrl d a b m t => some (pack [(4, 10), (4, t.code.toNat), (3, m.toNat), (5, b.toNat), (5, a.toNat), (5, d.toNat), (6, 0x10)])
  | .vsra d a b m t => some (pack [(4, 11), (4, t.code.toNat), (3, m.toNat), (5, b.toNat), (5, a.toNat), (5, d.toNat), (6, 0x10)])
  | .vabs d a m t => some (pack [(4, 12), (4, t.code.toNat), (3, m.toNat), (5, 0), (5, a.toNat), (5, d.toNat), (6, 0x10)])
  | .vneg d a m t => some (pack [(4, 13), (4, t.code.toNat), (3, m.toNat), (5, 0), (5, a.toNat), (5, d.toNat), (6, 0x10)])
  | .vadds d a b m t => some (pack [(4, 14), (4, t.code.toNat), (3, m.toNat), (5, b.toNat), (5, a.toNat), (5, d.toNat), (6, 0x10)])
  | .vsubs d a b m t => some (pack [(4, 15), (4, t.code.toNat), (3, m.toNat), (5, b.toNat), (5, a.toNat), (5, d.toNat), (6, 0x10)])
  | .vfma d a b c m => some (pack [(3, 0), (3, m.toNat), (5, c.toNat), (5, b.toNat), (5, a.toNat), (5, d.toNat), (6, 0x11)])
  | .vfms d a b c m => some (pack [(3, 1), (3, m.toNat), (5, c.toNat), (5, b.toNat), (5, a.toNat), (5, d.toNat), (6, 0x11)])
  | .vfnma d a b c m => some (pack [(3, 2), (3, m.toNat), (5, c.toNat), (5, b.toNat), (5, a.toNat), (5, d.toNat), (6, 0x11)])
  | .vfnms d a b c m => some (pack [(3, 3), (3, m.toNat), (5, c.toNat), (5, b.toNat), (5, a.toNat), (5, d.toNat), (6, 0x11)])
  | .vmadS d a b c m => some (pack [(3, 4), (3, m.toNat), (5, c.toNat), (5, b.toNat), (5, a.toNat), (5, d.toNat), (6, 0x11)])
  | .vmadN d a b c m => some (pack [(3, 5), (3, m.toNat), (5, c.toNat), (5, b.toNat), (5, a.toNat), (5, d.toNat), (6, 0x11)])
  | .veq d a b m t => some (pack [(4, 0), (4, t.code.toNat), (3, m.toNat), (5, b.toNat), (5, a.toNat), (3, d.toNat), (2, 0), (6, 0x12)])
  | .vne d a b m t => some (pack [(4, 1), (4, t.code.toNat), (3, m.toNat), (5, b.toNat), (5, a.toNat), (3, d.toNat), (2, 0), (6, 0x12)])
  | .vlt d a b m t => some (pack [(4, 2), (4, t.code.toNat), (3, m.toNat), (5, b.toNat), (5, a.toNat), (3, d.toNat), (2, 0), (6, 0x12)])
  | .vle d a b m t => some (pack [(4, 3), (4, t.code.toNat), (3, m.toNat), (5, b.toNat), (5, a.toNat), (3, d.toNat), (2, 0), (6, 0x12)])
  | .vunord d a b m t => some (pack [(4, 4), (4, t.code.toNat), (3, m.toNat), (5, b.toNat), (5, a.toNat), (3, d.toNat), (2, 0), (6, 0x12)])
  | .vltt d a b m t => some (pack [(4, 5), (4, t.code.toNat), (3, m.toNat), (5, b.toNat), (5, a.toNat), (3, d.toNat), (2, 0), (6, 0x12)])
  | .vmov d a m => some (pack [(4, 0), (4, 0), (3, m.toNat), (5, 0), (5, a.toNat), (5, d.toNat), (6, 0x13)])
  | .vbcast d a m => some (pack [(4, 1), (4, 0), (3, m.toNat), (5, 0), (5, a.toNat), (5, d.toNat), (6, 0x13)])
  | .vrot d a b m => some (pack [(4, 2), (4, 0), (3, m.toNat), (5, b.toNat), (5, a.toNat), (5, d.toNat), (6, 0x13)])
  | .vshuf d a b m => some (pack [(4, 3), (4, 0), (3, m.toNat), (5, b.toNat), (5, a.toNat), (5, d.toNat), (6, 0x13)])
  | .vcomp d a m => some (pack [(4, 4), (4, 0), (3, m.toNat), (5, 0), (5, a.toNat), (5, d.toNat), (6, 0x13)])
  | .vexpd d a m => some (pack [(4, 5), (4, 0), (3, m.toNat), (5, 0), (5, a.toNat), (5, d.toNat), (6, 0x13)])
  | .vins d a b => some (pack [(4, 6), (7, 0), (5, b.toNat), (5, a.toNat), (5, d.toNat), (6, 0x13)])
  | .vext d a b => some (pack [(4, 7), (7, 0), (5, b.toNat), (5, a.toNat), (5, d.toNat), (6, 0x13)])
  | .vcvt d a m t s => some (pack [(4, s.code.toNat), (4, t.code.toNat), (3, m.toNat), (5, 0), (5, a.toNat), (5, d.toNat), (6, 0x14)])
  | .vexp d a m => some (pack [(4, 0), (4, 0), (3, m.toNat), (5, 0), (5, a.toNat), (5, d.toNat), (6, 0x15)])
  | .vexp2 d a m => some (pack [(4, 1), (4, 0), (3, m.toNat), (5, 0), (5, a.toNat), (5, d.toNat), (6, 0x15)])
  | .vlog d a m => some (pack [(4, 2), (4, 0), (3, m.toNat), (5, 0), (5, a.toNat), (5, d.toNat), (6, 0x15)])
  | .vlog2 d a m => some (pack [(4, 3), (4, 0), (3, m.toNat), (5, 0), (5, a.toNat), (5, d.toNat), (6, 0x15)])
  | .vrcp d a m => some (pack [(4, 4), (4, 0), (3, m.toNat), (5, 0), (5, a.toNat), (5, d.toNat), (6, 0x15)])
  | .vsqrt d a m => some (pack [(4, 5), (4, 0), (3, m.toNat), (5, 0), (5, a.toNat), (5, d.toNat), (6, 0x15)])
  | .vrsqrt d a m => some (pack [(4, 6), (4, 0), (3, m.toNat), (5, 0), (5, a.toNat), (5, d.toNat), (6, 0x15)])
  | .vsin d a m => some (pack [(4, 7), (4, 0), (3, m.toNat), (5, 0), (5, a.toNat), (5, d.toNat), (6, 0x15)])
  | .vcos d a m => some (pack [(4, 8), (4, 0), (3, m.toNat), (5, 0), (5, a.toNat), (5, d.toNat), (6, 0x15)])
  | .vtanh d a m => some (pack [(4, 9), (4, 0), (3, m.toNat), (5, 0), (5, a.toNat), (5, d.toNat), (6, 0x15)])
  | .vsigm d a m => some (pack [(4, 10), (4, 0), (3, m.toNat), (5, 0), (5, a.toNat), (5, d.toNat), (6, 0x15)])
  | .verf d a m => some (pack [(4, 11), (4, 0), (3, m.toNat), (5, 0), (5, a.toNat), (5, d.toNat), (6, 0x15)])
  | .vrsum d a m t => some (pack [(4, 0), (4, t.code.toNat), (3, m.toNat), (5, 0), (5, a.toNat), (5, d.toNat), (6, 0x16)])
  | .vrmax d a m t => some (pack [(4, 1), (4, t.code.toNat), (3, m.toNat), (5, 0), (5, a.toNat), (5, d.toNat), (6, 0x16)])
  | .vrmin d a m t => some (pack [(4, 2), (4, t.code.toNat), (3, m.toNat), (5, 0), (5, a.toNat), (5, d.toNat), (6, 0x16)])
  | .vrmaxt d a m t => some (pack [(4, 3), (4, t.code.toNat), (3, m.toNat), (5, 0), (5, a.toNat), (5, d.toNat), (6, 0x16)])
  | .vrmint d a m t => some (pack [(4, 4), (4, t.code.toNat), (3, m.toNat), (5, 0), (5, a.toNat), (5, d.toNat), (6, 0x16)])
  | .vrand d a m t => some (pack [(4, 5), (4, t.code.toNat), (3, m.toNat), (5, 0), (5, a.toNat), (5, d.toNat), (6, 0x16)])
  | .vror d a m t => some (pack [(4, 6), (4, t.code.toNat), (3, m.toNat), (5, 0), (5, a.toNat), (5, d.toNat), (6, 0x16)])
  | .vrxor d a m t => some (pack [(4, 7), (4, t.code.toNat), (3, m.toNat), (5, 0), (5, a.toNat), (5, d.toNat), (6, 0x16)])
  | .vskq a b m t => some (pack [(4, 0), (4, t.code.toNat), (3, m.toNat), (5, b.toNat), (5, a.toNat), (5, 0), (6, 0x17)])
  | .vskh a b m t => some (pack [(4, 1), (4, t.code.toNat), (3, m.toNat), (5, b.toNat), (5, a.toNat), (5, 0), (6, 0x17)])
  | .vskd a b m t => some (pack [(4, 2), (4, t.code.toNat), (3, m.toNat), (5, b.toNat), (5, a.toNat), (5, 0), (6, 0x17)])
  | .skinit a b => some (pack [(11, 0), (5, b.toNat), (5, a.toNat), (5, 0), (6, 0x18)])
  | .skmerge a b => some (pack [(11, 1), (5, b.toNat), (5, a.toNat), (5, 0), (6, 0x18)])
  | .skquant d a b => some (pack [(11, 2), (5, b.toNat), (5, a.toNat), (5, d.toNat), (6, 0x18)])
  | .skrank d a b => some (pack [(11, 3), (5, b.toNat), (5, a.toNat), (5, d.toNat), (6, 0x18)])
  | .skest d a b => some (pack [(11, 4), (5, b.toNat), (5, a.toNat), (5, d.toNat), (6, 0x18)])
  | .skcount d a => some (pack [(11, 5), (5, 0), (5, a.toNat), (5, d.toNat), (6, 0x18)])
  | .mand d a b => some (pack [(4, 0), (7, 0), (3, b.toNat), (2, 0), (3, a.toNat), (2, 0), (3, d.toNat), (2, 0), (6, 0x19)])
  | .mor d a b => some (pack [(4, 1), (7, 0), (3, b.toNat), (2, 0), (3, a.toNat), (2, 0), (3, d.toNat), (2, 0), (6, 0x19)])
  | .mxor d a b => some (pack [(4, 2), (7, 0), (3, b.toNat), (2, 0), (3, a.toNat), (2, 0), (3, d.toNat), (2, 0), (6, 0x19)])
  | .mandn d a b => some (pack [(4, 3), (7, 0), (3, b.toNat), (2, 0), (3, a.toNat), (2, 0), (3, d.toNat), (2, 0), (6, 0x19)])
  | .mnot d a => some (pack [(4, 4), (12, 0), (3, a.toNat), (2, 0), (3, d.toNat), (2, 0), (6, 0x19)])
  | .mpop d a => some (pack [(4, 5), (12, 0), (3, a.toNat), (2, 0), (5, d.toNat), (6, 0x19)])
  | .mfrst d a => some (pack [(4, 6), (12, 0), (3, a.toNat), (2, 0), (5, d.toNat), (6, 0x19)])
  | .mfromg d a => some (pack [(4, 7), (12, 0), (5, a.toNat), (3, d.toNat), (2, 0), (6, 0x19)])
  | .mtog d a => some (pack [(4, 8), (12, 0), (3, a.toNat), (2, 0), (5, d.toNat), (6, 0x19)])
  | .xend => some (pack [(26, 0), (6, 0x00)])
  | .xadd d a b t => some (pack [(4, t.toNat), (10, 0), (4, b.toNat), (4, a.toNat), (4, d.toNat), (6, 0x01)])
  | .xmax d a b t => some (pack [(4, t.toNat), (10, 0), (4, b.toNat), (4, a.toNat), (4, d.toNat), (6, 0x02)])
  | .xmin d a b t => some (pack [(4, t.toNat), (10, 0), (4, b.toNat), (4, a.toNat), (4, d.toNat), (6, 0x03)])
  | .xmx6 d a b => some (pack [(14, 0), (4, b.toNat), (4, a.toNat), (4, d.toNat), (6, 0x04)])
  | .xpack d a b => some (pack [(14, 0), (4, b.toNat), (4, a.toNat), (4, d.toNat), (6, 0x05)])
  | .xunpk d a h => some (pack [(1, h.toNat), (17, 0), (4, a.toNat), (4, d.toNat), (6, 0x06)])
  | .xmov d a => some (pack [(18, 0), (4, a.toNat), (4, d.toNat), (6, 0x07)])
  | .xrecv d i => some (pack [(1, i.toNat), (21, 0), (4, d.toNat), (6, 0x08)])
  | .xemit a o => some (pack [(2, o.toNat), (16, 0), (4, a.toNat), (4, 0), (6, 0x09)])
  | .sequencerTrap _ _ _ => none
  | .sequencerEntry _ => none
  | .streamItem _ _ => none
  | .ownerAccess _ => none
  | .subByteStore _ => none
  | .versionedStoreAtOwner _ => none
  | .versionedLoadAtOwner _ => none
  | .reclaimAtOwner _ => none
  | .initialiseAtOwner _ => none
  | .heldCompletion _ => none
  | .waiterRetry _ => none
  | .acknowledgement _ => none
  | .widen _ => none
  | .widened _ => none
  | .released _ => none
  | .translationWalk _ _ _ _ => none
  | .engineBeat _ => none
  | .commandCompletion _ _ => none
  | .msRequest _ => none
  | .msReply _ => none
  | .frameReceive _ _ => none
  | .pfcRepeat _ _ => none
  | .pfcFrame _ _ _ => none
  | .pfcQuantaExpire _ _ => none
  | .ingestDeposit _ _ => none
  | .ringDescriptorWrite _ _ => none
  | .portRegisterWrite _ _ => none
  | .frameTransmit _ _ => none
  | .partGo _ => none
  | .drainComplete => none
  | .drainTimeout => none
  | .flushComplete => none
  | .powerComplete => none
  | .enumerate => none
  | .roleChangeStop => none
  | .frzctlResume _ => none
  | .frzctlDiscard _ => none
  | .peerRequest _ => none
  | .peerErrorReply _ => none
  | .poolHeadWrite _ _ => none
  | .recfree _ _ => none
  | .slotFill _ => none
  | .spillParked _ => none
  | .preempt _ => none
  | .spillComplete _ => none
  | .taskSteal _ => none
  | .laneGrant _ => none
  | .leaseGrant _ => none
  | .mrelEffect _ => none
  | .mfmtExecute _ => none
  | .mmacExecute _ => none
  | .mlidExecute _ => none
  | .mclrExecute _ => none
  | .mdrnExecute _ => none
  | .thermalPeriod _ => none
  | .launchTake _ => none
  | .levelChange _ => none
  | .queueBarrier _ => none
  | .contextFence _ => none
  | .launchQueueWrite _ _ => none
  | .startMessage _ => none
  | .doneNotice _ => none
  | .checkRunAEnd _ _ => none
  | .checkRunBEnd _ _ => none
  | .commitTurn _ => none
  | .chunkCommit _ => none
  | .logUnitWrite _ => none
  | .logPadTimeout _ => none
  | .logctlWrite _ _ => none
  | .logtailWrite _ _ => none
  | .logheadWrite _ _ => none
  | .channelSendAtHome _ => none
  | .channelReceiveAtHome _ => none
  | .sendRetry _ => none
  | .drainQueryReply _ _ _ => none
  | .tileTransfer _ => none
  | .selectClaim _ _ => none
  | .timeoutFire _ => none
  | .channelTimeout _ => none
  | .withdrawal _ => none
  | .spawnPlace _ => none
  | .barrierArrival _ => none
  | .handlerRequest _ => none
  | .faultPost _ _ => none
  | .fltresRetry _ _ => none
  | .fltresSkip _ _ => none
  | .fltresDiscard _ _ => none
  | .contextEvict _ => none
  | .contextRestore _ => none
  | .triggerLatch _ _ => none
  | .deadlock => none
  | .collAnnounce _ => none
  | .announceRetry _ => none
  | .chunkGrant _ _ _ => none
  | .chunkArbitration _ => none
  | .collComplete _ _ => none
  | .trussPush _ => none
  | .trussPop _ => none
  | .trussQueueWrite _ _ => none
  | .linkFlit _ _ => none
  | .linkReplay _ _ => none
  | .linkRetrain _ _ => none
  | .hostBar0 _ _ => none
  | .hostLaunchWrite _ _ => none
  | .hostAperture _ _ _ => none
  | .msixSend _ => none
  | .hostReadCompletion _ _ _ => none
  | .hostReadTimeout _ => none
  | .hwakeExpire => none
  | .powerOn => none
  | .bootStage _ => none
  | .bootWatchdog => none
  | .reset => none
  | .recgo _ => none
  | .calc => none
  | .attctlGo => none
  | .attestDone => none
  | .powerCapStep _ => none
  | .thermalTrip => none
  | .tripRelease => none
  | .blockRead _ => none
  | .blockWrite _ _ => none
  | .registerWrite _ _ => none
  | .loadReturn _ => none
  | .linkUp _ => none
  | .lossOfPower => none

/-- The lone extension an instruction carries. -/
def loneOf (i : Instr) : Lone :=
  match i with
  | .cnop l => l
  | .halt l => l
  | .brk l _ => l
  | .br l _ => l
  | .jal l _ => l
  | .jr l _ => l
  | .jalr l _ _ => l
  | .beq l _ _ _ => l
  | .bne l _ _ _ => l
  | .bltS l _ _ _ => l
  | .bgeS l _ _ _ => l
  | .bltN l _ _ _ => l
  | .bgeN l _ _ _ => l
  | .lp l _ _ => l
  | .lpi l _ _ => l
  | .ldbS l _ _ _ _ _ => l
  | .ldbN l _ _ _ _ _ => l
  | .ldhS l _ _ _ _ _ => l
  | .ldhN l _ _ _ _ _ => l
  | .ldwS l _ _ _ _ _ => l
  | .ldwN l _ _ _ _ _ => l
  | .ldd l _ _ _ _ _ => l
  | .stb l _ _ _ _ _ => l
  | .sth l _ _ _ _ _ => l
  | .stw l _ _ _ _ _ => l
  | .std l _ _ _ _ _ => l
  | .ldv l _ _ _ _ _ => l
  | .stv l _ _ _ _ _ => l
  | .rcl l _ _ _ _ => l
  | .vtag l _ _ _ _ => l
  | .vinit l _ _ _ _ _ => l
  | .aswp l _ _ _ _ _ => l
  | .aswpd l _ _ _ _ _ => l
  | .acas l _ _ _ _ _ => l
  | .acasd l _ _ _ _ _ => l
  | .aadd l _ _ _ _ _ => l
  | .aaddd l _ _ _ _ _ => l
  | .aand l _ _ _ _ _ => l
  | .aandd l _ _ _ _ _ => l
  | .aor l _ _ _ _ _ => l
  | .aord l _ _ _ _ _ => l
  | .axor l _ _ _ _ _ => l
  | .axord l _ _ _ _ _ => l
  | .amaxS l _ _ _ _ _ => l
  | .amaxdS l _ _ _ _ _ => l
  | .aminS l _ _ _ _ _ => l
  | .amindS l _ _ _ _ _ => l
  | .amaxN l _ _ _ _ _ => l
  | .amaxdN l _ _ _ _ _ => l
  | .aminN l _ _ _ _ _ => l
  | .amindN l _ _ _ _ _ => l
  | .afadd l _ _ _ _ _ => l
  | .afmax l _ _ _ _ _ => l
  | .afmin l _ _ _ _ _ => l
  | .fence l _ _ => l
  | .waitc l _ _ _ _ _ => l
  | .vld l _ _ _ _ _ => l
  | .vst l _ _ _ _ _ => l
  | .vldx l _ _ _ _ _ => l
  | .vstx l _ _ _ _ _ => l
  | .csend l _ _ _ => l
  | .crecv l _ _ _ => l
  | .csendb l _ _ _ => l
  | .crecvb l _ _ _ => l
  | .csendt l _ _ _ => l
  | .crecvt l _ _ _ => l
  | .cpoll l _ _ => l
  | .cclose l _ => l
  | .csendp l _ _ _ => l
  | .crecvp l _ _ _ => l
  | .chsel l _ _ _ => l
  | .chnew l _ _ => l
  | .chdel l _ => l
  | .spawn l _ _ _ => l
  | .spawnk l _ _ _ => l
  | .callat l _ _ _ => l
  | .fork l _ => l
  | .join l _ => l
  | .jinit l _ _ => l
  | .yield l => l
  | .park l _ _ => l
  | .exit l _ => l
  | .chprio l _ => l
  | .binit l _ _ => l
  | .barr l _ _ => l
  | .barw l _ _ => l
  | .ginit l _ _ => l
  | .gkill l _ => l
  | .gquery l _ _ => l
  | .mfs l _ _ => l
  | .mts l _ _ => l
  | .trap l _ => l
  | .tret l => l
  | .xinv l _ _ => l
  | .mreq l _ => l
  | .mrel l => l
  | .mfmt l _ => l
  | .mscl l _ _ => l
  | .mlid l _ => l
  | .mclr l _ => l
  | .mmac l _ _ => l
  | .mmacc l _ _ => l
  | .mmacj l _ _ => l
  | .mdrn l _ _ => l
  | .cpy l _ _ _ => l
  | .tcpy l _ _ _ => l
  | .deal l _ _ _ => l
  | .gath l _ _ _ => l
  | .cpost l _ _ => l
  | .fgload l _ _ => l
  | .vclaim l _ _ _ => l
  | .vrenew l _ _ _ => l
  | .vrel l => l
  | .vloop l _ _ => l
  | .vbind l _ => l
  | .vunbind l _ => l
  | .lic l _ _ => l
  | .ldnS l _ _ _ _ _ => l
  | .ldnN l _ _ _ _ _ => l
  | .stn l _ _ _ _ _ => l
  | .sgen l _ _ => l
  | .srun l _ => l
  | .sstat l _ _ => l
  | .hload l _ _ => l
  | .hstart l _ _ => l
  | .anop => none
  | .add _ _ _ => none
  | .sub _ _ _ => none
  | .andR _ _ _ => none
  | .orR _ _ _ => none
  | .xor _ _ _ => none
  | .andn _ _ _ => none
  | .sll _ _ _ => none
  | .srl _ _ _ => none
  | .sra _ _ _ => none
  | .rol _ _ _ => none
  | .addw _ _ _ => none
  | .subw _ _ _ => none
  | .addsS _ _ _ => none
  | .addsN _ _ _ => none
  | .subsS _ _ _ => none
  | .subsN _ _ _ => none
  | .addi _ _ _ => none
  | .andi _ _ _ => none
  | .ori _ _ _ => none
  | .xori _ _ _ => none
  | .slli _ _ _ => none
  | .srli _ _ _ => none
  | .srai _ _ _ => none
  | .roli _ _ _ => none
  | .mul _ _ _ => none
  | .mulhS _ _ _ => none
  | .mulhN _ _ _ => none
  | .mulw _ _ _ => none
  | .divS _ _ _ => none
  | .divN _ _ _ => none
  | .remS _ _ _ => none
  | .remN _ _ _ => none
  | .seq _ _ _ => none
  | .sne _ _ _ => none
  | .sltS _ _ _ => none
  | .sleS _ _ _ => none
  | .sltN _ _ _ => none
  | .sleN _ _ _ => none
  | .minS _ _ _ => none
  | .maxS _ _ _ => none
  | .minN _ _ _ => none
  | .maxN _ _ _ => none
  | .sel _ _ _ _ => none
  | .clz _ _ => none
  | .ctz _ _ => none
  | .popc _ _ => none
  | .brev _ _ => none
  | .bswap _ _ => none
  | .sextB _ _ => none
  | .sextH _ _ => none
  | .sextW _ _ => none
  | .zextW _ _ => none
  | .bext _ _ _ => none
  | .bins _ _ _ => none
  | .lui _ _ _ => none
  | .fadd _ _ _ => none
  | .fsub _ _ _ => none
  | .fmul _ _ _ => none
  | .fdiv _ _ _ => none
  | .fsqrt _ _ => none
  | .fmin _ _ _ => none
  | .fmax _ _ _ => none
  | .fmint _ _ _ => none
  | .fmaxt _ _ _ => none
  | .fabs _ _ => none
  | .fneg _ _ => none
  | .fsgnj _ _ _ => none
  | .fmadd _ _ _ _ => none
  | .fmsub _ _ _ _ => none
  | .fnmadd _ _ _ _ => none
  | .fnmsub _ _ _ _ => none
  | .feq _ _ _ => none
  | .flt _ _ _ => none
  | .fle _ _ _ => none
  | .funord _ _ _ => none
  | .fclass _ _ => none
  | .fkey _ _ => none
  | .fcvtF32S32 _ _ => none
  | .fcvtF32S64 _ _ => none
  | .fcvtS32F32 _ _ => none
  | .fcvtS64F32 _ _ => none
  | .fcvtF32Bf16 _ _ => none
  | .fcvtBf16F32 _ _ => none
  | .fcvtF32E4m3 _ _ => none
  | .fcvtE4m3F32 _ _ => none
  | .fcvtF32E2m1 _ _ => none
  | .fcvtE2m1F32 _ _ => none
  | .fcvtF32N32 _ _ => none
  | .fcvtN32F32 _ _ => none
  | .vadd _ _ _ _ _ => none
  | .vsub _ _ _ _ _ => none
  | .vmul _ _ _ _ _ => none
  | .vdiv _ _ _ _ _ => none
  | .vmin _ _ _ _ _ => none
  | .vmax _ _ _ _ _ => none
  | .vand _ _ _ _ _ => none
  | .vor _ _ _ _ _ => none
  | .vxor _ _ _ _ _ => none
  | .vsll _ _ _ _ _ => none
  | .vsrl _ _ _ _ _ => none
  | .vsra _ _ _ _ _ => none
  | .vabs _ _ _ _ => none
  | .vneg _ _ _ _ => none
  | .vadds _ _ _ _ _ => none
  | .vsubs _ _ _ _ _ => none
  | .vfma _ _ _ _ _ => none
  | .vfms _ _ _ _ _ => none
  | .vfnma _ _ _ _ _ => none
  | .vfnms _ _ _ _ _ => none
  | .vmadS _ _ _ _ _ => none
  | .vmadN _ _ _ _ _ => none
  | .veq _ _ _ _ _ => none
  | .vne _ _ _ _ _ => none
  | .vlt _ _ _ _ _ => none
  | .vle _ _ _ _ _ => none
  | .vunord _ _ _ _ _ => none
  | .vltt _ _ _ _ _ => none
  | .vmov _ _ _ => none
  | .vbcast _ _ _ => none
  | .vrot _ _ _ _ => none
  | .vshuf _ _ _ _ => none
  | .vcomp _ _ _ => none
  | .vexpd _ _ _ => none
  | .vins _ _ _ => none
  | .vext _ _ _ => none
  | .vcvt _ _ _ _ _ => none
  | .vexp _ _ _ => none
  | .vexp2 _ _ _ => none
  | .vlog _ _ _ => none
  | .vlog2 _ _ _ => none
  | .vrcp _ _ _ => none
  | .vsqrt _ _ _ => none
  | .vrsqrt _ _ _ => none
  | .vsin _ _ _ => none
  | .vcos _ _ _ => none
  | .vtanh _ _ _ => none
  | .vsigm _ _ _ => none
  | .verf _ _ _ => none
  | .vrsum _ _ _ _ => none
  | .vrmax _ _ _ _ => none
  | .vrmin _ _ _ _ => none
  | .vrmaxt _ _ _ _ => none
  | .vrmint _ _ _ _ => none
  | .vrand _ _ _ _ => none
  | .vror _ _ _ _ => none
  | .vrxor _ _ _ _ => none
  | .vskq _ _ _ _ => none
  | .vskh _ _ _ _ => none
  | .vskd _ _ _ _ => none
  | .skinit _ _ => none
  | .skmerge _ _ => none
  | .skquant _ _ _ => none
  | .skrank _ _ _ => none
  | .skest _ _ _ => none
  | .skcount _ _ => none
  | .mand _ _ _ => none
  | .mor _ _ _ => none
  | .mxor _ _ _ => none
  | .mandn _ _ _ => none
  | .mnot _ _ => none
  | .mpop _ _ => none
  | .mfrst _ _ => none
  | .mfromg _ _ => none
  | .mtog _ _ => none
  | .xend => none
  | .xadd _ _ _ _ => none
  | .xmax _ _ _ _ => none
  | .xmin _ _ _ _ => none
  | .xmx6 _ _ _ => none
  | .xpack _ _ _ => none
  | .xunpk _ _ _ => none
  | .xmov _ _ => none
  | .xrecv _ _ => none
  | .xemit _ _ => none
  | .sequencerTrap _ _ _ => none
  | .sequencerEntry _ => none
  | .streamItem _ _ => none
  | .ownerAccess _ => none
  | .subByteStore _ => none
  | .versionedStoreAtOwner _ => none
  | .versionedLoadAtOwner _ => none
  | .reclaimAtOwner _ => none
  | .initialiseAtOwner _ => none
  | .heldCompletion _ => none
  | .waiterRetry _ => none
  | .acknowledgement _ => none
  | .widen _ => none
  | .widened _ => none
  | .released _ => none
  | .translationWalk _ _ _ _ => none
  | .engineBeat _ => none
  | .commandCompletion _ _ => none
  | .msRequest _ => none
  | .msReply _ => none
  | .frameReceive _ _ => none
  | .pfcRepeat _ _ => none
  | .pfcFrame _ _ _ => none
  | .pfcQuantaExpire _ _ => none
  | .ingestDeposit _ _ => none
  | .ringDescriptorWrite _ _ => none
  | .portRegisterWrite _ _ => none
  | .frameTransmit _ _ => none
  | .partGo _ => none
  | .drainComplete => none
  | .drainTimeout => none
  | .flushComplete => none
  | .powerComplete => none
  | .enumerate => none
  | .roleChangeStop => none
  | .frzctlResume _ => none
  | .frzctlDiscard _ => none
  | .peerRequest _ => none
  | .peerErrorReply _ => none
  | .poolHeadWrite _ _ => none
  | .recfree _ _ => none
  | .slotFill _ => none
  | .spillParked _ => none
  | .preempt _ => none
  | .spillComplete _ => none
  | .taskSteal _ => none
  | .laneGrant _ => none
  | .leaseGrant _ => none
  | .mrelEffect _ => none
  | .mfmtExecute _ => none
  | .mmacExecute _ => none
  | .mlidExecute _ => none
  | .mclrExecute _ => none
  | .mdrnExecute _ => none
  | .thermalPeriod _ => none
  | .launchTake _ => none
  | .levelChange _ => none
  | .queueBarrier _ => none
  | .contextFence _ => none
  | .launchQueueWrite _ _ => none
  | .startMessage _ => none
  | .doneNotice _ => none
  | .checkRunAEnd _ _ => none
  | .checkRunBEnd _ _ => none
  | .commitTurn _ => none
  | .chunkCommit _ => none
  | .logUnitWrite _ => none
  | .logPadTimeout _ => none
  | .logctlWrite _ _ => none
  | .logtailWrite _ _ => none
  | .logheadWrite _ _ => none
  | .channelSendAtHome _ => none
  | .channelReceiveAtHome _ => none
  | .sendRetry _ => none
  | .drainQueryReply _ _ _ => none
  | .tileTransfer _ => none
  | .selectClaim _ _ => none
  | .timeoutFire _ => none
  | .channelTimeout _ => none
  | .withdrawal _ => none
  | .spawnPlace _ => none
  | .barrierArrival _ => none
  | .handlerRequest _ => none
  | .faultPost _ _ => none
  | .fltresRetry _ _ => none
  | .fltresSkip _ _ => none
  | .fltresDiscard _ _ => none
  | .contextEvict _ => none
  | .contextRestore _ => none
  | .triggerLatch _ _ => none
  | .deadlock => none
  | .collAnnounce _ => none
  | .announceRetry _ => none
  | .chunkGrant _ _ _ => none
  | .chunkArbitration _ => none
  | .collComplete _ _ => none
  | .trussPush _ => none
  | .trussPop _ => none
  | .trussQueueWrite _ _ => none
  | .linkFlit _ _ => none
  | .linkReplay _ _ => none
  | .linkRetrain _ _ => none
  | .hostBar0 _ _ => none
  | .hostLaunchWrite _ _ => none
  | .hostAperture _ _ _ => none
  | .msixSend _ => none
  | .hostReadCompletion _ _ _ => none
  | .hostReadTimeout _ => none
  | .hwakeExpire => none
  | .powerOn => none
  | .bootStage _ => none
  | .bootWatchdog => none
  | .reset => none
  | .recgo _ => none
  | .calc => none
  | .attctlGo => none
  | .attestDone => none
  | .powerCapStep _ => none
  | .thermalTrip => none
  | .tripRelease => none
  | .blockRead _ => none
  | .blockWrite _ _ => none
  | .registerWrite _ _ => none
  | .loadReturn _ => none
  | .linkUp _ => none
  | .lossOfPower => none

/-- The words of an instruction, lowest address first: one word, or a lone C-word and its extension. -/
def encode (i : Instr) : List (BitVec 32) :=
  match encodeWord i, loneOf i with
  | none, _ => []
  | some w, none => [BitVec.ofNat 32 w]
  | some w, some x => [BitVec.ofNat 32 w, x]

/-- Instructions of the C-word map (R220). -/
def isCWord (i : Instr) : Bool :=
  match i with
  | .cnop _ => true
  | .halt _ => true
  | .brk _ _ => true
  | .br _ _ => true
  | .jal _ _ => true
  | .jr _ _ => true
  | .jalr _ _ _ => true
  | .beq _ _ _ _ => true
  | .bne _ _ _ _ => true
  | .bltS _ _ _ _ => true
  | .bgeS _ _ _ _ => true
  | .bltN _ _ _ _ => true
  | .bgeN _ _ _ _ => true
  | .lp _ _ _ => true
  | .lpi _ _ _ => true
  | .ldbS _ _ _ _ _ _ => true
  | .ldbN _ _ _ _ _ _ => true
  | .ldhS _ _ _ _ _ _ => true
  | .ldhN _ _ _ _ _ _ => true
  | .ldwS _ _ _ _ _ _ => true
  | .ldwN _ _ _ _ _ _ => true
  | .ldd _ _ _ _ _ _ => true
  | .stb _ _ _ _ _ _ => true
  | .sth _ _ _ _ _ _ => true
  | .stw _ _ _ _ _ _ => true
  | .std _ _ _ _ _ _ => true
  | .ldv _ _ _ _ _ _ => true
  | .stv _ _ _ _ _ _ => true
  | .rcl _ _ _ _ _ => true
  | .vtag _ _ _ _ _ => true
  | .vinit _ _ _ _ _ _ => true
  | .aswp _ _ _ _ _ _ => true
  | .aswpd _ _ _ _ _ _ => true
  | .acas _ _ _ _ _ _ => true
  | .acasd _ _ _ _ _ _ => true
  | .aadd _ _ _ _ _ _ => true
  | .aaddd _ _ _ _ _ _ => true
  | .aand _ _ _ _ _ _ => true
  | .aandd _ _ _ _ _ _ => true
  | .aor _ _ _ _ _ _ => true
  | .aord _ _ _ _ _ _ => true
  | .axor _ _ _ _ _ _ => true
  | .axord _ _ _ _ _ _ => true
  | .amaxS _ _ _ _ _ _ => true
  | .amaxdS _ _ _ _ _ _ => true
  | .aminS _ _ _ _ _ _ => true
  | .amindS _ _ _ _ _ _ => true
  | .amaxN _ _ _ _ _ _ => true
  | .amaxdN _ _ _ _ _ _ => true
  | .aminN _ _ _ _ _ _ => true
  | .amindN _ _ _ _ _ _ => true
  | .afadd _ _ _ _ _ _ => true
  | .afmax _ _ _ _ _ _ => true
  | .afmin _ _ _ _ _ _ => true
  | .fence _ _ _ => true
  | .waitc _ _ _ _ _ _ => true
  | .vld _ _ _ _ _ _ => true
  | .vst _ _ _ _ _ _ => true
  | .vldx _ _ _ _ _ _ => true
  | .vstx _ _ _ _ _ _ => true
  | .csend _ _ _ _ => true
  | .crecv _ _ _ _ => true
  | .csendb _ _ _ _ => true
  | .crecvb _ _ _ _ => true
  | .csendt _ _ _ _ => true
  | .crecvt _ _ _ _ => true
  | .cpoll _ _ _ => true
  | .cclose _ _ => true
  | .csendp _ _ _ _ => true
  | .crecvp _ _ _ _ => true
  | .chsel _ _ _ _ => true
  | .chnew _ _ _ => true
  | .chdel _ _ => true
  | .spawn _ _ _ _ => true
  | .spawnk _ _ _ _ => true
  | .callat _ _ _ _ => true
  | .fork _ _ => true
  | .join _ _ => true
  | .jinit _ _ _ => true
  | .yield _ => true
  | .park _ _ _ => true
  | .exit _ _ => true
  | .chprio _ _ => true
  | .binit _ _ _ => true
  | .barr _ _ _ => true
  | .barw _ _ _ => true
  | .ginit _ _ _ => true
  | .gkill _ _ => true
  | .gquery _ _ _ => true
  | .mfs _ _ _ => true
  | .mts _ _ _ => true
  | .trap _ _ => true
  | .tret _ => true
  | .xinv _ _ _ => true
  | .mreq _ _ => true
  | .mrel _ => true
  | .mfmt _ _ => true
  | .mscl _ _ _ => true
  | .mlid _ _ => true
  | .mclr _ _ => true
  | .mmac _ _ _ => true
  | .mmacc _ _ _ => true
  | .mmacj _ _ _ => true
  | .mdrn _ _ _ => true
  | .cpy _ _ _ _ => true
  | .tcpy _ _ _ _ => true
  | .deal _ _ _ _ => true
  | .gath _ _ _ _ => true
  | .cpost _ _ _ => true
  | .fgload _ _ _ => true
  | .vclaim _ _ _ _ => true
  | .vrenew _ _ _ _ => true
  | .vrel _ => true
  | .vloop _ _ _ => true
  | .vbind _ _ => true
  | .vunbind _ _ => true
  | .lic _ _ _ => true
  | .ldnS _ _ _ _ _ _ => true
  | .ldnN _ _ _ _ _ _ => true
  | .stn _ _ _ _ _ _ => true
  | .sgen _ _ _ => true
  | .srun _ _ => true
  | .sstat _ _ _ => true
  | .hload _ _ _ => true
  | .hstart _ _ _ => true
  | .anop => false
  | .add _ _ _ => false
  | .sub _ _ _ => false
  | .andR _ _ _ => false
  | .orR _ _ _ => false
  | .xor _ _ _ => false
  | .andn _ _ _ => false
  | .sll _ _ _ => false
  | .srl _ _ _ => false
  | .sra _ _ _ => false
  | .rol _ _ _ => false
  | .addw _ _ _ => false
  | .subw _ _ _ => false
  | .addsS _ _ _ => false
  | .addsN _ _ _ => false
  | .subsS _ _ _ => false
  | .subsN _ _ _ => false
  | .addi _ _ _ => false
  | .andi _ _ _ => false
  | .ori _ _ _ => false
  | .xori _ _ _ => false
  | .slli _ _ _ => false
  | .srli _ _ _ => false
  | .srai _ _ _ => false
  | .roli _ _ _ => false
  | .mul _ _ _ => false
  | .mulhS _ _ _ => false
  | .mulhN _ _ _ => false
  | .mulw _ _ _ => false
  | .divS _ _ _ => false
  | .divN _ _ _ => false
  | .remS _ _ _ => false
  | .remN _ _ _ => false
  | .seq _ _ _ => false
  | .sne _ _ _ => false
  | .sltS _ _ _ => false
  | .sleS _ _ _ => false
  | .sltN _ _ _ => false
  | .sleN _ _ _ => false
  | .minS _ _ _ => false
  | .maxS _ _ _ => false
  | .minN _ _ _ => false
  | .maxN _ _ _ => false
  | .sel _ _ _ _ => false
  | .clz _ _ => false
  | .ctz _ _ => false
  | .popc _ _ => false
  | .brev _ _ => false
  | .bswap _ _ => false
  | .sextB _ _ => false
  | .sextH _ _ => false
  | .sextW _ _ => false
  | .zextW _ _ => false
  | .bext _ _ _ => false
  | .bins _ _ _ => false
  | .lui _ _ _ => false
  | .fadd _ _ _ => false
  | .fsub _ _ _ => false
  | .fmul _ _ _ => false
  | .fdiv _ _ _ => false
  | .fsqrt _ _ => false
  | .fmin _ _ _ => false
  | .fmax _ _ _ => false
  | .fmint _ _ _ => false
  | .fmaxt _ _ _ => false
  | .fabs _ _ => false
  | .fneg _ _ => false
  | .fsgnj _ _ _ => false
  | .fmadd _ _ _ _ => false
  | .fmsub _ _ _ _ => false
  | .fnmadd _ _ _ _ => false
  | .fnmsub _ _ _ _ => false
  | .feq _ _ _ => false
  | .flt _ _ _ => false
  | .fle _ _ _ => false
  | .funord _ _ _ => false
  | .fclass _ _ => false
  | .fkey _ _ => false
  | .fcvtF32S32 _ _ => false
  | .fcvtF32S64 _ _ => false
  | .fcvtS32F32 _ _ => false
  | .fcvtS64F32 _ _ => false
  | .fcvtF32Bf16 _ _ => false
  | .fcvtBf16F32 _ _ => false
  | .fcvtF32E4m3 _ _ => false
  | .fcvtE4m3F32 _ _ => false
  | .fcvtF32E2m1 _ _ => false
  | .fcvtE2m1F32 _ _ => false
  | .fcvtF32N32 _ _ => false
  | .fcvtN32F32 _ _ => false
  | .vadd _ _ _ _ _ => false
  | .vsub _ _ _ _ _ => false
  | .vmul _ _ _ _ _ => false
  | .vdiv _ _ _ _ _ => false
  | .vmin _ _ _ _ _ => false
  | .vmax _ _ _ _ _ => false
  | .vand _ _ _ _ _ => false
  | .vor _ _ _ _ _ => false
  | .vxor _ _ _ _ _ => false
  | .vsll _ _ _ _ _ => false
  | .vsrl _ _ _ _ _ => false
  | .vsra _ _ _ _ _ => false
  | .vabs _ _ _ _ => false
  | .vneg _ _ _ _ => false
  | .vadds _ _ _ _ _ => false
  | .vsubs _ _ _ _ _ => false
  | .vfma _ _ _ _ _ => false
  | .vfms _ _ _ _ _ => false
  | .vfnma _ _ _ _ _ => false
  | .vfnms _ _ _ _ _ => false
  | .vmadS _ _ _ _ _ => false
  | .vmadN _ _ _ _ _ => false
  | .veq _ _ _ _ _ => false
  | .vne _ _ _ _ _ => false
  | .vlt _ _ _ _ _ => false
  | .vle _ _ _ _ _ => false
  | .vunord _ _ _ _ _ => false
  | .vltt _ _ _ _ _ => false
  | .vmov _ _ _ => false
  | .vbcast _ _ _ => false
  | .vrot _ _ _ _ => false
  | .vshuf _ _ _ _ => false
  | .vcomp _ _ _ => false
  | .vexpd _ _ _ => false
  | .vins _ _ _ => false
  | .vext _ _ _ => false
  | .vcvt _ _ _ _ _ => false
  | .vexp _ _ _ => false
  | .vexp2 _ _ _ => false
  | .vlog _ _ _ => false
  | .vlog2 _ _ _ => false
  | .vrcp _ _ _ => false
  | .vsqrt _ _ _ => false
  | .vrsqrt _ _ _ => false
  | .vsin _ _ _ => false
  | .vcos _ _ _ => false
  | .vtanh _ _ _ => false
  | .vsigm _ _ _ => false
  | .verf _ _ _ => false
  | .vrsum _ _ _ _ => false
  | .vrmax _ _ _ _ => false
  | .vrmin _ _ _ _ => false
  | .vrmaxt _ _ _ _ => false
  | .vrmint _ _ _ _ => false
  | .vrand _ _ _ _ => false
  | .vror _ _ _ _ => false
  | .vrxor _ _ _ _ => false
  | .vskq _ _ _ _ => false
  | .vskh _ _ _ _ => false
  | .vskd _ _ _ _ => false
  | .skinit _ _ => false
  | .skmerge _ _ => false
  | .skquant _ _ _ => false
  | .skrank _ _ _ => false
  | .skest _ _ _ => false
  | .skcount _ _ => false
  | .mand _ _ _ => false
  | .mor _ _ _ => false
  | .mxor _ _ _ => false
  | .mandn _ _ _ => false
  | .mnot _ _ => false
  | .mpop _ _ => false
  | .mfrst _ _ => false
  | .mfromg _ _ => false
  | .mtog _ _ => false
  | .xend => false
  | .xadd _ _ _ _ => false
  | .xmax _ _ _ _ => false
  | .xmin _ _ _ _ => false
  | .xmx6 _ _ _ => false
  | .xpack _ _ _ => false
  | .xunpk _ _ _ => false
  | .xmov _ _ => false
  | .xrecv _ _ => false
  | .xemit _ _ => false
  | .sequencerTrap _ _ _ => false
  | .sequencerEntry _ => false
  | .streamItem _ _ => false
  | .ownerAccess _ => false
  | .subByteStore _ => false
  | .versionedStoreAtOwner _ => false
  | .versionedLoadAtOwner _ => false
  | .reclaimAtOwner _ => false
  | .initialiseAtOwner _ => false
  | .heldCompletion _ => false
  | .waiterRetry _ => false
  | .acknowledgement _ => false
  | .widen _ => false
  | .widened _ => false
  | .released _ => false
  | .translationWalk _ _ _ _ => false
  | .engineBeat _ => false
  | .commandCompletion _ _ => false
  | .msRequest _ => false
  | .msReply _ => false
  | .frameReceive _ _ => false
  | .pfcRepeat _ _ => false
  | .pfcFrame _ _ _ => false
  | .pfcQuantaExpire _ _ => false
  | .ingestDeposit _ _ => false
  | .ringDescriptorWrite _ _ => false
  | .portRegisterWrite _ _ => false
  | .frameTransmit _ _ => false
  | .partGo _ => false
  | .drainComplete => false
  | .drainTimeout => false
  | .flushComplete => false
  | .powerComplete => false
  | .enumerate => false
  | .roleChangeStop => false
  | .frzctlResume _ => false
  | .frzctlDiscard _ => false
  | .peerRequest _ => false
  | .peerErrorReply _ => false
  | .poolHeadWrite _ _ => false
  | .recfree _ _ => false
  | .slotFill _ => false
  | .spillParked _ => false
  | .preempt _ => false
  | .spillComplete _ => false
  | .taskSteal _ => false
  | .laneGrant _ => false
  | .leaseGrant _ => false
  | .mrelEffect _ => false
  | .mfmtExecute _ => false
  | .mmacExecute _ => false
  | .mlidExecute _ => false
  | .mclrExecute _ => false
  | .mdrnExecute _ => false
  | .thermalPeriod _ => false
  | .launchTake _ => false
  | .levelChange _ => false
  | .queueBarrier _ => false
  | .contextFence _ => false
  | .launchQueueWrite _ _ => false
  | .startMessage _ => false
  | .doneNotice _ => false
  | .checkRunAEnd _ _ => false
  | .checkRunBEnd _ _ => false
  | .commitTurn _ => false
  | .chunkCommit _ => false
  | .logUnitWrite _ => false
  | .logPadTimeout _ => false
  | .logctlWrite _ _ => false
  | .logtailWrite _ _ => false
  | .logheadWrite _ _ => false
  | .channelSendAtHome _ => false
  | .channelReceiveAtHome _ => false
  | .sendRetry _ => false
  | .drainQueryReply _ _ _ => false
  | .tileTransfer _ => false
  | .selectClaim _ _ => false
  | .timeoutFire _ => false
  | .channelTimeout _ => false
  | .withdrawal _ => false
  | .spawnPlace _ => false
  | .barrierArrival _ => false
  | .handlerRequest _ => false
  | .faultPost _ _ => false
  | .fltresRetry _ _ => false
  | .fltresSkip _ _ => false
  | .fltresDiscard _ _ => false
  | .contextEvict _ => false
  | .contextRestore _ => false
  | .triggerLatch _ _ => false
  | .deadlock => false
  | .collAnnounce _ => false
  | .announceRetry _ => false
  | .chunkGrant _ _ _ => false
  | .chunkArbitration _ => false
  | .collComplete _ _ => false
  | .trussPush _ => false
  | .trussPop _ => false
  | .trussQueueWrite _ _ => false
  | .linkFlit _ _ => false
  | .linkReplay _ _ => false
  | .linkRetrain _ _ => false
  | .hostBar0 _ _ => false
  | .hostLaunchWrite _ _ => false
  | .hostAperture _ _ _ => false
  | .msixSend _ => false
  | .hostReadCompletion _ _ _ => false
  | .hostReadTimeout _ => false
  | .hwakeExpire => false
  | .powerOn => false
  | .bootStage _ => false
  | .bootWatchdog => false
  | .reset => false
  | .recgo _ => false
  | .calc => false
  | .attctlGo => false
  | .attestDone => false
  | .powerCapStep _ => false
  | .thermalTrip => false
  | .tripRelease => false
  | .blockRead _ => false
  | .blockWrite _ _ => false
  | .registerWrite _ _ => false
  | .loadReturn _ => false
  | .linkUp _ => false
  | .lossOfPower => false

/-- Instructions of the A-word map (R223). -/
def isAWord (i : Instr) : Bool :=
  match i with
  | .cnop _ => false
  | .halt _ => false
  | .brk _ _ => false
  | .br _ _ => false
  | .jal _ _ => false
  | .jr _ _ => false
  | .jalr _ _ _ => false
  | .beq _ _ _ _ => false
  | .bne _ _ _ _ => false
  | .bltS _ _ _ _ => false
  | .bgeS _ _ _ _ => false
  | .bltN _ _ _ _ => false
  | .bgeN _ _ _ _ => false
  | .lp _ _ _ => false
  | .lpi _ _ _ => false
  | .ldbS _ _ _ _ _ _ => false
  | .ldbN _ _ _ _ _ _ => false
  | .ldhS _ _ _ _ _ _ => false
  | .ldhN _ _ _ _ _ _ => false
  | .ldwS _ _ _ _ _ _ => false
  | .ldwN _ _ _ _ _ _ => false
  | .ldd _ _ _ _ _ _ => false
  | .stb _ _ _ _ _ _ => false
  | .sth _ _ _ _ _ _ => false
  | .stw _ _ _ _ _ _ => false
  | .std _ _ _ _ _ _ => false
  | .ldv _ _ _ _ _ _ => false
  | .stv _ _ _ _ _ _ => false
  | .rcl _ _ _ _ _ => false
  | .vtag _ _ _ _ _ => false
  | .vinit _ _ _ _ _ _ => false
  | .aswp _ _ _ _ _ _ => false
  | .aswpd _ _ _ _ _ _ => false
  | .acas _ _ _ _ _ _ => false
  | .acasd _ _ _ _ _ _ => false
  | .aadd _ _ _ _ _ _ => false
  | .aaddd _ _ _ _ _ _ => false
  | .aand _ _ _ _ _ _ => false
  | .aandd _ _ _ _ _ _ => false
  | .aor _ _ _ _ _ _ => false
  | .aord _ _ _ _ _ _ => false
  | .axor _ _ _ _ _ _ => false
  | .axord _ _ _ _ _ _ => false
  | .amaxS _ _ _ _ _ _ => false
  | .amaxdS _ _ _ _ _ _ => false
  | .aminS _ _ _ _ _ _ => false
  | .amindS _ _ _ _ _ _ => false
  | .amaxN _ _ _ _ _ _ => false
  | .amaxdN _ _ _ _ _ _ => false
  | .aminN _ _ _ _ _ _ => false
  | .amindN _ _ _ _ _ _ => false
  | .afadd _ _ _ _ _ _ => false
  | .afmax _ _ _ _ _ _ => false
  | .afmin _ _ _ _ _ _ => false
  | .fence _ _ _ => false
  | .waitc _ _ _ _ _ _ => false
  | .vld _ _ _ _ _ _ => false
  | .vst _ _ _ _ _ _ => false
  | .vldx _ _ _ _ _ _ => false
  | .vstx _ _ _ _ _ _ => false
  | .csend _ _ _ _ => false
  | .crecv _ _ _ _ => false
  | .csendb _ _ _ _ => false
  | .crecvb _ _ _ _ => false
  | .csendt _ _ _ _ => false
  | .crecvt _ _ _ _ => false
  | .cpoll _ _ _ => false
  | .cclose _ _ => false
  | .csendp _ _ _ _ => false
  | .crecvp _ _ _ _ => false
  | .chsel _ _ _ _ => false
  | .chnew _ _ _ => false
  | .chdel _ _ => false
  | .spawn _ _ _ _ => false
  | .spawnk _ _ _ _ => false
  | .callat _ _ _ _ => false
  | .fork _ _ => false
  | .join _ _ => false
  | .jinit _ _ _ => false
  | .yield _ => false
  | .park _ _ _ => false
  | .exit _ _ => false
  | .chprio _ _ => false
  | .binit _ _ _ => false
  | .barr _ _ _ => false
  | .barw _ _ _ => false
  | .ginit _ _ _ => false
  | .gkill _ _ => false
  | .gquery _ _ _ => false
  | .mfs _ _ _ => false
  | .mts _ _ _ => false
  | .trap _ _ => false
  | .tret _ => false
  | .xinv _ _ _ => false
  | .mreq _ _ => false
  | .mrel _ => false
  | .mfmt _ _ => false
  | .mscl _ _ _ => false
  | .mlid _ _ => false
  | .mclr _ _ => false
  | .mmac _ _ _ => false
  | .mmacc _ _ _ => false
  | .mmacj _ _ _ => false
  | .mdrn _ _ _ => false
  | .cpy _ _ _ _ => false
  | .tcpy _ _ _ _ => false
  | .deal _ _ _ _ => false
  | .gath _ _ _ _ => false
  | .cpost _ _ _ => false
  | .fgload _ _ _ => false
  | .vclaim _ _ _ _ => false
  | .vrenew _ _ _ _ => false
  | .vrel _ => false
  | .vloop _ _ _ => false
  | .vbind _ _ => false
  | .vunbind _ _ => false
  | .lic _ _ _ => false
  | .ldnS _ _ _ _ _ _ => false
  | .ldnN _ _ _ _ _ _ => false
  | .stn _ _ _ _ _ _ => false
  | .sgen _ _ _ => false
  | .srun _ _ => false
  | .sstat _ _ _ => false
  | .hload _ _ _ => false
  | .hstart _ _ _ => false
  | .anop => true
  | .add _ _ _ => true
  | .sub _ _ _ => true
  | .andR _ _ _ => true
  | .orR _ _ _ => true
  | .xor _ _ _ => true
  | .andn _ _ _ => true
  | .sll _ _ _ => true
  | .srl _ _ _ => true
  | .sra _ _ _ => true
  | .rol _ _ _ => true
  | .addw _ _ _ => true
  | .subw _ _ _ => true
  | .addsS _ _ _ => true
  | .addsN _ _ _ => true
  | .subsS _ _ _ => true
  | .subsN _ _ _ => true
  | .addi _ _ _ => true
  | .andi _ _ _ => true
  | .ori _ _ _ => true
  | .xori _ _ _ => true
  | .slli _ _ _ => true
  | .srli _ _ _ => true
  | .srai _ _ _ => true
  | .roli _ _ _ => true
  | .mul _ _ _ => true
  | .mulhS _ _ _ => true
  | .mulhN _ _ _ => true
  | .mulw _ _ _ => true
  | .divS _ _ _ => true
  | .divN _ _ _ => true
  | .remS _ _ _ => true
  | .remN _ _ _ => true
  | .seq _ _ _ => true
  | .sne _ _ _ => true
  | .sltS _ _ _ => true
  | .sleS _ _ _ => true
  | .sltN _ _ _ => true
  | .sleN _ _ _ => true
  | .minS _ _ _ => true
  | .maxS _ _ _ => true
  | .minN _ _ _ => true
  | .maxN _ _ _ => true
  | .sel _ _ _ _ => true
  | .clz _ _ => true
  | .ctz _ _ => true
  | .popc _ _ => true
  | .brev _ _ => true
  | .bswap _ _ => true
  | .sextB _ _ => true
  | .sextH _ _ => true
  | .sextW _ _ => true
  | .zextW _ _ => true
  | .bext _ _ _ => true
  | .bins _ _ _ => true
  | .lui _ _ _ => true
  | .fadd _ _ _ => true
  | .fsub _ _ _ => true
  | .fmul _ _ _ => true
  | .fdiv _ _ _ => true
  | .fsqrt _ _ => true
  | .fmin _ _ _ => true
  | .fmax _ _ _ => true
  | .fmint _ _ _ => true
  | .fmaxt _ _ _ => true
  | .fabs _ _ => true
  | .fneg _ _ => true
  | .fsgnj _ _ _ => true
  | .fmadd _ _ _ _ => true
  | .fmsub _ _ _ _ => true
  | .fnmadd _ _ _ _ => true
  | .fnmsub _ _ _ _ => true
  | .feq _ _ _ => true
  | .flt _ _ _ => true
  | .fle _ _ _ => true
  | .funord _ _ _ => true
  | .fclass _ _ => true
  | .fkey _ _ => true
  | .fcvtF32S32 _ _ => true
  | .fcvtF32S64 _ _ => true
  | .fcvtS32F32 _ _ => true
  | .fcvtS64F32 _ _ => true
  | .fcvtF32Bf16 _ _ => true
  | .fcvtBf16F32 _ _ => true
  | .fcvtF32E4m3 _ _ => true
  | .fcvtE4m3F32 _ _ => true
  | .fcvtF32E2m1 _ _ => true
  | .fcvtE2m1F32 _ _ => true
  | .fcvtF32N32 _ _ => true
  | .fcvtN32F32 _ _ => true
  | .vadd _ _ _ _ _ => true
  | .vsub _ _ _ _ _ => true
  | .vmul _ _ _ _ _ => true
  | .vdiv _ _ _ _ _ => true
  | .vmin _ _ _ _ _ => true
  | .vmax _ _ _ _ _ => true
  | .vand _ _ _ _ _ => true
  | .vor _ _ _ _ _ => true
  | .vxor _ _ _ _ _ => true
  | .vsll _ _ _ _ _ => true
  | .vsrl _ _ _ _ _ => true
  | .vsra _ _ _ _ _ => true
  | .vabs _ _ _ _ => true
  | .vneg _ _ _ _ => true
  | .vadds _ _ _ _ _ => true
  | .vsubs _ _ _ _ _ => true
  | .vfma _ _ _ _ _ => true
  | .vfms _ _ _ _ _ => true
  | .vfnma _ _ _ _ _ => true
  | .vfnms _ _ _ _ _ => true
  | .vmadS _ _ _ _ _ => true
  | .vmadN _ _ _ _ _ => true
  | .veq _ _ _ _ _ => true
  | .vne _ _ _ _ _ => true
  | .vlt _ _ _ _ _ => true
  | .vle _ _ _ _ _ => true
  | .vunord _ _ _ _ _ => true
  | .vltt _ _ _ _ _ => true
  | .vmov _ _ _ => true
  | .vbcast _ _ _ => true
  | .vrot _ _ _ _ => true
  | .vshuf _ _ _ _ => true
  | .vcomp _ _ _ => true
  | .vexpd _ _ _ => true
  | .vins _ _ _ => true
  | .vext _ _ _ => true
  | .vcvt _ _ _ _ _ => true
  | .vexp _ _ _ => true
  | .vexp2 _ _ _ => true
  | .vlog _ _ _ => true
  | .vlog2 _ _ _ => true
  | .vrcp _ _ _ => true
  | .vsqrt _ _ _ => true
  | .vrsqrt _ _ _ => true
  | .vsin _ _ _ => true
  | .vcos _ _ _ => true
  | .vtanh _ _ _ => true
  | .vsigm _ _ _ => true
  | .verf _ _ _ => true
  | .vrsum _ _ _ _ => true
  | .vrmax _ _ _ _ => true
  | .vrmin _ _ _ _ => true
  | .vrmaxt _ _ _ _ => true
  | .vrmint _ _ _ _ => true
  | .vrand _ _ _ _ => true
  | .vror _ _ _ _ => true
  | .vrxor _ _ _ _ => true
  | .vskq _ _ _ _ => true
  | .vskh _ _ _ _ => true
  | .vskd _ _ _ _ => true
  | .skinit _ _ => true
  | .skmerge _ _ => true
  | .skquant _ _ _ => true
  | .skrank _ _ _ => true
  | .skest _ _ _ => true
  | .skcount _ _ => true
  | .mand _ _ _ => true
  | .mor _ _ _ => true
  | .mxor _ _ _ => true
  | .mandn _ _ _ => true
  | .mnot _ _ => true
  | .mpop _ _ => true
  | .mfrst _ _ => true
  | .mfromg _ _ => true
  | .mtog _ _ => true
  | .xend => false
  | .xadd _ _ _ _ => false
  | .xmax _ _ _ _ => false
  | .xmin _ _ _ _ => false
  | .xmx6 _ _ _ => false
  | .xpack _ _ _ => false
  | .xunpk _ _ _ => false
  | .xmov _ _ => false
  | .xrecv _ _ => false
  | .xemit _ _ => false
  | .sequencerTrap _ _ _ => false
  | .sequencerEntry _ => false
  | .streamItem _ _ => false
  | .ownerAccess _ => false
  | .subByteStore _ => false
  | .versionedStoreAtOwner _ => false
  | .versionedLoadAtOwner _ => false
  | .reclaimAtOwner _ => false
  | .initialiseAtOwner _ => false
  | .heldCompletion _ => false
  | .waiterRetry _ => false
  | .acknowledgement _ => false
  | .widen _ => false
  | .widened _ => false
  | .released _ => false
  | .translationWalk _ _ _ _ => false
  | .engineBeat _ => false
  | .commandCompletion _ _ => false
  | .msRequest _ => false
  | .msReply _ => false
  | .frameReceive _ _ => false
  | .pfcRepeat _ _ => false
  | .pfcFrame _ _ _ => false
  | .pfcQuantaExpire _ _ => false
  | .ingestDeposit _ _ => false
  | .ringDescriptorWrite _ _ => false
  | .portRegisterWrite _ _ => false
  | .frameTransmit _ _ => false
  | .partGo _ => false
  | .drainComplete => false
  | .drainTimeout => false
  | .flushComplete => false
  | .powerComplete => false
  | .enumerate => false
  | .roleChangeStop => false
  | .frzctlResume _ => false
  | .frzctlDiscard _ => false
  | .peerRequest _ => false
  | .peerErrorReply _ => false
  | .poolHeadWrite _ _ => false
  | .recfree _ _ => false
  | .slotFill _ => false
  | .spillParked _ => false
  | .preempt _ => false
  | .spillComplete _ => false
  | .taskSteal _ => false
  | .laneGrant _ => false
  | .leaseGrant _ => false
  | .mrelEffect _ => false
  | .mfmtExecute _ => false
  | .mmacExecute _ => false
  | .mlidExecute _ => false
  | .mclrExecute _ => false
  | .mdrnExecute _ => false
  | .thermalPeriod _ => false
  | .launchTake _ => false
  | .levelChange _ => false
  | .queueBarrier _ => false
  | .contextFence _ => false
  | .launchQueueWrite _ _ => false
  | .startMessage _ => false
  | .doneNotice _ => false
  | .checkRunAEnd _ _ => false
  | .checkRunBEnd _ _ => false
  | .commitTurn _ => false
  | .chunkCommit _ => false
  | .logUnitWrite _ => false
  | .logPadTimeout _ => false
  | .logctlWrite _ _ => false
  | .logtailWrite _ _ => false
  | .logheadWrite _ _ => false
  | .channelSendAtHome _ => false
  | .channelReceiveAtHome _ => false
  | .sendRetry _ => false
  | .drainQueryReply _ _ _ => false
  | .tileTransfer _ => false
  | .selectClaim _ _ => false
  | .timeoutFire _ => false
  | .channelTimeout _ => false
  | .withdrawal _ => false
  | .spawnPlace _ => false
  | .barrierArrival _ => false
  | .handlerRequest _ => false
  | .faultPost _ _ => false
  | .fltresRetry _ _ => false
  | .fltresSkip _ _ => false
  | .fltresDiscard _ _ => false
  | .contextEvict _ => false
  | .contextRestore _ => false
  | .triggerLatch _ _ => false
  | .deadlock => false
  | .collAnnounce _ => false
  | .announceRetry _ => false
  | .chunkGrant _ _ _ => false
  | .chunkArbitration _ => false
  | .collComplete _ _ => false
  | .trussPush _ => false
  | .trussPop _ => false
  | .trussQueueWrite _ _ => false
  | .linkFlit _ _ => false
  | .linkReplay _ _ => false
  | .linkRetrain _ _ => false
  | .hostBar0 _ _ => false
  | .hostLaunchWrite _ _ => false
  | .hostAperture _ _ _ => false
  | .msixSend _ => false
  | .hostReadCompletion _ _ _ => false
  | .hostReadTimeout _ => false
  | .hwakeExpire => false
  | .powerOn => false
  | .bootStage _ => false
  | .bootWatchdog => false
  | .reset => false
  | .recgo _ => false
  | .calc => false
  | .attctlGo => false
  | .attestDone => false
  | .powerCapStep _ => false
  | .thermalTrip => false
  | .tripRelease => false
  | .blockRead _ => false
  | .blockWrite _ _ => false
  | .registerWrite _ _ => false
  | .loadReturn _ => false
  | .linkUp _ => false
  | .lossOfPower => false

/-- Instructions of the fabric map (R396). -/
def isFabricWord (i : Instr) : Bool :=
  match i with
  | .cnop _ => false
  | .halt _ => false
  | .brk _ _ => false
  | .br _ _ => false
  | .jal _ _ => false
  | .jr _ _ => false
  | .jalr _ _ _ => false
  | .beq _ _ _ _ => false
  | .bne _ _ _ _ => false
  | .bltS _ _ _ _ => false
  | .bgeS _ _ _ _ => false
  | .bltN _ _ _ _ => false
  | .bgeN _ _ _ _ => false
  | .lp _ _ _ => false
  | .lpi _ _ _ => false
  | .ldbS _ _ _ _ _ _ => false
  | .ldbN _ _ _ _ _ _ => false
  | .ldhS _ _ _ _ _ _ => false
  | .ldhN _ _ _ _ _ _ => false
  | .ldwS _ _ _ _ _ _ => false
  | .ldwN _ _ _ _ _ _ => false
  | .ldd _ _ _ _ _ _ => false
  | .stb _ _ _ _ _ _ => false
  | .sth _ _ _ _ _ _ => false
  | .stw _ _ _ _ _ _ => false
  | .std _ _ _ _ _ _ => false
  | .ldv _ _ _ _ _ _ => false
  | .stv _ _ _ _ _ _ => false
  | .rcl _ _ _ _ _ => false
  | .vtag _ _ _ _ _ => false
  | .vinit _ _ _ _ _ _ => false
  | .aswp _ _ _ _ _ _ => false
  | .aswpd _ _ _ _ _ _ => false
  | .acas _ _ _ _ _ _ => false
  | .acasd _ _ _ _ _ _ => false
  | .aadd _ _ _ _ _ _ => false
  | .aaddd _ _ _ _ _ _ => false
  | .aand _ _ _ _ _ _ => false
  | .aandd _ _ _ _ _ _ => false
  | .aor _ _ _ _ _ _ => false
  | .aord _ _ _ _ _ _ => false
  | .axor _ _ _ _ _ _ => false
  | .axord _ _ _ _ _ _ => false
  | .amaxS _ _ _ _ _ _ => false
  | .amaxdS _ _ _ _ _ _ => false
  | .aminS _ _ _ _ _ _ => false
  | .amindS _ _ _ _ _ _ => false
  | .amaxN _ _ _ _ _ _ => false
  | .amaxdN _ _ _ _ _ _ => false
  | .aminN _ _ _ _ _ _ => false
  | .amindN _ _ _ _ _ _ => false
  | .afadd _ _ _ _ _ _ => false
  | .afmax _ _ _ _ _ _ => false
  | .afmin _ _ _ _ _ _ => false
  | .fence _ _ _ => false
  | .waitc _ _ _ _ _ _ => false
  | .vld _ _ _ _ _ _ => false
  | .vst _ _ _ _ _ _ => false
  | .vldx _ _ _ _ _ _ => false
  | .vstx _ _ _ _ _ _ => false
  | .csend _ _ _ _ => false
  | .crecv _ _ _ _ => false
  | .csendb _ _ _ _ => false
  | .crecvb _ _ _ _ => false
  | .csendt _ _ _ _ => false
  | .crecvt _ _ _ _ => false
  | .cpoll _ _ _ => false
  | .cclose _ _ => false
  | .csendp _ _ _ _ => false
  | .crecvp _ _ _ _ => false
  | .chsel _ _ _ _ => false
  | .chnew _ _ _ => false
  | .chdel _ _ => false
  | .spawn _ _ _ _ => false
  | .spawnk _ _ _ _ => false
  | .callat _ _ _ _ => false
  | .fork _ _ => false
  | .join _ _ => false
  | .jinit _ _ _ => false
  | .yield _ => false
  | .park _ _ _ => false
  | .exit _ _ => false
  | .chprio _ _ => false
  | .binit _ _ _ => false
  | .barr _ _ _ => false
  | .barw _ _ _ => false
  | .ginit _ _ _ => false
  | .gkill _ _ => false
  | .gquery _ _ _ => false
  | .mfs _ _ _ => false
  | .mts _ _ _ => false
  | .trap _ _ => false
  | .tret _ => false
  | .xinv _ _ _ => false
  | .mreq _ _ => false
  | .mrel _ => false
  | .mfmt _ _ => false
  | .mscl _ _ _ => false
  | .mlid _ _ => false
  | .mclr _ _ => false
  | .mmac _ _ _ => false
  | .mmacc _ _ _ => false
  | .mmacj _ _ _ => false
  | .mdrn _ _ _ => false
  | .cpy _ _ _ _ => false
  | .tcpy _ _ _ _ => false
  | .deal _ _ _ _ => false
  | .gath _ _ _ _ => false
  | .cpost _ _ _ => false
  | .fgload _ _ _ => false
  | .vclaim _ _ _ _ => false
  | .vrenew _ _ _ _ => false
  | .vrel _ => false
  | .vloop _ _ _ => false
  | .vbind _ _ => false
  | .vunbind _ _ => false
  | .lic _ _ _ => false
  | .ldnS _ _ _ _ _ _ => false
  | .ldnN _ _ _ _ _ _ => false
  | .stn _ _ _ _ _ _ => false
  | .sgen _ _ _ => false
  | .srun _ _ => false
  | .sstat _ _ _ => false
  | .hload _ _ _ => false
  | .hstart _ _ _ => false
  | .anop => false
  | .add _ _ _ => false
  | .sub _ _ _ => false
  | .andR _ _ _ => false
  | .orR _ _ _ => false
  | .xor _ _ _ => false
  | .andn _ _ _ => false
  | .sll _ _ _ => false
  | .srl _ _ _ => false
  | .sra _ _ _ => false
  | .rol _ _ _ => false
  | .addw _ _ _ => false
  | .subw _ _ _ => false
  | .addsS _ _ _ => false
  | .addsN _ _ _ => false
  | .subsS _ _ _ => false
  | .subsN _ _ _ => false
  | .addi _ _ _ => false
  | .andi _ _ _ => false
  | .ori _ _ _ => false
  | .xori _ _ _ => false
  | .slli _ _ _ => false
  | .srli _ _ _ => false
  | .srai _ _ _ => false
  | .roli _ _ _ => false
  | .mul _ _ _ => false
  | .mulhS _ _ _ => false
  | .mulhN _ _ _ => false
  | .mulw _ _ _ => false
  | .divS _ _ _ => false
  | .divN _ _ _ => false
  | .remS _ _ _ => false
  | .remN _ _ _ => false
  | .seq _ _ _ => false
  | .sne _ _ _ => false
  | .sltS _ _ _ => false
  | .sleS _ _ _ => false
  | .sltN _ _ _ => false
  | .sleN _ _ _ => false
  | .minS _ _ _ => false
  | .maxS _ _ _ => false
  | .minN _ _ _ => false
  | .maxN _ _ _ => false
  | .sel _ _ _ _ => false
  | .clz _ _ => false
  | .ctz _ _ => false
  | .popc _ _ => false
  | .brev _ _ => false
  | .bswap _ _ => false
  | .sextB _ _ => false
  | .sextH _ _ => false
  | .sextW _ _ => false
  | .zextW _ _ => false
  | .bext _ _ _ => false
  | .bins _ _ _ => false
  | .lui _ _ _ => false
  | .fadd _ _ _ => false
  | .fsub _ _ _ => false
  | .fmul _ _ _ => false
  | .fdiv _ _ _ => false
  | .fsqrt _ _ => false
  | .fmin _ _ _ => false
  | .fmax _ _ _ => false
  | .fmint _ _ _ => false
  | .fmaxt _ _ _ => false
  | .fabs _ _ => false
  | .fneg _ _ => false
  | .fsgnj _ _ _ => false
  | .fmadd _ _ _ _ => false
  | .fmsub _ _ _ _ => false
  | .fnmadd _ _ _ _ => false
  | .fnmsub _ _ _ _ => false
  | .feq _ _ _ => false
  | .flt _ _ _ => false
  | .fle _ _ _ => false
  | .funord _ _ _ => false
  | .fclass _ _ => false
  | .fkey _ _ => false
  | .fcvtF32S32 _ _ => false
  | .fcvtF32S64 _ _ => false
  | .fcvtS32F32 _ _ => false
  | .fcvtS64F32 _ _ => false
  | .fcvtF32Bf16 _ _ => false
  | .fcvtBf16F32 _ _ => false
  | .fcvtF32E4m3 _ _ => false
  | .fcvtE4m3F32 _ _ => false
  | .fcvtF32E2m1 _ _ => false
  | .fcvtE2m1F32 _ _ => false
  | .fcvtF32N32 _ _ => false
  | .fcvtN32F32 _ _ => false
  | .vadd _ _ _ _ _ => false
  | .vsub _ _ _ _ _ => false
  | .vmul _ _ _ _ _ => false
  | .vdiv _ _ _ _ _ => false
  | .vmin _ _ _ _ _ => false
  | .vmax _ _ _ _ _ => false
  | .vand _ _ _ _ _ => false
  | .vor _ _ _ _ _ => false
  | .vxor _ _ _ _ _ => false
  | .vsll _ _ _ _ _ => false
  | .vsrl _ _ _ _ _ => false
  | .vsra _ _ _ _ _ => false
  | .vabs _ _ _ _ => false
  | .vneg _ _ _ _ => false
  | .vadds _ _ _ _ _ => false
  | .vsubs _ _ _ _ _ => false
  | .vfma _ _ _ _ _ => false
  | .vfms _ _ _ _ _ => false
  | .vfnma _ _ _ _ _ => false
  | .vfnms _ _ _ _ _ => false
  | .vmadS _ _ _ _ _ => false
  | .vmadN _ _ _ _ _ => false
  | .veq _ _ _ _ _ => false
  | .vne _ _ _ _ _ => false
  | .vlt _ _ _ _ _ => false
  | .vle _ _ _ _ _ => false
  | .vunord _ _ _ _ _ => false
  | .vltt _ _ _ _ _ => false
  | .vmov _ _ _ => false
  | .vbcast _ _ _ => false
  | .vrot _ _ _ _ => false
  | .vshuf _ _ _ _ => false
  | .vcomp _ _ _ => false
  | .vexpd _ _ _ => false
  | .vins _ _ _ => false
  | .vext _ _ _ => false
  | .vcvt _ _ _ _ _ => false
  | .vexp _ _ _ => false
  | .vexp2 _ _ _ => false
  | .vlog _ _ _ => false
  | .vlog2 _ _ _ => false
  | .vrcp _ _ _ => false
  | .vsqrt _ _ _ => false
  | .vrsqrt _ _ _ => false
  | .vsin _ _ _ => false
  | .vcos _ _ _ => false
  | .vtanh _ _ _ => false
  | .vsigm _ _ _ => false
  | .verf _ _ _ => false
  | .vrsum _ _ _ _ => false
  | .vrmax _ _ _ _ => false
  | .vrmin _ _ _ _ => false
  | .vrmaxt _ _ _ _ => false
  | .vrmint _ _ _ _ => false
  | .vrand _ _ _ _ => false
  | .vror _ _ _ _ => false
  | .vrxor _ _ _ _ => false
  | .vskq _ _ _ _ => false
  | .vskh _ _ _ _ => false
  | .vskd _ _ _ _ => false
  | .skinit _ _ => false
  | .skmerge _ _ => false
  | .skquant _ _ _ => false
  | .skrank _ _ _ => false
  | .skest _ _ _ => false
  | .skcount _ _ => false
  | .mand _ _ _ => false
  | .mor _ _ _ => false
  | .mxor _ _ _ => false
  | .mandn _ _ _ => false
  | .mnot _ _ => false
  | .mpop _ _ => false
  | .mfrst _ _ => false
  | .mfromg _ _ => false
  | .mtog _ _ => false
  | .xend => true
  | .xadd _ _ _ _ => true
  | .xmax _ _ _ _ => true
  | .xmin _ _ _ _ => true
  | .xmx6 _ _ _ => true
  | .xpack _ _ _ => true
  | .xunpk _ _ _ => true
  | .xmov _ _ => true
  | .xrecv _ _ => true
  | .xemit _ _ => true
  | .sequencerTrap _ _ _ => false
  | .sequencerEntry _ => false
  | .streamItem _ _ => false
  | .ownerAccess _ => false
  | .subByteStore _ => false
  | .versionedStoreAtOwner _ => false
  | .versionedLoadAtOwner _ => false
  | .reclaimAtOwner _ => false
  | .initialiseAtOwner _ => false
  | .heldCompletion _ => false
  | .waiterRetry _ => false
  | .acknowledgement _ => false
  | .widen _ => false
  | .widened _ => false
  | .released _ => false
  | .translationWalk _ _ _ _ => false
  | .engineBeat _ => false
  | .commandCompletion _ _ => false
  | .msRequest _ => false
  | .msReply _ => false
  | .frameReceive _ _ => false
  | .pfcRepeat _ _ => false
  | .pfcFrame _ _ _ => false
  | .pfcQuantaExpire _ _ => false
  | .ingestDeposit _ _ => false
  | .ringDescriptorWrite _ _ => false
  | .portRegisterWrite _ _ => false
  | .frameTransmit _ _ => false
  | .partGo _ => false
  | .drainComplete => false
  | .drainTimeout => false
  | .flushComplete => false
  | .powerComplete => false
  | .enumerate => false
  | .roleChangeStop => false
  | .frzctlResume _ => false
  | .frzctlDiscard _ => false
  | .peerRequest _ => false
  | .peerErrorReply _ => false
  | .poolHeadWrite _ _ => false
  | .recfree _ _ => false
  | .slotFill _ => false
  | .spillParked _ => false
  | .preempt _ => false
  | .spillComplete _ => false
  | .taskSteal _ => false
  | .laneGrant _ => false
  | .leaseGrant _ => false
  | .mrelEffect _ => false
  | .mfmtExecute _ => false
  | .mmacExecute _ => false
  | .mlidExecute _ => false
  | .mclrExecute _ => false
  | .mdrnExecute _ => false
  | .thermalPeriod _ => false
  | .launchTake _ => false
  | .levelChange _ => false
  | .queueBarrier _ => false
  | .contextFence _ => false
  | .launchQueueWrite _ _ => false
  | .startMessage _ => false
  | .doneNotice _ => false
  | .checkRunAEnd _ _ => false
  | .checkRunBEnd _ _ => false
  | .commitTurn _ => false
  | .chunkCommit _ => false
  | .logUnitWrite _ => false
  | .logPadTimeout _ => false
  | .logctlWrite _ _ => false
  | .logtailWrite _ _ => false
  | .logheadWrite _ _ => false
  | .channelSendAtHome _ => false
  | .channelReceiveAtHome _ => false
  | .sendRetry _ => false
  | .drainQueryReply _ _ _ => false
  | .tileTransfer _ => false
  | .selectClaim _ _ => false
  | .timeoutFire _ => false
  | .channelTimeout _ => false
  | .withdrawal _ => false
  | .spawnPlace _ => false
  | .barrierArrival _ => false
  | .handlerRequest _ => false
  | .faultPost _ _ => false
  | .fltresRetry _ _ => false
  | .fltresSkip _ _ => false
  | .fltresDiscard _ _ => false
  | .contextEvict _ => false
  | .contextRestore _ => false
  | .triggerLatch _ _ => false
  | .deadlock => false
  | .collAnnounce _ => false
  | .announceRetry _ => false
  | .chunkGrant _ _ _ => false
  | .chunkArbitration _ => false
  | .collComplete _ _ => false
  | .trussPush _ => false
  | .trussPop _ => false
  | .trussQueueWrite _ _ => false
  | .linkFlit _ _ => false
  | .linkReplay _ _ => false
  | .linkRetrain _ _ => false
  | .hostBar0 _ _ => false
  | .hostLaunchWrite _ _ => false
  | .hostAperture _ _ _ => false
  | .msixSend _ => false
  | .hostReadCompletion _ _ _ => false
  | .hostReadTimeout _ => false
  | .hwakeExpire => false
  | .powerOn => false
  | .bootStage _ => false
  | .bootWatchdog => false
  | .reset => false
  | .recgo _ => false
  | .calc => false
  | .attctlGo => false
  | .attestDone => false
  | .powerCapStep _ => false
  | .thermalTrip => false
  | .tripRelease => false
  | .blockRead _ => false
  | .blockWrite _ _ => false
  | .registerWrite _ _ => false
  | .loadReturn _ => false
  | .linkUp _ => false
  | .lossOfPower => false

end Sys2Proof
end

