-- ==== Sys2Proof/Machine/Bits.lean ====
section
/-! DEFINITION. Bit fields, sign extension and the helpers of spec/10 R230 on words. -/

namespace Sys2Proof.Machine

/-- Bits [lo + n − 1 : lo] of a word as a number (R230 Bits). -/
def field (x : Word) (lo n : Nat) : Nat := x.toNat / 2 ^ lo % 2 ^ n

/-- `x` with bits [lo + n − 1 : lo] replaced by the low `n` bits of `y`. -/
def setField (x : Word) (lo n y : Nat) : Word :=
  let mask : Word := BitVec.ofNat 64 ((2 ^ n - 1) * 2 ^ lo)
  (x &&& ~~~mask) ||| (BitVec.ofNat 64 (y % 2 ^ n * 2 ^ lo) &&& mask)

/-- SignExtend(x, n): the low `n` bits of `x` as a signed field, extended to 64 bits (R230). -/
def signExtend (x : Nat) (n : Nat) : Word := ((BitVec.ofNat n x).signExtend 64)

/-- ZeroExtend(x, n) (R230). -/
def zeroExtend (x : Nat) (n : Nat) : Word := BitVec.ofNat 64 (x % 2 ^ n)

/-- An f32 or other 32-bit result: bits [63:32] cleared (R259). -/
def ofW32 (x : W32) : Word := x.setWidth 64

/-- The low 32 bits of a register (R259). -/
def toW32 (x : Word) : W32 := x.setWidth 32

/-- A truth value as the result of a comparison. -/
def ofBool (b : Bool) : Word := if b then 1 else 0

/-- A condition as one bit. -/
def bit (b : Bool) : Nat := if b then 1 else 0

/-- The smallest n with 2^n > x; 0 for 0. -/
def bitLen (x : Nat) : Nat := if x = 0 then 0 else Nat.log2 x + 1

/-- Count of leading zero bits of a 64-bit word, 0–64 (R265). -/
def clz64 (x : Word) : Nat := 64 - bitLen x.toNat

/-- Count of trailing zero bits, searched from bit `i` upward with `n` bits left. -/
def ctzFrom (x : Word) (i n : Nat) : Nat :=
  match n with
  | 0 => i
  | k + 1 => if x.getLsbD i then i else ctzFrom x (i + 1) k

def ctz64 (x : Word) : Nat := ctzFrom x 0 64

/-- Count of one bits among the low `n` (R265). -/
def popCount (x : Nat) (n : Nat) : Nat :=
  match n with
  | 0 => 0
  | k + 1 => x % 2 + popCount (x / 2) k

/-- The low `n` bits of `x` in reverse order (R265). -/
def revBits (x : Nat) (n : Nat) : Nat :=
  match n with
  | 0 => 0
  | k + 1 => x % 2 * 2 ^ k + revBits (x / 2) k

/-- Byte i to byte 7 − i (R265). -/
def revBytes (x : Nat) (n : Nat) : Nat :=
  match n with
  | 0 => 0
  | k + 1 => x % 256 * 256 ^ k + revBytes (x / 256) k

/-- Expand(m) of R79: bit 4k + i is bit k of m. -/
def expandNibbles (m : Nat) (n : Nat) : Nat :=
  match n with
  | 0 => 0
  | k + 1 => (if m % 2 = 1 then 15 else 0) + 16 * expandNibbles (m / 2) k

/-- Xorshift64 of R230. -/
def xorshift64 (x : Word) : Word :=
  let x := x ^^^ (x <<< 13)
  let x := x ^^^ (x >>> 7)
  x ^^^ (x <<< 17)

/-- mix64 of R230. -/
def mix64 (x : Word) : Word :=
  let x := x ^^^ (x >>> 31)
  let x := x * 0x9F1D5C3BA7E24681
  let x := x ^^^ (x >>> 29)
  let x := x * 0xD4B86A931C5FE727
  x ^^^ (x >>> 32)

/-- Ceiling of a quotient. -/
def ceilDiv (a b : Nat) : Nat := (a + b - 1) / b

/-- Whether two byte ranges share a byte (R72). -/
def overlaps (a n b m : Nat) : Bool := decide (a < b + m) && decide (b < a + n) && decide (0 < n) && decide (0 < m)

/-- Saturating count. -/
def satAdd (x n top : Nat) : Nat := min top (x + n)

/-- Replace element `i` of a list. -/
def setAt {α : Type} (xs : List α) (i : Nat) (y : α) : List α := xs.set i y

/-- Element `i` of a list, or a default. -/
def nth {α : Type} (d : α) (xs : List α) (i : Nat) : α := xs.getD i d

end Sys2Proof.Machine
end

