-- ==== Sys2Proof/Machine/Fp.lean ====
section
/-! DEFINITION. Floating-point values, rounding and arithmetic (spec/11 R231–R251): exact dyadic numbers, one
rounding, flags. Results computed from a quotient or a root carry a last sticky bit, which stands for the
remainder and rounds as the exact value does. -/

namespace Sys2Proof.Machine

/-- FSR bits [6:0] (R238). -/
abbrev Flags := BitVec 7
def flNV : Flags := 1
def flDZ : Flags := 2
def flOF : Flags := 4
def flUF : Flags := 8
def flNX : Flags := 16
def flSUBF : Flags := 32
def flSAT : Flags := 64

/-- A format: fraction bits, bias, exponent bits, and whether it has infinities and NaNs as IEEE 754 (R232). -/
structure Fmt where
  mb : Nat
  bias : Nat
  eb : Nat
  ieee : Bool
  e4 : Bool
  deriving DecidableEq, Repr

def fmtF32 : Fmt := { mb := 23, bias := 127, eb := 8, ieee := true, e4 := false }
def fmtBf16 : Fmt := { mb := 7, bias := 127, eb := 8, ieee := true, e4 := false }
def fmtE4m3 : Fmt := { mb := 3, bias := 7, eb := 4, ieee := false, e4 := true }
def fmtE2m1 : Fmt := { mb := 1, bias := 1, eb := 2, ieee := false, e4 := false }

/-- A value: NaN, an infinity, or (−1)^neg × m × 2^e. -/
inductive FVal where
  | nan
  | inf (neg : Bool)
  | fin (neg : Bool) (m : Nat) (e : Int)
  deriving DecidableEq, Repr

/-- The sign bit of a format. -/
def signOf (f : Fmt) (neg : Bool) : Nat := if neg then 2 ^ (f.mb + f.eb) else 0

/-- The value of a bit pattern (R232, R234, R235). -/
def decodeF (f : Fmt) (b : Nat) : FVal :=
  let neg := b / 2 ^ (f.mb + f.eb) % 2 = 1
  let e := b / 2 ^ f.mb % 2 ^ f.eb
  let m := b % 2 ^ f.mb
  if f.ieee && e = 2 ^ f.eb - 1 then (if m = 0 then .inf neg else .nan)
  else if f.e4 && e = 15 && m = 7 then .nan
  else if e = 0 then .fin neg m (1 - (f.bias : Int) - f.mb)
  else .fin neg (2 ^ f.mb + m) ((e : Int) - f.bias - f.mb)

/-- A subnormal pattern. -/
def isSubF (f : Fmt) (b : Nat) : Bool := b / 2 ^ f.mb % 2 ^ f.eb = 0 && b % 2 ^ f.mb != 0

/-- CanonNaN of a format (R232, R234); e2m1 has none and delivers 0 (R246). -/
def canonNaN (f : Fmt) : Nat :=
  if f.ieee then (2 ^ f.eb - 1) * 2 ^ f.mb + 2 ^ (f.mb - 1) else if f.e4 then 0x7F else 0

def infF (f : Fmt) (neg : Bool) : Nat := signOf f neg + (2 ^ f.eb - 1) * 2 ^ f.mb

/-- The largest finite magnitude as a pattern. -/
def maxFinite (f : Fmt) : Nat :=
  if f.ieee then (2 ^ f.eb - 1) * 2 ^ f.mb - 1 else if f.e4 then 0x7E else 0x7

/-- How to round: mode (R236 RM), e4m3 overflow, whether FLUSH applies (R241), whether the operation is a
conversion (R243), and the rounding state RS. -/
structure Mode where
  rm : Nat
  e4ovf : Bool
  flush : Bool
  conv : Bool
  rs : Word
  deriving DecidableEq, Repr

/-- RNE with exact subnormals (R242). -/
def Mode.rne : Mode := { rm := 0, e4ovf := false, flush := false, conv := false, rs := 0 }

/-- The mode of a captured FCR (R236); SR only in conversions (R240). -/
def Mode.ofFcr (fcr : Word) (conv : Bool) (rs : Word) : Mode :=
  { rm := field fcr 0 3, e4ovf := fcr.getLsbD 5, flush := decide (field fcr 3 2 = 1), conv := conv, rs := rs }

/-- A delivered value, its flags and the rounding state after it. -/
structure FRes where
  bits : Nat
  flags : Flags
  rs : Word
  deriving DecidableEq, Repr

/-- The next draw of R243 and R244: a state of 0 is replaced first. -/
def drawRs (rs : Word) : Word := xorshift64 (if rs = 0 then 0x6A3C91E40B57D2F8 else rs)

/-- Whether m × 2^e rounds away from its lower neighbour n × 2^q, with remainder r of 2^s (R240, R243). -/
def roundsUp (md : Mode) (neg : Bool) (n r s : Nat) : Bool × Word :=
  match md.rm with
  | 1 => (false, md.rs)
  | 2 => (neg, md.rs)
  | 3 => (!neg, md.rs)
  | 4 =>
    if md.conv then
      let rs := drawRs md.rs
      (decide (field rs 40 24 < r * 2 ^ 24 / 2 ^ s), rs)
    else (decide (2 * r > 2 ^ s) || (decide (2 * r = 2 ^ s) && n % 2 == 1), md.rs)
  | _ => (decide (2 * r > 2 ^ s) || (decide (2 * r = 2 ^ s) && n % 2 == 1), md.rs)

/-- m × 2^e to a whole number of 2^q: the number, whether inexact, and RS. DEDUCED, log entry 10. -/
def quantize (md : Mode) (neg : Bool) (m : Nat) (e q : Int) : Nat × Bool × Word :=
  if e ≥ q then (m * 2 ^ (e - q).toNat, false, md.rs)
  else
    let s := (q - e).toNat
    let n := m / 2 ^ s
    let r := m % 2 ^ s
    if r = 0 then (n, false, md.rs)
    else
      let u := roundsUp md neg n r s
      (if u.1 then n + 1 else n, true, u.2)

/-- The result of an overflow (R240, R245, R246). -/
def overflowF (f : Fmt) (md : Mode) (neg : Bool) : Nat :=
  if f.ieee then
    match md.rm with
    | 1 => signOf f neg + maxFinite f
    | 2 => if neg then infF f true else maxFinite f
    | 3 => if neg then signOf f true + maxFinite f else infF f false
    | _ => infF f neg
  else if f.e4 then signOf f neg + (if md.e4ovf then 0x7F else 0x7E)
  else signOf f neg + 7

/-- Whether n × 2^q lies above the largest finite magnitude. -/
def aboveMax (f : Fmt) (n : Nat) (q : Int) : Bool :=
  match decodeF f (maxFinite f) with
  | .fin _ m e => if q ≥ e then decide (n * 2 ^ (q - e).toNat > m) else decide (n > m * 2 ^ (e - q).toNat)
  | _ => false

/-- The pattern of n × 2^q, a value of the format's grid. -/
def packF (f : Fmt) (neg : Bool) (n : Nat) (q : Int) : Nat :=
  let t := bitLen n - 1
  let e : Int := (t : Int) + q
  let emin : Int := 1 - (f.bias : Int)
  if e < emin then signOf f neg + n * 2 ^ (q - (emin - f.mb)).toNat
  else
    let frac := if t ≥ f.mb then n / 2 ^ (t - f.mb) else n * 2 ^ (f.mb - t)
    signOf f neg + ((e + f.bias).toNat * 2 ^ f.mb + (frac - 2 ^ f.mb))

/-- The exact real (−1)^neg × m × 2^e rounded to a format (R240, R238). UF is taken as tininess after rounding
with an unbounded exponent, on an inexact result; in e2m1 as a delivered magnitude of 0.5 or below (R246; DEDUCED, log
entry 10). -/
def roundF (f : Fmt) (md : Mode) (neg : Bool) (m : Nat) (e : Int) : FRes :=
  if m = 0 then { bits := signOf f neg, flags := 0, rs := md.rs }
  else
    let emin : Int := 1 - (f.bias : Int)
    let top : Int := (bitLen m : Int) - 1 + e
    let q : Int := (if top < emin then emin else top) - f.mb
    let r := quantize md neg m e q
    let n := r.1
    if n != 0 && aboveMax f n q then { bits := overflowF f md neg, flags := flOF ||| flNX, rs := r.2.2 }
    else
      let u := quantize { md with conv := false } neg m e (top - f.mb)
      let tiny := r.2.1 && decide (top < emin) &&
        (if f = fmtE2m1 then decide (n ≤ 1) else !(decide (top = emin - 1) && decide (u.1 ≥ 2 ^ (f.mb + 1))))
      let fl := (if r.2.1 then flNX else 0) ||| (if tiny then flUF else 0)
      if n = 0 then { bits := signOf f neg, flags := fl, rs := r.2.2 }
      else if f.ieee && md.flush && decide (top < emin) && decide (n < 2 ^ f.mb) then
        { bits := signOf f neg, flags := flUF ||| flNX ||| flSUBF, rs := r.2.2 }
      else { bits := packF f neg n q, flags := fl, rs := r.2.2 }

/-- A result that needs no rounding. -/
def exactRes (bits : Nat) (fl : Flags) (md : Mode) : FRes := { bits := bits, flags := fl, rs := md.rs }

def nanRes (f : Fmt) (fl : Flags) (md : Mode) : FRes := exactRes (canonNaN f) fl md

/-- A source of an arithmetic use: in FLUSH mode a subnormal is a zero of its sign, with SUBF (R241). -/
def srcF (f : Fmt) (md : Mode) (b : Nat) : FVal × Flags :=
  match decodeF f b with
  | .fin s m e => if md.flush && isSubF f b then (.fin s 0 e, flSUBF) else (.fin s m e, 0)
  | v => (v, 0)

def negV (v : FVal) : FVal :=
  match v with
  | .nan => .nan
  | .inf s => .inf (!s)
  | .fin s m e => .fin (!s) m e

/-- A signed integer as sign and magnitude. -/
def ofInt (x : Int) : Bool × Nat := (decide (x < 0), x.natAbs)

/-- (−1)^s × m as a signed integer. -/
def sgn (s : Bool) (m : Nat) : Int := if s then -(m : Int) else (m : Int)

/-- The exact sum of two dyadics on a common exponent. -/
def sumDy (s1 : Bool) (m1 : Nat) (e1 : Int) (s2 : Bool) (m2 : Nat) (e2 : Int) : Int × Int :=
  let e := if e1 ≤ e2 then e1 else e2
  (sgn s1 (m1 * 2 ^ (e1 - e).toNat) + sgn s2 (m2 * 2 ^ (e2 - e).toNat), e)

/-- Addition of values, rounded (R240). -/
def addV (f : Fmt) (md : Mode) (a b : FVal) : FRes :=
  match a, b with
  | .nan, _ => nanRes f 0 md
  | _, .nan => nanRes f 0 md
  | .inf s, .inf t => if s = t then exactRes (infF f s) 0 md else nanRes f flNV md
  | .inf s, .fin _ _ _ => exactRes (infF f s) 0 md
  | .fin _ _ _, .inf t => exactRes (infF f t) 0 md
  | .fin s1 m1 e1, .fin s2 m2 e2 =>
    let x := sumDy s1 m1 e1 s2 m2 e2
    if x.1 = 0 then
      let neg := if m1 = 0 && m2 = 0 && s1 == s2 then s1 else decide (md.rm = 2)
      exactRes (signOf f neg) 0 md
    else roundF f md (decide (x.1 < 0)) x.1.natAbs x.2

/-- Multiplication, exact; the product of an infinity and a zero is `none`. -/
def mulV (a b : FVal) : Option FVal :=
  match a, b with
  | .nan, _ => some .nan
  | _, .nan => some .nan
  | .inf s, .inf t => some (.inf (s != t))
  | .inf s, .fin t m _ => if m = 0 then none else some (.inf (s != t))
  | .fin s m _, .inf t => if m = 0 then none else some (.inf (s != t))
  | .fin s m e, .fin t n d => some (.fin (s != t) (m * n) (e + d))

/-- A value rounded to a format. -/
def roundV (f : Fmt) (md : Mode) (v : FVal) : FRes :=
  match v with
  | .nan => nanRes f 0 md
  | .inf s => exactRes (infF f s) 0 md
  | .fin s m e => roundF f md s m e

/-- Quotient of magnitudes with a sticky bit: 80 fraction bits beyond the operands. -/
def divDy (m1 : Nat) (e1 : Int) (m2 : Nat) (e2 : Int) : Nat × Int :=
  let n := m1 * 2 ^ 80
  (2 * (n / m2) + (if n % m2 = 0 then 0 else 1), e1 - e2 - 81)

/-- Division (R267). -/
def divV (f : Fmt) (md : Mode) (a b : FVal) : FRes :=
  match a, b with
  | .nan, _ => nanRes f 0 md
  | _, .nan => nanRes f 0 md
  | .inf _, .inf _ => nanRes f flNV md
  | .inf s, .fin t _ _ => exactRes (infF f (s != t)) 0 md
  | .fin s _ _, .inf t => exactRes (signOf f (s != t)) 0 md
  | .fin s m e, .fin t n d =>
    if n = 0 then (if m = 0 then nanRes f flNV md else exactRes (infF f (s != t)) flDZ md)
    else
      let q := divDy m e n d
      roundF f md (s != t) q.1 q.2

/-- Integer square root, bit by bit from bit `k`. -/
def isqrtFrom (n r k : Nat) : Nat :=
  match k with
  | 0 => r
  | j + 1 =>
    let c := r + 2 ^ j
    isqrtFrom n (if c * c ≤ n then c else r) j

/-- ⌊√n⌋ for n below 2^(2k). -/
def isqrt (n k : Nat) : Nat := isqrtFrom n 0 k

/-- √(m × 2^e) with a sticky bit, for an odd or even exponent. -/
def sqrtDy (m : Nat) (e : Int) : Nat × Int :=
  let odd := e % 2 ≠ 0
  let n := (if odd then 2 * m else m) * 2 ^ 80
  let h : Int := (if odd then e - 1 else e) / 2 - 40
  let r := isqrt n 70
  (2 * r + (if r * r = n then 0 else 1), h - 1)

/-- Square root (R267); √(−0) = −0. -/
def sqrtV (f : Fmt) (md : Mode) (a : FVal) : FRes :=
  match a with
  | .nan => nanRes f 0 md
  | .inf s => if s then nanRes f flNV md else exactRes (infF f false) 0 md
  | .fin s m e =>
    if m = 0 then exactRes (signOf f s) 0 md
    else if s then nanRes f flNV md
    else
      let r := sqrtDy m e
      roundF f md false r.1 r.2

/-- (±)(a × b) ± c rounded once (R268): `np` negates the product, `nc` the addend. -/
def fmaV (f : Fmt) (md : Mode) (np nc : Bool) (a b c : FVal) : FRes :=
  match mulV a b with
  | none => nanRes f flNV md
  | some p => addV f md (if np then negV p else p) (if nc then negV c else c)

/-- Two-source f32 arithmetic with R241 and R238. -/
def fp2 (md : Mode) (a b : W32) (op : FVal → FVal → FRes) : W32 × Flags :=
  let x := srcF fmtF32 md a.toNat
  let y := srcF fmtF32 md b.toNat
  let r := op x.1 y.1
  (BitVec.ofNat 32 r.bits, r.flags ||| x.2 ||| y.2)

def faddOp (md : Mode) (a b : W32) : W32 × Flags := fp2 md a b (addV fmtF32 md)
def fsubOp (md : Mode) (a b : W32) : W32 × Flags := fp2 md a b fun x y => addV fmtF32 md x (negV y)
def fmulOp (md : Mode) (a b : W32) : W32 × Flags :=
  fp2 md a b fun x y => match mulV x y with
    | none => nanRes fmtF32 flNV md
    | some p => roundV fmtF32 md p
def fdivOp (md : Mode) (a b : W32) : W32 × Flags := fp2 md a b (divV fmtF32 md)
def fsqrtOp (md : Mode) (a : W32) : W32 × Flags := fp2 md a 0 fun x _ => sqrtV fmtF32 md x

def fmaOp (md : Mode) (np nc : Bool) (a b c : W32) : W32 × Flags :=
  let x := srcF fmtF32 md a.toNat
  let y := srcF fmtF32 md b.toNat
  let z := srcF fmtF32 md c.toNat
  let r := fmaV fmtF32 md np nc x.1 y.1 z.1
  (BitVec.ofNat 32 r.bits, r.flags ||| x.2 ||| y.2 ||| z.2)

/-- IsNaN (R230). -/
def isNaN32 (b : W32) : Bool := decodeF fmtF32 b.toNat == .nan

def isSub32 (b : W32) : Bool := isSubF fmtF32 b.toNat

/-- KeyOf and FromKey (R230, R250). -/
def keyOf (b : W32) : W32 := if b.getLsbD 31 then ~~~b else b ^^^ 0x80000000
def fromKey (k : W32) : W32 := if k.getLsbD 31 then k ^^^ 0x80000000 else ~~~k

/-- Numeric minimum and maximum (R251): −0 below +0, NaN gives CanonNaN. On values without NaN the exact
order with −0 below +0 is the key order. -/
def fminOp (a b : W32) : W32 :=
  if isNaN32 a || isNaN32 b then 0x7FC00000 else if (keyOf a).toNat ≤ (keyOf b).toNat then a else b
def fmaxOp (a b : W32) : W32 :=
  if isNaN32 a || isNaN32 b then 0x7FC00000 else if (keyOf b).toNat ≤ (keyOf a).toNat then a else b

/-- The operand with the smaller or the larger key (R250, R267). -/
def fmintOp (a b : W32) : W32 := if (keyOf a).toNat ≤ (keyOf b).toNat then a else b
def fmaxtOp (a b : W32) : W32 := if (keyOf b).toNat ≤ (keyOf a).toNat then a else b

/-- A zero of either sign. -/
def isZero32 (b : W32) : Bool := b.toNat % 2 ^ 31 = 0

/-- Numeric comparisons (R269): +0 = −0, false with a NaN. -/
def feqOp (a b : W32) : Bool := !isNaN32 a && !isNaN32 b && (a == b || (isZero32 a && isZero32 b))
def fltOp (a b : W32) : Bool :=
  !isNaN32 a && !isNaN32 b && !(isZero32 a && isZero32 b) && decide ((keyOf a).toNat < (keyOf b).toNat)
def fleOp (a b : W32) : Bool := fltOp a b || feqOp a b
def funordOp (a b : W32) : Bool := isNaN32 a || isNaN32 b

/-- `fclass` (R269). -/
def fclassOp (a : W32) : Nat :=
  match decodeF fmtF32 a.toNat with
  | .nan => 0x100
  | .inf s => if s then 0x001 else 0x080
  | .fin s m _ =>
    if m = 0 then (if s then 0x008 else 0x010)
    else if isSub32 a then (if s then 0x004 else 0x020)
    else if s then 0x002 else 0x040

/-- Conversion of a value to an integer range (R248): the integer and its flags. -/
def toIntV (md : Mode) (v : FVal) (lo hi : Int) : Int × Flags × Word :=
  match v with
  | .nan => (0, flNV, md.rs)
  | .inf s => (if s then lo else hi, flNV, md.rs)
  | .fin s m e =>
    let q := quantize md s m e 0
    let x := sgn s q.1
    if x > hi then (hi, flNV, q.2.2) else if x < lo then (lo, flNV, q.2.2)
    else (x, if q.2.1 then flNX else 0, q.2.2)

/-- Conversion of an exact integer (R249). -/
def ofIntV (f : Fmt) (md : Mode) (x : Int) : FRes := roundF f md (decide (x < 0)) x.natAbs 0

/-- Conversion from one format to another. Infinities and NaNs follow R245 and R246 at the narrow formats; a
subnormal source flushes only where `flushSrc` holds (R241, R247). -/
def convF (src dst : Fmt) (md : Mode) (flushSrc : Bool) (b : Nat) : FRes :=
  let v := if flushSrc then srcF src md b else (decodeF src b, 0)
  match v.1 with
  | .nan => if dst.ieee || dst.e4 then nanRes dst v.2 md else exactRes 0 (flNV ||| v.2) md
  | .inf s =>
    if dst.ieee then exactRes (infF dst s) v.2 md else exactRes (overflowF dst md s) (flOF ||| flNX ||| v.2) md
  | .fin s m e =>
    let r := roundF dst md s m e
    { r with flags := r.flags ||| v.2 }

/-- Clamp an integer to a range, with SAT when clamped (R230 SatS32, R347). -/
def clampI (x lo hi : Int) : Int × Flags :=
  if x > hi then (hi, flSAT) else if x < lo then (lo, flSAT) else (x, 0)

end Sys2Proof.Machine
end

