-- ==== Sys2Proof/Config.lean ====
section
/-! DEFINITION. What the manual leaves to the implementation or leaves open: free values without a body
(nothing can evaluate them), and the sizes that the manual fixes once. Log entries 6, 7, 14 and 16 (DESIGN CHOICE). -/

namespace Sys2Proof.Config

/-- Byte `k` of the RSASSA-PSS signature over an attestation report's bytes 0–511, made with the device
identity key (spec/21 R451); the key and the salt are not in the spec, so the value is free (DESIGN CHOICE, log entry 6). -/
opaque attestationByte : List (BitVec 8) → Nat → BitVec 8

/-- Whether the root of trust verifies a recovery image, the bytes of the slice that holds it (spec/21 R448, R450);
the header's layout and the fused key are not in the spec, so the verdict is free (DESIGN CHOICE, log entry 6). -/
opaque imageVerified : List (BitVec 8) → Bool

/-- A free value for a result that the manual leaves open; `n` is the state's counter `fresh` (DESIGN CHOICE, log entry 7). -/
opaque freeWord : Nat → BitVec 64

/-- How run B of check mode perturbs a choice, by its seed and the cycle; the manual names the seed and leaves the
perturbation open (spec/07 R156; DESIGN CHOICE, log entry 16). -/
opaque perturbation : BitVec 32 → Nat → Nat

/-- Cycles taken for one microsecond: the Class A arithmetic clock (R20; DESIGN CHOICE, log entry 14). -/
def cyclesPerUs : Nat := 960
/-- HBM installed, in bytes (R47, R81). -/
def hbmBytes : Nat := 0xC000000000
/-- Bytes of a slice and of a lid or cap region (R35). -/
def sliceBytes : Nat := 0x180000
def lidBytes : Nat := 0x200000
/-- Sequencer entries of a slot (R331). -/
def seqEntries : Nat := 16
/-- Array commands in a core's matrix queue (R370). -/
def matQueue : Nat := 32
/-- Commands of an engine queue for each core (R382). -/
def engQueue : Nat := 16
/-- Waiter-table entries of an owner open to processes (R115). -/
def waiterEntries : Nat := 112
/-- Scoreboard entries of a core (R71). -/
def scoreboardEntries : Nat := 16

end Sys2Proof.Config
end

