-- ==== Sys2Proof/Machine/SMap.lean ====
section
/-! DEFINITION. Sparse maps as plain data: a list of (key, value) pairs in one canonical form, keys strictly
rising and no entry equal to the default `d` that an unlisted key reads as. Memory is such a map of bytes. -/

namespace Sys2Proof.Machine

/-- Entries by key. -/
abbrev SMap (α : Type) := List (Nat × α)

/-- The value at key `k`; `d` where no entry is listed. DESIGN CHOICE, log entry 3. -/
def SMap.get {α : Type} (d : α) (m : SMap α) (k : Nat) : α :=
  match m with
  | [] => d
  | (j, v) :: r => if k = j then v else SMap.get d r k

/-- `m` with the value `v` at key `k`; writing the default removes the entry. -/
def SMap.put {α : Type} [DecidableEq α] (d : α) (m : SMap α) (k : Nat) (v : α) : SMap α :=
  match m with
  | [] => if v = d then [] else [(k, v)]
  | (j, w) :: r =>
    if k < j then (if v = d then (j, w) :: r else (k, v) :: (j, w) :: r)
    else if k = j then (if v = d then r else (k, v) :: r)
    else (j, w) :: SMap.put d r k v

/-- Every key of `m` lies above `k`. -/
def SMap.above {α : Type} (k : Nat) (m : SMap α) : Bool :=
  match m with
  | [] => true
  | (j, _) :: _ => decide (k < j)

/-- The canonical form. -/
def SMap.wf {α : Type} [DecidableEq α] (d : α) (m : SMap α) : Bool :=
  match m with
  | [] => true
  | (k, v) :: r => decide (v ≠ d) && SMap.above k r && SMap.wf d r

/-- Apply `f` to every entry, in ascending key, collecting the results. -/
def SMap.collect {α β : Type} (f : Nat → α → List β) (m : SMap α) : List β :=
  m.flatMap fun e => f e.1 e.2

/-- The byte at a key of a byte map; an unlisted byte reads 0 (R103; HBM: log entry 3). -/
def byteAt (m : List Host.Cell) (a : Nat) : Byte := SMap.get 0 m a

/-- A byte map with byte `a` set to `x`. -/
def putByte (m : List Host.Cell) (a : Nat) (x : Byte) : List Host.Cell := SMap.put 0 m a x

/-- The `n` bytes from `a` upward. -/
def bytesAt (m : List Host.Cell) (a n : Nat) : List Byte :=
  (List.range n).map fun i => byteAt m (a + i)

/-- The bytes `bs` written from `a` upward. -/
def putBytes (m : List Host.Cell) (a : Nat) (bs : List Byte) : List Host.Cell :=
  match bs with
  | [] => m
  | b :: r => putBytes (putByte m a b) (a + 1) r

/-- A memory in canonical form. -/
def Memory.wf (m : List Host.Cell) : Bool := SMap.wf 0 m

/-- Little-endian value of bytes (R4). -/
def bytesToNat (bs : List Byte) : Nat :=
  match bs with
  | [] => 0
  | b :: r => b.toNat + 256 * bytesToNat r

/-- The low `n` bytes of a value, least significant first (R4). -/
def natToBytes (n x : Nat) : List Byte :=
  match n with
  | 0 => []
  | k + 1 => BitVec.ofNat 8 x :: natToBytes k (x / 256)

/-- An `n`-byte little-endian read. -/
def readNat (m : List Host.Cell) (a n : Nat) : Nat := bytesToNat (bytesAt m a n)

/-- An `n`-byte little-endian write. -/
def writeNat (m : List Host.Cell) (a n x : Nat) : List Host.Cell := putBytes m a (natToBytes n x)

/-- An 8-byte read (R4). -/
def readWord (m : List Host.Cell) (a : Nat) : Word := BitVec.ofNat 64 (readNat m a 8)

/-- An 8-byte write. -/
def writeWord (m : List Host.Cell) (a : Nat) (x : Word) : List Host.Cell := writeNat m a 8 x.toNat

end Sys2Proof.Machine
end

