-- ==== Sys2Proof/Machine/State.lean ====
section
/-! DEFINITION. The state of the Lyoryth L9 as plain data: processes and helpers, memory with its sideband,
register blocks, cores, benches, queues, homes, launch units, links, host and boot state; the reasons a step can
stop; and the state right after power-on. Each field names the rule of spec/ it comes from. -/

namespace Sys2Proof.Machine

/-- The states of a process record (R165). -/
inductive RecState where
  | free | ready | running | parked | spilled | faulted | done
  deriving DecidableEq, Repr

/-- The STATE byte of R165. -/
def RecState.code : RecState → Nat
  | .free => 0 | .ready => 1 | .running => 2 | .parked => 3 | .spilled => 4 | .faulted => 5 | .done => 6

/-- One entry of the loop stack (R274). -/
structure Loop where
  start : Word
  stop : Word
  rem : Word
  deriving DecidableEq, Repr

/-- The five counters of outstanding work, 16 bits each (R287). -/
structure Counters where
  loads : BitVec 16
  stores : BitVec 16
  copies : BitVec 16
  matrix : BitVec 16
  transfers : BitVec 16
  deriving DecidableEq, Repr

/-- An access or operation of a process that has not yet returned, been acknowledged or faulted (R123, R141). -/
structure Outst where
  sn : Nat
  loads : Bool          -- a load or returning atomic
  stores : Bool         -- a store-type access
  held : Bool           -- the held operation on which the process waits (R141)
  sp3 : Bool            -- an access to space 3 (R126)
  owner : List Nat      -- the owner's coordinate (R127)
  deriving DecidableEq, Repr

/-- Two-source lane arithmetic (R341). -/
inductive VBin where
  | add | sub | mul | div | min | max | and | or | xor | sll | srl | sra | adds | subs
  deriving DecidableEq, Repr

/-- One-source lane operations that a mask governs (R341, R346). -/
inductive VUn where
  | abs | neg
  deriving DecidableEq, Repr

/-- Three-source lane arithmetic (R343). -/
inductive VTri where
  | fma | fms | fnma | fnms | madS | madN
  deriving DecidableEq, Repr

/-- Lane comparisons into a mask (R344). -/
inductive VCmp where
  | eq | ne | lt | le | unord | ltt
  deriving DecidableEq, Repr

/-- Mask operations (R345). -/
inductive VMsk where
  | and | or | xor | andn | not
  deriving DecidableEq, Repr

/-- Lane moves (R346). -/
inductive VMov where
  | mov | bcast | rot | shuf | comp | expd
  deriving DecidableEq, Repr

/-- Special functions (R348). -/
inductive VFun where
  | exp | exp2 | log | log2 | rcp | sqrt | rsqrt | sin | cos | tanh | sigm | erf
  deriving DecidableEq, Repr

/-- Reductions over lanes (R349). -/
inductive VRed where
  | sum | max | min | maxt | mint | and | or | xor
  deriving DecidableEq, Repr

/-- Summary insertions from lanes and the scalar summary operations (R360–R366). -/
inductive SkOp where
  | q | h | d | init | merge | quant | rank | est | count
  deriving DecidableEq, Repr

/-- An operation of a sequencer entry (R331, R332). -/
inductive VecOp where
  | bin (f : VBin) (d a b : Reg) (m : MReg) (t : LaneTy)
  | un (f : VUn) (d a : Reg) (m : MReg) (t : LaneTy)
  | tri (f : VTri) (d a b c : Reg) (m : MReg)
  | cmp (f : VCmp) (d : MReg) (a b : Reg) (m : MReg) (t : LaneTy)
  | msk (f : VMsk) (d a b : MReg)
  | mpop (d : Reg) (a : MReg)
  | mfrst (d : Reg) (a : MReg)
  | mfromg (d : MReg) (a : Reg)
  | mtog (d : Reg) (a : MReg)
  | mov (f : VMov) (d a b : Reg) (m : MReg)
  | ins (d a b : Reg)
  | ext (d a b : Reg)
  | cvt (d a : Reg) (m : MReg) (t s : LaneTy)
  | fn (f : VFun) (d a : Reg) (m : MReg)
  | red (f : VRed) (d a : Reg) (m : MReg) (t : LaneTy)
  | sk (f : SkOp) (d a b : Reg) (m : MReg) (t : LaneTy)
  | ld (d a b : Reg) (m : MReg) (t : LaneTy)
  | st (d a b : Reg) (m : MReg) (t : LaneTy)
  | ldx (d a b : Reg) (m : MReg) (t : LaneTy)
  | stx (d a b : Reg) (m : MReg) (t : LaneTy)
  deriving DecidableEq, Repr

/-- A sequencer entry: the word, the scalar values and the FCR captured at issue (R331, R406). -/
structure SeqEntry where
  word : W32
  isC : Bool
  op : VecOp
  ga : Word
  gb : Word
  fcr : Word
  pc : Word
  deriving DecidableEq, Repr

/-- The vector loop of the sequencer (R334, R406). -/
structure VLoop where
  left : Word          -- iterations remaining
  len : Nat            -- bundles of the body
  next : Nat           -- next body entry
  iter : Nat           -- iteration j
  body : List SeqEntry -- the entries of the body, in order
  ahead : Nat          -- queued entries that stand before the loop
  deriving DecidableEq, Repr

/-- Registers as they stood before the bundle (R213). -/
structure Pre where
  g : Vector Word 32
  fcr : Word
  vgrant : Word
  rs : Word
  deriving DecidableEq, Repr

/-- A word to be performed again by itself, with the registers of its issue (R215, R405). -/
structure Redo where
  pc : Word
  ir : Word
  regs : Pre
  isA : Bool           -- the A-word is performed again, not the C-word
  deriving DecidableEq, Repr

/-- An item of a matrix queue: the array commands of R374–R380, captured at issue, and `mreq` and `mrel`, which are
none (R370–R372). -/
inductive MatOp where
  | req (mask : Nat)
  | rel
  | fmt (w : Word)
  | scl (a b : Word)
  | lid (va w0 w1 w2 : Word)             -- descriptor address and words
  | clr (mask : Nat)
  | mac (form : Nat) (ctl d0 d1 : Word)   -- 0 mmac, 1 mmacc, 2 mmacj
  | drn (ctl fcr rs d0 d1 : Word)
  deriving DecidableEq, Repr

/-- An item of a core's matrix queue. -/
structure MatItem where
  pid : Nat
  slot : Nat
  ctx : Byte
  op : MatOp
  cmd : Nat                    -- command number
  pc : Word
  stopped : Bool               -- raised a fault and waits for the supervisor (R377)
  pos : Nat                    -- rows × 2^16 + bytes of the row that have moved
  flags : BitVec 7             -- flags so far
  rs : Word                    -- RS as drawn so far
  deriving DecidableEq, Repr

/-- What an engine or collective command does (R384–R392, R397, R313). -/
inductive EngKind where
  | copy | tensor | deal | gather | hload | fgload
  deriving DecidableEq, Repr

/-- A command of an engine queue (R382–R386). -/
structure EngCmd where
  kind : EngKind
  pid : Nat
  slot : Nat
  core : Nat
  ctx : Byte
  cmd : Nat                    -- command number
  words : List Word            -- the descriptor as captured
  dpat : Word                  -- DPAT as captured (R76)
  fcr : Word                   -- FCR as captured (R382)
  rs : Word                    -- RS as captured and drawn so far (R244)
  done : Word                  -- completion word address; 0 = none (R383)
  pre : Bool                   -- PRE flag (R138)
  waits : List Nat             -- accesses that PRE waits for
  pos : Nat                    -- bytes or elements that have moved
  beats : Nat                  -- beats performed (R383)
  flags : BitVec 7             -- flags of the beats so far
  err : Option FaultInfo       -- stopped at a failed beat (R44)
  pc : Word
  deriving DecidableEq, Repr

/-- A collective post of a local member (R388, R392). -/
structure Post where
  pid : Nat
  slot : Nat
  core : Nat                   -- physical core
  ctx : Byte
  cmd : Nat
  cid : Nat
  num : Nat
  rank : Nat
  comm : List Word             -- communicator descriptor words
  words : List Word            -- collective descriptor words
  table : List Word            -- member table
  va : Word                    -- descriptor address
  done : Word                  -- completion word address; 0 = none
  told : Bool                  -- its announcements have been sent
  pc : Word
  deriving DecidableEq, Repr

/-- A command that a chunk keeps until its commit (R150, R154). -/
inductive Held where
  | eng (queue : Nat) (c : EngCmd)
  | mat (core : Nat) (i : MatItem)
  | post (p : Post)
  deriving DecidableEq, Repr

/-- A fault record that a FAULTED record owes on UNIT 0 (R405). -/
structure Owed where
  atIssue : Bool         -- raised as an issue check
  pc : Word
  req : Option Req       -- the access to check and send again
  redo : Option Ev       -- the command to send again
  writes : List Reg      -- destinations that SKIP writes
  cls : CntClass
  sn : Nat
  entry : Bool           -- a sequencer memory entry (R339)
  again : Option Redo    -- the word to perform again
  viol : Bool := false   -- the violation that froze the slot (R56)
  tval : Word := 0       -- TVAL of the record (R191)
  held : Bool := false   -- the operation that suspended a task (R167)
  cmd : Option Held := none   -- the command that found its queue frozen (R56)
  deriving DecidableEq, Repr

/-- Lease state of a process (R371). -/
inductive LeaseState where
  | none | requested
  deriving DecidableEq, Repr

/-- A level-2 chunk of a process (R149, R150). -/
structure Chunk where
  bundles : Nat
  reads : List Nat             -- 64-byte units of the read set
  writes : List (Nat × Nat × Word) -- the write buffer: 8-byte word, mask of its nibbles, data
  rel : List Nat               -- words of it whose last store carried release order
  cmds : List Held             -- queued engine and matrix commands
  first : Nat                  -- clk at the first read
  ended : Bool
  boundary : Bool              -- the next bundle holds a boundary instruction
  granted : Bool               -- performed at the commit turn
  pc : Word                    -- checkpoint of R150
  g : List Word
  fsr : Word
  rs : Word
  smiss : Word
  tstat : Word
  frozenLoops : Nat
  seqStop : Bool
  loops : List Loop
  v : List (List W32)
  m : List (BitVec 256)
  seq : List SeqEntry
  vloop : Option VLoop
  bound : Byte
  dir : Byte
  lease : LeaseState
  seqWaits : Nat               -- the sequencer waits for the commit: 1 an entry performed there, 2 the next chunk
  deriving DecidableEq, Repr

/-- A process with its whole register context (R165, R167, R321, R406), or a helper (R312). -/
structure Proc where
  pid : Nat                    -- record address; a helper's key lies at 2^64 and above
  core : Nat                   -- physical core
  unit : Nat                   -- slot 0–7; 8 loader; 9 storer; 10 in no slot
  ctx : Byte
  prio : BitVec 3
  task : Bool
  rc : Bool
  st : RecState
  home : Nat                   -- logical core
  pc : Word                    -- R165
  g : Vector Word 32           -- R9; g0 reads zero in `Proc.rg`
  pend : BitVec 32             -- pending registers (R214)
  fcr : Word                   -- R236
  fsr : Word                   -- R238
  smiss : Word                 -- R135
  tmo : Word                   -- R323
  dpat : Word                  -- R75
  seed : Word                  -- R321
  rs : Word                    -- R244
  tvec : Word                  -- R322
  epc : Word
  tcause : Word
  tval : Word
  tstat : Word
  vgrant : Word                -- R325
  chk : Word                   -- R158
  ext : Vector W32 4           -- R199
  org : Vector W32 4
  rank : BitVec 11
  nrank : BitVec 11
  loops : List Loop            -- top first (R274)
  frozenLoops : Nat            -- entries at the bottom that a running handler has frozen
  cnt : Counters               -- R287
  v : Vector (List W32) 32     -- lanes of v0–v31 (R324)
  m : Vector (BitVec 256) 8    -- R324
  seq : List SeqEntry          -- R331
  seqStop : Bool               -- stopped at a trap until `tret` (R400)
  vloop : Option VLoop         -- R334
  vpos : Nat                   -- beats of the executing memory entry already performed (R339)
  voff : List W32              -- offsets of the executing `vldx` or `vstx` as it began (R340)
  seqPc : Word                 -- bundle of the entry at which the sequencer stopped (R400)
  bound : Byte                 -- streams bound (R336)
  dir : Byte                   -- 1 = storer
  laneMin : Nat                -- saved claim (R207)
  laneMax : Nat
  lease : LeaseState           -- R371
  banks : Nat                  -- banks owned
  wait : Nat                   -- WAIT (R165)
  wkind : Nat                  -- wait kind of R191
  waiting : Bool               -- the slot awaits a reply before its bundle ends
  armed : Option Nat           -- armed time-out: deadline on CLK (R181)
  outst : List Outst           -- accesses in flight (R123)
  holdAll : List Nat           -- accesses that must finish before any later access (R129, R132)
  holdSt : List Nat            -- accesses that must finish before any later store-type access (R132)
  chan : Nat                   -- channel operations outstanding, tiles excepted (R297)
  wake : List (Reg × Word)     -- results kept for a suspended task (R170)
  launch : Option (Nat × Nat)  -- tower and entry of the launch table (R201)
  failed : Bool                -- has been FAULTED since its start (R201)
  owed : List Owed             -- R405
  redo : List Redo             -- C-words that RETRY performs again before the next bundle (R405)
  selRedo : Option Redo        -- the select now in flight, for a RETRY
  frozen : Bool                -- R56
  chunk : Option Chunk         -- R149
  seqs : SMap Nat              -- sends counted per channel (R146)
  created : Nat                -- creation number (R151)
  killed : Bool                -- `gkill` (R188)
  overflow : Bool              -- TRIGGER_OVF owed at the next placement (R408)
  placed : Nat                 -- order of placement (R203)
  parkedAt : Nat               -- order of parking (R169)
  handlerOf : Option Nat       -- the locked unit of a handler (R186)
  away : Bool                  -- its context stands in the spill frame (R406)
  fetched : Option (Word × Word) -- a bundle that host memory has returned, with its address (R420)
  leaving : Nat                -- why it leaves its slot: 0 not, 1 parked, 2 pre-empted, 3 evicted, 5 yield, 16 + core displaced (R407)
  savedUnits : Nat             -- lane units held when its context was saved (R207)
  lastSlot : Nat               -- 8 × core + slot, where it stood last (R141, R407)
  lateCp : BitVec 7            -- flags of completed copies, which a `waitc` merges (R287, R383)
  lateMx : BitVec 7            -- flags of completed array commands, likewise (R287, R376)
  lateTr : BitVec 7            -- flags of completed collectives, likewise (R287, R391)
  turnWait : Bool              -- woken from outside its commit domain: out of the current pass (R151)
  leaveNo : Nat                -- order of the requests to the spill engine (R205)
  rsFrom : Nat                 -- the record address that RS is made from; 0 = its own (R244)
  deriving DecidableEq, Repr

/-- A process that holds nothing. -/
def Proc.empty : Proc :=
  { pid := 0, core := 0, unit := 10, ctx := 0, prio := 0, task := false, rc := false, st := .free, home := 0, pc := 0,
    g := Vector.replicate 32 0, pend := 0, fcr := 8, fsr := 0, smiss := 0, tmo := 0, dpat := 0, seed := 0, rs := 0,
    tvec := 0, epc := 0, tcause := 0, tval := 0, tstat := 0, vgrant := 0, chk := 0, ext := Vector.replicate 4 0,
    org := Vector.replicate 4 0, rank := 0, nrank := 0, loops := [], frozenLoops := 0,
    cnt := { loads := 0, stores := 0, copies := 0, matrix := 0, transfers := 0 }, v := Vector.replicate 32 [],
    m := Vector.replicate 8 0, seq := [], seqStop := false, vloop := none, vpos := 0, voff := [], seqPc := 0, bound := 0, dir := 0, laneMin := 0,
    laneMax := 0, lease := .none, banks := 0, wait := 0, wkind := 0, waiting := false, armed := none, outst := [],
    holdAll := [], holdSt := [], chan := 0, wake := [], launch := none, failed := false, owed := [], redo := [], selRedo := none,
    frozen := false, chunk := none, seqs := [], created := 0, killed := false, overflow := false, placed := 0,
    parkedAt := 0, handlerOf := none, away := false, fetched := none, leaving := 0, savedUnits := 0,
    lastSlot := 0, lateCp := 0, lateMx := 0, lateTr := 0, turnWait := false,
    leaveNo := 0, rsFrom := 0 }

/-- An entry of a core's range scoreboard (R71, R74). -/
structure ScoreEntry where
  base : Word
  len : Nat
  write : Bool
  slot : Nat
  cls : CntClass
  cmd : Nat              -- the command that made it
  deriving DecidableEq, Repr

/-- One core: its slots, ready queues and counters. -/
structure Core where
  lcore : Nat                      -- logical index (R27); 1024 where none
  slots : Vector Nat 8             -- record addresses; 0 = empty (R169)
  rot : Nat                        -- rotation pointer (R204)
  cyc : Nat                        -- the cycle n of R204, modulo 8
  fifos : Vector (List Nat) 8      -- ready FIFOs, head first (R169)
  deque : List Nat                 -- bottom first (R184)
  issued : Vector (BitVec 32) 10   -- ISSUED of each slot and helper (R175)
  unacked : List (Nat × Nat × Nat) -- unit, access number, its count in ISSUED (R175)
  dis : Byte                       -- slots that thermal control has disabled (R210)
  score : List ScoreEntry          -- R71
  clk0 : Nat                       -- cycle count at the last power-up (R323)
  deriving DecidableEq, Repr

def Core.empty : Core :=
  { lcore := 1024, slots := Vector.replicate 8 0, rot := 0, cyc := 0, fifos := Vector.replicate 8 [], deque := [],
    issued := Vector.replicate 10 0, unacked := [], dis := 0, score := [], clk0 := 0 }

/-- A named barrier (R187) and its group (R188). -/
structure Barrier where
  expect : Nat
  arrived : Nat
  gen : BitVec 16
  waiters : List BarMsg
  table : Nat            -- address of the member table; 0 = none
  members : List Nat     -- as the table was read; 0 where a member has left
  deriving DecidableEq, Repr

def Barrier.empty : Barrier := { expect := 0, arrived := 0, gen := 0, waiters := [], table := 0, members := [] }

/-- The sender of a buffered element, kept by the home (R136), and the flags of a reply (R91). -/
structure ElemInfo where
  key : Nat
  idx : Nat
  core : Nat
  unit : Nat
  proc : Bool            -- the sender is a process
  flags : BitVec 7
  deriving DecidableEq, Repr

/-- An entry of a release-source table (R133). -/
structure RelEntry where
  key : Nat
  core : Nat
  unit : Nat
  touched : Bool := false    -- a store-type access that leaves RSCOPE has been performed since (R134)
  deriving DecidableEq, Repr

/-- A widening in progress (R134). -/
structure Widening where
  key : Nat
  core : Nat
  unit : Nat
  acquirers : List Agent
  snap : Option (List Nat)   -- access numbers not yet acknowledged at the snapshot
  rewritten : Bool           -- a store-type access to the word since the release
  stale : Bool := false      -- the word's RSCOPE is of a later write than this release
  deriving DecidableEq, Repr

/-- A cached translation (R46, R49). -/
structure Tlb where
  ctx : Byte
  space : Nat
  bits : Nat             -- log2 of the size: 16, 21, 28 or 40
  vpage : Nat            -- address div 2^bits
  base : Nat             -- first byte of the block
  glob : Bool
  rd : Bool
  wr : Bool
  ex : Bool
  deriving DecidableEq, Repr

/-- A window of a window table (R41). -/
structure Window where
  w0 : Word
  w1 : Word
  deriving DecidableEq, Repr

/-- A cached context descriptor with its windows (R39). -/
structure Desc where
  valid : Bool
  sup : Bool
  dev : Bool
  xhost : Bool
  root0 : Word
  root1 : Word
  mbox : Word
  windows : List Window
  bad : Bool := false    -- its table cannot be read (R85)
  deriving DecidableEq, Repr

/-- A table entry of the top or middle level that a die caches (R50). -/
structure Upper where
  die : Nat
  ctx : Byte
  space : Nat
  level : Nat            -- 2 top, 1 middle
  tag : Nat              -- the address bits that index down to its level
  word : Word
  deriving DecidableEq, Repr

/-- A walk in flight with its requesters (R50). -/
structure Walk where
  die : Nat
  ctx : Byte
  space : Nat
  vpage : Nat            -- address div 2^16
  joined : List Req
  deriving DecidableEq, Repr

/-- One record staged for the sync-order log (R160). -/
structure LogRec where
  w0 : Word
  w1 : Word
  deriving DecidableEq, Repr

/-- State held for each context: its level, log registers and eviction (R143, R160–R163, R408). -/
structure Ctxt where
  level : Nat
  dom : Nat
  seed : Word
  logbase : Word
  logsize : Word
  loghead : Word
  logtail : Word
  logctl : Word
  epoch : BitVec 32
  counters : SMap Nat          -- object counters: 1,024 × unit + number (R160)
  staging : List (Nat × LogRec) -- deciding unit and record, oldest first (R162)
  stagedAt : SMap Nat          -- by deciding unit: clk when the first record of its 64-byte unit was staged
  replay : List (Nat × LogRec) -- records filed and not yet consumed (R163)
  filed : Nat                  -- records read from the ring in replay
  recording : Nat              -- record-mode launches running
  evicted : Bool
  trigs : List TrigMsg         -- trigger queue (R408)
  chain : List Nat             -- eviction chain
  created : SMap Nat           -- creation numbers by home core (R151)
  deriving DecidableEq, Repr

def Ctxt.empty : Ctxt :=
  { level := 0, dom := 0, seed := 0, logbase := 0, logsize := 0, loghead := 0, logtail := 0, logctl := 0, epoch := 0,
    counters := [], staging := [], stagedAt := [], replay := [], filed := 0, recording := 0, evicted := false,
    trigs := [], chain := [], created := [] }

/-- A launch in progress (R201), with its packet and check-mode progress (R156). -/
structure Launch where
  queue : Nat
  pkt : Nat                    -- packet number k
  ctx : Byte
  slot : Nat                   -- address of the packet
  done : Word                  -- completion handle (+112)
  dropped : Bool
  record : Bool
  check : Nat                  -- 0 none, 1 run A, 2 run B, 3 runs that differ: only notices are awaited (R156, R157, R201)
  ranges : Word                -- range list (+96)
  starts : List StartMsg       -- members, for run B
  unsent : Nat                 -- notices not yet received
  faulted : Nat
  pids : List Nat              -- records started
  digA : List Byte             -- digest of run A
  deriving DecidableEq, Repr

/-- State of a launch queue beside its descriptor registers (R195, R196). -/
structure LaunchQ where
  barrier : Option (List Word) -- a kind 1, 2 or 3 packet that waits, as its words
  waitFor : List (Nat × Nat)   -- launches that it waits for: table entry (256 × tower + index), 2^32 × queue + packet
  deriving DecidableEq, Repr

def LaunchQ.empty : LaunchQ := { barrier := none, waitFor := [] }

/-- A select that waits (R180). -/
structure SelWait where
  pid : Nat
  core : Nat
  unit : Nat
  ctx : Byte
  list : Nat
  rd : Reg
  fair : Bool
  pc : Word
  num : Nat
  deadline : Option Nat
  timed : Nat            -- index of the guarded time-out
  order : List Nat       -- the alternatives in the order of the choice (R146, R180)
  granted : Option Nat := none -- the alternative whose claim has been granted
  alts : List ChanMsg := []    -- alternatives that are not yet registered, while the homes of peers are probed
  asked : List Nat := []       -- peer alternatives whose probe has not come back
  found : List Nat := []       -- peer alternatives that their homes reported ready
  deriving DecidableEq, Repr

/-- What a bundle's C-word leaves for the end of the bundle. -/
inductive Xfer where
  | seq                        -- no control transfer
  | jump (t : Word)            -- a taken transfer
  | again                      -- the bundle is not performed now: its slot stalls
  | gone                       -- a trap or a fault raised at issue: neither word has effect
  | left                       -- performed, and the process has left its slot or ended
  deriving DecidableEq, Repr

/-- A claim in a lane pool's queue (R207, R328, R329). -/
structure Claim where
  pid : Nat
  core : Nat
  slot : Nat
  ctx : Byte
  lo : Nat
  hi : Nat
  rd : Option Reg              -- `none` at a resume
  keep : Nat                   -- units whose lanes are kept
  deriving DecidableEq, Repr

/-- One bench: lane pool, array and clock step. -/
structure Bench where
  claims : List Claim          -- oldest first
  used : Nat                   -- lane units held
  held : Bool                  -- a lease is in force (R373)
  holder : Nat                 -- record address of the holder
  hcore : Nat
  hslot : Nat
  ncmd : Nat
  grants : BitVec 32
  owners : Vector (Option (Nat × Nat × Nat)) 4  -- record, core and slot that own each bank
  fmts : Vector (Word × Word × Word) 8          -- format word, ASCL, BSCL of each core (R369)
  step : Nat                   -- clock plan step (R210)
  deriving DecidableEq, Repr

def Bench.empty : Bench :=
  { claims := [], used := 0, held := false, holder := 0, hcore := 0, hslot := 0, ncmd := 0, grants := 0,
    owners := Vector.replicate 4 none, fmts := Vector.replicate 8 (0, 0, 0), step := 0 }

/-- An engine queue: its commands in order and its frozen mark (R56, R382). -/
structure EngQueue where
  cmds : List EngCmd
  frozen : Bool
  deriving DecidableEq, Repr

def EngQueue.empty : EngQueue := { cmds := [], frozen := false }

/-- A stream of a helper (R315, R316). -/
structure HStream where
  desc : List Word
  left : Nat                   -- items remaining
  idx : Nat                    -- items done
  run : Nat                    -- 0 idle, 1 running, 2 waiting
  part : List Byte             -- bytes of a storer's item taken so far
  deriving DecidableEq, Repr

def HStream.empty : HStream := { desc := [], left := 0, idx := 0, run := 0, part := [] }

/-- A helper core beside its registers: 0 idle, 1 running, 2 stopped by a fault, 3 frozen (R316). -/
structure Helper where
  run : Nat
  streams : Vector HStream 8
  active : Option Nat          -- the stream that `srun` runs
  owed : Option Owed           -- what a resume sends again (R58)
  deriving DecidableEq, Repr

def Helper.empty : Helper := { run := 0, streams := Vector.replicate 8 HStream.empty, active := none, owed := none }

/-- A port fabric unit (R395). -/
structure FabUnit where
  x : Vector (BitVec 512) 16
  store : List W32
  pc : Nat
  cid : Nat
  in0 : List (BitVec 512)
  in1 : List (BitVec 512)
  out0 : List (BitVec 512)
  out1 : List (BitVec 512)
  flags : BitVec 7
  pending : Option (Nat × List W32)  -- communicator and program that wait for the collective in flight (R397)
  waiting : Bool               -- an `xrecv` waits
  deriving DecidableEq, Repr

def FabUnit.empty : FabUnit :=
  { x := Vector.replicate 16 0, store := [], pc := 0, cid := 0, in0 := [], in1 := [], out0 := [], out1 := [],
    flags := 0, pending := none, waiting := false }

/-- A received frame in a port's buffer (R93, R98). -/
structure RxFrame where
  bytes : List Byte
  stamp : BitVec 24
  prio : Nat
  ring : Nat
  rule : Nat
  deriving DecidableEq, Repr

/-- An Ethernet port beside its registers (R93, R100, R293). -/
structure EthPort where
  rx : List RxFrame            -- frames not yet freed, oldest first
  asserted : Byte              -- priorities for which pause is asserted
  held : Byte                  -- priorities whose transmission a PFC frame holds
  heldTo : SMap Nat            -- by priority: clk at which its quanta end
  tx : List (Nat × List Byte)  -- transmit buffers: priority and frame, oldest first
  waiting : List ChanMsg       -- senders that wait for buffer room
  ringWait : List Nat          -- rings that wait for their slot (R98)
  taken : List (Nat × ChanMsg × Nat × Byte) -- ring, receive, slot and version awaited (R99, R294)
  early : List ChanMsg         -- receives on a ring out of service
  deriving DecidableEq, Repr

def EthPort.empty : EthPort :=
  { rx := [], asserted := 0, held := 0, heldTo := [], tx := [], waiting := [], ringWait := [], taken := [], early := [] }

/-- A Zhovin link (R410–R414). -/
structure Link where
  up : Bool
  lseq : BitVec 12             -- next LSEQ to send
  rseq : BitVec 12             -- last LSEQ received intact
  replay : List Flit           -- sent and not acknowledged, oldest first
  tries : Nat                  -- replays of one flit without success
  fails : Nat                  -- retrainings failed in a row
  down : Bool
  deriving DecidableEq, Repr

def Link.empty : Link := { up := false, lseq := 0, rseq := 4095, replay := [], tries := 0, fails := 0, down := false }

/-- Part of a member's block on its way to one destination (R423). -/
structure Piece where
  key : Nat                    -- number, step, sender, destination and chunk index, as `chunkKey` packs them
  target : Nat                 -- rank that it moves to now
  bytes : List Byte
  st : Nat                     -- 0 space asked for, 1 granted, 2 moved
  res : Nat                    -- the resource it moves on: links 0–15, the truss 16
  vc : Nat                     -- the VC that it holds on a link (R423)
  deriving DecidableEq, Repr

/-- A collective whose posts have been compared (R422, R423). -/
structure Coll where
  cid : Nat
  num : Nat
  status : Nat                 -- 0, or 2 when it is aborted (R392)
  step : Nat                   -- exchange steps done
  blocks : List (Nat × List Byte) -- the block that each local member holds now, by rank
  pieces : List Piece          -- of this step
  got : List (Nat × List Byte) -- chunks that have come to local members, by key
  chain : Bool                 -- reductions pass from member to member, through the units of a graph (R395, R427)
  flags : BitVec 7
  deriving DecidableEq, Repr

/-- A chunk buffer of the sill (R423): space reserved for one chunk. -/
structure ChunkBuf where
  cid : Nat
  key : Nat
  link : Nat                   -- the link it arrives on; 16 on the truss
  need : Nat                   -- bytes of the chunk; 0 until its first flit
  bytes : List Byte
  inside : Bool                -- passing through fabric units
  deriving DecidableEq, Repr

/-- An open or retired generation of a truss queue (R394). -/
structure TrussGen where
  q : Nat
  parts : List (Nat × W32)     -- source (1,024 × node + logical core) and value
  popped : List Nat
  result : Option W32
  flags : BitVec 7
  deriving DecidableEq, Repr

/-- What leaves the package (R93, R100, R410, R413, R416–R420, R455). -/
inductive OutMsg where
  | frame (port prio : Nat) (bytes : List Byte)
  | pfc (port prio quanta : Nat)
  | flit (link : Nat) (f : Flit)
  | replayRequest (link : Nat) (lseq : BitVec 12)
  | hostRead (tag : Nat) (addr size : Nat)
  | hostWrite (addr : Nat) (bytes : List Byte)
  | msix (vector : Nat)
  | hostData (x : Word)        -- the answer to a BAR read
  | mgmt (x : Word)            -- the answer to a Block Read
  | nack
  deriving DecidableEq, Repr

/-- What a site and a module supply (R21, R447–R450): the class fixed by the module identity (0 for a bare
package), the verdicts of image verification, and the words of the configuration block. Log entry 4. -/
structure Board where
  cls : Nat
  plan : Word                  -- PARTPLAN of the configuration block
  mynode : Byte
  nodemap : List Word
  ports : BitVec 16            -- Zhovin ports enabled
  avoid : List Word
  ctxtab : Word
  meas0 : List Byte            -- digest of the stage-1 image
  meas1 : List Byte            -- digest of the configuration block
  strap : Nat                  -- address straps of the management port
  deriving DecidableEq, Repr

/-- Boot and package-wide control (R22–R24, R447–R454). -/
structure Boot where
  stage : Nat                  -- 0–4
  fails : Nat                  -- non-volatile failed-start count
  lastStage : Nat
  reason : Nat
  minimal : Bool
  recovery : Bool
  trip : Bool                  -- held in reset by a thermal trip
  powered : Bool
  stopped : Bool               -- stopped under R24
  started : Bool               -- a start is in progress and not yet READY
  broken : Bool                -- an uncorrectable error has arisen in FLUSH, POWER or ENUMERATE (R24)
  plan : Word                  -- the captured plan of a role change
  deriving DecidableEq, Repr

/-- The machine. -/
structure State where
  -- the bundle now performed
  cur : Proc                   -- the process or helper that issues
  ir : Word                    -- the fetched bundle: A-word × 2^32 + C-word (R211)
  pre : Option Pre             -- registers as before the bundle, while its A-word is performed
  xfer : Xfer
  aflags : BitVec 7            -- trap-enabled flags of the A-word beside a `trap` (R319)
  curX : Nat                   -- the fabric unit that executes
  -- processes and cores
  procs : SMap Proc            -- every other process and helper, by record address or helper key
  cores : SMap Core            -- by physical core
  lastCore : Nat               -- the issuer that issued last: 3 × core + (0 slots, 1 loader, 2 storer), or a fabric unit
  barriers : SMap Barrier      -- by 1,024 × physical core + number
  helpers : SMap Helper        -- by 2 × physical core + (0 loader, 1 storer)
  hstore : List Host.Cell      -- instruction stores: 16,384 × helper + offset (R312)
  streams : SMap (List Byte)   -- stream queues: 8 × physical core + stream (R336)
  -- memory
  mem : List Host.Cell         -- SRAM by space 2 address with node 0x00; HBM by physical address
  side : SMap (BitVec 15)      -- sideband of each SRAM word (R61)
  poison : SMap Bool           -- poisoned SRAM words and HBM units (R62, R85)
  badRead : SMap Nat           -- the error that the next read meets, per word or unit (R62, R85): environment
  corrected : SMap Nat         -- corrected errors counted by each bench (R62)
  parity : SMap Nat            -- errors that a unit's registers, queues or accumulators have still to meet (R409): environment
  waiters : List Req           -- waiter tables and chains, in arrival order (R115)
  rels : List RelEntry         -- release-source tables, oldest first (R133)
  widens : List Widening       -- widening lists (R133, R134)
  locks : SMap Nat             -- locked 64-byte units: owner record address (R152, R186)
  -- registers of space 3 and tables behind them
  regs : SMap Word             -- by space 3 address; an unlisted one reads its reset value
  descs : SMap (Option Desc)   -- cached context descriptors (R39)
  tlb : List (Nat × Tlb)       -- translation caches: unit (bench 0–127, sills 128 and 129) and entry (R49)
  upper : List Upper           -- top and middle entries that the dies cache, newest first (R50)
  walks : List Walk            -- walks in flight (R50)
  walkQ : List Req             -- misses that wait for a walk slot of their die, in arrival order (R50)
  walkWait : List Req          -- accesses that look their translation up again when a walk ends (R50, R126)
  -- benches and engines
  benches : SMap Bench         -- by 64 × tower + 16 × layer + bench
  acc : SMap W32               -- accumulators: 2^18 × bench + 2^16 × bank + 256 × row + column
  matq : SMap (List MatItem)   -- matrix queues by physical core
  engines : SMap EngQueue      -- engine queues: 2 × physical core + (0 copy, 1 distributor)
  -- homes
  chanq : List ChanMsg         -- waiting senders and receivers, in arrival order (R173, R174)
  selq : List SelWait          -- selects that wait (R180)
  epHeld : List (ChanMsg × List Byte × Word) -- receives held for a drain query (R175)
  elems : List ElemInfo        -- what the home keeps with each buffered element (R136)
  tiles : List TileMsg         -- transfers in progress (R176)
  -- contexts and launches
  ctxs : SMap Ctxt
  launches : SMap (Option Launch) -- 256 × tower + entry
  lqs : SMap LaunchQ
  lastQ : List Nat             -- queue last served by each launch unit
  commitAt : SMap Nat          -- commit list: one above the last key served, per domain (R151)
  turns : SMap (Nat × Nat)     -- the turn in service of a domain: record, and 1 once its chunk has committed (R152)
  commits : List (Nat × Nat × List Nat) -- domain, clk and units written by committed chunks (R152)
  -- memory servers, ports, links, host, collectives
  msStore : List MsMsg         -- requests that the servers have accepted, in order
  eth : SMap EthPort           -- 2 × tower + port
  links : SMap Link
  eseqTx : SMap Nat            -- 8 × node + VC: next ESEQ
  eseqRx : SMap Nat            -- 8 × node + VC: the next ESEQ to deliver
  heldFlits : List Flit        -- flits with no UP link (R414)
  resent : List Flit           -- flits of a DOWN link sent again and not acknowledged (R413, R414)
  reorder : List Flit          -- flits received ahead of an earlier ESEQ (R412)
  tileIn : List (Nat × Nat × Option (Bool × List Byte)) -- beats asked of peers: operation, offset, and whether it was performed
  peers : List (Nat × Req)     -- peer requests in flight, by tag
  peerOps : List (Nat × ChanMsg) -- channel operations at a peer, by number
  peerCalls : List SpawnMsg    -- `callat` operations at a peer
  frozenNodes : List Nat       -- peer ingress frozen (R56)
  refusals : List (Nat × FaultInfo) -- faults owed by a frozen master's access
  hostReads : List (Nat × Req) -- outstanding reads of space 1 (R420)
  hostGot : List (Req × List Byte) -- host bytes that a unit waits for and that have come (R420)
  msix : SMap Word             -- MSI-X table words, flipped at bit 32 of a vector's second word; 128 = pending bits (R417)
  posts : List Post            -- local posts not complete (R422)
  anns : List (Option Nat × AnnMsg) -- announcements received, with the entry that holds one in the pool (R426)
  postNum : SMap Nat           -- 2^20 × rank + CID: posts so far
  colls : List Coll
  chunkBufs : List ChunkBuf    -- R423
  lastCid : SMap Nat           -- last CID served on a resource (R424)
  truss : List TrussGen
  fabric : SMap FabUnit
  -- package
  roles : SMap Nat             -- role in force by 4 × tower + layer (R16)
  dropped : SMap Bool          -- benches darkened at a partition (R409)
  temps : SMap Nat             -- last temperature of each core (R209)
  thermAt : Option Nat         -- clock of the last thermal step (R209)
  pwrStep : Nat                -- clock step that the power cap asks for, or 4 in minimal mode (R449, R454)
  watts : Nat                  -- package power, 1 ms average (R454)
  boot : Boot
  board : Board
  -- the model's own fields (DESIGN CHOICE, log entry 1)
  agenda : List Ev             -- steps in flight, oldest first
  blocked : List Ev            -- steps that wait for another step
  timers : List (Nat × Ev)     -- steps that a clock makes due
  sched : List Nat             -- choices still to be made; none left means the first candidate
  clk : Nat
  accs : Nat                   -- accesses and commands numbered so far
  fresh : Nat                  -- free values used so far (DESIGN CHOICE, log entry 7)
  cause : Option Nat           -- the process for which the step in hand is performed; 0 = none; `none` = not named (R151)
  quiet : Bool                 -- the detector has reported since a line last fell (R190)
  out : List OutMsg            -- what left the package, newest first
  deriving DecidableEq, Repr

/-- Why a step stops. The L9 reports every error as a trap, a fault record or a status, all of which are next
states; no step of this model ends in a `Fault`. -/
inductive Fault where
  /-- Raised by nothing: held for an access to an address that the manual says does not exist and for which it
  names no cause; there is none. Safe. -/
  | noSuchAddress
  deriving DecidableEq, Repr

/-- Why an instruction has no meaning here. -/
inductive Refusal where
  /-- Raised by an arm of `exec` that has no meaning yet; names the instruction. Safe. -/
  | notModelled (mnemonic : String)
  deriving DecidableEq, Repr

/-- The board that the model assumes: a bare package, an empty configuration block with the standard Class A
plan C, C, S, S of R21 (DESIGN CHOICE, log entry 4). -/
def Board.assumed : Board :=
  { cls := 0, plan := 0x15A5A, mynode := 0, nodemap := [0, 0, 0, 0], ports := 0, avoid := [], ctxtab := 0,
    meas0 := List.replicate 48 0, meas1 := List.replicate 48 0, strap := 0 }

/-- The machine right after power-on (R447): stage 0 is entered, the failed-start count stands at 1, no layer is
powered and nothing is listed in memory. What is not named by a rule is zero or empty (DESIGN CHOICE, log entries 1 to 5). -/
def State.reset : State :=
  { cur := Proc.empty, ir := 0, pre := none, xfer := .seq, aflags := 0, curX := 0, procs := [], cores := [], lastCore := 4095,
    barriers := [], helpers := [], hstore := [], streams := [], mem := [], side := [], poison := [], badRead := [], corrected := [], parity := [],
    waiters := [], rels := [], widens := [], locks := [], regs := [], descs := [], tlb := [],
    upper := [], walks := [], walkQ := [], walkWait := [], benches := [], acc := [], matq := [], engines := [], chanq := [], selq := [],
    epHeld := [], elems := [], tiles := [], ctxs := [], launches := [], lqs := [], lastQ := [63, 63],
    commitAt := [], turns := [], commits := [], msStore := [], eth := [], links := [], eseqTx := [], eseqRx := [], heldFlits := [], resent := [], reorder := [], tileIn := [],
    peers := [], peerOps := [], peerCalls := [], frozenNodes := [], refusals := [], hostReads := [], hostGot := [], msix := [], posts := [], anns := [], postNum := [],
    colls := [], chunkBufs := [], lastCid := [], truss := [], fabric := [], roles := [], dropped := [], temps := [], thermAt := none,
    pwrStep := 0, watts := 0,
    boot := { stage := 0, fails := 1, lastStage := 0, reason := 0, minimal := false, recovery := false, trip := false,
              powered := true, stopped := false, started := true, broken := false, plan := 0 },
    board := Board.assumed, agenda := [.bootStage .ok], blocked := [], timers := [(100000 * Config.cyclesPerUs, .bootWatchdog)], sched := [], clk := 0, accs := 0,
    fresh := 0, cause := none, quiet := false, out := [] }

end Sys2Proof.Machine
end

