-- ==== Sys2Proof/Machine/Regs.lean ====
section
/-! DEFINITION. The register blocks of space 3 (spec/02 R37): where each register stands, which of its bits a
write sets and which it clears, and its reset value. Registers whose writes do more are named in System.lean. -/

namespace Sys2Proof.Machine

/-- The address of offset `off` of a block (R37). -/
def blockAddr (tower block off : Nat) : Nat := 0x0060000000000000 + tower * 2 ^ 47 + block * 2 ^ 40 + off

def regTower (a : Nat) : Nat := a / 2 ^ 47 % 2
def regBlock (a : Nat) : Nat := a / 2 ^ 40 % 128
def regOff (a : Nat) : Nat := a % 2 ^ 40

/-- The register page of a physical core (R37): block 0x40 + 16 × layer + bench, offset core × 0x1000. -/
def corePage (p : Nat) : Nat := blockAddr (p / 512) (0x40 + 16 * (p / 128 % 4) + p / 8 % 16) (p % 8 * 0x1000)

/-- The engine registers of a bench (64 × tower + 16 × layer + bench). -/
def benchPage (b : Nat) : Nat := blockAddr (b / 64) (0x40 + b % 64) 0

/-- Writable bits, bits cleared by writing one, reset value. -/
structure RegSpec where
  rw : Nat
  w1c : Nat
  reset : Nat
  deriving DecidableEq, Repr

/-- A mask of bits [hi:lo]. -/
def mask (hi lo : Nat) : Nat := (2 ^ (hi + 1 - lo) - 1) * 2 ^ lo

/-- Block 0x00 (R19, R191, R192, R209, R404, R408, R409, R421, R450–R454). -/
def regSpecMgmt (o : Nat) : RegSpec :=
  if o = 0x000 then ⟨mask 17 0, 0, 0⟩
  else if o = 0x008 then ⟨mask 31 8, 0, 0x271000⟩
  else if o = 0x100 then ⟨1, mask 63 32 + 2, 1⟩
  else if o = 0x108 then ⟨mask 63 0, 0, 0⟩
  else if o = 0x110 then ⟨mask 15 0, 0, 0⟩
  else if o = 0x180 then
    ⟨mask 47 16 + mask 2 0, 0, 0x690 * 2 ^ 36 + 0x5F0 * 2 ^ 24 + 0x0A * 2 ^ 16 + 6⟩
  else if o = 0x200 then ⟨mask 15 8, 0, 0⟩
  else if o = 0x208 then ⟨0, 1, 0⟩
  else if o = 0x300 then ⟨0, mask 63 0, 0⟩
  else if o = 0x320 then ⟨mask 31 0, 0, 0⟩
  else if 0x4A0 ≤ o ∧ o < 0x4D0 then ⟨mask 63 0, 0, 0⟩
  else if o = 0x4D0 then ⟨0, 4, 0⟩
  else if 0x600 ≤ o ∧ o < 0x700 then ⟨2 ^ 63 + mask 47 0, 0, 0⟩
  else if o = 0x700 then ⟨mask 15 0, 0, 0⟩
  else if 0x1000 ≤ o ∧ o < 0x1800 then
    (if o % 32 = 0 then ⟨mask 63 0, 0, 0⟩
     else if o % 32 = 8 then ⟨2 ^ 63 + mask 55 48 + mask 36 32, 0, 0⟩
     else if o % 32 = 24 then ⟨0, mask 7 0, 0⟩
     else ⟨0, 0, 0⟩)
  else ⟨0, 0, 0⟩

/-- Block 0x01 (R40, R53, R57). -/
def regSpecProt (o : Nat) : RegSpec :=
  if o = 0x000 then ⟨mask 7 0, 0, 0⟩
  else if o = 0x008 then ⟨mask 47 14, 0, 0⟩
  else if 0x010 ≤ o ∧ o < 0x030 then ⟨mask 63 0, 0, 0⟩
  else if o = 0x040 then ⟨0, 2 ^ 16, 0⟩
  else if 0x1000 ≤ o ∧ o < 0x2000 then (if o % 16 = 0 then ⟨mask 63 33, 0, 0⟩ else ⟨0, mask 31 0, 0⟩)
  else ⟨0, 0, 0⟩

/-- An Ethernet port's registers and rings (R95, R96). -/
def regSpecEth (o : Nat) : RegSpec :=
  let o := o % 0x10000
  if o = 0x0000 then ⟨mask 23 20 + mask 18 18 + mask 15 8 + mask 5 0, 2 ^ 19, 0⟩
  else if o = 0x0008 then ⟨0, mask 63 0, 0⟩
  else if 0x0100 ≤ o ∧ o < 0x0180 then
    (if o % 16 = 0 then ⟨mask 47 0, 0, 0x0200 * 2 ^ 32 + 0x0180 * 2 ^ 16 + 0x0100⟩ else ⟨0, mask 63 0, 0⟩)
  else if 0x1000 ≤ o ∧ o < 0x1400 then
    (if o % 16 = 0 then ⟨mask 63 8 + mask 5 0, 0, 0⟩ else ⟨mask 15 0, 0, 0⟩)
  else if 0x2000 ≤ o ∧ o < 0x2800 then
    (if o % 32 < 16 then ⟨mask 63 0, 0, 0⟩
     else if o % 32 = 16 then ⟨2 ^ 63 + mask 47 40 + mask 28 24 + mask 19 8, 2 ^ 62, 0⟩
     else ⟨0, 0, 0⟩)
  else ⟨0, 0, 0⟩

/-- Block 0x12 (R419). -/
def regSpecHost (o : Nat) : RegSpec :=
  if o = 0x000 then ⟨mask 39 32, mask 31 0, 0⟩
  else if 0x100 ≤ o ∧ o < 0x180 then ⟨2 ^ 63 + mask 47 21, 0, 0⟩
  else ⟨0, 0, 0⟩

/-- Block 0x20 (R393, R426). -/
def regSpecColl (o : Nat) : RegSpec :=
  if o = 0x000 then ⟨mask 63 0, 0, 0⟩
  else if o = 0x008 then ⟨mask 20 0, 0, 0⟩
  else if o = 0x010 then ⟨0, mask 63 0, 0⟩
  else if 0x1000 ≤ o ∧ o < 0x1200 then ⟨2 ^ 63 + mask 55 48 + mask 41 32 + mask 15 12 + mask 3 0, 0, 0⟩
  else ⟨0, 0, 0⟩

/-- A core's register page (R74, R166, R405). -/
def regSpecCore (o : Nat) : RegSpec :=
  if o = 0x900 then ⟨mask 20 0, 0, 0x1FFFC0⟩
  else if o = 0x908 then ⟨mask 7 0, 0, 0x40⟩
  else if o = 0x918 then ⟨0, 3, 0⟩
  else if o = 0xA08 then ⟨mask 63 0, 0, 0⟩
  else if o = 0xA10 then ⟨0, 1, 0⟩
  else ⟨0, 0, 0⟩

/-- The specification of the register at a space 3 address; an offset that no rule names reads 0 and ignores
writes, as a reserved field does (R5). DEDUCED, log entry 44. -/
def regSpec (a : Nat) : RegSpec :=
  let o := regOff a
  let b := regBlock a
  if b = 0x00 then regSpecMgmt o
  else if b = 0x01 then regSpecProt o
  else if 0x08 ≤ b ∧ b ≤ 0x0D then ⟨0, if o = 0 then mask 63 0 else 0, 0⟩
  else if b = 0x10 then regSpecEth o
  else if b = 0x11 then
    (if o % 0x100 = 0 ∧ o < 0x800 then ⟨2, mask 63 8, 0⟩
     else if 0x4000 ≤ o ∧ o < 0x4800 then ⟨mask 15 0, 0, 0⟩
     else ⟨0, 0, 0⟩)
  else if b = 0x12 then regSpecHost o
  else if b = 0x20 then regSpecColl o
  else if 0x40 ≤ b then (if o < 0x8000 then regSpecCore (o % 0x1000) else ⟨0, 0, 0⟩)
  else ⟨0, 0, 0⟩

/-- A register's reset value (R5 and the tables above). DEDUCED, log entry 44. -/
def regReset (a : Nat) : Word := BitVec.ofNat 64 (regSpec a).reset

/-- The stored word of a register. -/
def State.reg (s : State) (a : Nat) : Word := SMap.get (regReset a) s.regs a

/-- The stored word of a register, set by the hardware. -/
def State.setReg (s : State) (a : Nat) (x : Word) : State :=
  { s with regs := SMap.put (regReset a) s.regs a x }

/-- What a write of `x` leaves of the word `old`: RW bits are written, W1C bits written as 1 are cleared (R318). -/
def regWritten (sp : RegSpec) (old x : Word) : Word :=
  let rw : Word := BitVec.ofNat 64 sp.rw
  let w1c : Word := BitVec.ofNat 64 sp.w1c
  ((old &&& ~~~rw) ||| (x &&& rw)) &&& ~~~(x &&& w1c)

/-- A field of a register, added to with saturation at its width. -/
def State.bumpReg (s : State) (a lo n : Nat) : State :=
  let x := s.reg a
  s.setReg a (setField x lo n (satAdd (field x lo n) 1 (2 ^ n - 1)))

/-- A field of a register, advanced modulo its width. -/
def State.stepReg (s : State) (a lo n : Nat) : State :=
  let x := s.reg a
  s.setReg a (setField x lo n (field x lo n + 1))

/-- Set one bit of a register. -/
def State.setRegBit (s : State) (a i : Nat) : State := s.setReg a (s.reg a ||| BitVec.ofNat 64 (2 ^ i))

/-- Names of registers used by the hardware. -/
def regPartplan : Nat := blockAddr 0 0 0x000
def regPartctl : Nat := blockAddr 0 0 0x008
def regPartstat : Nat := blockAddr 0 0 0x010
def regMynode : Nat := blockAddr 0 1 0x000
def regCtxtab : Nat := blockAddr 0 1 0x008
def regFrozen : Nat := blockAddr 0 1 0x040
def regFlost : Nat := blockAddr 0 0 0x318
def regBootcause : Nat := blockAddr 0 0 0x400
def regHdrop : Nat := blockAddr 0 0x12 0x000

/-- MYNODE and NCORES (R40, R19). -/
def State.mynode (s : State) : Nat := field (s.reg regMynode) 0 8
def State.ncores (s : State) : Nat := field (s.reg regPartstat) 16 11

/-- The phase of a role change (R19). -/
def State.phase (s : State) : Nat := field (s.reg regPartstat) 0 4

/-- Ingress and host requests are held: from FLUSH to the end of ENUMERATE, and in the stopped state (R23, R24, R26). -/
def State.ingressHeld (s : State) : Bool := decide (3 ≤ s.phase) || s.boot.stopped

end Sys2Proof.Machine
end

