-- ==== Sys2Proof/Machine/Ops.lean ====
section
/-! DEFINITION. The named operations over the state: coordinates and scopes, processes and their registers,
records in memory, steps in flight, taking a trap or a fault and returning from a trap, the checks of R38, and
sending an access to its owner. -/

namespace Sys2Proof.Machine

/-- The outcome of an instruction or step. -/
abbrev Out := Host.Outcome State Fault Refusal

/-! ### Coordinates and scopes (R127, R128) -/

/-- Coordinate of a physical core: tower, layer, bench, core. -/
def coordOfCore (p : Nat) : List Nat := [p / 512, p / 128 % 4, p / 8 % 16, p % 8]

/-- Fields of a space 2 address (R35). -/
def sramTower (a : Nat) : Nat := a / 2 ^ 47 % 2
def sramLayer (a : Nat) : Nat := a / 2 ^ 44 % 8
def sramBench (a : Nat) : Nat := a / 2 ^ 40 % 16
def sramLid (a : Nat) : Bool := a / 2 ^ 39 % 2 = 1
def sramSlice (a : Nat) : Nat := a / 2 ^ 36 % 8
def sramOff (a : Nat) : Nat := a % 2 ^ 21

/-- The space 2 address of an offset of a core's own slice (R36). -/
def sliceAddr (p off : Nat) : Nat :=
  2 * 2 ^ 53 + p / 512 * 2 ^ 47 + p / 128 % 4 * 2 ^ 44 + p / 8 % 16 * 2 ^ 40 + p % 8 * 2 ^ 36 + off

/-- The physical core of the slice that holds a space 2 address. -/
def coreOfSlice (a : Nat) : Nat := sramTower a * 512 + sramLayer a * 128 + sramBench a * 8 + sramSlice a

/-! ### Placement of a physical HBM address (R81) -/

/-- The stack k that holds it. -/
def stackOf (pa : Nat) : Nat := pa / 2048 % 12

/-- Its stack-local address s. -/
def stackLocal (pa : Nat) : Nat := pa / 2048 / 12 * 2048 + pa % 2048

/-- Its request queue q. -/
def hbmQueue (pa : Nat) : Nat := stackLocal pa / 2 ^ 11 % 2 ^ 8

/-- Its stack ID sid. -/
def hbmSid (pa : Nat) : Nat := hbmQueue pa / 2 ^ 6

/-- Its pseudo-channel pch. -/
def hbmPch (pa : Nat) : Nat := hbmQueue pa % 2 ^ 6

/-- The register block of a stack's memory server (R37, R86). -/
def serverBlock (k : Nat) : Nat := blockAddr (k / 6) (0x08 + k % 6) 0

/-- Coordinate of the owner of a word (R127). -/
def ownerCoord (space key : Nat) : List Nat :=
  match space with
  | 2 => if sramLid key || sramLayer key == 4 then [sramTower key, sramLayer key, sramBench key]
         else [sramTower key, sramLayer key, sramBench key, sramSlice key]
  | 0 => [stackOf key / 6]
  | 3 =>
    let b := regBlock key
    if 0x40 ≤ b then [regTower key, (b - 0x40) / 16, b % 16, regOff key / 0x1000 % 8] else [regTower key]
  | _ => [0]

/-- The controller of a space 2 word: its part's base address (R63). -/
def partOf (key : Nat) : Nat := key / 2 ^ 36

/-- ScopeCovers(s, x, y) (R128). -/
def scopeCovers (sc : Nat) (x y : List Nat) : Bool :=
  if sc ≥ 6 then true
  else if sc = 5 then (x.headD 0 < 256 && y.headD 0 < 256)
  else
    let n := 5 - sc
    if x.length ≥ n && y.length ≥ n then x.take n == y.take n else x == y

/-- Narrowest(x, o), searched from scope `k` upward (R128). -/
def narrowestFrom (x o : List Nat) (k n : Nat) : Nat :=
  match n with
  | 0 => 6
  | j + 1 => if scopeCovers k x o then k else narrowestFrom x o (k + 1) j

def narrowest (x o : List Nat) : Nat := narrowestFrom x o 1 5

/-- EffScope (R129) for a word of this package at owner coordinate `o`. -/
def effScope (ord : MemOrder) (sc : Nat) (issuer : List Nat) (space : Nat) (o : List Nat) : Nat :=
  if ord = .rlx then 0 else if space = 2 then max sc (narrowest issuer o) else 6

/-! ### Processes, cores and contexts -/

def State.proc (s : State) (pid : Nat) : Proc := if pid = s.cur.pid then s.cur else SMap.get Proc.empty s.procs pid

def State.setProc (s : State) (p : Proc) : State :=
  if p.pid = s.cur.pid then { s with cur := p } else { s with procs := SMap.put Proc.empty s.procs p.pid p }

def State.updProc (s : State) (pid : Nat) (f : Proc → Proc) : State := s.setProc { f (s.proc pid) with pid := pid }

/-- Change the process or helper that issues. -/
def State.updCur (s : State) (f : Proc → Proc) : State := { s with cur := f s.cur }

/-- Make `pid` the process that issues. -/
def State.select (s : State) (pid : Nat) : State :=
  if pid = s.cur.pid then s
  else
    { s with cur := SMap.get Proc.empty s.procs pid,
             procs := SMap.put Proc.empty (SMap.put Proc.empty s.procs s.cur.pid s.cur) pid Proc.empty }

/-- Every process and helper, the issuing one first. -/
def State.allProcs (s : State) : List Proc := s.cur :: s.procs.map (·.2)

/-- A helper's key. -/
def helperKey (h : Nat) : Nat := 2 ^ 64 + h

def State.core (s : State) (p : Nat) : Core := SMap.get Core.empty s.cores p
def State.setCore (s : State) (p : Nat) (c : Core) : State := { s with cores := SMap.put Core.empty s.cores p c }
def State.updCore (s : State) (p : Nat) (f : Core → Core) : State := s.setCore p (f (s.core p))

def State.bench (s : State) (b : Nat) : Bench := SMap.get Bench.empty s.benches b
def State.updBench (s : State) (b : Nat) (f : Bench → Bench) : State :=
  { s with benches := SMap.put Bench.empty s.benches b (f (s.bench b)) }

def State.ctx (s : State) (c : Byte) : Ctxt := SMap.get Ctxt.empty s.ctxs c.toNat
def State.updCtx (s : State) (c : Byte) (f : Ctxt → Ctxt) : State :=
  { s with ctxs := SMap.put Ctxt.empty s.ctxs c.toNat (f (s.ctx c)) }

/-- The agent that a process or helper is (R56). -/
def Proc.agent (p : Proc) : Agent := if p.pid ≥ 2 ^ 64 then .helper (p.pid - 2 ^ 64) else .proc p.pid

def Proc.isHelper (p : Proc) : Bool := decide (p.pid ≥ 2 ^ 64)

/-- Resident in a slot (R168). -/
def Proc.resident (p : Proc) : Bool := decide (p.unit < 8)

end Sys2Proof.Machine

namespace Sys2Proof

open Sys2Proof.Machine

/-- The key of the process or helper that an agent names. -/
def Agent.pid (a : Agent) : Nat :=
  match a with
  | .proc n => n
  | .helper h => helperKey h
  | _ => 0

end Sys2Proof

namespace Sys2Proof.Machine

/-- CLK of a core (R323). -/
def State.clkOf (s : State) (p : Nat) : Nat := s.clk - (s.core p).clk0

/-! ### General registers (R9, R213) -/

/-- g r of a process; g0 reads zero (R9). -/
def Proc.rg (p : Proc) (r : Reg) : Word := if r = 0 then 0 else p.g[r.toNat]'r.isLt

/-- A process with g r := x; a write to g0 is ignored (R9, R230 SetG). -/
def Proc.setG (p : Proc) (r : Reg) (x : Word) : Proc :=
  if r = 0 then p else { p with g := p.g.set r.toNat x r.isLt }

/-- g r as a bundle's word reads it: as it stood before the bundle (R213). -/
def State.g (s : State) (r : Reg) : Word :=
  match s.pre with
  | none => s.cur.rg r
  | some p => if r = 0 then 0 else p.g[r.toNat]'r.isLt

/-- Write a register of the issuing process. -/
def State.setG (s : State) (r : Reg) (x : Word) : State := { s with cur := s.cur.setG r x }

/-- FCR as the instruction captures it (R213, R237). -/
def State.fcr (s : State) : Word :=
  match s.pre with
  | none => s.cur.fcr
  | some p => p.fcr

/-- What the words of a bundle read, as it stands now (R213). -/
def State.keep (s : State) : Pre := { g := s.cur.g, fcr := s.cur.fcr, vgrant := s.cur.vgrant, rs := s.cur.rs }

/-- RS as the instruction draws from it (R213, R243). -/
def State.rsRead (s : State) : Word :=
  match s.pre with
  | none => s.cur.rs
  | some p => p.rs

/-- VGRANT.UNITS as it stood before the bundle (R326). -/
def State.units (s : State) : Nat :=
  match s.pre with
  | none => field s.cur.vgrant 0 5
  | some p => field p.vgrant 0 5

/-- OR flags into FSR (R238). -/
def Proc.orFsr (p : Proc) (f : Flags) : Proc := { p with fsr := p.fsr ||| f.setWidth 64 }

/-- Mark a register pending (R214); g0 never is. -/
def Proc.setPend (p : Proc) (r : Reg) : Proc :=
  if r = 0 then p else { p with pend := p.pend ||| (1#32 <<< r.toNat) }

def Proc.clearPend (p : Proc) (r : Reg) : Proc := { p with pend := p.pend &&& ~~~(1#32 <<< r.toNat) }

def Proc.isPend (p : Proc) (r : Reg) : Bool := r != 0 && p.pend.getLsbD r.toNat

/-- A result that arrives after issue: the register is written and no longer pending (R214). It does not belong to the
speculative part of a chunk, whose checkpoint takes it too (R150). -/
def Proc.deliver (p : Proc) (w : Reg × Word) : Proc :=
  let p : Proc :=
    { p with chunk := p.chunk.map fun (c : Chunk) => { c with g := if w.1 = 0 then c.g else c.g.set w.1.toNat w.2 } }
  (p.setG w.1 w.2).clearPend w.1

/-- One counter of R287. -/
def Counters.get (c : Counters) (k : CntClass) : BitVec 16 :=
  match k with
  | .none => 0 | .loads => c.loads | .stores => c.stores | .copies => c.copies | .matrix => c.matrix
  | .transfers => c.transfers

def Counters.set (c : Counters) (k : CntClass) (n : BitVec 16) : Counters :=
  match k with
  | .none => c
  | .loads => { c with loads := n } | .stores => { c with stores := n } | .copies => { c with copies := n }
  | .matrix => { c with matrix := n } | .transfers => { c with transfers := n }

def Counters.up (c : Counters) (k : CntClass) : Counters := c.set k (c.get k + 1)
def Counters.down (c : Counters) (k : CntClass) : Counters := if c.get k = 0 then c else c.set k (c.get k - 1)
def Counters.full (c : Counters) (k : CntClass) : Bool := c.get k == 0xFFFF

/-! ### Steps in flight -/

/-- A step joins the agenda. -/
def State.push (s : State) (e : Ev) : State := { s with agenda := s.agenda ++ [e] }

/-- Several steps in order. -/
def State.pushAll (s : State) (es : List Ev) : State := { s with agenda := s.agenda ++ es }

/-- A step that cannot be performed yet waits for another step. -/
def State.later (s : State) (e : Ev) : State := { s with blocked := s.blocked ++ [e] }

/-- A step that becomes due at a cycle count. -/
def State.after (s : State) (cycles : Nat) (e : Ev) : State := { s with timers := s.timers ++ [(s.clk + cycles, e)] }

/-! ### Flits for other packages (R410–R414) -/

def State.link (s : State) (l : Nat) : Link := SMap.get Link.empty s.links l
def State.setLink (s : State) (l : Nat) (x : Link) : State := { s with links := SMap.put Link.empty s.links l x }

/-- The lowest-numbered link of the node's route mask that is UP (R414). -/
def State.routeTo (s : State) (node : Nat) : Option Nat :=
  let w := SMap.get (0 : Word) s.regs (blockAddr 0 0x11 (0x4000 + 8 * node))
  (List.range 16).find? fun l => w.getLsbD l && (s.link l).up

/-- A flit goes out on a link: it takes the link's next LSEQ and stays in the replay buffer (R410, R413). DESIGN CHOICE, log entry 78. -/
def State.emit (s : State) (l : Nat) (f : Flit) : State :=
  let x := s.link l
  let f := { f with lseq := x.lseq, ack := x.rseq }
  { (s.setLink l { x with lseq := x.lseq + 1, replay := x.replay ++ [f] }) with out := .flit l f :: s.out }

/-- A flit for another package takes its ESEQ and goes out on its route, or is held while no link of it is up
or flits of a DOWN link are being sent again (R410, R412–R414). -/
def State.sendFlit (s : State) (node : Nat) (ctx : Byte) (vc : Nat) (b : Payload) : State :=
  let k := 8 * node + vc
  let n := SMap.get 0 s.eseqTx k
  let s := { s with eseqTx := SMap.put 0 s.eseqTx k ((n + 1) % 2 ^ 16) }
  let f : Flit := { dnode := node, snode := field (SMap.get 0 s.regs regMynode) 0 8, sctx := ctx, vc := vc,
                    eseq := BitVec.ofNat 16 n, lseq := 0, ack := 0, crcOk := true, body := b }
  match s.routeTo node with
  | some l =>
    if (s.heldFlits.any fun g => decide (g.dnode = node)) || (decide (vc < 4) && s.resent.any fun g => decide (g.dnode = node)) then
      { s with heldFlits := s.heldFlits ++ [f] }
    else s.emit l f
  | none => { s with heldFlits := s.heldFlits ++ [f] }

/-- The next free value that the manual leaves open (DESIGN CHOICE, log entry 7). -/
def State.freeWord (s : State) : Word × State := (Config.freeWord s.fresh, { s with fresh := s.fresh + 1 })

/-- A number for an access or a command. -/
def State.number (s : State) : Nat × State := (s.accs + 1, { s with accs := s.accs + 1 })

/-! ### Memory words of the device's own bookkeeping (R110): data only, the sideband stays -/

def State.peek (s : State) (a : Nat) : Word := readWord s.mem a
def State.poke (s : State) (a : Nat) (x : Word) : State := { s with mem := writeWord s.mem a x }
def State.pokeBytes (s : State) (a : Nat) (bs : List Byte) : State := { s with mem := putBytes s.mem a bs }

/-- The STATE byte of a record (R165). -/
def State.setRecState (s : State) (pid : Nat) (st : RecState) : State :=
  { s with mem := putByte s.mem (pid + 15) (BitVec.ofNat 8 st.code) }

/-- The WAIT word of a record (R165). -/
def State.setRecWait (s : State) (pid obj : Nat) : State := s.poke (pid + 56) (BitVec.ofNat 64 obj)

/-- A process changes its record's state, in its context and in memory (R168). -/
def State.setState (s : State) (pid : Nat) (st : RecState) : State :=
  (s.updProc pid fun p => { p with st := st }).setRecState pid st

/-! ### Error checking of memory (R62, R85, R409) -/

/-- An SRAM word's address, or an HBM unit's: what one error spoils. -/
def poisonKey (pa : Nat) : Nat := if pa ≥ 2 ^ 54 then pa / 8 * 8 else pa / 64 * 64

def State.isPoison (s : State) (pa : Nat) : Bool := SMap.get false s.poison (poisonKey pa)
def State.setPoison (s : State) (pa : Nat) (b : Bool) : State :=
  { s with poison := SMap.put false s.poison (poisonKey pa) b }

/-- The errors that reads of a word or unit have still to meet. -/
def State.errorsAt (s : State) (pa : Nat) : Nat := SMap.get 0 s.badRead (poisonKey pa)
def State.setErrors (s : State) (pa n : Nat) : State := { s with badRead := SMap.put 0 s.badRead (poisonKey pa) n }

/-- SRAM_ECC or HBM_ECC (R62, R85). DEDUCED, log entry 46. -/
def eccCause (pa : Nat) : Nat := if pa ≥ 2 ^ 54 then 0x046 else 0x047

/-- The index of the bench whose slices, lid or cap hold an SRAM word, as DARKPEND numbers them (R409). -/
def benchOfWord (pa : Nat) : Nat := 16 * (4 * sramTower pa + min (sramLayer pa) 3) + sramBench pa

/-- The page of a newly poisoned unit joins the server's bad-page list once, while 64 entries last (R85). DEDUCED, log entry 67. -/
def State.addBadPage (s : State) (pa : Nat) : State :=
  let blk := serverBlock (stackOf pa)
  let n := field (s.reg (blk + 8)) 0 7
  let pg := pa / 2 ^ 16
  if n ≥ 64 || (List.range n).any (fun i => (s.reg (blk + 0x800 + 8 * i)).toNat = pg) then s
  else (s.setReg (blk + 0x800 + 8 * n) (BitVec.ofNat 64 pg)).setReg (blk + 8) (BitVec.ofNat 64 (n + 1))

/-- A single-bit error is corrected and counted: in the bench's counter (R62), or in MSTAT.CE of the stack (R85). -/
def State.countCorrected (s : State) (pa : Nat) : State :=
  if pa ≥ 2 ^ 54 then
    { s with corrected := SMap.put 0 s.corrected (benchOfWord pa) (SMap.get 0 s.corrected (benchOfWord pa) + 1) }
  else s.bumpReg (serverBlock (stackOf pa)) 0 32

/-- An error that the retry clears is counted as transient (R62, R85, R409). -/
def State.countTransient (s : State) (pa : Nat) : State :=
  let s := s.bumpReg (blockAddr 0 0 0x300) 0 32
  if pa ≥ 2 ^ 54 then s else s.bumpReg (serverBlock (stackOf pa)) 32 32

/-- A lasting error is counted; in FLUSH, POWER or ENUMERATE it stops the role change (R24, R409). -/
def State.countFailed (s : State) : State :=
  let s := s.bumpReg (blockAddr 0 0 0x300) 32 32
  if s.phase ≥ 3 then { s with boot := { s.boot with broken := true } }.push .roleChangeStop else s

/-- The bench stands marked for the next partition (R409). -/
def State.markDark (s : State) (i : Nat) : State := s.setRegBit (blockAddr 0 0 (if i < 64 then 0x308 else 0x310)) (i % 64)

/-- A lasting error poisons the word or unit; SRAM marks its bench for the next partition, HBM records the page
(R62, R85, R409). -/
def State.countLasting (s : State) (pa : Nat) : State :=
  let s := (s.setPoison pa true).countFailed
  if pa ≥ 2 ^ 54 then s.markDark (benchOfWord pa) else s.addBadPage pa

/-- A read of a word meets the error that the environment left there: 1 is a single-bit error, 2 one that its retry
clears, and from 3 on the retry fails too (R62, R85, R409). The result says whether the word can be read. DEDUCED, log
entry 46. -/
def State.readGuard (s : State) (pa : Nat) : Bool × State :=
  if s.isPoison pa then (false, s)
  else
    match s.errorsAt pa with
    | 0 => (true, s)
    | 1 => (true, (s.setErrors pa 0).countCorrected pa)
    | 2 => (true, (s.setErrors pa 0).countTransient pa)
    | n => (false, (s.setErrors pa (n - 3)).countLasting pa)

/-- Every word or unit of a list can be read, or the first that cannot. -/
def State.guardList (s : State) (ps : List Nat) : Option Nat × State :=
  match ps with
  | [] => (none, s)
  | p :: r =>
    let g := s.readGuard p
    if g.1 then g.2.guardList r else (some p, g.2)

/-! ### Error checking of units (R409): 0 a core, 1 a lane pool, 2 an array, 3 a copy engine, 4 a distributor -/

/-- The unit of a core, or of its bench. -/
def parityKey (core unit : Nat) : Nat := 8 * (if unit = 0 then core else core / 8 * 8) + unit

/-- The errors that the operations of a unit have still to meet. -/
def State.unitErrors (s : State) (core unit : Nat) : Nat := SMap.get 0 s.parity (parityKey core unit)
def State.setUnitErrors (s : State) (core unit n : Nat) : State := { s with parity := SMap.put 0 s.parity (parityKey core unit) n }

/-- An operation of a unit meets the error that the environment left in its registers, queues or accumulators: 1 is one that
its retry clears, and from 2 on the retry fails too and the bench is marked. The result says whether the operation goes on
(R409). DEDUCED, log entry 46. -/
def State.parityGuard (s : State) (core unit : Nat) : Bool × State :=
  match s.unitErrors core unit with
  | 0 => (true, s)
  | 1 => (true, (s.setUnitErrors core unit 0).bumpReg (blockAddr 0 0 0x300) 0 32)
  | n => (false, (s.setUnitErrors core unit (n - 2)).countFailed.markDark (core / 8))

/-- MACHINE_CHECK of a unit (R409). -/
def machineCheck (unit : Nat) : FaultInfo := { cause := 0x182, tval := BitVec.ofNat 64 unit, words := [] }

/-! ### The sync-order records are made in Log.lean; here the level of a context (R143) -/

def State.levelOf (s : State) (c : Byte) : Nat := (s.ctx c).level

/-- The issuing process runs speculatively inside a chunk (R150). -/
def State.speculating (s : State) : Bool :=
  match s.cur.chunk with
  | some c => !c.granted
  | none => false

/-- The chunk ends before this bundle, which is performed at the commit turn (R149). -/
def State.endChunk (s : State) : State :=
  { s with xfer := .again,
           cur := { s.cur with chunk := s.cur.chunk.map fun c => { c with ended := true, boundary := true } } }

/-! ### Faults (R401–R404) and local traps (R399) -/

/-- CLASS of a cause (R403). A cause with bit 9 set is one that a peer's reply raises as a fault (R55). -/
def faultClass (cause : Nat) : Nat :=
  let c := cause % 512
  if c < 0x40 then 0 else if c < 0x60 then 1 else if c < 0x80 then 2 else if c < 0xA0 then 3 else if c < 0xC0 then 4
  else if c < 0x100 then 5 else if c < 0x140 then 6 else if c < 0x180 then 7 else if c < 0x1C0 then 8 else 9

/-- A violation freezes its master (R38, R398). -/
def isViolation (c : Nat) : Bool := c = 0x043 || c = 0x045 || c = 0x181

/-- A cause delivered as a local trap (R398). -/
def isTrap (c : Nat) : Bool := c = 0x004 || c = 0x080 || c = 0x081 || c = 0x082 || (0x1C0 ≤ c && c ≤ 0x1FF)

/-- The header word of a fault record (R402). -/
def faultHeader (lcore slot unit : Nat) (ctx : Byte) (cause : Nat) (bits : Nat) : Word :=
  BitVec.ofNat 64 (lcore % 1024 * 2 ^ 54 + slot * 2 ^ 51 + unit * 2 ^ 48 + ctx.toNat * 2 ^ 40 +
    faultClass cause * 2 ^ 36 + bits + cause % 512)

/-- Flag bits of the header (R402). -/
def fbLasting : Nat := 2 ^ 29
def fbRedirect : Nat := 2 ^ 28
def fbNested : Nat := 2 ^ 27
def fbReport : Nat := 2 ^ 26
def fbAsync : Nat := 2 ^ 25
def fbFrozen : Nat := 2 ^ 24

/-- The eight words of a fault record (R402). -/
def faultRecord (hdr : Word) (prec : Nat) (pc tval : Word) (words : List Word) : List Word :=
  [hdr, BitVec.ofNat 64 prec, pc, tval] ++ (words ++ [0, 0, 0, 0]).take 4

/-- LASTING stands in the records of lasting errors (R409). -/
def lastingBits (cause : Nat) : Nat := if cause = 0x046 || cause = 0x047 || cause = 0x182 then fbLasting else 0

/-- A fault stops the process (R401): FAULTED, its record posted, a slot frozen by a violation (R56); RC_BLOCK removes
a handler's lock (R186). -/
def State.faultProc (s : State) (pid : Nat) (f : FaultInfo) (o : Owed) (nested : Bool) : State :=
  let p := s.proc pid
  let freeze := isViolation f.cause && p.resident
  let hdr := faultHeader (s.core p.core).lcore (if p.resident then p.unit else 0) 0 p.ctx f.cause
    ((if nested then fbNested else 0) + (if freeze then fbFrozen else 0) + lastingBits f.cause)
  let s := s.setProc { p with pid := pid, st := .faulted, failed := true, owed := p.owed ++ [{ o with viol := freeze, tval := f.tval }],
                              frozen := p.frozen || freeze }
  let s := s.setRecState pid .faulted
  let s := if freeze && !p.frozen then s.stepReg regFrozen 0 16 else s
  let s := if f.cause = 0x0C2 then { s with locks := s.locks.filter fun e => e.2 != pid } else s
  s.push (.faultPost p.ctx (faultRecord hdr pid o.pc f.tval f.words))

/-- A helper's fault stops the helper (R314); a violation freezes it (R56). -/
def State.faultHelper (s : State) (h : Nat) (f : FaultInfo) (pc : Word) : State :=
  let p := s.proc (helperKey h)
  let freeze := isViolation f.cause
  let hdr := faultHeader (s.core (h / 2)).lcore 0 (1 + h % 2) p.ctx f.cause
    ((if freeze then fbFrozen else 0) + lastingBits f.cause)
  let st := SMap.get Helper.empty s.helpers h
  let s := { s with helpers := SMap.put Helper.empty s.helpers h { st with run := if freeze then 3 else 2, owed := none } }
  let s := s.updProc (helperKey h) fun p => { p with st := .faulted, frozen := p.frozen || freeze }
  let s := if freeze && !p.frozen then s.stepReg regFrozen 0 16 else s
  s.push (.faultPost p.ctx (faultRecord hdr 0 pc f.tval f.words))

/-- What a resume of a stopped helper sends again (R58). -/
def State.helperOwes (s : State) (h : Nat) (o : Owed) : State :=
  let st := SMap.get Helper.empty s.helpers h
  { s with helpers := SMap.put Helper.empty s.helpers h { st with owed := some o } }

/-- A fault that stops no process: an engine beat, a tile transfer, a sill unit (R44, R176, R401). -/
def State.faultAsync (s : State) (core slot unit : Nat) (ctx : Byte) (pid : Nat) (pc : Word) (f : FaultInfo)
    (frozen : Bool) : State :=
  let hdr := faultHeader (s.core core).lcore slot unit ctx f.cause
    (fbAsync + (if frozen then fbFrozen else 0) + lastingBits f.cause)
  s.push (.faultPost ctx (faultRecord hdr pid pc f.tval f.words))

/-- A fault of a sill unit that concerns no process (R456 and the rules it serves). -/
def State.faultReport (s : State) (ctx : Byte) (f : FaultInfo) : State :=
  s.push (.faultPost ctx (faultRecord (faultHeader 0 0 6 ctx f.cause (fbReport + lastingBits f.cause)) 0 0 f.tval f.words))

/-- Taking a local trap (R399): the cause and value are recorded, EPC saves the address, the handler bit is set,
the standing loop entries are frozen, and control goes to TVEC. -/
def State.takeTrap (s : State) (cause : Nat) (tval epc : Word) : State :=
  { s with cur := { s.cur with tcause := BitVec.ofNat 64 cause, tval := tval, epc := epc,
                               tstat := setField s.cur.tstat 0 1 1, frozenLoops := s.cur.loops.length,
                               pc := s.cur.tvec &&& ~~~7#64 },
           xfer := .gone }

/-- A local trap can be taken: TVEC is set and no handler runs (R399). -/
def Proc.canTrap (p : Proc) : Bool := p.tvec != 0 && !p.tstat.getLsbD 0

/-- Taking an exception in the issuing process: the one shared operation. A trap cause goes to TVEC, or becomes
a NESTED fault; every other cause is a fault with its record (R399, R401). `atIssue` says that the bundle had no
effect; a fault record names the bundle, whatever a trap would have saved in EPC (R402). -/
def State.raise (s : State) (cause : Nat) (tval epc : Word) (words : List Word) (atIssue : Bool) (bundle : Word := epc) :
    State :=
  if s.speculating then s.endChunk
  else if isTrap cause && s.cur.canTrap then s.takeTrap cause tval epc
  else if s.cur.isHelper then
    { s.faultHelper (s.cur.pid - 2 ^ 64) { cause := cause, tval := tval, words := words } bundle with xfer := .gone }
  else
    { s.faultProc s.cur.pid { cause := cause, tval := tval, words := words }
        { atIssue := atIssue, pc := bundle, req := none, redo := none, writes := [], cls := .none,
          sn := 0, entry := false, again := none }
        (isTrap cause) with xfer := .gone }

/-- Raise an issue check: the whole bundle has no effect and EPC is its address (R215). -/
def State.raiseIssue (s : State) (cause : Nat) (tval : Word) : State := s.raise cause tval s.cur.pc [] true

/-- The same as an outcome. -/
def raiseO (s : State) (cause : Nat) (tval : Word) : Out := .next (s.raiseIssue cause tval)

/-- Raise a cause after issue: the other word of the bundle is performed and the bundle ends, but the process is
FAULTED and its slot issues no more (R215, R401). `redo` is what RETRY sends again (R405). -/
def State.raiseAfter (s : State) (cause : Nat) (tval : Word) (words : List Word) (redo : Option Ev) : State :=
  if s.speculating then s.endChunk
  else
    let o : Owed :=
      { atIssue := false, pc := s.cur.pc, req := none, redo := redo, writes := [], cls := .none, sn := 0, entry := false,
        again := if redo.isNone then
            some { pc := s.cur.pc, ir := s.ir, regs := s.keep, isA := false }
          else none }
    let f : FaultInfo := { cause := cause, tval := tval, words := words }
    if s.cur.isHelper then (s.faultHelper (s.cur.pid - 2 ^ 64) f s.cur.pc).helperOwes (s.cur.pid - 2 ^ 64) o
    else s.faultProc s.cur.pid f o false

/-- A boundary instruction ends the chunk before it (R149); otherwise it is performed. -/
def boundary (s : State) (k : Out) : Out := if s.speculating then .next s.endChunk else k

/-- An instruction that a run-to-completion handler may not execute raises RC_BLOCK (R186). -/
def notInHandler (s : State) (k : Out) : Out :=
  if s.cur.rc then .next (s.raiseAfter 0x0C2 0 [] none) else k

/-- The sequencer of a process looks for work. -/
def State.kick (s : State) (pid : Nat) : State :=
  if (s.agenda ++ s.blocked).contains (.sequencerEntry pid) then s else s.push (.sequencerEntry pid)

/-- The entry at the head of the sequencer takes SUBM from FCR as it stands (R400). -/
def Proc.retakeSubm (p : Proc) : Proc :=
  let f := fun (e : SeqEntry) => { e with fcr := setField e.fcr 3 2 (field p.fcr 3 2) }
  let head := { p with seq := p.seq.mapIdx fun i e => if i = 0 then f e else e }
  match p.vloop with
  | some l =>
    if l.ahead = 0 then { p with vloop := some { l with body := l.body.mapIdx fun i e => if i = l.next then f e else e } }
    else head
  | none => head

/-- Return from a local trap (R319): PC := EPC, HND is cleared, the handler's own loop entries are discarded and
the frozen ones count again (R274). The sequencer resumes; an entry stopped at FP_SUBNORMAL takes SUBM anew (R400). -/
def State.tret (s : State) : State :=
  let p := if s.cur.seqStop && s.cur.tcause == 0x080 then s.cur.retakeSubm else s.cur
  let s : State :=
    { s with cur := { p with tstat := setField p.tstat 0 1 0, loops := p.loops.drop (p.loops.length - p.frozenLoops),
                             frozenLoops := 0, seqStop := false },
             xfer := .jump p.epc }
  if p.seqStop then s.kick p.pid else s

/-- The slot stalls: the bundle is not performed now. -/
def State.stall (s : State) : State := { s with xfer := .again }

/-- The C-word and the A-word of the bundle now performed, as TVAL values (R215). -/
def State.cword (s : State) : Word := zeroExtend s.ir.toNat 32
def State.aword (s : State) : Word := s.ir >>> 32

end Sys2Proof.Machine
end

