-- ==== Sys2Proof/Machine/Access.lean ====
section
/-! DEFINITION. How an address is resolved and checked: contexts and their windows (R39–R43), translation
(R45–R52), the order of checks (R38), and sending an access of the issuing process to the owner of its word
(R123–R132, R214, R287). -/

namespace Sys2Proof.Machine

/-- Rights that an access requires (R42, R46). -/
structure Need where
  rd : Bool
  wr : Bool
  ex : Bool
  deriving DecidableEq, Repr

def needRd : Need := { rd := true, wr := false, ex := false }
def needWr : Need := { rd := false, wr := true, ex := false }
def needRW : Need := { rd := true, wr := true, ex := false }
def needEx : Need := { rd := false, wr := false, ex := true }

/-! ### Descriptors and windows -/

/-- Where the descriptor of a context stands (R39). -/
def State.descAddr (s : State) (c : Byte) : Nat := field (s.reg regCtxtab) 14 34 * 2 ^ 14 + 64 * c.toNat

/-- Where its window table stands (R39). -/
def State.winTab (s : State) (c : Byte) : Nat := field (readWord s.mem (s.descAddr c + 16)) 9 39 * 2 ^ 9

/-- The 64-byte units of HBM that a descriptor and its window table fill (R39, R85). -/
def State.descUnits (s : State) (c : Byte) : List Nat :=
  s.descAddr c :: (if (readWord s.mem (s.descAddr c + 24)).getLsbD 0 then (List.range 8).map fun i => s.winTab c + 64 * i else [])

/-- The descriptor of a context as its table in HBM holds it (R39); a poisoned unit of it cannot be read (R85). -/
def loadDesc (s : State) (c : Byte) : Desc :=
  let a := s.descAddr c
  let w3 := readWord s.mem (a + 24)
  let wt := s.winTab c
  { valid := w3.getLsbD 0, sup := w3.getLsbD 1, dev := w3.getLsbD 2, xhost := w3.getLsbD 3,
    root0 := readWord s.mem a, root1 := readWord s.mem (a + 8), mbox := readWord s.mem (a + 32),
    bad := (s.descUnits c).any s.isPoison,
    windows := if w3.getLsbD 0 then (List.range 32).map fun i =>
        { w0 := readWord s.mem (wt + 16 * i), w1 := readWord s.mem (wt + 16 * i + 8) } else [] }

/-- The descriptor in force: the cached one, or the table's (R39). -/
def State.desc (s : State) (c : Byte) : Desc := (SMap.get none s.descs c.toNat).getD (loadDesc s c)

/-- A use of a descriptor caches it (R39), unless a unit of it cannot be read (R85). -/
def State.cacheDesc (s : State) (c : Byte) : State :=
  match SMap.get none s.descs c.toNat with
  | some _ => s
  | none =>
    match s.guardList (s.descUnits c) with
    | (none, s) => { s with descs := SMap.put none s.descs c.toNat (some (loadDesc s c)) }
    | (some _, s) => s

/-- An entry is usable: V = 1 and every reserved bit zero (R41, R42). -/
def Window.valid (w : Window) : Bool :=
  w.w0.getLsbD 63 && field w.w0 0 27 == 0 && field w.w1 42 22 == 0 && field w.w1 10 22 == 0

/-- The entry covers the byte at a space 2 address (R41). -/
def Window.covers (w : Window) (a : Nat) : Bool :=
  let page := sramOff a / 4096
  let lid := sramLid a
  w.valid && (if lid then w.w0.getLsbD 59 else w.w0.getLsbD 58) && w.w0.getLsbD (56 + sramTower a) &&
  w.w0.getLsbD (51 + sramLayer a) && w.w0.getLsbD (35 + sramBench a) && (lid || w.w0.getLsbD (27 + sramSlice a)) &&
  decide (field w.w1 0 10 ≤ page) && decide (page < field w.w1 32 10)

/-- The entry grants the rights (R42). -/
def Window.grants (w : Window) (n : Need) : Bool :=
  (!n.rd || w.w0.getLsbD 62) && (!n.wr || w.w0.getLsbD 61) && (!n.ex || w.w0.getLsbD 60)

/-- A guard window: no right at all (R43). -/
def Window.guards (w : Window) : Bool := field w.w0 60 3 == 0

/-- Every byte from `a` is covered by an entry with the rights; the bytes lie in one 64-byte unit, so the first
and the last decide (R42). -/
def windowsAllow (ws : List Window) (a size : Nat) (n : Need) : Bool :=
  (ws.any fun w => w.covers a && w.grants n) && (ws.any fun w => w.covers (a + size - 1) && w.grants n)

/-! ### Layers (R16–R18) -/

/-- The role in force of a layer: 0 DARK, 1 STORE, 2 COMPUTE (R16). -/
def State.role (s : State) (t l : Nat) : Nat := SMap.get 0 s.roles (4 * t + l)

/-- A layer, or a cap at layer 4, has power (R16). -/
def State.lit (s : State) (t l : Nat) : Bool :=
  if l = 4 then (List.range 4).any fun k => s.role t k != 0 else s.role t l != 0

/-- The fields of a space 2 address name an existing, powered part (R35, R18, R409). -/
def sramFieldsOk (s : State) (a : Nat) : Bool :=
  let l := sramLayer a
  a / 2 ^ 48 % 32 == 0 && a / 2 ^ 21 % 2 ^ 15 == 0 && decide (l ≤ 4) && (l != 4 || sramLid a) &&
  s.lit (sramTower a) l && (!sramLid a || sramSlice a == 0) &&
  decide (sramOff a < (if sramLid a then Config.lidBytes else Config.sliceBytes)) &&
  !SMap.get false s.dropped (16 * (4 * sramTower a + min l 3) + sramBench a)

/-! ### Aliases (R36) -/

/-- ResolveAlias: the address as resolved, or the cause that refuses it. A nonzero bit of [51:21] counts before the
alias. DESIGN CHOICE, log entry 80. -/
def resolveAlias (p : Nat) (va : Word) : Except Nat Nat :=
  let a := va.toNat
  let kind := a / 2 ^ 52 % 16
  let off := a % 2 ^ 21
  if a / 2 ^ 21 % 2 ^ 31 ≠ 0 then .error 0x044
  else if kind = 0 then .ok (sliceAddr p off)
  else if kind = 1 then
    .ok (2 * 2 ^ 53 + p / 512 * 2 ^ 47 + (p / 128 % 4 + 1) * 2 ^ 44 + p / 8 % 16 * 2 ^ 40 + 2 ^ 39 + off)
  else if kind = 2 then (if off ≥ 0x1000 then .error 0x043 else .ok (corePage p + off))
  else .error 0x043

/-! ### Translation (R45–R50) -/

/-- Where a requester stands: a physical core, or 1,024 + t for a unit of the sill of tower t, to which a node 0xFF
address means nothing (R36). -/
def sillSeat (t : Nat) : Nat := 1024 + t

/-- The collective engine's place, in the sill of tower 0 (R422). -/
def collSeat : Nat := sillSeat 0

/-- The translation cache that serves a seat: the bench's, or the sill's (R49). DEDUCED, log entry 81. -/
def tlbUnit (p : Nat) : Nat := if p < 1024 then p / 8 else 128 + (p - 1024)

/-- The die whose walk slots serve a seat: a layer, or the base die of a sill (R50). DEDUCED, log entry 81. -/
def dieOf (p : Nat) : Nat := if p < 1024 then p / 128 else 8 + (p - 1024)

/-- A cached entry for an address of bits [52:0] (R49). -/
def State.findTlb (s : State) (unit : Nat) (c : Byte) (space va : Nat) : Option Tlb :=
  (s.tlb.find? fun e => e.1 = unit && e.2.space = space && (e.2.glob || e.2.ctx = c) &&
    va / 2 ^ e.2.bits = e.2.vpage).map (·.2)

/-- The cause word of XLATE_FAULT (R47). -/
def xlateWord (reason level : Nat) (n : Need) : Word :=
  BitVec.ofNat 64 (reason + level * 2 ^ 8 + (if n.wr then 2 ^ 10 else 0) + (if n.ex then 2 ^ 11 else 0))

/-- Reserved bits of a table entry are zero (R46). -/
def pteReserved (e : Word) (leaf : Bool) : Bool :=
  field e 48 16 != 0 || field e 7 9 != 0 || (!leaf && e.getLsbD 5)

/-- The aligned group of 32 leaf entries is consistent (R48). -/
def groupOk (m : List Host.Cell) (a : Nat) : Bool :=
  let e0 := readWord m a
  field e0 16 5 == 0 && (List.range 32).all fun i =>
    let e := readWord m (a + 8 * i)
    e.getLsbD 0 && e.getLsbD 5 && field e 6 1 == field e0 6 1 && field e 2 3 == field e0 2 3 &&
    field e 16 32 == field e0 16 32 + i

/-- An entry that ends a walk, as the cache keeps it. -/
def mkTlb (c : Byte) (space bits va : Nat) (e : Word) : Tlb :=
  { ctx := c, space := space, bits := bits, vpage := va / 2 ^ bits, base := field e 16 32 * 2 ^ 16 / 2 ^ bits * 2 ^ bits,
    glob := e.getLsbD 6, rd := e.getLsbD 2, wr := e.getLsbD 3, ex := e.getLsbD 4 }

/-- The root of a space's tables (R39, R45). -/
def Desc.root (d : Desc) (space : Nat) : Word := if space = 0 then d.root0 else d.root1

/-- Address of the top entry of an address (R45). -/
def topAddr (root : Word) (va : Nat) : Nat := field root 16 32 * 2 ^ 16 + 8 * (va / 2 ^ 40 % 2 ^ 13)

/-- Address of the middle entry, under a top entry (R45). -/
def midAddr (e2 : Word) (va : Nat) : Nat := field e2 16 32 * 2 ^ 16 + 8 * (va / 2 ^ 28 % 2 ^ 12)

/-- Address of the leaf entry, under a middle entry (R45). -/
def leafAddr (e1 : Word) (va : Nat) : Nat := field e1 16 32 * 2 ^ 16 + 8 * (va / 2 ^ 16 % 2 ^ 12)

/-- Address of the first entry of the group of 32 that a leaf entry belongs to (R48). -/
def groupAddr (a : Nat) : Nat := a / 256 * 256

/-- An entry of the top or middle level leads to a table (R46). -/
def isTable (e : Word) : Bool := e.getLsbD 0 && !pteReserved e false && e.getLsbD 1

/-- The leaf level of a walk: the cached entry, or the reason and level of its failure (R46–R48). -/
def walkLeaf (m : List Host.Cell) (c : Byte) (space : Nat) (e1 : Word) (va : Nat) : Except (Nat × Nat) Tlb :=
  let a := leafAddr e1 va
  let e0 := readWord m a
  if !e0.getLsbD 0 then .error (0, 0)
  else if pteReserved e0 true then .error (2, 0)
  else if !e0.getLsbD 1 then .error (5, 0)
  else if e0.getLsbD 5 then
    (if groupOk m (groupAddr a) then
       .ok { mkTlb c space 21 va e0 with base := field (readWord m (groupAddr a)) 16 32 * 2 ^ 16 }
     else .error (4, 0))
  else .ok (mkTlb c space 16 va e0)

/-- A walk from the top and middle entries that it reads. Where several reasons hold for one entry, V = 0 counts first,
then a reserved bit, then the alignment of a block or T = 0 at the leaf, then the group; the rights and the limit of HBM
count last. DESIGN CHOICE, log entry 80. -/
def walkFrom (m : List Host.Cell) (c : Byte) (space : Nat) (e2 e1 : Word) (va : Nat) : Except (Nat × Nat) Tlb :=
  if !e2.getLsbD 0 then .error (0, 2)
  else if pteReserved e2 false then .error (2, 2)
  else if !e2.getLsbD 1 then (if field e2 16 24 ≠ 0 then .error (3, 2) else .ok (mkTlb c space 40 va e2))
  else if !e1.getLsbD 0 then .error (0, 1)
  else if pteReserved e1 false then .error (2, 1)
  else if !e1.getLsbD 1 then (if field e1 16 12 ≠ 0 then .error (3, 1) else .ok (mkTlb c space 28 va e1))
  else walkLeaf m c space e1 va

/-- The walk of R45–R48 through the tables in memory: the cached entry, or the reason and level of its failure. -/
def walk (m : List Host.Cell) (c : Byte) (space : Nat) (root : Word) (va : Nat) : Except (Nat × Nat) Tlb :=
  if !root.getLsbD 0 then .error (0, 3)
  else
    let e2 := readWord m (topAddr root va)
    walkFrom m c space e2 (readWord m (midAddr e2 va)) va

/-- The entry of a level that a die caches for an address (R50). -/
def State.findUpper (s : State) (die : Nat) (c : Byte) (space level va : Nat) : Option Word :=
  (s.upper.find? fun u => decide (u.die = die ∧ u.ctx = c ∧ u.space = space ∧ u.level = level ∧
    u.tag = va / 2 ^ (16 + 12 * level))).map (·.word)

/-- The first `n` elements with a property, and all without it. -/
def keepFirst {α : Type} (f : α → Bool) (n : Nat) : List α → List α
  | [] => []
  | x :: r =>
    if f x then
      match n with
      | 0 => keepFirst f 0 r
      | k + 1 => x :: keepFirst f k r
    else x :: keepFirst f n r

/-- A die keeps the 512 newest top and middle entries; one with V = 0 is not kept (R49, R50). -/
def State.addUpper (s : State) (die : Nat) (c : Byte) (space level va : Nat) (w : Word) : State :=
  if !w.getLsbD 0 || (s.findUpper die c space level va).isSome then s
  else
    { s with upper := { die := die, ctx := c, space := space, level := level, tag := va / 2 ^ (16 + 12 * level), word := w } ::
               keepFirst (fun u => decide (u.die = die)) 511 s.upper }

/-- How a walk ends: with an entry, with the reason and level of XLATE_FAULT (R47), or at a table word that cannot be
read (R85). -/
inductive WalkEnd where
  | ok (e : Tlb)
  | fail (reason level : Nat)
  | ecc
  deriving DecidableEq, Repr

/-- The 64-byte units of HBM that the leaf level of a walk reads (R48). -/
def leafUnits (m : List Host.Cell) (e1 : Word) (va : Nat) : List Nat :=
  let a := leafAddr e1 va
  if (readWord m a).getLsbD 5 then (List.range 4).map fun i => groupAddr a + 64 * i else [a]

/-- A walk by a die: its cached top and middle entries, the rest from memory, each word with its error check (R45–R48,
R50, R85). -/
def State.tableWalk (s : State) (die : Nat) (c : Byte) (space va : Nat) : WalkEnd × State :=
  let root := (s.desc c).root space
  if !root.getLsbD 0 then (.fail 0 3, s)
  else
    let up := s.findUpper die c space 2 va
    match s.guardList (if up.isSome then [] else [topAddr root va]) with
    | (some _, s) => (.ecc, s)
    | (none, s) =>
      let e2 := up.getD (readWord s.mem (topAddr root va))
      let s := s.addUpper die c space 2 va e2
      let mid := s.findUpper die c space 1 va
      match s.guardList (if mid.isSome || !isTable e2 then [] else [midAddr e2 va]) with
      | (some _, s) => (.ecc, s)
      | (none, s) =>
        let e1 := mid.getD (readWord s.mem (midAddr e2 va))
        let s := if isTable e2 then s.addUpper die c space 1 va e1 else s
        match s.guardList (if isTable e2 && isTable e1 then leafUnits s.mem e1 va else []) with
        | (some _, s) => (.ecc, s)
        | (none, s) =>
          (match walkFrom s.mem c space e2 e1 va with
           | .ok e => .ok e
           | .error (r, l) => .fail r l, s)

/-- The level a cached entry came from (R47). -/
def Tlb.level (e : Tlb) : Nat := if e.bits = 40 then 2 else if e.bits = 28 then 1 else 0

/-- What the checks of R38 answer. -/
inductive Chk where
  | fail (cause : Nat) (words : List Word)
  | ok (pa : Nat) (space : Nat)
  | miss (space : Nat) (va : Nat)
  | peer (node : Nat)
  deriving DecidableEq, Repr

/-- Rights of a cached entry, and the limit of HBM; a guard mapping is a leaf (R43, R46, R47). -/
def useTlb (e : Tlb) (space va : Nat) (n : Need) : Chk :=
  let pa := e.base + va % 2 ^ e.bits
  if n.ex && !e.rd && !e.wr && !e.ex && e.level == 0 then .fail 0x006 []
  else if (n.rd && !e.rd) || (n.wr && !e.wr) || (n.ex && !e.ex) then .fail 0x042 [xlateWord 1 e.level n]
  else if space = 0 && pa ≥ Config.hbmBytes then .fail 0x042 [xlateWord 6 e.level n]
  else .ok pa space

/-- An access to a register block or to a truss queue is permitted (R37, R394). `reg` says that it is an 8-byte
load or store. -/
def blockCheck (s : State) (c : Byte) (a : Nat) (n : Need) (reg page : Bool) : Chk :=
  let d := s.desc c
  let b := regBlock a
  let t := regTower a
  let o := regOff a
  let read := n.rd && !n.wr
  let okDev := d.dev || page
  let allowed :=
    if b = 0x00 then t == 0 && (read || c == 0)
    else if b = 0x01 then t == 0 && c == 0
    else if 0x08 ≤ b && b ≤ 0x0D then d.dev && o != 0x100
    else if b = 0x10 || b = 0x11 then d.dev
    else if b = 0x12 || b = 0x20 then t == 0 && d.dev
    else if b = 0x21 then
      let q := o / 16
      let w := s.reg (blockAddr 0 0x20 (0x1000 + 8 * q))
      t == 0 && decide (q < 64) && w.getLsbD 63 && field w 48 8 == c.toNat &&
        (if o % 16 = 0 then n.wr && !n.rd else o % 16 == 8 && read)
    else if 0x40 ≤ b then okDev
    else false
  if a / 2 ^ 48 % 32 ≠ 0 || !reg || !allowed then .fail 0x043 [] else .ok a 3

/-- ResolveAlias for the requester at a seat (R36). -/
def resolveFor (core : Nat) (va : Word) : Except Nat Nat :=
  if va.toNat / 2 ^ 56 = 0xFF then (if core < 1024 then resolveAlias core va else .error 0x043) else .ok va.toNat

/-- The bytes lie in a slot of a launch queue in service (R42, R192, R193). -/
def State.inQueueSlot (s : State) (a size : Nat) : Bool :=
  s.regs.any fun e =>
    let k := e.1 - blockAddr 0 0 0x1008
    decide (blockAddr 0 0 0x1008 ≤ e.1) && decide (k < 2048) && decide (k % 32 = 0) && e.2.getLsbD 63 &&
    overlaps ((s.reg (e.1 - 8)).toNat % 2 ^ 56) (128 * 2 ^ field e.2 32 5) a size

/-- The rights that an access to SRAM requires: an operation on a launch-queue slot needs RD and WR (R42). -/
def State.needAt (s : State) (a size : Nat) (n : Need) : Need := if !n.ex && s.inQueueSlot a size then needRW else n

/-- The checks of R38 after alignment, for an access of context `c` from the seat `core`. -/
def checkAccess (s : State) (core : Nat) (c : Byte) (va : Word) (size : Nat) (n : Need) (reg : Bool) : Chk :=
  let d := s.desc c
  if d.bad then .fail 0x047 []
  else if !d.valid then .fail 0x043 []
  else
    let coreLocal := va.toNat / 2 ^ 56 = 0xFF
    match resolveFor core va with
    | .error cause => .fail cause []
    | .ok a0 =>
      let node := a0 / 2 ^ 56
      if node ≠ 0 && node ≠ s.mynode then
        (if s.mynode ≠ 0 && node ≠ 0xFF &&
            (s.reg (blockAddr 0 1 (0x010 + 8 * (node / 64)))).getLsbD (node % 64)
         then .peer node else .fail 0x043 [])
      else
        let a := a0 % 2 ^ 56
        let space := a / 2 ^ 53
        if space ≥ 4 then .fail 0x043 []
        else if space = 3 then blockCheck s c a n reg (coreLocal && va.toNat / 2 ^ 52 % 16 == 2)
        else if space = 2 then
          (if !sramFieldsOk s a then .fail 0x044 []
           else if windowsAllow d.windows a size (s.needAt a size n) then .ok a 2
           else if n.ex && d.windows.any (fun w => w.covers a && w.guards) then .fail 0x006 []
           else .fail 0x045 [])
        else if space = 1 && !d.xhost then .fail 0x043 []
        else
          match s.findTlb (tlbUnit core) c space (a % 2 ^ 53) with
          | some e => useTlb e space (a % 2 ^ 53) n
          | none => .miss space (a % 2 ^ 53)

/-- A cached entry joins its unit's cache, which keeps the 4,096 newest (R49). -/
def State.addTlb (s : State) (unit : Nat) (e : Tlb) : State :=
  { s with tlb := (unit, e) :: keepFirst (fun x => decide (x.1 = unit)) 4095 s.tlb }

/-! ### Sending an access (R123–R132) -/

/-- The step at the owner that a request asks for. -/
def ownerStep (r : Req) : Ev :=
  match r.op with
  | .sub _ _ => .subByteStore r
  | .ldv _ => .versionedLoadAtOwner r
  | .stv _ _ => .versionedStoreAtOwner r
  | .rcl _ => .reclaimAtOwner r
  | .vinit _ _ => .initialiseAtOwner r
  | _ => .ownerAccess r

end Sys2Proof.Machine

namespace Sys2Proof

open Sys2Proof.Machine

/-- A load or returning atomic, for R126–R132. -/
def MemOp.loads (o : MemOp) : Bool :=
  match o with
  | .load _ | .nibble _ _ | .tag | .ldv _ | .park _ | .join => true
  | .atom _ _ _ ret => ret
  | _ => false

/-- A store-type access (R123). -/
def MemOp.stores (o : MemOp) : Bool :=
  match o with
  | .store _ | .sub _ _ | .stv _ _ | .rcl _ | .vinit _ _ | .joinDec => true
  | .atom _ _ _ ret => !ret
  | _ => false

/-- The counter that an access is charged to (R287). -/
def MemOp.cls (o : MemOp) : CntClass :=
  match o with
  | .park _ | .join | .joinDec => .none
  | _ => if o.stores then .stores else .loads

/-- Window and table rights that an operation requires (R42, R46, R105). -/
def MemOp.need (o : MemOp) : Need :=
  match o with
  | .load _ | .nibble _ _ | .tag | .ldv _ | .park _ => needRd
  | .store _ | .sub _ _ | .stv _ _ | .rcl _ | .vinit _ _ => needWr
  | .atom _ _ _ _ | .join | .joinDec => needRW

/-- An 8-byte load or store, the only accesses of space 3 (R37). -/
def MemOp.plain (o : MemOp) (size : Nat) : Bool :=
  match o with
  | .load _ | .store _ => size == 8
  | _ => false

end Sys2Proof

namespace Sys2Proof.Machine

/-- The space and node that an address names once a core-local address is resolved; space 8 for one that cannot be. -/
def spaceOf (core : Nat) (va : Word) : Nat × Nat :=
  match resolveFor core va with
  | .ok a => (a / 2 ^ 53 % 8, a / 2 ^ 56)
  | .error _ => (8, 0)

/-- The resolved address of a word, for scopes. -/
def resolved (core : Nat) (va : Word) : Nat :=
  match resolveFor core va with
  | .ok a => a
  | .error _ => va.toNat

/-- The address without this package's own node number (R33). -/
def State.ownNode (s : State) (a : Nat) : Nat := if a / 2 ^ 56 = s.mynode then a % 2 ^ 56 else a

/-- The resolved address of a word, for ranges (R33, R72). -/
def State.rangeAddr (s : State) (core : Nat) (va : Word) : Nat := s.ownNode (resolved core va)

/-- Coordinate of the owner that an address leads to; a peer's words lie at its node (R127). -/
def targetCoord (s : State) (core : Nat) (va : Word) (pa : Nat) : List Nat :=
  let a := resolved core va
  let node := a / 2 ^ 56
  if node ≠ 0 && node ≠ s.mynode then [256 + node] else ownerCoord (a / 2 ^ 53 % 8) pa

/-- An outstanding access bars the slot (R126, R129, R132): every access in `sns` has finished. -/
def Proc.finished (p : Proc) (sns : List Nat) : Bool := sns.all fun n => !(p.outst.any fun o => o.sn = n)

/-- The owner of an access in flight lies in the issuer's unit of a scope; one whose translation is still awaited may lie
anywhere in HBM (R128, R129). -/
def Outst.near (o : Outst) (sc : Nat) (issuer : List Nat) : Bool :=
  if o.owner.isEmpty then decide (4 ≤ sc) else scopeCovers sc issuer o.owner

/-- The release condition of R129 at a scope: earlier loads returned, earlier stores near the issuer acknowledged. DEDUCED, log entry 42. -/
def Proc.releaseHolds (p : Proc) (sc : Nat) : Bool :=
  p.outst.all fun o => o.held || !(o.loads || (o.stores && o.near sc (coordOfCore p.core)))

/-- A sequencer entry that accesses memory. -/
def VecOp.isMem (o : VecOp) : Bool :=
  match o with
  | .ld _ _ _ _ _ | .st _ _ _ _ _ | .ldx _ _ _ _ _ | .stx _ _ _ _ _ => true
  | _ => false

/-- Earlier vector memory entries have sent all their accesses (R332). -/
def Proc.vecSent (p : Proc) : Bool :=
  !(p.seq.any fun e => e.op.isMem) &&
  (match p.vloop with | some l => !(l.body.any fun e => e.op.isMem) | none => true)

/-- A later access of the process may be sent (R129, R132, R134, R332). -/
def Proc.mayAccess (p : Proc) : Bool := p.finished p.holdAll && !p.smiss.getLsbD 1 && p.vecSent

/-- The range scoreboard lets the slot's access proceed (R72). -/
def State.scoreOk (s : State) (va : Word) (size : Nat) (write : Bool) : Bool :=
  let a := s.rangeAddr s.cur.core va
  !((s.core s.cur.core).score.any fun e =>
    decide (e.slot = s.cur.unit) && (e.write || write) && overlaps (s.ownNode e.base.toNat) e.len a size)

/-- An access as an instruction forms it. -/
structure Acc where
  va : Word
  size : Nat
  op : MemOp
  ord : MemOrder
  sc : Nat
  rd : Reg
  deriving DecidableEq, Repr

/-- Misses of a seat's die find its queue of 1,024 full (R50). -/
def State.walkQueueFull (s : State) (core : Nat) : Bool :=
  decide ((s.walkQ.filter fun r => decide (dieOf r.core = dieOf core)).length ≥ 1024)

/-- An access needs a translation that its bench does not hold, and the die's queue is full (R50). -/
def State.missStalls (s : State) (core : Nat) (c : Byte) (va : Word) : Bool :=
  let sp := spaceOf core va
  decide (sp.1 < 2) && (decide (sp.2 = 0) || decide (sp.2 = s.mynode)) && s.walkQueueFull core &&
  (s.findTlb (tlbUnit core) c sp.1 (va.toNat % 2 ^ 53)).isNone

/-- Everything but the alignment and R38 checks that makes the slot wait before it sends an access. -/
def State.accessWaits (s : State) (a : Acc) (eff : Nat) : Bool :=
  let p := s.cur
  !p.mayAccess || (a.op.stores && !p.finished p.holdSt) || (a.ord.releases && !p.releaseHolds eff) ||
  ((spaceOf p.core a.va).1 == 3 && p.outst.any (·.sp3)) || p.cnt.full a.op.cls || s.missStalls p.core p.ctx a.va ||
  !s.scoreOk a.va a.size (a.op.stores || a.op.need.wr)

/-- The reply to an access that failed a check after issue (R215). -/
def failDone (r : Req) (cause : Nat) (words : List Word) : Done :=
  { agent := r.agent, writes := [], flags := 0, fault := some { cause := cause, tval := r.va, words := words },
    cls := r.op.cls, sn := r.sn, miss := false, key := r.pa, req := some r, chan := none, pc := r.pc }

/-- The step that carries a reply back (R123). -/
def replyEv (r : Req) (d : Done) : Ev := if r.op.stores then .acknowledgement d else .loadReturn d

/-- The operation may leave its process waiting at the owner (R114); a task issues nothing after it until its outcome is
known, since it is a suspension point (R167, R168). DEDUCED, log entry 35. -/
def suspendsTask (o : MemOp) : Bool :=
  match o with
  | .ldv _ | .stv _ _ | .rcl _ => true
  | _ => false

/-- The issuing process records an access in flight: its number, its counter, its pending register. -/
def State.noteAccess (s : State) (r : Req) (o : List Nat) : State :=
  let p := s.cur
  let p := { p with cnt := p.cnt.up r.op.cls, waiting := p.waiting || (p.task && suspendsTask r.op),
                    outst := p.outst ++ [{ sn := r.sn, loads := r.op.loads, stores := r.op.stores, held := false,
                                           sp3 := r.space == 3, owner := o }],
                    holdAll := if r.ord.acquires then p.holdAll ++ [r.sn] else p.holdAll }
  let p := if r.op.loads then p.setPend r.rd else p
  let s := { s with cur := p }
  if r.op.stores then
    s.updCore p.core fun c =>
      let n := (c.issued[p.unit % 10]'(Nat.mod_lt _ (by decide))) + 1
      { c with issued := c.issued.set (p.unit % 10) n (Nat.mod_lt _ (by decide)),
               unacked := c.unacked ++ [(p.unit, r.sn, n.toNat)] }
  else s

/-- A request of the issuing process, before its address is resolved. -/
def State.mkReq (s : State) (a : Acc) : Req :=
  { agent := s.cur.agent, core := s.cur.core, unit := s.cur.unit, ctx := s.cur.ctx, va := a.va, pa := a.va.toNat,
    space := (spaceOf s.cur.core a.va).1, size := a.size, op := a.op, ord := a.ord, scope := a.sc, rd := a.rd,
    pc := s.cur.pc, sn := s.accs + 1 }

/-- Earlier accesses of the same issuer that still await a translation and may name the same word (R126): pages are
64 KiB at least, so the low 16 bits tell. -/
def State.walkBehind (s : State) (r : Req) : Bool :=
  (s.walks.flatMap (·.joined) ++ s.walkQ ++ s.walkWait).any fun q =>
    decide (q.agent = r.agent) && decide (q.space = r.space) && decide (q.va.toNat / 8 % 2 ^ 13 = r.va.toNat / 8 % 2 ^ 13)

/-- A walk of the page of an address, by the die of a seat. -/
def Walk.of (w : Walk) (die : Nat) (c : Byte) (space page : Nat) : Bool :=
  decide (w.die = die ∧ w.ctx = c ∧ w.space = space ∧ w.vpage = page)

/-- Walks that occupy the slots of a die. -/
def State.walksOf (s : State) (die : Nat) : List Walk := s.walks.filter fun w => decide (w.die = die)

/-- A miss takes a walk slot of its die (R50). -/
def State.startWalk (s : State) (r : Req) (page : Nat) : State :=
  { s with walks := s.walks ++ [{ die := dieOf r.core, ctx := r.ctx, space := r.space, vpage := page, joined := [r] }],
           agenda := s.agenda ++ [.translationWalk (dieOf r.core) r.ctx r.space page] }

/-- A miss joins the walk in flight of its page, which 64 requesters may join; it takes one of the die's 128 slots, or
waits for one in arrival order; the 65th requester, and one behind an access to the same word, looks up again when a
walk ends (R50, R126). -/
def State.joinWalk (s : State) (r : Req) : State :=
  let die := dieOf r.core
  let page := r.va.toNat % 2 ^ 53 / 2 ^ 16
  match s.walks.find? fun w => w.of die r.ctx r.space page with
  | some w =>
    if w.joined.length < 64 then
      { s with walks := s.walks.map fun v => if v.of die r.ctx r.space page then { v with joined := v.joined ++ [r] } else v }
    else { s with walkWait := s.walkWait ++ [r] }
  | none =>
    if s.walkBehind r then { s with walkWait := s.walkWait ++ [r] }
    else if (s.walksOf die).length < 128 && !(s.walkQ.any fun q => decide (dieOf q.core = die)) then s.startWalk r page
    else { s with walkQ := s.walkQ ++ [r] }

/-- A translated request goes to the owner of its word, whose place its issuer notes (R123, R129). -/
def State.toOwner (s : State) (r : Req) (pa space : Nat) : State :=
  let o := targetCoord s r.core r.va pa
  let r := { r with pa := pa, space := space, scope := effScope r.ord r.scope (coordOfCore r.core) space o }
  let s := s.updProc r.agent.pid fun p =>
    { p with outst := p.outst.map fun q => if q.sn = r.sn then { q with owner := o } else q }
  s.push (ownerStep r)

/-- Versioned operations, `park` and `join` have no cells outside space 2 (R82, R106, R306, R307). -/
def versionSpace (op : MemOp) (space : Nat) : Bool :=
  match op with
  | .ldv _ | .stv _ _ | .rcl _ | .vinit _ _ | .tag | .park _ | .join => decide (space < 2)
  | _ => false

/-- An atomic or sub-byte store to host memory is refused (R79, R283, R306). -/
def hostRefused (op : MemOp) (space : Nat) : Bool :=
  match op with
  | .atom _ _ _ _ | .joinDec | .sub _ _ => decide (space = 1)
  | _ => false

/-- Whether a request raises VERSION_SPACE: its word is in space 0 or 1 of this package, and nothing that R38 checks
before translation refuses it (R34, R38, R82, R106). DEDUCED, log entry 82. -/
def State.noCell (s : State) (r : Req) : Bool :=
  let sp := spaceOf r.core r.va
  let d := s.desc r.ctx
  versionSpace r.op sp.1 && (decide (sp.2 = 0) || decide (sp.2 = s.mynode)) && d.valid && !d.bad && (sp.1 == 0 || d.xhost)

/-- The word at +32 of its VERSION_SPACE record: OP and VERSION, without the fields of a cell that does not exist (R118). -/
def noCellWord (op : MemOp) : Word :=
  BitVec.ofNat 64 (match op with
    | .ldv v => v.toNat
    | .stv v _ => v.toNat + 2 ^ 16
    | .rcl v => v.toNat + 2 ^ 17
    | _ => 3 * 2 ^ 16)

/-- An access of the issuing process or helper is recorded with its owner's place, `[]` while that is not known. -/
abbrev Noted := State → Req → List Nat → State

/-- A request goes to its owner, to a walk or to a peer, or comes back with the check of R38 that refused it. `note`
records it at its issuer; `r.scope` holds the scope of the instruction. -/
def State.route (s : State) (r : Req) (note : Noted) : State :=
  let sp := spaceOf r.core r.va
  let peer := sp.2 ≠ 0 && sp.2 ≠ s.mynode
  if s.noCell r then (note s r []).push (replyEv r (failDone r 0x063 [noCellWord r.op]))
  else if hostRefused r.op sp.1 && !peer then (note s r []).push (replyEv r (failDone r 0x043 []))
  else
    match checkAccess s r.core r.ctx r.va r.size r.op.need (r.op.plain r.size) with
    | .fail cause words => (note s r []).push (replyEv r (failDone r cause words))
    | .ok pa space =>
      let o := targetCoord s r.core r.va pa
      if s.walkBehind r then
        let s := note s r []
        { s with walkWait := s.walkWait ++ [r] }
      else (note s r o).push (ownerStep { r with pa := pa, space := space,
                                                 scope := effScope r.ord r.scope (coordOfCore r.core) space o })
    | .miss _ _ => (note s r []).joinWalk r
    | .peer node =>
      let r := { r with scope := if r.ord = .rlx then 0 else 6 }
      let s := (note s r [256 + node]).sendFlit node r.ctx 0
        (.request { node := s.mynode, lcore := (s.core r.core).lcore, ctx := r.ctx, va := BitVec.ofNat 64 (r.va.toNat % 2 ^ 56), size := r.size,
                    op := r.op, ord := r.ord, scope := r.scope, tag := r.sn })
      { s with peers := s.peers ++ [(r.sn, r)] }

/-- Send an access of the issuing process whose alignment stands and whose waits are over. -/
def State.sendAccess (s : State) (a : Acc) : State :=
  ((s.number.2).cacheDesc s.cur.ctx).route (s.mkReq a) State.noteAccess

/-- The effective scope that the waits of an access use (R129), from the address alone. -/
def State.accScope (s : State) (a : Acc) : Nat :=
  let va := resolved s.cur.core a.va
  effScope a.ord a.sc (coordOfCore s.cur.core) (if va / 2 ^ 56 = 0 ∨ va / 2 ^ 56 = s.mynode then va / 2 ^ 53 % 8 else 0)
    (targetCoord s s.cur.core a.va va)

end Sys2Proof.Machine
end

