-- ==== Sys2Proof/Machine/Mesh.lean ====
section
/-! DEFINITION. The mesh between units and owners (spec/03 R66–R69, spec/04 R81–R84): the channel, the source and the
destination of each step in flight, the order that they keep, and the finite queues of owners and memory servers. -/

namespace Sys2Proof.Machine

/-- The unit that sends a message, as R69 lists sources. -/
def sourceOf (a : Agent) (core : Nat) : Nat :=
  match a with
  | .proc _ => core
  | .helper h => 2048 + h
  | .engine q => 4096 + q
  | .array b => 8192 + b
  | .sill t => 9000 + t
  | .peer n | .peerOp n _ => 10000 + n
  | .host => 9100

/-- The unit that sends a memory request. What a slot's sequencer or the read of a descriptor asks (units 32 to 55) comes from
the core. -/
def reqSource (r : Req) : Nat :=
  if r.agent = .host ∧ 32 ≤ r.unit ∧ r.unit < 56 ∧ r.core < 1024 then r.core else sourceOf r.agent r.core

/-- The owner of a word, as a destination: a slice or lid controller, a stack's server, a register block, the host port
(R69). -/
def ownerId (space pa : Nat) : List Nat := if space = 0 then [0, stackOf pa] else space :: ownerCoord space pa

/-- The end of a request's lane. In a server it is the 64-byte unit, since the queues keep no other order (R84). -/
def laneEnd (r : Req) : List Nat := if r.space = 0 then [0, stackOf r.pa, r.pa / 64] else ownerId r.space r.pa

/-- The home of a channel record, or an external endpoint (R172). -/
def homeId (key : Nat) : List Nat := if key / 2 ^ 53 = 2 then ownerId 2 key else [4, key]

end Sys2Proof.Machine

namespace Sys2Proof

open Sys2Proof.Machine

/-- The memory request that a step in flight brings to an owner. -/
def Ev.request (e : Ev) : Option Req :=
  match e with
  | .ownerAccess r | .subByteStore r | .versionedStoreAtOwner r | .versionedLoadAtOwner r | .reclaimAtOwner r
  | .initialiseAtOwner r => some r
  | _ => none

/-- The same step with its request changed. -/
def Ev.mapRequest (f : Req → Req) (e : Ev) : Ev :=
  match e with
  | .ownerAccess r => .ownerAccess (f r)
  | .subByteStore r => .subByteStore (f r)
  | .versionedStoreAtOwner r => .versionedStoreAtOwner (f r)
  | .versionedLoadAtOwner r => .versionedLoadAtOwner (f r)
  | .reclaimAtOwner r => .reclaimAtOwner (f r)
  | .initialiseAtOwner r => .initialiseAtOwner (f r)
  | e => e

/-- An atomic or a run-to-completion handler, which one core sends to one owner in order (R137). -/
def Ev.isAtom (e : Ev) : Bool :=
  match e with
  | .ownerAccess r => (match r.op with | .atom _ _ _ _ | .joinDec => true | _ => false)
  | .handlerRequest _ => true
  | _ => false

/-- The process for which a step in flight is performed, 0 where no process of this package asked for it, `none` where the
step does not name it (R151). -/
def Ev.cause (e : Ev) : Option Nat :=
  let of_ := fun (a : Agent) => match a with | .proc pid => pid | _ => 0
  match e with
  | .ownerAccess r | .subByteStore r | .versionedStoreAtOwner r | .versionedLoadAtOwner r | .reclaimAtOwner r
  | .initialiseAtOwner r | .trussPush r | .trussPop r | .waiterRetry r => some (of_ r.agent)
  | .channelSendAtHome m | .channelReceiveAtHome m | .sendRetry m | .withdrawal m => some (of_ m.agent)
  | .handlerRequest m => some (of_ m.agent)
  | .spawnPlace m => some (of_ m.agent)
  | .barrierArrival m => some (of_ m.agent)
  | .chunkCommit pid => some pid
  | .linkFlit _ _ | .engineBeat _ | .commandCompletion _ _ | .hostAperture _ _ _ | .hostLaunchWrite _ _ | .timeoutFire _
  | .channelTimeout _ | .ingestDeposit _ _ | .launchTake _ | .msReply _ | .collComplete _ _ => some 0
  | _ => none

end Sys2Proof

namespace Sys2Proof.Machine

/-- The lane of a reply: RSP, from the owner that answers to the unit that asked. -/
def replyLane (d : Done) : List Nat :=
  [1, sourceOf d.agent (match d.req with | some r => r.core | none => d.agent.pid)] ++
  (match d.req, d.chan with
   | some r, _ => ownerId r.space r.pa
   | none, some m => homeId m.key
   | none, none => [5, d.key])

/-- The lane of a step in flight: for a message its channel (0 REQ, 1 RSP, 2 BULK, 3 CTRL), its source and its
destination (R68, R69); for a step that a unit makes by itself the unit (4 and above). Steps of one lane keep their
order. Channel operations travel on REQ. DEDUCED, log entry 84. -/
def laneOf (e : Ev) : List Nat :=
  match e with
  | .ownerAccess r | .subByteStore r | .versionedStoreAtOwner r | .versionedLoadAtOwner r | .reclaimAtOwner r
  | .initialiseAtOwner r | .trussPush r | .trussPop r => 0 :: reqSource r :: laneEnd r
  | .handlerRequest m => 0 :: sourceOf m.agent m.core :: (if m.object ≥ 2 ^ 54 then ownerId 2 m.object else [0, stackOf m.object, m.object / 64])
  | .channelSendAtHome m | .channelReceiveAtHome m | .sendRetry m | .withdrawal m =>
    0 :: sourceOf m.agent m.core :: homeId m.key
  | .loadReturn d | .acknowledgement d | .heldCompletion d | .peerErrorReply d => replyLane d
  | .widen key | .widened key => [1, 9200, key]
  | .released a => [1, 9201, a.pid]
  | .drainQueryReply m _ _ => 1 :: 9202 :: homeId m.key
  | .tileTransfer t => [2, t.key, t.num]
  | .engineBeat q | .commandCompletion q _ => [2, 4096 + q]
  | .startMessage m => [3, 9000 + m.tower, m.core]
  | .doneNotice m => [3, 9203, m.tower, m.idx]
  | .faultPost ctx ws => [3, field (ws.headD 0) 54 10, ctx.toNat]
  | .slotFill p | .spillParked p | .preempt p => [4, p]
  | .taskSteal p => [5, p]
  | .spillComplete pid => [6, pid]
  | .sequencerEntry p | .sequencerTrap p _ _ => [7, p]
  | .mmacExecute c | .mlidExecute c | .mclrExecute c | .mdrnExecute c | .mfmtExecute c | .mrelEffect c => [8, c / 8]
  | .leaseGrant b => [8, b]
  | .laneGrant b => [9, b]
  | .launchTake q | .queueBarrier q | .contextFence q | .levelChange q => [10, q]
  | .checkRunAEnd t i | .checkRunBEnd t i => [11, t, i]
  | .streamItem h _ => [12, h]
  | .translationWalk die ctx space page => [13, die, ctx.toNat, space, page]
  | .msRequest m => [14, sourceOf m.msg.agent m.msg.core, m.stack]
  | .msReply n => [15, n]
  | .frameReceive p _ | .pfcFrame p _ _ => [16, p]
  | .ingestDeposit p _ => [17, p]
  | .pfcRepeat p k | .pfcQuantaExpire p k | .frameTransmit p k => [18, p, k]
  | .commitTurn d => [19, d]
  | .chunkCommit pid => [20, pid]
  | .timeoutFire pid | .channelTimeout pid => [21, pid]
  | .selectClaim l _ => [22, l]
  | .logUnitWrite c | .logPadTimeout c | .logctlWrite c _ | .logtailWrite c _ | .logheadWrite c _ => [23, c.toNat]
  | .linkFlit l _ | .linkReplay l _ | .linkRetrain l _ | .linkUp l => [24, l]
  | .chunkArbitration r => [25, r]
  | .chunkGrant c _ l => [26, c, l]
  | .collComplete c _ => [27, c]
  | .collAnnounce a | .announceRetry a => [28, a.cid]
  | .waiterRetry r => 29 :: ownerId r.space r.pa
  | .spawnPlace m => [30, sourceOf m.agent m.core]
  | .barrierArrival m => [31, sourceOf m.agent m.core, m.name.toNat]
  | .triggerLatch c _ | .contextEvict c | .contextRestore c => [32, c.toNat]
  | .hostReadCompletion t _ _ | .hostReadTimeout t => [33, t]
  | .msixSend v => [34, v]
  | _ => [35]

/-! ### Queues of the owners (R66, R83, R84) -/

/-- The slice, lid or cap controller that a step waits at (R63, R66). -/
def controllerOf (e : Ev) : Option (List Nat) :=
  match e with
  | .handlerRequest m => if m.object ≥ 2 ^ 54 then some (ownerId 2 m.object) else none
  | .channelSendAtHome m | .channelReceiveAtHome m => if m.key / 2 ^ 53 = 2 then some (ownerId 2 m.key) else none
  | e => e.request.bind fun r => if r.space = 2 then some (ownerId 2 r.pa) else none

/-- The stack and the queue that a step waits at (R81, R83). -/
def serverQueue (e : Ev) : Option (Nat × Nat) :=
  match e with
  | .handlerRequest m => if m.object < 2 ^ 54 then some (stackOf m.object, hbmQueue m.object) else none
  | e => e.request.bind fun r => if r.space = 0 then some (stackOf r.pa, hbmQueue r.pa) else none

/-- The step that performs an accepted request of a request channel names the request and its stack. -/
def msStep (num stack : Nat) : Ev := .msReply (16 * num + stack)

/-- Requests that stand in a stack's intake: those that have found their queue of 64 full, and those of the request channel
that are accepted and not yet performed (R83, R90). -/
def intakeOf (k : Nat) (es : List Ev) : Nat :=
  let qs := es.filterMap fun e => (serverQueue e).bind fun x => if x.1 = k then some x.2 else none
  (List.range 256).foldl (fun n q => n + ((qs.filter (· = q)).length - 64)) 0 +
  (es.filter fun e => match e with | .msReply n => decide (n % 16 = k) | _ => false).length

/-- The intake of a stack's server is full: it accepts no REQ or BULK flit (R83). -/
def intakeFull (k : Nat) (es : List Ev) : Bool := decide (es.length ≥ 512) && decide (intakeOf k es ≥ 512)

/-- The HBM units that a request of a request channel touches, by their place in a 64 KiB page: the first and how many
(R88). -/
def msUnits (m : MsMsg) : Nat × Nat :=
  let w0 := m.words.getD 0 0
  let op := field w0 0 8
  ((m.words.getD 1 0).toNat / 64 % 1024, if op = 4 ∨ op = 5 then field (m.words.getD 7 0) 0 21 / 64 else if op = 6 then 0 else 1)

/-- Two runs of units may share one. -/
def unitsMeet (x y : Nat × Nat) : Bool :=
  decide (0 < x.2) && decide (0 < y.2) &&
  (decide ((y.1 + 1024 - x.1) % 1024 < x.2) || decide ((x.1 + 1024 - y.1) % 1024 < y.2))

/-- A step stands in its owner's queue, given the steps that reached the owner before it: 64 at a controller (R66), 64 in
each queue of a server behind an intake of 512 (R83). What finds no place waits in the mesh (R68). -/
def admitted (before : List Ev) (e : Ev) : Bool :=
  match controllerOf e, serverQueue e with
  | some o, _ => decide ((before.filter fun b => controllerOf b == some o).length < 64)
  | none, some x => decide ((before.filter fun b => serverQueue b == some x).length < 64) && !intakeFull x.1 before
  | none, none => true

/-- A server's queue may not perform a request before one that 16 later ones have passed already (R84). -/
def passAllowed (before : List Ev) (e : Ev) : Bool :=
  match serverQueue e with
  | some x => !before.any fun b => serverQueue b == some x && b.request.any fun r => decide (r.passed ≥ 16)
  | none => true

/-- The requests of a queue that a performed step has passed count it (R84). -/
def countPass (e b : Ev) : Ev :=
  if (serverQueue e).isSome && serverQueue b == serverQueue e then b.mapRequest fun r => { r with passed := r.passed + 1 } else b

/-- The steps that may be performed next, each with its place in the agenda: the first of each lane, when its owner's queue
holds it. `before` has reached the owners already. -/
def candidates (es before : List Ev) (seen : List (List Nat)) (i : Nat) : List (Nat × Ev) :=
  match es with
  | [] => []
  | e :: r =>
    let l := laneOf e
    let rest := candidates r (before ++ [e]) (l :: seen) (i + 1)
    if seen.contains l || !admitted before e || !passAllowed before e then rest else (i, e) :: rest

/-- A server has at least one queue that is not empty (R86). -/
def State.busyServers (s : State) : List Nat :=
  (List.range 12).filter fun k => (s.agenda ++ s.blocked).any fun e => (serverQueue e).any fun x => decide (x.1 = k)

/-- BUSY of the servers with a queue that is not empty advances (R86). -/
def State.countBusy (s : State) : State :=
  s.busyServers.foldl (fun s k => s.setReg (serverBlock k + 0x010) (s.reg (serverBlock k + 0x010) + 1)) s

end Sys2Proof.Machine
end

