-- ==== Sys2Proof/Machine/Special.lean ====
section
/-! DEFINITION. The special functions of spec/14 R348 on f32: the exact value enclosed by integer arithmetic on a fixed
point of 640 fraction bits, then one rounding. A last sticky bit stands for the rest of the value, which is never zero
except where a case below says that the value is exact (DEDUCED, log entry 21). -/

namespace Sys2Proof.Machine

/-- Fraction bits of the fixed point. -/
def fxF : Nat := 640

/-- The product of two fixed-point numbers. -/
def fxMul (a b : Int) : Int := a * b / (2 ^ fxF : Nat)

/-- The quotient of two fixed-point numbers. -/
def fxDiv (a b : Int) : Int := a * (2 ^ fxF : Nat) / b

/-- m × 2^e on the fixed point. -/
def fxOf (m : Nat) (e : Int) : Nat := if e + fxF ≥ 0 then m * 2 ^ (e + fxF).toNat else m / 2 ^ (-(e + fxF)).toNat

/-- Σ t / (k (k + 1) …) of an exponential series: the term, the next divisor, and the terms left. -/
def fxExpSum (x t acc : Int) (k n : Nat) : Int :=
  match n with
  | 0 => acc
  | j + 1 =>
    let t := fxMul t x / (k : Int)
    fxExpSum x t (acc + t) (k + 1) j

/-- e^x for a small x. -/
def fxExp (x : Int) : Int := fxExpSum x (2 ^ fxF : Nat) (2 ^ fxF : Nat) 1 160

/-- z + z³/3 + z⁵/5 + … for a small z; `z2` is its square, negative for the arc tangent. -/
def fxAtanSum (z2 t acc : Int) (k n : Nat) : Int :=
  match n with
  | 0 => acc
  | j + 1 =>
    let t := fxMul t z2
    fxAtanSum z2 t (acc + t / (k : Int)) (k + 2) j

def fxAtanh (z : Int) : Int := fxAtanSum (fxMul z z) z z 3 330
def fxAtan (z : Int) : Int := fxAtanSum (-fxMul z z) z z 3 330

/-- ln 2 = 2 artanh (1/3). -/
def fxLn2 : Int := 2 * fxAtanh ((2 ^ fxF : Nat) / 3)

/-- π by Machin's formula. -/
def fxPi : Int := 16 * fxAtan ((2 ^ fxF : Nat) / 5) - 4 * fxAtan ((2 ^ fxF : Nat) / 239)

/-- Alternating series of sine and cosine: the term and the next factor. -/
def fxTrigSum (x2 t acc : Int) (k n : Nat) : Int :=
  match n with
  | 0 => acc
  | j + 1 =>
    let t := -(fxMul t x2 / ((k * (k + 1) : Nat) : Int))
    fxTrigSum x2 t (acc + t) (k + 2) j

def fxSin (x : Int) : Int := fxTrigSum (fxMul x x) x x 2 80
def fxCos (x : Int) : Int := fxTrigSum (fxMul x x) (2 ^ fxF : Nat) (2 ^ fxF : Nat) 1 80

/-- The series of the error function without its factor 2/√π: term t = (−1)^n x^(2n+1)/n!, summed over 2n + 1. -/
def fxErfSum (x2 t acc : Int) (k n : Nat) : Int :=
  match n with
  | 0 => acc
  | j + 1 =>
    let t := -(fxMul t x2 / (k : Int))
    fxErfSum x2 t (acc + t / ((2 * k + 1 : Nat) : Int)) (k + 1) j

/-- √π. -/
def fxSqrtPi : Int := isqrt (fxPi.toNat * 2 ^ fxF) (fxF + 2)

/-- A fixed-point value, known to be inexact, rounded: the sticky bit stands for the rest. DEDUCED, log entry 21. -/
def fxRound (md : Mode) (neg : Bool) (x : Int) (k : Int) : FRes :=
  roundF fmtF32 md neg (2 * x.toNat + 1) (k - (fxF : Int) - 1)

/-- The value just below m × 2^e. -/
def justBelow (md : Mode) (neg : Bool) (m : Nat) (e : Int) : FRes := roundF fmtF32 md neg (m * 2 ^ 100 - 1) (e - 100)

/-- e^x as a fixed-point number in [1, 2) and an exponent, for |x| below 2^9. -/
def expParts (neg : Bool) (m : Nat) (e : Int) : Int × Int :=
  let x : Int := if neg then -(fxOf m e : Int) else fxOf m e
  let k := x / fxLn2
  (fxExp (x - k * fxLn2), k)

/-- ln of m × 2^e, m ≠ 0, on the fixed point: y in [3/4, 3/2) and a power of two. -/
def fxLog (m : Nat) (e : Int) : Int :=
  let t := bitLen m
  let y0 := fxOf m (-(t : Int))
  let high := decide (4 * y0 ≥ 3 * 2 ^ fxF)
  let y : Int := if high then y0 else 2 * y0
  let k : Int := e + t - (if high then 0 else 1)
  2 * fxAtanh (fxDiv (y - (2 ^ fxF : Nat)) (y + (2 ^ fxF : Nat))) + k * fxLn2

/-- A value of magnitude below 2^−30. -/
def isTiny (m : Nat) (e : Int) : Bool := decide ((bitLen m : Int) + e ≤ -30)

/-- m × 2^e is larger than n. -/
def dyAbove (m : Nat) (e : Int) (n : Nat) : Bool :=
  if e ≥ 0 then decide (m * 2 ^ e.toNat > n) else decide (m > n * 2 ^ (-e).toNat)

/-- m × 2^e as an integer, where it is one. -/
def dyInt (m : Nat) (e : Int) : Option Nat :=
  if e ≥ 0 then some (m * 2 ^ e.toNat)
  else if m % 2 ^ (-e).toNat = 0 then some (m / 2 ^ (-e).toNat) else none

/-- e^x; outside ±200 every format limit is passed. DEDUCED, log entry 21. -/
def expV (md : Mode) (s : Bool) (m : Nat) (e : Int) : FRes :=
  if m = 0 then exactRes 0x3F800000 0 md
  else if dyAbove m e 200 then roundF fmtF32 md false 1 (if s then -400 else 400)
  else
    let r := expParts s m e
    fxRound md false r.1 r.2

/-- 2^x. -/
def exp2V (md : Mode) (s : Bool) (m : Nat) (e : Int) : FRes :=
  if m = 0 then exactRes 0x3F800000 0 md
  else if dyAbove m e 400 then roundF fmtF32 md false 1 (if s then -400 else 400)
  else
    match dyInt m e with
    | some k => roundF fmtF32 md false 1 (if s then -(k : Int) else k)
    | none =>
      let x : Int := if s then -(fxOf m e : Int) else fxOf m e
      let k := x / (2 ^ fxF : Nat)
      fxRound md false (fxExp (fxMul (x - k * (2 ^ fxF : Nat)) fxLn2)) k

/-- A signed fixed-point value rounded. -/
def fxSigned (md : Mode) (x : Int) : FRes := fxRound md (decide (x < 0)) x.natAbs 0

/-- ln x for x > 0. -/
def logV (md : Mode) (m : Nat) (e : Int) : FRes :=
  if dyInt m e = some 1 then exactRes 0 0 md else fxSigned md (fxLog m e)

/-- The exponent of a power of two. -/
def powerOf (m : Nat) (e : Int) : Option Int :=
  if m = 2 ^ (bitLen m - 1) then some ((bitLen m : Int) - 1 + e) else none

/-- log2 x for x > 0. -/
def log2V (md : Mode) (m : Nat) (e : Int) : FRes :=
  match powerOf m e with
  | some k => ofIntV fmtF32 md k
  | none => fxSigned md (fxDiv (fxLog m e) fxLn2)

/-- 1/√x for x > 0. -/
def rsqrtV (md : Mode) (m : Nat) (e : Int) : FRes :=
  let odd := e % 2 ≠ 0
  let n := if odd then 2 * m else m
  let h : Int := (if odd then e - 1 else e) / 2
  let r := isqrt (2 ^ 400 / n) 202
  if r * r * n = 2 ^ 400 then roundF fmtF32 md false r (-200 - h) else roundF fmtF32 md false (2 * r + 1) (-201 - h)

/-- The quarter turn that x lies in and the rest, on the fixed point. -/
def trigParts (s : Bool) (m : Nat) (e : Int) : Int × Int :=
  let x : Int := if s then -(fxOf m e : Int) else fxOf m e
  let h := fxPi / 2
  let k := (2 * x + h) / (2 * h)
  (k % 4, x - k * h)

/-- The quarter turns of a sine: 0 sine, 1 cosine, 2 and 3 their negatives. -/
def trigV (md : Mode) (q r : Int) : FRes :=
  let v := if q % 2 = 0 then fxSin r else fxCos r
  fxSigned md (if q % 4 < 2 then v else -v)

/-- sin x. The fraction of π/2 carries 640 bits, and x has at most 128 integer bits. -/
def sinV (md : Mode) (s : Bool) (m : Nat) (e : Int) : FRes :=
  if m = 0 then exactRes (signOf fmtF32 s) 0 md
  else if isTiny m e then justBelow md s m e
  else
    let r := trigParts s m e
    trigV md r.1 r.2

/-- cos x. -/
def cosV (md : Mode) (s : Bool) (m : Nat) (e : Int) : FRes :=
  if m = 0 then exactRes 0x3F800000 0 md
  else if isTiny m e then justBelow md false 1 0
  else
    let r := trigParts s m e
    trigV md (r.1 + 1) r.2

/-- tanh x = (y − 1) / (y + 1) with y = e^(2x). -/
def tanhV (md : Mode) (s : Bool) (m : Nat) (e : Int) : FRes :=
  if m = 0 then exactRes (signOf fmtF32 s) 0 md
  else if isTiny m e then justBelow md s m e
  else if dyAbove m e 50 then justBelow md s 1 0
  else
    let r := expParts false m (e + 1)
    let y := r.1 * 2 ^ r.2.toNat
    fxRound md s (fxDiv (y - (2 ^ fxF : Nat)) (y + (2 ^ fxF : Nat))) 0

/-- 1 / (1 + e^−x). -/
def sigmV (md : Mode) (s : Bool) (m : Nat) (e : Int) : FRes :=
  if m = 0 then exactRes 0x3F000000 0 md
  else if dyAbove m e 200 then (if s then roundF fmtF32 md false 1 (-400) else justBelow md false 1 0)
  else
    let r := expParts false m e
    let y := r.1 * 2 ^ r.2.toNat
    let one : Int := (2 ^ fxF : Nat)
    fxRound md false (if s then fxDiv one (one + y) else fxDiv y (one + y)) 0

/-- erf x. -/
def erfV (md : Mode) (s : Bool) (m : Nat) (e : Int) : FRes :=
  if m = 0 then exactRes (signOf fmtF32 s) 0 md
  else if dyAbove m e 6 then justBelow md s 1 0
  else
    let x : Int := fxOf m e
    fxRound md s (fxDiv (2 * fxErfSum (fxMul x x) x x 1 400) fxSqrtPi) 0

end Sys2Proof.Machine
end

