-- ==== Sys2Proof/Machine/Lanes.lean ====
section
/-! DEFINITION. What vector entries compute, lane by lane (spec/14 R324, R333, R338, R341–R349, spec/11 R258): pure
functions on lanes and masks. -/

namespace Sys2Proof.Machine

/-! ### Types in lanes and in memory (R324, R338) -/

/-- Element size in nibbles. -/
def nibblesOf (t : LaneTy) : Nat :=
  match t with
  | .f32 | .s32 | .n32 => 8
  | .bf16 | .c8 => 4
  | .e4m3 | .s8 | .n8 | .c4 => 2
  | .e2m1 | .s4 | .n4 => 1

/-- The low `n` bits of a number, sign-extended to `w` bits. -/
def sextTo (x n w : Nat) : Nat := ((BitVec.ofNat n x).signExtend w).toNat

/-- LaneForm of an element (R324). -/
def laneForm (t : LaneTy) (x : Nat) : W32 :=
  match t with
  | .f32 | .s32 | .n32 => BitVec.ofNat 32 x
  | .bf16 => BitVec.ofNat 32 (x % 2 ^ 16)
  | .e4m3 | .n8 => BitVec.ofNat 32 (x % 2 ^ 8)
  | .e2m1 | .n4 => BitVec.ofNat 32 (x % 2 ^ 4)
  | .s8 => BitVec.ofNat 32 (sextTo x 8 32)
  | .s4 => BitVec.ofNat 32 (sextTo x 4 32)
  | .c8 => BitVec.ofNat 32 (sextTo (x / 256) 8 16 * 2 ^ 16 + sextTo x 8 16)
  | .c4 => BitVec.ofNat 32 (sextTo (x / 16) 4 16 * 2 ^ 16 + sextTo x 4 16)

/-- MemForm of a lane (R338). -/
def memForm (t : LaneTy) (x : W32) : Nat :=
  match t with
  | .c8 => x.toNat % 256 + x.toNat / 2 ^ 16 % 256 * 256
  | .c4 => x.toNat % 16 + x.toNat / 2 ^ 16 % 16 * 16
  | _ => x.toNat % 2 ^ (4 * nibblesOf t)

/-- The two parts of a complex lane, signed. -/
def complexParts (x : W32) : Int × Int := ((x.setWidth 16).toInt, ((x >>> 16).setWidth 16).toInt)

/-! ### Masks (R324, R333) -/

/-- The `n` low bits of a mask. -/
def maskN (n : Nat) (m : BitVec 256) : BitVec 256 := m &&& BitVec.ofNat 256 (2 ^ n - 1)

/-- Bit i of the result from a list, bit 0 first. -/
def maskOf (bs : List Bool) : BitVec 256 := BitVec.ofNat 256 (bs.foldr (fun b n => 2 * n + bit b) 0)

/-- Lanes 0 to n − 1 of a register; a lane not listed reads 0. -/
def lanesN (n : Nat) (v : List W32) : List W32 := (List.range n).map fun i => v.getD i 0

/-- Active lanes take the new value, the others keep theirs (R333). -/
def mergeLanes (act : List Bool) (new old : List W32) : List W32 :=
  (act.zip (new.zip old)).map fun x => if x.1 then x.2.1 else x.2.2

/-! ### Two-source arithmetic (R341, R342) -/

/-- An integer of 32 bits as a type sees it. -/
def intOf (t : LaneTy) (x : W32) : Int := if t = .n32 then (x.toNat : Int) else x.toInt

def laneInt (x : Int) : W32 := BitVec.ofInt 32 x

/-- The range of an integer type (R231). -/
def intRange (t : LaneTy) : Int × Int :=
  match t with
  | .n32 => (0, 2 ^ 32 - 1)
  | .s8 => (-128, 127)
  | .n8 => (0, 255)
  | .s4 => (-8, 7)
  | .n4 => (0, 15)
  | _ => (-(2 ^ 31), 2 ^ 31 - 1)

/-- Clamped to a type, with SAT. -/
def laneClamp (t : LaneTy) (x : Int) : W32 × Flags :=
  let c := clampI x (intRange t).1 (intRange t).2
  (laneInt c.1, c.2)

/-- One lane of R341. -/
def binLane (f : VBin) (t : LaneTy) (md : Mode) (a b : W32) : W32 × Flags :=
  let fl := decide (t = .f32)
  let k := b.toNat % 32
  match f with
  | .add => if fl then faddOp md a b else (a + b, 0)
  | .sub => if fl then fsubOp md a b else (a - b, 0)
  | .mul => if fl then fmulOp md a b else (a * b, 0)
  | .div => fdivOp md a b
  | .min => (if fl then fminOp a b else if intOf t a ≤ intOf t b then a else b, 0)
  | .max => (if fl then fmaxOp a b else if intOf t b ≤ intOf t a then a else b, 0)
  | .and => (a &&& b, 0)
  | .or => (a ||| b, 0)
  | .xor => (a ^^^ b, 0)
  | .sll => (a <<< k, 0)
  | .srl => (a >>> k, 0)
  | .sra => (a.sshiftRight k, 0)
  | .adds => laneClamp t (intOf t a + intOf t b)
  | .subs => laneClamp t (intOf t a - intOf t b)

/-- Sources that R241 treats as arithmetic uses. -/
def binSub (f : VBin) (t : LaneTy) : Bool :=
  decide (t = .f32) && (match f with | .add | .sub | .mul | .div => true | _ => false)

/-- One lane of `vabs` and `vneg` (R341). -/
def unLane (f : VUn) (t : LaneTy) (a : W32) : W32 :=
  match f with
  | .abs => if t = .f32 then a &&& 0x7FFFFFFF else if a.toInt < 0 then -a else a
  | .neg => if t = .f32 then a ^^^ 0x80000000 else -a

/-- One lane of R343. -/
def triLane (f : VTri) (md : Mode) (a b c : W32) : W32 × Flags :=
  match f with
  | .fma => fmaOp md false false a b c
  | .fms => fmaOp md false true a b c
  | .fnma => fmaOp md true true a b c
  | .fnms => fmaOp md true false a b c
  | .madS | .madN => (a * b + c, 0)

def triSub (f : VTri) : Bool := match f with | .madS | .madN => false | _ => true

/-- One lane of R344. -/
def cmpLane (f : VCmp) (t : LaneTy) (a b : W32) : Bool :=
  let fl := decide (t = .f32)
  match f with
  | .eq => if fl then feqOp a b else a == b
  | .ne => !(if fl then feqOp a b else a == b)
  | .lt => if fl then fltOp a b else decide (intOf t a < intOf t b)
  | .le => if fl then fleOp a b else decide (intOf t a ≤ intOf t b)
  | .unord => funordOp a b
  | .ltt => decide ((keyOf a).toNat < (keyOf b).toNat)

/-- Mask operations of R345 on `n` lanes. -/
def mskOp (f : VMsk) (n : Nat) (a b : BitVec 256) : BitVec 256 :=
  maskN n (match f with
    | .and => a &&& b
    | .or => a ||| b
    | .xor => a ^^^ b
    | .andn => a &&& ~~~b
    | .not => ~~~a)

/-! ### Permutes (R346) -/

/-- The active lanes in ascending order, then zeros. -/
def compLanes (act : List Bool) (a : List W32) : List W32 :=
  let xs := ((act.zip a).filter (·.1)).map (·.2)
  xs ++ List.replicate (a.length - xs.length) 0

/-- Active lane i takes lane p of the source, p the count of active lanes below i. -/
def expdLanes (act : List Bool) (a old : List W32) (p : Nat) : List W32 :=
  match act, old with
  | true :: r, _ :: o => a.getD p 0 :: expdLanes r a o (p + 1)
  | false :: r, x :: o => x :: expdLanes r a o p
  | _, _ => []

/-! ### Conversions (R347) -/

/-- The sources of a conversion that R241 treats as arithmetic uses, and the format of their subnormals. -/
def cvtSub (t s : LaneTy) : Option Fmt :=
  match s, t with
  | .f32, .s32 | .f32, .n32 | .f32, .s8 | .f32, .n8 | .f32, .s4 | .f32, .n4 | .f32, .bf16 => some fmtF32
  | .bf16, .f32 => some fmtBf16
  | _, _ => none

/-- f32 to an integer type (R248). -/
def cvtToInt (t : LaneTy) (md : Mode) (a : W32) : FRes :=
  let v := srcF fmtF32 md a.toNat
  let r := toIntV md v.1 (intRange t).1 (intRange t).2
  { bits := (laneInt r.1).toNat, flags := r.2.1 ||| v.2, rs := r.2.2 }

/-- An integer lane to an f32 or bf16 (R249). -/
def cvtOfInt (t s : LaneTy) (md : Mode) (a : W32) : FRes :=
  ofIntV (if t = .bf16 then fmtBf16 else fmtF32) md
    (match s with | .n32 | .n8 | .n4 => (a.toNat : Int) | _ => a.toInt)

/-- One lane of `vcvt.t.s` (R347). -/
def cvtLane (t s : LaneTy) (md : Mode) (a : W32) : FRes :=
  match s, t with
  | .f32, .bf16 => convF fmtF32 fmtBf16 md true a.toNat
  | .f32, .e4m3 => convF fmtF32 fmtE4m3 md false a.toNat
  | .f32, .e2m1 => convF fmtF32 fmtE2m1 md false a.toNat
  | .f32, _ => cvtToInt t md a
  | .s32, .s8 | .s32, .s4 | .n32, .n8 | .n32, .n4 =>
    let c := laneClamp t (intOf s a)
    exactRes c.1.toNat c.2 md
  | .bf16, .f32 => convF fmtBf16 fmtF32 md true (a.toNat % 2 ^ 16)
  | .e4m3, .f32 => convF fmtE4m3 fmtF32 md false (a.toNat % 2 ^ 8)
  | .e2m1, .f32 => convF fmtE2m1 fmtF32 md false (a.toNat % 2 ^ 4)
  | .e2m1, .e4m3 => convF fmtE2m1 fmtE4m3 md false (a.toNat % 2 ^ 4)
  | .c8, .c4 =>
    let p := complexParts a
    let re := clampI p.1 (-8) 7
    let im := clampI p.2 (-8) 7
    exactRes ((BitVec.ofInt 16 im.1).toNat * 2 ^ 16 + (BitVec.ofInt 16 re.1).toNat) (re.2 ||| im.2) md
  | .c4, .c8 => exactRes a.toNat 0 md
  | _, _ => cvtOfInt t s md a

/-! ### Special functions (R348) -/

/-- Arguments at which a function is exact or invalid, then the general case of a finite nonzero argument. -/
def fnVal (f : VFun) (md : Mode) (v : FVal) : FRes :=
  let inf := fun (s : Bool) => exactRes (infF fmtF32 s) 0 md
  let zero := fun (s : Bool) => exactRes (signOf fmtF32 s) 0 md
  let one := fun (s : Bool) => exactRes (signOf fmtF32 s + 0x3F800000) 0 md
  let invalid := nanRes fmtF32 flNV md
  match v with
  | .nan => nanRes fmtF32 0 md
  | .inf s =>
    match f with
    | .exp | .exp2 => if s then zero false else inf false
    | .log | .log2 => if s then invalid else inf false
    | .rcp => zero s
    | .sqrt => sqrtV fmtF32 md v
    | .rsqrt => if s then invalid else zero false
    | .sin | .cos => invalid
    | .tanh | .erf => one s
    | .sigm => if s then zero false else one false
  | .fin s m e =>
    match f with
    | .exp => expV md s m e
    | .exp2 => exp2V md s m e
    | .log => if m = 0 then exactRes (infF fmtF32 true) flDZ md else if s then invalid else logV md m e
    | .log2 => if m = 0 then exactRes (infF fmtF32 true) flDZ md else if s then invalid else log2V md m e
    | .rcp => divV fmtF32 md (.fin false 1 0) v
    | .sqrt => sqrtV fmtF32 md v
    | .rsqrt => if m = 0 then exactRes (infF fmtF32 s) flDZ md else if s then invalid else rsqrtV md m e
    | .sin => sinV md s m e
    | .cos => cosV md s m e
    | .tanh => tanhV md s m e
    | .sigm => sigmV md s m e
    | .erf => erfV md s m e

/-- One lane of R348. -/
def fnLane (f : VFun) (md : Mode) (a : W32) : W32 × Flags :=
  let x := srcF fmtF32 md a.toNat
  let r := fnVal f md x.1
  (BitVec.ofNat 32 r.bits, r.flags ||| x.2)

/-! ### Reductions (R258, R349) -/

/-- Two nodes of the tree; an absent one leaves the other unchanged. -/
def redNode (op : W32 → W32 → W32 × Flags) (a b : Option W32) : Option W32 × Flags :=
  match a, b with
  | some x, some y => (some (op x y).1, (op x y).2)
  | some x, none => (some x, 0)
  | none, y => (y, 0)

/-- One level of the tree. -/
def redLevel (op : W32 → W32 → W32 × Flags) (xs : List (Option W32)) : List (Option W32) × Flags :=
  match xs with
  | a :: b :: r =>
    let n := redNode op a b
    let t := redLevel op r
    (n.1 :: t.1, n.2 ||| t.2)
  | xs => (xs, 0)

/-- The root of the tree and the flags of its nodes. -/
def redTree (op : W32 → W32 → W32 × Flags) (xs : List (Option W32)) (fuel : Nat) : Option W32 × Flags :=
  match fuel with
  | 0 => (xs.headD none, 0)
  | n + 1 =>
    if xs.length ≤ 1 then (xs.headD none, 0)
    else
      let l := redLevel op xs
      let r := redTree op l.1 n
      (r.1, l.2 ||| r.2)

/-- The operation of a reduction (R349). -/
def redOp (f : VRed) (t : LaneTy) (md : Mode) (a b : W32) : W32 × Flags :=
  match f with
  | .sum => binLane .add t md a b
  | .max => binLane .max t md a b
  | .min => binLane .min t md a b
  | .maxt => (fmaxtOp a b, 0)
  | .mint => (fmintOp a b, 0)
  | .and => (a &&& b, 0)
  | .or => (a ||| b, 0)
  | .xor => (a ^^^ b, 0)

/-- The result where no lane is active (R349). -/
def redEmpty (f : VRed) (t : LaneTy) : W32 :=
  match f, t with
  | .sum, _ => 0
  | .max, .f32 => 0xFF800000
  | .max, .s32 => 0x80000000
  | .max, _ => 0
  | .min, .f32 => 0x7F800000
  | .min, .s32 => 0x7FFFFFFF
  | .min, _ => 0xFFFFFFFF
  | .maxt, _ => 0xFFFFFFFF
  | .mint, _ => 0x7FFFFFFF
  | .and, _ => 0xFFFFFFFF
  | .or, _ => 0
  | .xor, _ => 0

/-- A lane written to a g register: f32 and n32 zero-extended, s32 sign-extended (R349). -/
def laneWord (t : LaneTy) (x : W32) : Word := if t = .s32 then x.signExtend 64 else x.setWidth 64

/-! ### The registers of an entry -/

/-- Vector registers that an entry reads as sources (R331, R337). -/
def VecOp.vreads (o : VecOp) : List Reg :=
  match o with
  | .bin _ _ a b _ _ | .cmp _ _ a b _ _ => [a, b]
  | .un _ _ a _ _ | .cvt _ a _ _ _ | .fn _ _ a _ | .red _ _ a _ _ | .ext _ a _ | .sk _ _ a _ _ _ => [a]
  | .tri _ _ a b c _ => [a, b, c]
  | .mov f _ a b _ => match f with | .bcast => [] | .shuf => [a, b] | _ => [a]
  | .st d _ _ _ _ => [d]
  | .stx d _ b _ _ => [d, b]
  | .ldx _ _ b _ _ => [b]
  | .msk _ _ _ _ | .mpop _ _ | .mfrst _ _ | .mfromg _ _ | .mtog _ _ | .ins _ _ _ | .ld _ _ _ _ _ => []

/-- The vector register that an entry writes. -/
def VecOp.vwrite (o : VecOp) : Option Reg :=
  match o with
  | .bin _ d _ _ _ _ | .un _ d _ _ _ | .tri _ d _ _ _ _ | .mov _ d _ _ _ | .ins d _ _ | .cvt d _ _ _ _ | .fn _ d _ _
  | .ld d _ _ _ _ | .ldx d _ _ _ _ => some d
  | .cmp _ _ _ _ _ _ | .msk _ _ _ _ | .mpop _ _ | .mfrst _ _ | .mfromg _ _ | .mtog _ _ | .ext _ _ _ | .red _ _ _ _ _
  | .sk _ _ _ _ _ _ | .st _ _ _ _ _ | .stx _ _ _ _ _ => none

/-- The g register that an entry leaves pending (R331). -/
def VecOp.gDest (o : VecOp) : Option Reg :=
  match o with
  | .mpop d _ | .mfrst d _ | .mtog d _ | .ext d _ _ | .red _ d _ _ _ => some d
  | _ => none

/-- The counter that an entry is charged to (R332, R360). -/
def VecOp.cls (o : VecOp) : CntClass :=
  match o with
  | .ld _ _ _ _ _ | .ldx _ _ _ _ _ => .loads
  | .st _ _ _ _ _ | .stx _ _ _ _ _ | .sk _ _ _ _ _ _ => .stores
  | _ => .none

/-- Entries of a sequencer in queue order, a loop's body once (R406). -/
def seqAll (q : List SeqEntry) (l : Option VLoop) : List SeqEntry :=
  match l with
  | some l => q.take l.ahead ++ l.body ++ q.drop l.ahead
  | none => q

/-- An entry joins or leaves the counters and the pending registers of its process (R331, R332). -/
def Proc.takeEntry (p : Proc) (e : SeqEntry) : Proc :=
  let p := { p with cnt := p.cnt.up e.op.cls }
  match e.op.gDest with | some r => p.setPend r | none => p

def Proc.dropEntry (p : Proc) (e : SeqEntry) : Proc :=
  let p := { p with cnt := p.cnt.down e.op.cls }
  match e.op.gDest with | some r => p.clearPend r | none => p

/-! ### A compute entry -/

/-- What an entry writes when it retires. -/
structure VecOut where
  v : Option (Reg × List W32)
  m : Option (MReg × BitVec 256)
  g : Option (Reg × Word)
  flags : Flags
  rs : Word
  deriving DecidableEq, Repr

/-- The sources of an entry: N, the lanes of a register, the bits of a mask register. -/
structure VecIn where
  n : Nat
  v : Vector (List W32) 32
  m : Vector (BitVec 256) 8
  rs : Word

def VecIn.lanes (x : VecIn) (r : Reg) : List W32 := lanesN x.n (x.v[r.toNat]'r.isLt)

/-- m0 reads as all ones (R324). -/
def VecIn.mask (x : VecIn) (k : MReg) : BitVec 256 :=
  maskN x.n (if k = 0 then BitVec.allOnes 256 else x.m[k.toNat]'k.isLt)

/-- The active lanes of an entry (R333). -/
def VecIn.act (x : VecIn) (k : MReg) : List Bool := (List.range x.n).map (x.mask k).getLsbD

/-- Lanes computed one by one, with the union of the flags of the active ones. -/
def perLane (act : List Bool) (xs : List (W32 × Flags)) (old : List W32) : List W32 × Flags :=
  (mergeLanes act (xs.map (·.1)) old,
   (act.zip xs).foldl (fun f x => if x.1 then f ||| x.2.2 else f) 0)

/-- The lowest active lane with a subnormal source (R241). -/
def subLane (f : Fmt) (act : List Bool) (srcs : List (List W32)) : Option Nat :=
  (List.range act.length).find? fun i => act.getD i false && srcs.any fun l => isSubF f (l.getD i 0).toNat

/-- A conversion of the active lanes in ascending order; each draw of RS is kept (R243). -/
def cvtLanes (t s : LaneTy) (md : Mode) (act : List Bool) (a old : List W32) : List W32 × Flags × Word :=
  match act, a, old with
  | true :: r, x :: a, _ :: o =>
    let c := cvtLane t s md x
    let n := cvtLanes t s { md with rs := c.rs } r a o
    (BitVec.ofNat 32 c.bits :: n.1, c.flags ||| n.2.1, n.2.2)
  | false :: r, _ :: a, y :: o =>
    let n := cvtLanes t s md r a o
    (y :: n.1, n.2.1, n.2.2)
  | _, _, _ => ([], 0, md.rs)

/-- The sources of an entry under R241: the format and the registers. -/
def VecOp.subSources (o : VecOp) : Option (Fmt × MReg × List Reg) :=
  match o with
  | .bin f _ a b m t => if binSub f t then some (fmtF32, m, [a, b]) else none
  | .tri f _ a b c m => if triSub f then some (fmtF32, m, [a, b, c]) else none
  | .cvt _ a m t s => (cvtSub t s).map fun f => (f, m, [a])
  | .fn _ _ a m => some (fmtF32, m, [a])
  | .red .sum _ a m .f32 => some (fmtF32, m, [a])
  | _ => none

/-- In TRAP mode, the lane whose subnormal source raises FP_SUBNORMAL (R241). -/
def VecOp.trapLane (o : VecOp) (x : VecIn) (fcr : Word) : Option Nat :=
  if field fcr 3 2 = 0 then
    match o.subSources with
    | some (f, m, rs) => subLane f (x.act m) (rs.map x.lanes)
    | none => none
  else none

/-- A lane index that `vins` or `vext` names and that does not exist (R346). -/
def VecOp.badIndex (o : VecOp) (n : Nat) (gb : Word) : Bool :=
  match o with
  | .ins _ _ _ | .ext _ _ _ => decide (n ≤ gb.toNat)
  | _ => false

/-- What a compute entry writes; memory and summary entries write nothing here. -/
def vecCompute (o : VecOp) (x : VecIn) (ga gb fcr : Word) : VecOut :=
  let md := Mode.ofFcr fcr false x.rs
  let none_ : VecOut := { v := none, m := none, g := none, flags := 0, rs := x.rs }
  let lanes := fun (d : Reg) (m : MReg) (xs : List (W32 × Flags)) =>
    let r := perLane (x.act m) xs (x.lanes d)
    ({ none_ with v := some (d, r.1), flags := r.2 } : VecOut)
  match o with
  | .bin f d a b m t => lanes d m (((x.lanes a).zip (x.lanes b)).map fun p => binLane f t md p.1 p.2)
  | .un f d a m t => lanes d m ((x.lanes a).map fun p => (unLane f t p, 0))
  | .tri f d a b c m =>
    lanes d m (((x.lanes a).zip ((x.lanes b).zip (x.lanes c))).map fun p => triLane f md p.1 p.2.1 p.2.2)
  | .cmp f d a b m t =>
    let bs := ((x.act m).zip ((x.lanes a).zip (x.lanes b))).map fun p => p.1 && cmpLane f t p.2.1 p.2.2
    { none_ with m := some (d, maskOf bs) }
  | .msk f d a b => { none_ with m := some (d, mskOp f x.n (x.mask a) (x.mask b)) }
  | .mpop d a => { none_ with g := some (d, BitVec.ofNat 64 (popCount (x.mask a).toNat x.n)) }
  | .mfrst d a => { none_ with g := some (d, BitVec.ofNat 64 (((x.act a).findIdx? id).getD x.n)) }
  | .mfromg d _ => { none_ with m := some (d, maskN x.n (ga.setWidth 256)) }
  | .mtog d a => { none_ with g := some (d, (x.mask a).setWidth 64) }
  | .mov f d a b m =>
    let xs := x.lanes a
    let act := x.act m
    match f with
    | .mov => lanes d m (xs.map fun p => (p, 0))
    | .bcast => lanes d m (List.replicate x.n (toW32 ga, 0))
    | .rot => lanes d m ((List.range x.n).map fun i => (xs.getD ((i + gb.toNat % x.n) % x.n) 0, 0))
    | .shuf => lanes d m ((x.lanes b).map fun p => (xs.getD (p.toNat % x.n) 0, 0))
    | .comp => { none_ with v := some (d, compLanes act xs) }
    | .expd => { none_ with v := some (d, expdLanes act xs (x.lanes d) 0) }
  | .ins d _ _ => { none_ with v := some (d, (x.lanes d).set gb.toNat (toW32 ga)) }
  | .ext d a _ => { none_ with g := some (d, ofW32 ((x.lanes a).getD gb.toNat 0)) }
  | .cvt d a m t s =>
    let r := cvtLanes t s (Mode.ofFcr fcr true x.rs) (x.act m) (x.lanes a) (x.lanes d)
    { none_ with v := some (d, r.1), flags := r.2.1, rs := r.2.2 }
  | .fn f d a m => lanes d m ((x.lanes a).map (fnLane f md))
  | .red f d a m t =>
    let xs := ((x.act m).zip (x.lanes a)).map fun p => if p.1 then some p.2 else none
    let r := redTree (redOp f t md) xs 9
    { none_ with g := some (d, laneWord t (r.1.getD (redEmpty f t))), flags := r.2 }
  | .sk _ _ _ _ _ _ | .ld _ _ _ _ _ | .st _ _ _ _ _ | .ldx _ _ _ _ _ | .stx _ _ _ _ _ => none_

/-! ### Streams as the head entry meets them (R334, R336, R337) -/

/-- A core's stream queue holds 32 units of 64 bytes (R336). -/
def streamRoom : Nat := 2048
def State.queueOf (s : State) (core k : Nat) : List Byte := SMap.get [] s.streams (8 * core + k)
def State.setQueue (s : State) (core k : Nat) (bs : List Byte) : State :=
  { s with streams := SMap.put [] s.streams (8 * core + k) bs }

/-- N of a process (R324). -/
def Proc.laneCount (p : Proc) : Nat := 16 * field p.vgrant 0 5

/-- The stream bound to a vector register, and whether it is an output. -/
def Proc.boundTo (p : Proc) (r : Reg) : Option (Nat × Bool) :=
  if 24 ≤ r.toNat ∧ p.bound.getLsbD (r.toNat - 24) then some (r.toNat - 24, p.dir.getLsbD (r.toNat - 24)) else none

/-- What the streams bound to an entry's registers allow (R337). -/
inductive StreamRes where
  | ok (ins : List Nat) (out : Option Nat)
  | wait
  | bad
  deriving DecidableEq, Repr

def State.streamsOf (s : State) (p : Proc) (o : VecOp) : StreamRes :=
  let n := 4 * p.laneCount
  let rd := o.vreads.eraseDups.filterMap p.boundTo
  let wr := o.vwrite.bind p.boundTo
  if rd.any (·.2) || wr.any (fun w => !w.2) then .bad
  else if rd.any (fun k => decide ((s.queueOf p.core k.1).length < n)) ||
      wr.any (fun k => decide (streamRoom < (s.queueOf p.core k.1).length + n)) then .wait
  else .ok (rd.map (·.1)) (wr.map (·.1))

/-- The entry at the head, with its iteration (R334). -/
def Proc.headEntry (p : Proc) : Option (SeqEntry × Nat) :=
  match p.vloop with
  | some l => if l.ahead = 0 then (l.body[l.next]?).map fun e => (e, l.iter) else p.seq.head?.map fun e => (e, 0)
  | none => p.seq.head?.map fun e => (e, 0)

end Sys2Proof.Machine
end

