-- ==== Sys2Proof/Machine/Log.lean ====
section
/-! DEFINITION. The sync-order log and replay (spec/07 R159–R163): the gate that each loggable event passes, the
staging buffers, the ring, and the log registers. -/

namespace Sys2Proof.Machine

/-- What the gate answers: go on, wait, or the expected record that the event contradicts (R162, R163). -/
inductive Gate where
  | pass (s : State)
  | hold
  | diverge (expected : Word)
  deriving DecidableEq, Repr

/-- The launch that a process belongs to. -/
def State.launchOf (s : State) (p : Proc) : Option Launch :=
  match p.launch with
  | none => none
  | some (t, i) => SMap.get none s.launches (256 * t + i)

/-- A process takes part in its context's log: record bit, and in check mode run B only (R159, R162). -/
def State.logged (s : State) (p : Proc) : Bool :=
  match s.launchOf p with
  | some l => l.record && l.check != 1
  | none => false

/-- The number of an object's counter in its table (R160). -/
def counterNo (obj : Nat) : Nat := field (mix64 (BitVec.ofNat 64 (obj % 2 ^ 48))) 54 10

/-- The next sequence number of an object, and the state that keeps it. Channels keep theirs at +48 (R160). -/
def State.nextSeq (s : State) (c : Byte) (unit : Nat) (chan : Bool) (obj : Nat) : Nat × State :=
  let x := s.ctx c
  if chan then
    let w := s.peek (obj + 48)
    let n := if field w 32 32 = x.epoch.toNat then field w 0 32 + 1 else 1
    (n, s.poke (obj + 48) (BitVec.ofNat 64 (x.epoch.toNat * 2 ^ 32 + n % 2 ^ 32)))
  else
    let k := 1024 * unit + counterNo obj
    let n := SMap.get 0 x.counters k + 1
    (n, s.updCtx c fun x => { x with counters := SMap.put 0 x.counters k n })

/-- Word 0 and word 1 of a log record (R160). -/
def logWords (kind lcore slot seq detail obj : Nat) : LogRec :=
  { w0 := BitVec.ofNat 64 (kind % 64 * 2 ^ 58 + lcore % 1024 * 2 ^ 48 + slot % 8 * 2 ^ 45 + seq % 2 ^ 32),
    w1 := BitVec.ofNat 64 (detail % 2 ^ 16 * 2 ^ 48 + obj % 2 ^ 48) }

/-- Where record `n` of a context's ring stands, through the context's translation (R161, R163). -/
def State.ringAt (s : State) (c : Byte) (n : Nat) : Option Nat :=
  let x := s.ctx c
  match checkAccess s (sillSeat 0) c (x.logbase + BitVec.ofNat 64 (16 * (n % 2 ^ field x.logsize 0 5))) 16 needRd false with
  | .ok pa _ => some pa
  | .miss space a =>
    (match walk s.mem c space ((s.desc c).root space) a with
     | .ok e => (match useTlb e space a needRd with | .ok pa _ => some pa | _ => none)
     | .error _ => none)
  | _ => none

/-- Records `n` and on of the ring, up to `k` of them and to the first that cannot be read. -/
def State.ringRecords (s : State) (c : Byte) (n k : Nat) : List LogRec :=
  match k with
  | 0 => []
  | j + 1 =>
    match s.ringAt c n with
    | some a => { w0 := s.peek a, w1 := s.peek (a + 8) } :: s.ringRecords c (n + 1) j
    | none => []

/-- Records of the ring from TAIL up to HEAD that are not filed yet are filed (R163). DEDUCED, log entry 69. -/
def State.fileReplay (s : State) (c : Byte) : State :=
  let x := s.ctx c
  let new := (s.ringRecords c x.filed (x.loghead.toNat - x.filed)).map fun r => ((0 : Nat), r)
  s.updCtx c fun y => { y with replay := y.replay ++ new.filter fun e => decide (field e.2.w0 58 6 ≠ 63),
                               filed := x.filed + new.length, logtail := BitVec.ofNat 64 (x.filed + new.length) }

/-- The expected record for an object: the smallest sequence not consumed (R163). -/
def expectedRec (rs : List (Nat × LogRec)) (obj : Nat) : Option LogRec :=
  (rs.filter fun e => field e.2.w1 0 48 = obj % 2 ^ 48).foldl
    (fun best e => match best with
      | none => some e.2
      | some b => if field e.2.w0 0 32 < field b.w0 0 32 then some e.2 else some b) none

/-- Records that a deciding unit holds in its buffer, of whatever context (R162). -/
def State.stagedAtUnit (s : State) (unit : Nat) : Nat :=
  (s.ctxs.map fun e => (e.2.staging.filter fun x => decide (x.1 = unit)).length).foldl (· + ·) 0

/-- Every loggable event passes here before it is performed. `unit` is the deciding unit (R159–R163). DEDUCED, log entry 69. -/
def State.logGate (s : State) (p : Proc) (kind unit : Nat) (chan : Bool) (lcore slot obj detail : Nat) : Gate :=
  if !s.logged p then .pass s
  else if (s.ctx p.ctx).logctl.getLsbD 0 then
    let s := s.fileReplay p.ctx
    let x := s.ctx p.ctx
    match expectedRec x.replay obj with
    | none => .diverge 0
    | some r =>
      if field r.w0 45 13 ≠ lcore % 1024 * 8 + slot % 8 then .hold
      else if field r.w0 58 6 ≠ kind || field r.w1 48 16 ≠ detail % 2 ^ 16 then .diverge r.w0
      else
        let q := s.nextSeq p.ctx unit chan obj
        .pass (q.2.updCtx p.ctx fun x => { x with replay := x.replay.filter fun e => decide (e.2 ≠ r) })
  else
    let x := s.ctx p.ctx
    let lg := field x.logsize 0 5
    if lg < 12 || lg > 28 then .pass s
    else
      let mine := (x.staging.filter fun e => e.1 = unit).length
      if s.stagedAtUnit unit ≥ 16 then .hold
      else
        let q := s.nextSeq p.ctx unit chan obj
        let s := q.2.updCtx p.ctx fun x =>
          { x with staging := x.staging ++ [(unit, logWords kind lcore slot q.1 detail obj)],
                   stagedAt := if mine % 4 = 0 then SMap.put 0 x.stagedAt unit s.clk else x.stagedAt }
        let s := if mine % 4 = 3 then s.push (.logUnitWrite p.ctx) else s
        .pass (if mine % 4 = 0 then s.after 1024 (.logPadTimeout p.ctx) else s)

/-- The deciding unit of an owner's events: its part (R162). -/
def ownerUnit (key : Nat) : Nat := 4096 + (if key ≥ 2 ^ 54 then partOf key % 2 ^ 20 else 2 ^ 20 + stackOf key)

end Sys2Proof.Machine
end

