-- ==== Sys2Proof/Machine/Sched.lean ====
section
/-! DEFINITION. Records on their way between slots, queues and the pool (spec/08 R165–R170, spec/09 R203–R207,
spec/16 R406): ready FIFOs, parking and waking, the spill frame, the end of a record. -/

namespace Sys2Proof.Machine

/-! ### Logical cores (R27) -/

/-- Layers in COMPUTE role in rank order, as 4 × tower + layer (R27). -/
def State.computeLayers (s : State) : List Nat := (List.range 8).filter fun i => s.role (i / 4) (i % 4) = 2

/-- The physical core of a logical index (R27). -/
def State.physOf (s : State) (lc : Nat) : Nat :=
  match s.computeLayers[lc / 128]? with
  | some i => i / 4 * 512 + i % 4 * 128 + lc % 128
  | none => 0

/-- The logical index of a physical core; 1,024 where it has none. -/
def State.logicalOf (s : State) (p : Nat) : Nat :=
  match s.computeLayers.findIdx? (· = p / 128) with
  | some k => 128 * k + p % 128
  | none => 1024

/-! ### Perturbed choices (R156) -/

/-- CHK of a candidate that runs in run B of check mode at level 0 (R156). -/
def State.perturbed (s : State) (pids : List Nat) : Option Word :=
  (pids.find? fun q => (s.proc q).chk.getLsbD 1 && decide (s.levelOf (s.proc q).ctx = 0)).map fun q => (s.proc q).chk

/-- The candidates of a choice at level 0: in run B of check mode their order is perturbed (R156). DESIGN CHOICE, log entry 16. -/
def State.shuffled {α : Type} (s : State) (pidOf : α → Nat) (ms : List α) : List α :=
  match s.perturbed (ms.map pidOf) with
  | some c => ms.rotateLeft (Config.perturbation (BitVec.ofNat 32 (field c 32 32)) s.clk)
  | none => ms

/-- The key of an arbiter request: logical core and slot; requests of one slot stand in their sequence (R146). -/
def State.askKey (s : State) (core slot : Nat) : Nat := (s.core core).lcore * 16 + slot

/-! ### Ready FIFOs (R169): lists at the core, chained through LINK in memory -/

/-- LINK of each record of a FIFO names the next one; the last holds 0 (R165). -/
def chainLinks (m : List Host.Cell) (q : List Nat) : List Host.Cell :=
  match q with
  | [] => m
  | [a] => writeWord m (a + 48) 0
  | a :: b :: r => chainLinks (writeWord m (a + 48) (BitVec.ofNat 64 b)) (b :: r)

/-- The FIFO of a priority at a core becomes `q`. -/
def State.setFifo (s : State) (p : Nat) (prio : BitVec 3) (q : List Nat) : State :=
  { (s.updCore p fun c => { c with fifos := c.fifos.set prio.toNat q prio.isLt }) with mem := chainLinks s.mem q }

def State.fifo (s : State) (p : Nat) (prio : BitVec 3) : List Nat := (s.core p).fifos[prio.toNat]'prio.isLt

/-- A record joins the tail of its FIFO, and the core looks for a slot (R169). -/
def State.enqueue (s : State) (p pid : Nat) : State :=
  let prio := (s.proc pid).prio
  (s.setFifo p prio (s.fifo p prio ++ [pid])).push (.slotFill p)

/-- A record joins the head of its FIFO (R186, R203). -/
def State.enqueueHead (s : State) (p pid : Nat) : State :=
  let prio := (s.proc pid).prio
  (s.setFifo p prio (pid :: s.fifo p prio)).push (.slotFill p)

/-- A record leaves its queue. -/
def State.unqueue (s : State) (p pid : Nat) : State :=
  let s := s.updCore p fun c => { c with deque := c.deque.filter (· ≠ pid) }
  let prio := (s.proc pid).prio
  if (s.fifo p prio).contains pid then s.setFifo p prio ((s.fifo p prio).filter (· ≠ pid)) else s

/-- A context is evicted, or its eviction is in progress (R408). -/
def State.ctxOut (s : State) (c : Byte) : Bool :=
  (s.ctx c).evicted || (s.agenda ++ s.blocked).contains (.contextEvict c)

/-- READY records on a core (R182). -/
def State.readyCount (s : State) (p : Nat) : Nat :=
  (List.range 8).foldl (fun n k => n + (s.fifo p (BitVec.ofNat 3 k)).length) 0 + (s.core p).deque.length

/-! ### The spill frame (R406) -/

/-- The frame of a record (R165). -/
def State.frameOf (s : State) (pid : Nat) : Nat :=
  2 * 2 ^ 53 + pid / 2 ^ 47 % 2 * 2 ^ 47 + field (s.peek (pid + 8)) 0 41 * 64

/-- The first thirteen special registers of a frame, in order. -/
def Proc.special (p : Proc) : List Word :=
  [p.fcr, p.fsr, p.smiss, p.tmo, p.dpat, p.seed, p.rs, p.tvec, p.epc, p.tcause, p.tval, p.tstat, p.vgrant]

/-- Words from an address upward. -/
def pokeWords (m : List Host.Cell) (a : Nat) (ws : List Word) : List Host.Cell :=
  match ws with
  | [] => m
  | w :: r => pokeWords (writeWord m a w) (a + 8) r

/-- Words read from an address upward. -/
def peekWords (m : List Host.Cell) (a n : Nat) : List Word := (List.range n).map fun i => readWord m (a + 8 * i)

/-- A wide value as 64-bit words, low first. -/
def wordsOf (x n : Nat) : List Word := (List.range n).map fun i => BitVec.ofNat 64 (x / 2 ^ (64 * i))

def lowPad (ls : List Loop) : List Word :=
  let bottomFirst := ls.reverse
  (List.range 4).flatMap fun i =>
    match bottomFirst[i]? with
    | some l => [l.start, l.stop, l.rem]
    | none => [0, 0, 0]

/-- The scalar part of a frame: +0x000 to +0x4FF. -/
def scalarFrame (p : Proc) (cyclesLeft : Nat) (tower entry : Nat) (belongs : Bool) : List Word :=
  let cnt0 := p.cnt.loads.toNat + p.cnt.stores.toNat * 2 ^ 16 + p.cnt.copies.toNat * 2 ^ 32 + p.cnt.matrix.toNat * 2 ^ 48
  let cnt1 := p.cnt.transfers.toNat + (if p.lease != .none then 2 ^ 16 else 0) +
    (if p.armed.isSome then 2 ^ 17 else 0) + cyclesLeft % 2 ^ 32 * 2 ^ 32
  let seqWords := (List.range 16).flatMap fun i =>
    match (seqAll p.seq p.vloop)[i]? with
    | some e => [BitVec.ofNat 64 (e.word.toNat + (if e.isC then 2 ^ 32 else 0) + 2 ^ 63), e.ga, e.gb, e.fcr]
    | none => [0, 0, 0, 0]
  let vl := match p.vloop with
    | some l => [l.left, BitVec.ofNat 64 (l.len + l.next * 2 ^ 8 + l.iter % 2 ^ 32 * 2 ^ 32)]
    | none => [0, 0]
  [p.pc] ++ (p.g.toList.drop 1) ++ p.special ++ [BitVec.ofNat 64 cnt0, BitVec.ofNat 64 cnt1, p.pend.setWidth 64] ++
  lowPad p.loops ++ [BitVec.ofNat 64 p.loops.length, BitVec.ofNat 64 (p.bound.toNat + p.dir.toNat * 256), 0, 0] ++
  seqWords ++ vl ++ p.ext.toList.map ofW32 ++ p.org.toList.map ofW32 ++
  [p.rank.setWidth 64, p.nrank.setWidth 64, p.ctx.setWidth 64, p.chk,
   BitVec.ofNat 64 (entry + tower * 2 ^ 8 + (if belongs then 2 ^ 9 else 0) + p.banks * 2 ^ 16)] ++
  List.replicate 17 0

/-- The mask and lane part of a frame: +0x500 upward. -/
def laneFrame (p : Proc) : List Byte :=
  ((p.m.toList.drop 1).flatMap fun m => natToBytes 32 m.toNat) ++ List.replicate 32 0 ++
  p.v.toList.flatMap fun lanes =>
    (lanes.flatMap fun x => natToBytes 4 x.toNat) ++ List.replicate (1024 - 4 * min 256 lanes.length) 0

/-- Cycles that remain of an armed time-out. -/
def State.cyclesLeft (s : State) (p : Proc) : Nat := (p.armed.getD 0) - s.clkOf p.core

/-- The scalar part is written to the frame (R205). -/
def State.writeScalar (s : State) (p : Proc) : State :=
  let ws := scalarFrame p (s.cyclesLeft p) (p.launch.elim 0 (·.1)) (p.launch.elim 0 (·.2)) p.launch.isSome
  { s with mem := pokeWords s.mem (s.frameOf p.pid) ws }

/-- The spill engine writes the frame (R406). -/
def State.writeFrame (s : State) (p : Proc) : State :=
  (s.writeScalar p).pokeBytes (s.frameOf p.pid + 0x500) (laneFrame p)

/-- The loop stack of a frame, top first. -/
def frameLoops (m : List Host.Cell) (f n : Nat) : List Loop :=
  ((List.range (min 4 n)).map fun i =>
    ({ start := readWord m (f + 0x180 + 24 * i), stop := readWord m (f + 0x188 + 24 * i),
       rem := readWord m (f + 0x190 + 24 * i) } : Loop)).reverse

/-- The place in queue order of queued entry `i` (R406). -/
def seqPlace (l : Option VLoop) (i : Nat) : Nat :=
  match l with
  | some l => if i < l.ahead then i else i + l.body.length
  | none => i

/-- A context restored from its frame (R168, R406); sequencer entries keep their operation and take the captured
values of the frame. -/
def State.readScalar (s : State) (p : Proc) : Proc :=
  let f := s.frameOf p.pid
  let r := fun o => readWord s.mem (f + o)
  let gs := (List.range 32).map fun i => if i = 0 then (0 : Word) else r (8 * i)
  let c0 := r 0x168
  let c1 := r 0x170
  let n := field (r 0x1E0) 0 3
  let entry := fun (i : Nat) (e : SeqEntry) =>
    { e with ga := r (0x208 + 32 * i), gb := r (0x210 + 32 * i), fcr := r (0x218 + 32 * i) }
  { p with pc := r 0, g := Vector.ofFn fun i => gs.getD i.val 0,
           fcr := r 0x100, fsr := r 0x108, smiss := r 0x110, tmo := r 0x118, dpat := r 0x120, seed := r 0x128,
           rs := r 0x130, tvec := r 0x138, epc := r 0x140, tcause := r 0x148, tval := r 0x150, tstat := r 0x158,
           vgrant := r 0x160,
           cnt := { loads := BitVec.ofNat 16 (field c0 0 16), stores := BitVec.ofNat 16 (field c0 16 16),
                    copies := BitVec.ofNat 16 (field c0 32 16), matrix := BitVec.ofNat 16 (field c0 48 16),
                    transfers := BitVec.ofNat 16 (field c1 0 16) },
           pend := BitVec.ofNat 32 (field (r 0x178) 0 32),
           loops := frameLoops s.mem f n, bound := BitVec.ofNat 8 (field (r 0x1E8) 0 8),
           dir := BitVec.ofNat 8 (field (r 0x1E8) 8 8),
           seq := p.seq.mapIdx fun i e => entry (seqPlace p.vloop i) e,
           vloop := p.vloop.map fun l => { l with left := r 0x400, next := field (r 0x408) 8 5,
                                                  iter := field (r 0x408) 32 32,
                                                  body := l.body.mapIdx fun i e => entry (l.ahead + i) e },
           ext := Vector.ofFn fun i => toW32 (r (0x410 + 8 * i.val)),
           org := Vector.ofFn fun i => toW32 (r (0x430 + 8 * i.val)),
           rank := BitVec.ofNat 11 (r 0x450).toNat, nrank := BitVec.ofNat 11 (r 0x458).toNat,
           ctx := BitVec.ofNat 8 (r 0x460).toNat, chk := r 0x468 }

/-- Masks and the first `n` lanes of every vector register from a frame. -/
def State.readLanes (s : State) (p : Proc) (n : Nat) : Proc :=
  let f := s.frameOf p.pid
  { p with m := Vector.ofFn fun k => if k.val = 0 then 0 else BitVec.ofNat 256 (readNat s.mem (f + 0x500 + 32 * (k.val - 1)) 32),
           v := Vector.ofFn fun k => (List.range n).map fun i => BitVec.ofNat 32 (readNat s.mem (f + 0x600 + 1024 * k.val + 4 * i) 4) }

/-- Change a process wherever its context stands: at its core, in its frame, or, of a task, in its record (R170). -/
def State.touch (s : State) (pid : Nat) (f : Proc → Proc) : State :=
  let p := s.proc pid
  if p.pid ≠ pid then s
  else if p.task && p.away then
    let q := { f p with pid := pid }
    { (s.setProc q) with mem := pokeWords s.mem (pid + 16) [q.rg 1, q.rg 2, q.rg 3, q.rg 4] }
  else if p.away then
    let q := { f (s.readScalar p) with pid := pid }
    (s.setProc q).writeScalar q
  else s.updProc pid f

/-! ### Lanes and banks given back (R207, R330, R372) -/

/-- Every lane unit of a process returns to its pool. -/
def State.dropLanes (s : State) (pid : Nat) : State :=
  let p := s.proc pid
  let u := field p.vgrant 0 5
  if u = 0 then s
  else
    let s := s.updProc pid fun p => { p with vgrant := setField p.vgrant 0 5 0, v := Vector.replicate 32 [],
                                             m := Vector.replicate 8 0 }
    let b := p.core / 8
    let s := s.updBench b fun x => { x with used := x.used - u }
    if (s.bench b).claims.isEmpty then s else s.push (.laneGrant b)

/-- The banks of a process become free and its lease ends (R372). -/
def State.dropBanks (s : State) (pid : Nat) : State :=
  let p := s.proc pid
  let b := p.core / 8
  let s := s.updProc pid fun p => { p with lease := .none, banks := 0 }
  let x := s.bench b
  if x.owners.toList.any (fun o => o.elim false fun w => w.1 = pid) || (x.held && x.holder = pid) then
    (s.updBench b fun x =>
      { x with owners := x.owners.map fun o => if o.elim false fun w => w.1 = pid then none else o,
               held := x.held && x.holder != pid }).push (.leaseGrant b)
  else s

/-- An array command, which takes a place in the queue and counts (R370). -/
def MatOp.counts (o : MatOp) : Bool :=
  match o with
  | .req _ | .rel => false
  | _ => true

/-- The matrix queue of a core. -/
def State.mats (s : State) (p : Nat) : List MatItem := SMap.get [] s.matq p
def State.setMats (s : State) (p : Nat) (q : List MatItem) : State := { s with matq := SMap.put [] s.matq p q }

/-- The first item of each process in a matrix queue (R370). -/
def headItems (q : List MatItem) : List MatItem :=
  q.foldl (fun hs i => if hs.any fun h => decide (h.pid = i.pid) then hs else hs ++ [i]) []

/-- The step that executes an array command of a core (R374–R380). -/
def MatOp.step (o : MatOp) (core : Nat) : Ev :=
  match o with
  | .fmt _ | .scl _ _ => .mfmtExecute core
  | .lid _ _ _ _ => .mlidExecute core
  | .clr _ => .mclrExecute core
  | .mac _ _ _ _ => .mmacExecute core
  | .drn _ _ _ _ _ => .mdrnExecute core
  | .req _ => .leaseGrant (core / 8)
  | .rel => .mrelEffect core

/-- The item that the array of a bench takes next: one whose `mrel` takes effect, the lease holder's next command, or,
with no lease in force, what the lease arbiter decides (R370–R372). DEDUCED, log entry 73. -/
def State.nextArray (s : State) (b : Nat) : Option Ev :=
  let x := s.bench b
  let cores := (List.range 8).map fun k => 8 * b + k
  match cores.find? fun p => (headItems (s.mats p)).any fun i => decide (i.op = .rel) with
  | some p => some (.mrelEffect p)
  | none =>
    if x.held then
      (((s.mats (8 * b + x.hcore)).find? fun i => decide (i.pid = x.holder)).bind fun i =>
        if i.op.counts && !i.stopped then some (i.op.step (8 * b + x.hcore)) else none)
    else if cores.any fun p => (headItems (s.mats p)).any fun i => !i.stopped then some (.leaseGrant b)
    else none

/-- The array of a bench goes on (R370). -/
def State.pumpArray (s : State) (b : Nat) : State :=
  match s.nextArray b with
  | some e => if (s.agenda ++ s.blocked).contains e then s else s.push e
  | none => s

/-- An item joins its core's matrix queue (R370). -/
def State.queueMat (s : State) (core : Nat) (i : MatItem) : State :=
  (s.setMats core (s.mats core ++ [i])).pumpArray (core / 8)

/-- Queued array commands of a process leave the queue (R377 DISCARD, R306). -/
def State.dropMatrix (s : State) (pid : Nat) : State :=
  let p := s.proc pid
  { s with matq := SMap.put [] s.matq p.core ((SMap.get [] s.matq p.core).filter fun i => i.pid != pid) }

/-! ### Parking, suspending and waking (R168) -/

/-- A process leaves its slot. -/
def State.freeSlot (s : State) (pid : Nat) : State :=
  let p := s.proc pid
  if h : p.unit < 8 then
    let s := s.updCore p.core fun c => { c with slots := c.slots.set p.unit 0 h }
    (s.updProc pid fun p => { p with unit := 10, lastSlot := 8 * p.core + p.unit }).push (.slotFill p.core)
  else s

/-- A task leaves its slot: it keeps PC and g1–g4, in its record (R167). DEDUCED, log entry 52. -/
def State.keepTask (s : State) (pid : Nat) : State :=
  let p := s.proc pid
  let s := s.dropLanes pid
  let s := s.updProc pid fun p => (seqAll p.seq p.vloop).foldl Proc.dropEntry p
  let s := s.updProc pid fun p => { p with away := true, seq := [], vloop := none, vpos := 0, seqStop := false, bound := 0, dir := 0, loops := [],
                                           frozenLoops := 0, waiting := false, leaving := 0, chunk := none }
  ({ s with mem := pokeWords (writeWord s.mem pid p.pc) (pid + 16) [p.rg 1, p.rg 2, p.rg 3, p.rg 4] }).freeSlot pid

/-- A task suspends (R167, R168). DEDUCED, log entry 35. DEDUCED, log entry 52. -/
def State.suspendTask (s : State) (pid obj kind : Nat) : State :=
  let s := s.updProc pid fun p => { p with wait := obj, wkind := kind, st := .spilled }
  ((s.keepTask pid).setRecState pid .spilled).setRecWait pid obj

/-- Insert by a key, behind elements of the same key. -/
def insertBy {α : Type} (f : α → Nat) (x : α) : List α → List α
  | [] => [x]
  | y :: r => if f x < f y then x :: y :: r else y :: insertBy f x r

/-- A list in ascending order of a key; equal keys keep their order. -/
def orderBy {α : Type} (f : α → Nat) (l : List α) : List α := l.foldl (fun r x => insertBy f x r) []

/-- A process waits in a controller's waiter table or its chain: a receive, a versioned operation, a `join`, a `park`
(R115, R173, R191). -/
def Proc.inTable (p : Proc) (part : Nat) : Bool :=
  (p.wkind == 2 || p.wkind == 4 || p.wkind == 5 || p.wkind == 7) && decide (2 ^ 54 ≤ p.wait) && decide (p.wait < 3 * 2 ^ 53) &&
  decide (partOf p.wait = part) && (p.st == .parked || p.st == .spilled)

/-- Processes beyond the 112 entries are chained in arrival order through +48 of their records (R115, R165). DEDUCED, log
entry 83. -/
def State.relink (s : State) (obj : Nat) : State :=
  let ps := (s.allProcs.filter fun p => p.inTable (partOf obj)).map fun p => (p.pid, p.parkedAt)
  if ps.length ≤ 112 then s
  else { s with mem := chainLinks s.mem (((orderBy (·.2) ps).drop 112).map (·.1)) }

/-- A process parks on an object, or a task suspends (R168); the slot of a task that owns banks stalls (R372). -/
def State.park (s : State) (pid obj kind : Nat) : State :=
  let p := s.proc pid
  if p.st = .spilled ∧ p.wait = 0 then
    ((s.unqueue (s.physOf p.home) pid).updProc pid fun p => { p with wait := obj, wkind := kind }).setRecWait pid obj
  else if p.st != .running && p.st != .ready then s
  else if p.task && p.banks != 0 then s.updProc pid fun p => { p with wait := obj, wkind := kind, waiting := true }
  else if p.task then ((s.updProc pid fun p => { p with parkedAt := s.clk }).suspendTask pid obj kind).relink obj
  else
    let s := s.updProc pid fun p => { p with st := .parked, wait := obj, wkind := kind, parkedAt := s.clk }
    (((s.setRecState pid .parked).setRecWait pid obj).relink obj).push (.slotFill p.core)

/-- The commit domain of a process, by its home core: a bench, or a die under DOM = 1 (R151). -/
def State.domainOf (s : State) (p : Proc) : Nat :=
  let c := s.physOf p.home
  if (s.ctx p.ctx).dom = 1 then 1000 + c / 128 else c / 8

/-- The step in hand belongs to the turn in service of a domain: it is performed for the process whose turn it is, or names
no process. -/
def State.ofTurn (s : State) (d : Nat) : Bool :=
  let t := SMap.get (0, 0) s.turns d
  t != (0, 0) && s.cause.elim true fun q => decide (q = t.1)

/-- A wake-up that no commit of the domain brings about waits for the arbiter's next pass (R151). -/
def State.holdTurn (s : State) (pid : Nat) : State :=
  let p := s.proc pid
  let d := s.domainOf p
  if s.levelOf p.ctx ≠ 2 || p.rc || (p.wait == 0 && p.wkind == 0) || s.ofTurn d then s
  else (s.updProc pid fun p => { p with turnWait := true }).push (.commitTurn d)

/-- A held operation of an agent has been satisfied in this step. -/
def State.satisfies (s : State) (a : Agent) : State :=
  match a with
  | .proc pid => s.holdTurn pid
  | _ => s

/-- A satisfied wait (R168). -/
def State.wake (s : State) (pid : Nat) : State :=
  let p := s.proc pid
  if p.wait = 0 && p.wkind = 0 then s
  else
    let s := (s.updProc pid fun p => { p with wait := 0, wkind := 0,
                                              armed := if p.wkind ≤ 3 then none else p.armed }).setRecWait pid 0
    let s := s.relink p.wait
    match p.st with
    | .parked => s.setState pid .ready
    | .spilled =>
      let s := if p.task then s.setState pid .ready else s
      if (s.ctx p.ctx).evicted then s else s.enqueue (s.physOf p.home) pid
    | .running => if p.task then s.updProc pid fun p => { p with waiting := false } else s
    | .ready => s.updProc pid fun p => { p with waiting := false }
    | _ => s

/-! ### The end of a record (R166, R168, R201, R306) -/

/-- A record's slice, as the core whose pool takes it back (R166). -/
def poolCore (pid : Nat) : Nat := coreOfSlice pid

/-- The record returns to the pool of its slice and becomes FREE (R166). -/
def State.toPool (s : State) (pid : Nat) : State :=
  let page := corePage (poolCore pid) + 0x900
  let w := s.reg page
  let s := { s with mem := writeWord s.mem (pid + 48) (BitVec.ofNat 64 (field w 0 21)) }
  let s := s.setRecState pid .free
  let s := s.setReg page (setField (setField w 0 21 (sramOff pid)) 32 32 (field w 32 32 + 1))
  if pid = s.cur.pid then { s with cur := Proc.empty } else { s with procs := SMap.put Proc.empty s.procs pid Proc.empty }

/-- Nothing of the process is outstanding: accesses, commands, transfers, items of a matrix queue. DEDUCED, log entry 75. -/
def State.nothingOut (s : State) (p : Proc) : Bool :=
  p.outst.isEmpty && p.cnt.copies == 0 && p.cnt.matrix == 0 && p.cnt.transfers == 0 &&
  !(s.mats p.core).any fun i => decide (i.pid = p.pid)

/-- A DONE record whose accesses have all ended sends its notice and returns to its pool (R166, R201). DEDUCED, log entry 75. -/
def State.settleDone (s : State) (pid : Nat) : State :=
  let p := s.proc pid
  if p.st == .done && p.pid = pid && s.nothingOut p then
    match p.launch with
    | some (t, i) => (s.push (.doneNotice { tower := t, idx := i, faulted := p.failed })).toPool pid
    | none => s.toPool pid
  else s

/-- A member that exits leaves the lists and tables of its groups (R188, R311). DEDUCED, log entry 76. -/
def State.leaveGroups (s : State) (pid : Nat) : State :=
  let hit := s.barriers.filter fun e => e.2.members.contains pid
  let s := { s with barriers := s.barriers.map fun e =>
      (e.1, { e.2 with members := e.2.members.map fun m => if m = pid then 0 else m,
                       waiters := e.2.waiters.filter fun w => w.agent != Agent.proc pid }) }
  hit.foldl (fun s e =>
    { s with mem := (List.range 64).foldl (fun m i =>
        if e.2.members.getD i 0 = pid then writeWord m (e.2.table + 8 * i) 0 else m) s.mem }) s

/-- The unit a handler locked is unlocked (R186). -/
def State.unlock (s : State) (pid : Nat) : State :=
  { s with locks := s.locks.filter fun e => e.2 != pid }

/-- The lease of a record that ends is given up as by `mrel` (R306, R372). -/
def State.releaseLease (s : State) (pid : Nat) : State :=
  let p := s.proc pid
  if p.lease = .none then s
  else
    (s.updProc pid fun p => { p with lease := .none }).queueMat p.core
      { pid := pid, slot := p.unit, ctx := p.ctx, op := .rel, cmd := 0, pc := p.pc, stopped := false, pos := 0, flags := 0,
        rs := 0 }

/-- A record ends: lanes, lease, loops, streams, time-out and waits are given up (R168, R306). DEDUCED, log entry 76. -/
def State.finish (s : State) (pid : Nat) : State :=
  let s := (s.dropLanes pid).freeSlot pid
  let s := s.releaseLease pid
  let s := { s with waiters := s.waiters.filter fun r => r.agent != Agent.proc pid,
                    chanq := s.chanq.filter (fun m => m.agent != Agent.proc pid || m.kind == 2),
                    epHeld := s.epHeld.filter (fun e => e.1.agent != Agent.proc pid),
                    selq := s.selq.filter fun m => m.pid != pid }
  let s := (s.leaveGroups pid).unlock pid
  let s := s.updProc pid fun p => { p with loops := [], frozenLoops := 0, bound := 0, dir := 0, armed := none, wait := 0,
                                           wkind := 0, seq := [], vloop := none, chunk := none }
  let s := (s.setState pid .done).setRecWait pid 0
  s.settleDone pid

/-- The operations on which a record waits: at owners, at channels, as a select, at barriers. -/
def State.heldOps (s : State) (pid : Nat) : List Nat :=
  (s.waiters.filter fun r => decide (r.agent = .proc pid)).map (·.sn) ++
  ((s.chanq ++ s.epHeld.map (·.1)).filter fun m => decide (m.agent = .proc pid) && m.kind != 2).map (·.num) ++
  (s.selq.filter fun w => decide (w.pid = pid)).map (·.num) ++
  s.barriers.flatMap fun e => (e.2.waiters.filter fun w => decide (w.agent = .proc pid)).map (·.num)

/-- A killed record is DONE where its wait ends: what it waited for is not completed (R188). DEDUCED, log entry 50. -/
def State.reap (s : State) (pid : Nat) : State :=
  let ns := s.heldOps pid
  { (s.updProc pid fun p => { p with outst := p.outst.filter fun o => !ns.contains o.sn }) with
      tileIn := s.tileIn.filter fun e => !ns.contains e.1 }.finish pid

/-- The agent is a process that a group has killed (R188). -/
def State.killedAgent (s : State) (a : Agent) : Bool :=
  match a with
  | .proc pid => (s.proc pid).killed
  | _ => false

end Sys2Proof.Machine
end

