-- ==== Sys2Proof/Machine/Owner.lean ====
section
/-! DEFINITION. What the owner of a word does (spec/03 R61–R65, R78, R79; spec/04 R82, R85; spec/05; spec/06
R133, R134; spec/12 R284): sideband, plain writes, poison, versioned operations and their waiters, release-source
tables and widenings, atomics, and the step that applies a request. -/

namespace Sys2Proof.Machine

/-! ### The sideband (R61, R102) -/

/-- Sideband at power-on: depth code 0, FREE_LATEST, version 0, RSCOPE 0 (R103). -/
def side0 : BitVec 15 := 0x200

def State.sideOf (s : State) (w : Nat) : BitVec 15 := SMap.get side0 s.side w
def State.setSide (s : State) (w : Nat) (x : BitVec 15) : State := { s with side := SMap.put side0 s.side w x }

def sideVersion (x : BitVec 15) : Nat := x.toNat % 256
def sideState (x : BitVec 15) : Nat := x.toNat / 256 % 4
def sideDepth (x : BitVec 15) : Nat := x.toNat / 1024 % 4
def sideScope (x : BitVec 15) : Nat := x.toNat / 4096 % 8
def sideFull (x : BitVec 15) : Bool := x.getLsbD 8
def sideLatest (x : BitVec 15) : Bool := x.getLsbD 9

def mkSide (scope depth state version : Nat) : BitVec 15 :=
  BitVec.ofNat 15 (scope % 8 * 4096 + depth % 4 * 1024 + state % 4 * 256 + version % 256)

/-- The base of the cell that a word belongs to (R101). -/
def cellBase (w depth : Nat) : Nat := w / (8 * 2 ^ depth) * (8 * 2 ^ depth)

/-- LatestOf: the version of the slot with LATEST = 1 (R102). -/
def State.latestOf (s : State) (w : Nat) : Nat :=
  let d := sideDepth (s.sideOf w)
  let b := cellBase w d
  match (List.range (2 ^ d)).find? fun i => sideLatest (s.sideOf (b + 8 * i)) with
  | some i => sideVersion (s.sideOf (b + 8 * i))
  | none => 0

/-! ### Release sources (R133, R134) -/

/-- Widening lists hold 8 entries and tables 32 for each controller (R133). -/
def State.widensOf (s : State) (part : Nat) : List Widening := s.widens.filter fun w => partOf w.key = part
def State.relsOf (s : State) (part : Nat) : List RelEntry := s.rels.filter fun e => partOf e.key = part

/-- Accesses that make table entries for words find places, now or by moving the oldest entries on (R133). -/
def State.relRoom (s : State) (keys : List Nat) : Bool :=
  match keys with
  | [] => true
  | k :: _ =>
    let new := keys.filter fun k => !s.rels.any fun e => decide (e.key = k)
    decide ((s.relsOf (partOf k)).length + new.length + (s.widensOf (partOf k)).length ≤ 40)

/-- A store-type access to a word that leaves its RSCOPE (R133, R134). -/
def State.noteTouch (s : State) (key : Nat) : State :=
  { s with rels := s.rels.map fun e => if e.key = key then { e with touched := true } else e,
           widens := s.widens.map fun w => if w.key = key then { w with rewritten := true } else w }

/-- The oldest entry of a full table moves to the widening list, and its widening starts (R133). -/
def State.moveOldest (s : State) (part : Nat) : State :=
  if (s.relsOf part).length < 32 then s
  else
    match s.relsOf part with
    | [] => s
    | o :: _ =>
      { s with rels := s.rels.filter fun e => e.key ≠ o.key,
               widens := s.widens ++ [{ key := o.key, core := o.core, unit := o.unit, acquirers := [],
                                        snap := none, rewritten := o.touched }],
               agenda := s.agenda ++ [.widen o.key] }

/-- An access that writes a word's data or RSCOPE makes, replaces or removes its table entry (R133). -/
def State.noteRelease (s : State) (key scope core unit : Nat) : State :=
  let s := { s with rels := s.rels.filter fun e => e.key ≠ key,
                    widens := s.widens.map fun w => if w.key = key then { w with rewritten := true, stale := true } else w }
  if 1 ≤ scope && scope ≤ 5 && unit ≤ 9 then
    let s := s.moveOldest (partOf key)
    { s with rels := s.rels ++ [{ key := key, core := core, unit := unit }] }
  else s

/-- What the check of R134 answers an acquire. -/
inductive Miss where
  | none                 -- no scope miss
  | drained              -- a miss with nothing to drain
  | pending              -- a miss recorded against a widening
  | wait                 -- not performed until a widening ends
  deriving DecidableEq, Repr

/-- The scope check of an acquire of a space 2 word, with `rscope` in the place of RSCOPE (R134, R136). An acquirer joins
the widening of the release whose RSCOPE it found, never one of an earlier release of the word. -/
def State.scopeCheck (s : State) (key rscope : Nat) (who : Agent) (coord : List Nat) : Miss × State :=
  if rscope = 0 || rscope ≥ 6 || scopeCovers rscope (ownerCoord 2 key) coord then (.none, s)
  else
    match s.widens.find? fun w => decide (w.key = key) && !w.stale with
    | some w =>
      if w.acquirers.length ≥ 16 then (.wait, s)
      else (.pending, { s with widens := s.widens.map fun w =>
              if w.key = key && !w.stale then { w with acquirers := w.acquirers ++ [who] } else w })
    | none =>
      match s.rels.find? fun e => e.key = key with
      | none => (.drained, s.setSide key (mkSide 6 (sideDepth (s.sideOf key)) (sideState (s.sideOf key))
                    (sideVersion (s.sideOf key))))
      | some e =>
        if (s.widensOf (partOf key)).length ≥ 8 then (.wait, s)
        else
          (.pending, { s with rels := s.rels.filter fun r => r.key ≠ key,
                              widens := s.widens ++ [{ key := key, core := e.core, unit := e.unit, acquirers := [who],
                                                       snap := none, rewritten := e.touched }],
                              agenda := s.agenda ++ [.widen key] })

/-! ### Plain writes (R110) -/

/-- Nibbles of a mask replaced in a word (R79). -/
def mergeNibbles (old x : Word) (m : Nat) : Word :=
  let e : Word := BitVec.ofNat 64 (expandNibbles m 16)
  (old &&& ~~~e) ||| (x &&& e)

/-- A mask of the nibbles of bytes [lo, lo + n). -/
def nibbleMask (lo n : Nat) : Nat := (2 ^ (2 * n) - 1) * 2 ^ (2 * lo)

/-- A plain write to one 8-byte word: the nibbles of `m` take those of `x`; sideband, poison and release table
follow (R62, R65, R79, R85, R110). A write that must merge reads first; one of the whole word or unit does not, and ends
the error there. The cause is that of a refusal, which changes no word. -/
def State.plainWrite (s : State) (w : Nat) (x : Word) (m scope core unit : Nat) : Except (Nat × State) State :=
  if w < 2 ^ 54 then
    let g := s.readGuard w
    if g.1 then .ok (g.2.poke w (mergeNibbles (g.2.peek w) x m)) else .error (0x047, g.2)
  else if m = 0xFFFF then
    if s.isPoison w then .ok ((((s.setPoison w false).poke w x).setSide w (mkSide scope 0 3 1)).noteRelease w scope core unit)
    else if sideDepth (s.sideOf w) ≠ 0 then .error (0x062, s)
    else .ok ((((s.setErrors w 0).poke w x).setSide w (mkSide scope 0 3 (sideVersion (s.sideOf w) + 1))).noteRelease w scope core unit)
  else
    let g := s.readGuard w
    if !g.1 then .error (0x046, g.2)
    else if sideDepth (s.sideOf w) ≠ 0 then .error (0x062, g.2)
    else .ok (((g.2.poke w (mergeNibbles (g.2.peek w) x m)).setSide w
        (mkSide scope 0 3 (sideVersion (s.sideOf w) + 1))).noteRelease w scope core unit)

/-- The word at +32 of a versioned-memory fault (R118). -/
def State.verWord (s : State) (w op ver : Nat) : Word :=
  BitVec.ofNat 64 (sideDepth (s.sideOf w) * 2 ^ 18 + op * 2 ^ 16 + s.latestOf w * 2 ^ 8 + ver % 256)

/-! ### Versioned operations (R106–R112) -/

/-- What an operation at the owner answers. -/
inductive Ver where
  | done (s : State) (x : Word) (flags : Flags)
  | hold
  | fault (cause : Nat) (words : List Word)
  deriving DecidableEq, Repr

/-- The address is the base of its cell (R106). -/
def State.isBase (s : State) (w : Nat) : Bool := w % (8 * 2 ^ sideDepth (s.sideOf w)) = 0

/-- The slot word of version v of the cell at base a. -/
def State.slotOf (s : State) (a v : Nat) : Nat := a + 8 * (v % 2 ^ sideDepth (s.sideOf a))

/-- R107. -/
def verStore (s : State) (a v : Nat) (x : Word) (scope core unit : Nat) : Ver :=
  let l := s.latestOf a
  let d := (v + 256 - l) % 256
  if !s.isBase a then .fault 0x062 [s.verWord a 1 v]
  else if d = 0 || d ≥ 128 then .fault 0x061 [s.verWord a 1 v]
  else if d ≥ 2 then .hold
  else
    let dep := sideDepth (s.sideOf a)
    let w := s.slotOf a v
    if sideFull (s.sideOf w) then .hold
    else
      let o := s.slotOf a l
      let so := s.sideOf o
      let s := s.setSide o (mkSide (sideScope so) (sideDepth so) (sideState so % 2) (sideVersion so))
      .done (((s.poke w x).setSide w (mkSide scope dep 3 v)).noteRelease w scope core unit) 0 0

/-- R108. -/
def verLoad (s : State) (a v : Nat) : Ver :=
  let w := s.slotOf a v
  let d := (v + 256 - s.latestOf a) % 256
  if !s.isBase a then .fault 0x062 [s.verWord a 0 v]
  else if sideVersion (s.sideOf w) = v then .done s (s.peek w) 0
  else if 1 ≤ d && d ≤ 127 then .hold
  else .fault 0x060 [s.verWord a 0 v]

/-- R109. -/
def verReclaim (s : State) (a v : Nat) : Ver :=
  let w := s.slotOf a v
  let d := (v + 256 - s.latestOf a) % 256
  if !s.isBase a then .fault 0x062 [s.verWord a 2 v]
  else if sideVersion (s.sideOf w) = v then
    let x := s.sideOf w
    .done ((s.setSide w (mkSide (sideScope x) (sideDepth x) (sideState x / 2 * 2) (sideVersion x))).noteTouch w) 0 0
  else if 1 ≤ d && d ≤ 127 then .hold
  else .fault 0x060 [s.verWord a 2 v]

/-- The words of the cell at a word: what a versioned operation reads of it (R62, R101, R106). -/
def State.cellWords (s : State) (a : Nat) : List Nat :=
  let d := if s.isPoison a then 0 else sideDepth (s.sideOf a)
  (List.range (2 ^ d)).map fun i => cellBase a d + 8 * i

/-- The older cells that the D words belong to stay within the range (R111). -/
def State.initFits (s : State) (a dep : Nat) : Bool :=
  (List.range (2 ^ dep)).all fun i =>
    let w := a + 8 * i
    let d := if s.isPoison w then 0 else sideDepth (s.sideOf w)
    let b := cellBase w d
    decide (a ≤ b) && decide (b + 8 * 2 ^ d ≤ a + 8 * 2 ^ dep)

/-- The words of an initialise, one by one (R111). -/
def initWords (s : State) (a dep v0 scope core unit k : Nat) : State :=
  match k with
  | 0 => s
  | j + 1 =>
    let v := (v0 + 256 - j) % 256
    let w := a + 8 * (v % 2 ^ dep)
    let s := (((s.setPoison w false).setErrors w 0).poke w 0).setSide w (mkSide scope dep (if j = 0 then 2 else 0) v)
    initWords (s.noteRelease w scope core unit) a dep v0 scope core unit j

/-- R111. -/
def verInit (s : State) (a dep v0 scope core unit : Nat) : Ver :=
  if a % (8 * 2 ^ dep) ≠ 0 || !s.initFits a dep then .fault 0x062 [s.verWord a 3 0]
  else .done (initWords s a dep v0 scope core unit (2 ^ dep)) 0 0

/-- R112. -/
def verTag (s : State) (w : Nat) : Word := BitVec.ofNat 64 (s.latestOf w * 2 ^ 16 + (s.sideOf w).toNat)

/-! ### Atomics (R284) -/

/-- A signed n-bit number. -/
def sInt (x n : Nat) : Int := if 2 * (x % 2 ^ n) ≥ 2 ^ n then (x % 2 ^ n : Nat) - (2 ^ n : Nat) else (x % 2 ^ n : Nat)

/-- Atomic function values (R222) that work on 8 bytes. -/
def atomSize (f : BitVec 5) : Nat :=
  if f.toNat = 1 || f.toNat = 3 || f.toNat = 5 || f.toNat = 7 || f.toNat = 9 || f.toNat = 11 || f.toNat = 13 ||
     f.toNat = 15 || f.toNat = 17 || f.toNat = 19 then 8 else 4

/-- The new value of an n-byte word, if one is written, and the flags (R284). -/
def atomNew (f : BitVec 5) (n x b c : Nat) : Option Nat × Flags :=
  let bits := 8 * n
  let b := b % 2 ^ bits
  let c := c % 2 ^ bits
  match f.toNat / 2 with
  | 0 => (some b, 0)
  | 1 => (if x = c then some b else none, 0)
  | 2 => (some ((x + b) % 2 ^ bits), 0)
  | 3 => (some (x &&& b), 0)
  | 4 => (some (x ||| b), 0)
  | 5 => (some (x ^^^ b), 0)
  | 6 => (some (if sInt x bits ≥ sInt b bits then x else b), 0)
  | 7 => (some (if sInt x bits ≤ sInt b bits then x else b), 0)
  | 8 => (some (max x b), 0)
  | 9 => (some (min x b), 0)
  | _ =>
    let xb : W32 := BitVec.ofNat 32 x
    let bb : W32 := BitVec.ofNat 32 b
    match f.toNat with
    | 20 => if isNaN32 xb || isNaN32 bb then (some 0x7FC00000, flNV)
            else let r := faddOp Mode.rne xb bb; (some r.1.toNat, r.2)
    | 21 => (some (fmaxOp xb bb).toNat, 0)
    | _ => (some (fminOp xb bb).toNat, 0)

end Sys2Proof.Machine
end

