-- ==== Sys2Proof/Machine/OwnerSteps.lean ====
section
/-! DEFINITION. The steps at an owner of memory words (spec/95): performing a request, the waiters of a cell
(R113–R117), replies to the issuer (R123, R170), widenings (R134) and translation walks (R50). -/

namespace Sys2Proof.Machine

/-- What an owner answers a request. -/
inductive Perf where
  | done (s : State) (x : Word) (flags : Flags) (m : Miss)
  | hold                       -- held as a waiter (R107–R109, R306, R307)
  | wait                       -- not performed until another step: a lock, a widening, a log place
  | fault (s : State) (f : FaultInfo)
  deriving DecidableEq, Repr

end Sys2Proof.Machine

namespace Sys2Proof

open Sys2Proof.Machine

/-- Coordinate of the issuer of a request (R127). -/
def Req.coord (r : Req) : List Nat :=
  match r.agent with
  | .proc _ | .helper _ => coordOfCore r.core
  | .engine _ | .array _ => (coordOfCore r.core).take 3
  | .sill t => [t]
  | .peer n | .peerOp n _ => [256 + n]
  | .host => [0]

/-- The scope that a performed write leaves in RSCOPE (R61, R129). -/
def Req.rscope (r : Req) : Nat := if r.ord.releases then r.scope else 0

end Sys2Proof

namespace Sys2Proof.Machine

/-- The address in TVAL: as issued; the word's own for an ECC error (R62, R85). -/
def ownerTval (r : Req) (cause : Nat) : Word := if cause = 0x046 ∨ cause = 0x047 then r.va &&& ~~~7#64 else r.va

def failP (s : State) (r : Req) (cause : Nat) (words : List Word) : Perf :=
  .fault s { cause := cause, tval := ownerTval r cause, words := words }

/-- REPLAY_DIVERGE of a context: LOGCTL.DIV is set (R163). -/
def State.setDiv (s : State) (c : Byte) : State := s.updCtx c fun x => { x with logctl := x.logctl ||| 2 }

/-- A read is possible: no poison, and no error that its retry does not clear (R62, R85). -/
def guarded (s : State) (r : Req) (k : State → Perf) : Perf :=
  let g := s.readGuard r.pa
  if g.1 then k g.2 else failP g.2 r (eccCause r.pa) []

/-- The same for every word of the cell, whose sidebands a versioned operation or tag read compares (R62, R102); TVAL
is the word's address. -/
def guardedCell (s : State) (r : Req) (k : State → Perf) : Perf :=
  match s.guardList (s.cellWords (r.pa / 8 * 8)) with
  | (none, s) => k s
  | (some w, s) => .fault s { cause := eccCause w, tval := (r.va &&& ~~~7#64) + BitVec.ofInt 64 ((w : Int) - (r.pa / 8 * 8 : Nat)), words := [] }

/-- An acquire of word `w` is checked in the step that performs it (R134). -/
def acquired (s : State) (r : Req) (w : Nat) (k : State → Miss → Perf) : Perf :=
  if r.ord.acquires && r.space == 2 then
    match s.scopeCheck w (sideScope (s.sideOf w)) (match r.agent with | .peer n => .peerOp n r.sn | a => a) r.coord with
    | (.wait, _) => .wait
    | (m, s) => k s m
  else k s .none

/-- A loggable event of a process passes the log's gate (R159–R163). -/
def gated (s : State) (r : Req) (kind detail : Nat) (k : State → Perf) : Perf :=
  match r.agent with
  | .proc pid =>
    match s.logGate (s.proc pid) kind (ownerUnit r.pa) false (s.core r.core).lcore r.unit r.pa detail with
    | .pass s => k s
    | .hold => .wait
    | .diverge e =>
      .fault (s.setDiv r.ctx) { cause := 0x100, tval := BitVec.ofNat 64 r.pa, words := [e, BitVec.ofNat 64 r.pa] }
  | _ => k s

/-- The words that a request writes when it is performed (R107, R109, R111). -/
def State.wordsWritten (s : State) (r : Req) : List Nat :=
  match r.op with
  | .stv v _ | .rcl v => [s.slotOf r.pa v.toNat]
  | .vinit k _ => (List.range (2 ^ k.toNat)).map fun i => r.pa + 8 * i
  | _ => [r.pa / 8 * 8]

/-- A release of scope 1 to 5 finds places in the release-source table for the words it writes (R133). -/
def State.relOk (s : State) (r : Req) : Bool :=
  !(1 ≤ r.rscope && r.rscope ≤ 5 && r.space == 2 && decide (r.unit ≤ 9)) || s.relRoom (s.wordsWritten r)

/-- The word at +32 of a refused plain write (R118). -/
def State.depthWords (s : State) (w cause : Nat) : List Word := if cause = 0x062 then [s.verWord w 3 0] else []

/-- A plain write of `n` bytes at the request's address (R65, R110). -/
def writePlain (s : State) (r : Req) (n x : Nat) (ans : Word) (fl : Flags) (m : Miss) : Perf :=
  let o := r.pa % 8
  match s.plainWrite (r.pa - o) (BitVec.ofNat 64 (x * 2 ^ (8 * o))) (nibbleMask o n) r.rscope r.core r.unit with
  | .error (c, s) => failP s r c (s.depthWords (r.pa - o) c)
  | .ok s => .done s ans fl m

/-- An outcome of a versioned operation as an owner's answer. -/
def ofVer (s : State) (r : Req) (v : Ver) (m : Miss) : Perf :=
  match v with
  | .done s x fl => .done s x fl m
  | .hold => .hold
  | .fault c ws => failP s r c ws

/-- An owner applies a request to a word of SRAM or HBM, alone (R64, R105–R112, R284, R185, R307). -/
def perform (s : State) (r : Req) : Perf :=
  let w := r.pa / 8 * 8
  if SMap.get 0 s.locks (r.pa / 64) ≠ 0 ∧ r.agent ≠ Agent.proc (SMap.get 0 s.locks (r.pa / 64)) then .wait
  else if !s.relOk r then .wait
  else
    match r.op with
    | .load sg =>
      guarded s r fun s => acquired s r w fun s m =>
        let x := readNat s.mem r.pa r.size
        .done s (if sg then signExtend x (8 * r.size) else zeroExtend x (8 * r.size)) 0 m
    | .nibble sg k =>
      guarded s r fun s => acquired s r w fun s m =>
        let x := field (s.peek w) (4 * k) 4
        .done s (if sg then signExtend x 4 else zeroExtend x 4) 0 m
    | .tag => guardedCell s r fun s => acquired s r w fun s m => .done s (verTag s w) 0 m
    | .store x => writePlain s r r.size (x.toNat % 2 ^ (8 * r.size)) 0 0 .none
    | .sub mask x =>
      match s.plainWrite w x mask.toNat r.rscope r.core r.unit with
      | .error (c, s) => failP s r c (s.depthWords w c)
      | .ok s => .done s 0 0 .none
    | .atom f b c ret =>
      guarded s r fun s =>
        if w ≥ 2 ^ 54 ∧ sideDepth (s.sideOf w) ≠ 0 then failP s r 0x062 [s.verWord w 3 0]
        else
          gated s r 0x05 f.toNat fun s => acquired s { r with ord := if ret then r.ord else .rlx } w fun s m =>
            let n := atomSize f
            let x := readNat s.mem r.pa n
            match atomNew f n x b.toNat c.toNat with
            | (none, fl) => .done (if ret then s else s.noteTouch w) (BitVec.ofNat 64 x) fl m
            | (some y, fl) => writePlain s r n y (BitVec.ofNat 64 x) fl m
    | .ldv v =>
      guardedCell s r fun s =>
        match verLoad s r.pa v.toNat with
        | .done s x _ =>
          gated s r 0x04 v.toNat fun s => acquired s r (s.slotOf r.pa v.toNat) fun s m => .done s x 0 m
        | o => ofVer s r o .none
    | .stv v x => guardedCell s r fun s => ofVer s r (verStore s r.pa v.toNat x r.rscope r.core r.unit) .none
    | .rcl v => guardedCell s r fun s => ofVer s r (verReclaim s r.pa v.toNat) .none
    | .vinit k v => ofVer s r (verInit s r.pa k.toNat v.toNat r.rscope r.core r.unit) .none
    | .park x =>
      guarded s r fun s => if s.peek w = x then .hold else acquired s r w fun s m => .done s 0 0 m
    | .join =>
      guarded s r fun s =>
        if field (s.peek w) 32 32 ≠ 0 then failP s r 0x0C3 []
        else if field (s.peek w) 0 32 ≠ 0 then .hold
        else acquired s r w fun s m => .done s 0 0 m
    | .joinDec =>
      guarded s r fun s =>
        let x := (s.peek w).toNat
        if x = 0 ∨ x ≥ 2 ^ 32 then failP s r 0x0C3 []
        else gated s r 0x05 4 fun s => writePlain s r 8 (x - 1) 0 0 .none

/-! ### Replies (R123, R170) -/

/-- The operation is a store-type access or an atomic that may change its word. -/
def changes (o : MemOp) : Bool :=
  match o with
  | .load _ | .nibble _ _ | .tag | .ldv _ | .park _ | .join => false
  | _ => true

/-- Units written at a commit turn of a level-2 process (R142, R152). -/
def State.committed (s : State) (p : Proc) (units : List Nat) : State :=
  { s with commits := s.commits ++ [(s.domainOf p, s.clk, units)] }

/-- Flags of a reply to a peer (R242). -/
def flags5 (fl : Flags) : BitVec 5 := fl.setWidth 5

/-- An access of the host port that is not performed: it is counted, and its fault posted to the context under which it
was checked (R418). -/
def State.hostDrop (s : State) (c : Byte) (f : FaultInfo) : State := (s.bumpReg regHdrop 0 32).faultReport c f

/-- What comes back to the host port, or to a unit that asked an owner elsewhere or a register (units 32 and above). -/
def State.hostAnswer (s : State) (r : Req) (x : Word) (f : Option FaultInfo) : State :=
  if 32 ≤ r.unit then
    { s with hostGot := s.hostGot ++ [(r, match f with | some f => natToBytes 2 f.cause | none => natToBytes 8 x.toNat)] }
  else
    match f with
    | some f => s.hostDrop r.ctx f
    | none => s

def aclReg (i : Nat) : Nat := blockAddr 0 1 (0x1000 + 16 * i)

/-- The entry that a peer's request matches (R54). -/
def State.aclEntry (s : State) (node : Nat) (c : Byte) : Option Nat :=
  (List.range 256).find? fun i =>
    let w := s.reg (aclReg i)
    w.getLsbD 63 && decide (field w 55 8 = node) && (w.getLsbD 46 || decide (field w 47 8 = c.toNat))

/-- A peer's request is refused: the record to context 0, VIOL of the entry, and for a violation the ingress of the node
frozen (R55, R56). The error reply is the caller's. -/
def State.peerViolates (s : State) (node : Nat) (entry : Option Nat) (f : FaultInfo) : State :=
  let freeze := isViolation f.cause
  let c : Byte := entry.elim 0 fun i => BitVec.ofNat 8 (field (s.reg (aclReg i)) 38 8)
  let s := entry.elim s fun i => s.bumpReg (aclReg i + 8) 0 32
  let s := if freeze && !s.frozenNodes.contains node then
      ({ s with frozenNodes := s.frozenNodes ++ [node] }).stepReg regFrozen 0 16
    else s
  s.push (.faultPost 0 (faultRecord (faultHeader 0 0 7 c f.cause (fbReport + (if freeze then fbFrozen else 0) + lastingBits f.cause))
    0 0 f.tval f.words))

/-- The answer of an owner goes to the issuer: on RSP to a process or helper, in a flit to a peer. Other units act
on what they read in the step that reads it. `held` says that the operation had been held (R114). -/
def State.answer (s : State) (r : Req) (writes : List (Reg × Word)) (x : Word) (fl : Flags) (m : Miss)
    (f : Option FaultInfo) (held : Bool) : State :=
  match r.agent with
  | .proc _ | .helper _ =>
    let d : Done := { agent := r.agent, writes := writes, flags := fl, fault := f, cls := r.op.cls, sn := r.sn,
                      miss := m == .pending || m == .drained, key := r.pa, req := some r, chan := none, pc := r.pc }
    (if held then s.satisfies r.agent else s).push (if held then .heldCompletion d else replyEv r d)
  | .peer n =>
    let s := f.elim s fun f => if isViolation f.cause then s.peerViolates n (if 64 ≤ r.unit then some (r.unit - 64) else none) f else s
    s.sendFlit n r.ctx 1 (.reply r.sn x (flags5 fl) (f.elim 0 (·.cause))
      (if m = .pending then 2 else if m = .drained then 1 else 0))
  | .sill _ => s.push (.waiterRetry r)
  | .host => s.hostAnswer r x f
  | _ => s

/-- A change of SMISS that is no part of a chunk's speculation: its checkpoint takes it too (R135, R150). -/
def Proc.setMiss (p : Proc) (f : Word → Word) : Proc :=
  { p with smiss := f p.smiss, chunk := p.chunk.map fun (c : Chunk) => { c with smiss := f c.smiss } }

/-- MISS is set and COUNT advances (R134, R135). -/
def missWord (x : Word) : Word := setField (x ||| 1) 16 16 (satAdd (field x 16 16) 1 0xFFFF)

/-- The scope-miss marks of an acquire at its issuer (R134, R135). -/
def Proc.noteMiss (p : Proc) : Proc := p.setMiss missWord

/-- PEND stands from the step that records the acquirer (R134). -/
def State.notePend (s : State) (a : Agent) (m : Miss) : State :=
  if m = .pending then
    match a with
    | .proc pid => s.touch pid fun p => p.setMiss (· ||| 2)
    | .helper h => s.touch (helperKey h) fun p => p.setMiss (· ||| 2)
    | _ => s
  else s

/-- A completed operation answers its issuer. -/
def State.complete (s : State) (r : Req) (x : Word) (fl : Flags) (m : Miss) (held : Bool) : State :=
  let writes := match r.op with
    | .load _ | .nibble _ _ | .tag | .ldv _ => [(r.rd, x)]
    | .atom _ _ _ true => [(r.rd, x)]
    | _ => []
  (s.notePend r.agent m).answer r writes x fl m none held

/-- What a level-2 process changes at its commit turn belongs to the write set of its commit: words written, and the
RSCOPE that an acquire sets (R142, R152). -/
def State.noteCommit (s : State) (r : Req) (m : Miss) : State :=
  match r.agent with
  | .proc pid =>
    let p := s.proc pid
    if s.levelOf p.ctx = 2 ∧ (changes r.op ∨ m = .drained) then s.committed p [r.pa / 64] else s
  | _ => s

/-- An operation has been performed: its issuer is answered, and a commit notes it. -/
def State.performed (s : State) (r : Req) (x : Word) (fl : Flags) (m : Miss) (held : Bool) : State :=
  (s.complete r x fl m held).noteCommit r m

/-- A failed operation answers its issuer. -/
def State.failAt (s : State) (r : Req) (f : FaultInfo) (held : Bool) : State := s.answer r [] 0 0 .none (some f) held

/-! ### Waiters (R115–R117) -/

/-- Waiters of the cells in a 64-byte unit, `park` apart, in arrival order. -/
def State.waitersOf (s : State) (unit : Nat) : List Req :=
  s.waiters.filter fun r => decide (r.pa / 64 = unit) && (match r.op with | .park _ => false | _ => true)

/-- A store-type access to a word ends every `park` on it, whose acquire is checked then (R134, R307); one whose miss
finds no place in the widening list looks at its word again (R134). -/
def State.wakeParks (s : State) (w : Nat) : State :=
  let hit := fun (r : Req) => decide (r.pa = w) && (match r.op with | .park _ => true | _ => false)
  (s.waiters.filter hit).foldl (fun s r =>
      match acquired s r w fun s m => .done s 0 0 m with
      | .done s x fl m => s.complete r x fl m true
      | _ => s.later (.ownerAccess r))
    { s with waiters := s.waiters.filter fun r => !hit r }

/-- A launch queue's presence word or an ingest ring's slot has changed: its unit looks again (R122, R98, R195). -/
def State.stirUnits (s : State) (w : Nat) : State :=
  let qs := (List.range 64).filter fun q =>
    let b := s.ownNode (s.reg (blockAddr 0 0 (0x1000 + 32 * q))).toNat
    let c := s.reg (blockAddr 0 0 (0x1008 + 32 * q))
    c.getLsbD 63 && decide (b ≤ w) && decide (w < b + 128 * 2 ^ field c 32 5) && decide ((w - b) % 128 = 120)
  let s := s.pushAll (qs.map Ev.launchTake)
  s.eth.foldl (fun s e => s.pushAll (e.2.ringWait.map fun k => Ev.ingestDeposit e.1 k)) s

/-- A waiter that another step keeps from being evaluated now is evaluated again later: no wake-up is lost (R117). -/
def State.passLater (s : State) (r : Req) : State :=
  if s.blocked.contains (.waiterRetry r) || s.agenda.contains (.waiterRetry r) then s else s.later (.waiterRetry r)

/-- A pass over the waiters of a unit: the oldest first; a waiter that changes the cell starts it again (R116). -/
def waiterPass (fuel : Nat) (s : State) (unit : Nat) (todo : List Req) : State :=
  match fuel with
  | 0 => s
  | n + 1 =>
    match todo with
    | [] => s
    | r :: rest =>
      match perform s r with
      | .done s' x fl m =>
        if s.killedAgent r.agent then waiterPass n (s.reap r.agent.pid) unit (rest.filter fun q => q.agent != r.agent)
        else
        let ws := s.wordsWritten r
        let s' := ({ s' with waiters := s'.waiters.filter fun q => decide (q ≠ r) }).performed r x fl m true
        if changes r.op then
          let s' := ws.foldl State.wakeParks s'
          waiterPass n s' unit (s'.waitersOf unit)
        else waiterPass n s' unit rest
      | .fault s' f =>
        waiterPass n (({ s' with waiters := s'.waiters.filter fun q => decide (q ≠ r) }).failAt r f true) unit rest
      | .hold => waiterPass n s unit rest
      | .wait => waiterPass n (s.passLater r) unit rest

/-- The pass that a change of a cell brings about (R116). -/
def State.pass (s : State) (unit : Nat) : State :=
  let ws := s.waitersOf unit
  waiterPass ((ws.length + 1) * (ws.length + 1)) s unit ws

/-- After a step that changed words of a unit: parks, the pass, and the units that watch the word. -/
def State.stir (s : State) (w : Nat) : State := ((s.wakeParks w).pass (w / 64)).stirUnits w

/-- Every word of a range has been written by a unit: an engine beat, a launch unit, a port. -/
def State.stirRange (s : State) (a n : Nat) : State :=
  (List.range ((a % 8 + n + 7) / 8)).foldl (fun s i => s.stir (a / 8 * 8 + 8 * i)) s

/-- The wait kind of a held operation (R191). -/
def waitKind (o : MemOp) : Nat :=
  match o with
  | .join => 5 | .park _ => 7 | _ => 4

/-- Entries of a controller's waiter table that requesters other than processes use: held operations, and ingest rings
that wait for a slot (R98, R115). -/
def State.unitEntries (s : State) (part : Nat) : Nat :=
  (s.waiters.filter fun q => decide (partOf q.pa = part) && (match q.agent with | .proc _ => false | _ => true)).length +
  s.eth.foldl (fun n e => n + (e.2.ringWait.filter fun k => decide (partOf
    (s.reg (blockAddr (e.1 / 2) 0x10 (e.1 % 2 * 0x10000 + 0x2000 + 32 * k))).toNat = part)).length) 0

/-- A held operation becomes a waiter and its process parks; a handler raises RC_BLOCK; a requester that is no
process sends again after 64 cycles when its 16 entries are full (R114, R115, R186). -/
def State.holdAt (s : State) (r : Req) : State :=
  match r.agent with
  | .proc pid =>
    if (s.proc pid).rc then s.failAt r { cause := 0x0C2, tval := r.va, words := [] } false
    else
      let s := { s with waiters := s.waiters ++ [r] }
      let s := s.updProc pid fun p =>
        { p with outst := p.outst.map fun o => if o.sn = r.sn then { o with held := true } else o }
      s.park pid r.pa (waitKind r.op)
  | _ => if s.unitEntries (partOf r.pa) ≥ 16 then s.after 64 (.waiterRetry r) else { s with waiters := s.waiters ++ [r] }

/-- An earlier request of the same source to the same word still waits, or, of two of which each is an atomic or a
handler, to the same owner: this one follows it (R64, R69, R126, R137). -/
def State.behind (s : State) (e : Ev) : Bool :=
  s.blocked.any fun b => laneOf b == laneOf e &&
    ((b.isAtom && e.isAtom) ||
     (match b.request, e.request with | some q, some r => decide (q.pa / 8 = r.pa / 8) | _, _ => false))

/-- A request of the same sender that a memory server has accepted earlier touches the unit: this one follows it (R84). -/
def State.afterServer (s : State) (r : Req) : Bool :=
  r.space == 0 && s.msStore.any fun m =>
    decide (m.msg.agent = r.agent) && decide (m.msg.num < r.sn) && unitsMeet (msUnits m) (r.pa / 64 % 1024, 1)

/-- One request is served at the owner of a memory word. -/
def State.serve (s : State) (r : Req) : State :=
  if s.behind (ownerStep r) || s.afterServer r then s.later (ownerStep r)
  else
    match perform s r with
    | .done t x fl m =>
      let t := t.performed r x fl m false
      if changes r.op then (s.wordsWritten r).foldl State.stir t else t
    | .hold => s.holdAt r
    | .wait => s.later (ownerStep r)
    | .fault s f => s.failAt r f false

/-- A sub-byte store at its owner (R79). -/
def execSubByteStore (r : Req) (s : State) : Out := .next (s.serve r)

/-- A versioned store at its owner (R107). -/
def execVersionedStoreAtOwner (r : Req) (s : State) : Out := .next (s.serve r)

/-- A versioned load at its owner (R108). -/
def execVersionedLoadAtOwner (r : Req) (s : State) : Out := .next (s.serve r)

/-- A reclaim at its owner (R109). -/
def execReclaimAtOwner (r : Req) (s : State) : Out := .next (s.serve r)

/-- An initialise at its owner; its waiters are evaluated as if each had just arrived (R111). -/
def execInitialiseAtOwner (r : Req) (s : State) : Out := .next (s.serve r)

/-- A unit of the sill looks at its queue or ring again (R98, R115, R195). -/
def sillRetry (t : Nat) (r : Req) : Ev :=
  if r.unit ≥ 64 then .ingestDeposit (2 * t + r.unit / 64 % 2) (r.unit % 64) else .launchTake r.unit

/-- A requester that is no process sends its operation again (R115); a waiter that another step kept from its evaluation
is evaluated (R117). -/
def execWaiterRetry (r : Req) (s : State) : Out :=
  if s.waiters.contains r then .next (s.pass (r.pa / 64))
  else
    match r.agent with
    | .sill t => .next (s.push (sillRetry t r))
    | .proc _ => .next s
    | _ => .next (s.push (ownerStep r))

/-! ### At the issuer -/

/-- Results reach a process wherever it stands (R170): a suspended task keeps those of the instruction it waits
on for its resumption. -/
def State.resultsTo (s : State) (pid : Nat) (ws : List (Reg × Word)) (held : Bool) : State :=
  let p := s.proc pid
  if p.task && p.away && held then s.updProc pid fun p => { p with wake := p.wake ++ ws }
  else s.touch pid fun p => ws.foldl Proc.deliver p

/-- A store-type access of a unit has been acknowledged or has faulted: DRAINED moves, and the widenings that
wait for it may end (R134, R175). -/
def State.drained (s : State) (core unit sn : Nat) : State :=
  let s := s.updCore core fun c => { c with unacked := c.unacked.filter fun e => decide (e.2.1 ≠ sn) }
  let hit := fun (w : Widening) =>
    decide (w.core = core ∧ w.unit = unit) && (w.snap.elim false fun l => l.contains sn)
  let ended := s.widens.filter fun w => hit w && decide (w.snap = some [sn])
  { s with widens := s.widens.map fun w =>
             if hit w then { w with snap := w.snap.map fun l => l.filter (· ≠ sn) } else w,
           agenda := s.agenda ++ ended.map fun w => Ev.widened w.key }

/-- The step that sends a channel operation again (R405). -/
def redoChan (m : ChanMsg) : Ev := if m.send then .channelSendAtHome m else .channelReceiveAtHome m

/-- The fault of an access that has been sent (R401): the process stops, its destination stays pending. -/
def State.accessFault (s : State) (pid : Nat) (d : Done) (f : FaultInfo) : State :=
  let p := s.proc pid
  let held := p.outst.any fun o => decide (o.sn = d.sn) && o.held
  let o : Owed :=
    { atIssue := false, pc := d.pc, req := d.req, redo := d.chan.map redoChan,
      writes := d.writes.map (·.1) ++ (match d.req with | some r => if r.op.loads then [r.rd] else [] | none => []),
      cls := d.cls, sn := d.sn, entry := false, held := held,
      again := if d.req.isNone && d.chan.isNone then p.selRedo else none }
  if p.isHelper then (s.faultHelper (pid - 2 ^ 64) f d.pc).helperOwes (pid - 2 ^ 64) o
  else
    let s := s.updProc pid fun p => { p with wait := if held then 0 else p.wait, wkind := if held then 0 else p.wkind,
                                             armed := if held then none else p.armed, waiting := false }
    let s := if held then s.setRecWait pid 0 else s
    s.faultProc pid f o false

/-- The process waits for no other held operation of its own, or parks on the next (R114). -/
def State.wakeOr (s : State) (pid : Nat) : State :=
  match s.waiters.find? fun r => decide (r.agent = Agent.proc pid) with
  | some r => (s.updProc pid fun p => { p with wait := r.pa, wkind := waitKind r.op }).setRecWait pid r.pa
  | none => s.wake pid

/-- The slot issues nothing until the operation has ended: `join` and `park` (R306, R307). -/
def waitsAtOwner (o : MemOp) : Bool :=
  match o with
  | .park _ | .join => true
  | _ => false

/-- An access comes back to its issuer: value, acknowledgement or fault (R123, R285, R287, R401). -/
def State.comeBack (s : State) (d : Done) (held : Bool) : State :=
  let pid := d.agent.pid
  let p := s.proc pid
  if p.pid ≠ pid ∨ p.st = .free then s
  else
    let s := match d.req with
      | some r => if r.op.stores then s.drained r.core r.unit d.sn else s
      | none => s
    let wasHeld := p.outst.any fun o => decide (o.sn = d.sn) && o.held
    let s :=
      match d.fault with
      | some f =>
        let s := s.accessFault pid d f
        if d.cls = CntClass.stores then s.touch pid fun p => { p with cnt := p.cnt.down .stores } else s
      | none =>
        let s := s.touch pid fun p =>
          let p : Proc :=
            { (p.orFsr d.flags) with
                cnt := p.cnt.down d.cls, chunk := p.chunk.map fun (c : Chunk) => { c with fsr := c.fsr ||| d.flags.setWidth 64 } }
          if d.miss then p.noteMiss else p
        let s := s.resultsTo pid d.writes wasHeld
        if held && wasHeld then s.wakeOr pid else s
    let s := s.updProc pid fun p =>
      { p with outst := p.outst.filter fun o => decide (o.sn ≠ d.sn),
               chan := if d.chan.isSome && d.cls == .none then p.chan - 1 else p.chan,
               waiting := p.waiting && !((d.req.elim false fun r => waitsAtOwner r.op || (p.task && suspendsTask r.op)) ||
                                        (p.task && d.chan.elim false fun m => m.kind != 2)) }
    let s := if (s.proc pid).unit = 10 ∧ (s.proc pid).wait = 0 then s.push (.slotFill (s.physOf p.home)) else s
    s.settleDone pid

/-- The value of a load reaches its issuer (R123, R214). -/
def execLoadReturn (d : Done) (s : State) : Out := .next (s.comeBack d false)

/-- A held operation completes to its process (R114, R170). -/
def execHeldCompletion (d : Done) (s : State) : Out := .next (s.comeBack d true)

/-- An acknowledgement reaches the issuer of a store-type access (R123, R287); that of the decrement of `exit` ends
the record (R185, R306). -/
def execAcknowledgement (d : Done) (s : State) : Out :=
  let s := s.comeBack d false
  match d.req, d.fault with
  | some r, none => .next (if r.op = .joinDec then s.finish r.agent.pid else s)
  | _, _ => .next s

/-! ### Widenings (R134) -/

/-- WIDEN at the core: the snapshot of the unit's store-type accesses not yet acknowledged (R134 step 3). -/
def execWiden (key : Nat) (s : State) : Out :=
  match s.widens.find? fun w => decide (w.key = key ∧ w.snap = none) with
  | none => .next s
  | some w =>
    let snap := ((s.core w.core).unacked.filter fun e => decide (e.1 = w.unit)).map fun e => e.2.1
    let s := { s with widens := s.widens.map fun v => if v = w then { v with snap := some snap } else v }
    .next (if snap.isEmpty then s.push (.widened key) else s)

/-- WIDENED at the owner: the widening ends, RSCOPE becomes 6 unless the word was rewritten, and each acquirer is
released (R134 step 4). -/
def execWidened (key : Nat) (s : State) : Out :=
  match s.widens.find? fun w => decide (w.key = key ∧ w.snap = some []) with
  | none => .next s
  | some w =>
    let sd := s.sideOf key
    let s := { s with widens := s.widens.erase w }
    let s := if w.rewritten then s else s.setSide key (mkSide 6 (sideDepth sd) (sideState sd) (sideVersion sd))
    .next ((s.pushAll (w.acquirers.map Ev.released)).pass (key / 64))

/-- RELEASED at an acquirer: PEND falls (R134 step 5, R135). -/
def execReleased (a : Agent) (s : State) : Out :=
  match a with
  | .proc pid =>
    if (s.proc pid).pid = pid then
      .next ((s.touch pid fun p => p.setMiss (· &&& ~~~2#64)).pushAll
        [.slotFill (s.proc pid).core, .slotFill (s.physOf (s.proc pid).home)])
    else .next s
  | .helper h => .next (s.touch (helperKey h) fun p => p.setMiss (· &&& ~~~2#64))
  | .peerOp n t => .next (s.sendFlit n 0 1 (.released t))
  | _ => .next s

/-! ### Translation walks (R45–R50) -/

/-- A requester's access fails with a walk (R50); `f` is its cause and words. -/
def State.walkFails (s : State) (r : Req) (cause : Nat) (words : List Word) : State :=
  s.failAt r { cause := cause, tval := r.va, words := words } false

/-- An access looks its translation up again (R50, R126). -/
def State.lookUp (s : State) (r : Req) : State :=
  match checkAccess s r.core r.ctx r.va r.size r.op.need (r.op.plain r.size) with
  | .ok pa space => if s.walkBehind r then { s with walkWait := s.walkWait ++ [r] } else s.toOwner r pa space
  | .miss _ _ => s.joinWalk r
  | .fail cause words => s.walkFails r cause words
  | .peer _ => s

/-- A requester of a walk that has ended: it goes on to the owner of its word or fails with the walk's cause, by its own
rights (R47–R50). -/
def walkEnds (s : State) (r : Req) (res : WalkEnd) : State :=
  match res with
  | .fail reason level => s.walkFails r 0x042 [xlateWord reason level r.op.need]
  | .ecc => s.walkFails r 0x047 []
  | .ok e =>
    match useTlb e r.space (r.va.toNat % 2 ^ 53) r.op.need with
    | .ok pa sp => if sp = 1 ∧ (s.desc r.ctx).xhost = false then s.walkFails r 0x043 [] else s.toOwner r pa sp
    | .fail c ws => s.walkFails r c ws
    | _ => s

/-- Misses of a die that wait for a slot take those that are free, in arrival order (R50). -/
def State.takeSlots (s : State) (die fuel : Nat) : State :=
  match fuel with
  | 0 => s
  | n + 1 =>
    match s.walkQ.find? fun r => decide (dieOf r.core = die) with
    | none => s
    | some r =>
      if (s.walksOf die).length ≥ 128 then s
      else
        let q := { s with walkQ := s.walkQ.erase r }
        let page := r.va.toNat % 2 ^ 53 / 2 ^ 16
        (match checkAccess q r.core r.ctx r.va r.size r.op.need (r.op.plain r.size) with
         | .miss _ _ => if q.walks.any fun w => w.of die r.ctx r.space page then q.joinWalk r else q.startWalk r page
         | _ => q.lookUp r).takeSlots die n

/-- Accesses that wait for the end of a walk look up again, in arrival order (R50, R126). -/
def State.relook (s : State) : State := s.walkWait.foldl State.lookUp { s with walkWait := [] }

/-- An entry joins the cache of a unit that does not hold it. -/
def State.cacheEntry (s : State) (unit : Nat) (c : Byte) (space va : Nat) (e : Tlb) : State :=
  if (s.findTlb unit c space va).isSome then s else s.addTlb unit e

/-- A walk ends: its entry joins the caches of the requesters' benches, each requester goes on or fails, its slot is
free for the next miss, and the accesses that waited look up again (R47–R50). -/
def State.endWalk (s : State) (w : Walk) : WalkEnd × State :=
  let va := w.vpage * 2 ^ 16
  let r := { s with walks := s.walks.erase w }.tableWalk w.die w.ctx w.space va
  let s := match r.1 with
    | .ok e => w.joined.foldl (fun s q => s.cacheEntry (tlbUnit q.core) w.ctx w.space va e) r.2
    | _ => r.2
  let s := w.joined.foldl (fun s q => walkEnds s q r.1) s
  (r.1, (s.takeSlots w.die s.walkQ.length).relook)

/-- A walk of the translation tables (R50). -/
def execTranslationWalk (die : Nat) (ctx : Byte) (space vpage : Nat) (s : State) : Out :=
  match s.walks.find? fun w => w.of die ctx space vpage with
  | none => .next s
  | some w => .next (s.endWalk w).2

/-- Walks of a die end, the oldest first, until a slot is free and no earlier miss waits for it (R50). -/
def State.awaitSlot (s : State) (die fuel : Nat) : State :=
  match fuel with
  | 0 => s
  | n + 1 =>
    match (s.walksOf die).head? with
    | none => s
    | some w =>
      if (s.walksOf die).length < 128 && !(s.walkQ.any fun r => decide (dieOf r.core = die)) then s
      else (s.endWalk w).2.awaitSlot die n

/-- The outcome of a walk for a requester. -/
def ofWalk (res : WalkEnd) (space va : Nat) (n : Need) : Chk :=
  match res with
  | .ok e => useTlb e space va n
  | .fail r l => .fail 0x042 [xlateWord r l n]
  | .ecc => .fail 0x047 []

/-- A walk made in the step that needs it, by a requester that waits for it: a fetch, an engine beat, a sill unit. It
joins the walk in flight of its page, which then ends in this step, or takes a slot, for which earlier walks end (R50).
DEDUCED, log entry 77. -/
def walkNow (s : State) (core : Nat) (c : Byte) (space va : Nat) (n : Need) : Chk × State :=
  let die := dieOf core
  let r := match s.walks.find? fun w => w.of die c space (va / 2 ^ 16) with
    | some w => s.endWalk w
    | none => (s.awaitSlot die (s.walks.length + s.walkQ.length)).tableWalk die c space va
  (ofWalk r.1 space va n, match r.1 with | .ok e => r.2.cacheEntry (tlbUnit core) c space va e | _ => r.2)

/-- The checks of R38 with the walk made at once. DEDUCED, log entry 77. -/
def checkNow (s : State) (core : Nat) (c : Byte) (va : Word) (size : Nat) (n : Need) (reg : Bool) : Chk × State :=
  let s := s.cacheDesc c
  match checkAccess s core c va size n reg with
  | .miss space a => walkNow s core c space a n
  | r => (r, s)

/-! ### Bundles fetched elsewhere (R34, R211, R420) -/

/-- The request fetches a bundle from host memory or from a peer (R34, R211). -/
def isFetch (r : Req) : Bool := decide (r.unit = 15) && (match r.agent with | .proc _ => true | _ => false)

/-- A bundle that host memory or a peer has returned goes to its process. -/
def State.fetchedBundle (s : State) (r : Req) (x : Word) : State :=
  s.touch r.agent.pid fun p => { p with fetched := some (r.va, x), waiting := false }

/-- A fetch that failed (R43, R401): its bundle issues again at RETRY. -/
def State.fetchFailed (s : State) (r : Req) (f : FaultInfo) : State :=
  (s.touch r.agent.pid fun p => { p with waiting := false }).faultProc r.agent.pid f
    { atIssue := true, pc := r.pc, req := none, redo := none, writes := [], cls := .none, sn := 0, entry := false, again := none }
    false

end Sys2Proof.Machine
end

