-- ==== Sys2Proof/Machine/Beats.lean ====
section
/-! DEFINITION. Reads and writes of up to 64 bytes that a unit makes in one step: engine and distributor beats,
ports, launch units, logs (R44, R62, R85, R110). All are checked before any byte moves. -/

namespace Sys2Proof.Machine

/-- The first byte of every unit of poisoning among `n` bytes from `pa`: words of SRAM, 64-byte units of HBM. -/
def guardPoints (pa n : Nat) : List Nat :=
  if pa ≥ 2 ^ 54 then (List.range ((pa % 8 + n + 7) / 8)).map fun i => pa / 8 * 8 + 8 * i
  else (List.range ((pa % 64 + n + 63) / 64)).map fun i => pa / 64 * 64 + 64 * i

/-- `n` bytes from a checked address, or the cause that refuses them (R62, R85). -/
def readBytes (s : State) (pa n : Nat) : Except Nat (List Byte) × State :=
  match s.guardList (guardPoints pa n) with
  | (none, s) => (.ok (bytesAt s.mem pa n), s)
  | (some _, s) => (.error (eccCause pa), s)

/-- The words that `n` bytes from `pa` touch. -/
def wordsTouched (pa n : Nat) : List Nat := (List.range ((pa % 8 + n + 7) / 8)).map fun i => pa / 8 * 8 + 8 * i

/-- The words of SRAM, or the unit of HBM, that a write of `n` bytes fills only in part and so must merge with what stands
there (R62, R85). -/
def mergePoints (pa n : Nat) : List Nat :=
  if pa ≥ 2 ^ 54 then (wordsTouched pa n).filter fun w => !(decide (pa ≤ w) && decide (w + 8 ≤ pa + n))
  else if pa % 64 = 0 ∧ n = 64 then [] else [pa / 64 * 64]

/-- Whether a write of `n` bytes to the words from `pa` is accepted (R62, R85, R110); the cause if not. -/
def writeRefused (s : State) (pa n : Nat) : Option Nat × State :=
  match s.guardList (mergePoints pa n) with
  | (some _, s) => (some (eccCause pa), s)
  | (none, s) =>
    (if pa ≥ 2 ^ 54 && (wordsTouched pa n).any (fun w => !s.isPoison w && sideDepth (s.sideOf w) != 0) then some 0x062 else none, s)

/-- The bytes of word `w` among `bs` placed at `pa`: the nibble mask and the data. -/
def wordPart (pa : Nat) (bs : List Byte) (w : Nat) : Nat × Word :=
  let lo := max pa w
  let hi := min (pa + bs.length) (w + 8)
  (nibbleMask (lo - w) (hi - lo),
   BitVec.ofNat 64 (bytesToNat ((bs.drop (lo - pa)).take (hi - lo)) * 2 ^ (8 * (lo - w))))

/-- A whole unit of HBM is about to be written: its poison, and the error there, end (R85). -/
def State.clearUnit (s : State) (pa n : Nat) : State :=
  if pa < 2 ^ 54 ∧ pa % 64 = 0 ∧ n = 64 then (s.setPoison pa false).setErrors pa 0 else s

/-- Accepted bytes are written word by word as plain writes of a unit (R110, R133). -/
def writeParts (s : State) (pa : Nat) (bs : List Byte) (ws : List Nat) (scope : Nat) : State :=
  match ws with
  | [] => s
  | w :: r =>
    let p := wordPart pa bs w
    match s.plainWrite w p.2 p.1 scope 0 99 with
    | .ok s => writeParts s pa bs r scope
    | .error (_, s) => writeParts s pa bs r scope

/-- Bytes written at a checked address, waiters and watching units included, or the cause that refuses them. -/
def writeBytes (s : State) (pa : Nat) (bs : List Byte) (scope : Nat) : Except (Nat × State) State :=
  match writeRefused s pa bs.length with
  | (some c, s) => .error (c, s)
  | (none, s) => .ok ((writeParts (s.clearUnit pa bs.length) pa bs (wordsTouched pa bs.length) scope).stirRange pa bs.length)

/-- A server's intake is full: a beat for it waits in the mesh (R68, R83). -/
def State.serverFull (s : State) (pa : Nat) : Bool := decide (pa < 2 ^ 54) && intakeFull (stackOf pa) (s.blocked ++ s.agenda)

/-- The words at +32 of a record for a refused beat (R118). -/
def beatWords (s : State) (pa cause : Nat) : List Word := if cause = 0x062 then [s.verWord (pa / 8 * 8) 3 0] else []

/-- A handler has locked the 64-byte unit: a unit's beat waits (R137, R186). -/
def State.isLocked (s : State) (pa : Nat) : Bool := SMap.get 0 s.locks (pa / 64) != 0

/-- What a unit asks of host memory: `who` is its core, or 1,024. DEDUCED, log entry 13. -/
def hostAsk (core : Nat) (c : Byte) (va : Word) (pa n sn : Nat) : Req :=
  { agent := .host, core := core, unit := 14, ctx := c, va := va, pa := pa, space := 1, size := n,
    op := .load false, ord := .rlx, scope := 0, rd := 0, pc := 0, sn := sn }

/-- The cause of a beat that waits for host memory; no fault has it (R398). -/
def notYet : Nat := 0

/-- A read of host memory goes out under a free tag of the 1,024, with its time-out of 50 ms; without one the state is
as it was (R416, R420). -/
def State.startHostRead (s : State) (r : Req) (pa n : Nat) : State :=
  match (List.range 1024).find? fun t => !s.hostReads.any fun e => decide (e.1 = t) with
  | none => s
  | some t =>
    ({ s with accs := s.accs + 1, hostReads := s.hostReads ++ [(t, r)], out := .hostRead t pa n :: s.out }).after
      (50000 * Config.cyclesPerUs) (.hostReadTimeout t)

/-- Bytes of host memory for a unit: those that have come, or a read sent to the host (R420). An answer of another
length is the status of a read that failed. -/
def State.askHost (s : State) (core : Nat) (c : Byte) (va : Word) (pa n : Nat) :
    Except FaultInfo (List Byte) × State :=
  let same := fun (r : Req) => decide (r.core = core ∧ r.ctx = c ∧ r.pa = pa ∧ r.size = n ∧ r.agent = Agent.host)
  match s.hostGot.find? fun e => same e.1 with
  | some e =>
    if e.2.length = n then (.ok e.2, s) else (.error { cause := 0x043, tval := va, words := [BitVec.ofNat 64 (bytesToNat e.2)] }, s)
  | none =>
    if s.hostReads.any fun e => same e.2 then (.error { cause := notYet, tval := va, words := [] }, s)
    else (.error { cause := notYet, tval := va, words := [] }, s.startHostRead (hostAsk core c va pa n (s.accs + 1)) pa n)

/-- A unit has used the host bytes that it waited for. -/
def State.dropHost (s : State) (core : Nat) (c : Byte) : State :=
  { s with hostGot := s.hostGot.filter fun e => !decide (e.1.core = core ∧ e.1.ctx = c ∧ e.1.unit = 14) }

/-- A beat that a unit reads under a context: the bytes, or the fault (cause `notYet`: it waits for the host). -/
def readBeat (s : State) (core : Nat) (c : Byte) (va : Word) (n : Nat) : Except FaultInfo (List Byte) × State :=
  let k := checkNow s core c va n needRd false
  match k.1 with
  | .ok pa space =>
    if space = 1 then k.2.askHost core c va pa n
    else if k.2.isLocked pa || k.2.serverFull pa then (.error { cause := notYet, tval := va, words := [] }, k.2)
    else
      match readBytes k.2 pa n with
      | (.ok bs, s) => (.ok bs, s)
      | (.error e, s) => (.error { cause := e, tval := va, words := [] }, s)
  | .fail e ws => (.error { cause := e, tval := va, words := ws }, k.2)
  | _ => (.error { cause := 0x043, tval := va, words := [] }, k.2)

/-- A beat that a unit writes under a context: the state, or the fault; nothing is written then. A write to host
memory leaves through the host port (R420). -/
def writeBeat (s : State) (core : Nat) (c : Byte) (va : Word) (bs : List Byte) (scope : Nat) :
    Except FaultInfo Unit × State :=
  let k := checkNow s core c va bs.length needWr false
  match k.1 with
  | .ok pa space =>
    if space = 1 then (.ok (), { k.2 with out := .hostWrite pa bs :: k.2.out })
    else if k.2.isLocked pa || k.2.serverFull pa then (.error { cause := notYet, tval := va, words := [] }, k.2)
    else
      match writeBytes k.2 pa bs scope with
      | .ok s => (.ok (), s)
      | .error (e, s) => (.error { cause := e, tval := va, words := beatWords s pa e }, s)
  | .fail e ws => (.error { cause := e, tval := va, words := ws }, k.2)
  | _ => (.error { cause := 0x043, tval := va, words := [] }, k.2)

/-- The seat of a unit that works for the host: it has no core (R36). -/
def hostSeat : Nat := sillSeat 0

/-- Bytes of a range read beat by beat, each beat within its 64-byte unit; `fuel` beats. -/
def readRange (fuel : Nat) (s : State) (core : Nat) (c : Byte) (va : Word) (n : Nat) :
    Except FaultInfo (List Byte) × State :=
  match fuel with
  | 0 => (.ok [], s)
  | f + 1 =>
    if n = 0 then (.ok [], s)
    else
      let k := min n (64 - va.toNat % 64)
      match readBeat s core c va k with
      | (.error e, s) => (.error e, s)
      | (.ok bs, s) =>
        match readRange f s core c (va + BitVec.ofNat 64 k) (n - k) with
        | (.ok r, s) => (.ok (bs ++ r), s)
        | e => e

/-- Bytes written to a range beat by beat; the beats before a failed one stay written (R44). -/
def writeRange (fuel : Nat) (s : State) (core : Nat) (c : Byte) (va : Word) (bs : List Byte) :
    Except FaultInfo Unit × State :=
  match fuel with
  | 0 => (.ok (), s)
  | f + 1 =>
    if bs.isEmpty then (.ok (), s)
    else
      let k := min bs.length (64 - va.toNat % 64)
      match writeBeat s core c va (bs.take k) 0 with
      | (.error e, s) => (.error e, s)
      | (.ok (), s) => writeRange f s core c (va + BitVec.ofNat 64 k) (bs.drop k)

/-- A peer address among the bytes a unit touches (R33). -/
def State.isPeerAddr (s : State) (va : Word) : Bool :=
  let n := va.toNat / 2 ^ 56
  decide (n ≠ 0) && decide (n ≠ 0xFF) && decide (n ≠ s.mynode)

/-! ### What a unit asks of an owner and waits for -/

/-- What a unit asks of an owner elsewhere. -/
def unitReq (s : State) (core unit : Nat) (c : Byte) (va : Word) (size : Nat) (op : MemOp) : Req :=
  { agent := .host, core := core, unit := unit, ctx := c, va := va, pa := va.toNat, space := 0, size := size, op := op,
    ord := .rlx, scope := 0, rd := 0, pc := 0, sn := s.accs + 1 }

/-- An access of a unit that an owner elsewhere answers: its answer, or it goes out and the unit waits. Answers stand
until `dropAsks`. An answer of two bytes is a cause. -/
def State.ask (s : State) (r : Req) (send : State → State) : Except FaultInfo Word × State :=
  let same := fun (q : Req) => decide ({ q with sn := r.sn, passed := r.passed } = r)
  match s.hostGot.find? fun e => same e.1 with
  | some e =>
    (if e.2.length = 8 then .ok (BitVec.ofNat 64 (bytesToNat e.2))
     else .error { cause := bytesToNat e.2, tval := r.va, words := [] }, s)
  | none =>
    let sent := (s.peers.any fun e => same e.2) || (s.agenda ++ s.blocked).any fun e =>
      match e with
      | .ownerAccess q | .subByteStore q | .trussPop q => same q
      | _ => false
    (.error { cause := notYet, tval := r.va, words := [] }, if sent then s else send { s with accs := r.sn })

/-- A unit has used the answers that it waited for. -/
def State.dropAsks (s : State) (core unit : Nat) : State :=
  { s with hostGot := s.hostGot.filter fun e => !decide (e.1.core = core ∧ e.1.unit = unit) }

end Sys2Proof.Machine
end

