-- ==== Sys2Proof/Machine/LogSteps.lean ====
section
/-! DEFINITION. The log's ring and registers (spec/07 R161–R163): units written, padding, and writes of LOGCTL,
LOGHEAD and LOGTAIL. -/

namespace Sys2Proof.Machine

/-- The watermark in records (R161). -/
def watermark (x : Ctxt) : Nat := field x.logctl 16 16 * 2 ^ (field x.logsize 0 5 - 16)

/-- Records of one deciding unit, oldest first. -/
def Ctxt.staged (x : Ctxt) (unit : Nat) : List LogRec := (x.staging.filter fun e => decide (e.1 = unit)).map (·.2)

/-- A deciding unit whose next 64-byte unit is complete. -/
def Ctxt.complete (x : Ctxt) : Option Nat := (x.staging.find? fun e => decide ((x.staged e.1).length ≥ 4)).map (·.1)

/-- A deciding unit whose first record has waited 1,024 cycles (R162). -/
def Ctxt.overdue (x : Ctxt) (clk : Nat) : Option Nat :=
  (x.stagedAt.find? fun e => decide (e.2 + 1024 ≤ clk) && !(x.staged e.1).isEmpty).map (·.1)

/-- Writing of the ring goes on with what is ready (R162). -/
def State.moreLog (s : State) (c : Byte) : State :=
  let x := s.ctx c
  let s := if x.complete.isSome then s.push (.logUnitWrite c) else s
  if (x.overdue s.clk).isSome then s.push (.logPadTimeout c) else s

/-- One 64-byte unit of four records at HEAD (R162). -/
def State.writeLogUnit (s : State) (c : Byte) (unit : Nat) (recs : List LogRec) : State :=
  let x := s.ctx c
  let n := 2 ^ field x.logsize 0 5
  if x.logctl.getLsbD 4 then s
  else if x.loghead.toNat + 4 > x.logtail.toNat + n then
    (if x.logctl.getLsbD 2 then s
     else s.updCtx c fun x =>
       { x with logctl := setField (x.logctl ||| 4) 32 32 (satAdd (field x.logctl 32 32) 1 (2 ^ 32 - 1)) })
  else
    let va := x.logbase + BitVec.ofNat 64 (16 * (x.loghead.toNat % n))
    let pads := List.replicate (4 - recs.length) ({ w0 := BitVec.ofNat 64 (0x3F * 2 ^ 58), w1 := 0 } : LogRec)
    let bs := (recs ++ pads).flatMap fun r => natToBytes 8 r.w0.toNat ++ natToBytes 8 r.w1.toNat
    match writeBeat s (sillSeat 0) c va bs 0 with
    | (.error f, s) =>
      if f.cause = notYet then s.later (.logUnitWrite c)
      else (s.updCtx c fun x => { x with logctl := x.logctl ||| 16 }).faultReport c { f with tval := va }
    | (.ok (), s) =>
      (s.updCtx c fun x =>
        let rest := (x.staging.filter fun e => decide (e.1 = unit)).drop recs.length
        let others := x.staging.filter fun e => decide (e.1 ≠ unit)
        let x := { x with loghead := x.loghead + 4, staging := others ++ rest,
                          stagedAt := if rest.isEmpty then SMap.put 0 x.stagedAt unit 0 else x.stagedAt }
        let wm := watermark x
        if wm ≠ 0 ∧ x.loghead.toNat - x.logtail.toNat ≥ wm then { x with logctl := x.logctl ||| 8 } else x).moreLog c

/-- A deciding unit whose next 64-byte unit is complete writes it (R162). -/
def execLogUnitWrite (ctx : Byte) (s : State) : Out :=
  let x := s.ctx ctx
  match x.complete with
  | none => .next s
  | some u => .next (s.writeLogUnit ctx u ((x.staged u).take 4))

/-- A unit whose first record has waited 1,024 cycles is completed with padding (R162). -/
def execLogPadTimeout (ctx : Byte) (s : State) : Out :=
  let x := s.ctx ctx
  match x.overdue s.clk with
  | none => .next s
  | some u => .next (s.writeLogUnit ctx u ((x.staged u).take 4))

/-- Every staged record of a context is written, padded, when its launch ends (R162). -/
def State.flushLog (s : State) (c : Byte) : State :=
  ((s.ctx c).stagedAt.map (·.1)).foldl (fun s u =>
    (List.range 4).foldl (fun s _ =>
      let rs := (s.ctx c).staged u
      if rs.isEmpty then s else s.writeLogUnit c u (rs.take 4)) s) s

/-- The counters of a context start: a new epoch, every counter zero (R160). -/
def State.startCounters (s : State) (c : Byte) : State :=
  s.updCtx c fun x => { x with epoch := x.epoch + 1, counters := [] }

/-- HEAD and TAIL zeroed, as by a write of MODE (R161). -/
def Ctxt.rewind (x : Ctxt) : Ctxt :=
  { x with loghead := 0, logtail := 0, filed := 0, replay := [], logctl := x.logctl &&& ~~~4#64 }

/-- A write of LOGCTL: MODE only while no record-mode launch runs; W1C fields; clearing ERR retries the write (R161,
R162). -/
def State.writeLogctl (s : State) (c : Byte) (x : Word) : State :=
  let old := s.ctx c
  let s := s.updCtx c fun k =>
    let ctl := k.logctl &&& ~~~(x &&& 0x1A#64)
    let ctl := setField ctl 32 32 (field (BitVec.ofNat 64 (field ctl 32 32) &&& ~~~(x >>> 32)) 0 32)
    let ctl := setField ctl 16 16 (field x 16 16)
    if k.recording = 0 then ({ k with logctl := setField ctl 0 1 (field x 0 1) } : Ctxt).rewind
    else { k with logctl := ctl }
  if old.logctl.getLsbD 4 && x.getLsbD 4 then s.moreLog c else s

/-- A write of LOGTAIL by software, in record mode; writing of the ring resumes (R161, R162). -/
def State.writeLogtail (s : State) (c : Byte) (x : Word) : State :=
  if (s.ctx c).logctl.getLsbD 0 then s
  else (s.updCtx c fun k => { k with logtail := x, logctl := k.logctl &&& ~~~4#64 }).moreLog c

/-- A write of LOGHEAD: in replay mode the count of valid records; lowering it or overfilling the ring is ignored
(R161). -/
def State.writeLoghead (s : State) (c : Byte) (x : Word) : State :=
  let k := s.ctx c
  if !k.logctl.getLsbD 0 || decide (x.toNat < k.loghead.toNat) ||
     decide (x.toNat - k.logtail.toNat > 2 ^ field k.logsize 0 5) then s
  else s.updCtx c fun k => { k with loghead := x }

/-- LOGBASE and LOGSIZE, while no record-mode launch runs (R161). -/
def State.writeLogbase (s : State) (c : Byte) (x : Word) : State :=
  s.updCtx c fun k => if k.recording = 0 then { k with logbase := x } else k
def State.writeLogsize (s : State) (c : Byte) (x : Word) : State :=
  s.updCtx c fun k => if k.recording = 0 then { k with logsize := x &&& 31 } else k

/-- A write of LOGCTL as a step (R161). -/
def execLogctlWrite (ctx : Byte) (x : Word) (s : State) : Out := .next (s.writeLogctl ctx x)

/-- A write of LOGTAIL as a step (R162). -/
def execLogtailWrite (ctx : Byte) (x : Word) (s : State) : Out := .next (s.writeLogtail ctx x)

/-- A write of LOGHEAD as a step (R161). -/
def execLogheadWrite (ctx : Byte) (x : Word) (s : State) : Out := .next (s.writeLoghead ctx x)

end Sys2Proof.Machine
end

