-- ==== Sys2Proof/Machine/Home.lean ====
section
/-! DEFINITION. The home of a channel (spec/08 R171–R181, spec/13 R288–R301): the record and its waiters, matching
senders and receivers, completion at either end, selects, and sends that a unit makes. -/

namespace Sys2Proof.Machine

/-! ### The record (R171) -/

/-- The type word's fields. -/
structure ChanType where
  ctx : Nat
  closed : Bool
  scope : Nat
  ep : Bool
  depth : Nat
  log2e : Nat
  kind : Nat
  deriving DecidableEq, Repr

def chanType (w : Word) : ChanType :=
  { ctx := field w 32 16, closed := w.getLsbD 28, scope := field w 25 3, ep := w.getLsbD 24, depth := field w 16 8,
    log2e := field w 8 8, kind := field w 0 8 }

/-- LOG2E lies within the bounds of the kind (R171). -/
def ChanType.sizeOk (t : ChanType) : Bool :=
  match t.kind with
  | 0 => decide (t.log2e ≤ 3)
  | 1 => decide (t.log2e ≤ 6)
  | 2 => decide (6 ≤ t.log2e) && decide (t.log2e ≤ 20)
  | _ => false

/-- HEAD and TAIL (R171). -/
def State.chanHead (s : State) (k : Nat) : Nat := field (s.peek (k + 32)) 32 32
def State.chanTail (s : State) (k : Nat) : Nat := field (s.peek (k + 32)) 0 32
def State.setHeadTail (s : State) (k h t : Nat) : State :=
  s.poke (k + 32) (BitVec.ofNat 64 (h % 2 ^ 32 * 2 ^ 32 + t % 2 ^ 32))

/-- Elements buffered. -/
def State.chanLen (s : State) (k : Nat) : Nat := (s.chanTail k + 2 ^ 32 - s.chanHead k) % 2 ^ 32

/-- The memory key of BUF. -/
def State.chanBuf (s : State) (k : Nat) : Nat := (s.peek (k + 24)).toNat % 2 ^ 56

/-! ### External endpoints (R87, R99, R177, R293) -/

inductive ExtEnd where
  | server (stack : Nat)
  | transmit (port prio : Nat)
  | ring (port j : Nat)
  deriving DecidableEq, Repr

/-- The endpoint that a space 3 address names; bits [1:0] are cleared. -/
def extEnd (a : Nat) : Option ExtEnd :=
  let b := regBlock a
  let o := regOff a
  let p := 2 * regTower a + o / 0x10000
  let q := o % 0x10000
  if 0x08 ≤ b ∧ b ≤ 0x0D then (if o = 0x100 then some (.server (6 * regTower a + b - 8)) else none)
  else if b = 0x10 ∧ o < 0x20000 then
    (if 0x3000 ≤ q ∧ q < 0x3040 ∧ q % 8 = 0 then some (.transmit p ((q - 0x3000) / 8))
     else if 0x2000 ≤ q ∧ q < 0x2800 ∧ q % 32 = 0 then some (.ring p ((q - 0x2000) / 32))
     else none)
  else none

/-- A port's registers (R95). -/
def portReg (port off : Nat) : Nat := blockAddr (port / 2) 0x10 (port % 2 * 0x10000 + off)

/-- The state of a port. -/
def State.port (s : State) (p : Nat) : EthPort := SMap.get EthPort.empty s.eth p
def State.setPort (s : State) (p : Nat) (x : EthPort) : State := { s with eth := SMap.put EthPort.empty s.eth p x }

/-- A ring's descriptor words (R96). -/
def State.ringWord (s : State) (p j k : Nat) : Word := s.reg (portReg p (0x2000 + 32 * j + 8 * k))

/-- The ring is in service and not stopped. -/
def State.ringUp (s : State) (p j : Nat) : Bool := (s.ringWord p j 2).getLsbD 63 && !(s.ringWord p j 2).getLsbD 62

/-- Slots of a ring, the presence word of a slot, its payload, and the version of the n-th use (R96, R97). -/
def State.ringN (s : State) (p j : Nat) : Nat := 2 ^ field (s.ringWord p j 2) 24 5
def State.presence (s : State) (p j i : Nat) : Nat := (s.ringWord p j 0).toNat % 2 ^ 56 + 8 * i
def State.payload (s : State) (p j i : Nat) : Word :=
  s.ringWord p j 1 + BitVec.ofNat 64 (i * 2 ^ field (s.ringWord p j 2) 16 4)
def State.ringVersion (s : State) (p j d : Nat) : Nat := (d / s.ringN p j + 1) % 256

/-- The presence word holds version `v` (R108). -/
def State.hasVersion (s : State) (a v : Nat) : Bool := sideVersion (s.sideOf (s.slotOf a v)) == v % 256

/-- Bytes in a port's transmit buffer at a priority (R293). -/
def EthPort.txBytes (x : EthPort) (prio : Nat) : Nat :=
  ((x.tx.filter fun f => decide (f.1 = prio)).map fun f => f.2.length).foldl (· + ·) 0

/-- Replies that wait in a server's reply store (R92). -/
def State.repliesOf (s : State) (k : Nat) : Nat := (s.chanq.filter fun m => decide (m.agent = .sill (100 + k))).length

/-- A memory server's intake has room for one more request (R83, R295): those that it has accepted and not performed stand
in its queues too. -/
def State.intakeRoom (s : State) (k : Nat) : Bool := !intakeFull k (s.blocked ++ s.agenda)

/-- An external endpoint would complete an operation at this step (R295). -/
def State.extReady (s : State) (e : ExtEnd) : Bool :=
  match e with
  | .server k => s.intakeRoom k
  | .transmit p pr => decide ((s.port p).txBytes pr + 9212 ≤ 256 * 1024) &&
    !(s.port p).waiting.any fun m => decide (extEnd m.key = some (.transmit p pr))
  | .ring p j =>
    let c := field (s.ringWord p j 3) 32 32
    s.ringUp p j && s.hasVersion (s.presence p j (c % s.ringN p j)) (s.ringVersion p j c)

/-! ### Waiters -/

/-- Senders and receivers that wait at a channel, in arrival order. -/
def State.sendersAt (s : State) (k : Nat) : List ChanMsg := s.chanq.filter fun m => decide (m.key = k) && m.send
def State.receiversAt (s : State) (k : Nat) : List ChanMsg := s.chanq.filter fun m => decide (m.key = k) && !m.send

/-- The record address that +8 or +16 names: the oldest waiter's (R171). -/
def waiterWord (ms : List ChanMsg) : Word :=
  BitVec.ofNat 64 (min ms.length 0xFFFF * 2 ^ 48 +
    (match ms with | m :: _ => m.agent.pid % 2 ^ 48 | [] => 0))

/-- The home keeps +8 and +16 (R171). -/
def State.syncWaiters (s : State) (k : Nat) : State :=
  (s.poke (k + 8) (waiterWord (s.sendersAt k))).poke (k + 16) (waiterWord (s.receiversAt k))

/-- A message leaves the waiters. -/
def State.unwait (s : State) (m : ChanMsg) : State :=
  { s with chanq := s.chanq.filter fun q => decide (q.num ≠ m.num) || decide (q.sel ≠ m.sel),
           tileIn := s.tileIn.filter fun e => decide (e.1 ≠ m.num),
           epHeld := s.epHeld.filter fun e => decide (e.1.num ≠ m.num) || decide (e.1.sel ≠ m.sel) }

/-- Entries of a controller's waiter table that processes use (R115). -/
def State.tableUse (s : State) (part : Nat) : Nat :=
  (s.waiters.filter fun r => decide (partOf r.pa = part) && (match r.agent with | .proc _ => true | _ => false)).length +
  (s.chanq.filter fun m => decide (partOf m.key = part) && (match m.agent with | .proc _ | .peer _ => true | _ => false)).length

/-- The key of a sender at levels 1 and 2 (R146). -/
def State.senderKey (s : State) (m : ChanMsg) : Nat := (((s.core m.core).lcore * 16 + m.unit) * 2 ^ 32) + m.seq

/-- The sender to admit next: the oldest, or at levels 1 and 2 the one of smallest key (R146, R173, R174). -/
def State.firstSender (s : State) (level : Nat) (ms : List ChanMsg) : Option ChanMsg :=
  match (if level = 0 then s.shuffled (fun (m : ChanMsg) => m.agent.pid) ms else ms) with
  | [] => none
  | m :: r => some (if level = 0 then m else r.foldl (fun b x => if s.senderKey x < s.senderKey b then x else b) m)

/-! ### Completion at the issuer -/

/-- Registers that an operation writes at its end (R288, R290). -/
def chanWrites (m : ChanMsg) (status : Nat) (val : Word) : List (Reg × Word) :=
  match m.kind with
  | 0 => if m.send then [(m.rs, BitVec.ofNat 64 status)]
         else [(m.re, if status = 0 then val else 0), (m.rs, BitVec.ofNat 64 status)]
  | 1 | 2 | 3 => [(m.rs, BitVec.ofNat 64 status)]
  | 4 | 6 => [(m.rs, val)]
  | _ => []

/-- The value of an element, zero-extended (R290). -/
def elemWord (bs : List Byte) : Word := BitVec.ofNat 64 (bytesToNat bs)

/-- The scoreboard entries of a command retire (R71), and later ones move down (DESIGN CHOICE, log entry 88). -/
def State.dropScore (s : State) (core cmd : Nat) : State :=
  s.updCore core fun c => { c with score := c.score.filter fun e => decide (e.cmd ≠ cmd) }

/-- The end of a channel operation travels to its issuer; a tile operation's range entry retires (R71, R292). -/
def State.reportChan (s : State) (m : ChanMsg) (status : Nat) (bs : List Byte) (fl : Flags) (miss : Bool)
    (f : Option FaultInfo) : State :=
  let s := if m.deadline.isSome then s.updProc m.agent.pid fun p => { p with armed := none } else s
  let s := if m.kind = 2 then s.dropScore m.core m.num else s
  match m.agent with
  | .proc _ =>
    (s.satisfies m.agent).push (.heldCompletion
      { agent := m.agent, writes := (if f.isSome then (chanWrites m 0 0).map fun w => (w.1, 0)
                                     else chanWrites m status (elemWord bs)),
        flags := fl, fault := f, cls := if m.kind = 2 then .transfers else .none, sn := m.num, miss := miss,
        key := m.key, req := none, chan := some m, pc := m.pc })
  | .peer n =>
    s.sendFlit n m.ctx 1 (.chanReply (m.num % 2 ^ 64) status bs fl (f.elim 0 (·.cause)) miss)
  | _ => s

/-- A message of a process of this package. -/
def isProcMsg (m : ChanMsg) : Bool := match m.agent with | .proc _ => true | _ => false

/-- The select that a message belongs to, while it waits. -/
def State.selOf (s : State) (m : ChanMsg) : Option SelWait :=
  if !isProcMsg m then none else m.sel.bind fun l => s.selq.find? fun w => decide (w.list = l.1)

/-- A select ends: its entries leave every channel, here and at peers; the channels are to be served again (R180). -/
def State.dropSelect (s : State) (list : Nat) : State × List Nat :=
  let mine := fun (m : ChanMsg) => isProcMsg m && m.sel.elim false fun l => decide (l.1 = list)
  let keys := (s.chanq.filter mine).map (·.key)
  let away := s.peerOps.filter fun e => mine e.2
  let s := { s with chanq := s.chanq.filter fun m => !mine m, epHeld := s.epHeld.filter fun e => !mine e.1,
                    peerOps := s.peerOps.filter fun e => !mine e.2, selq := s.selq.filter fun w => decide (w.list ≠ list) }
  (away.foldl (fun s e => s.sendFlit (e.2.handle.toNat / 2 ^ 56) e.2.ctx 0 (.withdraw e.2)) s, keys)

/-- The words that a chosen alternative writes: STAT, DATA, START (R180, R301). -/
def State.selectWords (s : State) (w : SelWait) (i status : Nat) (data : Option Word) : List (Nat × Word) :=
  let b := w.list + 32 + 32 * i
  let w0 := s.peek w.list
  [(b + 24, BitVec.ofNat 64 status)] ++ (data.map fun x => (b + 16, x)).toList ++
  (if w.fair then [(w.list, setField w0 8 5 ((i + 1) % max 1 (field w0 0 6)))] else [])

/-- Plain writes of the list's owner to its words, all or none: a word of a deeper cell refuses them (R110, R118). -/
def State.listWrites (s : State) (ws : List (Nat × Word)) : Except FaultInfo State :=
  match ws.find? fun e => !s.isPoison e.1 && sideDepth (s.sideOf e.1) != 0 with
  | some e => .error { cause := 0x062, tval := BitVec.ofNat 64 e.1, words := [s.verWord e.1 3 0] }
  | none =>
    .ok (ws.foldl (fun s e => match s.plainWrite e.1 e.2 0xFFFF 0 0 99 with
      | .ok s => s.stir e.1
      | .error (_, s) => s) s)

/-- What a home does for a level-2 process belongs to the write set of its domain's commits (R142, R152). -/
def State.homeCommit (s : State) (pid : Nat) (units : List Nat) : State :=
  let p := s.proc pid
  if s.levelOf p.ctx = 2 then s.committed p units else s

/-- A select completes with alternative `i`, or fails; the keys are those of its other channels. -/
def State.endSelect (s : State) (w : SelWait) (i status : Nat) (data : Option Word) (fl : Flags) (miss : Bool)
    (f : Option FaultInfo) : State × List Nat :=
  let d := s.dropSelect w.list
  let ws := d.1.selectWords w i status data
  let r : Except FaultInfo State := match f with
    | some f => .error f
    | none => d.1.listWrites ws
  let done : Option FaultInfo → Done := fun f =>
    { agent := .proc w.pid, writes := [(w.rd, BitVec.ofNat 64 i)], flags := fl, fault := f, cls := .none, sn := w.num,
      miss := miss, key := w.list, req := none, chan := none, pc := w.pc }
  match r with
  | .ok s => (((s.holdTurn w.pid).homeCommit w.pid (ws.map fun e => e.1 / 64)).push (.heldCompletion (done none)), d.2)
  | .error f => ((d.1.holdTurn w.pid).push (.heldCompletion (done (some f))), d.2)

/-- The end of an operation or alternative at its home. -/
def State.endChan (s : State) (m : ChanMsg) (status : Nat) (bs : List Byte) (fl : Flags) (miss : Bool)
    (f : Option FaultInfo) : State × List Nat :=
  let s := s.unwait m
  match m.sel, m.agent with
  | none, _ | some _, .peer _ => (s.reportChan m status bs fl miss f, [])
  | some l, _ =>
    match s.selOf m with
    | none => (s, [])
    | some w => s.endSelect w l.2 status (if m.kind = 0 && !m.send && status == 0 then some (elemWord bs) else none) fl miss f

def chanFault (cause : Nat) (m : ChanMsg) : Option FaultInfo :=
  some { cause := cause, tval := m.handle, words := [] }

/-! ### Ordering of the two ends (R136) -/

/-- The process that acquires lies outside the unit of the channel's scope, widened to cover the releasing side. -/
def chanMiss (t : ChanType) (k : Nat) (acq : ChanMsg) (core : Nat) (isProc : Bool) : Bool :=
  let home := ownerCoord 2 k
  let rs := max t.scope (narrowest (coordOfCore core) home)
  isProc && decide (rs < 6) &&
  (match acq.agent with
   | .proc _ => !scopeCovers rs home (coordOfCore acq.core)
   | .peer n => !scopeCovers rs home [256 + n]
   | _ => false)

/-- The home's widening list has room for `n` more (R133, R134). -/
def State.chanRoom (s : State) (k n : Nat) : Bool := decide (n = 0) || decide ((s.widensOf (partOf k)).length + n ≤ 8)

/-- A miss widens with the home in the owner's role: a widening of the record's own word, which no other acquirer joins
(R134, R136). -/
def State.chanWiden (s : State) (miss : Bool) (k : Nat) (acq : ChanMsg) (core unit : Nat) : State :=
  if miss then
    let who : Agent := match acq.agent with | .peer n => .peerOp n (acq.num % 2 ^ 64) | a => a
    { (s.notePend acq.agent .pending) with
        widens := s.widens ++ [{ key := k, core := core, unit := unit, acquirers := [who], snap := none,
                                 rewritten := true, stale := true }],
        agenda := s.agenda ++ [.widen k] }
  else s

/-! ### The home's own accesses (R110, R171) -/

/-- The bytes of a buffer or stamp lie in existing, powered parts of space 2 (R18, R35). -/
def State.homeBytes (s : State) (pa n : Nat) : Bool :=
  decide (pa / 2 ^ 53 = 2) && sramFieldsOk s pa && sramFieldsOk s (pa + n - 1)

/-- Why the home may not write bytes: no such part, or a merge with a word that cannot be read (R18, R62). -/
def State.homeRefuse (s : State) (pa n : Nat) : Option FaultInfo × State :=
  if !s.homeBytes pa n then (some { cause := 0x044, tval := BitVec.ofNat 64 pa, words := [] }, s)
  else
    match s.guardList (mergePoints pa n) with
    | (some w, s) => (some { cause := 0x046, tval := BitVec.ofNat 64 w, words := [] }, s)
    | (none, s) => (none, s)

/-- The home's write of a buffer element or stamp: data only, the sideband stays; a whole word's poison ends (R62, R110). -/
def State.homeWrite (s : State) (pa : Nat) (bs : List Byte) : State :=
  let whole := (wordsTouched pa bs.length).filter fun w => decide (pa ≤ w) && decide (w + 8 ≤ pa + bs.length)
  (whole.foldl (fun s w => (s.setPoison w false).setErrors w 0) s).pokeBytes pa bs

/-- Bytes that the home reads from a buffer, or the fault (R18, R62). -/
def State.homeRead (s : State) (pa n : Nat) : Except FaultInfo (List Byte) × State :=
  if !s.homeBytes pa n then (.error { cause := 0x044, tval := BitVec.ofNat 64 pa, words := [] }, s)
  else
    match s.guardList (guardPoints pa n) with
    | (some w, s) => (.error { cause := 0x046, tval := BitVec.ofNat 64 w, words := [] }, s)
    | (none, s) => (.ok (bytesAt s.mem pa n), s)

/-! ### One home step (R173–R175, R178) -/

/-- What a home step answers: progress, nothing to do, or a message to be tried again later. -/
inductive Serve where
  | moved (s : State) (keys : List Nat)
  | idle (s : State)
  | held (s : State) (m : ChanMsg)
  deriving DecidableEq, Repr

/-- The gate for an event whose actor issued message `m` (R159). -/
def State.chanGate (s : State) (m : ChanMsg) (kind obj detail : Nat) : Gate :=
  match m.agent with
  | .proc pid => s.logGate (s.proc pid) kind (ownerUnit obj) true (s.core m.core).lcore m.unit obj detail
  | _ => .pass s

/-- REPLAY_DIVERGE in the actor (R163). DEDUCED, log entry 69. -/
def divergeInfo (expected : Word) (obj : Nat) : FaultInfo :=
  { cause := 0x100, tval := BitVec.ofNat 64 obj, words := [expected, BitVec.ofNat 64 obj] }

/-- The actor of a message, as a log record names it (R160). -/
def State.actorOf (s : State) (m : ChanMsg) : Nat := (s.core m.core).lcore % 1024 * 8 + m.unit % 8

/-- The record that replay expects next of an object, for a message whose process takes part (R163). -/
def State.expectedAt (s : State) (m : ChanMsg) (obj : Nat) : Option LogRec :=
  match m.agent with
  | .proc pid =>
    let p := s.proc pid
    if s.logged p && (s.ctx p.ctx).logctl.getLsbD 0 then expectedRec ((s.fileReplay p.ctx).ctx p.ctx).replay obj else none
  | _ => none

/-- Replay does not hold a message for another actor's event (R163). -/
def State.inTurn (s : State) (k : Nat) (m : ChanMsg) : Bool :=
  (s.expectedAt m k).elim true fun r => decide (field r.w0 45 13 = s.actorOf m)

/-- Replay expects this sender to meet the receiver: any other is held although the receiver waits (R163). -/
def State.mayMeet (s : State) (k : Nat) (rcv snd : ChanMsg) : Bool :=
  (s.expectedAt rcv k).elim true fun r => field r.w0 58 6 != 1 || decide (field r.w1 48 16 = s.actorOf snd)

/-- An alternative's select must grant a claim before its home moves an element (R180). -/
def State.needsClaim (s : State) (m : ChanMsg) : Bool :=
  match m.sel, m.agent with
  | none, _ => false
  | some _, .peer _ => m.claim != 2
  | some l, _ => (s.selq.find? fun w => decide (w.list = l.1)).elim true fun w => w.granted != some l.2

/-- A claim for the alternative is on its way. -/
def State.claimSent (s : State) (m : ChanMsg) : Bool :=
  match m.sel, m.agent with
  | none, _ => false
  | some _, .peer _ => m.claim == 1
  | some l, _ => s.agenda.contains (.selectClaim l.1 l.2) || s.blocked.contains (.selectClaim l.1 l.2)

/-- A waiting message changed. -/
def State.mapChan (s : State) (num : Nat) (f : ChanMsg → ChanMsg) : State :=
  { s with chanq := s.chanq.map fun m => if m.num = num then f m else m }

/-- The claim of an alternative is sent once, to the owner of its list here or at a peer. -/
def State.claim (s : State) (m : ChanMsg) : State :=
  if s.claimSent m then s
  else
    match m.sel, m.agent with
    | none, _ => s
    | some _, .peer n => (s.mapChan m.num fun m => { m with claim := 1 }).sendFlit n m.ctx 1 (.altClaim (m.num % 2 ^ 64))
    | some l, _ => s.push (.selectClaim l.1 l.2)

/-- The claim that must be granted next before these messages move: both lists of a pair in ascending address (R180). -/
def State.nextClaim (s : State) (ms : List ChanMsg) : Option ChanMsg :=
  (orderBy (fun (m : ChanMsg) => m.sel.elim 0 (·.1)) (ms.filter s.needsClaim)).head?

/-- Grants at a channel at which nothing moves and no claim is on its way are taken back: a pair of selects of which one was
refused (R180). -/
def State.settleGrants (s : State) (k : Nat) : State :=
  let ms := s.chanq.filter fun m => decide (m.key = k) && m.sel.isSome
  if (ms.any s.claimSent) || s.epHeld.any (fun e => decide (e.1.key = k)) then s
  else
    ms.foldl (fun s m =>
      if s.needsClaim m then s
      else
        match m.agent with
        | .peer n => (s.mapChan m.num fun m => { m with claim := 0 }).sendFlit n m.ctx 1 (.altFree (m.num % 2 ^ 64))
        | _ => { s with selq := s.selq.map fun w => if some w.list = m.sel.map (·.1) then { w with granted := none } else w }) s

/-- The gate of a select's choice: kind 0x03, or 0x09 before it for a time-out (R159, R181, R288). -/
def State.selGate (s : State) (w : SelWait) (i : Nat) (timed : Bool) : Gate :=
  let p := s.proc w.pid
  let lc := (s.core w.core).lcore
  let g := if timed then s.logGate p 0x09 (ownerUnit w.list) false lc w.unit w.pid 0 else .pass s
  match g with
  | .pass s => s.logGate p 0x03 (ownerUnit w.list) false lc w.unit w.list (i + if timed then 2 ^ 15 else 0)
  | g => g

/-- Each select of this package that takes part in a move has its choice logged, or checked, before the move (R159,
R163). -/
def selGates (s0 s : State) (ms : List ChanMsg) (k : State → Serve) : Serve :=
  match ms with
  | [] => k s
  | m :: r =>
    match m.sel, s.selOf m with
    | some l, some w =>
      match s.selGate w l.2 false with
      | .hold => .held s0 m
      | .diverge e =>
        let x := (s0.setDiv w.ctx).endSelect w l.2 0 none 0 false (some (divergeInfo e w.list))
        .moved x.1 x.2
      | .pass s => selGates s0 s r k
    | _, _ => selGates s0 s r k

/-- The move of message `m` passes the log's gates and is made. -/
def gatedMove (s : State) (m : ChanMsg) (kind k detail : Nat) (ms : List ChanMsg) (go : State → Serve) : Serve :=
  match s.chanGate m kind k detail with
  | .hold => .held s m
  | .diverge e =>
    let r := (s.setDiv m.ctx).endChan m 0 [] 0 false (some (divergeInfo e k))
    .moved r.1 r.2
  | .pass t => selGates s t ms go

/-- The stamp of an early-push element (R175). -/
def State.stampOf (s : State) (m : ChanMsg) : Word :=
  BitVec.ofNat 64 ((s.core m.core).lcore % 1024 * 2 ^ 54 + m.unit % 8 * 2 ^ 51 + m.issued % 2 ^ 32)

/-- Where the stamp of element j lies (R171). -/
def State.stampAt (s : State) (t : ChanType) (k j : Nat) : Nat := s.chanBuf k + t.depth * 2 ^ t.log2e + 8 * (j % max 1 t.depth)

/-- The element put has its stamp, and TAIL moves (R171, R174, R175). -/
def State.putDone (s : State) (t : ChanType) (k : Nat) (m : ChanMsg) : State :=
  let tail := s.chanTail k
  let s := if t.ep then (s.homeWrite (s.stampAt t k tail) (natToBytes 8 (s.stampOf m).toNat)).poke (k + 40) (s.stampOf m) else s
  { (s.setHeadTail k (s.chanHead k) (tail + 1)) with
      elems := s.elems ++ [{ key := k, idx := tail, core := m.core, unit := m.unit, proc := isProcMsg m, flags := m.flags }] }

/-- Put the element of a sender at TAIL (R174, R175). -/
def putElem (s : State) (t : ChanType) (k : Nat) (m : ChanMsg) : Serve :=
  let tail := s.chanTail k
  let e := 2 ^ t.log2e
  let pa := s.chanBuf k + tail % t.depth * e
  let c := s.homeRefuse pa e
  let d := if c.1.isNone && t.ep then c.2.homeRefuse (s.stampAt t k tail) 8 else c
  match d with
  | (some f, s) => let r := s.endChan m 0 [] 0 false (some f); .moved r.1 r.2
  | (none, s) =>
    gatedMove s m 0x02 k (tail % 256) [m] fun s =>
      let s := (s.homeWrite pa ((m.elem ++ List.replicate e 0).take e)).putDone t k m
      let r := (s.homeCommit m.agent.pid [k / 64, pa / 64]).endChan m 0 [] 0 false none
      .moved r.1 r.2

/-- DRAINED of a slot, modulo 2^32 (R175). -/
def Core.drainedOf (c : Core) (u : Nat) : Nat :=
  let n := (c.issued.toList.getD u 0).toNat
  match (c.unacked.filter fun e => decide (e.1 = u)).map (·.2.2) with
  | [] => n
  | x :: _ => (x + 2 ^ 32 - 1) % 2 ^ 32

/-- The slot that a stamp names has drained (R175). -/
def State.stampDrained (s : State) (stamp : Word) : Bool :=
  let c := s.core (s.physOf (field stamp 54 10))
  decide ((c.drainedOf (field stamp 51 3) + 2 ^ 32 - field stamp 0 32) % 2 ^ 32 < 2 ^ 31)

/-- What becomes of a block's beat to its receiver's destination. -/
inductive Deliver where
  | ok (s : State)
  | wait (s : State)
  | fault (s : State) (f : FaultInfo) (away : Bool) -- `away`: raised by the receiver's own package
  deriving DecidableEq, Repr

/-- A beat of a range in another package: what it has answered, or the request, once (R176; DEDUCED, log entry 36). -/
def State.askTile (s : State) (n : Nat) (m : ChanMsg) (pos : Nat) (bs : List Byte) : Except FaultInfo (List Byte) × State :=
  let gone (s : State) : State := { s with tileIn := s.tileIn.filter fun e => !decide (e.1 = m.num ∧ e.2.1 = pos) }
  match s.tileIn.find? fun e => decide (e.1 = m.num ∧ e.2.1 = pos) with
  | some (_, _, some (true, r)) => (.ok r, gone s)
  | some (_, _, some (false, _)) => (.error { cause := 0x043, tval := m.addr, words := [] }, gone s)
  | some (_, _, none) => (.error { cause := notYet, tval := m.addr, words := [] }, s)
  | none =>
    (.error { cause := notYet, tval := m.addr, words := [] },
     { (s.sendFlit n m.ctx 0 (.tileAsk (m.num % 2 ^ 64) pos bs)) with tileIn := s.tileIn ++ [(m.num, pos, none)] })

/-- A block reaches the receiver's destination as one beat, in this package or a peer's (R173, R291); `tag` names the
element. DEDUCED, log entry 70. -/
def deliverBlock (s : State) (m : ChanMsg) (bs : List Byte) (tag : Nat) : Deliver :=
  if m.kind = 1 then
    match m.agent with
    | .proc pid =>
      match writeBeat s m.core m.ctx m.addr bs 0 with
      | (.ok (), s) =>
        (match checkAccess s m.core m.ctx m.addr bs.length needWr false with
         | .ok pa _ => .ok (s.homeCommit pid [pa / 64])
         | _ => .ok s)
      | (.error f, s) => if f.cause = notYet then .wait s else .fault s f false
    | .peer n =>
      match s.askTile n m tag bs with
      | (.ok _, s) => .ok s
      | (.error f, s) => if f.cause = notYet then .wait s else .fault s f true
    | _ => .ok s
  else .ok s

/-- A receive ends with the fault of its beat; its own package has raised it if that is a peer (R291). -/
def State.endFailed (s : State) (m : ChanMsg) (f : FaultInfo) (away : Bool) : State × List Nat :=
  if away then (s.unwait m, []) else s.endChan m 0 [] 0 false (some f)

/-- What the home keeps with element `j`. -/
def State.elemInfo (s : State) (k j : Nat) : Option ElemInfo := s.elems.find? fun x => decide (x.key = k ∧ x.idx = j)

/-- A receive of element HEAD finds a scope miss (R136). -/
def State.takeMiss (s : State) (t : ChanType) (k : Nat) (m : ChanMsg) : Bool :=
  (s.elemInfo k (s.chanHead k)).elim false fun x => chanMiss t k m x.core x.proc

/-- Element HEAD has been taken (R136, R174). -/
def State.takeDone (s : State) (t : ChanType) (k : Nat) (m : ChanMsg) : State :=
  let head := s.chanHead k
  let info := s.elemInfo k head
  let s := s.chanWiden (s.takeMiss t k m) k m (info.elim 0 (·.core)) (info.elim 0 (·.unit))
  { (s.setHeadTail k (head + 1) (s.chanTail k)) with elems := s.elems.filter fun x => !decide (x.key = k ∧ x.idx = head) }

/-- Take element HEAD for a receiver (R174, R175). -/
def takeElem (s : State) (t : ChanType) (k : Nat) (m : ChanMsg) (drained : Bool) : Serve :=
  let head := s.chanHead k
  let e := 2 ^ t.log2e
  match s.homeRead (s.chanBuf k + head % t.depth * e) e with
  | (.error f, s) => let r := s.endChan m 0 [] 0 false (some f); .moved r.1 r.2
  | (.ok bs, s) =>
    match (if t.ep then s.homeRead (s.stampAt t k head) 8 else (.ok [], s)) with
    | (.error f, s) => let r := s.endChan m 0 [] 0 false (some f); .moved r.1 r.2
    | (.ok st, s) =>
      let stamp : Word := BitVec.ofNat 64 (bytesToNat st)
      if t.ep && !drained && !s.stampDrained stamp then
        .moved ({ s with epHeld := s.epHeld ++ [(m, bs, stamp)] }.push (.drainQueryReply m bs stamp)) []
      else if !s.chanRoom k (if s.takeMiss t k m then 1 else 0) then .held s m
      else
        match deliverBlock s m bs (1 + head) with
        | .wait s => .held s m
        | .fault s f away => let r := s.endFailed m f away; .moved r.1 r.2
        | .ok _ =>
          selGates s s [m] fun s =>
            match deliverBlock s m bs (1 + head) with
            | .ok s =>
              let miss := s.takeMiss t k m
              let fl := (s.elemInfo k head).elim 0 (·.flags)
              let r := ((s.takeDone t k m).homeCommit m.agent.pid [k / 64]).endChan m 0 bs fl miss none
              .moved r.1 r.2
            | .wait s | .fault s _ _ => .held s m

/-- A message returns to the head of the waiters (R176, R291). -/
def State.toHead (s : State) (m : ChanMsg) : State :=
  { s with chanq := m :: s.chanq.filter fun q => decide (q.num ≠ m.num) || decide (q.sel ≠ m.sel) }

/-- A rendezvous of two ends (R173). -/
def meet (s : State) (t : ChanType) (k : Nat) (snd rcv : ChanMsg) : Serve :=
  let bs := (snd.elem ++ List.replicate (2 ^ t.log2e) 0).take (2 ^ t.log2e)
  let m1 := chanMiss t k rcv snd.core (isProcMsg snd)
  let m2 := chanMiss t k snd rcv.core (isProcMsg rcv)
  if !s.chanRoom k ((if m1 then 1 else 0) + (if m2 then 1 else 0)) then .held s rcv
  else
    match deliverBlock s rcv bs snd.num with
    | .wait s => .held s rcv
    | .fault s f away => let r := (s.toHead snd).endFailed rcv f away; .moved r.1 r.2
    | .ok _ =>
      gatedMove s rcv 0x01 k (s.actorOf snd) [snd, rcv] fun s =>
        match deliverBlock s rcv bs snd.num with
        | .ok s =>
          let s := (s.chanWiden m1 k rcv snd.core snd.unit).chanWiden m2 k snd rcv.core rcv.unit
          let s := (s.homeCommit snd.agent.pid [k / 64]).homeCommit rcv.agent.pid [k / 64]
          let a := s.endChan snd 0 [] 0 m2 none
          let b := a.1.endChan rcv 0 bs snd.flags m1 none
          .moved b.1 (a.2 ++ b.2)
        | .wait s | .fault s _ _ => .held s rcv

/-- A tile transfer begins: both messages leave the waiters (R176). -/
def State.beginTile (s : State) (t : ChanType) (k : Nat) (snd rcv : Option ChanMsg) (buf pos : Nat) : State :=
  let s := (snd.toList ++ rcv.toList).foldl State.unwait s
  let tm : TileMsg := { sender := snd, receiver := rcv, key := k, buf := buf, len := 2 ^ t.log2e, pos := pos,
                        stopped := none, num := s.accs + 1 }
  { s with accs := s.accs + 1, tiles := s.tiles ++ [tm] }.push (.tileTransfer tm)

/-- A tile receive from a buffer: its element's early-push stamp must have drained (R175, R176). -/
def takeTile (s : State) (t : ChanType) (k : Nat) (m : ChanMsg) (drained : Bool) : Serve :=
  let head := s.chanHead k
  match (if t.ep then s.homeRead (s.stampAt t k head) 8 else (.ok [], s)) with
  | (.error f, s) => let r := s.endChan m 0 [] 0 false (some f); .moved r.1 r.2
  | (.ok st, s) =>
    let stamp : Word := BitVec.ofNat 64 (bytesToNat st)
    if t.ep && !drained && !s.stampDrained stamp then
      .moved ({ s with epHeld := s.epHeld ++ [(m, [], stamp)] }.push (.drainQueryReply m [] stamp)) []
    else .moved (s.beginTile t k none (some m) (s.chanBuf k + head % t.depth * 2 ^ t.log2e) 0) []

/-- A tile transfer starts at a rendezvous (R176). -/
def meetTile (s : State) (t : ChanType) (k : Nat) (snd rcv : ChanMsg) : Serve :=
  gatedMove s rcv 0x01 k (s.actorOf snd) [] fun s => .moved (s.beginTile t k (some snd) (some rcv) 0 0) []

/-- A tile transfer into the buffer starts (R176). -/
def putTile (s : State) (t : ChanType) (k : Nat) (m : ChanMsg) : Serve :=
  gatedMove s m 0x02 k (s.chanTail k % 256) [] fun s =>
    .moved (s.beginTile t k (some m) none (s.chanBuf k + s.chanTail k % t.depth * 2 ^ t.log2e) 0) []

/-- The channel's tile transfers in progress that put (`true`) or take; one that a fault has stopped holds nothing. -/
def State.tileBusy (s : State) (k : Nat) (put : Bool) : Bool :=
  s.tiles.any fun t => decide (t.key = k) && t.stopped.isNone && decide (t.len ≤ 2 ^ 20) &&
    (if put then t.sender.isSome else t.receiver.isSome)

/-- A move of messages, once every select among them has granted its claim (R180). -/
def claimed (s : State) (ms : List ChanMsg) (go : Serve) : Serve :=
  match s.nextClaim ms with
  | some m => .idle (s.claim m)
  | none => go

/-- A receive that finds the channel closed and empty ends with CLOSED (R178). -/
def endClosed (s : State) (m : ChanMsg) : Serve :=
  claimed s [m] (selGates s s [m] fun s => let x := s.endChan m 1 [] 0 false none; .moved x.1 x.2)

/-- A put into the buffer, if one is possible (R174). -/
def servePut (s : State) (t : ChanType) (k : Nat) (snd : Option ChanMsg) : Serve :=
  match snd with
  | none => .idle s
  | some m =>
    if decide (t.depth ≤ s.chanLen k) || s.tileBusy k true then .idle s
    else claimed s [m] (if t.kind = 2 then putTile s t k m else putElem s t k m)

/-- One move at a channel, if one is possible. -/
def serveStep (s : State) (k : Nat) : Serve :=
  let t := chanType (s.peek k)
  let lvl := s.levelOf (BitVec.ofNat 8 t.ctx)
  let snds := s.sendersAt k
  let rcvs := s.receiversAt k
  match snds with
  | m :: _ =>
    if t.closed then claimed s [m] (selGates s s [m] fun s => let r := s.endChan m 0 [] 0 false (chanFault 0x0C1 m); .moved r.1 r.2)
    else if t.depth = 0 then
      match rcvs.filter (s.inTurn k) with
      | r :: _ =>
        let ok := snds.filter fun m => s.mayMeet k r m && (m.sel.isNone || decide (m.sel.map (·.1) ≠ r.sel.map (·.1)) || m.agent != r.agent)
        (match s.firstSender lvl ok with
         | some m => claimed s [m, r] (if t.kind = 2 then meetTile s t k m r else meet s t k m r)
         | none => .idle s)
      | [] => .idle s
    else
      match rcvs with
      | r :: _ =>
        if decide (0 < s.chanLen k) && !(s.epHeld.any fun e => decide (e.1.key = k)) && !s.tileBusy k false then
          claimed s [r] (if t.kind = 2 then takeTile s t k r false else takeElem s t k r false)
        else servePut s t k (s.firstSender lvl (snds.filter (s.inTurn k)))
      | [] => servePut s t k (s.firstSender lvl (snds.filter (s.inTurn k)))
  | [] =>
    match rcvs with
    | [] => .idle s
    | r :: _ =>
      if t.depth ≠ 0 && decide (0 < s.chanLen k) then
        (if (s.epHeld.any fun e => decide (e.1.key = k)) || s.tileBusy k false then .idle s
         else claimed s [r] (if t.kind = 2 then takeTile s t k r false else takeElem s t k r false))
      else if t.closed then endClosed s r
      else .idle s

/-- A message that could not be moved now is tried again later. -/
def State.tryAgain (s : State) (m : ChanMsg) : State :=
  let e : Ev := .sendRetry { m with kind := 8 }
  if s.blocked.contains e || s.agenda.contains e then s else s.later e

/-- A killed member whose wait at a channel a move would end (R188). -/
def State.wouldWake (s t : State) (k : Nat) : Option Nat :=
  (s.chanq.find? fun m => decide (m.key = k) && m.kind != 2 && s.killedAgent m.agent &&
    !t.chanq.any fun q => decide (q.num = m.num)).map (·.agent.pid)

/-- The channels at which a record waits. -/
def State.keysOf (s : State) (pid : Nat) : List Nat := (s.chanq.filter fun m => decide (m.agent = .proc pid)).map (·.key)

/-- Channels are served until nothing moves. -/
def serveKeys (fuel : Nat) (s : State) (keys : List Nat) : State :=
  match fuel with
  | 0 => s
  | n + 1 =>
    match keys with
    | [] => s
    | k :: rest =>
      match serveStep s k with
      | .moved t more =>
        (match s.wouldWake t k with
         | some pid => serveKeys n (s.reap pid) (k :: rest ++ s.keysOf pid)
         | none => serveKeys n t (k :: rest ++ more))
      | .idle s => serveKeys n ((s.syncWaiters k).settleGrants k) rest
      | .held s m => serveKeys n ((s.syncWaiters k).tryAgain m) rest

/-- Channels that a step has changed are served. -/
def State.serveAll (s : State) (keys : List Nat) : State := serveKeys (4 * (s.chanq.length + 1) + 8) s keys

/-- A killed record ends where its wait would have, and the channels it leaves are served (R188). -/
def State.reapChan (s : State) (pid : Nat) : State := (s.reap pid).serveAll (s.keysOf pid)

/-- Serve one channel. -/
def State.serveChan (s : State) (k : Nat) : State := s.serveAll [k]

/-! ### Sends that a unit makes (R92, R98, R195, R201, R404, R408) -/

/-- The channel that a send-end handle names is a block channel of 64-byte elements owned by the context. -/
def State.blockChannel (s : State) (h : Word) (c : Byte) : Bool :=
  let a := h.toNat
  let t := chanType (s.peek (a % 2 ^ 56))
  decide (a % 64 = 0) && decide (a / 2 ^ 53 % 8 = 2) && (decide (a / 2 ^ 56 = 0) || decide (a / 2 ^ 56 = s.mynode)) &&
  sramFieldsOk s (a % 2 ^ 56) && t.kind == 1 && t.log2e == 6 && t.ctx == c.toNat && !(t.ep && t.depth == 0)

/-- The channel that a send-end handle names is a word channel of 8-byte elements owned by the context. -/
def State.wordChannel (s : State) (h : Word) (c : Byte) : Bool :=
  let a := h.toNat
  let t := chanType (s.peek (a % 2 ^ 56))
  decide (a % 64 = 0) && decide (a / 2 ^ 53 % 8 = 2) && (decide (a / 2 ^ 56 = 0) || decide (a / 2 ^ 56 = s.mynode)) &&
  sramFieldsOk s (a % 2 ^ 56) && t.kind == 0 && t.log2e == 3 && t.ctx == c.toNat && !(t.ep && t.depth == 0)

/-- A unit's send of an element: a word (kind 0) or 64 bytes (kind 1); it waits as any send does. DEDUCED, log entry 61. -/
def State.unitSendKind (s : State) (who : Agent) (kind : Nat) (h : Word) (c : Byte) (bs : List Byte) (fl : Flags) : State :=
  let k := h.toNat % 2 ^ 56
  let m : ChanMsg := { agent := who, core := 0, unit := 15, ctx := c, handle := h, key := k, send := true, kind := kind,
                       elem := bs, addr := 0, rs := 0, re := 0, pc := 0, seq := 0, deadline := none, issued := 0,
                       sel := none, num := s.accs + 1, flags := fl }
  ({ s with accs := s.accs + 1, chanq := s.chanq ++ [m] }).serveChan k

/-- A unit's send of a 64-byte element. DEDUCED, log entry 61. -/
def State.unitSend (s : State) (who : Agent) (h : Word) (c : Byte) (bs : List Byte) (fl : Flags) : State :=
  s.unitSendKind who 1 h c bs fl

/-- Eight words as 64 bytes. -/
def bytesOfWords (ws : List Word) : List Byte := ws.flatMap fun w => natToBytes 8 w.toNat

/-- Bytes as 64-bit words. -/
def wordsOfBytes (bs : List Byte) : List Word :=
  (List.range (bs.length / 8)).map fun i => BitVec.ofNat 64 (bytesToNat ((bs.drop (8 * i)).take 8))

/-! ### Waiting (R168, R288) -/

/-- A message that its home keeps: its process parks, tiles and units apart. -/
def State.chanPark (s : State) (m : ChanMsg) (kind obj : Nat) : State :=
  match m.agent with
  | .proc pid =>
    if m.kind = 2 then s
    else
      let s := s.updProc pid fun p =>
        { p with outst := p.outst.map fun o => if o.sn = m.num then { o with held := true } else o }
      s.park pid obj kind
  | _ => s

/-- The message still waits at its home. -/
def State.stillWaits (s : State) (m : ChanMsg) : Bool :=
  s.chanq.any fun q => decide (q.num = m.num) && decide (q.sel = m.sel)

end Sys2Proof.Machine
end

