-- ==== Sys2Proof/Machine/Operands.lean ====
section
/-! DEFINITION. The operands of a bundle's words: the registers that each reads and writes (R213, R214), which
words a helper executes (R220, R223), which need SUP (R221), and the operand forms that several instructions
share: the descriptor operand, effective addresses, branch targets (R211, R212, R278, R280). -/

namespace Sys2Proof.Machine

/-- General registers that a word reads, and the codes of the registers that it writes (R213, R215): 0–31 for g,
0x20 upward for v, 0x40 upward for m, 0x1000 upward for a system register. -/
structure Regs where
  reads : List Reg
  writes : List Nat
  deriving DecidableEq, Repr

/-- The registers of a C-word or A-word (R213); fabric words and steps of the machine name none of them. -/
def regsOf (i : Instr) : Regs :=
  match i with
  | .cnop _ | .halt _ | .brk _ _ | .br _ _ | .lpi _ _ _ | .fence _ _ _ | .waitc _ _ _ _ _ _ | .yield _
  | .trap _ _ | .tret _ | .mrel _ | .vrel _ | .anop | .xend | .xadd _ _ _ _ | .xmax _ _ _ _ | .xmin _ _ _ _
  | .xmx6 _ _ _ | .xpack _ _ _ | .xunpk _ _ _ | .xmov _ _ | .xrecv _ _ | .xemit _ _ | .sequencerTrap _ _ _
  | .sequencerEntry _ | .streamItem _ _ | .ownerAccess _ | .subByteStore _ | .versionedStoreAtOwner _
  | .versionedLoadAtOwner _ | .reclaimAtOwner _ | .initialiseAtOwner _ | .heldCompletion _ | .waiterRetry _
  | .acknowledgement _ | .widen _ | .widened _ | .released _ | .translationWalk _ _ _ _ | .engineBeat _
  | .commandCompletion _ _ | .msRequest _ | .msReply _ | .frameReceive _ _ | .pfcRepeat _ _ | .pfcFrame _ _ _
  | .pfcQuantaExpire _ _ | .ingestDeposit _ _ | .ringDescriptorWrite _ _ | .portRegisterWrite _ _
  | .frameTransmit _ _ | .partGo _ | .drainComplete | .drainTimeout | .flushComplete | .powerComplete
  | .enumerate | .roleChangeStop | .frzctlResume _ | .frzctlDiscard _ | .peerRequest _ | .peerErrorReply _
  | .poolHeadWrite _ _ | .recfree _ _ | .slotFill _ | .spillParked _ | .preempt _ | .spillComplete _
  | .taskSteal _ | .laneGrant _ | .leaseGrant _ | .mrelEffect _ | .mfmtExecute _ | .mmacExecute _
  | .mlidExecute _ | .mclrExecute _ | .mdrnExecute _ | .thermalPeriod _ | .launchTake _ | .levelChange _
  | .queueBarrier _ | .contextFence _ | .launchQueueWrite _ _ | .startMessage _ | .doneNotice _
  | .checkRunAEnd _ _ | .checkRunBEnd _ _ | .commitTurn _ | .chunkCommit _ | .logUnitWrite _ | .logPadTimeout _
  | .logctlWrite _ _ | .logtailWrite _ _ | .logheadWrite _ _ | .channelSendAtHome _ | .channelReceiveAtHome _
  | .sendRetry _ | .drainQueryReply _ _ _ | .tileTransfer _ | .selectClaim _ _ | .timeoutFire _
  | .channelTimeout _ | .withdrawal _ | .spawnPlace _ | .barrierArrival _ | .handlerRequest _ | .faultPost _ _
  | .fltresRetry _ _ | .fltresSkip _ _ | .fltresDiscard _ _ | .contextEvict _ | .contextRestore _
  | .triggerLatch _ _ | .deadlock | .collAnnounce _ | .announceRetry _ | .chunkGrant _ _ _
  | .chunkArbitration _ | .collComplete _ _ | .trussPush _ | .trussPop _ | .trussQueueWrite _ _ | .linkFlit _ _
  | .linkReplay _ _ | .linkRetrain _ _ | .hostBar0 _ _ | .hostLaunchWrite _ _ | .hostAperture _ _ _
  | .msixSend _ | .hostReadCompletion _ _ _ | .hostReadTimeout _ | .hwakeExpire | .powerOn | .bootStage _
  | .bootWatchdog | .reset | .recgo _ | .calc | .attctlGo | .attestDone | .powerCapStep _ | .thermalTrip
  | .tripRelease | .blockRead _ | .blockWrite _ _ | .registerWrite _ _ | .loadReturn _ | .linkUp _
  | .lossOfPower => ⟨[], []⟩
  | .jal _ _ => ⟨[], [30]⟩
  | .jr _ a | .lp _ a _ | .vstx _ _ a _ _ _ | .cclose _ a | .join _ a | .exit _ a | .gkill _ a | .xinv _ a _
  | .mreq _ a | .mfmt _ a | .mclr _ a | .vloop _ _ a | .vbind _ a | .vunbind _ a | .srun _ a => ⟨[a], []⟩
  | .jalr _ d a | .ldbS _ d a _ _ _ | .ldbN _ d a _ _ _ | .ldhS _ d a _ _ _ | .ldhN _ d a _ _ _
  | .ldwS _ d a _ _ _ | .ldwN _ d a _ _ _ | .ldd _ d a _ _ _ | .vtag _ d a _ _ | .cpoll _ d a | .barr _ d a
  | .barw _ d a | .gquery _ d a | .sstat _ d a | .addi d a _ | .andi d a _ | .ori d a _ | .xori d a _
  | .slli d a _ | .srli d a _ | .srai d a _ | .roli d a _ | .clz d a | .ctz d a | .popc d a | .brev d a
  | .bswap d a | .sextB d a | .sextH d a | .sextW d a | .zextW d a | .fsqrt d a | .fabs d a | .fneg d a
  | .fclass d a | .fkey d a | .fcvtF32S32 d a | .fcvtF32S64 d a | .fcvtS32F32 d a | .fcvtS64F32 d a
  | .fcvtF32Bf16 d a | .fcvtBf16F32 d a | .fcvtF32E4m3 d a | .fcvtE4m3F32 d a | .fcvtF32E2m1 d a
  | .fcvtE2m1F32 d a | .fcvtF32N32 d a | .fcvtN32F32 d a | .skcount d a => ⟨[a], [d.toNat]⟩
  | .beq _ a b _ | .bne _ a b _ | .bltS _ a b _ | .bgeS _ a b _ | .bltN _ a b _ | .bgeN _ a b _
  | .rcl _ a b _ _ | .vinit _ a b _ _ _ | .vst _ _ a b _ _ | .jinit _ a b | .park _ a b | .binit _ a b
  | .ginit _ a b | .mscl _ a b | .mmac _ a b | .mmacc _ a b | .mmacj _ a b | .mdrn _ a b | .cpy _ a b _
  | .tcpy _ a b _ | .deal _ a b _ | .gath _ a b _ | .cpost _ a b | .fgload _ a b | .sgen _ a b | .hload _ a b
  | .skinit a b | .skmerge a b => ⟨[a, b], []⟩
  | .stb _ s a _ _ _ | .sth _ s a _ _ _ | .stw _ s a _ _ _ | .std _ s a _ _ _ => ⟨[s, a], []⟩
  | .ldv _ d a _ _ v => ⟨[a, v], [d.toNat]⟩
  | .stv _ d a _ _ v => ⟨[d, a, v], []⟩
  | .aswp _ d a b _ _ | .aswpd _ d a b _ _ | .aadd _ d a b _ _ | .aaddd _ d a b _ _ | .aand _ d a b _ _
  | .aandd _ d a b _ _ | .aor _ d a b _ _ | .aord _ d a b _ _ | .axor _ d a b _ _ | .axord _ d a b _ _
  | .amaxS _ d a b _ _ | .amaxdS _ d a b _ _ | .aminS _ d a b _ _ | .amindS _ d a b _ _ | .amaxN _ d a b _ _
  | .amaxdN _ d a b _ _ | .aminN _ d a b _ _ | .amindN _ d a b _ _ | .afadd _ d a b _ _ | .afmax _ d a b _ _
  | .afmin _ d a b _ _ | .csend _ d a b | .csendb _ d a b | .crecvb _ d a b | .csendt _ d a b | .crecvt _ d a b
  | .csendp _ d a b | .crecvp _ d a b | .vclaim _ d a b | .vrenew _ d a b | .ldnS _ d a b _ _
  | .ldnN _ d a b _ _ | .add d a b | .sub d a b | .andR d a b | .orR d a b | .xor d a b | .andn d a b
  | .sll d a b | .srl d a b | .sra d a b | .rol d a b | .addw d a b | .subw d a b | .addsS d a b | .addsN d a b
  | .subsS d a b | .subsN d a b | .mul d a b | .mulhS d a b | .mulhN d a b | .mulw d a b | .divS d a b
  | .divN d a b | .remS d a b | .remN d a b | .seq d a b | .sne d a b | .sltS d a b | .sleS d a b | .sltN d a b
  | .sleN d a b | .minS d a b | .maxS d a b | .minN d a b | .maxN d a b | .bext d a b | .fadd d a b
  | .fsub d a b | .fmul d a b | .fdiv d a b | .fmin d a b | .fmax d a b | .fmint d a b | .fmaxt d a b
  | .fsgnj d a b | .feq d a b | .flt d a b | .fle d a b | .funord d a b | .skquant d a b | .skrank d a b
  | .skest d a b => ⟨[a, b], [d.toNat]⟩
  | .acas _ d a b _ _ | .acasd _ d a b _ _ => ⟨[d, a, b], [d.toNat]⟩
  | .vld _ d a b _ _ | .vins d a b => ⟨[a, b], [32 + d.toNat]⟩
  | .vldx _ d a _ _ _ | .vbcast d a _ => ⟨[a], [32 + d.toNat]⟩
  | .crecv _ d a b => ⟨[a], [d.toNat, b.toNat]⟩
  | .chsel _ d b _ | .chnew _ d b | .vext d _ b => ⟨[b], [d.toNat]⟩
  | .chdel _ b | .chprio _ b | .mlid _ b | .vskq _ b _ _ | .vskh _ b _ _ | .vskd _ b _ _ => ⟨[b], []⟩
  | .spawn _ d a b | .spawnk _ d a b => ⟨[a, b, 1, 2, 3, 4], [d.toNat, 30]⟩
  | .callat _ h a b => ⟨[h, a, b, 1, 2, 3], []⟩
  | .fork _ a => ⟨[a, 1, 2, 3, 4], [30]⟩
  | .mfs _ d _ | .lic _ d _ | .vrsum d _ _ _ | .vrmax d _ _ _ | .vrmin d _ _ _ | .vrmaxt d _ _ _
  | .vrmint d _ _ _ | .vrand d _ _ _ | .vror d _ _ _ | .vrxor d _ _ _ | .mpop d _ | .mfrst d _ | .mtog d _ => ⟨[], [d.toNat]⟩
  | .mts _ a i => ⟨[a], [0x1000 + i.toNat]⟩
  | .stn _ d a b _ _ => ⟨[d, a, b], []⟩
  | .hstart _ a b => ⟨[a, b, 1, 2, 3, 4], []⟩
  | .sel d a b c | .fmadd d a b c | .fmsub d a b c | .fnmadd d a b c | .fnmsub d a b c => ⟨[a, b, c], [d.toNat]⟩
  | .bins d a b => ⟨[a, b, d], [d.toNat]⟩
  | .lui d _ _ => ⟨[d], [d.toNat]⟩
  | .vadd d _ _ _ _ | .vsub d _ _ _ _ | .vmul d _ _ _ _ | .vdiv d _ _ _ _ | .vmin d _ _ _ _ | .vmax d _ _ _ _
  | .vand d _ _ _ _ | .vor d _ _ _ _ | .vxor d _ _ _ _ | .vsll d _ _ _ _ | .vsrl d _ _ _ _ | .vsra d _ _ _ _
  | .vabs d _ _ _ | .vneg d _ _ _ | .vadds d _ _ _ _ | .vsubs d _ _ _ _ | .vfma d _ _ _ _ | .vfms d _ _ _ _
  | .vfnma d _ _ _ _ | .vfnms d _ _ _ _ | .vmadS d _ _ _ _ | .vmadN d _ _ _ _ | .vmov d _ _ | .vshuf d _ _ _
  | .vcomp d _ _ | .vexpd d _ _ | .vcvt d _ _ _ _ | .vexp d _ _ | .vexp2 d _ _ | .vlog d _ _ | .vlog2 d _ _
  | .vrcp d _ _ | .vsqrt d _ _ | .vrsqrt d _ _ | .vsin d _ _ | .vcos d _ _ | .vtanh d _ _ | .vsigm d _ _
  | .verf d _ _ => ⟨[], [32 + d.toNat]⟩
  | .veq d _ _ _ _ | .vne d _ _ _ _ | .vlt d _ _ _ _ | .vle d _ _ _ _ | .vunord d _ _ _ _ | .vltt d _ _ _ _
  | .mand d _ _ | .mor d _ _ | .mxor d _ _ | .mandn d _ _ | .mnot d _ => ⟨[], [64 + d.toNat]⟩
  | .vrot d _ b _ => ⟨[b], [32 + d.toNat]⟩
  | .mfromg d a => ⟨[a], [64 + d.toNat]⟩

/-- A helper core executes the word (column H of R220 and R223; R312). -/
def helperWord (i : Instr) : Bool :=
  match i with
  | .cnop _ | .halt _ | .brk _ _ | .br _ _ | .jal _ _ | .jr _ _ | .jalr _ _ _ | .beq _ _ _ _ | .bne _ _ _ _
  | .bltS _ _ _ _ | .bgeS _ _ _ _ | .bltN _ _ _ _ | .bgeN _ _ _ _ | .lp _ _ _ | .lpi _ _ _ | .ldbS _ _ _ _ _ _
  | .ldbN _ _ _ _ _ _ | .ldhS _ _ _ _ _ _ | .ldhN _ _ _ _ _ _ | .ldwS _ _ _ _ _ _ | .ldwN _ _ _ _ _ _
  | .ldd _ _ _ _ _ _ | .stb _ _ _ _ _ _ | .sth _ _ _ _ _ _ | .stw _ _ _ _ _ _ | .std _ _ _ _ _ _ | .fence _ _ _
  | .waitc _ _ _ _ _ _ | .lic _ _ _ | .ldnS _ _ _ _ _ _ | .ldnN _ _ _ _ _ _ | .stn _ _ _ _ _ _ | .sgen _ _ _
  | .srun _ _ | .sstat _ _ _ | .anop | .add _ _ _ | .sub _ _ _ | .andR _ _ _ | .orR _ _ _ | .xor _ _ _
  | .andn _ _ _ | .sll _ _ _ | .srl _ _ _ | .sra _ _ _ | .rol _ _ _ | .addw _ _ _ | .subw _ _ _ | .addsS _ _ _
  | .addsN _ _ _ | .subsS _ _ _ | .subsN _ _ _ | .addi _ _ _ | .andi _ _ _ | .ori _ _ _ | .xori _ _ _
  | .slli _ _ _ | .srli _ _ _ | .srai _ _ _ | .roli _ _ _ | .mul _ _ _ | .mulhS _ _ _ | .mulhN _ _ _
  | .mulw _ _ _ | .divS _ _ _ | .divN _ _ _ | .remS _ _ _ | .remN _ _ _ | .seq _ _ _ | .sne _ _ _ | .sltS _ _ _
  | .sleS _ _ _ | .sltN _ _ _ | .sleN _ _ _ | .minS _ _ _ | .maxS _ _ _ | .minN _ _ _ | .maxN _ _ _
  | .sel _ _ _ _ | .clz _ _ | .ctz _ _ | .popc _ _ | .brev _ _ | .bswap _ _ | .sextB _ _ | .sextH _ _
  | .sextW _ _ | .zextW _ _ | .bext _ _ _ | .bins _ _ _ | .lui _ _ _ => true
  | _ => false

/-- The word is for helpers only (R312). -/
def helperOnly (i : Instr) : Bool :=
  match i with
  | .sgen _ _ _ | .srun _ _ => true
  | _ => false

/-- The word needs SUP (R221). -/
def supervisorOnly (i : Instr) : Bool :=
  match i with
  | .xinv _ _ _ => true
  | .mfs _ _ k | .mts _ _ k => decide (0x100 ≤ k.toNat)
  | _ => false

/-- Branches, jumps and loop instructions, which may not stand at a loop's END (R277). -/
def transfers (i : Instr) : Bool :=
  match i with
  | .br _ _ | .jal _ _ | .jr _ _ | .jalr _ _ _ | .beq _ _ _ _ | .bne _ _ _ _ | .bltS _ _ _ _ | .bgeS _ _ _ _
  | .bltN _ _ _ _ | .bgeN _ _ _ _ | .lp _ _ _ | .lpi _ _ _ => true
  | _ => false

/-- C-words that end the bundle for the process, or whose effect takes in the flags of the A-word: they are performed
after it (R271, R306, R307, R319). -/
def performedLast (i : Instr) : Bool :=
  match i with
  | .halt _ | .exit _ _ | .yield _ | .trap _ _ => true
  | _ => false

/-- An A-word conversion that may draw from RS (R243). DEDUCED, log entry 11. -/
def mayDraw (i : Instr) : Bool :=
  match i with
  | .fcvtF32S32 _ _ | .fcvtF32S64 _ _ | .fcvtS32F32 _ _ | .fcvtS64F32 _ _ | .fcvtBf16F32 _ _ | .fcvtE4m3F32 _ _
  | .fcvtE2m1F32 _ _ | .fcvtF32N32 _ _ | .fcvtN32F32 _ _ => true
  | .vcvt _ _ _ _ src => src == .f32 || src == .s32 || src == .n32
  | _ => false

/-- A word that writes RS by `mts` (R213, R321). DEDUCED, log entry 25. -/
def writesRs (i : Instr) : Bool :=
  match i with
  | .mts _ _ k => k == 0x100
  | _ => false

/-- A register code counts for R213: g0 and m0 do not. -/
def countsCode (c : Nat) : Bool := c != 0 && c != 0x40

/-- The register that both words of a bundle write, the lowest code first (R213): RS counts for an A-word that may
draw when the captured rounding mode is SR (DEDUCED, log entry 11). -/
def conflictOf (c a : Instr) (fcr : Word) : Option Nat :=
  let both := (regsOf c).writes.filter fun x => countsCode x && (regsOf a).writes.contains x
  match both with
  | [] => if writesRs c && mayDraw a && field fcr 0 3 == 4 then some 0x1100 else none
  | x :: r => some (r.foldl min x)

/-- A register that the word reads or writes is pending (R214). -/
def waitsFor (p : Proc) (i : Instr) : Bool :=
  let r := regsOf i
  r.reads.any p.isPend || r.writes.any fun x => decide (x < 32) && p.isPend (BitVec.ofNat 5 x)

/-! ### Operand forms -/

/-- The operand of rb in a descriptor family: an address of the core itself in the lone form (R212). -/
def State.descOp (s : State) (l : Lone) (b : Reg) : Word :=
  match l with
  | some e => 0xFF00000000000000 + e.setWidth 64
  | none => s.g b

/-- The effective address of a load or store of `n` bytes (R278). -/
def State.ea (s : State) (l : Lone) (a : Reg) (f : BitVec 10) (n : Nat) : Word :=
  match l with
  | some e => s.g a + e.signExtend 64
  | none => s.g a + f.signExtend 64 * BitVec.ofNat 64 n

/-- The word address and nibble of `ldn` and `stn` (R280): 2 × G(ra) + G(rb) modulo 2^65, rb signed. -/
def State.nibbleAddr (s : State) (a b : Reg) : Word × Nat :=
  let n := (2 * (s.g a).toNat + ((s.g b).signExtend 65).toNat) % 2 ^ 65
  (BitVec.ofNat 64 (n / 16 * 8), n % 16)

/-- The target of a conditional branch (R273). -/
def State.branchTo (s : State) (l : Lone) (o : BitVec 15) : Word :=
  match l with
  | some e => s.cur.pc + 8 * e.signExtend 64
  | none => s.cur.pc + 8 * o.signExtend 64

/-- The end offset of a loop, in bundles (R275). -/
def loopEnd (l : Lone) (e : BitVec 15) : Word :=
  match l with
  | some x => x.setWidth 64
  | none => e.setWidth 64

end Sys2Proof.Machine
end

