-- ==== Sys2Proof/Machine/Channel.lean ====
section
/-! DEFINITION. Channel instructions and the steps of channels (spec/13 R288–R299, spec/08 R172–R178). -/

namespace Sys2Proof.Machine

/-! ### At the issuer (R172, R288) -/

/-- A block of space 3 that R37 lists. -/
def listedBlock (b : Nat) : Bool :=
  b == 0 || b == 1 || (decide (8 ≤ b) && decide (b ≤ 0xD)) || b == 0x10 || b == 0x11 || b == 0x12 || b == 0x20 || b == 0x21 ||
  (decide (0x40 ≤ b) && decide (b < 0x80))

/-- The R38 checks on an endpoint's address (R37, R172); R87 frees a send from the permissions of loads and stores. -/
def extCheck (s : State) (c : Byte) (a : Nat) : Option FaultInfo :=
  let tv : Word := BitVec.ofNat 64 a
  let d := s.desc c
  if a % 8 ≠ 0 then some { cause := 0x040, tval := tv, words := [] }
  else if d.bad then some { cause := 0x047, tval := tv, words := [] }
  else if !d.valid || decide (a / 2 ^ 48 % 32 ≠ 0) || !listedBlock (regBlock a) then some { cause := 0x043, tval := tv, words := [] }
  else none

/-- Why a handle is refused at the issuer, with TVAL and the words of the record; or the endpoint's key (R172). R42 asks RD
alone of a receive, R172 asks RD and WR of every handle: R172 is followed (DEDUCED, log entry 56). -/
def handleCheck (s : State) (h : Word) (send : Option Bool) : Except FaultInfo Nat :=
  let bad : FaultInfo := { cause := 0x0C0, tval := h, words := [] }
  let at_ := h &&& ~~~3#64
  let a := resolved s.cur.core at_
  let here := decide (a / 2 ^ 56 = 0) || decide (a / 2 ^ 56 = s.mynode)
  let space := a / 2 ^ 53 % 8
  let wrongEnd := send.elim false fun b => b == h.getLsbD 0
  if h.getLsbD 1 then
    if !(here && space == 3) then .error bad
    else
      match extCheck s s.cur.ctx (s.ownNode a) with
      | some f => .error { f with tval := at_ }
      | none => if wrongEnd then .error bad else .ok (a % 2 ^ 56)
  else if space ≠ 2 then .error bad
  else if at_.toNat % 64 ≠ 0 then .error { cause := 0x040, tval := at_, words := [] }
  else
    match checkAccess s s.cur.core s.cur.ctx at_ 8 needRW false with
    | .fail c ws => .error { cause := c, tval := at_, words := ws }
    | _ => if wrongEnd then .error bad else .ok a

/-- A key that lies in another package. -/
def State.isPeerKey (s : State) (k : Nat) : Bool := decide (k / 2 ^ 56 ≠ 0) && decide (k / 2 ^ 56 ≠ s.mynode)

/-- The key without its node. -/
def localKey (k : Nat) : Nat := k % 2 ^ 56

/-- The type word as the issuer finds it at issue. -/
def State.typeAt (s : State) (k : Nat) : ChanType := chanType (s.peek (localKey k))

/-- The effective scope of an operation on a channel (R129, R136). -/
def State.chanScope (s : State) (k : Nat) : Nat :=
  if s.isPeerKey k then 6
  else effScope .rel (s.typeAt k).scope (coordOfCore s.cur.core) 2 (ownerCoord 2 (localKey k))

/-- The key names an external endpoint. -/
def isExtKey (k : Nat) : Bool := decide (k / 2 ^ 53 % 8 = 3)

/-- The operation is a release, an acquire (R136). The type of a peer's channel is not known at issue: its operations are
taken as both. DEDUCED, log entry 56. -/
def State.chanReleases (s : State) (k : Nat) (send : Bool) : Bool :=
  let t := s.typeAt k
  s.isPeerKey k || (if t.depth = 0 then true else send && !t.ep)
def State.chanAcquires (s : State) (k : Nat) (send : Bool) : Bool :=
  s.isPeerKey k || (s.typeAt k).depth == 0 || !send

/-- A store of an agent to a 64-byte unit is still on its way. -/
def State.inFlightTo (s : State) (a : Agent) (unit : Nat) : Bool :=
  ((s.agenda ++ s.blocked).any fun e =>
    match e with
    | .ownerAccess r | .subByteStore r | .versionedStoreAtOwner r | .reclaimAtOwner r | .initialiseAtOwner r =>
      decide (r.agent = a) && decide (r.pa / 64 = unit) && changes r.op
    | _ => false) || (s.walks.flatMap (·.joined) ++ s.walkQ ++ s.walkWait).any fun r => decide (r.agent = a)

/-- The message of the issuing process. -/
def State.mkChan (s : State) (h : Word) (key : Nat) (send : Bool) (kind : Nat) (elem : List Byte) (addr : Word)
    (rs re : Reg) : ChanMsg :=
  let n := SMap.get 0 s.cur.seqs key
  { agent := s.cur.agent, core := s.cur.core, unit := s.cur.unit, ctx := s.cur.ctx, handle := h, key := localKey key,
    send := send, kind := kind, elem := elem, addr := addr, rs := rs, re := re, pc := s.cur.pc, seq := n + 1,
    deadline := if s.cur.tmo ≠ 0 ∧ kind ≤ 3 then some (s.clkOf s.cur.core + s.cur.tmo.toNat) else none,
    issued := ((s.core s.cur.core).issued.toList.getD s.cur.unit 0).toNat, sel := none, num := s.accs + 1, flags := 0 }

/-- The context of a process replays its log (R163). -/
def State.replays (s : State) (p : Proc) : Bool := s.logged p && (s.ctx p.ctx).logctl.getLsbD 0

/-- A time-out is armed: it fires when the core's CLK has come, or under replay at its logged place, whatever the clock
shows (R163, R181). -/
def State.arm (s : State) (pid cycles : Nat) (e : Ev) : State := if s.replays (s.proc pid) then s.push e else s.after cycles e

/-- A message of this package for a channel of a peer. -/
def State.goesAway (s : State) (m : ChanMsg) : Bool := isProcMsg m && s.isPeerAddr m.handle

/-- The message travels to the home, in this package or a peer's. -/
def State.toHome (s : State) (m : ChanMsg) : State :=
  if s.goesAway m then
    let s := s.sendFlit (m.handle.toNat / 2 ^ 56) m.ctx 0 (.chan m)
    if s.peerOps.any fun e => decide (e.1 = m.num) then s else { s with peerOps := s.peerOps ++ [(m.num, m)] }
  else s.push (if m.send then .channelSendAtHome m else .channelReceiveAtHome m)

/-- The process records its operation, and the message is sent. DEDUCED, log entry 56. -/
def State.sendChan (s : State) (m : ChanMsg) (key : Nat) (acq : Bool) : State :=
  let p := s.cur
  let p := { p with
    chan := if m.kind = 2 then p.chan else p.chan + 1,
    waiting := p.waiting || (p.task && m.kind != 2),
    cnt := if m.kind = 2 then p.cnt.up .transfers else p.cnt,
    seqs := if m.send then SMap.put 0 p.seqs key m.seq else p.seqs,
    armed := if m.deadline.isSome then m.deadline else p.armed,
    outst := p.outst ++ [{ sn := m.num, loads := false, stores := false, held := decide (m.kind = 2), sp3 := false,
                           owner := [] }],
    holdAll := if acq && m.kind != 2 then p.holdAll ++ [m.num] else p.holdAll }
  let p := (chanWrites m 0 0).foldl (fun p w => p.setPend w.1) p
  let s : State := { s with cur := p, accs := s.accs + 1 }
  (if m.deadline.isSome then s.arm p.pid p.tmo.toNat (.channelTimeout p.pid) else s).toHome m

/-- What every channel instruction waits for or raises before its own checks (R186, R288, R297). -/
def chanStart (s : State) (timed : Bool) (k : Out) : Out :=
  boundary s
    (if s.cur.rc && timed then .next (s.raiseAfter 0x0C2 0 [] none)
     else if timed && s.cur.armed.isSome && s.cur.chan == 0 then raiseO s 0x001 s.cword
     else if 0 < s.cur.chan ∨ !s.cur.mayAccess then .next s.stall
     else k)

/-- The release condition of an operation holds (R129, R136). -/
def State.chanMaySend (s : State) (key : Nat) (send : Bool) : Bool :=
  isExtKey key ||
  ((!s.chanReleases key send || s.cur.releaseHolds (s.chanScope key)) && (!send || s.cur.finished s.cur.holdSt))

/-- A fault found at the issuer is an issue check (R172, R288). -/
def issueFault (s : State) (f : FaultInfo) : Out := .next (s.raise f.cause f.tval s.cur.pc f.words true)

/-- `csend` and `crecv` (R290). -/
def wordOp (s : State) (h : Word) (send : Bool) (x : Word) (rs re : Reg) : Out :=
  chanStart s true
    (match handleCheck s h (some send) with
     | .error f => issueFault s f
     | .ok key =>
       if !s.chanMaySend key send then .next s.stall
       else
         .next (s.sendChan (s.mkChan h key send 0 (if send then natToBytes 8 x.toNat else []) 0 rs re) key
           (s.chanAcquires key send)))

/-- Send a word (R290). -/
def execCsend (_l : Lone) (d a b : Reg) (s : State) : Out := wordOp s (s.g a) true (s.g b) d 0

/-- Receive a word: the element to rd, the status to the register in rb (R290). -/
def execCrecv (_l : Lone) (d a b : Reg) (s : State) : Out := wordOp s (s.g a) false 0 b d

/-- The 64-byte unit of an address that the issuing process may read, once its own stores there are performed. -/
def State.readable (s : State) (va : Word) (n : Nat) : Option State :=
  let k := checkNow s s.cur.core s.cur.ctx va n needRd false
  match k.1 with
  | .ok pa _ => if s.inFlightTo s.cur.agent (pa / 64) || !s.scoreOk va n false then none else some k.2
  | _ => some s

/-- The element of a block send is read as a load at issue; a fault of the read is the sender's (R291). -/
def withElement (s : State) (va : Word) (n : Nat) (k : State → List Byte → Out) : Out :=
  match s.readable va n with
  | none => .next s.stall
  | some s =>
    match readBeat s s.cur.core s.cur.ctx va n with
    | (.ok bs, s) => k (s.dropHost s.cur.core s.cur.ctx) bs
    | (.error f, s) =>
      if f.cause = notYet then .next s.stall else .next (s.raiseAfter f.cause f.tval f.words none)

/-- Bytes of a block element at an address. The size of a peer's channel is not known at issue: what its home may take lies
between the address and the end of its 64-byte unit (R291). DEDUCED, log entry 56. -/
def State.blockSize (s : State) (key : Nat) (va : Word) : Nat :=
  if s.isPeerKey key then 64 - va.toNat % 64 else 2 ^ min 6 (s.typeAt key).log2e

/-- A request of eight words (R88, R291): SCOPE comes from the element. -/
def serverSend (s : State) (h : Word) (key stack : Nat) (va : Word) (rs : Reg) : Out :=
  if va.toNat % 64 ≠ 0 then raiseO s 0x040 va
  else
    withElement s va 64 fun s bs =>
      let ws := wordsOfBytes bs
      let sc := field (ws.getD 0 0) 24 3
      if sc ≠ 0 ∧ sc ≠ 7 ∧ !s.cur.releaseHolds sc then .next s.stall
      else
        let m := s.mkChan h key true 1 bs va rs 0
        let s := s.sendChan m key true
        .next { s with agenda := s.agenda.filter (· ≠ .channelSendAtHome m) ++
                         [.msRequest { stack := stack, words := ws, msg := m }] }

/-- Send a block of 2^LOG2E bytes, or a request to a memory server (R291). -/
def execCsendb (_l : Lone) (d a b : Reg) (s : State) : Out :=
  chanStart s true
    (match handleCheck s (s.g a) (some true) with
     | .error f => issueFault s f
     | .ok key =>
       match isExtKey key, extEnd key with
       | true, some (.server k) => serverSend s (s.g a) key k (s.g b) d
       | true, _ => .next (s.sendChan (s.mkChan (s.g a) key true 1 [] (s.g b) d 0) key true)
       | _, _ =>
         let n := s.blockSize key (s.g b)
         if !s.isPeerKey key && (s.g b).toNat % n ≠ 0 then raiseO s 0x040 (s.g b)
         else if !s.chanMaySend key true then .next s.stall
         else
           withElement s (s.g b) n fun s bs =>
             .next (s.sendChan (s.mkChan (s.g a) key true 1 bs (s.g b) d 0) key (s.chanAcquires key true)))

/-- Receive a block to the address in rb (R291). -/
def execCrecvb (_l : Lone) (d a b : Reg) (s : State) : Out :=
  chanStart s true
    (match handleCheck s (s.g a) (some false) with
     | .error f => issueFault s f
     | .ok key =>
       if !s.isPeerKey key && !isExtKey key && (s.g b).toNat % s.blockSize key (s.g b) ≠ 0 then raiseO s 0x040 (s.g b)
       else if !s.chanMaySend key false then .next s.stall
       else
         .next (s.sendChan (s.mkChan (s.g a) key false 1 [] (s.g b) d 0) key true))

/-- A scoreboard entry for each range of a command, if the core has them free (R71, R73). A new entry follows the live ones.
DESIGN CHOICE, log entry 88. -/
def State.takeScore (s : State) (es : List (Word × Nat × Bool)) (cls : CntClass) (cmd : Nat) : Option State :=
  let c := s.core s.cur.core
  if c.score.length + es.length > 16 then none
  else
    some (s.setCore s.cur.core { c with score := c.score ++ es.map fun e =>
      { base := BitVec.ofNat 64 (resolved s.cur.core e.1), len := e.2.1, write := e.2.2, slot := s.cur.unit, cls := cls,
        cmd := cmd } })

/-- Bytes of a tile's range: of a peer's channel, whose size its issuer cannot know, the largest (R292). DEDUCED, log entry 56. -/
def State.tileBytes (s : State) (k : Nat) : Nat := if s.isPeerKey k then 2 ^ 20 else 2 ^ min 20 (s.typeAt k).log2e

/-- `csendt` and `crecvt` (R292): the scoreboard entry, the counter, the registration; the process goes on. -/
def tileOp (s : State) (h : Word) (send : Bool) (va : Word) (rs : Reg) : Out :=
  chanStart s true
    (match handleCheck s h (some send) with
     | .error f => issueFault s f
     | .ok key =>
       if va.toNat % 64 ≠ 0 then raiseO s 0x040 va
       else if !s.chanMaySend key send || s.cur.cnt.full .transfers then .next s.stall
       else
         match s.takeScore [(va, s.tileBytes key, !send)] .transfers (s.accs + 1) with
         | none => .next s.stall
         | some s => .next (s.sendChan (s.mkChan h key send 2 [] va rs 0) key false))

/-- Send a tile (R292). -/
def execCsendt (_l : Lone) (d a b : Reg) (s : State) : Out := tileOp s (s.g a) true (s.g b) d

/-- Receive a tile (R292). -/
def execCrecvt (_l : Lone) (d a b : Reg) (s : State) : Out := tileOp s (s.g a) false (s.g b) d

/-- Look at a channel (R295). -/
def execCpoll (_l : Lone) (d a : Reg) (s : State) : Out :=
  chanStart s false
    (match handleCheck s (s.g a) none with
     | .error f => issueFault s f
     | .ok key => .next (s.sendChan { s.mkChan (s.g a) key false 4 [] 0 d 0 with deadline := none } key false))

/-- Close a channel (R178, R296): a release at the channel scope. -/
def execCclose (_l : Lone) (a : Reg) (s : State) : Out :=
  chanStart s false
    (match handleCheck s (s.g a) none with
     | .error f => issueFault s f
     | .ok key =>
       if !isExtKey key && !s.cur.releaseHolds (s.chanScope key) then .next s.stall
       else .next (s.sendChan (s.mkChan (s.g a) key true 5 [] 0 0 0) key false))

/-- Send a packet from the descriptor in rb (R293); the release condition is that of scope 6. -/
def execCsendp (_l : Lone) (d a b : Reg) (s : State) : Out :=
  chanStart s true
    (match handleCheck s (s.g a) (some true) with
     | .error f => issueFault s f
     | .ok key =>
       if !(s.g a).getLsbD 1 then
         (if !s.chanMaySend key true then .next s.stall
          else .next (s.sendChan (s.mkChan (s.g a) key true 3 [] (s.g b) d 0) key false))
       else if (s.g b).toNat % 8 ≠ 0 then raiseO s 0x040 (s.g b)
       else if !s.cur.releaseHolds 6 then .next s.stall
       else .next (s.sendChan (s.mkChan (s.g a) key true 3 [] (s.g b) d 0) key false))

/-- A packet's result area lies in space 2 of this package (R294). -/
def State.areaOk (s : State) (va : Word) : Bool :=
  let a := resolved s.cur.core va
  decide (a / 2 ^ 53 % 8 = 2) && !s.isPeerKey a

/-- Receive a packet into the result area in rb (R294). A result area outside space 2 raises SRAM_HOLE. DESIGN CHOICE, log
entry 85. -/
def execCrecvp (_l : Lone) (d a b : Reg) (s : State) : Out :=
  chanStart s true
    (match handleCheck s (s.g a) (some false) with
     | .error f => issueFault s f
     | .ok key =>
       if (s.g a).getLsbD 1 ∧ (s.g b).toNat % 32 ≠ 0 then raiseO s 0x040 (s.g b)
       else if (s.g a).getLsbD 1 && !s.areaOk (s.g b) then raiseO s 0x044 (s.g b)
       else .next (s.sendChan (s.mkChan (s.g a) key false 3 [] (s.g b) d 0) key true))

/-- `chnew` and `chdel` (R298, R299): the record must be 64-byte aligned, in space 2 of this package, and writable. -/
def recordOp (s : State) (x : Word) (kind : Nat) (d : Reg) : Out :=
  boundary s
    (if 0 < s.cur.chan ∨ !s.cur.mayAccess then .next s.stall
       else
         let h := if kind = 7 then x &&& ~~~3#64 else x
         if h.toNat % 64 ≠ 0 then raiseO s 0x040 h
         else
           let a := resolved s.cur.core h
           if a / 2 ^ 53 % 8 ≠ 2 ∨ s.isPeerKey a then .next (s.raiseAfter 0x044 h [] none)
           else
             match checkAccess s s.cur.core s.cur.ctx h 64 needRW false with
             | .fail c ws => .next (s.raiseAfter c h ws none)
             | _ =>
               if !s.cur.releaseHolds (s.chanScope a) then .next s.stall
               else .next (s.sendChan (s.mkChan x a true kind [] 0 d 0) a false))

/-- Make a channel of a record (R298). -/
def execChnew (l : Lone) (d b : Reg) (s : State) : Out := recordOp s (s.descOp l b) 6 d

/-- End a channel (R299). -/
def execChdel (l : Lone) (b : Reg) (s : State) : Out := recordOp s (s.descOp l b) 7 0

/-! ### At the home -/

/-- The checks of R172 at the home. -/
def homeRefuses (t : ChanType) (m : ChanMsg) : Bool :=
  decide (t.ctx ≠ m.ctx.toNat) || !t.sizeOk || t.scope == 7 || (t.ep && t.depth == 0) || (decide (m.kind ≤ 3) && t.kind != m.kind) ||
  (m.kind == 1 && isProcMsg m && (decide (m.addr.toNat % 2 ^ t.log2e ≠ 0) || (m.send && decide (m.elem.length ≠ 2 ^ t.log2e))))

/-- Why the home refuses an operation: a word of the record that cannot be read, R172, or the alignment that a peer could not
check (R62, R172, R291). -/
def homeFault (s : State) (m : ChanMsg) : Option FaultInfo × State :=
  let t := chanType (s.peek m.key)
  match s.guardList ((List.range 7).map fun i => m.key + 8 * i) with
  | (some w, s) => (some { cause := 0x046, tval := BitVec.ofNat 64 w, words := [] }, s)
  | (none, s) =>
    (if homeRefuses t m then chanFault 0x0C0 m
     else if m.kind = 1 ∧ !isProcMsg m ∧ m.addr.toNat % 2 ^ t.log2e ≠ 0 then some { cause := 0x040, tval := m.addr, words := [] }
     else none, s)

/-- The value that `cpoll` reads (R295). -/
def State.pollWord (s : State) (k : Nat) : Word :=
  let t := chanType (s.peek k)
  let snd := (s.sendersAt k).length
  let rcv := (s.receiversAt k).length
  let n := if t.depth = 0 then 0 else s.chanLen k
  let sr := t.closed || (if t.depth = 0 then decide (0 < rcv) else decide (n < t.depth))
  let rr := t.closed || (if t.depth = 0 then decide (0 < snd) else decide (0 < n))
  BitVec.ofNat 64 (min snd 0xFFFF * 2 ^ 48 + min rcv 0xFFFF * 2 ^ 32 + n % 256 * 2 ^ 24 + bit t.closed * 4 + bit sr * 2 + bit rr)

/-- What `chnew` requires of the record (R298). -/
def newRefused (s : State) (m : ChanMsg) : Bool :=
  let w := s.peek m.key
  let t := chanType w
  let buf := (s.peek (m.key + 24))
  let last := buf + BitVec.ofNat 64 (t.depth * 2 ^ t.log2e - 1 + (if t.ep then 8 * t.depth else 0))
  let okAt := fun (a : Word) =>
    decide (resolved m.core a / 2 ^ 53 % 8 = 2) && !s.isPeerKey (resolved m.core a) &&
    (match checkAccess s m.core m.ctx a 1 needRW false with | .ok _ _ => true | _ => false)
  !t.sizeOk || t.scope == 7 || (t.ep && t.depth == 0) || field w 48 16 != 0 || field w 29 3 != 0 ||
  (decide (0 < t.depth) && (decide (buf.toNat % 64 ≠ 0) || !okAt buf || !okAt last))

/-- A waiter stands at the record. -/
def State.hasWaiter (s : State) (k : Nat) : Bool :=
  field (s.peek (k + 8)) 0 48 != 0 || field (s.peek (k + 16)) 0 48 != 0

/-- The end of an operation without an element: the value of its register, or a fault. -/
def endWith (s : State) (m : ChanMsg) (x : Word) (f : Option FaultInfo) : State :=
  s.reportChan m 0 (natToBytes 8 x.toNat) 0 false f

/-- `chnew` at the home (R298). -/
def newAtHome (s : State) (m : ChanMsg) : State :=
  if newRefused s m then endWith s m 0 (chanFault 0x0C0 m)
  else if s.hasWaiter m.key then endWith s m 0 (chanFault 0x0C5 m)
  else
    let w := setField (s.peek m.key) 28 1 0
    let s := s.poke m.key (setField w 32 16 m.ctx.toNat)
    let s := [8, 16, 32, 40, 48, 56].foldl (fun s o => s.poke (m.key + o) 0) s
    endWith { s with elems := s.elems.filter fun e => decide (e.key ≠ m.key) } m (BitVec.ofNat 64 m.key) none

/-- `chdel` at the home (R299). -/
def deleteAtHome (s : State) (m : ChanMsg) : State :=
  if newRefused s m || decide ((chanType (s.peek m.key)).ctx ≠ m.ctx.toNat) then endWith s m 0 (chanFault 0x0C0 m)
  else if s.hasWaiter m.key then endWith s m 0 (chanFault 0x0C5 m)
  else
    endWith ({ s with elems := s.elems.filter fun e => decide (e.key ≠ m.key) }.poke m.key 0x0000FFFF10000000) m 0 none

/-- `cclose` at the home (R178). -/
def closeAtHome (s : State) (m : ChanMsg) : State :=
  if (chanType (s.peek m.key)).closed then endWith s m 0 none
  else endWith ((s.poke m.key (setField (s.peek m.key) 28 1 1)).serveChan m.key) m 0 none

/-- An operation joins the waiters and the channel is served; if it stays, its process waits (R173, R174, R288). -/
def State.arrive (s : State) (m : ChanMsg) : State :=
  let s := ({ s with chanq := s.chanq ++ [m] }).serveChan m.key
  if s.stillWaits m then s.chanPark m (if m.send then 1 else 2) m.key else s

/-- A send of which the home could keep no element is refused; the slot stalls for 64 cycles (R173). -/
def State.refuseSend (s : State) (m : ChanMsg) : State :=
  match m.agent with
  | .proc pid => (s.updProc pid fun p => { p with waiting := true }).after 64 (.sendRetry m)
  | _ => s.after 64 (.sendRetry m)

/-- The kind and the end that an endpoint fixes (R177). -/
def extFits (e : ExtEnd) (m : ChanMsg) : Bool :=
  m.kind == 4 ||
  (match e with
   | .server _ => m.kind == 1 && m.send
   | .transmit _ _ => m.kind == 3 && m.send
   | .ring _ _ => m.kind == 3 && !m.send)

/-- A send at an external endpoint's step. -/
def extSend (s : State) (m : ChanMsg) (e : ExtEnd) : State :=
  if !extFits e m then endWith s m 0 (chanFault 0x0C0 m)
  else
    match e with
    | .server k => s.push (.msRequest { stack := k, words := wordsOfBytes m.elem, msg := m })
    | .transmit p pr =>
      (s.setPort p { s.port p with waiting := (s.port p).waiting ++ [m] }).push (.frameTransmit p pr)
    | .ring _ _ => endWith s m 0 (chanFault 0x0C0 m)

/-- A send would wait at this step. -/
def sendWaits (s : State) (t : ChanType) (k : Nat) : Bool :=
  if t.depth = 0 then (s.receiversAt k).isEmpty else decide (t.depth ≤ s.chanLen k)

/-- The transfer of a message that a fault has stopped. -/
def State.stoppedTile (s : State) (m : ChanMsg) : Option TileMsg :=
  s.tiles.find? fun t => t.stopped.isSome && decide (t.len ≤ 2 ^ 20) &&
    (t.sender.toList ++ t.receiver.toList).any fun q => decide (q.num = m.num)

/-- A resumed tile transfer goes on at its failed beat while its other side still stands as it did; otherwise the operation
arrives anew (R176, R405). DEDUCED, log entry 59. -/
def State.resumeAt (s : State) (m : ChanMsg) (t : TileMsg) : State :=
  let k := t.key
  let ty := chanType (s.peek k)
  let s := { s with tiles := s.tiles.filter fun x => decide (x.num ≠ t.num) }
  let other := if t.buf = 0 then s.chanq.find? fun q => decide (q.num = t.mark) && decide (q.key = k) else none
  if m.send then
    (if t.buf = 0 && !ty.closed && other.isSome then s.beginTile ty k (some m) other 0 t.pos
     else if t.buf ≠ 0 && !ty.closed && decide (s.chanTail k = t.mark) && !s.tileBusy k true && decide (s.chanLen k < ty.depth) then
       s.beginTile ty k (some m) none t.buf t.pos
     else s.arrive m)
  else if t.buf = 0 && other.isSome then s.beginTile ty k other (some m) 0 t.pos
  else if t.buf ≠ 0 && decide (s.chanHead k = t.mark) && !s.tileBusy k false && decide (0 < s.chanLen k) then
    s.beginTile ty k none (some m) t.buf t.pos
  else s.arrive m

/-- An operation of the send end at the home: a send, `cclose`, `chnew`, `chdel` (R172–R175, R178, R298, R299). -/
def execChannelSendAtHome (m : ChanMsg) (s : State) : Out :=
  if s.goesAway m then .next (s.toHome m)
  else if isExtKey m.key then
    match extEnd m.key with
    | some e => .next (extSend s m e)
    | none => .next (endWith s m 0 (chanFault 0x0C0 m))
  else if m.kind = 6 then .next (newAtHome s m)
  else if m.kind = 7 then .next (deleteAtHome s m)
  else
    match homeFault s m with
    | (some f, s) => .next (endWith s m 0 (some f))
    | (none, s) =>
      let t := chanType (s.peek m.key)
      if m.kind = 5 then .next (closeAtHome s m)
      else
        match s.stoppedTile m with
        | some x => .next (s.resumeAt m x)
        | none =>
          if t.closed then .next (endWith s m 0 (chanFault 0x0C1 m))
          else if s.tableUse (partOf m.key) ≥ 112 && sendWaits s t m.key then .next (s.refuseSend m)
          else .next (s.arrive m)

/-- A packet receive takes the slot CIDX mod N of its ring and then waits for its version (R99, R294). A ring out of
service or stopped holds it. -/
def ringReceive (s : State) (m : ChanMsg) (p j : Nat) : State :=
  if !s.ringUp p j then
    (s.setPort p { s.port p with early := (s.port p).early ++ [m] }).chanPark m 2 m.key
  else
    let c := field (s.ringWord p j 3) 32 32
    let i := c % s.ringN p j
    match (match m.agent with
           | .proc pid => s.logGate (s.proc pid) 0x0C (4096 + 2 ^ 21 + p) false (s.core m.core).lcore m.unit m.key i
           | _ => .pass s) with
    | .hold => s.later (.channelReceiveAtHome m)
    | .diverge e => endWith (s.setDiv m.ctx) m 0 (some (divergeInfo e m.key))
    | .pass s =>
      let v := s.ringVersion p j c
      let s := s.stepReg (portReg p (0x2000 + 32 * j + 24)) 32 32
      let s := s.setPort p { s.port p with taken := (s.port p).taken ++ [(j, m, i, BitVec.ofNat 8 v)] }
      if s.hasVersion (s.presence p j i) v then s.push (.ingestDeposit p j)
      else (s.chanPark m 2 m.key).push (.ingestDeposit p j)

/-- What `cpoll` answers at an external endpoint (R295). -/
def extPoll (s : State) (e : ExtEnd) : Word :=
  match e with
  | .ring _ _ => BitVec.ofNat 64 (bit (s.extReady e))
  | _ => BitVec.ofNat 64 (2 * bit (s.extReady e))

/-- An operation of the receive end at the home, or `cpoll` (R172–R175, R178, R295). -/
def execChannelReceiveAtHome (m : ChanMsg) (s : State) : Out :=
  if s.goesAway m then .next (s.toHome m)
  else if isExtKey m.key then
    match extEnd m.key with
    | some e =>
      if m.kind = 4 then .next (endWith s m (extPoll s e) none)
      else
        match e, extFits e m with
        | .ring p j, true => .next (ringReceive s m p j)
        | _, _ => .next (endWith s m 0 (chanFault 0x0C0 m))
    | none => .next (endWith s m 0 (chanFault 0x0C0 m))
  else
    match homeFault s m with
    | (some f, s) => .next (endWith s m 0 (some f))
    | (none, s) =>
      if m.kind = 4 then
        .next (if m.sel.isSome then
                 s.reportChan m 0 (natToBytes 8 (s.pollWord m.key).toNat ++ natToBytes 8 (s.peek m.key).toNat) 0 false none
               else endWith s m (s.pollWord m.key) none)
      else
        match s.stoppedTile m with
        | some x => .next (s.resumeAt m x)
        | none => .next (s.arrive m)

/-- A refused send comes again after 64 cycles (R173); a move that could not be made is tried again (kind 8). -/
def execSendRetry (m : ChanMsg) (s : State) : Out :=
  if m.kind = 8 then .next (s.serveChan m.key)
  else
    match m.agent with
    | .proc pid => .next ((s.updProc pid fun p => { p with waiting := false }).push (.channelSendAtHome m))
    | _ => .next (s.push (.channelSendAtHome m))

/-- The slot that a stamp names answers the home's query (R175). -/
def execDrainQueryReply (m : ChanMsg) (_elem : List Byte) (stamp : Word) (s : State) : Out :=
  if !(s.epHeld.any fun e => decide (e.1.num = m.num) && decide (e.1.sel = m.sel)) then .next s
  else if s.killedAgent m.agent then .next ((s.reapChan m.agent.pid).serveChan m.key)
  else if !s.stampDrained stamp then .next (s.later (.drainQueryReply m _elem stamp))
  else
    let s := { s with epHeld := s.epHeld.filter fun e => !(decide (e.1.num = m.num) && decide (e.1.sel = m.sel)) }
    let t := chanType (s.peek m.key)
    match (if t.kind = 2 then takeTile s t m.key m true else takeElem s t m.key m true) with
    | .moved s ks => .next (s.serveAll (m.key :: ks))
    | .idle s => .next s
    | .held s m => .next (s.tryAgain m)

/-! ### Tile transfers (R176) -/

/-- One side of a transfer: a process's range, or the buffer. -/
def tileRead (s : State) (t : TileMsg) : Except FaultInfo (List Byte) × State :=
  match t.sender with
  | some m =>
    match m.agent with
    | .peer n => s.askTile n m t.pos []
    | _ => readBeat s m.core m.ctx (m.addr + BitVec.ofNat 64 t.pos) 64
  | none => s.homeRead (t.buf + t.pos) 64

def tileWrite (s : State) (t : TileMsg) (bs : List Byte) : Except FaultInfo Unit × State :=
  match t.receiver with
  | some m =>
    match m.agent with
    | .peer n =>
      match s.askTile n m t.pos bs with
      | (.ok _, s) => (.ok (), s)
      | (.error f, s) => (.error f, s)
    | _ => writeBeat s m.core m.ctx (m.addr + BitVec.ofNat 64 t.pos) bs 0
  | none =>
    match s.homeRefuse (t.buf + t.pos) 64 with
    | (some f, s) => (.error f, s)
    | (none, s) => (.ok (), s.homeWrite (t.buf + t.pos) bs)

/-- The fault of a tile beat is raised, without stopping it, in the process whose range failed (R176, R401); a peer's package
raises its own. A violation at such a beat freezes no master, since R56 names none for slice DMA. DEDUCED, log entry 59. -/
def tileFault (s : State) (m : ChanMsg) (f : FaultInfo) : State :=
  if isProcMsg m then s.faultAsync m.core m.unit 5 m.ctx m.agent.pid m.pc f false else s

/-- A side of a transfer acquires from the other (R136). -/
def tileMiss (ty : ChanType) (k : Nat) (acq : ChanMsg) (rel : Option (Nat × Nat × Bool)) : Bool :=
  rel.elim false fun x => chanMiss ty k acq x.1 x.2.2

/-- The releasing side of a transfer, as the other side's acquire finds it: core, unit, and whether it is a process here. -/
def State.tileFrom (s : State) (t : TileMsg) : Option (Nat × Nat × Bool) :=
  match t.sender with
  | some q => some (q.core, q.unit, isProcMsg q)
  | none => (s.elemInfo t.key (s.chanHead t.key)).map fun x => (x.core, x.unit, x.proc)

/-- The misses of a transfer's receiver and, at a rendezvous, of its sender (R136). -/
def State.tileMisses (s : State) (t : TileMsg) : Bool × Bool :=
  let ty := chanType (s.peek t.key)
  (t.receiver.elim false fun m => tileMiss ty t.key m (s.tileFrom t),
   t.sender.elim false fun m => tileMiss ty t.key m (t.receiver.map fun q => (q.core, q.unit, isProcMsg q)))

/-- The end of a transfer: HEAD and TAIL move, both sides complete (R176); their acquires are checked (R136). -/
def tileDone (s : State) (t : TileMsg) : State :=
  let k := t.key
  let ty := chanType (s.peek k)
  let m := s.tileMisses t
  if !s.chanRoom k ((if m.1 then 1 else 0) + (if m.2 then 1 else 0)) then s.later (.tileTransfer t)
  else
    let src := s.tileFrom t
    let s := { s with tiles := s.tiles.filter fun x => decide (x.num ≠ t.num) }
    let s := t.receiver.elim s fun r => s.chanWiden m.1 k r (src.elim 0 (·.1)) (src.elim 0 (·.2.1))
    let s := t.sender.elim s fun q => s.chanWiden m.2 k q (t.receiver.elim 0 (·.core)) (t.receiver.elim 0 (·.unit))
    let s := match t.sender, t.receiver with
      | some q, none => s.putDone ty k q
      | none, some _ =>
        { (s.setHeadTail k (s.chanHead k + 1) (s.chanTail k)) with
            elems := s.elems.filter fun x => !decide (x.key = k ∧ x.idx = s.chanHead k) }
      | _, _ => s
    let s := t.sender.elim s fun q => s.reportChan q 0 [] 0 m.2 none
    let s := t.receiver.elim s fun r => s.reportChan r 0 [] 0 m.1 none
    s.serveChan k

/-- The length of the stand-in for a beat that another package's home asks of a range here. DEDUCED, log entry 36. -/
def remoteTile : Nat := 2 ^ 62

/-- A beat of a range of this package for a home at another package: it is performed and answered, or its process's fault is
raised here and the home told (R176, R291; DEDUCED, log entry 36). -/
def remoteBeat (s : State) (t : TileMsg) (m : ChanMsg) : State :=
  let at_ := if m.kind = 1 then m.addr else m.addr + BitVec.ofNat 64 t.pos
  let r : Except FaultInfo (List Byte) × State :=
    if m.send then readBeat s m.core m.ctx at_ 64
    else
      match writeBeat s m.core m.ctx at_ m.elem 0 with
      | (.ok _, s) => (.ok [], s)
      | (.error f, s) => (.error f, s)
  let node := m.handle.toNat / 2 ^ 56
  let gone (s : State) : State := { s with tiles := s.tiles.filter fun x => decide (x.num ≠ t.num) }
  match r with
  | (.ok bs, s) => (gone s).sendFlit node m.ctx 1 (.tileAnswer m.num t.pos true bs)
  | (.error f, s) =>
    if f.cause = notYet then s.later (.tileTransfer t)
    else
      let s := s.sendFlit node m.ctx 1 (.tileAnswer m.num t.pos false [])
      if m.kind = 1 then
        (gone { s with peerOps := s.peerOps.filter fun e => decide (e.1 ≠ m.num) }).reportChan m 0 [] 0 false (some f)
      else
        tileFault { s with tiles := s.tiles.map fun x => if x.num = t.num then { t with stopped := some m.agent.pid } else x } m f

/-- A beat of a side has failed: the transfer stops and that side keeps it for a resume, the other side returns to where it
came from, and others may meet (R44, R176). -/
def stopTile (s : State) (t : TileMsg) (sender : Bool) (f : FaultInfo) : State :=
  let who := if sender then t.sender else t.receiver
  let back := if sender then t.receiver else t.sender
  let mark := if t.buf = 0 then back.elim 0 (·.num) else if sender then s.chanTail t.key else s.chanHead t.key
  let u : TileMsg := { t with sender := if sender then t.sender else none, receiver := if sender then none else t.receiver,
                              stopped := some (who.elim 0 (·.agent.pid)), mark := mark }
  let s := { s with tiles := s.tiles.map fun x => if x.num = t.num then u else x }
  let s := back.elim s fun q => s.toHead q
  (who.elim s fun m => tileFault s m f).serveChan t.key

/-- One beat of a tile transfer; at its last beat both sides complete (R176). -/
def execTileTransfer (t : TileMsg) (s : State) : Out :=
  if !(s.tiles.any fun x => decide (x.num = t.num) && x.stopped.isNone) then .next s
  else if t.len = remoteTile then .next ((t.sender.orElse fun _ => t.receiver).elim s (remoteBeat s t))
  else if t.pos ≥ t.len then .next (tileDone s t)
  else
    match tileRead s t with
    | (.error f, s) => .next (if f.cause = notYet then s.later (.tileTransfer t) else stopTile s t t.sender.isSome f)
    | (.ok bs, s0) =>
      match tileWrite s0 t bs with
      | (.ok (), s) =>
        let n := { t with pos := t.pos + 64 }
        let s := { s with tiles := s.tiles.map fun x => if x.num = t.num then n else x }
        .next (if n.pos ≥ n.len then tileDone s n else s.push (.tileTransfer n))
      | (.error f, s) => .next (if f.cause = notYet then s.later (.tileTransfer t) else stopTile s t t.receiver.isNone f)

/-! ### Time-outs and withdrawals (R181, R297) -/

/-- The operation of a process that its time-out would withdraw, wherever it stands. -/
def State.armedOp (s : State) (pid : Nat) : Option ChanMsg :=
  let mine := fun (m : ChanMsg) => decide (m.agent = .proc pid) && m.deadline.isSome
  let inEv := fun (e : Ev) => match e with
    | .channelSendAtHome m | .channelReceiveAtHome m | .sendRetry m => if mine m then some m else none
    | .msRequest q => if mine q.msg then some q.msg else none
    | _ => none
  (s.chanq.find? mine).orElse fun _ =>
    ((s.agenda ++ s.blocked ++ s.timers.map (·.2)).findSome? inEv).orElse fun _ =>
      (s.eth.findSome? fun e => ((e.2.waiting ++ e.2.early ++ e.2.taken.map (·.2.1)).find? mine)).orElse fun _ =>
        (s.peerOps.map (·.2)).find? mine

/-- A time-out fires now: its deadline has come, or, under replay, the log's next record of the process is its time-out, and
none of the channel names it (R163, R181). DEDUCED, log entry 60. -/
def State.timeoutDue (s : State) (p : Proc) (deadline obj : Nat) : Bool :=
  if s.replays p then
    let rs := ((s.fileReplay p.ctx).ctx p.ctx).replay
    ((expectedRec rs p.pid).elim false fun r => field r.w0 58 6 == 9) &&
    !((expectedRec rs obj).elim false fun r => field r.w0 45 13 == (s.core p.core).lcore % 1024 * 8 + p.unit % 8 && field r.w0 58 6 != 3)
  else decide (deadline ≤ s.clkOf p.core)

/-- The deadline of a channel operation has passed: the core sends a withdrawal to the home (R297). Under replay the time-out
stays armed until its place in the log. DEDUCED, log entry 60. -/
def execChannelTimeout (pid : Nat) (s : State) : Out :=
  let p := s.proc pid
  match p.armed, s.armedOp pid with
  | some d, some m =>
    if s.timeoutDue p d m.key then .next (if p.killed && !s.goesAway m then s.reapChan pid else s.push (.withdrawal m))
    else .next (if s.replays p then s.later (.channelTimeout pid) else s)
  | _, _ => .next s

/-- Words of a packet's result area (R294). -/
def areaWords (s : State) (p j i v : Nat) (data : Word) (pay : Word) : List Word :=
  [data, pay, BitVec.ofNat 64 (2 * 2 ^ 53 + s.presence p j i % 2 ^ 53), BitVec.ofNat 64 v]

/-- The step in flight carries this operation. -/
def carries (m : ChanMsg) (e : Ev) : Bool :=
  match e with
  | .channelSendAtHome q | .channelReceiveAtHome q => decide (q.num = m.num)
  | .sendRetry q => decide (q.num = m.num) && q.kind != 8
  | .msRequest q => decide (q.msg.num = m.num)
  | _ => false

/-- The slot that a packet receive has taken: port, ring, slot, version (R294). -/
def State.takenSlot (s : State) (m : ChanMsg) : Option (Nat × Nat × Nat × Nat) :=
  match extEnd m.key with
  | some (.ring p _) =>
    ((s.port p).taken.find? fun e => decide (e.2.1.num = m.num)).map fun e => (p, e.1, e.2.2.1, e.2.2.2.toNat)
  | _ => none

/-- The operation leaves the place where it waits; none where it has been matched (R297). -/
def State.takeOut (s : State) (m : ChanMsg) : Option State :=
  if s.stillWaits m then some ((s.unwait m).syncWaiters m.key)
  else if (s.blocked ++ s.timers.map (·.2)).any (carries m) then
    some { s with blocked := s.blocked.filter (fun e => !carries m e), timers := s.timers.filter fun e => !carries m e.2 }
  else
    match (if isExtKey m.key then extEnd m.key else none) with
    | some (.transmit p _) =>
      if (s.port p).waiting.any fun q => decide (q.num = m.num) then
        some (s.setPort p { s.port p with waiting := (s.port p).waiting.filter fun q => decide (q.num ≠ m.num) })
      else none
    | some (.ring p _) =>
      if (s.port p).early.any (fun q => decide (q.num = m.num)) || (s.takenSlot m).isSome then
        some (s.setPort p { s.port p with early := (s.port p).early.filter (fun q => decide (q.num ≠ m.num)),
                                          taken := (s.port p).taken.filter fun e => decide (e.2.1.num ≠ m.num) })
      else none
    | _ => none

/-- A beat or a claim that has gone to another package on behalf of the channel has not been answered: the withdrawal is
ordered behind the match that it may bring about (R64). -/
def State.asksPeer (s : State) (k : Nat) : Bool :=
  s.chanq.any fun q => decide (q.key = k) && (q.claim == 1 || s.tileIn.any fun e => decide (e.1 = q.num))

/-- The end of a withdrawn operation. -/
def State.withdrawn (s : State) (m : ChanMsg) : State := s.reportChan m 2 [] 0 false none

/-- A withdrawal at the home, or at a port, ordered against the match (R297). -/
def execWithdrawal (m : ChanMsg) (s : State) : Out :=
  if s.peerOps.any fun e => decide (e.1 = m.num) then .next (s.sendFlit (m.handle.toNat / 2 ^ 56) m.ctx 0 (.withdraw m))
  else if s.asksPeer m.key then .next (s.later (.withdrawal m))
  else
    match s.takeOut m with
    | none => .next s
    | some _ =>
      match (match m.agent with
             | .proc pid => s.logGate (s.proc pid) 0x09 (ownerUnit m.key) false (s.core m.core).lcore m.unit pid 0
             | _ => .pass s) with
      | .hold => .next (s.later (.withdrawal m))
      | .diverge e =>
        let s := (s.takeOut m).getD s
        .next ((s.setDiv m.ctx).reportChan m 0 [] 0 false (some (divergeInfo e m.agent.pid)))
      | .pass g =>
        let t := (g.takeOut m).getD g
        match g.takenSlot m with
        | none => .next (t.withdrawn m)
        | some (p, j, i, v) =>
          match writeBeat t m.core m.ctx m.addr (bytesOfWords (areaWords t p j i v 0 0)) 0 with
          | (.ok (), t) => .next (t.withdrawn m)
          | (.error f, t) => .next (if f.cause = notYet then s.later (.withdrawal m) else t.reportChan m 0 [] 0 false (some f))

end Sys2Proof.Machine
end

