-- ==== Sys2Proof/Machine/Flags.lean ====
section
/-! DEFINITION. Results that come with flags: saturation (R261, R263), the fields of `bext` and `bins` (R265), and
the delivery of a floating-point result with its flags, its subnormal check and its enabled traps (R238–R241). -/

namespace Sys2Proof.Machine

/-- A signed integer clamped to 64 bits, with SAT when clamped (R261). -/
def clampS (x : Int) : Word × Flags :=
  let c := clampI x (-(2 ^ 63)) (2 ^ 63 - 1)
  (BitVec.ofInt 64 c.1, c.2)

def addSatS (a b : Word) : Word × Flags := clampS (a.toInt + b.toInt)
def subSatS (a b : Word) : Word × Flags := clampS (a.toInt - b.toInt)

def addSatN (a b : Word) : Word × Flags :=
  let c := clampI ((a.toNat : Int) + b.toNat) 0 (2 ^ 64 - 1)
  (BitVec.ofInt 64 c.1, c.2)

def subSatN (a b : Word) : Word × Flags :=
  let c := clampI ((a.toNat : Int) - b.toNat) 0 (2 ^ 64 - 1)
  (BitVec.ofInt 64 c.1, c.2)

/-- The signed quotient, truncated toward zero; −2^63 by −1 gives −2^63 and SAT (R263). -/
def quotS (a b : Word) : Word × Flags :=
  if a = BitVec.ofNat 64 (2 ^ 63) ∧ b = -1 then (a, flSAT) else (BitVec.ofInt 64 (a.toInt.tdiv b.toInt), 0)

/-- The signed remainder, a − b × quotient (R263). -/
def remS64 (a b : Word) : Word := BitVec.ofInt 64 (a.toInt.tmod b.toInt)

/-- lo and w of `bext` and `bins`; w = 0 stands for 64 (R265). -/
def bitSpec (b : Word) : Nat × Nat := (field b 0 6, if field b 8 6 = 0 then 64 else field b 8 6)

def bitExtract (a b : Word) : Word := (a >>> (bitSpec b).1) &&& BitVec.ofNat 64 (2 ^ (bitSpec b).2 - 1)

def bitInsert (old a b : Word) : Word :=
  let m : Word := BitVec.ofNat 64 (2 ^ (bitSpec b).2 - 1) <<< (bitSpec b).1
  (old &&& ~~~m) ||| ((a <<< (bitSpec b).1) &&& m)

/-- A result that may have been clamped: the register and FSR.SAT (R238). -/
def State.setClamped (s : State) (d : Reg) (x : Word × Flags) : State :=
  { s with cur := (s.cur.setG d x.1).orFsr x.2 }

/-- Flags whose trap enables stand in a captured FCR, in FSR order (R236, R239). -/
def enabledFlags (fcr : Word) (fl : Flags) : Flags := fl &&& BitVec.ofNat 7 (field fcr 8 5)

/-- Deliver a scalar floating-point result: register, FSR, RS, and the enabled flags of the bundle (R238, R239). -/
def State.setFp (s : State) (d : Reg) (x : Word) (fl : Flags) (rs : Word) : State :=
  { s with cur := { ((s.cur.setG d x).orFsr fl) with rs := rs }, aflags := s.aflags ||| enabledFlags s.fcr fl }

/-- SUBM is TRAP (R241). -/
def State.trapsSub (s : State) : Bool := field s.fcr 3 2 == 0

/-- The first subnormal f32 among the sources of an arithmetic use. -/
def firstSub (xs : List W32) : Option W32 := xs.find? isSub32

/-- In TRAP mode a subnormal source raises FP_SUBNORMAL as an issue check (R241). -/
def subChecked (s : State) (xs : List W32) (k : Out) : Out :=
  match if s.trapsSub then firstSub xs else none with
  | some x => raiseO s 0x080 (ofW32 x)
  | none => k

/-- The rounding mode of the bundle (R237). -/
def State.mode (s : State) (conv : Bool) : Mode := Mode.ofFcr s.fcr conv s.rsRead

/-- Two f32 sources, one rounded f32 result (R267). -/
def fpArith (s : State) (d a b : Reg) (f : Mode → W32 → W32 → W32 × Flags) : Out :=
  let x := toW32 (s.g a)
  let y := toW32 (s.g b)
  subChecked s [x, y]
    (let r := f (s.mode false) x y
     .next (s.setFp d (ofW32 r.1) r.2 s.cur.rs))

/-- Three f32 sources (R268). -/
def fpFma (s : State) (d a b c : Reg) (np nc : Bool) : Out :=
  let x := toW32 (s.g a)
  let y := toW32 (s.g b)
  let z := toW32 (s.g c)
  subChecked s [x, y, z]
    (let r := fmaOp (s.mode false) np nc x y z
     .next (s.setFp d (ofW32 r.1) r.2 s.cur.rs))

/-- RS after a conversion that left it at `rs`: a draw changes it, and without one it stands (R243). -/
def State.drawn (s : State) (rs : Word) : Word := if rs = s.rsRead then s.cur.rs else rs

/-- A conversion result (R270). -/
def fpConv (s : State) (d : Reg) (src : List W32) (r : FRes) : Out :=
  subChecked s src (.next (s.setFp d (BitVec.ofNat 64 r.bits) r.flags (s.drawn r.rs)))

/-- A conversion to an integer of `n` bits; `sg` sign-extends the result (R248, R270). -/
def fpToInt (s : State) (d a : Reg) (n : Nat) (lo hi : Int) (sg : Bool) : Out :=
  let x := toW32 (s.g a)
  subChecked s [x]
    (let md := s.mode true
     let v := srcF fmtF32 md x.toNat
     let r := toIntV md v.1 lo hi
     let y := BitVec.ofInt 64 r.1
     .next (s.setFp d (if sg then signExtend y.toNat n else zeroExtend y.toNat n) (r.2.1 ||| v.2) (s.drawn r.2.2)))

end Sys2Proof.Machine
end

