-- ==== Sys2Proof/Machine/Control.lean ====
section
/-! DEFINITION. Control transfers, hardware loops and `lic` (spec/12 R266, R271–R277), and what the end of a bundle
does with the program counter. -/

namespace Sys2Proof.Machine

/-! ### The loop stack (R274–R277) -/

/-- Entries that count: those above the ones a running handler has frozen (R274). -/
def Proc.liveLoops (p : Proc) : Nat := p.loops.length - p.frozenLoops

/-- Counting after a bundle at `b`: the next address and the stack (R276); `n` live entries. -/
def countLoops (b : Word) (ls : List Loop) (n : Nat) : Word × List Loop :=
  match n, ls with
  | k + 1, l :: r =>
    if l.stop = b then
      (if l.rem = 1 then countLoops b r k else (l.start, { l with rem := l.rem - 1 } :: r))
    else (b + 8, ls)
  | _, ls => (b + 8, ls)

/-- Leaving loop bodies by a taken branch to `t` (R277). -/
def leaveLoops (t : Word) (ls : List Loop) (n : Nat) : List Loop :=
  match n, ls with
  | k + 1, l :: r => if l.start.toNat ≤ t.toNat ∧ t.toNat ≤ l.stop.toNat then ls else leaveLoops t r k
  | _, ls => ls

/-- The address of the next bundle when no transfer is taken (R276). -/
def Proc.nextPc (p : Proc) : Word := (countLoops p.pc p.loops p.liveLoops).1

/-- A taken branch or `jr`, which pops the loops that it leaves (R277). -/
def State.branch (s : State) (t : Word) : State :=
  { s with xfer := .jump t, cur := { s.cur with loops := leaveLoops t s.cur.loops s.cur.liveLoops } }

/-- A taken call or the skip of a loop body, which pops nothing (R277). -/
def State.jump (s : State) (t : Word) : State := { s with xfer := .jump t }

/-! ### The instructions -/

/-- C-word no-operation (R271). -/
def execCnop (_l : Lone) (s : State) : Out := .next s

/-- A process ends once its queued vector entries and its channel operation have ended (DEDUCED, log entry 12). -/
def Proc.busy (p : Proc) : Bool := !p.seq.isEmpty || p.vloop.isSome || decide (0 < p.chan)

/-- A helper's program ends: the helper becomes idle (R314). -/
def State.stopHelper (s : State) (h : Nat) : State :=
  let st := SMap.get Helper.empty s.helpers h
  { (s.updCur fun p => { p with st := .free }) with
      xfer := .left, helpers := SMap.put Helper.empty s.helpers h { st with run := 0 } }

/-- The process, handler or helper program ends (R271); the bundle's A-word has been performed. A helper becomes idle once
every access it made has ended (R140). DEDUCED, log entry 12. -/
def execHalt (_l : Lone) (s : State) : Out :=
  boundary s
    (if s.cur.busy || (s.cur.isHelper && !s.cur.outst.isEmpty) then .next s.stall
     else if s.cur.isHelper then .next (s.stopHelper (s.cur.pid - 2 ^ 64))
     else .next { (s.finish s.cur.pid) with xfer := .left })

/-- BREAKPOINT: the record's PC is the address of the next bundle (R271); its A-word is performed. -/
def execBrk (_l : Lone) (c : BitVec 22) (s : State) : Out :=
  if s.speculating then .next s.endChunk
  else
    let f : FaultInfo := { cause := 0x007, tval := c.setWidth 64, words := [] }
    if s.cur.isHelper then .next (s.faultHelper (s.cur.pid - 2 ^ 64) f s.cur.nextPc)
    else
      .next (s.faultProc s.cur.pid f
        { atIssue := false, pc := s.cur.nextPc, req := none, redo := none, writes := [], cls := .none, sn := 0,
          entry := false, again := none } false)

/-- PC := PC + 8 × offset (R272). -/
def execBr (_l : Lone) (o : BitVec 25) (s : State) : Out := .next (s.branch (s.cur.pc + 8 * o.signExtend 64))

/-- lr := PC + 8; PC := PC + 8 × offset (R272). -/
def execJal (_l : Lone) (o : BitVec 25) (s : State) : Out :=
  .next ((s.setG 30 (s.cur.pc + 8)).jump (s.cur.pc + 8 * o.signExtend 64))

/-- PC := G(ra); a target that is not a multiple of 8 raises ALIGN as an issue check (R221, R272). -/
def execJr (_l : Lone) (a : Reg) (s : State) : Out :=
  if field (s.g a) 0 3 ≠ 0 then raiseO s 0x040 (s.g a) else .next (s.branch (s.g a))

/-- rd := PC + 8; PC := G(ra), read first (R272). -/
def execJalr (_l : Lone) (d a : Reg) (s : State) : Out :=
  if field (s.g a) 0 3 ≠ 0 then raiseO s 0x040 (s.g a) else .next ((s.setG d (s.cur.pc + 8)).jump (s.g a))

/-- A conditional branch (R273). -/
def condBranch (s : State) (l : Lone) (o : BitVec 15) (c : Bool) : Out :=
  if c then .next (s.branch (s.branchTo l o)) else .next s

/-- Branch if equal (R273). -/
def execBeq (l : Lone) (a b : Reg) (o : BitVec 15) (s : State) : Out := condBranch s l o (s.g a == s.g b)

/-- Branch if not equal (R273). -/
def execBne (l : Lone) (a b : Reg) (o : BitVec 15) (s : State) : Out := condBranch s l o (s.g a != s.g b)

/-- Branch if less, signed (R273). -/
def execBltS (l : Lone) (a b : Reg) (o : BitVec 15) (s : State) : Out := condBranch s l o ((s.g a).slt (s.g b))

/-- Branch if greater or equal, signed (R273). -/
def execBgeS (l : Lone) (a b : Reg) (o : BitVec 15) (s : State) : Out := condBranch s l o ((s.g b).sle (s.g a))

/-- Branch if less, unsigned (R273). -/
def execBltN (l : Lone) (a b : Reg) (o : BitVec 15) (s : State) : Out := condBranch s l o ((s.g a).ult (s.g b))

/-- Branch if greater or equal, unsigned (R273). -/
def execBgeN (l : Lone) (a b : Reg) (o : BitVec 15) (s : State) : Out := condBranch s l o ((s.g b).ule (s.g a))

/-- Starting a loop of `count` trips whose body ends `e` bundles on (R275); LOOP_NEST is raised after issue. -/
def startLoop (s : State) (count e : Word) : Out :=
  if count = 0 then .next (s.jump (s.cur.pc + 8 * e + 8))
  else if s.cur.loops.length ≥ 4 then .next (s.raiseAfter 0x008 s.cword [] none)
  else
    .next { s with xfer := .jump (s.cur.pc + 8),
                   cur := { s.cur with loops := { start := s.cur.pc + 8, stop := s.cur.pc + 8 * e, rem := count } ::
                                                  s.cur.loops } }

/-- A loop with its trip count in a register (R275). -/
def execLp (l : Lone) (a : Reg) (e : BitVec 15) (s : State) : Out := startLoop s (s.g a) (loopEnd l e)

/-- A loop with an immediate trip count; the lone form's extension is the count (R212, R275). -/
def execLpi (l : Lone) (c : BitVec 10) (e : BitVec 15) (s : State) : Out :=
  startLoop s (match l with | some x => x.setWidth 64 | none => c.setWidth 64) (e.setWidth 64)

/-- A constant (R266). -/
def execLic (l : Lone) (d : Reg) (i : BitVec 15) (s : State) : Out :=
  .next (s.setG d (match l with
    | some e => BitVec.signExtend 64 (i ++ e)
    | none => i.signExtend 64))

/-! ### The end of a bundle -/

/-- PC after a performed bundle: a taken transfer's target, or the count of the loop stack (R211, R276). -/
def State.advance (s : State) : State :=
  match s.xfer with
  | .jump t => { s with cur := { s.cur with pc := t } }
  | _ =>
    let c := countLoops s.cur.pc s.cur.loops s.cur.liveLoops
    let frozen := s.cur.loops.drop s.cur.liveLoops
    { s with cur := { s.cur with pc := c.1, loops := if s.cur.frozenLoops = 0 then c.2 else
                        (c.2.take (c.2.length - s.cur.frozenLoops)) ++ frozen } }

end Sys2Proof.Machine
end

