-- ==== Sys2Proof/Machine/Issue.lean ====
section
/-! DEFINITION. The parts of a step: which issuer comes next (R204), the fetch of a bundle and its checks
(R211–R215), the end of a bundle (R239, R276), and the choice among steps in flight. -/

namespace Sys2Proof.Machine

/-! ### Time and choice (DESIGN CHOICE, log entry 1) -/

/-- CLK advances; the servers count a busy cycle (R86); timers that are due join the agenda, the earliest armed first.
DESIGN CHOICE, log entry 14. -/
def State.tick (s : State) : State :=
  let s := s.countBusy
  let c := s.clk + 1
  { s with clk := c, agenda := s.agenda ++ (s.timers.filter fun t => decide (t.1 ≤ c)).map (·.2),
           timers := s.timers.filter fun t => decide (c < t.1) }

/-- The owner would perform the request of a step now: it waits for no lock, no earlier request and no log place. -/
def State.performs (s : State) (e : Ev) : Bool :=
  e.request.any fun r => !s.behind e && (match perform s r with | .wait => false | _ => true)

/-- The step at place `i` of the agenda is taken; the requests of its queue that it passes count it (R84). -/
def State.takeStep (s : State) (i : Nat) (e : Ev) : State :=
  let f := if (s.blocked ++ s.agenda.take i).any (fun b => (serverQueue e).isSome && serverQueue b == serverQueue e) && s.performs e
    then countPass e else id
  { s with agenda := (s.agenda.take i).map f ++ s.agenda.drop (i + 1), blocked := s.blocked.map f }

/-- The step in flight to perform, if any: the first candidate, or the one that the next choice names; a choice beyond
them leaves the step to the issuers. DESIGN CHOICE, log entry 1. -/
def State.choose (s : State) : Option Ev × State :=
  let t := { s with sched := s.sched.drop 1 }
  match (candidates s.agenda s.blocked [] 0)[s.sched.headD 0]? with
  | some (i, e) => (some e, t.takeStep i e)
  | none => (none, t)

/-! ### Issuers (R204) -/

/-- Every issuer, in cyclic order after the last one. -/
def State.issuers (s : State) : List Nat :=
  let cs := s.cores.map fun e => 3 * e.1
  let hs := (s.helpers.filter fun e => decide (e.2.run = 1)).map fun e => 3 * (e.1 / 2) + 1 + e.1 % 2
  let fs := (s.fabric.filter fun e => decide (e.2.pc < e.2.store.length) && !e.2.waiting).map fun e => 4096 + e.1
  let all := if s.boot.stopped || s.boot.trip || !s.boot.powered then [] else cs ++ hs ++ fs
  (all.filter fun u => decide (s.lastCore < u)) ++ all.filter fun u => decide (u ≤ s.lastCore)

/-- The record in slot `k` of core `p`. -/
def State.slotPid (s : State) (p k : Nat) : Nat := if h : k < 8 then (s.core p).slots[k]'h else 0

/-- The slot holds a record of a level-2 context (R204). DEDUCED, log entry 24. -/
def State.level2Slot (s : State) (p k : Nat) : Bool :=
  decide (s.slotPid p k ≠ 0) && decide (s.levelOf (s.proc (s.slotPid p k)).ctx = 2)

/-- Slots in the order in which R204 gives the cycles: the level-2 slot whose cycle it is, the ring from P, and, where none
of these issues, the level-2 slots of the cycles that follow, before which the core stands idle. The mark says that P moves. -/
def State.slotOrder (s : State) (p : Nat) : List (Nat × Bool) :=
  let c := s.core p
  let own := c.cyc % 8
  let ring := s.shuffled (s.slotPid p) (((List.range 8).map fun i => (c.rot + i) % 8).filter fun k => !s.level2Slot p k)
  let turns := ((List.range 8).map fun i => (own + i) % 8).filter fun k => s.level2Slot p k
  (if s.level2Slot p own then [(own, false)] else []) ++ ring.map (·, true) ++
    (turns.filter (· ≠ own)).map (·, false)

/-- The sequencer holds no entry (R331). -/
def Proc.seqIdle (p : Proc) : Bool := p.seq.isEmpty && p.vloop.isNone

/-- What the sequencer bars: a trap of an entry is delivered before the next bundle (R400), and a level-2 process issues
nothing beside an executing entry (DEDUCED, log entry 24). -/
def State.seqLets (s : State) (q : Proc) : Bool :=
  (!q.seqStop || q.tstat.getLsbD 0) && (q.seqIdle || q.seqStop || q.rc || decide (s.levelOf q.ctx ≠ 2))

/-- The head entry waits for a stream bound to one of its registers, so its slot is ineligible (R204, R337). -/
def State.streamStall (s : State) (q : Proc) : Bool :=
  !q.seqStop && decide (q.vpos = 0) && q.headEntry.any fun e => s.streamsOf q e.1.op == .wait

/-- The record may issue (R168, R204): RUNNING, or READY and resident; not frozen, not waiting for a reply, its slot
not disabled, no empty or full stream in its way, and its chunk not awaiting a commit turn. -/
def State.mayIssue (s : State) (p k : Nat) (q : Proc) : Bool :=
  (q.st == .running || q.st == .ready) && !q.frozen && !q.waiting && decide (q.leaving = 0) && !(q.turnWait && decide (s.levelOf q.ctx = 2)) && !(s.core p).dis.getLsbD k &&
  s.seqLets q && !s.streamStall q &&
  (match q.chunk with | some c => !c.ended || c.granted | none => true)

/-- A new chunk with its checkpoint (R149, R150). -/
def Proc.newChunk (p : Proc) (clk : Nat) : Chunk :=
  { bundles := 0, reads := [], writes := [], rel := [], cmds := [], first := clk, ended := false, boundary := false,
    granted := false, pc := p.pc, g := p.g.toList, fsr := p.fsr, rs := p.rs, smiss := p.smiss,
    tstat := p.tstat, frozenLoops := p.frozenLoops, seqStop := p.seqStop, loops := p.loops,
    v := p.v.toList, m := p.m.toList, seq := p.seq,
    vloop := p.vloop, bound := p.bound, dir := p.dir, lease := p.lease, seqWaits := 0 }

/-- What a slot's turn begins with: a state that issues, or one in which the turn is spent. -/
inductive Turn where
  | issue (s : State)
  | spent (s : State)
  deriving DecidableEq, Repr

/-- The state in which slot `k` of core `p` tries to issue: its record is selected, RUNNING from this turn on, with a
chunk at level 2. A killed record ends (R188), and TRIGGER_OVF is raised before a record issues (R408). -/
def State.startSlot (s : State) (p k : Nat) : Option Turn :=
  let pid := s.slotPid p k
  let q := s.proc pid
  if decide (pid = 0) || decide (q.pid ≠ pid) || !s.mayIssue p k q then none
  else
    let s : State := { (s.select pid) with xfer := .seq, pre := none, aflags := 0, cause := some pid }
    let s : State := if q.st = .ready then s.setState pid .running else s
    if q.killed then some (.spent (s.finish pid))
    else if q.overflow then
      some (.spent ({ s with cur := { s.cur with overflow := false } }.raiseIssue 0x0C8 (q.ctx.setWidth 64)))
    else if decide (s.levelOf q.ctx = 2) && !q.rc && q.chunk.isNone then
      some (.issue { s with cur := { s.cur with chunk := some (s.cur.newChunk s.clk) } })
    else some (.issue s)

/-- The state in which a helper tries to issue. -/
def State.startHelper (s : State) (h : Nat) : State :=
  { (s.select (helperKey h)) with xfer := .seq, pre := none, aflags := 0 }

/-- The barrel after an issue: P moves behind a slot of the second rule; a level-2 slot has issued in its own cycle (R143,
R204). -/
def State.turned (s : State) (p k : Nat) (rotates : Bool) : State :=
  s.updCore p fun c =>
    if rotates then { c with rot := (k + 1) % 8, cyc := (c.cyc + 1) % 8 } else { c with cyc := (k + 1) % 8 }

/-! ### Fetch (R211, R215) -/

/-- A bundle in host memory is read through the host port; the slot waits (R34, R420; DEDUCED, log entry 13). -/
def State.fetchHost (s : State) (pa : Nat) : Except State State :=
  match s.cur.fetched with
  | some (pc, x) =>
    if pc = s.cur.pc then .ok { s with ir := x, cur := { s.cur with fetched := none } } else .error s.stall
  | none =>
    let r : Req := { agent := s.cur.agent, core := s.cur.core, unit := 15, ctx := s.cur.ctx, va := s.cur.pc, pa := pa,
                     space := 1, size := 8, op := .load false, ord := .rlx, scope := 0, rd := 0, pc := s.cur.pc,
                     sn := s.accs + 1 }
    .error ({ s with cur := { s.cur with waiting := true }, xfer := .left, accs := s.accs + 1 }.push (.ownerAccess r))

/-- A bundle at a peer package is read there; the slot waits (R33, R38, R211). -/
def State.fetchPeer (s : State) (node : Nat) : Except State State :=
  match s.cur.fetched with
  | some (pc, x) =>
    if pc = s.cur.pc then .ok { s with ir := x, cur := { s.cur with fetched := none } } else .error s.stall
  | none =>
    let r : Req := { agent := s.cur.agent, core := s.cur.core, unit := 15, ctx := s.cur.ctx, va := s.cur.pc, pa := s.cur.pc.toNat,
                     space := 0, size := 8, op := .load false, ord := .rlx, scope := 0, rd := 0, pc := s.cur.pc,
                     sn := s.accs + 1 }
    let q := s.sendFlit node r.ctx 0
      (.request { node := s.mynode, lcore := (s.core r.core).lcore, ctx := r.ctx, va := BitVec.ofNat 64 (r.va.toNat % 2 ^ 56), size := 8,
                  op := r.op, ord := .rlx, scope := 0, tag := r.sn, ex := true })
    .error { q with cur := { q.cur with waiting := true }, xfer := .left, accs := r.sn, peers := q.peers ++ [(r.sn, r)] }

/-- The bundle at PC joins `ir`, or the state after its fetch failed (R43, R211, R314, R215). -/
def fetchAt (s : State) : Except State State :=
  let pc := s.cur.pc
  if s.cur.isHelper then
    (if pc.toNat ≥ 0x4000 then .error (s.raiseIssue 0x006 pc)
     else .ok { s with ir := readWord s.hstore (16384 * (s.cur.pid - 2 ^ 64) + pc.toNat) })
  else if field pc 0 3 ≠ 0 then .error (s.raiseIssue 0x040 pc)
  else
    let k := checkNow s s.cur.core s.cur.ctx pc 8 needEx false
    match k.1 with
    | .ok pa space =>
      if space = 1 then k.2.fetchHost pa
      else
        let g := k.2.readGuard pa
        if g.1 then .ok { g.2 with ir := readWord g.2.mem pa } else .error (g.2.raiseIssue (eccCause pa) pc)
    | .fail cause words => .error (s.raise cause pc pc words true)
    | .peer node => k.2.fetchPeer node
    | .miss _ _ => .error (s.raise 0x043 pc pc [] true)

/-- A bundle is fetched, unless its core meets a lasting error (R211, R409). -/
def fetchBundle (s : State) : Except State State :=
  let g := s.parityGuard s.cur.core 0
  if g.1 then fetchAt g.2 else .error (g.2.raiseIssue 0x182 0)

/-- The word is none that the issuer executes: a core, or a helper (R220). -/
def State.foreignWord (s : State) (i : Instr) : Bool := if s.cur.isHelper then !helperWord i else helperOnly i

/-- The word that ILLEGAL_OP names when word `w` of the bundle does not decode: the C-word where it is decoded first and is
none that the issuer executes (R215, R220). -/
def State.firstBad (s : State) (lo w : Nat) : Nat :=
  match decodeC lo (s.ir.toNat / 2 ^ 32) with
  | .ok c => if s.foreignWord c then lo else w
  | .error _ => w

/-- The decode steps of R215 after the words have been decoded: the helper subset (R220), one register written
twice (R213), SUP (R221). -/
def decodeCheck (s : State) (b : Bundle) : Option (Nat × Word) :=
  let words := b.c :: b.a.toList
  if s.foreignWord b.c then some (0x001, s.cword)
  else if b.a.any s.foreignWord then some (0x001, s.aword)
  else
    match b.a.bind fun a => conflictOf b.c a s.cur.fcr with
    | some code => some (0x003, BitVec.ofNat 64 code)
    | none =>
      if words.any supervisorOnly && !(s.desc s.cur.ctx).sup then some (0x005, s.cword) else none

/-- A register that the bundle reads or writes is pending (R214). -/
def bundlePending (p : Proc) (b : Bundle) : Bool := waitsFor p b.c || b.a.any (waitsFor p)

/-- The bundle stands at the END of the top loop entry that counts (R277). -/
def State.atLoopEnd (s : State) : Bool :=
  decide (0 < s.cur.liveLoops) && (match s.cur.loops with | l :: _ => decide (l.stop = s.cur.pc) | [] => false)

/-! ### The end of a bundle -/

/-- Neither word has been performed: a stall, or a cause raised at issue. -/
def State.notPerformed (s : State) : Bool := s.xfer == .again || s.xfer == .gone

end Sys2Proof.Machine

namespace Sys2Proof

open Sys2Proof.Machine

/-- The instruction is `trap n`, which takes the place of FP_EXCEPTION (R239). -/
def Instr.isTrap (i : Instr) : Bool :=
  match i with
  | .trap _ _ => true
  | _ => false

end Sys2Proof

namespace Sys2Proof.Machine

/-- The snapshot of R213 ends with the bundle. -/
def withoutPreO (o : Out) : Out :=
  match o with
  | .next s => .next { s with pre := none }
  | o => o

/-- A bundle of a chunk has been performed: the 256th ends it, and a boundary bundle performed at its commit turn
ends the turn (R149, R152). -/
def State.countChunk (s : State) : State :=
  match s.cur.chunk with
  | none => s
  | some c =>
    if c.granted then { s with cur := { s.cur with chunk := none } }.push (.commitTurn (s.domainOf s.cur))
    else
      let c := { c with bundles := c.bundles + 1, ended := c.ended || decide (c.bundles + 1 ≥ 256) }
      { s with cur := { s.cur with chunk := some c } }

/-- A chunk that has ended asks its arbiter for the commit turn (R151). -/
def State.askTurn (s : State) : State :=
  match s.cur.chunk with
  | some c => if c.ended && !c.granted then s.push (.commitTurn (s.domainOf s.cur)) else s
  | none => s

/-- A bundle performed at a commit turn, after which its process is gone, passes the turn (R152). -/
def State.passTurn (s s0 : State) : State :=
  match s0.cur.chunk with
  | some c => if c.granted then s.push (.commitTurn (s0.domainOf s0.cur)) else s
  | none => s

/-- The end of a bundle (R213, R239, R276): PC, the chunk, and FP_EXCEPTION for the enabled flags of its A-word.
`s0` is the state before the bundle. -/
def State.endBundle (s s0 : State) (isTrap : Bool) : State :=
  if s.xfer = .gone ∨ s.xfer = .left then (if s.cur.pid = s0.cur.pid ∧ s.cur.chunk.isSome then s.countChunk else s.passTurn s0)
  else if s.xfer = .again then s.askTurn
  else
    let q := s.advance
    if isTrap ∨ q.aflags = 0 ∨ q.cur.st = .faulted then { q.countChunk.askTurn with xfer := .seq }
    else if s.speculating then s0.endChunk.askTurn
    else (q.raise 0x081 (q.aflags.setWidth 64) q.cur.pc [] false s0.cur.pc).countChunk

/-- After a C-word performed again by itself, the process goes on where it stood (R405). -/
def State.afterRedo (s : State) (pc : Word) : State :=
  match s.xfer with
  | .jump t => { s with pre := none, xfer := .seq, cur := { s.cur with pc := t } }
  | .again | .gone | .left => { s with pre := none }
  | .seq => { s with pre := none, cur := { s.cur with pc := pc } }

/-- What SKIP writes for a word that raised a fault after issue: its destinations (R405). -/
def State.fillDest (s : State) (i : Instr) (isA : Bool) : State :=
  { s with cur := { s.cur with owed := s.cur.owed.map fun o =>
      if o.writes.isEmpty && (o.again.elim false fun r => decide (r.isA = isA)) then
        { o with writes := ((regsOf i).writes.filter (· < 32)).map (BitVec.ofNat 5) }
      else o } }

/-! ### Fabric units (R395, R396) -/

/-- A unit's program has ended. -/
def State.stopFabric (s : State) (u : Nat) : State :=
  let f := SMap.get FabUnit.empty s.fabric u
  { s with fabric := SMap.put FabUnit.empty s.fabric u { f with pc := f.store.length } }

/-- The unit goes on to its next word, unless it waits for a flit; a pass starts again at word 0. A store word beyond the
program holds zero, which is `xend` (DEDUCED, log entry 34). -/
def State.endFabric (s : State) (u : Nat) : State :=
  let f := SMap.get FabUnit.empty s.fabric u
  let pc := match s.xfer with
    | .jump t => t.toNat
    | _ => if f.pc + 1 < f.store.length then f.pc + 1 else 0
  if f.waiting then s else { s with fabric := SMap.put FabUnit.empty s.fabric u { f with pc := pc } }

/-! ### The detector (R190) -/

/-- A core raises its line: no slot and no queue holds a record that could run. -/
def State.lineUp (s : State) (p : Nat) : Bool :=
  let c := s.core p
  c.deque.isEmpty && c.fifos.toList.all (·.isEmpty) &&
  c.slots.toList.all fun pid => pid = 0 || (s.proc pid).st == .parked || (s.proc pid).st == .faulted

/-- A line that has fallen lets the detector report again (R190). -/
def State.watchLines (s : State) : State := if s.quiet && s.cores.any (fun e => !s.lineUp e.1) then { s with quiet := false } else s

/-- A record that the detector would report (R190). -/
def Proc.stuck (p : Proc) : Bool :=
  !p.isHelper && (p.st == .parked || p.st == .faulted || (p.st == .spilled && decide (p.wait ≠ 0)))

end Sys2Proof.Machine

namespace Sys2Proof

/-- A step of a launch unit, a fault record or a handler request that waits for records: the detector does not look at
it (R190). -/
def Ev.standing (e : Ev) : Bool :=
  match e with
  | .launchTake _ | .levelChange _ | .queueBarrier _ | .contextFence _ | .startMessage _ | .checkRunAEnd _ _
  | .checkRunBEnd _ _ | .faultPost _ _ | .handlerRequest _ | .drainComplete | .drainTimeout => true
  | _ => false

end Sys2Proof

namespace Sys2Proof.Machine

/-- Everything but the records is idle (R190). -/
def State.unitsIdle (s : State) : Bool :=
  s.agenda.isEmpty && s.blocked.all Ev.standing && s.timers.all (fun t => t.2.standing) && s.tiles.all (·.stopped.isSome) && s.heldFlits.isEmpty &&
  s.peers.isEmpty && s.hostReads.isEmpty && s.walks.isEmpty && s.walkQ.isEmpty && s.walkWait.isEmpty &&
  s.engines.all (fun e => e.2.frozen || (match e.2.cmds with | [] => true | c :: _ => c.err.isSome)) &&
  s.helpers.all (fun e => decide (e.2.run ≠ 1)) &&
  s.fabric.all (fun e => e.2.waiting || decide (e.2.store.length ≤ e.2.pc)) &&
  (s.waiters.all fun r => match r.agent with | .proc _ => true | _ => false) &&
  s.ctxs.all (fun e => e.2.trigs.isEmpty) && s.allProcs.all (fun p => p.armed.isNone) &&
  decide (field (s.reg (blockAddr 0 0 0x4D0)) 0 2 = 0)

/-- The doldrums detector looks at the package (R190). -/
def State.lookForDeadlock (s : State) : State :=
  if (s.reg (blockAddr 0 0 0x100)).getLsbD 0 && !s.quiet && s.unitsIdle && s.cores.all (fun e => s.lineUp e.1) &&
     s.allProcs.any Proc.stuck
  then { s with quiet := true }.push .deadlock
  else s

end Sys2Proof.Machine
end

