-- ==== Sys2Proof/Machine/Memory.lean ====
section
/-! DEFINITION. Loads, stores, nibbles, versioned operations, atomics, fences and `waitc` (spec/12 R278–R287), with
the speculative accesses of a level-2 chunk (spec/07 R149, R150). -/

namespace Sys2Proof.Machine

/-! ### Speculative accesses (R150) -/

/-- The chunk ends before this bundle, which begins the next chunk (R149). -/
def State.fullChunk (s : State) : State :=
  { s with xfer := .again, cur := { s.cur with chunk := s.cur.chunk.map fun c => { c with ended := true } } }

/-- A word as the chunk sees it: its write buffer over the owner's word (R150). -/
def Chunk.view (c : Chunk) (s : State) (w : Nat) : Word :=
  match c.writes.find? fun e => decide (e.1 = w) with
  | some (_, m, x) => mergeNibbles (s.peek w) x m
  | none => s.peek w

/-- The write buffer holds every nibble of `m` in a word (R150). -/
def Chunk.holds (c : Chunk) (w m : Nat) : Bool := c.writes.any fun e => decide (e.1 = w) && decide (e.2.1 &&& m = m)

/-- A unit joins the read set, or the set is full (R149, R150). -/
def Chunk.noteRead (c : Chunk) (clk unit : Nat) : Option Chunk :=
  if c.reads.contains unit then some c
  else if c.reads.length ≥ 128 then none
  else some { c with reads := c.reads ++ [unit], first := if c.reads.isEmpty then clk else c.first }

/-- Nibbles join the write buffer, or it is full (R149, R150). -/
def Chunk.noteWrite (c : Chunk) (w m : Nat) (x : Word) (rel : Bool) : Option Chunk :=
  let rels := if rel then (if c.rel.contains w then c.rel else c.rel ++ [w]) else c.rel.filter (· ≠ w)
  if c.writes.any fun e => decide (e.1 = w) then
    some { c with rel := rels, writes := c.writes.map fun e =>
      if e.1 = w then (w, e.2.1 ||| m, mergeNibbles e.2.2 x m) else e }
  else if c.writes.length ≥ 128 then none
  else some { c with rel := rels, writes := c.writes ++ [(w, m, mergeNibbles 0 x m)] }

/-- The value that a load of `op` extracts from its word. -/
def extractRead (op : MemOp) (s : State) (w off size : Nat) (x : Word) : Word :=
  match op with
  | .load sg => if sg then signExtend (x.toNat / 2 ^ (8 * off)) (8 * size) else zeroExtend (x.toNat / 2 ^ (8 * off)) (8 * size)
  | .nibble sg k => if sg then signExtend (field x (4 * k) 4) 4 else zeroExtend (field x (4 * k) 4) 4
  | .tag => verTag s w
  | _ => x

/-- The nibbles of its word that a load of `op` reads; a tag read takes the sideband, which no buffer holds. -/
def readNibbles (op : MemOp) (off size : Nat) : Option Nat :=
  match op with
  | .load _ => some (nibbleMask off size)
  | .nibble _ k => some (2 ^ k)
  | _ => none

/-- The nibbles and data that a store of `op` writes in its word; `none` for any other operation. -/
def storedNibbles (op : MemOp) (off size : Nat) : Option (Nat × Word) :=
  match op with
  | .store x => some (nibbleMask off size, BitVec.ofNat 64 (x.toNat % 2 ^ (8 * size) * 2 ^ (8 * off)))
  | .sub m x => some (m.toNat, x)
  | _ => none

/-- The scope check of an acquire that a chunk reads speculatively: its marks are made at once, and are part of what the
checkpoint holds (R134, R150); `none` where it must wait for a widening. -/
def specAcquire (s : State) (a : Acc) (space w : Nat) : Option State :=
  if !a.ord.acquires || space != 2 then some s
  else
    match s.scopeCheck w (sideScope (s.sideOf w)) s.cur.agent (coordOfCore s.cur.core) with
    | (.none, s) => some s
    | (.drained, s) => some { s.committed s.cur [w / 64] with cur := { s.cur with smiss := missWord s.cur.smiss } }
    | (.pending, s) => some ((s.updCur fun p => { p with smiss := missWord p.smiss }).notePend s.cur.agent .pending)
    | (.wait, _) => none

/-- A load of the speculative part of a chunk: from the write buffer where that holds its bytes, else from the owner, whose
unit joins the read set (R150). -/
def specLoad (s : State) (c : Chunk) (a : Acc) (pa space : Nat) : State :=
  let w := pa / 8 * 8
  let read := fun (s : State) (c : Chunk) =>
    { s with cur := ({ s.cur with chunk := some c }).setG a.rd (extractRead a.op s w (pa % 8) a.size (c.view s w)) }
  if (readNibbles a.op (pa % 8) a.size).any (c.holds w) && !a.ord.acquires then read s c
  else if (if a.op = .tag then s.cellWords w else [w]).any fun w => s.isPoison w || s.errorsAt w != 0 then s.endChunk
  else
    match c.noteRead s.clk (pa / 64) with
    | some c =>
      match specAcquire s a space w with
      | some s => read s { c with smiss := (s.cur.chunk.getD c).smiss }
      | none => s.stall
    | none => s.fullChunk

/-- An access of the speculative part of a chunk. What it cannot do speculatively ends the chunk before it. DEDUCED, log entry 51. -/
def specAccess (s : State) (a : Acc) : State :=
  let k := checkNow s s.cur.core s.cur.ctx a.va a.size a.op.need (a.op.plain a.size)
  match k.1, s.cur.chunk with
  | .ok pa space, some c =>
    let s := k.2
    let w := pa / 8 * 8
    if space ≠ 0 ∧ space ≠ 2 ∨ versionSpace a.op space then s.endChunk
    else
      match storedNibbles a.op (pa % 8) a.size with
      | some (m, x) =>
        if s.isPoison pa ∨ s.errorsAt pa ≠ 0 ∨ space = 2 ∧ sideDepth (s.sideOf w) ≠ 0 then s.endChunk
        else
          match c.noteWrite w m x a.ord.releases with
          | some c => { s with cur := { s.cur with chunk := some c } }
          | none => s.fullChunk
      | none =>
        if !a.op.loads then s.endChunk
        else if SMap.get 0 s.locks (pa / 64) ≠ 0 then s.stall
        else specLoad s c a pa space
  | _, _ => s.endChunk

/-! ### Issuing an access -/

/-- What a chunk's access waits for: an earlier acquire, fence or widening of its process, its vector entries, its ranges
(R72, R129, R132, R134, R332). -/
def State.specWaits (s : State) (a : Acc) : Bool :=
  !s.cur.mayAccess || (a.op.stores && !s.cur.finished s.cur.holdSt) || !s.scoreOk a.va a.size (a.op.stores || a.op.need.wr)

/-- An access whose alignment stands: speculative in a chunk; else it waits or is sent (R126–R132, R287). -/
def issue (s : State) (a : Acc) : Out :=
  if s.speculating then .next (if s.specWaits a then s.stall else specAccess s a)
  else if s.accessWaits a (s.accScope a) then .next s.stall
  else .next (s.sendAccess a)

/-- ALIGN as an issue check (R38, R215). -/
def aligned (s : State) (va : Word) (n : Nat) (k : Out) : Out := if va.toNat % n ≠ 0 then raiseO s 0x040 va else k

/-- A load of `n` bytes (R278). -/
def loadN (s : State) (l : Lone) (d a : Reg) (ord : MemOrder) (sc : BitVec 3) (f : BitVec 10) (n : Nat)
    (sg : Bool) : Out :=
  aligned s (s.ea l a f n) n
    (issue s { va := s.ea l a f n, size := n, op := .load sg, ord := ord, sc := sc.toNat, rd := d })

/-- A store of `n` bytes (R278). -/
def storeN (s : State) (l : Lone) (r a : Reg) (ord : MemOrder) (sc : BitVec 3) (f : BitVec 10) (n : Nat) : Out :=
  aligned s (s.ea l a f n) n
    (issue s { va := s.ea l a f n, size := n, op := .store (s.g r), ord := ord, sc := sc.toNat, rd := 0 })

/-- Load byte, sign-extended (R278). -/
def execLdbS (l : Lone) (d a : Reg) (ord : MemOrder) (sc : BitVec 3) (f : BitVec 10) (s : State) : Out :=
  loadN s l d a ord sc f 1 true

/-- Load byte, zero-extended (R278). -/
def execLdbN (l : Lone) (d a : Reg) (ord : MemOrder) (sc : BitVec 3) (f : BitVec 10) (s : State) : Out :=
  loadN s l d a ord sc f 1 false

/-- Load 2 bytes, sign-extended (R278). -/
def execLdhS (l : Lone) (d a : Reg) (ord : MemOrder) (sc : BitVec 3) (f : BitVec 10) (s : State) : Out :=
  loadN s l d a ord sc f 2 true

/-- Load 2 bytes, zero-extended (R278). -/
def execLdhN (l : Lone) (d a : Reg) (ord : MemOrder) (sc : BitVec 3) (f : BitVec 10) (s : State) : Out :=
  loadN s l d a ord sc f 2 false

/-- Load 4 bytes, sign-extended (R278). -/
def execLdwS (l : Lone) (d a : Reg) (ord : MemOrder) (sc : BitVec 3) (f : BitVec 10) (s : State) : Out :=
  loadN s l d a ord sc f 4 true

/-- Load 4 bytes, zero-extended (R278). -/
def execLdwN (l : Lone) (d a : Reg) (ord : MemOrder) (sc : BitVec 3) (f : BitVec 10) (s : State) : Out :=
  loadN s l d a ord sc f 4 false

/-- Load 8 bytes (R278). -/
def execLdd (l : Lone) (d a : Reg) (ord : MemOrder) (sc : BitVec 3) (f : BitVec 10) (s : State) : Out :=
  loadN s l d a ord sc f 8 false

/-- Store byte (R278). -/
def execStb (l : Lone) (r a : Reg) (ord : MemOrder) (sc : BitVec 3) (f : BitVec 10) (s : State) : Out :=
  storeN s l r a ord sc f 1

/-- Store 2 bytes (R278). -/
def execSth (l : Lone) (r a : Reg) (ord : MemOrder) (sc : BitVec 3) (f : BitVec 10) (s : State) : Out :=
  storeN s l r a ord sc f 2

/-- Store 4 bytes (R278). -/
def execStw (l : Lone) (r a : Reg) (ord : MemOrder) (sc : BitVec 3) (f : BitVec 10) (s : State) : Out :=
  storeN s l r a ord sc f 4

/-- Store 8 bytes (R278). -/
def execStd (l : Lone) (r a : Reg) (ord : MemOrder) (sc : BitVec 3) (f : BitVec 10) (s : State) : Out :=
  storeN s l r a ord sc f 8

/-- A nibble load (R280); it never raises ALIGN. -/
def loadNibble (s : State) (d a b : Reg) (ord : MemOrder) (sc : BitVec 3) (sg : Bool) : Out :=
  let n := s.nibbleAddr a b
  issue s { va := n.1, size := 8, op := .nibble sg n.2, ord := ord, sc := sc.toNat, rd := d }

/-- Load a nibble, sign-extended (R280). -/
def execLdnS (_l : Lone) (d a b : Reg) (ord : MemOrder) (sc : BitVec 3) (s : State) : Out :=
  loadNibble s d a b ord sc true

/-- Load a nibble, zero-extended (R280). -/
def execLdnN (_l : Lone) (d a b : Reg) (ord : MemOrder) (sc : BitVec 3) (s : State) : Out :=
  loadNibble s d a b ord sc false

/-- Store a nibble: a sub-byte store message with one nibble selected (R78, R280). -/
def execStn (_l : Lone) (d a b : Reg) (ord : MemOrder) (sc : BitVec 3) (s : State) : Out :=
  let n := s.nibbleAddr a b
  let x : Word := BitVec.ofNat 64 (field (s.g d) 0 4 * 2 ^ (4 * n.2))
  issue s { va := n.1, size := 8, op := .sub (BitVec.ofNat 16 (2 ^ n.2)) x, ord := ord, sc := sc.toNat, rd := 0 }

/-! ### Versioned memory (R281, R282) and atomics (R283–R285): boundary instructions of a chunk, `vtag` apart -/

/-- Load of a version (R281). -/
def execLdv (_l : Lone) (d a : Reg) (ord : MemOrder) (sc : BitVec 3) (v : Reg) (s : State) : Out :=
  aligned s (s.g a) 8 (boundary s
    (issue s { va := s.g a, size := 8, op := .ldv ((s.g v).setWidth 8), ord := ord, sc := sc.toNat, rd := d }))

/-- Store of a version; its data register is the first operand (R281). -/
def execStv (_l : Lone) (d a : Reg) (ord : MemOrder) (sc : BitVec 3) (v : Reg) (s : State) : Out :=
  aligned s (s.g a) 8 (boundary s
    (issue s { va := s.g a, size := 8, op := .stv ((s.g v).setWidth 8) (s.g d), ord := ord, sc := sc.toNat, rd := 0 }))

/-- Reclaim of a version (R282). -/
def execRcl (_l : Lone) (a b : Reg) (ord : MemOrder) (sc : BitVec 3) (s : State) : Out :=
  aligned s (s.g a) 8 (boundary s
    (issue s { va := s.g a, size := 8, op := .rcl ((s.g b).setWidth 8), ord := ord, sc := sc.toNat, rd := 0 }))

/-- Tag read (R282). -/
def execVtag (_l : Lone) (d a : Reg) (ord : MemOrder) (sc : BitVec 3) (s : State) : Out :=
  aligned s (s.g a) 8
    (issue s { va := s.g a, size := 8, op := .tag, ord := ord, sc := sc.toNat, rd := d })

/-- Initialise a cell (R282). -/
def execVinit (_l : Lone) (a b : Reg) (ord : MemOrder) (sc : BitVec 3) (k : BitVec 2) (s : State) : Out :=
  aligned s (s.g a) 8 (boundary s
    (issue s { va := s.g a, size := 8, op := .vinit k ((s.g b).setWidth 8), ord := ord, sc := sc.toNat, rd := 0 }))

/-- An atomic of R222; rd = g0 selects the no-return form, whose compare value is then 0 (R283, R284). -/
def atomic (s : State) (f : BitVec 5) (d a b : Reg) (ord : MemOrder) (sc : BitVec 3) : Out :=
  aligned s (s.g a) (atomSize f) (boundary s
    (issue s { va := s.g a, size := atomSize f, op := .atom f (s.g b) (s.g d) (d != 0), ord := ord, sc := sc.toNat,
               rd := d }))

/-- Swap at the owner (R284). -/
def execAswp (_l : Lone) (d a b : Reg) (ord : MemOrder) (sc : BitVec 3) (s : State) : Out :=
  atomic s 0 d a b ord sc

/-- Swap, 8 bytes at the owner (R284). -/
def execAswpd (_l : Lone) (d a b : Reg) (ord : MemOrder) (sc : BitVec 3) (s : State) : Out :=
  atomic s 1 d a b ord sc

/-- Compare and swap at the owner (R284). -/
def execAcas (_l : Lone) (d a b : Reg) (ord : MemOrder) (sc : BitVec 3) (s : State) : Out :=
  atomic s 2 d a b ord sc

/-- Compare and swap, 8 bytes at the owner (R284). -/
def execAcasd (_l : Lone) (d a b : Reg) (ord : MemOrder) (sc : BitVec 3) (s : State) : Out :=
  atomic s 3 d a b ord sc

/-- Add at the owner (R284). -/
def execAadd (_l : Lone) (d a b : Reg) (ord : MemOrder) (sc : BitVec 3) (s : State) : Out :=
  atomic s 4 d a b ord sc

/-- Add, 8 bytes at the owner (R284). -/
def execAaddd (_l : Lone) (d a b : Reg) (ord : MemOrder) (sc : BitVec 3) (s : State) : Out :=
  atomic s 5 d a b ord sc

/-- And at the owner (R284). -/
def execAand (_l : Lone) (d a b : Reg) (ord : MemOrder) (sc : BitVec 3) (s : State) : Out :=
  atomic s 6 d a b ord sc

/-- And, 8 bytes at the owner (R284). -/
def execAandd (_l : Lone) (d a b : Reg) (ord : MemOrder) (sc : BitVec 3) (s : State) : Out :=
  atomic s 7 d a b ord sc

/-- Or at the owner (R284). -/
def execAor (_l : Lone) (d a b : Reg) (ord : MemOrder) (sc : BitVec 3) (s : State) : Out :=
  atomic s 8 d a b ord sc

/-- Or, 8 bytes at the owner (R284). -/
def execAord (_l : Lone) (d a b : Reg) (ord : MemOrder) (sc : BitVec 3) (s : State) : Out :=
  atomic s 9 d a b ord sc

/-- Exclusive or at the owner (R284). -/
def execAxor (_l : Lone) (d a b : Reg) (ord : MemOrder) (sc : BitVec 3) (s : State) : Out :=
  atomic s 10 d a b ord sc

/-- Exclusive or, 8 bytes at the owner (R284). -/
def execAxord (_l : Lone) (d a b : Reg) (ord : MemOrder) (sc : BitVec 3) (s : State) : Out :=
  atomic s 11 d a b ord sc

/-- Signed maximum at the owner (R284). -/
def execAmaxS (_l : Lone) (d a b : Reg) (ord : MemOrder) (sc : BitVec 3) (s : State) : Out :=
  atomic s 12 d a b ord sc

/-- Signed maximum, 8 bytes at the owner (R284). -/
def execAmaxdS (_l : Lone) (d a b : Reg) (ord : MemOrder) (sc : BitVec 3) (s : State) : Out :=
  atomic s 13 d a b ord sc

/-- Signed minimum at the owner (R284). -/
def execAminS (_l : Lone) (d a b : Reg) (ord : MemOrder) (sc : BitVec 3) (s : State) : Out :=
  atomic s 14 d a b ord sc

/-- Signed minimum, 8 bytes at the owner (R284). -/
def execAmindS (_l : Lone) (d a b : Reg) (ord : MemOrder) (sc : BitVec 3) (s : State) : Out :=
  atomic s 15 d a b ord sc

/-- Unsigned maximum at the owner (R284). -/
def execAmaxN (_l : Lone) (d a b : Reg) (ord : MemOrder) (sc : BitVec 3) (s : State) : Out :=
  atomic s 16 d a b ord sc

/-- Unsigned maximum, 8 bytes at the owner (R284). -/
def execAmaxdN (_l : Lone) (d a b : Reg) (ord : MemOrder) (sc : BitVec 3) (s : State) : Out :=
  atomic s 17 d a b ord sc

/-- Unsigned minimum at the owner (R284). -/
def execAminN (_l : Lone) (d a b : Reg) (ord : MemOrder) (sc : BitVec 3) (s : State) : Out :=
  atomic s 18 d a b ord sc

/-- Unsigned minimum, 8 bytes at the owner (R284). -/
def execAmindN (_l : Lone) (d a b : Reg) (ord : MemOrder) (sc : BitVec 3) (s : State) : Out :=
  atomic s 19 d a b ord sc

/-- f32 sum at the owner (R284). -/
def execAfadd (_l : Lone) (d a b : Reg) (ord : MemOrder) (sc : BitVec 3) (s : State) : Out :=
  atomic s 20 d a b ord sc

/-- f32 maximum at the owner (R284). -/
def execAfmax (_l : Lone) (d a b : Reg) (ord : MemOrder) (sc : BitVec 3) (s : State) : Out :=
  atomic s 21 d a b ord sc

/-- f32 minimum at the owner (R284). -/
def execAfmin (_l : Lone) (d a b : Reg) (ord : MemOrder) (sc : BitVec 3) (s : State) : Out :=
  atomic s 22 d a b ord sc

/-- The fence of R132 and R286: which outstanding accesses bar which later ones. DEDUCED, log entry 42. -/
def execFence (_l : Lone) (ord : MemOrder) (sc : BitVec 3) (s : State) : Out :=
  if s.speculating then .next s
  else if !s.cur.vecSent then .next s.stall
  else
    let p := s.cur
    let loads := (p.outst.filter fun o => o.loads).map (·.sn)
    let near := (p.outst.filter fun o => o.loads ||
      (o.stores && o.near sc.toNat (coordOfCore p.core))).map (·.sn)
    .next { s with cur := { p with
      holdAll := p.holdAll ++ (if ord = .acqrel then near else if ord = .acq then loads else []),
      holdSt := p.holdSt ++ (if ord.releases then near else []) } }

/-- A class is within its limit (R287); 31 is not waited on. -/
def withinLimit (x : BitVec 16) (lim : BitVec 5) : Bool := lim == 31 || decide (x.toNat ≤ lim.toNat)

/-- The flags of completed copies, array commands and collectives join FSR at the `waitc` that covers them (R287, R376,
R383, R391). DEDUCED, log entry 48. -/
def Proc.takeLate (p : Proc) (cp mx tr : Bool) : Proc :=
  let q := p.orFsr ((if cp then p.lateCp else 0) ||| (if mx then p.lateMx else 0) ||| (if tr then p.lateTr else 0))
  { q with lateCp := if cp then 0 else p.lateCp, lateMx := if mx then 0 else p.lateMx, lateTr := if tr then 0 else p.lateTr }

/-- Wait for outstanding work (R287); in a handler a wait raises RC_BLOCK (R186). DEDUCED, log entry 48. -/
def execWaitc (_l : Lone) (a b c d e : BitVec 5) (s : State) : Out :=
  boundary s
    (let n := s.cur.cnt
     if withinLimit n.loads a && withinLimit n.stores b && withinLimit n.copies c && withinLimit n.matrix d &&
        withinLimit n.transfers e then .next (s.updCur fun p => p.takeLate (c != 31) (d != 31) (e != 31))
     else notInHandler s (.next s.stall))

end Sys2Proof.Machine
end

