-- ==== Sys2Proof/Machine/Process.lean ====
section
/-! DEFINITION. Records, slots and queues (spec/08 R165–R170, R182–R189, spec/09 R203–R206, spec/16 R406, R407) and
the instructions of processes, barriers and groups (spec/13 R302–R311). -/

namespace Sys2Proof.Machine

/-! ### Records (R165, R166) -/

/-- RS of a record that starts or of a task that resumes; `src` is the record that stood for it in run A of check mode, or 0
(R244). -/
def State.startRs (s : State) (c : Byte) (home pid src : Nat) (seed : Word) : Word :=
  let pid := if src = 0 then pid else src
  if s.levelOf c = 0 then seed
  else mix64 (mix64 ((s.ctx c).seed ^^^ BitVec.ofNat 64 home) ^^^ BitVec.ofNat 64 pid)

/-- The pool of a core holds a record (R166). -/
def State.hasRecord (s : State) (p : Nat) : Bool := decide (field (s.reg (corePage p + 0x900)) 0 21 < 0x180000)

/-- A record leaves the pool of a core: its address, and the pool's next head (R166). -/
def State.takeRecord (s : State) (p : Nat) : Nat × State :=
  let w := s.reg (corePage p + 0x900)
  let pid := sliceAddr p (field w 0 21)
  (pid, s.setReg (corePage p + 0x900)
    (setField (setField w 0 21 (field (s.peek (pid + 48)) 0 21)) 32 32 (field w 32 32 - 1)))

/-- A general register file with g1 upward as given. -/
def regFile (ws : List Word) : Vector Word 32 := Vector.ofFn fun i => if i.val = 0 then 0 else ws.getD (i.val - 1) 0

/-- The word at +8 of a record (R165); FRAME stays. -/
def recordWord (old : Word) (p : Proc) : Word :=
  setField (setField (setField (setField (setField old 41 10 p.home) 51 1 (bit p.rc)) 52 1 (bit p.task)) 53 3 p.prio.toNat)
    56 8 p.st.code

/-- A record of core `p` is written and becomes READY with the context `q`; it stands on no list yet (R168, R200, R244,
R303). -/
def State.create (s : State) (p pid : Nat) (q : Proc) : State :=
  let n := SMap.get 0 (s.ctx q.ctx).created q.home
  let q := { q with pid := pid, core := p, unit := 10, st := .ready, created := n,
                    rs := s.startRs q.ctx q.home pid q.rsFrom q.seed }
  let s := s.updCtx q.ctx fun x => { x with created := SMap.put 0 x.created q.home (n + 1) }
  let m := writeWord (writeWord s.mem pid q.pc) (pid + 8) (recordWord (s.peek (pid + 8)) q)
  ({ s with mem := pokeWords m (pid + 16) [q.rg 1, q.rg 2, q.rg 3, q.rg 4, 0, 0] }).setProc q

/-- The context of a record made by spawn, fork, `callat` or a handler request (R200, R303). -/
def childOf (c : Byte) (prio : BitVec 3) (task : Bool) (home : Nat) (pc : Word) (g14 : List Word) : Proc :=
  { Proc.empty with ctx := c, prio := prio, task := task, home := home, pc := pc, g := regFile g14, nrank := 1 }

/-! ### Choosing a ready record (R146, R169, R184) -/

/-- A task's engine, matrix or tile work is outstanding (R407). -/
def Proc.taskWork (p : Proc) : Bool := p.task && !(p.cnt.copies == 0 && p.cnt.matrix == 0 && p.cnt.transfers == 0)

/-- A widening that the process triggered has not ended: SMISS.PEND (R135). -/
def Proc.missPending (p : Proc) : Bool := p.smiss.getLsbD 1

/-- Accesses, engine work and widenings that bar a record from another slot have ended (R135, R141, R407). -/
def Proc.placeable (p : Proc) : Bool :=
  (if p.task then p.outst.isEmpty else p.outst.all (·.held)) && !p.taskWork && !p.missPending

/-- A record may be placed in slot `k` of core `p`; a task that owns banks only where it stood (R407). -/
def State.fitsSlot (s : State) (p k pid : Nat) : Bool :=
  let q := s.proc pid
  q.placeable && decide (q.wait = 0) && (q.rc || !s.ctxOut q.ctx) && (!(q.task && decide (0 < q.banks)) || decide (q.lastSlot = 8 * p + k))

/-- The smallest of some records by home logical core, then address (R146). DEDUCED, log entry 55. -/
def State.leastKey (s : State) (ms : List Nat) : Option Nat :=
  match ms with
  | [] => none
  | m :: r => some (r.foldl (fun b x =>
      if (s.proc x).home < (s.proc b).home ∨ ((s.proc x).home = (s.proc b).home ∧ x < b) then x else b) m)

/-- The first of a queue, or at levels 1 and 2 the smallest key (R146). DEDUCED, log entry 55. -/
def State.firstReady (s : State) (ms : List Nat) : Option Nat :=
  match ms with
  | [] => none
  | m :: _ => if s.levelOf (s.proc m).ctx = 0 then (s.shuffled id ms).head? else s.leastKey ms

/-- The record that an empty slot `k` of core `p` takes among priorities below `n` (R169, R184). -/
def State.pickBelow (s : State) (p k n : Nat) : Option Nat :=
  match n with
  | 0 => none
  | j + 1 =>
    let prio : BitVec 3 := BitVec.ofNat 3 j
    let own := (s.core p).deque.filter fun q => (s.proc q).prio == prio && s.fitsSlot p k q
    match s.firstReady own with
    | some q => some q
    | none =>
      match s.firstReady ((s.fifo p prio).filter fun q => s.fitsSlot p k q) with
      | some q => some q
      | none => s.pickBelow p k j

/-! ### Placement (R167, R168, R207, R407) -/

/-- A suspended task's registers at its resumption: PC and g1–g4 of its record, the results it waited for, every other
register zero or at reset (R167, R244). -/
def State.resumeTask (s : State) (p : Proc) : Proc :=
  let q : Proc :=
    { Proc.empty with
        pid := p.pid, core := p.core, ctx := p.ctx, prio := p.prio, task := true, st := p.st, home := p.home,
        pc := p.pc, g := regFile [p.rg 1, p.rg 2, p.rg 3, p.rg 4], chk := p.chk, lease := p.lease, banks := p.banks,
        wait := p.wait, wkind := p.wkind, armed := p.armed, outst := p.outst, chan := p.chan, launch := p.launch,
        cnt := p.cnt, waiting := p.waiting, pend := p.pend, failed := p.failed, owed := p.owed, redo := p.redo, seqs := p.seqs, created := p.created, killed := p.killed,
        overflow := p.overflow, lastSlot := p.lastSlot, lateCp := p.lateCp, lateMx := p.lateMx, lateTr := p.lateTr, turnWait := p.turnWait,
        rsFrom := p.rsFrom, rs := s.startRs p.ctx p.home p.pid p.rsFrom 0 }
  p.wake.foldl Proc.deliver q

/-- A claim of the process waits in its pool (R207). -/
def State.claimOf (s : State) (pid : Nat) : Option Claim := (s.bench ((s.proc pid).core / 8)).claims.find? fun c => decide (c.pid = pid)

/-- The claim for the lanes that a saved context held (R207); a claim of R328 or R329 that still waits stands on. -/
def State.reclaimLanes (s : State) (pid : Nat) : State :=
  let p := s.proc pid
  let b := p.core / 8
  if let some c := s.claimOf pid then
    let s := s.updBench b fun x =>
      { x with claims := x.claims.map fun c => if c.pid = pid then { c with core := p.core, slot := p.unit } else c }
    (s.updProc pid fun p => { s.readLanes p (16 * c.keep) with waiting := true }).push (.laneGrant b)
  else if p.savedUnits = 0 then s
  else
    let s := s.updProc pid fun p => { p with vgrant := setField p.vgrant 0 5 0, waiting := true }
    (s.updBench (p.core / 8) fun x =>
      { x with claims := x.claims ++ [{ pid := pid, core := p.core, slot := p.unit, ctx := p.ctx, lo := p.laneMin,
                                        hi := p.laneMax, rd := none, keep := p.savedUnits }] }).push (.laneGrant (p.core / 8))

/-- A record is placed in slot `k` of core `p` and is RUNNING (R168); its context comes back (R406, R407). -/
def State.place (s : State) (p k pid : Nat) : State :=
  if h : k < 8 then
    let s := s.unqueue p pid
    let q := s.proc pid
    let q := if q.away then (if q.task then s.resumeTask q else s.readLanes (s.readScalar q) 0) else q
    let moved := (s.core q.core).clk0
    let q := { q with pid := pid, core := p, unit := k, st := .running, away := false, placed := s.accs + 1,
                      leaving := 0, armed := q.armed.map fun d => d + moved - (s.core p).clk0 }
    let s : State := { s with accs := s.accs + 1 }
    let s := s.updCore p fun c => { c with slots := c.slots.set k pid h }
    ((s.setProc q).setRecState pid .running).reclaimLanes pid
  else s

/-- Enabled slots of a core. -/
def State.enabledSlots (s : State) (p : Nat) : List Nat := (List.range 8).filter fun k => !(s.core p).dis.getLsbD k

/-- Empty slots take records, the lowest-numbered slot first (R169, R203). -/
def fillSlots (n : Nat) (s : State) (p : Nat) : State :=
  match n with
  | 0 => s
  | j + 1 =>
    let todo := (s.enabledSlots p).findSome? fun k =>
      if s.slotPid p k = 0 then (s.pickBelow p k 8).map fun q => (k, q) else none
    match todo with
    | none => s
    | some (k, q) => fillSlots j (s.place p k q) p

/-! ### Records ready on a core -/

/-- Records queued on a core. -/
def State.queued (s : State) (p : Nat) : List Nat := (s.core p).deque ++ (s.core p).fifos.toList.flatMap id

/-- The highest priority among some records. -/
def State.topPrio (s : State) (ms : List Nat) : Nat := ms.foldl (fun n q => max n (s.proc q).prio.toNat) 0

/-- Records in the enabled slots of a core, with their slots. -/
def State.residents (s : State) (p : Nat) : List (Nat × Nat) :=
  ((s.enabledSlots p).map fun k => (k, s.slotPid p k)).filter fun e => decide (e.2 ≠ 0)

/-- No enabled slot is empty. -/
def State.slotsFull (s : State) (p : Nat) : Bool := decide ((s.residents p).length = (s.enabledSlots p).length)

/-- A task that R407 bars as R141 bars a record: its work is outstanding, or it owns banks. -/
def Proc.taskBarred (p : Proc) : Bool := p.taskWork || (p.task && decide (0 < p.banks))

/-- Nothing of the record bars its spill (R141, R169, R407). -/
def Proc.maySpill (p : Proc) : Bool := !p.rc && !p.frozen && p.outst.all (·.held) && !p.missPending && !p.taskBarred

/-- A record's slot stops issuing and the spill engine is asked for its context; `why` as in `leaving` (R205, R407). -/
def State.leave (s : State) (pid why : Nat) : State :=
  ({ (s.updProc pid fun p => { p with leaving := why, leaveNo := s.accs + 1 }) with accs := s.accs + 1 }).push (.spillComplete pid)

/-- The spill engine of the record's core has an earlier request (R205). -/
def State.spillBehind (s : State) (p : Proc) : Bool :=
  (s.core p.core).slots.toList.any fun q =>
    decide (q ≠ 0) && decide ((s.proc q).pid = q) && decide ((s.proc q).leaving ≠ 0) && decide ((s.proc q).leaveNo < p.leaveNo)

/-- The parked process that the spill engine takes: parked longest at level 0, else the lowest slot (R169). -/
def State.spillChoice (s : State) (p : Nat) : Option Nat :=
  let cs := ((s.residents p).map (·.2)).filter fun q =>
    (s.proc q).st == .parked && (s.proc q).maySpill && decide ((s.proc q).leaving = 0)
  match cs with
  | [] => none
  | q :: r =>
    if cs.all fun x => decide (s.levelOf (s.proc x).ctx = 0) then
      some (r.foldl (fun b x => if (s.proc x).parkedAt < (s.proc b).parkedAt then x else b) q)
    else some q

/-- The resident record that a higher priority pre-empts (R203): of the lowest priority, the one placed most recently,
or at levels 1 and 2 the one in the highest slot. -/
def State.victim (s : State) (p : Nat) : Option Nat :=
  let rs := ((s.residents p).map (·.2)).filter fun q =>
    ((s.proc q).st == .running || (s.proc q).st == .ready) && !(s.proc q).rc && !(s.proc q).frozen
  let low := rs.foldl (fun n q => min n (s.proc q).prio.toNat) 8
  let vs := rs.filter fun q => decide ((s.proc q).prio.toNat = low)
  if decide (low < s.topPrio (s.queued p)) && !(s.queued p).isEmpty && s.slotsFull p && (s.spillChoice p).isNone &&
     (s.residents p).all (fun e => decide ((s.proc e.2).leaving = 0)) then
    match vs with
    | [] => none
    | q :: r =>
      some (r.foldl (fun b x =>
        if s.levelOf (s.proc b).ctx ≠ 0 then x else if (s.proc b).placed < (s.proc x).placed then x else b) q)
  else none

/-! ### Work taken from other cores (R206) -/

/-- A core is idle: slots empty or PARKED, no queue holds a record. -/
def State.idleCore (s : State) (p : Nat) : Bool :=
  decide ((s.core p).lcore < 1024) && (s.queued p).isEmpty &&
  (s.residents p).all fun e => (s.proc e.2).st == .parked

/-- A READY task of a level 0 context that may move (R206). -/
def State.movable (s : State) (pid : Nat) : Bool :=
  let q := s.proc pid
  q.task && q.st == .ready && decide (s.levelOf q.ctx = 0) && !s.ctxOut q.ctx && q.placeable && decide (q.banks = 0)

/-- The other cores of a bench in turn. -/
def benchMates (p : Nat) : List Nat := (List.range 7).map fun i => p / 8 * 8 + (p % 8 + 1 + i) % 8

/-- Benches b+1 to b+15 of the layer, cores 0 to 7 of each. -/
def layerCores (p : Nat) : List Nat :=
  (List.range 15).flatMap fun i => (List.range 8).map fun c => p / 128 * 128 + (p / 8 % 16 + 1 + i) % 16 * 8 + c

/-- The head-most READY task of a FIFO of other cores, priorities below `n`. -/
def State.pickupBelow (s : State) (ps : List Nat) (n : Nat) : Option (Nat × Nat) :=
  match n with
  | 0 => none
  | j + 1 =>
    match ps.findSome? fun q => ((s.fifo q (BitVec.ofNat 3 j)).find? s.movable).map fun t => (q, t) with
    | some r => some r
    | none => s.pickupBelow ps j

/-- The top of the first deque that has a task. -/
def State.stealTop (s : State) (ps : List Nat) : Option (Nat × Nat) :=
  ps.findSome? fun q => ((s.core q).deque.getLast?.filter s.movable).map fun t => (q, t)

/-- What an idle core takes: the core it takes from, the task, and the log kind (R206). -/
def State.stealChoice (s : State) (p : Nat) : Option (Nat × Nat × Nat) :=
  match s.pickupBelow (benchMates p) 8 with
  | some (q, t) => some (q, t, 0x06)
  | none => (s.stealTop (benchMates p ++ layerCores p)).map fun e => (e.1, e.2, 0x07)

/-- A task moves to a core, whose index its HOME becomes (R206). -/
def State.setHome (s : State) (pid p : Nat) : State :=
  let h := s.logicalOf p
  let s := s.updProc pid fun q => { q with home := h }
  s.poke (pid + 8) (setField (s.peek (pid + 8)) 41 10 h)

/-! ### The steps of slots (R169, R203, R206, R407) -/

/-- Idle cores of the layer look for the tasks that a core cannot place. -/
def State.callIdle (s : State) (p : Nat) : State :=
  if (s.queued p).any s.movable then
    let qs := (s.cores.map (·.1)).filter fun q => decide (q / 128 = p / 128) && s.idleCore q && (s.stealChoice q).isSome
    s.pushAll ((qs.filter fun q => !s.agenda.contains (.taskSteal q)).map Ev.taskSteal)
  else s

/-- A core looks at its slots: empty ones are filled; else a parked process is spilled, a record pre-empted, or work
taken from another core (R169, R203, R206). -/
def execSlotFill (core : Nat) (s : State) : Out :=
  let s := fillSlots 8 s core
  let s := if s.slotsFull core && !(s.queued core).isEmpty then
      (if (s.spillChoice core).isSome then s.push (.spillParked core)
       else if (s.victim core).isSome then s.push (.preempt core) else s)
    else s
  let s := if s.idleCore core && (s.stealChoice core).isSome then s.push (.taskSteal core) else s
  .next (s.callIdle core)

/-- The spill engine takes a parked process whose slot is needed (R169). -/
def execSpillParked (core : Nat) (s : State) : Out :=
  if !s.slotsFull core || (s.queued core).isEmpty then .next s
  else
    match s.spillChoice core with
    | none => .next s
    | some q => .next (s.leave q 1)

/-- A record of higher priority pre-empts: its victim's slot stops issuing (R203). -/
def execPreempt (core : Nat) (s : State) : Out :=
  match s.victim core with
  | none => .next s
  | some q => .next (s.leave q 2)

/-- A chunk's speculative part is discarded: its checkpoint is restored, its queued commands and their scoreboard
entries go (R150). DEDUCED, log entry 51. -/
def State.squash (s : State) (pid : Nat) : State :=
  let p := s.proc pid
  match p.chunk with
  | none => s
  | some c =>
    if c.granted then s.updProc pid fun p => { p with chunk := none }
    else
      let cmd := fun (h : Held) => match h with | .eng _ x => x.cmd | .mat _ x => x.cmd | .post x => x.cmd
      let p := c.cmds.foldl (fun (p : Proc) h =>
        { p with cnt := p.cnt.down (match h with
            | .eng _ _ => CntClass.copies
            | .post _ => CntClass.transfers
            | .mat _ x => if x.op.counts then CntClass.matrix else CntClass.none) }) p
      let p := (seqAll p.seq p.vloop).foldl Proc.dropEntry p
      let p := (seqAll c.seq c.vloop).foldl Proc.takeEntry p
      let p := { p with pc := c.pc, g := Vector.ofFn fun i => c.g.getD i.val 0, fsr := c.fsr,
                        rs := c.rs, smiss := c.smiss, tstat := c.tstat, frozenLoops := c.frozenLoops, loops := c.loops, v := Vector.ofFn fun i => c.v.getD i.val [],
                        m := Vector.ofFn fun i => c.m.getD i.val 0, seq := c.seq,
                        vloop := c.vloop, bound := c.bound, dir := c.dir, lease := c.lease, vpos := 0, seqStop := c.seqStop, chunk := none }
      let mine := fun (e : Ev) => match e with | .sequencerTrap q _ _ => decide (q = pid) | _ => false
      let s := { s with agenda := s.agenda.filter fun e => !mine e, blocked := s.blocked.filter fun e => !mine e }
      (s.setProc p).updCore p.core fun x =>
        { x with score := x.score.filter fun e => !(c.cmds.any fun h => decide (cmd h = e.cmd)) }

/-- The context of a record leaves its slot (R205, R406, R407): frame, then lanes. -/
def State.saveContext (s : State) (pid : Nat) : State :=
  let s := s.squash pid
  let p := s.proc pid
  let resuming := (s.claimOf pid).elim false fun c => c.rd.isNone
  let u := if resuming then p.savedUnits else field p.vgrant 0 5
  let s := if resuming then s.updBench (p.core / 8) fun x => { x with claims := x.claims.filter fun c => decide (c.pid ≠ pid) } else s
  let s := s.updProc pid fun p => { p with savedUnits := u, st := .spilled, waiting := false, leaving := 0 }
  let p := s.proc pid
  let s := if p.task then (if s.frameOf pid % 2 ^ 47 = 0 then s else s.writeScalar p) else if resuming then s.writeScalar p else s.writeFrame p
  let s := (s.dropLanes pid).updProc pid fun p => { p with away := !p.task }
  (s.setRecState pid .spilled).freeSlot pid

/-- Where a record that has left its slot goes: it waits on, or joins a queue or a chain (R168, R203, R210, R408). -/
def State.requeue (s : State) (pid why : Nat) : State :=
  let home := s.physOf (s.proc pid).home
  if (s.proc pid).wait ≠ 0 ∧ why < 16 then s
  else if why = 2 then s.enqueueHead home pid
  else if why = 5 then s.enqueue home pid
  else if why ≥ 16 then
    let s := s.setHome pid (why - 16)
    if (s.proc pid).wait = 0 then s.enqueue (why - 16) pid else s
  else s

/-- A frame that does not lie in a lit slice: the address that its SRAM_HOLE names (R18, R406). A task without a frame writes
none. -/
def State.frameHole (s : State) (p : Proc) : Option Nat :=
  let f := s.frameOf p.pid
  if p.task && decide (f % 2 ^ 47 = 0) then none
  else if sramFieldsOk s f && sramFieldsOk s (f + (if p.task then 0x4FF else 0x85FF)) then none
  else some f

/-- A spill that cannot write its frame faults its process, which stays in its slot (R18, R168). -/
def State.spillHole (s : State) (pid f : Nat) : State :=
  let p := s.proc pid
  (s.updProc pid fun p => { p with leaving := 0 }).faultProc pid { cause := 0x044, tval := BitVec.ofNat 64 f, words := [] }
    { atIssue := false, pc := p.pc, req := none, redo := none, writes := [], cls := .none, sn := 0, entry := false, again := none } false

/-- The spill engine takes a context once R141 allows, in the order of the requests (R205, R407). A task that yields keeps
only PC and g1–g4 and is READY (R168). -/
def execSpillComplete (pid : Nat) (s : State) : Out :=
  let p := s.proc pid
  let why := p.leaving
  if p.pid ≠ pid ∨ why = 0 ∨ !p.resident then .next s
  else if p.st = .faulted ∨ (why = 1 ∧ p.st ≠ .parked) then
    .next ((s.updProc pid fun p => { p with leaving := 0 }).kick pid)
  else if s.spillBehind p then .next (s.later (.spillComplete pid))
  else if why = 5 ∧ p.task ∧ !p.missPending then .next (((s.keepTask pid).setState pid .ready).enqueue (s.physOf p.home) pid)
  else if decide (0 < p.vpos) || !(p.outst.all (·.held)) || p.missPending || (decide (why ≠ 5) && p.taskBarred) then .next (s.later (.spillComplete pid))
  else
    match s.frameHole p with
    | some f => .next (s.spillHole pid f)
    | none => .next ((s.saveContext pid).requeue pid why)

/-- An idle core takes a task, logged as a pickup or a steal (R159, R206). A divergence is a fault of the task (R163;
DEDUCED, log entry 69). -/
def execTaskSteal (core : Nat) (s : State) : Out :=
  if !s.idleCore core then .next s
  else
    match s.stealChoice core with
    | none => .next s
    | some (q, t, kind) =>
      let slot := ((s.enabledSlots core).find? fun k => decide (s.slotPid core k = 0)).getD 0
      match s.logGate (s.proc t) kind core false (s.core core).lcore slot t (if kind = 7 then (s.core q).lcore else 0) with
      | .pass s => .next (((s.unqueue q t).setHome t core).enqueue core t)
      | .hold => .next (s.later (.taskSteal core))
      | .diverge e =>
        let x := s.proc t
        .next (((s.setDiv x.ctx).unqueue q t).faultProc t (divergeInfo e t)
          { atIssue := false, pc := x.pc, req := none, redo := none, writes := [], cls := .none, sn := 0, entry := false,
            again := none } false)

/-! ### Pool registers (R166) -/

/-- The links of a free chain: its length, or a refusal. -/
def chainLength (m : List Host.Cell) (p off n : Nat) (fuel : Nat) : Option Nat :=
  match fuel with
  | 0 => if off = 0x1FFFC0 then some n else none
  | k + 1 =>
    if off = 0x1FFFC0 then some n
    else if off % 64 ≠ 0 ∨ off ≥ 0x180000 then none
    else chainLength m p (readNat m (sliceAddr p off + 48) 8) (n + 1) k

/-- A write to HEAD recounts FREECNT, or is refused (R166). -/
def State.writeHead (s : State) (core : Nat) (x : Word) : State :=
  let off := field x 0 21
  match chainLength s.mem core off 0 24576 with
  | some n => s.setReg (corePage core + 0x900) (BitVec.ofNat 64 (n * 2 ^ 32 + off))
  | none => s.setRegBit (corePage core + 0x918) 1

/-- A write to HEAD as a step (R166). -/
def execPoolHeadWrite (core : Nat) (x : Word) (s : State) : Out := .next (s.writeHead core x)

/-- The record ends through DONE and goes back to its pool (R166, R168). -/
def State.freeFaulted (s : State) (core pid : Nat) : State :=
  let p := s.proc pid
  if p.pid = pid ∧ p.st = .faulted ∧ !p.resident ∧ coreOfSlice pid = core ∧ !(s.queued (s.physOf p.home)).contains pid then
    (((s.updProc pid fun p => { p with outst := [], owed := [], redo := [], chan := 0,
                                       cnt := { loads := 0, stores := 0, copies := 0, matrix := 0, transfers := 0 } }).dropMatrix
      pid)).finish pid
  else s.setRegBit (corePage core + 0x918) 0

/-- A write to RECFREE (R166). -/
def execRecfree (core : Nat) (x : Word) (s : State) : Out := .next (s.freeFaulted core (2 ^ 54 + field x 0 48))

/-! ### Spawn, fork, `callat` (R182–R184, R303–R305) -/

/-- An entry PC that is not a multiple of 8 raises ALIGN as an issue check (R302). -/
def entryCheck (s : State) (pc : Word) (k : Out) : Out := if field pc 0 3 ≠ 0 then raiseO s 0x040 pc else k

/-- The message of a spawn, `callat` or fork. -/
def State.mkSpawn (s : State) (kind : Nat) (entry : Word) (prio : BitVec 3) (g14 : List Word) (target : Nat) (rd : Reg) :
    SpawnMsg :=
  { agent := s.cur.agent, core := s.cur.core, ctx := s.cur.ctx, kind := kind, entry := entry, prio := prio, g14 := g14,
    target := target, rd := rd, pc := s.cur.pc, num := s.accs + 1 }

/-- g1–g4 of the issuer (R302). -/
def State.carry (s : State) : List Word := [s.g 1, s.g 2, s.g 3, s.g 4]

/-- A request for a record leaves; the slot waits for the placing core's reply. -/
def State.sendSpawn (s : State) (m : SpawnMsg) : State :=
  { s with accs := s.accs + 1, agenda := s.agenda ++ [.spawnPlace m],
           cur := { (s.cur.setPend m.rd) with waiting := true } }

/-- The creation of a record is a release at core scope and a later access of an acquire (R129, R303). -/
def Proc.maySpawn (p : Proc) : Bool := p.mayAccess && p.releaseHolds 1

/-- `spawn` and `spawnk` (R303). -/
def spawnOp (s : State) (kind : Nat) (d a b : Reg) : Out :=
  entryCheck s (s.g a) (boundary s (notInHandler s
    (if !s.cur.maySpawn then .next s.stall
     else .next (s.sendSpawn (s.mkSpawn kind (s.g a) ((s.g b).setWidth 3) s.carry 0 d)))))

/-- Create a process (R303). -/
def execSpawn (_l : Lone) (d a b : Reg) (s : State) : Out := spawnOp s 0 d a b

/-- Create a task (R303). -/
def execSpawnk (_l : Lone) (d a b : Reg) (s : State) : Out := spawnOp s 1 d a b

/-- The core that `callat` gives a task for a space 2 address of this package (R183). -/
def State.callCore (s : State) (a : Nat) : Option Nat :=
  let t := sramTower a
  let l := sramLayer a
  let b := sramBench a
  if !sramFieldsOk s a then none
  else if l = 4 then
    (if s.role t 3 = 2 then some (t * 512 + 3 * 128 + b * 8 + sramOff a / 0x40000) else none)
  else if s.role t l ≠ 2 then none
  else if sramLid a then some (t * 512 + l * 128 + b * 8 + sramOff a / 0x40000)
  else some (coreOfSlice a)

/-- Create a task at the core that holds an address, or at its peer (R183, R304). -/
def execCallat (_l : Lone) (h a b : Reg) (s : State) : Out :=
  entryCheck s (s.g b)
    (if (s.g h).getLsbD 0 then raiseO s 0x0C0 (s.g h)
     else boundary s (notInHandler s
       (let va := s.g a
        let at_ := resolved s.cur.core va
        let node := at_ / 2 ^ 56
        let peer := decide (node ≠ 0) && decide (node ≠ s.mynode)
        let hk := resolved s.cur.core (s.g h &&& ~~~3#64)
        let sc := if s.g h = 0 then (if peer then 6 else 5)
                  else if hk / 2 ^ 53 % 8 = 2 ∧ (hk / 2 ^ 56 = 0 ∨ hk / 2 ^ 56 = s.mynode) then
                    effScope .rel (chanType (s.peek (hk % 2 ^ 56))).scope (coordOfCore s.cur.core) 2 (ownerCoord 2 (hk % 2 ^ 56))
                  else 6
        let space := at_ / 2 ^ 53 % 8
        let m := s.mkSpawn 2 (s.g b) s.cur.prio [s.g 1, s.g 2, s.g 3, s.g h] (at_ % 2 ^ 56) 0
        if 4 ≤ space then .next (s.raiseAfter 0x043 va [] none)
        else if space ≠ 2 then .next (s.raiseAfter 0x0C4 va [] none)
        else if !s.cur.mayAccess || !s.cur.releaseHolds sc then .next s.stall
        else if peer then
          (match checkAccess s s.cur.core s.cur.ctx va 8 needRW false with
           | .peer n =>
             .next { (s.sendFlit n s.cur.ctx 0 (.call m)) with
                       accs := s.accs + 1, peerCalls := s.peerCalls ++ [m], cur := { s.cur with waiting := true } }
           | .fail c ws => .next (s.raiseAfter c va ws none)
           | _ => .next (s.raiseAfter 0x043 va [] none))
        else
          match s.callCore (at_ % 2 ^ 56) with
          | none => .next (s.raiseAfter 0x0C4 va [] none)
          | some _ => .next (s.sendSpawn m))))

/-- The child runs in the spawner's place: lr, PC, and rd := 0 (R182 step 3, R303). DEDUCED, log entry 54. -/
def State.runInline (s : State) (m : SpawnMsg) : State :=
  s.updProc m.agent.pid fun p =>
    let p := (p.deliver (m.rd, 0)).setG 30 (m.pc + 8)
    { (m.g14.zipIdx.foldl (fun (p : Proc) e => p.setG (BitVec.ofNat 5 (e.2 + 1)) e.1) p) with pc := m.entry, waiting := false }

/-- A new record's address reaches the issuer (R303), or a peer's `callat` is answered. -/
def State.spawned (s : State) (m : SpawnMsg) (pid : Nat) : State :=
  match m.agent with
  | .peer n => s.sendFlit n m.ctx 1 (.reply m.num (BitVec.ofNat 64 pid) 0 0 0)
  | _ => s.updProc m.agent.pid fun p => { (p.deliver (m.rd, BitVec.ofNat 64 pid)) with waiting := false }

/-- A request for a record fails. -/
def State.spawnFault (s : State) (m : SpawnMsg) (f : FaultInfo) : State :=
  match m.agent with
  | .peer n => s.sendFlit n m.ctx 1 (.reply m.num 0 0 f.cause 0)
  | _ =>
    s.accessFault m.agent.pid
      { agent := m.agent, writes := if m.kind ≤ 1 then [(m.rd, 0)] else [], flags := 0, fault := none, cls := .none,
        sn := m.num, miss := false, key := 0, req := none, chan := none, pc := m.pc } f

/-- Core `p` makes the record that a message asks for. -/
def State.makeChild (s : State) (m : SpawnMsg) (p home : Nat) : State :=
  let r := s.takeRecord p
  let s := r.2.create p r.1 (childOf m.ctx m.prio (m.kind != 0) home m.entry m.g14)
  (s.enqueue p r.1).spawned m r.1

/-- The cores that a spawn tries at level 0 (R182): its own, then the others of its bench. -/
def State.spawnCore (s : State) (p : Nat) : Option Nat :=
  (p :: benchMates p).find? fun q =>
    s.hasRecord q && decide (s.readyCount q < field (s.reg (corePage q + 0x908)) 0 8) && decide ((s.core q).lcore < 1024)

/-- A spawn bounce passes the log's gate (R159, R182). -/
def bounceGate (s : State) (m : SpawnMsg) (pid detail : Nat) (k : State → State) : State :=
  let p := s.proc m.agent.pid
  match s.logGate p 0x08 m.core false (s.core m.core).lcore p.unit pid detail with
  | .pass s => k s
  | .hold => s.later (.spawnPlace m)
  | .diverge e => (s.setDiv m.ctx).spawnFault m (divergeInfo e pid)

/-- A record asked for is placed, run inline, or waited for (R182, R183, R206). -/
def execSpawnPlace (m : SpawnMsg) (s : State) : Out :=
  if m.kind = 2 then
    match s.callCore m.target with
    | none => .next (s.spawnFault m { cause := 0x0C4, tval := BitVec.ofNat 64 m.target, words := [] })
    | some p =>
      if s.hasRecord p then .next (s.makeChild m p (s.core p).lcore) else .next (s.later (.spawnPlace m))
  else
    let home := (s.proc m.agent.pid).home
    if s.levelOf m.ctx ≠ 0 then
      let p := s.physOf home
      if s.hasRecord p then .next (s.makeChild m p home) else .next (s.later (.spawnPlace m))
    else
      match s.spawnCore m.core with
      | some p =>
        if p = m.core then .next (s.makeChild m p (s.core p).lcore)
        else
          .next (bounceGate s m (s.takeRecord p).1 (s.core p).lcore fun s => s.makeChild m p (s.core p).lcore)
      | none => .next (bounceGate s m 0 (2 ^ 15 + (s.core m.core).lcore) fun s => s.runInline m)

/-- Create a task at the bottom of the core's deque, or run it inline when the deque or, at level 0, the pool has no room
(R184, R305). DEDUCED, log entry 54. -/
def execFork (_l : Lone) (a : Reg) (s : State) : Out :=
  entryCheck s (s.g a) (boundary s (notInHandler s
    (let p := s.cur.core
     let full := decide (256 ≤ (s.core p).deque.length)
     if !s.cur.maySpawn then .next s.stall
     else if full || (!s.hasRecord p && decide (s.levelOf s.cur.ctx = 0)) then
       (match s.logGate s.cur 0x08 p false (s.core p).lcore s.cur.unit 0 (2 ^ 15 + (s.core p).lcore) with
        | .pass s => .next ((s.setG 30 (s.cur.pc + 8)).jump (s.g a))
        | .hold => .next s.stall
        | .diverge e => .next ((s.setDiv s.cur.ctx).raiseAfter 0x100 0 [e, 0] none))
     else if !s.hasRecord p then .next s.stall
     else
       let r := s.takeRecord p
       let home := if s.levelOf s.cur.ctx = 0 then (s.core p).lcore else s.cur.home
       let s1 := r.2.create p r.1 (childOf s.cur.ctx s.cur.prio true home (s.g a) s.carry)
       .next ((s1.updCore p fun c => { c with deque := r.1 :: c.deque }).push (.slotFill p)))))

/-! ### Join counters (R185, R306), `yield`, `park`, `chprio` (R307, R308) -/

/-- The space of an address as it is resolved. -/
def State.spaceAt (s : State) (va : Word) : Nat := (spaceOf s.cur.core va).1

/-- The address names another package. -/
def State.nodeAway (s : State) (va : Word) : Bool :=
  decide ((spaceOf s.cur.core va).2 ≠ 0) && decide ((spaceOf s.cur.core va).2 ≠ s.mynode)

/-- The slot issues nothing more until the operation has ended. -/
def awaitOwner (o : Out) : Out :=
  match o with
  | .next s => if s.xfer = .again then .next s else .next { s with cur := { s.cur with waiting := true } }
  | o => o

/-- Wait until a counter is 0: an acquire at package scope (R185, R306). -/
def execJoin (_l : Lone) (a : Reg) (s : State) : Out :=
  aligned s (s.g a) 8 (boundary s (notInHandler s
    (awaitOwner (issue s { va := s.g a, size := 8, op := .join, ord := .acq, sc := 5, rd := 0 }))))

/-- Set a counter by a plain store (R306); space 3 is refused. -/
def execJinit (_l : Lone) (a b : Reg) (s : State) : Out :=
  aligned s (s.g a) 8 (boundary s
    (if s.spaceAt (s.g a) = 3 then .next (s.raiseAfter 0x043 (s.g a) [] none)
     else issue s { va := s.g a, size := 8, op := .store (zeroExtend (s.g b).toNat 32), ord := .rlx, sc := 0, rd := 0 }))

/-- Give the slot to a ready record of equal or higher priority (R168, R307); the bundle ends first. -/
def execYield (_l : Lone) (s : State) : Out :=
  boundary s (notInHandler s
    (if (s.queued s.cur.core).any fun q => decide (s.cur.prio.toNat ≤ (s.proc q).prio.toNat) then
       .next (s.leave s.cur.pid 5)
     else .next s))

/-- Park while a word holds a value: an acquire at core scope of that word (R307). -/
def execPark (_l : Lone) (a b : Reg) (s : State) : Out :=
  aligned s (s.g a) 8 (boundary s (notInHandler s
    (if s.nodeAway (s.g a) then .next (s.raiseAfter 0x043 (s.g a) [] none)
     else awaitOwner (issue s { va := s.g a, size := 8, op := .park (s.g b), ord := .acq, sc := 1, rd := 0 }))))

/-- End the record, after the decrement of a counter if one is named: a release at package scope (R185, R306). -/
def execExit (_l : Lone) (a : Reg) (s : State) : Out :=
  if a = 0 then
    boundary s (if s.cur.busy then .next s.stall else .next { (s.finish s.cur.pid) with xfer := .left })
  else
    aligned s (s.g a) 8 (boundary s
      (if s.cur.busy then .next s.stall
       else
         match issue s { va := s.g a, size := 8, op := .joinDec, ord := .rel, sc := 5, rd := 0 } with
         | .next t => if t.xfer = .again then .next t else .next { t with cur := { t.cur with waiting := true }, xfer := .left }
         | o => o))

/-- Set the issuer's priority, for its next queueing (R308). -/
def execChprio (_l : Lone) (b : Reg) (s : State) : Out :=
  boundary s
    (let x : BitVec 3 := (s.g b).setWidth 3
     let s := { s with cur := { s.cur with prio := x } }
     .next ((s.poke (s.cur.pid + 8) (setField (s.peek (s.cur.pid + 8)) 53 3 x.toNat)).push (.slotFill s.cur.core)))

/-! ### Run-to-completion handlers (R186) -/

/-- An owner locks an object's unit and sends the handler's record (R186). -/
def execHandlerRequest (m : HandlerMsg) (s : State) : Out :=
  let unit := m.object / 64
  let p := if !sramLid m.object && s.role (sramTower m.object) (sramLayer m.object) == 2 then coreOfSlice m.object else m.core
  if SMap.get 0 s.locks unit ≠ 0 || !s.hasRecord p then .next (s.later (.handlerRequest m))
  else
    let r := s.takeRecord p
    let q := { childOf m.ctx 7 false (s.core p).lcore m.entry m.g14 with rc := true, handlerOf := some unit }
    let s := r.2.create p r.1 q
    .next ({ s with locks := SMap.put 0 s.locks unit r.1 }.enqueueHead p r.1)

/-! ### Barriers and groups (R187, R188, R309–R311) -/

/-- The key of the barrier that a name gives, or nothing (R309). -/
def State.barrierKey (s : State) (x : Word) : Option Nat :=
  if field x 20 44 ≠ 0 ∨ s.ncores ≤ field x 10 10 then none else some (1024 * s.physOf (field x 10 10) + field x 0 10)

def State.barrier (s : State) (k : Nat) : Barrier := SMap.get Barrier.empty s.barriers k
def State.setBarrier (s : State) (k : Nat) (b : Barrier) : State := { s with barriers := SMap.put Barrier.empty s.barriers k b }

/-- An arrival of the issuer has not reached its barrier yet: what follows it keeps its order (R69, R309). DEDUCED, log entry 53. -/
def State.arrivalOut (s : State) : Bool :=
  (s.agenda ++ s.blocked).any fun e => match e with | .barrierArrival m => m.agent == s.cur.agent | _ => false

/-- What every instruction of the family checks first; a refused name is found after issue (R215, R309). -/
def barrierOp (s : State) (a : Reg) (k : Nat → Out) : Out :=
  boundary s (notInHandler s
    (if s.arrivalOut then .next s.stall
     else
       match s.barrierKey (s.g a) with
       | none => .next (s.raiseAfter 0x043 (s.g a) [] none)
       | some b => k b))

/-- Initialise a barrier (R310). -/
def execBinit (_l : Lone) (a b : Reg) (s : State) : Out :=
  barrierOp s a fun k =>
    let n := field (s.g b) 0 16
    if n = 0 then .next (s.raiseAfter 0x001 s.cword [] none)
    else if (s.barrier k).arrived ≠ 0 then .next (s.raiseAfter 0x0C6 (s.g a) [] none)
    else .next (s.setBarrier k { Barrier.empty with expect := n })

/-- An arrival leaves for the barrier's core: a release, and with a wait an acquire, at package scope (R187, R310).
DEDUCED, log entry 53. -/
def arrive (s : State) (d a : Reg) (waits : Bool) : Out :=
  boundary s (notInHandler s
    (match s.barrierKey (s.g a) with
     | none => .next (s.raiseAfter 0x043 (s.g a) [] none)
     | some _ =>
       if !s.cur.mayAccess || !s.cur.releaseHolds 5 then .next s.stall
       else
         let n := s.accs + 1
         let m : BarMsg := { agent := s.cur.agent, core := s.cur.core, slot := s.cur.unit, ctx := s.cur.ctx, name := s.g a,
                             waits := waits, rd := d, pc := s.cur.pc, num := n }
         let p := s.cur.setPend d
         .next { s with accs := n, agenda := s.agenda ++ [.barrierArrival m],
                        cur := { p with waiting := waits || p.waiting,
                                        holdAll := if waits then p.holdAll ++ [n] else p.holdAll,
                                        outst := p.outst ++ [{ sn := n, loads := false, stores := false, held := false,
                                                               sp3 := false, owner := [] }] } }))

/-- Arrive at a barrier (R310). -/
def execBarr (_l : Lone) (d a : Reg) (s : State) : Out := arrive s d a false

/-- Arrive at a barrier and wait (R310). -/
def execBarw (_l : Lone) (d a : Reg) (s : State) : Out := arrive s d a true

/-- The answer to an arrival: the generation arrived in, or a fault. -/
def barDone (m : BarMsg) (gen : BitVec 16) (f : Option FaultInfo) : Done :=
  { agent := m.agent, writes := [(m.rd, gen.setWidth 64)], flags := 0, fault := f, cls := .none, sn := m.num, miss := false,
    key := m.name.toNat, req := none, chan := none, pc := m.pc }

/-- The slot that waits for its arrival issues again. -/
def State.endAwait (s : State) (a : Agent) : State := s.updProc a.pid fun p => { p with waiting := false }

/-- An arrival at the barrier's core; the last one releases the generation (R159, R187, R310). -/
def execBarrierArrival (m : BarMsg) (s : State) : Out :=
  match s.barrierKey m.name with
  | none => .next (s.push (.heldCompletion (barDone m 0 (some { cause := 0x043, tval := m.name, words := [] }))))
  | some k =>
    let b := s.barrier k
    if b.expect = 0 then
      .next ((s.endAwait m.agent).push (.heldCompletion (barDone m 0 (some { cause := 0x0C6, tval := m.name, words := [] }))))
    else if b.arrived + 1 < b.expect then
      let s := s.setBarrier k { b with arrived := b.arrived + 1, waiters := if m.waits then b.waiters ++ [m] else b.waiters }
      if m.waits then
        let s := s.updProc m.agent.pid fun p =>
          { p with waiting := false, outst := p.outst.map fun o => if o.sn = m.num then { o with held := true } else o }
        .next (s.park m.agent.pid m.name.toNat 6)
      else .next (s.push (.heldCompletion (barDone m b.gen none)))
    else
      let p := s.proc m.agent.pid
      match s.logGate p 0x0D (k / 1024) false (s.core m.core).lcore m.slot m.name.toNat b.gen.toNat with
      | .hold => .next (s.later (.barrierArrival m))
      | .diverge e => .next (((s.setDiv m.ctx).endAwait m.agent).push (.heldCompletion (barDone m 0 (some (divergeInfo e m.name.toNat)))))
      | .pass s =>
        let s := s.setBarrier k { b with arrived := 0, gen := b.gen + 1, waiters := [] }
        let s := b.waiters.foldl (fun s w => s.satisfies w.agent) s
        .next ((s.endAwait m.agent).pushAll ((b.waiters ++ [m]).map fun w => .heldCompletion (barDone w b.gen none)))

/-- Name a group's member table and read it (R62, R188, R311). -/
def execGinit (_l : Lone) (a b : Reg) (s : State) : Out :=
  barrierOp s a fun k =>
    let t := resolved s.cur.core (s.g b)
    let core := k / 1024
    if (s.g b).toNat % 64 ≠ 0 ∨ s.nodeAway (s.g b) ∨ t / 2 ^ 53 % 8 ≠ 2 ∨ sramLid (t % 2 ^ 56) ∨
       !sramFieldsOk s (t % 2 ^ 56) ∨ coreOfSlice (t % 2 ^ 56) ≠ core ∨ Config.sliceBytes < sramOff t + 512 then
      .next (s.raiseAfter 0x043 (s.g b) [] none)
    else if (s.barrier k).expect = 0 then .next (s.raiseAfter 0x0C6 (s.g a) [] none)
    else
      match s.guardList ((List.range 64).map fun i => t % 2 ^ 56 + 8 * i) with
      | (some a, s) => .next (s.raiseAfter 0x046 (BitVec.ofNat 64 a) [] none)
      | (none, s) =>
        .next (s.setBarrier k { s.barrier k with
          table := t % 2 ^ 56, members := (List.range 64).map fun i => readNat s.mem (t % 2 ^ 56 + 8 * i) 8 })

/-- A record is live (R168). -/
def State.liveRecord (s : State) (pid : Nat) : Bool :=
  let p := s.proc pid
  pid != 0 && p.pid == pid && p.st != .free && p.st != .done

/-- A member is killed: it is DONE at its next issue, or where its wait would end, its held operation not completed
(R188). DEDUCED, log entry 50. -/
def State.kill (s : State) (pid : Nat) : State :=
  if s.liveRecord pid then s.updProc pid fun p => { p with killed := true } else s

/-- Kill every live member of a group (R188, R311). DEDUCED, log entry 50. -/
def execGkill (_l : Lone) (a : Reg) (s : State) : Out :=
  barrierOp s a fun k => .next (((s.barrier k).members.filter (· ≠ 0)).foldl State.kill s)

/-- Count the live members of a group (R188, R311). -/
def execGquery (_l : Lone) (d a : Reg) (s : State) : Out :=
  barrierOp s a fun k =>
    .next (s.setG d (BitVec.ofNat 64 ((s.barrier k).members.filter s.liveRecord).length))

end Sys2Proof.Machine
end

