-- ==== Sys2Proof/Machine/Helper.lean ====
section
/-! DEFINITION. Helper cores and their streams (spec/13 R312, R314–R316). -/

namespace Sys2Proof.Machine

/-- A helper by 2 × physical core + (0 loader, 1 storer). -/
def State.helper (s : State) (h : Nat) : Helper := SMap.get Helper.empty s.helpers h
def State.setHelper (s : State) (h : Nat) (x : Helper) : State := { s with helpers := SMap.put Helper.empty s.helpers h x }
def Helper.stream (x : Helper) (n : Nat) : HStream := x.streams.toList.getD n HStream.empty
def State.setStream (s : State) (h n : Nat) (x : HStream) : State :=
  s.setHelper h { s.helper h with streams := (s.helper h).streams.setIfInBounds n x }

/-- The fields of a stream descriptor that R315 requires. -/
def streamOk (s : State) (ws : List Word) : Bool :=
  let base := ws.getD 0 0
  let sp := s.spaceAt base
  decide (base.toNat % 64 = 0) && (sp == 0 || sp == 2) && field (ws.getD 1 0) 5 59 == 0 &&
  decide (1 ≤ field (ws.getD 1 0) 0 5) && decide (field (ws.getD 1 0) 0 5 ≤ 16) &&
  ((List.range 4).all fun d =>
    decide (1 ≤ field (ws.getD (2 + d) 0) 0 32) && decide (field (ws.getD (2 + d) 0) 32 32 % 64 = 0)) &&
  ws.getD 6 0 == 0 && ws.getD 7 0 == 0

/-- Give a stream its pattern (R315). -/
def execSgen (l : Lone) (a b : Reg) (s : State) : Out :=
  let va := s.descOp l b
  let n := field (s.g a) 0 3
  if va.toNat % 64 ≠ 0 then raiseO s 0x040 va
  else if !s.cur.mayAccess then .next s.stall
  else
    withElement s va 64 fun s bs =>
      let ws := wordsOfBytes bs
      if !streamOk s ws then .next (s.raiseAfter 0x143 va [] none)
      else
        let count := (List.range 4).foldl (fun k d => k * field (ws.getD (2 + d) 0) 0 32) 1
        .next (s.setStream (s.cur.pid - 2 ^ 64) n { HStream.empty with desc := ws, left := count })

/-- Run a stream to its end: the helper goes on when its last item has moved (R316; DEDUCED, log entry 22). -/
def execSrun (_l : Lone) (a : Reg) (s : State) : Out :=
  let h := s.cur.pid - 2 ^ 64
  let n := field (s.g a) 0 3
  let x := (s.helper h).stream n
  if x.left = 0 then .next s
  else if !s.cur.mayAccess then .next s.stall
  else
    let s := s.setStream h n { x with run := 1 }
    let s := s.setHelper h { s.helper h with active := some n }
    .next { s with cur := { s.cur with waiting := true }, agenda := s.agenda ++ [.streamItem h n] }

/-- The address of item `i` of a pattern (R315). -/
def itemAddr (ws : List Word) (i : Nat) : Word :=
  let c := fun d => max 1 (field (ws.getD (2 + d) 0) 0 32)
  let st := fun d => signExtend (field (ws.getD (2 + d) 0) 32 32) 32
  let j0 := i % c 0
  let j1 := i / c 0 % c 1
  let j2 := i / (c 0 * c 1) % c 2
  let j3 := i / (c 0 * c 1 * c 2) % c 3
  ws.getD 0 0 + BitVec.ofNat 64 j0 * st 0 + BitVec.ofNat 64 j1 * st 1 + BitVec.ofNat 64 j2 * st 2 + BitVec.ofNat 64 j3 * st 3

/-- An item has moved: the next one, or the end of the run. -/
def itemDone (s : State) (h n : Nat) : State :=
  let x := (s.helper h).stream n
  let s := s.setStream h n { x with left := x.left - 1, idx := x.idx + 1, part := [], run := if x.left ≤ 1 then 0 else 1 }
  if x.left ≤ 1 then
    (s.setHelper h { s.helper h with active := none }).updProc (helperKey h) fun p => { p with waiting := false }
  else s.push (.streamItem h n)

/-- An access of the helper to a unit of an item is still on its way (R126). -/
def State.itemBarred (s : State) (helper : Nat) (c : Byte) (va : Word) (n : Nat) (need : Need) : Bool :=
  (List.range (n / 64)).any fun i =>
    match checkAccess s (helper / 2) c (va + BitVec.ofNat 64 (64 * i)) 64 need false with
    | .ok pa _ => s.inFlightTo (.helper helper) (pa / 64)
    | _ => false

/-- The status of a stream, for a helper, or of a helper, for its core (R316). DEDUCED, log entry 62. -/
def execSstat (_l : Lone) (d a : Reg) (s : State) : Out :=
  if s.cur.isHelper then
    let x := (s.helper (s.cur.pid - 2 ^ 64)).stream (field (s.g a) 0 3)
    .next (s.setG d (BitVec.ofNat 64 (x.left * 2 ^ 32 + x.run)))
  else if !s.cur.mayAccess then .next s.stall
  else
    let h := 2 * s.cur.core + field (s.g a) 0 1
    .next (s.setG d (BitVec.ofNat 64 ((s.proc (helperKey h)).pc.toNat % 2 ^ 32 * 2 ^ 32 + (s.helper h).run)))

/-- Start a helper at an offset of its store (R314): earlier accesses come before its first (R140). -/
def execHstart (l : Lone) (a b : Reg) (s : State) : Out :=
  boundary s
    (let h := 2 * s.cur.core + field (s.g a) 0 1
     let off := s.descOp l b
     if field off 0 3 ≠ 0 ∨ 0x4000 ≤ off.toNat then .next (s.raiseAfter 0x143 off [] none)
     else if (s.helper h).run ≠ 0 then .next (s.raiseAfter 0x0C7 (s.g a) [] none)
     else if !s.cur.mayAccess || !s.cur.releaseHolds 1 then .next s.stall
     else
       let p : Proc := { Proc.empty with pid := helperKey h, core := s.cur.core, unit := 8 + h % 2, ctx := s.cur.ctx,
                                         pc := off, g := regFile s.carry, st := .running, fcr := 0 }
       .next ((s.setProc p).setHelper h { s.helper h with run := 1, active := none, owed := none }))

end Sys2Proof.Machine
end

