-- ==== Sys2Proof/Machine/Sketch.lean ====
section
/-! DEFINITION. Summaries as values (spec/14 R352–R366): the quantile sketch, the heavy-hitter list and the
distinct-count register set, their images in memory, insertions, merges and queries. -/

namespace Sys2Proof.Machine

/-! ### Keys (R352) -/

def keyOfTy (ty : Nat) (b : W32) : Nat :=
  if ty = 0 then (keyOf b).toNat else if ty = 1 then (b ^^^ 0x80000000).toNat else b.toNat

/-- The value of a key as `skquant` writes it (R364). -/
def valueOfKey (ty k : Nat) : Word :=
  let x : W32 := BitVec.ofNat 32 k
  if ty = 0 then ofW32 (fromKey x) else if ty = 1 then (x ^^^ 0x80000000).signExtend 64 else ofW32 x

/-- The little-endian field of `n` bytes at an offset of an image. -/
def fieldAt (bs : List Byte) (off n : Nat) : Nat := bytesToNat ((bs.drop off).take n)

def zeroAt (bs : List Byte) (off n : Nat) : Bool := ((bs.drop off).take n).all (· == 0)

/-- Kinds of record: 0 QS, 1 HH, 2 DC (R353, R356, R358, R362). -/
def kindCode (k : Nat) : Nat := if k = 0 then 0x5153 else if k = 1 then 0x4848 else 0x4443
def kindSize (k : Nat) : Nat := if k = 0 then 2048 else 1024

/-- A list in ascending order. -/
def insertAsc (x : Nat) (xs : List Nat) : List Nat :=
  match xs with
  | [] => [x]
  | y :: r => if x ≤ y then x :: y :: r else y :: insertAsc x r

def sortAsc (xs : List Nat) : List Nat := xs.foldr insertAsc []

/-! ### The quantile sketch (R353–R355) -/

structure QS where
  ktype : Nat
  ncount : Nat
  coin : Word
  fill : List Nat        -- 15 levels
  kmin : Nat
  kmax : Nat
  keys : List (List Nat) -- 15 levels of 32 slots
  deriving DecidableEq, Repr

def QS.empty : QS :=
  { ktype := 15, ncount := 0, coin := 0, fill := List.replicate 15 0, kmin := 0xFFFFFFFF, kmax := 0,
    keys := List.replicate 15 (List.replicate 32 0) }

def QS.fillOf (q : QS) (h : Nat) : Nat := q.fill.getD h 0
def QS.level (q : QS) (h : Nat) : List Nat := q.keys.getD h []

/-- Arrive (R354); `fuel` levels remain above and at `h`. -/
def sketchArrive (fuel : Nat) (q : QS) (h k : Nat) : QS :=
  match fuel with
  | 0 => q
  | n + 1 =>
    let q :=
      if q.fillOf h ≠ 32 then q
      else
        let sorted := sortAsc (q.level h)
        let coin := xorshift64 q.coin
        let half := (List.range 16).map fun i => sorted.getD (2 * i + coin.toNat % 2) 0
        let q := { q with coin := coin, keys := q.keys.set h sorted }
        if h = 14 then { q with keys := q.keys.set 14 (half ++ sorted.drop 16), fill := q.fill.set 14 16 }
        else
          let q := half.foldl (fun q x => sketchArrive n q (h + 1) x) q
          { q with fill := q.fill.set h 0 }
    { q with keys := q.keys.set h ((q.level h).set (q.fillOf h) k), fill := q.fill.set h (q.fillOf h + 1) }

/-- Insert (R354). -/
def QS.insert (q : QS) (k : Nat) : QS :=
  sketchArrive 15 { q with ncount := (q.ncount + 1) % 2 ^ 64, kmin := min q.kmin k, kmax := max q.kmax k } 0 k

/-- COIN before the first key (R355). -/
def QS.seeded (q : QS) (level : Nat) (seed : Word) : QS :=
  if q.ncount ≠ 0 then q
  else
    let c := if level = 0 then (if q.coin = 0 then seed else q.coin) else seed
    { q with coin := if c = 0 then 0x6A3C91E40B57D2F8 else c }

/-- Stored keys with their weights. -/
def QS.weights (q : QS) : List (Nat × Nat) :=
  (List.range 15).flatMap fun h => ((q.level h).take (q.fillOf h)).map fun k => (k, 2 ^ h)

/-- The weight of the stored keys that are at most `k` (R364, R365). -/
def QS.rank (q : QS) (k : Nat) : Nat := ((q.weights.filter fun e => decide (e.1 ≤ k)).map (·.2)).foldl (· + ·) 0

/-- t of R364 for a fraction m × 2^e of the total weight. -/
def quantTarget (m : Nat) (e : Int) (w : Nat) : Nat :=
  max 1 (if e ≥ 0 then m * 2 ^ e.toNat * w else ceilDiv (m * w) (2 ^ (-e).toNat))

/-- The key that `skquant` answers (R364). -/
def QS.quant (q : QS) (x : W32) : Option Nat :=
  if q.ncount = 0 then none
  else
    match decodeF fmtF32 x.toNat with
    | .nan => some q.kmin
    | .inf s => some (if s then q.kmin else q.kmax)
    | .fin s m e =>
      if s || m == 0 then some q.kmin
      else if dyAbove m e 1 || dyInt m e == some 1 then some q.kmax
      else
        let w := (q.weights.map (·.2)).foldl (· + ·) 0
        let t := quantTarget m e w
        (sortAsc (q.weights.map (·.1))).find? fun k => decide (t ≤ q.rank k)

/-- Merge of a source into a sketch (R363). -/
def QS.merge (q src : QS) : QS :=
  let q := (List.range 15).foldl (fun q h => ((src.level h).take (src.fillOf h)).foldl (fun q k => sketchArrive (15 - h) q h k) q) q
  { q with ncount := (q.ncount + src.ncount) % 2 ^ 64, kmin := min q.kmin src.kmin, kmax := max q.kmax src.kmax }

/-! ### The heavy-hitter list (R356, R357) -/

structure HH where
  ktype : Nat
  ncount : Nat
  dtotal : Nat
  entries : List (Nat × Nat)   -- key and count
  deriving DecidableEq, Repr

/-- A Misra–Gries step (R357). -/
def HH.insert (x : HH) (k : Nat) : HH :=
  let x := { x with ncount := (x.ncount + 1) % 2 ^ 64 }
  if x.entries.any fun e => decide (e.1 = k) then
    { x with entries := x.entries.map fun e => if e.1 = k then (k, min (e.2 + 1) 0xFFFFFFFF) else e }
  else if x.entries.length < 120 then { x with entries := x.entries ++ [(k, 1)] }
  else
    { x with entries := (x.entries.map fun e => (e.1, e.2 - 1)).filter fun e => decide (e.2 ≠ 0),
             dtotal := (x.dtotal + 1) % 2 ^ 64 }

/-- An entry among others by COUNT descending, KEY ascending (R363). -/
def insertCount (e : Nat × Nat) (xs : List (Nat × Nat)) : List (Nat × Nat) :=
  match xs with
  | [] => [e]
  | y :: r => if y.2 < e.2 ∨ (y.2 = e.2 ∧ e.1 ≤ y.1) then e :: y :: r else y :: insertCount e r

/-- Merge of heavy hitters (R363). -/
def HH.merge (x src : HH) : HH :=
  let both := src.entries.foldl (fun (es : List (Nat × Nat)) e =>
    if es.any fun y => decide (y.1 = e.1) then
      es.map fun y => if y.1 = e.1 then (y.1, min (y.2 + e.2) 0xFFFFFFFF) else y
    else es ++ [e]) x.entries
  let sorted := both.foldr insertCount []
  let c := if sorted.length > 120 then (sorted.getD 120 (0, 0)).2 else 0
  { x with entries := (sorted.map fun e => (e.1, e.2 - c)).filter fun e => decide (e.2 ≠ 0 ∨ c = 0),
           dtotal := (x.dtotal + c + src.dtotal) % 2 ^ 64, ncount := (x.ncount + src.ncount) % 2 ^ 64 }

/-! ### The distinct-count register set (R358, R359) -/

structure DC where
  ktype : Nat
  ncount : Nat
  regs : List Nat
  deriving DecidableEq, Repr

def DC.insert (x : DC) (k : Nat) : DC :=
  let h := mix64 (zeroExtend k 32)
  let j := field h 54 10
  let r := 54 - bitLen (field h 0 54) + 1
  { x with ncount := (x.ncount + 1) % 2 ^ 64, regs := x.regs.set j (max (x.regs.getD j 0) r) }

def DC.merge (x src : DC) : DC :=
  { x with ncount := (x.ncount + src.ncount) % 2 ^ 64, regs := (x.regs.zip src.regs).map fun p => max p.1 p.2 }

/-- The estimate (R366). -/
def DC.estimate (x : DC) : W32 :=
  let z := x.regs.foldl (fun (z : W32) r => (faddOp Mode.rne z (BitVec.ofNat 32 ((127 - r) * 2 ^ 23))).1) 0
  let e := (fdivOp Mode.rne 0x4938758A z).1
  let v := (x.regs.filter (· == 0)).length
  if fleOp e 0x45200000 && decide (0 < v) then
    (if v = 1024 then 0 else BitVec.ofNat 32 (fxSigned Mode.rne (1024 * (fxLog 1024 0 - fxLog v 0))).bits)
  else e

/-! ### Images (R353, R356, R358) -/

/-- A summary of any kind. -/
inductive Sketch where
  | qs (q : QS)
  | hh (x : HH)
  | dc (x : DC)
  deriving DecidableEq, Repr

def headWord (ty kind : Nat) : List Byte := natToBytes 8 (ty * 2 ^ 16 + kindCode kind)

def Sketch.image (x : Sketch) : List Byte :=
  match x with
  | .qs q =>
    headWord q.ktype 0 ++ natToBytes 8 q.ncount ++ natToBytes 8 q.coin.toNat ++ (q.fill.map (BitVec.ofNat 8 ·)) ++ [0] ++
    natToBytes 4 q.kmin ++ natToBytes 4 q.kmax ++ List.replicate 80 0 ++
    q.keys.flatMap fun l => l.flatMap (natToBytes 4)
  | .hh x =>
    headWord x.ktype 1 ++ natToBytes 8 x.ncount ++ natToBytes 8 x.dtotal ++ natToBytes 8 x.entries.length ++
    List.replicate 32 0 ++ (x.entries.flatMap fun e => natToBytes 4 e.1 ++ natToBytes 4 e.2) ++
    List.replicate (8 * (120 - x.entries.length)) 0
  | .dc x =>
    headWord x.ktype 2 ++ natToBytes 8 x.ncount ++ List.replicate 48 0 ++
    natToBytes 768 (x.regs.foldr (fun r n => 64 * n + r) 0) ++ List.replicate 192 0

/-- The KIND of an image: 0 QS, 1 HH, 2 DC, 3 none. -/
def kindAt (bs : List Byte) : Nat :=
  let k := fieldAt bs 0 2
  if k = 0x5153 then 0 else if k = 0x4848 then 1 else if k = 0x4443 then 2 else 3

/-- The header of an image is well formed (R351). -/
def headerOk (bs : List Byte) : Bool :=
  let ty := fieldAt bs 2 1 % 16
  let top := decide (fieldAt bs 0 8 / 2 ^ 20 = 0)
  let types := ty ≤ 2 || ty == 15
  match kindAt bs with
  | 0 => top && types && ((List.range 15).all fun h => decide (fieldAt bs (24 + h) 1 ≤ 32)) && zeroAt bs 39 1 && zeroAt bs 48 80
  | 1 => top && types && decide (fieldAt bs 24 1 ≤ 120) && zeroAt bs 25 39
  | 2 => top && types && zeroAt bs 16 48 && zeroAt bs 832 192
  | _ => false

/-- The summary of an image whose header is well formed. -/
def Sketch.parse (bs : List Byte) : Sketch :=
  let ty := fieldAt bs 2 1 % 16
  let n := fieldAt bs 8 8
  match kindAt bs with
  | 0 =>
    .qs { ktype := ty, ncount := n, coin := BitVec.ofNat 64 (fieldAt bs 16 8),
          fill := (List.range 15).map fun h => fieldAt bs (24 + h) 1, kmin := fieldAt bs 40 4, kmax := fieldAt bs 44 4,
          keys := (List.range 15).map fun h => (List.range 32).map fun i => fieldAt bs (128 + 128 * h + 4 * i) 4 }
  | 1 =>
    .hh { ktype := ty, ncount := n, dtotal := fieldAt bs 16 8,
          entries := (List.range (fieldAt bs 24 1)).map fun j => (fieldAt bs (64 + 8 * j) 4, fieldAt bs (68 + 8 * j) 4) }
  | _ =>
    let r := fieldAt bs 64 768
    .dc { ktype := ty, ncount := n, regs := (List.range 1024).map fun j => r / 64 ^ j % 64 }

def Sketch.ktype (x : Sketch) : Nat := match x with | .qs q => q.ktype | .hh x => x.ktype | .dc x => x.ktype
def Sketch.ncount (x : Sketch) : Nat := match x with | .qs q => q.ncount | .hh x => x.ncount | .dc x => x.ncount

def Sketch.withType (x : Sketch) (ty : Nat) : Sketch :=
  match x with
  | .qs q => .qs { q with ktype := ty } | .hh x => .hh { x with ktype := ty } | .dc x => .dc { x with ktype := ty }

/-- What `skinit` leaves (R362). -/
def Sketch.fresh (kind : Nat) : Sketch :=
  if kind = 0 then .qs QS.empty
  else if kind = 1 then .hh { ktype := 15, ncount := 0, dtotal := 0, entries := [] }
  else .dc { ktype := 15, ncount := 0, regs := List.replicate 1024 0 }

/-- Keys inserted in order (R360); `none` where the type is another (R352). -/
def Sketch.insertAll (x : Sketch) (ty : Nat) (keys : List Nat) (level : Nat) (seed : Word) : Option Sketch :=
  if keys.isEmpty then some x
  else if x.ktype ≠ 15 ∧ x.ktype ≠ ty then none
  else
    some (match x.withType ty with
      | .qs q => .qs (keys.foldl QS.insert (q.seeded level seed))
      | .hh x => .hh (keys.foldl HH.insert x)
      | .dc x => .dc (keys.foldl DC.insert x))

/-- R363; `none` where kinds or types differ. -/
def Sketch.merge (x src : Sketch) (level : Nat) (seed : Word) : Option Sketch :=
  if x.ktype ≠ 15 ∧ src.ktype ≠ 15 ∧ x.ktype ≠ src.ktype then none
  else
    let x := if x.ktype = 15 then x.withType src.ktype else x
    match x, src with
    | .qs q, .qs r => some (.qs ((q.seeded level seed).merge r))
    | .hh q, .hh r => some (.hh (q.merge r))
    | .dc q, .dc r => some (.dc (q.merge r))
    | _, _ => none

/-- A query of a summary (R364–R366); `none` raises SUMMARY_FORMAT. -/
def Sketch.query (x : Sketch) (f : SkOp) (v : W32) : Option Word :=
  match f, x with
  | .quant, .qs q =>
    some (match q.quant v with
      | some k => valueOfKey q.ktype k
      | none => if q.ktype = 0 then 0x7FC00000 else 0)
  | .rank, .qs q => some (if q.ktype = 15 then 0 else BitVec.ofNat 64 (q.rank (keyOfTy q.ktype v)))
  | .count, x => some (BitVec.ofNat 64 x.ncount)
  | .est, .hh x =>
    some (BitVec.ofNat 64 (((x.entries.find? fun e => decide (x.ktype ≠ 15 ∧ e.1 = keyOfTy x.ktype v)).map (·.2)).getD 0))
  | .est, .dc x => some (ofW32 x.estimate)
  | _, _ => none

end Sys2Proof.Machine
end

