-- ==== Sys2Proof/Machine/Summary.lean ====
section
/-! DEFINITION. Summary operations at the owner of a record and the scalar instructions over them (spec/14 R351,
R361–R367). An operation is one step of the record's owner, performed in the step that sends it (DEDUCED, log entry 23). -/

namespace Sys2Proof.Machine

/-- What an operation does with a record. -/
inductive SumOp where
  | insert (kind ty : Nat) (keys : List Nat)
  | init (kind : Nat)
  | merge (src : Word)
  | query (f : SkOp) (v : W32)
  deriving DecidableEq, Repr

/-- What an operation answers. -/
inductive SumRes where
  | wait
  | ends                       -- cannot be performed inside a chunk
  | fail (s : State) (f : FaultInfo)
  | ok (s : State) (x : Word)
  deriving DecidableEq, Repr

/-! ### Checks (R351) -/

/-- Bytes that the issuer checks. -/
def SumOp.extent (o : SumOp) : Nat :=
  match o with
  | .insert k _ _ | .init k => kindSize k
  | .merge _ | .query _ _ => 1024

def SumOp.changes (o : SumOp) : Bool := match o with | .query _ _ => false | _ => true

def SumOp.need (o : SumOp) : Need := if o.changes then needRW else needRd

/-- The address of a record whose first `n` bytes pass the checks of R351 under a context. -/
def recordCheck (s : State) (core : Nat) (c : Byte) (va : Word) (n : Nat) (need : Need) : Except FaultInfo Nat :=
  let bad := fun (cause : Nat) => (Except.error { cause := cause, tval := va, words := [] } : Except FaultInfo Nat)
  let r : Except Nat Nat := if va.toNat / 2 ^ 56 = 0xFF then resolveAlias core va else .ok va.toNat
  match r with
  | .error cause => bad cause
  | .ok a =>
    let node := a / 2 ^ 56
    let pa := a % 2 ^ 56
    let room := if sramLid pa then Config.lidBytes else Config.sliceBytes
    if (s.desc c).bad then bad 0x047
    else if !(s.desc c).valid || (node ≠ 0 && node ≠ s.mynode) || pa / 2 ^ 53 ≠ 2 then bad 0x043
    else if !sramFieldsOk s pa || decide (room < sramOff pa + n) then bad 0x044
    else if (List.range (n / 64)).all fun i => windowsAllow (s.desc c).windows (pa + 64 * i) 64 need then .ok pa
    else bad 0x045

/-- The first word of a deeper cell among `n` bytes, of those whose sideband can be read (R62). -/
def State.deepWord (s : State) (pa n : Nat) : Option Nat :=
  ((List.range (n / 8)).map fun i => pa + 8 * i).find? fun w => !s.isPoison w && sideDepth (s.sideOf w) != 0

/-- Words that an operation changes, written as plain writes (R351). -/
def putImage (s : State) (pa : Nat) (old new : List Byte) (core unit : Nat) : State :=
  (List.range (new.length / 8)).foldl (fun s i =>
    let x := fieldAt new (8 * i) 8
    if x = fieldAt old (8 * i) 8 then s
    else
      match s.plainWrite (pa + 8 * i) (BitVec.ofNat 64 x) 0xFFFF 0 core unit with
      | .ok s => s.stir (pa + 8 * i)
      | .error _ => s) s

/-! ### At the owner -/

/-- A record's image, once every check of the owner stands: the rest of a QS, deeper cells, errors, the header. `view`
reads a word. -/
def readRecord (s : State) (core : Nat) (c : Byte) (va : Word) (pa n kind : Nat) (need : Need) (view : Nat → Word) :
    Except FaultInfo (List Byte) × State :=
  let bad := fun (cause : Nat) (tval : Word) (ws : List Word) =>
    (Except.error { cause := cause, tval := tval, words := ws } : Except FaultInfo (List Byte))
  let whole := if n < 2048 ∧ (view pa).toNat % 2 ^ 16 = 0x5153 then 2048 else n
  match (if whole = n then .ok pa else recordCheck s core c va whole need) with
  | .error f => (.error f, s)
  | .ok _ =>
    match s.deepWord pa whole with
    | some w => (bad 0x062 va [s.verWord w 3 0], s)
    | none =>
      match s.guardList ((List.range (whole / 8)).map fun i => pa + 8 * i) with
      | (some w, s) => (bad 0x046 (va + BitVec.ofNat 64 (w - pa)) [], s)
      | (none, s) =>
        let bs := (List.range (whole / 8)).flatMap fun i => natToBytes 8 (view (pa + 8 * i)).toNat
        if headerOk bs && (kind = 3 || kindAt bs = kind) then (.ok (bs.take (kindSize (kindAt bs))), s)
        else (bad 0x0A1 va [], s)

/-- The kind that an operation requires; 3 leaves it open. -/
def SumOp.kind (o : SumOp) : Nat :=
  match o with
  | .insert k _ _ => k
  | .query .quant _ | .query .rank _ => 0
  | _ => 3

/-- The log's detail of an operation (R367). -/
def SumOp.detail (o : SumOp) : Nat :=
  match o with
  | .insert k _ _ => 0x80 + k
  | .init _ => 0x83
  | _ => 0x84

/-- The seed of a sketch's COIN (R148, R355). -/
def State.coinSeed (s : State) (p : Proc) : Word :=
  if s.levelOf p.ctx = 0 then p.seed else mix64 ((s.ctx p.ctx).seed ^^^ BitVec.ofNat 64 (s.core p.core).lcore)

/-- A changed summary is written, once the log's gate lets the operation pass; its units join the write set of a level-2
process (R142, R351, R367). -/
def sumWrite (s : State) (p : Proc) (pa : Nat) (va : Word) (o : SumOp) (old : List Byte) (x : Option Sketch) : SumRes :=
  match x with
  | none => .fail s { cause := 0x0A1, tval := va, words := [] }
  | some x =>
    match s.logGate p 0x05 (ownerUnit pa) false (s.core p.core).lcore p.unit pa o.detail with
    | .hold => .wait
    | .diverge e => .fail (s.setDiv p.ctx) (divergeInfo e pa)
    | .pass s =>
      .ok ((putImage s pa old x.image p.core p.unit).homeCommit p.pid ((List.range (x.image.length / 64)).map (pa / 64 + ·))) 0

/-- A unit of the record is locked by a handler (R351, R186). -/
def State.recordLocked (s : State) (pa n : Nat) : Bool := (List.range (n / 64)).any fun i => s.isLocked (pa + 64 * i)

/-- An operation of process `p` on the record at `va` (R351–R367). -/
def sumApply (s : State) (p : Proc) (va : Word) (o : SumOp) : SumRes :=
  let s := s.cacheDesc p.ctx
  match recordCheck s p.core p.ctx va o.extent o.need with
  | .error f => .fail s f
  | .ok pa =>
    if s.recordLocked pa 2048 then .wait
    else
      match o with
      | .init kind =>
        match s.deepWord pa (kindSize kind) with
        | some w => .fail s { cause := 0x062, tval := va, words := [s.verWord w 3 0] }
        | none =>
          let old := (Sketch.fresh kind).image.map (~~~·)
          sumWrite s p pa va o old (some (.fresh kind))
      | .insert kind ty keys =>
        match readRecord s p.core p.ctx va pa o.extent kind o.need s.peek with
        | (.error f, s) => .fail s f
        | (.ok bs, s) =>
          sumWrite s p pa va o bs ((Sketch.parse bs).insertAll ty keys (s.levelOf p.ctx) (s.coinSeed p))
      | .merge src =>
        match recordCheck s p.core p.ctx src 1024 needRd with
        | .error f => .fail s f
        | .ok pb =>
          if s.recordLocked pb 2048 then .wait
          else
            match readRecord s p.core p.ctx src pb 1024 3 needRd s.peek with
            | (.error f, s) => .fail s f
            | (.ok sb, s) =>
              match readRecord s p.core p.ctx va pa 1024 3 o.need s.peek with
              | (.error f, s) => .fail s f
              | (.ok bs, s) =>
                sumWrite s p pa va o bs
                  ((Sketch.parse bs).merge (Sketch.parse sb) (s.levelOf p.ctx) (s.coinSeed p))
      | .query f v =>
        match readRecord s p.core p.ctx va pa 1024 3 o.need s.peek with
        | (.error f, s) => .fail s f
        | (.ok bs, s) =>
          match (Sketch.parse bs).query f v with
          | some x => .ok s x
          | none => .fail s { cause := 0x0A1, tval := va, words := [] }

/-- The units of a record join the read set of a chunk (R367). -/
def Chunk.readUnits (c : Chunk) (clk u n : Nat) : Option Chunk :=
  match n with
  | 0 => some c
  | k + 1 => (c.noteRead clk u).bind fun c => c.readUnits clk (u + 1) k

/-- A query inside a chunk: a speculative read of the whole record (R367). What fails ends the chunk. -/
def sumSpec (s : State) (va : Word) (f : SkOp) (v : W32) (d : Reg) : State :=
  match recordCheck s s.cur.core s.cur.ctx va 1024 needRd, s.cur.chunk with
  | .ok pa, some c =>
    if s.recordLocked pa 2048 then s.stall
    else
      match readRecord s s.cur.core s.cur.ctx va pa 1024 3 needRd (c.view s) with
      | (.ok bs, s) =>
        match (Sketch.parse bs).query f v with
        | none => s.endChunk
        | some x =>
          match c.readUnits s.clk (pa / 64) (bs.length / 64) with
          | none => s.fullChunk
          | some c => { s with cur := ({ s.cur with chunk := some c }).setG d x }
      | _ => s.endChunk
  | _, _ => s.endChunk

/-! ### The instructions (R361–R366) -/

/-- A fault found after issue by an A-word: a RETRY performs that word again (R405). -/
def State.raiseAfterA (s : State) (f : FaultInfo) : State :=
  let t := s.raiseAfter f.cause f.tval f.words none
  let regs := s.pre.getD s.keep
  t.updCur fun p => { p with owed := p.owed.mapIdx fun i o =>
    if i + 1 = p.owed.length then { o with again := o.again.map fun r => { r with isA := true, regs := regs } } else o }

/-- Accesses of the process to the record that its owner has not performed yet come first (R126). DEDUCED, log entry 23. -/
def State.recordQuiet (s : State) (va : Word) (changes : Bool) : Bool :=
  let u := resolved s.cur.core va / 64
  !((List.range 32).any fun i => s.inFlightTo s.cur.agent (u + i)) && s.scoreOk va 2048 changes

/-- The other record that an operation reads is quiet too. -/
def State.sourceQuiet (s : State) (o : SumOp) : Bool :=
  match o with
  | .merge a => s.recordQuiet a false
  | _ => true

/-- A summary operation of the issuing process (R361, R367). DEDUCED, log entry 23. -/
def sumOp (s : State) (va : Word) (o : SumOp) (d : Reg) : Out :=
  aligned s va 64
    (match o with
     | .query f v =>
       if s.speculating then .next (sumSpec s va f v d)
       else if !s.cur.mayAccess || !s.recordQuiet va false then .next s.stall
       else
         (match sumApply s s.cur va o with
          | .ok s x => .next (s.setG d x)
          | .fail s f => .next (s.raiseAfterA f)
          | .wait | .ends => .next s.stall)
     | _ =>
       boundary s
         (if !s.cur.mayAccess || !s.cur.finished s.cur.holdSt || !s.recordQuiet va true || !s.sourceQuiet o then .next s.stall
          else
            (match sumApply s s.cur va o with
             | .ok s _ => .next s
             | .fail s f => .next (s.raiseAfterA f)
             | .wait | .ends => .next s.stall)))

/-- Initialise a record (R362). -/
def execSkinit (a b : Reg) (s : State) : Out :=
  if 3 ≤ (s.g b).toNat then raiseO s 0x001 s.aword else sumOp s (s.g a) (.init (s.g b).toNat) 0

/-- Merge a record into another (R363). -/
def execSkmerge (a b : Reg) (s : State) : Out := aligned s (s.g b) 64 (sumOp s (s.g a) (.merge (s.g b)) 0)

/-- The value at a quantile (R364). -/
def execSkquant (d a b : Reg) (s : State) : Out := sumOp s (s.g a) (.query .quant (toW32 (s.g b))) d

/-- The weight at or below a value (R365). -/
def execSkrank (d a b : Reg) (s : State) : Out := sumOp s (s.g a) (.query .rank (toW32 (s.g b))) d

/-- The estimated count of a value, or of distinct values (R366). -/
def execSkest (d a b : Reg) (s : State) : Out := sumOp s (s.g a) (.query .est (toW32 (s.g b))) d

/-- The keys inserted (R365). -/
def execSkcount (d a : Reg) (s : State) : Out := sumOp s (s.g a) (.query .count 0) d

end Sys2Proof.Machine
end

