-- ==== Sys2Proof/Machine/System.lean ====
section
/-! DEFINITION. System registers, software traps and invalidation (spec/13 R317–R323, spec/16 R399, R400). -/

namespace Sys2Proof.Machine

/-- PCORE (R322). -/
def pcoreOf (p : Nat) : Word :=
  BitVec.ofNat 64 (p / 512 * 2 ^ 10 + p / 128 % 4 * 2 ^ 7 + p / 8 % 16 * 2 ^ 3 + p % 8)

/-- DLVL of a context (R144). -/
def dlvlOf (x : Ctxt) : Word := BitVec.ofNat 64 (x.dom % 2 * 4 + x.level % 4)

/-- The value of a system register, as `mfs` reads it (R318, R321). -/
def State.sysReg (s : State) (i : Nat) : Word :=
  let p := s.cur
  let x := s.ctx p.ctx
  match i with
  | 0x001 => p.fcr
  | 0x002 => p.fsr
  | 0x010 => BitVec.ofNat 64 p.pid
  | 0x011 => p.ctx.setWidth 64
  | 0x012 => BitVec.ofNat 64 (p.unit % 8)
  | 0x013 => BitVec.ofNat 64 (s.core p.core).lcore
  | 0x014 => pcoreOf p.core
  | 0x015 => p.prio.setWidth 64
  | 0x020 => ofW32 p.ext[0]
  | 0x021 => ofW32 p.ext[1]
  | 0x022 => ofW32 p.ext[2]
  | 0x023 => ofW32 p.ext[3]
  | 0x024 => ofW32 p.org[0]
  | 0x025 => ofW32 p.org[1]
  | 0x026 => ofW32 p.org[2]
  | 0x027 => ofW32 p.org[3]
  | 0x028 => p.rank.setWidth 64
  | 0x029 => p.nrank.setWidth 64
  | 0x030 => p.vgrant
  | 0x040 => p.tvec
  | 0x041 => p.epc
  | 0x042 => p.tcause
  | 0x043 => p.tval
  | 0x044 => p.tstat
  | 0x050 => BitVec.ofNat 64 (s.clkOf p.core)
  | 0x051 => p.tmo
  | 0x060 => dlvlOf x
  | 0x061 => p.chk
  | 0x070 => x.logbase
  | 0x071 => x.logsize
  | 0x072 => x.loghead
  | 0x073 => x.logtail
  | 0x074 => x.logctl
  | 0x080 => p.dpat
  | 0x081 => p.seed
  | 0x0F0 => p.smiss
  | 0x100 => p.rs
  | _ => 0

/-- System registers of access RO (R321). -/
def sysReadOnly (i : Nat) : Bool :=
  (0x010 ≤ i && i ≤ 0x030) || i = 0x042 || i = 0x043 || i = 0x050 || i = 0x060 || i = 0x061

/-- A write of a system register, reserved fields kept (R5, R318, R321 and the rules it names). -/
def State.setSysReg (s : State) (i : Nat) (x : Word) : State :=
  let p := s.cur
  match i with
  | 0x001 => { s with cur := { p with fcr := x &&& 0x1F3F } }
  | 0x002 => { s with cur := { p with fsr := x &&& 0x7F } }
  | 0x040 => { s with cur := { p with tvec := x &&& ~~~7#64 } }
  | 0x041 => { s with cur := { p with epc := x } }
  | 0x044 => { s with cur := { p with tstat := p.tstat &&& ~~~(x &&& 0x100) } }
  | 0x051 => { s with cur := { p with tmo := x &&& 0xFFFFFFFF } }
  | 0x070 => s.writeLogbase p.ctx x
  | 0x071 => s.writeLogsize p.ctx x
  | 0x072 => s.writeLoghead p.ctx x
  | 0x073 => s.writeLogtail p.ctx x
  | 0x074 => s.writeLogctl p.ctx x
  | 0x080 => { s with cur := { p with dpat := x &&& 0x03FFFFFFF81FFFFF } }
  | 0x081 => { s with cur := { p with seed := x, rs := if s.levelOf p.ctx = 0 then x else p.rs } }
  | 0x0F0 => { s with cur := { p with smiss := (setField p.smiss 16 16 (field x 16 16)) &&& ~~~(x &&& 1) } }
  | 0x100 => { s with cur := { p with rs := x } }
  | _ => s

/-- Read a system register; a read of CLK is a boundary instruction (R149, R318). -/
def execMfs (_l : Lone) (d : Reg) (i : BitVec 12) (s : State) : Out :=
  if i = 0x050 then boundary s (.next (s.setG d (s.sysReg i.toNat))) else .next (s.setG d (s.sysReg i.toNat))

/-- Write a system register: PRIVILEGED_OP for a read-only one, ILLEGAL_OP for a reserved FCR value, as issue checks
(R236, R318). -/
def execMts (_l : Lone) (a : Reg) (i : BitVec 12) (s : State) : Out :=
  if sysReadOnly i.toNat then raiseO s 0x005 s.cword
  else if i.toNat = 0x001 ∧ (field (s.g a) 0 3 > 4 ∨ field (s.g a) 3 2 > 1) then raiseO s 0x001 s.cword
  else boundary s (.next (s.setSysReg i.toNat (s.g a)))

/-- Software trap 0x1C0 + n after the bundle, in place of FP_EXCEPTION, with the enabled flags of the A-word in TVAL
(R239, R319, R399); as a NESTED fault when no handler can take it. -/
def execTrap (_l : Lone) (n : BitVec 6) (s : State) : Out :=
  boundary s
    (let cause := 0x1C0 + n.toNat
     let tval : Word := s.aflags.setWidth 64
     if s.cur.canTrap then
       let q := s.advance
       let t := q.takeTrap cause tval q.cur.pc
       .next { t with xfer := .jump t.cur.pc, aflags := 0 }
     else
       .next { s.faultProc s.cur.pid { cause := cause, tval := tval, words := [] }
                 { atIssue := false, pc := s.cur.pc, req := none, redo := none, writes := [], cls := .none, sn := 0,
                   entry := false, again := none } true with aflags := 0 })

/-- Return from a local trap; outside a handler ILLEGAL_OP as an issue check (R319). -/
def execTret (_l : Lone) (s : State) : Out :=
  if s.cur.tstat.getLsbD 0 then .next s.tret else raiseO s 0x001 s.cword

/-- Drop translation state (R52, R320). DEDUCED, log entry 45. -/
def execXinv (_l : Lone) (a : Reg) (k : BitVec 3) (s : State) : Out :=
  boundary s
    (let x := s.g a
     let c : Byte := x.setWidth 8
     let sp := field x 53 3
     let va := x.toNat % 2 ^ 53
     match k.toNat with
     | 0 =>
       if sp ≥ 2 ∨ field x 56 8 ≠ 0 ∧ field x 56 8 ≠ s.mynode then .next (s.raiseAfter 0x043 x [] none)
       else .next { s with
              tlb := s.tlb.filter fun e =>
                !((e.2.ctx == s.cur.ctx || e.2.glob) && e.2.space == sp && va / 2 ^ e.2.bits == e.2.vpage),
              upper := s.upper.filter fun u =>
                !((u.ctx == s.cur.ctx || u.word.getLsbD 6) && u.space == sp && va / 2 ^ (16 + 12 * u.level) == u.tag) }
     | 1 => .next { s with tlb := s.tlb.filter fun e => e.2.glob || e.2.ctx != c,
                           upper := s.upper.filter fun u => u.word.getLsbD 6 || u.ctx != c }
     | 2 => .next { s with tlb := [], upper := [] }
     | _ => .next { s with descs := SMap.put none s.descs c.toNat none })

/-- A chunk that has ended waits for its commit turn. -/
def State.wantTurn (s : State) (p : Proc) : State :=
  if s.agenda.contains (.commitTurn (s.domainOf p)) then s else s.push (.commitTurn (s.domainOf p))

/-- Work performed at a commit turn has ended: the turn goes on (R152). -/
def State.endTurn (s : State) (pid : Nat) : State :=
  match (s.proc pid).chunk with
  | some c => if c.granted then (s.updProc pid fun p => { p with chunk := none }).wantTurn (s.proc pid) else s
  | none => s

/-- The trap of the entry at which the sequencer has stopped: taken by the handler, or a NESTED fault (R399, R400). -/
def State.seqTrap (s : State) (pid cause : Nat) (tval : Word) : State :=
  let s := s.select pid
  let s := if s.cur.canTrap then { (s.takeTrap cause tval s.cur.pc) with xfer := .seq }
    else
      s.faultProc pid { cause := cause, tval := tval, words := [] }
        { atIssue := false, pc := s.cur.seqPc, req := none, redo := none, writes := [], cls := .none, sn := 0,
          entry := cause == 0x080, again := none } true
  s.endTurn pid

/-- A trap from a sequencer entry is delivered at its slot's issue turn: the sequencer has stopped, and EPC is the
first bundle not yet issued (R400). In a chunk it waits for the chunk's commit turn (R149). -/
def execSequencerTrap (pid cause : Nat) (tval : Word) (s : State) : Out :=
  let p := s.proc pid
  let again := Ev.sequencerTrap pid cause tval
  if p.pid ≠ pid ∨ p.st = .free ∨ p.st = .done ∨ !p.seqStop then .next s
  else if p.st ≠ .running ∧ p.st ≠ .ready ∨ !p.resident ∨ p.frozen ∨ p.waiting ∨ p.leaving ≠ 0 then .next (s.later again)
  else
    match p.chunk with
    | some c =>
      if c.granted then .next (s.seqTrap pid cause tval)
      else if c.ended && c.boundary then .next (s.later again)
      else
        .next (((s.updProc pid fun p => { p with chunk := some { c with ended := true, boundary := true } }).wantTurn p).later again)
    | none => .next (s.seqTrap pid cause tval)

end Sys2Proof.Machine
end

