-- ==== Sys2Proof/Machine/Vector.lean ====
section
/-! DEFINITION. Lane control, the sequencer and its entries, vector loops, stream bindings, and the vector
instructions (spec/14 R324–R350, R360, spec/09 R207). An arithmetic entry executes in one step, a memory entry in
one step for each 64-byte beat. -/

namespace Sys2Proof.Machine

/-! ### Lane control (R207, R327–R330) -/

/-- m and n of a claim (R328). -/
def claimOk (m n : Word) : Bool := decide (1 ≤ m.toNat) && decide (m.toNat ≤ n.toNat) && decide (n.toNat ≤ 16)

/-- The address of a bench's LPOOL (R325). -/
def lpoolAddr (b : Nat) : Nat := benchPage b + 0x8100

/-- A claim of the issuing process joins the tail of its pool's queue; the slot waits for the reply (R328, R329). -/
def State.sendClaim (s : State) (d : Reg) (m n keep : Nat) : State :=
  let b := s.cur.core / 8
  let c : Claim := { pid := s.cur.pid, core := s.cur.core, slot := s.cur.unit, ctx := s.cur.ctx, lo := m, hi := n,
                     rd := some d, keep := keep }
  let s := { s with cur := { (s.cur.setPend d) with waiting := true, laneMin := m, laneMax := n } }
  (s.updBench b fun x => { x with claims := x.claims ++ [c] }).push (.laneGrant b)

/-- Claim lanes (R328). -/
def execVclaim (_l : Lone) (d a b : Reg) (s : State) : Out :=
  if !claimOk (s.g a) (s.g b) || s.units ≠ 0 then raiseO s 0x001 s.cword
  else boundary s (notInHandler s (.next (s.sendClaim d (s.g a).toNat (s.g b).toNat 0)))

/-- Claim lanes anew, keeping the first ones (R329). -/
def execVrenew (_l : Lone) (d a b : Reg) (s : State) : Out :=
  if !claimOk (s.g a) (s.g b) then raiseO s 0x001 s.cword
  else
    boundary s (notInHandler s
      (let u := s.units
       if u = 0 then .next (s.sendClaim d (s.g a).toNat (s.g b).toNat 0)
       else if !s.cur.seqIdle then .next s.stall
       else
         let q := s.updBench (s.cur.core / 8) fun x => { x with used := x.used - u }
         let q := { q with cur := { q.cur with vgrant := setField q.cur.vgrant 0 5 0 } }
         .next (q.sendClaim d (s.g a).toNat (s.g b).toNat u)))

/-- Give every lane back, ending the stream bindings (R330). -/
def execVrel (_l : Lone) (s : State) : Out :=
  boundary s
    (if s.units = 0 then .next s
     else if !s.cur.seqIdle then .next s.stall
     else .next ((s.dropLanes s.cur.pid).updCur fun p => { p with bound := 0, dir := 0 }))

/-- Lanes of a register after a grant of `n` lanes of which the first `k` are kept (R207, R329). -/
def resizeLanes (n k : Nat) (v : List W32) : List W32 := (List.range n).map fun i => if i < k then v.getD i 0 else 0

/-- A claim is granted `u` units (R207, R328, R329). -/
def State.grantLanes (s : State) (b : Nat) (c : Claim) (u : Nat) : State :=
  let s := s.updBench b fun x => { x with claims := x.claims.erase c, used := x.used + u }
  let k := 16 * min c.keep u
  let p := s.proc c.pid
  let p := if c.rd.isNone && !p.task then s.readLanes p k else p
  let p : Proc :=
    { p with vgrant := setField (setField (setField p.vgrant 16 5 c.hi) 8 5 c.lo) 0 5 u,
             v := p.v.map (resizeLanes (16 * u) k), m := p.m.map (maskN k), savedUnits := 0, waiting := false }
  let p := match c.rd with | some d => p.deliver (d, BitVec.ofNat 64 u) | none => p
  let s := s.setProc { p with pid := c.pid }
  (if p.st = .parked then (s.holdTurn c.pid).wake c.pid else s).kick c.pid

/-- A claim whose process still waits for it. -/
def State.liveClaim (s : State) (c : Claim) : Bool :=
  let p := s.proc c.pid
  decide (p.pid = c.pid) && p.st != .free && p.st != .done

/-- The claim at the head of a pool's queue: the oldest, or the smallest key at levels 1 and 2 (R207). One of a spilled
process that has been woken waits until the process stands in a slot. DEDUCED, log entry 40. -/
def State.headClaim (s : State) (b : Nat) : Option Claim :=
  let cs := (s.bench b).claims.filter fun c => (s.proc c.pid).resident || decide ((s.proc c.pid).wait ≠ 0)
  match cs with
  | [] => none
  | c :: _ =>
    if s.levelOf c.ctx = 0 then (s.shuffled (fun (c : Claim) => c.pid) cs).head?
    else (orderBy (fun (c : Claim) => s.askKey c.core c.slot) cs).head?

/-- A claim that waits parks its process (R328). DEDUCED, log entry 40. -/
def State.parkClaims (s : State) (b : Nat) : State :=
  (s.bench b).claims.foldl (fun s c =>
    let p := s.proc c.pid
    if c.rd.isSome && p.resident && !p.task && p.st == .running then s.park c.pid (lpoolAddr b) 7 else s) s

/-- The pool of a bench looks at its queue (R207). DEDUCED, log entry 17. -/
def execLaneGrant (bench : Nat) (s : State) : Out :=
  let s := s.updBench bench fun x => { x with claims := x.claims.filter s.liveClaim }
  match s.headClaim bench with
  | none => .next s
  | some c =>
    let free := 16 - (s.bench bench).used
    if free < c.lo then .next (s.parkClaims bench)
    else if (s.proc c.pid).resident then .next ((s.grantLanes bench c (min c.hi free)).push (.laneGrant bench))
    else .next (((s.holdTurn c.pid).wake c.pid).push (.laneGrant bench))

/-! ### Stream bindings (R336, R337) -/

/-- An entry names a vector register. -/
def SeqEntry.names (e : SeqEntry) (r : Reg) : Bool := e.op.vreads.contains r || e.op.vwrite == some r

/-- Bind a vector register to a stream (R336). DEDUCED, log entry 41. -/
def execVbind (_l : Lone) (a : Reg) (s : State) : Out :=
  let k := field (s.g a) 0 3
  if field (s.g a) 4 60 ≠ 0 ∨ s.cur.bound.getLsbD k then raiseO s 0x001 s.cword
  else
    .next { s with cur := { s.cur with bound := s.cur.bound ||| BitVec.ofNat 8 (2 ^ k),
                                       dir := (s.cur.dir &&& ~~~BitVec.ofNat 8 (2 ^ k)) ||| BitVec.ofNat 8 (field (s.g a) 3 1 * 2 ^ k) } }

/-- End a binding, once no queued entry names the register (R336). DEDUCED, log entry 41. -/
def execVunbind (_l : Lone) (a : Reg) (s : State) : Out :=
  let k := field (s.g a) 0 3
  let r : Reg := BitVec.ofNat 5 (24 + k)
  if field (s.g a) 4 60 ≠ 0 then raiseO s 0x001 s.cword
  else if !s.cur.bound.getLsbD k then .next s
  else if (seqAll s.cur.seq s.cur.vloop).any fun e => e.names r then .next s.stall
  else
    .next { s with cur := { s.cur with bound := s.cur.bound &&& ~~~BitVec.ofNat 8 (2 ^ k),
                                       dir := s.cur.dir &&& ~~~BitVec.ofNat 8 (2 ^ k),
                                       v := s.cur.v.set r.toNat (List.replicate s.cur.laneCount 0) r.isLt } }

/-! ### An entry joins the sequencer (R326, R331, R332) -/

/-- Places that the sequencer of a process has left (R331, R334). -/
def Proc.seqRoom (p : Proc) : Nat := Config.seqEntries - (seqAll p.seq p.vloop).length

/-- An entry is queued with what it captures. -/
def State.queueEntry (s : State) (e : SeqEntry) : State :=
  ({ s with cur := { s.cur.takeEntry e with seq := s.cur.seq ++ [e] } }).kick s.cur.pid

/-- A vector instruction issues (R326, R331). -/
def vecIssue (s : State) (isC : Bool) (op : VecOp) (ga gb : Word) (k : Out → Out) : Out :=
  let w := if isC then s.cword else s.aword
  if s.units = 0 then raiseO s 0x009 w
  else if op.badIndex (16 * s.units) gb then raiseO s 0x001 w
  else
    k (if s.cur.seqRoom = 0 || s.cur.cnt.full op.cls then .next s.stall
       else .next (s.queueEntry { word := w.setWidth 32, isC := isC, op := op, ga := ga, gb := gb, fcr := s.fcr, pc := s.cur.pc }))

/-- An A-word that works on lanes alone. -/
def vecA (s : State) (op : VecOp) : Out := vecIssue s false op 0 0 id

/-- An A-word that captures G(a) and G(b). -/
def vecAg (s : State) (op : VecOp) (a b : Reg) : Out := vecIssue s false op (s.g a) (s.g b) id

/-! ### Elements of a memory entry (R338–R340) -/

/-- The fields of a memory entry: type, mask, whether it stores, whether it is indexed, whether rb = g0. -/
structure VecMem where
  ty : LaneTy
  mask : MReg
  store : Bool
  indexed : Bool
  unit_ : Bool       -- rb = g0
  reg : Reg          -- the loaded or stored register
  off : Reg          -- the register of offsets
  deriving DecidableEq, Repr

def VecOp.mem (o : VecOp) : Option VecMem :=
  match o with
  | .ld d _ b m t => some { ty := t, mask := m, store := false, indexed := false, unit_ := b == 0, reg := d, off := 0 }
  | .st d _ b m t => some { ty := t, mask := m, store := true, indexed := false, unit_ := b == 0, reg := d, off := 0 }
  | .ldx d _ b m t => some { ty := t, mask := m, store := false, indexed := true, unit_ := false, reg := d, off := b }
  | .stx d _ b m t => some { ty := t, mask := m, store := true, indexed := true, unit_ := false, reg := d, off := b }
  | _ => none

/-- The nibble address (R78) of lane `i` in iteration `j`, with N lanes. -/
def VecMem.addr (x : VecMem) (ga gb : Word) (n j i : Nat) (off : W32) : Nat :=
  let k := nibblesOf x.ty
  let at_ := fun (a : Word) => 2 * a.toNat
  if k = 1 then (2 * ga.toNat + j * n + i) % 2 ^ 65
  else if x.indexed then at_ (ga + off.signExtend 64)
  else if x.unit_ then at_ (ga + BitVec.ofNat 64 ((j * n + i) * (k / 2)))
  else at_ (ga + BitVec.ofNat 64 (j * n + i) * gb)

/-- The active lanes of a memory entry with their nibble addresses, ascending. -/
def VecMem.elems (x : VecMem) (p : Proc) (ga gb : Word) (j : Nat) (off : List W32) : List (Nat × Nat) :=
  let n := p.laneCount
  let m := maskN n (if x.mask = 0 then BitVec.allOnes 256 else p.m[x.mask.toNat]'x.mask.isLt)
  ((List.range n).filter m.getLsbD).map fun i => (i, x.addr ga gb n j i (off.getD i 0))

/-- The address that a nibble address names: the element's byte, or the word of a 4-bit element. -/
def elemVa (t : LaneTy) (a : Nat) : Word := BitVec.ofNat 64 (if nibblesOf t = 1 then a / 16 * 8 else a / 2)

/-- An element that is not aligned to its size. -/
def misaligned (t : LaneTy) (a : Nat) : Bool := decide (a % nibblesOf t ≠ 0)

/-- Consecutive elements within one 64-byte unit form a beat; elements at a peer go one by one (R339). -/
def beatsOf (peer : Nat → Bool) (es : List (Nat × Nat)) : List (List (Nat × Nat)) :=
  es.foldr (fun e acc =>
    match acc with
    | (f :: r) :: t => if !peer e.2 && e.2 / 128 = f.2 / 128 then (e :: f :: r) :: t else [e] :: acc
    | _ => [e] :: acc) []

/-- A vector load or store issues: a 4-bit type with a stride is ILLEGAL_OP, a misaligned element ALIGN (R338). The
mask is read as it stands; where it decides and an earlier entry may still write it, the slot waits. DEDUCED, log entry 38. -/
def vecMemIssue (s : State) (op : VecOp) (a b : Reg) : Out :=
  vecIssue s true op (s.g a) (s.g b) fun k =>
    match op.mem with
    | none => k
    | some x =>
      if nibblesOf x.ty = 1 ∧ !x.unit_ then raiseO s 0x001 s.cword
      else if x.indexed then k
      else
        let all := ({ x with mask := 0 }).elems s.cur (s.g a) (s.g b) 0 []
        if all.any fun e => misaligned x.ty e.2 then
          (if x.mask ≠ 0 && !s.cur.seqIdle then .next s.stall
           else
             match (x.elems s.cur (s.g a) (s.g b) 0 []).find? fun e => misaligned x.ty e.2 with
             | some e => raiseO s 0x040 (elemVa x.ty e.2)
             | none => k)
        else k

/-- Vector load (R338). DEDUCED, log entry 20. -/
def execVld (_l : Lone) (d a b : Reg) (t : LaneTy) (m : MReg) (s : State) : Out := vecMemIssue s (.ld d a b m t) a b

/-- Vector store (R338). -/
def execVst (_l : Lone) (d a b : Reg) (t : LaneTy) (m : MReg) (s : State) : Out := vecMemIssue s (.st d a b m t) a b

/-- Vector load by offsets (R340). -/
def execVldx (_l : Lone) (d a b : Reg) (t : LaneTy) (m : MReg) (s : State) : Out := vecMemIssue s (.ldx d a b m t) a 0

/-- Vector store by offsets (R340). -/
def execVstx (_l : Lone) (d a b : Reg) (t : LaneTy) (m : MReg) (s : State) : Out := vecMemIssue s (.stx d a b m t) a 0

/-! ### What an entry does when it executes -/

/-- The outcome of a step of the entry at the head. -/
inductive EntryRes where
  | wait (s : State)                      -- for data, room, a lock, an access under way
  | fault (s : State) (f : FaultInfo)
  | more (s : State)                      -- a beat is done
  | trap (lane : Nat)                     -- FP_SUBNORMAL (R241)
  | retire (s : State) (o : VecOut)

/-- A register of lanes replaced. -/
def setLanes (v : Vector (List W32) 32) (r : Reg) (x : List W32) : Vector (List W32) 32 := v.set r.toNat x r.isLt

/-- Lanes from the bytes of a stream. -/
def lanesOfBytes (n : Nat) (bs : List Byte) : List W32 :=
  (List.range n).map fun i => BitVec.ofNat 32 (bytesToNat ((bs.drop (4 * i)).take 4))

/-- The sources of an entry, stream registers in place: an input reads the queue, an output's lanes start at zero. -/
def State.vecIn (s : State) (p : Proc) (ins : List Nat) (out : Option Nat) : VecIn :=
  let n := p.laneCount
  let v := ins.foldl (fun v k => setLanes v (BitVec.ofNat 5 (24 + k)) (lanesOfBytes n (s.queueOf p.core k))) p.v
  let v := match out with | some k => setLanes v (BitVec.ofNat 5 (24 + k)) (List.replicate n 0) | none => v
  { n := n, v := v, m := p.m, rs := p.rs }

/-- Stream items taken and appended by an entry that retires (R337). -/
def State.useStreams (s : State) (p : Proc) (ins : List Nat) (out : Option Nat) (lanes : List W32) : State :=
  let n := 4 * p.laneCount
  let s := ins.foldl (fun s k => s.setQueue p.core k ((s.queueOf p.core k).drop n)) s
  match out with
  | some k => s.setQueue p.core k (s.queueOf p.core k ++ lanes.flatMap fun x => natToBytes 4 x.toNat)
  | none => s

/-- A result that writes nothing. -/
def VecOut.nothing (rs : Word) : VecOut := { v := none, m := none, g := none, flags := 0, rs := rs }

/-! ### Memory entries (R332, R339) -/

/-- A vector access waits as any later access of its process does (R129, R132, R134, R72). -/
def State.entryWaits (s : State) (p : Proc) (x : VecMem) (va : Word) (n : Nat) : Bool :=
  let a := s.rangeAddr p.core va
  !p.finished p.holdAll || p.smiss.getLsbD 1 || (x.store && !p.finished p.holdSt) ||
  (s.core p.core).score.any (fun e =>
    decide (e.slot = p.unit) && (e.write || x.store) && overlaps (s.ownNode e.base.toNat) e.len a n)

/-- The bytes that a beat's elements span: first address and length. -/
def beatSpan (t : LaneTy) (es : List (Nat × Nat)) : Nat × Nat :=
  let lo := es.foldl (fun b e => min b (e.2 / 2)) (2 ^ 64)
  let hi := es.foldl (fun b e => max b ((e.2 + nibblesOf t + 1) / 2)) 0
  (lo, hi - lo)

/-- The physical byte of an element, from that of its unit. -/
def elemPa (paU a : Nat) : Nat := paU + a % 128 / 2

/-- Words of a store beat: address, nibbles, data; a higher lane's nibbles replace a lower's (R339, R340). -/
def storeParts (x : VecMem) (paU : Nat) (lanes : List W32) (es : List (Nat × Nat)) : List (Nat × Nat × Word) :=
  es.foldl (fun ws e =>
    let k := nibblesOf x.ty
    let w := elemPa paU e.2 / 8 * 8
    let m := (2 ^ k - 1) * 2 ^ (e.2 % 16)
    let d : Word := BitVec.ofNat 64 (memForm x.ty (lanes.getD e.1 0) * 2 ^ (4 * (e.2 % 16)))
    if ws.any fun y => decide (y.1 = w) then
      ws.map fun y => if y.1 = w then (w, y.2.1 ||| m, mergeNibbles y.2.2 d m) else y
    else ws ++ [(w, m, d)]) []

/-- A store beat fills its 64-byte unit. -/
def wholeUnit (ws : List (Nat × Nat × Word)) : Bool := decide (ws.length = 8) && ws.all fun w => decide (w.2.1 = 0xFFFF)

/-- Words whose old bytes a store beat must merge with: those of SRAM that it fills in part, a unit of HBM unless it fills
it (R62, R85). -/
def mergeWords (paU : Nat) (ws : List (Nat × Nat × Word)) : List Nat :=
  if paU < 2 ^ 54 then (if wholeUnit ws then [] else (ws.map (·.1)).take 1)
  else (ws.filter fun w => decide (w.2.1 ≠ 0xFFFF)).map (·.1)

/-- Why a store beat is refused: the word and the cause (R62, R85, R110). -/
def storeRefused (s : State) (paU : Nat) (ws : List (Nat × Nat × Word)) : Option (Nat × Nat) × State :=
  match s.guardList (mergeWords paU ws) with
  | (some w, s) => (some (w, eccCause w), s)
  | (none, s) =>
    ((ws.find? fun w => decide (2 ^ 54 ≤ w.1) && !s.isPoison w.1 && sideDepth (s.sideOf w.1) != 0).map fun w => (w.1, 0x062), s)

/-- The unit under which a slot's sequencer asks an owner. -/
def seqUnit (p : Proc) : Nat := 32 + p.unit % 8

/-- The words of an accepted store beat are written at their owners (R65, R79, R110, R175). -/
def storeWords (s : State) (p : Proc) (paU : Nat) (ws : List (Nat × Nat × Word)) : State :=
  let s := if wholeUnit ws then s.clearUnit paU 64 else s
  ws.foldl (fun s w =>
    let s := s.updCore p.core fun c =>
      { c with issued := c.issued.setIfInBounds (p.unit % 10) (c.issued.toList.getD (p.unit % 10) 0 + 1) }
    match s.plainWrite w.1 w.2.2 w.2.1 0 p.core p.unit with
    | .ok s => s.stir w.1
    | .error _ => s) s

/-- The value of an element in its word. -/
def elemOf (t : LaneTy) (w : Word) (a : Nat) : W32 := laneForm t (field w (4 * (a % 16)) (4 * nibblesOf t))

/-- The address of the first element of a beat in a word. DEDUCED, log entry 38. -/
def firstIn (t : LaneTy) (paU w : Nat) (es : List (Nat × Nat)) : Word :=
  match es.find? fun e => decide (elemPa paU e.2 / 8 * 8 = w) with
  | some e => elemVa t e.2
  | none => 0

/-- A beat of a load from SRAM or HBM: the lanes, or the fault. -/
def loadLocal (s : State) (x : VecMem) (paU : Nat) (es : List (Nat × Nat)) : Except FaultInfo (List (Nat × W32)) × State :=
  match s.guardList ((es.map fun e => elemPa paU e.2 / 8 * 8).eraseDups) with
  | (some w, s) => (.error { cause := eccCause w, tval := firstIn x.ty paU w es &&& ~~~7#64, words := [] }, s)
  | (none, s) => (.ok (es.map fun e => (e.1, elemOf x.ty (s.peek (elemPa paU e.2 / 8 * 8)) e.2)), s)

/-- The words of a nibble store beat travel to their owners as sub-byte store messages, in ascending lane order; `wait` while
one is not acknowledged, else the first fault (R78, R339). -/
def sendNibbles (s : State) (p : Proc) (x : VecMem) (paU : Nat) (es : List (Nat × Nat)) (ws : List (Nat × Nat × Word)) :
    Except FaultInfo Unit × State :=
  match ws with
  | [] => (.ok (), s)
  | w :: rest =>
    let va := firstIn x.ty paU w.1 es
    let r := { unitReq s p.core (seqUnit p) p.ctx (va &&& ~~~7#64) 8 (.sub (BitVec.ofNat 16 w.2.1) w.2.2) with
      pa := w.1, space := if w.1 < 2 ^ 54 then 0 else 2 }
    let a := s.ask r fun s => (s.updCore p.core fun c =>
      { c with issued := c.issued.setIfInBounds (p.unit % 10) (c.issued.toList.getD (p.unit % 10) 0 + 1) }).push (.subByteStore r)
    let b := sendNibbles a.2 p x paU es rest
    (match a.1, b.1 with
     | .ok _, e => e
     | .error f, .ok _ => .error { f with tval := if f.cause = 0x062 then va else f.tval,
                                          words := if f.cause = 0x062 then [s.verWord w.1 3 0] else [] }
     | .error f, .error g => .error (if f.cause = notYet ∨ g.cause ≠ notYet then f else g), b.2)

/-- A beat of a nibble store (R78): it is performed once every message of it has been acknowledged. -/
def storeNibbles (s : State) (p : Proc) (x : VecMem) (paU : Nat) (lanes : List W32) (es : List (Nat × Nat)) :
    Except FaultInfo (List (Nat × W32)) × State :=
  let ws := storeParts x paU lanes es
  match sendNibbles s p x paU es ws with
  | (.ok _, s) => (.ok [], (s.dropAsks p.core (seqUnit p)).homeCommit p.pid [paU / 64])
  | (.error f, s) => (.error f, if f.cause = notYet then s else s.dropAsks p.core (seqUnit p))

/-- A beat of a store of bytes to SRAM or HBM. -/
def storeLocal (s : State) (p : Proc) (x : VecMem) (paU : Nat) (lanes : List W32) (es : List (Nat × Nat)) :
    Except FaultInfo (List (Nat × W32)) × State :=
  if nibblesOf x.ty = 1 then storeNibbles s p x paU lanes es else
  let ws := storeParts x paU lanes es
  match storeRefused s paU ws with
  | (some (w, c), s) =>
    let va := firstIn x.ty paU w es
    (.error { cause := c, tval := if c = 0x062 then va else va &&& ~~~7#64,
              words := if c = 0x062 then [s.verWord w 3 0] else [] }, s)
  | (none, s) => (.ok [], (storeWords s p paU ws).homeCommit p.pid [paU / 64])

/-- A beat to or from host memory (R420). -/
def beatHost (s : State) (p : Proc) (x : VecMem) (pa : Nat) (lanes : List W32) (es : List (Nat × Nat)) :
    Except FaultInfo (List (Nat × W32)) × State :=
  let sp := beatSpan x.ty es
  let va0 := BitVec.ofNat 64 sp.1
  let paOf := fun (a : Nat) => pa / 64 * 64 + a % 128 / 2
  if x.store then
    (if nibblesOf x.ty = 1 then (.error { cause := 0x043, tval := (es.head?.elim 0 fun e => elemVa x.ty e.2), words := [] }, s)
     else
       (.ok [], { s with out := (es.reverse.map fun e => OutMsg.hostWrite (paOf e.2)
                    (natToBytes (nibblesOf x.ty / 2) (memForm x.ty (lanes.getD e.1 0)))) ++ s.out }))
  else
    match s.askHost p.core p.ctx va0 (pa / 64 * 64 + sp.1 % 64) sp.2 with
    | (.error f, s) => (.error f, s)
    | (.ok bs, s) =>
      (.ok (es.map fun e => (e.1, laneForm x.ty (bytesToNat (bs.drop (e.2 / 2 - sp.1)) / 2 ^ (4 * (e.2 % 2)) % 2 ^ (4 * nibblesOf x.ty)))),
       s.dropHost p.core p.ctx)

/-- What a slot's sequencer asks of another package. -/
def peerAsk (s : State) (p : Proc) (va : Word) (size : Nat) (op : MemOp) : Req :=
  { agent := .host, core := p.core, unit := seqUnit p, ctx := p.ctx, va := va, pa := va.toNat, space := 0, size := size,
    op := op, ord := .rlx, scope := 0, rd := 0, pc := 0, sn := s.accs + 1 }

/-- An element at another package: its answer, or the request goes out and the entry waits (R33, R411). An answer of
two bytes is a cause. -/
def State.askPeer (s : State) (p : Proc) (node : Nat) (va : Word) (size : Nat) (op : MemOp) : Except FaultInfo Word × State :=
  let r := peerAsk s p va size op
  let same := fun (q : Req) => decide ({ q with sn := r.sn } = r)
  match s.hostGot.find? fun e => same e.1 with
  | some e =>
    let s := { s with hostGot := s.hostGot.filter fun e => !same e.1 }
    if e.2.length = 8 then (.ok (BitVec.ofNat 64 (bytesToNat e.2)), s)
    else (.error { cause := bytesToNat e.2, tval := va, words := [] }, s)
  | none =>
    if s.peers.any fun e => same e.2 then (.error { cause := notYet, tval := va, words := [] }, s)
    else
      let q := s.sendFlit node p.ctx 0
        (.request { node := s.mynode, lcore := (s.core p.core).lcore, ctx := p.ctx, va := BitVec.ofNat 64 (va.toNat % 2 ^ 56), size := size, op := op,
                    ord := .rlx, scope := 0, tag := r.sn })
      (.error { cause := notYet, tval := va, words := [] }, { q with accs := r.sn, peers := q.peers ++ [(r.sn, r)] })

/-- A beat of one element at another package. -/
def beatPeer (s : State) (p : Proc) (x : VecMem) (node : Nat) (lanes : List W32) (e : Nat × Nat) :
    Except FaultInfo (List (Nat × W32)) × State :=
  let k := nibblesOf x.ty
  let va := elemVa x.ty e.2
  let v := memForm x.ty (lanes.getD e.1 0)
  let op : MemOp :=
    if k = 1 then
      (if x.store then .sub (BitVec.ofNat 16 (2 ^ (e.2 % 16))) (BitVec.ofNat 64 (v * 2 ^ (4 * (e.2 % 16))))
       else .nibble false (e.2 % 16))
    else if x.store then .store (BitVec.ofNat 64 v) else .load false
  match s.askPeer p node va (if k = 1 then 8 else k / 2) op with
  | (.error f, s) => (.error f, s)
  | (.ok w, s) => (.ok (if x.store then [] else [(e.1, laneForm x.ty w.toNat)]), s)

/-- A beat of the entry: checked when it is sent (R38, R339), then performed at its owner. -/
def memBeat (s : State) (p : Proc) (x : VecMem) (lanes : List W32) (es : List (Nat × Nat)) :
    Except FaultInfo (List (Nat × W32)) × State :=
  match es with
  | [] => (.ok [], s)
  | e :: _ =>
    match es.find? fun e => misaligned x.ty e.2 with
    | some e => (.error { cause := 0x040, tval := elemVa x.ty e.2, words := [] }, s)
    | none =>
      let wait : Except FaultInfo (List (Nat × W32)) := .error { cause := notYet, tval := 0, words := [] }
      let va := elemVa x.ty e.2
      let sp := beatSpan x.ty es
      let k := checkNow s p.core p.ctx va (if nibblesOf x.ty = 1 then 8 else nibblesOf x.ty / 2)
        (if x.store then needWr else needRd) false
      match k.1 with
      | .fail c ws => (.error { cause := c, tval := va, words := ws }, k.2)
      | .peer node => if k.2.entryWaits p x (BitVec.ofNat 64 sp.1) sp.2 then (wait, k.2) else beatPeer k.2 p x node lanes e
      | .miss _ _ => (.error { cause := 0x043, tval := va, words := [] }, k.2)
      | .ok pa space =>
        if k.2.entryWaits p x (BitVec.ofNat 64 sp.1) sp.2 || k.2.inFlightTo p.agent (pa / 64) then (wait, k.2)
        else if space = 1 then beatHost k.2 p x pa lanes es
        else if k.2.isLocked pa then (wait, k.2)
        else if x.store then storeLocal k.2 p x (pa / 64 * 64) lanes es
        else loadLocal k.2 x (pa / 64 * 64) es

/-- An element's address lies in another package (R33). -/
def peerElem (s : State) (p : Proc) (t : LaneTy) (a : Nat) : Bool :=
  let n := (spaceOf p.core (elemVa t a)).2
  decide (n ≠ 0) && decide (n ≠ s.mynode)

/-- Loaded lanes reach their register (R339). -/
def putLanes (p : Proc) (r : Reg) (ls : List (Nat × W32)) : Proc :=
  if ls.isEmpty then p
  else { p with v := setLanes p.v r (ls.foldl (fun v e => v.set e.1 e.2) (lanesN p.laneCount (p.v[r.toNat]'r.isLt))) }

/-- The beats of the entry of process `p`; the offsets are those it began with. DEDUCED, log entry 39. -/
def State.entryBeats (s : State) (p : Proc) (e : SeqEntry) (x : VecMem) (iter : Nat) (vin : VecIn) : List (List (Nat × Nat)) :=
  let off := if p.vpos = 0 then vin.lanes x.off else p.voff
  beatsOf (peerElem s p x.ty) (x.elems p e.ga e.gb (if x.indexed then 0 else iter) off)

/-- One beat of a memory entry, performed at its owner. DEDUCED, log entry 39. -/
def memStep (s : State) (p : Proc) (e : SeqEntry) (x : VecMem) (iter : Nat) (ins : List Nat) (out : Option Nat) : EntryRes :=
  let vin := s.vecIn p ins none
  let beats := s.entryBeats p e x iter vin
  let p0 := if p.vpos = 0 then
      { p with voff := if x.indexed then vin.lanes x.off else [],
               v := if out.isSome then setLanes p.v x.reg (List.replicate p.laneCount 0) else p.v }
    else p
  let finish := fun (s : State) =>
    let q := s.proc p.pid
    EntryRes.retire (s.useStreams q ins out (lanesN q.laneCount (q.v[x.reg.toNat]'x.reg.isLt))) (.nothing q.rs)
  match beats[p.vpos]? with
  | none => finish (s.setProc p0)
  | some es =>
    match memBeat s p x (vin.lanes x.reg) es with
    | (.error f, s) => if f.cause = notYet then .wait s else .fault s f
    | (.ok ls, s) =>
      let s := s.setProc { (putLanes p0 x.reg ls) with vpos := p.vpos + 1 }
      if p.vpos + 1 < beats.length then .more s else finish s

/-- The keys of the active lanes (R352, R360). -/
def skKeys (vin : VecIn) (a : Reg) (m : MReg) (t : LaneTy) : List Nat :=
  (((vin.act m).zip (vin.lanes a)).filter (·.1)).map fun x => keyOfTy t.code.toNat x.2

/-- Which record an insertion is for: 0 QS, 1 HH, 2 DC (R360). -/
def skKind (f : SkOp) : Nat := match f with | .q => 0 | .h => 1 | _ => 2

/-- A step of the entry at the head, performed at the owners of what it names. -/
def entryWork (s : State) (p : Proc) (e : SeqEntry) (iter : Nat) : EntryRes :=
  let word := ofW32 e.word
  match s.streamsOf p e.op with
  | .bad => .fault s { cause := 0x001, tval := word, words := [] }
  | .wait => if p.vpos = 0 then .wait s else
      match e.op.mem with
      | some x => memStep s p e x iter [] none
      | none => .wait s
  | .ok ins out =>
    match e.op with
    | .sk f _ a _ m t =>
      let vin := s.vecIn p ins out
      let o : SumOp := .insert (skKind f) t.code.toNat (skKeys vin a m t)
      if e.gb.toNat % 64 ≠ 0 then .fault s { cause := 0x040, tval := e.gb, words := [] }
      else if !p.finished p.holdAll || !p.finished p.holdSt || p.smiss.getLsbD 1 ||
          (List.range 32).any (fun i => s.inFlightTo p.agent (resolved p.core e.gb / 64 + i)) then .wait s
      else
        match sumApply s p e.gb o with
        | .wait | .ends => .wait s
        | .fail s f => .fault s f
        | .ok s _ => .retire (s.useStreams p ins out []) (.nothing p.rs)
    | op =>
      match op.mem with
      | some x => memStep s p e x iter ins out
      | none =>
        let vin := s.vecIn p ins out
        match op.trapLane vin e.fcr with
        | some i => .trap i
        | none =>
          let o := vecCompute op vin e.ga e.gb e.fcr
          let lanes := o.v.elim [] (·.2)
          .retire (s.useStreams p ins out lanes) (if out.isSome then { o with v := none } else o)

/-- The same, unless the lane pool meets a lasting error (R409). -/
def entryStep (s : State) (p : Proc) (e : SeqEntry) (iter : Nat) : EntryRes :=
  let g := s.parityGuard p.core 1
  if g.1 then entryWork g.2 p e iter else .fault g.2 (machineCheck 1)

/-! ### In the speculative part of a chunk (R350) -/

/-- The 64-byte units that an entry reads, or the words that it writes. -/
def footprint (x : VecMem) (pas : List (Nat × Nat)) : List Nat :=
  (pas.map fun e => if x.store then e.2 / 8 * 8 else e.2 / 64).eraseDups

/-- The physical address of every element, if each can be accessed speculatively. -/
def specAddrs (s : State) (p : Proc) (x : VecMem) (es : List (Nat × Nat)) : Option (List ((Nat × Nat) × Nat) × State) :=
  match es with
  | [] => some ([], s)
  | e :: r =>
    if misaligned x.ty e.2 then none
    else
      let k := checkNow s p.core p.ctx (elemVa x.ty e.2) (if nibblesOf x.ty = 1 then 8 else nibblesOf x.ty / 2)
        (if x.store then needWr else needRd) false
      match k.1 with
      | .ok pa space =>
        if space ≠ 0 ∧ space ≠ 2 then none
        else
          let pa := pa / 64 * 64 + e.2 % 128 / 2
          if k.2.isPoison pa ∨ SMap.get 0 k.2.badRead (poisonKey pa) ≠ 0 ∨
             (x.store ∧ space = 2 ∧ sideDepth (k.2.sideOf (pa / 8 * 8)) ≠ 0) then none
          else (specAddrs k.2 p x r).map fun q => ((e, pa) :: q.1, q.2)
      | _ => none

/-- What a speculative memory entry comes to: the chunk and the process after it, or why it stops: 1 performed at the
commit, 2 in the next chunk. -/
def specMem (s : State) (p : Proc) (c : Chunk) (x : VecMem) (lanes : List W32) (es : List (Nat × Nat)) :
    Except Nat (Proc × State) :=
  match specAddrs s p x es with
  | none => .error 1
  | some (as, s) =>
    let foot := footprint x (as.map fun a => (0, a.2))
    if 128 < foot.length then .error 1
    else
      let step := fun (r : Option (Chunk × List (Nat × W32))) (a : (Nat × Nat) × Nat) =>
        r.bind fun r =>
          let w := a.2 / 8 * 8
          let k := nibblesOf x.ty
          let sh := a.1.2 % 16
          if x.store then
            (r.1.noteWrite w ((2 ^ k - 1) * 2 ^ sh) (BitVec.ofNat 64 (memForm x.ty (lanes.getD a.1.1 0) * 2 ^ (4 * sh))) false).map
              fun c => (c, r.2)
          else
            (r.1.noteRead s.clk (a.2 / 64)).map fun c => (c, r.2 ++ [(a.1.1, elemOf x.ty (c.view s w) a.1.2)])
      match as.foldl step (some (c, [])) with
      | none => .error 2
      | some (c, ls) => .ok ({ (putLanes p x.reg ls) with chunk := some c }, s)

/-- A step of the entry at the head inside a chunk. -/
def specEntry (s : State) (p : Proc) (c : Chunk) (e : SeqEntry) (iter : Nat) : Except Nat EntryRes :=
  if s.unitErrors p.core 1 ≠ 0 then .error 1 else
  match s.streamsOf p e.op with
  | .bad => .error 1
  | .wait => .ok (.wait s)
  | .ok ins out =>
    match e.op with
    | .sk _ _ _ _ _ _ => .error 1
    | op =>
      match op.mem with
      | none => .ok (entryStep s p e iter)
      | some x =>
        let vin := s.vecIn p ins out
        let es := x.elems p e.ga e.gb (if x.indexed then 0 else iter) (vin.lanes x.off)
        if es.any fun a => s.entryWaits p x (BitVec.ofNat 64 (a.2 / 2)) ((nibblesOf x.ty + 1) / 2) then .ok (.wait s) else
        let p0 := if out.isSome then { p with v := setLanes p.v x.reg (List.replicate p.laneCount 0) } else p
        match specMem s p0 c x (vin.lanes x.reg) es with
        | .error k => .error k
        | .ok (q, s) =>
          .ok (.retire ((s.setProc q).useStreams q ins out (lanesN q.laneCount (q.v[x.reg.toNat]'x.reg.isLt))) (.nothing q.rs))

/-! ### The sequencer (R331, R334, R335, R400) -/

/-- The entry at the head leaves; of a loop, the last iteration frees the body. The number is that of the bundles of an
iteration that has ended (R335). -/
def Proc.popEntry (p : Proc) : Proc × Nat :=
  let pop := fun (p : Proc) =>
    match p.seq with
    | e :: r => { (p.dropEntry e) with seq := r }
    | [] => p
  match p.vloop with
  | none => (pop p, 0)
  | some l =>
    if 0 < l.ahead then ({ (pop p) with vloop := some { l with ahead := l.ahead - 1 } }, 0)
    else if l.next + 1 < l.body.length then ({ p with vloop := some { l with next := l.next + 1 } }, 0)
    else if l.left = 1 then ({ (l.body.foldl Proc.dropEntry p) with vloop := none }, l.len)
    else ({ p with vloop := some { l with next := 0, left := l.left - 1, iter := l.iter + 1 } }, l.len)

/-- The sequencer stops at a trap, which its slot delivers (R400). -/
def State.stopSeq (s : State) (pid : Nat) (e : SeqEntry) (cause : Nat) (tval : Word) : State :=
  (s.updProc pid fun p => { p with seqStop := true, seqPc := e.pc }).push (.sequencerTrap pid cause tval)

/-- Bundles of an iteration count toward the limit of a chunk (R335); an entry performed at the commit ends the turn. -/
def State.countEntry (s : State) (pid n : Nat) : State :=
  let p := s.proc pid
  match p.chunk with
  | none => s
  | some c =>
    if c.granted then (if c.seqWaits = 1 then s.endTurn pid else s)
    else
      let full := decide (256 ≤ c.bundles + n)
      let c := { c with bundles := c.bundles + n, ended := c.ended || full, seqWaits := if full && !p.seqIdle then 2 else c.seqWaits }
      let s := s.updProc pid fun p => { p with chunk := some c }
      if c.ended && (p.seqIdle || c.seqWaits != 0) then s.wantTurn p else s

/-- The entry at the head retires with its result (R239, R331, R400). -/
def State.retireEntry (s : State) (pid : Nat) (e : SeqEntry) (o : VecOut) : State :=
  let p := s.proc pid
  let p : Proc :=
    { (p.orFsr o.flags) with
        rs := o.rs, vpos := 0, voff := [],
        v := match o.v with | some (r, x) => setLanes p.v r x | none => p.v,
        m := match o.m with | some (k, x) => if k = 0 then p.m else p.m.set k.toNat x k.isLt | none => p.m }
  let r := p.popEntry
  let p := match o.g with | some (d, x) => (r.1.setG d x).clearPend d | none => r.1
  let s := (s.setProc p).countEntry pid r.2
  let fl := enabledFlags e.fcr o.flags
  if fl = 0 then s.kick pid else s.stopSeq pid e 0x081 (fl.setWidth 64)

/-- An entry that fails stops its process and stays at the head (R339, R401). -/
def State.entryFault (s : State) (pid : Nat) (e : SeqEntry) (f : FaultInfo) : State :=
  (s.faultProc pid f
    { atIssue := false, pc := e.pc, req := none, redo := none, writes := [], cls := .none, sn := 0, entry := true,
      again := none } false).endTurn pid

/-- What a step of the head entry comes to. -/
def State.afterEntry (s : State) (pid : Nat) (e : SeqEntry) (r : EntryRes) : State :=
  match r with
  | .wait s => s.later (.sequencerEntry pid)
  | .fault s f => s.entryFault pid e f
  | .more s => s.kick pid
  | .trap i => s.stopSeq pid e 0x080 (BitVec.ofNat 64 i)
  | .retire s o => s.retireEntry pid e o

/-- The sequencer of the process may execute an entry now. -/
def Proc.seqRuns (p : Proc) : Bool :=
  p.resident && (p.st == .running || p.st == .ready || p.st == .parked) && !p.frozen && !p.seqStop &&
  decide (p.laneCount ≠ 0) && (decide (p.leaving = 0) || decide (0 < p.vpos))

/-- The chunk stops at the entry: 1 to perform it at the commit, 2 to begin the next chunk with it (R335, R350). -/
def State.stopChunk (s : State) (pid k : Nat) : State :=
  (s.updProc pid fun p => { p with chunk := p.chunk.map fun c => { c with ended := true, seqWaits := k } }).wantTurn (s.proc pid)

/-- A step of the sequencer of a process: its head entry executes (R331), speculatively in a chunk (R350). -/
def execSequencerEntry (pid : Nat) (s : State) : Out :=
  let p := s.proc pid
  if p.pid ≠ pid ∨ !p.seqRuns then .next s
  else
    match p.headEntry with
    | none => .next s
    | some (e, iter) =>
      if s.levelOf p.ctx ≠ 2 ∨ p.rc then .next (s.afterEntry pid e (entryStep s p e iter))
      else
        let c := p.chunk.getD (p.newChunk s.clk)
        if c.granted then .next (s.afterEntry pid e (entryStep s p e iter))
        else if c.seqWaits ≠ 0 then .next s
        else
          let p := { p with chunk := some c }
          let s := s.setProc p
          match specEntry s p c e iter with
          | .error k => .next (s.stopChunk pid k)
          | .ok (.fault s _) => .next (s.stopChunk pid 1)
          | .ok r => .next (s.afterEntry pid e r)

/-! ### Vector loops (R334) -/

/-- A type field that the instruction accepts. -/
def tyIn (w : Nat) (ok : List LaneTy) (k : LaneTy → VecOp) : Option VecOp :=
  (LaneTy.ofCode (fld w 4 4)).bind fun t => if ok.contains t then some (k t) else none

/-- Fields that must be zero. -/
def zeroF (fs : List Nat) (r : Option VecOp) : Option VecOp := if fs.all (· == 0) then r else none

def numTypes : List LaneTy := [.f32, .s32, .n32]
def intTypes : List LaneTy := [.s32, .n32]

/-- The lane operations of a loop body by amaj and fn (R223, R334): the words of amaj 0x10 to 0x15, 0x17 and 0x19 but
`vext`, `mpop`, `mfrst` and `mtog`. -/
def bodyOp (w : Nat) : Option VecOp :=
  let d : Reg := fld w 21 5
  let a : Reg := fld w 16 5
  let b : Reg := fld w 11 5
  let m : MReg := fld w 8 3
  let fn := bitsOf w 0 4
  let bin := fun (f : VBin) (ok : List LaneTy) => tyIn w ok fun t => VecOp.bin f d a b m t
  match bitsOf w 26 6 with
  | 0x10 =>
    (match fn with
     | 0 => bin .add numTypes | 1 => bin .sub numTypes | 2 => bin .mul numTypes | 3 => bin .div [.f32]
     | 4 => bin .min numTypes | 5 => bin .max numTypes | 6 => bin .and numTypes | 7 => bin .or numTypes
     | 8 => bin .xor numTypes | 9 => bin .sll intTypes | 10 => bin .srl intTypes | 11 => bin .sra intTypes
     | 12 => zeroF [bitsOf w 11 5] (tyIn w [.f32, .s32] fun t => .un .abs d a m t)
     | 13 => zeroF [bitsOf w 11 5] (tyIn w [.f32, .s32] fun t => .un .neg d a m t)
     | 14 => bin .adds intTypes
     | _ => bin .subs intTypes)
  | 0x11 =>
    let tri := fun (f : VTri) => some (VecOp.tri f d a b (fld w 6 5) (fld w 3 3))
    (match bitsOf w 0 3 with
     | 0 => tri .fma | 1 => tri .fms | 2 => tri .fnma | 3 => tri .fnms | 4 => tri .madS | 5 => tri .madN
     | _ => none)
  | 0x12 =>
    let cmp := fun (f : VCmp) (ok : List LaneTy) =>
      zeroF [bitsOf w 24 2] (tyIn w ok fun t => VecOp.cmp f (fld w 21 3) a b m t)
    (match fn with
     | 0 => cmp .eq numTypes | 1 => cmp .ne numTypes | 2 => cmp .lt numTypes | 3 => cmp .le numTypes
     | 4 => cmp .unord [.f32] | 5 => cmp .ltt [.f32]
     | _ => none)
  | 0x13 =>
    (match fn with
     | 0 => zeroF [bitsOf w 4 4, bitsOf w 11 5] (some (.mov .mov d a 0 m))
     | 1 => zeroF [bitsOf w 4 4, bitsOf w 11 5] (some (.mov .bcast d a 0 m))
     | 2 => zeroF [bitsOf w 4 4] (some (.mov .rot d a b m))
     | 3 => zeroF [bitsOf w 4 4] (some (.mov .shuf d a b m))
     | 4 => zeroF [bitsOf w 4 4, bitsOf w 11 5] (some (.mov .comp d a 0 m))
     | 5 => zeroF [bitsOf w 4 4, bitsOf w 11 5] (some (.mov .expd d a 0 m))
     | 6 => zeroF [bitsOf w 4 7] (some (.ins d a b))
     | _ => none)
  | 0x14 =>
    zeroF [bitsOf w 11 5]
      ((LaneTy.ofCode (fld w 0 4)).bind fun f => (LaneTy.ofCode (fld w 4 4)).bind fun t =>
        if cvtPair f t then some (.cvt d a m t f) else none)
  | 0x15 =>
    let fs : List VFun := [.exp, .exp2, .log, .log2, .rcp, .sqrt, .rsqrt, .sin, .cos, .tanh, .sigm, .erf]
    zeroF [bitsOf w 4 4, bitsOf w 11 5] ((fs[fn]?).map fun f => .fn f d a m)
  | 0x17 =>
    let fs : List SkOp := [.q, .h, .d]
    zeroF [bitsOf w 21 5] ((fs[fn]?).bind fun f => tyIn w numTypes fun t => .sk f 0 a b m t)
  | 0x19 =>
    let msk := fun (f : VMsk) =>
      zeroF [bitsOf w 4 7, bitsOf w 14 2, bitsOf w 19 2, bitsOf w 24 2] (some (VecOp.msk f (fld w 21 3) (fld w 16 3) (fld w 11 3)))
    (match fn with
     | 0 => msk .and | 1 => msk .or | 2 => msk .xor | 3 => msk .andn
     | 4 => zeroF [bitsOf w 4 12, bitsOf w 19 2, bitsOf w 24 2] (some (.msk .not (fld w 21 3) (fld w 16 3) 0))
     | 7 => zeroF [bitsOf w 4 12, bitsOf w 24 2] (some (.mfromg (fld w 21 3) a))
     | _ => none)
  | _ => none

/-- The A-word of a body: `anop`, or one entry. -/
def bodyA (w : Nat) : Option (List VecOp) := if w = 0 then some [] else (bodyOp w).map fun o => [o]

/-- The C-word of a body: `cnop`, or a vector load or store (R338, R340); a lone form is refused. -/
def bodyC (w : Nat) : Option (List VecOp) :=
  let d : Reg := fld w 20 5
  let a : Reg := fld w 15 5
  let b : Reg := fld w 10 5
  let m : MReg := fld w 2 3
  let st := decide (bitsOf w 9 1 = 1)
  if bitsOf w 31 1 = 1 then none
  else if w = 0x2000000 then some []
  else if bitsOf w 0 2 ≠ 0 then none
  else
    (LaneTy.ofCode (fld w 5 4)).bind fun t =>
      match bitsOf w 25 6 with
      | 0x1E => if nibblesOf t = 1 ∧ b ≠ 0 then none else some [if st then .st d a b m t else .ld d a b m t]
      | 0x1F => if nibblesOf t = 1 then none else some [if st then .stx d a b m t else .ldx d a b m t]
      | _ => none

/-- General registers that an entry captures: its a and b operands. -/
def VecOp.gReads (o : VecOp) : Reg × Reg :=
  match o with
  | .mov f _ a b _ => (if f = .bcast then a else 0, if f = .rot then b else 0)
  | .ins _ a b => (a, b)
  | .mfromg _ a => (a, 0)
  | .sk _ _ _ b _ _ => (0, b)
  | .ld _ a b _ _ | .st _ a b _ _ => (a, b)
  | .ldx _ a _ _ _ | .stx _ a _ _ _ => (a, 0)
  | .ext _ _ b => (0, b)
  | .bin _ _ _ _ _ _ | .un _ _ _ _ _ | .tri _ _ _ _ _ _ | .cmp _ _ _ _ _ _ | .msk _ _ _ _ | .mpop _ _ | .mfrst _ _
  | .mtog _ _ | .cvt _ _ _ _ _ | .fn _ _ _ _ | .red _ _ _ _ _ => (0, 0)

/-- The entries of a body bundle, or a refusal; both words may not write one register (R213). DEDUCED, log entry 37. -/
def bodyBundle (x : Word) : Option (List (Bool × Nat × VecOp)) :=
  let c := x.toNat % 2 ^ 32
  let a := x.toNat / 2 ^ 32
  (bodyC c).bind fun cs => (bodyA a).bind fun as =>
    match cs, as with
    | [p], [q] => if p.vwrite.isSome && p.vwrite == q.vwrite then none else some [(true, c, p), (false, a, q)]
    | _, _ => some (cs.map (fun o => (true, c, o)) ++ as.map fun o => (false, a, o))

/-- What reading a body comes to. -/
inductive BodyRes where
  | ok (s : State) (es : List SeqEntry)
  | wait (s : State)
  | bad

/-- The unit under which a slot asks for the bundles of a body. -/
def bodyUnit (s : State) : Nat := 56 + s.cur.unit % 8

/-- A bundle of a body at another package (R33). -/
def State.askBundle (s : State) (node : Nat) (pc : Word) : Except FaultInfo Word × State :=
  let r := unitReq s s.cur.core (bodyUnit s) s.cur.ctx pc 8 (.load false)
  s.ask r fun s =>
    let q := s.sendFlit node r.ctx 0
      (.request { node := s.mynode, lcore := (s.core r.core).lcore, ctx := r.ctx, va := BitVec.ofNat 64 (pc.toNat % 2 ^ 56), size := 8,
                  op := r.op, ord := .rlx, scope := 0, tag := r.sn, ex := true })
    { q with peers := q.peers ++ [(r.sn, r)] }

/-- The bundles of a body, fetched and decoded one after the other (R334). DEDUCED, log entry 37. -/
def readBody (n : Nat) (s : State) (pc : Word) : BodyRes :=
  match n with
  | 0 => .ok s []
  | k + 1 =>
    let c := checkNow s s.cur.core s.cur.ctx pc 8 needEx false
    let got : Except Bool Word × State :=
      match c.1 with
      | .ok pa space =>
        if space = 1 then
          match c.2.askHost s.cur.core s.cur.ctx pc pa 8 with
          | (.ok bs, s) => (.ok (BitVec.ofNat 64 (bytesToNat bs)), s)
          | (.error f, s) => (.error (f.cause == notYet), s)
        else
          let g := c.2.readGuard pa
          if g.1 then (.ok (readWord g.2.mem pa), g.2) else (.error false, g.2)
      | .peer node =>
        match c.2.askBundle node pc with
        | (.ok x, s) => (.ok x, s)
        | (.error f, s) => (.error (f.cause == notYet), s)
      | _ => (.error false, c.2)
    match got with
    | (.error w, s) => if w then .wait s else .bad
    | (.ok x, s) =>
      match bodyBundle x with
      | none => .bad
      | some es =>
        match readBody k s (pc + 8) with
        | .ok s r =>
          .ok s (es.map (fun e =>
            { word := BitVec.ofNat 32 e.2.1, isC := e.1, op := e.2.2, ga := s.g e.2.2.gReads.1, gb := s.g e.2.2.gReads.2,
              fcr := s.fcr, pc := pc }) ++ r)
        | r => r

/-- The body holds the END of the top entry of the loop stack (R334). -/
def State.bodyHoldsEnd (s : State) (n : Nat) : Bool :=
  decide (0 < s.cur.liveLoops) &&
  (match s.cur.loops with
   | l :: _ => (List.range n).any fun i => decide (l.stop = s.cur.pc + BitVec.ofNat 64 (8 * (i + 1)))
   | [] => false)

/-- A hardware vector loop (R334). -/
def execVloop (_l : Lone) (len : BitVec 5) (a : Reg) (s : State) : Out :=
  if s.units = 0 then raiseO s 0x009 s.cword
  else
    let used := fun (q : State) => (q.dropHost s.cur.core s.cur.ctx).dropAsks s.cur.core (bodyUnit s)
    let bad := raiseO (used s) 0x001 s.cword
    match readBody len.toNat s (s.cur.pc + 8) with
    | .bad => bad
    | .wait q => .next q.stall
    | .ok q es =>
      if 16 < es.length ∨ s.bodyHoldsEnd len.toNat then bad
      else if es.any fun e => s.cur.isPend e.op.gReads.1 || s.cur.isPend e.op.gReads.2 then .next q.stall
      else if es.any fun e => e.op.badIndex (16 * s.units) e.gb then bad
      else
        let q := (used q).jump (s.cur.pc + 8 * (len.setWidth 64 + 1))
        if s.g a = 0 ∨ es.isEmpty then .next q
        else if s.cur.vloop.isSome ∨ s.cur.seqRoom < es.length ∨ es.any (fun e => decide (0xFFF0 ≤ (s.cur.cnt.get e.op.cls).toNat)) then
          .next s.stall
        else
          let p := es.foldl Proc.takeEntry q.cur
          .next (({ q with cur := { p with vloop := some { left := s.g a, len := len.toNat, next := 0, iter := 0, body := es,
                                                           ahead := s.cur.seq.length } } }).kick s.cur.pid)

/-! ### The instructions (R341–R349, R360) -/

/-- An insertion issues: its record must be 64-byte aligned (R351, R360). -/
def skIssue (s : State) (f : SkOp) (a b : Reg) (m : MReg) (t : LaneTy) : Out :=
  vecIssue s false (.sk f 0 a b m t) 0 (s.g b) fun k => aligned s (s.g b) 64 k

/-- Add lanes (R341). -/
def execVadd (d a b : Reg) (m : MReg) (t : LaneTy) (s : State) : Out := vecA s (.bin .add d a b m t)

/-- Subtract lanes (R341). -/
def execVsub (d a b : Reg) (m : MReg) (t : LaneTy) (s : State) : Out := vecA s (.bin .sub d a b m t)

/-- Multiply lanes (R341). -/
def execVmul (d a b : Reg) (m : MReg) (t : LaneTy) (s : State) : Out := vecA s (.bin .mul d a b m t)

/-- Divide lanes (R341). -/
def execVdiv (d a b : Reg) (m : MReg) (t : LaneTy) (s : State) : Out := vecA s (.bin .div d a b m t)

/-- Minimum of lanes (R341). -/
def execVmin (d a b : Reg) (m : MReg) (t : LaneTy) (s : State) : Out := vecA s (.bin .min d a b m t)

/-- Maximum of lanes (R341). -/
def execVmax (d a b : Reg) (m : MReg) (t : LaneTy) (s : State) : Out := vecA s (.bin .max d a b m t)

/-- And of lanes (R341). -/
def execVand (d a b : Reg) (m : MReg) (t : LaneTy) (s : State) : Out := vecA s (.bin .and d a b m t)

/-- Or of lanes (R341). -/
def execVor (d a b : Reg) (m : MReg) (t : LaneTy) (s : State) : Out := vecA s (.bin .or d a b m t)

/-- Exclusive or of lanes (R341). -/
def execVxor (d a b : Reg) (m : MReg) (t : LaneTy) (s : State) : Out := vecA s (.bin .xor d a b m t)

/-- Shift lanes left (R341). -/
def execVsll (d a b : Reg) (m : MReg) (t : LaneTy) (s : State) : Out := vecA s (.bin .sll d a b m t)

/-- Shift lanes right, zero fill (R341). -/
def execVsrl (d a b : Reg) (m : MReg) (t : LaneTy) (s : State) : Out := vecA s (.bin .srl d a b m t)

/-- Shift lanes right, sign fill (R341). -/
def execVsra (d a b : Reg) (m : MReg) (t : LaneTy) (s : State) : Out := vecA s (.bin .sra d a b m t)

/-- Saturating add of lanes (R341). -/
def execVadds (d a b : Reg) (m : MReg) (t : LaneTy) (s : State) : Out := vecA s (.bin .adds d a b m t)

/-- Saturating subtract of lanes (R341). -/
def execVsubs (d a b : Reg) (m : MReg) (t : LaneTy) (s : State) : Out := vecA s (.bin .subs d a b m t)

/-- Absolute value of lanes (R341). -/
def execVabs (d a : Reg) (m : MReg) (t : LaneTy) (s : State) : Out := vecA s (.un .abs d a m t)

/-- Negate lanes (R341). -/
def execVneg (d a : Reg) (m : MReg) (t : LaneTy) (s : State) : Out := vecA s (.un .neg d a m t)

/-- va × vb + vc (R343). -/
def execVfma (d a b c : Reg) (m : MReg) (s : State) : Out := vecA s (.tri .fma d a b c m)

/-- va × vb − vc (R343). -/
def execVfms (d a b c : Reg) (m : MReg) (s : State) : Out := vecA s (.tri .fms d a b c m)

/-- −(va × vb) + vc (R343). -/
def execVfnma (d a b c : Reg) (m : MReg) (s : State) : Out := vecA s (.tri .fnma d a b c m)

/-- −(va × vb) − vc (R343). -/
def execVfnms (d a b c : Reg) (m : MReg) (s : State) : Out := vecA s (.tri .fnms d a b c m)

/-- Integer multiply-add, signed (R343). -/
def execVmadS (d a b c : Reg) (m : MReg) (s : State) : Out := vecA s (.tri .madS d a b c m)

/-- Integer multiply-add, unsigned (R343). -/
def execVmadN (d a b c : Reg) (m : MReg) (s : State) : Out := vecA s (.tri .madN d a b c m)

/-- Lanes equal (R344). -/
def execVeq (d : MReg) (a b : Reg) (m : MReg) (t : LaneTy) (s : State) : Out := vecA s (.cmp .eq d a b m t)

/-- Lanes not equal (R344). -/
def execVne (d : MReg) (a b : Reg) (m : MReg) (t : LaneTy) (s : State) : Out := vecA s (.cmp .ne d a b m t)

/-- Lanes less (R344). -/
def execVlt (d : MReg) (a b : Reg) (m : MReg) (t : LaneTy) (s : State) : Out := vecA s (.cmp .lt d a b m t)

/-- Lanes less or equal (R344). -/
def execVle (d : MReg) (a b : Reg) (m : MReg) (t : LaneTy) (s : State) : Out := vecA s (.cmp .le d a b m t)

/-- Lanes unordered (R344). -/
def execVunord (d : MReg) (a b : Reg) (m : MReg) (t : LaneTy) (s : State) : Out := vecA s (.cmp .unord d a b m t)

/-- Lanes less in the total order (R344). -/
def execVltt (d : MReg) (a b : Reg) (m : MReg) (t : LaneTy) (s : State) : Out := vecA s (.cmp .ltt d a b m t)

/-- And of masks (R345). -/
def execMand (d a b : MReg) (s : State) : Out := vecA s (.msk .and d a b)

/-- Or of masks (R345). -/
def execMor (d a b : MReg) (s : State) : Out := vecA s (.msk .or d a b)

/-- Exclusive or of masks (R345). -/
def execMxor (d a b : MReg) (s : State) : Out := vecA s (.msk .xor d a b)

/-- And with the complement (R345). -/
def execMandn (d a b : MReg) (s : State) : Out := vecA s (.msk .andn d a b)

/-- Complement of a mask (R345). -/
def execMnot (d a : MReg) (s : State) : Out := vecA s (.msk .not d a 0)

/-- Count the active lanes (R345). -/
def execMpop (d : Reg) (a : MReg) (s : State) : Out := vecA s (.mpop d a)

/-- The lowest active lane (R345). -/
def execMfrst (d : Reg) (a : MReg) (s : State) : Out := vecA s (.mfrst d a)

/-- A mask from a general register (R345). -/
def execMfromg (d : MReg) (a : Reg) (s : State) : Out := vecAg s (.mfromg d a) a 0

/-- A general register from a mask (R345). -/
def execMtog (d : Reg) (a : MReg) (s : State) : Out := vecA s (.mtog d a)

/-- Move lanes (R346). -/
def execVmov (d a : Reg) (m : MReg) (s : State) : Out := vecA s (.mov .mov d a 0 m)

/-- Broadcast a general register (R346). -/
def execVbcast (d a : Reg) (m : MReg) (s : State) : Out := vecAg s (.mov .bcast d a 0 m) a 0

/-- Rotate lanes (R346). -/
def execVrot (d a b : Reg) (m : MReg) (s : State) : Out := vecAg s (.mov .rot d a b m) 0 b

/-- Shuffle lanes (R346). -/
def execVshuf (d a b : Reg) (m : MReg) (s : State) : Out := vecA s (.mov .shuf d a b m)

/-- Compress the active lanes (R346). -/
def execVcomp (d a : Reg) (m : MReg) (s : State) : Out := vecA s (.mov .comp d a 0 m)

/-- Expand into the active lanes (R346). -/
def execVexpd (d a : Reg) (m : MReg) (s : State) : Out := vecA s (.mov .expd d a 0 m)

/-- Insert one lane (R346). -/
def execVins (d a b : Reg) (s : State) : Out := vecAg s (.ins d a b) a b

/-- Extract one lane (R346). -/
def execVext (d a b : Reg) (s : State) : Out := vecAg s (.ext d a b) 0 b

/-- Convert lanes of type f to type t (R347). -/
def execVcvt (d a : Reg) (m : MReg) (t f : LaneTy) (s : State) : Out := vecA s (.cvt d a m t f)

/-- Special function exp of lanes (R348). -/
def execVexp (d a : Reg) (m : MReg) (s : State) : Out := vecA s (.fn .exp d a m)

/-- Special function exp2 of lanes (R348). -/
def execVexp2 (d a : Reg) (m : MReg) (s : State) : Out := vecA s (.fn .exp2 d a m)

/-- Special function log of lanes (R348). -/
def execVlog (d a : Reg) (m : MReg) (s : State) : Out := vecA s (.fn .log d a m)

/-- Special function log2 of lanes (R348). -/
def execVlog2 (d a : Reg) (m : MReg) (s : State) : Out := vecA s (.fn .log2 d a m)

/-- Special function rcp of lanes (R348). -/
def execVrcp (d a : Reg) (m : MReg) (s : State) : Out := vecA s (.fn .rcp d a m)

/-- Special function sqrt of lanes (R348). -/
def execVsqrt (d a : Reg) (m : MReg) (s : State) : Out := vecA s (.fn .sqrt d a m)

/-- Special function rsqrt of lanes (R348). -/
def execVrsqrt (d a : Reg) (m : MReg) (s : State) : Out := vecA s (.fn .rsqrt d a m)

/-- Special function sin of lanes (R348). -/
def execVsin (d a : Reg) (m : MReg) (s : State) : Out := vecA s (.fn .sin d a m)

/-- Special function cos of lanes (R348). -/
def execVcos (d a : Reg) (m : MReg) (s : State) : Out := vecA s (.fn .cos d a m)

/-- Special function tanh of lanes (R348). -/
def execVtanh (d a : Reg) (m : MReg) (s : State) : Out := vecA s (.fn .tanh d a m)

/-- Special function sigm of lanes (R348). -/
def execVsigm (d a : Reg) (m : MReg) (s : State) : Out := vecA s (.fn .sigm d a m)

/-- Special function erf of lanes (R348). -/
def execVerf (d a : Reg) (m : MReg) (s : State) : Out := vecA s (.fn .erf d a m)

/-- Sum over the active lanes (R349). -/
def execVrsum (d a : Reg) (m : MReg) (t : LaneTy) (s : State) : Out := vecA s (.red .sum d a m t)

/-- Maximum over the active lanes (R349). -/
def execVrmax (d a : Reg) (m : MReg) (t : LaneTy) (s : State) : Out := vecA s (.red .max d a m t)

/-- Minimum over the active lanes (R349). -/
def execVrmin (d a : Reg) (m : MReg) (t : LaneTy) (s : State) : Out := vecA s (.red .min d a m t)

/-- Total-order maximum over the active lanes (R349). -/
def execVrmaxt (d a : Reg) (m : MReg) (t : LaneTy) (s : State) : Out := vecA s (.red .maxt d a m t)

/-- Total-order minimum over the active lanes (R349). -/
def execVrmint (d a : Reg) (m : MReg) (t : LaneTy) (s : State) : Out := vecA s (.red .mint d a m t)

/-- And over the active lanes (R349). -/
def execVrand (d a : Reg) (m : MReg) (t : LaneTy) (s : State) : Out := vecA s (.red .and d a m t)

/-- Or over the active lanes (R349). -/
def execVror (d a : Reg) (m : MReg) (t : LaneTy) (s : State) : Out := vecA s (.red .or d a m t)

/-- Exclusive or over the active lanes (R349). -/
def execVrxor (d a : Reg) (m : MReg) (t : LaneTy) (s : State) : Out := vecA s (.red .xor d a m t)

/-- Insert lanes into a quantile sketch (R360). -/
def execVskq (a b : Reg) (m : MReg) (t : LaneTy) (s : State) : Out := skIssue s .q a b m t

/-- Insert lanes into a heavy-hitter summary (R360). -/
def execVskh (a b : Reg) (m : MReg) (t : LaneTy) (s : State) : Out := skIssue s .h a b m t

/-- Insert lanes into a distinct-count summary (R360). -/
def execVskd (a b : Reg) (m : MReg) (t : LaneTy) (s : State) : Out := skIssue s .d a b m t

end Sys2Proof.Machine
end

