-- ==== Sys2Proof/Machine/Commands.lean ====
section
/-! DEFINITION. What matrix and engine commands share (spec/15 R370–R386): the descriptor read at issue, the queues that
take them, beats that reach another package, and the flags that a `waitc` merges. -/

namespace Sys2Proof.Machine

/-! ### Accesses of units to other packages (R33, R411) -/

/-- The same at another package. -/
def State.askNode (s : State) (node core unit : Nat) (c : Byte) (va : Word) (size : Nat) (op : MemOp)
    (ord : MemOrder := .rlx) : Except FaultInfo Word × State :=
  let r := { unitReq s core unit c va size op with ord := ord, scope := if ord = .rlx then 0 else 6 }
  s.ask r fun s =>
    { (s.sendFlit node c 0
        (.request { node := s.mynode, lcore := (s.core core).lcore, ctx := c, va := BitVec.ofNat 64 (va.toNat % 2 ^ 56), size := size, op := op,
                    ord := ord, scope := r.scope, tag := r.sn })) with peers := s.peers ++ [(r.sn, r)] }

/-- A register of space 3 as a load of the process. -/
def State.askRegister (s : State) (core unit : Nat) (c : Byte) (va : Word) (pa : Nat) : Except FaultInfo Word × State :=
  let r := { unitReq s core unit c va 8 (.load false) with pa := pa, space := 3 }
  s.ask r fun s => s.push (.ownerAccess r)

/-- The parts of a range, each within an 8-byte word: offset and length. -/
def wordPieces (va n : Nat) : List (Nat × Nat) :=
  (List.range ((va % 8 + n + 7) / 8)).map fun i =>
    let lo := max va (va / 8 * 8 + 8 * i)
    (lo - va, min (va + n) (va / 8 * 8 + 8 * i + 8) - lo)

/-- Bytes read at another package, part by part. -/
def peerRead (s : State) (node core unit : Nat) (c : Byte) (va : Word) (ps : List (Nat × Nat)) :
    Except FaultInfo (List Byte) × State :=
  match ps with
  | [] => (.ok [], s)
  | p :: rest =>
    match s.askNode node core unit c (va + BitVec.ofNat 64 p.1) p.2 (.load false) with
    | (.error f, s) => (.error f, s)
    | (.ok x, s) =>
      match peerRead s node core unit c va rest with
      | (.ok bs, s) => (.ok (natToBytes p.2 x.toNat ++ bs), s)
      | e => e

/-- Bytes written at another package, part by part; `half` says that only the low nibble of the last byte counts. -/
def peerWrite (s : State) (node core unit : Nat) (c : Byte) (va : Word) (bs : List Byte) (half : Bool)
    (ps : List (Nat × Nat)) : Except FaultInfo Unit × State :=
  match ps with
  | [] => (.ok (), s)
  | p :: rest =>
    let x := bytesToNat ((bs.drop p.1).take p.2)
    let w := va + BitVec.ofNat 64 p.1
    let o := w.toNat % 8
    let op : MemOp :=
      if half && rest.isEmpty then
        .sub (BitVec.ofNat 16 ((2 ^ (2 * p.2 - 1) - 1) * 2 ^ (2 * o))) (BitVec.ofNat 64 (x * 2 ^ (8 * o)))
      else .store (BitVec.ofNat 64 x)
    let r := if half && rest.isEmpty then s.askNode node core unit c (w - BitVec.ofNat 64 o) 8 op
      else s.askNode node core unit c w p.2 op
    match r with
    | (.error f, s) => (.error f, s)
    | (.ok _, s) => peerWrite s node core unit c va bs half rest

/-- The package that an address leads to, if another one. -/
def State.nodeOf (s : State) (core : Nat) (c : Byte) (va : Word) (n : Need) : Option Nat :=
  match checkAccess s core c va 1 n false with
  | .peer node => some node
  | _ => none

/-- A beat that an engine or an array reads (R44). -/
def engineRead (s : State) (core unit : Nat) (c : Byte) (va : Word) (n : Nat) : Except FaultInfo (List Byte) × State :=
  match s.nodeOf core c va needRd with
  | some node => peerRead s node core unit c va (wordPieces va.toNat n)
  | none => readBeat s core c va n

/-- Bytes of a range that may reach into a second and a third 64-byte unit. -/
def engineSpan (fuel : Nat) (s : State) (core unit : Nat) (c : Byte) (va : Word) (n : Nat) :
    Except FaultInfo (List Byte) × State :=
  match fuel with
  | 0 => (.ok [], s)
  | f + 1 =>
    if n = 0 then (.ok [], s)
    else
      let k := min n (64 - va.toNat % 64)
      match engineRead s core unit c va k with
      | (.error e, s) => (.error e, s)
      | (.ok bs, s) =>
        match engineSpan f s core unit c (va + BitVec.ofNat 64 k) (n - k) with
        | (.ok r, s) => (.ok (bs ++ r), s)
        | e => e

/-- The byte that a beat would overwrite, when it is in this package. -/
def oldByte (s : State) (core : Nat) (c : Byte) (va : Word) : Nat :=
  match (checkNow s core c va 1 needWr false).1 with
  | .ok pa space => if space = 1 then 0 else (byteAt s.mem pa).toNat
  | _ => 0

/-- A beat that an engine or an array writes, as plain writes (R44, R110); `half` says that only the low nibble of the
last byte counts. -/
def engineWrite (s : State) (core unit : Nat) (c : Byte) (va : Word) (bs : List Byte) (half : Bool) :
    Except FaultInfo Unit × State :=
  match s.nodeOf core c va needWr with
  | some node => peerWrite s node core unit c va bs half (wordPieces va.toNat bs.length)
  | none =>
    let k := bs.length - 1
    let last := (bs.getD k 0).toNat % 16 + oldByte s core c (va + BitVec.ofNat 64 k) / 16 * 16
    writeBeat s core c va (if half then bs.take k ++ [BitVec.ofNat 8 last] else bs) 0

/-- The space of a unit's address is 0 or 2. -/
def memSpace (core : Nat) (va : Word) : Bool :=
  let sp := (spaceOf core va).1
  sp == 0 || sp == 2

/-! ### The descriptor (R376, R378, R380, R382) -/

/-- The unit under which a slot asks for the words of a descriptor. -/
def descUnit (s : State) : Nat := 48 + s.cur.unit % 8

/-- A word of a descriptor, as an 8-byte load of the process. -/
def descWord (s : State) (va : Word) : Except FaultInfo Word × State :=
  let k := checkNow s s.cur.core s.cur.ctx va 8 needRd true
  match k.1 with
  | .peer node => k.2.askNode node s.cur.core (descUnit s) s.cur.ctx va 8 (.load false)
  | .ok pa space =>
    if space = 3 then k.2.askRegister s.cur.core (descUnit s) s.cur.ctx va pa
    else if space ≠ 1 && k.2.inFlightTo s.cur.agent (pa / 64) then (.error { cause := notYet, tval := va, words := [] }, k.2)
    else
      match readBeat k.2 s.cur.core s.cur.ctx va 8 with
      | (.ok bs, s) => (.ok (BitVec.ofNat 64 (bytesToNat bs)), s)
      | (.error f, s) => (.error f, s)
  | _ =>
    match readBeat k.2 s.cur.core s.cur.ctx va 8 with
    | (.ok bs, s) => (.ok (BitVec.ofNat 64 (bytesToNat bs)), s)
    | (.error f, s) => (.error f, s)

/-- The words of a descriptor in ascending address. -/
def descWords (s : State) (va : Word) (n : Nat) : Except FaultInfo (List Word) × State :=
  match n with
  | 0 => (.ok [], s)
  | k + 1 =>
    match descWord s va with
    | (.error f, s) => (.error f, s)
    | (.ok w, s) =>
      match descWords s (va + 8) k with
      | (.ok ws, s) => (.ok (w :: ws), s)
      | e => e

/-- The words of a descriptor as a chunk reads them speculatively; the chunk ends where they cannot be read so (R150). -/
def specWords (s : State) (va : Word) (n : Nat) : Except State (List Word × State) :=
  match n with
  | 0 => .ok ([], s)
  | k + 1 =>
    match checkNow s s.cur.core s.cur.ctx va 8 needRd false, s.cur.chunk with
    | (.ok pa space, s), some c =>
      if space ≠ 0 ∧ space ≠ 2 ∨ s.isPoison pa ∨ SMap.get 0 s.badRead (poisonKey pa) ≠ 0 then .error s.endChunk
      else
        match c.noteRead s.clk (pa / 64) with
        | none => .error s.fullChunk
        | some c =>
          match specWords { s with cur := { s.cur with chunk := some c } } (va + 8) k with
          | .ok (ws, q) => .ok (c.view s pa :: ws, q)
          | e => e
    | _, _ => .error s.endChunk

/-- The slot has used the words that it waited for. -/
def State.dropWords (s : State) : State := (s.dropHost s.cur.core s.cur.ctx).dropAsks s.cur.core (descUnit s)

/-- Words of a descriptor that more words follow: the slot waits for them, and a fault of a read is raised as for a load
(R376, R382). What came from elsewhere stands until `dropWords`. -/
def withMore (s : State) (va : Word) (n : Nat) (k : State → List Word → Out) : Out :=
  if s.speculating then
    match specWords s va n with
    | .ok (ws, s) => k s ws
    | .error s => .next s
  else if !s.cur.mayAccess || !s.scoreOk va (8 * n) false then .next s.stall
  else
    match descWords s va n with
    | (.ok ws, s) => k s ws
    | (.error f, s) =>
      if f.cause = notYet then .next s.stall else .next (s.dropWords.raiseAfter f.cause f.tval f.words none)

/-- A descriptor of `n` words, or the last words of one. -/
def withWords (s : State) (va : Word) (n : Nat) (k : State → List Word → Out) : Out :=
  withMore s va n fun s ws => k s.dropWords ws

/-! ### Queueing (R71–R73, R150, R287, R370, R382) -/

/-- A command finds no place: its slot stalls (R73), or a chunk whose own unsent commands fill the place ends before it, since
they are sent at its commit only. DESIGN CHOICE, log entry 88. -/
def noRoom (s : State) : Out :=
  match s.cur.chunk with
  | some c => .next (if s.speculating && !c.cmds.isEmpty then s.fullChunk else s.stall)
  | none => .next s.stall

/-- Commands of a chunk that wait for its commit. -/
def State.heldCmds (s : State) : List Held :=
  match s.cur.chunk with
  | some c => if c.granted then [] else c.cmds
  | none => []

/-- An engine queue of a core (R382). -/
def State.engine (s : State) (q : Nat) : EngQueue := SMap.get EngQueue.empty s.engines q
def State.setEngine (s : State) (q : Nat) (x : EngQueue) : State := { s with engines := SMap.put EngQueue.empty s.engines q x }

/-- A post takes its number and enters the collective engine's queue (R392, R422). -/
def State.enterPost (s : State) (p : Post) : State :=
  let k := 2 ^ 20 * p.rank + p.cid
  let n := SMap.get 0 s.postNum k + 1
  let p := { p with num := n }
  let w := fun i => p.words.getD i 0
  let sig := [BitVec.ofNat 64 (field (w 7) 32 32 * 2 ^ 32 + field (w 2) 0 16 * 2 ^ 16 + field (w 1) 0 16), w 3, w 4,
    BitVec.ofNat 64 (field (w 7) 8 4 * 16 + field (w 7) 0 4)]
  ({ s with postNum := SMap.put 0 s.postNum k n, posts := s.posts ++ [p] }).push
    (.collAnnounce { node := s.mynode, cid := p.cid, num := n, rank := p.rank, sig := sig, comm := p.comm })

/-- A command joins its queue. One that a chunk kept and that finds the queue frozen at the commit raises MASTER_FROZEN in its
process, which owes it (R56). -/
def State.sendHeld (s : State) (h : Held) : State :=
  match h with
  | .mat core i => s.queueMat core i
  | .post p => s.enterPost p
  | .eng q c =>
    let x := s.engine q
    if x.frozen then
      s.faultProc c.pid { cause := 0x180, tval := BitVec.ofNat 64 q, words := [] }
        { atIssue := false, pc := c.pc, req := none, redo := none, writes := [], cls := .copies, sn := c.cmd, entry := false,
          again := none, cmd := some h } false
    else
      let s := s.setEngine q { x with cmds := x.cmds ++ [c] }
      if (s.agenda ++ s.blocked).contains (.engineBeat q) then s else s.push (.engineBeat q)

/-- A command is sent, or kept by the chunk until its commit (R150, R154). -/
def State.sendCmd (s : State) (h : Held) : State :=
  if s.speculating then { s with cur := { s.cur with chunk := s.cur.chunk.map fun c => { c with cmds := c.cmds ++ [h] } } }
  else s.sendHeld h

/-- A command takes its counter and its scoreboard entries and is sent; `full` says that its queue has no place. -/
def enqueueCmd (s : State) (cls : CntClass) (full : Bool) (ranges : List (Word × Nat × Bool)) (h : Held) : Out :=
  if s.cur.cnt.full cls || full then noRoom s
  else
    match s.takeScore ranges cls (s.accs + 1) with
    | none => noRoom s
    | some q => .next (({ q with accs := q.accs + 1, cur := { q.cur with cnt := q.cur.cnt.up cls } }).sendCmd h)

/-! ### Stream items of helpers (R316) -/

/-- The unit under which a helper asks other packages. -/
def helperUnit (h : Nat) : Nat := 68 + h % 2

/-- A beat of a stream failed: it waits, or it stops the helper. -/
def itemFault (s : State) (helper stream : Nat) (f : FaultInfo) : State :=
  if f.cause = notYet then s.later (.streamItem helper stream)
  else (s.dropAsks (helper / 2) (helperUnit helper)).faultHelper helper f (s.proc (helperKey helper)).pc

/-- A helper stream moves one item, once its queue has room or data (R316): a loader reads it whole, a storer takes it from
its queue and writes it unit by unit. A failed beat stops the helper. DEDUCED, log entry 22. -/
def execStreamItem (helper stream : Nat) (s : State) : Out :=
  let x := (s.helper helper).stream stream
  let core := helper / 2
  let ctx := (s.proc (helperKey helper)).ctx
  let n := 64 * field (x.desc.getD 1 0) 0 5
  let va := itemAddr x.desc x.idx
  let q := s.queueOf core stream
  if (s.helper helper).run ≠ 1 ∨ x.left = 0 ∨ (s.helper helper).active ≠ some stream then .next s
  else if s.itemBarred helper ctx va n (if helper % 2 = 0 then needRd else needWr) then .next (s.later (.streamItem helper stream))
  else if helper % 2 = 0 then
    if streamRoom < q.length + n then .next ((s.setStream helper stream { x with run := 2 }).later (.streamItem helper stream))
    else
      match engineSpan 17 s core (helperUnit helper) ctx va n with
      | (.ok bs, s) =>
        .next (itemDone (((s.setQueue core stream (q ++ bs)).dropHost core ctx).dropAsks core (helperUnit helper)) helper stream)
      | (.error f, s) => .next (itemFault s helper stream f)
  else
    let bs := if x.part.isEmpty then q.take n else x.part
    if x.part.isEmpty && decide (q.length < n) then
      .next ((s.setStream helper stream { x with run := 2 }).later (.streamItem helper stream))
    else
      let s := if x.part.isEmpty then s.setQueue core stream (q.drop n) else s
      let s := s.setStream helper stream { x with part := bs, run := 1 }
      match engineWrite s core (helperUnit helper) ctx (va + BitVec.ofNat 64 (n - bs.length)) (bs.take 64) false with
      | (.ok (), s) =>
        let s := s.dropAsks core (helperUnit helper)
        .next (if bs.length ≤ 64 then itemDone s helper stream
          else (s.setStream helper stream { x with part := bs.drop 64, run := 1 }).push (.streamItem helper stream))
      | (.error f, s) => .next (itemFault s helper stream f)

end Sys2Proof.Machine
end

