-- ==== Sys2Proof/Machine/Fabric.lean ====
section
/-! DEFINITION. The port fabric units (spec/15 R395–R397): the meanings of their words, and the programs that `fgload`
loads. A unit is one of 64; unit `u` stands at link `u / 4`. -/

namespace Sys2Proof.Machine

/-! ### Units and their registers (R395) -/

def State.unitX (s : State) (u : Nat) : FabUnit := SMap.get FabUnit.empty s.fabric u
def State.setUnitX (s : State) (u : Nat) (f : FabUnit) : State := { s with fabric := SMap.put FabUnit.empty s.fabric u f }

/-- The unit that executes changes. -/
def State.updX (s : State) (f : FabUnit → FabUnit) : State := s.setUnitX s.curX (f (s.unitX s.curX))

/-- A register of the executing unit. -/
def State.x (s : State) (r : XReg) : BitVec 512 := (s.unitX s.curX).x[r.toNat]'r.isLt

/-- A register written, and the flags that its value raised. -/
def State.setX (s : State) (r : XReg) (v : BitVec 512) (fl : Flags) : State :=
  s.updX fun f => { f with x := f.x.set r.toNat v r.isLt, flags := f.flags ||| fl }

/-- A 64-byte register as its lanes of `w` bits, the lowest first. -/
def xLanes (w : Nat) (v : BitVec 512) : List (BitVec w) := (List.range (512 / w)).map fun i => v.extractLsb' (w * i) w

/-- Lanes of `w` bits as a register. -/
def ofLanes (w : Nat) (ls : List (BitVec w)) : BitVec 512 :=
  BitVec.ofNat 512 (ls.foldr (fun l n => l.toNat + 2 ^ w * n) 0)

/-- An operation of two registers lane by lane, and the flags of all lanes. -/
def xZip (op : W32 → W32 → W32 × Flags) (a b : BitVec 512) : BitVec 512 × Flags :=
  let rs := (List.zip (xLanes 32 a) (xLanes 32 b)).map fun p => op p.1 p.2
  (ofLanes 32 (rs.map (·.1)), rs.foldl (fun f r => f ||| r.2) 0)

/-- The lane types of `xadd`, `xmax` and `xmin`: 0 f32, 1 s32, 2 n32 (R396). -/
def xType (t : BitVec 4) : LaneTy := if t = 0 then .f32 else if t = 1 then .s32 else .n32

/-- A lane-wise word: f32 under RNE with exact subnormals, integers as `binLane` has them (R242, R251, R395). -/
def xLane (f : VBin) (s : State) (d a b : XReg) (t : BitVec 4) : Out :=
  let r := xZip (binLane f (xType t) Mode.rne) (s.x a) (s.x b)
  .next (s.setX d r.1 r.2)

/-! ### The words (R396) -/

/-- The pass ends; the next word is word 0. -/
def execXend (s : State) : Out := .next { s with xfer := .jump 0 }

/-- Lane-wise addition. -/
def execXadd (d a b : XReg) (t : BitVec 4) (s : State) : Out := xLane .add s d a b t

/-- Lane-wise larger. -/
def execXmax (d a b : XReg) (t : BitVec 4) (s : State) : Out := xLane .max s d a b t

/-- Lane-wise smaller. -/
def execXmin (d a b : XReg) (t : BitVec 4) (s : State) : Out := xLane .min s d a b t

/-- The `i`th register of the group that begins at `r`. -/
def xGroup (r : XReg) (i : Nat) : XReg := r + BitVec.ofNat 4 i

/-- A group of three registers as one number of 1,536 bits. -/
def State.xGroupVal (s : State) (r : XReg) : Nat :=
  (s.x r).toNat + 2 ^ 512 * (s.x (xGroup r 1)).toNat + 2 ^ 1024 * (s.x (xGroup r 2)).toNat

/-- The larger of each pair of the lowest `n` six-bit fields. -/
def maxFields (n a b : Nat) : Nat :=
  match n with
  | 0 => 0
  | k + 1 => max (a % 64) (b % 64) + 64 * maxFields k (a / 64) (b / 64)

/-- The maximum of each of 256 six-bit fields; the sources are read before the group is written. -/
def execXmx6 (d a b : XReg) (s : State) : Out :=
  let v := maxFields 256 (s.xGroupVal a) (s.xGroupVal b)
  let part := fun (i : Nat) => BitVec.ofNat 512 (v / 2 ^ (512 * i))
  .next (((s.setX d (part 0) 0).setX (xGroup d 1) (part 1) 0).setX (xGroup d 2) (part 2) 0)

/-- The f32 lanes of two registers rounded to bf16 halfwords. -/
def execXpack (d a b : XReg) (s : State) : Out :=
  let rs := (xLanes 32 (s.x a) ++ xLanes 32 (s.x b)).map fun l => convF fmtF32 fmtBf16 Mode.rne false l.toNat
  .next (s.setX d (ofLanes 16 (rs.map fun r => BitVec.ofNat 16 r.bits)) (rs.foldl (fun f r => f ||| r.flags) 0))

/-- Sixteen bf16 halfwords made f32. -/
def execXunpk (d a : XReg) (h : BitVec 1) (s : State) : Out :=
  let rs := (((xLanes 16 (s.x a)).drop (16 * h.toNat)).take 16).map fun l => convF fmtBf16 fmtF32 Mode.rne false l.toNat
  .next (s.setX d (ofLanes 32 (rs.map fun r => BitVec.ofNat 32 r.bits)) (rs.foldl (fun f r => f ||| r.flags) 0))

/-- A register copied. -/
def execXmov (d a : XReg) (s : State) : Out := .next (s.setX d (s.x a) 0)

/-- The next flit of an input; the unit waits while there is none. -/
def execXrecv (d : XReg) (i : BitVec 1) (s : State) : Out :=
  let f := s.unitX s.curX
  match (if i = 0 then f.in0 else f.in1) with
  | [] => .next (s.updX fun f => { f with waiting := true })
  | v :: rest =>
    .next ((s.updX fun f => if i = 0 then { f with in0 := rest } else { f with in1 := rest }).setX d v 0)

/-- The units of a communicator's graph at a link, in ascending order (R427). -/
def State.graphAt (s : State) (cid link : Nat) : List Nat :=
  (List.range 4).map (4 * link + ·) |>.filter fun u => decide ((s.unitX u).cid = cid) && !(s.unitX u).store.isEmpty

/-- A unit sends a flit on output 0: it reaches input 0 of the next listed unit, or stands as what the last one
forwards (R427). -/
def State.forward (s : State) (u : Nat) (v : BitVec 512) : State :=
  match (s.graphAt (s.unitX u).cid (u / 4)).find? fun w => decide (u < w) with
  | some w => s.setUnitX w { s.unitX w with in0 := (s.unitX w).in0 ++ [v], waiting := false }
  | none => s.setUnitX u { s.unitX u with out0 := (s.unitX u).out0 ++ [v] }

/-- A flit sent: 0 forward, 1 deliver to the collective engine, 2 both. -/
def execXemit (a : XReg) (o : BitVec 2) (s : State) : Out :=
  let v := s.x a
  let s := if o = 1 then s else s.forward s.curX v
  .next (if o = 0 then s else s.updX fun f => { f with out1 := f.out1 ++ [v] })

/-! ### Loading a graph (R397) -/

/-- A word that a program may hold: a known op, its zero fields zero, its imm within its row, `xmx6` groups within the
registers (R396, R397). -/
def xWordOk (w : W32) : Bool :=
  let f := fun (lo n : Nat) => w.toNat / 2 ^ lo % 2 ^ n
  match f 26 6 with
  | 0x00 => f 0 26 == 0
  | 0x01 | 0x02 | 0x03 => f 4 10 == 0 && decide (f 0 4 ≤ 2)
  | 0x04 => f 0 14 == 0 && decide (f 22 4 ≤ 13) && decide (f 18 4 ≤ 13) && decide (f 14 4 ≤ 13)
  | 0x05 => f 0 14 == 0
  | 0x06 => f 4 14 == 0 && decide (f 0 4 ≤ 1)
  | 0x07 => f 0 18 == 0
  | 0x08 => f 4 18 == 0 && decide (f 0 4 ≤ 1)
  | 0x09 => f 4 14 == 0 && f 22 4 == 0 && decide (f 0 4 ≤ 2)
  | _ => false

/-- The reserved fields of a graph descriptor are zero and it names 1 to 64 units (R397). -/
def graphDescOk (ws : List Word) : Bool :=
  let w := ws.getD 0 0
  field w 44 20 == 0 && field w 7 25 == 0 && decide (1 ≤ field w 0 7) && decide (field w 0 7 ≤ 64)

/-- An entry of UTAB: its unit, length and program address, as R397 requires. -/
def graphEntryOk (w0 w1 : Word) : Bool :=
  field w0 16 48 == 0 && field w0 6 2 == 0 && decide (1 ≤ field w0 8 8) && decide (field w0 8 8 ≤ 64) && w1.toNat % 4 == 0

/-- FORMAT_RESERVED of a graph: the refused word; the entry at +32 and the word index at +40 (DEDUCED, log entry 34). -/
def graphFault (w : Word) (entry word : Nat) : FaultInfo :=
  { cause := 0x0A0, tval := w, words := [BitVec.ofNat 64 entry, BitVec.ofNat 64 word] }

/-- Bytes as little-endian words of 32 bits. -/
def wordsOf32 (bs : List Byte) : List W32 :=
  (List.range (bs.length / 4)).map fun i => BitVec.ofNat 32 (bytesToNat ((bs.drop (4 * i)).take 4))

/-- Beats of 64 bytes that a range takes. -/
def rangeBeats (va : Word) (n : Nat) : Nat := (va.toNat % 64 + n + 63) / 64

/-- The entries of UTAB read and checked with their programs, from entry `i` on: unit and program of each, and the beats
that the reads took. -/
def graphEntries (s : State) (unit : Nat) (c : EngCmd) (tab : List Byte) (i n : Nat) (seen : List Nat) :
    Except FaultInfo (List (Nat × List W32) × Nat) × State :=
  match n with
  | 0 => (.ok ([], 0), s)
  | k + 1 =>
    let w0 := BitVec.ofNat 64 (bytesToNat ((tab.drop (16 * i)).take 8))
    let w1 := BitVec.ofNat 64 (bytesToNat ((tab.drop (16 * i + 8)).take 8))
    let u := field w0 0 6
    let len := field w0 8 8
    if !graphEntryOk w0 w1 || seen.contains u || !memSpace c.core w1 then (.error (graphFault w0 i 0), s)
    else
      match engineSpan 6 s collSeat unit c.ctx w1 (4 * len) with
      | (.error f, s) => (.error f, s)
      | (.ok bs, s) =>
        let prog := wordsOf32 bs
        match prog.findIdx? fun w => !xWordOk w with
        | some j => (.error (graphFault (ofW32 (prog.getD j 0)) i j), s)
        | none =>
          match graphEntries s unit c tab (i + 1) k (u :: seen) with
          | (.ok (r, b), s) => (.ok ((u, prog) :: r, b + rangeBeats w1 (4 * len)), s)
          | e => e

/-- The unit serves a collective that is in flight (R397). -/
def State.unitBusy (s : State) (u : Nat) : Bool :=
  let f := s.unitX u
  !f.store.isEmpty && s.colls.any fun c => decide (c.cid = f.cid)

/-- A unit takes a program: it starts at word 0 with its inputs empty; its registers keep their values (R395). -/
def State.takeProgram (s : State) (u cid : Nat) (prog : List W32) : State :=
  s.setUnitX u { s.unitX u with store := prog, pc := 0, cid := cid, in0 := [], in1 := [], out0 := [], out1 := [],
                                pending := none, waiting := false }

/-- The program of a unit changes now, or when the collective that it serves ends. -/
def State.giveProgram (s : State) (u cid : Nat) (prog : List W32) : State :=
  if s.unitBusy u then s.setUnitX u { s.unitX u with pending := some (cid, prog) } else s.takeProgram u cid prog

/-- A graph replaces the one that its communicator had: units that it does not name leave it (R397, R427). DEDUCED, log entry 34. -/
def State.loadGraph (s : State) (cid : Nat) (us : List (Nat × List W32)) : State :=
  let s := (List.range 64).foldl (fun s u =>
    let f := s.unitX u
    if decide (f.cid = cid) && !f.store.isEmpty && !(us.any fun e => e.1 = u) then s.giveProgram u cid [] else s) s
  us.foldl (fun s e => s.giveProgram e.1 cid e.2) s

/-- Units whose collective has ended take the programs that waited (R397). -/
def State.freshPrograms (s : State) : State :=
  (List.range 64).foldl (fun s u =>
    match (s.unitX u).pending with
    | some (cid, prog) => if s.unitBusy u then s else s.takeProgram u cid prog
    | none => s) s

/-- The table and the programs of an `fgload` are read and checked, and every unit changes, or none (R397). -/
def graphBeat (s : State) (unit : Nat) (c : EngCmd) : Except FaultInfo EngCmd × State :=
  let n := field (c.words.getD 0 0) 0 7
  let tab := c.words.getD 1 0
  match engineSpan 18 s collSeat unit c.ctx tab (16 * n) with
  | (.error f, s) => (.error f, s)
  | (.ok bs, s) =>
    match graphEntries s unit c bs 0 n [] with
    | (.error f, s) => (.error f, s)
    | (.ok (us, b), s) =>
      (.ok { c with pos := 1, beats := b + rangeBeats tab (16 * n) }, s.loadGraph (field (c.words.getD 0 0) 32 12) us)

end Sys2Proof.Machine
end

