-- ==== Sys2Proof/Machine/Matrix.lean ====
section
/-! DEFINITION. The matrix array (spec/15 R368–R381, spec/09 R208): leases, format contexts, the array commands at issue
and as the array executes them. A lid load and a drain move one beat in a step; every other command executes in one
step. -/

namespace Sys2Proof.Machine

/-! ### Formats (R368, R369, R380) -/

/-- Classes of R368. -/
inductive MatClass where
  | fp | bf | int | cplx
  deriving DecidableEq, Repr

/-- The class of a pair of operand types, if R368 lists it. -/
def matClass (a b : LaneTy) : Option MatClass :=
  let fp := fun (t : LaneTy) => t == .e4m3 || t == .e2m1
  let int := fun (t : LaneTy) => t == .s8 || t == .n8 || t == .s4 || t == .n4
  if fp a && fp b then some .fp
  else if a = .bf16 && b = .bf16 then some .bf
  else if int a && int b then some .int
  else if (a = .c8 && b = .c8) || (a = .c4 && b = .c4) then some .cplx
  else none

/-- A destination type that R380 lists for a class. -/
def MatClass.drains (c : MatClass) (t : LaneTy) : Bool :=
  match c with
  | .fp | .bf => t == .f32 || t == .bf16 || t == .e4m3 || t == .e2m1
  | .int => t == .s32 || t == .s8 || t == .n8 || t == .s4 || t == .n4 || t == .f32
  | .cplx => t == .s32 || t == .c8 || t == .c4

/-- An accepted format word (R369). -/
structure MatFmt where
  cls : MatClass
  a : LaneTy
  b : LaneTy
  d : LaneTy
  scaled : Bool
  deriving DecidableEq, Repr

/-- A format word, if it is accepted; reserved bits read as zero (R369). -/
def matFmt (w : Word) : Option MatFmt :=
  match LaneTy.ofCode (BitVec.ofNat 4 (field w 16 4)), LaneTy.ofCode (BitVec.ofNat 4 (field w 12 4)),
        LaneTy.ofCode (BitVec.ofNat 4 (field w 8 4)) with
  | some a, some b, some d =>
    match matClass a b with
    | some c => if c.drains d && (c == .fp || !w.getLsbD 7) then some { cls := c, a := a, b := b, d := d, scaled := w.getLsbD 7 } else none
    | none => none
  | _, _, _ => none

/-- Size of a drained element in nibbles (R380). -/
def MatFmt.dsize (f : MatFmt) : Nat := if f.cls = .cplx ∧ f.d = .s32 then 16 else nibblesOf f.d

/-- The format context of a core: format word, ASCL, BSCL (R369, R374). -/
def State.matCtx (s : State) (core : Nat) : Word × Word × Word := (s.bench (core / 8)).fmts[core % 8]'(Nat.mod_lt _ (by decide))

def State.setMatCtx (s : State) (core : Nat) (x : Word × Word × Word) : State :=
  s.updBench (core / 8) fun b => { b with fmts := b.fmts.set (core % 8) x (Nat.mod_lt _ (by decide)) }

/-- The format that the issuing process has enqueued (R381). -/
def State.enqueuedFmt (s : State) : Option MatFmt :=
  let held := s.heldCmds.filterMap fun h => match h with | .mat _ i => some i | .eng _ _ | .post _ => none
  let mine := ((s.mats s.cur.core).filter fun i => decide (i.pid = s.cur.pid)) ++ held
  matFmt (match mine.reverse.findSome? fun i => match i.op with | .fmt w => some w | _ => none with
    | some w => w
    | none => (s.matCtx s.cur.core).1)

/-- Nibbles of an element whose format may not be accepted (R381). -/
def nibsOr (f : Option MatFmt) (g : MatFmt → Nat) : Nat := f.elim 2 g

/-! ### Fields of control words and descriptors (R375, R378, R380) -/

def ctlK (w : Word) : Nat := field w 48 16
def ctlM (w : Word) : Nat := field w 40 8 + 1
def ctlN (w : Word) : Nat := field w 32 8 + 1
def ctlClr (w : Word) : Bool := w.getLsbD 2
def ctlBank (w : Word) : Nat := field w 0 2

/-- Bytes of `n` elements of `k` nibbles. -/
def nibBytes (k n : Nat) : Nat := (k * n + 1) / 2

/-- The checks of R376 on a control word and an operand descriptor. -/
def macFieldsOk (ctl d0 d1 : Word) : Bool :=
  field ctl 3 29 == 0 && decide (1 ≤ ctlK ctl) && decide (ctlK ctl ≤ 16384) && field d0 53 11 == 0 && field d0 21 11 == 0 &&
  field d0 0 6 == 0 && field d0 32 6 == 0 && decide (64 ≤ field d0 32 21) && decide (field d0 32 21 ≤ 0x40000) &&
  field d1 13 51 == 0 && field d1 0 3 == 0

/-- The checks of R378 on a lid-load descriptor, with the size of a B element in nibbles. -/
def State.lidFieldsOk (s : State) (w0 w1 w2 : Word) (nib : Nat) : Bool :=
  memSpace s.cur.core w0 && w0.toNat % max 1 (nib / 2) == 0 && decide (1 ≤ field w1 32 32) &&
  decide (1 ≤ field w1 16 16) && decide (field w1 16 16 ≤ 16384) && field w1 0 8 == 0 && field w2 13 51 == 0 &&
  field w2 0 3 == 0

/-- The checks of R380 on a control word and a drain descriptor, with the size of a result in nibbles. -/
def State.drainFieldsOk (s : State) (ctl d0 d1 : Word) (nib : Nat) : Bool :=
  ctlK ctl == 0 && field ctl 3 29 == 0 && memSpace s.cur.core d0 && field d0 0 6 == 0 && field d1 32 32 == 0 &&
  field d1 0 6 == 0 && decide (nibBytes nib (ctlN ctl) ≤ field d1 0 32)

/-! ### Places of operands (R15, R374, R375) -/

/-- An offset of slice `k` of the bench of a core. -/
def benchSlice (core k off : Nat) : Nat := sliceAddr (core / 8 * 8 + k) off

/-- The lid that the array of a core's bench reads (R15, R36). -/
def lidBase (core : Nat) : Nat :=
  2 * 2 ^ 53 + core / 512 * 2 ^ 47 + (core / 128 % 4 + 1) * 2 ^ 44 + core / 8 % 16 * 2 ^ 40 + 2 ^ 39

/-- A row of A. -/
def rowAddr (core : Nat) (d0 : Word) (i : Nat) : Nat := benchSlice core (i / 32) (field d0 0 21 + i % 32 * field d0 32 21)

/-- A column of B. -/
def colAddr (core boff n : Nat) : Nat := lidBase core + n * 0x2000 + boff

/-- The smallest range that holds the ranges from each of the addresses (R381). -/
def spanOf (as : List Nat) (n : Nat) : Word × Nat :=
  let lo := as.foldl min (as.headD 0)
  (BitVec.ofNat 64 lo, as.foldl max 0 + n - lo)

/-! ### Issue (R370–R381) -/

/-- An item of the issuing process. -/
def State.matItem (s : State) (op : MatOp) : MatItem :=
  { pid := s.cur.pid, slot := s.cur.unit, ctx := s.cur.ctx, op := op, cmd := s.accs + 1, pc := s.cur.pc, stopped := false,
    pos := 0, flags := 0, rs := match op with | .drn _ _ rs _ _ => rs | _ => 0 }

/-- The core's matrix queue has no place (R370). -/
def State.matFull (s : State) : Bool :=
  let held := s.heldCmds.filter fun h => match h with | .mat _ i => i.op.counts | .eng _ _ | .post _ => false
  decide (Config.matQueue ≤ ((s.mats s.cur.core).filter fun i => i.op.counts).length + held.length)

/-- `mreq` and `mrel` take no place and are not counted (R370, R371). -/
def sendLease (s : State) (op : MatOp) (l : LeaseState) : Out :=
  .next (({ s with accs := s.accs + 1, cur := { s.cur with lease := l } }).sendCmd (.mat s.cur.core (s.matItem op)))

/-- Request banks (R371). -/
def execMreq (_l : Lone) (a : Reg) (s : State) : Out :=
  if s.g a = 0 ∨ 16 ≤ (s.g a).toNat ∨ s.cur.lease ≠ .none then raiseO s 0x001 s.cword
  else notInHandler s (sendLease s (.req (s.g a).toNat) .requested)

/-- Release the lease (R372). -/
def execMrel (_l : Lone) (s : State) : Out :=
  notInHandler s (if s.cur.lease = .none then .next s else sendLease s .rel .none)

/-- An array command: the state of the lease, then the command's own checks, then it waits for earlier accesses that
bar it and joins the queue (R370, R371, R139). -/
def arrayCmd (s : State) (tval : Word) (ok : Bool) (cause : Nat) (k : State → Out) : Out :=
  if s.cur.lease = .none then raiseO s 0x140 tval
  else if !ok then raiseO s cause (if cause = 0x001 then s.cword else tval)
  else
    notInHandler s
      (if !s.speculating && !(s.cur.mayAccess && s.cur.finished s.cur.holdSt) then .next s.stall else k s)

/-- An array command joins the queue. -/
def sendMat (s : State) (op : MatOp) (ranges : List (Word × Nat × Bool)) : Out :=
  enqueueCmd s .matrix s.matFull ranges (.mat s.cur.core (s.matItem op))

/-- Write the format word of the core's context (R374). -/
def execMfmt (_l : Lone) (a : Reg) (s : State) : Out :=
  arrayCmd s (s.g a) (matFmt (s.g a)).isSome 0x0A0 fun s => sendMat s (.fmt (s.g a)) []

/-- Write the scale locations of the core's context (R374). -/
def execMscl (_l : Lone) (a b : Reg) (s : State) : Out :=
  arrayCmd s (s.g a)
    ((s.g a).toNat % 4 == 0 && field (s.g a) 21 43 == 0 && (s.g b).toNat % 8 == 0 && memSpace s.cur.core (s.g b)) 0x144
    fun s => sendMat s (.scl (s.g a) (s.g b)) []

/-- Clear banks (R379). -/
def execMclr (_l : Lone) (a : Reg) (s : State) : Out :=
  arrayCmd s (s.g a) (s.g a != 0 && decide ((s.g a).toNat < 16)) 0x001 fun s => sendMat s (.clr (s.g a).toNat) []

/-- Load columns of the lid (R378). -/
def execMlid (l : Lone) (b : Reg) (s : State) : Out :=
  let va := s.descOp l b
  if va.toNat % 8 ≠ 0 then raiseO s 0x040 va
  else
    arrayCmd s va true 0 fun s =>
      withWords s va 3 fun s ws =>
        let w0 := ws.getD 0 0
        let w1 := ws.getD 1 0
        let w2 := ws.getD 2 0
        let nib := nibsOr s.enqueuedFmt fun f => nibblesOf f.b
        if !s.lidFieldsOk w0 w1 w2 nib then .next (s.raiseAfter 0x144 va [] none)
        else
          let k := field w1 16 16
          let n := field w1 8 8 + 1
          let lid := lidBase s.cur.core + field w2 0 13
          sendMat s (.lid va w0 w1 w2)
            [(w0, (k - 1) * field w1 32 32 + nibBytes nib n, false),
             (BitVec.ofNat 64 lid, (n - 1) * 0x2000 + nibBytes nib k, true)]

/-- A multiply (R376); `form` is 0 for `mmac`, 1 for `mmacc`, 2 for `mmacj`. -/
def multiply (s : State) (l : Lone) (a b : Reg) (form : Nat) : Out :=
  let va := s.descOp l b
  let ctl := s.g a
  if va.toNat % 8 ≠ 0 then raiseO s 0x040 va
  else
    arrayCmd s ctl true 0 fun s =>
      withWords s va 2 fun s ws =>
        let d0 := ws.getD 0 0
        let d1 := ws.getD 1 0
        if !macFieldsOk ctl d0 d1 then .next (s.raiseAfter 0x144 ctl [] none)
        else
          let nib := nibsOr s.enqueuedFmt fun f => nibblesOf f.a
          let rows := (List.range (ctlM ctl)).map (rowAddr s.cur.core d0)
          let r := spanOf rows (nibBytes nib (ctlK ctl))
          sendMat s (.mac form ctl d0 d1) [(r.1, r.2, false)]

/-- Multiply and accumulate (R376). -/
def execMmac (l : Lone) (a b : Reg) (s : State) : Out := multiply s l a b 0

/-- Multiply and accumulate complex values (R376). -/
def execMmacc (l : Lone) (a b : Reg) (s : State) : Out := multiply s l a b 1

/-- Multiply by the conjugate and accumulate (R376). -/
def execMmacj (l : Lone) (a b : Reg) (s : State) : Out := multiply s l a b 2

/-- A drain to `d` of a class that holds accumulators of another type converts, and under SR draws from RS (R380, R243).
DEDUCED, log entry 25. -/
def MatFmt.converts (f : MatFmt) : Bool :=
  match f.cls with
  | .fp | .bf => f.d != .f32
  | .int => f.d == .f32
  | .cplx => false

/-- Drain a bank (R380). A converting drain under SR takes a copy of RS, and the process's RS moves on (R244; log
entry 25). -/
def execMdrn (l : Lone) (a b : Reg) (s : State) : Out :=
  let va := s.descOp l b
  let ctl := s.g a
  if va.toNat % 8 ≠ 0 then raiseO s 0x040 va
  else
    arrayCmd s ctl true 0 fun s =>
      withWords s va 2 fun s ws =>
        let d0 := ws.getD 0 0
        let d1 := ws.getD 1 0
        let fmt := s.enqueuedFmt
        let nib := nibsOr fmt MatFmt.dsize
        if !s.drainFieldsOk ctl d0 d1 nib then .next (s.raiseAfter 0x144 ctl [] none)
        else
          let draws := fmt.elim false MatFmt.converts && field s.fcr 0 3 == 4
          let op : MatOp := .drn ctl s.fcr s.cur.rs d0 d1
          let len := (ctlM ctl - 1) * field d1 0 32 + nibBytes nib (ctlN ctl)
          let i := s.matItem op
          enqueueCmd s .matrix s.matFull [(d0, len, true)] (.mat s.cur.core i) |> fun o =>
            match o with
            | .next q =>
              if draws && !q.notPerformed then .next { q with cur := { q.cur with rs := drawRs s.cur.rs } } else .next q
            | o => o

/-! ### Arbitration (R208, R371, R372) -/

/-- A candidate for the lease of a bench: core, process, slot, banks, and whether an `mreq` asks. -/
structure LeaseAsk where
  core : Nat
  pid : Nat
  slot : Nat
  mask : Nat
  fresh : Bool
  deriving DecidableEq, Repr

/-- What an item at the head of its process asks for: the banks of `mreq`, or those that a lapsed holder owns (R371). -/
def State.leaseAsk (s : State) (core : Nat) (i : MatItem) : Option LeaseAsk :=
  match i.op with
  | .req m => some { core := core, pid := i.pid, slot := i.slot, mask := m, fresh := true }
  | .rel => none
  | _ => if i.stopped then none else some { core := core, pid := i.pid, slot := i.slot, mask := (s.proc i.pid).banks, fresh := false }

/-- Bank `k` of a bench is free or the process's own. -/
def Bench.mine (x : Bench) (k pid : Nat) : Bool :=
  match x.owners.toList.getD k none with
  | some o => decide (o.1 = pid)
  | none => true

/-- Requests that can be granted, in ring order after the last holder, oldest first within a core (R208, R371). -/
def State.leaseAsks (s : State) (b : Nat) : List LeaseAsk :=
  let x := s.bench b
  let ring := (List.range 8).map fun k => 8 * b + (x.hcore + 1 + k) % 8
  (ring.flatMap fun p => (headItems (s.mats p)).filterMap (s.leaseAsk p)).filter fun a =>
    (List.range 4).all fun k => a.mask / 2 ^ k % 2 == 0 || x.mine k a.pid

/-- The candidates in the order of preference: as they stand at level 0, by key at levels 1 and 2 (R146, R208). -/
def State.orderAsks (s : State) (fuel : Nat) (as : List LeaseAsk) : List LeaseAsk :=
  match fuel with
  | 0 => as
  | n + 1 =>
    match s.shuffled (fun (a : LeaseAsk) => a.pid) as with
    | [] => []
    | a :: rest =>
      if s.levelOf (s.proc a.pid).ctx = 0 then a :: s.orderAsks n rest
      else
        match orderBy (fun (a : LeaseAsk) => s.askKey a.core a.slot) as with
        | b :: more => b :: s.orderAsks n more
        | [] => []

/-- Accumulators of a bank: 2^18 × bench + 2^16 × bank + 256 × row + column (R368). -/
def cellKey (b bank i n : Nat) : Nat := 2 ^ 18 * b + 2 ^ 16 * bank + 256 * i + n

/-- Every cell of a bank becomes zero. -/
def State.zeroBank (s : State) (b bank : Nat) : State :=
  { s with acc := s.acc.filter fun e => !decide (e.1 / 2 ^ 16 = 4 * b + bank) }

/-- The lease is granted: named banks not yet owned become owned and zero (R371, R373). -/
def State.grantLease (s : State) (b : Nat) (a : LeaseAsk) : State :=
  let x := s.bench b
  let named := (List.range 4).filter fun k => a.mask / 2 ^ k % 2 == 1
  let fresh := named.filter fun k => (x.owners.toList.getD k none).isNone
  let s := fresh.foldl (fun s k => s.zeroBank b k) s
  let s := s.updBench b fun x =>
    { x with held := true, holder := a.pid, hcore := a.core % 8, hslot := a.slot, ncmd := 0, grants := x.grants + 1,
             owners := Vector.ofFn fun k => if named.contains k.val then some (a.pid, a.core, a.slot) else x.owners[k] }
  let s := s.touch a.pid fun p => { p with banks := p.banks ||| a.mask }
  let drop := fun (i : MatItem) => decide (i.pid = a.pid) && decide (i.op = .req a.mask)
  if a.fresh then s.setMats a.core ((s.mats a.core).eraseIdx ((s.mats a.core).findIdx drop)) else s

/-- The first candidate whose grant the log lets pass (R162, R163, R371). DEDUCED, log entry 73. -/
def State.tryAsks (s : State) (b : Nat) (as : List LeaseAsk) : Option State :=
  match as with
  | [] => none
  | a :: rest =>
    let p := s.proc a.pid
    match s.logGate p 0x0A (8192 + b) false (s.core a.core).lcore a.slot (benchPage b) 0 with
    | .hold => s.tryAsks b rest
    | .pass s => some (s.grantLease b a)
    | .diverge e =>
      let s := s.setDiv p.ctx
      let s := if a.fresh then
          s.setMats a.core ((s.mats a.core).filter fun i => !(decide (i.pid = a.pid) && decide (i.op = .req a.mask)))
        else s
      some (s.faultProc a.pid (divergeInfo e (benchPage b))
        { atIssue := false, pc := p.pc, req := none, redo := none, writes := [], cls := .none, sn := 0, entry := false,
          again := none } false)

/-- The lease arbiter of a bench decides (R208, R371). DEDUCED, log entry 17. -/
def execLeaseGrant (bench : Nat) (s : State) : Out :=
  if (s.bench bench).held then .next (s.pumpArray bench)
  else
    match s.orderAsks 64 (s.leaseAsks bench) with
    | [] => .next s
    | as =>
      match s.tryAsks bench as with
      | some s => .next (s.pumpArray bench)
      | none => .next (s.later (.leaseGrant bench))

/-- `mrel` takes effect: the lease ends, the banks become free, and the array arbitrates again (R372). -/
def execMrelEffect (core : Nat) (s : State) : Out :=
  match (headItems (s.mats core)).find? fun i => decide (i.op = .rel) with
  | none => .next s
  | some i =>
    let s := s.setMats core ((s.mats core).eraseIdx ((s.mats core).findIdx fun j => decide (j = i)))
    let s := s.updBench (core / 8) fun x =>
      { x with owners := x.owners.map fun o => if o.elim false fun w => w.1 = i.pid then none else o,
               held := x.held && x.holder != i.pid }
    let s := s.touch i.pid fun p => { p with banks := 0 }
    .next ((s.pumpArray (core / 8)).settleDone i.pid)

/-! ### Execution (R374–R380) -/

/-- The command that the array executes for a core: the next one of the process that holds the lease (R370). -/
def State.arrayHead (s : State) (core : Nat) : Option MatItem :=
  let x := s.bench (core / 8)
  if x.held && x.hcore == core % 8 then
    ((s.mats core).find? fun i => decide (i.pid = x.holder)).bind fun i => if i.op.counts && !i.stopped then some i else none
  else none

/-- A command leaves the queue and the counter of its process (R370, R287). -/
def State.retireMat (s : State) (core : Nat) (i : MatItem) : State :=
  let s := s.setMats core ((s.mats core).filter fun j => !(decide (j.pid = i.pid) && decide (j.cmd = i.cmd)))
  ((s.dropScore core i.cmd).touch i.pid fun p => { p with cnt := p.cnt.down .matrix }).settleDone i.pid

/-- A command completes; the 64th of a lease ends it (R371, R376). -/
def State.matDone (s : State) (core : Nat) (i : MatItem) (fl : Flags) : State :=
  let s := s.touch i.pid fun p =>
    if p.away then p.orFsr (i.flags ||| fl) else { p with lateMx := p.lateMx ||| i.flags ||| fl }
  let s := s.retireMat core i
  let s := s.updBench (core / 8) fun x => { x with ncmd := x.ncmd + 1, held := x.held && decide (x.ncmd + 1 < 64) }
  s.pumpArray (core / 8)

/-- A command raises a fault (R377): later commands of its process retire without effect, the lease lapses, and the
process is FAULTED. The command of a record that has ended retires too (DEDUCED, log entry 26). DEDUCED, log entry 19. -/
def State.matFault (s : State) (core : Nat) (i : MatItem) (f : FaultInfo) : State :=
  let later := (s.mats core).filter fun j => decide (j.pid = i.pid) && j.op.counts && decide (j.cmd ≠ i.cmd)
  let f := { f with words := BitVec.ofNat 64 later.length :: f.words }
  let s := later.foldl (fun s j => s.retireMat core j) s
  let s := s.updBench (core / 8) fun x => { x with held := false }
  let s := (s.dropHost core i.ctx).dropAsks core 66
  if (s.proc i.pid).st = .done ∨ (s.proc i.pid).pid ≠ i.pid then
    ((s.faultAsync core i.slot 0 i.ctx i.pid i.pc f false).retireMat core i).pumpArray (core / 8)
  else
    let s := s.setMats core ((s.mats core).map fun j =>
      if j.pid = i.pid ∧ j.cmd = i.cmd then
        { j with stopped := true, pos := 0, flags := 0, rs := match j.op with | .drn _ _ rs _ _ => rs | _ => 0 }
      else j)
    (s.faultProc i.pid f
      { atIssue := false, pc := i.pc, req := none, redo := none, writes := [], cls := .matrix, sn := i.cmd, entry := false,
        again := none } false).pumpArray (core / 8)

/-- A command waits, or raises what stopped it. DEDUCED, log entry 19. DEDUCED, log entry 26. -/
def matStop (s : State) (core : Nat) (i : MatItem) (f : FaultInfo) : Out :=
  if f.cause = notYet then .next (s.later (i.op.step core)) else .next (s.matFault core i f)

/-- The process owns the bank (R371). -/
def State.ownsBank (s : State) (core pid bank : Nat) : Bool :=
  match (s.bench (core / 8)).owners.toList.getD bank none with
  | some o => decide (o.1 = pid)
  | none => false

/-- A range of space 2 is checked under R38, page by page: the cause and address of its first failure (R377). -/
def partCheck (s : State) (c : Byte) (a n : Nat) (need : Need) : Option FaultInfo :=
  let size := if sramLid a then Config.lidBytes else Config.sliceBytes
  let pages := (List.range ((a % 4096 + n + 4095) / 4096)).map fun k => max a (a / 4096 * 4096 + 4096 * k)
  let bad := fun cause (x : Nat) => some ({ cause := cause, tval := BitVec.ofNat 64 x, words := [] } : FaultInfo)
  if (s.desc c).bad then bad 0x047 a
  else if !(s.desc c).valid then bad 0x043 a
  else if !sramFieldsOk s a then bad 0x044 a
  else
    pages.findSome? fun p =>
      if size ≤ sramOff a + (p - a) then bad 0x044 p
      else if !windowsAllow (s.desc c).windows p 1 need then bad 0x045 p
      else none

/-- Every unit of poisoning of a range of SRAM can be read, and no handler has locked it (R62, R137). -/
def rangeGuard (s : State) (a n : Nat) : Option FaultInfo × State :=
  let pts := guardPoints a n
  if pts.any fun p => s.isLocked p then (some { cause := notYet, tval := 0, words := [] }, s)
  else
    match s.guardList pts with
    | (some p, s) => (some { cause := eccCause p, tval := BitVec.ofNat 64 p, words := [] }, s)
    | (none, s) => (none, s)

/-- Ranges guarded one after another. -/
def guardRanges (s : State) (rs : List (Nat × Nat)) : Option FaultInfo × State :=
  match rs with
  | [] => (none, s)
  | r :: rest =>
    match rangeGuard s r.1 r.2 with
    | (none, s) => guardRanges s rest
    | e => e

/-- Raw element `k` of a row or column that starts at byte `a`. -/
def rawElem (m : List Host.Cell) (t : LaneTy) (a k : Nat) : Nat :=
  let n := nibblesOf t
  if n = 1 then (byteAt m (a + k / 2)).toNat / 16 ^ (k % 2) % 16 else readNat m (a + k * (n / 2)) (n / 2)

/-- An e4m3 or e2m1 value in units of 2^−9; `none` for a NaN (R252). -/
def fpUnits (t : LaneTy) (x : Nat) : Option Int :=
  match decodeF (if t = .e4m3 then fmtE4m3 else fmtE2m1) x with
  | .fin s m e => some (sgn s (m * 2 ^ (e + 9).toNat))
  | _ => none

/-- The exact block partial; `none` when an operand is a NaN (R252). -/
def fpPartial (ta tb : LaneTy) (xs : List (Nat × Nat)) : Option Int :=
  xs.foldl (fun p x =>
    match p, fpUnits ta x.1, fpUnits tb x.2 with
    | some p, some a, some b => some (p + a * b)
    | _, _, _ => none) (some 0)

/-- An f32 as a finite value; `none` for an infinity or a NaN. -/
def finite32 (x : W32) : Option (Bool × Nat × Int) :=
  match decodeF fmtF32 x.toNat with
  | .fin s m e => some (s, m, e)
  | _ => none

/-- The promotion of a block partial into an accumulator (R253). -/
def promote (acc : W32) (p : Option Int) (sA sB : Bool × Nat × Int) : W32 × Flags :=
  let r := match p with
    | none => nanRes fmtF32 0 Mode.rne
    | some p =>
      let m := p.natAbs * sA.2.1 * sB.2.1
      let term : FVal := if m = 0 then .fin false 0 0
        else .fin ((decide (p < 0) != sA.1) != sB.1) m (sA.2.2 + sB.2.2 - 18)
      addV fmtF32 Mode.rne (decodeF fmtF32 acc.toNat) term
  (BitVec.ofNat 32 r.bits, r.flags)

/-- One bf16 product added to an accumulator (R255). -/
def bfStep (acc : W32) (a b : Nat) : W32 × Flags :=
  let x : W32 := BitVec.ofNat 32 (a * 2 ^ 16)
  let y : W32 := BitVec.ofNat 32 (b * 2 ^ 16)
  let r := fmaOp Mode.rne false false x y acc
  (r.1, if isNaN32 x || isNaN32 y then r.2 ||| flNV else r.2)

/-- SatS32 with SAT (R230, R256). -/
def satS32 (x : Int) : W32 × Flags :=
  let r := clampI x (-(2 ^ 31)) (2 ^ 31 - 1)
  (BitVec.ofInt 32 r.1, r.2)

/-- The value of an integer operand. -/
def matInt (t : LaneTy) (x : Nat) : Int := (laneForm t x).toInt

/-- The sums of a block of complex products; `conj` takes the conjugate of b (R256). -/
def cplxSums (t : LaneTy) (conj : Bool) (xs : List (Nat × Nat)) : Int × Int :=
  xs.foldl (fun p x =>
    let a := complexParts (laneForm t x.1)
    let b := complexParts (laneForm t x.2)
    let bi := if conj then -b.2 else b.2
    (p.1 + a.1 * b.1 - a.2 * bi, p.2 + a.1 * bi + a.2 * b.1)) (0, 0)

/-- The scale 1.0. DEDUCED, log entry 18. -/
def scaleOne : Bool × Nat × Int := (false, 1, 0)

/-- A block of up to 128 k accumulated into a cell: its bank, and for COMPLEX the bank after it (R252–R257). DEDUCED, log entry 18. -/
def blockStep (f : MatFmt) (form : Nat) (sA sB : Bool × Nat × Int) (xs : List (Nat × Nat)) (c : W32 × W32 × Flags) :
    W32 × W32 × Flags :=
  match f.cls with
  | .fp =>
    let r := promote c.1 (fpPartial f.a f.b xs) sA sB
    (r.1, c.2.1, c.2.2 ||| r.2)
  | .bf =>
    let r := xs.foldl (fun (acc : W32 × Flags) x => let y := bfStep acc.1 x.1 x.2; (y.1, acc.2 ||| y.2)) (c.1, 0)
    (r.1, c.2.1, c.2.2 ||| r.2)
  | .int =>
    let r := satS32 (c.1.toInt + xs.foldl (fun p x => p + matInt f.a x.1 * matInt f.b x.2) 0)
    (r.1, c.2.1, c.2.2 ||| r.2)
  | .cplx =>
    let z := cplxSums f.a (form == 2) xs
    let re := satS32 (c.1.toInt + z.1)
    let im := satS32 (c.2.1.toInt + z.2)
    (re.1, im.1, c.2.2 ||| re.2 ||| im.2)

/-- An accumulator. -/
def State.accAt (s : State) (k : Nat) : W32 := SMap.get 0 s.acc k
def State.setAcc (s : State) (k : Nat) (x : W32) : State := { s with acc := SMap.put 0 s.acc k x }

/-- The scales of a command: of A row i and block j, and of B block j and tile t (R253, R374). -/
structure Scales where
  a : List (List (Bool × Nat × Int))
  b : List (Bool × Nat × Int)
  deriving DecidableEq, Repr

/-- B scales read one by one; `none` stands for a scale that is not finite. -/
def readScales (s : State) (core : Nat) (c : Byte) (vas : List Word) : Except FaultInfo (List (Option (Bool × Nat × Int))) × State :=
  match vas with
  | [] => (.ok [], s)
  | va :: rest =>
    match engineRead s core 66 c va 4 with
    | (.error f, s) => (.error f, s)
    | (.ok bs, s) =>
      match readScales s core c rest with
      | (.ok xs, s) => (.ok (finite32 (BitVec.ofNat 32 (bytesToNat bs)) :: xs), s)
      | e => e

/-- One cell of a multiply: blocks in ascending k (R257, R376). -/
def cellMac (s : State) (core : Nat) (f : MatFmt) (form : Nat) (ctl d0 d1 : Word) (sc : Option Scales) (i n : Nat) :
    W32 × W32 × Flags :=
  let b := core / 8
  let k0 := cellKey b (ctlBank ctl) i n
  let k1 := cellKey b (ctlBank ctl + 1) i n
  let start : W32 × W32 × Flags := if ctlClr ctl then (0, 0, 0) else (s.accAt k0, s.accAt k1, 0)
  (List.range (ceilDiv (ctlK ctl) 128)).foldl (fun c j =>
    let ks := (List.range (min 128 (ctlK ctl - 128 * j))).map fun k => 128 * j + k
    let xs := ks.map fun k =>
      (rawElem s.mem f.a (rowAddr core d0 i) k, rawElem s.mem f.b (colAddr core (field d1 0 13) n) k)
    let sA := match sc with | some z => (z.a.getD i []).getD j scaleOne | none => scaleOne
    let sB := match sc with | some z => z.b.getD (2 * j + n / 128) scaleOne | none => scaleOne
    blockStep f form sA sB xs c) start

/-- Every cell of a multiply, and its flags. -/
def macCells (s : State) (core : Nat) (f : MatFmt) (form : Nat) (ctl d0 d1 : Word) (sc : Option Scales) : State × Flags :=
  let cells := (List.range (ctlM ctl)).flatMap fun i => (List.range (ctlN ctl)).map fun n => (i, n)
  cells.foldl (fun (q : State × Flags) x =>
    let r := cellMac s core f form ctl d0 d1 sc x.1 x.2
    let t := q.1.setAcc (cellKey (core / 8) (ctlBank ctl) x.1 x.2) r.1
    (if f.cls = .cplx then t.setAcc (cellKey (core / 8) (ctlBank ctl + 1) x.1 x.2) r.2.1 else t, q.2 ||| r.2.2)) (s, 0)

/-- Banks that a command of class `c` names. -/
def banksOf (c : MatClass) (bank : Nat) : List Nat := if c = .cplx then [bank, bank + 1] else [bank]

/-- The scales of A that a multiply reads: address of row i and bytes. -/
def scaleRanges (core : Nat) (ctl ascl : Word) : List (Nat × Nat) :=
  (List.range (ctlM ctl)).map fun i =>
    (benchSlice core (i / 32) (ascl.toNat + i % 32 * 512), 4 * ceilDiv (ctlK ctl) 128)

/-- The checks of a multiply before its first k-step (R376, R377). -/
def macChecks (s : State) (core : Nat) (i : MatItem) (f : MatFmt) (form : Nat) (ctl d0 d1 : Word) : Option FaultInfo :=
  let bad := fun cause (tval : Word) => some ({ cause := cause, tval := tval, words := [] } : FaultInfo)
  let ctx := s.matCtx core
  if (f.cls = .cplx && (form == 0 || ctlBank ctl % 2 == 1)) || (f.cls != .cplx && form != 0) then bad 0x0A0 ctx.1
  else if 0x2000 < nibBytes (nibblesOf f.b) (ctlK ctl) + field d1 0 13 then bad 0x144 ctl
  else if !(banksOf f.cls (ctlBank ctl)).all (s.ownsBank core i.pid) then bad 0x140 ctl
  else
    let rows := (List.range (ctlM ctl)).map fun r => (rowAddr core d0 r, nibBytes (nibblesOf f.a) (ctlK ctl))
    let cols := (List.range (ctlN ctl)).map fun n => (colAddr core (field d1 0 13) n, nibBytes (nibblesOf f.b) (ctlK ctl))
    let scs := if f.scaled then scaleRanges core ctl ctx.2.1 else []
    (rows ++ cols ++ scs).findSome? fun r => partCheck s i.ctx r.1 r.2 needRd

/-- Reading every scale that a multiply uses (R254, R374). -/
def macScales (s : State) (core : Nat) (i : MatItem) (f : MatFmt) (ctl : Word) : Except FaultInfo (Option Scales) × State :=
  if !f.scaled then (.ok none, s)
  else
    let ctx := s.matCtx core
    let nb := ceilDiv (ctlK ctl) 128
    let tiles := ctlN ctl / 128 + (if ctlN ctl % 128 = 0 then 0 else 1)
    let as := (scaleRanges core ctl ctx.2.1).map fun r =>
      (List.range nb).map fun j => finite32 (BitVec.ofNat 32 (readNat s.mem (r.1 + 4 * j) 4))
    let vas := (List.range nb).flatMap fun j => (List.range 2).map fun t => ctx.2.2 + BitVec.ofNat 64 (8 * j + 4 * t)
    let used := fun (k : Nat) => decide (k % 2 < tiles)
    let reads := readScales s core i.ctx ((vas.zipIdx.filter fun e => used e.2).map (·.1))
    match reads with
    | (.error f, s) => (.error f, s)
    | (.ok bs, s) =>
      if as.any (fun r => r.any (·.isNone)) || bs.any (·.isNone) then
        (.error { cause := 0x0A0, tval := 0, words := [] }, s)
      else
        let b2 := (List.range nb).flatMap fun j => (List.range 2).map fun t =>
          if t < tiles then (bs.getD (tiles * j + t) none).getD scaleOne else scaleOne
        (.ok (some { a := as.map fun r => r.map fun x => x.getD scaleOne, b := b2 }), s)

/-- What stops every command that needs a format: the context holds no accepted word (R378). -/
def noFormat (s : State) (core : Nat) : FaultInfo := { cause := 0x0A0, tval := (s.matCtx core).1, words := [] }

/-- The command at the head of the array of a core's bench executes, unless the array meets a lasting error (R409). -/
def State.withArray (s : State) (core : Nat) (k : State → MatItem → Out) : Out :=
  match s.arrayHead core with
  | none => .next s
  | some i =>
    let g := s.parityGuard core 2
    if g.1 then k g.2 i else .next (g.2.matFault core i (machineCheck 2))

/-- A multiply executes (R376). -/
def execMmacExecute (core : Nat) (s : State) : Out :=
  s.withArray core fun s i =>
    match i.op with
    | .mac form ctl d0 d1 =>
      match matFmt (s.matCtx core).1 with
      | none => .next (s.matFault core i (noFormat s core))
      | some f =>
        let s := s.cacheDesc i.ctx
        match macChecks s core i f form ctl d0 d1 with
        | some e => .next (s.matFault core i e)
        | none =>
          let rows := (List.range (ctlM ctl)).map fun r => (rowAddr core d0 r, nibBytes (nibblesOf f.a) (ctlK ctl))
          let cols := (List.range (ctlN ctl)).map fun n => (colAddr core (field d1 0 13) n, nibBytes (nibblesOf f.b) (ctlK ctl))
          let scs := if f.scaled then scaleRanges core ctl (s.matCtx core).2.1 else []
          match guardRanges s (rows ++ cols ++ scs) with
          | (some e, s) => matStop s core i e
          | (none, s) =>
            match macScales s core i f ctl with
            | (.error e, s) => matStop s core i e
            | (.ok sc, s) =>
              let r := macCells s core f form ctl d0 d1 sc
              .next (((r.1.dropHost core i.ctx).dropAsks core 66).matDone core i r.2)
    | _ => .next s

/-- `mfmt` and `mscl` execute: the core's context changes (R374). -/
def execMfmtExecute (core : Nat) (s : State) : Out :=
  s.withArray core fun s i =>
    let x := s.matCtx core
    match i.op with
    | .fmt w => .next ((s.setMatCtx core (w &&& 0xFFF80, x.2.1, x.2.2)).matDone core i 0)
    | .scl a b => .next ((s.setMatCtx core (x.1, a, b)).matDone core i 0)
    | _ => .next s

/-- `mclr` executes (R379). -/
def execMclrExecute (core : Nat) (s : State) : Out :=
  s.withArray core fun s i =>
    match i.op with
    | .clr m =>
      let banks := (List.range 4).filter fun k => m / 2 ^ k % 2 == 1
      if !banks.all (s.ownsBank core i.pid) then
        .next (s.matFault core i { cause := 0x140, tval := BitVec.ofNat 64 m, words := [] })
      else .next ((banks.foldl (fun s k => s.zeroBank (core / 8) k) s).matDone core i 0)
    | _ => .next s

/-- The item after some of its bytes have moved. -/
def State.moveMat (s : State) (core : Nat) (i : MatItem) (pos : Nat) (fl : Flags) (rs : Word) : State :=
  (s.setMats core ((s.mats core).map fun j =>
    if j.pid = i.pid ∧ j.cmd = i.cmd then { j with pos := pos, flags := j.flags ||| fl, rs := rs } else j)).pumpArray (core / 8)

/-- The bytes of a row that its next beat takes: those of one 64-byte unit. -/
def beatLen (va : Word) (off row : Nat) : Nat := min (row - off) (64 - (va.toNat + off) % 64)

/-- Elements written to the lid, one by one, as plain writes (R378). -/
def lidWrites (s : State) (core : Nat) (c : Byte) (t : LaneTy) (boff k : Nat) (es : List (Nat × Nat)) :
    Except FaultInfo Unit × State :=
  match es with
  | [] => (.ok (), s)
  | (n, x) :: rest =>
    let sz := nibblesOf t
    let a := colAddr core boff n + (if sz = 1 then k / 2 else k * (sz / 2))
    let old := (byteAt s.mem a).toNat
    let x := if sz = 1 then (if k % 2 = 0 then old / 16 * 16 + x else old % 16 + 16 * x) else x
    if s.isLocked a then (.error { cause := notYet, tval := 0, words := [] }, s)
    else
      match writeBytes s a (natToBytes (max 1 (sz / 2)) x) 0 with
      | .error (e, s) => (.error { cause := e, tval := BitVec.ofNat 64 a, words := beatWords s a e }, s)
      | .ok s => lidWrites s core c t boff k rest

/-- The elements of a row that lie in `bs`, the bytes from offset `off` of the row. -/
def rowElems (t : LaneTy) (n off : Nat) (bs : List Byte) : List (Nat × Nat) :=
  let sz := nibblesOf t
  let first := 2 * off / sz
  let count := min (n - first) (2 * bs.length / sz)
  (List.range count).map fun e =>
    (first + e,
     if sz = 1 then (bs.getD (e / 2) 0).toNat / 16 ^ (e % 2) % 16
     else bytesToNat ((bs.drop (e * (sz / 2))).take (sz / 2)))

/-- The checks of a lid load before its first beat (R378). -/
def lidChecks (s : State) (core : Nat) (i : MatItem) (f : MatFmt) (va w1 w2 : Word) : Option FaultInfo :=
  let k := field w1 16 16
  if 0x2000 < nibBytes (nibblesOf f.b) k + field w2 0 13 then some { cause := 0x144, tval := va, words := [] }
  else
    (List.range (field w1 8 8 + 1)).findSome? fun n =>
      partCheck s i.ctx (colAddr core (field w2 0 13) n) (nibBytes (nibblesOf f.b) k) needWr

/-- A lid load moves one beat: part of a source row to its columns (R378). -/
def execMlidExecute (core : Nat) (s : State) : Out :=
  s.withArray core fun s i =>
    match i.op with
    | .lid va w0 w1 w2 =>
      match matFmt (s.matCtx core).1 with
      | none => .next (s.matFault core i (noFormat s core))
      | some f =>
        let s := s.cacheDesc i.ctx
        match (if i.pos = 0 then lidChecks s core i f va w1 w2 else none) with
        | some e => .next (s.matFault core i e)
        | none =>
          let k := i.pos / 2 ^ 16
          let off := i.pos % 2 ^ 16
          let n := field w1 8 8 + 1
          let row := nibBytes (nibblesOf f.b) n
          let a := w0 + BitVec.ofNat 64 (k * field w1 32 32)
          let len := beatLen a off row
          match engineRead s core 66 i.ctx (a + BitVec.ofNat 64 off) len with
          | (.error e, s) => matStop s core i e
          | (.ok bs, s) =>
            match lidWrites s core i.ctx f.b (field w2 0 13) k (rowElems f.b n off bs) with
            | (.error e, s) => matStop s core i e
            | (.ok _, s) =>
              let s := (s.dropHost core i.ctx).dropAsks core 66
              if off + len < row then .next (s.moveMat core i (k * 2 ^ 16 + off + len) 0 i.rs)
              else if k + 1 < field w1 16 16 then .next (s.moveMat core i ((k + 1) * 2 ^ 16) 0 i.rs)
              else .next (s.matDone core i 0)
    | _ => .next s

/-! ### Drains (R380) -/

/-- A cell as drained: raw bits of its element, flags and RS after it. -/
def drainCell (f : MatFmt) (md : Mode) (re im : W32) : FRes :=
  match f.cls, f.d with
  | .fp, .f32 | .bf, .f32 | .int, .s32 => exactRes re.toNat 0 md
  | .cplx, .s32 => exactRes (re.toNat + 2 ^ 32 * im.toNat) 0 md
  | .cplx, t =>
    let lim : Int := if t = .c8 then 128 else 8
    let a := clampI re.toInt (-lim) (lim - 1)
    let b := clampI im.toInt (-lim) (lim - 1)
    let w := if t = .c8 then 8 else 4
    exactRes ((BitVec.ofInt w a.1).toNat + 2 ^ w * (BitVec.ofInt w b.1).toNat) (a.2 ||| b.2) md
  | .int, .f32 => ofIntV fmtF32 md re.toInt
  | .int, t =>
    let r := clampI re.toInt (intRange t).1 (intRange t).2
    exactRes (memForm t (laneInt r.1)) r.2 md
  | _, t => let r := cvtLane t .f32 md re; { r with bits := memForm t (BitVec.ofNat 32 r.bits) }

/-- Cells of a row converted in ascending column, each drawing after the one before it (R243, R380). -/
def drainCells (s : State) (core : Nat) (f : MatFmt) (fcr ctl : Word) (i : Nat) (ns : List Nat) (rs : Word) :
    List Nat × Flags × Word :=
  match ns with
  | [] => ([], 0, rs)
  | n :: rest =>
    let r := drainCell f (Mode.ofFcr fcr true rs) (s.accAt (cellKey (core / 8) (ctlBank ctl) i n))
      (s.accAt (cellKey (core / 8) (ctlBank ctl + 1) i n))
    let q := drainCells s core f fcr ctl i rest r.rs
    (r.bits :: q.1, r.flags ||| q.2.1, q.2.2)

/-- Elements of `k` nibbles packed into bytes, the first lowest. -/
def packElems (k : Nat) (xs : List Nat) : List Byte :=
  natToBytes (nibBytes k xs.length) (xs.foldr (fun x acc => x % 2 ^ (4 * k) + 2 ^ (4 * k) * acc) 0)

/-- The checks of a drain as it executes (R371, R380, R381). -/
def drainChecks (s : State) (core : Nat) (i : MatItem) (f : MatFmt) (ctl d1 : Word) : Option FaultInfo :=
  let bad := fun cause (tval : Word) => some ({ cause := cause, tval := tval, words := [] } : FaultInfo)
  if f.cls = .cplx && ctlBank ctl % 2 == 1 then bad 0x0A0 (s.matCtx core).1
  else if field d1 0 32 < nibBytes f.dsize (ctlN ctl) then bad 0x144 ctl
  else if !(banksOf f.cls (ctlBank ctl)).all (s.ownsBank core i.pid) then bad 0x140 ctl
  else none

/-- The drained cells become zero. -/
def zeroCells (s : State) (core : Nat) (f : MatFmt) (ctl : Word) : State :=
  { s with acc := s.acc.filter fun e =>
      !((banksOf f.cls (ctlBank ctl)).any fun k => decide (e.1 / 2 ^ 16 = 4 * (core / 8) + k) &&
          decide (e.1 / 256 % 256 < ctlM ctl) && decide (e.1 % 256 < ctlN ctl)) }

/-- A drain moves one beat: the cells of a row whose bytes lie in one 64-byte unit (R380). -/
def execMdrnExecute (core : Nat) (s : State) : Out :=
  s.withArray core fun s i =>
    match i.op with
    | .drn ctl fcr _ d0 d1 =>
      match matFmt (s.matCtx core).1 with
      | none => .next (s.matFault core i (noFormat s core))
      | some f =>
        match (if i.pos = 0 then drainChecks s core i f ctl d1 else none) with
        | some e => .next (s.matFault core i e)
        | none =>
          let r := i.pos / 2 ^ 16
          let off := i.pos % 2 ^ 16
          let n := ctlN ctl
          let row := nibBytes f.dsize n
          let a := d0 + BitVec.ofNat 64 (r * field d1 0 32)
          let len := beatLen a off row
          let first := 2 * off / f.dsize
          let count := min (n - first) (2 * len / f.dsize)
          let x := drainCells s core f fcr ctl r ((List.range count).map (first + ·)) i.rs
          let bs := packElems f.dsize x.1
          match engineWrite s core 66 i.ctx (a + BitVec.ofNat 64 off) bs (f.dsize * count % 2 == 1) with
          | (.error e, s) => matStop s core i e
          | (.ok _, s) =>
            let s := (s.dropHost core i.ctx).dropAsks core 66
            if off + len < row then .next (s.moveMat core i (r * 2 ^ 16 + off + len) x.2.1 x.2.2)
            else if r + 1 < ctlM ctl then .next (s.moveMat core i ((r + 1) * 2 ^ 16) x.2.1 x.2.2)
            else .next ((if ctlClr ctl then zeroCells s core f ctl else s).matDone core i x.2.1)
    | _ => .next s

end Sys2Proof.Machine
end

