-- ==== Sys2Proof/Machine/Engine.lean ====
section
/-! DEFINITION. The copy engine and the distributor of a bench, and the load of a helper's program (spec/15 R382–R386,
spec/03 R75–R77, spec/02 R44, spec/13 R313). A beat moves in one step. -/

namespace Sys2Proof.Machine

/-! ### Checks of descriptors -/

/-- A range as R72 compares it: address after alias resolution, this package's node as 0. -/
def State.rangeKey (s : State) (core : Nat) (va : Word) : Nat :=
  let a := resolved core va
  if a / 2 ^ 56 = s.mynode then a % 2 ^ 56 else a

/-- Two ranges share a byte (R72). -/
def State.rangesMeet (s : State) (a : Word) (n : Nat) (b : Word) (m : Nat) : Bool :=
  overlaps (s.rangeKey s.cur.core a) n (s.rangeKey s.cur.core b) m

/-- The pairs of types that a copy converts between: from `st` to `dt` (R384). -/
def copyPair (st dt : LaneTy) : Bool :=
  match st, dt with
  | .f32, .bf16 | .f32, .e4m3 | .f32, .e2m1 | .bf16, .f32 | .e4m3, .f32 | .e2m1, .f32 => true
  | _, _ => false

/-- What a copy descriptor asks for: its length in bytes and its types, when it converts (R384). -/
structure CopyDesc where
  src : Word
  dst : Word
  len : Nat
  conv : Option (LaneTy × LaneTy)   -- source, destination
  deriving DecidableEq, Repr

/-- Source elements of a copy; bytes when it does not convert. -/
def CopyDesc.count (d : CopyDesc) : Nat :=
  match d.conv with
  | none => d.len
  | some (st, _) => 2 * d.len / nibblesOf st

/-- Bytes of the destination range. -/
def CopyDesc.dlen (d : CopyDesc) : Nat :=
  match d.conv with
  | none => d.len
  | some (_, dt) => nibBytes (nibblesOf dt) d.count

/-- A copy descriptor as read, its fields and pair as R384 requires; `none` where they are not. -/
def copyDesc (ws : List Word) : Option CopyDesc :=
  let w2 := ws.getD 2 0
  let w3 := ws.getD 3 0
  let src := ws.getD 0 0
  let dst := ws.getD 1 0
  let len := field w2 0 32
  if field w2 32 32 ≠ 0 ∨ field w3 9 55 ≠ 0 ∨ len = 0 then none
  else if !w3.getLsbD 8 then some { src := src, dst := dst, len := len, conv := none }
  else
    match LaneTy.ofCode (BitVec.ofNat 4 (field w3 0 4)), LaneTy.ofCode (BitVec.ofNat 4 (field w3 4 4)) with
    | some st, some dt =>
      if copyPair st dt && src.toNat % max 1 (nibblesOf st / 2) == 0 && dst.toNat % max 1 (nibblesOf dt / 2) == 0 &&
         2 * len % nibblesOf st == 0 then some { src := src, dst := dst, len := len, conv := some (st, dt) }
      else none
    | _, _ => none

/-- A dimension of a tensor copy: count, source step, destination step (R385). -/
structure TDim where
  count : Nat
  ss : Int
  ds : Int
  deriving DecidableEq, Repr

/-- The dimensions of a tensor descriptor (R385). -/
def tensorDims (ws : List Word) : List TDim :=
  (List.range (field (ws.getD 2 0) 0 5)).map fun d =>
    let w := ws.getD (5 + 2 * d) 0
    { count := field (ws.getD (4 + 2 * d) 0) 0 32, ss := (BitVec.ofNat 32 (field w 32 32)).toInt,
      ds := (BitVec.ofNat 32 (field w 0 32)).toInt }

/-- Element size of a tensor descriptor in bytes. -/
def tensorEs (ws : List Word) : Nat := 2 ^ field (ws.getD 2 0) 8 3

/-- Elements of a tensor copy. -/
def tensorCount (ds : List TDim) : Nat := ds.foldl (fun n d => n * d.count) 1

/-- The smallest and the largest offset that a list of dimensions reaches. -/
def tensorReach (f : TDim → Int) (ds : List TDim) : Int × Int :=
  ds.foldl (fun p d =>
    let x := f d * ((d.count : Int) - 1)
    if x < 0 then (p.1 + x, p.2) else (p.1, p.2 + x)) (0, 0)

/-- The range that a side of a tensor copy touches (R71). -/
def tensorRange (base : Word) (r : Int × Int) (es : Nat) : Word × Nat := (base + BitVec.ofInt 64 r.1, (r.2 - r.1).toNat + es)

/-- The offset of element `i` on one side, j0 fastest (R385). -/
def tensorOff (f : TDim → Int) (ds : List TDim) (i : Nat) : Int :=
  match ds with
  | [] => 0
  | d :: rest => (i % d.count : Nat) * f d + tensorOff f rest (i / d.count)

/-- The first four words of a tensor descriptor are as R385 requires. -/
def tensorHeadOk (ws : List Word) : Bool :=
  let w := ws.getD 2 0
  field w 11 53 == 0 && field w 5 3 == 0 && decide (field w 8 3 ≤ 6) && decide (1 ≤ field w 0 5) && decide (field w 0 5 ≤ 16) &&
  ws.getD 3 0 == 0

/-- The whole tensor descriptor is as R385 requires, overlap apart. -/
def tensorOk (ws : List Word) : Bool :=
  let ds := tensorDims ws
  let es := tensorEs ws
  ((List.range ds.length).all fun d => field (ws.getD (4 + 2 * d) 0) 32 32 == 0) && (ds.all fun d => decide (1 ≤ d.count)) &&
  (ws.getD 0 0).toNat % es == 0 && (ws.getD 1 0).toNat % es == 0 &&
  (ds.all fun d => d.ss % (es : Int) == 0 && d.ds % (es : Int) == 0) && decide (tensorCount ds ≤ 2 ^ 32)

/-! ### The distributor's pattern (R75–R77) -/

def dpBase (w : Word) : Nat := field w 48 10
def dpTargets (w : Word) : Nat := field w 38 10 + 1
def dpStride (w : Word) : Nat := field w 32 6
def dpBlock (w : Word) : Nat := 2 ^ field w 27 5
def dpOff (w : Word) : Nat := field w 0 21

/-- DPAT is one that a deal or gather accepts (R76). -/
def dpatOk (s : State) (w : Word) : Bool :=
  decide (dpStride w ≠ 0) && decide (6 ≤ field w 27 5) && decide (field w 27 5 ≤ 20) && dpOff w % 64 == 0 &&
  decide (dpBase w + dpStride w * (dpTargets w - 1) < s.ncores)

/-- The place in a target slice of byte `i` of a block sequence (R77). -/
def dpPlace (s : State) (w : Word) (i : Nat) : Word :=
  let j := i / dpBlock w
  let core := s.physOf (dpBase w + dpStride w * (j % dpTargets w))
  BitVec.ofNat 64 (sliceAddr core (dpOff w + j / dpTargets w * dpBlock w + i % dpBlock w))

/-- The smallest range that holds every byte of the target blocks (R71). -/
def dpRange (s : State) (w : Word) (len : Nat) : Word × Nat :=
  let nb := ceilDiv len (dpBlock w)
  let used := List.range (min nb (dpTargets w))
  let starts := used.map fun q => (dpPlace s w (q * dpBlock w)).toNat
  let ends := used.map fun q =>
    let j := q + dpTargets w * ((nb - 1 - q) / dpTargets w)
    (dpPlace s w (j * dpBlock w)).toNat + min (dpBlock w) (len - j * dpBlock w)
  let lo := starts.foldl min (starts.headD 0)
  (BitVec.ofNat 64 lo, ends.foldl max 0 - lo)

/-! ### Issue (R382) -/

/-- The queue of the issuing core's copy engine or distributor has no place. -/
def State.engFull (s : State) (q : Nat) : Bool :=
  let held := s.heldCmds.filter fun h => match h with | .eng k _ => decide (k = q) | .mat _ _ | .post _ => false
  decide (q < 4096) && decide (Config.engQueue ≤ (s.engine q).cmds.length + held.length)

/-- A command of the issuing process. -/
def State.engCmd (s : State) (kind : EngKind) (ws : List Word) (done : Word) (pre : Bool) : EngCmd :=
  { kind := kind, pid := s.cur.pid, slot := s.cur.unit, core := s.cur.core, ctx := s.cur.ctx, cmd := s.accs + 1, words := ws,
    dpat := s.cur.dpat, fcr := s.fcr, rs := s.cur.rs, done := done, pre := pre,
    waits := if pre then (s.cur.outst.filter fun o => !o.held).map (·.sn) else [], pos := 0, beats := 0, flags := 0, err := none,
    pc := s.cur.pc }

/-- The completion word of R382: `none` when it stands, else the cause and the TVAL that refuse it. -/
def doneCheck (s : State) (va done : Word) : Option FaultInfo × State :=
  if done = 0 then (none, s)
  else if done.toNat % 8 ≠ 0 || !memSpace s.cur.core done then (some { cause := 0x143, tval := va, words := [] }, s)
  else
    match checkNow s s.cur.core s.cur.ctx done 8 needWr true with
    | (.fail c ws, s) => (some { cause := c, tval := done, words := ws }, s)
    | (_, s) => (none, s)

/-- A command whose descriptor has passed its checks: the completion word, then the queue (R382). -/
def engEnqueue (s : State) (q : Nat) (va : Word) (ranges : List (Word × Nat × Bool)) (c : EngCmd) : Out :=
  match doneCheck s va c.done with
  | (some f, s) => .next (s.raiseAfter f.cause f.tval f.words none)
  | (none, s) => enqueueCmd s .copies (s.engFull q) ranges (.eng q c)

/-- COPY_DESC: nothing is enqueued (R382). -/
def badDesc (s : State) (va : Word) : Out := .next (s.raiseAfter 0x143 va [] none)

/-- An engine command begins to issue: its descriptor address aligned, its queue not frozen, earlier accesses that bar
it ended (R56, R382). -/
def engMore (s : State) (l : Lone) (b : Reg) (q : Nat) (n : Nat) (k : State → List Word → Out) : Out :=
  let va := s.descOp l b
  if va.toNat % 8 ≠ 0 then raiseO s 0x040 va
  else if (s.engine q).frozen then .next (s.raiseAfter 0x180 va [] none)
  else if !s.speculating && !(s.cur.mayAccess && s.cur.finished s.cur.holdSt) then .next s.stall
  else withMore s va n k

/-- The same with a descriptor of `n` words. -/
def engStart (s : State) (l : Lone) (b : Reg) (q : Nat) (n : Nat) (k : State → List Word → Out) : Out :=
  engMore s l b q n fun s ws => k s.dropWords ws

/-- The queues of the issuing core. -/
def State.copyQueue (s : State) : Nat := 2 * s.cur.core
def State.dealQueue (s : State) : Nat := 2 * s.cur.core + 1

/-- Copy a range (R384). -/
def execCpy (l : Lone) (a b : Reg) (p : BitVec 1) (s : State) : Out :=
  let va := s.descOp l b
  engStart s l b s.copyQueue 4 fun s ws =>
    match copyDesc ws with
    | none => badDesc s va
    | some d =>
      if s.rangesMeet d.src d.len d.dst d.dlen then badDesc s va
      else
        let draws := d.conv.isSome && field s.fcr 0 3 == 4
        match engEnqueue s s.copyQueue va [(d.src, d.len, false), (d.dst, d.dlen, true)] (s.engCmd .copy ws (s.g a) (p == 1)) with
        | .next q =>
          if draws && !q.notPerformed && q.cur.st != .faulted then .next { q with cur := { q.cur with rs := drawRs s.cur.rs } }
          else .next q
        | o => o

/-- Copy a tensor (R385). -/
def execTcpy (l : Lone) (a b : Reg) (p : BitVec 1) (s : State) : Out :=
  let va := s.descOp l b
  engMore s l b s.copyQueue 4 fun s ws =>
    if !tensorHeadOk ws then badDesc s.dropWords va
    else
      withWords s va (4 + 2 * field (ws.getD 2 0) 0 5) fun s ws =>
        let ds := tensorDims ws
        let src := tensorRange (ws.getD 0 0) (tensorReach TDim.ss ds) (tensorEs ws)
        let dst := tensorRange (ws.getD 1 0) (tensorReach TDim.ds ds) (tensorEs ws)
        if !tensorOk ws || s.rangesMeet src.1 src.2 dst.1 dst.2 then badDesc s va
        else
          engEnqueue s s.copyQueue va [(src.1, src.2, false), (dst.1, dst.2, true)] (s.engCmd .tensor ws (s.g a) (p == 1))

/-- A deal or a gather (R76, R77, R386). -/
def distribute (s : State) (l : Lone) (a b : Reg) (p : BitVec 1) (kind : EngKind) : Out :=
  let va := s.descOp l b
  engStart s l b s.dealQueue 2 fun s ws =>
    let len := field (ws.getD 1 0) 0 32
    if field (ws.getD 1 0) 32 32 ≠ 0 ∨ len = 0 ∨ !dpatOk s s.cur.dpat then badDesc s va
    else
      let own := (ws.getD 0 0, len)
      let far := dpRange s s.cur.dpat len
      engEnqueue s s.dealQueue va
        (if kind = .deal then [(own.1, own.2, false), (far.1, far.2, true)] else [(far.1, far.2, false), (own.1, own.2, true)])
        (s.engCmd kind ws (s.g a) (p == 1))

/-- Deal a range to a pattern of slices (R386). -/
def execDeal (l : Lone) (a b : Reg) (p : BitVec 1) (s : State) : Out := distribute s l a b p .deal

/-- Gather a range from a pattern of slices (R386). -/
def execGath (l : Lone) (a b : Reg) (p : BitVec 1) (s : State) : Out := distribute s l a b p .gather

/-- Load a helper's program (R313): a command of the copy engine's queue (DEDUCED, log entry 27). -/
def execHload (l : Lone) (a b : Reg) (s : State) : Out :=
  boundary s
    (let va := s.descOp l b
     let ctl := s.g a
     let nb := field ctl 48 16
     let h := 2 * s.cur.core + field ctl 0 1
     if va.toNat % 8 ≠ 0 then raiseO s 0x040 va
     else if field ctl 1 47 ≠ 0 ∨ nb = 0 ∨ 2048 < nb then badDesc s va
     else if (s.helper h).run ≠ 0 then .next (s.raiseAfter 0x0C7 ctl [] none)
     else if (s.engine s.copyQueue).frozen then .next (s.raiseAfter 0x180 va [] none)
     else if !(s.cur.mayAccess && s.cur.finished s.cur.holdSt) then .next s.stall
     else
       engEnqueue s s.copyQueue va [(va, 8 * nb, false)] (s.engCmd .hload [ctl, va] 0 false))

/-- The queue of the collective engine's program loads (R397). -/
def graphQueue : Nat := 4096

/-- Load a communicator's graph of fabric units (R388, R397). It takes no scoreboard entry: R71's table names none for it.
DESIGN CHOICE, log entry 88. -/
def execFgload (l : Lone) (a b : Reg) (s : State) : Out :=
  let va := s.descOp l b
  if va.toNat % 8 ≠ 0 then raiseO s 0x040 va
  else if !(s.desc s.cur.ctx).dev then .next (s.raiseAfter 0x043 va [] none)
  else
    engStart s l b graphQueue 2 fun s ws =>
      if !graphDescOk ws then .next (s.raiseAfter 0x0A0 (ws.getD 0 0) [0, 0] none)
      else engEnqueue s graphQueue va [] (s.engCmd .fgload ws (s.g a) false)

/-! ### Beats (R44, R77, R384–R386) -/

/-- The unit under which an engine queue asks other packages. -/
def engUnit (q : Nat) : Nat := if q ≥ 4096 then 66 else 64 + q % 2

/-- The UNIT of a fault record: copy engine, distributor, or the collective engine's program loads (R402, R383). -/
def engUnitCode (q : Nat) : Nat := if q ≥ 4096 then 6 else 3 + q % 2

/-- A beat of a copy without conversion: the bytes of one destination unit. -/
def copyBeat (s : State) (q : Nat) (c : EngCmd) (src dst : Word) (len : Nat) : Except FaultInfo EngCmd × State :=
  let a := dst + BitVec.ofNat 64 c.pos
  let n := min (len - c.pos) (64 - a.toNat % 64)
  match engineSpan 3 s c.core (engUnit q) c.ctx (src + BitVec.ofNat 64 c.pos) n with
  | (.error f, s) => (.error f, s)
  | (.ok bs, s) =>
    match engineWrite s c.core (engUnit q) c.ctx a bs false with
    | (.error f, s) => (.error f, s)
    | (.ok _, s) => (.ok { c with pos := c.pos + n, beats := c.beats + 1 }, s)

/-- Elements converted in ascending order, each drawing after the one before it (R384, R243). -/
def convElems (st dt : LaneTy) (fcr : Word) (xs : List Nat) (rs : Word) : List Nat × Flags × Word :=
  match xs with
  | [] => ([], 0, rs)
  | x :: rest =>
    let r := cvtLane dt st (Mode.ofFcr fcr true rs) (laneForm st x)
    let q := convElems st dt fcr rest r.rs
    (memForm dt (BitVec.ofNat 32 r.bits) :: q.1, r.flags ||| q.2.1, q.2.2)

/-- A beat of a converting copy: the elements of one destination unit (R384). -/
def convBeat (s : State) (q : Nat) (c : EngCmd) (d : CopyDesc) (st dt : LaneTy) : Except FaultInfo EngCmd × State :=
  let sn := nibblesOf st
  let dn := nibblesOf dt
  let a := d.dst + BitVec.ofNat 64 (c.pos * dn / 2)
  let n := min (d.count - c.pos) (2 * (64 - a.toNat % 64) / dn)
  match engineSpan 10 s c.core (engUnit q) c.ctx (d.src + BitVec.ofNat 64 (c.pos * sn / 2)) (nibBytes sn n) with
  | (.error f, s) => (.error f, s)
  | (.ok bs, s) =>
    let all := bytesToNat bs
    let xs := (List.range n).map fun i => all / 2 ^ (4 * sn * i) % 2 ^ (4 * sn)
    let r := convElems st dt c.fcr xs c.rs
    match engineWrite s c.core (engUnit q) c.ctx a (packElems dn r.1) (dn * n % 2 == 1) with
    | (.error f, s) => (.error f, s)
    | (.ok _, s) => (.ok { c with pos := c.pos + n, beats := c.beats + 1, flags := c.flags ||| r.2.1, rs := r.2.2 }, s)

/-- An element of a tensor copy moves in a beat of its own (R385; DEDUCED, log entry 27). -/
def tensorBeat (s : State) (q : Nat) (c : EngCmd) : Except FaultInfo EngCmd × State :=
  let ds := tensorDims c.words
  let es := tensorEs c.words
  match engineRead s c.core (engUnit q) c.ctx (c.words.getD 0 0 + BitVec.ofInt 64 (tensorOff TDim.ss ds c.pos)) es with
  | (.error f, s) => (.error f, s)
  | (.ok bs, s) =>
    match engineWrite s c.core (engUnit q) c.ctx (c.words.getD 1 0 + BitVec.ofInt 64 (tensorOff TDim.ds ds c.pos)) bs false with
    | (.error f, s) => (.error f, s)
    | (.ok _, s) => (.ok { c with pos := c.pos + 1, beats := c.beats + 1 }, s)

/-- A beat of a deal or gather: bytes of one block and one destination unit (R77). -/
def dealBeat (s : State) (q : Nat) (c : EngCmd) (deal : Bool) : Except FaultInfo EngCmd × State :=
  let own := c.words.getD 0 0 + BitVec.ofNat 64 c.pos
  let far := dpPlace s c.dpat c.pos
  let dst := if deal then far else own
  let left := min (field (c.words.getD 1 0) 0 32 - c.pos) (dpBlock c.dpat - c.pos % dpBlock c.dpat)
  let n := min left (64 - dst.toNat % 64)
  match engineSpan 3 s c.core (engUnit q) c.ctx (if deal then own else far) n with
  | (.error f, s) => (.error f, s)
  | (.ok bs, s) =>
    match engineWrite s c.core (engUnit q) c.ctx dst bs false with
    | (.error f, s) => (.error f, s)
    | (.ok _, s) => (.ok { c with pos := c.pos + n, beats := c.beats + 1 }, s)

/-- A beat of a helper program's load (R313). DEDUCED, log entry 27. -/
def hloadBeat (s : State) (q : Nat) (c : EngCmd) : Except FaultInfo EngCmd × State :=
  let a := c.words.getD 1 0 + BitVec.ofNat 64 c.pos
  let n := min (8 * field (c.words.getD 0 0) 48 16 - c.pos) (64 - a.toNat % 64)
  match engineRead s c.core (engUnit q) c.ctx a n with
  | (.error f, s) => (.error f, s)
  | (.ok bs, s) =>
    let h := 2 * c.core + field (c.words.getD 0 0) 0 1
    (.ok { c with pos := c.pos + n, beats := c.beats + 1 }, { s with hstore := putBytes s.hstore (16384 * h + c.pos) bs })

/-- Bytes or elements that the command moves in all. -/
def EngCmd.total (c : EngCmd) : Nat :=
  match c.kind with
  | .copy => (copyDesc c.words).elim 0 CopyDesc.count
  | .tensor => tensorCount (tensorDims c.words)
  | .deal | .gather => field (c.words.getD 1 0) 0 32
  | .hload => 8 * field (c.words.getD 0 0) 48 16
  | .fgload => 1

/-- Where a command's accesses come from: the enqueuing core, or the collective engine, which resolves no node 0xFF address
(R36). -/
def EngCmd.seat (c : EngCmd) : Nat := if c.kind = .fgload then collSeat else c.core

/-- The next beat of a command as its kind moves it. -/
def beatOf (s : State) (q : Nat) (c : EngCmd) : Except FaultInfo EngCmd × State :=
  match c.kind with
  | .copy =>
    match copyDesc c.words with
    | none => (.ok c, s)
    | some d =>
      match d.conv with
      | none => copyBeat s q c d.src d.dst d.len
      | some (st, dt) => convBeat s q c d st dt
  | .tensor => tensorBeat s q c
  | .deal => dealBeat s q c true
  | .gather => dealBeat s q c false
  | .hload => hloadBeat s q c
  | .fgload => graphBeat s (engUnit q) c

/-- The next beat of a command, unless its engine meets a lasting error (R409). -/
def nextBeat (s : State) (q : Nat) (c : EngCmd) : Except FaultInfo EngCmd × State :=
  let g := if q < 4096 then s.parityGuard c.core (engUnitCode q) else (true, s)
  if g.1 then beatOf g.2 q c else (.error (machineCheck (engUnitCode q)), g.2)

/-- The head of an engine queue changes. -/
def State.setHead (s : State) (q : Nat) (c : EngCmd) : State :=
  let x := s.engine q
  s.setEngine q { x with cmds := match x.cmds with | _ :: r => c :: r | [] => [] }

/-- A beat fails: the command stops there, its record is posted, and a violation freezes the queue (R44, R56, R401).
DEDUCED, log entry 26. -/
def State.stopEngine (s : State) (q : Nat) (c : EngCmd) (f : FaultInfo) : State :=
  let freeze := isViolation f.cause
  let s := ((s.setHead q { c with err := some f }).dropHost c.seat c.ctx).dropAsks c.seat (engUnit q)
  let s := if freeze then (s.setEngine q { s.engine q with frozen := true }).stepReg regFrozen 0 16 else s
  s.faultAsync c.core c.slot (engUnitCode q) c.ctx c.pid c.pc f freeze

/-- A graph is not loaded: its fault is posted and the command retires with STATUS 1; where a beat failed it stays
incomplete, and the next load follows (R44, R397; DEDUCED, log entry 34). -/
def State.failGraph (s : State) (q : Nat) (c : EngCmd) (f : FaultInfo) : State :=
  let s := (s.dropHost c.seat c.ctx).dropAsks c.seat (engUnit q)
  let s := s.faultAsync c.core c.slot (engUnitCode q) c.ctx c.pid c.pc f false
  if f.cause = 0x0A0 then s.push (.commandCompletion q 1)
  else
    let x := s.engine q
    (s.setEngine q { x with cmds := x.cmds.drop 1 }).push (.engineBeat q)

/-- A beat of the command at the head of an engine queue; its ranges retire with the last (R44, R71, R138). -/
def execEngineBeat (queue : Nat) (s : State) : Out :=
  let x := s.engine queue
  match x.cmds with
  | [] => .next s
  | c :: _ =>
    if x.frozen || c.err.isSome then .next s
    else if c.pre && (s.proc c.pid).outst.any (fun o => c.waits.contains o.sn) then .next (s.later (.engineBeat queue))
    else if c.total ≤ c.pos then .next (s.push (.commandCompletion queue 0))
    else
      match nextBeat s queue c with
      | (.error f, s) =>
        if f.cause = notYet then .next (s.later (.engineBeat queue))
        else if queue ≥ 4096 then .next (s.failGraph queue c f)
        else .next (s.stopEngine queue c f)
      | (.ok c, s) =>
        let s := ((s.setHead queue c).dropHost c.seat c.ctx).dropAsks c.seat (engUnit queue)
        .next (if c.total ≤ c.pos then (s.dropScore c.core c.cmd).push (.commandCompletion queue 0) else s.push (.engineBeat queue))

/-! ### Completion (R138, R383) -/

/-- The completion word of R383. -/
def EngCmd.doneWord (c : EngCmd) (status : Nat) : Word :=
  BitVec.ofNat 64 (c.beats % 2 ^ 32 * 2 ^ 32 + c.flags.toNat % 32 * 2 ^ 8 + status % 256)

/-- The completion word is written with release order at scope 6. DEDUCED, log entry 74. -/
def writeDone (s : State) (core unit : Nat) (c : Byte) (done x : Word) : Except FaultInfo Unit × State :=
  match s.nodeOf core c done needWr with
  | some node =>
    match s.askNode node core unit c done 8 (.store x) .rel with
    | (.error f, s) => (.error f, s)
    | (.ok _, s) => (.ok (), s.dropAsks core unit)
  | none => writeBeat s core c done (natToBytes 8 x.toNat) 6

/-- The command leaves its queue, its counter and the scoreboard; its flags wait for a `waitc` (R287, R383). DEDUCED, log entry 74. -/
def State.retireEngine (s : State) (q : Nat) (c : EngCmd) : State :=
  let x := s.engine q
  let s := s.setEngine q { x with cmds := x.cmds.drop 1 }
  let s := (s.dropScore c.core c.cmd).touch c.pid fun p =>
    let q : Proc := { p with cnt := p.cnt.down .copies }
    if q.away then q.orFsr c.flags else { q with lateCp := q.lateCp ||| c.flags }
  let s := s.settleDone c.pid
  if x.cmds.length > 1 then s.push (.engineBeat q) else s

/-- The command at the head of a queue has ended, `status` 0, or is retired by a discard, `status` 1 (R383). -/
def execCommandCompletion (queue status : Nat) (s : State) : Out :=
  match (s.engine queue).cmds with
  | [] => .next s
  | c :: _ =>
    if status = 0 ∧ (c.pos < c.total ∨ c.err.isSome) then .next s
    else if c.done = 0 then .next (s.retireEngine queue c)
    else
      match writeDone s c.seat (engUnit queue) c.ctx c.done (c.doneWord status) with
      | (.ok _, s) => .next (s.retireEngine queue c)
      | (.error f, s) =>
        if f.cause = notYet then .next (s.later (.commandCompletion queue status))
        else
          .next ((s.faultAsync c.core c.slot (engUnitCode queue) c.ctx c.pid c.pc { f with tval := c.done } false).retireEngine
            queue c)

end Sys2Proof.Machine
end

