-- ==== Sys2Proof/Machine/Collective.lean ====
section
/-! DEFINITION. Collectives and the truss queues (spec/15 R387–R394, spec/17 R422–R427): posts, announcements and their
comparison, the exchange derived axis by axis, chunks and their arbitration, completion. How an exchange is cut where
the manual leaves it open stands in log entry 33 (DEDUCED). -/

namespace Sys2Proof.Machine

/-! ### Communicators and layouts (R387–R390) -/

def commCid (cw : List Word) : Nat := field (cw.getD 0 0) 0 12
def commPrio (cw : List Word) : Nat := field (cw.getD 0 0) 29 3
def commNax (cw : List Word) : Nat := field (cw.getD 0 0) 20 4
def commSizes (cw : List Word) : List Nat := (List.range 4).map fun a => field (cw.getD 1 0) (16 * a) 16
def product (xs : List Nat) : Nat := xs.foldl (· * ·) 1
/-- P, the number of members. -/
def commCount (cw : List Word) : Nat := product (commSizes cw)

/-- The reserved fields and the sizes of a communicator descriptor are as R387 has them. -/
def commOk (cw : List Word) : Bool :=
  let w := cw.getD 0 0
  let sz := commSizes cw
  field w 32 32 == 0 && field w 24 5 == 0 && field w 12 8 == 0 && decide (1 ≤ commNax cw) && decide (commNax cw ≤ 4) &&
  (sz.all fun n => decide (1 ≤ n) && decide (n ≤ 1024)) && ((sz.drop (commNax cw)).all (· == 1)) &&
  ((cw.drop 3).all (· == 0)) && (cw.getD 2 0).toNat % 8 == 0

/-- A member table entry: node and logical core; every other bit is zero (R387). -/
def entryOk (w : Word) : Bool := field w 10 46 == 0
def entryNode (w : Word) : Nat := field w 56 8

/-- The code of a layout along axis `a` (R388). -/
def layAt (l a : Nat) : Nat := l / 16 ^ a % 16
/-- The dimension that a code shards. -/
def shardOf (c : Nat) : Option Nat := if 4 ≤ c ∧ c ≤ 7 then some (c - 4) else none

/-- The layout after the exchanges over axes below `a`. -/
def layBefore (slay dlay a : Nat) : Nat := dlay % 16 ^ a + (slay / 16 ^ a) * 16 ^ a

/-- The axes over which the layouts differ, ascending: the exchange steps (R389). -/
def stepAxes (slay dlay : Nat) : List Nat := (List.range 4).filter fun a => decide (layAt slay a ≠ layAt dlay a)

/-- The extent of dimension `d` of a block (R390). -/
def blockExtent (ext sizes : List Nat) (lay d : Nat) : Nat :=
  match (List.range 4).find? fun a => decide (layAt lay a = 4 + d) with
  | some a => ext.getD d 1 / max 1 (sizes.getD a 1)
  | none => ext.getD d 1
def blockDims (ext sizes : List Nat) (lay : Nat) : List Nat := (List.range 4).map (blockExtent ext sizes lay)

/-- A transition that R389 allows. -/
def transitionOk (x y : Nat) : Bool := decide (x = y) || decide (y ≠ 1)

/-- No two axes of a layout shard one dimension, and sharding axes divide their extents (R390). -/
def layoutFits (ext sizes : List Nat) (lay : Nat) : Bool :=
  (List.range 4).all fun a =>
    match shardOf (layAt lay a) with
    | none => true
    | some d => decide (ext.getD d 1 % max 1 (sizes.getD a 1) = 0) &&
        (List.range 4).all fun b => decide (b = a) || decide (layAt lay b ≠ layAt lay a)

/-- A layout names states that are not reserved, and REP on the axes beyond NAX (R388). -/
def layoutCodesOk (lay nax : Nat) : Bool :=
  (List.range 4).all fun a => decide (layAt lay a < 8) && decide (layAt lay a ≠ 3) && (decide (a < nax) || layAt lay a == 0)

/-- What a collective descriptor asks for (R388). -/
structure CollDesc where
  comm : Word
  slay : Nat
  dlay : Nat
  ext : List Nat
  sbuf : Word
  dbuf : Word
  op : Nat               -- 0 SUM, 1 MAX, 2 MIN, 3 DCMERGE
  ety : Nat              -- 0 f32, 1 s32, 2 n32, 3 bf16
  deriving DecidableEq, Repr

def collDesc (ws : List Word) : CollDesc :=
  let w := fun i => ws.getD i 0
  { comm := w 0, slay := field (w 1) 0 16, dlay := field (w 2) 0 16,
    ext := [field (w 3) 0 32, field (w 3) 32 32, field (w 4) 0 32, field (w 4) 32 32], sbuf := w 5, dbuf := w 6,
    op := field (w 7) 8 4, ety := field (w 7) 0 4 }

/-- Bytes of an element (R388). -/
def CollDesc.es (d : CollDesc) : Nat := if d.op = 3 then 1024 else if d.ety = 3 then 2 else 4

/-- Bytes of a block under a layout. -/
def CollDesc.blockLen (d : CollDesc) (sizes : List Nat) (lay : Nat) : Nat := product (blockDims d.ext sizes lay) * d.es

/-- Fields, transitions and layouts of a collective descriptor are as R388 to R390 require; ranges apart. -/
def collFieldsOk (ws cw : List Word) : Bool :=
  let w := fun i => ws.getD i 0
  let d := collDesc ws
  let sizes := commSizes cw
  let axes := stepAxes d.slay d.dlay
  field (w 1) 16 48 == 0 && field (w 2) 16 48 == 0 && field (w 7) 12 20 == 0 && field (w 7) 4 4 == 0 &&
  decide (d.op ≤ 3) && decide (if d.op = 3 then d.ety = 0 else d.ety ≤ 3) && (d.ext.all fun e => decide (1 ≤ e)) &&
  layoutCodesOk d.slay (commNax cw) && layoutCodesOk d.dlay (commNax cw) &&
  ((List.range 4).all fun a => transitionOk (layAt d.slay a) (layAt d.dlay a)) &&
  ((axes.map (layBefore d.slay d.dlay)) ++ [d.dlay]).all (layoutFits d.ext sizes)

/-! ### Ranks and coordinates (R387) -/

def strideOf (sizes : List Nat) (a : Nat) : Nat := product (sizes.take a)
def coordAt (sizes : List Nat) (a r : Nat) : Nat := r / strideOf sizes a % sizes.getD a 1
/-- The member of `r`'s group along axis `a` whose coordinate is `c`. -/
def rankAt (sizes : List Nat) (a r c : Nat) : Nat := r - coordAt sizes a r * strideOf sizes a + c * strideOf sizes a

/-- A member holds a block under a layout: no ROOT axis excludes it (R390). -/
def holdsBlock (sizes : List Nat) (lay r : Nat) : Bool :=
  (List.range 4).all fun a => decide (layAt lay a ≠ 2) || decide (coordAt sizes a r = 0)

/-! ### Blocks as elements (R390) -/

/-- Coordinates of element `i`, dimension 0 fastest. -/
def elemCoords (dims : List Nat) (i : Nat) : List Nat :=
  match dims with
  | [] => []
  | n :: r => i % n :: elemCoords r (i / n)

/-- The index of an element. -/
def elemIndex (dims js : List Nat) : Nat :=
  match dims, js with
  | n :: r, j :: t => j + n * elemIndex r t
  | _, _ => 0

def elemAt (es : Nat) (bs : List Byte) (i : Nat) : List Byte := (bs.drop (es * i)).take es

/-- Part `c` of `k` equal parts of a block along dimension `d`. -/
def slicePart (dims : List Nat) (es : Nat) (bs : List Byte) (d c k : Nat) : List Byte :=
  let n := dims.getD d 1 / max 1 k
  let out := dims.set d n
  (List.range (product out)).flatMap fun i =>
    let js := elemCoords out i
    elemAt es bs (elemIndex dims (js.set d (js.getD d 0 + c * n)))

/-- Blocks of the same shape joined along dimension `d`, in order. -/
def joinParts (dims : List Nat) (es : Nat) (parts : List (List Byte)) (d : Nat) : List Byte :=
  let n := dims.getD d 1
  let out := dims.set d (n * parts.length)
  (List.range (product out)).flatMap fun i =>
    let js := elemCoords out i
    elemAt es (parts.getD (js.getD d 0 / max 1 n) []) (elemIndex dims (js.set d (js.getD d 0 % max 1 n)))

/-! ### Reduction (R258, R391) -/

/-- A DC record taken as R358 lays it out. -/
def dcRecord (bs : List Byte) : DC :=
  let r := fieldAt bs 64 768
  { ktype := fieldAt bs 2 1 % 16, ncount := fieldAt bs 8 8, regs := (List.range 1024).map fun j => r / 64 ^ j % 64 }

/-- A node over two elements: one rounding, RNE, subnormals exact (R391). -/
def collNode (op ety : Nat) (a b : List Byte) : List Byte × Flags :=
  let x := bytesToNat a
  let y := bytesToNat b
  if op = 3 then
    let p := dcRecord a
    let q := dcRecord b
    ((Sketch.dc (({ p with ktype := if p.ktype = 15 then q.ktype else p.ktype } : DC).merge q)).image, 0)
  else if ety = 3 then
    (if op = 0 then
       let r := addV fmtBf16 Mode.rne (decodeF fmtBf16 x) (decodeF fmtBf16 y)
       (natToBytes 2 r.bits, r.flags)
     else
       let r := binLane (if op = 1 then .max else .min) .f32 Mode.rne (BitVec.ofNat 32 (x * 65536)) (BitVec.ofNat 32 (y * 65536))
       (natToBytes 2 (r.1.toNat / 65536), r.2))
  else
    let r := binLane (if op = 0 then .add else if op = 1 then .max else .min) (xType (BitVec.ofNat 4 ety)) Mode.rne
      (BitVec.ofNat 32 x) (BitVec.ofNat 32 y)
    (natToBytes 4 r.1.toNat, r.2)

/-- Two blocks combined element by element; `n` elements. -/
def collZip (op ety es n : Nat) (a b : List Byte) : List Byte × Flags :=
  match n with
  | 0 => ([], 0)
  | k + 1 =>
    let h := collNode op ety (a.take es) (b.take es)
    let r := collZip op ety es k (a.drop es) (b.drop es)
    (h.1 ++ r.1, h.2 ||| r.2)

/-- One level of the pairwise tree over blocks. -/
def collLevel (f : List Byte → List Byte → List Byte × Flags) (xs : List (List Byte)) : List (List Byte) × Flags :=
  match xs with
  | a :: b :: r =>
    let n := f a b
    let t := collLevel f r
    (n.1 :: t.1, n.2 ||| t.2)
  | xs => (xs, 0)

/-- The pairwise tree over blocks (R258); `fuel` levels. -/
def collTree (f : List Byte → List Byte → List Byte × Flags) (xs : List (List Byte)) (fuel : Nat) : List Byte × Flags :=
  match fuel with
  | 0 => (xs.headD [], 0)
  | n + 1 =>
    if xs.length ≤ 1 then (xs.headD [], 0)
    else
      let l := collLevel f xs
      let r := collTree f l.1 n
      (r.1, l.2 ||| r.2)

/-! ### One exchange step (R389) -/

/-- A collective's step over one axis, as its posts give it. -/
structure Exch where
  d : CollDesc
  sizes : List Nat
  axis : Nat
  lay : Nat              -- the layout before the step
  chain : Bool           -- its reductions pass from member to member (R395)
  deriving DecidableEq, Repr

def Exch.old (e : Exch) : Nat := layAt e.lay e.axis
def Exch.new (e : Exch) : Nat := layAt e.d.dlay e.axis
def Exch.size (e : Exch) : Nat := e.sizes.getD e.axis 1
def Exch.coord (e : Exch) (r : Nat) : Nat := coordAt e.sizes e.axis r
def Exch.rank (e : Exch) (r c : Nat) : Nat := rankAt e.sizes e.axis r c
/-- The member takes part: no other ROOT axis excludes it. -/
def Exch.inPlay (e : Exch) (r : Nat) : Bool :=
  (List.range 4).all fun b => decide (b = e.axis) || decide (layAt e.lay b ≠ 2) || decide (coordAt e.sizes b r = 0)
/-- A coordinate gives parts to others, or takes them. -/
def Exch.sends (e : Exch) (c : Nat) : Bool := if e.old = 0 then false else if e.old = 2 then decide (c = 0) else true
def Exch.takes (e : Exch) (c : Nat) : Bool := decide (e.old ≠ 0) && (decide (e.new ≠ 2) || decide (c = 0))
/-- A chain carries the step. -/
def Exch.chained (e : Exch) : Bool := e.chain && decide (e.old = 1) && decide (1 < e.size)

/-- The shape of what one member gives another. -/
def Exch.partDims (e : Exch) : List Nat :=
  let dims := blockDims e.d.ext e.sizes e.lay
  match shardOf e.new with
  | some f => dims.set f (dims.getD f 1 / max 1 e.size)
  | none => dims

/-- The part of a block that member `dst` needs. DEDUCED, log entry 33. -/
def Exch.part (e : Exch) (block : List Byte) (dst : Nat) : List Byte :=
  match shardOf e.new with
  | some f => slicePart (blockDims e.d.ext e.sizes e.lay) e.d.es block f (e.coord dst) e.size
  | none => block

def Exch.partLen (e : Exch) : Nat := product e.partDims * e.d.es
def chunkBytes : Nat := 16384
def Exch.chunkCount (e : Exch) : Nat := ceilDiv e.partLen chunkBytes
def chunkOf (bs : List Byte) (i : Nat) : List Byte := (bs.drop (chunkBytes * i)).take chunkBytes

/-- A reduction of two parts. -/
def Exch.combine (e : Exch) (a b : List Byte) : List Byte × Flags := collZip e.d.op e.d.ety e.d.es (a.length / e.d.es) a b

/-- A chunk's key: post number, step, sender, destination, chunk index. -/
def chunkKey (num step src dst idx : Nat) : Nat := (((num * 2 ^ 8 + step) * 2 ^ 20 + src) * 2 ^ 20 + dst) * 2 ^ 20 + idx
def keyIdx (k : Nat) : Nat := k % 2 ^ 20
def keyDst (k : Nat) : Nat := k / 2 ^ 20 % 2 ^ 20
def keySrc (k : Nat) : Nat := k / 2 ^ 40 % 2 ^ 20
def keyStep (k : Nat) : Nat := k / 2 ^ 60 % 2 ^ 8
def keyNum (k : Nat) : Nat := k / 2 ^ 68

/-- Where the sender of a chunk sends it: to its destination, or on a chain to the next coordinate (R395). -/
def Exch.target (e : Exch) (src dst : Nat) : Nat :=
  if e.chained then e.rank src ((e.coord src + 1) % e.size) else dst

/-- The parts that a member sends of its own: destinations. A chain toward a coordinate begins at the next one. -/
def Exch.dests (e : Exch) (r : Nat) : List Nat :=
  if !e.inPlay r then []
  else
    let cs := (List.range e.size).filter fun c =>
      e.takes c && decide (c ≠ e.coord r) && (if e.chained then decide (e.coord r = (c + 1) % e.size) else e.sends (e.coord r))
    cs.map (e.rank r)

/-- The parts that come to a member: sender and destination. -/
def Exch.arrivals (e : Exch) (r : Nat) : List (Nat × Nat) :=
  if !e.inPlay r then []
  else if e.chained then
    ((List.range e.size).filter fun c => e.takes c && decide (e.coord r ≠ (c + 1) % e.size)).map fun c =>
      (e.rank r ((e.coord r + e.size - 1) % e.size), e.rank r c)
  else
    ((List.range e.size).filter fun c => e.sends c && decide (c ≠ e.coord r) && e.takes (e.coord r)).map fun c => (e.rank r c, r)

/-- The block of a member after the step, from its own block and the parts that have come; `none` where it holds none. -/
def Exch.newBlock (e : Exch) (r : Nat) (own : Option (List Byte)) (got : List (Nat × List Byte)) (num step : Nat) :
    Option (List Byte) × Flags :=
  let from_ := fun (src : Nat) => (List.range e.chunkCount).flatMap fun i =>
    ((got.find? fun g => decide (g.1 = chunkKey num step src r i)).map (·.2)).getD []
  let mine := (own.map fun b => e.part b r).getD []
  if !e.inPlay r || (decide (e.new = 2) && decide (e.coord r ≠ 0)) then (none, 0)
  else if e.chained then (some (from_ (e.rank r ((e.coord r + e.size - 1) % e.size))), 0)
  else
    let parts := (List.range e.size).map fun c => if c = e.coord r then mine else from_ (e.rank r c)
    if e.old = 0 then (some mine, 0)
    else if e.old = 1 then
      let t := collTree e.combine parts 11
      (some t.1, t.2)
    else if e.old = 2 then (some (parts.headD []), 0)
    else
      match shardOf e.old with
      | some f => (some (joinParts e.partDims e.d.es parts f), 0)
      | none => (some mine, 0)

/-! ### Posting (R387–R392, R422) -/

/-- COLL_LAYOUT in the poster: nothing is posted. -/
def badColl (s : State) (va : Word) : Out := .next (s.dropWords.raiseAfter 0x142 va [] none)

/-- The post queue has no place (R422). -/
def State.postsFull (s : State) : Bool :=
  decide (1024 ≤ s.posts.length + (s.heldCmds.filter fun h => match h with | .post _ => true | _ => false).length)

/-- The ranges of a post: SBUF and DBUF do not overlap without being equal (R390). -/
def buffersOk (s : State) (d : CollDesc) (sizes : List Nat) (r : Nat) : Bool :=
  let n := d.blockLen sizes d.slay
  let m := d.blockLen sizes d.dlay
  !(holdsBlock sizes d.slay r && holdsBlock sizes d.dlay r && s.rangesMeet d.sbuf n d.dbuf m &&
    !(s.rangeKey s.cur.core d.sbuf == s.rangeKey s.cur.core d.dbuf && n == m))

/-- A post whose words have been read: the last checks, then the engine's queue (R382, R390, R392). -/
def postColl (s : State) (va done : Word) (ws cw tab : List Word) : Out :=
  let d := collDesc ws
  let own := BitVec.ofNat 64 (s.mynode * 2 ^ 56 + (s.core s.cur.core).lcore)
  match tab.findIdx? (· = own) with
  | none => badColl s va
  | some r =>
    if !tab.all entryOk || !collFieldsOk ws cw || !memSpace s.cur.core d.sbuf || !memSpace s.cur.core d.dbuf ||
       !buffersOk s d (commSizes cw) r then badColl s va
    else
      match doneCheck s va done with
      | (some f, s) => .next (s.raiseAfter f.cause f.tval f.words none)
      | (none, s) =>
        enqueueCmd s .transfers s.postsFull []
          (.post { pid := s.cur.pid, slot := s.cur.unit, core := s.cur.core, ctx := s.cur.ctx, cmd := s.accs + 1,
                   cid := commCid cw, num := 0, rank := r, comm := cw, words := ws, table := tab, va := va, done := done,
                   told := false, pc := s.cur.pc })

/-- Post a collective (R388–R392): its descriptor, its communicator's and the member table are read and checked. -/
def execCpost (l : Lone) (a b : Reg) (s : State) : Out :=
  let va := s.descOp l b
  engMore s l b graphQueue 8 fun s ws =>
    let comm := ws.getD 0 0
    if comm.toNat % 64 ≠ 0 || !memSpace s.cur.core comm then badColl s va
    else
      withMore s comm 8 fun s cw =>
        if !commOk cw then badColl s va
        else withWords s (cw.getD 2 0) (commCount cw) fun s tab => postColl s va (s.g a) ws cw tab

/-! ### Local posts and announcements (R422, R426) -/

/-- The local posts of a number, by rank. -/
def State.postsOf (s : State) (cid num : Nat) : List Post := s.posts.filter fun p => decide (p.cid = cid ∧ p.num = num)

/-- Numbers as they first stand in a list. -/
def firsts (xs seen : List Nat) : List Nat :=
  match xs with
  | [] => seen
  | x :: r => firsts r (if seen.contains x then seen else seen ++ [x])

/-- The communicators that are active: those of the oldest posts, 256 at most (R422). -/
def State.activeCids (s : State) : List Nat := (firsts (s.posts.map (·.cid)) []).take 256

/-- The packages that hold a member, but for this one. -/
def State.otherNodes (s : State) (tab : List Word) : List Nat :=
  (firsts (tab.map entryNode) []).filter fun n => decide (n ≠ s.mynode)

def regOvfBase : Nat := blockAddr 0 0x20 0x000
def regOvfCnt : Nat := blockAddr 0 0x20 0x008
def regOvfRetry : Nat := blockAddr 0 0x20 0x010

/-- The address of an entry of the overflow pool. -/
def State.poolAddr (s : State) (i : Nat) : Nat := (s.reg regOvfBase).toNat % 2 ^ 53 + 64 * i

/-- The first entry of the overflow pool that holds nothing. -/
def State.poolFree (s : State) : Option Nat :=
  (List.range (min (field (s.reg regOvfCnt) 0 21) (s.anns.length + 1))).find? fun i => !s.anns.any fun e => e.1 == some i

/-- OVFFREE: the entries that hold nothing. -/
def State.poolCount (s : State) : State :=
  let used := (s.anns.filter fun e => e.1.isSome).length
  s.setReg regOvfCnt (setField (s.reg regOvfCnt) 32 20 (field (s.reg regOvfCnt) 0 21 - used))

/-- The link word of each entry of a communicator's list (R426). -/
def State.chainPool (s : State) (cid : Nat) : State :=
  let es := (s.anns.filter fun e => decide (e.2.cid = cid)).filterMap (·.1)
  (List.zip es ((es.drop 1).map some ++ [none])).foldl (fun s p =>
    s.poke (s.poolAddr p.1) (BitVec.ofNat 64 ((p.2.map s.poolAddr).getD 0))) s

/-- An announcement is stored in an entry of the pool, at the end of its communicator's list (R426). -/
def State.poolStore (s : State) (i : Nat) (a : AnnMsg) : State :=
  let g := fun k => a.sig.getD k 0
  let ws := [0, BitVec.ofNat 64 (a.num % 2 ^ 32 * 2 ^ 32 + a.cid * 2 ^ 20 + a.rank % 1024 * 2 ^ 10 + field (g 3) 0 8), g 0, g 1, g 2] ++
    a.comm.take 3
  let s : State := { s with mem := pokeWords s.mem (s.poolAddr i) ws, anns := s.anns ++ [(some i, a)] }
  (s.chainPool a.cid).poolCount

/-- The announcements of a communicator that the pool holds for a number now posted here leave it (R426). -/
def State.poolTake (s : State) (cid num : Nat) : State :=
  let s : State :=
    { s with anns := s.anns.map fun e => if e.2.cid = cid ∧ e.2.num = num then (none, e.2) else e }
  (s.chainPool cid).poolCount

/-- An announcement of a number that is posted here joins those that have come. -/
def State.noteAnn (s : State) (a : AnnMsg) : State :=
  if s.anns.any fun e => decide (e.2.cid = a.cid ∧ e.2.num = a.num ∧ e.2.rank = a.rank) then s
  else { s with anns := s.anns ++ [(none, a)] }

/-- A local post announces itself to the other packages, once. -/
def State.tell (s : State) (p : Post) (a : AnnMsg) : State :=
  if p.told then s
  else
    let s : State := { s with posts := s.posts.map fun q => if q = p then { q with told := true } else q }
    (s.otherNodes p.table).foldl (fun s n => s.sendFlit n p.ctx 3 (.announce a)) s

/-- An asynchronous fault of a post (R401). -/
def State.postFault (s : State) (p : Post) (f : FaultInfo) : State := s.faultAsync p.core p.slot 6 p.ctx p.pid p.pc f false

/-! ### The exchange (R389, R422, R423) -/

/-- The descriptor and sizes of a collective in progress, from any of its posts. -/
def State.collShape (s : State) (c : Coll) : CollDesc × List Nat :=
  match s.postsOf c.cid c.num with
  | p :: _ => (collDesc p.words, commSizes p.comm)
  | [] => (collDesc [], [1, 1, 1, 1])

/-- The step that a collective is at, if any is left. DEDUCED, log entry 33. -/
def State.exchOf (s : State) (c : Coll) : Option Exch :=
  let x := s.collShape c
  ((stepAxes x.1.slay x.1.dlay)[c.step]?).map fun a =>
    { d := x.1, sizes := x.2, axis := a, lay := layBefore x.1.slay x.1.dlay a, chain := c.chain }

def State.collOf (s : State) (cid : Nat) : Option Coll := s.colls.find? fun c => decide (c.cid = cid)
def State.setColl (s : State) (x : Coll) : State :=
  { s with colls := s.colls.map fun c => if c.cid = x.cid then x else c }

/-- The member table entry of a rank of a collective. -/
def State.memberEntry (s : State) (c : Coll) (r : Nat) : Word :=
  match s.postsOf c.cid c.num with
  | p :: _ => p.table.getD r 0
  | [] => 0

def collBlock (c : Coll) (r : Nat) : Option (List Byte) := (c.blocks.find? fun e => decide (e.1 = r)).map (·.2)

/-- Space for a chunk is asked for at its receiver (R423). -/
def State.askSpace (s : State) (c : Coll) (p : Piece) : State :=
  let n := entryNode (s.memberEntry c p.target)
  if n = s.mynode then s.push (.chunkGrant c.cid p.key 16) else s.sendFlit n 0 3 (.chunkReq c.cid p.key)

/-- The chunks of parts that a member gives in a step. -/
def piecesOf (e : Exch) (c : Coll) (r : Nat) (block : List Byte) : List Piece :=
  (e.dests r).flatMap fun dst =>
    let part := e.part block dst
    (List.range e.chunkCount).map fun i =>
      { key := chunkKey c.num c.step r dst i, target := e.target r dst, bytes := chunkOf part i, st := 0, res := 0, vc := 0 }

/-- New chunks of a collective ask for space. -/
def State.launchPieces (s : State) (c : Coll) (ps : List Piece) : State :=
  ps.foldl (fun s p => s.askSpace c p) (s.setColl { c with pieces := c.pieces ++ ps })

/-- The step begins: every local member's parts are cut (R422, R423). -/
def State.startStep (s : State) (c : Coll) : State :=
  match s.exchOf c with
  | none => (s.setColl c).push (.collComplete c.cid c.num)
  | some e => s.launchPieces c (c.blocks.flatMap fun b => piecesOf e c b.1 b.2)

/-- A chunk has come to a local member. On a chain it is combined with the member's own chunk, unless units have done
so, and goes on to the next member or ends as its part of the result (R391, R395, R427). -/
def State.integrate (s : State) (c : Coll) (e : Exch) (key : Nat) (bytes : List Byte) (combined : Bool) : State :=
  if !e.chained then s.setColl { c with got := c.got ++ [(key, bytes)] }
  else
    let r := e.target (keySrc key) (keyDst key)
    let own := chunkOf (e.part ((collBlock c r).getD []) (keyDst key)) (keyIdx key)
    let x := if combined then (bytes, (0 : Flags)) else e.combine bytes own
    let c := { c with flags := c.flags ||| x.2, got := c.got ++ [(key, x.1)] }
    if r = keyDst key then s.setColl c
    else
      s.launchPieces c [{ key := chunkKey c.num c.step r (keyDst key) (keyIdx key), target := e.target r (keyDst key), bytes := x.1,
                          st := 0, res := 0, vc := 0 }]

/-- Every chunk of the step has gone, and every chunk for a local member has come. -/
def stepDone (e : Exch) (c : Coll) (locals : List Nat) : Bool :=
  c.pieces.all (fun p => decide (p.st = 2)) &&
  locals.all fun r => (e.arrivals r).all fun a =>
    (List.range e.chunkCount).all fun i => c.got.any fun g => decide (g.1 = chunkKey c.num c.step a.1 a.2 i)

/-- A buffer holds a whole chunk of the step. -/
def bufReady (c : Coll) (b : ChunkBuf) : Bool :=
  decide (b.cid = c.cid) && decide (keyNum b.key = c.num) && decide (keyStep b.key = c.step) && decide (0 < b.need) &&
  decide (b.need ≤ b.bytes.length) && !b.inside

/-- The exchange of a communicator goes on as far as it can; `fuel` bounds the buffers taken and the steps ended. -/
def pumpColl (fuel : Nat) (s : State) (cid : Nat) : State :=
  match fuel with
  | 0 => s
  | n + 1 =>
    match s.collOf cid with
    | none => s
    | some c =>
      match s.exchOf c with
      | none => s
      | some e =>
        if c.status ≠ 0 then s
        else
          match s.chunkBufs.find? fun b => bufReady c b && (decide (16 ≤ b.link) || (s.graphAt cid b.link).isEmpty) with
          | some b =>
            pumpColl n (({ s with chunkBufs := s.chunkBufs.filter fun x => decide (x ≠ b) }).integrate c e b.key b.bytes false) cid
          | none =>
            let locals := (s.postsOf cid c.num).map (·.rank)
            if !stepDone e c locals then s
            else
              let news := locals.map fun r => (r, e.newBlock r (collBlock c r) c.got c.num c.step)
              let c := { c with step := c.step + 1, pieces := [], got := [],
                                blocks := news.filterMap fun x => x.2.1.map fun b => (x.1, b),
                                flags := news.foldl (fun f x => f ||| x.2.2) c.flags }
              pumpColl n (s.startStep c) cid

def State.pump (s : State) (cid : Nat) : State := pumpColl 80 s cid

/-- The source blocks of the local members, read at once (R390); `none` while one is not to be had yet. -/
def readSources (s : State) (sizes : List Nat) (ps : List Post) : Except (Post × FaultInfo) (List (Nat × List Byte)) × State :=
  match ps with
  | [] => (.ok [], s)
  | p :: r =>
    let d := collDesc p.words
    let n := d.blockLen sizes d.slay
    if !holdsBlock sizes d.slay p.rank then readSources s sizes r
    else
      match readRange (n / 64 + 2) s collSeat p.ctx d.sbuf n with
      | (.error f, s) => (.error (p, f), s)
      | (.ok bs, s) =>
        match readSources s sizes r with
        | (.ok l, s) => (.ok ((p.rank, bs) :: l), s)
        | x => x

/-- The communicator words of a number's posts. -/
def commOf (ps : List Post) : List Word :=
  match ps with
  | p :: _ => p.comm
  | [] => []

/-- The cause that ends a collective before it begins: communicator words that differ, or signatures (R392). -/
def annsDiffer (as : List AnnMsg) : Option Nat :=
  match as with
  | [] => none
  | a :: r => if r.any fun b => decide (b.comm ≠ a.comm) then some 0x142 else if r.any fun b => decide (b.sig ≠ a.sig) then some 0x141 else none

/-- Every member of a number has been announced: the posts are compared, and the exchange begins or is aborted (R392,
R422). The announcement waits when a source cannot be read yet. -/
def State.beginColl (s : State) (a : AnnMsg) : State :=
  let ps := s.postsOf a.cid a.num
  let as := (s.anns.filter fun e => decide (e.2.cid = a.cid ∧ e.2.num = a.num)).map (·.2)
  if ps.isEmpty || as.length < commCount (commOf ps) || (s.collOf a.cid).isSome ||
     s.posts.any (fun p => decide (p.cid = a.cid ∧ p.num < a.num)) then s
  else
    let base : Coll := { cid := a.cid, num := a.num, status := 0, step := 0, blocks := [], pieces := [], got := [], chain := false,
                         flags := 0 }
    match annsDiffer as with
    | some cause =>
      let s := ps.foldl (fun s p => s.postFault p { cause := cause, tval := p.va, words := [] }) s
      ({ s with colls := s.colls ++ [{ base with status := 2 }] }).push (.collComplete a.cid a.num)
    | none =>
      match readSources s (commSizes (commOf ps)) ps with
      | (.error (p, f), s) => if f.cause = notYet then s.later (.collAnnounce a) else s.postFault p f
      | (.ok bs, s) =>
        let chain := (List.range 16).any fun l => !(s.graphAt a.cid l).isEmpty
        let c := { base with blocks := bs, chain := chain }
        (({ s with colls := s.colls ++ [c] }).startStep c).pump a.cid

/-- An announcement reaches the engine (R422, R426): one of this package is sent on to the others when its
communicator is active; one from another package is kept, in the pool while its number is not posted here. DEDUCED, log entry 66. -/
def execCollAnnounce (a : AnnMsg) (s : State) : Out :=
  let ps := s.postsOf a.cid a.num
  if a.node = s.mynode then
    match ps.find? fun p => decide (p.rank = a.rank) with
    | none => .next s
    | some p =>
      if !s.activeCids.contains a.cid then .next (s.later (.collAnnounce a))
      else .next ((((s.tell p a).noteAnn a).poolTake a.cid a.num).beginColl a)
  else if !ps.isEmpty then .next ((s.noteAnn a).beginColl a)
  else
    match s.poolFree with
    | some i => .next (s.poolStore i a)
    | none => .next ((s.bumpReg regOvfRetry 0 64).after (10 * Config.cyclesPerUs) (.announceRetry a))

/-- A refused announcement is sent again after 10 µs (R426). -/
def execAnnounceRetry (a : AnnMsg) (s : State) : Out := .next (s.push (.collAnnounce a))

/-! ### Chunks (R423, R424, R427) -/

/-- A chunk of a communicator that waits to move. -/
def State.pieceOf (s : State) (cid key : Nat) : Option (Coll × Piece) :=
  match s.collOf cid with
  | none => none
  | some c => (c.pieces.find? fun p => decide (p.key = key)).map fun p => (c, p)

def Coll.setPiece (c : Coll) (p : Piece) : Coll := { c with pieces := c.pieces.map fun q => if q.key = p.key then p else q }

def isChunkFlit (f : Flit) : Bool := match f.body with | .data _ _ _ _ => true | _ => false

/-- The VCs of a link that hold a chunk (R423). -/
def State.boundVcs (s : State) (link : Nat) : List Nat :=
  (s.colls.flatMap fun c => (c.pieces.filter fun p => decide (p.st = 1 ∧ p.res = link)).map (·.vc)) ++
  ((s.link link).replay.filter isChunkFlit).map (·.vc)

/-- A buffer is reserved for a chunk, if one of the 64 is free (R423). -/
def State.reserve (s : State) (cid key link : Nat) : Option State :=
  if 64 ≤ s.chunkBufs.length then none
  else some { s with chunkBufs := s.chunkBufs ++ [{ cid := cid, key := key, link := link, need := 0, bytes := [], inside := false }] }

/-- Space for a chunk (R423). `link` 256 + n: node n asks, and is granted a buffer. 16: the receiver is in this package.
0–15: a grant has arrived, and the chunk is bound to a VC of a link of its route. -/
def execChunkGrant (cid chunk link : Nat) (s : State) : Out :=
  if 256 ≤ link then
    match s.reserve cid chunk 17 with
    | none => .next (s.later (.chunkGrant cid chunk link))
    | some s => .next (s.sendFlit (link - 256) 0 3 (.grant cid chunk))
  else
    match s.pieceOf cid chunk with
    | none => .next s
    | some (c, p) =>
      if p.st ≠ 0 then .next s
      else if link = 16 then
        match s.reserve cid chunk 16 with
        | none => .next (s.later (.chunkGrant cid chunk link))
        | some s => .next ((s.setColl (c.setPiece { p with st := 1, res := 16 })).push (.chunkArbitration 16))
      else
        match s.routeTo (entryNode (s.memberEntry c p.target)) with
        | none => .next (s.later (.chunkGrant cid chunk link))
        | some l =>
          match [4, 5, 6, 7].find? fun v => !(s.boundVcs l).contains v with
          | none => .next (s.later (.chunkGrant cid chunk link))
          | some v => .next ((s.setColl (c.setPiece { p with st := 1, res := l, vc := v })).push (.chunkArbitration l))

/-- A local member's post of a collective. -/
def State.senderOf (s : State) (c : Coll) (p : Piece) : Option Post := (s.postsOf c.cid c.num).find? fun q => decide (q.rank = keySrc p.key)

/-- The candidates of a resource: granted chunks, with their posts. -/
def State.chunkCands (s : State) (res : Nat) : List (Coll × Piece × Post) :=
  s.colls.flatMap fun c => (c.pieces.filter fun p => decide (p.st = 1 ∧ p.res = res)).filterMap fun p =>
    (s.senderOf c p).map fun q => (c, p, q)

/-- The candidate with the least measure. -/
def leastBy {α : Type} (f : α → Nat) (xs : List α) : Option α :=
  xs.foldl (fun best x => match best with
    | none => some x
    | some b => if f x < f b then some x else some b) none

/-- The winner of an arbitration (R424): by key at levels 1 and 2 (R146), perturbed in run B of check mode (R156). -/
def State.chunkWinner (s : State) (res : Nat) (cands : List (Coll × Piece × Post)) : Option (Coll × Piece × Post) :=
  let top := cands.foldl (fun n x => max n (commPrio x.2.2.comm)) 0
  let cs := cands.filter fun x => decide (commPrio x.2.2.comm = top)
  if cands.all fun x => decide (s.levelOf x.2.2.ctx ≠ 0) then
    leastBy (fun x => s.askKey x.2.2.core x.2.2.slot) cs
  else if (s.perturbed (cs.map (·.2.2.pid))).isSome then (s.shuffled (·.2.2.pid) cs).head?
  else
    let last := SMap.get 4095 s.lastCid res
    leastBy (fun x => (x.1.cid + 4095 - last) % 4096) cs

/-- A chunk goes out on a link as flits of 64 bytes on its VC (R410, R423). -/
def State.sendChunk (s : State) (l node vc : Nat) (ctx : Byte) (cid key : Nat) (bytes : List Byte) : State :=
  (List.range (ceilDiv bytes.length 64)).foldl (fun s i =>
    let k := 8 * node + vc
    let n := SMap.get 0 s.eseqTx k
    let f : Flit := { dnode := node, snode := s.mynode, sctx := ctx, vc := vc, eseq := BitVec.ofNat 16 n, lseq := 0, ack := 0,
                      crcOk := true, body := .data cid key bytes.length ((bytes.drop (64 * i)).take 64) }
    ({ s with eseqTx := SMap.put 0 s.eseqTx k ((n + 1) % 2 ^ 16) }).emit l f) s

/-- The winner moves: over the truss at once, over a link as its flits (R423, R427). -/
def State.moveChunk (s : State) (res : Nat) (c : Coll) (p : Piece) (q : Post) : State :=
  let s : State := { s with lastCid := SMap.put 4095 s.lastCid res c.cid }
  let s := s.setColl (c.setPiece { p with st := 2 })
  if res = 16 then
    let s : State :=
      { s with chunkBufs := s.chunkBufs.map fun b =>
          if b.cid = c.cid ∧ b.key = p.key then { b with need := p.bytes.length, bytes := p.bytes } else b }
    s.pump c.cid
  else (s.sendChunk res (entryNode (s.memberEntry c p.target)) p.vc q.ctx c.cid p.key p.bytes).pump c.cid

/-- Bytes as flits, the last one filled with zeros. -/
def flitsOf (bs : List Byte) : List (BitVec 512) :=
  (List.range (ceilDiv bs.length 64)).map fun i => BitVec.ofNat 512 (bytesToNat ((bs.drop (64 * i)).take 64))

/-- A chunk enters the units of its port: input 0 of the first takes its flits, input 1 of each the receiving member's own
chunk at the same offsets, zeros where it has none (R395, R427; DEDUCED, log entry 33). -/
def State.feedUnits (s : State) (c : Coll) (e : Exch) (b : ChunkBuf) (us : List Nat) : State :=
  let own := chunkOf (((collBlock c (e.target (keySrc b.key) (keyDst b.key))).map fun x => e.part x (keyDst b.key)).getD []) (keyIdx b.key)
  let n := (flitsOf b.bytes).length
  let local_ := (flitsOf own ++ List.replicate n 0).take n
  let s := us.foldl (fun s u =>
    s.setUnitX u { s.unitX u with in0 := if us.head? = some u then flitsOf b.bytes else [], in1 := local_, out0 := [], out1 := [],
                                  flags := 0, waiting := false }) s
  { s with chunkBufs := s.chunkBufs.map fun x => if x = b then { x with inside := true } else x }

/-- The bytes of flits, and for what they do not cover the bytes as they came (DEDUCED, log entry 33). -/
def flitBytes (fs : List (BitVec 512)) (came : List Byte) : List Byte :=
  let bs := (fs.flatMap fun f => natToBytes 64 f.toNat).take came.length
  bs ++ came.drop bs.length

/-- What the units of a port have made of a chunk: the local result at its destination, else what the last one forwards
(R427). -/
def State.takeUnits (s : State) (c : Coll) (e : Exch) (b : ChunkBuf) (us : List Nat) : State :=
  let r := e.target (keySrc b.key) (keyDst b.key)
  let given := us.flatMap fun u => (s.unitX u).out1
  let sent := us.flatMap fun u => (s.unitX u).out0
  let bytes := flitBytes (if r = keyDst b.key then given else sent) b.bytes
  let fl := us.foldl (fun f u => f ||| (s.unitX u).flags) 0
  let s := us.foldl (fun s u => s.setUnitX u { s.unitX u with in0 := [], in1 := [], out0 := [], out1 := [], flags := 0 }) s
  let s : State := { s with chunkBufs := s.chunkBufs.filter fun x => decide (x ≠ b) }
  (s.integrate { c with flags := c.flags ||| fl } e b.key bytes true).pump c.cid

/-- The units of a port take the next chunk that has arrived on their link, or have ended with one (R427). -/
def unitTurn (s : State) (link : Nat) : State :=
  let again := fun (s : State) => s.later (.chunkArbitration (32 + link))
  match s.chunkBufs.find? fun b => decide (b.link = link) && b.inside with
  | some b =>
    match s.collOf b.cid with
    | none => s
    | some c =>
      match s.exchOf c with
      | none => s
      | some e =>
        let us := s.graphAt b.cid link
        if us.all fun u => (s.unitX u).waiting then again (s.takeUnits c e b us) else again s
  | none =>
    let ready := fun (b : ChunkBuf) => decide (b.link = link) && !(s.graphAt b.cid link).isEmpty &&
      ((s.collOf b.cid).elim false fun c => bufReady c b)
    match s.chunkBufs.find? ready with
    | some b =>
      match s.collOf b.cid with
      | none => s
      | some c =>
        match s.exchOf c with
        | none => s
        | some e => again (s.feedUnits c e b (s.graphAt b.cid link))
    | none =>
      if s.chunkBufs.any fun b => decide (b.link = link) && decide (0 < b.need) && decide (b.need ≤ b.bytes.length) then again s else s

/-- A resource that is free of chunks is given to the winner of R424: links 0–15, the truss 16, 32 + l the fabric units of
link l. The choice passes the log's gate (R159). -/
def execChunkArbitration (resource : Nat) (s : State) : Out :=
  if 32 ≤ resource then .next (unitTurn s (resource - 32))
  else if resource < 16 ∧ (s.link resource).replay.any isChunkFlit then .next (s.later (.chunkArbitration resource))
  else
    match s.chunkWinner resource (s.chunkCands resource) with
    | none => .next s
    | some (c, p, q) =>
      let again := fun (s : State) => if (s.chunkCands resource).isEmpty then s else s.push (.chunkArbitration resource)
      if resource < 16 ∧ !(s.link resource).up then
        .next (again ((s.setColl (c.setPiece { p with st := 0 })).push (.chunkGrant c.cid p.key resource)))
      else
        let obj := (collDesc q.words).comm.toNat
        match s.logGate (s.proc q.pid) 0x0B (3 * 4096 + resource) false (s.core q.core).lcore q.slot obj (keyIdx p.key) with
        | .hold => .next (s.later (.chunkArbitration resource))
        | .diverge x =>
          .next (again (((s.setDiv q.ctx).postFault q (divergeInfo x obj)).setColl (c.setPiece { p with st := 3 })))
        | .pass s => .next (again (s.moveChunk resource c p q))

/-- A flit of a chunk has arrived on a link (R412, R423, R427). -/
def State.chunkData (s : State) (link cid key len : Nat) (bytes : List Byte) : State :=
  let s : State :=
    { s with chunkBufs := s.chunkBufs.map fun b =>
        if b.cid = cid ∧ b.key = key then { b with link := link, need := len, bytes := b.bytes ++ bytes } else b }
  match s.chunkBufs.find? fun b => decide (b.cid = cid ∧ b.key = key) with
  | some b =>
    if b.bytes.length < b.need then s
    else if (s.graphAt cid link).isEmpty then s.pump cid
    else if (s.agenda ++ s.blocked).contains (.chunkArbitration (32 + link)) then s
    else s.push (.chunkArbitration (32 + link))
  | none => s

/-! ### Completion (R383, R392) -/

/-- A post leaves the engine: its counter falls and its flags wait for a `waitc` (R287, R391). -/
def State.retirePost (s : State) (p : Post) (fl : Flags) : State :=
  let s : State := { s with posts := s.posts.filter fun q => decide (q.cmd ≠ p.cmd) }
  let s := s.touch p.pid fun x =>
    let y : Proc := { x with cnt := x.cnt.down .transfers }
    if y.away then y.orFsr fl else { y with lateTr := y.lateTr ||| fl }
  s.settleDone p.pid

/-- The unit under which the collective engine asks other packages. -/
def collUnit : Nat := 67

/-- The completion word of a collective: beats written, flags, status (R383, R392). -/
def collDone (beats : Nat) (fl : Flags) (status : Nat) : Word :=
  BitVec.ofNat 64 (beats % 2 ^ 32 * 2 ^ 32 + fl.toNat % 32 * 2 ^ 8 + status)

/-- A member's completion word is written and its post retires; a failed write is posted (R383). -/
def finishPost (s : State) (c : Coll) (p : Post) (beats : Nat) (fl : Flags) : State :=
  let again : Ev := .collComplete c.cid c.num
  if p.done = 0 then (s.retirePost p fl).push again
  else
    match writeDone s collSeat collUnit p.ctx p.done (collDone beats fl c.status) with
    | (.ok _, s) => (s.retirePost p fl).push again
    | (.error f, s) =>
      if f.cause = notYet then s.later again else ((s.postFault p { f with tval := p.done }).retirePost p fl).push again

/-- The last member of this package has completed: the collective ends, waiting programs are taken, and the next number may
begin (R392, R397). -/
def State.endColl (s : State) (c : Coll) : State :=
  let s : State :=
    { s with colls := s.colls.filter fun x => decide (x.cid ≠ c.cid),
             anns := s.anns.filter fun e => !decide (e.2.cid = c.cid ∧ e.2.num = c.num) }
  let next := (s.anns.filter fun e => decide (e.2.cid = c.cid ∧ e.2.num = c.num + 1) && decide (e.2.node = s.mynode)).map (·.2)
  s.freshPrograms.pushAll ((next.take 1).map .collAnnounce)

/-- A member's destination block is written and its collective completes; the package's members follow each other (R383,
R392). A block that cannot be written stops its member (R44). -/
def execCollComplete (cid num : Nat) (s : State) : Out :=
  match s.collOf cid with
  | none => .next s
  | some c =>
    if c.num ≠ num ∨ (c.status = 0 ∧ (s.exchOf c).isSome ∧ !(s.postsOf cid num).isEmpty) then .next s
    else
      match s.postsOf cid num with
      | [] => .next (s.endColl c)
      | p :: _ =>
        match (if c.status = 0 then collBlock c p.rank else none) with
        | none => .next (finishPost s c p 0 c.flags)
        | some bs =>
          let d := (collDesc p.words).dbuf
          match writeRange (bs.length / 64 + 2) s collSeat p.ctx d bs with
          | (.error f, s) =>
            if f.cause = notYet then .next (s.later (.collComplete cid num))
            else
              .next (({ (s.postFault p f) with posts := s.posts.filter fun q => decide (q.cmd ≠ p.cmd) }).push (.collComplete cid num))
          | (.ok _, s) => .next (finishPost s c p (rangeBeats d bs.length) c.flags)

/-! ### Truss queues (R393, R394) -/

/-- The configuration of a truss queue. -/
def State.trussCfg (s : State) (q : Nat) : Word := s.reg (blockAddr 0 0x20 (0x1000 + 8 * q))
/-- The queue that an address of the truss block names. -/
def trussOf (pa : Nat) : Nat := regOff pa / 16

/-- The source of an access: 1,024 × node + logical core (R394). -/
def State.trussSource (s : State) (r : Req) : Nat :=
  match r.agent with
  | .peer n | .peerOp n _ => 1024 * n + r.core
  | _ => 1024 * s.mynode + (s.core r.core).lcore

/-- The queue accepts the access (R394). -/
def State.trussOpen (s : State) (r : Req) : Bool :=
  let w := s.trussCfg (trussOf r.pa)
  w.getLsbD 63 && field w 48 8 == r.ctx.toNat && r.size == 8

/-- The operation of a truss queue (R393). -/
def trussOp (w : Word) : W32 → W32 → W32 × Flags :=
  let t := xType (BitVec.ofNat 4 (field w 0 4))
  match field w 12 4 with
  | 0 => binLane .add t Mode.rne
  | 1 => binLane .max t Mode.rne
  | 2 => binLane .min t Mode.rne
  | 3 => binLane .and t Mode.rne
  | _ => binLane .or t Mode.rne

/-- Contributions in ascending order of their sources. -/
def sortSources (ps : List (Nat × W32)) : List (Nat × W32) :=
  ps.foldr (fun p r => (r.takeWhile fun x => decide (x.1 < p.1)) ++ p :: (r.dropWhile fun x => decide (x.1 < p.1))) []

/-- A generation that holds every contribution is combined (R258, R391, R394). -/
def TrussGen.settle (g : TrussGen) (w : Word) : TrussGen :=
  if g.result.isNone && decide (field w 32 10 + 1 ≤ g.parts.length) then
    let t := redTree (trussOp w) ((sortSources g.parts).map fun p => some p.2) 11
    { g with result := t.1, flags := t.2 }
  else g

/-- ACCESS_DENIED for an access to the truss (R394). -/
def State.trussDeny (s : State) (r : Req) (held : Bool) : State := s.failAt r { cause := 0x043, tval := r.va, words := [] } held

/-- The generation with index `i` among all open ones is replaced. -/
def State.setGen (s : State) (i : Nat) (g : TrussGen) : State := { s with truss := s.truss.set i g }

/-- A POP takes the result of its generation, or is held until there is one; a generation that every contributor has popped
retires (R394). DEDUCED, log entry 68. -/
def popTruss (s : State) (r : Req) (held : Bool) : State :=
  let q := trussOf r.pa
  let src := s.trussSource r
  match s.truss.findIdx? fun g => decide (g.q = q) && (g.parts.any fun p => decide (p.1 = src)) && !g.popped.contains src with
  | none => s.trussDeny r held
  | some i =>
    match s.truss[i]? with
    | none => s.trussDeny r held
    | some g =>
      match g.result with
      | none => if held then { s with waiters := s.waiters ++ [r] } else s.holdAt r
      | some x =>
        let g := { g with popped := src :: g.popped }
        let s := if g.popped.length < g.parts.length then s.setGen i g
          else { s with truss := s.truss.eraseIdx i }
        s.complete r (ofW32 x) g.flags .none held

/-- Held POPs of a queue are tried again. -/
def State.retryPops (s : State) (q : Nat) : State :=
  let mine := fun (r : Req) => decide (r.space = 3) && decide (regBlock r.pa = 0x21) && decide (trussOf r.pa = q)
  let held := s.waiters.filter mine
  held.foldl (fun s r => popTruss s r true) { s with waiters := s.waiters.filter fun r => !mine r }

/-- A PUSH joins the oldest open generation without its source, or begins one; it waits while two are open (R394). -/
def execTrussPush (r : Req) (s : State) : Out :=
  let q := trussOf r.pa
  let w := s.trussCfg q
  let src := s.trussSource r
  let x : W32 := match r.op with
    | .store x => toW32 x
    | _ => 0
  if !s.trussOpen r then .next (s.trussDeny r false)
  else
    match s.truss.findIdx? fun g => decide (g.q = q) && g.result.isNone && !(g.parts.any fun p => decide (p.1 = src)) with
    | some i =>
      match s.truss[i]? with
      | none => .next s
      | some g =>
        .next (((s.setGen i (({ g with parts := g.parts ++ [(src, x)] }).settle w)).complete r 0 0 .none false).retryPops q)
    | none =>
      if 2 ≤ (s.truss.filter fun g => decide (g.q = q)).length then .next (s.later (.trussPush r))
      else
        let g : TrussGen := { q := q, parts := [(src, x)], popped := [], result := none, flags := 0 }
        .next ((({ s with truss := s.truss ++ [g.settle w] }).complete r 0 0 .none false).retryPops q)

/-- A POP (R394). DEDUCED, log entry 68. -/
def execTrussPop (r : Req) (s : State) : Out := .next (if s.trussOpen r then popTruss s r false else s.trussDeny r false)

/-- A configuration that R393 accepts. -/
def trussCfgOk (x : Word) : Bool :=
  decide (field x 12 4 ≤ 4) && decide (field x 0 4 ≤ 2) && (decide (field x 12 4 < 3) || decide (field x 0 4 ≠ 0))

/-- A truss queue is configured: a refused value changes nothing; V = 1 discards every open generation (R393). -/
def execTrussQueueWrite (addr : Nat) (x : Word) (s : State) : Out :=
  let q := (regOff addr - 0x1000) / 8
  if !trussCfgOk x then .next s
  else
    let s := s.setReg addr (regWritten (regSpec addr) (s.reg addr) x)
    if x.getLsbD 63 then .next (({ s with truss := s.truss.filter fun g => decide (g.q ≠ q) }).retryPops q) else .next s

end Sys2Proof.Machine
end

