-- ==== Sys2Proof/Machine/Role.lean ====
section
/-! DEFINITION. Role changes (spec/01 R16–R31), the clock plan they apply (spec/21 R452, R453), and thermal control
(spec/09 R209, R210). -/

namespace Sys2Proof.Machine

/-! ### The registers (R19) -/

def State.setPart (s : State) (lo n x : Nat) : State := s.setReg regPartstat (setField (s.reg regPartstat) lo n x)
def State.setPhase (s : State) (k : Nat) : State := s.setPart 0 4 k
def State.setErr (s : State) (k : Nat) : State := s.setPart 8 8 k

/-- Role of layer `i` = 4 × tower + layer in a plan, and its class. -/
def planRole (plan : Word) (i : Nat) : Nat := field plan (2 * i) 2
def planClass (plan : Word) : Nat := field plan 16 2

/-! ### The validator (R20, R21) -/

/-- Watts of a logic die. -/
def dieWatts (cls role : Nat) : Nat :=
  if role = 2 then (if cls = 1 then 410 else 280) else if role = 1 then 35 else 5

/-- Watts of a tower's four logic dies. -/
def towerWatts (plan : Word) (t : Nat) : Nat :=
  ((List.range 4).map fun l => dieWatts (planClass plan) (planRole plan (4 * t + l))).foldl (· + ·) 0

/-- A cap is powered whenever a layer of its tower is not DARK (R16). -/
def capWatts (plan : Word) (t : Nat) : Nat := if (List.range 4).any fun l => planRole plan (4 * t + l) != 0 then 5 else 0

/-- The package budget of a class. -/
def packageBudget (cls : Nat) : Nat := if cls = 1 then 2800 else 3400

/-- The first failing check of a plan, as its ERR code; 0 accepts it. `fixed` is the class of a module, or 0. -/
def planError (plan : Word) (fixed : Nat) : Nat :=
  let cls := planClass plan
  let roles := (List.range 8).map (planRole plan)
  if cls = 0 ∨ cls = 3 ∨ (fixed ≠ 0 ∧ cls ≠ fixed) then 6
  else if roles.contains 3 then 4
  else if (List.range 8).any fun i => i % 4 ≠ 3 && roles.getD i 0 == 2 && roles.getD (i + 1) 0 == 0 then 3
  else if !roles.contains 2 then 5
  else if (List.range 2).any fun t => decide ((if cls = 1 then 900 else 1200) < towerWatts plan t) then 1
  else if packageBudget cls < towerWatts plan 0 + towerWatts plan 1 + capWatts plan 0 + capWatts plan 1 + 12 * 30 + 2 * 230 then 2
  else 0

/-! ### The start and the drain (R22, R23, R25) -/

/-- Launch units resume (R23). -/
def State.resumeLaunches (s : State) : State :=
  s.pushAll (((List.range 64).filter fun q => (s.reg (blockAddr 0 0 (0x1008 + 32 * q))).getLsbD 63).map Ev.launchTake)

/-- A deadline of a phase. -/
def isDeadline (e : Ev) : Bool :=
  match e with
  | .drainTimeout | .roleChangeStop => true
  | _ => false

/-- Deadlines of the phase now left behind, armed or already due. -/
def State.dropDeadlines (s : State) : State :=
  { s with timers := s.timers.filter (fun t => !isDeadline t.2), agenda := s.agenda.filter (fun e => !isDeadline e),
           blocked := s.blocked.filter (fun e => !isDeadline e) }

/-- A write of PARTCTL: DRAINLIM, and with GO a role change to the plan in PARTPLAN (R19, R22, R23). DEDUCED, log entry 31. -/
def execPartGo (x : Word) (s : State) : Out :=
  let s := s.setReg regPartctl (regWritten (regSpec regPartctl) (s.reg regPartctl) x)
  if !x.getLsbD 0 || s.boot.stopped then .next s
  else if s.phase ≠ 0 then .next (s.setErr 7)
  else
    let plan := s.reg regPartplan
    let e := planError plan s.board.cls
    if e ≠ 0 then .next (s.setErr e)
    else
      let lim := field (s.reg regPartctl) 8 24
      let s : State := { (s.setPhase 2) with boot := { s.boot with plan := plan } }
      let s := s.push .drainComplete
      .next (if lim = 0 then s else s.after (lim * Config.cyclesPerUs) .drainTimeout)

/-- The conditions of R25. -/
def State.isDrained (s : State) : Bool :=
  s.allProcs.all (fun p => p.isHelper || p.pid == 0 || p.st == .free || p.st == .done) &&
  s.engines.all (fun e => e.2.cmds.isEmpty) && s.msStore.isEmpty && s.posts.isEmpty && s.colls.isEmpty &&
  s.ctxs.all (fun e => e.2.trigs.isEmpty) && s.allProcs.all (fun p => p.armed.isNone) &&
  s.helpers.all (fun e => decide (e.2.run ≠ 1))

/-- DRAIN ends once its conditions hold together: FLUSH begins (R23, R25). -/
def execDrainComplete (s : State) : Out :=
  if s.phase ≠ 2 then .next s
  else if !s.isDrained then .next (s.later .drainComplete)
  else
    .next (((s.dropDeadlines.setPhase 3).push .flushComplete).after (50 * Config.cyclesPerUs) .roleChangeStop)

/-- DRAINLIM elapses first: launch units resume, and nothing else has changed (R23). -/
def execDrainTimeout (s : State) : Out :=
  if s.phase ≠ 2 then .next s else .next ((s.setErr 8).setPhase 0).resumeLaunches

/-! ### Flush and power (R23, R28, R453) -/

end Sys2Proof.Machine

namespace Sys2Proof

/-- A step that the hold of a role change keeps at the sill, or one of the change itself (R23, R26). -/
def Ev.heldOver (e : Ev) : Bool :=
  match e with
  | .flushComplete | .powerComplete | .enumerate | .frameReceive _ _ | .ingestDeposit _ _ | .linkFlit _ _
  | .hostLaunchWrite _ _ | .hostAperture _ _ _ => true
  | e => e.standing

end Sys2Proof

namespace Sys2Proof.Machine

/-- A change that cannot complete stops: ERR 9, no cores, everything held until RESET, and the report of R24. -/
def execRoleChangeStop (s : State) : Out :=
  let k := s.phase
  if k < 3 then .next s
  else
    let s := (((s.dropDeadlines.setErr 9).setPart 4 4 k).setPhase 0).setPart 16 11 0
    let s : State := { s with boot := { s.boot with stopped := true, broken := false } }
    let h := (s.desc 0).mbox
    let rec_ := h.toNat % 2 ^ 56
    let buf := (s.peek (rec_ + 24)).toNat % 2 ^ 56
    let reachable := sramFieldsOk s rec_ && ((chanType (s.peek rec_)).depth == 0 || decide (buf < 2 ^ 54) || sramFieldsOk s buf)
    .next (if reachable then s.faultReport 0 (machineCheck 5) else s.bumpReg regFlost 0 64)

/-- The mesh and sill queues are empty: translation caches are emptied and logs written back; POWER begins (R23, R31). -/
def execFlushComplete (s : State) : Out :=
  if s.phase ≠ 3 then .next s
  else if s.boot.broken then execRoleChangeStop s
  else if !(s.agenda ++ s.blocked).all Ev.heldOver then .next (s.later .flushComplete)
  else
    let s := (s.ctxs.map (·.1)).foldl (fun s c => s.flushLog (BitVec.ofNat 8 c)) { s with
      tlb := [], upper := [], walks := [], walkQ := [], walkWait := [], rels := [], widens := [] }
    .next (((s.dropDeadlines.setPhase 4).push .powerComplete).after (1000 * Config.cyclesPerUs) .roleChangeStop)

/-- Layer `i` computes under the roles in force. -/
def State.computes (s : State) (i : Nat) : Bool := s.role (i / 4) (i % 4) == 2

/-- An SRAM key lies on a layer or cap that is lit. -/
def State.keyLit (s : State) (a : Nat) : Bool := decide (a < 2 ^ 54) || s.lit (sramTower a) (sramLayer a)

/-- A register of a bench block whose layer does not compute is not powered. -/
def State.regLit (s : State) (a : Nat) : Bool :=
  decide (regBlock a < 0x40) || s.computes (4 * regTower a + (regBlock a - 0x40) / 16)

/-- Roles take force: layers that are DARK hold nothing, and layers that do not compute have no cores (R16, R28). DEDUCED, log entry 31. -/
def State.applyRoles (s : State) (plan : Word) : State :=
  let s : State := { s with roles := (List.range 8).foldl (fun m i => SMap.put 0 m i (planRole plan i)) [] }
  { s with mem := s.mem.filter fun e => s.keyLit e.1, side := s.side.filter fun e => s.keyLit e.1,
           poison := s.poison.filter fun e => s.keyLit e.1, rels := s.rels.filter fun e => s.keyLit e.key,
           regs := s.regs.filter fun e => s.regLit e.1, cores := s.cores.filter fun e => s.computes (e.1 / 128),
           benches := s.benches.filter fun e => s.computes (e.1 / 16),
           acc := s.acc.filter fun e => s.computes (e.1 / 2 ^ 22), matq := s.matq.filter fun e => s.computes (e.1 / 128),
           engines := s.engines.filter fun e => s.computes (e.1 / 256),
           helpers := s.helpers.filter fun e => s.computes (e.1 / 256),
           hstore := s.hstore.filter fun e => s.computes (e.1 / (16384 * 256)),
           streams := s.streams.filter fun e => s.computes (e.1 / 1024) }

/-- The clock plan of a class without avoid bands, in units of 0.25 MHz (R452). -/
def nominalPlan (cls : Nat) : Word :=
  let f := if cls = 1 then 3840 else 2880
  BitVec.ofNat 64 (cls % 4 * 2 ^ 60 + ((List.range 5).map fun k => f * (8 - k) / 8 * 2 ^ (12 * k)).foldl (· + ·) 0)

def regClkctl : Nat := blockAddr 0 0 0x500
def regClknext : Nat := blockAddr 0 0 0x508
def regClkstep : Nat := blockAddr 0 0 0x510

/-- The clock plan of a class is applied: CLKNEXT where it is of that class, else the nominal steps, with STALE (R453). -/
def State.applyClock (s : State) (cls : Nat) : State :=
  let next := s.reg regClknext
  if field next 60 2 = cls then
    (s.setReg regClkstep next).setReg regClkctl (setField (s.reg regClkctl) 1 1 0)
  else (s.setReg regClkstep (nominalPlan cls)).setReg regClkctl (setField (s.reg regClkctl) 1 1 1)

/-- All layers are stable in their new roles: ENUMERATE begins (R23). -/
def execPowerComplete (s : State) : Out :=
  if s.phase ≠ 4 then .next s
  else if s.boot.broken then execRoleChangeStop s
  else
    let s := (s.applyRoles s.boot.plan).applyClock (planClass s.boot.plan)
    .next (((s.dropDeadlines.setPhase 5).push .enumerate).after (20 * Config.cyclesPerUs) .roleChangeStop)

/-! ### Enumeration (R27, R409) -/

/-- The bench of a DARKPEND bit: 16 × (4 × tower + layer) + bench. DEDUCED, log entry 67. -/
def State.darkPend (s : State) (i : Nat) : Bool := (s.reg (blockAddr 0 0 (if i < 64 then 0x308 else 0x310))).getLsbD (i % 64)

/-- Logical indices are assigned; barriers, barometer and thermal state are reset, and the collective engine
numbers posts anew (R392); marked benches are dropped. -/
def State.enumerated (s : State) : State :=
  let ls := s.computeLayers
  let cs := ls.zipIdx.flatMap fun e => (List.range 128).map fun j =>
    let c := s.core (128 * e.1 + j)
    let fresh := decide (c.lcore = 1024)
    (128 * e.1 + j, { c with lcore := 128 * e.2 + j, dis := 0, clk0 := if fresh then s.clk else c.clk0 })
  let s : State :=
    { s with cores := cs, barriers := [], temps := [], thermAt := none, postNum := [],
             benches := (s.benches.map fun e => (e.1, { e.2 with step := 0 })).filter fun e => decide (e.2 ≠ Bench.empty),
             dropped := (List.range 128).foldl (fun m i => if s.darkPend i then SMap.put false m i true else m) s.dropped }
  s.setPart 16 11 (128 * ls.length)

/-- ENUMERATE ends the change: EPOCH advances, launch units and ingress resume (R23, R27). -/
def execEnumerate (s : State) : Out :=
  if s.phase ≠ 5 then .next s
  else if s.boot.broken then execRoleChangeStop s
  else
    let s := s.dropDeadlines.enumerated
    .next (((s.stepReg regPartstat 32 32).setErr 0).setPhase 0).resumeLaunches

/-! ### Thermal control (R209, R210) -/

def regThermctl : Nat := blockAddr 0 0 0x180

/-- The cores of a layer (4 × tower + layer) from the coolest, equal temperatures by bench and core; with TEMP (R209). -/
def State.barometer (s : State) (i : Nat) : List (Nat × Nat) :=
  let keys := sortAsc ((List.range 128).map fun j => SMap.get 0 s.temps (128 * i + j) % 4096 * 128 + j)
  keys.map fun k => (128 * i + k % 128, k / 128)

/-- Disabled slots of a core. -/
def Core.ndis (c : Core) : Nat := popCount c.dis.toNat 8

/-- The core that takes a displaced record (R210). -/
def State.coolCore (s : State) (p : Nat) : Option Nat :=
  let ctl := s.reg regThermctl
  ((s.barometer (p / 128)).find? fun e =>
    decide (e.1 ≠ p) && decide (e.2 < field ctl 24 12) && decide ((s.core e.1).ndis < field ctl 0 3)).map (·.1)

/-- A record that displacement leaves where it is: a handler's, a FAULTED one, or one that R141 bars (R210). -/
def Proc.staysPut (p : Proc) : Bool := p.rc || p.st == .faulted || !p.maySpill

/-- A record of a level 1 or level 2 context stands on the core. -/
def State.orderedCore (s : State) (p : Nat) : Bool :=
  (((s.core p).slots.toList ++ s.queued p).filter (· ≠ 0)).any fun q => s.levelOf (s.proc q).ctx != 0

/-- A slot is disabled and its record displaced to the core `t` (R210). -/
def State.disableSlot (s : State) (p k t : Nat) : State :=
  let s := s.updCore p fun c => { c with dis := c.dis ||| BitVec.ofNat 8 (2 ^ k) }
  let q := s.slotPid p k
  if q = 0 then s
  else if (s.proc q).leaving ≠ 0 then s.updProc q fun x => { x with leaving := 16 + t }
  else s.leave q (16 + t)

/-- What a hot core does: a slot disabled, or its bench asked to lower its clock (R210). DEDUCED, log entry 32. -/
def State.coolDown (s : State) (p : Nat) : State × Bool :=
  if s.orderedCore p || decide (field (s.reg regThermctl) 0 3 ≤ (s.core p).ndis) then (s, true)
  else
    match s.coolCore p, ((s.enabledSlots p).reverse.find? fun k => s.slotPid p k == 0 || !(s.proc (s.slotPid p k)).staysPut) with
    | some t, some k => (s.disableSlot p k t, false)
    | _, _ => (s, false)

/-- What a cool core does: its lowest disabled slot comes back, or its bench is asked to raise its clock (R210). -/
def State.warmUp (s : State) (p : Nat) : State × Bool :=
  match (List.range 8).find? fun k => (s.core p).dis.getLsbD k with
  | some k => ((s.updCore p fun c => { c with dis := c.dis &&& ~~~BitVec.ofNat 8 (2 ^ k) }).push (.slotFill p), false)
  | none => (s, true)

/-- A sensor at its trip point: a logic die (keys 0–1,023, by core) at 125 °C, an HBM4 stack (1,024 and above) at 105 °C
(R454). -/
def tooHot (e : Nat × Nat) : Bool := decide ((if e.1 < 1024 then 2000 else 1680) ≤ e.2)

/-- A PERIOD, in units of 10 µs, has passed since the last step (R209). -/
def State.thermalDue (s : State) : Bool :=
  s.thermAt.elim true fun t => decide (t + field (s.reg regThermctl) 16 8 * 10 * Config.cyclesPerUs ≤ s.clk)

/-- One PERIOD: temperatures are read, tables re-sorted, and each core acts; a bench moves one step at most (R209, R210).
DESIGN CHOICE, log entry 5. DEDUCED, log entry 32. -/
def execThermalPeriod (temps : List (Nat × Nat)) (s : State) : Out :=
  if !s.thermalDue then .next s else
  let s : State := { s with temps := temps.foldl (fun m e => SMap.put 0 m e.1 e.2) s.temps, thermAt := some s.clk }
  let ctl := s.reg regThermctl
  let act := s.cores.foldl (fun (x : State × List Nat × List Nat) e =>
    let t := SMap.get 0 s.temps e.1
    if field ctl 36 12 ≤ t then
      let r := x.1.coolDown e.1
      (r.1, if r.2 then e.1 / 8 :: x.2.1 else x.2.1, x.2.2)
    else if t < field ctl 24 12 then
      let r := x.1.warmUp e.1
      (r.1, x.2.1, if r.2 then e.1 / 8 :: x.2.2 else x.2.2)
    else x) (s, [], [])
  let s := act.2.1.eraseDups.foldl (fun s b => s.updBench b fun x => { x with step := min 4 (x.step + 1) }) act.1
  let s := if temps.any tooHot then s.push .thermalTrip else s
  let up := act.2.2.eraseDups.filter fun b => !act.2.1.contains b && decide (0 < (s.bench b).step)
  .next (up.foldl (fun s b => s.updBench b fun x => { x with step := x.step - 1 }) s)

end Sys2Proof.Machine
end

