-- ==== Sys2Proof/Machine/Select.lean ====
section
/-! DEFINITION. Select: its list, the probe, claims and its time-out (spec/13 R300, R301, spec/08 R179–R181). -/

namespace Sys2Proof.Machine

/-- An alternative of a list as its owner reads it (R300). -/
structure Alt where
  handle : Word
  count : Nat
  kind : Nat
  guard : Bool
  data : Word
  deriving DecidableEq, Repr

def State.altAt (s : State) (list i : Nat) : Alt :=
  let b := list + 32 + 32 * i
  let w := s.peek (b + 8)
  { handle := s.peek b, count := field w 32 32, kind := field w 1 2, guard := w.getLsbD 0, data := s.peek (b + 16) }

/-- The list does not lie wholly within one slice or lid (R300, R301). -/
def listOutside (list n : Nat) : Bool :=
  decide ((if sramLid list then Config.lidBytes else Config.sliceBytes) < sramOff list + 32 + 32 * n)

/-- An endpoint may stand in a select: a request channel, a transmit endpoint, a ring; DATA is aligned as its operation asks
(R291, R293, R294, R300). DEDUCED, log entry 58. -/
def extAlt (s : State) (key : Nat) (a : Alt) : Bool :=
  match extEnd key with
  | some (.server _) => a.kind == 1 && decide (a.data.toNat % 64 = 0)
  | some (.transmit _ _) => a.kind == 1 && decide (a.data.toNat % 8 = 0)
  | some (.ring _ _) => a.kind == 0 && decide (a.data.toNat % 32 = 0) && s.areaOk a.data
  | none => false

/-- The record of an alternative passes R172 at its home, and is a word or block channel (R300). -/
def altTypeOk (t : ChanType) (c : Byte) (data : Word) : Bool :=
  decide (t.ctx = c.toNat) && t.sizeOk && t.scope != 7 && !(t.ep && t.depth == 0) && decide (t.kind ≤ 1) &&
  !(t.kind == 1 && decide (data.toNat % 2 ^ t.log2e ≠ 0))

/-- A guarded alternative's channel: its key, or a refusal (R172, R300). The type of a peer's channel is checked by its home,
when that is probed. -/
def altKey (s : State) (a : Alt) : Option Nat :=
  match handleCheck s a.handle (some (a.kind == 1)) with
  | .error _ => none
  | .ok key =>
    if isExtKey key then (if extAlt s key a then some (localKey key) else none)
    else if s.isPeerKey key || altTypeOk (s.typeAt key) s.cur.ctx a.data then some key
    else none

/-- The index of the first alternative that R301's second check refuses. -/
def badAlt (s : State) (list : Nat) (is : List Nat) (timeouts : Nat) : Option Nat :=
  match is with
  | [] => none
  | i :: r =>
    let a := s.altAt list i
    let w := s.peek (list + 40 + 32 * i)
    if field w 3 29 ≠ 0 ∨ a.kind = 3 ∨ (a.kind ≠ 2 ∧ a.count ≠ 0) then some i
    else if !a.guard then badAlt s list r timeouts
    else if a.kind = 2 then (if timeouts ≥ 1 ∨ a.handle ≠ 0 then some i else badAlt s list r (timeouts + 1))
    else if (altKey s a).isNone then some i
    else badAlt s list r timeouts

/-- The message of an alternative; that of a peer's channel is a probe until its home has answered. -/
def altMsg (s : State) (list num i : Nat) (key : Nat) (elem : List Byte) : ChanMsg :=
  let a := s.altAt list i
  let kind :=
    if isExtKey key then (match extEnd key with | some (.server _) => 1 | _ => 3)
    else if s.isPeerKey key then 4
    else (s.typeAt key).kind
  { s.mkChan a.handle key (a.kind == 1) kind elem a.data 0 0 with
      deadline := none, sel := some (list, i), num := num + 1 + i }

/-- Bytes of the element of a send alternative (R300). -/
def State.altSize (s : State) (m : ChanMsg) : Nat :=
  if isExtKey m.key then 64 else if s.isPeerAddr m.handle then 64 - m.addr.toNat % 64 else 2 ^ (s.typeAt m.key).log2e

/-- The elements of the send alternatives, read at the probe (R300); a fault of a read is the select's. -/
def altElems (s : State) (core : Nat) (c : Byte) (ms acc : List ChanMsg) : Except FaultInfo (List ChanMsg) × State :=
  match ms with
  | [] => (.ok acc, s)
  | m :: r =>
    if m.send && m.kind == 0 then altElems s core c r (acc ++ [{ m with elem := natToBytes 8 m.addr.toNat }])
    else if m.send && m.kind == 1 && m.elem.isEmpty then
      match readBeat s core c m.addr (s.altSize m) with
      | (.error f, s) => (.error f, s)
      | (.ok bs, s) => altElems s core c r (acc ++ [{ m with elem := bs }])
    else altElems s core c r (acc ++ [m])

/-- A select that waits at the opposite end of an alternative's channel is its partner. -/
def State.partner (s : State) (m : ChanMsg) : Option ChanMsg :=
  if (chanType (s.peek m.key)).depth ≠ 0 then none
  else
    ((if m.send then s.receiversAt m.key else s.sendersAt m.key).filter fun q =>
      decide (q.sel.map (·.1) ≠ m.sel.map (·.1)) || q.agent != m.agent).head?.bind fun q => if q.sel.isSome then some q else none

/-- A channel alternative is ready (R179, R295); another select that waits at the opposite end counts as waiting. -/
def State.altReady (s : State) (m : ChanMsg) : Bool :=
  match (if isExtKey m.key then extEnd m.key else none) with
  | some e => s.extReady e
  | none =>
    let t := chanType (s.peek m.key)
    let other := fun (ms : List ChanMsg) => ms.any fun q => decide (q.sel.map (·.1) ≠ m.sel.map (·.1)) || q.agent != m.agent
    t.closed ||
    (if t.depth = 0 then (if m.send then other (s.receiversAt m.key) else other (s.sendersAt m.key))
     else if m.send then decide (s.chanLen m.key < t.depth) else decide (0 < s.chanLen m.key))

/-- Under replay a select takes the logged index (R163). -/
def State.replayIndex (s : State) (p : Proc) (list : Nat) : Option Nat :=
  if s.logged p && (s.ctx p.ctx).logctl.getLsbD 0 then
    (expectedRec ((s.fileReplay p.ctx).ctx p.ctx).replay list).map fun r => field r.w1 48 8
  else none

/-- A granted alternative at an endpoint: the endpoint takes it (R180). -/
def State.performExt (s : State) (m : ChanMsg) : State :=
  match extEnd m.key with
  | some (.server k) => s.push (.msRequest { stack := k, words := wordsOfBytes m.elem, msg := m })
  | some (.transmit p pr) => (s.setPort p { s.port p with waiting := (s.port p).waiting ++ [m] }).push (.frameTransmit p pr)
  | some (.ring p j) => ringReceive s m p j
  | none => s

/-- The list's owner grants the claim of an alternative, or gives a grant back. -/
def State.grantAlt (s : State) (list : Nat) (g : Option Nat) : State :=
  { s with selq := s.selq.map fun w => if w.list = list then { w with granted := g } else w }

/-- The select still waits. -/
def State.selAt (s : State) (list : Nat) : Option SelWait := s.selq.find? fun w => decide (w.list = list)

/-- An endpoint's alternative passes the log's gate and is performed. -/
def State.moveExt (s : State) (w : SelWait) (m : ChanMsg) (i : Nat) : State :=
  match s.selGate w i false with
  | .hold => (s.grantAlt w.list none).later (.selectClaim w.list i)
  | .diverge e => ((s.setDiv w.ctx).endSelect w i 0 none 0 false (some (divergeInfo e w.list))).1
  | .pass s => (s.grantAlt w.list (some i)).performExt m

/-- A time-out that has fired completes its select (R180, R181), or ends a killed member (R188). -/
def State.fireTime (s : State) (w : SelWait) : State :=
  if (s.proc w.pid).killed then s.reapChan w.pid
  else
  match s.selGate w w.timed true with
  | .hold => s.later (.timeoutFire w.pid)
  | .diverge e => ((s.setDiv w.ctx).endSelect w w.timed 0 none 0 false (some (divergeInfo e w.list))).1
  | .pass s => let r := s.endSelect w w.timed 2 none 0 false none; r.1.serveAll r.2

/-- The alternative that a probe chooses: the first in order that is ready, or under replay the logged one (R163, R179,
R180). -/
def readyAlt (s : State) (w : SelWait) (ms : List ChanMsg) : Option Nat :=
  let logged := s.replayIndex (s.proc w.pid) w.list
  (logged.elim w.order fun i => [i]).find? fun i =>
    (w.deadline.elim false fun d => decide (w.timed = i) && (logged.isSome || decide (d ≤ s.clkOf w.core))) ||
    ms.any fun m => m.sel == some (w.list, i) && (if s.isPeerAddr m.handle then w.found.contains i else s.altReady m)

/-- The process of a select that has not completed waits, with its time-out armed (R180, R181). -/
def State.parkSelect (s : State) (w : SelWait) : State :=
  let s := s.updProc w.pid fun p => { p with armed := w.deadline, waiting := false,
                                             outst := p.outst.map fun o => if o.sn = w.num then { o with held := true } else o }
  (w.deadline.elim s fun d => s.arm w.pid (d - s.clkOf w.core) (.timeoutFire w.pid)).park w.pid w.list 3

/-- The other alternatives of a select that goes on waiting reach their homes. -/
def State.waitSelect (s : State) (w : SelWait) (ms : List ChanMsg) (chosen : Option Nat) : State :=
  match s.selAt w.list with
  | none => s
  | some v =>
    let away := ms.filter fun m => s.isPeerAddr m.handle && decide (m.sel ≠ chosen.map fun i => (w.list, i))
    let s := away.foldl State.toHome s
    let s := if v.granted.isSome then s
             else s.serveAll ((ms.filter fun m => !isExtKey m.key && !s.isPeerAddr m.handle).map (·.key))
    match s.selAt w.list with
    | none => s
    | some v => s.parkSelect v

/-- A select whose alternatives are all known: the chosen one moves, or it waits for the first claim (R180). Where the
partner is a select too, the home claims both lists. DEDUCED, log entry 58. -/
def State.enterSelect (s : State) (w : SelWait) (ms : List ChanMsg) : State :=
  let s := { s with selq := s.selq ++ [w], chanq := s.chanq ++ ms.filter fun m => !s.isPeerAddr m.handle }
  match readyAlt s w ms with
  | none => s.waitSelect w ms none
  | some i =>
    match ms.find? fun m => m.sel == some (w.list, i) with
    | none => (s.fireTime w).waitSelect w ms none
    | some m =>
      if isExtKey m.key then (s.moveExt w m i).waitSelect w ms none
      else if s.isPeerAddr m.handle then ((s.grantAlt w.list (some i)).toHome { m with claim := 2 }).waitSelect w ms (some i)
      else ((if (s.partner m).isSome then s else s.grantAlt w.list (some i)).serveChan m.key).waitSelect w ms none

/-- Select: the checks of R301, a list that can be read (R62), the probe, and the wait (R180). DEDUCED, log entry 58. -/
def execChsel (l : Lone) (d b : Reg) (f : BitVec 1) (s : State) : Out :=
  boundary s
    (let la := s.descOp l b
     if s.cur.rc then .next (s.raiseAfter 0x0C2 0 [] none)
     else if s.cur.armed.isSome && s.cur.chan == 0 then raiseO s 0x001 s.cword
     else if 0 < s.cur.chan ∨ !s.cur.mayAccess then .next s.stall
     else if la.toNat % 64 ≠ 0 then raiseO s 0x040 la
     else
       let a := resolved s.cur.core la
       if a / 2 ^ 53 % 8 ≠ 2 ∨ s.isPeerKey a then issueFault s { cause := 0x0C0, tval := la, words := [] }
       else
         let list := localKey a
         let n := field (s.peek list) 0 6
         match checkAccess s s.cur.core s.cur.ctx la 32 needRW false,
               checkAccess s s.cur.core s.cur.ctx (la + BitVec.ofNat 64 (24 + 32 * min n 32)) 8 needRW false with
         | .fail c ws, _ => issueFault s { cause := c, tval := la, words := ws }
         | _, .fail c ws => issueFault s { cause := c, tval := la, words := ws }
         | _, _ =>
           if !s.cur.releaseHolds 6 || s.inFlightTo s.cur.agent (list / 64) then .next s.stall
           else
             match s.guardList ((List.range (4 + 4 * min n 32)).map fun i => list + 8 * i) with
             | (some a, s) => .next (s.raiseAfter 0x046 (BitVec.ofNat 64 a) [] none)
             | (none, s) =>
               let w0 := s.peek list
               let start := field w0 8 5
               let refuse := fun (i : Nat) => Host.Outcome.next (s.raiseAfter 0x0C0 la [BitVec.ofNat 64 i] none)
               if listOutside list n then .next (s.raiseAfter 0x0C0 la [0] none)
               else if field w0 13 51 ≠ 0 ∨ field w0 6 2 ≠ 0 ∨ n = 0 ∨ 32 < n ∨ n ≤ start ∨ s.peek (list + 8) ≠ 0 ∨
                  s.peek (list + 16) ≠ 0 ∨ s.peek (list + 24) ≠ 0 then refuse 0
               else
                 match badAlt s list (List.range n) 0 with
                 | some i => refuse i
                 | none =>
                   if (List.range n).all fun i => !(s.altAt list i).guard then .next (s.raiseAfter 0x001 s.cword [] none)
                   else
                     let num := s.accs + 1
                     let here := (List.range n).filterMap fun i =>
                       let a := s.altAt list i
                       (if a.guard && a.kind != 2 then altKey s a else none).map fun key => altMsg s list num i key []
                     match altElems s s.cur.core s.cur.ctx here [] with
                     | (.error e, s) =>
                       if e.cause = notYet then .next s.stall else .next (s.raiseAfter e.cause e.tval e.words none)
                     | (.ok ms, s) =>
                       let s := s.dropHost s.cur.core s.cur.ctx
                       let time := (List.range n).find? fun i => (s.altAt list i).guard && (s.altAt list i).kind == 2
                       let cnt := time.elim 0 fun i => (s.altAt list i).count
                       let away := ms.filter fun m => s.isPeerAddr m.handle
                       let w : SelWait :=
                         { pid := s.cur.pid, core := s.cur.core, unit := s.cur.unit, ctx := s.cur.ctx, list := list, rd := d,
                           fair := f == 1, pc := s.cur.pc, num := num, deadline := time.map fun _ => s.clkOf s.cur.core + cnt,
                           timed := time.getD 0,
                           order := if f = 1 then (List.range n).map fun i => (start + i) % n else List.range n }
                       let regs : Pre := s.keep
                       let s : State :=
                         { s with accs := num + n,
                                  cur := { (s.cur.setPend d) with
                                    holdAll := s.cur.holdAll ++ [num], selRedo := some { pc := s.cur.pc, ir := s.ir, regs := regs, isA := false },
                                    seqs := ms.foldl (fun q m => if m.send then SMap.put 0 q m.key m.seq else q) s.cur.seqs,
                                    outst := s.cur.outst ++ [{ sn := num, loads := false, stores := false, held := false,
                                                               sp3 := false, owner := [] }] } }
                       if away.isEmpty then .next (s.enterSelect w ms)
                       else
                         let s := { s with cur := { s.cur with waiting := true },
                                           selq := s.selq ++ [{ w with alts := ms, asked := away.filterMap fun m => m.sel.map (·.2) }] }
                         .next (away.foldl State.toHome s))

/-- The home of a peer's channel has answered a probe: the type word and what `cpoll` reads, or why it refuses (R172, R179,
R301). -/
def State.probed (s : State) (m : ChanMsg) (bs : List Byte) (f : Option FaultInfo) : State :=
  match m.sel.bind fun l => (s.selAt l.1).map fun w => (w, l.2) with
  | none => s
  | some (w, i) =>
    let t := chanType (BitVec.ofNat 64 (bytesToNat ((bs.drop 8).take 8)))
    let poll : Word := BitVec.ofNat 64 (bytesToNat (bs.take 8))
    if f.isSome || decide (1 < t.kind) || (t.kind == 1 && decide (m.addr.toNat % 2 ^ t.log2e ≠ 0)) then
      (s.endSelect w i 0 none 0 false
        (some { cause := 0x0C0, tval := BitVec.ofNat 64 w.list, words := [BitVec.ofNat 64 i] })).1
    else
      let ready := if m.send then poll.getLsbD 1 else poll.getLsbD 0
      let v : SelWait := { w with asked := w.asked.filter (· ≠ i), found := if ready then w.found ++ [i] else w.found,
                                  alts := w.alts.map fun q => if q.sel = m.sel then { q with kind := t.kind } else q }
      let s := { s with selq := s.selq.map fun x => if x.list = w.list then v else x }
      if v.asked.isEmpty then s.push (.selectClaim w.list i) else s

/-- Every home of a select's alternatives has been probed: the choice is made (R180). -/
def State.decideSelect (s : State) (w : SelWait) (index : Nat) : State :=
  match altElems s w.core w.ctx w.alts [] with
  | (.error f, s) =>
    if f.cause = notYet then s.later (.selectClaim w.list index) else (s.endSelect w index 0 none 0 false (some f)).1
  | (.ok ms, s) =>
    ({ s with selq := s.selq.filter fun x => decide (x.list ≠ w.list) }).enterSelect { w with alts := [] } ms

/-- The claims that stand at a list's owner, and the time-out that has come due (R146, R180). -/
def State.claimsAt (s : State) (w : SelWait) : List Nat :=
  ((s.agenda ++ s.blocked).filterMap fun e => match e with | .selectClaim l i => if l = w.list then some i else none | _ => none) ++
  (if s.agenda.contains (.timeoutFire w.pid) then [w.timed] else [])

/-- At levels 1 and 2 a claim of smaller index stands at the list's owner: it is granted first (R146, R180). -/
def State.claimAhead (s : State) (w : SelWait) (i : Nat) : Bool :=
  decide (s.levelOf w.ctx ≠ 0) && (w.order.find? fun j => decide (j = i) || (s.claimsAt w).contains j) != some i

/-- A home's claim at the list's owner, which grants the first, or at levels 1 and 2 that of smallest index among those
present (R146, R180). A refused home changes nothing. DEDUCED, log entry 58. -/
def execSelectClaim (list index : Nat) (s : State) : Out :=
  match s.selAt list with
  | none => .next s
  | some w =>
    if !w.alts.isEmpty then .next (if w.asked.isEmpty then s.decideSelect w index else s)
    else if w.granted.isSome && w.granted != some index || s.claimAhead w index then .next (s.later (.selectClaim list index))
    else
      let refused := (s.replayIndex (s.proc w.pid) list).elim false fun k => k != index
      match (s.chanq ++ s.peerOps.map (·.2)).find? fun m => isProcMsg m && m.sel == some (list, index) with
      | none => .next s
      | some m =>
        if s.isPeerAddr m.handle then
          if refused then .next (s.sendFlit (m.handle.toNat / 2 ^ 56) m.ctx 1 (.altGrant m.num false))
          else
            match s.selGate w index false with
            | .hold => .next (s.later (.selectClaim list index))
            | .diverge e => .next ((s.setDiv w.ctx).endSelect w index 0 none 0 false (some (divergeInfo e list))).1
            | .pass s => .next ((s.grantAlt list (some index)).sendFlit (m.handle.toNat / 2 ^ 56) m.ctx 1 (.altGrant m.num true))
        else if refused then .next (s.settleGrants m.key)
        else if isExtKey m.key then .next (if s.altReady m then s.moveExt w m index else s)
        else .next ((s.grantAlt list (some index)).serveChan m.key)

/-- The home of a peer's alternative gives its grant back: the other side is gone (R180). -/
def State.altFreed (s : State) (num : Nat) : State :=
  match (s.peerOps.find? fun e => decide (e.1 = num)).bind fun e => e.2.sel with
  | none => s
  | some l =>
    let s := if (s.selAt l.1).elim false fun w => w.granted == some l.2 then s.grantAlt l.1 none else s
    s.serveAll ((s.chanq.filter fun m => isProcMsg m && m.sel.elim false (fun x => decide (x.1 = l.1)) && !isExtKey m.key).map (·.key))

/-- The owner of a peer's list has answered a claim of a home here (R180). -/
def State.altGranted (s : State) (num : Nat) (ok : Bool) : State :=
  match s.chanq.find? fun m => decide (m.num = num) with
  | none => s
  | some m => if ok then (s.mapChan num fun m => { m with claim := 2 }).serveChan m.key
              else (s.mapChan num fun m => { m with claim := 0 }).settleGrants m.key

/-- A select's time-out fires: a claim like any other (R180, R181); under replay at its logged place (R163). DEDUCED, log
entry 60. -/
def execTimeoutFire (pid : Nat) (s : State) : Out :=
  match s.selq.find? fun w => decide (w.pid = pid) && w.deadline.isSome with
  | none => .next s
  | some w =>
    let p := s.proc pid
    if s.replays p then
      let due := (expectedRec ((s.fileReplay p.ctx).ctx p.ctx).replay w.list).elim false fun r => field r.w1 63 1 == 1
      .next (if due && w.granted.isNone && w.alts.isEmpty then s.fireTime w else s.later (.timeoutFire pid))
    else if w.deadline.elim true fun d => decide (s.clkOf p.core < d) then .next s
    else if w.granted.isSome || s.claimAhead w w.timed then .next (s.later (.timeoutFire pid))
    else .next (s.fireTime w)

end Sys2Proof.Machine
end

