-- ==== Sys2Proof/Machine/Link.lean ====
section
/-! DEFINITION. Zhovin links and peer requests (spec/17 R410–R415, spec/02 R53–R56): flits received in order, replays and
retraining, the access-control table, and what a peer's flit does here. -/

namespace Sys2Proof.Machine

/-! ### Links (R413, R414) -/

def linkReg (l : Nat) : Nat := blockAddr (l / 8) 0x11 (0x100 * (l % 8))

/-- UP of a link, as it stands and as ZPSTAT shows it. DEDUCED, log entry 72. -/
def State.setUp (s : State) (l : Nat) (up : Bool) : State :=
  (s.setLink l { s.link l with up := up }).setReg (linkReg l) (setField (s.reg (linkReg l)) 0 1 (bit up))

def sameFlit (f g : Flit) : Bool := decide (f.dnode = g.dnode ∧ f.snode = g.snode ∧ f.vc = g.vc ∧ f.eseq = g.eseq)

/-- Flits held at the sill go out, in order, where a link of their route is up and nothing sent again bars them (R414). -/
def releaseHeld (fs : List Flit) (kept : List Flit) (s : State) : State :=
  match fs with
  | [] => { s with heldFlits := kept }
  | f :: r =>
    let barred := (kept.any fun g => decide (g.dnode = f.dnode)) ||
      (decide (f.vc < 4) && s.resent.any fun g => decide (g.dnode = f.dnode))
    match s.routeTo f.dnode with
    | some l => if barred then releaseHeld r (kept ++ [f]) s else releaseHeld r kept (s.emit l f)
    | none => releaseHeld r (kept ++ [f]) s

def State.release (s : State) : State := releaseHeld s.heldFlits [] s

/-- The other end has received every flit up to an LSEQ (R413). -/
def State.acked (s : State) (l : Nat) (ack : BitVec 12) : State :=
  let x := s.link l
  match x.replay.findIdx? fun f => decide (f.lseq = ack) with
  | none => s
  | some i =>
    let gone := x.replay.take (i + 1)
    let s := s.setLink l { x with replay := x.replay.drop (i + 1), tries := 0 }
    ({ s with resent := s.resent.filter fun f => !gone.any (sameFlit f) }).release

/-- Every unacknowledged flit of a link goes out on it again, in LSEQ order. -/
def State.resendFlits (s : State) (l : Nat) (fs : List Flit) : State :=
  { s with out := (fs.reverse.map fun f => OutMsg.flit l { f with ack := (s.link l).rseq }) ++ s.out }

/-- A link begins to retrain (R413). -/
def State.retrain (s : State) (l : Nat) : State := (s.setUp l false).bumpReg (linkReg l) 8 16

/-- The receiver asks for a replay from a flit on; after eight replays of one flit the link retrains (R413). -/
def execLinkReplay (link : Nat) (lseq : BitVec 12) (s : State) : Out :=
  let x := s.link link
  match x.replay.findIdx? fun f => decide (f.lseq = lseq) with
  | none => .next s
  | some i =>
    if !x.up then .next s
    else
      let tries := if i = 0 then x.tries + 1 else 1
      let fs := x.replay.drop i
      let s := s.setLink link { x with tries := tries }
      if 8 < tries then .next (s.retrain link)
      else
        let s := s.setReg (linkReg link)
          (setField (s.reg (linkReg link)) 40 24 (satAdd (field (s.reg (linkReg link)) 40 24) fs.length (2 ^ 24 - 1)))
        .next (s.resendFlits link fs)

/-- The flits of a DOWN link go out, in LSEQ order, on the links that R414 now selects, with their ESEQ unchanged. -/
def State.moveFlits (s : State) (fs : List Flit) : State :=
  fs.foldl (fun s f =>
    match s.routeTo f.dnode with
    | some l => ({ s with resent := s.resent ++ [f] }).emit l f
    | none => { s with heldFlits := s.heldFlits ++ [f] }) s

/-- The end of a retraining: the replay buffer is sent again, or after the third failure in a row the link is DOWN (R413). -/
def execLinkRetrain (link : Nat) (ok : Bool) (s : State) : Out :=
  let x := s.link link
  if x.up || x.down then .next s
  else if ok then
    .next (((s.setLink link { x with fails := 0, tries := 0 }).setUp link true).resendFlits link x.replay).release
  else if x.fails < 2 then .next ((s.setLink link { x with fails := x.fails + 1 }).bumpReg (linkReg link) 8 16)
  else
    .next ((s.setLink link { x with fails := 3, down := true, replay := [], tries := 0 }).moveFlits x.replay)

/-- A link has trained and carries flits; EN allows it (R414). -/
def execLinkUp (link : Nat) (s : State) : Out :=
  if !(s.reg (linkReg link)).getLsbD 1 then .next s
  else
    let x := s.link link
    .next (((s.setLink link { x with down := false, fails := 0, tries := 0 }).setUp link true).resendFlits link x.replay).release

/-! ### The access-control table (R53–R56) -/

/-- Rights that an operation of a peer needs: RD, WR, AT (R54, R105). -/
def aclNeed (op : MemOp) : Bool × Bool × Bool :=
  match op with
  | .load _ | .nibble _ _ | .tag | .ldv _ => (true, false, false)
  | .store _ | .sub _ _ | .stv _ _ | .rcl _ | .vinit _ _ => (false, true, false)
  | .atom _ _ _ _ | .join | .joinDec | .park _ => (false, false, true)

/-- The same for a request to an address: a store to a launch-queue slot needs WR and AT (R194). -/
def State.aclNeedAt (s : State) (op : MemOp) (va : Word) (size : Nat) : Bool × Bool × Bool :=
  let n := aclNeed op
  if n.2.1 && va.toNat / 2 ^ 53 == 2 && s.inQueueSlot va.toNat size then (false, true, true) else n

/-- The rights of an entry admit a request (R54). -/
def aclAllows (w : Word) (n : Bool × Bool × Bool) (space : Nat) : Bool :=
  (!n.1 || w.getLsbD 37) && (!n.2.1 || w.getLsbD 36) && (!n.2.2 || w.getLsbD 35) &&
  (decide (space ≠ 3) || w.getLsbD 34) && (decide (space ≠ 1) || w.getLsbD 33)

/-- What the checks of R53 to R56 make of a peer's request: the local context and the checked address, or the cause. -/
inductive PeerCheck where
  | ok (c : Byte) (pa space entry : Nat) (s : State)
  | refuse (cause : Nat) (s : State)
  | wait
  deriving DecidableEq, Repr

/-- A peer's request under the table and under R38. -/
def peerCheck (s : State) (node : Nat) (c : Byte) (va : Word) (size : Nat) (n : Bool × Bool × Bool) (need : Need) (reg : Bool) :
    PeerCheck :=
  if s.ingressHeld then .wait
  else if s.frozenNodes.contains node then .refuse 0x180 s
  else
    let acl : FaultInfo := { cause := 0x181, tval := va, words := [] }
    match s.aclEntry node c with
    | none => .refuse 0x181 (s.peerViolates node none acl)
    | some i =>
      let w := s.reg (aclReg i)
      let l := BitVec.ofNat 8 (field w 38 8)
      if va.toNat / 2 ^ 56 ≠ 0 || !aclAllows w n (va.toNat / 2 ^ 53 % 8) || !(s.desc l).valid then
        .refuse 0x181 (s.peerViolates node (some i) acl)
      else
        match checkNow s (sillSeat ((s.routeTo node).getD 0 / 8)) l va size need reg with
        | (.ok pa space, s) => .ok l pa space i s
        | (.fail e ws, s) => .refuse e (s.peerViolates node (some i) { cause := e, tval := va, words := ws })
        | (_, s) => .refuse 0x043 (s.peerViolates node (some i) { cause := 0x043, tval := va, words := [] })

/-- The access that a peer's request asks of an owner here; its unit names the table's entry (R55). -/
def peerReq (p : PeerMsg) (c : Byte) (pa space entry : Nat) : Req :=
  { agent := .peer p.node, core := p.lcore, unit := 64 + entry, ctx := c, va := p.va, pa := pa, space := space, size := p.size, op := p.op,
    ord := p.ord, scope := p.scope, rd := 0, pc := 0, sn := p.tag }

/-- A peer's request (R54, R55): checked, and sent to its owner; or the error reply. -/
def execPeerRequest (p : PeerMsg) (s : State) : Out :=
  match peerCheck s p.node p.ctx p.va p.size (s.aclNeedAt p.op p.va p.size) (if p.ex then needEx else p.op.need) (p.op.plain p.size && !p.ex) with
  | .wait => .next (s.later (.peerRequest p))
  | .refuse cause s => .next (s.sendFlit p.node p.ctx 1 (.reply p.tag 0 0 cause 0))
  | .ok c pa space entry s =>
    let r := peerReq p c pa space entry
    if versionSpace p.op space then .next (s.failAt r { cause := 0x063, tval := p.va, words := [] } false)
    else if hostRefused p.op space then .next (s.failAt r { cause := 0x043, tval := p.va, words := [] } false)
    else .next (s.push (ownerStep r))

/-- An error reply reaches the issuer: the cause is raised there as a fault, which freezes nothing (R55). -/
def execPeerErrorReply (d : Done) (s : State) : Out :=
  match d.agent, d.req with
  | .proc _, some r => .next (if isFetch r then d.fault.elim s (s.fetchFailed r) else s.comeBack d false)
  | .host, some r => .next (s.hostAnswer r 0 d.fault)
  | .host, none => .next s
  | _, _ => .next (s.comeBack d false)

/-! ### What a flit carries (R411) -/

/-- The cause of an error reply, marked as one that freezes nothing. -/
def peerCause (cause : Nat) (tval : Word) : Option FaultInfo :=
  if cause = 0 then none else some { cause := 512 + cause % 512, tval := tval, words := [] }

/-- A reply to a request of this package, or to a `callat` (R55, R134, R304). -/
def State.peerReply (s : State) (tag : Nat) (val : Word) (fl : BitVec 5) (cause miss : Nat) : State :=
  match s.peers.find? fun e => decide (e.1 = tag) with
  | some (_, r) =>
    let s : State := if miss = 2 then s else { s with peers := s.peers.filter fun e => decide (e.1 ≠ tag) }
    (match peerCause cause r.va with
     | some f =>
       s.push (.peerErrorReply
         { agent := r.agent, writes := [], flags := 0, fault := some f, cls := r.op.cls, sn := r.sn, miss := false, key := r.pa,
           req := some r, chan := none, pc := r.pc })
     | none => if isFetch r then s.fetchedBundle r val else s.complete r val (fl.setWidth 7) (if miss = 2 then .pending else if miss = 1 then .drained else .none) false)
  | none =>
    match s.peerCalls.find? fun m => decide (m.num = tag) with
    | none => s
    | some m =>
      let s : State := { s with peerCalls := s.peerCalls.filter fun x => decide (x.num ≠ tag) }
      match peerCause cause (BitVec.ofNat 64 m.target) with
      | some f => s.spawnFault m f
      | none => s.updProc m.agent.pid fun p => { p with waiting := false }

/-- The number by which a home knows a peer's operation. -/
def peerNum (node num : Nat) : Nat := 2 ^ 64 * (node + 1) + num % 2 ^ 64

/-- A channel operation or alternative of a peer, as it stands at its home here. -/
def peerChan (node : Nat) (c : Byte) (m : ChanMsg) : ChanMsg :=
  { m with agent := .peer node, ctx := c, num := peerNum node m.num, deadline := none }

/-- Rights for a channel operation of a peer: a send and a close need WR and AT (R54); a receive RD and AT, `cpoll` RD
(DEDUCED, log entry 36). -/
def chanNeed (m : ChanMsg) : Bool × Bool × Bool :=
  if m.kind = 4 then (true, false, false) else if m.send then (false, true, true) else (true, false, true)

/-- A peer's alternative that its select has granted already meets another select: it gives the grant back, and both lists
are claimed in their order (R180). DEDUCED, log entry 36. -/
def State.takeBack (s : State) (node : Nat) (c : Byte) (q : ChanMsg) : ChanMsg × State :=
  if q.claim == 2 && (s.partner q).isSome then ({ q with claim := 0 }, s.sendFlit node c 1 (.altFree (q.num % 2 ^ 64))) else (q, s)

/-- A channel operation of a peer arrives (R54, R172). -/
def State.peerChannel (s : State) (node : Nat) (c : Byte) (m : ChanMsg) (link : Nat) (f : Flit) : State :=
  match peerCheck s node c (BitVec.ofNat 64 m.key) 8 (chanNeed m) needRW false with
  | .wait => s.later (.linkFlit link f)
  | .refuse cause s => s.sendFlit node c 1 (.chanReply (m.num % 2 ^ 64) 0 [] 0 cause false)
  | .ok l _ _ _ s =>
    let q := s.takeBack node c (peerChan node l m)
    q.2.push (if m.send && m.kind != 4 then .channelSendAtHome q.1 else .channelReceiveAtHome q.1)

/-- The access by which a scope miss at a peer's home is remembered until its RELEASED comes (R134, R136). -/
def missReq (m : ChanMsg) : Req :=
  { agent := m.agent, core := m.core, unit := m.unit, ctx := m.ctx, va := m.handle, pa := m.key, space := 2, size := 8,
    op := .load false, ord := .acq, scope := 6, rd := 0, pc := m.pc, sn := m.num }

/-- The home of a peer's channel has ended an operation, or answered a probe (R173, R179, R180). -/
def State.peerChanEnd (s : State) (num status : Nat) (bs : List Byte) (fl : Flags) (cause : Nat) (miss : Bool) : State :=
  match s.peerOps.find? fun e => decide (e.1 = num) with
  | none => s
  | some (_, m) =>
    let s : State := { s with peerOps := s.peerOps.filter fun e => decide (e.1 ≠ num) }
    let f := peerCause cause (if cause = 0x040 then m.addr else m.handle)
    if m.kind = 4 && m.sel.isSome then s.probed m bs f
    else
      let s : State := if miss then { (s.notePend m.agent .pending) with peers := s.peers ++ [(num, missReq m)] } else s
      let r := s.endChan m status bs fl miss f
      r.1.serveAll r.2

/-- A `callat` of a peer (R54, R183). -/
def State.peerCall (s : State) (node : Nat) (c : Byte) (m : SpawnMsg) (link : Nat) (f : Flit) : State :=
  match peerCheck s node c (BitVec.ofNat 64 m.target) 8 (false, false, true) needRW false with
  | .wait => s.later (.linkFlit link f)
  | .refuse cause s => s.sendFlit node c 1 (.reply m.num 0 0 cause 0)
  | .ok l _ _ _ s => s.push (.spawnPlace { m with agent := .peer node, ctx := l })

/-- The home of a peer's channel claims an alternative of a list here (R180). -/
def State.altClaimed (s : State) (f : Flit) (num : Nat) : State :=
  match (s.peerOps.find? fun e => decide (e.1 = num)).bind fun e => e.2.sel with
  | some l => s.push (.selectClaim l.1 l.2)
  | none => s.sendFlit f.snode f.sctx 1 (.altGrant num false)

/-- The home of a peer's channel asks for a beat of a range here; an operation that has ended here has none (R176, R291).
DEDUCED, log entry 36. -/
def State.tileAsked (s : State) (f : Flit) (num pos : Nat) (bytes : List Byte) : State :=
  match s.peerOps.find? fun e => decide (e.1 = num) with
  | none => s.sendFlit f.snode f.sctx 1 (.tileAnswer num pos false [])
  | some (_, m) =>
    let t : TileMsg := { sender := if m.send then some m else none, receiver := if m.send then none else some { m with elem := bytes },
                         key := m.key, buf := 0, len := remoteTile, pos := pos, stopped := none, num := m.num }
    ({ s with tiles := s.tiles ++ [t] }).push (.tileTransfer t)

/-- A flit that is next in its order is acted on (R411, R412). -/
def State.deliver (s : State) (link : Nat) (f : Flit) : State :=
  match f.body with
  | .request p => s.push (.peerRequest { p with node := f.snode, ctx := f.sctx })
  | .reply tag val fl cause miss => s.peerReply tag val fl cause miss
  | .released tag =>
    match s.peers.find? fun e => decide (e.1 = tag) with
    | some (_, r) => ({ s with peers := s.peers.filter fun e => decide (e.1 ≠ tag) }).push (.released r.agent)
    | none => s
  | .announce a => s.push (.collAnnounce { a with node := f.snode })
  | .chunkReq cid chunk => s.push (.chunkGrant cid chunk (256 + f.snode))
  | .grant cid chunk => s.push (.chunkGrant cid chunk link)
  | .data cid chunk len bytes => s.chunkData link cid chunk len bytes
  | .chan m => s.peerChannel f.snode f.sctx m link f
  | .chanReply num status elem fl cause miss => s.peerChanEnd num status elem fl cause miss
  | .altClaim num => s.altClaimed f num
  | .altGrant num ok => s.altGranted (peerNum f.snode num) ok
  | .altFree num => s.altFreed num
  | .withdraw m => s.push (.withdrawal (peerChan f.snode m.ctx m))
  | .call m => s.peerCall f.snode f.sctx m link f
  | .tileAsk num pos bytes => s.tileAsked f num pos bytes
  | .tileAnswer num pos ok bytes =>
    { s with tileIn := s.tileIn.map fun e =>
        if e.1 = peerNum f.snode num ∧ e.2.1 = pos then (e.1, pos, some (ok, bytes)) else e }

/-- Flits that waited for an earlier ESEQ follow it (R412). -/
def drainOrder (fuel : Nat) (s : State) (link node vc : Nat) : State :=
  match fuel with
  | 0 => s
  | n + 1 =>
    let k := 8 * node + vc
    let due := SMap.get 0 s.eseqRx k
    match s.reorder.find? fun f => decide (f.snode = node ∧ f.vc = vc ∧ f.eseq.toNat = due) with
    | none => s
    | some f =>
      let s : State := { s with reorder := s.reorder.filter fun g => !sameFlit f g, eseqRx := SMap.put 0 s.eseqRx k ((due + 1) % 2 ^ 16) }
      drainOrder n (s.deliver link f) link node vc

/-- A flit for this package in its end-to-end order: delivered, kept for an earlier one, or discarded as delivered already
(R412, R413). -/
def State.inOrder (s : State) (link : Nat) (f : Flit) : State :=
  let k := 8 * f.snode + f.vc
  let due := SMap.get 0 s.eseqRx k
  let ahead := (f.eseq.toNat + 2 ^ 16 - due) % 2 ^ 16
  if ahead = 0 then
    let s : State := { s with eseqRx := SMap.put 0 s.eseqRx k ((due + 1) % 2 ^ 16) }
    drainOrder (s.reorder.length + 1) (s.deliver link f) link f.snode f.vc
  else if ahead < 2 ^ 15 then { s with reorder := s.reorder ++ [f] }
  else s

/-- A flit for another package goes on along its route (DEDUCED, log entry 36). -/
def State.passOn (s : State) (f : Flit) : State :=
  match s.routeTo f.dnode with
  | some l => s.emit l f
  | none => { s with heldFlits := s.heldFlits ++ [f] }

/-- A flit arrives on a link (R410–R415). One with a bad CRC, and every one after it, is discarded and asked for again;
while ingress is held the sender keeps its flits. -/
def execLinkFlit (link : Nat) (f : Flit) (s : State) : Out :=
  let x := s.link link
  if !x.up then .next s
  else if s.ingressHeld then .next (s.later (.linkFlit link f))
  else if !f.crcOk then
    .next { (s.bumpReg (linkReg link) 24 16) with out := .replayRequest link (x.rseq + 1) :: s.out }
  else if f.lseq ≠ x.rseq + 1 then .next s
  else
    let s := (s.setLink link { x with rseq := f.lseq }).acked link f.ack
    .next (if f.dnode = s.mynode then s.inOrder link f else s.passOn f)

end Sys2Proof.Machine
end

