-- ==== Sys2Proof/Machine/Boot.lean ====
section
/-! DEFINITION. From power-on to READY, restarts and recovery (spec/21 R447–R450), attestation (R451), clock plans (R453),
power and thermal limits (R454). The board supplies what a site supplies (DESIGN CHOICE, log entry 4). -/

namespace Sys2Proof.Machine

/-! ### BOOTCAUSE (R450) -/

/-- One bit of BOOTCAUSE: 0 READY, 1 MINIMAL, 2 RECOVERY. -/
def State.setCause (s : State) (i : Nat) : State := s.setRegBit regBootcause i

/-- BOOTCAUSE at the entry to stage 0: the count before this start, and what ended the last one. -/
def bootCause (b : Boot) : Word :=
  BitVec.ofNat 64 (min 255 b.fails * 2 ^ 48 + b.lastStage % 256 * 2 ^ 32 + b.reason % 256 * 2 ^ 8 + (if 3 ≤ b.fails then 2 else 0))

/-- The watchdog of a stage, in microseconds (R447). -/
def stageLimit (k : Nat) : Nat :=
  match k with
  | 0 => 100000 | 1 => 2000000 | 2 => 500000 | _ => 1000000

/-! ### Entry to stage 0 (R447, R449) -/

/-- DARKPEND clears only at power-on (R409). -/
def darkRegs (s : State) : SMap Word :=
  s.regs.filter fun e => decide (e.1 = blockAddr 0 0 0x308 ∨ e.1 = blockAddr 0 0 0x310)

/-- Everything volatile is as after power-on; what the root of trust and the board keep stands. -/
def State.cold (s : State) (b : Boot) (kept : SMap Word) : State :=
  { State.reset with boot := b, board := s.board, regs := kept, clk := s.clk, accs := s.accs, fresh := s.fresh, sched := s.sched,
                     out := s.out, agenda := [], timers := [] }

/-- A stage is entered: its watchdog starts, and its work is done in time unless something else comes first. -/
def State.enterStage (s : State) (k : Nat) : State :=
  let s : State := { s with boot := { s.boot with stage := k },
                            timers := s.timers.filter fun t => decide (t.2 ≠ .bootWatchdog) }
  (s.push (.bootStage .ok)).after (stageLimit k * Config.cyclesPerUs) .bootWatchdog

/-- A start begins: the count of failed starts advances, and at 3 or more the start is a minimal one (R449). -/
def State.beginStart (s : State) (b : Boot) (kept : SMap Word) : State :=
  let b' : Boot := { b with stage := 0, fails := b.fails + 1, minimal := decide (3 ≤ b.fails), recovery := false, trip := false,
                            powered := true, stopped := false, started := true, broken := false, plan := 0 }
  ((s.cold b' kept).setReg regBootcause (bootCause b)).enterStage 0

/-- The start has failed: it is recorded, and the next one begins (R447, R449). -/
def State.failStart (s : State) (reason : Nat) : State :=
  s.beginStart { s.boot with lastStage := s.boot.stage, reason := reason } (darkRegs s)

/-- A run ends by something other than a stage of its own; a start that has not reached READY was interrupted. -/
def State.ended (s : State) (reason : Nat) : Boot :=
  if s.boot.started then { s.boot with lastStage := s.boot.stage, reason := 7 } else { s.boot with reason := reason }

/-- Power comes on: stage 0 is entered (R447). -/
def execPowerOn (s : State) : Out := if s.boot.powered then .next s else .next (s.beginStart s.boot [])

/-- Power is lost; what is not in the root of trust or on the board goes with it (R449). -/
def execLossOfPower (s : State) : Out :=
  if !s.boot.powered then .next s
  else .next (s.cold { s.ended 0 with stage := 0, started := false, powered := false, stopped := false, trip := false,
                                      recovery := false } [])

/-- RSTCTL.RESET: a restart from stage 0 (R450); it leaves the stopped state of R24. -/
def execReset (s : State) : Out :=
  if !s.boot.powered || s.boot.trip then .next s else .next (s.beginStart (s.ended 0) (darkRegs s))

/-! ### The stages (R447) -/

/-- A row of words from a register. -/
def State.setRegs (s : State) (a : Nat) (ws : List Word) : State :=
  match ws with
  | [] => s
  | w :: r => (s.setReg a w).setRegs (a + 8) r

/-- A window that covers every byte of SRAM with every right (R39, R41). -/
def openWindow : Window := { w0 := 0xFFFFFFFFF8000000, w1 := 0x20000000000 }

/-- Context 0's descriptor, and its window table behind the descriptor table: valid, with all flags, no tables and no
mailbox (R39; DESIGN CHOICE, log entry 4). -/
def State.writeContext0 (s : State) : State :=
  let t := field s.board.ctxtab 14 34 * 2 ^ 14
  let put := fun (m : List Host.Cell) (e : Nat × Word) => writeWord m e.1 e.2
  { s with mem := [(t + 16, BitVec.ofNat 64 (t + 0x4000)), (t + 24, 0xF), (t + 0x4000, openWindow.w0),
                   (t + 0x4008, openWindow.w1)].foldl put s.mem }

/-- The plan of minimal mode (R32), in the class that the module fixes, or Class A (R449). -/
def minimalPlan (cls : Nat) : Word := BitVec.ofNat 64 ((if cls = 0 then 1 else cls) * 2 ^ 16 + 0x6)

/-- The plan of this start. DESIGN CHOICE, log entry 4. -/
def State.bootPlan (s : State) : Word :=
  if s.boot.minimal then minimalPlan s.board.cls else s.board.plan &&& BitVec.ofNat 64 (mask 17 0)

/-- Stage 2: the configuration block is applied, unless its plan is refused (R447, R449). -/
def State.configure (s : State) : State :=
  let min := s.boot.minimal
  let plan := s.bootPlan
  let s := (s.setReg regCtxtab (s.board.ctxtab &&& BitVec.ofNat 64 (mask 47 14))).writeContext0
  let s := if s.board.mynode = 0xFF then s else s.setReg regMynode (s.board.mynode.setWidth 64)
  let s := s.setRegs (blockAddr 0 1 0x010) (s.board.nodemap.take 4)
  let s := s.setReg regPartplan plan
  let s := if min then s else
    (s.setRegs (blockAddr 0 0 0x600) ((s.board.avoid.take 32).map fun w => w &&& BitVec.ofNat 64 (2 ^ 63 + mask 47 0))).setRegs
      (blockAddr 0 0 0x470) (wordsOfBytes (s.board.meas1.take 48))
  let e := planError plan s.board.cls
  if e ≠ 0 then (s.setErr e).failStart 6
  else
    let s : State := { s with boot := { s.boot with plan := plan }, pwrStep := if min then 4 else 0 }
    let s := (((s.setReg regClknext (nominalPlan (planClass plan))).applyRoles plan).applyClock (planClass plan)).enumerated
    let s := s.setReg (blockAddr 0 0 0x700) (BitVec.ofNat 64 (packageBudget (planClass plan)))
    (s.setPart 32 32 1).enterStage 3

/-- Stage 3: the named Zhovin ports may train (R447). -/
def State.enablePorts (s : State) : State :=
  if s.boot.minimal then s
  else (List.range 16).foldl (fun s l => if s.board.ports.getLsbD l then s.setRegBit (linkReg l) 1 else s) s

/-- READY: the count of failed starts is cleared (R447, R449). -/
def State.ready (s : State) : State :=
  { s.setCause 0 with boot := { s.boot with stage := 4, fails := 0, started := false },
                      timers := s.timers.filter fun t => decide (t.2 ≠ .bootWatchdog) }

/-- The stage-1 image fails verification in a minimal start: recovery (R450). -/
def State.recover (s : State) (reason : Nat) : State :=
  { s.setCause 2 with boot := { s.boot with recovery := true, lastStage := 0, reason := reason },
                      timers := s.timers.filter fun t => decide (t.2 ≠ .bootWatchdog) }

/-- A stage ends (R447): the next one is entered, or the start has failed. DESIGN CHOICE, log entry 4. -/
def execBootStage (result : BootResult) (s : State) : Out :=
  let b := s.boot
  if !b.started || b.recovery || !b.powered || b.trip then .next s
  else
    match result with
    | .fail reason =>
      if b.stage = 0 ∧ b.minimal ∧ (reason = 1 ∨ reason = 2) then .next (s.recover reason) else .next (s.failStart reason)
    | .ok =>
      match b.stage with
      | 0 => .next ((s.setRegs (blockAddr 0 0 0x440) (wordsOfBytes (s.board.meas0.take 48))).enterStage 1)
      | 1 => .next (s.enterStage 2)
      | 2 => .next s.configure
      | _ => .next s.enablePorts.ready

/-- A stage outruns its watchdog (R447). -/
def execBootWatchdog (s : State) : Out :=
  if !s.boot.started || s.boot.recovery || !s.boot.powered || s.boot.trip then .next s else .next (s.failStart 5)

/-! ### Recovery (R450) -/

/-- The slice that recovery maps: slice 0 of bench 0 of layer 0 of tower 0. -/
def recoverySlice : Nat := sliceAddr 0 0

/-- Six free words: the digest of an image whose extent its header gives and the manual does not (DESIGN CHOICE, log entry 6). -/
def State.freeDigest (s : State) (k : Nat) : List Byte × State :=
  match k with
  | 0 => ([], s)
  | n + 1 =>
    let x := s.freeWord
    let r := x.2.freeDigest n
    (natToBytes 8 x.1.toNat ++ r.1, r.2)

/-- RECGO: a valid image goes to the boot flash and the device restarts; an invalid one changes nothing (R450). -/
def execRecgo (valid : Bool) (s : State) : Out :=
  if !s.boot.recovery || !valid then .next s
  else
    let d := s.freeDigest 6
    .next ({ d.2 with board := { s.board with meas0 := d.1 } }.beginStart s.boot (darkRegs s))

/-- A write of RSTCTL. The verdict on the image is the root of trust's (DESIGN CHOICE, log entry 6). -/
def State.writeRstctl (s : State) (x : Word) : Out :=
  if x.getLsbD 0 then execReset s
  else if x.getLsbD 1 && s.boot.recovery then
    .next (s.push (.recgo (Config.imageVerified (bytesAt s.mem recoverySlice Config.sliceBytes))))
  else .next s

/-! ### Clock plans (R452, R453) -/

/-- F of a class at step k, in units of 0.25 MHz. -/
def nominalStep (cls k : Nat) : Nat := (if cls = 1 then 3840 else 2880) * (8 - k) / 8

/-- Avoid bands that stand, as (LO, HI) in kHz. -/
def State.bands (s : State) : List (Nat × Nat) :=
  (List.range 32).filterMap fun i =>
    let w := s.reg (blockAddr 0 0 (0x600 + 8 * i))
    if w.getLsbD 63 then some (field w 0 24, field w 24 24) else none

/-- One of the harmonics 1–16 of `f` lies in a band. -/
def hitsBand (bands : List (Nat × Nat)) (f : Nat) : Bool :=
  bands.any fun b => (List.range 16).any fun n => decide (b.1 ≤ (n + 1) * f * 250) && decide ((n + 1) * f * 250 ≤ b.2)

/-- The step found from `f` downward, or none below 96 per cent of `top` (R453). -/
def clearStep (bands : List (Nat × Nat)) (top f fuel : Nat) : Option Nat :=
  if !hitsBand bands f then some f
  else
    match fuel with
    | 0 => none
    | n + 1 => if 100 * (f - 1) < 96 * top then none else clearStep bands top (f - 1) n

/-- The five steps of a class; the step that cannot be cleared. -/
def planSteps (bands : List (Nat × Nat)) (cls k n : Nat) : Except Nat (List Nat) :=
  match n with
  | 0 => .ok []
  | m + 1 =>
    match clearStep bands (nominalStep cls k) (nominalStep cls k) (nominalStep cls k) with
    | none => .error k
    | some f =>
      match planSteps bands cls (k + 1) m with
      | .error j => .error j
      | .ok r => .ok (f :: r)

/-- ERR and KSTEP of CLKCTL. -/
def State.calcResult (s : State) (err k : Nat) : State :=
  s.setReg regClkctl (setField (setField (s.reg regClkctl) 8 8 err) 16 3 k)

/-- CALC (R453). For a CLASS that names no F the manual states no plan: a free value (DESIGN CHOICE, log entry 7). -/
def execCalc (s : State) : Out :=
  let cls := planClass (s.reg regPartplan)
  if s.phase ≠ 0 then .next (s.calcResult 2 0)
  else if s.bands.any fun b => decide (b.2 < b.1) then .next (s.calcResult 3 0)
  else if cls = 0 ∨ cls = 3 then
    let x := s.freeWord
    .next ((x.2.calcResult 0 0).setReg regClknext (setField (setField x.1 60 2 cls) 62 2 0))
  else
    match planSteps s.bands cls 0 5 with
    | .error k => .next (s.calcResult 1 k)
    | .ok fs =>
      let w := cls * 2 ^ 60 + ((fs.zipIdx).map fun e => e.1 * 2 ^ (12 * e.2)).foldl (· + ·) 0
      .next ((s.calcResult 0 0).setReg regClknext (BitVec.ofNat 64 w))

/-! ### Attestation (R451) -/

def regAttctl : Nat := blockAddr 0 0 0x4D0

/-- The report's bytes 0–511. -/
def State.report (s : State) : List Byte :=
  let w := fun (o : Nat) => natToBytes 8 (s.reg (blockAddr 0 0 o)).toNat
  natToBytes 8 0x000000014C394154 ++ w 0x400 ++ w 0x000 ++ w 0x510 ++
    ((List.range 12).flatMap fun i => w (0x440 + 8 * i)) ++ ((List.range 6).flatMap fun i => w (0x4A0 + 8 * i)) ++
    List.replicate 336 0

/-- GO: a report is started, or BAD says that one is under way. -/
def execAttctlGo (s : State) : Out :=
  if (s.reg regAttctl).getLsbD 1 then .next (s.setRegBit regAttctl 2)
  else .next ((s.setRegBit regAttctl 1).push .attestDone)

/-- The report stands at 0x800, with the signature of the root of trust (DESIGN CHOICE, log entry 6). -/
def execAttestDone (s : State) : Out :=
  if !(s.reg regAttctl).getLsbD 1 then .next s
  else
    let r := s.report
    let sig := (List.range 512).map fun k => Config.attestationByte r k
    .next (((s.setRegs (blockAddr 0 0 0x800) (wordsOfBytes (r ++ sig)))).setReg regAttctl (setField (s.reg regAttctl) 1 1 0))

/-! ### Power and temperature (R454) -/

/-- The cap in force: PWRCAP, or the package budget of the class where it is lower. -/
def State.powerCap (s : State) : Nat :=
  min (field (s.reg (blockAddr 0 0 0x700)) 0 16) (packageBudget (field (s.reg regClkstep) 60 2))

/-- The power cap looks at the package's power: every COMPUTE bench lowers or raises one step. -/
def execPowerCapStep (watts : Nat) (s : State) : Out :=
  let s : State := { s with watts := watts }
  if s.boot.minimal then .next s
  else if s.powerCap < watts then .next { s with pwrStep := min 4 (s.pwrStep + 1) }
  else if 100 * watts < 95 * s.powerCap then .next { s with pwrStep := s.pwrStep - 1 }
  else .next s

/-- A thermal trip stops every unit and holds the package in reset. -/
def execThermalTrip (s : State) : Out :=
  if !s.boot.powered || s.boot.trip then .next s
  else .next (s.cold { s.ended 8 with stage := 0, started := false, trip := true, stopped := false, recovery := false }
    (darkRegs s))

/-- Every sensor reads below 85 °C: the package starts from stage 0. -/
def execTripRelease (s : State) : Out :=
  if s.boot.trip then .next (s.beginStart s.boot (darkRegs s)) else .next s

end Sys2Proof.Machine
end

