-- ==== Sys2Proof/Machine/Ports.lean ====
section
/-! DEFINITION. Memory servers' request channels (spec/04 R87–R92), Ethernet ports and ingest rings (R93–R100), and
transmit endpoints (spec/13 R293, R294). -/

namespace Sys2Proof.Machine

/-- The end of an operation at an external endpoint; a select's other channels are served again. -/
def State.endExt (s : State) (m : ChanMsg) (status : Nat) (f : Option FaultInfo) : State :=
  let r := s.endChan m status [] 0 false f
  r.1.serveAll r.2

/-- Alternatives that wait at an external endpoint send their claims when it is ready (R180). -/
def State.claimExt (s : State) (key : Nat) : State :=
  match extEnd key with
  | none => s
  | some e => if s.extReady e then (s.chanq.filter fun m => decide (m.key = key)).foldl State.claim s else s

/-! ### Memory servers (R87–R92) -/

/-- STATUS 3 of R90: OP, LEN, ATOP, BLEN, a reserved field, or an alignment. DEDUCED, log entry 57. -/
def msBadOp (ws : List Word) : Bool :=
  let w0 := ws.getD 0 0
  let a := (ws.getD 1 0).toNat
  let w7 := ws.getD 7 0
  let op := field w0 0 8
  let len := field w0 8 8
  let f : BitVec 5 := BitVec.ofNat 5 (field w0 16 8)
  let blen := field w7 0 21
  field w0 27 29 != 0 || field w7 21 43 != 0 ||
  (match op with
   | 1 => !(decide (1 ≤ len ∧ len ≤ 32) && decide (a % 64 + len ≤ 64))
   | 2 => !(decide (1 ≤ len ∧ len ≤ 16) && decide (a % 64 + len ≤ 64))
   | 3 => !(decide (field w0 16 8 ≤ 22) && decide (len = atomSize f) && decide (a % len = 0))
   | 4 | 5 => !(decide (64 ≤ blen ∧ blen ≤ 0x100000) && decide (blen % 64 = 0) && decide (a % 64 = 0) &&
                decide ((ws.getD 4 0).toNat % 64 = 0))
   | 6 => false
   | _ => true)

/-- STATUS and XREASON of a failure (R90). -/
def msStatus (f : FaultInfo) : Nat × Nat :=
  if f.cause = 0x042 then (1, field (f.words.getD 0 0) 0 8)
  else if f.cause = 0x046 ∨ f.cause = 0x047 then (4, 0)
  else (2, 0)

/-- What performing a request answers: STATUS, XREASON, flags and data; or it waits. -/
structure MsDone where
  status : Nat
  reason : Nat
  flags : Flags
  data : List Byte
  deriving DecidableEq, Repr

def msOk (bs : List Byte) (fl : Flags) : MsDone := { status := 0, reason := 0, flags := fl, data := bs }
def msFail (f : FaultInfo) : MsDone := { status := (msStatus f).1, reason := (msStatus f).2, flags := 0, data := [] }

/-- An address of this package in a space, no core-local one. -/
def State.plainAddr (s : State) (a : Word) (space : Nat) : Bool :=
  (decide (a.toNat / 2 ^ 56 = 0) || decide (a.toNat / 2 ^ 56 = s.mynode)) && decide (a.toNat / 2 ^ 53 % 8 = space)

/-- Where a stack's server stands: a unit of its tower's sill. -/
def serverSeat (stack : Nat) : Nat := sillSeat (stack / 6)

/-- One beat of a FETCH or PUT (R88–R90). -/
def msBeat (s : State) (seat : Nat) (c : Byte) (src dst : Word) : Option FaultInfo × State :=
  match readBeat s seat c src 64 with
  | (.error f, s) => (some f, s)
  | (.ok bs, s) =>
    match writeBeat s seat c dst bs 0 with
    | (.error f, s) => (some f, s)
    | (.ok (), s) => (none, s)

/-- What a step of a request brings. -/
inductive MsStep where
  | done (d : MsDone) (s : State)
  | more (s : State)           -- a beat has moved, and the next is due
  | wait (s : State)           -- a lock, a full queue or the log
  deriving DecidableEq, Repr

/-- An access made for a request has ended. -/
def msEnd (r : Except FaultInfo (List Byte) × State) : MsStep :=
  match r with
  | (.ok bs, s) => .done (msOk bs 0) s
  | (.error f, s) => if f.cause = notYet then .wait s else .done (msFail f) s

/-- A unit's access of a request, as its owner performs it, or a beat of a FETCH or PUT (R88–R91). BADOP counts before the
node and space of ADDR, these before those of SADDR, and all before a translation. DESIGN CHOICE, log entry 80. -/
def msPerform (s : State) (m : MsMsg) : MsStep :=
  let ws := m.words
  let w0 := ws.getD 0 0
  let a := ws.getD 1 0
  let len := field w0 8 8
  let c := m.msg.ctx
  let seat := serverSeat m.stack
  let denied : FaultInfo := { cause := 0x043, tval := a, words := [] }
  if msBadOp ws then .done { status := 3, reason := 0, flags := 0, data := [] } s
  else if field w0 0 8 = 6 then .done (msOk [] 0) s
  else if !s.plainAddr a 0 then .done (msFail denied) s
  else
    match field w0 0 8 with
    | 1 => msEnd (readBeat s seat c a len)
    | 2 =>
      match writeBeat s seat c a ((natToBytes 8 (ws.getD 2 0).toNat ++ natToBytes 8 (ws.getD 3 0).toNat).take len) 0 with
      | (.ok (), s) => msEnd (.ok [], s)
      | (.error f, s) => msEnd (.error f, s)
    | 3 =>
      let k := checkNow s seat c a len needRW false
      match k.1 with
      | .ok pa _ =>
        let f : BitVec 5 := BitVec.ofNat 5 (field w0 16 8)
        let r : Req := { agent := m.msg.agent, core := m.msg.core, unit := m.msg.unit, ctx := c, va := a, pa := pa,
                         space := 0, size := len, op := .atom f (ws.getD 2 0) (ws.getD 3 0) true, ord := .rlx, scope := 0,
                         rd := 0, pc := m.msg.pc, sn := 0 }
        match perform k.2 r with
        | .done s x fl _ => .done (msOk (natToBytes 8 x.toNat) (fl &&& 31)) (s.stir (pa / 8 * 8))
        | .fault s f => .done (msFail f) s
        | _ => .wait k.2
      | .fail e xs => .done (msFail { cause := e, tval := a, words := xs }) k.2
      | _ => .done (msFail denied) k.2
    | op =>
      let b := ws.getD 4 0
      if !s.plainAddr b 2 then .done (msFail denied) s
      else
        let n := field (ws.getD 7 0) 0 21
        let o : Word := BitVec.ofNat 64 m.pos
        match (if op = 4 then msBeat s seat c (a + o) (b + o) else msBeat s seat c (b + o) (a + o)) with
        | (none, s) =>
          if m.pos + 64 ≥ n then .done (msOk [] 0) s
          else .more { s with msStore := s.msStore.map fun q => if q = m then { m with pos := m.pos + 64 } else q }
        | (some f, s) => if f.cause = notYet then .wait s else .done (msFail f) s

/-- The 64 bytes of a reply (R91). -/
def msReplyBytes (ws : List Word) (d : MsDone) : List Byte :=
  let w0 := ws.getD 0 0
  let h : Word := BitVec.ofNat 64 (field w0 56 8 * 2 ^ 56 + d.flags.toNat % 32 * 2 ^ 24 + d.reason % 256 * 2 ^ 16 +
    field w0 0 8 * 2 ^ 8 + d.status)
  natToBytes 8 h.toNat ++ natToBytes 8 (ws.getD 6 0).toNat ++ (d.data ++ List.replicate 32 0).take 32 ++
  natToBytes 8 (ws.getD 1 0).toNat ++ List.replicate 8 0

/-- A server acts on a send (R90): the refusals raised in the sender; a full intake or a full reply store, at which the sender
waits (R83, R92); or acceptance, which completes the send. DEDUCED, log entry 57. -/
def execMsRequest (m : MsMsg) (s : State) : Out :=
  let w0 := m.words.getD 0 0
  let h := m.words.getD 5 0
  if field w0 24 3 = 7 then .next (s.endExt m.msg 0 (some { cause := 0x001, tval := w0, words := [] }))
  else if h ≠ 0 ∧ !s.blockChannel h m.msg.ctx then
    .next (s.endExt m.msg 0 (some { cause := 0x0C0, tval := h, words := [] }))
  else if !s.intakeRoom m.stack || (h ≠ 0 && decide (s.repliesOf m.stack ≥ 128)) then
    .next ((s.chanPark m.msg 1 m.msg.key).later (.msRequest m))
  else .next (({ s with msStore := s.msStore ++ [m] }.endExt m.msg 0 none).push (msStep m.msg.num m.stack))

/-- A request that its server accepted before, or one that the same sender sent to its word before, touches the same unit; or
a SYNC has an earlier request of its sender before it (R84, R88, R92). -/
def State.msBehind (s : State) (m : MsMsg) : Bool :=
  ((s.msStore.takeWhile fun q => decide (q ≠ m)).any fun q => decide (q.stack = m.stack) &&
    (unitsMeet (msUnits q) (msUnits m) || (field (m.words.getD 0 0) 0 8 == 6 && decide (q.msg.agent = m.msg.agent)))) ||
  (s.agenda ++ s.blocked).any fun e => e.request.any fun r =>
    decide (r.agent = m.msg.agent) && r.space == 0 && decide (r.sn < m.msg.num) && unitsMeet (msUnits m) (r.pa / 64 % 1024, 1)

/-- A server performs a request that it has accepted, and sends the reply when every part of it has been performed (R89, R91,
R92). -/
def execMsReply (num : Nat) (s : State) : Out :=
  match s.msStore.find? fun m => decide (16 * m.msg.num + m.stack = num) with
  | none => .next s
  | some m =>
    let h := m.words.getD 5 0
    if s.msBehind m || (h ≠ 0 && decide (s.repliesOf m.stack ≥ 128)) then .next (s.later (.msReply num))
    else
      match msPerform s m with
      | .wait s => .next (s.later (.msReply num))
      | .more s => .next (s.push (.msReply num))
      | .done d s =>
        let s := { s with msStore := s.msStore.erase m }.dropHost (serverSeat m.stack) m.msg.ctx
        let s := if h = 0 then s
          else s.unitSend (.sill (100 + m.stack)) h m.msg.ctx (msReplyBytes m.words d) (d.flags &&& 31)
        .next (s.claimExt m.msg.key)

/-! ### Frames (R93, R94) -/

/-- A two-byte field of a frame, most significant byte first. -/
def be16 (bs : List Byte) (i : Nat) : Nat := (bs.getD i 0).toNat * 256 + (bs.getD (i + 1) 0).toNat

def frameTagged (bs : List Byte) : Bool := be16 bs 12 == 0x8100
def frameType (bs : List Byte) : Nat := if frameTagged bs then be16 bs 16 else be16 bs 12
def framePayload (bs : List Byte) : Nat := if frameTagged bs then 18 else 14

/-- The UDP destination port of an unfragmented IPv4 datagram, or of IPv6 without extension header (R94). -/
def frameUdp (bs : List Byte) : Option Nat :=
  let p := framePayload bs
  if frameType bs = 0x0800 then
    (if (bs.getD (p + 9) 0).toNat = 17 ∧ be16 bs (p + 6) % 0x4000 = 0 then
       some (be16 bs (p + 4 * ((bs.getD p 0).toNat % 16) + 2))
     else none)
  else if frameType bs = 0x86DD then
    (if (bs.getD (p + 6) 0).toNat = 17 then some (be16 bs (p + 42)) else none)
  else none

/-- Rule `i` of a port matches a frame of a priority (R94). -/
def State.ruleMatches (s : State) (port i prio : Nat) (bs : List Byte) : Bool :=
  let w := s.reg (portReg port (0x1000 + 16 * i))
  let mk := field (s.reg (portReg port (0x1008 + 16 * i))) 0 16
  w.getLsbD 63 && w.getLsbD (52 + prio % 8) && (!w.getLsbD 62 || frameType bs == field w 36 16) &&
  (!w.getLsbD 61 || (frameTagged bs && be16 bs 14 % 4096 == field w 24 12)) &&
  (!w.getLsbD 60 || (frameUdp bs).elim false fun p => (p &&& mk) == (field w 8 16 &&& mk))

/-- The ring and the rule that classify a frame (R94). -/
def State.classify (s : State) (port prio : Nat) (bs : List Byte) : Option (Nat × Nat) :=
  let ctl := s.reg (portReg port 0)
  match (List.range 64).find? fun i => s.ruleMatches port i prio bs with
  | some i => some (field (s.reg (portReg port (0x1000 + 16 * i))) 0 6, i)
  | none => if ctl.getLsbD 18 then some (field ctl 0 6, 63) else none

/-- B(p) (R100). -/
def EthPort.held_ (x : EthPort) (prio : Nat) : Nat :=
  ((x.rx.filter fun f => decide (f.prio = prio)).map fun f => f.bytes.length).foldl (· + ·) 0

/-- A threshold of a priority in bytes: 0 XON, 16 XOFF, 32 LIMIT (R95). -/
def State.threshold (s : State) (port prio lo : Nat) : Nat :=
  field (s.reg (portReg port (0x100 + 16 * prio))) lo 16 * 1024

/-- XOFF is reached: a PFC frame pauses the priority (R100). -/
def State.pauseSend (s : State) (port prio : Nat) : State :=
  let x := s.port port
  if decide (x.held_ prio ≥ s.threshold port prio 16) && (s.reg (portReg port 0)).getLsbD (8 + prio) &&
     !x.asserted.getLsbD prio
  then
    { (s.setPort port { x with asserted := x.asserted ||| (1#8 <<< prio) }) with
        out := .pfc port prio 0xFFFF :: s.out }.after (20 * Config.cyclesPerUs) (.pfcRepeat port prio)
  else s

/-- XON is reached: a PFC frame of quanta 0, and the pause is repeated no more (R100). -/
def State.resumeSend (s : State) (port prio : Nat) : State :=
  let x := s.port port
  if x.asserted.getLsbD prio && decide (x.held_ prio ≤ s.threshold port prio 0) then
    { (s.setPort port { x with asserted := x.asserted &&& ~~~(1#8 <<< prio) }) with
        out := .pfc port prio 0 :: s.out, timers := s.timers.filter (fun e => e.2 != .pfcRepeat port prio),
        agenda := s.agenda.filter (· != .pfcRepeat port prio), blocked := s.blocked.filter (· != .pfcRepeat port prio) }
  else s

/-- The pause is repeated every 20 µs while B(p) stands above XON (R100). -/
def execPfcRepeat (port prio : Nat) (s : State) : Out :=
  let x := s.port port
  if x.asserted.getLsbD prio && decide (x.held_ prio > s.threshold port prio 0) then
    .next ({ s with out := .pfc port prio 0xFFFF :: s.out }.after (20 * Config.cyclesPerUs) (.pfcRepeat port prio))
  else .next s

/-- A frame has come in (R93, R94, R100): MAC check, MAC control, classification, the buffer's limit. With EN = 0 every frame is
ignored and none is counted; DROPPFC and DROPFULL saturate. DESIGN CHOICE, log entry 86. DESIGN CHOICE, log entry 78. -/
def execFrameReceive (port : Nat) (f : Frame) (s : State) : Out :=
  let n := f.bytes.length
  let ctl := s.reg (portReg port 0)
  if !ctl.getLsbD 23 then .next s
  else if !f.good || decide (n < 60) || decide (9212 < n) then .next (s.bumpReg (portReg port 8) 0 32)
  else if be16 f.bytes 12 = 0x8808 then
    (if be16 f.bytes 14 = 0x0101 then
       .next (s.push (.pfcFrame port (BitVec.ofNat 8 (be16 f.bytes 16)) ((List.range 8).map fun i => be16 f.bytes (18 + 2 * i))))
     else .next s)
  else
    let prio := if frameTagged f.bytes then be16 f.bytes 14 / 8192 else field ctl 20 3
    match s.classify port prio f.bytes with
    | none => .next (s.bumpReg (portReg port 8) 32 32)
    | some (ring, rule) =>
      if !(s.ringWord port ring 2).getLsbD 63 then .next (s.bumpReg (portReg port 8) 32 32)
      else
        let x := s.port port
        if x.held_ prio + n > s.threshold port prio 32 then
          .next (s.bumpReg (portReg port (0x108 + 16 * prio)) (if x.asserted.getLsbD prio then 32 else 0) 32)
        else
          let fr : RxFrame := { bytes := f.bytes, stamp := f.stamp, prio := prio, ring := ring, rule := rule }
          .next (((s.setPort port { x with rx := x.rx ++ [fr] }).pauseSend port prio).push (.ingestDeposit port ring))

/-! ### Ingest rings (R96–R99) -/

/-- Where a port's units stand. -/
def portSeat (port : Nat) : Nat := sillSeat (port / 2)

/-- The packet receive of a ring that its slot's version completes next. -/
def State.ringDue (s : State) (port j : Nat) : Option (Nat × ChanMsg × Nat × Byte) :=
  (s.port port).taken.find? fun e => decide (e.1 = j) && s.hasVersion (s.presence port j e.2.2.1) e.2.2.2.toNat

/-- A packet receive whose slot holds its version completes: the result area, then the status (R294). A presence word that
cannot be read is the receiver's fault (R62). -/
def State.ringComplete (s : State) (port j : Nat) : State :=
  match s.ringDue port j with
  | none => s
  | some e =>
    let m := e.2.1
    let i := e.2.2.1
    let v := e.2.2.2.toNat
    let w := s.slotOf (s.presence port j i) v
    let gone (s : State) : State :=
      s.setPort port { s.port port with taken := (s.port port).taken.filter fun x => decide (x.2.1.num ≠ m.num) }
    match s.guardList [w] with
    | (some w, s) => (gone s).endExt m 0 (some { cause := 0x046, tval := BitVec.ofNat 64 w, words := [] })
    | (none, s) =>
      match writeBeat s m.core m.ctx m.addr (bytesOfWords (areaWords s port j i v (s.peek w) (s.payload port j i))) 0 with
      | (.ok (), s) => (gone s).endExt m 0 none
      | (.error f, s) => if f.cause = notYet then s.later (.ingestDeposit port j) else (gone s).endExt m 0 (some f)

/-- A ring stops: ERR, and a record to its context (R98). -/
def State.ringError (s : State) (port j : Nat) (f : FaultInfo) : State :=
  (s.setRegBit (portReg port (0x2010 + 32 * j)) 62).faultReport (BitVec.ofNat 8 (field (s.ringWord port j 2) 40 8)) f

/-- The presence word's data (R97). -/
def presenceWord (f : RxFrame) (dlen : Nat) (trunc : Bool) : Word :=
  BitVec.ofNat 64 (f.stamp.toNat * 2 ^ 40 + f.rule % 64 * 2 ^ 34 + bit trunc * 2 ^ 33 + dlen * 2 ^ 16 + f.bytes.length)

/-- The ring waits for its slot as a waiter of the presence word, or tries again after 64 cycles when the units' 16 entries
there are taken (R98, R115). -/
def State.ringWaits (s : State) (port j pw : Nat) : State :=
  if s.unitEntries (partOf pw) ≥ 16 then s.after 64 (.ingestDeposit port j)
  else s.setPort port { s.port port with ringWait := (s.port port).ringWait ++ [j] }

/-- The presence word is stored under its version, PIDX moves and the frame's bytes are freed (R98 steps 3 and 4). -/
def State.depositDone (s : State) (port j pa v : Nat) (f : RxFrame) (x : Word) : State :=
  let at_ : Word := BitVec.ofNat 64 pa
  let k := checkNow s (portSeat port) (BitVec.ofNat 8 (field (s.ringWord port j 2) 40 8)) at_ 8 needWr false
  match k.1 with
  | .fail e ws => k.2.ringError port j { cause := e, tval := at_, words := ws }
  | .ok a _ =>
    match verStore k.2 a v x (effScope .rel 5 [port / 2] 2 (ownerCoord 2 a)) 0 99 with
    | .fault e ws => k.2.ringError port j { cause := e, tval := at_, words := ws }
    | .hold => k.2.ringWaits port j a
    | .done s _ _ =>
      let s := s.stepReg (portReg port (0x2018 + 32 * j)) 0 32
      let s := s.setPort port { s.port port with rx := (s.port port).rx.erase f }
      ((s.resumeSend port f.prio).stir (s.slotOf a v)).push (.ingestDeposit port j)
  | _ => k.2

/-- One frame is deposited: reserve, payload, presence word, PIDX (R98). A presence cell that cannot be read stops the ring
(R62). DEDUCED, log entry 49. -/
def State.deposit (s : State) (port j : Nat) (f : RxFrame) : State :=
  let w2 := s.ringWord port j 2
  let d := field (s.ringWord port j 3) 0 32
  let i := d % s.ringN port j
  let v := s.ringVersion port j d
  let pw := s.presence port j i
  let pa := 2 * 2 ^ 53 + pw % 2 ^ 53
  match s.guardList (s.cellWords pw) with
  | (some w, s) => s.ringError port j { cause := 0x046, tval := BitVec.ofNat 64 w, words := [] }
  | (none, s) =>
    if s.isLocked pw then s.later (.ingestDeposit port j)
    else if sideFull (s.sideOf (s.slotOf pw v)) then s.ringWaits port j pw
    else
      let skip := field w2 8 8
      let bs := (f.bytes.drop skip).take (2 ^ field w2 16 4)
      match writeRange 300 s (portSeat port) (BitVec.ofNat 8 (field w2 40 8)) (s.payload port j i) bs with
      | (.error e, s) => if e.cause = notYet then s.later (.ingestDeposit port j) else s.ringError port j e
      | (.ok (), s) => s.depositDone port j pa v f (presenceWord f bs.length (decide (bs.length + skip < f.bytes.length)))

/-- A port looks at a ring: receives whose version has come, then the oldest frame of the ring (R98, R99). While ingress is
held nothing is deposited and the frames stay in the port's buffer (R23, R26). -/
def execIngestDeposit (port ring : Nat) (s : State) : Out :=
  if s.ingressHeld then .next (s.later (.ingestDeposit port ring))
  else
    let s := s.setPort port { s.port port with ringWait := (s.port port).ringWait.filter (· ≠ ring) }
    let n := (s.port port).taken.length
    let s := (List.range n).foldl (fun s _ => s.ringComplete port ring) s
    let s := if s.ringUp port ring then
        match (s.port port).rx.find? fun f => decide (f.ring = ring) with
        | none => s
        | some f => s.deposit port ring f
      else s
    .next (s.claimExt (portReg port (0x2000 + 32 * ring)))

/-- A write of word `k` of a ring descriptor (R95, R96). -/
def State.writeRing (s : State) (a : Nat) (x : Word) : State :=
  let o := regOff a % 0x10000
  let port := 2 * regTower a + regOff a / 0x10000 % 2
  let j := (o - 0x2000) / 32
  let w2 := s.ringWord port j 2
  match o % 32 / 8 with
  | 0 | 1 => if w2.getLsbD 63 then s else s.setReg a x
  | 2 =>
    let p := s.ringWord port j 0
    let d := s.ringWord port j 1
    let n := field x 24 5
    let sz := field x 16 4
    let sp := fun (y : Word) => y.toNat / 2 ^ 53 % 8
    if x.getLsbD 63 && (decide (n < 4) || decide (16 < n) || decide (sz < 8) || decide (14 < sz) ||
       decide (p.toNat % 8 ≠ 0) || sp p != 2 || decide (d.toNat % 2 ^ sz ≠ 0) || (sp d != 0 && sp d != 2)) then
      s.setRegBit (portReg port 0) 19
    else
      let s' := s.setReg a (regWritten (regSpec a) w2 x)
      let s' := if x.getLsbD 63 && !w2.getLsbD 63 then s'.setReg (portReg port (0x2018 + 32 * j)) 0 else s'
      let early := (s.port port).early.filter fun m => decide (m.key = portReg port (0x2000 + 32 * j))
      if s'.ringUp port j then
        let y : EthPort :=
          { s'.port port with early := (s'.port port).early.filter fun m => decide (m.key ≠ portReg port (0x2000 + 32 * j)) }
        ((s'.setPort port y).pushAll (early.map Ev.channelReceiveAtHome)).push (.ingestDeposit port j)
      else s'
  | _ => s

/-- A write to a ring descriptor as a step (R96). -/
def execRingDescriptorWrite (addr : Nat) (x : Word) (s : State) : Out := .next (s.writeRing addr x)

/-- A write to a port's other registers (R95): a threshold that breaks XON < XOFF < LIMIT, or the sum of 4,096 KiB, is
refused. -/
def State.writePort (s : State) (a : Nat) (x : Word) : State :=
  let o := regOff a % 0x10000
  let port := 2 * regTower a + regOff a / 0x10000 % 2
  let plain := s.setReg a (regWritten (regSpec a) (s.reg a) x)
  if 0x100 ≤ o ∧ o < 0x180 ∧ o % 16 = 0 then
    let prio := (o - 0x100) / 16
    let sum := (List.range 8).foldl (fun n p => n + (if p = prio then field x 32 16 else s.threshold port p 32 / 1024)) 0
    if field x 0 16 < field x 16 16 ∧ field x 16 16 < field x 32 16 ∧ sum ≤ 4096 then
      (plain.pauseSend port prio).resumeSend port prio
    else s.setRegBit (portReg port 0) 19
  else if 0x2000 ≤ o ∧ o < 0x2800 then s.writeRing a x
  else plain

/-- A write to a port register as a step (R95). -/
def execPortRegisterWrite (addr : Nat) (x : Word) (s : State) : Out := .next (s.writePort addr x)

/-! ### PFC towards this port, and transmission (R93, R293) -/

/-- A PFC frame holds transmission of the priorities it names for their quanta of 512 bit times; quanta 0 resumes
(R93). -/
def execPfcFrame (port : Nat) (prios : Byte) (quanta : List Nat) (s : State) : Out :=
  .next ((List.range 8).foldl (fun s p =>
    if prios.getLsbD p then
      let x := s.port port
      let q := quanta.getD p 0
      if q = 0 then
        let y : EthPort := { x with held := x.held &&& ~~~(1#8 <<< p), heldTo := SMap.put 0 x.heldTo p 0 }
        (s.setPort port y).push (.frameTransmit port p)
      else
        let n := ceilDiv (q * 512 * Config.cyclesPerUs) 800000
        let y : EthPort := { x with held := x.held ||| (1#8 <<< p), heldTo := SMap.put 0 x.heldTo p (s.clk + n) }
        (s.setPort port y).after n (.pfcQuantaExpire port p)
    else s) s)

/-- The quanta of a pause have passed (R93). -/
def execPfcQuantaExpire (port prio : Nat) (s : State) : Out :=
  let x := s.port port
  if x.held.getLsbD prio && decide (SMap.get 0 x.heldTo prio ≤ s.clk) then
    .next ((s.setPort port { x with held := x.held &&& ~~~(1#8 <<< prio), heldTo := SMap.put 0 x.heldTo prio 0 }).push
      (.frameTransmit port prio))
  else .next s

/-- One bit of the frame check sequence of IEEE 802.3. -/
def crcBit (c : Nat) : Nat := if c % 2 = 1 then (c / 2) ^^^ 0xEDB88320 else c / 2

/-- The frame check sequence of IEEE 802.3, least significant byte first. -/
def frameFcs (bs : List Byte) : List Byte :=
  let c := bs.foldl (fun c b => (List.range 8).foldl (fun c _ => crcBit c) (c ^^^ b.toNat)) 0xFFFFFFFF
  natToBytes 4 (c ^^^ 0xFFFFFFFF)

/-- A frame that a sender names: its bytes, or the fault raised in the sender (R293). -/
def txFrame (s : State) (m : ChanMsg) : Except FaultInfo (List Byte) × State :=
  match readBeat s m.core m.ctx m.addr 16 with
  | (.error f, s) => (.error f, s)
  | (.ok d, s) =>
    let fa : Word := BitVec.ofNat 64 (bytesToNat (d.take 8))
    let w1 : Word := BitVec.ofNat 64 (bytesToNat (d.drop 8))
    let n := field w1 0 14
    let sp := fa.toNat / 2 ^ 53 % 8
    if field w1 14 50 ≠ 0 ∨ n < 60 ∨ 9212 < n ∨ fa.toNat % 64 ≠ 0 ∨ (sp ≠ 0 ∧ sp ≠ 2) then
      (.error { cause := 0x0C0, tval := m.handle, words := [] }, s)
    else readRange 150 s m.core m.ctx fa n

/-- The oldest waiting sender of a priority is admitted while its frame fits in 256 KiB (R293). -/
def State.admitFrame (s : State) (port prio : Nat) : State :=
  let key := portReg port (0x3000 + 8 * prio)
  match (s.port port).waiting.find? fun m => decide (m.key = key) with
  | none => s
  | some m =>
    let gone := fun (s : State) =>
      s.setPort port { s.port port with waiting := (s.port port).waiting.filter fun q => decide (q.num ≠ m.num) }
    match txFrame s m with
    | (.error f, s) =>
      if f.cause = notYet then s.later (.frameTransmit port prio)
      else ((gone s).endExt m 0 (some f)).push (.frameTransmit port prio)
    | (.ok bs, s) =>
      if (s.port port).txBytes prio + bs.length > 256 * 1024 then s.chanPark m 1 key
      else
        let s := gone (s.dropHost m.core m.ctx)
        ((s.setPort port { s.port port with tx := (s.port port).tx ++ [(prio, bs)] }).endExt m 0 none).push
          (.frameTransmit port prio)

/-- A port sends a buffered frame of a priority that no pause holds, and admits a waiting sender (R93, R293). -/
def execFrameTransmit (port prio : Nat) (s : State) : Out :=
  let x := s.port port
  let s := if x.held.getLsbD prio then s
    else
      match x.tx.find? fun f => decide (f.1 = prio) with
      | none => s
      | some f =>
        ({ (s.setPort port { x with tx := x.tx.erase f }) with
            out := .frame port prio (f.2 ++ frameFcs f.2) :: s.out }.push (.frameTransmit port prio))
  .next ((s.admitFrame port prio).claimExt (portReg port (0x3000 + 8 * prio)))

end Sys2Proof.Machine
end

