-- ==== Sys2Proof/Machine/Faults.lean ====
section
/-! DEFINITION. Fault records and what a supervisor does about them (spec/16 R401–R409, spec/02 R56–R58), the switch of a
whole context (R408), and the report of the doldrums detector (spec/08 R190, R191). -/

namespace Sys2Proof.Machine

/-! ### Posting a fault record (R401, R402, R404) -/

/-- The record names a process that its fault stopped, as of a slot. -/
def stoppedPid (words : List Word) : Option Nat :=
  let h := words.getD 0 0
  if field h 48 3 = 0 ∧ !h.getLsbD 25 ∧ !h.getLsbD 26 then some (words.getD 1 0).toNat else none

/-- Accesses of the faulted process or helper that have not yet returned, been acknowledged or faulted. -/
def State.owesReplies (s : State) (words : List Word) : Bool :=
  let h := words.getD 0 0
  let pid := match stoppedPid words with
    | some pid => pid
    | none =>
      if field h 48 3 = 1 ∨ field h 48 3 = 2 then helperKey (2 * s.physOf (field h 54 10) + field h 48 3 - 1) else 0
  decide (pid ≠ 0) && (s.proc pid).outst.any fun o => !o.held

/-- The unit that posts: a core, or a sill unit. -/
def postAgent (s : State) (words : List Word) : Agent :=
  let h := words.getD 0 0
  if field h 48 3 = 6 then .sill 900 else .sill (1000 + s.physOf (field h 54 10))

/-- The mailbox of a context, once it passes the checks of R404. -/
def State.mailbox (s : State) (c : Byte) : Option Word :=
  let h := (s.desc c).mbox
  if s.blockChannel h c && !(chanType (s.peek (h.toNat % 2 ^ 56))).closed then some h else none

/-- A fault record goes to its context's mailbox; for want of one to context 0's, with REDIRECT; for want of that it is
counted in FLOST (R404). It follows every earlier access of the faulted process (R401), and a place among its poster's
eight. -/
def execFaultPost (ctx : Byte) (words : List Word) (s : State) : Out :=
  let who := postAgent s words
  if s.owesReplies words || decide (8 ≤ (s.chanq.filter fun m => decide (m.agent = who)).length) then
    .next (s.later (.faultPost ctx words))
  else
    match s.mailbox ctx with
    | some h => .next ((s.cacheDesc ctx).unitSend who h ctx (bytesOfWords words) 0)
    | none =>
      let words := words.modifyHead fun h => h ||| BitVec.ofNat 64 fbRedirect
      match s.mailbox 0 with
      | some h => .next ((s.cacheDesc 0).unitSend who h 0 (bytesOfWords words) 0)
      | none => .next (s.bumpReg regFlost 0 64)

/-! ### The detector's report (R190, R191) -/

/-- Records that the detector reports, in ascending address. -/
def State.stuckPids (s : State) : List Nat := sortAsc ((s.allProcs.filter Proc.stuck).map (·.pid))

/-- The two words of a report entry (R191). DEDUCED, log entry 63. -/
def reportEntry (p : Proc) : List Word :=
  let fault := p.st == .faulted
  let kind := if fault then 8 else p.wkind
  let obj := if fault then (match p.owed with | o :: _ => o.tval.toNat | [] => p.pc.toNat) else p.wait
  [BitVec.ofNat 64 (p.ctx.toNat * 2 ^ 56 + p.st.code * 2 ^ 48 + p.pid % 2 ^ 48),
   BitVec.ofNat 64 (kind * 2 ^ 60 + p.home % 1024 * 2 ^ 50 + obj % 2 ^ 48)]

/-- Words written by a unit of the sill, word by word; a word that refuses plain writes stays (R110). -/
def State.unitWords (s : State) (a : Nat) (ws : List Word) : State :=
  match ws with
  | [] => s
  | w :: r =>
    State.unitWords (match writeBytes s a (natToBytes 8 w.toNat) 0 with | .ok s => s | .error _ => s) (a + 8) r

/-- The report and its fault records (R191). DEDUCED, log entry 63. -/
def State.reportDeadlock (s : State) : State :=
  let all := s.stuckPids
  let ctl := blockAddr 0 0 0x100
  let n := min all.length (field (s.reg (ctl + 16)) 0 16)
  let base := s.reg (ctl + 8)
  let s := s.bumpReg ctl 32 32
  let s := if n < all.length then s.setRegBit ctl 1 else s
  let es := all.take n
  let a := base.toNat % 2 ^ 56
  let s := if base ≠ 0 ∧ base.toNat % 64 = 0 ∧ base.toNat / 2 ^ 53 % 8 = 2 ∧ sramFieldsOk s a then
      s.unitWords a ([BitVec.ofNat 64 n, BitVec.ofNat 64 (field (s.reg ctl) 32 32), 0, 0, 0, 0, 0, 0] ++
        es.flatMap fun q => reportEntry (s.proc q))
    else s
  (List.range 256).foldl (fun s c =>
    let k := (es.filter fun q => decide ((s.proc q).ctx.toNat = c)).length
    if k = 0 then s
    else
      s.faultReport (BitVec.ofNat 8 c)
        { cause := 0x0E0, tval := 0, words := [base, BitVec.ofNat 64 k, BitVec.ofNat 64 n] }) s

/-- The detector finds the package stuck and reports it (R190, R191). -/
def execDeadlock (s : State) : Out :=
  if (s.reg (blockAddr 0 0 0x100)).getLsbD 0 && s.unitsIdle && s.cores.all (fun e => s.lineUp e.1) && s.allProcs.any Proc.stuck
  then .next s.reportDeadlock else .next { s with quiet := false }

/-! ### What a resume sends again (R58, R405) -/

/-- An access sent again is recorded at its process; the loads counter has kept it (R287, R401). -/
def noteAgain (held : Bool) (s : State) (r : Req) (o : List Nat) : State :=
  let pid := r.agent.pid
  let s := s.touch pid fun p =>
    { p with cnt := if r.op.stores then p.cnt.up r.op.cls else p.cnt, waiting := p.waiting || waitsAtOwner r.op || r.op == .joinDec || (p.task && suspendsTask r.op),
             outst := p.outst ++ [{ sn := r.sn, loads := r.op.loads, stores := r.op.stores, held := held,
                                    sp3 := r.space == 3, owner := o }] }
  if r.op.stores then
    s.updCore r.core fun c =>
      let n := (c.issued[r.unit % 10]'(Nat.mod_lt _ (by decide))) + 1
      { c with issued := c.issued.set (r.unit % 10) n (Nat.mod_lt _ (by decide)), unacked := c.unacked ++ [(r.unit, r.sn, n.toNat)] }
  else s

/-- The faulting access alone is sent again, from where its process stands. -/
def State.resend (s : State) (pid : Nat) (r : Req) (held : Bool) : State :=
  let p := s.proc pid
  let r := if p.unit < 10 then { r with core := p.core, unit := p.unit } else r
  (s.cacheDesc r.ctx).route { r with pa := r.va.toNat, space := (spaceOf r.core r.va).1 } (noteAgain held)

/-- The range entry of a tile operation that is sent again (R71, R292). -/
def State.scoreAgain (s : State) (m : ChanMsg) : State :=
  s.updCore m.core fun c =>
    if c.score.any fun e => decide (e.cmd = m.num) then c
    else
      { c with score := c.score ++ [{ base := BitVec.ofNat 64 (resolved m.core m.addr), len := s.tileBytes (resolved m.core m.handle),
                                      write := !m.send, slot := m.unit, cls := .transfers, cmd := m.num }] }

/-- The faulting channel operation is sent again, with its time-out armed anew. -/
def State.resendChan (s : State) (pid : Nat) (m : ChanMsg) (held : Bool) : State :=
  let p := s.proc pid
  let due := if m.deadline.isSome then some (s.clkOf p.core + p.tmo.toNat) else none
  let m := { m with deadline := due }
  let s := if m.kind = 2 then s.scoreAgain m else s
  let s := s.touch pid fun p =>
    { p with chan := if m.kind = 2 then p.chan else p.chan + 1, waiting := p.waiting || (p.task && m.kind != 2),
             armed := if due.isSome then due else p.armed,
             outst := p.outst ++ [{ sn := m.num, loads := false, stores := false, held := held || decide (m.kind = 2), sp3 := false,
                                    owner := [] }] }
  (if due.isSome then s.arm pid p.tmo.toNat (.channelTimeout pid) else s).toHome m

/-- The array command of a process that stopped at a fault (R377). -/
def State.stoppedMat (s : State) (pid : Nat) : Option MatItem :=
  (s.mats (s.proc pid).core).find? fun i => decide (i.pid = pid) && i.stopped

/-- What RETRY or a resume does for one fault record owed. DEDUCED, log entry 43. -/
def State.retryOwed (s : State) (pid : Nat) (o : Owed) : State :=
  if o.atIssue then s
  else if o.cmd.isSome then o.cmd.elim s s.sendHeld
  else
    match o.req with
    | some r => s.resend pid r o.held
    | none =>
      match o.redo with
      | some (.channelSendAtHome m) | some (.channelReceiveAtHome m) => s.resendChan pid m o.held
      | some e => s.push e
      | none =>
        match o.again with
        | some r => s.touch pid fun p => { p with redo := p.redo ++ [r] }
        | none =>
          if o.entry then s.updProc pid fun p => { p with seqStop := false, vpos := 0, voff := [] }
          else if o.cls = .matrix then
            let core := (s.proc pid).core
            (s.setMats core ((s.mats core).map fun i =>
              if i.pid = pid ∧ i.cmd = o.sn then { i with stopped := false } else i)).pumpArray (core / 8)
          else s

/-- Registers take the value of SKIP (R405); a suspended task keeps it for its resumption (R167, R170). -/
def State.skipWrites (s : State) (pid : Nat) (rs : List Reg) (x : Word) (held : Bool) : State :=
  if (s.proc pid).task && (s.proc pid).away && held then
    s.updProc pid fun p => { p with wake := p.wake ++ rs.map fun r => (r, x) }
  else s.touch pid fun p => rs.foldl (fun p r => p.deliver (r, x)) p

/-- SKIP of the memory entry at the head of a sequencer: lanes that no beat has written take FVAL, and the entry retires
(R339). An entry that stopped at FP_SUBNORMAL retires with no effect. -/
def State.skipEntry (s : State) (pid : Nat) (x : Word) : State :=
  let p := s.proc pid
  match p.headEntry with
  | none => s
  | some (e, iter) =>
    let s := s.updProc pid fun p => { p with seqStop := false }
    match e.op.mem with
    | none => s.retireEntry pid e (VecOut.nothing p.rs)
    | some vm =>
      let io := match s.streamsOf p e.op with | .ok ins out => (ins, out) | _ => ([], none)
      let left := (s.entryBeats p e vm iter (s.vecIn p io.1 none)).drop p.vpos
      let lanes := (left.flatMap id).map fun l => (l.1, toW32 x)
      let s := if vm.store then s else s.updProc pid fun p =>
        putLanes (if io.2.isSome && p.vpos == 0 then
          { p with v := setLanes p.v vm.reg (List.replicate p.laneCount 0) } else p) vm.reg lanes
      let q := s.proc pid
      (s.useStreams q io.1 io.2 (lanesN q.laneCount (q.v[vm.reg.toNat]'vm.reg.isLt))).retireEntry pid e (VecOut.nothing q.rs)

/-- A command that never entered its queue is dropped: its ranges and its count retire (R71, R287). -/
def State.dropCmd (s : State) (pid : Nat) (o : Owed) : State :=
  if o.cmd.isNone then s
  else (s.dropScore (s.proc pid).core o.sn).touch pid fun p => { p with cnt := p.cnt.down o.cls }

/-- What SKIP does for one fault record owed. -/
def State.skipOwed (s : State) (pid : Nat) (o : Owed) (x : Word) : State :=
  if o.atIssue then s.touch pid fun p => { p with pc := o.pc + 8 }
  else if o.entry then s.skipEntry pid x
  else if o.cmd.isSome then s.dropCmd pid o
  else if o.cls = .matrix then
    match s.stoppedMat pid with
    | some i => (s.retireMat (s.proc pid).core i).pumpArray ((s.proc pid).core / 8)
    | none => s
  else
    let s := s.skipWrites pid o.writes x o.held
    match o.req with
    | some r =>
      let s := s.touch pid fun p => { p with cnt := if r.op.loads then p.cnt.down r.op.cls else p.cnt, waiting := false }
      if r.op = .joinDec then s.finish pid else s
    | none =>
      match o.redo with
      | some (.channelSendAtHome m) | some (.channelReceiveAtHome m) =>
        if m.kind = 2 then (s.dropScore m.core m.num).touch pid fun p => { p with cnt := p.cnt.down .transfers } else s
      | _ => s

/-- Every fault record that the process owed has been acted on: READY in its slot, or SPILLED and queued (R168, R405).
DEDUCED, log entry 43. -/
def State.settleOwed (s : State) (pid : Nat) (rest : List Owed) : State :=
  let s := s.updProc pid fun p => { p with owed := rest }
  let p := s.proc pid
  if !rest.isEmpty || p.st != .faulted then s
  else
    let s := if p.seqStop && !p.tstat.getLsbD 0 then s.updProc pid fun p => { p with seqStop := false } else s
    if p.resident then
      ((s.updProc pid fun p => { p with waiting := p.waiting || decide (p.wait ≠ 0) }).setState pid .ready).kick pid
    else
      let s := s.setState pid .spilled
      if p.wait ≠ 0 || s.ctxOut p.ctx then s else s.enqueue (s.physOf p.home) pid

/-- A supervisor discard: every record owed is acted on, pending results are dropped, the slot is freed (R58, R405). -/
def State.discardProc (s : State) (pid : Nat) : State :=
  let s := (s.proc pid).owed.foldl (fun s o => s.dropCmd pid o) s
  let s := s.updProc pid fun p => { p with owed := [], redo := [], pend := 0, frozen := false, seq := [], vloop := none,
                                           seqStop := false, armed := none, waiting := false, chunk := none, wait := 0, wkind := 0 }
  let s : State := { s with waiters := s.waiters.filter fun r => r.agent != Agent.proc pid,
                            chanq := s.chanq.filter fun m => m.agent != Agent.proc pid || m.kind == 2,
                            epHeld := s.epHeld.filter fun e => e.1.agent != Agent.proc pid || e.1.kind == 2,
                            selq := s.selq.filter fun m => m.pid != pid }
  if (s.proc pid).resident then
    (((s.dropLanes pid).dropMatrix pid).releaseLease pid).freeSlot pid
  else s

/-! ### FLTRES (R405) -/

/-- BAD: the action named nothing it could act on. -/
def State.fltBad (s : State) (core : Nat) : State := s.setRegBit (corePage core + 0xA10) 0

/-- The record that an FLTRES write names. -/
def fltPid (x : Word) : Nat := 2 ^ 54 + field x 0 48
def fltUnit (x : Word) : Nat := field x 59 3

/-- The oldest record owed on UNIT 0 by the process that the write names, and those that follow. -/
def State.fltOwed (s : State) (core : Nat) (x : Word) : Option (Owed × List Owed) :=
  let p := s.proc (fltPid x)
  if p.pid = fltPid x ∧ p.st = .faulted ∧ p.core = core ∧ !p.frozen then
    (match p.owed with | o :: r => some (o, r) | [] => none)
  else none

/-- The command at the head of a queue of the core that stopped at a failed beat of the process. -/
def State.fltCmd (s : State) (core : Nat) (x : Word) : Option (Nat × EngCmd) :=
  let q := 2 * core + (fltUnit x - 3)
  match (s.engine q).cmds with
  | c :: _ => if c.err.isSome && !(s.engine q).frozen && decide (c.pid = fltPid x) then some (q, c) else none
  | [] => none

/-- The stopped command of a queue resumes at its failed beat (R44, R405). -/
def State.resumeEngine (s : State) (q : Nat) : State :=
  match (s.engine q).cmds with
  | c :: _ => ((s.setHead q { c with err := none }).setEngine q
      { (s.setHead q { c with err := none }).engine q with frozen := false }).push (.engineBeat q)
  | [] => s.setEngine q { s.engine q with frozen := false }

/-- The stopped command and every later one retire without further beats (R58). -/
def State.discardEngine (s : State) (q : Nat) : State :=
  let x := s.engine q
  let err := x.cmds.head?.bind (·.err)
  (s.setEngine q { cmds := x.cmds.map fun c => { c with err := err }, frozen := false }).pushAll
    (x.cmds.map fun _ => Ev.commandCompletion q 1)

/-- The stopped tile transfer of the process that the write names (R176). DEDUCED, log entry 59. -/
def State.fltTile (s : State) (core : Nat) (x : Word) : Option TileMsg :=
  s.tiles.find? fun t => decide (t.stopped = some (fltPid x)) &&
    ((t.sender.toList ++ t.receiver.toList).any fun m => decide (m.agent.pid = fltPid x) && decide (m.core = core))

/-- The stopped side of a tile transfer comes to its home again; there the transfer goes on at its failed beat (R176, R405). -/
def State.resumeTile (s : State) (t : TileMsg) : State :=
  (t.receiver.orElse fun _ => t.sender).elim s fun m =>
    if t.len = remoteTile then
      { s with tiles := s.tiles.filter fun y => decide (y.num ≠ t.num) }.toHome { m with elem := [] }
    else s.push (redoChan m)

/-- RETRY (R405). DEDUCED, log entry 65. -/
def execFltresRetry (core : Nat) (x : Word) (s : State) : Out :=
  match fltUnit x with
  | 0 =>
    match s.fltOwed core x with
    | some (o, rest) => .next ((s.retryOwed (fltPid x) o).settleOwed (fltPid x) rest)
    | none => .next (s.fltBad core)
  | 3 | 4 =>
    match s.fltCmd core x with
    | some (q, _) => .next (s.resumeEngine q)
    | none => .next (s.fltBad core)
  | 5 =>
    match s.fltTile core x with
    | some t => .next (s.resumeTile t)
    | none => .next (s.fltBad core)
  | _ => .next (s.fltBad core)

/-- SKIP, with the value of FVAL (R405). DEDUCED, log entry 65. -/
def execFltresSkip (core : Nat) (x : Word) (s : State) : Out :=
  if fltUnit x = 0 then
    match s.fltOwed core x with
    | some (o, rest) => .next ((s.skipOwed (fltPid x) o (s.reg (corePage core + 0xA08))).settleOwed (fltPid x) rest)
    | none => .next (s.fltBad core)
  else .next (s.fltBad core)

/-- DISCARD (R405, R58). -/
def execFltresDiscard (core : Nat) (x : Word) (s : State) : Out :=
  match fltUnit x with
  | 0 =>
    match s.fltOwed core x with
    | some _ => .next (s.discardProc (fltPid x))
    | none => .next (s.fltBad core)
  | 3 | 4 =>
    match s.fltCmd core x with
    | some (q, _) => .next (s.discardEngine q)
    | none => .next (s.fltBad core)
  | _ => .next (s.fltBad core)

/-! ### FRZCTL (R56–R58) -/

/-- The physical core that FRZCTL names. -/
def frzCore (x : Word) : Nat := field x 23 1 * 512 + field x 20 3 * 128 + field x 16 4 * 8 + field x 13 3

def State.thawBad (s : State) : State := s.setRegBit regFrozen 16

/-- One master less is frozen. -/
def State.thawed (s : State) : State :=
  let x := s.reg regFrozen
  s.setReg regFrozen (setField x 0 16 (field x 0 16 - 1))

/-- The frozen master that a write names: a record, a helper, an engine queue or a node. -/
inductive Frozen where
  | slot (pid : Nat)
  | helper (h : Nat)
  | queue (q : Nat)
  | node (n : Nat)
  | none
  deriving DecidableEq, Repr

def State.frozenMaster (s : State) (x : Word) : Frozen :=
  let core := frzCore x
  let u := field x 10 3
  if field x 20 3 > 3 ∧ field x 8 2 ≠ 3 then .none
  else
    match field x 8 2 with
    | 0 =>
      let pid := s.slotPid core u
      if pid ≠ 0 && (s.proc pid).frozen then .slot pid else .none
    | 1 => if u < 2 ∧ (s.helper (2 * core + u)).run = 3 then .helper (2 * core + u) else .none
    | 2 => if u < 2 ∧ (s.engine (2 * core + u)).frozen then .queue (2 * core + u) else .none
    | _ => if s.frozenNodes.contains (field x 24 8) then .node (field x 24 8) else .none

/-- A helper goes on: the access that stopped it is sent again, or its bundle or its stream's item (R58). -/
def State.resumeHelper (s : State) (h : Nat) : State :=
  let y := s.helper h
  let pid := helperKey h
  let s := (s.setHelper h { y with run := 1, owed := none }).updProc pid fun p => { p with st := .running, frozen := false }
  let s := y.owed.elim s fun o => s.retryOwed pid o
  match y.active with
  | some n => s.push (.streamItem h n)
  | none => s

/-- The helper stops idle (R58). -/
def State.discardHelper (s : State) (h : Nat) : State :=
  (s.setHelper h { s.helper h with run := 0, active := none, owed := none }).updProc (helperKey h) fun p =>
    { p with st := .done, frozen := false, waiting := false, redo := [], pend := 0 }

/-- Resume of a frozen master: the violating access is made again under what now stands (R58). Of several violations that a
slot owes, the first is. DESIGN CHOICE, log entry 88. -/
def execFrzctlResume (x : Word) (s : State) : Out :=
  match s.frozenMaster x with
  | .slot pid =>
    let p := s.proc pid
    let s := s.thawed.updProc pid fun p => { p with frozen := false }
    match p.owed.find? (·.viol) with
    | some o => .next ((s.retryOwed pid o).settleOwed pid (p.owed.erase o))
    | none => .next (s.settleOwed pid p.owed)
  | .helper h => .next (s.thawed.resumeHelper h)
  | .queue q => .next (s.thawed.resumeEngine q)
  | .node n => .next ({ s.thawed with frozenNodes := s.frozenNodes.filter (· ≠ n) })
  | .none => .next s.thawBad

/-- Discard of a frozen master (R58). -/
def execFrzctlDiscard (x : Word) (s : State) : Out :=
  match s.frozenMaster x with
  | .slot pid => .next (s.thawed.discardProc pid)
  | .helper h => .next (s.thawed.discardHelper h)
  | .queue q => .next (s.thawed.discardEngine q)
  | .node n => .next ({ s.thawed with frozenNodes := s.frozenNodes.filter (· ≠ n) })
  | .none => .next s.thawBad

/-! ### The switch of a context (R408) -/

/-- Records of a context. -/
def State.ctxProcs (s : State) (c : Byte) : List Proc :=
  s.allProcs.filter fun p => decide (p.ctx = c) && !p.isHelper && decide (p.pid ≠ 0) && p.st != .free && p.st != .done

/-- Records that stand in a slot and are to leave it. DEDUCED, log entry 64. -/
def State.toEvict (s : State) (c : Byte) : List Nat :=
  ((s.ctxProcs c).filter fun p => p.resident && p.st != .faulted).map (·.pid)

/-- Its slot stops issuing and its spill begins (R407). DEDUCED, log entry 64. -/
def State.startEvict (s : State) (pid : Nat) : State :=
  let p := s.proc pid
  if p.rc then s
  else if p.leaving ≠ 0 then s.updProc pid fun p => { p with leaving := 3 }
  else s.leave pid 3

/-- Evict (R408): handlers run to their end, resident records are spilled, and then every record that could run or waits
stands on the eviction chain. -/
def execContextEvict (ctx : Byte) (s : State) : Out :=
  if (s.ctx ctx).evicted then .next s
  else if !(s.toEvict ctx).isEmpty || (s.ctxProcs ctx).any (fun p => p.rc && p.st != .faulted) then
    .next (((s.toEvict ctx).foldl State.startEvict s).later (.contextEvict ctx))
  else
    let ms := sortAsc (((s.ctxProcs ctx).filter fun p => p.st == .ready || p.st == .spilled).map (·.pid))
    let s := ms.foldl (fun s q => s.unqueue (s.physOf (s.proc q).home) q) s
    .next ({ s with mem := chainLinks s.mem ms }.updCtx ctx fun x => { x with evicted := true, chain := ms })

/-- A latched entry fires: its buffer must be resident in the arming process's sight (R408). -/
def State.fireTrigger (s : State) (c : Byte) (t : TrigMsg) : State :=
  match checkNow s (s.proc t.pid).core c t.buf 1 needRd false with
  | (.fail _ _, s) =>
    s.faultProc t.pid { cause := 0x042, tval := t.buf, words := [xlateWord 0 0 needRd] }
      { atIssue := false, pc := (s.proc t.pid).pc, req := none, redo := some (.triggerLatch c t), writes := [], cls := .none, sn := 0,
        entry := false, again := none } false
  | (_, s) => s.push (.channelSendAtHome t.msg)

/-- A send armed by a timer or by ingest: latched while its context is evicted, where 64 wait; else it fires (R408). -/
def execTriggerLatch (ctx : Byte) (t : TrigMsg) (s : State) : Out :=
  let x := s.ctx ctx
  if !x.evicted then .next (if (s.proc t.pid).pid = t.pid then s.fireTrigger ctx t else s)
  else if x.trigs.length < 64 then .next (s.updCtx ctx fun x => { x with trigs := x.trigs ++ [t] })
  else .next (s.touch t.pid fun p => { p with tstat := p.tstat ||| 0x100 })

/-- Restore (R408): chained records without a wait join their FIFOs, latched entries fire, and processes whose TOVF is set
owe TRIGGER_OVF. -/
def execContextRestore (ctx : Byte) (s : State) : Out :=
  let x := s.ctx ctx
  if !x.evicted then .next s
  else
    let s := s.updCtx ctx fun x => { x with evicted := false, chain := [], trigs := [] }
    let s := (x.chain.filter fun q => s.liveRecord q && decide ((s.proc q).wait = 0) && (s.proc q).st != .faulted).foldl
      (fun s q => s.enqueue (s.physOf (s.proc q).home) q) s
    let s := s.pushAll (x.trigs.map fun t => Ev.triggerLatch ctx t)
    let s := (s.ctxProcs ctx).foldl (fun s p =>
      if p.tstat.getLsbD 8 then s.updProc p.pid fun p => { p with overflow := true } else s) s
    .next ((s.pushAll (s.cores.map fun e => Ev.slotFill e.1)).pushAll
      ((s.lqs.map (·.1)).map Ev.launchTake))

end Sys2Proof.Machine
end

