-- ==== Sys2Proof/Machine/Sha.lean ====
section
/-! DEFINITION. SHA-384, which digests the ranges of check mode and the measurements of an attestation report
(spec/07 R157, spec/21 R448, R451; PRESUMED, log entry 28): its constants are computed from the primes that define them. -/

namespace Sys2Proof.Machine

/-- No number from 2 below `k` divides `n`. -/
def primeBelow (n k : Nat) : Bool := (List.range k).all fun d => d < 2 || n % d != 0

/-- The first 80 primes. -/
def shaPrimes : List Nat := (List.range 410).filter fun n => decide (2 ≤ n) && primeBelow n n

/-- The integer cube root by bits: the greatest r + t below 2^`n` more with (r + t)³ ≤ x. -/
def icbrtFrom (x r n : Nat) : Nat :=
  match n with
  | 0 => r
  | k + 1 => let t := r + 2 ^ k; icbrtFrom x (if t * t * t ≤ x then t else r) k

/-- The fractional part of a prime's cube root, 64 bits. PRESUMED, log entry 28. -/
def shaK (p : Nat) : Word := BitVec.ofNat 64 (icbrtFrom (p * 2 ^ 192) 0 68)

/-- The fractional part of a prime's square root, 64 bits. -/
def shaH (p : Nat) : Word := BitVec.ofNat 64 (isqrt (p * 2 ^ 128) 72)

/-- The eight working words. -/
structure Sha where
  a : Word
  b : Word
  c : Word
  d : Word
  e : Word
  f : Word
  g : Word
  h : Word
  deriving DecidableEq, Repr

/-- The initial value of SHA-384: the ninth to sixteenth primes. -/
def shaInit : Sha :=
  let w := fun i => shaH (shaPrimes.getD (8 + i) 0)
  { a := w 0, b := w 1, c := w 2, d := w 3, e := w 4, f := w 5, g := w 6, h := w 7 }

/-- One round. -/
def Sha.round (s : Sha) (k w : Word) : Sha :=
  let s1 := s.e.rotateRight 14 ^^^ s.e.rotateRight 18 ^^^ s.e.rotateRight 41
  let ch := (s.e &&& s.f) ^^^ (~~~s.e &&& s.g)
  let t1 := s.h + s1 + ch + k + w
  let s0 := s.a.rotateRight 28 ^^^ s.a.rotateRight 34 ^^^ s.a.rotateRight 39
  let maj := (s.a &&& s.b) ^^^ (s.a &&& s.c) ^^^ (s.b &&& s.c)
  { a := t1 + s0 + maj, b := s.a, c := s.b, d := s.c, e := s.d + t1, f := s.e, g := s.f, h := s.g }

/-- The message schedule, newest word first. -/
def shaSchedule (ws : List Word) (n : Nat) : List Word :=
  match n with
  | 0 => ws
  | k + 1 =>
    let x2 := ws.getD 1 0
    let x15 := ws.getD 14 0
    let s0 := x15.rotateRight 1 ^^^ x15.rotateRight 8 ^^^ (x15 >>> 7)
    let s1 := x2.rotateRight 19 ^^^ x2.rotateRight 61 ^^^ (x2 >>> 6)
    shaSchedule ((s1 + ws.getD 6 0 + s0 + ws.getD 15 0) :: ws) k

/-- One block of sixteen words. -/
def Sha.block (s : Sha) (ks ws : List Word) : Sha :=
  let t := (ks.zip (shaSchedule ws.reverse 64).reverse).foldl (fun (s : Sha) e => s.round e.1 e.2) s
  { a := s.a + t.a, b := s.b + t.b, c := s.c + t.c, d := s.d + t.d, e := s.e + t.e, f := s.f + t.f, g := s.g + t.g,
    h := s.h + t.h }

/-- Big-endian words of a byte string. -/
def shaWords (bs : List Byte) : List Word :=
  match bs with
  | b0 :: b1 :: b2 :: b3 :: b4 :: b5 :: b6 :: b7 :: r =>
    (b0 ++ b1 ++ b2 ++ b3 ++ b4 ++ b5 ++ b6 ++ b7) :: shaWords r
  | _ => []

/-- Blocks of sixteen words, `fuel` at most. -/
def shaBlocks (fuel : Nat) (ks : List Word) (s : Sha) (ws : List Word) : Sha :=
  match fuel with
  | 0 => s
  | n + 1 => if ws.isEmpty then s else shaBlocks n ks (s.block ks (ws.take 16)) (ws.drop 16)

/-- A message with the padding of SHA-384. -/
def shaPad (bs : List Byte) : List Byte :=
  let n := bs.length
  bs ++ [(0x80 : Byte)] ++ List.replicate ((239 - n % 128) % 128) 0 ++ (natToBytes 16 (8 * n)).reverse

/-- SHA-384 of a byte string: 48 bytes. PRESUMED, log entry 28. -/
def sha384 (bs : List Byte) : List Byte :=
  let ws := shaWords (shaPad bs)
  let t := shaBlocks (ws.length / 16) (shaPrimes.map shaK) shaInit ws
  [t.a, t.b, t.c, t.d, t.e, t.f].flatMap fun w => (natToBytes 8 w.toNat).reverse

end Sys2Proof.Machine
end

