-- ==== Sys2Proof/Machine/Launch.lean ====
section
/-! DEFINITION. Launch queues and launches (spec/09 R192–R202, spec/07 R145, R155–R158, spec/09 R456): taking a packet,
starting its records, its completion, the barriers of kinds 1 to 3, and the two runs of check mode. -/

namespace Sys2Proof.Machine

/-! ### Queues (R192, R193) -/

/-- A register of a queue's descriptor. -/
def lqReg (q off : Nat) : Nat := blockAddr 0 0 (0x1000 + 32 * q + off)

def State.lqCtl (s : State) (q : Nat) : Word := s.reg (lqReg q 8)
def State.lqOn (s : State) (q : Nat) : Bool := (s.lqCtl q).getLsbD 63
def State.lqCtx (s : State) (q : Nat) : Byte := BitVec.ofNat 8 (field (s.lqCtl q) 48 8)
def State.lqN (s : State) (q : Nat) : Nat := 2 ^ field (s.lqCtl q) 32 5
def State.lqTaken (s : State) (q : Nat) : Nat := field (s.reg (lqReg q 16)) 32 32

/-- The tower whose launch unit serves the queue. -/
def State.lqTower (s : State) (q : Nat) : Nat := field (s.reg (lqReg q 0)) 47 1

/-- The slot of packet `k` and the version of its presence word (R193). -/
def State.lqSlot (s : State) (q k : Nat) : Word := s.reg (lqReg q 0) + BitVec.ofNat 64 (128 * (k % s.lqN q))
def State.lqVersion (s : State) (q k : Nat) : Nat := (k / s.lqN q + 1) % 256

def State.lq (s : State) (q : Nat) : LaunchQ := SMap.get LaunchQ.empty s.lqs q
def State.setLq (s : State) (q : Nat) (x : LaunchQ) : State := { s with lqs := SMap.put LaunchQ.empty s.lqs q x }

def State.launch (s : State) (t i : Nat) : Option Launch := SMap.get none s.launches (256 * t + i)
def State.setLaunch (s : State) (t i : Nat) (l : Option Launch) : State :=
  { s with launches := SMap.put none s.launches (256 * t + i) l }

/-- The queues of a tower look for packets. -/
def State.wakeQueues (s : State) (t : Nat) : State :=
  s.pushAll (((List.range 64).filter fun q => s.lqOn q && decide (s.lqTower q = t)).map Ev.launchTake)

/-- A start message has not reached its core yet. -/
def State.startOut (s : State) (f : StartMsg → Bool) : Bool :=
  (s.agenda ++ s.blocked).any fun e => match e with | .startMessage m => f m | _ => false

/-- A launch of the queue still waits for a record at a member (R200). -/
def State.lqHeld (s : State) (q : Nat) : Bool :=
  s.startOut fun m => (s.launch m.tower m.idx).elim false fun l => decide (l.queue = q)

/-! ### Launches in progress (R201) -/

/-- Every process of the launch that has been started is DONE or FAULTED, and none is still to start. -/
def State.launchQuiet (s : State) (t i : Nat) (l : Launch) : Bool :=
  !(s.startOut fun m => decide (m.tower = t ∧ m.idx = i)) &&
  l.pids.all fun pid =>
    let p := s.proc pid
    decide (p.pid ≠ pid) || decide (p.launch ≠ some (t, i)) || p.st == .done || p.st == .faulted || p.st == .free

/-- A record of the launch stands FAULTED, or has been. -/
def State.launchFaulted (s : State) (t i : Nat) (l : Launch) : Bool :=
  decide (0 < l.faulted) || l.pids.any fun pid =>
    let p := s.proc pid
    decide (p.pid = pid) && decide (p.launch = some (t, i)) && (p.st == .faulted || p.failed)

/-- The completion word on the channel at +112, or CHAN_TYPE (R196, R201, R456). DEDUCED, log entry 30. -/
def State.sendCompletion (s : State) (t q k : Nat) (c : Byte) (h : Word) (dropped : Bool) (faulted : Nat) : State :=
  if h = 0 then s
  else if s.wordChannel h c then
    let w := q * 2 ^ 58 + (if dropped then 2 ^ 57 else 0) + min faulted 0xFFFF * 2 ^ 32 + k % 2 ^ 32
    s.unitSendKind (.sill (200 + t)) 0 h c (natToBytes 8 w) 0
  else s.faultReport c { cause := 0x0C0, tval := h, words := [BitVec.ofNat 64 k, BitVec.ofNat 64 q] }

/-- Records that a replaying launch has not consumed are reported at its end (R163). -/
def State.replayEnd (s : State) (c : Byte) : State :=
  let s := if (s.ctx c).logctl.getLsbD 0 then s.fileReplay c else s
  match (s.ctx c).replay with
  | r :: _ =>
    if (s.ctx c).recording = 0 ∧ (s.ctx c).logctl.getLsbD 0 then
      (s.setDiv c).faultReport c { cause := 0x100, tval := BitVec.ofNat 64 (field r.2.w1 0 48),
                                   words := [r.2.w0, BitVec.ofNat 64 (field r.2.w1 0 48)] }
    else s
  | [] => s

/-- A launch leaves its table: its records of the log are written out (R162), and its queues go on. -/
def State.leaveTable (s : State) (t i : Nat) (l : Launch) : State :=
  let s := s.setLaunch t i none
  let s := if l.record then
      (s.updCtx l.ctx fun x => { x with recording := x.recording - 1 }).flushLog l.ctx |>.replayEnd l.ctx
    else s
  s.wakeQueues t

/-- Every record has sent its notice: the launch is complete (R201). DEDUCED, log entry 30. -/
def State.completeLaunch (s : State) (t i : Nat) (l : Launch) : State :=
  ((s.leaveTable t i l).stepReg (lqReg l.queue 16) 0 32).sendCompletion t l.queue l.pkt l.ctx l.done l.dropped l.faulted

/-- A DONE notice reaches the launch unit (R201). -/
def execDoneNotice (m : DoneMsg) (s : State) : Out :=
  match s.launch m.tower m.idx with
  | none => .next s
  | some l =>
    let l : Launch := { l with unsent := l.unsent - 1, faulted := l.faulted + (if m.faulted then 1 else 0) }
    if l.unsent = 0 ∧ l.check = 0 then .next (s.completeLaunch m.tower m.idx l)
    else if l.unsent = 0 ∧ l.check = 3 then .next (s.leaveTable m.tower m.idx l)
    else .next (s.setLaunch m.tower m.idx (some l))

/-! ### Starting records (R200) -/

/-- A start message at its member: a record of the member's pool is written and queued. With an empty pool the launch
waits there, and its later members behind it (R200). -/
def execStartMessage (m : StartMsg) (s : State) : Out :=
  let p := s.physOf m.core
  let behind := s.blocked.any fun e => match e with
    | .startMessage n => decide (n.tower = m.tower ∧ n.idx = m.idx ∧ n.rank < m.rank) | _ => false
  if behind || !s.hasRecord p then .next (s.later (.startMessage m))
  else
    let r := s.takeRecord p
    let q : Proc :=
      { childOf m.ctx m.prio m.task m.core m.entry (m.g14 ++ [BitVec.ofNat 64 (if m.mc then m.rank else 0)]) with
          ext := Vector.ofFn fun d => BitVec.ofNat 32 (m.ext.getD d.val 0),
          org := Vector.ofFn fun d => BitVec.ofNat 32 (m.org.getD d.val 0),
          rank := BitVec.ofNat 11 m.rank, nrank := BitVec.ofNat 11 m.nrank, chk := m.chk, rsFrom := m.rsFrom, launch := some (m.tower, m.idx) }
    let s := (r.2.create p r.1 q).enqueue p r.1
    let s := match s.launch m.tower m.idx with
      | some l =>
        let starts := if l.check = 1 then l.starts.map fun n => if n.rank = m.rank then { n with rsFrom := r.1 } else n else l.starts
        (s.setLaunch m.tower m.idx (some { l with pids := l.pids ++ [r.1], starts := starts })).push (.launchTake l.queue)
      | none => s
    .next s

/-! ### The packet (R196–R199) -/

/-- The member list of the core set, before members without a core are dropped; `none` discards (R197, R198). -/
def coreSet (w bits : Word) : Option (List Nat) :=
  let base := field w 0 16
  let count := field w 16 16
  let stride := field w 32 16
  match field w 48 16 with
  | 0 =>
    if count = 0 ∨ 1024 < count ∨ (stride = 0 ∧ 1 < count) then none
    else some ((List.range count).map fun i => base + i * stride)
  | 1 =>
    if count ≠ 0 ∨ stride ≠ 0 then none
    else some (((List.range 64).filter fun i => bits.getLsbD i).map fun i => base + i)
  | _ => none

/-- A member has a core (R197, R409). -/
def State.hasCore (s : State) (lc : Nat) : Bool :=
  decide (lc < s.ncores) && !SMap.get false s.dropped (s.physOf lc / 8)

/-- One dimension of the grid: origin and extent of coordinate `c` (R199). -/
def gridPart (e g granule c : Nat) : Nat × Nat :=
  let q := ceilDiv (ceilDiv e granule) g * granule
  let org := min (c * q) e
  (org, min q (e - org))

/-- The grid coordinate of rank `r` in dimension `d` (R199). -/
def gridCoord (gs : List Nat) (r d : Nat) : Nat :=
  let below := (gs.take d).foldl (· * ·) 1
  if d = 3 then r / below else r / below % gs.getD d 1

/-- The grid of a packet: extents, parts and granules; `none` discards (R198, R199). -/
def gridOf (ws : List Word) (n : Nat) : Option (List Nat × List Nat × List Nat) :=
  let es := (List.range 4).map fun d => field (ws.getD (8 + d / 2) 0) (32 * (d % 2)) 32
  let gs := (List.range 4).map fun d => field (ws.getD 10 0) (16 * d) 16
  let ks := (List.range 4).map fun d => field (ws.getD 11 0) (16 * d) 16
  if gs.contains 0 || ks.contains 0 || gs.foldl (· * ·) 1 != n then none else some (es, gs, ks)

/-! ### Ranges of check mode (R155–R157) -/

/-- The seat of the launch unit that serves a queue: its tower's sill has no core (R36, R192). -/
def State.lqSeat (s : State) (q : Nat) : Nat := sillSeat (s.lqTower q)

/-- Whether `n` bytes pass the checks of R38 for reading and writing: at their first and last byte and in every page
between. -/
def rangeAllowed (s : State) (seat : Nat) (c : Byte) (va : Word) (n : Nat) : Bool :=
  let points := [0, n - 1] ++ (List.range (n / 4096 + 1)).map fun i => min (n - 1) (4096 - va.toNat % 4096 + 4096 * i)
  points.all fun o =>
    match (checkNow s seat c (va + BitVec.ofNat 64 o) 1 needRW false).1 with
    | .ok _ _ => true
    | _ => false

/-- The words of a range list: its 128 bytes and its ranges. -/
def readList (s : State) (seat : Nat) (c : Byte) (va : Word) : Except FaultInfo (List Word) × State :=
  match readRange 4 s seat c va 128 with
  | (.error f, s) => (.error f, s)
  | (.ok bs, s) =>
    let ws := wordsOfBytes bs
    match readRange 32 s seat c (va + 128) (16 * min 64 (field (ws.getD 0 0) 0 7)) with
    | (.error f, s) => (.error f, s)
    | (.ok r, s) => (.ok (ws ++ wordsOfBytes r), s)

/-- The ranges of a list, as pairs of first byte and length. -/
def rangesOf (ws : List Word) : List (Word × Nat) :=
  (List.range (field (ws.getD 0 0) 0 7)).map fun i => (ws.getD (16 + 2 * i) 0, (ws.getD (17 + 2 * i) 0).toNat)

/-- Each range after the first lies apart from those before it. -/
def disjoint (rs : List (Word × Nat)) : Bool :=
  match rs with
  | [] => true
  | r :: rest => rest.all (fun q => !overlaps r.1.toNat r.2 q.1.toNat q.2) && disjoint rest

/-- Bytes of SHADOW that the ranges before one take. -/
def shadowBytes (rs : List (Word × Nat)) : Nat := (rs.map fun r => ceilDiv r.2 64 * 64).foldl (· + ·) 0

/-- A list that R155 accepts. -/
def listOk (s : State) (seat : Nat) (c : Byte) (va : Word) (ws : List Word) : Bool :=
  let n := field (ws.getD 0 0) 0 7
  let rs := rangesOf ws
  let sh := ws.getD 1 0
  decide (va.toNat % 64 = 0) && decide (va.toNat / 2 ^ 53 % 8 = 0 ∨ va.toNat / 2 ^ 53 % 8 = 2) &&
  decide (1 ≤ n ∧ n ≤ 64) && field (ws.getD 0 0) 7 57 == 0 && ws.getD 14 0 == 0 && ws.getD 15 0 == 0 &&
  rs.all (fun r => decide (1 ≤ r.2 ∧ r.2 ≤ 0x40000000)) && disjoint rs && rs.all (fun r => rangeAllowed s seat c r.1 r.2) &&
  decide (sh.toNat % 64 = 0) && decide (sh.toNat / 2 ^ 53 % 8 = 0 ∨ sh.toNat / 2 ^ 53 % 8 = 2) &&
  rangeAllowed s seat c sh (shadowBytes rs)

/-- One range copied. -/
def copyRange (s : State) (seat : Nat) (c : Byte) (src dst : Word) (n : Nat) : Except FaultInfo Unit × State :=
  match readRange (n / 64 + 2) s seat c src n with
  | (.error f, s) => (.error f, s)
  | (.ok bs, s) => writeRange (n / 64 + 2) s seat c dst bs

/-- Every range copied to SHADOW, or back from it (R156). -/
def copyRanges (s : State) (seat : Nat) (c : Byte) (sh : Word) (back : Bool) (rs : List (Word × Nat)) : Except FaultInfo Unit × State :=
  match rs with
  | [] => (.ok (), s)
  | r :: rest =>
    match (if back then copyRange s seat c sh r.1 r.2 else copyRange s seat c r.1 sh r.2) with
    | (.error f, s) => (.error f, s)
    | (.ok (), s) => copyRanges s seat c (sh + BitVec.ofNat 64 (ceilDiv r.2 64 * 64)) back rest

/-- What a digest covers: BASE, LEN and the bytes of each range (R157). -/
def digestBytes (s : State) (seat : Nat) (c : Byte) (rs : List (Word × Nat)) : Except FaultInfo (List Byte) × State :=
  match rs with
  | [] => (.ok [], s)
  | r :: rest =>
    match readRange (r.2 / 64 + 2) s seat c r.1 r.2 with
    | (.error f, s) => (.error f, s)
    | (.ok bs, s) =>
      match digestBytes s seat c rest with
      | (.ok more, s) => (.ok (natToBytes 8 r.1.toNat ++ natToBytes 8 r.2 ++ bs ++ more), s)
      | e => e

/-! ### Acting on a packet (R195, R196, R198) -/

/-- A packet is discarded (R198, R456); kinds 0, 2 and 3 count as decided (R192). DEDUCED, log entry 29. -/
def State.discardPacket (s : State) (q k : Nat) (ws : List Word) (slot : Word) : State :=
  let ctl := ws.getD 1 0
  let s := s.bumpReg (lqReg q 24) 0 8
  let kind := field ctl 16 4
  let s := if kind = 0 ∨ kind = 2 ∨ kind = 3 then s.stepReg (lqReg q 16) 0 32 else s
  s.faultReport (s.lqCtx q) { cause := 0x0A0, tval := ctl, words := [BitVec.ofNat 64 k, slot] }

/-- The members of a packet as start messages (R200). -/
def startsOf (t i : Nat) (ws : List Word) (ms : List Nat) (grid : List Nat × List Nat × List Nat) (chk : Word) : List StartMsg :=
  let ctl := ws.getD 1 0
  ms.mapIdx fun r lc =>
    let part := fun d => gridPart (grid.1.getD d 0) (grid.2.1.getD d 1) (grid.2.2.getD d 1) (gridCoord grid.2.1 r d)
    { tower := t, idx := i, core := lc, entry := ws.getD 0 0, prio := BitVec.ofNat 3 (field ctl 8 3),
      task := ctl.getLsbD 20, g14 := (ws.drop 4).take 4, rank := r, nrank := ms.length, mc := ctl.getLsbD 21,
      ext := (List.range 4).map fun d => (part d).2, org := (List.range 4).map fun d => (part d).1,
      ctx := BitVec.ofNat 8 (field ctl 0 8), chk := chk }

/-- The counters of the context start with the first of its record-mode launches (R160). -/
def State.beginRecord (s : State) (c : Byte) : State :=
  let s := if (s.ctx c).recording = 0 then s.startCounters c else s
  s.updCtx c fun x => { x with recording := x.recording + 1 }

/-- A free entry of the launch table (R201). -/
def State.freeEntry (s : State) (t : Nat) : Option Nat := (List.range 256).find? fun i => (s.launch t i).isNone

/-- A kind 0 packet starts its launch in entry `i`; `chk` is the CHK of its records. -/
def State.startLaunch (s : State) (t i q k : Nat) (ws : List Word) (slot : Word) (ms : List Nat) (dropped : Bool)
    (grid : List Nat × List Nat × List Nat) : State :=
  let ctl := ws.getD 1 0
  let c : Byte := BitVec.ofNat 8 (field ctl 0 8)
  let check := ctl.getLsbD 22
  let starts := startsOf t i ws ms grid (ofBool check)
  let l : Launch :=
    { queue := q, pkt := k, ctx := c, slot := slot.toNat, done := ws.getD 14 0, dropped := dropped, record := ctl.getLsbD 23,
      check := if check then 1 else 0, ranges := ws.getD 12 0, starts := starts, unsent := ms.length, faulted := 0, pids := [],
      digA := [] }
  let s := if l.record then s.beginRecord c else s
  let s := (s.setLaunch t i (some l)).pushAll (starts.map Ev.startMessage)
  if check then s.push (.checkRunAEnd t i) else s

/-- What acting on a packet answers: the state, or a wait for the host or a lock. -/
inductive Acted where
  | ok (s : State)
  | wait (s : State)
  deriving DecidableEq, Repr

/-- A kind 0 packet (R196–R201). DEDUCED, log entry 29. -/
def State.actLaunch (s : State) (t q k : Nat) (ws : List Word) (slot : Word) : Acted :=
  let ctl := ws.getD 1 0
  let c := s.lqCtx q
  let discard := Acted.ok (s.discardPacket q k ws slot)
  if ws.getD 13 0 ≠ 0 then discard
  else
    match coreSet (ws.getD 2 0) (ws.getD 3 0), s.freeEntry t with
    | some all, some i =>
      let ms := all.filter s.hasCore
      match gridOf ws ms.length with
      | none => discard
      | some grid =>
        if ms.isEmpty || (!ctl.getLsbD 21 && ms.length != 1) then discard
        else if !ctl.getLsbD 22 then .ok (s.startLaunch t i q k ws slot ms (ms.length != all.length) grid)
        else
          let va := ws.getD 12 0
          match readList s (sillSeat t) c va with
          | (.error f, s') => if f.cause = notYet then .wait s' else discard
          | (.ok rl, s') =>
            if !listOk s' (sillSeat t) c va rl then discard
            else
              match copyRanges s' (sillSeat t) c (rl.getD 1 0) false (rangesOf rl) with
              | (.error f, s'') => if f.cause = notYet then .wait (if f.tval.toNat / 2 ^ 53 % 8 = 1 then s'' else s) else discard
              | (.ok (), s'') => .ok (s''.startLaunch t i q k ws slot ms (ms.length != all.length) grid)
    | none, _ => discard
    | _, none => .wait s

/-- Launches that a barrier waits for: table entry and name. -/
def State.launchesWhere (s : State) (f : Launch → Bool) : List (Nat × Nat) :=
  s.launches.filterMap fun e => e.2.bind fun l => if f l then some (e.1, 2 ^ 32 * l.queue + l.pkt) else none

/-- A packet of kind 1, 2 or 3 waits in its queue. -/
def State.beginBarrier (s : State) (q k : Nat) (ws : List Word) (ls : List (Nat × Nat)) (e : Ev) : State :=
  (s.setLq q { barrier := some (ws ++ [BitVec.ofNat 64 k]), waitFor := ls }).push e

/-- The launch unit acts on packet `k` of a queue (R195, R196, R198, R145). -/
def State.actPacket (s : State) (t q k : Nat) (ws : List Word) (slot : Word) : Acted :=
  let ctl := ws.getD 1 0
  let c := s.lqCtx q
  let kind := field ctl 16 4
  if 4 ≤ kind ∨ field ctl 24 40 ≠ 0 ∨ field ctl 11 5 ≠ 0 ∨ field ctl 0 8 ≠ c.toNat then .ok (s.discardPacket q k ws slot)
  else
    match kind with
    | 0 => s.actLaunch t q k ws slot
    | 1 =>
      let g1 := ws.getD 4 0
      if field g1 0 2 = 3 ∨ field g1 3 61 ≠ 0 then .ok (s.discardPacket q k ws slot)
      else .ok (s.beginBarrier q k ws (s.launchesWhere fun l => decide (l.queue = q)) (.levelChange q))
    | 2 => .ok (s.beginBarrier q k ws (s.launchesWhere fun l => decide (l.queue = q)) (.queueBarrier q))
    | _ => .ok (s.beginBarrier q k ws (s.launchesWhere fun l => decide (l.ctx = c)) (.contextFence q))

/-- The launches that a barrier waits for have only DONE and FAULTED processes; run B of check mode is one of their runs
(R145, R196, R201). -/
def State.barrierOver (s : State) (x : LaunchQ) : Bool :=
  x.waitFor.all fun e =>
    match SMap.get none s.launches e.1 with
    | none => true
    | some l =>
      decide (2 ^ 32 * l.queue + l.pkt ≠ e.2) || (decide (l.check ≠ 1) && s.launchQuiet (e.1 / 256) (e.1 % 256) l)

/-- A kind 1 packet takes effect: level, domain and seed of its context (R145); creation numbers begin again (R151). -/
def execLevelChange (q : Nat) (s : State) : Out :=
  match (s.lq q).barrier with
  | none => .next s
  | some ws =>
    if !s.barrierOver (s.lq q) then .next (s.later (.levelChange q))
    else
      let g1 := ws.getD 4 0
      let s := s.updCtx (BitVec.ofNat 8 (field (ws.getD 1 0) 0 8)) fun x =>
        { x with level := field g1 0 2, dom := field g1 2 1, seed := ws.getD 5 0, created := [] }
      .next ((s.setLq q LaunchQ.empty).push (.launchTake q))

/-- A kind 2 or 3 packet completes (R196). -/
def State.endBarrier (s : State) (q : Nat) (ws : List Word) : State :=
  let k := (ws.getD 15 0).toNat
  let s := (s.setLq q LaunchQ.empty).stepReg (lqReg q 16) 0 32
  (s.sendCompletion (s.lqTower q) q k (BitVec.ofNat 8 (field (ws.getD 1 0) 0 8)) (ws.getD 14 0) false 0).push (.launchTake q)

/-- A kind 2 packet: the launches taken before it from its queue have come to rest (R196). -/
def execQueueBarrier (q : Nat) (s : State) : Out :=
  match (s.lq q).barrier with
  | none => .next s
  | some ws => if s.barrierOver (s.lq q) then .next (s.endBarrier q ws) else .next (s.later (.queueBarrier q))

/-- A kind 3 packet: the launches of its context that any unit took before it have come to rest (R196). -/
def execContextFence (q : Nat) (s : State) : Out :=
  match (s.lq q).barrier with
  | none => .next s
  | some ws => if s.barrierOver (s.lq q) then .next (s.endBarrier q ws) else .next (s.later (.contextFence q))

/-! ### Taking a packet (R195) -/

/-- What the held load on the presence word of a queue's next packet shows. -/
inductive Look where
  | absent
  | wait
  | ready (pa : Nat) (s : State)
  | fail (f : FaultInfo) (s : State)
  deriving DecidableEq, Repr

/-- The next packet of a queue (R195). -/
def State.lookAt (s : State) (q : Nat) : Look :=
  let k := s.lqTaken q
  let va := s.lqSlot q k + 120
  let v := s.lqVersion q k
  if !s.lqOn q || (s.lq q).barrier.isSome || s.lqHeld q || s.ctxOut (s.lqCtx q) then .absent
  else
    let r := checkNow s (s.lqSeat q) (s.lqCtx q) va 8 needRW false
    match r.1 with
    | .ok pa 2 =>
      if r.2.isLocked pa then .wait
      else
        let g := r.2.readGuard pa
        if !g.1 then .fail { cause := eccCause pa, tval := va, words := [] } g.2
        else
          match verLoad g.2 pa v with
          | .done s _ _ => .ready pa s
          | .hold => .absent
          | .fault c ws => .fail { cause := c, tval := va, words := ws } g.2
    | .ok _ _ => .fail { cause := 0x063, tval := va, words := [BitVec.ofNat 64 v] } r.2
    | .fail c ws => .fail { cause := c, tval := va, words := ws } r.2
    | _ => .fail { cause := 0x043, tval := va, words := [] } r.2

/-- A failed access stops the queue at packet `k` (R195, R456). -/
def State.stopQueue (s : State) (q k : Nat) (f : FaultInfo) : State :=
  (s.setReg (lqReg q 8) (setField (s.lqCtl q) 63 1 0)).faultReport (s.lqCtx q)
    { f with words := [f.words.headD 0, BitVec.ofNat 64 k] }

/-- The kind of a queue's next packet, for a full launch table. -/
def State.nextKind (s : State) (q : Nat) : Nat :=
  match (readBeat s (s.lqSeat q) (s.lqCtx q) (s.lqSlot q (s.lqTaken q)) 64).1 with
  | .ok bs => field ((wordsOfBytes bs).getD 1 0) 16 4
  | .error _ => 16

/-- The acquire of the held load: performed, or behind a widening (R134, R195). -/
def State.acquireAt (s : State) (t pa v : Nat) : Bool × State :=
  let w := s.slotOf pa v
  if s.widens.any fun x => decide (x.key = w) && x.acquirers.contains (.sill t) then (false, s)
  else
    match s.scopeCheck w (sideScope (s.sideOf w)) (.sill t) [t] with
    | (.wait, s) | (.pending, s) => (false, s)
    | (_, s) => (true, s)

/-- Words +0 to +119 of a packet. -/
def readPacket (s : State) (seat : Nat) (c : Byte) (slot : Word) : Except FaultInfo (List Word) × State :=
  match readBeat s seat c slot 64 with
  | (.error f, s) => (.error f, s)
  | (.ok a, s) =>
    match readBeat s seat c (slot + 64) 56 with
    | (.error f, s) => (.error f, s)
    | (.ok b, s) => (.ok (wordsOfBytes (a ++ b)), s)

/-- The reclaim of the presence word (R195 step 2). -/
def reclaimPacket (s : State) (seat : Nat) (c : Byte) (va : Word) (v : Nat) : Except FaultInfo State :=
  match (checkNow s seat c va 8 needRW false).1 with
  | .ok pa _ =>
    match verReclaim s pa v with
    | .done s _ _ => .ok (s.stir pa)
    | .fault e ws => .error { cause := e, tval := va, words := ws }
    | .hold => .error { cause := notYet, tval := va, words := [] }
  | .fail e ws => .error { cause := e, tval := va, words := ws }
  | _ => .error { cause := 0x043, tval := va, words := [] }

/-- The packet at the head of queue `q` is read, reclaimed, counted and acted on. -/
def State.takePacket (s : State) (t q : Nat) : Acted :=
  match s.lookAt q with
  | .absent => .ok s
  | .wait => .wait s
  | .fail f s => .ok (s.stopQueue q (s.lqTaken q) f)
  | .ready pa s =>
    let k := s.lqTaken q
    let slot := s.lqSlot q k
    let a := s.acquireAt t pa (s.lqVersion q k)
    if !a.1 then .wait a.2
    else
      match readPacket a.2 (sillSeat t) (s.lqCtx q) slot with
      | (.error f, s) => if f.cause = notYet then .wait s else .ok (s.stopQueue q k f)
      | (.ok ws, s) =>
        match reclaimPacket s (sillSeat t) (s.lqCtx q) (slot + 120) (s.lqVersion q k) with
        | .error f => if f.cause = notYet then .wait s else .ok (s.stopQueue q k f)
        | .ok s1 =>
          let s1 := s1.stepReg (lqReg q 16) 32 32
          match ({ s1 with lastQ := s1.lastQ.set t q } : State).actPacket t q k ws slot with
          | .ok s2 => .ok (s2.push (.launchTake q))
          | .wait s2 => .wait (if s2.hostReads = s1.hostReads then s else { s with hostReads := s2.hostReads, timers := s2.timers, accs := s2.accs, out := s2.out })

/-- The launch unit of the queue's tower takes one packet, from the queue after the one last served on (R195). -/
def execLaunchTake (q : Nat) (s : State) : Out :=
  let t := s.lqTower q
  if 2 ≤ field (s.reg regPartstat) 0 4 || s.boot.stopped then .next s
  else if 64 ≤ (s.chanq.filter fun m => decide (m.agent = .sill (200 + t))).length then .next (s.later (.launchTake q))
  else
    let ring := ((List.range 64).map fun i => (s.lastQ.getD t 63 + 1 + i) % 64).filter fun x =>
      s.lqOn x && decide (s.lqTower x = t)
    let present := ring.filter fun x => match s.lookAt x with | .absent => false | _ => true
    let free := (s.freeEntry t).isSome
    match present.find? fun x => free || s.nextKind x != 0 with
    | none => .next (if present.isEmpty then s else s.later (.launchTake q))
    | some x =>
      match s.takePacket t x with
      | .ok s => .next (if x = q then s else s.push (.launchTake q))
      | .wait s => .next (s.later (.launchTake q))

/-! ### The descriptor registers (R192) -/

/-- A write of a descriptor register: BASE and LOG2N stand while V = 1; V rises only over a good LOG2N and BASE, and then
resets TAKEN and COMPLETED. -/
def execLaunchQueueWrite (addr : Nat) (x : Word) (s : State) : Out :=
  let q := (regOff addr - 0x1000) / 32
  let on := s.lqOn q
  match regOff addr % 32 with
  | 0 => .next (if on then s else s.setReg addr x)
  | 8 =>
    let new := regWritten (regSpec addr) (s.reg addr) x
    let new := if on then setField new 32 5 (field (s.reg addr) 32 5) else new
    let n := field new 32 5
    let ok := decide (1 ≤ n ∧ n ≤ 12) && decide ((s.reg (lqReg q 0)).toNat % (128 * 2 ^ n) = 0)
    if on || !new.getLsbD 63 then .next (s.setReg addr new)
    else if !ok then .next (s.setReg addr (setField new 63 1 0))
    else .next (((s.setReg addr new).setReg (lqReg q 16) 0).push (.launchTake q))
  | _ => .next (s.setReg addr (regWritten (regSpec addr) (s.reg addr) x))

/-! ### Check mode (R156, R157) -/

/-- Check mode ends without a comparison, and the launch ends as another would (R156). -/
def State.endCheck (s : State) (t i : Nat) (l : Launch) : State :=
  let l : Launch := { l with check := 0 }
  if l.unsent = 0 then s.completeLaunch t i l else s.setLaunch t i (some l)

/-- An access of the launch unit in check mode failed. -/
def State.checkFails (s : State) (t i : Nat) (l : Launch) (f : FaultInfo) : State :=
  (s.faultReport l.ctx { f with words := [f.words.headD 0, BitVec.ofNat 64 l.pkt] }).endCheck t i l

/-- Where a run stands: still running, ended by a fault, or over, each of its records DONE; the notices may be on their way
(R201). -/
inductive RunEnd where
  | running | fault | over
  deriving DecidableEq, Repr

def State.runEnd (s : State) (t i : Nat) (l : Launch) : RunEnd :=
  if !s.launchQuiet t i l then .running
  else if s.launchFaulted t i l then .fault
  else .over

/-- The list's words and the digest of its ranges as they stand. -/
def rangeDigest (s : State) (seat : Nat) (l : Launch) : Except FaultInfo (List Word × List Byte) × State :=
  match readList s seat l.ctx l.ranges with
  | (.error f, s) => (.error f, s)
  | (.ok ws, s) =>
    match digestBytes s seat l.ctx (rangesOf ws) with
    | (.ok bs, s) => (.ok (ws, sha384 bs), s)
    | (.error f, s) => (.error f, s)

/-- PSEED of a launch (R156). -/
def Launch.pseed (l : Launch) : Nat := field (mix64 (BitVec.ofNat 64 l.slot)) 0 32

/-- Run B starts, with the log's counters (R156, R162). -/
def State.startRunB (s : State) (t i : Nat) (l : Launch) (dig : List Byte) : State :=
  let chk : Word := BitVec.ofNat 64 (l.pseed * 2 ^ 32 + 3)
  let l : Launch := { l with check := 2, pids := [], unsent := l.unsent + l.starts.length, digA := dig }
  let s := if l.record then (s.updCtx l.ctx Ctxt.rewind).startCounters l.ctx else s
  (((s.setLaunch t i (some l)).pushAll (l.starts.map fun m => .startMessage { m with chk := chk }))).push (.checkRunBEnd t i)

/-- Run A is over: DIGA, the ranges restored, and run B (R156). -/
def execCheckRunAEnd (tower idx : Nat) (s : State) : Out :=
  match s.launch tower idx with
  | none => .next s
  | some l =>
    if l.check ≠ 1 then .next s
    else
      match s.runEnd tower idx l with
      | .running => .next (s.later (.checkRunAEnd tower idx))
      | .fault => .next (s.endCheck tower idx l)
      | .over =>
        match rangeDigest s (sillSeat tower) l with
        | (.error f, s') =>
          .next (if f.cause = notYet then s'.later (.checkRunAEnd tower idx) else s'.checkFails tower idx l f)
        | (.ok (ws, dig), s') =>
          match writeRange 4 s' (sillSeat tower) l.ctx (l.ranges + 16) dig with
          | (.error f, s'') =>
            .next (if f.cause = notYet then s.later (.checkRunAEnd tower idx) else s''.checkFails tower idx l f)
          | (.ok (), s'') =>
            match copyRanges s'' (sillSeat tower) l.ctx (ws.getD 1 0) true (rangesOf ws) with
            | (.error f, q) =>
              .next (if f.cause = notYet then s.later (.checkRunAEnd tower idx) else q.checkFails tower idx l f)
            | (.ok (), q) => .next (q.startRunB tower idx l dig)

/-- Run B is over: DIGB, and completion once the notices are in, or ORDER_DEPENDENT (R157, R201). -/
def execCheckRunBEnd (tower idx : Nat) (s : State) : Out :=
  match s.launch tower idx with
  | none => .next s
  | some l =>
    if l.check ≠ 2 then .next s
    else
      match s.runEnd tower idx l with
      | .running => .next (s.later (.checkRunBEnd tower idx))
      | .fault => .next (s.endCheck tower idx l)
      | .over =>
        match rangeDigest s (sillSeat tower) l with
        | (.error f, s') =>
          .next (if f.cause = notYet then s'.later (.checkRunBEnd tower idx) else s'.checkFails tower idx l f)
        | (.ok (_, dig), s') =>
          match writeRange 4 s' (sillSeat tower) l.ctx (l.ranges + 64) dig with
          | (.error f, s'') =>
            .next (if f.cause = notYet then s.later (.checkRunBEnd tower idx) else s''.checkFails tower idx l f)
          | (.ok (), q) =>
            if dig = l.digA then .next (q.endCheck tower idx l)
            else
              let first := fun (bs : List Byte) => BitVec.ofNat 64 (bytesToNat (bs.take 8))
              let q := q.faultReport l.ctx { cause := 0x101, tval := l.ranges, words := [first l.digA, first dig, l.ranges] }
              .next (if l.unsent = 0 then q.leaveTable tower idx l
                     else q.setLaunch tower idx (some { l with check := 3 }))

end Sys2Proof.Machine
end

