-- ==== Sys2Proof/Machine/Blocks.lean ====
section
/-! DEFINITION. The register blocks of space 3 as software reads and writes them (spec/02 R37 and the tables it names), and an
access at its owner, in whatever space the owner stands (spec/03 R64, spec/17 R420). -/

namespace Sys2Proof.Machine

/-! ### What a read finds (R5, R37) -/

/-- The code of a scoreboard entry's class (R74). -/
def scoreClass (c : CntClass) : Nat :=
  match c with
  | .none | .loads => 0 | .stores => 1 | .copies => 2 | .matrix => 3 | .transfers => 4

/-- A word of the range scoreboard (R74): the live entries, oldest first, stand in the lowest numbers. DESIGN CHOICE, log entry 88. -/
def State.readScore (s : State) (core o : Nat) : Word :=
  match (s.core core).score[(o - 0x800) / 16]? with
  | none => 0
  | some e =>
    if o % 16 = 0 then e.base
    else BitVec.ofNat 64 (2 ^ 63 + (if e.write then 2 ^ 62 else 0) + e.slot % 8 * 2 ^ 59 + scoreClass e.cls * 2 ^ 56 + e.len % 2 ^ 40)

/-- LPOOL (R325). -/
def Bench.lpool (b : Bench) : Word := BitVec.ofNat 64 ((16 - b.used) * 2 ^ 16 + min 255 b.claims.length * 2 ^ 8)

/-- MARB (R373). -/
def Bench.marb (b : Bench) : Word :=
  let free := (List.range 4).foldl (fun n k => if (b.owners.toList.getD k none).isNone then n + 2 ^ k else n) 0
  BitVec.ofNat 64 (b.grants.toNat * 2 ^ 32 + (if b.held then 2 ^ 23 else 0) + b.hcore % 8 * 2 ^ 20 + b.hslot % 8 * 2 ^ 17 +
    min 64 b.ncmd * 2 ^ 7 + free)

/-- MBANK (R373). -/
def Bench.mbank (b : Bench) : Word :=
  BitVec.ofNat 64 ((List.range 4).foldl (fun n k =>
    match b.owners.toList.getD k none with
    | none => n
    | some o => n + (2 ^ 15 + o.2.1 % 8 * 2 ^ 9 + o.2.2 % 8 * 2 ^ 6) * 2 ^ (16 * k)) 0)

/-- A word of a barometer table (R209). -/
def State.readBarometer (s : State) (o : Nat) : Word :=
  let i := (o - 0x2000) / 0x400
  if !s.computes i then 0
  else
    match (s.barometer i)[o % 0x400 / 8]? with
    | none => 0
    | some e => BitVec.ofNat 64 (e.2 % 2 ^ 12 * 2 ^ 20 + (s.core e.1).ndis * 2 ^ 8 + e.1 % 128)

/-- A context switch is in progress (R408). -/
def State.switching (s : State) : Bool :=
  (s.agenda ++ s.blocked).any fun e => match e with | .contextEvict _ | .contextRestore _ => true | _ => false

def State.switchCtx (s : State) : Byte := BitVec.ofNat 8 (field (s.reg (blockAddr 0 0 0x200)) 8 8)

/-- Microseconds left of the host wake (R421). -/
def State.wakeLeft (s : State) : Nat :=
  match s.timers.find? fun t => decide (t.2 = .hwakeExpire) with
  | some t => ceilDiv (t.1 - s.clk) Config.cyclesPerUs
  | none => 0

/-- The hottest of the sensors numbered from `lo`, with its number (R454). -/
def State.hottest (s : State) (lo n : Nat) : Nat × Nat :=
  (List.range n).foldl (fun m i => if m.1 < SMap.get 0 s.temps (lo + i) then (SMap.get 0 s.temps (lo + i), i) else m) (0, 0)

/-- A register of the package management block. Powers of single towers have no input in the model: they read as free
values (DESIGN CHOICE, log entry 5). -/
def State.readMgmt (s : State) (a : Nat) : Word × State :=
  let o := regOff a
  if o = 0x208 then
    let x := s.ctx s.switchCtx
    (BitVec.ofNat 64 (x.chain.length * 2 ^ 32 + (if s.switching then 4 else 0) + (if x.evicted then 2 else 0) +
      field (s.reg a) 0 1), s)
  else if o = 0x210 then (BitVec.ofNat 64 ((s.ctx s.switchCtx).chain.headD 0), s)
  else if o = 0x320 then
    (if (s.reg a).getLsbD 0 then setField (s.reg a) 1 31 s.wakeLeft else s.reg a, s)
  else if o = 0x708 then
    let f := s.freeWord
    (BitVec.ofNat 64 (s.watts % 2 ^ 16 * 2 ^ 48 + field f.1 16 32 * 2 ^ 16 +
      (if 0 < s.pwrStep ∧ !s.boot.minimal then 1 else 0)), f.2)
  else if o = 0x710 then
    let d := s.hottest 0 1024
    let h := s.hottest 1024 12
    (BitVec.ofNat 64 (d.1 % 2 ^ 12 * 2 ^ 52 + h.1 % 2 ^ 12 * 2 ^ 40 + h.2 * 2 ^ 36), s)
  else if 0x2000 ≤ o ∧ o < 0x4000 then (s.readBarometer o, s)
  else (s.reg a, s)

/-- A register of a bench block (R74, R325, R373). On a STORE or DARK layer, of which the spec says nothing, its registers and
core pages read and keep their values as on a COMPUTE layer. DESIGN CHOICE, log entry 87. -/
def State.readBench (s : State) (a : Nat) : Word :=
  let o := regOff a
  let b := 64 * regTower a + (regBlock a - 0x40)
  if o < 0x8000 then
    (if 0x800 ≤ o % 0x1000 ∧ o % 0x1000 < 0x900 then s.readScore (8 * b + o / 0x1000) (o % 0x1000) else s.reg a)
  else if o = 0x8100 then (s.bench b).lpool
  else if o = 0x8200 then (s.bench b).marb
  else if o = 0x8208 then (s.bench b).mbank
  else 0

/-- The word that a load of a register returns. A memory server's count of busy cycles is a matter of timing: a free value
(DESIGN CHOICE, log entry 14). -/
def State.readReg (s : State) (a : Nat) : Word × State :=
  let b := regBlock a
  if b = 0x00 then s.readMgmt a
  else if 0x08 ≤ b ∧ b ≤ 0x0D ∧ regOff a = 0x010 then s.freeWord
  else if 0x40 ≤ b then (s.readBench a, s)
  else (s.reg a, s)

/-! ### What a write does (R5, R37) -/

/-- Bits that software may write change; nothing else does. -/
def State.writePlainReg (s : State) (a : Nat) (x : Word) : State := s.setReg a (regWritten (regSpec a) (s.reg a) x)

/-- THERMCTL: TRES at or above TDIS changes nothing; a PERIOD of 0 holds at 1 (R209). -/
def State.writeThermctl (s : State) (a : Nat) (x : Word) : State :=
  if field x 36 12 ≤ field x 24 12 then s else s.writePlainReg a (if field x 16 8 = 0 then setField x 16 8 1 else x)

/-- The context switch: an action that cannot begin sets BAD (R408). -/
def State.writeSwitch (s : State) (a : Nat) (x : Word) : State :=
  let busy := s.switching
  let s := s.writePlainReg a x
  let c := s.switchCtx
  let out_ := (s.ctx c).evicted
  match field x 0 2 with
  | 1 => if busy || out_ then s.setRegBit (blockAddr 0 0 0x208) 0 else s.push (.contextEvict c)
  | 2 => if busy || !out_ then s.setRegBit (blockAddr 0 0 0x208) 0 else s.push (.contextRestore c)
  | _ => s

/-- HWAKE: the count runs while ARM = 1 (R421). -/
def State.writeHwake (s : State) (a : Nat) (x : Word) : State :=
  let s : State := { s.writePlainReg a x with timers := s.timers.filter fun t => decide (t.2 ≠ .hwakeExpire) }
  if x.getLsbD 0 then s.after (field x 1 31 * Config.cyclesPerUs) .hwakeExpire else s

/-- ATTCTL: BAD is cleared by a 1, and GO starts a report (R451). -/
def writeAttctl (s : State) (x : Word) : Out :=
  let s := s.writePlainReg regAttctl x
  if x.getLsbD 0 then execAttctlGo s else .next s

/-- A write to the package management block. -/
def writeMgmt (s : State) (a : Nat) (x : Word) : Out :=
  let o := regOff a
  if o = 0x008 then execPartGo x s
  else if o = 0x180 then .next (s.writeThermctl a x)
  else if o = 0x200 then .next (s.writeSwitch a x)
  else if o = 0x320 then .next (s.writeHwake a x)
  else if o = 0x408 then s.writeRstctl x
  else if 0x4A0 ≤ o ∧ o < 0x4D0 then .next (if (s.reg regAttctl).getLsbD 1 then s else s.writePlainReg a x)
  else if o = 0x4D0 then writeAttctl s x
  else if o = 0x500 then (if x.getLsbD 0 then execCalc s else .next s)
  else if 0x1000 ≤ o ∧ o < 0x1800 then execLaunchQueueWrite a x s
  else .next (s.writePlainReg a x)

/-- A write to the protection block (R40, R53, R57). -/
def writeProt (s : State) (a : Nat) (x : Word) : Out :=
  let o := regOff a
  if o = 0x000 ∧ field x 0 8 = 0xFF then .next s
  else if o = 0x048 then
    (match field x 0 2 with
     | 1 => execFrzctlResume x s
     | 2 => execFrzctlDiscard x s
     | _ => .next s)
  else .next (s.writePlainReg a x)

/-- A write to the Zhovin block: a route that now has an UP link lets held flits go (R414). DEDUCED, log entry 72. -/
def writeZhovin (s : State) (a : Nat) (x : Word) : Out :=
  let s := s.writePlainReg a x
  .next (if 0x4000 ≤ regOff a ∧ regOff a < 0x4800 then s.release else s)

/-- A write to the host port's block (R419). -/
def writeHostBlock (s : State) (a : Nat) (x : Word) : Out :=
  let o := regOff a
  if 0x800 ≤ o ∧ o < 0xA00 ∧ o % 8 = 0 then .next (s.push (.msixSend ((o - 0x800) / 8))) else .next (s.writePlainReg a x)

/-- A write to the collective engine's block (R393, R426). -/
def writeColl (s : State) (a : Nat) (x : Word) : Out :=
  let o := regOff a
  if o = 0x000 then .next (if s.anns.all fun e => e.1.isNone then s.writePlainReg a x else s)
  else if o = 0x008 then .next (if 0x100000 < field x 0 21 then s else (s.writePlainReg a x).poolCount)
  else if 0x1000 ≤ o ∧ o < 0x1200 ∧ o % 8 = 0 then execTrussQueueWrite a x s
  else .next (s.writePlainReg a x)

/-- A write to FLTRES (R405). -/
def writeFltres (s : State) (core : Nat) (x : Word) : Out :=
  match field x 62 2 with
  | 1 => execFltresRetry core x s
  | 2 => execFltresSkip core x s
  | 3 => execFltresDiscard core x s
  | _ => .next s

/-- A write to a bench block: registers of a core's page (R74, R166, R405); the array's and the pool's ignore writes. -/
def writeBench (s : State) (a : Nat) (x : Word) : Out :=
  let o := regOff a
  let core := 8 * (64 * regTower a + (regBlock a - 0x40)) + o / 0x1000
  if 0x8000 ≤ o then .next s
  else if o % 0x1000 = 0x900 then execPoolHeadWrite core x s
  else if o % 0x1000 = 0x910 then execRecfree core x s
  else if o % 0x1000 = 0xA00 then writeFltres s core x
  else .next (s.writePlainReg a x)

/-- A register write that has passed its checks, at its block (R5, R37). -/
def execRegisterWrite (addr : Nat) (x : Word) (s : State) : Out :=
  let b := regBlock addr
  if b = 0x00 then writeMgmt s addr x
  else if b = 0x01 then writeProt s addr x
  else if b = 0x10 then
    (if 0x20000 ≤ regOff addr then .next s
     else if 0x2000 ≤ regOff addr % 0x10000 ∧ regOff addr % 0x10000 < 0x2800 then execRingDescriptorWrite addr x s
     else execPortRegisterWrite addr x s)
  else if b = 0x11 then writeZhovin s addr x
  else if b = 0x12 then writeHostBlock s addr x
  else if b = 0x20 then writeColl s addr x
  else if 0x40 ≤ b then writeBench s addr x
  else .next (s.writePlainReg addr x)

/-! ### An access at its owner (R64) -/

/-- Checks of a write that its block makes: the pool registers and the fault registers need SUP, and FLTRES the faulting
context or context 0 (R166, R405). -/
def State.mayWrite (s : State) (c : Byte) (a : Nat) (x : Word) : Bool :=
  let o := regOff a % 0x1000
  let page := decide (0x40 ≤ regBlock a) && decide (regOff a < 0x8000)
  let pool := decide (0x900 ≤ o ∧ o < 0x920)
  let flt := decide (0xA00 ≤ o ∧ o < 0xA18)
  let named := s.proc (fltPid x)
  !page || !(pool || flt) ||
    ((s.desc c).sup && (o != 0xA00 || c == 0 || decide (named.pid ≠ fltPid x) || named.st == .free || named.ctx == c))

/-- An access to a register block at its block. -/
def registerAccess (r : Req) (s : State) : Out :=
  let truss := decide (regBlock r.pa = 0x21)
  match r.op with
  | .load _ =>
    if truss then execTrussPop r s
    else
      let x := s.readReg r.pa
      .next (x.2.complete r x.1 0 .none false)
  | .store x =>
    if truss then execTrussPush r s
    else if !s.mayWrite r.ctx r.pa x then .next (s.failAt r { cause := 0x043, tval := r.va, words := [] } false)
    else
      (match execRegisterWrite r.pa x s with
       | .next s => .next (s.complete r 0 0 .none false)
       | o => o)
  | _ => .next (s.failAt r { cause := 0x043, tval := r.va, words := [] } false)

/-- The bytes of host memory that an access reads: a nibble comes with its 8-byte word. -/
def hostSpan (r : Req) : Nat × Nat :=
  match r.op with
  | .nibble _ _ => (r.pa / 8 * 8, 8)
  | _ => (r.pa, r.size)

/-- An access to host memory (R420): a read goes out under a tag, once there is one; a write is posted. -/
def hostAccess (r : Req) (s : State) : State :=
  match r.op with
  | .load _ | .nibble _ _ =>
    if 1024 ≤ s.hostReads.length then s.later (.ownerAccess r) else s.startHostRead r (hostSpan r).1 (hostSpan r).2
  | .store x =>
    ({ s with out := .hostWrite r.pa (natToBytes r.size (x.toNat % 2 ^ (8 * r.size))) :: s.out }).complete r 0 0 .none false
  | _ => s.failAt r { cause := 0x043, tval := r.va, words := [] } false

/-- An access is performed at its owner (R64, R420; R37 for registers). -/
def execOwnerAccess (r : Req) (s : State) : Out :=
  if r.space = 3 then registerAccess r s
  else if r.space = 1 then .next (hostAccess r s)
  else .next (s.serve r)

end Sys2Proof.Machine
end

