-- ==== Sys2Proof/Machine/Determinism.lean ====
section
/-! DEFINITION. Commit turns and commits of level 2 chunks (spec/07 R149–R154). -/

namespace Sys2Proof.Machine

/-! ### The commit list (R151) -/

/-- The key of a process in its list: home logical core, then creation number; records of an earlier level that share both
stand by address (DEDUCED, log entry 47). -/
def Proc.turnKey (p : Proc) : Nat := (p.home * 2 ^ 40 + p.created) * 2 ^ 64 + p.pid

/-- A process joins a list at its key. -/
def insertTurn (p : Proc) (ps : List Proc) : List Proc :=
  match ps with
  | [] => [p]
  | q :: r => if p.turnKey ≤ q.turnKey then p :: q :: r else q :: insertTurn p r

/-- The commit list of a domain: live level 2 processes whose home core lies there, in ascending key. -/
def State.commitList (s : State) (d : Nat) : List Proc :=
  (s.allProcs.filter fun p =>
    !p.isHelper && !p.rc && decide (p.pid ≠ 0) && p.st != .free && p.st != .done && decide (s.levelOf p.ctx = 2) &&
    decide (s.domainOf p = d)).foldr insertTurn []

/-- RUNNING or READY: the arbiter commits its chunk or waits until it ends. -/
def Proc.takesTurn (p : Proc) : Bool := (p.st == .running || p.st == .ready) && !p.turnWait

/-- The chunk has ended: no bundle of it is to come, and the sequencer adds nothing to it. -/
def Proc.chunkOver (p : Proc) : Bool :=
  match p.chunk with
  | some c => c.ended && !c.granted && (p.seqIdle || p.seqStop || c.seqWaits != 0)
  | none => false

/-- Work of a commit turn is still to be done. -/
def Proc.inTurn (p : Proc) : Bool := p.takesTurn && p.chunk.elim false fun c => c.granted

/-- What a commit set in motion has come to rest: only turns and standing steps are in flight. DEDUCED, log entry 47. -/
def State.settled (s : State) : Bool :=
  s.agenda.all fun e => e.standing || (match e with | .commitTurn _ => true | _ => false)

/-- The process whose turn is next: the first from the last key served on that takes it; past the end of the list a
new pass begins, which every process takes part in. DEDUCED, log entry 47. -/
def State.nextTurn (s : State) (d : Nat) : Option Proc × State :=
  let ps := s.commitList d
  match ps.find? fun p => p.takesTurn && decide (SMap.get 0 s.commitAt d ≤ p.turnKey) with
  | some p => (some p, s)
  | none =>
    let s := ps.foldl (fun s p => if p.turnWait then s.updProc p.pid fun p => { p with turnWait := false } else s)
      { s with commitAt := SMap.put 0 s.commitAt d 0 }
    ((s.commitList d).find? Proc.takesTurn, s)

/-- The turn passes to the next in the list. -/
def State.turnPasses (s : State) (d : Nat) (p : Proc) : State :=
  { s with turns := SMap.put (0, 0) s.turns d (0, 0), commitAt := SMap.put 0 s.commitAt d (p.turnKey + 1) }.push (.commitTurn d)

/-- The arbiter waits; it looks again while a chunk of the domain awaits its turn. -/
def State.turnWaits (s : State) (d : Nat) : State :=
  if SMap.get (0, 0) s.turns d ≠ (0, 0) || (s.commitList d).any Proc.chunkOver then
    (if s.blocked.contains (.commitTurn d) then s else s.later (.commitTurn d))
  else s

/-- A step of a domain's commit arbiter (R151, R152). -/
def execCommitTurn (domain : Nat) (s : State) : Out :=
  let t := SMap.get (0, 0) s.turns domain
  let p := s.proc t.1
  if t = (0, 0) then
    match s.nextTurn domain with
    | (none, s) => .next s
    | (some p, s) =>
      if p.chunkOver then .next ({ s with turns := SMap.put (0, 0) s.turns domain (p.pid, 0) }.push (.chunkCommit p.pid))
      else .next (s.turnWaits domain)
  else if t.2 = 1 then
    (if p.inTurn then .next (s.turnWaits domain)
     else if s.settled then .next (s.turnPasses domain p)
     else .next (s.push (.commitTurn domain)))
  else if p.chunkOver then .next (s.push (.chunkCommit p.pid))
  else if p.pid = t.1 ∧ p.takesTurn then .next (s.turnWaits domain)
  else .next (s.turnPasses domain p)

/-! ### A commit (R152) -/

/-- A unit of the chunk's read set has been written by a commit of the domain since the chunk's first read. -/
def State.conflicts (s : State) (d : Nat) (c : Chunk) : Bool :=
  !c.reads.isEmpty && s.commits.any fun e => decide (e.1 = d) && decide (c.first < e.2.1) && e.2.2.any fun u => c.reads.contains u

/-- Commits that no chunk of the domain can conflict with any more are forgotten. -/
def State.pruneCommits (s : State) (d : Nat) : State :=
  let oldest := (s.commitList d).foldl (fun n p => match p.chunk with
    | some c => if c.reads.isEmpty || c.granted then n else min n c.first
    | none => n) s.clk
  { s with commits := s.commits.filter fun e => decide (e.1 ≠ d) || decide (oldest ≤ e.2.1) }

/-- One word of the write buffer reaches its owner, or the fault with which the owner refuses it. -/
def commitWord (s : State) (p : Proc) (c : Chunk) (e : Nat × Nat × Word) : Except (FaultInfo × State) State :=
  match s.plainWrite e.1 e.2.2 e.2.1 (if c.rel.contains e.1 then 6 else 0) p.core p.unit with
  | .ok s => .ok s
  | .error (f, t) =>
    .error ({ cause := f, tval := BitVec.ofNat 64 e.1, words := if f = 0x062 then [s.verWord e.1 3 0] else [] }, t)

/-- Every word of the write buffer, then the waiters of the words; with the first refusal. -/
def commitWords (s : State) (p : Proc) (c : Chunk) : State × Option FaultInfo :=
  let r := c.writes.foldl (fun (x : State × Option FaultInfo) e =>
    match commitWord x.1 p c e with
    | .ok s => (s, x.2)
    | .error (f, t) => (t, x.2.orElse fun _ => some f)) (s, none)
  (c.writes.foldl (fun s e => s.stir e.1) r.1, r.2)

/-- Every command that the chunk holds finds a place in its queue (R154). -/
def State.cmdsFit (s : State) (c : Chunk) : Bool :=
  c.cmds.all fun h =>
    match h with
    | .eng q _ =>
      decide ((s.engine q).cmds.length + (c.cmds.filter fun x => match x with | .eng r _ => decide (r = q) | _ => false).length
        ≤ Config.engQueue)
    | .post _ => decide (s.posts.length + (c.cmds.filter fun x => match x with | .post _ => true | _ => false).length ≤ 1024)
    | .mat core _ =>
      decide (((s.mats core).filter fun i => i.op.counts).length +
        (c.cmds.filter fun x => match x with | .mat r i => decide (r = core) && i.op.counts | _ => false).length ≤ Config.matQueue)

/-- After the chunk's stores: commands are sent, and what R149 performs at the commit is performed, or the turn passes. -/
def State.publish (s : State) (d : Nat) (p : Proc) (c : Chunk) : State :=
  let s : State := { s with turns := SMap.put (0, 0) s.turns d (p.pid, 1) }
  let s := c.cmds.foldl State.sendHeld s
  if c.boundary || c.seqWaits == 1 then
    (s.updProc p.pid fun p => { p with chunk := some { c with granted := true, writes := [], cmds := [] } }).kick p.pid
  else ((s.updProc p.pid fun p => { p with chunk := none }).kick p.pid).push (.commitTurn d)

/-- A chunk commits at its turn: on a conflict it is squashed and runs again while the turn is held; else its words reach
their owners together and what they hold back follows (R152). -/
def execChunkCommit (pid : Nat) (s : State) : Out :=
  let p := s.proc pid
  let d := s.domainOf p
  match p.chunk with
  | none => .next s
  | some c =>
    if !p.chunkOver || SMap.get (0, 0) s.turns d != (pid, 0) then .next s
    else if c.writes.any (fun e => s.isLocked e.1) || !s.cmdsFit c then .next (s.later (.chunkCommit pid))
    else if s.conflicts d c then .next ((s.squash pid).kick pid)
    else
      let r := commitWords s p c
      let s := r.1
      let s : State := { s with commits := s.commits ++ [(d, s.clk, (c.writes.map fun e => e.1 / 64).eraseDups)] }
      let s := s.pruneCommits d
      match r.2 with
      | none => .next (s.publish d p c)
      | some f =>
        let s := s.publish d p { c with boundary := false, seqWaits := 0 }
        .next (s.faultProc pid f
          { atIssue := false, pc := c.pc, req := none, redo := none, writes := [], cls := .none, sn := 0, entry := false,
            again := none } false)

end Sys2Proof.Machine
end

