-- ==== Sys2Proof/Machine/Float.lean ====
section
/-! DEFINITION. The scalar floating-point A-words (spec/12 R267–R270), over the arithmetic of Fp.lean. -/

namespace Sys2Proof.Machine

/-- f32 sum (R267). -/
def execFadd (d a b : Reg) (s : State) : Out := fpArith s d a b faddOp

/-- f32 difference (R267). -/
def execFsub (d a b : Reg) (s : State) : Out := fpArith s d a b fsubOp

/-- f32 product (R267). -/
def execFmul (d a b : Reg) (s : State) : Out := fpArith s d a b fmulOp

/-- f32 quotient (R267). -/
def execFdiv (d a b : Reg) (s : State) : Out := fpArith s d a b fdivOp

/-- f32 square root (R267). -/
def execFsqrt (d a : Reg) (s : State) : Out :=
  let x := toW32 (s.g a)
  subChecked s [x]
    (let r := fsqrtOp (s.mode false) x
     .next (s.setFp d (ofW32 r.1) r.2 s.cur.rs))

/-- Numeric minimum, by R251 (R267). -/
def execFmin (d a b : Reg) (s : State) : Out :=
  .next (s.setG d (ofW32 (fminOp (toW32 (s.g a)) (toW32 (s.g b)))))

/-- Numeric maximum, by R251 (R267). -/
def execFmax (d a b : Reg) (s : State) : Out :=
  .next (s.setG d (ofW32 (fmaxOp (toW32 (s.g a)) (toW32 (s.g b)))))

/-- The operand with the smaller key (R267). -/
def execFmint (d a b : Reg) (s : State) : Out :=
  .next (s.setG d (ofW32 (fmintOp (toW32 (s.g a)) (toW32 (s.g b)))))

/-- The operand with the larger key (R267). -/
def execFmaxt (d a b : Reg) (s : State) : Out :=
  .next (s.setG d (ofW32 (fmaxtOp (toW32 (s.g a)) (toW32 (s.g b)))))

/-- Sign bit cleared (R267). -/
def execFabs (d a : Reg) (s : State) : Out := .next (s.setG d (ofW32 (toW32 (s.g a) &&& 0x7FFFFFFF)))

/-- Sign bit inverted (R267). -/
def execFneg (d a : Reg) (s : State) : Out := .next (s.setG d (ofW32 (toW32 (s.g a) ^^^ 0x80000000)))

/-- Magnitude of a with the sign of b (R267). -/
def execFsgnj (d a b : Reg) (s : State) : Out :=
  .next (s.setG d (ofW32 ((toW32 (s.g a) &&& 0x7FFFFFFF) ||| (toW32 (s.g b) &&& 0x80000000))))

/-- a × b + c, rounded once (R268). -/
def execFmadd (d a b c : Reg) (s : State) : Out := fpFma s d a b c false false

/-- a × b − c, rounded once (R268). -/
def execFmsub (d a b c : Reg) (s : State) : Out := fpFma s d a b c false true

/-- −(a × b) − c, rounded once (R268). -/
def execFnmadd (d a b c : Reg) (s : State) : Out := fpFma s d a b c true true

/-- −(a × b) + c, rounded once (R268). -/
def execFnmsub (d a b c : Reg) (s : State) : Out := fpFma s d a b c true false

/-- Numeric equality (R269). -/
def execFeq (d a b : Reg) (s : State) : Out :=
  .next (s.setG d (ofBool (feqOp (toW32 (s.g a)) (toW32 (s.g b)))))

/-- Numeric less (R269). -/
def execFlt (d a b : Reg) (s : State) : Out :=
  .next (s.setG d (ofBool (fltOp (toW32 (s.g a)) (toW32 (s.g b)))))

/-- Numeric less or equal (R269). -/
def execFle (d a b : Reg) (s : State) : Out :=
  .next (s.setG d (ofBool (fleOp (toW32 (s.g a)) (toW32 (s.g b)))))

/-- Either is a NaN (R269). -/
def execFunord (d a b : Reg) (s : State) : Out :=
  .next (s.setG d (ofBool (funordOp (toW32 (s.g a)) (toW32 (s.g b)))))

/-- The class of a, one bit set (R269). -/
def execFclass (d a : Reg) (s : State) : Out := .next (s.setG d (BitVec.ofNat 64 (fclassOp (toW32 (s.g a)))))

/-- The order key of a (R269). -/
def execFkey (d a : Reg) (s : State) : Out := .next (s.setG d (ofW32 (keyOf (toW32 (s.g a)))))

/-- f32 from a signed 32-bit integer (R249, R270). -/
def execFcvtF32S32 (d a : Reg) (s : State) : Out :=
  fpConv s d [] (ofIntV fmtF32 (s.mode true) (toW32 (s.g a)).toInt)

/-- f32 from a signed 64-bit integer (R249, R270). -/
def execFcvtF32S64 (d a : Reg) (s : State) : Out := fpConv s d [] (ofIntV fmtF32 (s.mode true) (s.g a).toInt)

/-- f32 from an unsigned 32-bit integer (R249, R270). -/
def execFcvtF32N32 (d a : Reg) (s : State) : Out :=
  fpConv s d [] (ofIntV fmtF32 (s.mode true) ((toW32 (s.g a)).toNat : Int))

/-- Signed 32-bit integer from f32, sign-extended (R248, R270). -/
def execFcvtS32F32 (d a : Reg) (s : State) : Out := fpToInt s d a 32 (-(2 ^ 31)) (2 ^ 31 - 1) true

/-- Signed 64-bit integer from f32 (R248, R270). -/
def execFcvtS64F32 (d a : Reg) (s : State) : Out := fpToInt s d a 64 (-(2 ^ 63)) (2 ^ 63 - 1) true

/-- Unsigned 32-bit integer from f32 (R248, R270). -/
def execFcvtN32F32 (d a : Reg) (s : State) : Out := fpToInt s d a 32 0 (2 ^ 32 - 1) false

/-- f32 from bf16; a subnormal bf16 source is an arithmetic use (R241, R247). -/
def execFcvtF32Bf16 (d a : Reg) (s : State) : Out :=
  let x := field (s.g a) 0 16
  if s.trapsSub && isSubF fmtBf16 x then raiseO s 0x080 (BitVec.ofNat 64 x)
  else fpConv s d [] (convF fmtBf16 fmtF32 (s.mode true) true x)

/-- bf16 from f32 (R247). -/
def execFcvtBf16F32 (d a : Reg) (s : State) : Out :=
  let x := toW32 (s.g a)
  fpConv s d [x] (convF fmtF32 fmtBf16 (s.mode true) true x.toNat)

/-- f32 from e4m3, exact (R247). -/
def execFcvtF32E4m3 (d a : Reg) (s : State) : Out :=
  fpConv s d [] (convF fmtE4m3 fmtF32 (s.mode true) false (field (s.g a) 0 8))

/-- e4m3 from f32 (R245). -/
def execFcvtE4m3F32 (d a : Reg) (s : State) : Out :=
  fpConv s d [] (convF fmtF32 fmtE4m3 (s.mode true) false (toW32 (s.g a)).toNat)

/-- f32 from e2m1, exact (R247). -/
def execFcvtF32E2m1 (d a : Reg) (s : State) : Out :=
  fpConv s d [] (convF fmtE2m1 fmtF32 (s.mode true) false (field (s.g a) 0 4))

/-- e2m1 from f32 (R246). -/
def execFcvtE2m1F32 (d a : Reg) (s : State) : Out :=
  fpConv s d [] (convF fmtF32 fmtE2m1 (s.mode true) false (toW32 (s.g a)).toNat)

end Sys2Proof.Machine
end

