-- ==== Sys2Proof/Machine/HostPort.lean ====
section
/-! DEFINITION. What the host does to the package (spec/17 R416–R421), and the management port (spec/21 R455). -/

namespace Sys2Proof.Machine

/-! ### When the port answers (R26, R447, R450, R454) -/

/-- The package answers nothing: no power, or held in reset by a thermal trip. -/
def State.silent (s : State) : Bool := !s.boot.powered || s.boot.trip

/-- A host access that reaches nothing is counted and posts nothing (R418). -/
def State.hostLost (s : State) : State := s.bumpReg regHdrop 0 32

/-- What a BAR read returns. -/
def State.hostSees (s : State) (x : Word) : State := { s with out := .hostData x :: s.out }

/-- A read that is dropped returns all ones (R417, R419). -/
def State.hostOnes (s : State) (read : Bool) : State := if read then s.hostSees (BitVec.allOnes 64) else s

/-- An earlier posted write of the host still waits: the next one waits behind it (R418). -/
def State.hostBehind (s : State) : Bool :=
  s.blocked.any fun e => match e with | .hostLaunchWrite _ _ | .hostAperture _ _ _ => true | _ => false

/-! ### BAR 0 (R417) and its MSI-X structures (PRESUMED, log entry 15) -/

/-- The reset value of an MSI-X table word: each vector is masked. PRESUMED, log entry 15. -/
def msixDefault (k : Nat) : Word := if k < 128 ∧ k % 2 = 1 then 2 ^ 32 else 0
def State.msixWord (s : State) (k : Nat) : Word := SMap.get 0 s.msix k ^^^ msixDefault k
def State.setMsix (s : State) (k : Nat) (x : Word) : State := { s with msix := SMap.put 0 s.msix k (x ^^^ msixDefault k) }

/-- A vector is sent, or stands pending under its mask (R419). -/
def execMsixSend (vector : Nat) (s : State) : Out :=
  if 64 ≤ vector then .next s
  else if (s.msixWord (2 * vector + 1)).getLsbD 32 then .next (s.setMsix 128 (s.msixWord 128 ||| BitVec.ofNat 64 (2 ^ vector)))
  else .next { s with out := .msix vector :: s.out }

/-- A word of the MSI-X table is written; a pending vector whose mask is lifted is sent. PRESUMED, log entry 15. -/
def State.writeMsix (s : State) (k : Nat) (x : Word) : State :=
  let s := s.setMsix k x
  let v := k / 2
  if k % 2 = 1 ∧ !x.getLsbD 32 ∧ (s.msixWord 128).getLsbD v then
    (s.setMsix 128 (s.msixWord 128 &&& ~~~BitVec.ofNat 64 (2 ^ v))).push (.msixSend v)
  else s

/-- A BAR 0 access of 8 bytes at a register of block 0x00, under context 0 (R37, R38, R418). DEDUCED, log entry 71. -/
def bar0Register (offset : Nat) (data : Option Word) (s : State) : Out :=
  let a := blockAddr 0 0 offset
  let deny := fun (cause : Nat) =>
    Host.Outcome.next ((s.hostDrop 0 { cause := cause, tval := BitVec.ofNat 64 a, words := [] }).hostOnes data.isNone)
  if offset % 8 ≠ 0 then deny 0x040
  else if !s.boot.started && !(s.desc 0).valid then deny 0x043
  else
    match data with
    | some x => execRegisterWrite a x s
    | none =>
      let r := s.readReg a
      .next (r.2.hostSees r.1)

/-- A BAR 0 access (R417). Before READY only reads of block 0x00 and writes of RSTCTL are served (R447). DEDUCED, log entry 71. -/
def execHostBar0 (offset : Nat) (data : Option Word) (s : State) : Out :=
  if s.silent then .next s
  else if offset < 0x800000 then
    (if s.boot.started && data.isSome && decide (offset ≠ 0x408) then .next s.hostLost else bar0Register offset data s)
  else if s.boot.started || offset % 8 ≠ 0 then .next (s.hostLost.hostOnes data.isNone)
  else
    let k := (offset - 0x800000) / 8
    let table := decide (k < 128)
    let pba := decide (offset = 0x800800)
    if !(table || pba) then .next (s.hostLost.hostOnes data.isNone)
    else
      match data with
      | none => .next (s.hostSees (s.msixWord (if table then k else 128)))
      | some x => .next (if table then s.writeMsix k x else s)

/-! ### BAR 2 (R417, R418) -/

/-- The next part of a write to a slot area: up to a presence word, the presence word, or what follows it. -/
def slotPart (x n : Nat) : Nat :=
  let k := x % 128
  min n (if k < 120 then min (120 - k) (64 - k % 64) else 128 - k)

/-- The parts of a host write, in posted order: a write at +120 of a slot is a `stv` with release order at scope 6, any
other a plain store. What a check refuses is dropped, counted and posted under the queue's context. -/
def slotWrites (fuel : Nat) (s : State) (c : Byte) (base : Word) (x : Nat) (bs : List Byte) : State :=
  match fuel with
  | 0 => s
  | f + 1 =>
    if bs.isEmpty then s
    else
      let n := slotPart x bs.length
      let va := base + BitVec.ofNat 64 x
      let part := bs.take n
      let s :=
        if x % 128 = 120 then
          let w : Word := BitVec.ofNat 64 (bytesToNat part)
          let k := checkNow s hostSeat c va 8 needWr false
          match k.1 with
          | .ok pa space =>
            if space ≠ 2 then k.2.hostDrop c { cause := 0x063, tval := va, words := [] }
            else
              let r : Req :=
                { agent := .host, core := 1024, unit := 12, ctx := c, va := va, pa := pa, space := space, size := 8,
                  op := .stv (w.setWidth 8) w, ord := .rel, scope := 6, rd := 0, pc := 0, sn := k.2.accs + 1 }
              { k.2 with accs := k.2.accs + 1 }.serve r
          | .fail e ws => k.2.hostDrop c { cause := e, tval := va, words := ws }
          | _ => k.2.hostDrop c { cause := 0x043, tval := va, words := [] }
        else
          match writeBeat s hostSeat c va part 0 with
          | (.ok _, s) => s
          | (.error e, s) => s.hostDrop c e
      slotWrites f s c base (x + n) (bs.drop n)

/-- A handler has locked a byte of the slots written: the write waits (R186). -/
def State.slotsLocked (s : State) (a n : Nat) : Bool :=
  (List.range (n / 64 + 2)).any fun i => s.isLocked (a + 64 * i)

/-- A host read of 8 bytes of a slot area, as one of the queue's CTX; a refused read returns all ones (R417, R418). -/
def slotRead (s : State) (c : Byte) (va : Word) : State :=
  match readBeat s hostSeat c va 8 with
  | (.ok bs, s) => s.hostSees (BitVec.ofNat 64 (bytesToNat bs))
  | (.error e, s) => (s.hostDrop c e).hostOnes true

/-- A host write to a launch queue's slot area, or, with no bytes, a host read of 8 bytes of it (R417, R418). DEDUCED, log
entry 49. -/
def execHostLaunchWrite (offset : Nat) (bytes : List Byte) (s : State) : Out :=
  let q := offset / 0x80000
  let x := offset % 0x80000
  let read := bytes.isEmpty
  let n := if read then 8 else bytes.length
  if s.silent then .next s
  else if s.boot.started then .next (s.hostLost.hostOnes read)
  else if s.ingressHeld || s.hostBehind then .next (s.later (.hostLaunchWrite offset bytes))
  else if 64 ≤ q || !s.lqOn q || decide (128 * s.lqN q < x + n) then .next (s.hostLost.hostOnes read)
  else
    let base := s.reg (lqReg q 0)
    if s.slotsLocked (base.toNat % 2 ^ 56 + x) n then .next (s.later (.hostLaunchWrite offset bytes))
    else .next (if read then slotRead s (s.lqCtx q) (base + BitVec.ofNat 64 x) else slotWrites (n + 1) s (s.lqCtx q) base x bytes)

/-! ### BAR 4 (R419, R450) -/

/-- The bytes of the part that an aperture maps: a slice, or a lid or cap region. -/
def partBytes (base : Nat) : Nat := if sramLid base then Config.lidBytes else Config.sliceBytes

/-- An access to the slice that recovery maps; the slice controller serves it directly (R450). -/
def recoveryAccess (offset size : Nat) (data : Option Word) (s : State) : State :=
  if Config.sliceBytes < offset + size then s.hostLost.hostOnes data.isNone
  else
    match data with
    | some x => { s with mem := writeNat s.mem (recoverySlice + offset) size (x.toNat % 2 ^ (8 * size)) }
    | none => s.hostSees (BitVec.ofNat 64 (readNat s.mem (recoverySlice + offset) size))

/-- An access through an aperture that stands, as one of HCTX (R35, R42, R419). -/
def apertureAccess (va : Word) (size : Nat) (data : Option Word) (s : State) : Out :=
  let c : Byte := BitVec.ofNat 8 (field (s.reg regHdrop) 32 8)
  match data with
  | some x =>
    match writeBeat s hostSeat c va (natToBytes size (x.toNat % 2 ^ (8 * size))) 0 with
    | (.ok _, s) => .next s
    | (.error e, s) => .next (s.hostDrop c e)
  | none =>
    match readBeat s hostSeat c va size with
    | (.ok bs, s) => .next (s.hostSees (BitVec.ofNat 64 (bytesToNat bs)))
    | (.error e, s) => .next ((s.hostDrop c e).hostOnes true)

/-- A BAR 4 access: aperture, offset in it, size, and the data of a write (R419). -/
def execHostAperture (offset size : Nat) (data : Option Word) (s : State) : Out :=
  let i := offset / 0x200000
  let x := offset % 0x200000
  let w := s.reg (blockAddr 0 0x12 (0x100 + 8 * i))
  if s.silent then .next s
  else if s.boot.recovery then
    .next (if i = 0 then recoveryAccess x size data s else s.hostLost.hostOnes data.isNone)
  else if s.boot.started then .next (s.hostLost.hostOnes data.isNone)
  else if s.ingressHeld || s.hostBehind then .next (s.later (.hostAperture offset size data))
  else
    let base := 2 ^ 54 + field w 21 27 * 2 ^ 21
    if 16 ≤ i || !w.getLsbD 63 || decide (partBytes base < x + size) then .next (s.hostLost.hostOnes data.isNone)
    else if s.isLocked (base + x) then .next (s.later (.hostAperture offset size data))
    else apertureAccess (BitVec.ofNat 64 (base + x)) size data s

/-! ### Reads of host memory that come back (R420) -/

/-- A read of host memory has ended: with its data, or with a status that is not 0 (R420). -/
def State.hostReadEnds (s : State) (r : Req) (status : Nat) (data : List Byte) : State :=
  let n := (hostSpan r).2
  let x := bytesToNat ((data ++ List.replicate n 0).take n)
  let f : FaultInfo := { cause := 0x043, tval := r.va, words := [BitVec.ofNat 64 status] }
  let bundle := isFetch r
  if r.agent = .host ∧ r.unit < 32 then
    { s with hostGot := s.hostGot ++ [(r, if status = 0 then (data ++ List.replicate n 0).take n else natToBytes 65 status)] }
  else if status ≠ 0 then (if bundle then s.fetchFailed r f else s.failAt r f false)
  else if bundle then s.fetchedBundle r (BitVec.ofNat 64 x)
  else
    let v : Word :=
      match r.op with
      | .load true => signExtend x (8 * r.size)
      | .nibble sg k => if sg then signExtend (x / 2 ^ (4 * k) % 16) 4 else BitVec.ofNat 64 (x / 2 ^ (4 * k) % 16)
      | _ => BitVec.ofNat 64 x
    s.complete r v 0 .none false

/-- The tag of a read is free again. -/
def State.freeTag (s : State) (tag : Nat) : State :=
  { s with hostReads := s.hostReads.filter fun e => decide (e.1 ≠ tag),
           timers := s.timers.filter fun t => decide (t.2 ≠ .hostReadTimeout tag) }

/-- A completion comes from the host: status 0 with data, or the PCIe completion status of a refusal (R420). -/
def execHostReadCompletion (tag status : Nat) (data : List Byte) (s : State) : Out :=
  match s.hostReads.find? fun e => decide (e.1 = tag) with
  | none => .next s
  | some e => .next ((s.freeTag tag).hostReadEnds e.2 status data)

/-- 50 ms have passed without a completion (R420). -/
def execHostReadTimeout (tag : Nat) (s : State) : Out :=
  match s.hostReads.find? fun e => decide (e.1 = tag) with
  | none => .next s
  | some e => .next ((s.freeTag tag).hostReadEnds e.2 0xFF [])

/-- LEFT reaches 0: ARM is cleared (R421). -/
def execHwakeExpire (s : State) : Out := .next (s.setReg (blockAddr 0 0 0x320) 0)

/-! ### The management port (R455) -/

/-- A Block Read of block 0x00; in recovery BOOTCAUSE only. -/
def execBlockRead (offset : Nat) (s : State) : Out :=
  if !s.boot.powered then .next s
  else if offset % 8 ≠ 0 || decide (65536 ≤ offset) || (s.boot.recovery && offset != 0x400) then
    .next { s with out := .nack :: s.out }
  else
    let r := s.readReg (blockAddr 0 0 offset)
    .next { r.2 with out := .mgmt r.1 :: r.2.out }

/-- A Block Write: ATTNONCE and ATTCTL only. -/
def execBlockWrite (offset : Nat) (x : Word) (s : State) : Out :=
  if !s.boot.powered then .next s
  else if offset % 8 = 0 ∧ 0x4A0 ≤ offset ∧ offset < 0x4D8 then writeMgmt s (blockAddr 0 0 offset) x
  else .next { s with out := .nack :: s.out }

end Sys2Proof.Machine
end

