-- ==== Sys2Proof/Machine/Scalar.lean ====
section
/-! DEFINITION. The scalar integer A-words: alu, immediates, mul/div, cmp/sel, bit operations and `lui`
(spec/12 R261–R266), and `anop` (spec/10 R219). Each reads its sources as they stood before the bundle (R213). -/

namespace Sys2Proof.Machine

/-- The A-word no-operation (R219). -/
def execAnop (s : State) : Out := .next s

/-- Sum modulo 2^64 (R261). -/
def execAdd (d a b : Reg) (s : State) : Out := .next (s.setG d (s.g a + s.g b))

/-- Difference modulo 2^64 (R261). -/
def execSub (d a b : Reg) (s : State) : Out := .next (s.setG d (s.g a - s.g b))

/-- Bitwise and (R261). -/
def execAndR (d a b : Reg) (s : State) : Out := .next (s.setG d (s.g a &&& s.g b))

/-- Bitwise or (R261). -/
def execOrR (d a b : Reg) (s : State) : Out := .next (s.setG d (s.g a ||| s.g b))

/-- Bitwise exclusive or (R261). -/
def execXor (d a b : Reg) (s : State) : Out := .next (s.setG d (s.g a ^^^ s.g b))

/-- a AND NOT b (R261). -/
def execAndn (d a b : Reg) (s : State) : Out := .next (s.setG d (s.g a &&& ~~~(s.g b)))

/-- Left shift by the low six bits of b (R261). -/
def execSll (d a b : Reg) (s : State) : Out := .next (s.setG d (s.g a <<< (field (s.g b) 0 6)))

/-- Right shift, zeros entering (R261). -/
def execSrl (d a b : Reg) (s : State) : Out := .next (s.setG d (s.g a >>> (field (s.g b) 0 6)))

/-- Right shift, copies of bit 63 entering (R261). -/
def execSra (d a b : Reg) (s : State) : Out := .next (s.setG d ((s.g a).sshiftRight (field (s.g b) 0 6)))

/-- Left rotation (R261). -/
def execRol (d a b : Reg) (s : State) : Out := .next (s.setG d ((s.g a).rotateLeft (field (s.g b) 0 6)))

/-- 32-bit sum, sign-extended (R261). -/
def execAddw (d a b : Reg) (s : State) : Out := .next (s.setG d (signExtend (s.g a + s.g b).toNat 32))

/-- 32-bit difference, sign-extended (R261). -/
def execSubw (d a b : Reg) (s : State) : Out := .next (s.setG d (signExtend (s.g a - s.g b).toNat 32))

/-- Signed saturating sum (R261). -/
def execAddsS (d a b : Reg) (s : State) : Out := .next (s.setClamped d (addSatS (s.g a) (s.g b)))

/-- Unsigned saturating sum (R261). -/
def execAddsN (d a b : Reg) (s : State) : Out := .next (s.setClamped d (addSatN (s.g a) (s.g b)))

/-- Signed saturating difference (R261). -/
def execSubsS (d a b : Reg) (s : State) : Out := .next (s.setClamped d (subSatS (s.g a) (s.g b)))

/-- Unsigned saturating difference (R261). -/
def execSubsN (d a b : Reg) (s : State) : Out := .next (s.setClamped d (subSatN (s.g a) (s.g b)))

/-- Sum with a sign-extended immediate (R262). -/
def execAddi (d a : Reg) (i : BitVec 16) (s : State) : Out := .next (s.setG d (s.g a + i.signExtend 64))

/-- And with a zero-extended immediate (R262). -/
def execAndi (d a : Reg) (i : BitVec 16) (s : State) : Out := .next (s.setG d (s.g a &&& i.setWidth 64))

/-- Or with a zero-extended immediate (R262). -/
def execOri (d a : Reg) (i : BitVec 16) (s : State) : Out := .next (s.setG d (s.g a ||| i.setWidth 64))

/-- Exclusive or with a zero-extended immediate (R262). -/
def execXori (d a : Reg) (i : BitVec 16) (s : State) : Out := .next (s.setG d (s.g a ^^^ i.setWidth 64))

/-- Left shift by an immediate (R262). -/
def execSlli (d a : Reg) (n : BitVec 6) (s : State) : Out := .next (s.setG d (s.g a <<< n.toNat))

/-- Right shift by an immediate, zeros entering (R262). -/
def execSrli (d a : Reg) (n : BitVec 6) (s : State) : Out := .next (s.setG d (s.g a >>> n.toNat))

/-- Right shift by an immediate, copies of bit 63 entering (R262). -/
def execSrai (d a : Reg) (n : BitVec 6) (s : State) : Out := .next (s.setG d ((s.g a).sshiftRight n.toNat))

/-- Left rotation by an immediate (R262). -/
def execRoli (d a : Reg) (n : BitVec 6) (s : State) : Out := .next (s.setG d ((s.g a).rotateLeft n.toNat))

/-- Low 64 bits of the product (R263). -/
def execMul (d a b : Reg) (s : State) : Out := .next (s.setG d (s.g a * s.g b))

/-- High 64 bits of the signed product (R263). -/
def execMulhS (d a b : Reg) (s : State) : Out := .next (s.setG d (BitVec.ofInt 64 ((s.g a).toInt * (s.g b).toInt / 2 ^ 64)))

/-- High 64 bits of the unsigned product (R263). -/
def execMulhN (d a b : Reg) (s : State) : Out := .next (s.setG d (BitVec.ofNat 64 ((s.g a).toNat * (s.g b).toNat / 2 ^ 64)))

/-- 32-bit product, sign-extended (R263). -/
def execMulw (d a b : Reg) (s : State) : Out := .next (s.setG d (signExtend ((s.g a).toNat % 2 ^ 32 * ((s.g b).toNat % 2 ^ 32)) 32))

/-- A division form: INT_DIV_ZERO as an issue check when b = 0 (R263). -/
def divided (s : State) (d b : Reg) (x : Word × Flags) : Out :=
  if s.g b = 0 then raiseO s 0x082 0 else .next (s.setClamped d x)

/-- Signed quotient, truncated toward zero (R263). -/
def execDivS (d a b : Reg) (s : State) : Out := divided s d b (quotS (s.g a) (s.g b))

/-- Unsigned quotient (R263). -/
def execDivN (d a b : Reg) (s : State) : Out := divided s d b (s.g a / s.g b, 0)

/-- Signed remainder with the sign of a (R263). -/
def execRemS (d a b : Reg) (s : State) : Out := divided s d b (remS64 (s.g a) (s.g b), 0)

/-- Unsigned remainder (R263). -/
def execRemN (d a b : Reg) (s : State) : Out := divided s d b (s.g a % s.g b, 0)

/-- 1 if a = b (R264). -/
def execSeq (d a b : Reg) (s : State) : Out := .next (s.setG d (ofBool (s.g a == s.g b)))

/-- 1 if a ≠ b (R264). -/
def execSne (d a b : Reg) (s : State) : Out := .next (s.setG d (ofBool (s.g a != s.g b)))

/-- 1 if a < b, signed (R264). -/
def execSltS (d a b : Reg) (s : State) : Out := .next (s.setG d (ofBool ((s.g a).slt (s.g b))))

/-- 1 if a ≤ b, signed (R264). -/
def execSleS (d a b : Reg) (s : State) : Out := .next (s.setG d (ofBool ((s.g a).sle (s.g b))))

/-- 1 if a < b, unsigned (R264). -/
def execSltN (d a b : Reg) (s : State) : Out := .next (s.setG d (ofBool ((s.g a).ult (s.g b))))

/-- 1 if a ≤ b, unsigned (R264). -/
def execSleN (d a b : Reg) (s : State) : Out := .next (s.setG d (ofBool ((s.g a).ule (s.g b))))

/-- The smaller, signed (R264). -/
def execMinS (d a b : Reg) (s : State) : Out := .next (s.setG d (if (s.g a).sle (s.g b) then s.g a else s.g b))

/-- The larger, signed (R264). -/
def execMaxS (d a b : Reg) (s : State) : Out := .next (s.setG d (if (s.g a).sle (s.g b) then s.g b else s.g a))

/-- The smaller, unsigned (R264). -/
def execMinN (d a b : Reg) (s : State) : Out := .next (s.setG d (if (s.g a).ule (s.g b) then s.g a else s.g b))

/-- The larger, unsigned (R264). -/
def execMaxN (d a b : Reg) (s : State) : Out := .next (s.setG d (if (s.g a).ule (s.g b) then s.g b else s.g a))

/-- rd := ra if rc ≠ 0, else rb (R264). -/
def execSel (d a b c : Reg) (s : State) : Out := .next (s.setG d (if s.g c != 0 then s.g a else s.g b))

/-- Count of leading zero bits (R265). -/
def execClz (d a : Reg) (s : State) : Out := .next (s.setG d (BitVec.ofNat 64 (clz64 (s.g a))))

/-- Count of trailing zero bits (R265). -/
def execCtz (d a : Reg) (s : State) : Out := .next (s.setG d (BitVec.ofNat 64 (ctz64 (s.g a))))

/-- Count of one bits (R265). -/
def execPopc (d a : Reg) (s : State) : Out := .next (s.setG d (BitVec.ofNat 64 (popCount (s.g a).toNat 64)))

/-- Bit i to bit 63 − i (R265). -/
def execBrev (d a : Reg) (s : State) : Out := .next (s.setG d (BitVec.ofNat 64 (revBits (s.g a).toNat 64)))

/-- Byte i to byte 7 − i (R265). -/
def execBswap (d a : Reg) (s : State) : Out := .next (s.setG d (BitVec.ofNat 64 (revBytes (s.g a).toNat 8)))

/-- Low 8 bits, sign-extended (R265). -/
def execSextB (d a : Reg) (s : State) : Out := .next (s.setG d (signExtend (s.g a).toNat 8))

/-- Low 16 bits, sign-extended (R265). -/
def execSextH (d a : Reg) (s : State) : Out := .next (s.setG d (signExtend (s.g a).toNat 16))

/-- Low 32 bits, sign-extended (R265). -/
def execSextW (d a : Reg) (s : State) : Out := .next (s.setG d (signExtend (s.g a).toNat 32))

/-- Low 32 bits, zero-extended (R265). -/
def execZextW (d a : Reg) (s : State) : Out := .next (s.setG d (zeroExtend (s.g a).toNat 32))

/-- The field of a that b names (R265). -/
def execBext (d a b : Reg) (s : State) : Out := .next (s.setG d (bitExtract (s.g a) (s.g b)))

/-- rd with the field that b names replaced by the low bits of a; reads rd (R265). -/
def execBins (d a b : Reg) (s : State) : Out := .next (s.setG d (bitInsert (s.g d) (s.g a) (s.g b)))

/-- 16 bits of rd replaced by the immediate; reads rd (R266). -/
def execLui (d : Reg) (k : BitVec 2) (i : BitVec 16) (s : State) : Out :=
  .next (s.setG d (setField (s.g d) (16 * k.toNat) 16 i.toNat))

end Sys2Proof.Machine
end

