-- ==== Sys2Proof/Machine/Dispatch.lean ====
section
/-! DEFINITION. One arm per row of the opcode table: the row's meaning, one direct call. -/

namespace Sys2Proof.Machine

def exec (i : Instr) (s : State) : Host.Outcome State Fault Refusal :=
  match i with
  | .cnop l => Sys2Proof.Machine.execCnop l s
  | .halt l => Sys2Proof.Machine.execHalt l s
  | .brk l c => Sys2Proof.Machine.execBrk l c s
  | .br l o => Sys2Proof.Machine.execBr l o s
  | .jal l o => Sys2Proof.Machine.execJal l o s
  | .jr l a => Sys2Proof.Machine.execJr l a s
  | .jalr l d a => Sys2Proof.Machine.execJalr l d a s
  | .beq l a b o => Sys2Proof.Machine.execBeq l a b o s
  | .bne l a b o => Sys2Proof.Machine.execBne l a b o s
  | .bltS l a b o => Sys2Proof.Machine.execBltS l a b o s
  | .bgeS l a b o => Sys2Proof.Machine.execBgeS l a b o s
  | .bltN l a b o => Sys2Proof.Machine.execBltN l a b o s
  | .bgeN l a b o => Sys2Proof.Machine.execBgeN l a b o s
  | .lp l a e => Sys2Proof.Machine.execLp l a e s
  | .lpi l c e => Sys2Proof.Machine.execLpi l c e s
  | .ldbS l d a ord sc f => Sys2Proof.Machine.execLdbS l d a ord sc f s
  | .ldbN l d a ord sc f => Sys2Proof.Machine.execLdbN l d a ord sc f s
  | .ldhS l d a ord sc f => Sys2Proof.Machine.execLdhS l d a ord sc f s
  | .ldhN l d a ord sc f => Sys2Proof.Machine.execLdhN l d a ord sc f s
  | .ldwS l d a ord sc f => Sys2Proof.Machine.execLdwS l d a ord sc f s
  | .ldwN l d a ord sc f => Sys2Proof.Machine.execLdwN l d a ord sc f s
  | .ldd l d a ord sc f => Sys2Proof.Machine.execLdd l d a ord sc f s
  | .stb l src a ord sc f => Sys2Proof.Machine.execStb l src a ord sc f s
  | .sth l src a ord sc f => Sys2Proof.Machine.execSth l src a ord sc f s
  | .stw l src a ord sc f => Sys2Proof.Machine.execStw l src a ord sc f s
  | .std l src a ord sc f => Sys2Proof.Machine.execStd l src a ord sc f s
  | .ldv l d a ord sc v => Sys2Proof.Machine.execLdv l d a ord sc v s
  | .stv l d a ord sc v => Sys2Proof.Machine.execStv l d a ord sc v s
  | .rcl l a b ord sc => Sys2Proof.Machine.execRcl l a b ord sc s
  | .vtag l d a ord sc => Sys2Proof.Machine.execVtag l d a ord sc s
  | .vinit l a b ord sc k => Sys2Proof.Machine.execVinit l a b ord sc k s
  | .aswp l d a b ord sc => Sys2Proof.Machine.execAswp l d a b ord sc s
  | .aswpd l d a b ord sc => Sys2Proof.Machine.execAswpd l d a b ord sc s
  | .acas l d a b ord sc => Sys2Proof.Machine.execAcas l d a b ord sc s
  | .acasd l d a b ord sc => Sys2Proof.Machine.execAcasd l d a b ord sc s
  | .aadd l d a b ord sc => Sys2Proof.Machine.execAadd l d a b ord sc s
  | .aaddd l d a b ord sc => Sys2Proof.Machine.execAaddd l d a b ord sc s
  | .aand l d a b ord sc => Sys2Proof.Machine.execAand l d a b ord sc s
  | .aandd l d a b ord sc => Sys2Proof.Machine.execAandd l d a b ord sc s
  | .aor l d a b ord sc => Sys2Proof.Machine.execAor l d a b ord sc s
  | .aord l d a b ord sc => Sys2Proof.Machine.execAord l d a b ord sc s
  | .axor l d a b ord sc => Sys2Proof.Machine.execAxor l d a b ord sc s
  | .axord l d a b ord sc => Sys2Proof.Machine.execAxord l d a b ord sc s
  | .amaxS l d a b ord sc => Sys2Proof.Machine.execAmaxS l d a b ord sc s
  | .amaxdS l d a b ord sc => Sys2Proof.Machine.execAmaxdS l d a b ord sc s
  | .aminS l d a b ord sc => Sys2Proof.Machine.execAminS l d a b ord sc s
  | .amindS l d a b ord sc => Sys2Proof.Machine.execAmindS l d a b ord sc s
  | .amaxN l d a b ord sc => Sys2Proof.Machine.execAmaxN l d a b ord sc s
  | .amaxdN l d a b ord sc => Sys2Proof.Machine.execAmaxdN l d a b ord sc s
  | .aminN l d a b ord sc => Sys2Proof.Machine.execAminN l d a b ord sc s
  | .amindN l d a b ord sc => Sys2Proof.Machine.execAmindN l d a b ord sc s
  | .afadd l d a b ord sc => Sys2Proof.Machine.execAfadd l d a b ord sc s
  | .afmax l d a b ord sc => Sys2Proof.Machine.execAfmax l d a b ord sc s
  | .afmin l d a b ord sc => Sys2Proof.Machine.execAfmin l d a b ord sc s
  | .fence l ord sc => Sys2Proof.Machine.execFence l ord sc s
  | .waitc l a b c d e => Sys2Proof.Machine.execWaitc l a b c d e s
  | .vld l d a b t m => Sys2Proof.Machine.execVld l d a b t m s
  | .vst l d a b t m => Sys2Proof.Machine.execVst l d a b t m s
  | .vldx l d a b t m => Sys2Proof.Machine.execVldx l d a b t m s
  | .vstx l d a b t m => Sys2Proof.Machine.execVstx l d a b t m s
  | .csend l d a b => Sys2Proof.Machine.execCsend l d a b s
  | .crecv l d a b => Sys2Proof.Machine.execCrecv l d a b s
  | .csendb l d a b => Sys2Proof.Machine.execCsendb l d a b s
  | .crecvb l d a b => Sys2Proof.Machine.execCrecvb l d a b s
  | .csendt l d a b => Sys2Proof.Machine.execCsendt l d a b s
  | .crecvt l d a b => Sys2Proof.Machine.execCrecvt l d a b s
  | .cpoll l d a => Sys2Proof.Machine.execCpoll l d a s
  | .cclose l a => Sys2Proof.Machine.execCclose l a s
  | .csendp l d a b => Sys2Proof.Machine.execCsendp l d a b s
  | .crecvp l d a b => Sys2Proof.Machine.execCrecvp l d a b s
  | .chsel l d b f => Sys2Proof.Machine.execChsel l d b f s
  | .chnew l d b => Sys2Proof.Machine.execChnew l d b s
  | .chdel l b => Sys2Proof.Machine.execChdel l b s
  | .spawn l d a b => Sys2Proof.Machine.execSpawn l d a b s
  | .spawnk l d a b => Sys2Proof.Machine.execSpawnk l d a b s
  | .callat l h a b => Sys2Proof.Machine.execCallat l h a b s
  | .fork l a => Sys2Proof.Machine.execFork l a s
  | .join l a => Sys2Proof.Machine.execJoin l a s
  | .jinit l a b => Sys2Proof.Machine.execJinit l a b s
  | .yield l => Sys2Proof.Machine.execYield l s
  | .park l a b => Sys2Proof.Machine.execPark l a b s
  | .exit l a => Sys2Proof.Machine.execExit l a s
  | .chprio l b => Sys2Proof.Machine.execChprio l b s
  | .binit l a b => Sys2Proof.Machine.execBinit l a b s
  | .barr l d a => Sys2Proof.Machine.execBarr l d a s
  | .barw l d a => Sys2Proof.Machine.execBarw l d a s
  | .ginit l a b => Sys2Proof.Machine.execGinit l a b s
  | .gkill l a => Sys2Proof.Machine.execGkill l a s
  | .gquery l d a => Sys2Proof.Machine.execGquery l d a s
  | .mfs l d imm => Sys2Proof.Machine.execMfs l d imm s
  | .mts l a imm => Sys2Proof.Machine.execMts l a imm s
  | .trap l n => Sys2Proof.Machine.execTrap l n s
  | .tret l => Sys2Proof.Machine.execTret l s
  | .xinv l a k => Sys2Proof.Machine.execXinv l a k s
  | .mreq l a => Sys2Proof.Machine.execMreq l a s
  | .mrel l => Sys2Proof.Machine.execMrel l s
  | .mfmt l a => Sys2Proof.Machine.execMfmt l a s
  | .mscl l a b => Sys2Proof.Machine.execMscl l a b s
  | .mlid l b => Sys2Proof.Machine.execMlid l b s
  | .mclr l a => Sys2Proof.Machine.execMclr l a s
  | .mmac l a b => Sys2Proof.Machine.execMmac l a b s
  | .mmacc l a b => Sys2Proof.Machine.execMmacc l a b s
  | .mmacj l a b => Sys2Proof.Machine.execMmacj l a b s
  | .mdrn l a b => Sys2Proof.Machine.execMdrn l a b s
  | .cpy l a b p => Sys2Proof.Machine.execCpy l a b p s
  | .tcpy l a b p => Sys2Proof.Machine.execTcpy l a b p s
  | .deal l a b p => Sys2Proof.Machine.execDeal l a b p s
  | .gath l a b p => Sys2Proof.Machine.execGath l a b p s
  | .cpost l a b => Sys2Proof.Machine.execCpost l a b s
  | .fgload l a b => Sys2Proof.Machine.execFgload l a b s
  | .vclaim l d a b => Sys2Proof.Machine.execVclaim l d a b s
  | .vrenew l d a b => Sys2Proof.Machine.execVrenew l d a b s
  | .vrel l => Sys2Proof.Machine.execVrel l s
  | .vloop l n a => Sys2Proof.Machine.execVloop l n a s
  | .vbind l a => Sys2Proof.Machine.execVbind l a s
  | .vunbind l a => Sys2Proof.Machine.execVunbind l a s
  | .lic l d imm => Sys2Proof.Machine.execLic l d imm s
  | .ldnS l d a b ord sc => Sys2Proof.Machine.execLdnS l d a b ord sc s
  | .ldnN l d a b ord sc => Sys2Proof.Machine.execLdnN l d a b ord sc s
  | .stn l d a b ord sc => Sys2Proof.Machine.execStn l d a b ord sc s
  | .sgen l a b => Sys2Proof.Machine.execSgen l a b s
  | .srun l a => Sys2Proof.Machine.execSrun l a s
  | .sstat l d a => Sys2Proof.Machine.execSstat l d a s
  | .hload l a b => Sys2Proof.Machine.execHload l a b s
  | .hstart l a b => Sys2Proof.Machine.execHstart l a b s
  | .anop => Sys2Proof.Machine.execAnop s
  | .add d a b => Sys2Proof.Machine.execAdd d a b s
  | .sub d a b => Sys2Proof.Machine.execSub d a b s
  | .andR d a b => Sys2Proof.Machine.execAndR d a b s
  | .orR d a b => Sys2Proof.Machine.execOrR d a b s
  | .xor d a b => Sys2Proof.Machine.execXor d a b s
  | .andn d a b => Sys2Proof.Machine.execAndn d a b s
  | .sll d a b => Sys2Proof.Machine.execSll d a b s
  | .srl d a b => Sys2Proof.Machine.execSrl d a b s
  | .sra d a b => Sys2Proof.Machine.execSra d a b s
  | .rol d a b => Sys2Proof.Machine.execRol d a b s
  | .addw d a b => Sys2Proof.Machine.execAddw d a b s
  | .subw d a b => Sys2Proof.Machine.execSubw d a b s
  | .addsS d a b => Sys2Proof.Machine.execAddsS d a b s
  | .addsN d a b => Sys2Proof.Machine.execAddsN d a b s
  | .subsS d a b => Sys2Proof.Machine.execSubsS d a b s
  | .subsN d a b => Sys2Proof.Machine.execSubsN d a b s
  | .addi d a imm => Sys2Proof.Machine.execAddi d a imm s
  | .andi d a imm => Sys2Proof.Machine.execAndi d a imm s
  | .ori d a imm => Sys2Proof.Machine.execOri d a imm s
  | .xori d a imm => Sys2Proof.Machine.execXori d a imm s
  | .slli d a n => Sys2Proof.Machine.execSlli d a n s
  | .srli d a n => Sys2Proof.Machine.execSrli d a n s
  | .srai d a n => Sys2Proof.Machine.execSrai d a n s
  | .roli d a n => Sys2Proof.Machine.execRoli d a n s
  | .mul d a b => Sys2Proof.Machine.execMul d a b s
  | .mulhS d a b => Sys2Proof.Machine.execMulhS d a b s
  | .mulhN d a b => Sys2Proof.Machine.execMulhN d a b s
  | .mulw d a b => Sys2Proof.Machine.execMulw d a b s
  | .divS d a b => Sys2Proof.Machine.execDivS d a b s
  | .divN d a b => Sys2Proof.Machine.execDivN d a b s
  | .remS d a b => Sys2Proof.Machine.execRemS d a b s
  | .remN d a b => Sys2Proof.Machine.execRemN d a b s
  | .seq d a b => Sys2Proof.Machine.execSeq d a b s
  | .sne d a b => Sys2Proof.Machine.execSne d a b s
  | .sltS d a b => Sys2Proof.Machine.execSltS d a b s
  | .sleS d a b => Sys2Proof.Machine.execSleS d a b s
  | .sltN d a b => Sys2Proof.Machine.execSltN d a b s
  | .sleN d a b => Sys2Proof.Machine.execSleN d a b s
  | .minS d a b => Sys2Proof.Machine.execMinS d a b s
  | .maxS d a b => Sys2Proof.Machine.execMaxS d a b s
  | .minN d a b => Sys2Proof.Machine.execMinN d a b s
  | .maxN d a b => Sys2Proof.Machine.execMaxN d a b s
  | .sel d a b c => Sys2Proof.Machine.execSel d a b c s
  | .clz d a => Sys2Proof.Machine.execClz d a s
  | .ctz d a => Sys2Proof.Machine.execCtz d a s
  | .popc d a => Sys2Proof.Machine.execPopc d a s
  | .brev d a => Sys2Proof.Machine.execBrev d a s
  | .bswap d a => Sys2Proof.Machine.execBswap d a s
  | .sextB d a => Sys2Proof.Machine.execSextB d a s
  | .sextH d a => Sys2Proof.Machine.execSextH d a s
  | .sextW d a => Sys2Proof.Machine.execSextW d a s
  | .zextW d a => Sys2Proof.Machine.execZextW d a s
  | .bext d a b => Sys2Proof.Machine.execBext d a b s
  | .bins d a b => Sys2Proof.Machine.execBins d a b s
  | .lui d k imm => Sys2Proof.Machine.execLui d k imm s
  | .fadd d a b => Sys2Proof.Machine.execFadd d a b s
  | .fsub d a b => Sys2Proof.Machine.execFsub d a b s
  | .fmul d a b => Sys2Proof.Machine.execFmul d a b s
  | .fdiv d a b => Sys2Proof.Machine.execFdiv d a b s
  | .fsqrt d a => Sys2Proof.Machine.execFsqrt d a s
  | .fmin d a b => Sys2Proof.Machine.execFmin d a b s
  | .fmax d a b => Sys2Proof.Machine.execFmax d a b s
  | .fmint d a b => Sys2Proof.Machine.execFmint d a b s
  | .fmaxt d a b => Sys2Proof.Machine.execFmaxt d a b s
  | .fabs d a => Sys2Proof.Machine.execFabs d a s
  | .fneg d a => Sys2Proof.Machine.execFneg d a s
  | .fsgnj d a b => Sys2Proof.Machine.execFsgnj d a b s
  | .fmadd d a b c => Sys2Proof.Machine.execFmadd d a b c s
  | .fmsub d a b c => Sys2Proof.Machine.execFmsub d a b c s
  | .fnmadd d a b c => Sys2Proof.Machine.execFnmadd d a b c s
  | .fnmsub d a b c => Sys2Proof.Machine.execFnmsub d a b c s
  | .feq d a b => Sys2Proof.Machine.execFeq d a b s
  | .flt d a b => Sys2Proof.Machine.execFlt d a b s
  | .fle d a b => Sys2Proof.Machine.execFle d a b s
  | .funord d a b => Sys2Proof.Machine.execFunord d a b s
  | .fclass d a => Sys2Proof.Machine.execFclass d a s
  | .fkey d a => Sys2Proof.Machine.execFkey d a s
  | .fcvtF32S32 d a => Sys2Proof.Machine.execFcvtF32S32 d a s
  | .fcvtF32S64 d a => Sys2Proof.Machine.execFcvtF32S64 d a s
  | .fcvtS32F32 d a => Sys2Proof.Machine.execFcvtS32F32 d a s
  | .fcvtS64F32 d a => Sys2Proof.Machine.execFcvtS64F32 d a s
  | .fcvtF32Bf16 d a => Sys2Proof.Machine.execFcvtF32Bf16 d a s
  | .fcvtBf16F32 d a => Sys2Proof.Machine.execFcvtBf16F32 d a s
  | .fcvtF32E4m3 d a => Sys2Proof.Machine.execFcvtF32E4m3 d a s
  | .fcvtE4m3F32 d a => Sys2Proof.Machine.execFcvtE4m3F32 d a s
  | .fcvtF32E2m1 d a => Sys2Proof.Machine.execFcvtF32E2m1 d a s
  | .fcvtE2m1F32 d a => Sys2Proof.Machine.execFcvtE2m1F32 d a s
  | .fcvtF32N32 d a => Sys2Proof.Machine.execFcvtF32N32 d a s
  | .fcvtN32F32 d a => Sys2Proof.Machine.execFcvtN32F32 d a s
  | .vadd d a b m t => Sys2Proof.Machine.execVadd d a b m t s
  | .vsub d a b m t => Sys2Proof.Machine.execVsub d a b m t s
  | .vmul d a b m t => Sys2Proof.Machine.execVmul d a b m t s
  | .vdiv d a b m t => Sys2Proof.Machine.execVdiv d a b m t s
  | .vmin d a b m t => Sys2Proof.Machine.execVmin d a b m t s
  | .vmax d a b m t => Sys2Proof.Machine.execVmax d a b m t s
  | .vand d a b m t => Sys2Proof.Machine.execVand d a b m t s
  | .vor d a b m t => Sys2Proof.Machine.execVor d a b m t s
  | .vxor d a b m t => Sys2Proof.Machine.execVxor d a b m t s
  | .vsll d a b m t => Sys2Proof.Machine.execVsll d a b m t s
  | .vsrl d a b m t => Sys2Proof.Machine.execVsrl d a b m t s
  | .vsra d a b m t => Sys2Proof.Machine.execVsra d a b m t s
  | .vabs d a m t => Sys2Proof.Machine.execVabs d a m t s
  | .vneg d a m t => Sys2Proof.Machine.execVneg d a m t s
  | .vadds d a b m t => Sys2Proof.Machine.execVadds d a b m t s
  | .vsubs d a b m t => Sys2Proof.Machine.execVsubs d a b m t s
  | .vfma d a b c m => Sys2Proof.Machine.execVfma d a b c m s
  | .vfms d a b c m => Sys2Proof.Machine.execVfms d a b c m s
  | .vfnma d a b c m => Sys2Proof.Machine.execVfnma d a b c m s
  | .vfnms d a b c m => Sys2Proof.Machine.execVfnms d a b c m s
  | .vmadS d a b c m => Sys2Proof.Machine.execVmadS d a b c m s
  | .vmadN d a b c m => Sys2Proof.Machine.execVmadN d a b c m s
  | .veq d a b m t => Sys2Proof.Machine.execVeq d a b m t s
  | .vne d a b m t => Sys2Proof.Machine.execVne d a b m t s
  | .vlt d a b m t => Sys2Proof.Machine.execVlt d a b m t s
  | .vle d a b m t => Sys2Proof.Machine.execVle d a b m t s
  | .vunord d a b m t => Sys2Proof.Machine.execVunord d a b m t s
  | .vltt d a b m t => Sys2Proof.Machine.execVltt d a b m t s
  | .vmov d a m => Sys2Proof.Machine.execVmov d a m s
  | .vbcast d a m => Sys2Proof.Machine.execVbcast d a m s
  | .vrot d a b m => Sys2Proof.Machine.execVrot d a b m s
  | .vshuf d a b m => Sys2Proof.Machine.execVshuf d a b m s
  | .vcomp d a m => Sys2Proof.Machine.execVcomp d a m s
  | .vexpd d a m => Sys2Proof.Machine.execVexpd d a m s
  | .vins d a b => Sys2Proof.Machine.execVins d a b s
  | .vext d a b => Sys2Proof.Machine.execVext d a b s
  | .vcvt d a m t src => Sys2Proof.Machine.execVcvt d a m t src s
  | .vexp d a m => Sys2Proof.Machine.execVexp d a m s
  | .vexp2 d a m => Sys2Proof.Machine.execVexp2 d a m s
  | .vlog d a m => Sys2Proof.Machine.execVlog d a m s
  | .vlog2 d a m => Sys2Proof.Machine.execVlog2 d a m s
  | .vrcp d a m => Sys2Proof.Machine.execVrcp d a m s
  | .vsqrt d a m => Sys2Proof.Machine.execVsqrt d a m s
  | .vrsqrt d a m => Sys2Proof.Machine.execVrsqrt d a m s
  | .vsin d a m => Sys2Proof.Machine.execVsin d a m s
  | .vcos d a m => Sys2Proof.Machine.execVcos d a m s
  | .vtanh d a m => Sys2Proof.Machine.execVtanh d a m s
  | .vsigm d a m => Sys2Proof.Machine.execVsigm d a m s
  | .verf d a m => Sys2Proof.Machine.execVerf d a m s
  | .vrsum d a m t => Sys2Proof.Machine.execVrsum d a m t s
  | .vrmax d a m t => Sys2Proof.Machine.execVrmax d a m t s
  | .vrmin d a m t => Sys2Proof.Machine.execVrmin d a m t s
  | .vrmaxt d a m t => Sys2Proof.Machine.execVrmaxt d a m t s
  | .vrmint d a m t => Sys2Proof.Machine.execVrmint d a m t s
  | .vrand d a m t => Sys2Proof.Machine.execVrand d a m t s
  | .vror d a m t => Sys2Proof.Machine.execVror d a m t s
  | .vrxor d a m t => Sys2Proof.Machine.execVrxor d a m t s
  | .vskq a b m t => Sys2Proof.Machine.execVskq a b m t s
  | .vskh a b m t => Sys2Proof.Machine.execVskh a b m t s
  | .vskd a b m t => Sys2Proof.Machine.execVskd a b m t s
  | .skinit a b => Sys2Proof.Machine.execSkinit a b s
  | .skmerge a b => Sys2Proof.Machine.execSkmerge a b s
  | .skquant d a b => Sys2Proof.Machine.execSkquant d a b s
  | .skrank d a b => Sys2Proof.Machine.execSkrank d a b s
  | .skest d a b => Sys2Proof.Machine.execSkest d a b s
  | .skcount d a => Sys2Proof.Machine.execSkcount d a s
  | .mand d a b => Sys2Proof.Machine.execMand d a b s
  | .mor d a b => Sys2Proof.Machine.execMor d a b s
  | .mxor d a b => Sys2Proof.Machine.execMxor d a b s
  | .mandn d a b => Sys2Proof.Machine.execMandn d a b s
  | .mnot d a => Sys2Proof.Machine.execMnot d a s
  | .mpop d a => Sys2Proof.Machine.execMpop d a s
  | .mfrst d a => Sys2Proof.Machine.execMfrst d a s
  | .mfromg d a => Sys2Proof.Machine.execMfromg d a s
  | .mtog d a => Sys2Proof.Machine.execMtog d a s
  | .xend => Sys2Proof.Machine.execXend s
  | .xadd d a b t => Sys2Proof.Machine.execXadd d a b t s
  | .xmax d a b t => Sys2Proof.Machine.execXmax d a b t s
  | .xmin d a b t => Sys2Proof.Machine.execXmin d a b t s
  | .xmx6 d a b => Sys2Proof.Machine.execXmx6 d a b s
  | .xpack d a b => Sys2Proof.Machine.execXpack d a b s
  | .xunpk d a h => Sys2Proof.Machine.execXunpk d a h s
  | .xmov d a => Sys2Proof.Machine.execXmov d a s
  | .xrecv d imm => Sys2Proof.Machine.execXrecv d imm s
  | .xemit a o => Sys2Proof.Machine.execXemit a o s
  | .sequencerTrap pid cause tval => Sys2Proof.Machine.execSequencerTrap pid cause tval s
  | .sequencerEntry pid => Sys2Proof.Machine.execSequencerEntry pid s
  | .streamItem helper stream => Sys2Proof.Machine.execStreamItem helper stream s
  | .ownerAccess r => Sys2Proof.Machine.execOwnerAccess r s
  | .subByteStore r => Sys2Proof.Machine.execSubByteStore r s
  | .versionedStoreAtOwner r => Sys2Proof.Machine.execVersionedStoreAtOwner r s
  | .versionedLoadAtOwner r => Sys2Proof.Machine.execVersionedLoadAtOwner r s
  | .reclaimAtOwner r => Sys2Proof.Machine.execReclaimAtOwner r s
  | .initialiseAtOwner r => Sys2Proof.Machine.execInitialiseAtOwner r s
  | .heldCompletion d => Sys2Proof.Machine.execHeldCompletion d s
  | .waiterRetry r => Sys2Proof.Machine.execWaiterRetry r s
  | .acknowledgement d => Sys2Proof.Machine.execAcknowledgement d s
  | .widen key => Sys2Proof.Machine.execWiden key s
  | .widened key => Sys2Proof.Machine.execWidened key s
  | .released a => Sys2Proof.Machine.execReleased a s
  | .translationWalk die ctx space vpage => Sys2Proof.Machine.execTranslationWalk die ctx space vpage s
  | .engineBeat queue => Sys2Proof.Machine.execEngineBeat queue s
  | .commandCompletion queue status => Sys2Proof.Machine.execCommandCompletion queue status s
  | .msRequest m => Sys2Proof.Machine.execMsRequest m s
  | .msReply num => Sys2Proof.Machine.execMsReply num s
  | .frameReceive port f => Sys2Proof.Machine.execFrameReceive port f s
  | .pfcRepeat port prio => Sys2Proof.Machine.execPfcRepeat port prio s
  | .pfcFrame port prios quanta => Sys2Proof.Machine.execPfcFrame port prios quanta s
  | .pfcQuantaExpire port prio => Sys2Proof.Machine.execPfcQuantaExpire port prio s
  | .ingestDeposit port ring => Sys2Proof.Machine.execIngestDeposit port ring s
  | .ringDescriptorWrite addr x => Sys2Proof.Machine.execRingDescriptorWrite addr x s
  | .portRegisterWrite addr x => Sys2Proof.Machine.execPortRegisterWrite addr x s
  | .frameTransmit port prio => Sys2Proof.Machine.execFrameTransmit port prio s
  | .partGo x => Sys2Proof.Machine.execPartGo x s
  | .drainComplete => Sys2Proof.Machine.execDrainComplete s
  | .drainTimeout => Sys2Proof.Machine.execDrainTimeout s
  | .flushComplete => Sys2Proof.Machine.execFlushComplete s
  | .powerComplete => Sys2Proof.Machine.execPowerComplete s
  | .enumerate => Sys2Proof.Machine.execEnumerate s
  | .roleChangeStop => Sys2Proof.Machine.execRoleChangeStop s
  | .frzctlResume x => Sys2Proof.Machine.execFrzctlResume x s
  | .frzctlDiscard x => Sys2Proof.Machine.execFrzctlDiscard x s
  | .peerRequest p => Sys2Proof.Machine.execPeerRequest p s
  | .peerErrorReply d => Sys2Proof.Machine.execPeerErrorReply d s
  | .poolHeadWrite core x => Sys2Proof.Machine.execPoolHeadWrite core x s
  | .recfree core x => Sys2Proof.Machine.execRecfree core x s
  | .slotFill core => Sys2Proof.Machine.execSlotFill core s
  | .spillParked core => Sys2Proof.Machine.execSpillParked core s
  | .preempt core => Sys2Proof.Machine.execPreempt core s
  | .spillComplete pid => Sys2Proof.Machine.execSpillComplete pid s
  | .taskSteal core => Sys2Proof.Machine.execTaskSteal core s
  | .laneGrant bench => Sys2Proof.Machine.execLaneGrant bench s
  | .leaseGrant bench => Sys2Proof.Machine.execLeaseGrant bench s
  | .mrelEffect core => Sys2Proof.Machine.execMrelEffect core s
  | .mfmtExecute core => Sys2Proof.Machine.execMfmtExecute core s
  | .mmacExecute core => Sys2Proof.Machine.execMmacExecute core s
  | .mlidExecute core => Sys2Proof.Machine.execMlidExecute core s
  | .mclrExecute core => Sys2Proof.Machine.execMclrExecute core s
  | .mdrnExecute core => Sys2Proof.Machine.execMdrnExecute core s
  | .thermalPeriod temps => Sys2Proof.Machine.execThermalPeriod temps s
  | .launchTake q => Sys2Proof.Machine.execLaunchTake q s
  | .levelChange q => Sys2Proof.Machine.execLevelChange q s
  | .queueBarrier q => Sys2Proof.Machine.execQueueBarrier q s
  | .contextFence q => Sys2Proof.Machine.execContextFence q s
  | .launchQueueWrite addr x => Sys2Proof.Machine.execLaunchQueueWrite addr x s
  | .startMessage m => Sys2Proof.Machine.execStartMessage m s
  | .doneNotice m => Sys2Proof.Machine.execDoneNotice m s
  | .checkRunAEnd tower idx => Sys2Proof.Machine.execCheckRunAEnd tower idx s
  | .checkRunBEnd tower idx => Sys2Proof.Machine.execCheckRunBEnd tower idx s
  | .commitTurn domain => Sys2Proof.Machine.execCommitTurn domain s
  | .chunkCommit pid => Sys2Proof.Machine.execChunkCommit pid s
  | .logUnitWrite ctx => Sys2Proof.Machine.execLogUnitWrite ctx s
  | .logPadTimeout ctx => Sys2Proof.Machine.execLogPadTimeout ctx s
  | .logctlWrite ctx x => Sys2Proof.Machine.execLogctlWrite ctx x s
  | .logtailWrite ctx x => Sys2Proof.Machine.execLogtailWrite ctx x s
  | .logheadWrite ctx x => Sys2Proof.Machine.execLogheadWrite ctx x s
  | .channelSendAtHome m => Sys2Proof.Machine.execChannelSendAtHome m s
  | .channelReceiveAtHome m => Sys2Proof.Machine.execChannelReceiveAtHome m s
  | .sendRetry m => Sys2Proof.Machine.execSendRetry m s
  | .drainQueryReply m elem stamp => Sys2Proof.Machine.execDrainQueryReply m elem stamp s
  | .tileTransfer t => Sys2Proof.Machine.execTileTransfer t s
  | .selectClaim list index => Sys2Proof.Machine.execSelectClaim list index s
  | .timeoutFire pid => Sys2Proof.Machine.execTimeoutFire pid s
  | .channelTimeout pid => Sys2Proof.Machine.execChannelTimeout pid s
  | .withdrawal m => Sys2Proof.Machine.execWithdrawal m s
  | .spawnPlace m => Sys2Proof.Machine.execSpawnPlace m s
  | .barrierArrival m => Sys2Proof.Machine.execBarrierArrival m s
  | .handlerRequest m => Sys2Proof.Machine.execHandlerRequest m s
  | .faultPost ctx words => Sys2Proof.Machine.execFaultPost ctx words s
  | .fltresRetry core x => Sys2Proof.Machine.execFltresRetry core x s
  | .fltresSkip core x => Sys2Proof.Machine.execFltresSkip core x s
  | .fltresDiscard core x => Sys2Proof.Machine.execFltresDiscard core x s
  | .contextEvict ctx => Sys2Proof.Machine.execContextEvict ctx s
  | .contextRestore ctx => Sys2Proof.Machine.execContextRestore ctx s
  | .triggerLatch ctx t => Sys2Proof.Machine.execTriggerLatch ctx t s
  | .deadlock => Sys2Proof.Machine.execDeadlock s
  | .collAnnounce a => Sys2Proof.Machine.execCollAnnounce a s
  | .announceRetry a => Sys2Proof.Machine.execAnnounceRetry a s
  | .chunkGrant cid chunk link => Sys2Proof.Machine.execChunkGrant cid chunk link s
  | .chunkArbitration resource => Sys2Proof.Machine.execChunkArbitration resource s
  | .collComplete cid num => Sys2Proof.Machine.execCollComplete cid num s
  | .trussPush r => Sys2Proof.Machine.execTrussPush r s
  | .trussPop r => Sys2Proof.Machine.execTrussPop r s
  | .trussQueueWrite addr x => Sys2Proof.Machine.execTrussQueueWrite addr x s
  | .linkFlit link f => Sys2Proof.Machine.execLinkFlit link f s
  | .linkReplay link lseq => Sys2Proof.Machine.execLinkReplay link lseq s
  | .linkRetrain link ok => Sys2Proof.Machine.execLinkRetrain link ok s
  | .hostBar0 offset data => Sys2Proof.Machine.execHostBar0 offset data s
  | .hostLaunchWrite offset bytes => Sys2Proof.Machine.execHostLaunchWrite offset bytes s
  | .hostAperture offset size data => Sys2Proof.Machine.execHostAperture offset size data s
  | .msixSend vector => Sys2Proof.Machine.execMsixSend vector s
  | .hostReadCompletion tag status data => Sys2Proof.Machine.execHostReadCompletion tag status data s
  | .hostReadTimeout tag => Sys2Proof.Machine.execHostReadTimeout tag s
  | .hwakeExpire => Sys2Proof.Machine.execHwakeExpire s
  | .powerOn => Sys2Proof.Machine.execPowerOn s
  | .bootStage result => Sys2Proof.Machine.execBootStage result s
  | .bootWatchdog => Sys2Proof.Machine.execBootWatchdog s
  | .reset => Sys2Proof.Machine.execReset s
  | .recgo valid => Sys2Proof.Machine.execRecgo valid s
  | .calc => Sys2Proof.Machine.execCalc s
  | .attctlGo => Sys2Proof.Machine.execAttctlGo s
  | .attestDone => Sys2Proof.Machine.execAttestDone s
  | .powerCapStep watts => Sys2Proof.Machine.execPowerCapStep watts s
  | .thermalTrip => Sys2Proof.Machine.execThermalTrip s
  | .tripRelease => Sys2Proof.Machine.execTripRelease s
  | .blockRead offset => Sys2Proof.Machine.execBlockRead offset s
  | .blockWrite offset x => Sys2Proof.Machine.execBlockWrite offset x s
  | .registerWrite addr x => Sys2Proof.Machine.execRegisterWrite addr x s
  | .loadReturn d => Sys2Proof.Machine.execLoadReturn d s
  | .linkUp link => Sys2Proof.Machine.execLinkUp link s
  | .lossOfPower => Sys2Proof.Machine.execLossOfPower s

end Sys2Proof.Machine
end

