-- ==== Sys2Proof/Machine/Step.lean ====
section
/-! DEFINITION. One step of the machine: a step in flight is performed, or a slot, a helper or a fabric unit issues
(spec/09 R204, spec/10 R211–R215, spec/15 R395, R396). What stands in `Issue.lean` is called from here. -/

namespace Sys2Proof.Machine

/-- Perform one word of a bundle: `exec`, as the state it leaves. -/
noncomputable def runWord (i : Instr) (s : State) : Out := exec i s

/-- The A-word cannot be performed beside its C-word: what it raises alone, or a stall. -/
def heldBack (o : Out) (s : State) : Out :=
  match o with
  | .next r => .next (if r.notPerformed then r else s.stall)
  | o => o

/-- The C-word waits in state `p`: an issue check of the A-word still raises (R215). -/
def waitBeside (p : State) (o : Out) : Out :=
  match o with
  | .next q => .next (if p.xfer = .again ∧ q.xfer = .gone then q else p)
  | _ => .next p

/-- The words of a bundle, each reading the registers as they stood before it (R213, R215): an issue check or a stall
of either word leaves neither performed. -/
noncomputable def runBundle (b : Bundle) (s : State) : Out :=
  match b.a with
  | none => runWord b.c s
  | some a =>
    if performedLast b.c then
      match runWord b.c s with
      | .next p =>
        if p.notPerformed then waitBeside p (runWord a s)
        else
          match runWord a s with
          | .next q => if q.notPerformed then .next q else withoutPreO (runWord b.c { q with pre := some s.keep })
          | o => o
      | o => o
    else
      match runWord b.c s with
      | .next p =>
        if p.notPerformed then waitBeside p (runWord a s)
        else
          match runWord a { p with pre := some s.keep } with
          | .next q => if q.notPerformed then heldBack (runWord a s) s else .next { q with pre := none }
          | o => o
      | o => o

/-- A word that RETRY sends again: it alone is performed, with the registers of its issue, and the process goes on
where it stands (R215, R405). -/
noncomputable def runRedo (r : Redo) (rest : List Redo) (s : State) : Out :=
  let at_ := s.cur.pc
  let word := if r.isA then decodeA (r.ir.toNat / 2 ^ 32) else decodeC (r.ir.toNat % 2 ^ 32) (r.ir.toNat / 2 ^ 32)
  match word with
  | .error _ => .next { s with cur := { s.cur with redo := rest } }
  | .ok c =>
    match runWord c { s with pre := some r.regs, ir := r.ir, cur := { s.cur with pc := r.pc, redo := rest } } with
    | .next q => .next ((q.fillDest c r.isA).afterRedo at_)
    | o => o

/-- The bundle at the program counter of the selected process or helper (R215). -/
noncomputable def issueBundle (s : State) : Out :=
  match s.cur.redo with
  | r :: rest => runRedo r rest s
  | [] =>
    match fetchBundle s with
    | .error s => .next s
    | .ok s =>
      let lo := s.ir.toNat % 2 ^ 32
      if lo = 0 then raiseO s 0x002 s.cur.pc
      else
        match decodeBundle lo (s.ir.toNat / 2 ^ 32) with
        | .error (_, w) => raiseO s 0x001 (BitVec.ofNat 64 (s.firstBad lo w))
        | .ok b =>
          match decodeCheck s b with
          | some (cause, tval) => raiseO s cause tval
          | none =>
            if bundlePending s.cur b then .next s.stall
            else if transfers b.c && s.atLoopEnd then raiseO s 0x004 s.cword
            else
              match runBundle b s with
              | .next q => .next (((q.fillDest b.c false).fillDest (b.a.getD b.c) true).endBundle s (b.c.isTrap))
              | o => o

/-- One word of a fabric unit's program (R395, R396). -/
noncomputable def issueFabric (u : Nat) (s : State) : Out :=
  let f := SMap.get FabUnit.empty s.fabric u
  match decodeX (f.store.getD f.pc 0).toNat with
  | .error _ => .next (s.stopFabric u)
  | .ok i =>
    match runWord i { s with curX := u, xfer := .seq } with
    | .next q => .next (q.endFabric u)
    | o => o

/-- One issuer tries to issue: the slots of a core in the order of R204, a helper, or a fabric unit. `none` says that
nothing of it can issue now. -/
noncomputable def trySlots (s : State) (p : Nat) (ks : List (Nat × Bool)) : Option Out :=
  match ks with
  | [] => none
  | (k, rotates) :: rest =>
    match (s.startSlot p k) with
    | none => trySlots s p rest
    | some (.spent q) => some (.next (q.turned p k rotates))
    | some (.issue s1) =>
      match issueBundle s1 with
      | .next q =>
        if q.xfer = .again && q.cur.chunk == s1.cur.chunk && q.accs == s1.accs then trySlots s p rest
        else some (.next (q.turned p k rotates))
      | o => some o

/-- The issuers in cyclic order after the last one. -/
noncomputable def tryIssuers (s : State) (us : List Nat) : Option Out :=
  match us with
  | [] => none
  | u :: rest =>
    let r :=
      if u ≥ 4096 then some (issueFabric (u - 4096) s)
      else if u % 3 = 0 then trySlots s (u / 3) (s.slotOrder (u / 3))
      else
        match issueBundle (s.startHelper (2 * (u / 3) + u % 3 - 1)) with
        | .next q => if q.xfer = .again && q.accs == s.accs then none else some (.next q)
        | o => some o
    match r with
    | some (.next q) => some (.next { q with lastCore := u, agenda := q.blocked ++ q.agenda, blocked := [] })
    | some o => some o
    | none => tryIssuers s rest

/-- Nothing can issue: steps that waited are tried again, or the detector looks at the package (R190). -/
def idle (s : State) : State :=
  if s.lookForDeadlock.quiet != s.quiet then s.lookForDeadlock else { s with agenda := s.blocked ++ s.agenda, blocked := [] }

/-- Issue by some issuer, or idle. -/
noncomputable def issueStep (s : State) : Out :=
  match tryIssuers s s.issuers with
  | some o => o
  | none => .next (idle s)

/-- One step of the machine. Steps in flight come first unless a choice in `sched` says otherwise (DESIGN CHOICE, log entry 1).
DESIGN CHOICE, log entry 9. -/
noncomputable def step (s : State) : Host.Outcome State Fault Refusal :=
  let s := s.tick.watchLines
  match s.choose with
  | (some e, s) => runWord e.toInstr { s with xfer := .seq, pre := none, cause := e.cause }
  | (none, s) => issueStep s

/-! ### Placing an instruction where the next step fetches (DESIGN CHOICE, log entry 4) -/

/-- The process, in slot 0 of core 0, that runs the placed instruction: its record and its code lie in its slice.
DESIGN CHOICE, log entry 79. -/
def placedProc : Proc :=
  { Proc.empty with pid := sliceAddr 0 0x100, unit := 0, st := .running, pc := BitVec.ofNat 64 (sliceAddr 0 0x1000) }

/-- `s` started: layer 0 of tower 0 computes, context 0 is a supervisor with every window, and no step is in flight. -/
def State.opened (s : State) : State :=
  { s with agenda := [], blocked := [], timers := [], sched := [], parity := [], boot := { s.boot with stage := 4, started := false },
           roles := SMap.put 0 s.roles 0 2, lastCore := 4095,
           descs := SMap.put none s.descs 0 (some { valid := true, sup := true, dev := true, xhost := true, root0 := 0,
                                                    root1 := 0, mbox := 0, windows := [openWindow] }) }

/-- The placed process in its slot. -/
def State.withProc (s : State) : State :=
  { s with cur := placedProc,
           cores := SMap.put Core.empty s.cores 0 { Core.empty with lcore := 0, slots := Core.empty.slots.set 0 placedProc.pid } }

/-- `s` with the instruction of a table word where `step` fetches next: a C-word or an A-word (beside `cnop`) at the
process's program counter, a helper's word in the loader's instruction store, a fabric word in unit 0's store.
DESIGN CHOICE, log entry 79. -/
noncomputable def State.withFetchWord (s : State) (nbits w : Nat) : State :=
  let lo := w % 2 ^ 32
  match decodeTableWord nbits w with
  | some i =>
    let bundle := if isCWord i then w % 2 ^ 64 else 0x2000000 + lo * 2 ^ 32
    if isFabricWord i then
      { s.opened with cores := [], fabric := SMap.put FabUnit.empty s.fabric 0
                        { FabUnit.empty with store := [BitVec.ofNat 32 lo] } }
    else if helperOnly i then
      { s.opened with cores := [],
                      cur := { Proc.empty with pid := helperKey 0, unit := 8, st := .running },
                      helpers := SMap.put Helper.empty s.helpers 0 { Helper.empty with run := 1 },
                      hstore := writeNat s.hstore 0 8 bundle }
    else { s.opened.withProc with mem := writeNat s.mem placedProc.pc.toNat 8 bundle }
  | none => { s.opened.withProc with mem := writeNat s.mem placedProc.pc.toNat 8 (w % 2 ^ 64) }

end Sys2Proof.Machine
end

