-- ==== Sys2Proof/Safety.lean ====
section
/-! DEFINITION. What counts as a safe run: the invariants that claims use. -/

namespace Sys2Proof.Machine

/-- Memory and instruction stores are in canonical form. -/
def State.memOk (s : State) : Prop := Memory.wf s.mem = true ∧ Memory.wf s.hstore = true

end Sys2Proof.Machine
end

