-- ==== Sys2Proof/Certificates/Slice0/Obligations.lean ====
section
/-! DEFINITION. What is claimed of the machine, from the rules of the spec; each statement cites its rules. -/

open Sys2Proof Sys2Proof.Machine

/-- Words written out in the spec, and what they stand for (R212–R223, R277, R396).
What of it the spec leaves open (log entry 8) is the model's choice. -/
def Obligations.WordsOfTheSpecDecode : Prop :=
  decodeC 0x18010003 0 = .ok (.lpi none 2 3) ∧
  decodeC 0x0C707FFE 0 = .ok (.bne none 7 0 0x7FFE) ∧
  decodeC 0x363217A4 0 = .ok (.aadd none 3 4 5 .acqrel 5) ∧
  decodeC 0x303234C0 0 = .ok (.ldv none 3 4 .acq 5 6) ∧
  decodeC 0x34021800 0 = .ok (.rcl none 4 6 .rlx 0) ∧
  decodeC 0x38007000 0 = .ok (.fence none .acqrel 4) ∧
  decodeC 0x56221410 0 = .ok (.stn none 2 4 5 .rlx 0) ∧
  decodeC 0x40321400 0 = .ok (.csend none 3 4 5) ∧
  decodeC 0x46321401 0 = .ok (.spawnk none 3 4 5) ∧
  decodeC 0x4A300050 0 = .ok (.mfs none 3 0x050) ∧
  decodeC 0x4A002005 0 = .ok (.trap none 5) ∧
  decodeC 0x58021404 0 = .ok (.hstart none 4 5) ∧
  decodeC 0x3C120020 0 = .ok (.vld none 1 4 0 .s32 0) ∧
  decodeC 0x4C021406 0 = .ok (.mmac none 4 5) ∧
  decodeC 0x4E031600 0 = .ok (.cpy none 6 5 1) ∧
  decodeC 0xD4900000 0xA7E24681 = .ok (.lic (some 0xA7E24681) 9 0) ∧
  decodeA 0x08E00004 = .ok (.addi 7 0 4) ∧
  decodeA 0x29225C3B = .ok (.lui 9 2 0x5C3B) ∧
  decodeA 0x04A51800 = .ok (.add 5 5 3) ∧
  decodeA 0x1C642804 = .ok (.divS 3 4 5) ∧
  decodeA 0x20A63A0A = .ok (.sel 5 6 7 8) ∧
  decodeA 0x30A63A00 = .ok (.fmadd 5 6 7 8) ∧
  decodeA 0x34640017 = .ok (.fcvtE4m3F32 3 4) ∧
  decodeA 0x40221800 = .ok (.vadd 1 2 3 0 .f32) ∧
  decodeA 0x448531C0 = .ok (.vfma 4 5 6 7 0) ∧
  decodeA 0x48411112 = .ok (.vlt 2 1 2 1 .s32) ∧
  decodeA 0x50410040 = .ok (.vcvt 2 1 0 .e4m3 .f32) ∧
  decodeA 0x58610000 = .ok (.vrsum 3 1 0 .f32) ∧
  decodeA 0x60674002 = .ok (.skquant 3 7 8) ∧
  decodeX 0x0448C001 = .ok (.xadd 1 2 3 1) ∧
  decodeX 0x00000000 = .ok (.xend) ∧
  (∀ i, decodeC 0 0 ≠ .ok i) ∧ (∀ i, decodeC 0x02C00000 0 ≠ .ok i) ∧ (∀ i, decodeA 1 ≠ .ok i) ∧ (∀ i, decodeX 0x28000000 ≠ .ok i)

/-- Decoding undoes encoding (R211–R223, R396). -/
def Obligations.DecodingUndoesEncoding : Prop :=
  (∀ i : Instr, wellFormed i = true →
    (isCWord i = true → decodeC ((encode i).getD 0 0).toNat ((encode i).getD 1 0).toNat = .ok i ∧
      (encode i).length = if (loneOf i).isSome then 2 else 1) ∧
    (isAWord i = true → decodeA ((encode i).getD 0 0).toNat = .ok i ∧ (encode i).length = 1) ∧
    (isFabricWord i = true → decodeX ((encode i).getD 0 0).toNat = .ok i ∧ (encode i).length = 1)) ∧
  (∀ i j : Instr, wellFormed i = true → wellFormed j = true → encode i = encode j →
    (isCWord i = true ∧ isCWord j = true) ∨ (isAWord i = true ∧ isAWord j = true) ∨ (isFabricWord i = true ∧ isFabricWord j = true) →
    i = j)

/-- What `step` does with a decoded instruction (R204, R211–R215, R395).
What of it the spec leaves open (log entry 1) is the model's choice. -/
def Obligations.StepRunsTheDecodedBundle : Prop :=
  (∀ (s u : State) (e : Ev), s.tick.watchLines.choose = (some e, u) →
      step s = exec e.toInstr { u with xfer := .seq, pre := none, cause := e.cause }) ∧
  (∀ s u : State, s.tick.watchLines.choose = (none, u) → u.issuers = [] → step s = .next (idle u)) ∧
  (∀ (s u v : State) (p k : Nat) (rot : Bool) (us : List Nat) (ks : List (Nat × Bool)),
    s.tick.watchLines.choose = (none, u) → u.issuers = 3 * p :: us → 3 * p < 4096 → u.slotOrder p = (k, rot) :: ks →
    u.startSlot p k = some (.issue v) → ∀ q, issueBundle v = .next q → (q.xfer = .again → q.accs ≠ v.accs) →
    step s = .next (let r := q.turned p k rot
      { r with lastCore := 3 * p, agenda := r.blocked ++ r.agenda, blocked := [] })) ∧
  (∀ (s u : State) (c : Instr) (b : Bundle), s.cur.redo = [] → fetchBundle s = .ok u → u.ir.toNat % 2 ^ 32 ≠ 0 →
    decodeBundle (u.ir.toNat % 2 ^ 32) (u.ir.toNat / 2 ^ 32) = .ok b → b.c = c → decodeCheck u b = none →
    bundlePending u.cur b = false → (transfers c = false ∨ u.atLoopEnd = false) →
    (∀ q, runBundle b u = .next q →
      issueBundle s = .next (((q.fillDest c false).fillDest (b.a.getD c) true).endBundle u c.isTrap)) ∧
    (b.a = none → runBundle b u = exec c u) ∧
    (∀ a p q keep, b.a = some a → keep = u.keep →
      (performedLast c = false → exec c u = .next p → p.notPerformed = false →
        exec a { p with pre := some keep } = .next q → q.notPerformed = false → runBundle b u = .next { q with pre := none }) ∧
      (performedLast c = true → exec c u = .next p → p.notPerformed = false → exec a u = .next q → q.notPerformed = false →
        ∀ r, exec c { q with pre := some keep } = .next r → runBundle b u = .next { r with pre := none }))) ∧
  (∀ (s : State) (n : Nat) (f : FabUnit) (i : Instr), SMap.get FabUnit.empty s.fabric n = f →
    decodeX (f.store.getD f.pc 0).toNat = .ok i → ∀ q, exec i { s with curX := n, xfer := .seq } = .next q →
    issueFabric n s = .next (q.endFabric n))

/-- The machine after reset (R19, R103, R204, R209, R447). The bytes of HBM, which the spec leaves open, are log entry 3's.
What of it the spec leaves open (log entries 3 and 4) is the model's choice. -/
def Obligations.ResetLeavesTheValuesTheSpecGives : Prop :=
  ∀ (a p : Nat), byteAt State.reset.mem a = 0 ∧
    sideDepth (State.reset.sideOf a) = 0 ∧ sideState (State.reset.sideOf a) = 2 ∧ sideVersion (State.reset.sideOf a) = 0 ∧
    sideScope (State.reset.sideOf a) = 0 ∧ State.reset.isPoison a = false ∧ State.reset.isLocked a = false ∧ State.reset.memOk ∧
    State.reset.reg a = regReset a ∧
    field (State.reset.reg regPartctl) 8 24 = 0x2710 ∧ State.reset.reg regPartstat = 0 ∧
    field (State.reset.reg regThermctl) 36 12 = 0x690 ∧ field (State.reset.reg regThermctl) 24 12 = 0x5F0 ∧
    field (State.reset.reg regThermctl) 16 8 = 0x0A ∧ field (State.reset.reg regThermctl) 0 3 = 6 ∧
    (State.reset.core p).slots = Vector.replicate 8 0 ∧ (State.reset.core p).rot = 0 ∧ State.reset.role 0 p = 0 ∧
    State.reset.boot.stage = 0 ∧ State.reset.boot.started = true ∧ State.reset.agenda = [.bootStage .ok] ∧
    State.reset.blocked = [] ∧ State.reset.issuers = []

/-- No state stops the machine (R5, R215, R401). -/
def Obligations.EveryInstructionAndEveryStepGoesOn : Prop :=
  (∀ (i : Instr) (s : State), ∃ t, exec i s = .next t) ∧ (∀ s : State, ∃ t, step s = .next t)

/-- Memory as data: canonical form, and reads after writes (R64, R65, R105–R111, R125). -/
def Obligations.OwnersKeepMemoryCanonicalAndReadBackWrites : Prop :=
  State.reset.memOk ∧
  (∀ (s : State) (a b n : Nat) (x : Word) (bs : List Byte), Memory.wf s.mem = true →
    (s.poke a x).peek a = x ∧ Memory.wf (s.poke a x).mem = true ∧
    (b < a ∨ a + 8 ≤ b → byteAt (s.poke a x).mem b = byteAt s.mem b) ∧
    bytesAt (putBytes s.mem a bs) a bs.length = bs ∧ Memory.wf (putBytes s.mem a bs) = true ∧
    (b < a ∨ a + bs.length ≤ b → byteAt (putBytes s.mem a bs) b = byteAt s.mem b) ∧
    (x.toNat < 256 ^ n → readNat (writeNat s.mem a n x.toNat) a n = x.toNat)) ∧
  (∀ m k : List Host.Cell, Memory.wf m = true → Memory.wf k = true → (∀ a, byteAt m a = byteAt k a) → m = k) ∧
  (∀ (s : State) (r : Req), Memory.wf s.mem = true →
    (∀ t x fl m, perform s r = .done t x fl m → Memory.wf t.mem = true ∧ t.hstore = s.hstore) ∧
    (∀ t f, perform s r = .fault t f → t.mem = s.mem ∧ t.hstore = s.hstore))

/-- General registers (R9, R213, R214, R230). -/
def Obligations.GeneralRegistersHoldWhatIsWritten : Prop :=
  ∀ (s : State) (r q : Reg) (x : Word),
    s.g 0 = 0 ∧ s.setG 0 x = s ∧ s.cur.rg 0 = 0 ∧ s.cur.isPend 0 = false ∧ (s.cur.setPend 0) = s.cur ∧
    (r ≠ 0 → s.pre = none → (s.setG r x).g r = x) ∧ (r ≠ 0 → (s.setG r x).cur.rg r = x) ∧
    (q ≠ r → (s.setG r x).cur.rg q = s.cur.rg q) ∧
    (s.setG r x = { s with cur := { s.cur with g := (s.setG r x).cur.g } }) ∧
    (∀ p, s.pre = some p → (s.setG r x).g q = s.g q) ∧
    (r ≠ 0 → (s.cur.deliver (r, x)).rg r = x ∧ (s.cur.setPend r).isPend r = true) ∧
    (s.cur.deliver (r, x)).isPend r = false ∧ (q ≠ r → (s.cur.deliver (r, x)).isPend q = s.cur.isPend q)

/-- The order of steps in flight (R66, R68, R69, R83, R84, R126, R137; log entries 1 and 84).
What of it the spec leaves open (log entries 1 and 84) is the model's choice. -/
def Obligations.StepsInFlightKeepTheirOrder : Prop :=
  (∀ s : State,
    (∀ e u, s.choose = (some e, u) → ∃ k f, s.agenda[k]? = some e ∧
      (∀ j < k, ∀ f, s.agenda[j]? = some f → laneOf f ≠ laneOf e) ∧
      admitted (s.blocked ++ s.agenda.take k) e = true ∧ passAllowed (s.blocked ++ s.agenda.take k) e = true ∧
      (f = id ∨ f = countPass e) ∧ u = { s with agenda := (s.agenda.take k).map f ++ s.agenda.drop (k + 1),
                                                blocked := s.blocked.map f, sched := s.sched.drop 1 } ∧
      u.agenda.length + 1 = s.agenda.length) ∧
    (∀ u, s.choose = (none, u) → u = { s with sched := s.sched.drop 1 }) ∧
    (∀ e r, s.sched = [] → s.blocked = [] → s.agenda = e :: r → s.choose = (some e, { s with agenda := r })) ∧
    (s.sched = [] → s.agenda = [] → s.choose = (none, s))) ∧
  (∀ e b : Ev, laneOf (countPass e b) = laneOf b) ∧
  (∀ r q : Req, r.agent = q.agent → r.core = q.core → r.unit = q.unit → r.space = q.space → r.pa = q.pa →
    laneOf (.ownerAccess r) = laneOf (.ownerAccess q)) ∧
  (∀ (r : Req) (d : Done), laneOf (.ownerAccess r) ≠ laneOf (.loadReturn d))

/-- The alu and immediate families, `lui` and `anop` (R219, R261, R262, R266). -/
def Obligations.IntegerSumsLogicAndShifts : Prop :=
  ∀ (s : State) (d a b : Reg),
    exec .anop s = .next s ∧
    exec (.add d a b) s = .next (s.setG d (s.g a + s.g b)) ∧
    exec (.sub d a b) s = .next (s.setG d (s.g a - s.g b)) ∧
    exec (.andR d a b) s = .next (s.setG d (s.g a &&& s.g b)) ∧
    exec (.orR d a b) s = .next (s.setG d (s.g a ||| s.g b)) ∧
    exec (.xor d a b) s = .next (s.setG d (s.g a ^^^ s.g b)) ∧
    exec (.andn d a b) s = .next (s.setG d (s.g a &&& ~~~(s.g b))) ∧
    exec (.sll d a b) s = .next (s.setG d (s.g a <<< ((s.g b).toNat % 64))) ∧
    exec (.srl d a b) s = .next (s.setG d (s.g a >>> ((s.g b).toNat % 64))) ∧
    exec (.sra d a b) s = .next (s.setG d ((s.g a).sshiftRight ((s.g b).toNat % 64))) ∧
    exec (.rol d a b) s = .next (s.setG d ((s.g a).rotateLeft ((s.g b).toNat % 64))) ∧
    exec (.addw d a b) s = .next (s.setG d (((s.g a + s.g b).setWidth 32).signExtend 64)) ∧
    exec (.subw d a b) s = .next (s.setG d (((s.g a - s.g b).setWidth 32).signExtend 64)) ∧
    (∀ sum : Int, sum = (s.g a).toInt + (s.g b).toInt →
      exec (.addsS d a b) s = .next (
        if sum < -(2 ^ 63) then s.setClamped d (BitVec.ofInt 64 (-(2 ^ 63)), flSAT)
        else if 2 ^ 63 - 1 < sum then s.setClamped d (BitVec.ofInt 64 (2 ^ 63 - 1), flSAT)
        else s.setClamped d (BitVec.ofInt 64 sum, 0))) ∧
    (∀ sum : Int, sum = ((s.g a).toNat : Int) + (s.g b).toNat →
      exec (.addsN d a b) s = .next (
        if 2 ^ 64 - 1 < sum then s.setClamped d (BitVec.ofInt 64 (2 ^ 64 - 1), flSAT)
        else s.setClamped d (BitVec.ofInt 64 sum, 0))) ∧
    (∀ dif : Int, dif = (s.g a).toInt - (s.g b).toInt →
      exec (.subsS d a b) s = .next (
        if dif < -(2 ^ 63) then s.setClamped d (BitVec.ofInt 64 (-(2 ^ 63)), flSAT)
        else if 2 ^ 63 - 1 < dif then s.setClamped d (BitVec.ofInt 64 (2 ^ 63 - 1), flSAT)
        else s.setClamped d (BitVec.ofInt 64 dif, 0))) ∧
    (∀ dif : Int, dif = ((s.g a).toNat : Int) - (s.g b).toNat →
      exec (.subsN d a b) s = .next (
        if dif < 0 then s.setClamped d (0, flSAT) else s.setClamped d (BitVec.ofInt 64 dif, 0))) ∧
    (∀ i : BitVec 16,
      exec (.addi d a i) s = .next (s.setG d (s.g a + i.signExtend 64)) ∧
      exec (.andi d a i) s = .next (s.setG d (s.g a &&& i.setWidth 64)) ∧
      exec (.ori d a i) s = .next (s.setG d (s.g a ||| i.setWidth 64)) ∧
      exec (.xori d a i) s = .next (s.setG d (s.g a ^^^ i.setWidth 64)) ∧
      ∀ k : BitVec 2, exec (.lui d k i) s =
        .next (s.setG d ((s.g d &&& ~~~(0xFFFF#64 <<< (16 * k.toNat))) ||| (i.setWidth 64 <<< (16 * k.toNat))))) ∧
    ∀ n : BitVec 6,
      exec (.slli d a n) s = .next (s.setG d (s.g a <<< n.toNat)) ∧
      exec (.srli d a n) s = .next (s.setG d (s.g a >>> n.toNat)) ∧
      exec (.srai d a n) s = .next (s.setG d ((s.g a).sshiftRight n.toNat)) ∧
      exec (.roli d a n) s = .next (s.setG d ((s.g a).rotateLeft n.toNat))

/-- Products, quotients with a divisor other than 0, comparisons and selections (R263, R264). -/
def Obligations.ProductsQuotientsAndComparisons : Prop :=
  ∀ (s : State) (d a b c : Reg),
    exec (.mul d a b) s = .next (s.setG d (BitVec.ofNat 64 ((s.g a).toNat * (s.g b).toNat))) ∧
    exec (.mulhS d a b) s = .next (s.setG d (BitVec.ofInt 64 ((s.g a).toInt * (s.g b).toInt / 2 ^ 64))) ∧
    exec (.mulhN d a b) s = .next (s.setG d (BitVec.ofNat 64 ((s.g a).toNat * (s.g b).toNat / 2 ^ 64))) ∧
    exec (.mulw d a b) s = .next (s.setG d (((s.g a * s.g b).setWidth 32).signExtend 64)) ∧
    (s.g b ≠ 0 →
      exec (.divS d a b) s = .next (
        if (s.g a).toInt = -(2 ^ 63) ∧ (s.g b).toInt = -1 then s.setClamped d (s.g a, flSAT)
        else s.setClamped d (BitVec.ofInt 64 ((s.g a).toInt.tdiv (s.g b).toInt), 0)) ∧
      exec (.divN d a b) s = .next (s.setClamped d (BitVec.ofNat 64 ((s.g a).toNat / (s.g b).toNat), 0)) ∧
      exec (.remS d a b) s = .next (s.setClamped d (BitVec.ofInt 64 ((s.g a).toInt.tmod (s.g b).toInt), 0)) ∧
      exec (.remN d a b) s = .next (s.setClamped d (BitVec.ofNat 64 ((s.g a).toNat % (s.g b).toNat), 0))) ∧
    exec (.seq d a b) s = .next (s.setG d (if s.g a = s.g b then 1 else 0)) ∧
    exec (.sne d a b) s = .next (s.setG d (if s.g a = s.g b then 0 else 1)) ∧
    exec (.sltS d a b) s = .next (s.setG d (if (s.g a).toInt < (s.g b).toInt then 1 else 0)) ∧
    exec (.sleS d a b) s = .next (s.setG d (if (s.g a).toInt ≤ (s.g b).toInt then 1 else 0)) ∧
    exec (.sltN d a b) s = .next (s.setG d (if (s.g a).toNat < (s.g b).toNat then 1 else 0)) ∧
    exec (.sleN d a b) s = .next (s.setG d (if (s.g a).toNat ≤ (s.g b).toNat then 1 else 0)) ∧
    exec (.minS d a b) s = .next (s.setG d (if (s.g a).toInt ≤ (s.g b).toInt then s.g a else s.g b)) ∧
    exec (.maxS d a b) s = .next (s.setG d (if (s.g a).toInt ≤ (s.g b).toInt then s.g b else s.g a)) ∧
    exec (.minN d a b) s = .next (s.setG d (if (s.g a).toNat ≤ (s.g b).toNat then s.g a else s.g b)) ∧
    exec (.maxN d a b) s = .next (s.setG d (if (s.g a).toNat ≤ (s.g b).toNat then s.g b else s.g a)) ∧
    exec (.sel d a b c) s = .next (s.setG d (if s.g c = 0 then s.g b else s.g a))

/-- The bit family (R265), each result stated by its bits. -/
def Obligations.BitFamilyResults : Prop :=
  ∀ (s : State) (d a b : Reg),
    (∃ n : Nat, exec (.clz d a) s = .next (s.setG d (BitVec.ofNat 64 n)) ∧ n ≤ 64 ∧
      (∀ i, 64 - n ≤ i → (s.g a).getLsbD i = false) ∧ (n < 64 → (s.g a).getLsbD (63 - n) = true)) ∧
    (∃ n : Nat, exec (.ctz d a) s = .next (s.setG d (BitVec.ofNat 64 n)) ∧ n ≤ 64 ∧
      (∀ i, i < n → (s.g a).getLsbD i = false) ∧ (n < 64 → (s.g a).getLsbD n = true)) ∧
    exec (.popc d a) s =
      .next (s.setG d (BitVec.ofNat 64 ((List.range 64).filter fun i => (s.g a).getLsbD i).length)) ∧
    (∃ x : Word, exec (.brev d a) s = .next (s.setG d x) ∧ ∀ i < 64, x.getLsbD i = (s.g a).getLsbD (63 - i)) ∧
    (∃ x : Word, exec (.bswap d a) s = .next (s.setG d x) ∧
      ∀ i < 64, x.getLsbD i = (s.g a).getLsbD (8 * (7 - i / 8) + i % 8)) ∧
    exec (.sextB d a) s = .next (s.setG d (((s.g a).setWidth 8).signExtend 64)) ∧
    exec (.sextH d a) s = .next (s.setG d (((s.g a).setWidth 16).signExtend 64)) ∧
    exec (.sextW d a) s = .next (s.setG d (((s.g a).setWidth 32).signExtend 64)) ∧
    exec (.zextW d a) s = .next (s.setG d (((s.g a).setWidth 32).setWidth 64)) ∧
    ∀ lo w : Nat, lo = (s.g b).toNat % 64 → w = (if (s.g b).toNat / 256 % 64 = 0 then 64 else (s.g b).toNat / 256 % 64) →
      (∃ x : Word, exec (.bext d a b) s = .next (s.setG d x) ∧
        ∀ i < 64, x.getLsbD i = (decide (i < w) && (s.g a).getLsbD (lo + i))) ∧
      ∃ x : Word, exec (.bins d a b) s = .next (s.setG d x) ∧
        ∀ i < 64, x.getLsbD i = if lo ≤ i ∧ i < lo + w then (s.g a).getLsbD (i - lo) else (s.g d).getLsbD i

/-- Scalar floating-point arithmetic completes unless a subnormal source traps (R267, R268, R238, R241).
What of it the spec leaves open (log entries 10 and 18) is the model's choice. -/
def Obligations.FloatArithmeticCompletes : Prop :=
  ∀ (s : State) (d a b c : Reg) (x y z : W32) (md : Mode),
    x = (s.g a).setWidth 32 → y = (s.g b).setWidth 32 → z = (s.g c).setWidth 32 → md = Mode.ofFcr s.fcr false s.rsRead →
    (∀ r : W32 × Flags, s.setFp d (r.1.setWidth 64) r.2 s.cur.rs =
      { s with cur := { ((s.cur.setG d (r.1.setWidth 64)).orFsr r.2) with rs := s.cur.rs },
               aflags := s.aflags ||| (r.2 &&& BitVec.ofNat 7 (s.fcr.toNat / 256 % 32)) }) ∧
    ((s.fcr.toNat / 8 % 4 = 0 → isSub32 x = false ∧ isSub32 y = false) →
      exec (.fadd d a b) s = .next (s.setFp d ((faddOp md x y).1.setWidth 64) (faddOp md x y).2 s.cur.rs) ∧
      exec (.fsub d a b) s = .next (s.setFp d ((fsubOp md x y).1.setWidth 64) (fsubOp md x y).2 s.cur.rs) ∧
      exec (.fmul d a b) s = .next (s.setFp d ((fmulOp md x y).1.setWidth 64) (fmulOp md x y).2 s.cur.rs) ∧
      exec (.fdiv d a b) s = .next (s.setFp d ((fdivOp md x y).1.setWidth 64) (fdivOp md x y).2 s.cur.rs)) ∧
    ((s.fcr.toNat / 8 % 4 = 0 → isSub32 x = false) →
      exec (.fsqrt d a) s = .next (s.setFp d ((fsqrtOp md x).1.setWidth 64) (fsqrtOp md x).2 s.cur.rs)) ∧
    ((s.fcr.toNat / 8 % 4 = 0 → isSub32 x = false ∧ isSub32 y = false ∧ isSub32 z = false) →
      ∀ r : Bool → Bool → W32 × Flags, (∀ p q, r p q = fmaOp md p q x y z) →
        exec (.fmadd d a b c) s = .next (s.setFp d ((r false false).1.setWidth 64) (r false false).2 s.cur.rs) ∧
        exec (.fmsub d a b c) s = .next (s.setFp d ((r false true).1.setWidth 64) (r false true).2 s.cur.rs) ∧
        exec (.fnmadd d a b c) s = .next (s.setFp d ((r true true).1.setWidth 64) (r true true).2 s.cur.rs) ∧
        exec (.fnmsub d a b c) s = .next (s.setFp d ((r true false).1.setWidth 64) (r true false).2 s.cur.rs)) ∧
    exec (.fabs d a) s = .next (s.setG d ((x &&& 0x7FFFFFFF).setWidth 64)) ∧
    exec (.fneg d a) s = .next (s.setG d ((x ^^^ 0x80000000).setWidth 64)) ∧
    exec (.fsgnj d a b) s = .next (s.setG d (((x &&& 0x7FFFFFFF) ||| (y &&& 0x80000000)).setWidth 64))

/-- Comparisons, classes, keys, minima and maxima (R250, R251, R267, R269). `v` is the value of a pattern that is no NaN, in
the order of its sign and magnitude; `n` says that a pattern is a NaN. -/
def Obligations.FloatComparisonsFollowTheNumericOrder : Prop :=
  ∀ (s : State) (d a b : Reg) (x y : W32) (n : W32 → Prop) [DecidablePred n] (v : W32 → Int) (key : W32 → Nat),
    x = (s.g a).setWidth 32 → y = (s.g b).setWidth 32 →
    (∀ w : W32, n w ↔ w.toNat / 2 ^ 23 % 256 = 255 ∧ w.toNat % 2 ^ 23 ≠ 0) →
    (∀ w : W32, v w = if w.toNat < 2 ^ 31 then (w.toNat : Int) else -((w.toNat - 2 ^ 31 : Nat) : Int)) →
    (∀ w : W32, key w = if w.toNat < 2 ^ 31 then w.toNat + 2 ^ 31 else 2 ^ 32 - 1 - w.toNat) →
    exec (.feq d a b) s = .next (s.setG d (if ¬ n x ∧ ¬ n y ∧ v x = v y then 1 else 0)) ∧
    exec (.flt d a b) s = .next (s.setG d (if ¬ n x ∧ ¬ n y ∧ v x < v y then 1 else 0)) ∧
    exec (.fle d a b) s = .next (s.setG d (if ¬ n x ∧ ¬ n y ∧ v x ≤ v y then 1 else 0)) ∧
    exec (.funord d a b) s = .next (s.setG d (if n x ∨ n y then 1 else 0)) ∧
    exec (.fclass d a) s = .next (s.setG d (
      if n x then 256
      else if x.toNat / 2 ^ 23 % 256 = 255 then (if x.toNat < 2 ^ 31 then 128 else 1)
      else if x.toNat % 2 ^ 31 = 0 then (if x.toNat < 2 ^ 31 then 16 else 8)
      else if x.toNat / 2 ^ 23 % 256 = 0 then (if x.toNat < 2 ^ 31 then 32 else 4)
      else if x.toNat < 2 ^ 31 then 64 else 2)) ∧
    exec (.fkey d a) s = .next (s.setG d (BitVec.ofNat 64 (key x))) ∧
    exec (.fmint d a b) s = .next (s.setG d ((if key x ≤ key y then x else y).setWidth 64)) ∧
    exec (.fmaxt d a b) s = .next (s.setG d ((if key y ≤ key x then x else y).setWidth 64)) ∧
    exec (.fmin d a b) s = .next (s.setG d (if n x ∨ n y then 0x7FC00000 else (if key x ≤ key y then x else y).setWidth 64)) ∧
    exec (.fmax d a b) s = .next (s.setG d (if n x ∨ n y then 0x7FC00000 else (if key y ≤ key x then x else y).setWidth 64))

/-- Conversions complete (R243–R249, R270).
What of it the spec leaves open (log entry 10) is the model's choice. -/
def Obligations.FloatConversionsComplete : Prop :=
  ∀ (s : State) (d a : Reg) (x : W32) (md : Mode), x = (s.g a).setWidth 32 → md = Mode.ofFcr s.fcr true s.rsRead →
    ∀ put : FRes → State, (∀ r, put r = s.setFp d (BitVec.ofNat 64 r.bits) r.flags (s.drawn r.rs)) →
    exec (.fcvtF32S32 d a) s = .next (put (roundF fmtF32 md (decide (x.toInt < 0)) x.toInt.natAbs 0)) ∧
    exec (.fcvtF32S64 d a) s = .next (put (roundF fmtF32 md (decide ((s.g a).toInt < 0)) (s.g a).toInt.natAbs 0)) ∧
    exec (.fcvtF32N32 d a) s = .next (put (roundF fmtF32 md false x.toNat 0)) ∧
    exec (.fcvtF32E4m3 d a) s = .next (put (convF fmtE4m3 fmtF32 md false ((s.g a).toNat % 256))) ∧
    exec (.fcvtE4m3F32 d a) s = .next (put (convF fmtF32 fmtE4m3 md false x.toNat)) ∧
    exec (.fcvtF32E2m1 d a) s = .next (put (convF fmtE2m1 fmtF32 md false ((s.g a).toNat % 16))) ∧
    exec (.fcvtE2m1F32 d a) s = .next (put (convF fmtF32 fmtE2m1 md false x.toNat)) ∧
    ((s.fcr.toNat / 8 % 4 = 0 → isSubF fmtBf16 ((s.g a).toNat % 2 ^ 16) = false) →
      exec (.fcvtF32Bf16 d a) s = .next (put (convF fmtBf16 fmtF32 md true ((s.g a).toNat % 2 ^ 16)))) ∧
    ((s.fcr.toNat / 8 % 4 = 0 → isSub32 x = false) →
      exec (.fcvtBf16F32 d a) s = .next (put (convF fmtF32 fmtBf16 md true x.toNat)) ∧
      (∀ (n : Bool) (m : Nat) (e : Int) (q : Nat × Bool × Word) (i : Int),
        srcF fmtF32 md x.toNat = (.fin n m e, 0) → q = quantize md n m e 0 → i = (if n then -(q.1 : Int) else q.1) →
        exec (.fcvtS32F32 d a) s = .next (
          if 2 ^ 31 - 1 < i then s.setFp d 0x7FFFFFFF flNV (s.drawn q.2.2)
          else if i < -(2 ^ 31) then s.setFp d 0xFFFFFFFF80000000 flNV (s.drawn q.2.2)
          else s.setFp d (BitVec.ofInt 64 i) (if q.2.1 then flNX else 0) (s.drawn q.2.2)) ∧
        exec (.fcvtS64F32 d a) s = .next (
          if 2 ^ 63 - 1 < i then s.setFp d 0x7FFFFFFFFFFFFFFF flNV (s.drawn q.2.2)
          else if i < -(2 ^ 63) then s.setFp d 0x8000000000000000 flNV (s.drawn q.2.2)
          else s.setFp d (BitVec.ofInt 64 i) (if q.2.1 then flNX else 0) (s.drawn q.2.2)) ∧
        exec (.fcvtN32F32 d a) s = .next (
          if 2 ^ 32 - 1 < i then s.setFp d 0xFFFFFFFF flNV (s.drawn q.2.2)
          else if i < 0 then s.setFp d 0 flNV (s.drawn q.2.2)
          else s.setFp d (BitVec.ofInt 64 i) (if q.2.1 then flNX else 0) (s.drawn q.2.2))) ∧
      (isNaN32 x = true → exec (.fcvtS32F32 d a) s = .next (s.setFp d 0 flNV s.cur.rs) ∧
        exec (.fcvtS64F32 d a) s = .next (s.setFp d 0 flNV s.cur.rs) ∧
        exec (.fcvtN32F32 d a) s = .next (s.setFp d 0 flNV s.cur.rs)))

/-- Rounding (R232, R236, R240): `p` is the number of finer units in one coarser unit, `n` the rounded number of coarser ones. -/
def Obligations.RoundingIsByTheModeAndKeepsRepresentableValues : Prop :=
  (∀ (md : Mode) (neg : Bool) (m : Nat) (e q : Int) (p n : Nat), e < q → p = 2 ^ (q - e).toNat → n = (quantize md neg m e q).1 →
    ((quantize md neg m e q).2.1 = true ↔ m % p ≠ 0) ∧
    (m % p = 0 → n * p = m) ∧
    (md.rm = 0 → 2 * ((n : Int) * p - m).natAbs ≤ p ∧ (2 * ((n : Int) * p - m).natAbs = p → n % 2 = 0)) ∧
    (md.rm = 1 → n * p ≤ m ∧ m < (n + 1) * p) ∧
    (md.rm = 2 → neg = false → n * p ≤ m ∧ m < (n + 1) * p) ∧
    (md.rm = 2 → neg = true → m ≤ n * p ∧ n * p < m + p) ∧
    (md.rm = 3 → neg = true → n * p ≤ m ∧ m < (n + 1) * p) ∧
    (md.rm = 3 → neg = false → m ≤ n * p ∧ n * p < m + p)) ∧
  ∀ (b : W32) (md : Mode), md.flush = false → isNaN32 b = false →
    roundV fmtF32 md (decodeF fmtF32 b.toNat) = { bits := b.toNat, flags := 0, rs := md.rs }

/-- Control transfers and `lic` (R266, R271–R273). `jumpTo` is the state whose bundle ends with a jump to an address; `left` the
same after the loops that the jump leaves have been popped (R277). -/
def Obligations.BranchesJumpsAndConstantsComplete : Prop :=
  ∀ (s : State) (l : Lone) (d a b : Reg) (o : BitVec 15) (o25 : BitVec 25) (far : Word) (jumpTo : State → Word → State)
    (left : Word → State),
    (∀ t x, jumpTo t x = { t with xfer := .jump x }) →
    (∀ x, left x = { jumpTo s x with cur := { s.cur with loops := leaveLoops x s.cur.loops s.cur.liveLoops } }) →
    far = s.cur.pc + 8 * (match l with | some e => e.signExtend 64 | none => o.signExtend 64) →
    exec (.cnop l) s = .next s ∧
    exec (.lic none d o) s = .next (s.setG d (o.signExtend 64)) ∧
    (∀ e : BitVec 32, exec (.lic (some e) d o) s = .next (s.setG d ((o ++ e : BitVec 47).signExtend 64))) ∧
    exec (.br l o25) s = .next (left (s.cur.pc + 8 * o25.signExtend 64)) ∧
    exec (.jal l o25) s = .next (jumpTo (s.setG 30 (s.cur.pc + 8)) (s.cur.pc + 8 * o25.signExtend 64)) ∧
    ((s.g a).toNat % 8 = 0 →
      exec (.jr l a) s = .next (left (s.g a)) ∧
      exec (.jalr l d a) s = .next (jumpTo (s.setG d (s.cur.pc + 8)) (s.g a))) ∧
    exec (.beq l a b o) s = .next (if s.g a = s.g b then left far else s) ∧
    exec (.bne l a b o) s = .next (if s.g a = s.g b then s else left far) ∧
    exec (.bltS l a b o) s = .next (if (s.g a).toInt < (s.g b).toInt then left far else s) ∧
    exec (.bgeS l a b o) s = .next (if (s.g a).toInt < (s.g b).toInt then s else left far) ∧
    exec (.bltN l a b o) s = .next (if (s.g a).toNat < (s.g b).toNat then left far else s) ∧
    exec (.bgeN l a b o) s = .next (if (s.g a).toNat < (s.g b).toNat then s else left far)

/-- Loops, `brk` and `halt` (R271, R274, R275).
What of it the spec leaves open (log entry 12) is the model's choice. -/
def Obligations.LoopsBreakpointsAndEndsComplete : Prop :=
  ∀ (s : State) (l : Lone) (a : Reg) (c10 : BitVec 10) (e : BitVec 15) (c22 : BitVec 22),
    (∀ (i : Instr) (count last : Word),
      (i = .lp l a e ∧ count = s.g a ∧ last = (match l with | some x => x.setWidth 64 | none => e.setWidth 64)) ∨
      (i = .lpi l c10 e ∧ count = (match l with | some x => x.setWidth 64 | none => c10.setWidth 64) ∧ last = e.setWidth 64) →
      (count = 0 → exec i s = .next { s with xfer := .jump (s.cur.pc + 8 * last + 8) }) ∧
      (count ≠ 0 → s.cur.loops.length < 4 →
        exec i s = .next { s with xfer := .jump (s.cur.pc + 8), cur := { s.cur with
          loops := { start := s.cur.pc + 8, stop := s.cur.pc + 8 * last, rem := count } :: s.cur.loops } })) ∧
    (s.speculating = false →
      (s.cur.isHelper = false → ∃ t, exec (.brk l c22) s = .next t ∧ (t.proc s.cur.pid).st = .faulted ∧
        ∃ hdr : Word, hdr.toNat % 512 = 7 ∧
          Ev.faultPost s.cur.ctx [hdr, BitVec.ofNat 64 s.cur.pid, s.cur.nextPc, c22.setWidth 64, 0, 0, 0, 0] ∈ t.agenda) ∧
      (s.cur.isHelper = true → ∃ t, exec (.brk l c22) s = .next t ∧ (t.proc s.cur.pid).st = .faulted ∧
        (SMap.get Helper.empty t.helpers (s.cur.pid - 2 ^ 64)).run = 2) ∧
      (s.cur.seq = [] → s.cur.vloop = none → s.cur.chan = 0 →
        (s.cur.isHelper = false → exec (.halt l) s = .next { (s.finish s.cur.pid) with xfer := .left }) ∧
        (s.cur.isHelper = true → s.cur.outst = [] → ∃ t, exec (.halt l) s = .next t ∧ t.xfer = .left ∧ t.cur.st = .free ∧
          (SMap.get Helper.empty t.helpers (s.cur.pid - 2 ^ 64)).run = 0)))

/-- `mfs`, `mts` and `xinv` (R52, R318, R320, R321). `p` is the issuing process, `x` its context.
What of it the spec leaves open (log entry 45) is the model's choice. -/
def Obligations.SystemRegistersReadAndWrite : Prop :=
  ∀ (s : State) (l : Lone) (d a : Reg) (p : Proc) (x : Ctxt) (v : Word) (k : BitVec 3),
    s.speculating = false → p = s.cur → x = s.ctx p.ctx → v = s.g a →
    (∀ e ∈ ([(0x001#12, p.fcr), (0x002#12, p.fsr), (0x010#12, BitVec.ofNat 64 p.pid), (0x011#12, p.ctx.setWidth 64),
        (0x012#12, BitVec.ofNat 64 (p.unit % 8)), (0x013#12, BitVec.ofNat 64 (s.core p.core).lcore), (0x015#12, p.prio.setWidth 64),
        (0x020#12, (p.ext[0]).setWidth 64), (0x021#12, (p.ext[1]).setWidth 64), (0x022#12, (p.ext[2]).setWidth 64),
        (0x023#12, (p.ext[3]).setWidth 64), (0x024#12, (p.org[0]).setWidth 64), (0x025#12, (p.org[1]).setWidth 64),
        (0x026#12, (p.org[2]).setWidth 64), (0x027#12, (p.org[3]).setWidth 64), (0x028#12, p.rank.setWidth 64),
        (0x029#12, p.nrank.setWidth 64), (0x030#12, p.vgrant), (0x040#12, p.tvec), (0x041#12, p.epc), (0x042#12, p.tcause),
        (0x043#12, p.tval), (0x044#12, p.tstat), (0x050#12, BitVec.ofNat 64 (s.clk - (s.core p.core).clk0)), (0x051#12, p.tmo),
        (0x061#12, p.chk), (0x070#12, x.logbase), (0x071#12, x.logsize), (0x072#12, x.loghead), (0x073#12, x.logtail), (0x074#12, x.logctl),
        (0x080#12, p.dpat), (0x081#12, p.seed), (0x0F0#12, p.smiss), (0x100#12, p.rs)] : List (BitVec 12 × Word)),
      exec (.mfs l d e.1) s = .next (s.setG d e.2)) ∧
    (v.toNat % 8 ≤ 4 → v.toNat / 8 % 4 ≤ 1 →
      exec (.mts l a 0x001) s = .next { s with cur := { p with fcr := v &&& 0x1F3F } }) ∧
    exec (.mts l a 0x002) s = .next { s with cur := { p with fsr := v &&& 0x7F } } ∧
    exec (.mts l a 0x040) s = .next { s with cur := { p with tvec := v &&& ~~~7#64 } } ∧
    exec (.mts l a 0x041) s = .next { s with cur := { p with epc := v } } ∧
    exec (.mts l a 0x044) s = .next { s with cur := { p with tstat := p.tstat &&& ~~~(v &&& 0x100) } } ∧
    exec (.mts l a 0x051) s = .next { s with cur := { p with tmo := v &&& 0xFFFFFFFF } } ∧
    exec (.mts l a 0x080) s = .next { s with cur := { p with dpat := v &&& 0x03FFFFFFF81FFFFF } } ∧
    exec (.mts l a 0x081) s = .next { s with cur := { p with seed := v, rs := if s.levelOf p.ctx = 0 then v else p.rs } } ∧
    exec (.mts l a 0x100) s = .next { s with cur := { p with rs := v } } ∧
    exec (.mts l a 0x0F0) s = .next { s with cur := { p with smiss := setField p.smiss 16 16 (v.toNat / 2 ^ 16 % 2 ^ 16) &&& ~~~(v &&& 1) } } ∧
    (∀ i : BitVec 12, sysRegListed i.toNat = true → exec (.mfs l d i) s = .next (s.setG d (s.sysReg i.toNat))) ∧
    (∀ i : BitVec 12, sysRegListed i.toNat = true → sysReadOnly i.toNat = false → (i = 0x001 → v.toNat % 8 ≤ 4 ∧ v.toNat / 8 % 4 ≤ 1) →
      exec (.mts l a i) s = .next (s.setSysReg i.toNat v)) ∧
    s.sysReg 0x060 = BitVec.ofNat 64 (x.dom % 2 * 4 + x.level % 4) ∧ s.sysReg 0x014 = pcoreOf p.core ∧
    s.setSysReg 0x070 v = s.writeLogbase p.ctx v ∧ s.setSysReg 0x071 v = s.writeLogsize p.ctx v ∧
    s.setSysReg 0x072 v = s.writeLoghead p.ctx v ∧ s.setSysReg 0x073 v = s.writeLogtail p.ctx v ∧
    s.setSysReg 0x074 v = s.writeLogctl p.ctx v ∧
    exec (.xinv l a 1) s = .next { s with tlb := s.tlb.filter fun e => e.2.glob || e.2.ctx != v.setWidth 8,
                                          upper := s.upper.filter fun e => e.word.getLsbD 6 || e.ctx != v.setWidth 8 } ∧
    exec (.xinv l a 2) s = .next { s with tlb := [], upper := [] } ∧
    exec (.xinv l a 3) s = .next { s with descs := SMap.put none s.descs (v.toNat % 256) none } ∧
    (v.toNat / 2 ^ 53 % 8 < 2 → v.toNat / 2 ^ 56 = 0 ∨ v.toNat / 2 ^ 56 = s.mynode →
      exec (.xinv l a 0) s = .next { s with tlb := s.tlb.filter fun e =>
        !((e.2.ctx == p.ctx || e.2.glob) && e.2.space == v.toNat / 2 ^ 53 % 8 && v.toNat % 2 ^ 53 / 2 ^ e.2.bits == e.2.vpage),
                                             upper := s.upper.filter fun e =>
        !((e.ctx == p.ctx || e.word.getLsbD 6) && e.space == v.toNat / 2 ^ 53 % 8 && v.toNat % 2 ^ 53 / 2 ^ (16 + 12 * e.level) == e.tag) }) ∧
    ∀ i : BitVec 12, (0x010 ≤ i.toNat ∧ i.toNat ≤ 0x030) ∨ i = 0x042 ∨ i = 0x043 ∨ i = 0x050 ∨ i = 0x060 ∨ i = 0x061 →
      exec (.mts l a i) s = .next (s.raise 0x005 s.cword p.pc [] true)

/-- Local traps: taken, nested, returned from (R263, R319, R399, R400). `trapped` is the process after a trap is taken. -/
def Obligations.TrapsAreTakenAndReturnedFrom : Prop :=
  ∀ (s : State) (l : Lone) (d a b : Reg) (n : BitVec 6) (trapped : Proc → Nat → Word → Word → Proc),
    (∀ p cause tval epc, trapped p cause tval epc =
      { p with tcause := BitVec.ofNat 64 cause, tval := tval, epc := epc, tstat := setField p.tstat 0 1 1,
               frozenLoops := p.loops.length, pc := p.tvec &&& ~~~7#64 }) →
    s.speculating = false → s.cur.isHelper = false →
    (s.cur.tvec ≠ 0 → s.cur.tstat.getLsbD 0 = false →
      (∀ cause tval epc words atIssue bundle, isTrap cause = true →
        s.raise cause tval epc words atIssue bundle = { s with cur := trapped s.cur cause tval epc, xfer := .gone }) ∧
      (s.g b = 0 →
        (∀ i ∈ [Instr.divS d a b, .divN d a b, .remS d a b, .remN d a b],
          exec i s = .next { s with cur := trapped s.cur 0x082 0 s.cur.pc, xfer := .gone })) ∧
      exec (.trap l n) s = .next { s.advance with
        cur := trapped s.advance.cur (0x1C0 + n.toNat) (s.aflags.setWidth 64) s.advance.cur.pc,
        xfer := .jump (s.cur.tvec &&& ~~~7#64), aflags := 0 }) ∧
    ((s.cur.tvec = 0 ∨ s.cur.tstat.getLsbD 0 = true) →
      ∀ cause tval epc words atIssue bundle, isTrap cause = true →
        ∃ t, s.raise cause tval epc words atIssue bundle = t ∧ t.cur.st = .faulted ∧ t.xfer = .gone ∧
          t.cur.epc = s.cur.epc ∧ t.cur.tcause = s.cur.tcause ∧ t.cur.tval = s.cur.tval ∧
          ∃ hdr : Word, hdr.getLsbD 27 = true ∧ hdr.toNat % 512 = cause % 512 ∧
            .faultPost s.cur.ctx (faultRecord hdr s.cur.pid bundle tval words) ∈ t.agenda) ∧
    (s.cur.tstat.getLsbD 0 = true → s.cur.seqStop = false →
      exec (.tret l) s = .next { s with xfer := .jump s.cur.epc, cur := { s.cur with
        tstat := setField s.cur.tstat 0 1 0, loops := s.cur.loops.drop (s.cur.loops.length - s.cur.frozenLoops),
        frozenLoops := 0, seqStop := false } }) ∧
    (s.cur.tvec ≠ 0 → s.cur.tstat.getLsbD 0 = false → s.cur.st = .running → s.cur.seqStop = true → s.cur.resident = true →
      s.cur.frozen = false → s.cur.waiting = false → s.cur.leaving = 0 → s.cur.chunk = none →
      ∀ cause tval, exec (.sequencerTrap s.cur.pid cause tval) s =
        .next { s with cur := trapped s.cur cause tval s.cur.pc, xfer := .seq })

/-- Loop counting (R276). `live` is the stack of R276; `frozen` holds the entries that stand below it while a local trap handler
runs (R274). -/
def Obligations.LoopsCountAtTheirEndBundle : Prop :=
  ∀ s : State,
    (∀ x, s.xfer = .jump x → s.advance = { s with cur := { s.cur with pc := x } }) ∧
    (s.xfer = .seq → ∀ live frozen : List Loop, s.cur.loops = live ++ frozen → frozen.length = s.cur.frozenLoops →
      (live = [] → s.advance = { s with cur := { s.cur with pc := s.cur.pc + 8 } }) ∧
      (∀ top rest, live = top :: rest →
        (top.stop ≠ s.cur.pc → s.advance = { s with cur := { s.cur with pc := s.cur.pc + 8 } }) ∧
        (top.stop = s.cur.pc → top.rem - 1 ≠ 0 → s.advance =
          { s with cur := { s.cur with pc := top.start, loops := { top with rem := top.rem - 1 } :: rest ++ frozen } }) ∧
        (top.stop = s.cur.pc → top.rem - 1 = 0 →
          s.advance = State.advance { s with cur := { s.cur with loops := rest ++ frozen } }))) ∧
    (∀ s0 : State, s.xfer ≠ .gone → s.xfer ≠ .left → s.xfer ≠ .again → s.aflags = 0 →
      s.endBundle s0 false = { s.advance.countChunk.askTurn with xfer := .seq })

/-- The conditional branches (R273). -/
def Obligations.ConditionalBranchesGoWhereTheirConditionSays : Prop :=
  ∀ (s : State) (l : Lone) (a b : Reg) (o : BitVec 15) (far : Word) (k : Nat) (i : Instr) (cond : Bool),
    (k, i, cond) ∈ [(5, .beq l a b o, decide (s.g a = s.g b)), (6, .bne l a b o, decide (s.g a ≠ s.g b)),
      (7, .bltS l a b o, decide ((s.g a).toInt < (s.g b).toInt)), (8, .bgeS l a b o, decide ((s.g b).toInt ≤ (s.g a).toInt)),
      (9, .bltN l a b o, decide ((s.g a).toNat < (s.g b).toNat)), (10, .bgeN l a b o, decide ((s.g b).toNat ≤ (s.g a).toNat))] →
    far = s.cur.pc + 8 * (match l with | some e => e.signExtend 64 | none => o.signExtend 64) →
    (∀ e : Nat, (l = none ∨ (l = some (BitVec.ofNat 32 e) ∧ o = 0)) →
      decodeC ((if l.isSome then 2 ^ 31 else 0) + k * 2 ^ 25 + a.toNat * 2 ^ 20 + b.toNat * 2 ^ 15 + o.toNat) e = .ok i) ∧
    (s.xfer = .seq → s.atLoopEnd = false → ∃ t, exec i s = .next t ∧
      t.advance.cur.pc = (if cond then far else s.cur.pc + 8) ∧
      t.cur.g = s.cur.g ∧ t.cur.fsr = s.cur.fsr ∧ t.aflags = s.aflags ∧ (∀ x, byteAt t.mem x = byteAt s.mem x) ∧
      (∀ (w : Instr) (q : State),
        exec w { t with pre := some s.keep } = .next q → q.notPerformed = false →
        runBundle { c := i, a := some w } s = .next { q with pre := none }))

/-- The decode steps and their order (R213–R215, R220, R221, R277, R409).
What of it the spec leaves open (log entry 11) is the model's choice. -/
def Obligations.BundlesAreDecodedBeforeTheyIssue : Prop :=
  (∀ (s u : State) (lo hi : Nat), s.cur.redo = [] → fetchBundle s = .ok u → lo = u.ir.toNat % 2 ^ 32 → hi = u.ir.toNat / 2 ^ 32 →
    (lo = 0 → issueBundle s = raiseO u 0x002 u.cur.pc) ∧
    (lo ≠ 0 →
      (∀ e, decodeC lo hi = .error e → issueBundle s = raiseO u 0x001 (BitVec.ofNat 64 lo)) ∧
      (∀ c, decodeC lo hi = .ok c →
        (lo < 2 ^ 31 → ∀ e, decodeA hi = .error e → issueBundle s = raiseO u 0x001 (BitVec.ofNat 64 (if u.foreignWord c then lo else hi))) ∧
        (∀ b, (lo < 2 ^ 31 ∧ (∃ a, decodeA hi = .ok a ∧ b = { c := c, a := some a })) ∨ (2 ^ 31 ≤ lo ∧ b = { c := c, a := none }) →
          (∀ cause tval, decodeCheck u b = some (cause, tval) → issueBundle s = raiseO u cause tval) ∧
          (decodeCheck u b = none → bundlePending u.cur b = true → issueBundle s = .next u.stall) ∧
          (decodeCheck u b = none → bundlePending u.cur b = false → transfers c = true → u.atLoopEnd = true →
            issueBundle s = raiseO u 0x004 u.cword))))) ∧
  (∀ s : State, 2 ≤ s.unitErrors s.cur.core 0 → fetchBundle s = .error ((s.parityGuard s.cur.core 0).2.raiseIssue 0x182 0)) ∧
  (∀ (s : State) (b : Bundle), s.cur.isHelper = false →
    (helperOnly b.c = true → decodeCheck s b = some (0x001, s.cword)) ∧
    (helperOnly b.c = false → ∀ a, b.a = some a → helperOnly a = true → decodeCheck s b = some (0x001, s.aword)) ∧
    (helperOnly b.c = false → (∀ a, b.a = some a → helperOnly a = false) →
      (∀ a k, b.a = some a → conflictOf b.c a s.cur.fcr = some k → decodeCheck s b = some (0x003, BitVec.ofNat 64 k)) ∧
      ((∀ a, b.a = some a → conflictOf b.c a s.cur.fcr = none) →
        ((supervisorOnly b.c = true ∨ ∃ a, b.a = some a ∧ supervisorOnly a = true) → (s.desc s.cur.ctx).sup = false →
          decodeCheck s b = some (0x005, s.cword)) ∧
        (((supervisorOnly b.c = false ∧ ∀ a, b.a = some a → supervisorOnly a = false) ∨ (s.desc s.cur.ctx).sup = true) →
          decodeCheck s b = none)))) ∧
  (∀ i : Instr, supervisorOnly i = true ↔
    (∃ l k a, i = .xinv l k a) ∨ (∃ l d x, i = .mfs l d x ∧ 0x100 ≤ x.toNat) ∨ (∃ l x a, i = .mts l a x ∧ 0x100 ≤ x.toNat))

/-- Partial stores (R65); `names r m d` says which nibbles `m` of its word a request names and what it puts there. -/
def Obligations.PartialStoresReplaceOnlyWhatTheyName : Prop :=
  ∀ (s : State) (r : Req) (m : BitVec 16) (d : Word) (w : Nat) (names : Req → BitVec 16 → Word → Prop),
    (∀ q m d, names q m d ↔ q.op = .sub m d ∨ ∃ x, q.op = .store x ∧ q.size ∈ [1, 2, 4] ∧ q.pa % q.size = 0 ∧
      m = BitVec.ofNat 16 ((2 ^ (2 * q.size) - 1) * 2 ^ (2 * (q.pa % 8))) ∧
      d = BitVec.ofNat 64 (x.toNat % 2 ^ (8 * q.size) * 2 ^ (8 * (q.pa % 8)))) →
    names r m d → w = r.pa / 8 * 8 → SMap.get 0 s.locks (r.pa / 64) = 0 → s.relOk r = true → s.isPoison r.pa = false → s.errorsAt r.pa < 3 →
    (2 ^ 54 ≤ r.pa → sideDepth (s.sideOf w) = 0) → Memory.wf s.mem = true →
    ∃ t, perform s r = .done t 0 0 .none ∧ Memory.wf t.mem = true ∧
      (∀ k < 16, field (t.peek w) (4 * k) 4 = if m.getLsbD k then field d (4 * k) 4 else field (s.peek w) (4 * k) 4) ∧
      (∀ a, a < w ∨ w + 8 ≤ a → byteAt t.mem a = byteAt s.mem a) ∧
      (∀ (q : Req) (n : BitVec 16) (e : Word) (u : State), names q n e → q.pa / 8 * 8 = w → m &&& n = 0 →
        perform t q = .done u 0 0 .none →
        ∀ k < 16, field (u.peek w) (4 * k) 4 = if m.getLsbD k then field d (4 * k) 4 else
          if n.getLsbD k then field e (4 * k) 4 else field (s.peek w) (4 * k) 4)

/-- Loads, stores, nibbles, versioned accesses and atomics as they leave the core (R278–R284). `rows` gives each instruction with the
access that it makes and the alignment that it needs; `va` and `nib` are the addresses of R278 and R280. -/
def Obligations.AccessesAreSentOrWait : Prop :=
  ∀ (s : State) (l : Lone) (d a b : Reg) (ord : MemOrder) (sc : BitVec 3) (f : BitVec 10) (k : BitVec 2)
    (va : Nat → Word) (nib : Nat) (acc : Nat → Word → MemOp → Reg → Acc) (rows : List (Instr × Nat × Acc)),
    s.speculating = false →
    (∀ n, va n = s.g a + match l with | some e => e.signExtend 64 | none => f.signExtend 64 * BitVec.ofNat 64 n) →
    nib = (2 * (s.g a).toNat + ((s.g b).signExtend 65).toNat) % 2 ^ 65 →
    (∀ n x op r, acc n x op r = { va := x, size := n, op := op, ord := ord, sc := sc.toNat, rd := r }) →
    rows =
      [(.ldbS l d a ord sc f, 1, acc 1 (va 1) (.load true) d), (.ldbN l d a ord sc f, 1, acc 1 (va 1) (.load false) d),
       (.ldhS l d a ord sc f, 2, acc 2 (va 2) (.load true) d), (.ldhN l d a ord sc f, 2, acc 2 (va 2) (.load false) d),
       (.ldwS l d a ord sc f, 4, acc 4 (va 4) (.load true) d), (.ldwN l d a ord sc f, 4, acc 4 (va 4) (.load false) d),
       (.ldd l d a ord sc f, 8, acc 8 (va 8) (.load false) d),
       (.stb l d a ord sc f, 1, acc 1 (va 1) (.store (s.g d)) 0), (.sth l d a ord sc f, 2, acc 2 (va 2) (.store (s.g d)) 0),
       (.stw l d a ord sc f, 4, acc 4 (va 4) (.store (s.g d)) 0), (.std l d a ord sc f, 8, acc 8 (va 8) (.store (s.g d)) 0),
       (.ldnS l d a b ord sc, 1, acc 8 (BitVec.ofNat 64 (nib / 16 * 8)) (.nibble true (nib % 16)) d),
       (.ldnN l d a b ord sc, 1, acc 8 (BitVec.ofNat 64 (nib / 16 * 8)) (.nibble false (nib % 16)) d),
       (.stn l d a b ord sc, 1, acc 8 (BitVec.ofNat 64 (nib / 16 * 8))
          (.sub (BitVec.ofNat 16 (2 ^ (nib % 16))) (BitVec.ofNat 64 ((s.g d).toNat % 16 * 2 ^ (4 * (nib % 16))))) 0),
       (.ldv l d a ord sc b, 8, acc 8 (s.g a) (.ldv ((s.g b).setWidth 8)) d),
       (.stv l d a ord sc b, 8, acc 8 (s.g a) (.stv ((s.g b).setWidth 8) (s.g d)) 0),
       (.rcl l a b ord sc, 8, acc 8 (s.g a) (.rcl ((s.g b).setWidth 8)) 0),
       (.vtag l d a ord sc, 8, acc 8 (s.g a) .tag d),
       (.vinit l a b ord sc k, 8, acc 8 (s.g a) (.vinit k ((s.g b).setWidth 8)) 0)] ++
      [(Instr.aswp l d a b ord sc, 4, 0), (.aswpd l d a b ord sc, 8, 1), (.acas l d a b ord sc, 4, 2),
       (.acasd l d a b ord sc, 8, 3), (.aadd l d a b ord sc, 4, 4), (.aaddd l d a b ord sc, 8, 5),
       (.aand l d a b ord sc, 4, 6), (.aandd l d a b ord sc, 8, 7), (.aor l d a b ord sc, 4, 8),
       (.aord l d a b ord sc, 8, 9), (.axor l d a b ord sc, 4, 10), (.axord l d a b ord sc, 8, 11),
       (.amaxS l d a b ord sc, 4, 12), (.amaxdS l d a b ord sc, 8, 13), (.aminS l d a b ord sc, 4, 14),
       (.amindS l d a b ord sc, 8, 15), (.amaxN l d a b ord sc, 4, 16), (.amaxdN l d a b ord sc, 8, 17),
       (.aminN l d a b ord sc, 4, 18), (.amindN l d a b ord sc, 8, 19), (.afadd l d a b ord sc, 4, 20),
       (.afmax l d a b ord sc, 4, 21), (.afmin l d a b ord sc, 4, 22)].map
        (fun r => (r.1, r.2.1, acc r.2.1 (s.g a) (.atom (BitVec.ofNat 5 r.2.2) (s.g b) (s.g d) (d != 0)) d)) →
    ∀ r ∈ rows,
      (r.2.2.va.toNat % r.2.1 = 0 →
        exec r.1 s = .next (if s.accessWaits r.2.2 (s.accScope r.2.2) then s.stall else s.sendAccess r.2.2)) ∧
      (r.2.2.va.toNat % r.2.1 ≠ 0 → exec r.1 s = raiseO s 0x040 r.2.2.va)

/-- `waitc` and `fence` (R132, R286, R287). `ends` says that every class is within its limit.
What of it the spec leaves open (log entries 42 and 48) is the model's choice. -/
def Obligations.FencesAndWaitsForCounters : Prop :=
  ∀ (s : State) (l : Lone) (a b c d e : BitVec 5) (ord : MemOrder) (sc : BitVec 3) (ends : Prop),
    (ends ↔ ∀ x ∈ [(s.cur.cnt.loads, a), (s.cur.cnt.stores, b), (s.cur.cnt.copies, c), (s.cur.cnt.matrix, d),
        (s.cur.cnt.transfers, e)], x.2.toNat < 31 → x.1.toNat ≤ x.2.toNat) →
    (s.speculating = false →
      (ends → exec (.waitc l a b c d e) s =
        .next { s with cur := s.cur.takeLate (decide (c.toNat < 31)) (decide (d.toNat < 31)) (decide (e.toNat < 31)) }) ∧
      (¬ ends → s.cur.rc = false → exec (.waitc l a b c d e) s = .next s.stall) ∧
      (¬ ends → s.cur.rc = true → exec (.waitc l a b c d e) s = .next (s.raiseAfter 0x0C2 0 [] none)) ∧
      exec (.waitc l 31 31 31 31 31) s = .next { s with cur := s.cur.takeLate false false false } ∧
      (∀ o : Outst, (o.owner = [] → (o.near sc.toNat (coordOfCore s.cur.core) = true ↔ 4 ≤ sc.toNat)) ∧
        (o.owner ≠ [] → o.near sc.toNat (coordOfCore s.cur.core) = scopeCovers sc.toNat (coordOfCore s.cur.core) o.owner)) ∧
      (s.cur.vecSent = true → ∀ loads near : List Nat,
        loads = (s.cur.outst.filter fun o => o.loads).map (·.sn) →
        near = (s.cur.outst.filter fun o => o.loads ||
          (o.stores && o.near sc.toNat (coordOfCore s.cur.core))).map (·.sn) →
        exec (.fence l ord sc) s = .next { s with cur := { s.cur with
          holdAll := s.cur.holdAll ++ (match ord with | .acqrel => near | .acq => loads | .rlx | .rel => []),
          holdSt := s.cur.holdSt ++ (match ord with | .rel | .acqrel => near | .rlx | .acq => []) } })) ∧
    (s.speculating = true → exec (.fence l ord sc) s = .next s)

/-- R107, branch by branch, with the frame of the store that is done. -/
def Obligations.VersionedStoreFollowsItsRule : Prop :=
  ∀ (s : State) (a v : Nat) (x : Word) (scope core unit D L d w o : Nat),
    v < 256 → scope < 8 → s.isBase a = true →
    D = 2 ^ sideDepth (s.sideOf a) → L = s.latestOf a → d = (v + 256 - L) % 256 → w = a + 8 * (v % D) → o = a + 8 * (L % D) →
    ((d = 0 ∨ 128 ≤ d) → verStore s a v x scope core unit = .fault 0x061 [s.verWord a 1 v]) ∧
    (2 ≤ d → d < 128 → verStore s a v x scope core unit = .hold) ∧
    (d = 1 → sideFull (s.sideOf w) = true → verStore s a v x scope core unit = .hold) ∧
    (d = 1 → sideFull (s.sideOf w) = false → ∃ t, verStore s a v x scope core unit = .done t 0 0 ∧
      (Memory.wf s.mem = true → t.peek w = x) ∧
      (∀ b, (b < w ∨ w + 8 ≤ b) → byteAt t.mem b = byteAt s.mem b) ∧
      (SMap.wf side0 s.side = true →
        t.sideOf w = BitVec.ofNat 15 (scope * 4096 + sideDepth (s.sideOf a) * 1024 + 3 * 256 + v) ∧
        (o ≠ w → (t.sideOf o).getLsbD 9 = false ∧ ∀ i, i ≠ 9 → (t.sideOf o).getLsbD i = (s.sideOf o).getLsbD i)) ∧
      (∀ u, u ≠ w → u ≠ o → t.sideOf u = s.sideOf u))

/-- R108, branch by branch. -/
def Obligations.VersionedLoadChangesNothing : Prop :=
  ∀ (s : State) (a v d w : Nat), v < 256 → s.isBase a = true →
    d = (v + 256 - s.latestOf a) % 256 → w = a + 8 * (v % 2 ^ sideDepth (s.sideOf a)) →
    ((s.sideOf w).toNat % 256 = v → verLoad s a v = .done s (readWord s.mem w) 0) ∧
    ((s.sideOf w).toNat % 256 ≠ v →
      (1 ≤ d ∧ d ≤ 127 → verLoad s a v = .hold) ∧
      (d = 0 ∨ 128 ≤ d → verLoad s a v = .fault 0x060 [s.verWord a 0 v]))

/-- R109, branch by branch; `w` is the slot word. -/
def Obligations.ReclaimClearsFullOfItsVersion : Prop :=
  ∀ (s : State) (a v d w : Nat), v < 256 → s.isBase a = true →
    d = (v + 256 - s.latestOf a) % 256 → w = a + 8 * (v % 2 ^ sideDepth (s.sideOf a)) →
    ((s.sideOf w).toNat % 256 = v →
      (∃ t, verReclaim s a v = .done t 0 0 ∧
        t = { s with side := SMap.put side0 s.side w (s.sideOf w &&& ~~~0x100#15), rels := t.rels, widens := t.widens } ∧
        t.rels = (s.rels.map fun e => if e.key = w then { e with touched := true } else e) ∧
        t.widens = s.widens.map fun e => if e.key = w then { e with rewritten := true } else e) ∧
      (SMap.wf side0 s.side = true → (s.sideOf w).getLsbD 8 = false →
        ∀ u, SMap.get side0 (SMap.put side0 s.side w (s.sideOf w &&& ~~~0x100#15)) u = s.sideOf u)) ∧
    ((s.sideOf w).toNat % 256 ≠ v →
      (1 ≤ d ∧ d ≤ 127 → verReclaim s a v = .hold) ∧
      (d = 0 ∨ 128 ≤ d → verReclaim s a v = .fault 0x060 [s.verWord a 2 v]))

/-- Plain loads and stores where their word lives (R65, R110, R112, R278, R280). -/
def Obligations.PlainAccessesAtTheirOwner : Prop :=
  ∀ (s : State) (r : Req) (w : Nat),
    SMap.get 0 s.locks (r.pa / 64) = 0 → s.relOk r = true → s.isPoison r.pa = false →
    SMap.get 0 s.badRead (poisonKey r.pa) = 0 → (r.ord.acquires = false ∨ r.space ≠ 2) →
    r.size ∈ [1, 2, 4, 8] → r.pa % r.size = 0 → w = r.pa / 8 * 8 →
    (∀ sg, r.op = .load sg → perform s r = .done s
      (if sg then (BitVec.ofNat (8 * r.size) (readNat s.mem r.pa r.size)).signExtend 64
       else (BitVec.ofNat (8 * r.size) (readNat s.mem r.pa r.size)).setWidth 64) 0 .none) ∧
    (∀ sg k, r.op = .nibble sg k → perform s r = .done s
      (if sg then (BitVec.ofNat 4 ((s.peek w).toNat / 2 ^ (4 * k))).signExtend 64
       else (BitVec.ofNat 4 ((s.peek w).toNat / 2 ^ (4 * k))).setWidth 64) 0 .none) ∧
    (r.op = .tag → (∀ c ∈ s.cellWords w, s.isPoison c = false ∧ SMap.get 0 s.badRead (poisonKey c) = 0) →
      perform s r = .done s (BitVec.ofNat 64 (s.latestOf w * 2 ^ 16 + (s.sideOf w).toNat)) 0 .none) ∧
    (∀ x, r.op = .store x → (r.pa < 2 ^ 54 ∨ sideDepth (s.sideOf w) = 0) → ∃ t, perform s r = .done t 0 0 .none ∧
      (∀ b, b < r.pa ∨ r.pa + r.size ≤ b → byteAt t.mem b = byteAt s.mem b) ∧
      (Memory.wf s.mem = true → readNat t.mem r.pa r.size = x.toNat % 2 ^ (8 * r.size)) ∧
      (2 ^ 54 ≤ r.pa → SMap.wf side0 s.side = true →
        t.sideOf w = mkSide r.rscope 0 3 ((s.sideOf w).toNat % 256 + 1) ∧ ∀ u, u ≠ w → t.sideOf u = s.sideOf u)) ∧
    (∀ x, r.op = .store x → 2 ^ 54 ≤ r.pa → sideDepth (s.sideOf w) ≠ 0 →
      perform s r = .fault s { cause := 0x062, tval := r.va, words := [s.verWord w 3 0] }) ∧
    (r.space ≠ 1 → r.space ≠ 3 → s.behind (ownerStep r) = false → s.afterServer r = false →
      (∀ t x fl m, perform s r = .done t x fl m → changes r.op = false →
        exec (.ownerAccess r) s = .next ((t.complete r x fl m false).noteCommit r m)) ∧
      (∀ t x fl m, perform s r = .done t x fl m → changes r.op = true →
        exec (.ownerAccess r) s = .next ((s.wordsWritten r).foldl State.stir ((t.complete r x fl m false).noteCommit r m))) ∧
      (∀ t f, perform s r = .fault t f → exec (.ownerAccess r) s = .next (t.failAt r f false)))

/-- The steps of spec/95 at an owner of memory words, over R107–R111 as their functions give them. -/
def Obligations.OwnerStepsAnswerTheirRequests : Prop :=
  ∀ (s : State) (r : Req) (served : State),
    s.behind (ownerStep r) = false → s.afterServer r = false →
    (∀ t x fl m, perform s r = .done t x fl m → served =
      if changes r.op then (s.wordsWritten r).foldl State.stir ((t.complete r x fl m false).noteCommit r m)
      else (t.complete r x fl m false).noteCommit r m) →
    (perform s r = .hold → served = s.holdAt r) →
    (perform s r = .wait → served = s.later (ownerStep r)) →
    (∀ t f, perform s r = .fault t f → served = t.failAt r f false) →
    exec (.subByteStore r) s = .next served ∧
    exec (.versionedStoreAtOwner r) s = .next served ∧
    exec (.versionedLoadAtOwner r) s = .next served ∧
    exec (.reclaimAtOwner r) s = .next served ∧
    exec (.initialiseAtOwner r) s = .next served ∧
    (s.wordsWritten r = match r.op with
      | .stv v _ | .rcl v => [r.pa + 8 * (v.toNat % 2 ^ sideDepth (s.sideOf r.pa))]
      | .vinit k _ => (List.range (2 ^ k.toNat)).map fun i => r.pa + 8 * i
      | _ => [r.pa / 8 * 8]) ∧
    (SMap.get 0 s.locks (r.pa / 64) = 0 → s.relOk r = true →
      (∀ c ∈ s.cellWords (r.pa / 8 * 8), s.isPoison c = false ∧ SMap.get 0 s.badRead (poisonKey c) = 0) →
      (∀ v x, r.op = .stv v x → perform s r = ofVer s r (verStore s r.pa v.toNat x r.rscope r.core r.unit) .none) ∧
      (∀ v, r.op = .rcl v → perform s r = ofVer s r (verReclaim s r.pa v.toNat) .none) ∧
      (∀ k v, r.op = .vinit k v → perform s r = ofVer s r (verInit s r.pa k.toNat v.toNat r.rscope r.core r.unit) .none) ∧
      (∀ v, r.op = .ldv v → (∀ k, gated s r 0x04 v.toNat k = k s) → r.ord.acquires = false →
        perform s r = ofVer s r (verLoad s r.pa v.toNat) .none))

/-- The table of R284 by the function values of R222: the even value works on 4 bytes, the odd one above it on 8. -/
def Obligations.AtomicsComputeTheirNewValue : Prop :=
  (∀ x b c : BitVec 32,
    atomNew 0 4 x.toNat b.toNat c.toNat = (some b.toNat, 0) ∧
    atomNew 2 4 x.toNat b.toNat c.toNat = (if x = c then some b.toNat else none, 0) ∧
    atomNew 4 4 x.toNat b.toNat c.toNat = (some (x + b).toNat, 0) ∧
    atomNew 6 4 x.toNat b.toNat c.toNat = (some (x &&& b).toNat, 0) ∧
    atomNew 8 4 x.toNat b.toNat c.toNat = (some (x ||| b).toNat, 0) ∧
    atomNew 10 4 x.toNat b.toNat c.toNat = (some (x ^^^ b).toNat, 0) ∧
    atomNew 12 4 x.toNat b.toNat c.toNat = (some (if b.toInt ≤ x.toInt then x else b).toNat, 0) ∧
    atomNew 14 4 x.toNat b.toNat c.toNat = (some (if x.toInt ≤ b.toInt then x else b).toNat, 0) ∧
    atomNew 16 4 x.toNat b.toNat c.toNat = (some (if b.toNat ≤ x.toNat then x else b).toNat, 0) ∧
    atomNew 18 4 x.toNat b.toNat c.toNat = (some (if x.toNat ≤ b.toNat then x else b).toNat, 0) ∧
    (isNaN32 x = true ∨ isNaN32 b = true → atomNew 20 4 x.toNat b.toNat c.toNat = (some 0x7FC00000, flNV))) ∧
  (∀ x b c : Word,
    atomNew 1 8 x.toNat b.toNat c.toNat = (some b.toNat, 0) ∧
    atomNew 3 8 x.toNat b.toNat c.toNat = (if x = c then some b.toNat else none, 0) ∧
    atomNew 5 8 x.toNat b.toNat c.toNat = (some (x + b).toNat, 0) ∧
    atomNew 7 8 x.toNat b.toNat c.toNat = (some (x &&& b).toNat, 0) ∧
    atomNew 9 8 x.toNat b.toNat c.toNat = (some (x ||| b).toNat, 0) ∧
    atomNew 11 8 x.toNat b.toNat c.toNat = (some (x ^^^ b).toNat, 0) ∧
    atomNew 13 8 x.toNat b.toNat c.toNat = (some (if b.toInt ≤ x.toInt then x else b).toNat, 0) ∧
    atomNew 15 8 x.toNat b.toNat c.toNat = (some (if x.toInt ≤ b.toInt then x else b).toNat, 0) ∧
    atomNew 17 8 x.toNat b.toNat c.toNat = (some (if b.toNat ≤ x.toNat then x else b).toNat, 0) ∧
    atomNew 19 8 x.toNat b.toNat c.toNat = (some (if x.toNat ≤ b.toNat then x else b).toNat, 0))

/-- Replies at the issuer (R114, R115, R123, R170, R214, R287). `d` is the reply, to the process `s.cur`.
What of it the spec leaves open (log entries 35, 42 and 83) is the model's choice. -/
def Obligations.RepliesReachTheirIssuer : Prop :=
  ∀ (s : State) (d : Done) (x : Word),
    (d.agent = .proc s.cur.pid → d.fault = none → d.miss = false → d.chan = none → s.cur.unit < 8 → s.cur.away = false →
      (∀ r, d.req = some r → r.op.stores = decide (d.cls = .stores) ∧ r.op ≠ .joinDec) →
      s.cur.st = .running →
      (d.cls = .loads → ∀ rd, d.writes = [(rd, x)] → ∃ t, exec (.loadReturn d) s = .next t ∧
        t.mem = s.mem ∧ t.cur.pc = s.cur.pc ∧ (rd ≠ 0 → t.cur.rg rd = x) ∧ t.cur.isPend rd = false ∧
        (∀ q, q ≠ rd → t.cur.rg q = s.cur.rg q ∧ t.cur.isPend q = s.cur.isPend q) ∧
        t.cur.cnt.loads = (if s.cur.cnt.loads = 0 then 0 else s.cur.cnt.loads - 1) ∧
        t.cur.cnt.stores = s.cur.cnt.stores ∧ t.cur.fsr = s.cur.fsr ||| d.flags.setWidth 64 ∧
        t.cur.outst = s.cur.outst.filter fun o => decide (o.sn ≠ d.sn)) ∧
      (d.cls = .stores → d.writes = [] → ∃ t, exec (.acknowledgement d) s = .next t ∧
        t.mem = s.mem ∧ t.cur.g = s.cur.g ∧ t.cur.cnt.loads = s.cur.cnt.loads ∧
        t.cur.cnt.stores = (if s.cur.cnt.stores = 0 then 0 else s.cur.cnt.stores - 1) ∧
        t.cur.fsr = s.cur.fsr ||| d.flags.setWidth 64 ∧
        t.cur.outst = s.cur.outst.filter fun o => decide (o.sn ≠ d.sn))) ∧
    (d.agent = .proc s.cur.pid → d.fault = none → d.miss = false → d.chan = none → d.req = none → s.cur.unit < 8 →
      s.cur.task = false → s.cur.away = false → s.cur.st = .parked → s.cur.wait ≠ 0 → s.levelOf s.cur.ctx ≠ 2 →
      (s.cur.outst.any fun o => decide (o.sn = d.sn) && o.held) = true →
      (∀ r ∈ s.waiters, r.agent ≠ .proc s.cur.pid) →
      ∀ rd, d.writes = [(rd, x)] → ∃ t, exec (.heldCompletion d) s = .next t ∧
        t.cur.st = .ready ∧ t.cur.wait = 0 ∧ t.cur.wkind = 0 ∧ (rd ≠ 0 → t.cur.rg rd = x) ∧ t.cur.isPend rd = false) ∧
    (∀ r : Req, r ∈ s.waiters → exec (.waiterRetry r) s = .next (s.pass (r.pa / 64))) ∧
    (∀ r : Req, r ∉ s.waiters → (∀ n, r.agent ≠ .sill n) → (∀ pid, r.agent ≠ .proc pid) →
      exec (.waiterRetry r) s = .next (s.push (ownerStep r))) ∧
    (∀ r : Req, r ∉ s.waiters → ∀ pid, r.agent = .proc pid → exec (.waiterRetry r) s = .next s) ∧
    (∀ r : Req, r ∉ s.waiters → ∀ n, r.agent = .sill n → r.unit < 64 → exec (.waiterRetry r) s = .next (s.push (.launchTake r.unit))) ∧
    (∀ r : Req, r ∉ s.waiters → ∀ n, r.agent = .sill n → 64 ≤ r.unit →
      exec (.waiterRetry r) s = .next (s.push (.ingestDeposit (2 * n + r.unit / 64 % 2) (r.unit % 64))))

/-- Widenings (R134, R135) and translation walks (R50).
What of it the spec leaves open (log entries 77 and 81) is the model's choice. -/
def Obligations.WideningsDrainAndRelease : Prop :=
  ∀ (s : State) (k : Nat) (w : Widening),
    (s.widens.find? (fun v => decide (v.key = k ∧ v.snap = none)) = some w →
      ∀ snap t, snap = ((s.core w.core).unacked.filter fun e => decide (e.1 = w.unit)).map (fun e => e.2.1) →
        t = { s with widens := s.widens.map fun v => if v = w then { v with snap := some snap } else v } →
        exec (.widen k) s = .next (if snap = [] then t.push (.widened k) else t)) ∧
    (s.widens.find? (fun v => decide (v.key = k ∧ v.snap = some [])) = some w →
      ∀ t, t = (if w.rewritten then { s with widens := s.widens.erase w }
          else ({ s with widens := s.widens.erase w } : State).setSide k
            (mkSide 6 (sideDepth (s.sideOf k)) (sideState (s.sideOf k)) (sideVersion (s.sideOf k)))) →
        ∀ u, u = t.pushAll (w.acquirers.map Ev.released) → u.waitersOf (k / 64) = [] →
        exec (.widened k) s = .next u) ∧
    (∀ pid, (s.proc pid).pid = pid →
      exec (.released (.proc pid)) s = .next
        ((s.touch pid fun p => p.setMiss (· &&& ~~~2#64)).pushAll
          [.slotFill (s.proc pid).core, .slotFill (s.physOf (s.proc pid).home)])) ∧
    (∀ h, exec (.released (.helper h)) s = .next (s.touch (helperKey h) fun p => p.setMiss (· &&& ~~~2#64))) ∧
    (∀ (p : Proc) (f : Word → Word), p.setMiss f = { p with smiss := f p.smiss, chunk := (p.setMiss f).chunk }) ∧
    (∀ n t, exec (.released (.peerOp n t)) s = .next (s.sendFlit n 0 1 (.released t))) ∧
    (∀ (x : Walk) (r : Req) (va : Nat), va = x.vpage * 2 ^ 16 →
      s.walks.find? (fun v => decide (v.die = x.die ∧ v.ctx = x.ctx ∧ v.space = x.space ∧ v.vpage = x.vpage)) = some x →
      x.joined = [r] → (∃ pid, r.agent = .proc pid) → s.walkQ = [] → s.walkWait = [] → s.upper = [] → s.poison = [] → s.badRead = [] →
      (∀ reason level, walk s.mem x.ctx x.space ((s.desc x.ctx).root x.space) va = .error (reason, level) →
        ∃ u d, exec (.translationWalk x.die x.ctx x.space x.vpage) s = .next u ∧ u.walks = s.walks.erase x ∧ u.tlb = s.tlb ∧
          u.agenda = s.agenda ++ [replyEv r d] ∧ d.agent = r.agent ∧ d.sn = r.sn ∧ d.req = some r ∧
          d.fault = some { cause := 0x042, tval := r.va, words := [xlateWord reason level r.op.need] }) ∧
      (∀ e pa, walk s.mem x.ctx x.space ((s.desc x.ctx).root x.space) va = .ok e → x.space = 0 → r.space = 0 →
        s.findTlb (tlbUnit r.core) x.ctx 0 va = none → useTlb e 0 (r.va.toNat % 2 ^ 53) r.op.need = .ok pa 0 →
        ∃ u q, exec (.translationWalk x.die x.ctx x.space x.vpage) s = .next u ∧ u.walks = s.walks.erase x ∧
          (tlbUnit r.core, e) ∈ u.tlb ∧ u.agenda = s.agenda ++ [ownerStep q] ∧ q = { r with pa := pa, space := 0, scope := q.scope } ∧
          u.mem = s.mem))

/-- Vector A-words at issue (R326, R331, R341–R349, R360). Each row gives the instruction, its entry's operation and the two general
registers that it captures. -/
def Obligations.VectorInstructionsQueueTheirEntry : Prop :=
  ∀ (s : State) (d a b c : Reg) (i j k m : MReg) (t u : LaneTy) (rows : List (Instr × VecOp × Word × Word)),
    rows =
       [(Instr.vadd d a b m t, VecOp.bin .add d a b m t, 0, 0), (.vsub d a b m t, .bin .sub d a b m t, 0, 0),
        (.vmul d a b m t, .bin .mul d a b m t, 0, 0), (.vdiv d a b m t, .bin .div d a b m t, 0, 0),
        (.vmin d a b m t, .bin .min d a b m t, 0, 0), (.vmax d a b m t, .bin .max d a b m t, 0, 0),
        (.vand d a b m t, .bin .and d a b m t, 0, 0), (.vor d a b m t, .bin .or d a b m t, 0, 0),
        (.vxor d a b m t, .bin .xor d a b m t, 0, 0), (.vsll d a b m t, .bin .sll d a b m t, 0, 0),
        (.vsrl d a b m t, .bin .srl d a b m t, 0, 0), (.vsra d a b m t, .bin .sra d a b m t, 0, 0),
        (.vadds d a b m t, .bin .adds d a b m t, 0, 0), (.vsubs d a b m t, .bin .subs d a b m t, 0, 0),
        (.vabs d a m t, .un .abs d a m t, 0, 0), (.vneg d a m t, .un .neg d a m t, 0, 0),
        (.vfma d a b c m, .tri .fma d a b c m, 0, 0), (.vfms d a b c m, .tri .fms d a b c m, 0, 0),
        (.vfnma d a b c m, .tri .fnma d a b c m, 0, 0), (.vfnms d a b c m, .tri .fnms d a b c m, 0, 0),
        (.vmadS d a b c m, .tri .madS d a b c m, 0, 0), (.vmadN d a b c m, .tri .madN d a b c m, 0, 0),
        (.veq i a b m t, .cmp .eq i a b m t, 0, 0), (.vne i a b m t, .cmp .ne i a b m t, 0, 0),
        (.vlt i a b m t, .cmp .lt i a b m t, 0, 0), (.vle i a b m t, .cmp .le i a b m t, 0, 0),
        (.vunord i a b m t, .cmp .unord i a b m t, 0, 0), (.vltt i a b m t, .cmp .ltt i a b m t, 0, 0),
        (.mand i j k, .msk .and i j k, 0, 0), (.mor i j k, .msk .or i j k, 0, 0), (.mxor i j k, .msk .xor i j k, 0, 0),
        (.mandn i j k, .msk .andn i j k, 0, 0), (.mnot i j, .msk .not i j 0, 0, 0), (.mpop d j, .mpop d j, 0, 0),
        (.mfrst d j, .mfrst d j, 0, 0), (.mfromg i a, .mfromg i a, s.g a, 0), (.mtog d j, .mtog d j, 0, 0),
        (.vmov d a m, .mov .mov d a 0 m, 0, 0), (.vbcast d a m, .mov .bcast d a 0 m, s.g a, 0),
        (.vrot d a b m, .mov .rot d a b m, 0, s.g b), (.vshuf d a b m, .mov .shuf d a b m, 0, 0),
        (.vcomp d a m, .mov .comp d a 0 m, 0, 0), (.vexpd d a m, .mov .expd d a 0 m, 0, 0),
        (.vins d a b, .ins d a b, s.g a, s.g b), (.vext d a b, .ext d a b, 0, s.g b), (.vcvt d a m t u, .cvt d a m t u, 0, 0),
        (.vexp d a m, .fn .exp d a m, 0, 0), (.vexp2 d a m, .fn .exp2 d a m, 0, 0), (.vlog d a m, .fn .log d a m, 0, 0),
        (.vlog2 d a m, .fn .log2 d a m, 0, 0), (.vrcp d a m, .fn .rcp d a m, 0, 0), (.vsqrt d a m, .fn .sqrt d a m, 0, 0),
        (.vrsqrt d a m, .fn .rsqrt d a m, 0, 0), (.vsin d a m, .fn .sin d a m, 0, 0), (.vcos d a m, .fn .cos d a m, 0, 0),
        (.vtanh d a m, .fn .tanh d a m, 0, 0), (.vsigm d a m, .fn .sigm d a m, 0, 0), (.verf d a m, .fn .erf d a m, 0, 0),
        (.vrsum d a m t, .red .sum d a m t, 0, 0), (.vrmax d a m t, .red .max d a m t, 0, 0),
        (.vrmin d a m t, .red .min d a m t, 0, 0), (.vrmaxt d a m t, .red .maxt d a m t, 0, 0),
        (.vrmint d a m t, .red .mint d a m t, 0, 0), (.vrand d a m t, .red .and d a m t, 0, 0),
        (.vror d a m t, .red .or d a m t, 0, 0), (.vrxor d a m t, .red .xor d a m t, 0, 0),
        (.vskq a b m t, .sk .q 0 a b m t, 0, s.g b), (.vskh a b m t, .sk .h 0 a b m t, 0, s.g b),
        (.vskd a b m t, .sk .d 0 a b m t, 0, s.g b)] →
    ∀ r ∈ rows,
      (s.units = 0 → exec r.1 s = raiseO s 0x009 s.aword) ∧
      (s.units ≠ 0 → r.2.1.badIndex (16 * s.units) r.2.2.2 = false →
        ((∃ f, r.2.1 = .sk f 0 a b m t) → (s.g b).toNat % 64 = 0) →
        (s.cur.seqRoom ≠ 0 → s.cur.cnt.full r.2.1.cls = false → ∀ e : SeqEntry,
          e = { word := s.aword.setWidth 32, isC := false, op := r.2.1, ga := r.2.2.1, gb := r.2.2.2, fcr := s.fcr, pc := s.cur.pc } →
          exec r.1 s = .next (({ s with cur := { s.cur.takeEntry e with seq := s.cur.seq ++ [e] } }).kick s.cur.pid)) ∧
        (s.cur.seqRoom = 0 ∨ s.cur.cnt.full r.2.1.cls = true → exec r.1 s = .next s.stall))

/-- Lane control, bindings, vector memory entries and `vloop` at issue (R328–R340). `claim` is the state that a claim leaves.
What of it the spec leaves open (log entries 37, 38, 40 and 41) is the model's choice. -/
def Obligations.LaneControlAndVectorMemoryComplete : Prop :=
  ∀ (s : State) (l : Lone) (d a b : Reg) (m : MReg) (t : LaneTy) (claim : State → Nat → State) (entry : VecOp → Word → SeqEntry),
    (∀ q keep, claim q keep = State.push
      { q with
          cur := { q.cur.setPend d with waiting := true, laneMin := (s.g a).toNat, laneMax := (s.g b).toNat }
          benches := SMap.put Bench.empty q.benches (q.cur.core / 8)
            { q.bench (q.cur.core / 8) with claims := (q.bench (q.cur.core / 8)).claims ++
              [{ pid := q.cur.pid, core := q.cur.core, slot := q.cur.unit, ctx := q.cur.ctx, lo := (s.g a).toNat,
                 hi := (s.g b).toNat, rd := some d, keep := keep }] } }
      (.laneGrant (q.cur.core / 8))) →
    (∀ op gb, entry op gb =
      { word := s.cword.setWidth 32, isC := true, op := op, ga := s.g a, gb := gb, fcr := s.fcr, pc := s.cur.pc }) →
    (s.units ≠ 0 →
      (∀ r ∈ [(Instr.vld l d a b t m, VecOp.ld d a b m t), (.vst l d a b t m, .st d a b m t)],
        (nibblesOf t = 1 → b ≠ 0 → exec r.1 s = raiseO s 0x001 s.cword) ∧
        (nibblesOf t ≠ 1 ∨ b = 0 → s.cur.seqRoom ≠ 0 → s.cur.cnt.full r.2.cls = false →
          (∀ i < s.cur.laneCount,
            (if b = 0 then (s.g a + BitVec.ofNat 64 (i * (nibblesOf t / 2))).toNat
             else (s.g a + BitVec.ofNat 64 i * s.g b).toNat) * 2 % nibblesOf t = 0 ∨ nibblesOf t = 1) →
          exec r.1 s = .next (s.queueEntry (entry r.2 (s.g b))))) ∧
      (∀ r ∈ [(Instr.vldx l d a b t m, VecOp.ldx d a b m t), (.vstx l d a b t m, .stx d a b m t)],
        nibblesOf t ≠ 1 → s.cur.seqRoom ≠ 0 → s.cur.cnt.full r.2.cls = false →
        exec r.1 s = .next (s.queueEntry (entry r.2 (s.g 0))))) ∧
    (s.speculating = false → s.cur.rc = false → 1 ≤ (s.g a).toNat → (s.g a).toNat ≤ (s.g b).toNat → (s.g b).toNat ≤ 16 →
      (s.units = 0 → exec (.vclaim l d a b) s = .next (claim s 0) ∧ exec (.vrenew l d a b) s = .next (claim s 0)) ∧
      (s.units ≠ 0 → exec (.vclaim l d a b) s = raiseO s 0x001 s.cword) ∧
      (s.units ≠ 0 → s.cur.seq = [] → s.cur.vloop = none → ∀ q, q = s.updBench (s.cur.core / 8) (fun x => { x with used := x.used - s.units }) →
        exec (.vrenew l d a b) s =
          .next (claim { q with cur := { q.cur with vgrant := setField q.cur.vgrant 0 5 0 } } s.units))) ∧
    (s.speculating = false →
      (s.units = 0 → exec (.vrel l) s = .next s) ∧
      (s.units ≠ 0 → s.cur.seq = [] → s.cur.vloop = none → ∃ q, exec (.vrel l) s = .next q ∧ q.cur.bound = 0 ∧ q.cur.dir = 0 ∧
        q.mem = s.mem ∧ q = (s.dropLanes s.cur.pid).updCur fun p => { p with bound := 0, dir := 0 })) ∧
    ((s.g a).toNat < 16 →
      (s.cur.bound.getLsbD ((s.g a).toNat % 8) = false → ∃ q, exec (.vbind l a) s = .next q ∧
        (∀ i, i < 8 → q.cur.bound.getLsbD i = (s.cur.bound.getLsbD i || decide (i = (s.g a).toNat % 8))) ∧
        (∀ i, i < 8 → q.cur.dir.getLsbD i = if i = (s.g a).toNat % 8 then decide (8 ≤ (s.g a).toNat) else s.cur.dir.getLsbD i) ∧
        q.mem = s.mem ∧ q.cur.g = s.cur.g ∧ q.cur.v = s.cur.v) ∧
      (s.cur.bound.getLsbD ((s.g a).toNat % 8) = true → exec (.vbind l a) s = raiseO s 0x001 s.cword) ∧
      (s.cur.bound.getLsbD ((s.g a).toNat % 8) = false → exec (.vunbind l a) s = .next s) ∧
      (s.cur.bound.getLsbD ((s.g a).toNat % 8) = true → s.cur.seq = [] → s.cur.vloop = none →
        ∃ q, exec (.vunbind l a) s = .next q ∧
          (∀ i, i < 8 → q.cur.bound.getLsbD i = (s.cur.bound.getLsbD i && decide (i ≠ (s.g a).toNat % 8))) ∧
          (∀ r : Reg, q.cur.v[r.toNat]'r.isLt =
            if r.toNat = 24 + (s.g a).toNat % 8 then List.replicate s.cur.laneCount 0 else s.cur.v[r.toNat]'r.isLt) ∧
          q.mem = s.mem ∧ q.cur.g = s.cur.g)) ∧
    (∀ (len : BitVec 5) (q j : State) (es : List SeqEntry), s.units ≠ 0 → readBody len.toNat s (s.cur.pc + 8) = .ok q es →
      es.length ≤ 16 → s.bodyHoldsEnd len.toNat = false → (∀ e ∈ es, e.op.badIndex (16 * s.units) e.gb = false ∧
        s.cur.isPend e.op.gReads.1 = false ∧ s.cur.isPend e.op.gReads.2 = false) →
      j = ((q.dropHost s.cur.core s.cur.ctx).dropAsks s.cur.core (bodyUnit s)).jump (s.cur.pc + 8 * (len.setWidth 64 + 1)) →
      (s.g a = 0 ∨ es = [] → exec (.vloop l len a) s = .next j) ∧
      (s.g a ≠ 0 → es ≠ [] → s.cur.vloop = none → es.length ≤ s.cur.seqRoom →
        (∀ e ∈ es, (s.cur.cnt.get e.op.cls).toNat < 0xFFF0) →
        exec (.vloop l len a) s = .next (State.kick { j with cur := { es.foldl Proc.takeEntry j.cur with
          vloop := some { left := s.g a, len := len.toNat, next := 0, iter := 0, body := es, ahead := s.cur.seq.length } } }
          s.cur.pid)))

/-- Lanes, masks and integer lane values (R324, R333, R341–R345). `on` says that lane `i` is active, `lane` reads a lane. -/
def Obligations.VectorLanesFollowTheirMask : Prop :=
  (∀ (x : VecIn) (ga gb fcr : Word) (d a b c : Reg) (k i j m : MReg) (t : LaneTy) (on : Nat → Bool) (lane : Reg → Nat → W32),
    x.n ≤ 256 →
    (∀ n, on n = (m == 0 || (x.m[m.toNat]'m.isLt).getLsbD n)) →
    (∀ r n, lane r n = (x.v[r.toNat]'r.isLt).getD n 0) →
    (∀ f, ∃ r, (vecCompute (.bin f d a b m t) x ga gb fcr).v = some (d, r) ∧ r.length = x.n ∧
      ∀ n < x.n, r.getD n 0 = if on n then (binLane f t (Mode.ofFcr fcr false x.rs) (lane a n) (lane b n)).1 else lane d n) ∧
    (∀ f, ∃ r, (vecCompute (.tri f d a b c m) x ga gb fcr).v = some (d, r) ∧ r.length = x.n ∧
      ∀ n < x.n, r.getD n 0 =
        if on n then (triLane f (Mode.ofFcr fcr false x.rs) (lane a n) (lane b n) (lane c n)).1 else lane d n) ∧
    (∀ f, ∃ r, (vecCompute (.un f d a m t) x ga gb fcr).v = some (d, r) ∧ r.length = x.n ∧
      ∀ n < x.n, r.getD n 0 = if on n then unLane f t (lane a n) else lane d n) ∧
    (∀ f, ∃ r, (vecCompute (.cmp f k a b m t) x ga gb fcr).m = some (k, r) ∧
      ∀ n, r.getLsbD n = (decide (n < x.n) && on n && cmpLane f t (lane a n) (lane b n))) ∧
    (∃ r, (vecCompute (.msk .andn k i j) x ga gb fcr).m = some (k, r) ∧
      ∀ n, r.getLsbD n = (decide (n < x.n) && (i == 0 || (x.m[i.toNat]'i.isLt).getLsbD n) &&
        !(j == 0 || (x.m[j.toNat]'j.isLt).getLsbD n)))) ∧
  (∀ (t : LaneTy) (md : Mode) (a b : W32), t ∈ [.s32, .n32] →
    binLane .add t md a b = (a + b, 0) ∧ binLane .sub t md a b = (a - b, 0) ∧ binLane .mul t md a b = (a * b, 0) ∧
    binLane .and t md a b = (a &&& b, 0) ∧ binLane .or t md a b = (a ||| b, 0) ∧ binLane .xor t md a b = (a ^^^ b, 0) ∧
    binLane .sll t md a b = (a <<< (b.toNat % 32), 0) ∧ binLane .srl t md a b = (a >>> (b.toNat % 32), 0) ∧
    binLane .sra t md a b = (a.sshiftRight (b.toNat % 32), 0))

/-- A sequencer step and a lane grant (R207, R328, R331).
What of it the spec leaves open (log entries 39 and 40) is the model's choice. -/
def Obligations.SequencerRetiresItsHeadEntry : Prop :=
  ∀ (s : State) (e : SeqEntry) (rest : List SeqEntry) (o : VecOut) (b : Nat) (c : Claim),
    (s.cur.seqRuns = true → s.levelOf s.cur.ctx ≠ 2 → s.unitErrors s.cur.core 1 = 0 → s.cur.bound = 0 → s.cur.vloop = none → s.cur.seq = e :: rest →
      s.cur.chunk = none → e.op.mem = none → (∀ f d a g m t, e.op ≠ .sk f d a g m t) →
      ∀ x : VecIn, x = { n := 16 * field s.cur.vgrant 0 5, v := s.cur.v, m := s.cur.m, rs := s.cur.rs } →
      e.op.trapLane x e.fcr = none → o = vecCompute e.op x e.ga e.gb e.fcr → enabledFlags e.fcr o.flags = 0 →
      ∃ t, exec (.sequencerEntry s.cur.pid) s = .next t ∧
        t.cur.seq = rest ∧ t.cur.pc = s.cur.pc ∧ t.mem = s.mem ∧ t.cur.rs = o.rs ∧
        t.cur.fsr = s.cur.fsr ||| o.flags.setWidth 64 ∧
        (∀ r : Reg, t.cur.v[r.toNat]'r.isLt =
          match o.v with | some (d, y) => if r = d then y else s.cur.v[r.toNat]'r.isLt | none => s.cur.v[r.toNat]'r.isLt) ∧
        (∀ k : MReg, t.cur.m[k.toNat]'k.isLt =
          match o.m with
          | some (d, y) => if k = d ∧ k ≠ 0 then y else s.cur.m[k.toNat]'k.isLt
          | none => s.cur.m[k.toNat]'k.isLt) ∧
        (∀ r : Reg, t.cur.rg r = match o.g with | some (d, y) => if r = d ∧ r ≠ 0 then y else s.cur.rg r | none => s.cur.rg r) ∧
        (∀ d y, o.g = some (d, y) → t.cur.isPend d = false)) ∧
    (∀ t, t = s.updBench b (fun x => { x with claims := x.claims.filter s.liveClaim }) →
      t.headClaim b = some c → ∀ free, free = 16 - (t.bench b).used →
      (free < c.lo → exec (.laneGrant b) s = .next (t.parkClaims b)) ∧
      (c.lo ≤ free → 1 ≤ c.lo → c.lo ≤ c.hi → c.hi ≤ 16 → c.pid = s.cur.pid → s.cur.unit < 8 → s.cur.st = .running →
        ∀ d, c.rd = some d → ∃ q, exec (.laneGrant b) s = .next q ∧
          q.cur.laneCount = 16 * min c.hi free ∧ (d ≠ 0 → q.cur.rg d = BitVec.ofNat 64 (min c.hi free)) ∧
          q.cur.isPend d = false ∧ q.cur.waiting = false ∧ q.mem = s.mem ∧
          (c.keep = 0 → ∀ r : Reg, q.cur.v[r.toNat]'r.isLt = List.replicate (16 * min c.hi free) 0) ∧
          (c.keep = 0 → ∀ k : MReg, q.cur.m[k.toNat]'k.isLt = 0)))

/-- Summary instructions (R361–R366). `quiet` says that no access of the process to the record is under way.
What of it the spec leaves open (log entry 23) is the model's choice. -/
def Obligations.SummaryInstructionsApplyTheirOperation : Prop :=
  ∀ (s t : State) (d a b : Reg) (x : Word) (quiet : Word → Bool → Prop),
    (∀ va w, quiet va w ↔ s.recordQuiet va w = true) →
    s.speculating = false → s.cur.mayAccess = true → s.cur.finished s.cur.holdSt = true →
    ((s.g a).toNat % 64 ≠ 0 → (s.g b).toNat < 3 → exec (.skinit a b) s = raiseO s 0x040 (s.g a)) ∧
    (3 ≤ (s.g b).toNat → exec (.skinit a b) s = raiseO s 0x001 s.aword) ∧
    ((s.g a).toNat % 64 = 0 →
      (quiet (s.g a) true → (s.g b).toNat < 3 → sumApply s s.cur (s.g a) (.init (s.g b).toNat) = .ok t x →
        exec (.skinit a b) s = .next t) ∧
      (quiet (s.g a) true → quiet (s.g b) false → (s.g b).toNat % 64 = 0 → sumApply s s.cur (s.g a) (.merge (s.g b)) = .ok t x →
        exec (.skmerge a b) s = .next t) ∧
      (quiet (s.g a) false →
        (sumApply s s.cur (s.g a) (.query .quant ((s.g b).setWidth 32)) = .ok t x → exec (.skquant d a b) s = .next (t.setG d x)) ∧
        (sumApply s s.cur (s.g a) (.query .rank ((s.g b).setWidth 32)) = .ok t x → exec (.skrank d a b) s = .next (t.setG d x)) ∧
        (sumApply s s.cur (s.g a) (.query .est ((s.g b).setWidth 32)) = .ok t x → exec (.skest d a b) s = .next (t.setG d x)) ∧
        (sumApply s s.cur (s.g a) (.query .count 0) = .ok t x → exec (.skcount d a) s = .next (t.setG d x))))

/-- What insertion and merging do to counts and registers (R352–R365). -/
def Obligations.SketchesCountEveryKeyAndMergeAddsTheCounts : Prop :=
  ∀ (level : Nat) (seed : Word) (ty : Nat) (keys more : List Nat), ty < 15 → keys ≠ [] →
    (∀ kind < 3, ∃ x, (Sketch.fresh kind).insertAll ty keys level seed = some x ∧
      x.ktype = ty ∧ x.ncount = keys.length % 2 ^ 64 ∧
      (∀ v, x.query .count v = some (BitVec.ofNat 64 x.ncount)) ∧
      (∀ t, t ≠ ty → more ≠ [] → x.insertAll t more level seed = none) ∧
      (∀ y, (Sketch.fresh kind).insertAll ty more level seed = some y → more ≠ [] →
        ∃ z, x.merge y level seed = some z ∧ z.ktype = ty ∧ z.ncount = (x.ncount + y.ncount) % 2 ^ 64)) ∧
    (∀ x y : DC, x.regs.length = 1024 → y.regs.length = 1024 →
      (x.merge x).regs = x.regs ∧ (x.merge y).regs = (y.merge x).regs ∧ (x.merge y).regs.length = 1024 ∧
      ∀ k, (x.insert k).regs.length = 1024 ∧ ((x.insert k).insert k).regs = (x.insert k).regs)

/-- Channel instructions at the issuer (R172, R288–R299). A row gives an instruction, its handle, the end it needs, its kind, the element it
takes along, its address and its two result registers; `t0` is the state after the element is read or the scoreboard entry taken.
What of it the spec leaves open (log entries 36, 56 and 85) is the model's choice. -/
def Obligations.ChannelOperationsTravelToTheirHome : Prop :=
  ∀ (s t0 : State) (l : Lone) (d a b : Reg) (key n : Nat) (bs : List Byte)
    (sent : State → Option Bool → Nat → Bool → List Byte → Word → Reg → Reg → State → Prop),
    s.speculating = false → s.cur.rc = false → (s.cur.armed = none ∨ s.cur.chan ≠ 0) →
    (∀ u send kind acq elem addr rs re t, sent u send kind acq elem addr rs re t ↔
      ∃ m : ChanMsg, m.agent = s.cur.agent ∧ m.core = s.cur.core ∧ m.unit = s.cur.unit ∧ m.ctx = s.cur.ctx ∧
        m.key = key % 2 ^ 56 ∧ m.send = (send = some true) ∧ m.kind = kind ∧ m.elem = elem ∧ m.addr = addr ∧ m.rs = rs ∧ m.re = re ∧
        m.pc = s.cur.pc ∧ (m.deadline.isSome ↔ s.cur.tmo ≠ 0 ∧ kind ≤ 3) ∧
        (u.goesAway m = false → (s.cur.tmo = 0 ∨ (u.ctx s.cur.ctx).logctl.getLsbD 0 = false) → t.agenda = u.agenda ++
          [if m.send then Ev.channelSendAtHome m else Ev.channelReceiveAtHome m]) ∧
        t.mem = u.mem ∧ t.cur.g = u.cur.g ∧ t.cur.pc = u.cur.pc ∧ t.cur.fcr = u.cur.fcr ∧ t.cur.fsr = u.cur.fsr ∧
        t.cur.chan = u.cur.chan + (if kind = 2 then 0 else 1) ∧
        t.cur.cnt = (if kind = 2 then u.cur.cnt.up .transfers else u.cur.cnt) ∧
        t.cur.holdAll = u.cur.holdAll ++ (if acq && kind != 2 then [m.num] else [])) →
    (∀ r ∈ [(Instr.csend l d a b, true, 0), (.crecv l d a b, false, 0), (.csendb l d a b, true, 1), (.crecvb l d a b, false, 1),
        (.csendt l d a b, true, 2), (.crecvt l d a b, false, 2), (.csendp l d a b, true, 3), (.crecvp l d a b, false, 3)],
      s.cur.chan = 0 → s.cur.mayAccess = true → (s.g a).getLsbD 1 = false →
      (resolved s.cur.core (s.g a &&& ~~~3#64) / 2 ^ 53 % 8 ≠ 2 → exec r.1 s = .next (s.raise 0x0C0 (s.g a) s.cur.pc [] true)) ∧
      (resolved s.cur.core (s.g a &&& ~~~3#64) / 2 ^ 53 % 8 = 2 → (s.g a &&& ~~~3#64).toNat % 64 ≠ 0 →
        exec r.1 s = .next (s.raise 0x040 (s.g a &&& ~~~3#64) s.cur.pc [] true))) ∧
    (s.cur.chan = 0 → s.cur.mayAccess = true →
      (handleCheck s (s.g a) (some true) = .ok key → s.chanMaySend key true = true →
        ∃ t, exec (.csend l d a b) s = .next t ∧
          sent s (some true) 0 (s.chanAcquires key true) (natToBytes 8 (s.g b).toNat) 0 d 0 t) ∧
      (handleCheck s (s.g a) (some false) = .ok key → s.chanMaySend key false = true →
        ∃ t, exec (.crecv l d a b) s = .next t ∧ sent s (some false) 0 (s.chanAcquires key false) [] 0 b d t) ∧
      (n = s.blockSize key (s.g b) → (s.isPeerKey key = false → (s.g b).toNat % n = 0) → isExtKey key = false →
        (s.isPeerKey key = false → n = 2 ^ min 6 (s.typeAt key).log2e) ∧
        (handleCheck s (s.g a) (some true) = .ok key → s.chanMaySend key true = true →
          s.readable (s.g b) n = some t0 → t0.cur = s.cur →
          ∀ t1, readBeat t0 s.cur.core s.cur.ctx (s.g b) n = (.ok bs, t1) → t1.cur = s.cur →
          ∃ t, exec (.csendb l d a b) s = .next t ∧
            sent (t1.dropHost s.cur.core s.cur.ctx) (some true) 1 (t1.chanAcquires key true) bs (s.g b) d 0 t) ∧
        (handleCheck s (s.g a) (some false) = .ok key → s.chanMaySend key false = true →
          ∃ t, exec (.crecvb l d a b) s = .next t ∧ sent s (some false) 1 true [] (s.g b) d 0 t)) ∧
      (∀ k, handleCheck s (s.g a) (some true) = .ok key → isExtKey key = true → extEnd key = some (.server k) →
        (s.g b).toNat % 64 = 0 → s.readable (s.g b) 64 = some t0 → t0.cur = s.cur →
        ∀ t1, readBeat t0 s.cur.core s.cur.ctx (s.g b) 64 = (.ok bs, t1) → t1.cur = s.cur →
        (field ((wordsOfBytes bs).getD 0 0) 24 3 = 0 ∨ field ((wordsOfBytes bs).getD 0 0) 24 3 = 7 ∨
          s.cur.releaseHolds (field ((wordsOfBytes bs).getD 0 0) 24 3) = true) →
        ∃ t m, exec (.csendb l d a b) s = .next t ∧ t.mem = t1.mem ∧ m.agent = s.cur.agent ∧ m.elem = bs ∧ m.rs = d ∧
          Ev.msRequest { stack := k, words := wordsOfBytes bs, msg := m } ∈ t.agenda) ∧
      (n = s.tileBytes key → (s.isPeerKey key = false → n = 2 ^ min 20 (s.typeAt key).log2e) ∧
       ((s.g b).toNat % 64 = 0 → s.cur.cnt.full .transfers = false →
        (handleCheck s (s.g a) (some true) = .ok key → s.chanMaySend key true = true →
          s.takeScore [(s.g b, n, false)] .transfers (s.accs + 1) = some t0 →
          ∃ t, exec (.csendt l d a b) s = .next t ∧ sent t0 (some true) 2 false [] (s.g b) d 0 t) ∧
        (handleCheck s (s.g a) (some false) = .ok key → s.chanMaySend key false = true →
          s.takeScore [(s.g b, n, true)] .transfers (s.accs + 1) = some t0 →
          ∃ t, exec (.crecvt l d a b) s = .next t ∧ sent t0 (some false) 2 false [] (s.g b) d 0 t))) ∧
      (handleCheck s (s.g a) (some true) = .ok key →
        ((s.g a).getLsbD 1 = true → (s.g b).toNat % 8 = 0 → s.cur.releaseHolds 6 = true →
          ∃ t, exec (.csendp l d a b) s = .next t ∧ sent s (some true) 3 false [] (s.g b) d 0 t) ∧
        ((s.g a).getLsbD 1 = false → s.chanMaySend key true = true →
          ∃ t, exec (.csendp l d a b) s = .next t ∧ sent s (some true) 3 false [] (s.g b) d 0 t)) ∧
      (handleCheck s (s.g a) (some false) = .ok key →
        ((s.g a).getLsbD 1 = false ∨ (s.g b).toNat % 32 = 0 ∧ s.areaOk (s.g b) = true →
          ∃ t, exec (.crecvp l d a b) s = .next t ∧ sent s (some false) 3 true [] (s.g b) d 0 t) ∧
        ((s.g a).getLsbD 1 = true → (s.g b).toNat % 32 ≠ 0 → exec (.crecvp l d a b) s = raiseO s 0x040 (s.g b))) ∧
      (handleCheck s (s.g a) none = .ok key →
        ∃ t, exec (.cpoll l d a) s = .next t ∧ sent s none 4 false [] 0 d 0 t) ∧
      (handleCheck s (s.g a) none = .ok key → (isExtKey key = true ∨ s.cur.releaseHolds (s.chanScope key) = true) →
        ∃ t, exec (.cclose l a) s = .next t ∧ sent s (some true) 5 false [] 0 0 0 t) ∧
      (∀ h : Word, key = resolved s.cur.core h → h.toNat % 64 = 0 → key / 2 ^ 53 % 8 = 2 → s.isPeerKey key = false →
        (∃ w x, checkAccess s s.cur.core s.cur.ctx h 64 needRW false = .ok w x) →
        s.cur.releaseHolds (s.chanScope key) = true →
        (h = s.descOp l b → ∃ t, exec (.chnew l d b) s = .next t ∧ sent s (some true) 6 false [] 0 d 0 t) ∧
        (h = s.descOp l b &&& ~~~3#64 → ∃ t, exec (.chdel l b) s = .next t ∧ sent s (some true) 7 false [] 0 0 0 t)) ∧
      ((s.descOp l b).toNat % 64 ≠ 0 → exec (.chnew l d b) s = raiseO s 0x040 (s.descOp l b)))

/-- The steps of a channel's home (R172–R181, R295–R299): each names the next state. `endWith` tells the operation's issuer: its
registers, its flags and its fault.
What of it the spec leaves open (log entries 36, 56, 59, 60 and 61) is the model's choice. -/
def Obligations.ChannelHomeAnswersOperations : Prop :=
  ∀ (s : State) (m : ChanMsg) (t : ChanType) (pid : Nat),
    Memory.wf s.mem = true → t = chanType (s.peek m.key) → isExtKey m.key = false → s.goesAway m = false →
    m.agent = .proc pid →
    (∀ (u : State) (x : Word) (f : Option FaultInfo), ∃ (w : State) (d : Done), endWith u m x f = w.push (.heldCompletion d) ∧
      w.mem = u.mem ∧ d.agent = m.agent ∧ d.fault = f ∧ d.sn = m.num ∧ d.chan = some m ∧
      (f = none → d.writes = chanWrites m 0 (elemWord (natToBytes 8 x.toNat)))) ∧
    (m.kind = 6 → newRefused s m = false →
      (s.hasWaiter m.key = true → exec (.channelSendAtHome m) s = .next (endWith s m 0 (chanFault 0x0C5 m))) ∧
      (s.hasWaiter m.key = false → ∃ u, exec (.channelSendAtHome m) s = .next (endWith u m (BitVec.ofNat 64 m.key) none) ∧
        u.peek m.key = setField (setField (s.peek m.key) 28 1 0) 32 16 m.ctx.toNat ∧
        (∀ o ∈ [8, 16, 32, 40, 48, 56], u.peek (m.key + o) = 0) ∧ u.peek (m.key + 24) = s.peek (m.key + 24) ∧
        (∀ a, a < m.key ∨ m.key + 64 ≤ a → byteAt u.mem a = byteAt s.mem a) ∧ u.cur = s.cur ∧ Memory.wf u.mem = true)) ∧
    (m.kind = 7 → newRefused s m = false → t.ctx = m.ctx.toNat →
      (s.hasWaiter m.key = true → exec (.channelSendAtHome m) s = .next (endWith s m 0 (chanFault 0x0C5 m))) ∧
      (s.hasWaiter m.key = false → ∃ u, exec (.channelSendAtHome m) s = .next (endWith u m 0 none) ∧
        u.peek m.key = 0x0000FFFF10000000 ∧ (∀ a, a < m.key ∨ m.key + 8 ≤ a → byteAt u.mem a = byteAt s.mem a) ∧ u.cur = s.cur)) ∧
    (∀ i < 7, (∀ j < i, s.isPoison (m.key + 8 * j) = false ∧ s.errorsAt (m.key + 8 * j) = 0) → s.isPoison (m.key + 8 * i) = true →
      ∀ f : FaultInfo, f = { cause := 0x046, tval := BitVec.ofNat 64 (m.key + 8 * i), words := [] } →
        (m.kind ≤ 5 → exec (.channelSendAtHome m) s = .next (endWith s m 0 (some f))) ∧
        exec (.channelReceiveAtHome m) s = .next (endWith s m 0 (some f))) ∧
    ((∀ i < 7, s.isPoison (m.key + 8 * i) = false ∧ s.errorsAt (m.key + 8 * i) = 0) →
      (homeRefuses t m = true →
        (m.kind ≤ 5 → exec (.channelSendAtHome m) s = .next (endWith s m 0 (chanFault 0x0C0 m))) ∧
        exec (.channelReceiveAtHome m) s = .next (endWith s m 0 (chanFault 0x0C0 m))) ∧
      (homeRefuses t m = false →
        (m.kind = 5 → exec (.channelSendAtHome m) s = .next (if t.closed then endWith s m 0 none
          else endWith ((s.poke m.key (setField (s.peek m.key) 28 1 1)).serveChan m.key) m 0 none)) ∧
        (m.kind ≤ 4 → s.stoppedTile m = none →
          (t.closed = true → exec (.channelSendAtHome m) s = .next (endWith s m 0 (chanFault 0x0C1 m))) ∧
          (t.closed = false → 112 ≤ s.tableUse (partOf m.key) → sendWaits s t m.key = true →
            ∃ u, exec (.channelSendAtHome m) s = .next u ∧ u.timers = s.timers ++ [(s.clk + 64, .sendRetry m)] ∧ u.chanq = s.chanq ∧
              u.mem = s.mem) ∧
          (t.closed = false → ¬ (112 ≤ s.tableUse (partOf m.key) ∧ sendWaits s t m.key = true) →
            exec (.channelSendAtHome m) s = .next (s.arrive m))) ∧
        (m.kind ≤ 3 → s.stoppedTile m = none → exec (.channelReceiveAtHome m) s = .next (s.arrive m)) ∧
        (∀ x, m.kind ≤ 3 → s.stoppedTile m = some x → exec (.channelReceiveAtHome m) s = .next (s.resumeAt m x) ∧
          exec (.channelSendAtHome m) s = .next (s.resumeAt m x)) ∧
        (m.kind = 4 → m.sel = none → exec (.channelReceiveAtHome m) s = .next (endWith s m (s.pollWord m.key) none)))) ∧
    (m.kind ≠ 8 → exec (.sendRetry m) s = .next ((s.updProc pid fun p => { p with waiting := false }).push (.channelSendAtHome m))) ∧
    (m.kind = 8 → exec (.sendRetry m) s = .next (s.serveChan m.key)) ∧
    (∀ bs st, (s.epHeld.any fun e => decide (e.1.num = m.num) && decide (e.1.sel = m.sel)) = false →
      exec (.drainQueryReply m bs st) s = .next s) ∧
    (∀ bs st u, (s.epHeld.any fun e => decide (e.1.num = m.num) && decide (e.1.sel = m.sel)) = true → (s.proc pid).killed = false →
      u = { s with epHeld := s.epHeld.filter fun e => !(decide (e.1.num = m.num) && decide (e.1.sel = m.sel)) } →
      (s.stampDrained st = false → exec (.drainQueryReply m bs st) s = .next (s.later (.drainQueryReply m bs st))) ∧
      (s.stampDrained st = true → exec (.drainQueryReply m bs st) s = .next
        (match (if t.kind = 2 then takeTile u t m.key m true else takeElem u t m.key m true) with
         | .moved v ks => v.serveAll (m.key :: ks)
         | .idle v => v
         | .held v q => v.tryAgain q)) ∧
      (∀ es ss, s.stampDrained st = true → t.kind = 0 → t.ep = true → m.kind = 0 → m.sel = none →
        u.homeRead (u.chanBuf m.key + u.chanHead m.key % t.depth * 2 ^ t.log2e) (2 ^ t.log2e) = (.ok es, u) →
        u.homeRead (u.stampAt t m.key (u.chanHead m.key)) 8 = (.ok ss, u) → u.takeMiss t m.key m = false →
        exec (.drainQueryReply m bs st) s = .next
          (((((u.takeDone t m.key m).homeCommit pid [m.key / 64]).unwait m).reportChan m 0 es
            ((u.elemInfo m.key (u.chanHead m.key)).elim 0 (·.flags)) false none).serveAll [m.key]))) ∧
    (∀ d q, (s.proc pid).armed = some d → s.armedOp pid = some q → s.timeoutDue (s.proc pid) d q.key = true →
      (s.proc pid).killed = false → exec (.channelTimeout pid) s = .next (s.push (.withdrawal q))) ∧
    (∀ d, (s.proc pid).armed = some d → s.replays (s.proc pid) = false → s.clkOf (s.proc pid).core < d →
      exec (.channelTimeout pid) s = .next s) ∧
    ((s.peerOps.any fun e => decide (e.1 = m.num)) = false → s.asksPeer m.key = false →
      (s.takeOut m = none → exec (.withdrawal m) s = .next s) ∧
      (∀ w g, s.takeOut m = some w →
        s.logGate (s.proc pid) 0x09 (ownerUnit m.key) false (s.core m.core).lcore m.unit pid 0 = .pass g → g.takenSlot m = none →
        exec (.withdrawal m) s = .next (((g.takeOut m).getD g).reportChan m 2 [] 0 false none))) ∧
    (∀ (x : TileMsg) (bs : List Byte) (u v : State), x ∈ s.tiles → x.stopped = none → x.len ≠ remoteTile → x.pos + 64 < x.len →
      tileRead s x = (.ok bs, u) → tileWrite u x bs = (.ok (), v) →
      exec (.tileTransfer x) s = .next (({ v with
        tiles := v.tiles.map fun (y : TileMsg) => if y.num = x.num then { x with pos := x.pos + 64 } else y }).push
          (.tileTransfer { x with pos := x.pos + 64 })))

/-- Select (R62, R179–R181, R300, R301). `w` is the select as it waits, `keep` the select's bookkeeping, `ms` its channel alternatives with the
elements read at the probe, `v` the state after those reads.
What of it the spec leaves open (log entries 36, 58 and 60) is the model's choice. -/
def Obligations.SelectTakesTheFirstReady : Prop :=
  (∀ (s : State) (l : Lone) (d b : Reg) (f : BitVec 1), s.speculating = false → s.cur.rc = false → s.cur.armed.isSome = true →
    s.cur.chan = 0 → exec (.chsel l d b f) s = raiseO s 0x001 s.cword) ∧
  (∀ (s u v : State) (l : Lone) (d b : Reg) (f : BitVec 1) (la : Word) (a list n num : Nat) (here ms : List ChanMsg)
    (time : Option Nat) (w : SelWait) (keep : State),
    s.speculating = false → s.cur.rc = false → s.cur.chan = 0 → s.cur.mayAccess = true → s.cur.armed = none →
    la = s.descOp l b → a = resolved s.cur.core la → list = localKey a → n = field (s.peek list) 0 6 →
    (la.toNat % 64 ≠ 0 → exec (.chsel l d b f) s = raiseO s 0x040 la) ∧
    (la.toNat % 64 = 0 → (a / 2 ^ 53 % 8 ≠ 2 ∨ s.isPeerKey a = true) →
      exec (.chsel l d b f) s = .next (s.raise 0x0C0 la s.cur.pc [] true)) ∧
    (la.toNat % 64 = 0 → a / 2 ^ 53 % 8 = 2 → s.isPeerKey a = false →
      (∃ x y, checkAccess s s.cur.core s.cur.ctx la 32 needRW false = .ok x y) →
      (∃ x y, checkAccess s s.cur.core s.cur.ctx (la + BitVec.ofNat 64 (24 + 32 * min n 32)) 8 needRW false = .ok x y) →
      s.cur.releaseHolds 6 = true → s.inFlightTo s.cur.agent (list / 64) = false → ∀ ws, ws = (List.range (4 + 4 * min n 32)).map (fun i => list + 8 * i) →
      (∀ x z, s.guardList ws = (some x, z) → exec (.chsel l d b f) s = .next (z.raiseAfter 0x046 (BitVec.ofNat 64 x) [] none)) ∧
      (s.guardList ws = (none, s) → listOutside list n = false →
      ((n = 0 ∨ 32 < n ∨ n ≤ field (s.peek list) 8 5) → exec (.chsel l d b f) s = .next (s.raiseAfter 0x0C0 la [0] none)) ∧
      (field (s.peek list) 13 51 = 0 → field (s.peek list) 6 2 = 0 → 1 ≤ n → n ≤ 32 → field (s.peek list) 8 5 < n →
        s.peek (list + 8) = 0 → s.peek (list + 16) = 0 → s.peek (list + 24) = 0 →
        (∀ i, badAlt s list (List.range n) 0 = some i →
          exec (.chsel l d b f) s = .next (s.raiseAfter 0x0C0 la [BitVec.ofNat 64 i] none)) ∧
        (badAlt s list (List.range n) 0 = none →
          ((∀ i < n, (s.altAt list i).guard = false) → exec (.chsel l d b f) s = .next (s.raiseAfter 0x001 s.cword [] none)) ∧
          ((∃ i < n, (s.altAt list i).guard = true) → num = s.accs + 1 →
            here = (List.range n).filterMap (fun i => (if (s.altAt list i).guard && (s.altAt list i).kind != 2
              then altKey s (s.altAt list i) else none).map fun key => altMsg s list num i key []) →
            altElems s s.cur.core s.cur.ctx here [] = (.ok ms, u) → v = u.dropHost u.cur.core u.cur.ctx →
            time = (List.range n).find? (fun i => (v.altAt list i).guard && (v.altAt list i).kind == 2) →
            w = { pid := v.cur.pid, core := v.cur.core, unit := v.cur.unit, ctx := v.cur.ctx, list := list, rd := d,
                  fair := f == 1, pc := v.cur.pc, num := num,
                  deadline := time.map (fun i => v.clkOf v.cur.core + (v.altAt list i).count), timed := time.getD 0,
                  order := if f = 1 then (List.range n).map (fun i => (field (s.peek list) 8 5 + i) % n) else List.range n } →
            keep = { v with
                accs := num + n
                cur := { (v.cur.setPend d) with
                  holdAll := v.cur.holdAll ++ [num]
                  selRedo := some { pc := v.cur.pc, ir := v.ir,
                                    regs := { g := v.cur.g, fcr := v.cur.fcr, vgrant := v.cur.vgrant, rs := v.cur.rs }, isA := false }
                  seqs := ms.foldl (fun q m => if m.send then SMap.put 0 q m.key m.seq else q) v.cur.seqs
                  outst := v.cur.outst ++
                    [{ sn := num, loads := false, stores := false, held := false, sp3 := false, owner := [] }] } } →
            ((∀ m ∈ ms, v.isPeerAddr m.handle = false) → exec (.chsel l d b f) s = .next (keep.enterSelect w ms)) ∧
            ((∃ m ∈ ms, v.isPeerAddr m.handle = true) →
              exec (.chsel l d b f) s = .next ((ms.filter fun m => v.isPeerAddr m.handle).foldl State.toHome
                { keep with cur := { keep.cur with waiting := true }
                            selq := keep.selq ++ [{ w with
                              alts := ms, asked := (ms.filter fun m => v.isPeerAddr m.handle).filterMap fun m => m.sel.map (·.2) }] })) ∧
            (ms = [] → v.selAt list = none → v.replayIndex v.cur list = none → v.replays v.cur = false →
              v.cur.st = .running → v.cur.task = false → ∀ i, time = some i → 0 < (v.altAt list i).count →
              ∃ t, exec (.chsel l d b f) s = .next t ∧ t.selq = v.selq ++ [w] ∧ t.chanq = v.chanq ∧
                (v.clk + (v.altAt list i).count, Ev.timeoutFire v.cur.pid) ∈ t.timers ∧
                t.cur.st = .parked ∧ t.cur.wait = list ∧ t.cur.wkind = 3))))))) ∧
  (∀ (s x : State) (w : SelWait) (ms : List ChanMsg),
    x = { s with selq := s.selq ++ [w], chanq := s.chanq ++ ms.filter fun m => !s.isPeerAddr m.handle } →
    (x.replayIndex (x.proc w.pid) w.list = none → readyAlt x w ms = w.order.find? fun i =>
      (w.deadline.elim false fun d => decide (w.timed = i) && decide (d ≤ x.clkOf w.core)) ||
      ms.any fun m => m.sel == some (w.list, i) && (if x.isPeerAddr m.handle then w.found.contains i else x.altReady m)) ∧
    (readyAlt x w ms = none → s.enterSelect w ms = x.waitSelect w ms none) ∧
    (∀ i, readyAlt x w ms = some i → ms.find? (fun m => m.sel == some (w.list, i)) = none →
      s.enterSelect w ms = (x.fireTime w).waitSelect w ms none) ∧
    (∀ i m, readyAlt x w ms = some i → ms.find? (fun m => m.sel == some (w.list, i)) = some m →
      (isExtKey m.key = true → s.enterSelect w ms = (x.moveExt w m i).waitSelect w ms none) ∧
      (isExtKey m.key = false → x.isPeerAddr m.handle = false → x.partner m = none →
        s.enterSelect w ms = ((x.grantAlt w.list (some i)).serveChan m.key).waitSelect w ms none))) ∧
  (∀ (s u : State) (w : SelWait), (s.proc w.pid).killed = false → s.selGate w w.timed true = .pass u →
    s.fireTime w = (u.endSelect w w.timed 2 none 0 false none).1.serveAll (u.endSelect w w.timed 2 none 0 false none).2) ∧
  (∀ (s : State) (list i : Nat), s.selAt list = none → exec (.selectClaim list i) s = .next s) ∧
  (∀ (s : State) (list i : Nat) (w : SelWait), s.selAt list = some w → w.alts = [] →
    (∀ j, w.granted = some j → j ≠ i → exec (.selectClaim list i) s = .next (s.later (.selectClaim list i))) ∧
    (∀ m, w.granted = none ∨ w.granted = some i → s.claimAhead w i = false → s.replayIndex (s.proc w.pid) list = none →
      (s.chanq ++ s.peerOps.map (·.2)).find? (fun m => isProcMsg m && m.sel == some (list, i)) = some m →
      s.isPeerAddr m.handle = false →
      (isExtKey m.key = false → exec (.selectClaim list i) s = .next ((s.grantAlt list (some i)).serveChan m.key)) ∧
      (isExtKey m.key = true → s.altReady m = true → exec (.selectClaim list i) s = .next (s.moveExt w m i)))) ∧
  (∀ (s : State) (pid : Nat), (∀ w ∈ s.selq, w.pid ≠ pid ∨ w.deadline = none) → exec (.timeoutFire pid) s = .next s) ∧
  (∀ (s : State) (pid dl : Nat) (w : SelWait),
    s.selq.find? (fun w => decide (w.pid = pid) && w.deadline.isSome) = some w → w.deadline = some dl →
    s.replays (s.proc pid) = false →
    (s.clkOf (s.proc pid).core < dl → exec (.timeoutFire pid) s = .next s) ∧
    (dl ≤ s.clkOf (s.proc pid).core → w.granted = none → s.claimAhead w w.timed = false →
      exec (.timeoutFire pid) s = .next (s.fireTime w)))

/-- Records made by instructions and handlers (R166, R182–R186, R302–R305). `pid` is the record at the pool's HEAD; `made u c home prio
task rc pc gs` says that `u` is `s` with that record written.
What of it the spec leaves open (log entry 54) is the model's choice. -/
def Obligations.RecordsAreCreatedFromThePool : Prop :=
  ∀ (s : State) (l : Lone) (d h a b : Reg) (p pid : Nat) (made : State → Nat → Nat → BitVec 3 → Bool → Bool → Word → List Word → Prop),
    Memory.wf s.mem = true →
    (∀ u q home prio task rc pc gs, made u q home prio task rc pc gs ↔
      u.peek q = pc ∧ (∀ i < 4, u.peek (q + 16 + 8 * i) = gs.getD i 0) ∧
      field (u.peek (q + 8)) 41 10 = home % 1024 ∧ field (u.peek (q + 8)) 51 1 = bit rc ∧ field (u.peek (q + 8)) 52 1 = bit task ∧
      field (u.peek (q + 8)) 53 3 = prio.toNat ∧ field (u.peek (q + 8)) 0 41 = field (s.peek (q + 8)) 0 41 ∧
      ∀ x, x < q ∨ q + 64 ≤ x → byteAt u.mem x = byteAt s.mem x) →
    (s.speculating = false → s.cur.rc = false →
      (field (s.g a) 0 3 ≠ 0 → exec (.spawn l d a b) s = raiseO s 0x040 (s.g a) ∧ exec (.spawnk l d a b) s = raiseO s 0x040 (s.g a) ∧
        exec (.fork l a) s = raiseO s 0x040 (s.g a)) ∧
      (field (s.g a) 0 3 = 0 → s.cur.maySpawn = true →
        (∃ m : SpawnMsg, exec (.spawn l d a b) s = .next (s.sendSpawn m) ∧ m.kind = 0 ∧ m.entry = s.g a ∧
          m.prio = (s.g b).setWidth 3 ∧ m.g14 = [s.g 1, s.g 2, s.g 3, s.g 4] ∧ m.rd = d ∧ m.ctx = s.cur.ctx ∧ m.agent = s.cur.agent) ∧
        (∃ m : SpawnMsg, exec (.spawnk l d a b) s = .next (s.sendSpawn m) ∧ m.kind = 1 ∧ m.entry = s.g a ∧
          m.prio = (s.g b).setWidth 3 ∧ m.g14 = [s.g 1, s.g 2, s.g 3, s.g 4] ∧ m.rd = d ∧ m.ctx = s.cur.ctx ∧ m.agent = s.cur.agent) ∧
        (∀ m : SpawnMsg, (s.sendSpawn m).agenda = s.agenda ++ [.spawnPlace m] ∧ (s.sendSpawn m).mem = s.mem ∧
          (s.sendSpawn m).cur.g = s.cur.g ∧ (s.sendSpawn m).cur.waiting = true) ∧
        (s.cur.core = p → (256 ≤ (s.core p).deque.length ∨ (s.hasRecord p = false ∧ s.levelOf s.cur.ctx = 0)) →
          ∀ u, s.logGate s.cur 0x08 p false (s.core p).lcore s.cur.unit 0 (2 ^ 15 + (s.core p).lcore) = .pass u →
          exec (.fork l a) s = .next ((u.setG 30 (s.cur.pc + 8)).jump (s.g a))) ∧
        (s.cur.core = p → (s.core p).deque.length < 256 → s.hasRecord p = true → pid = (s.takeRecord p).1 →
          ∃ u, exec (.fork l a) s =
              .next ((u.updCore p fun c => { c with deque := pid :: c.deque }).push (.slotFill p)) ∧
            made u pid (if s.levelOf s.cur.ctx = 0 then (s.core p).lcore else s.cur.home) s.cur.prio true false (s.g a)
              [s.g 1, s.g 2, s.g 3, s.g 4])) ∧
      (field (s.g b) 0 3 ≠ 0 → exec (.callat l h a b) s = raiseO s 0x040 (s.g b)) ∧
      (field (s.g b) 0 3 = 0 → (s.g h).getLsbD 0 = true → exec (.callat l h a b) s = raiseO s 0x0C0 (s.g h)) ∧
      (field (s.g b) 0 3 = 0 → s.g h = 0 → ∀ at_, at_ = resolved s.cur.core (s.g a) →
        (4 ≤ at_ / 2 ^ 53 % 8 → exec (.callat l h a b) s = .next (s.raiseAfter 0x043 (s.g a) [] none)) ∧
        (at_ / 2 ^ 53 % 8 < 4 → at_ / 2 ^ 53 % 8 ≠ 2 → exec (.callat l h a b) s = .next (s.raiseAfter 0x0C4 (s.g a) [] none)) ∧
        (at_ / 2 ^ 53 % 8 = 2 → (at_ / 2 ^ 56 = 0 ∨ at_ / 2 ^ 56 = s.mynode) → s.cur.mayAccess = true → s.cur.releaseHolds 5 = true →
          (s.callCore (at_ % 2 ^ 56) = none → exec (.callat l h a b) s = .next (s.raiseAfter 0x0C4 (s.g a) [] none)) ∧
          (∀ q, s.callCore (at_ % 2 ^ 56) = some q → ∃ m : SpawnMsg, exec (.callat l h a b) s = .next (s.sendSpawn m) ∧
            m.kind = 2 ∧ m.entry = s.g b ∧ m.prio = s.cur.prio ∧ m.g14 = [s.g 1, s.g 2, s.g 3, s.g h] ∧ m.target = at_ % 2 ^ 56)))) ∧
    (∀ m : SpawnMsg, s.levelOf m.ctx = 0 →
      (m.kind ≤ 1 → m.core = p → s.spawnCore p = some p → pid = (s.takeRecord p).1 →
        ∃ u, exec (.spawnPlace m) s = .next ((u.enqueue p pid).spawned m pid) ∧
          made u pid (s.core p).lcore m.prio (m.kind != 0) false m.entry ((List.range 4).map fun i => m.g14.getD i 0)) ∧
      (m.kind ≤ 1 → s.spawnCore m.core = none → s.logged (s.proc m.agent.pid) = false →
        exec (.spawnPlace m) s = .next (s.runInline m)) ∧
      (m.kind = 2 → s.callCore m.target = some p → s.hasRecord p = true → pid = (s.takeRecord p).1 →
        ∃ u, exec (.spawnPlace m) s = .next ((u.enqueue p pid).spawned m pid) ∧
          made u pid (s.core p).lcore m.prio true false m.entry ((List.range 4).map fun i => m.g14.getD i 0)) ∧
      (m.kind = 2 → s.callCore m.target = some p → s.hasRecord p = false → exec (.spawnPlace m) s = .next (s.later (.spawnPlace m)))) ∧
    (∀ m : HandlerMsg, m.core = p → sramLid m.object = true →
      (SMap.get 0 s.locks (m.object / 64) = 0 → s.hasRecord p = true → pid = (s.takeRecord p).1 →
        ∃ u v : State, exec (.handlerRequest m) s = .next (v.enqueueHead p pid) ∧ v.mem = u.mem ∧ v.locks = SMap.put 0 u.locks (m.object / 64) pid ∧
          made u pid (s.core p).lcore 7 false true m.entry ((List.range 4).map fun i => m.g14.getD i 0)) ∧
      (SMap.get 0 s.locks (m.object / 64) ≠ 0 → exec (.handlerRequest m) s = .next (s.later (.handlerRequest m))))

/-- Join counters, `park`, `exit`, `yield` and `chprio` (R168, R185, R306–R308).
What of it the spec leaves open (log entries 52 and 75) is the model's choice. -/
def Obligations.JoinParkYieldExitComplete : Prop :=
  ∀ (s : State) (l : Lone) (a b : Reg) (acc : MemOp → MemOrder → Nat → Acc) (after : Acc → State),
    s.speculating = false →
    (∀ op ord sc, acc op ord sc = { va := s.g a, size := 8, op := op, ord := ord, sc := sc, rd := 0 }) →
    (∀ c, after c = { s.sendAccess c with cur := { (s.sendAccess c).cur with waiting := true } }) →
    ((s.g a).toNat % 8 ≠ 0 →
      exec (.join l a) s = raiseO s 0x040 (s.g a) ∧ exec (.jinit l a b) s = raiseO s 0x040 (s.g a) ∧
      exec (.park l a b) s = raiseO s 0x040 (s.g a) ∧ (a ≠ 0 → exec (.exit l a) s = raiseO s 0x040 (s.g a))) ∧
    ((s.g a).toNat % 8 = 0 →
      (∀ c, c = acc .join .acq 5 → s.cur.rc = false → (s.sendAccess c).xfer ≠ .again →
        exec (.join l a) s = .next (if s.accessWaits c (s.accScope c) then s.stall else after c)) ∧
      (∀ c, c = acc (.park (s.g b)) .acq 1 → s.cur.rc = false → (s.sendAccess c).xfer ≠ .again →
        (s.nodeAway (s.g a) = false →
          exec (.park l a b) s = .next (if s.accessWaits c (s.accScope c) then s.stall else after c)) ∧
        (s.nodeAway (s.g a) = true → exec (.park l a b) s = .next (s.raiseAfter 0x043 (s.g a) [] none))) ∧
      (∀ c, c = acc .joinDec .rel 5 → a ≠ 0 → s.cur.busy = false → (s.sendAccess c).xfer ≠ .again →
        exec (.exit l a) s = .next (if s.accessWaits c (s.accScope c) then s.stall else { after c with xfer := .left })) ∧
      (∀ c, c = acc (.store (zeroExtend (s.g b).toNat 32)) .rlx 0 → s.spaceAt (s.g a) ≠ 3 →
        exec (.jinit l a b) s = .next (if s.accessWaits c (s.accScope c) then s.stall else s.sendAccess c)) ∧
      (s.spaceAt (s.g a) = 3 → exec (.jinit l a b) s = .next (s.raiseAfter 0x043 (s.g a) [] none)) ∧
      (s.cur.rc = true → exec (.join l a) s = .next (s.raiseAfter 0x0C2 0 [] none) ∧
        exec (.park l a b) s = .next (s.raiseAfter 0x0C2 0 [] none))) ∧
    (s.cur.busy = false → exec (.exit l 0) s = .next { s.finish s.cur.pid with xfer := .left }) ∧
    (s.cur.busy = true → a = 0 ∨ (s.g a).toNat % 8 = 0 → exec (.exit l a) s = .next s.stall) ∧
    (s.cur.rc = true → exec (.yield l) s = .next (s.raiseAfter 0x0C2 0 [] none)) ∧
    (s.cur.rc = false →
      ((∀ q ∈ s.queued s.cur.core, (s.proc q).prio.toNat < s.cur.prio.toNat) → exec (.yield l) s = .next s) ∧
      ((∃ q ∈ s.queued s.cur.core, s.cur.prio.toNat ≤ (s.proc q).prio.toNat) →
        exec (.yield l) s = .next { s with cur := { s.cur with leaving := 5, leaveNo := s.accs + 1 }, accs := s.accs + 1,
                                           agenda := s.agenda ++ [.spillComplete s.cur.pid] })) ∧
    (Memory.wf s.mem = true → ∃ t, exec (.chprio l b) s = .next t ∧ t.cur = { s.cur with prio := (s.g b).setWidth 3 } ∧
      t.agenda = s.agenda ++ [.slotFill s.cur.core] ∧
      t.peek (s.cur.pid + 8) = setField (s.peek (s.cur.pid + 8)) 53 3 ((s.g b).toNat % 8) ∧
      ∀ x, x < s.cur.pid + 8 ∨ s.cur.pid + 16 ≤ x → byteAt t.mem x = byteAt s.mem x)

/-- Barriers and groups (R62, R187, R188, R309–R311). `k` is the barrier that `g[a]` names.
What of it the spec leaves open (log entries 50 and 53) is the model's choice. -/
def Obligations.BarriersAndGroupsComplete : Prop :=
  ∀ (s : State) (l : Lone) (d a b : Reg) (k : Nat),
    (s.speculating = false → s.cur.rc = false → s.arrivalOut = false →
      (s.barrierKey (s.g a) = none → ∀ i ∈ [Instr.binit l a b, .barr l d a, .barw l d a, .ginit l a b, .gkill l a, .gquery l d a],
        exec i s = .next (s.raiseAfter 0x043 (s.g a) [] none)) ∧
      (s.barrierKey (s.g a) = some k →
        (field (s.g b) 0 16 = 0 → exec (.binit l a b) s = .next (s.raiseAfter 0x001 s.cword [] none)) ∧
        (field (s.g b) 0 16 ≠ 0 → (s.barrier k).arrived ≠ 0 →
          exec (.binit l a b) s = .next (s.raiseAfter 0x0C6 (s.g a) [] none)) ∧
        (field (s.g b) 0 16 ≠ 0 → (s.barrier k).arrived = 0 →
          exec (.binit l a b) s = .next (s.setBarrier k { Barrier.empty with expect := field (s.g b) 0 16 })) ∧
        (s.cur.mayAccess = true → s.cur.releaseHolds 5 = true → ∀ i w, (i = Instr.barr l d a ∧ w = false) ∨ (i = .barw l d a ∧ w = true) →
          ∃ t m, exec i s = .next t ∧ t.agenda = s.agenda ++ [.barrierArrival m] ∧ m.name = s.g a ∧ m.waits = w ∧ m.rd = d ∧
            m.agent = s.cur.agent ∧ t.mem = s.mem ∧ t.cur.g = s.cur.g ∧ t.cur.isPend d = (s.cur.setPend d).isPend d ∧
            t.cur.waiting = (w || s.cur.waiting) ∧ t.barriers = s.barriers) ∧
        ((s.cur.mayAccess = false ∨ s.cur.releaseHolds 5 = false) →
          exec (.barr l d a) s = .next s.stall ∧ exec (.barw l d a) s = .next s.stall) ∧
        (∀ table, table = resolved s.cur.core (s.g b) → (s.g b).toNat % 64 = 0 → s.nodeAway (s.g b) = false → table / 2 ^ 53 % 8 = 2 →
          sramLid (table % 2 ^ 56) = false → sramFieldsOk s (table % 2 ^ 56) = true → coreOfSlice (table % 2 ^ 56) = k / 1024 →
          sramOff table + 512 ≤ Config.sliceBytes →
          ((s.barrier k).expect = 0 → exec (.ginit l a b) s = .next (s.raiseAfter 0x0C6 (s.g a) [] none)) ∧
          ((s.barrier k).expect ≠ 0 → ∀ x z, s.guardList ((List.range 64).map fun i => table % 2 ^ 56 + 8 * i) = (some x, z) →
            exec (.ginit l a b) s = .next (z.raiseAfter 0x046 (BitVec.ofNat 64 x) [] none)) ∧
          ((s.barrier k).expect ≠ 0 → s.guardList ((List.range 64).map fun i => table % 2 ^ 56 + 8 * i) = (none, s) →
            exec (.ginit l a b) s = .next (s.setBarrier k { s.barrier k with
            table := table % 2 ^ 56, members := (List.range 64).map fun i => readNat s.mem (table % 2 ^ 56 + 8 * i) 8 }))) ∧
        ((s.g b).toNat % 64 ≠ 0 → exec (.ginit l a b) s = .next (s.raiseAfter 0x043 (s.g b) [] none)) ∧
        exec (.gkill l a) s = .next (((s.barrier k).members.filter (· ≠ 0)).foldl State.kill s) ∧
        exec (.gquery l d a) s = .next (s.setG d (BitVec.ofNat 64
          ((s.barrier k).members.countP fun p => decide (p ≠ 0) && decide ((s.proc p).pid = p) &&
            decide ((s.proc p).st ≠ .free) && decide ((s.proc p).st ≠ .done)))))) ∧
    (s.speculating = false → s.cur.rc = true →
      ∀ i ∈ [Instr.binit l a b, .barr l d a, .barw l d a, .ginit l a b, .gkill l a, .gquery l d a],
        exec i s = .next (s.raiseAfter 0x0C2 0 [] none)) ∧
    (∀ (m : BarMsg) (x : Barrier), s.barrierKey m.name = some k → s.barrier k = x →
      (x.expect = 0 → exec (.barrierArrival m) s = .next ((s.endAwait m.agent).push
        (.heldCompletion (barDone m 0 (some { cause := 0x0C6, tval := m.name, words := [] }))))) ∧
      (x.expect ≠ 0 → x.arrived + 1 < x.expect → m.waits = false → exec (.barrierArrival m) s =
        .next ((s.setBarrier k { x with arrived := x.arrived + 1 }).push (.heldCompletion (barDone m x.gen none)))) ∧
      (SMap.wf Barrier.empty s.barriers = true → x.expect ≠ 0 → x.arrived + 1 < x.expect → m.waits = true → ∀ pid, m.agent = .proc pid → pid = s.cur.pid → s.cur.st = .running →
        s.cur.task = false → ∃ t, exec (.barrierArrival m) s = .next t ∧ t.barrier k = { x with arrived := x.arrived + 1, waiters := x.waiters ++ [m] } ∧
          t.cur.st = .parked ∧ t.cur.wait = m.name.toNat ∧ t.cur.wkind = 6) ∧
      (x.expect ≠ 0 → x.expect ≤ x.arrived + 1 → s.logged (s.proc m.agent.pid) = false → exec (.barrierArrival m) s =
        .next (((x.waiters.foldl (fun s w => s.satisfies w.agent)
            (s.setBarrier k { x with arrived := 0, gen := x.gen + 1, waiters := [] })).endAwait m.agent).pushAll
          ((x.waiters ++ [m]).map fun w => .heldCompletion (barDone w x.gen none)))))

/-- Slots, spills, pre-emption, stealing and pool registers (R166, R168, R169, R203, R206, R407).
What of it the spec leaves open (log entries 52 and 55) is the model's choice. -/
def Obligations.SlotsAndPoolsComplete : Prop :=
  ∀ (s : State) (core pid : Nat) (x : Word),
    (s.slotsFull core = true → (s.queued core) = [] → s.idleCore core = false → exec (.slotFill core) s = .next s) ∧
    (∀ u v, u = fillSlots 8 s core →
      v = (if u.slotsFull core && !(u.queued core).isEmpty then
             (if (u.spillChoice core).isSome then u.push (.spillParked core)
              else if (u.victim core).isSome then u.push (.preempt core) else u)
           else u) →
      exec (.slotFill core) s =
        .next ((if v.idleCore core && (v.stealChoice core).isSome then v.push (.taskSteal core) else v).callIdle core)) ∧
    (∀ n, (∀ k ∈ s.enabledSlots core, s.slotPid core k ≠ 0 ∨ s.pickBelow core k 8 = none) → fillSlots n s core = s) ∧
    (∀ n k, k ∈ s.enabledSlots core → s.slotPid core k = 0 → s.pickBelow core k 8 = some pid →
      (∀ j ∈ s.enabledSlots core, j < k → s.slotPid core j ≠ 0 ∨ s.pickBelow core j 8 = none) →
      fillSlots (n + 1) s core = fillSlots n (s.place core k pid) core ∧ (s.place core k pid).slotPid core k = pid ∧
      ((s.place core k pid).proc pid).st = .running ∧ ((s.place core k pid).proc pid).core = core ∧
      ((s.place core k pid).proc pid).unit = k) ∧
    ((s.slotsFull core = false ∨ s.queued core = []) → exec (.spillParked core) s = .next s) ∧
    (s.slotsFull core = true → s.queued core ≠ [] → s.spillChoice core = some pid →
      (s.proc pid).st = .parked ∧ exec (.spillParked core) s =
        .next (s.leave pid 1)) ∧
    (∀ why, (s.proc pid).pid = pid → ((s.leave pid why).proc pid).leaving = why ∧ (s.leave pid why).mem = s.mem ∧
      (s.leave pid why).agenda = s.agenda ++ [.spillComplete pid]) ∧
    (s.victim core = none → exec (.preempt core) s = .next s) ∧
    (s.victim core = some pid → exec (.preempt core) s = .next (s.leave pid 2)) ∧
    (∀ p, p = s.proc pid → p.pid = pid → p.resident = true → p.leaving ≠ 0 →
      (p.st = .faulted ∨ (p.leaving = 1 ∧ p.st ≠ .parked) →
        exec (.spillComplete pid) s = .next ((s.updProc pid fun p => { p with leaving := 0 }).kick pid)) ∧
      (p.st ≠ .faulted → (p.leaving = 1 → p.st = .parked) → (p.leaving = 5 → p.task = false) → s.spillBehind p = false → p.vpos = 0 →
        p.outst.all (·.held) = true → p.missPending = false → (p.leaving = 5 ∨ p.taskBarred = false) →
        (s.frameHole p = none → exec (.spillComplete pid) s = .next ((s.saveContext pid).requeue pid p.leaving)) ∧
        (∀ f, s.frameHole p = some f → exec (.spillComplete pid) s = .next (s.spillHole pid f))) ∧
      (p.st ≠ .faulted → (p.leaving = 1 → p.st = .parked) → (p.leaving = 5 → p.task = false) →
        (s.spillBehind p = true ∨ p.outst.all (·.held) = false ∨ p.missPending = true) →
        exec (.spillComplete pid) s = .next (s.later (.spillComplete pid))) ∧
      (p.st ≠ .faulted → s.spillBehind p = false → p.leaving = 5 → p.task = true → p.missPending = false →
        exec (.spillComplete pid) s = .next (((s.keepTask pid).setState pid .ready).enqueue (s.physOf p.home) pid))) ∧
    ((s.proc pid).leaving = 0 → exec (.spillComplete pid) s = .next s) ∧
    (s.idleCore core = false → exec (.taskSteal core) s = .next s) ∧
    (∀ q t kind, s.idleCore core = true → s.stealChoice core = some (q, t, kind) → s.logged (s.proc t) = false →
      exec (.taskSteal core) s = .next (((s.unqueue q t).setHome t core).enqueue core t)) ∧
    (∀ n, chainLength s.mem core (field x 0 21) 0 24576 = some n →
      exec (.poolHeadWrite core x) s = .next (s.setReg (corePage core + 0x900) (BitVec.ofNat 64 (n * 2 ^ 32 + field x 0 21)))) ∧
    (field x 0 21 = 0x1FFFC0 → exec (.poolHeadWrite core x) s = .next (s.setReg (corePage core + 0x900) 0x1FFFC0)) ∧
    (field x 0 21 ≠ 0x1FFFC0 → (field x 0 21 % 64 ≠ 0 ∨ 0x180000 ≤ field x 0 21) →
      exec (.poolHeadWrite core x) s = .next (s.setRegBit (corePage core + 0x918) 1)) ∧
    (pid = 2 ^ 54 + field x 0 48 → (s.proc pid).st ≠ .faulted →
      exec (.recfree core x) s = .next (s.setRegBit (corePage core + 0x918) 0)) ∧
    (pid = 2 ^ 54 + field x 0 48 → (s.proc pid).pid = pid → (s.proc pid).st = .faulted → (s.proc pid).resident = false →
      coreOfSlice pid = core → (s.queued (s.physOf (s.proc pid).home)).contains pid = false →
      exec (.recfree core x) s = .next (((s.updProc pid fun p => { p with
        outst := [], owed := [], redo := [], chan := 0,
        cnt := { loads := 0, stores := 0, copies := 0, matrix := 0, transfers := 0 } }).dropMatrix pid).finish pid))

/-- Array commands at issue (R370–R381). `joins u op ranges t` says that `t` is `u` with the command counted, its ranges in the scoreboard and
the item sent to the queue.
What of it the spec leaves open (log entries 25 and 88) is the model's choice. -/
def Obligations.ArrayCommandsAreQueued : Prop :=
  ∀ (s u v : State) (l : Lone) (a b : Reg) (va : Word) (ws : List Word) (w : Nat → Word)
    (joins : State → MatOp → List (Word × Nat × Bool) → State → Prop),
    s.speculating = false → s.cur.rc = false → va = s.descOp l b → (∀ i, w i = ws.getD i 0) → v = u.dropWords →
    (∀ x op rs t, joins x op rs t ↔ ∃ q, x.takeScore rs .matrix (x.accs + 1) = some q ∧
      t = ({ q with accs := q.accs + 1, cur := { q.cur with cnt := q.cur.cnt.up .matrix } }).sendCmd (.mat x.cur.core (x.matItem op))) →
    (s.cur.lease = .none → 1 ≤ (s.g a).toNat → (s.g a).toNat < 16 → exec (.mreq l a) s =
      .next (({ s with accs := s.accs + 1, cur := { s.cur with lease := .requested } }).sendCmd
        (.mat s.cur.core (s.matItem (.req (s.g a).toNat))))) ∧
    ((s.cur.lease ≠ .none ∨ s.g a = 0 ∨ 16 ≤ (s.g a).toNat) → exec (.mreq l a) s = raiseO s 0x001 s.cword) ∧
    (s.cur.lease ≠ .none → exec (.mrel l) s =
      .next (({ s with accs := s.accs + 1, cur := { s.cur with lease := .none } }).sendCmd (.mat s.cur.core (s.matItem .rel)))) ∧
    (s.cur.lease = .none → exec (.mrel l) s = .next s ∧ exec (.mfmt l a) s = raiseO s 0x140 (s.g a) ∧
      exec (.mclr l a) s = raiseO s 0x140 (s.g a) ∧ exec (.mscl l a b) s = raiseO s 0x140 (s.g a) ∧
      (va.toNat % 8 = 0 → exec (.mlid l b) s = raiseO s 0x140 va ∧
        ∀ i ∈ [Instr.mmac l a b, .mmacc l a b, .mmacj l a b, .mdrn l a b], exec i s = raiseO s 0x140 (s.g a))) ∧
    (va.toNat % 8 ≠ 0 → ∀ i ∈ [Instr.mlid l b, .mmac l a b, .mmacc l a b, .mmacj l a b, .mdrn l a b],
      exec i s = raiseO s 0x040 va) ∧
    (s.cur.lease ≠ .none → s.cur.mayAccess = true → s.cur.finished s.cur.holdSt = true → s.cur.cnt.full .matrix = false →
      s.matFull = false →
      (matFmt (s.g a) = none → exec (.mfmt l a) s = raiseO s 0x0A0 (s.g a)) ∧
      ((matFmt (s.g a)).isSome = true → (s.takeScore [] .matrix (s.accs + 1)).isSome = true →
        ∃ t, exec (.mfmt l a) s = .next t ∧ joins s (.fmt (s.g a)) [] t) ∧
      ((s.g a).toNat % 4 = 0 → field (s.g a) 21 43 = 0 → (s.g b).toNat % 8 = 0 → memSpace s.cur.core (s.g b) = true →
        (s.takeScore [] .matrix (s.accs + 1)).isSome = true → ∃ t, exec (.mscl l a b) s = .next t ∧ joins s (.scl (s.g a) (s.g b)) [] t) ∧
      (s.g a ≠ 0 → (s.g a).toNat < 16 → (s.takeScore [] .matrix (s.accs + 1)).isSome = true →
        ∃ t, exec (.mclr l a) s = .next t ∧ joins s (.clr (s.g a).toNat) [] t) ∧
      ((s.g a = 0 ∨ 16 ≤ (s.g a).toNat) → exec (.mclr l a) s = raiseO s 0x001 s.cword) ∧
      (va.toNat % 8 = 0 → v.cur.cnt.full .matrix = false → v.matFull = false →
        (s.scoreOk va 24 false = true → descWords s va 3 = (.ok ws, u) →
          ∀ nib, nib = nibsOr v.enqueuedFmt (fun f => nibblesOf f.b) →
          (v.lidFieldsOk (w 0) (w 1) (w 2) nib = false → exec (.mlid l b) s = .next (v.raiseAfter 0x144 va [] none)) ∧
          (∀ rs, v.lidFieldsOk (w 0) (w 1) (w 2) nib = true →
            rs = [(w 0, (field (w 1) 16 16 - 1) * field (w 1) 32 32 + nibBytes nib (field (w 1) 8 8 + 1), false),
              (BitVec.ofNat 64 (lidBase v.cur.core + field (w 2) 0 13),
                (field (w 1) 8 8 + 1 - 1) * 0x2000 + nibBytes nib (field (w 1) 16 16), true)] →
            (v.takeScore rs .matrix (v.accs + 1)).isSome = true →
            ∃ t, exec (.mlid l b) s = .next t ∧ joins v (.lid va (w 0) (w 1) (w 2)) rs t)) ∧
        (s.scoreOk va 16 false = true → descWords s va 2 = (.ok ws, u) →
          (∀ i form, (i = Instr.mmac l a b ∧ form = 0) ∨ (i = .mmacc l a b ∧ form = 1) ∨ (i = .mmacj l a b ∧ form = 2) →
            (macFieldsOk (s.g a) (w 0) (w 1) = false → exec i s = .next (v.raiseAfter 0x144 (s.g a) [] none)) ∧
            (∀ r, macFieldsOk (s.g a) (w 0) (w 1) = true →
              r = spanOf ((List.range (ctlM (s.g a))).map (rowAddr v.cur.core (w 0)))
                (nibBytes (nibsOr v.enqueuedFmt fun f => nibblesOf f.a) (ctlK (s.g a))) →
              (v.takeScore [(r.1, r.2, false)] .matrix (v.accs + 1)).isSome = true →
              ∃ t, exec i s = .next t ∧ joins v (.mac form (s.g a) (w 0) (w 1)) [(r.1, r.2, false)] t)) ∧
          (∀ nib, nib = nibsOr v.enqueuedFmt MatFmt.dsize →
            (v.drainFieldsOk (s.g a) (w 0) (w 1) nib = false → exec (.mdrn l a b) s = .next (v.raiseAfter 0x144 (s.g a) [] none)) ∧
            (∀ r, v.drainFieldsOk (s.g a) (w 0) (w 1) nib = true →
              r = [(w 0, (ctlM (s.g a) - 1) * field (w 1) 0 32 + nibBytes nib (ctlN (s.g a)), true)] →
              (v.takeScore r .matrix (v.accs + 1)).isSome = true → v.xfer = .seq → v.speculating = false →
              ∃ t q, exec (.mdrn l a b) s = .next t ∧ joins v (.drn (s.g a) v.fcr v.cur.rs (w 0) (w 1)) r q ∧
                (v.enqueuedFmt.elim false MatFmt.converts = true → field v.fcr 0 3 = 4 →
                  t = { q with cur := { q.cur with rs := drawRs v.cur.rs } }) ∧
                (v.enqueuedFmt.elim false MatFmt.converts = false ∨ field v.fcr 0 3 ≠ 4 → t = q))))))

/-- The steps of an array (R208, R371–R380, R409). `i` is the item that the array executes for `core`; The descriptor of its context is loaded first where it is not held.
What of it the spec leaves open (log entries 19 and 73) is the model's choice. -/
def Obligations.ArrayStepsComputeAccumulators : Prop :=
  ∀ (s : State) (core b : Nat) (i : MatItem) (f : MatFmt), b = core / 8 →
    ((s.bench b).held = true → exec (.leaseGrant b) s = .next (s.pumpArray b)) ∧
    ((s.bench b).held = false → s.orderAsks 64 (s.leaseAsks b) = [] → exec (.leaseGrant b) s = .next s) ∧
    (∀ (a : LeaseAsk) (rest : List LeaseAsk), (s.bench b).held = false → s.orderAsks 64 (s.leaseAsks b) = a :: rest →
      s.logged (s.proc a.pid) = false → exec (.leaseGrant b) s = .next ((s.grantLease b a).pumpArray b)) ∧
    ((headItems (s.mats core)).find? (fun i => decide (i.op = .rel)) = none → exec (.mrelEffect core) s = .next s) ∧
    ((headItems (s.mats core)).find? (fun i => decide (i.op = .rel)) = some i → SMap.wf [] s.matq = true →
      SMap.wf Bench.empty s.benches = true → ∃ u : State, exec (.mrelEffect core) s = .next ((u.pumpArray b).settleDone i.pid) ∧
        u.acc = s.acc ∧ ((s.proc i.pid).away = false → u.mem = s.mem) ∧
        u.mats core = (s.mats core).eraseIdx ((s.mats core).findIdx fun j => decide (j = i)) ∧
        (u.bench b).held = ((s.bench b).held && (s.bench b).holder != i.pid) ∧
        (∀ k < 4, u.ownsBank core i.pid k = false)) ∧
    (s.arrayHead core = none → ∀ x ∈ [Instr.mfmtExecute core, .mmacExecute core, .mlidExecute core, .mclrExecute core,
      .mdrnExecute core], exec x s = .next s) ∧
    (s.arrayHead core = some i → 2 ≤ s.unitErrors core 2 → ∀ x ∈ [Instr.mfmtExecute core, .mmacExecute core, .mlidExecute core,
      .mclrExecute core, .mdrnExecute core], exec x s = .next ((s.parityGuard core 2).2.matFault core i (machineCheck 2))) ∧
    (s.arrayHead core = some i → s.unitErrors core 2 = 0 →
      (∀ w, i.op = .fmt w → exec (.mfmtExecute core) s =
        .next ((s.setMatCtx core (w &&& 0xFFF80, (s.matCtx core).2.1, (s.matCtx core).2.2)).matDone core i 0)) ∧
      (∀ x y, i.op = .scl x y → exec (.mfmtExecute core) s = .next ((s.setMatCtx core ((s.matCtx core).1, x, y)).matDone core i 0)) ∧
      (∀ m, i.op = .clr m →
        ((∀ k < 4, m.testBit k = true → s.ownsBank core i.pid k = true) → ∃ u : State, exec (.mclrExecute core) s = .next (u.matDone core i 0) ∧
          u.mem = s.mem ∧ u.cur = s.cur ∧
          ∀ k row col, k < 4 → row < 256 → col < 256 → u.accAt (cellKey b k row col) =
            if m.testBit k then 0 else s.accAt (cellKey b k row col)) ∧
        ((∃ k < 4, m.testBit k = true ∧ s.ownsBank core i.pid k = false) → exec (.mclrExecute core) s =
          .next (s.matFault core i { cause := 0x140, tval := BitVec.ofNat 64 m, words := [] }))) ∧
      (∀ form ctl d0 d1, i.op = .mac form ctl d0 d1 →
        (matFmt (s.matCtx core).1 = none → exec (.mmacExecute core) s = .next (s.matFault core i (noFormat s core))) ∧
        (matFmt (s.matCtx core).1 = some f →
          (∀ e, macChecks (s.cacheDesc i.ctx) core i f form ctl d0 d1 = some e →
            exec (.mmacExecute core) s = .next ((s.cacheDesc i.ctx).matFault core i e)) ∧
          (∀ (u v : State) (sc : Option Scales), macChecks (s.cacheDesc i.ctx) core i f form ctl d0 d1 = none →
            guardRanges (s.cacheDesc i.ctx) ((List.range (ctlM ctl)).map (fun r => (rowAddr core d0 r, nibBytes (nibblesOf f.a) (ctlK ctl))) ++
              (List.range (ctlN ctl)).map (fun n => (colAddr core (field d1 0 13) n, nibBytes (nibblesOf f.b) (ctlK ctl))) ++
              (if f.scaled then scaleRanges core ctl ((s.cacheDesc i.ctx).matCtx core).2.1 else [])) = (none, u) →
            macScales u core i f ctl = (.ok sc, v) → SMap.wf 0 v.acc = true →
            ∃ (t : State) (fl : Flags), exec (.mmacExecute core) s = .next (t.matDone core i fl) ∧ t.mem = v.mem ∧ t.cur = v.cur ∧
              (∀ row col, row < ctlM ctl → col < ctlN ctl →
                t.accAt (cellKey b (ctlBank ctl) row col) = (cellMac v core f form ctl d0 d1 sc row col).1 ∧
                (f.cls = .cplx → t.accAt (cellKey b (ctlBank ctl + 1) row col) = (cellMac v core f form ctl d0 d1 sc row col).2.1)) ∧
              (∀ x, (∀ row col, row < ctlM ctl → col < ctlN ctl → x ≠ cellKey b (ctlBank ctl) row col ∧
                (f.cls = .cplx → x ≠ cellKey b (ctlBank ctl + 1) row col)) → t.accAt x = v.accAt x)))) ∧
      (∀ va w0 w1 w2 (u v : State) (bs : List Byte) (k off row : Nat) (a : Word), i.op = .lid va w0 w1 w2 →
        matFmt (s.matCtx core).1 = some f → (i.pos = 0 → lidChecks (s.cacheDesc i.ctx) core i f va w1 w2 = none) →
        k = i.pos / 2 ^ 16 → off = i.pos % 2 ^ 16 → row = nibBytes (nibblesOf f.b) (field w1 8 8 + 1) →
        a = w0 + BitVec.ofNat 64 (k * field w1 32 32) →
        engineRead (s.cacheDesc i.ctx) core 66 i.ctx (a + BitVec.ofNat 64 off) (beatLen a off row) = (.ok bs, u) →
        lidWrites u core i.ctx f.b (field w2 0 13) k (rowElems f.b (field w1 8 8 + 1) off bs) = (.ok (), v) →
        ∃ z, z = (v.dropHost core i.ctx).dropAsks core 66 ∧
          (off + beatLen a off row < row →
            exec (.mlidExecute core) s = .next (z.moveMat core i (k * 2 ^ 16 + off + beatLen a off row) 0 i.rs)) ∧
          (row ≤ off + beatLen a off row → k + 1 < field w1 16 16 →
            exec (.mlidExecute core) s = .next (z.moveMat core i ((k + 1) * 2 ^ 16) 0 i.rs)) ∧
          (row ≤ off + beatLen a off row → field w1 16 16 ≤ k + 1 → exec (.mlidExecute core) s = .next (z.matDone core i 0))) ∧
      (∀ ctl fcr rs0 d0 d1 (u : State) (r off row n first count : Nat) (a : Word) (x : List Nat × Flags × Word),
        i.op = .drn ctl fcr rs0 d0 d1 → matFmt (s.matCtx core).1 = some f → (i.pos = 0 → drainChecks s core i f ctl d1 = none) →
        r = i.pos / 2 ^ 16 → off = i.pos % 2 ^ 16 → n = ctlN ctl → row = nibBytes f.dsize n →
        a = d0 + BitVec.ofNat 64 (r * field d1 0 32) → first = 2 * off / f.dsize →
        count = min (n - first) (2 * beatLen a off row / f.dsize) →
        x = drainCells s core f fcr ctl r ((List.range count).map (first + ·)) i.rs →
        engineWrite s core 66 i.ctx (a + BitVec.ofNat 64 off) (packElems f.dsize x.1) (f.dsize * count % 2 == 1) = (.ok (), u) →
        ∃ z, z = (u.dropHost core i.ctx).dropAsks core 66 ∧
          (off + beatLen a off row < row →
            exec (.mdrnExecute core) s = .next (z.moveMat core i (r * 2 ^ 16 + off + beatLen a off row) x.2.1 x.2.2)) ∧
          (row ≤ off + beatLen a off row → r + 1 < ctlM ctl →
            exec (.mdrnExecute core) s = .next (z.moveMat core i ((r + 1) * 2 ^ 16) x.2.1 x.2.2)) ∧
          (row ≤ off + beatLen a off row → ctlM ctl ≤ r + 1 → exec (.mdrnExecute core) s =
            .next ((if ctlClr ctl then zeroCells z core f ctl else z).matDone core i x.2.1))))

/-- Engine commands (R44, R76, R77, R313, R382–R386, R397, R409). `joins x q rs c t` says that `t` is `x` with the command counted, its ranges in
the scoreboard and the command sent to queue `q`.
What of it the spec leaves open (log entries 27, 74 and 88) is the model's choice. -/
def Obligations.EngineCommandsRunBeatByBeat : Prop :=
  (∀ (s u v z : State) (l : Lone) (a b : Reg) (p : BitVec 1) (va : Word) (ws : List Word)
    (joins : State → Nat → List (Word × Nat × Bool) → EngCmd → State → Prop),
    s.speculating = false → va = s.descOp l b →
    (∀ x q rs c t, joins x q rs c t ↔ x.cur.cnt.full .copies = false ∧ x.engFull q = false ∧
      ∃ y, x.takeScore rs .copies (x.accs + 1) = some y ∧
        t = ({ y with accs := y.accs + 1, cur := { y.cur with cnt := y.cur.cnt.up .copies } }).sendCmd (.eng q c)) →
    (va.toNat % 8 ≠ 0 → ∀ i ∈ [Instr.cpy l a b p, .tcpy l a b p, .deal l a b p, .gath l a b p, .hload l a b, .fgload l a b],
      exec i s = raiseO s 0x040 va) ∧
    (va.toNat % 8 = 0 →
      ((s.engine (2 * s.cur.core)).frozen = true → exec (.cpy l a b p) s = .next (s.raiseAfter 0x180 va [] none) ∧
        exec (.tcpy l a b p) s = .next (s.raiseAfter 0x180 va [] none)) ∧
      ((s.engine (2 * s.cur.core + 1)).frozen = true → exec (.deal l a b p) s = .next (s.raiseAfter 0x180 va [] none) ∧
        exec (.gath l a b p) s = .next (s.raiseAfter 0x180 va [] none)) ∧
      ((s.desc s.cur.ctx).dev = false → exec (.fgload l a b) s = .next (s.raiseAfter 0x043 va [] none)) ∧
      (s.cur.mayAccess = true → s.cur.finished s.cur.holdSt = true →
        (s.scoreOk va 32 false = true → (s.engine (2 * s.cur.core)).frozen = false → descWords s va 4 = (.ok ws, u) → v = u.dropWords →
          (copyDesc ws = none → exec (.cpy l a b p) s = .next (v.raiseAfter 0x143 va [] none)) ∧
          (∀ d, copyDesc ws = some d →
            (v.rangesMeet d.src d.len d.dst d.dlen = true → exec (.cpy l a b p) s = .next (v.raiseAfter 0x143 va [] none)) ∧
            (v.rangesMeet d.src d.len d.dst d.dlen = false → doneCheck v va (v.g a) = (none, z) → v.cur.core = s.cur.core →
              (d.conv = none ∨ field v.fcr 0 3 ≠ 4) → ∀ t,
              joins z (2 * s.cur.core) [(d.src, d.len, false), (d.dst, d.dlen, true)] (v.engCmd .copy ws (v.g a) (p == 1)) t →
              exec (.cpy l a b p) s = .next t) ∧
            (v.rangesMeet d.src d.len d.dst d.dlen = false → doneCheck v va (v.g a) = (none, z) → v.cur.core = s.cur.core →
              d.conv ≠ none → field v.fcr 0 3 = 4 → ∀ t,
              joins z (2 * s.cur.core) [(d.src, d.len, false), (d.dst, d.dlen, true)] (v.engCmd .copy ws (v.g a) (p == 1)) t →
              t.notPerformed = false → t.cur.st ≠ .faulted →
              exec (.cpy l a b p) s = .next { t with cur := { t.cur with rs := drawRs v.cur.rs } })) ∧
          (tensorHeadOk ws = false → exec (.tcpy l a b p) s = .next (v.raiseAfter 0x143 va [] none)) ∧
          (∀ xs u2 v2 ds n, tensorHeadOk ws = true → n = 4 + 2 * field (ws.getD 2 0) 0 5 → u.speculating = false →
            u.cur.mayAccess = true → u.scoreOk va (8 * n) false = true → descWords u va n = (.ok xs, u2) → v2 = u2.dropWords →
            ds = tensorDims xs →
            ∀ src dst, src = tensorRange (xs.getD 0 0) (tensorReach TDim.ss ds) (tensorEs xs) →
            dst = tensorRange (xs.getD 1 0) (tensorReach TDim.ds ds) (tensorEs xs) →
            (tensorOk xs = false → exec (.tcpy l a b p) s = .next (v2.raiseAfter 0x143 va [] none)) ∧
            (tensorOk xs = true → v2.rangesMeet src.1 src.2 dst.1 dst.2 = false → doneCheck v2 va (v2.g a) = (none, z) →
              v2.cur.core = s.cur.core → ∀ t,
              joins z (2 * s.cur.core) [(src.1, src.2, false), (dst.1, dst.2, true)] (v2.engCmd .tensor xs (v2.g a) (p == 1)) t →
              exec (.tcpy l a b p) s = .next t))) ∧
        (s.scoreOk va 16 false = true → descWords s va 2 = (.ok ws, u) → v = u.dropWords → v.cur.core = s.cur.core →
          (∀ len, len = field (ws.getD 1 0) 0 32 → (s.engine (2 * s.cur.core + 1)).frozen = false →
            ((field (ws.getD 1 0) 32 32 ≠ 0 ∨ len = 0 ∨ dpatOk v v.cur.dpat = false) →
              exec (.deal l a b p) s = .next (v.raiseAfter 0x143 va [] none) ∧
              exec (.gath l a b p) s = .next (v.raiseAfter 0x143 va [] none)) ∧
            (∀ far, far = dpRange v v.cur.dpat len → field (ws.getD 1 0) 32 32 = 0 → len ≠ 0 → dpatOk v v.cur.dpat = true →
              doneCheck v va (v.g a) = (none, z) → ∀ t,
              (joins z (2 * s.cur.core + 1) [(ws.getD 0 0, len, false), (far.1, far.2, true)] (v.engCmd .deal ws (v.g a) (p == 1)) t →
                exec (.deal l a b p) s = .next t) ∧
              (joins z (2 * s.cur.core + 1) [(far.1, far.2, false), (ws.getD 0 0, len, true)] (v.engCmd .gather ws (v.g a) (p == 1)) t →
                exec (.gath l a b p) s = .next t))) ∧
          ((s.desc s.cur.ctx).dev = true → (s.engine 4096).frozen = false →
            (graphDescOk ws = false → exec (.fgload l a b) s = .next (v.raiseAfter 0x0A0 (ws.getD 0 0) [0, 0] none)) ∧
            (graphDescOk ws = true → doneCheck v va (v.g a) = (none, z) → ∀ t,
              joins z 4096 [] (v.engCmd .fgload ws (v.g a) false) t → exec (.fgload l a b) s = .next t))) ∧
        (field (s.g a) 1 47 = 0 → 1 ≤ field (s.g a) 48 16 → field (s.g a) 48 16 ≤ 2048 →
          ((s.helper (2 * s.cur.core + field (s.g a) 0 1)).run ≠ 0 → exec (.hload l a b) s = .next (s.raiseAfter 0x0C7 (s.g a) [] none)) ∧
          ((s.helper (2 * s.cur.core + field (s.g a) 0 1)).run = 0 → (s.engine (2 * s.cur.core)).frozen = false → ∀ t,
            joins s (2 * s.cur.core) [(va, 8 * field (s.g a) 48 16, false)] (s.engCmd .hload [s.g a, va] 0 false) t →
            exec (.hload l a b) s = .next t))) ∧
      ((field (s.g a) 1 47 ≠ 0 ∨ field (s.g a) 48 16 = 0 ∨ 2048 < field (s.g a) 48 16) →
        exec (.hload l a b) s = .next (s.raiseAfter 0x143 va [] none)))) ∧
  (∀ (s u : State) (q : Nat) (c : EngCmd) (rest : List EngCmd),
    ((s.engine q).cmds = [] → exec (.engineBeat q) s = .next s ∧ ∀ st, exec (.commandCompletion q st) s = .next s) ∧
    ((s.engine q).cmds = c :: rest →
      (((s.engine q).frozen = true ∨ c.err.isSome = true) → exec (.engineBeat q) s = .next s) ∧
      ((s.engine q).frozen = false → c.err = none → c.pre = false →
        (c.total ≤ c.pos → exec (.engineBeat q) s = .next (s.push (.commandCompletion q 0))) ∧
        (∀ d, c.pos < c.total → nextBeat s q c = (.ok d, u) → exec (.engineBeat q) s =
          .next (if d.total ≤ d.pos then
              ((((u.setHead q d).dropHost d.seat d.ctx).dropAsks d.seat (engUnit q)).dropScore d.core d.cmd).push (.commandCompletion q 0)
            else (((u.setHead q d).dropHost d.seat d.ctx).dropAsks d.seat (engUnit q)).push (.engineBeat q))) ∧
        (∀ f, c.pos < c.total → nextBeat s q c = (.error f, u) → f.cause ≠ notYet →
          exec (.engineBeat q) s = .next (if 4096 ≤ q then u.failGraph q c f else u.stopEngine q c f))) ∧
      (c.done = 0 → (∀ st, st ≠ 0 ∨ (c.total ≤ c.pos ∧ c.err = none) → exec (.commandCompletion q st) s = .next (s.retireEngine q c))) ∧
      (c.done ≠ 0 → ∀ st, (st ≠ 0 ∨ (c.total ≤ c.pos ∧ c.err = none)) →
        writeDone s c.seat (engUnit q) c.ctx c.done (c.doneWord st) = (.ok (), u) →
        exec (.commandCompletion q st) s = .next (u.retireEngine q c)) ∧
      (c.pos < c.total → exec (.commandCompletion q 0) s = .next s))) ∧
  (∀ (s : State) (q : Nat) (c : EngCmd), q < 4096 → 2 ≤ s.unitErrors c.core (engUnitCode q) →
    nextBeat s q c = (.error (machineCheck (engUnitCode q)), (s.parityGuard c.core (engUnitCode q)).2)) ∧
  (∀ (s t u : State) (q : Nat) (c : EngCmd) (src dst : Word) (len n : Nat) (bs : List Byte),
    n = min (len - c.pos) (64 - (dst + BitVec.ofNat 64 c.pos).toNat % 64) →
    engineSpan 3 s c.core (engUnit q) c.ctx (src + BitVec.ofNat 64 c.pos) n = (.ok bs, t) →
    engineWrite t c.core (engUnit q) c.ctx (dst + BitVec.ofNat 64 c.pos) bs false = (.ok (), u) →
    copyBeat s q c src dst len = (.ok { c with pos := c.pos + n, beats := c.beats + 1 }, u))

/-- Helpers and streams (R312, R314–R316). `h` is the helper: 2 × core + (0 loader, 1 storer); `n` the stream.
What of it the spec leaves open (log entries 12, 22 and 62) is the model's choice. -/
def Obligations.HelpersStreamItems : Prop :=
  (∀ (s : State) (l : Lone) (a b : Reg) (h : Nat) (off : Word), s.speculating = false → h = 2 * s.cur.core + field (s.g a) 0 1 →
    off = s.descOp l b →
    ((field off 0 3 ≠ 0 ∨ 0x4000 ≤ off.toNat) → exec (.hstart l a b) s = .next (s.raiseAfter 0x143 off [] none)) ∧
    (field off 0 3 = 0 → off.toNat < 0x4000 → (s.helper h).run ≠ 0 →
      exec (.hstart l a b) s = .next (s.raiseAfter 0x0C7 (s.g a) [] none)) ∧
    (field off 0 3 = 0 → off.toNat < 0x4000 → (s.helper h).run = 0 → s.cur.mayAccess = true → s.cur.releaseHolds 1 = true →
      SMap.wf Proc.empty s.procs = true → SMap.wf Helper.empty s.helpers = true → s.cur.pid ≠ helperKey h →
      ∃ t, exec (.hstart l a b) s = .next t ∧ t.mem = s.mem ∧ t.cur = s.cur ∧ (t.helper h).run = 1 ∧
        (t.helper h).streams = (s.helper h).streams ∧ (t.proc (helperKey h)).pc = off ∧ (t.proc (helperKey h)).st = .running ∧
        (t.proc (helperKey h)).ctx = s.cur.ctx ∧
        (∀ r : Reg, (t.proc (helperKey h)).rg r = if r.toNat = 1 ∨ r.toNat = 2 ∨ r.toNat = 3 ∨ r.toNat = 4 then s.g r else 0))) ∧
  (∀ (s : State) (l : Lone) (d a b : Reg) (va : Word) (h n : Nat), va = s.descOp l b → h = s.cur.pid - 2 ^ 64 → n = field (s.g a) 0 3 →
    (va.toNat % 64 ≠ 0 → exec (.sgen l a b) s = raiseO s 0x040 va) ∧
    (∀ (u v : State) (bs : List Byte) (ws : List Word), va.toNat % 64 = 0 → s.cur.mayAccess = true → s.readable va 64 = some u →
      u.cur = s.cur → readBeat u s.cur.core s.cur.ctx va 64 = (.ok bs, v) → ws = wordsOfBytes bs →
      ∀ w, w = v.dropHost s.cur.core s.cur.ctx → w.cur = s.cur →
      (streamOk w ws = false → exec (.sgen l a b) s = .next (w.raiseAfter 0x143 va [] none)) ∧
      (streamOk w ws = true → ∀ count,
        count = field (ws.getD 2 0) 0 32 * field (ws.getD 3 0) 0 32 * field (ws.getD 4 0) 0 32 * field (ws.getD 5 0) 0 32 →
        exec (.sgen l a b) s = .next (w.setStream h n { HStream.empty with desc := ws, left := count }))) ∧
    (((s.helper h).stream n).left = 0 → exec (.srun l a) s = .next s) ∧
    (((s.helper h).stream n).left ≠ 0 → s.cur.mayAccess = true → ∃ t, exec (.srun l a) s = .next t ∧
      t.cur = { s.cur with waiting := true } ∧ t.agenda = s.agenda ++ [.streamItem h n] ∧ t.mem = s.mem) ∧
    (s.cur.isHelper = true → exec (.sstat l d a) s =
      .next (s.setG d (BitVec.ofNat 64 (((s.helper h).stream n).left * 2 ^ 32 + ((s.helper h).stream n).run)))) ∧
    (s.cur.isHelper = false → s.cur.mayAccess = true → ∀ k, k = 2 * s.cur.core + field (s.g a) 0 1 → exec (.sstat l d a) s =
      .next (s.setG d (BitVec.ofNat 64 ((s.proc (helperKey k)).pc.toNat % 2 ^ 32 * 2 ^ 32 + (s.helper k).run))))) ∧
  (∀ (s : State) (h n len : Nat) (x : HStream) (va : Word) (q : List Byte), x = (s.helper h).stream n →
    len = 64 * field (x.desc.getD 1 0) 0 5 → va = itemAddr x.desc x.idx → q = s.queueOf (h / 2) n →
    ((s.helper h).run ≠ 1 ∨ x.left = 0 ∨ (s.helper h).active ≠ some n → exec (.streamItem h n) s = .next s) ∧
    ((s.helper h).run = 1 → x.left ≠ 0 → (s.helper h).active = some n →
      s.itemBarred h (s.proc (helperKey h)).ctx va len (if h % 2 = 0 then needRd else needWr) = true →
      exec (.streamItem h n) s = .next (s.later (.streamItem h n))) ∧
    ((s.helper h).run = 1 → x.left ≠ 0 → (s.helper h).active = some n →
      s.itemBarred h (s.proc (helperKey h)).ctx va len (if h % 2 = 0 then needRd else needWr) = false →
      (h % 2 = 0 → streamRoom < q.length + len →
        exec (.streamItem h n) s = .next ((s.setStream h n { x with run := 2 }).later (.streamItem h n))) ∧
      (h % 2 = 0 → q.length + len ≤ streamRoom → ∀ (bs : List Byte) (u : State),
        engineSpan 17 s (h / 2) (helperUnit h) (s.proc (helperKey h)).ctx va len = (.ok bs, u) → exec (.streamItem h n) s =
          .next (itemDone (((u.setQueue (h / 2) n (q ++ bs)).dropHost (h / 2) (s.proc (helperKey h)).ctx).dropAsks (h / 2) (helperUnit h)) h n)) ∧
      (h % 2 = 0 → q.length + len ≤ streamRoom → ∀ (f : FaultInfo) (u : State),
        engineSpan 17 s (h / 2) (helperUnit h) (s.proc (helperKey h)).ctx va len = (.error f, u) →
        exec (.streamItem h n) s = .next (if f.cause = notYet then u.later (.streamItem h n)
          else (u.dropAsks (h / 2) (helperUnit h)).faultHelper h f (u.proc (helperKey h)).pc)) ∧
      (h % 2 = 1 → x.part = [] → q.length < len →
        exec (.streamItem h n) s = .next ((s.setStream h n { x with run := 2 }).later (.streamItem h n))) ∧
      (h % 2 = 1 → (x.part ≠ [] ∨ len ≤ q.length) → ∀ (bs : List Byte) (v u : State), bs = (if x.part = [] then q.take len else x.part) →
        v = (if x.part = [] then s.setQueue (h / 2) n (q.drop len) else s).setStream h n { x with part := bs, run := 1 } →
        (engineWrite v (h / 2) (helperUnit h) (s.proc (helperKey h)).ctx (va + BitVec.ofNat 64 (len - bs.length)) (bs.take 64) false = (.ok (), u) →
          exec (.streamItem h n) s = .next (if bs.length ≤ 64 then itemDone (u.dropAsks (h / 2) (helperUnit h)) h n
            else ((u.dropAsks (h / 2) (helperUnit h)).setStream h n { x with part := bs.drop 64, run := 1 }).push (.streamItem h n))) ∧
        (∀ f, engineWrite v (h / 2) (helperUnit h) (s.proc (helperKey h)).ctx (va + BitVec.ofNat 64 (len - bs.length)) (bs.take 64) false = (.error f, u) →
          exec (.streamItem h n) s = .next (if f.cause = notYet then u.later (.streamItem h n)
            else (u.dropAsks (h / 2) (helperUnit h)).faultHelper h f (u.proc (helperKey h)).pc))))) ∧
  (∀ (s : State) (h n : Nat), ((s.helper h).stream n).left ≤ 1 → s.cur.pid = helperKey h → (itemDone s h n).cur.waiting = false ∧
    (itemDone s h n).agenda = s.agenda) ∧
  (∀ (s : State) (h n : Nat), 1 < ((s.helper h).stream n).left → (itemDone s h n).agenda = s.agenda ++ [.streamItem h n])

/-- Fabric words (R395, R396, R427). `one d t` says that `t` differs from `s` in register `d` of the executing unit and in its flags at
most.
What of it the spec leaves open (log entry 34) is the model's choice. -/
def Obligations.FabricWordsComputeLanes : Prop :=
  ∀ (s : State) (d a b : XReg) (ty : BitVec 4) (h : BitVec 1) (o : BitVec 2) (u : Nat) (one : XReg → State → Prop)
    (lane : Nat → Nat → BitVec 512 → Nat),
    SMap.wf FabUnit.empty s.fabric = true → u = s.curX →
    (∀ r t, one r t ↔ (∀ q, q ≠ r → t.x q = s.x q) ∧ t.mem = s.mem ∧ t.cur = s.cur ∧ t.agenda = s.agenda ∧
      (∀ w, w ≠ u → t.unitX w = s.unitX w) ∧ (t.unitX u).out0 = (s.unitX u).out0 ∧ (t.unitX u).out1 = (s.unitX u).out1) →
    (∀ w i v, lane w i v = v.toNat / 2 ^ (w * i) % 2 ^ w) →
    exec .xend s = .next { s with xfer := .jump 0 } ∧
    (∀ i f, (i = Instr.xadd d a b ty ∧ f = VBin.add) ∨ (i = .xmax d a b ty ∧ f = .max) ∨ (i = .xmin d a b ty ∧ f = .min) →
      ∃ t, exec i s = .next t ∧ one d t ∧ ∀ k < 16, ∀ r, r = binLane f (if ty = 0 then .f32 else if ty = 1 then .s32 else .n32) Mode.rne
          (BitVec.ofNat 32 (lane 32 k (s.x a))) (BitVec.ofNat 32 (lane 32 k (s.x b))) →
        lane 32 k (t.x d) = r.1.toNat ∧ (t.unitX u).flags &&& r.2 = r.2 ∧ (t.unitX u).flags &&& (s.unitX u).flags = (s.unitX u).flags) ∧
    (∃ t, exec (.xmx6 d a b) s = .next t ∧
      (∀ k < 256, t.xGroupVal d / 64 ^ k % 64 = max (s.xGroupVal a / 64 ^ k % 64) (s.xGroupVal b / 64 ^ k % 64)) ∧
      (∀ q, q ≠ d → q ≠ d + 1 → q ≠ d + 2 → t.x q = s.x q) ∧ t.mem = s.mem ∧ t.cur = s.cur) ∧
    (∃ t, exec (.xpack d a b) s = .next t ∧ one d t ∧ ∀ k < 16,
      lane 16 k (t.x d) = (convF fmtF32 fmtBf16 Mode.rne false (lane 32 k (s.x a))).bits % 2 ^ 16 ∧
      lane 16 (k + 16) (t.x d) = (convF fmtF32 fmtBf16 Mode.rne false (lane 32 k (s.x b))).bits % 2 ^ 16) ∧
    (∃ t, exec (.xunpk d a h) s = .next t ∧ one d t ∧ ∀ k < 16,
      lane 32 k (t.x d) = (convF fmtBf16 fmtF32 Mode.rne false (lane 16 (16 * h.toNat + k) (s.x a))).bits % 2 ^ 32) ∧
    (∃ t, exec (.xmov d a) s = .next t ∧ one d t ∧ t.x d = s.x a) ∧
    (∀ q : List (BitVec 512), q = (if h = 0 then (s.unitX u).in0 else (s.unitX u).in1) →
      (q = [] → ∃ t, exec (.xrecv d h) s = .next t ∧ (t.unitX u).waiting = true ∧ (∀ r, t.x r = s.x r) ∧ t.mem = s.mem) ∧
      (∀ v rest, q = v :: rest → ∃ t, exec (.xrecv d h) s = .next t ∧ one d t ∧ t.x d = v ∧
        (if h = 0 then (t.unitX u).in0 else (t.unitX u).in1) = rest)) ∧
    ((s.graphAt (s.unitX u).cid (u / 4)).find? (fun w => decide (u < w)) = none →
      (∃ t, exec (.xemit a 0) s = .next t ∧ (t.unitX u).out0 = (s.unitX u).out0 ++ [s.x a] ∧ (t.unitX u).out1 = (s.unitX u).out1 ∧
        (∀ r, t.x r = s.x r) ∧ ∀ w, w ≠ u → t.unitX w = s.unitX w) ∧
      (∃ t, exec (.xemit a 2) s = .next t ∧ (t.unitX u).out0 = (s.unitX u).out0 ++ [s.x a] ∧
        (t.unitX u).out1 = (s.unitX u).out1 ++ [s.x a])) ∧
    (∀ w, (s.graphAt (s.unitX u).cid (u / 4)).find? (fun w => decide (u < w)) = some w →
      ∃ t, exec (.xemit a 0) s = .next t ∧ (t.unitX w).in0 = (s.unitX w).in0 ++ [s.x a] ∧ (t.unitX w).waiting = false ∧
        t.unitX u = s.unitX u) ∧
    (∃ t, exec (.xemit a 1) s = .next t ∧ (t.unitX u).out1 = (s.unitX u).out1 ++ [s.x a] ∧ (t.unitX u).out0 = (s.unitX u).out0 ∧
      ∀ w, w ≠ u → t.unitX w = s.unitX w) ∧
    (∃ t, exec (.xemit a o) s = .next t ∧ (∀ r, t.x r = s.x r) ∧ t.mem = s.mem)

/-- Collectives and truss queues (R388–R394, R422–R426).
What of it the spec leaves open (log entries 33, 66 and 68) is the model's choice. -/
def Obligations.CollectivesAndTrussComplete : Prop :=
  (∀ (s u v z : State) (l : Lone) (a b : Reg) (va : Word) (ws cw tab : List Word), s.speculating = false → va = s.descOp l b →
    (va.toNat % 8 ≠ 0 → exec (.cpost l a b) s = raiseO s 0x040 va) ∧
    (va.toNat % 8 = 0 → (s.engine 4096).frozen = false → s.cur.mayAccess = true → s.cur.finished s.cur.holdSt = true →
      s.scoreOk va 64 false = true → descWords s va 8 = (.ok ws, u) →
      (((ws.getD 0 0).toNat % 64 ≠ 0 ∨ memSpace u.cur.core (ws.getD 0 0) = false) →
        exec (.cpost l a b) s = .next (u.dropWords.raiseAfter 0x142 va [] none)) ∧
      ((ws.getD 0 0).toNat % 64 = 0 → memSpace u.cur.core (ws.getD 0 0) = true → u.speculating = false → u.cur.mayAccess = true →
        u.scoreOk (ws.getD 0 0) 64 false = true → descWords u (ws.getD 0 0) 8 = (.ok cw, v) →
        (commOk cw = false → exec (.cpost l a b) s = .next (v.dropWords.raiseAfter 0x142 va [] none)) ∧
        (commOk cw = true → v.speculating = false → v.cur.mayAccess = true → v.scoreOk (cw.getD 2 0) (8 * commCount cw) false = true →
          descWords v (cw.getD 2 0) (commCount cw) = (.ok tab, z) →
          ∀ x own, x = z.dropWords → own = BitVec.ofNat 64 (x.mynode * 2 ^ 56 + (x.core x.cur.core).lcore) →
            (tab.findIdx? (· = own) = none → exec (.cpost l a b) s = .next (x.dropWords.raiseAfter 0x142 va [] none)) ∧
            (∀ y r q, tab.findIdx? (· = own) = some r → tab.all entryOk = true → collFieldsOk ws cw = true →
              memSpace x.cur.core (collDesc ws).sbuf = true → memSpace x.cur.core (collDesc ws).dbuf = true →
              buffersOk x (collDesc ws) (commSizes cw) r = true → doneCheck x va (x.g a) = (none, y) →
              y.cur.cnt.full .transfers = false → y.postsFull = false → y.takeScore [] .transfers (y.accs + 1) = some q →
              ∃ p : Post, p.cid = commCid cw ∧ p.rank = r ∧ p.comm = cw ∧ p.words = ws ∧ p.table = tab ∧ p.done = x.g a ∧
                exec (.cpost l a b) s =
                  .next (({ q with accs := q.accs + 1, cur := { q.cur with cnt := q.cur.cnt.up .transfers } }).sendCmd (.post p))))))) ∧
  (∀ (s : State) (m : AnnMsg) (p : Post),
    (m.node = s.mynode → (s.postsOf m.cid m.num).find? (fun p => decide (p.rank = m.rank)) = none → exec (.collAnnounce m) s = .next s) ∧
    (m.node = s.mynode → (s.postsOf m.cid m.num).find? (fun p => decide (p.rank = m.rank)) = some p →
      (s.activeCids.contains m.cid = false → exec (.collAnnounce m) s = .next (s.later (.collAnnounce m))) ∧
      (s.activeCids.contains m.cid = true → exec (.collAnnounce m) s =
        .next ((((s.tell p m).noteAnn m).poolTake m.cid m.num).beginColl m))) ∧
    (m.node ≠ s.mynode → s.postsOf m.cid m.num ≠ [] → exec (.collAnnounce m) s = .next ((s.noteAnn m).beginColl m)) ∧
    (m.node ≠ s.mynode → s.postsOf m.cid m.num = [] →
      (∀ i, s.poolFree = some i → exec (.collAnnounce m) s = .next (s.poolStore i m)) ∧
      (s.poolFree = none → exec (.collAnnounce m) s =
        .next ((s.bumpReg regOvfRetry 0 64).after (10 * Config.cyclesPerUs) (.announceRetry m)))) ∧
    exec (.announceRetry m) s = .next (s.push (.collAnnounce m))) ∧
  (∀ (s : State) (cid key link : Nat) (c : Coll) (p : Piece),
    (∀ n, s.reserve cid key 17 = none → exec (.chunkGrant cid key (256 + n)) s = .next (s.later (.chunkGrant cid key (256 + n)))) ∧
    (∀ n u, s.reserve cid key 17 = some u → exec (.chunkGrant cid key (256 + n)) s = .next (u.sendFlit n 0 3 (.grant cid key))) ∧
    (link < 256 → s.pieceOf cid key = none → exec (.chunkGrant cid key link) s = .next s) ∧
    (s.pieceOf cid key = some (c, p) → p.st = 0 →
      (∀ u, s.reserve cid key 16 = some u → exec (.chunkGrant cid key 16) s =
        .next ((u.setColl (c.setPiece { p with st := 1, res := 16 })).push (.chunkArbitration 16))) ∧
      (∀ j v, link < 16 → s.routeTo (entryNode (s.memberEntry c p.target)) = some j →
        [4, 5, 6, 7].find? (fun v => !(s.boundVcs j).contains v) = some v → exec (.chunkGrant cid key link) s =
          .next ((s.setColl (c.setPiece { p with st := 1, res := j, vc := v })).push (.chunkArbitration j)))) ∧
    (32 ≤ link → exec (.chunkArbitration link) s = .next (unitTurn s (link - 32))) ∧
    (link < 32 → (link < 16 → (s.link link).replay.any isChunkFlit = false) → s.chunkWinner link (s.chunkCands link) = none →
      exec (.chunkArbitration link) s = .next s) ∧
    (∀ q : Post, 16 ≤ link → link < 32 → s.chunkWinner link (s.chunkCands link) = some (c, p, q) → s.logged (s.proc q.pid) = false →
      exec (.chunkArbitration link) s = .next (if ((s.moveChunk link c p q).chunkCands link).isEmpty then s.moveChunk link c p q
        else (s.moveChunk link c p q).push (.chunkArbitration link))) ∧
    (∀ num, s.collOf cid = none → exec (.collComplete cid num) s = .next s) ∧
    (s.collOf cid = some c → ∀ num, c.num ≠ num → exec (.collComplete cid num) s = .next s) ∧
    (s.collOf cid = some c → s.postsOf cid c.num = [] → exec (.collComplete cid c.num) s = .next (s.endColl c)) ∧
    (∀ (q : Post) (rest : List Post), s.collOf cid = some c → s.postsOf cid c.num = q :: rest → c.status ≠ 0 →
      exec (.collComplete cid c.num) s = .next (finishPost s c q 0 c.flags))) ∧
  (∀ (s : State) (r : Req) (g : TrussGen) (i q src : Nat) (x w : Word), q = trussOf r.pa → src = s.trussSource r → w = s.trussCfg q →
    (s.trussOpen r = false → exec (.trussPush r) s = .next (s.trussDeny r false) ∧ exec (.trussPop r) s = .next (s.trussDeny r false)) ∧
    (s.trussOpen r = true → r.op = .store x →
      (∀ at_, at_ = s.truss.findIdx? (fun g => decide (g.q = q) && g.result.isNone && !(g.parts.any fun p => decide (p.1 = src))) →
        (at_ = some i → s.truss[i]? = some g → exec (.trussPush r) s =
          .next (((s.setGen i (({ g with parts := g.parts ++ [(src, toW32 x)] }).settle w)).complete r 0 0 .none false).retryPops q)) ∧
        (at_ = none → (s.truss.filter fun g => decide (g.q = q)).length < 2 → ∃ n : TrussGen, n.q = q ∧ n.parts = [(src, toW32 x)] ∧
          n.popped = [] ∧ n.result = none ∧ exec (.trussPush r) s =
            .next ((({ s with truss := s.truss ++ [n.settle w] }).complete r 0 0 .none false).retryPops q)) ∧
        (at_ = none → 2 ≤ (s.truss.filter fun g => decide (g.q = q)).length → exec (.trussPush r) s = .next (s.later (.trussPush r))))) ∧
    (s.trussOpen r = true → exec (.trussPop r) s = .next (popTruss s r false)) ∧
    (∀ addr, (trussCfgOk x = false → exec (.trussQueueWrite addr x) s = .next s) ∧
      (trussCfgOk x = true → ∀ u, u = s.setReg addr (regWritten (regSpec addr) (s.reg addr) x) →
        (x.getLsbD 63 = false → exec (.trussQueueWrite addr x) s = .next u) ∧
        (x.getLsbD 63 = true → exec (.trussQueueWrite addr x) s = .next
          (({ u with truss := u.truss.filter fun g => decide (g.q ≠ (regOff addr - 0x1000) / 8) }).retryPops ((regOff addr - 0x1000) / 8))))))

/-- Memory servers, Ethernet ports and register writes (R5, R89–R100).
What of it the spec leaves open (log entries 44, 49, 57, 80 and 86) is the model's choice. -/
def Obligations.PortsServersAndRegistersComplete : Prop :=
  (∀ (s : State) (m : MsMsg) (w0 h : Word), w0 = m.words.getD 0 0 → h = m.words.getD 5 0 →
    (field w0 24 3 = 7 → exec (.msRequest m) s = .next (s.endExt m.msg 0 (some { cause := 0x001, tval := w0, words := [] }))) ∧
    (field w0 24 3 ≠ 7 → h ≠ 0 → s.blockChannel h m.msg.ctx = false →
      exec (.msRequest m) s = .next (s.endExt m.msg 0 (some { cause := 0x0C0, tval := h, words := [] }))) ∧
    (field w0 24 3 ≠ 7 → h ≠ 0 → s.blockChannel h m.msg.ctx = true → (128 ≤ s.repliesOf m.stack ∨ s.intakeRoom m.stack = false) →
      exec (.msRequest m) s = .next ((s.chanPark m.msg 1 m.msg.key).later (.msRequest m))) ∧
    (field w0 24 3 ≠ 7 → s.intakeRoom m.stack = true →
      (h ≠ 0 → s.blockChannel h m.msg.ctx = true ∧ s.repliesOf m.stack < 128) →
      exec (.msRequest m) s =
        .next (({ s with msStore := s.msStore ++ [m] }.endExt m.msg 0 none).push (msStep m.msg.num m.stack))) ∧
    (∀ k, s.msStore.find? (fun m => decide (16 * m.msg.num + m.stack = k)) = none → exec (.msReply k) s = .next s) ∧
    (∀ k, s.msStore.find? (fun m => decide (16 * m.msg.num + m.stack = k)) = some m →
      ((s.msBehind m = true ∨ (h ≠ 0 ∧ 128 ≤ s.repliesOf m.stack)) → exec (.msReply k) s = .next (s.later (.msReply k))) ∧
      (s.msBehind m = false → (h = 0 ∨ s.repliesOf m.stack < 128) →
        (∀ u, msPerform s m = .wait u → exec (.msReply k) s = .next (u.later (.msReply k))) ∧
        (∀ u, msPerform s m = .more u → exec (.msReply k) s = .next (u.push (.msReply k))) ∧
        (∀ d u v, msPerform s m = .done d u → v = { u with msStore := u.msStore.erase m }.dropHost (serverSeat m.stack) m.msg.ctx →
          (h = 0 → exec (.msReply k) s = .next (v.claimExt m.msg.key)) ∧
          (h ≠ 0 → exec (.msReply k) s = .next
            ((v.unitSend (.sill (100 + m.stack)) h m.msg.ctx (msReplyBytes m.words d) (d.flags &&& 31)).claimExt m.msg.key)))))) ∧
  (∀ (s : State) (p : Nat) (f : Frame) (ctl : Word) (n : Nat), ctl = s.reg (portReg p 0) → n = f.bytes.length →
    (ctl.getLsbD 23 = false → exec (.frameReceive p f) s = .next s) ∧
    (ctl.getLsbD 23 = true →
      ((f.good = false ∨ n < 60 ∨ 9212 < n) → exec (.frameReceive p f) s = .next (s.bumpReg (portReg p 8) 0 32)) ∧
      (f.good = true → 60 ≤ n → n ≤ 9212 →
        (be16 f.bytes 12 = 0x8808 → be16 f.bytes 14 = 0x0101 → exec (.frameReceive p f) s = .next (s.push
          (.pfcFrame p (BitVec.ofNat 8 (be16 f.bytes 16)) ((List.range 8).map fun i => be16 f.bytes (18 + 2 * i))))) ∧
        (be16 f.bytes 12 = 0x8808 → be16 f.bytes 14 ≠ 0x0101 → exec (.frameReceive p f) s = .next s) ∧
        (be16 f.bytes 12 ≠ 0x8808 → ∀ prio, prio = (if frameTagged f.bytes then be16 f.bytes 14 / 8192 else field ctl 20 3) →
          (s.classify p prio f.bytes = none → exec (.frameReceive p f) s = .next (s.bumpReg (portReg p 8) 32 32)) ∧
          (∀ ring rule, s.classify p prio f.bytes = some (ring, rule) → (s.ringWord p ring 2).getLsbD 63 = true →
            (s.threshold p prio 32 < (s.port p).held_ prio + n → exec (.frameReceive p f) s =
              .next (s.bumpReg (portReg p (0x108 + 16 * prio)) (if (s.port p).asserted.getLsbD prio then 32 else 0) 32)) ∧
            ((s.port p).held_ prio + n ≤ s.threshold p prio 32 → exec (.frameReceive p f) s =
              .next (((s.setPort p { s.port p with rx := (s.port p).rx ++
                [{ bytes := f.bytes, stamp := f.stamp, prio := prio, ring := ring, rule := rule }] }).pauseSend p prio).push
                (.ingestDeposit p ring)))))))) ∧
  (∀ (s : State) (p prio : Nat) (prios : Byte) (quanta : List Nat),
    (((s.port p).asserted.getLsbD prio = false ∨ (s.port p).held_ prio ≤ s.threshold p prio 0) → exec (.pfcRepeat p prio) s = .next s) ∧
    ((s.port p).asserted.getLsbD prio = true → s.threshold p prio 0 < (s.port p).held_ prio → exec (.pfcRepeat p prio) s =
      .next ({ s with out := .pfc p prio 0xFFFF :: s.out }.after (20 * Config.cyclesPerUs) (.pfcRepeat p prio))) ∧
    (exec (.pfcFrame p 0 quanta) s = .next s) ∧
    (SMap.wf EthPort.empty s.eth = true → ∃ t, exec (.pfcFrame p prios quanta) s = .next t ∧
      t.mem = s.mem ∧ t.cur = s.cur ∧ ∀ k < 8, (t.port p).held.getLsbD k =
        if prios.getLsbD k then decide (quanta.getD k 0 ≠ 0) else (s.port p).held.getLsbD k) ∧
    (((s.port p).held.getLsbD prio = false ∨ s.clk < SMap.get 0 (s.port p).heldTo prio) → exec (.pfcQuantaExpire p prio) s = .next s) ∧
    ((s.port p).held.getLsbD prio = true → SMap.get 0 (s.port p).heldTo prio ≤ s.clk → exec (.pfcQuantaExpire p prio) s =
      .next ((s.setPort p { s.port p with held := (s.port p).held &&& ~~~(1#8 <<< prio),
                                          heldTo := SMap.put 0 (s.port p).heldTo prio 0 }).push (.frameTransmit p prio))) ∧
    ((s.port p).held.getLsbD prio = true → exec (.frameTransmit p prio) s =
      .next ((s.admitFrame p prio).claimExt (portReg p (0x3000 + 8 * prio)))) ∧
    ((s.port p).held.getLsbD prio = false →
      ((s.port p).tx.find? (fun f => decide (f.1 = prio)) = none → exec (.frameTransmit p prio) s =
        .next ((s.admitFrame p prio).claimExt (portReg p (0x3000 + 8 * prio)))) ∧
      (∀ f u, (s.port p).tx.find? (fun f => decide (f.1 = prio)) = some f →
        u = { (s.setPort p { s.port p with tx := (s.port p).tx.erase f }) with
                out := .frame p prio (f.2 ++ frameFcs f.2) :: s.out }.push (.frameTransmit p prio) →
        exec (.frameTransmit p prio) s = .next ((u.admitFrame p prio).claimExt (portReg p (0x3000 + 8 * prio))))) ∧
    (s.ingressHeld = true → exec (.ingestDeposit p prio) s = .next (s.later (.ingestDeposit p prio)))) ∧
  (∀ (s u : State) (p j : Nat), s.ingressHeld = false →
    u = (List.range (s.port p).taken.length).foldl (fun s _ => s.ringComplete p j)
      (s.setPort p { s.port p with ringWait := (s.port p).ringWait.filter (· ≠ j) }) →
    (u.ringUp p j = false ∨ (u.port p).rx.find? (fun f => decide (f.ring = j)) = none →
      exec (.ingestDeposit p j) s = .next (u.claimExt (portReg p (0x2000 + 32 * j)))) ∧
    (∀ f, u.ringUp p j = true → (u.port p).rx.find? (fun f => decide (f.ring = j)) = some f →
      exec (.ingestDeposit p j) s = .next ((u.deposit p j f).claimExt (portReg p (0x2000 + 32 * j))))) ∧
  (∀ (s u v w : State) (p j i vn pw d : Nat) (f : RxFrame) (e : Nat × ChanMsg × Nat × Byte) (bs : List Byte),
    (s.ringDue p j = none → s.ringComplete p j = s) ∧
    (s.ringDue p j = some e → i = e.2.2.1 → vn = e.2.2.2.toNat → s.guardList [s.slotOf (s.presence p j i) vn] = (none, u) →
      writeBeat u e.2.1.core e.2.1.ctx e.2.1.addr
        (bytesOfWords (areaWords u p j i vn (u.peek (s.slotOf (s.presence p j i) vn)) (u.payload p j i))) 0 = (.ok (), v) →
      s.ringComplete p j = (v.setPort p { v.port p with
        taken := (v.port p).taken.filter fun x => decide (x.2.1.num ≠ e.2.1.num) }).endExt e.2.1 0 none) ∧
    (d = field (s.ringWord p j 3) 0 32 → i = d % s.ringN p j → vn = s.ringVersion p j d → pw = s.presence p j i →
      s.guardList (s.cellWords pw) = (none, u) → u.isLocked pw = false →
      (sideFull (u.sideOf (u.slotOf pw vn)) = true → s.deposit p j f = u.ringWaits p j pw) ∧
      (sideFull (u.sideOf (u.slotOf pw vn)) = false →
        bs = (f.bytes.drop (field (s.ringWord p j 2) 8 8)).take (2 ^ field (s.ringWord p j 2) 16 4) →
        writeRange 300 u (portSeat p) (BitVec.ofNat 8 (field (s.ringWord p j 2) 40 8)) (u.payload p j i) bs = (.ok (), v) →
        s.deposit p j f = v.depositDone p j (2 * 2 ^ 53 + pw % 2 ^ 53) vn f
          (presenceWord f bs.length (decide (bs.length + field (s.ringWord p j 2) 8 8 < f.bytes.length))))) ∧
    (∀ (pa a n : Nat) (x y : Word) (fl : Flags),
      checkNow s (portSeat p) (BitVec.ofNat 8 (field (s.ringWord p j 2) 40 8)) (BitVec.ofNat 64 pa) 8 needWr false = (.ok a n, u) →
      verStore u a vn x (effScope .rel 5 [p / 2] 2 (ownerCoord 2 a)) 0 99 = .done v y fl →
      w = v.stepReg (portReg p (0x2018 + 32 * j)) 0 32 →
      s.depositDone p j pa vn f x = ((((w.setPort p { w.port p with rx := (w.port p).rx.erase f }).resumeSend p f.prio).stir
        (w.slotOf a vn)).push (.ingestDeposit p j)))) ∧
  (∀ (s : State) (a b : Nat) (x : Word), b = regBlock a →
    exec (.ringDescriptorWrite a x) s = .next (s.writeRing a x) ∧ exec (.portRegisterWrite a x) s = .next (s.writePort a x) ∧
    (b < 0x40 → b ∉ [0x00, 0x01, 0x10, 0x11, 0x12, 0x20] → exec (.registerWrite a x) s = .next (s.writePlainReg a x)) ∧
    (b = 0x10 → 0x20000 ≤ regOff a → exec (.registerWrite a x) s = .next s) ∧
    (b = 0x10 → regOff a < 0x20000 → (regOff a % 0x10000 < 0x2000 ∨ 0x2800 ≤ regOff a % 0x10000) →
      exec (.registerWrite a x) s = .next (s.writePort a x)) ∧
    (b = 0x10 → regOff a < 0x20000 → 0x2000 ≤ regOff a % 0x10000 → regOff a % 0x10000 < 0x2800 →
      exec (.registerWrite a x) s = .next (s.writeRing a x)) ∧
    (∃ t, exec (.registerWrite a x) s = .next t)) ∧
  (∀ (sp : RegSpec) (old x : Word) (k : Nat), k < 64 → (regWritten sp old x).getLsbD k =
    ((if sp.rw.testBit k then x.getLsbD k else old.getLsbD k) && !(x.getLsbD k && sp.w1c.testBit k)))

/-- Role changes and thermal control (R19–R28, R209, R210, R453).
What of it the spec leaves open (log entries 5, 31 and 32) is the model's choice. -/
def Obligations.RoleChangesRunThroughTheirPhases : Prop :=
  (∀ (s u : State) (x : Word), u = s.setReg regPartctl (regWritten (regSpec regPartctl) (s.reg regPartctl) x) →
    (x.getLsbD 0 = false ∨ s.boot.stopped = true → exec (.partGo x) s = .next u) ∧
    (x.getLsbD 0 = true → s.boot.stopped = false →
      (u.phase ≠ 0 → exec (.partGo x) s = .next (u.setErr 7)) ∧
      (u.phase = 0 → planError (u.reg regPartplan) u.board.cls ≠ 0 →
        exec (.partGo x) s = .next (u.setErr (planError (u.reg regPartplan) u.board.cls))) ∧
      (u.phase = 0 → planError (u.reg regPartplan) u.board.cls = 0 → ∀ v : State,
        v = ({ (u.setPhase 2) with boot := { (u.setPhase 2).boot with plan := u.reg regPartplan } }).push .drainComplete →
        (field (u.reg regPartctl) 8 24 = 0 → exec (.partGo x) s = .next v) ∧
        (field (u.reg regPartctl) 8 24 ≠ 0 → exec (.partGo x) s =
          .next (v.after (field (u.reg regPartctl) 8 24 * Config.cyclesPerUs) .drainTimeout))))) ∧
  (∀ (plan : Word) (fixed : Nat), planError plan fixed = 0 →
    (planClass plan = 1 ∨ planClass plan = 2) ∧ (fixed = 0 ∨ planClass plan = fixed) ∧
    (∃ i < 8, planRole plan i = 2) ∧ (∀ i < 8, planRole plan i ≠ 3) ∧
    (∀ i < 8, i % 4 ≠ 3 → planRole plan i = 2 → planRole plan (i + 1) ≠ 0) ∧
    (∀ t < 2, towerWatts plan t ≤ if planClass plan = 1 then 900 else 1200)) ∧
  (∀ s : State,
    (s.phase ≠ 2 → exec .drainComplete s = .next s ∧ exec .drainTimeout s = .next s) ∧
    (s.phase = 2 →
      (s.isDrained = false → exec .drainComplete s = .next (s.later .drainComplete)) ∧
      (s.isDrained = true → exec .drainComplete s = .next (((s.dropDeadlines.setPhase 3).push .flushComplete).after
        (50 * Config.cyclesPerUs) .roleChangeStop)) ∧
      exec .drainTimeout s = .next ((s.setErr 8).setPhase 0).resumeLaunches) ∧
    (s.phase ≠ 3 → exec .flushComplete s = .next s) ∧
    (s.boot.broken = true → (s.phase = 3 → exec .flushComplete s = exec .roleChangeStop s) ∧
      (s.phase = 4 → exec .powerComplete s = exec .roleChangeStop s) ∧ (s.phase = 5 → exec .enumerate s = exec .roleChangeStop s)) ∧
    (s.phase = 3 → s.boot.broken = false →
      ((s.agenda ++ s.blocked).all Ev.heldOver = false → exec .flushComplete s = .next (s.later .flushComplete)) ∧
      ((s.agenda ++ s.blocked).all Ev.heldOver = true → ∀ u : State,
        u = (s.ctxs.map (·.1)).foldl (fun s c => s.flushLog (BitVec.ofNat 8 c)) 
          { s with tlb := [], upper := [], walks := [], walkQ := [], walkWait := [], rels := [], widens := [] } →
        exec .flushComplete s = .next (((u.dropDeadlines.setPhase 4).push .powerComplete).after
          (1000 * Config.cyclesPerUs) .roleChangeStop))) ∧
    (s.phase ≠ 4 → exec .powerComplete s = .next s) ∧
    (s.phase = 4 → s.boot.broken = false → (s.regs.map (·.1)).Pairwise (· < ·) → ∃ t, exec .powerComplete s = .next t ∧ t.phase = 5 ∧ t.agenda = s.agenda.filter (fun e => !isDeadline e) ++ [.enumerate] ∧ t.clk = s.clk ∧
      (∀ i < 8, t.role (i / 4) (i % 4) = planRole s.boot.plan i)) ∧
    (s.phase ≠ 5 → exec .enumerate s = .next s) ∧
    (s.phase = 5 → s.boot.broken = false → ∀ u : State, u = s.dropDeadlines.enumerated →
      exec .enumerate s = .next (((u.stepReg regPartstat 32 32).setErr 0).setPhase 0).resumeLaunches ∧
      u.barriers = [] ∧ u.temps = [] ∧ u.mem = s.mem ∧
      ((s.regs.map (·.1)).Pairwise (· < ·) → field (u.reg regPartstat) 16 11 = 128 * s.computeLayers.length)) ∧
    (s.phase < 3 → exec .roleChangeStop s = .next s) ∧
    (3 ≤ s.phase → ∃ t, exec .roleChangeStop s = .next t ∧ t.boot.stopped = true ∧ t.mem = s.mem ∧ t.cur = s.cur)) ∧
  (∀ (s : State) (temps : List (Nat × Nat)), (s.thermalDue = false → exec (.thermalPeriod temps) s = .next s) ∧
    (s.thermalDue = true → ∃ t, exec (.thermalPeriod temps) s = .next t ∧ t.mem = s.mem ∧ t.clk = s.clk ∧
    t.temps = temps.foldl (fun m e => SMap.put 0 m e.1 e.2) s.temps ∧ t.thermAt = some s.clk))

/-- Fault records, FLTRES, FRZCTL, the switch of a context and the doldrums detector (R56–R58, R190, R191, R401–R408).
What of it the spec leaves open (log entries 43, 63, 64, 65 and 88) is the model's choice. -/
def Obligations.FaultsAreReportedAndResolved : Prop :=
  (∀ (s : State) (c : Byte) (ws : List Word) (full : Bool),
    full = decide (8 ≤ (s.chanq.filter fun m => decide (m.agent = postAgent s ws)).length) →
    ((s.owesReplies ws = true ∨ full = true) → exec (.faultPost c ws) s = .next (s.later (.faultPost c ws))) ∧
    (s.owesReplies ws = false → full = false →
      (∀ h, s.mailbox c = some h → exec (.faultPost c ws) s =
        .next ((s.cacheDesc c).unitSend (postAgent s ws) h c (bytesOfWords ws) 0)) ∧
      (∀ vs, s.mailbox c = none → vs = ws.modifyHead (fun h => h ||| BitVec.ofNat 64 fbRedirect) →
        (∀ h, s.mailbox 0 = some h → exec (.faultPost c ws) s =
          .next ((s.cacheDesc 0).unitSend (postAgent s ws) h 0 (bytesOfWords vs) 0)) ∧
        (s.mailbox 0 = none → exec (.faultPost c ws) s = .next (s.bumpReg regFlost 0 64))))) ∧
  (∀ (s : State) (core : Nat) (x : Word) (pid : Nat), pid = fltPid x →
    (fltUnit x = 0 →
      (∀ o r, s.fltOwed core x = some (o, r) →
        exec (.fltresRetry core x) s = .next ((s.retryOwed pid o).settleOwed pid r) ∧
        exec (.fltresSkip core x) s = .next ((s.skipOwed pid o (s.reg (corePage core + 0xA08))).settleOwed pid r) ∧
        exec (.fltresDiscard core x) s = .next (s.discardProc pid)) ∧
      (s.fltOwed core x = none → ∀ i ∈ [Instr.fltresRetry core x, .fltresSkip core x, .fltresDiscard core x],
        exec i s = .next (s.fltBad core))) ∧
    (fltUnit x ≠ 0 → exec (.fltresSkip core x) s = .next (s.fltBad core)) ∧
    ((fltUnit x = 3 ∨ fltUnit x = 4) →
      (∀ q e, s.fltCmd core x = some (q, e) → exec (.fltresRetry core x) s = .next (s.resumeEngine q) ∧
        exec (.fltresDiscard core x) s = .next (s.discardEngine q)) ∧
      (s.fltCmd core x = none → exec (.fltresRetry core x) s = .next (s.fltBad core) ∧
        exec (.fltresDiscard core x) s = .next (s.fltBad core))) ∧
    (fltUnit x = 5 → exec (.fltresDiscard core x) s = .next (s.fltBad core) ∧
      (∀ m, s.fltTile core x = some m → exec (.fltresRetry core x) s = .next (s.resumeTile m)) ∧
      (s.fltTile core x = none → exec (.fltresRetry core x) s = .next (s.fltBad core))) ∧
    (fltUnit x ∉ [0, 3, 4, 5] → exec (.fltresRetry core x) s = .next (s.fltBad core) ∧
      exec (.fltresDiscard core x) s = .next (s.fltBad core))) ∧
  (∀ (s : State) (x : Word),
    (s.frozenMaster x = .none → exec (.frzctlResume x) s = .next s.thawBad ∧ exec (.frzctlDiscard x) s = .next s.thawBad) ∧
    (∀ pid u, s.frozenMaster x = .slot pid → u = s.thawed.updProc pid (fun p => { p with frozen := false }) →
      (∀ o, (s.proc pid).owed.find? (·.viol) = some o → exec (.frzctlResume x) s =
        .next ((u.retryOwed pid o).settleOwed pid ((s.proc pid).owed.erase o))) ∧
      ((s.proc pid).owed.find? (·.viol) = none → exec (.frzctlResume x) s = .next (u.settleOwed pid (s.proc pid).owed)) ∧
      exec (.frzctlDiscard x) s = .next (s.thawed.discardProc pid)) ∧
    (∀ h, s.frozenMaster x = .helper h → exec (.frzctlResume x) s = .next (s.thawed.resumeHelper h) ∧
      exec (.frzctlDiscard x) s = .next (s.thawed.discardHelper h)) ∧
    (∀ q, s.frozenMaster x = .queue q → exec (.frzctlResume x) s = .next (s.thawed.resumeEngine q) ∧
      exec (.frzctlDiscard x) s = .next (s.thawed.discardEngine q)) ∧
    (∀ n i, s.frozenMaster x = .node n → i ∈ [Instr.frzctlResume x, .frzctlDiscard x] →
      ∃ t, exec i s = .next t ∧ n ∉ t.frozenNodes ∧ (∀ m, m ≠ n → (m ∈ t.frozenNodes ↔ m ∈ s.frozenNodes)) ∧ t.mem = s.mem ∧ t.cur = s.cur)) ∧
  (∀ (s : State) (c : Byte),
    ((s.ctx c).evicted = true → exec (.contextEvict c) s = .next s) ∧
    ((s.ctx c).evicted = false →
      ((!(s.toEvict c).isEmpty || (s.ctxProcs c).any (fun p => p.rc && p.st != .faulted)) = true →
        exec (.contextEvict c) s = .next (((s.toEvict c).foldl State.startEvict s).later (.contextEvict c))) ∧
      exec (.contextRestore c) s = .next s ∧
      ((!(s.toEvict c).isEmpty || (s.ctxProcs c).any (fun p => p.rc && p.st != .faulted)) = false →
        SMap.wf Ctxt.empty s.ctxs = true → ∃ t, exec (.contextEvict c) s = .next t ∧ (t.ctx c).evicted = true ∧
          (t.ctx c).chain = sortAsc (((s.ctxProcs c).filter fun p => p.st == .ready || p.st == .spilled).map (·.pid)) ∧
          ((∀ p prio, s.fifo p prio = []) → t.mem = chainLinks s.mem (t.ctx c).chain))) ∧
    ((s.ctx c).evicted = true → SMap.wf Ctxt.empty s.ctxs = true →
      ∃ t, exec (.contextRestore c) s = .next t ∧ (t.ctx c).evicted = false ∧ (t.ctx c).trigs = [] ∧ (t.ctx c).chain = [] ∧
        ((s.ctx c).chain = [] → t.mem = s.mem ∧ t.agenda = s.agenda ++ (s.ctx c).trigs.map (fun g => .triggerLatch c g) ++ t.cores.map (fun e => .slotFill e.1) ++
          s.lqs.map (fun e => .launchTake e.1))) ∧
    (∀ g : TrigMsg,
      ((s.ctx c).evicted = false → ((s.proc g.pid).pid ≠ g.pid → exec (.triggerLatch c g) s = .next s) ∧
        ((s.proc g.pid).pid = g.pid → exec (.triggerLatch c g) s = .next (s.fireTrigger c g))) ∧
      ((s.ctx c).evicted = true →
        ((s.ctx c).trigs.length < 64 → exec (.triggerLatch c g) s =
          .next (s.updCtx c fun x => { x with trigs := x.trigs ++ [g] })) ∧
        (64 ≤ (s.ctx c).trigs.length → exec (.triggerLatch c g) s =
          .next (s.touch g.pid fun p => { p with tstat := p.tstat ||| 0x100 }))))) ∧
  (∀ (s : State) (go : Bool),
    go = ((s.reg (blockAddr 0 0 0x100)).getLsbD 0 && s.unitsIdle && s.cores.all (fun e => s.lineUp e.1) && s.allProcs.any Proc.stuck) →
    (go = true → exec .deadlock s = .next s.reportDeadlock) ∧ (go = false → exec .deadlock s = .next { s with quiet := false }))

/-- Links and peer requests (R53–R56, R410–R415).
What of it the spec leaves open (log entries 36 and 72) is the model's choice. -/
def Obligations.LinksCarryFlitsInOrder : Prop :=
  (∀ (s : State) (l : Nat) (f : Flit) (x : Link), s.link l = x →
    (x.up = false → exec (.linkFlit l f) s = .next s) ∧
    (x.up = true →
      (s.ingressHeld = true → exec (.linkFlit l f) s = .next (s.later (.linkFlit l f))) ∧
      (s.ingressHeld = false →
        (f.crcOk = false → ∃ t, exec (.linkFlit l f) s = .next t ∧ t.out = .replayRequest l (x.rseq + 1) :: s.out ∧ t.mem = s.mem ∧
          t.links = s.links ∧ t.agenda = s.agenda) ∧
        (f.crcOk = true → f.lseq ≠ x.rseq + 1 → exec (.linkFlit l f) s = .next s) ∧
        (f.crcOk = true → f.lseq = x.rseq + 1 → ∀ u : State, u = (s.setLink l { x with rseq := f.lseq }).acked l f.ack →
          (f.dnode = u.mynode → exec (.linkFlit l f) s = .next (u.inOrder l f)) ∧
          (f.dnode ≠ u.mynode → exec (.linkFlit l f) s = .next (u.passOn f)))))) ∧
  (∀ (s : State) (l : Nat) (q : BitVec 12) (x : Link), s.link l = x →
    (x.replay.findIdx? (fun f => decide (f.lseq = q)) = none → exec (.linkReplay l q) s = .next s) ∧
    (∀ i n, x.replay.findIdx? (fun f => decide (f.lseq = q)) = some i → n = (if i = 0 then x.tries + 1 else 1) →
      (x.up = false → exec (.linkReplay l q) s = .next s) ∧
      (x.up = true → 8 < n → exec (.linkReplay l q) s = .next ((s.setLink l { x with tries := n }).retrain l)) ∧
      (x.up = true → n ≤ 8 → ∃ t, exec (.linkReplay l q) s = .next t ∧ t.mem = s.mem ∧ t.agenda = s.agenda ∧
        t.out.length = s.out.length + (x.replay.length - i) ∧ t.links = (s.setLink l { x with tries := n }).links))) ∧
  (∀ (s : State) (l : Nat) (ok : Bool) (x : Link), s.link l = x →
    ((x.up = true ∨ x.down = true) → exec (.linkRetrain l ok) s = .next s) ∧
    (x.up = false → x.down = false →
      exec (.linkRetrain l true) s =
        .next (((s.setLink l { x with fails := 0, tries := 0 }).setUp l true).resendFlits l x.replay).release ∧
      (x.fails < 2 → exec (.linkRetrain l false) s =
        .next ((s.setLink l { x with fails := x.fails + 1 }).bumpReg (linkReg l) 8 16)) ∧
      (2 ≤ x.fails → exec (.linkRetrain l false) s =
        .next ((s.setLink l { x with fails := 3, down := true, replay := [], tries := 0 }).moveFlits x.replay))) ∧
    ((s.reg (linkReg l)).getLsbD 1 = false → exec (.linkUp l) s = .next s) ∧
    ((s.reg (linkReg l)).getLsbD 1 = true → exec (.linkUp l) s = .next
      (((s.setLink l { x with down := false, fails := 0, tries := 0 }).setUp l true).resendFlits l x.replay).release)) ∧
  (∀ (s : State) (p : PeerMsg),
    (s.ingressHeld = true → exec (.peerRequest p) s = .next (s.later (.peerRequest p))) ∧
    (s.ingressHeld = false →
      (s.frozenNodes.contains p.node = true → exec (.peerRequest p) s =
        .next (s.sendFlit p.node p.ctx 1 (.reply p.tag 0 0 0x180 0))) ∧
      (s.frozenNodes.contains p.node = false → s.aclEntry p.node p.ctx = none → exec (.peerRequest p) s =
        .next ((s.peerViolates p.node none { cause := 0x181, tval := p.va, words := [] }).sendFlit p.node p.ctx 1
          (.reply p.tag 0 0 0x181 0))) ∧
      (∀ c pa space entry u, peerCheck s p.node p.ctx p.va p.size (s.aclNeedAt p.op p.va p.size) (if p.ex then needEx else p.op.need)
          (p.op.plain p.size && !p.ex) = .ok c pa space entry u →
        (versionSpace p.op space = true → exec (.peerRequest p) s = .next
          (u.failAt (peerReq p c pa space entry) { cause := 0x063, tval := p.va, words := [] } false)) ∧
        (versionSpace p.op space = false → hostRefused p.op space = true → exec (.peerRequest p) s = .next
          (u.failAt (peerReq p c pa space entry) { cause := 0x043, tval := p.va, words := [] } false)) ∧
        (versionSpace p.op space = false → hostRefused p.op space = false → exec (.peerRequest p) s =
          .next (u.push (ownerStep (peerReq p c pa space entry))))))) ∧
  (∀ (s : State) (d : Done),
    (d.agent = .host → d.req = none → exec (.peerErrorReply d) s = .next s) ∧
    (∀ r, d.agent = .host → d.req = some r → exec (.peerErrorReply d) s = .next (s.hostAnswer r 0 d.fault)) ∧
    (∀ r f pid, d.agent = .proc pid → d.req = some r → d.fault = some f → isFetch r = true →
      exec (.peerErrorReply d) s = .next (s.fetchFailed r f)) ∧
    (d.agent ≠ .host → (d.req.elim true fun r => !isFetch r) = true → exec (.peerErrorReply d) s = .next (s.comeBack d false)))

/-- Launch queues (R145, R155–R157, R192–R201).
What of it the spec leaves open (log entries 29 and 30) is the model's choice. -/
def Obligations.LaunchQueuesTakeAndCompletePackets : Prop :=
  (∀ (s : State) (q t : Nat) (ring present : List Nat), t = s.lqTower q →
    ring = ((List.range 64).map fun i => (s.lastQ.getD t 63 + 1 + i) % 64).filter (fun x => s.lqOn x && decide (s.lqTower x = t)) →
    present = ring.filter (fun x => match s.lookAt x with | .absent => false | _ => true) →
    ((2 ≤ s.phase ∨ s.boot.stopped = true) → exec (.launchTake q) s = .next s) ∧
    (s.phase < 2 → s.boot.stopped = false →
      (64 ≤ (s.chanq.filter fun m => decide (m.agent = .sill (200 + t))).length → exec (.launchTake q) s = .next (s.later (.launchTake q))) ∧
      ((s.chanq.filter fun m => decide (m.agent = .sill (200 + t))).length < 64 →
        (present = [] → exec (.launchTake q) s = .next s) ∧
        (present ≠ [] → present.find? (fun x => (s.freeEntry t).isSome || s.nextKind x != 0) = none →
          exec (.launchTake q) s = .next (s.later (.launchTake q))) ∧
        (∀ x, present.find? (fun x => (s.freeEntry t).isSome || s.nextKind x != 0) = some x →
          (∀ u, s.takePacket t x = .ok u → exec (.launchTake q) s = .next (if x = q then u else u.push (.launchTake q))) ∧
          (∀ u, s.takePacket t x = .wait u → exec (.launchTake q) s = .next (u.later (.launchTake q))))))) ∧
  (∀ (s : State) (t q k : Nat) (ws : List Word) (slot ctl : Word), ctl = ws.getD 1 0 →
    ((4 ≤ field ctl 16 4 ∨ field ctl 24 40 ≠ 0 ∨ field ctl 11 5 ≠ 0 ∨ field ctl 0 8 ≠ (s.lqCtx q).toNat) →
      s.actPacket t q k ws slot = .ok (s.discardPacket q k ws slot)) ∧
    (field ctl 24 40 = 0 → field ctl 11 5 = 0 → field ctl 0 8 = (s.lqCtx q).toNat →
      (field ctl 16 4 = 2 → s.actPacket t q k ws slot = .ok
        (s.beginBarrier q k ws (s.launchesWhere fun l => decide (l.queue = q)) (.queueBarrier q))) ∧
      (field ctl 16 4 = 3 → s.actPacket t q k ws slot = .ok
        (s.beginBarrier q k ws (s.launchesWhere fun l => decide (l.ctx = s.lqCtx q)) (.contextFence q))))) ∧
  (∀ (s : State) (q : Nat),
    ((s.lq q).barrier = none → ∀ i ∈ [Instr.levelChange q, .queueBarrier q, .contextFence q], exec i s = .next s) ∧
    (∀ ws, (s.lq q).barrier = some ws →
      (s.barrierOver (s.lq q) = false → exec (.levelChange q) s = .next (s.later (.levelChange q)) ∧
        exec (.queueBarrier q) s = .next (s.later (.queueBarrier q)) ∧
        exec (.contextFence q) s = .next (s.later (.contextFence q))) ∧
      (s.barrierOver (s.lq q) = true →
        exec (.queueBarrier q) s = .next (s.endBarrier q ws) ∧ exec (.contextFence q) s = .next (s.endBarrier q ws) ∧
        (∀ c, c = BitVec.ofNat 8 (field (ws.getD 1 0) 0 8) → SMap.wf Ctxt.empty s.ctxs = true →
          ∃ t, exec (.levelChange q) s = .next t ∧ (t.ctx c).level = field (ws.getD 4 0) 0 2 ∧
            (t.ctx c).dom = field (ws.getD 4 0) 2 1 ∧ (t.ctx c).seed = ws.getD 5 0 ∧
            (t.ctx c).created = [] ∧ (∀ e, e ≠ c → t.ctx e = s.ctx e) ∧ t.agenda = s.agenda ++ [.launchTake q] ∧ t.mem = s.mem ∧ t.cur = s.cur)))) ∧
  (∀ (s : State) (m : StartMsg) (p : Nat) (behind : Bool), p = s.physOf m.core →
    behind = (s.blocked.any fun e => match e with
      | .startMessage n => decide (n.tower = m.tower ∧ n.idx = m.idx ∧ n.rank < m.rank) | _ => false) →
    ((behind || !s.hasRecord p) = true → exec (.startMessage m) s = .next (s.later (.startMessage m))) ∧
    (behind = false → s.hasRecord p = true → ∀ r u, s.takeRecord p = r →
      u = (r.2.create p r.1 { childOf m.ctx m.prio m.task m.core m.entry (m.g14 ++ [BitVec.ofNat 64 (if m.mc then m.rank else 0)]) with
              ext := Vector.ofFn fun d => BitVec.ofNat 32 (m.ext.getD d.val 0),
              org := Vector.ofFn fun d => BitVec.ofNat 32 (m.org.getD d.val 0),
              rank := BitVec.ofNat 11 m.rank, nrank := BitVec.ofNat 11 m.nrank, chk := m.chk, rsFrom := m.rsFrom,
              launch := some (m.tower, m.idx) }).enqueue p r.1 →
      (u.launch m.tower m.idx = none → exec (.startMessage m) s = .next u) ∧
      (∀ l, u.launch m.tower m.idx = some l → exec (.startMessage m) s =
        .next ((u.setLaunch m.tower m.idx (some { l with
          pids := l.pids ++ [r.1]
          starts := if l.check = 1 then l.starts.map (fun (n : StartMsg) => if n.rank = m.rank then { n with rsFrom := r.1 } else n)
                    else l.starts })).push (.launchTake l.queue))))) ∧
  (∀ (s : State) (m : DoneMsg),
    (s.launch m.tower m.idx = none → exec (.doneNotice m) s = .next s) ∧
    (∀ l k, s.launch m.tower m.idx = some l →
      k = { l with unsent := l.unsent - 1, faulted := l.faulted + (if m.faulted then 1 else 0) } →
      (k.unsent = 0 → k.check = 0 → exec (.doneNotice m) s = .next (s.completeLaunch m.tower m.idx k)) ∧
      (k.unsent = 0 → k.check = 3 → exec (.doneNotice m) s = .next (s.leaveTable m.tower m.idx k)) ∧
      ((k.unsent ≠ 0 ∨ (k.check ≠ 0 ∧ k.check ≠ 3)) → exec (.doneNotice m) s = .next (s.setLaunch m.tower m.idx (some k))))) ∧
  (∀ (s : State) (a q : Nat) (x new : Word), q = (regOff a - 0x1000) / 32 →
    (regOff a % 32 = 0 → exec (.launchQueueWrite a x) s = .next (if s.lqOn q then s else s.setReg a x)) ∧
    (regOff a % 32 ≠ 0 → regOff a % 32 ≠ 8 → exec (.launchQueueWrite a x) s =
      .next (s.setReg a (regWritten (regSpec a) (s.reg a) x))) ∧
    (regOff a % 32 = 8 → s.lqOn q = false → new = regWritten (regSpec a) (s.reg a) x →
      (new.getLsbD 63 = false → exec (.launchQueueWrite a x) s = .next (s.setReg a new)) ∧
      (new.getLsbD 63 = true →
        ((field new 32 5 = 0 ∨ 12 < field new 32 5 ∨ (s.reg (lqReg q 0)).toNat % (128 * 2 ^ field new 32 5) ≠ 0) →
          exec (.launchQueueWrite a x) s = .next (s.setReg a (setField new 63 1 0))) ∧
        (1 ≤ field new 32 5 → field new 32 5 ≤ 12 → (s.reg (lqReg q 0)).toNat % (128 * 2 ^ field new 32 5) = 0 →
          exec (.launchQueueWrite a x) s = .next (((s.setReg a new).setReg (lqReg q 16) 0).push (.launchTake q))))) ∧
    (regOff a % 32 = 8 → s.lqOn q = true → new = setField (regWritten (regSpec a) (s.reg a) x) 32 5 (field (s.reg a) 32 5) →
      exec (.launchQueueWrite a x) s = .next (s.setReg a new))) ∧
  (∀ (s : State) (t i : Nat),
    (s.launch t i = none → exec (.checkRunAEnd t i) s = .next s ∧ exec (.checkRunBEnd t i) s = .next s) ∧
    (∀ l, s.launch t i = some l →
      (l.check ≠ 1 → exec (.checkRunAEnd t i) s = .next s) ∧ (l.check ≠ 2 → exec (.checkRunBEnd t i) s = .next s) ∧
      (s.runEnd t i l = .running → (l.check = 1 → exec (.checkRunAEnd t i) s = .next (s.later (.checkRunAEnd t i))) ∧
        (l.check = 2 → exec (.checkRunBEnd t i) s = .next (s.later (.checkRunBEnd t i)))) ∧
      (s.runEnd t i l = .fault → (l.check = 1 → exec (.checkRunAEnd t i) s = .next (s.endCheck t i l)) ∧
        (l.check = 2 → exec (.checkRunBEnd t i) s = .next (s.endCheck t i l))) ∧
      (s.runEnd t i l = .over →
        (l.check = 1 → ∀ ws dig u v w, rangeDigest s (sillSeat t) l = (.ok (ws, dig), u) →
          writeRange 4 u (sillSeat t) l.ctx (l.ranges + 16) dig = (.ok (), v) →
          copyRanges v (sillSeat t) l.ctx (ws.getD 1 0) true (rangesOf ws) = (.ok (), w) →
          exec (.checkRunAEnd t i) s = .next (w.startRunB t i l dig)) ∧
        (l.check = 2 → ∀ ws u v, rangeDigest s (sillSeat t) l = (.ok (ws, l.digA), u) →
          writeRange 4 u (sillSeat t) l.ctx (l.ranges + 64) l.digA = (.ok (), v) →
          exec (.checkRunBEnd t i) s = .next (v.endCheck t i l)))))

/-- Commits of level 2 chunks and decision logs (R149–R154, R160–R162).
What of it the spec leaves open (log entries 47, 51 and 69) is the model's choice. -/
def Obligations.ChunksCommitInTurnAndLogsFill : Prop :=
  (∀ (s : State) (d : Nat) (t : Nat × Nat) (p : Proc), t = SMap.get (0, 0) s.turns d → p = s.proc t.1 →
    (t = (0, 0) →
      (∀ u, s.nextTurn d = (none, u) → exec (.commitTurn d) s = .next u) ∧
      (∀ q u, s.nextTurn d = (some q, u) →
        (q.chunkOver = true → exec (.commitTurn d) s =
          .next ({ u with turns := SMap.put (0, 0) u.turns d (q.pid, 0) }.push (.chunkCommit q.pid))) ∧
        (q.chunkOver = false → exec (.commitTurn d) s = .next (u.turnWaits d)))) ∧
    (t ≠ (0, 0) → t.2 = 1 →
      (p.inTurn = true → exec (.commitTurn d) s = .next (s.turnWaits d)) ∧
      (p.inTurn = false → s.settled = true → exec (.commitTurn d) s = .next (s.turnPasses d p)) ∧
      (p.inTurn = false → s.settled = false → exec (.commitTurn d) s = .next (s.push (.commitTurn d)))) ∧
    (t ≠ (0, 0) → t.2 ≠ 1 →
      (p.chunkOver = true → exec (.commitTurn d) s = .next (s.push (.chunkCommit p.pid))) ∧
      (p.chunkOver = false → p.pid = t.1 → p.takesTurn = true → exec (.commitTurn d) s = .next (s.turnWaits d)) ∧
      (p.chunkOver = false → (p.pid ≠ t.1 ∨ p.takesTurn = false) → exec (.commitTurn d) s = .next (s.turnPasses d p)))) ∧
  (∀ (s : State) (pid d : Nat) (p : Proc), p = s.proc pid → d = s.domainOf p →
    (p.chunk = none → exec (.chunkCommit pid) s = .next s) ∧
    (∀ c, p.chunk = some c →
      ((p.chunkOver = false ∨ SMap.get (0, 0) s.turns d ≠ (pid, 0)) → exec (.chunkCommit pid) s = .next s) ∧
      (p.chunkOver = true → SMap.get (0, 0) s.turns d = (pid, 0) →
        ((c.writes.any (fun e => s.isLocked e.1) || !s.cmdsFit c) = true →
          exec (.chunkCommit pid) s = .next (s.later (.chunkCommit pid))) ∧
        (c.writes.any (fun e => s.isLocked e.1) = false → s.cmdsFit c = true →
          (s.conflicts d c = true → exec (.chunkCommit pid) s = .next ((s.squash pid).kick pid)) ∧
          (s.conflicts d c = false → ∀ u : State, (commitWords s p c).2 = none → u = (commitWords s p c).1 →
            exec (.chunkCommit pid) s = .next ((State.pruneCommits
              { u with commits := u.commits ++ [(d, u.clk, (c.writes.map fun e => e.1 / 64).eraseDups)] } d).publish d p c)))))) ∧
  (∀ (s : State) (c : Byte) (x : Ctxt), s.ctx c = x →
    (x.complete = none → exec (.logUnitWrite c) s = .next s) ∧
    (x.overdue s.clk = none → exec (.logPadTimeout c) s = .next s) ∧
    (∀ u i, (x.complete = some u ∧ i = Instr.logUnitWrite c) ∨ (x.overdue s.clk = some u ∧ i = .logPadTimeout c) →
      (x.logctl.getLsbD 4 = true → exec i s = .next s) ∧
      (x.logctl.getLsbD 4 = false → x.logtail.toNat + 2 ^ field x.logsize 0 5 < x.loghead.toNat + 4 →
        (x.logctl.getLsbD 2 = true → exec i s = .next s) ∧
        (x.logctl.getLsbD 2 = false → exec i s = .next (s.updCtx c fun x =>
          { x with logctl := setField (x.logctl ||| 4) 32 32 (satAdd (field x.logctl 32 32) 1 (2 ^ 32 - 1)) }))) ∧
      (x.logctl.getLsbD 4 = false → x.loghead.toNat + 4 ≤ x.logtail.toNat + 2 ^ field x.logsize 0 5 →
        SMap.wf Ctxt.empty s.ctxs = true →
        ∀ va bs, va = x.logbase + BitVec.ofNat 64 (16 * (x.loghead.toNat % 2 ^ field x.logsize 0 5)) →
          bs = ((x.staged u).take 4 ++ List.replicate (4 - ((x.staged u).take 4).length)
            ({ w0 := BitVec.ofNat 64 (0x3F * 2 ^ 58), w1 := 0 } : LogRec)).flatMap (fun r => natToBytes 8 r.w0.toNat ++ natToBytes 8 r.w1.toNat) →
          (∀ v, writeBeat s (sillSeat 0) c va bs 0 = (.ok (), v) → SMap.wf Ctxt.empty v.ctxs = true → v.ctx c = x →
            ∃ t, exec i s = .next t ∧ (t.ctx c).loghead = x.loghead + 4 ∧ t.mem = v.mem) ∧
          (∀ f v, writeBeat s (sillSeat 0) c va bs 0 = (.error f, v) → f.cause ≠ notYet → exec i s = .next
            ((v.updCtx c fun x => { x with logctl := x.logctl ||| 16 }).faultReport c { f with tval := va }))))) ∧
  (∀ (s : State) (c : Byte) (w : Word) (x : Ctxt), s.ctx c = x →
    (x.logctl.getLsbD 0 = true → exec (.logtailWrite c w) s = .next s) ∧
    (x.logctl.getLsbD 0 = false → exec (.logtailWrite c w) s =
      .next ((s.updCtx c fun k => { k with logtail := w, logctl := k.logctl &&& ~~~4#64 }).moreLog c)) ∧
    ((x.logctl.getLsbD 0 = false ∨ w.toNat < x.loghead.toNat ∨ 2 ^ field x.logsize 0 5 < w.toNat - x.logtail.toNat) →
      exec (.logheadWrite c w) s = .next s) ∧
    (x.logctl.getLsbD 0 = true → x.loghead.toNat ≤ w.toNat → w.toNat - x.logtail.toNat ≤ 2 ^ field x.logsize 0 5 →
      exec (.logheadWrite c w) s = .next (s.updCtx c fun k => { k with loghead := w })) ∧
    (SMap.wf Ctxt.empty s.ctxs = true → ∃ t, exec (.logctlWrite c w) s = .next t ∧
      (x.recording = 0 → (t.ctx c).logctl.getLsbD 0 = w.getLsbD 0 ∧ (t.ctx c).loghead = 0 ∧ (t.ctx c).logtail = 0) ∧
      (x.recording ≠ 0 → (t.ctx c).logctl.getLsbD 0 = x.logctl.getLsbD 0 ∧ (t.ctx c).loghead = x.loghead) ∧ t.mem = s.mem))

/-- The host port (R416–R421) and the management port (R455).
What of it the spec leaves open (log entries 15 and 71) is the model's choice. -/
def Obligations.HostAndManagementAccessesComplete : Prop :=
  (∀ (s : State) (o : Nat) (x : Word) (d : Option Word),
    (s.silent = true → exec (.hostBar0 o d) s = .next s) ∧
    (s.silent = false → o < 0x800000 →
      (s.boot.started = true → o ≠ 0x408 → exec (.hostBar0 o (some x)) s = .next s.hostLost) ∧
      ((s.boot.started = false ∨ d = none ∨ o = 0x408) →
        (o % 8 ≠ 0 → exec (.hostBar0 o d) s = .next ((s.hostDrop 0
          { cause := 0x040, tval := BitVec.ofNat 64 (blockAddr 0 0 o), words := [] }).hostOnes d.isNone)) ∧
        (o % 8 = 0 → s.boot.started = false → (s.desc 0).valid = false → exec (.hostBar0 o d) s = .next ((s.hostDrop 0
          { cause := 0x043, tval := BitVec.ofNat 64 (blockAddr 0 0 o), words := [] }).hostOnes d.isNone)) ∧
        (o % 8 = 0 → (s.boot.started = true ∨ (s.desc 0).valid = true) →
          (d = none → exec (.hostBar0 o d) s =
            .next ((s.readReg (blockAddr 0 0 o)).2.hostSees (s.readReg (blockAddr 0 0 o)).1)) ∧
          (d = some x → exec (.hostBar0 o d) s = exec (.registerWrite (blockAddr 0 0 o) x) s ∧
            ∃ t, exec (.hostBar0 o d) s = .next t)))) ∧
    (s.silent = false → 0x800000 ≤ o →
      ((s.boot.started = true ∨ o % 8 ≠ 0 ∨ (0x800400 ≤ o ∧ o ≠ 0x800800)) →
        exec (.hostBar0 o d) s = .next (s.hostLost.hostOnes d.isNone)) ∧
      (s.boot.started = false → o % 8 = 0 → o < 0x800400 →
        exec (.hostBar0 o none) s = .next (s.hostSees (s.msixWord ((o - 0x800000) / 8))) ∧
        exec (.hostBar0 o (some x)) s = .next (s.writeMsix ((o - 0x800000) / 8) x)) ∧
      (s.boot.started = false → o = 0x800800 → exec (.hostBar0 o none) s = .next (s.hostSees (s.msixWord 128)) ∧
        exec (.hostBar0 o (some x)) s = .next s))) ∧
  (∀ (s : State) (o q y n : Nat) (bs : List Byte) (base : Word), q = o / 0x80000 → y = o % 0x80000 → base = s.reg (lqReg q 0) →
    n = (if bs = [] then 8 else bs.length) →
    (s.silent = true → exec (.hostLaunchWrite o bs) s = .next s) ∧
    (s.silent = false → s.boot.started = true → exec (.hostLaunchWrite o bs) s = .next (s.hostLost.hostOnes bs.isEmpty)) ∧
    (s.silent = false → s.boot.started = false →
      ((s.ingressHeld = true ∨ s.hostBehind = true) → exec (.hostLaunchWrite o bs) s = .next (s.later (.hostLaunchWrite o bs))) ∧
      (s.ingressHeld = false → s.hostBehind = false →
        ((64 ≤ q ∨ s.lqOn q = false ∨ 128 * s.lqN q < y + n) →
          exec (.hostLaunchWrite o bs) s = .next (s.hostLost.hostOnes bs.isEmpty)) ∧
        (q < 64 → s.lqOn q = true → y + n ≤ 128 * s.lqN q →
          (s.slotsLocked (base.toNat % 2 ^ 56 + y) n = true → exec (.hostLaunchWrite o bs) s =
            .next (s.later (.hostLaunchWrite o bs))) ∧
          (s.slotsLocked (base.toNat % 2 ^ 56 + y) n = false →
            (bs ≠ [] → exec (.hostLaunchWrite o bs) s = .next (slotWrites (n + 1) s (s.lqCtx q) base y bs)) ∧
            (∀ xs u, bs = [] → readBeat s hostSeat (s.lqCtx q) (base + BitVec.ofNat 64 y) 8 = (.ok xs, u) →
              exec (.hostLaunchWrite o bs) s = .next (u.hostSees (BitVec.ofNat 64 (bytesToNat xs)))) ∧
            (∀ f u, bs = [] → readBeat s hostSeat (s.lqCtx q) (base + BitVec.ofNat 64 y) 8 = (.error f, u) →
              exec (.hostLaunchWrite o bs) s = .next ((u.hostDrop (s.lqCtx q) f).hostSees (BitVec.allOnes 64)))))))) ∧
  (∀ (s : State) (o n i y : Nat) (d : Option Word) (w : Word) (base : Nat), i = o / 0x200000 → y = o % 0x200000 →
    w = s.reg (blockAddr 0 0x12 (0x100 + 8 * i)) → base = 2 ^ 54 + field w 21 27 * 2 ^ 21 →
    (s.silent = true → exec (.hostAperture o n d) s = .next s) ∧
    (s.silent = false → s.boot.recovery = true →
      (i = 0 → exec (.hostAperture o n d) s = .next (recoveryAccess y n d s)) ∧
      (i ≠ 0 → exec (.hostAperture o n d) s = .next (s.hostLost.hostOnes d.isNone))) ∧
    (s.silent = false → s.boot.recovery = false → s.boot.started = true →
      exec (.hostAperture o n d) s = .next (s.hostLost.hostOnes d.isNone)) ∧
    (s.silent = false → s.boot.recovery = false → s.boot.started = false →
      ((s.ingressHeld = true ∨ s.hostBehind = true) → exec (.hostAperture o n d) s = .next (s.later (.hostAperture o n d))) ∧
      (s.ingressHeld = false → s.hostBehind = false →
        ((16 ≤ i ∨ w.getLsbD 63 = false ∨ partBytes base < y + n) →
          exec (.hostAperture o n d) s = .next (s.hostLost.hostOnes d.isNone)) ∧
        (i < 16 → w.getLsbD 63 = true → y + n ≤ partBytes base →
          (s.isLocked (base + y) = true → exec (.hostAperture o n d) s = .next (s.later (.hostAperture o n d))) ∧
          (s.isLocked (base + y) = false → ∀ c, c = BitVec.ofNat 8 (field (s.reg regHdrop) 32 8) →
            (∀ bs u, d = none → readBeat s hostSeat c (BitVec.ofNat 64 (base + y)) n = (.ok bs, u) →
              exec (.hostAperture o n d) s = .next (u.hostSees (BitVec.ofNat 64 (bytesToNat bs)))) ∧
            (∀ f u, d = none → readBeat s hostSeat c (BitVec.ofNat 64 (base + y)) n = (.error f, u) →
              exec (.hostAperture o n d) s = .next ((u.hostDrop c f).hostSees (BitVec.allOnes 64))) ∧
            (∀ x u, d = some x → writeBeat s hostSeat c (BitVec.ofNat 64 (base + y)) (natToBytes n (x.toNat % 2 ^ (8 * n))) 0 = (.ok (), u) →
              exec (.hostAperture o n d) s = .next u) ∧
            (∀ x f u, d = some x →
              writeBeat s hostSeat c (BitVec.ofNat 64 (base + y)) (natToBytes n (x.toNat % 2 ^ (8 * n))) 0 = (.error f, u) →
              exec (.hostAperture o n d) s = .next (u.hostDrop c f))))))) ∧
  (∀ (s : State) (v : Nat),
    (64 ≤ v → exec (.msixSend v) s = .next s) ∧
    (v < 64 → (s.msixWord (2 * v + 1)).getLsbD 32 = false → exec (.msixSend v) s = .next { s with out := .msix v :: s.out }) ∧
    (v < 64 → (s.msixWord (2 * v + 1)).getLsbD 32 = true →
      exec (.msixSend v) s = .next (s.setMsix 128 (s.msixWord 128 ||| BitVec.ofNat 64 (2 ^ v))))) ∧
  (∀ (s : State) (tag status : Nat) (bs : List Byte),
    (s.hostReads.find? (fun e => decide (e.1 = tag)) = none →
      exec (.hostReadCompletion tag status bs) s = .next s ∧ exec (.hostReadTimeout tag) s = .next s) ∧
    (∀ e, s.hostReads.find? (fun e => decide (e.1 = tag)) = some e →
      exec (.hostReadCompletion tag status bs) s = .next ((s.freeTag tag).hostReadEnds e.2 status bs) ∧
      exec (.hostReadTimeout tag) s = .next ((s.freeTag tag).hostReadEnds e.2 0xFF []))) ∧
  (∀ s : State, (s.regs.map (·.1)).Pairwise (· < ·) →
    ∃ t, exec .hwakeExpire s = .next t ∧ t.reg (blockAddr 0 0 0x320) = 0 ∧
      (∀ a, a ≠ blockAddr 0 0 0x320 → t.reg a = s.reg a) ∧ t.mem = s.mem ∧ t.cur = s.cur) ∧
  (∀ (s : State) (o : Nat) (x : Word),
    (s.boot.powered = false → exec (.blockRead o) s = .next s ∧ exec (.blockWrite o x) s = .next s) ∧
    (s.boot.powered = true →
      ((o % 8 ≠ 0 ∨ 65536 ≤ o ∨ (s.boot.recovery = true ∧ o ≠ 0x400)) → exec (.blockRead o) s = .next { s with out := .nack :: s.out }) ∧
      (o % 8 = 0 → o < 65536 → (s.boot.recovery = false ∨ o = 0x400) → ∀ r, r = s.readReg (blockAddr 0 0 o) →
        exec (.blockRead o) s = .next { r.2 with out := .mgmt r.1 :: r.2.out }) ∧
      ((o % 8 ≠ 0 ∨ o < 0x4A0 ∨ 0x4D8 ≤ o) → exec (.blockWrite o x) s = .next { s with out := .nack :: s.out }) ∧
      (o % 8 = 0 → 0x4A0 ≤ o → o < 0x4D8 → ∃ t, exec (.blockWrite o x) s = .next t ∧ t.mem = s.mem ∧ t.cur = s.cur ∧
        (∀ a, a < blockAddr 0 0 0x4A0 ∨ blockAddr 0 0 0x4D8 ≤ a → t.reg a = s.reg a))))

/-- Boot, restart, recovery, attestation, clock plans, power and temperature (R447–R454).
What of it the spec leaves open (log entries 4, 6 and 7) is the model's choice. -/
def Obligations.StartsRunThroughTheirStages : Prop :=
  (∀ (s : State) (b : Boot) (kept : SMap Word), ∃ t, t = s.beginStart b kept ∧ t.boot.stage = 0 ∧ t.boot.fails = b.fails + 1 ∧
    t.boot.minimal = decide (3 ≤ b.fails) ∧ t.boot.started = true ∧ t.boot.powered = true ∧ t.boot.recovery = false ∧ t.boot.trip = false ∧
    t.agenda = [.bootStage .ok] ∧ t.mem = [] ∧ t.board = s.board) ∧
  (∀ s : State,
    (s.boot.powered = true → exec .powerOn s = .next s) ∧
    (s.boot.powered = false → exec .powerOn s = .next (s.beginStart s.boot []) ∧ exec .lossOfPower s = .next s ∧
      exec .reset s = .next s ∧ exec .thermalTrip s = .next s ∧ (∀ r, exec (.bootStage r) s = .next s) ∧ exec .bootWatchdog s = .next s) ∧
    (s.boot.powered = true →
      (∃ t, exec .lossOfPower s = .next t ∧ t.boot.powered = false ∧ t.agenda = [] ∧ t.timers = [] ∧ t.mem = [] ∧ t.regs = [] ∧
        t.boot.fails = s.boot.fails ∧ t.board = s.board) ∧
      (s.boot.trip = false → exec .reset s = .next (s.beginStart (s.ended 0) (darkRegs s)) ∧
        (∃ t, exec .thermalTrip s = .next t ∧ t.boot.trip = true ∧ t.agenda = [] ∧ t.timers = [] ∧ t.mem = [] ∧ t.board = s.board ∧
          t.boot.fails = s.boot.fails ∧ t.regs = darkRegs s)) ∧
      (s.boot.trip = true → exec .reset s = .next s ∧ exec .thermalTrip s = .next s)) ∧
    (s.boot.trip = true → exec .tripRelease s = .next (s.beginStart s.boot (darkRegs s))) ∧
    (s.boot.trip = false → exec .tripRelease s = .next s)) ∧
  (∀ s : State,
    ((s.boot.started = false ∨ s.boot.recovery = true ∨ s.boot.trip = true) →
      (∀ r, exec (.bootStage r) s = .next s) ∧ exec .bootWatchdog s = .next s) ∧
    (s.boot.started = true → s.boot.recovery = false → s.boot.trip = false → s.boot.powered = true →
      exec .bootWatchdog s = .next (s.failStart 5) ∧
      (∀ k, s.boot.stage = 0 → s.boot.minimal = true → (k = 1 ∨ k = 2) → ∃ t, exec (.bootStage (.fail k)) s = .next t ∧
        t.boot.recovery = true ∧ t.boot.reason = k ∧ t.mem = s.mem) ∧
      (∀ k, (s.boot.stage ≠ 0 ∨ s.boot.minimal = false ∨ (k ≠ 1 ∧ k ≠ 2)) → exec (.bootStage (.fail k)) s = .next (s.failStart k)) ∧
      (s.boot.stage = 0 → ∃ t, exec (.bootStage .ok) s = .next t ∧ t.boot.stage = 1) ∧
      (s.boot.stage = 1 → ∃ t, exec (.bootStage .ok) s = .next t ∧ t.boot.stage = 2) ∧
      (s.boot.stage = 2 →
        (planError s.bootPlan s.board.cls = 0 → ∃ t, exec (.bootStage .ok) s = .next t ∧ t.boot.stage = 3 ∧ t.boot.plan = s.bootPlan ∧
          ∀ i < 8, t.role (i / 4) (i % 4) = planRole s.bootPlan i) ∧
        (planError s.bootPlan s.board.cls ≠ 0 → ∃ t, exec (.bootStage .ok) s = .next t ∧ t.boot.stage = 0 ∧ t.boot.reason = 6 ∧
          t.boot.fails = s.boot.fails + 1)) ∧
      (3 ≤ s.boot.stage → ∃ t, exec (.bootStage .ok) s = .next t ∧ t.boot.stage = 4 ∧ t.boot.started = false ∧ t.boot.fails = 0 ∧
        t.mem = s.mem ∧ t.agenda = s.agenda)) ∧
    ((s.boot.recovery = false → ∀ v, exec (.recgo v) s = .next s) ∧ exec (.recgo false) s = .next s ∧
      (s.boot.recovery = true → ∃ t, exec (.recgo true) s = .next t ∧ t.boot.recovery = false ∧ t.boot.fails = s.boot.fails + 1 ∧
        t.boot.stage = 0))) ∧
  (∀ (s : State) (cls : Nat), cls = planClass (s.reg regPartplan) →
    (s.phase ≠ 0 → exec .calc s = .next (s.calcResult 2 0)) ∧
    (s.phase = 0 → s.bands.any (fun b => decide (b.2 < b.1)) = true → exec .calc s = .next (s.calcResult 3 0)) ∧
    (s.phase = 0 → s.bands.any (fun b => decide (b.2 < b.1)) = false →
      ((cls = 0 ∨ cls = 3) → ∃ t u, exec .calc s = .next t ∧ s.freeWord.2 = u ∧ t.regs = ((u.calcResult 0 0).setReg regClknext
        (setField (setField s.freeWord.1 60 2 cls) 62 2 0)).regs) ∧
      (cls = 1 ∨ cls = 2 →
        (∀ k, planSteps s.bands cls 0 5 = .error k → exec .calc s = .next (s.calcResult 1 k)) ∧
        (∀ fs, planSteps s.bands cls 0 5 = .ok fs → exec .calc s = .next ((s.calcResult 0 0).setReg regClknext (BitVec.ofNat 64
          (cls * 2 ^ 60 + ((fs.zipIdx).map fun e => e.1 * 2 ^ (12 * e.2)).foldl (· + ·) 0))))))) ∧
  (∀ (bands : List (Nat × Nat)) (cls k : Nat) (fs : List Nat), planSteps bands cls 0 5 = .ok fs → k < 5 →
    fs.length = 5 ∧ fs.getD k 0 ≤ nominalStep cls k ∧ 96 * nominalStep cls k ≤ 100 * fs.getD k 0 ∧
    hitsBand bands (fs.getD k 0) = false) ∧
  (∀ s : State,
    ((s.reg regAttctl).getLsbD 1 = true → exec .attctlGo s = .next (s.setRegBit regAttctl 2) ∧
      ∃ t, exec .attestDone s = .next t ∧ t.mem = s.mem ∧ t.cur = s.cur ∧ t.agenda = s.agenda ∧
        ((s.regs.map (·.1)).Pairwise (· < ·) → (t.reg regAttctl).getLsbD 1 = false ∧
          t.reg (blockAddr 0 0 0x800) = 0x000000014C394154)) ∧
    ((s.reg regAttctl).getLsbD 1 = false → exec .attestDone s = .next s ∧
      exec .attctlGo s = .next ((s.setRegBit regAttctl 1).push .attestDone))) ∧
  (∀ (s : State) (w : Nat), ∃ t, exec (.powerCapStep w) s = .next t ∧ t.watts = w ∧ t.mem = s.mem ∧ t.cur = s.cur ∧ t.regs = s.regs ∧
    t.pwrStep = if s.boot.minimal then s.pwrStep else if s.powerCap < w then min 4 (s.pwrStep + 1)
      else if 100 * w < 95 * s.powerCap then s.pwrStep - 1 else s.pwrStep)
end

