-- ==== Sys2Proof/Laws/Memory.lean ====
section
/-! SUPPORT. Sparse maps and memory: a write keeps the canonical form, is read back, and leaves every other key alone. -/

namespace Sys2Proof.Machine

/-! ### Sparse maps -/

theorem SMap.get_put_ne {α : Type} [DecidableEq α] {d : α} {k j : Nat} (h : j ≠ k) (m : SMap α) (v : α) :
    SMap.get d (SMap.put d m k v) j = SMap.get d m j := by
  induction m with
  | nil => simp only [SMap.put]; split <;> simp [SMap.get, h]
  | cons e r ih =>
    obtain ⟨i, w⟩ := e
    simp only [SMap.put]
    split
    · split <;> simp [SMap.get, h]
    · split
      · subst i; split <;> simp [SMap.get, h]
      · simp only [SMap.get]; rw [ih]

theorem SMap.wf_tail {α : Type} [DecidableEq α] {d : α} {e : Nat × α} {r : SMap α} (h : SMap.wf d (e :: r) = true) :
    SMap.wf d r = true := by
  obtain ⟨i, w⟩ := e
  simp only [SMap.wf, Bool.and_eq_true] at h
  exact h.2

theorem SMap.get_below {α : Type} [DecidableEq α] {d : α} (m : SMap α) {k : Nat} (h : SMap.wf d m = true)
    (ha : SMap.above k m = true) : SMap.get d m k = d := by
  induction m with
  | nil => rfl
  | cons e r ih =>
    obtain ⟨i, w⟩ := e
    simp only [SMap.wf, Bool.and_eq_true, SMap.above, decide_eq_true_eq] at h ha
    have : k ≠ i := by omega
    simp only [SMap.get, if_neg this]
    apply ih h.2
    cases r with
    | nil => rfl
    | cons e' r' => obtain ⟨i', w'⟩ := e'; simp only [SMap.above, decide_eq_true_eq] at h ⊢; omega

theorem SMap.get_put_self {α : Type} [DecidableEq α] {d : α} (m : SMap α) (k : Nat) (v : α) (h : SMap.wf d m = true) :
    SMap.get d (SMap.put d m k v) k = v := by
  induction m with
  | nil => simp only [SMap.put]; split <;> simp_all [SMap.get]
  | cons e r ih =>
    obtain ⟨i, w⟩ := e
    simp only [SMap.put]
    split
    · rename_i hk
      split
      · rename_i hv
        rw [SMap.get_below _ h (by simpa [SMap.above] using hk), hv]
      · simp [SMap.get]
    · split
      · subst i
        split
        · rename_i hv
          simp only [SMap.wf, Bool.and_eq_true] at h
          rw [SMap.get_below _ h.2 h.1.2, hv]
        · simp [SMap.get]
      · rename_i h2
        simp only [SMap.get, if_neg h2]
        exact ih (SMap.wf_tail h)

theorem SMap.above_put {α : Type} [DecidableEq α] {d : α} (m : SMap α) {i k : Nat} (v : α) (hi : i < k)
    (ha : SMap.above i m = true) (h : SMap.wf d m = true) : SMap.above i (SMap.put d m k v) = true := by
  cases m with
  | nil => simp only [SMap.put]; split <;> simp [SMap.above, hi]
  | cons e r =>
    obtain ⟨j, w⟩ := e
    simp only [SMap.above, decide_eq_true_eq] at ha
    simp only [SMap.put]
    split
    · split <;> simp [SMap.above, hi, ha]
    · split
      · subst j
        split
        · simp only [SMap.wf, Bool.and_eq_true] at h
          cases r with
          | nil => rfl
          | cons e' r' =>
            obtain ⟨i', w'⟩ := e'
            simp only [SMap.above, decide_eq_true_eq] at h ⊢; omega
        · simp [SMap.above, hi]
      · simp [SMap.above, ha]

/-- A write keeps the canonical form. -/
theorem SMap.wf_put {α : Type} [DecidableEq α] {d : α} (m : SMap α) (k : Nat) (v : α) (h : SMap.wf d m = true) :
    SMap.wf d (SMap.put d m k v) = true := by
  induction m with
  | nil => simp only [SMap.put]; split <;> simp_all [SMap.wf, SMap.above]
  | cons e r ih =>
    obtain ⟨i, w⟩ := e
    have ht := SMap.wf_tail h
    simp only [SMap.put]
    split
    · rename_i hk
      split
      · exact h
      · rename_i hv; simp [SMap.wf, SMap.above, hv, hk] at h ⊢; exact h
    · split
      · subst i
        split
        · exact ht
        · rename_i hv; simp only [SMap.wf, Bool.and_eq_true, decide_eq_true_eq] at h ⊢; exact ⟨⟨hv, h.1.2⟩, h.2⟩
      · simp only [SMap.wf, Bool.and_eq_true, decide_eq_true_eq] at h ⊢
        refine ⟨⟨h.1.1, ?_⟩, ih ht⟩
        exact SMap.above_put r v (by omega) h.1.2 ht

/-! ### Bytes -/

theorem byteAt_putByte_self (m : List Host.Cell) (a : Nat) (x : Byte) (h : Memory.wf m = true) :
    byteAt (putByte m a x) a = x := SMap.get_put_self m a x h

theorem byteAt_putByte_ne {a b : Nat} (m : List Host.Cell) (x : Byte) (h : b ≠ a) :
    byteAt (putByte m a x) b = byteAt m b := SMap.get_put_ne h m x

theorem Memory.wf_putByte (m : List Host.Cell) (a : Nat) (x : Byte) (h : Memory.wf m = true) :
    Memory.wf (putByte m a x) = true := SMap.wf_put m a x h

theorem Memory.wf_putBytes (bs : List Byte) (m : List Host.Cell) (a : Nat) (h : Memory.wf m = true) :
    Memory.wf (putBytes m a bs) = true := by
  induction bs generalizing m a with
  | nil => exact h
  | cons b r ih => exact ih _ _ (Memory.wf_putByte m a b h)

theorem Memory.wf_writeNat (m : List Host.Cell) (a n x : Nat) (h : Memory.wf m = true) :
    Memory.wf (writeNat m a n x) = true := Memory.wf_putBytes _ m a h

theorem Memory.wf_writeWord (m : List Host.Cell) (a : Nat) (x : Word) (h : Memory.wf m = true) :
    Memory.wf (writeWord m a x) = true := Memory.wf_putBytes _ m a h

/-- Bytes outside a write read as before. -/
theorem byteAt_putBytes_out (bs : List Byte) (m : List Host.Cell) (a b : Nat) (h : b < a ∨ a + bs.length ≤ b) :
    byteAt (putBytes m a bs) b = byteAt m b := by
  induction bs generalizing m a with
  | nil => rfl
  | cons x r ih =>
    simp only [List.length_cons] at h
    rw [putBytes, ih _ _ (by omega), byteAt_putByte_ne _ _ (by omega)]

/-- The i-th byte of a write reads back. -/
theorem byteAt_putBytes_in (bs : List Byte) (m : List Host.Cell) (a i : Nat) (hm : Memory.wf m = true) (h : i < bs.length) :
    byteAt (putBytes m a bs) (a + i) = bs[i] := by
  induction bs generalizing m a i with
  | nil => simp at h
  | cons x r ih =>
    cases i with
    | zero =>
      rw [putBytes, byteAt_putBytes_out _ _ _ _ (by omega)]
      exact byteAt_putByte_self m a x hm
    | succ j =>
      have := ih (putByte m a x) (a + 1) j (Memory.wf_putByte m a x hm) (by simpa using h)
      rw [putBytes, show a + (j + 1) = a + 1 + j by omega, this]
      rfl

/-- What was written is read back. -/
theorem bytesAt_putBytes (bs : List Byte) (m : List Host.Cell) (a : Nat) (hm : Memory.wf m = true) :
    bytesAt (putBytes m a bs) a bs.length = bs := by
  apply List.ext_getElem
  · simp [bytesAt]
  · intro i h1 h2
    simp only [bytesAt, List.getElem_map, List.getElem_range]
    exact byteAt_putBytes_in bs m a i hm h2

@[simp] theorem natToBytes_length (n x : Nat) : (natToBytes n x).length = n := by
  induction n generalizing x with
  | zero => rfl
  | succ k ih => simp [natToBytes, ih]

theorem bytesToNat_natToBytes (n x : Nat) : bytesToNat (natToBytes n x) = x % 256 ^ n := by
  induction n generalizing x with
  | zero => simp [natToBytes, bytesToNat, Nat.mod_one]
  | succ k ih =>
    simp only [natToBytes, bytesToNat, ih, BitVec.toNat_ofNat]
    rw [Nat.pow_succ 256 k, Nat.mul_comm (256 ^ k) 256, Nat.mod_mul]

theorem readNat_writeNat (m : List Host.Cell) (a n x : Nat) (hm : Memory.wf m = true) :
    readNat (writeNat m a n x) a n = x % 256 ^ n := by
  have := bytesAt_putBytes (natToBytes n x) m a hm
  rw [natToBytes_length] at this
  rw [readNat, writeNat, this, bytesToNat_natToBytes]

/-- An 8-byte word reads back as it was written. -/
theorem readWord_writeWord (m : List Host.Cell) (a : Nat) (x : Word) (hm : Memory.wf m = true) :
    readWord (writeWord m a x) a = x := by
  apply BitVec.eq_of_toNat_eq
  rw [readWord, writeWord, readNat_writeNat _ _ _ _ hm]
  have := x.isLt
  simp only [BitVec.toNat_ofNat]
  omega

theorem readNat_writeNat_out (m : List Host.Cell) (a n x b k : Nat) (h : b + k ≤ a ∨ a + n ≤ b) :
    readNat (writeNat m a n x) b k = readNat m b k := by
  simp only [readNat, writeNat, bytesAt]
  congr 1
  apply List.map_congr_left
  intro i hi
  rw [List.mem_range] at hi
  apply byteAt_putBytes_out
  rw [natToBytes_length]
  omega

/-- A word apart from the one written reads as before. -/
theorem readWord_writeWord_out (m : List Host.Cell) (a b : Nat) (x : Word) (h : b + 8 ≤ a ∨ a + 8 ≤ b) :
    readWord (writeWord m a x) b = readWord m b := by
  rw [readWord, writeWord, readNat_writeNat_out _ _ _ _ _ _ h, readWord]

theorem State.peek_poke (s : State) (a : Nat) (x : Word) (h : Memory.wf s.mem = true) : (s.poke a x).peek a = x :=
  readWord_writeWord s.mem a x h

theorem State.peek_poke_out (s : State) (a b : Nat) (x : Word) (h : b + 8 ≤ a ∨ a + 8 ≤ b) :
    (s.poke a x).peek b = s.peek b := readWord_writeWord_out s.mem a b x h

theorem State.wf_poke (s : State) (a : Nat) (x : Word) (h : Memory.wf s.mem = true) : Memory.wf (s.poke a x).mem = true :=
  Memory.wf_writeWord s.mem a x h

theorem State.wf_pokeBytes (s : State) (a : Nat) (bs : List Byte) (h : Memory.wf s.mem = true) :
    Memory.wf (s.pokeBytes a bs).mem = true := Memory.wf_putBytes bs s.mem a h

end Sys2Proof.Machine
end

