-- ==== Sys2Proof/Laws/State.lean ====
section
/-! SUPPORT. What each field of the state is after each of the common updates: one lemma for each field of each update. -/

namespace Sys2Proof.Machine

/-! ### `setG` -/

@[simp] theorem State.setG_cur (s : State) (r : Reg) (x : Word) : (s.setG r x).cur = s.cur.setG r x := rfl
@[simp] theorem State.setG_ir (s : State) (r : Reg) (x : Word) : (s.setG r x).ir = s.ir := rfl
@[simp] theorem State.setG_pre (s : State) (r : Reg) (x : Word) : (s.setG r x).pre = s.pre := rfl
@[simp] theorem State.setG_xfer (s : State) (r : Reg) (x : Word) : (s.setG r x).xfer = s.xfer := rfl
@[simp] theorem State.setG_aflags (s : State) (r : Reg) (x : Word) : (s.setG r x).aflags = s.aflags := rfl
@[simp] theorem State.setG_curX (s : State) (r : Reg) (x : Word) : (s.setG r x).curX = s.curX := rfl
@[simp] theorem State.setG_procs (s : State) (r : Reg) (x : Word) : (s.setG r x).procs = s.procs := rfl
@[simp] theorem State.setG_cores (s : State) (r : Reg) (x : Word) : (s.setG r x).cores = s.cores := rfl
@[simp] theorem State.setG_lastCore (s : State) (r : Reg) (x : Word) : (s.setG r x).lastCore = s.lastCore := rfl
@[simp] theorem State.setG_barriers (s : State) (r : Reg) (x : Word) : (s.setG r x).barriers = s.barriers := rfl
@[simp] theorem State.setG_helpers (s : State) (r : Reg) (x : Word) : (s.setG r x).helpers = s.helpers := rfl
@[simp] theorem State.setG_hstore (s : State) (r : Reg) (x : Word) : (s.setG r x).hstore = s.hstore := rfl
@[simp] theorem State.setG_streams (s : State) (r : Reg) (x : Word) : (s.setG r x).streams = s.streams := rfl
@[simp] theorem State.setG_mem (s : State) (r : Reg) (x : Word) : (s.setG r x).mem = s.mem := rfl
@[simp] theorem State.setG_side (s : State) (r : Reg) (x : Word) : (s.setG r x).side = s.side := rfl
@[simp] theorem State.setG_poison (s : State) (r : Reg) (x : Word) : (s.setG r x).poison = s.poison := rfl
@[simp] theorem State.setG_badRead (s : State) (r : Reg) (x : Word) : (s.setG r x).badRead = s.badRead := rfl
@[simp] theorem State.setG_corrected (s : State) (r : Reg) (x : Word) : (s.setG r x).corrected = s.corrected := rfl
@[simp] theorem State.setG_parity (s : State) (r : Reg) (x : Word) : (s.setG r x).parity = s.parity := rfl
@[simp] theorem State.setG_waiters (s : State) (r : Reg) (x : Word) : (s.setG r x).waiters = s.waiters := rfl
@[simp] theorem State.setG_rels (s : State) (r : Reg) (x : Word) : (s.setG r x).rels = s.rels := rfl
@[simp] theorem State.setG_widens (s : State) (r : Reg) (x : Word) : (s.setG r x).widens = s.widens := rfl
@[simp] theorem State.setG_locks (s : State) (r : Reg) (x : Word) : (s.setG r x).locks = s.locks := rfl
@[simp] theorem State.setG_regs (s : State) (r : Reg) (x : Word) : (s.setG r x).regs = s.regs := rfl
@[simp] theorem State.setG_descs (s : State) (r : Reg) (x : Word) : (s.setG r x).descs = s.descs := rfl
@[simp] theorem State.setG_tlb (s : State) (r : Reg) (x : Word) : (s.setG r x).tlb = s.tlb := rfl
@[simp] theorem State.setG_upper (s : State) (r : Reg) (x : Word) : (s.setG r x).upper = s.upper := rfl
@[simp] theorem State.setG_walks (s : State) (r : Reg) (x : Word) : (s.setG r x).walks = s.walks := rfl
@[simp] theorem State.setG_walkQ (s : State) (r : Reg) (x : Word) : (s.setG r x).walkQ = s.walkQ := rfl
@[simp] theorem State.setG_walkWait (s : State) (r : Reg) (x : Word) : (s.setG r x).walkWait = s.walkWait := rfl
@[simp] theorem State.setG_benches (s : State) (r : Reg) (x : Word) : (s.setG r x).benches = s.benches := rfl
@[simp] theorem State.setG_acc (s : State) (r : Reg) (x : Word) : (s.setG r x).acc = s.acc := rfl
@[simp] theorem State.setG_matq (s : State) (r : Reg) (x : Word) : (s.setG r x).matq = s.matq := rfl
@[simp] theorem State.setG_engines (s : State) (r : Reg) (x : Word) : (s.setG r x).engines = s.engines := rfl
@[simp] theorem State.setG_chanq (s : State) (r : Reg) (x : Word) : (s.setG r x).chanq = s.chanq := rfl
@[simp] theorem State.setG_selq (s : State) (r : Reg) (x : Word) : (s.setG r x).selq = s.selq := rfl
@[simp] theorem State.setG_epHeld (s : State) (r : Reg) (x : Word) : (s.setG r x).epHeld = s.epHeld := rfl
@[simp] theorem State.setG_elems (s : State) (r : Reg) (x : Word) : (s.setG r x).elems = s.elems := rfl
@[simp] theorem State.setG_tiles (s : State) (r : Reg) (x : Word) : (s.setG r x).tiles = s.tiles := rfl
@[simp] theorem State.setG_ctxs (s : State) (r : Reg) (x : Word) : (s.setG r x).ctxs = s.ctxs := rfl
@[simp] theorem State.setG_launches (s : State) (r : Reg) (x : Word) : (s.setG r x).launches = s.launches := rfl
@[simp] theorem State.setG_lqs (s : State) (r : Reg) (x : Word) : (s.setG r x).lqs = s.lqs := rfl
@[simp] theorem State.setG_lastQ (s : State) (r : Reg) (x : Word) : (s.setG r x).lastQ = s.lastQ := rfl
@[simp] theorem State.setG_commitAt (s : State) (r : Reg) (x : Word) : (s.setG r x).commitAt = s.commitAt := rfl
@[simp] theorem State.setG_turns (s : State) (r : Reg) (x : Word) : (s.setG r x).turns = s.turns := rfl
@[simp] theorem State.setG_commits (s : State) (r : Reg) (x : Word) : (s.setG r x).commits = s.commits := rfl
@[simp] theorem State.setG_msStore (s : State) (r : Reg) (x : Word) : (s.setG r x).msStore = s.msStore := rfl
@[simp] theorem State.setG_eth (s : State) (r : Reg) (x : Word) : (s.setG r x).eth = s.eth := rfl
@[simp] theorem State.setG_links (s : State) (r : Reg) (x : Word) : (s.setG r x).links = s.links := rfl
@[simp] theorem State.setG_eseqTx (s : State) (r : Reg) (x : Word) : (s.setG r x).eseqTx = s.eseqTx := rfl
@[simp] theorem State.setG_eseqRx (s : State) (r : Reg) (x : Word) : (s.setG r x).eseqRx = s.eseqRx := rfl
@[simp] theorem State.setG_heldFlits (s : State) (r : Reg) (x : Word) : (s.setG r x).heldFlits = s.heldFlits := rfl
@[simp] theorem State.setG_resent (s : State) (r : Reg) (x : Word) : (s.setG r x).resent = s.resent := rfl
@[simp] theorem State.setG_reorder (s : State) (r : Reg) (x : Word) : (s.setG r x).reorder = s.reorder := rfl
@[simp] theorem State.setG_tileIn (s : State) (r : Reg) (x : Word) : (s.setG r x).tileIn = s.tileIn := rfl
@[simp] theorem State.setG_peers (s : State) (r : Reg) (x : Word) : (s.setG r x).peers = s.peers := rfl
@[simp] theorem State.setG_peerOps (s : State) (r : Reg) (x : Word) : (s.setG r x).peerOps = s.peerOps := rfl
@[simp] theorem State.setG_peerCalls (s : State) (r : Reg) (x : Word) : (s.setG r x).peerCalls = s.peerCalls := rfl
@[simp] theorem State.setG_frozenNodes (s : State) (r : Reg) (x : Word) : (s.setG r x).frozenNodes = s.frozenNodes := rfl
@[simp] theorem State.setG_refusals (s : State) (r : Reg) (x : Word) : (s.setG r x).refusals = s.refusals := rfl
@[simp] theorem State.setG_hostReads (s : State) (r : Reg) (x : Word) : (s.setG r x).hostReads = s.hostReads := rfl
@[simp] theorem State.setG_hostGot (s : State) (r : Reg) (x : Word) : (s.setG r x).hostGot = s.hostGot := rfl
@[simp] theorem State.setG_msix (s : State) (r : Reg) (x : Word) : (s.setG r x).msix = s.msix := rfl
@[simp] theorem State.setG_posts (s : State) (r : Reg) (x : Word) : (s.setG r x).posts = s.posts := rfl
@[simp] theorem State.setG_anns (s : State) (r : Reg) (x : Word) : (s.setG r x).anns = s.anns := rfl
@[simp] theorem State.setG_postNum (s : State) (r : Reg) (x : Word) : (s.setG r x).postNum = s.postNum := rfl
@[simp] theorem State.setG_colls (s : State) (r : Reg) (x : Word) : (s.setG r x).colls = s.colls := rfl
@[simp] theorem State.setG_chunkBufs (s : State) (r : Reg) (x : Word) : (s.setG r x).chunkBufs = s.chunkBufs := rfl
@[simp] theorem State.setG_lastCid (s : State) (r : Reg) (x : Word) : (s.setG r x).lastCid = s.lastCid := rfl
@[simp] theorem State.setG_truss (s : State) (r : Reg) (x : Word) : (s.setG r x).truss = s.truss := rfl
@[simp] theorem State.setG_fabric (s : State) (r : Reg) (x : Word) : (s.setG r x).fabric = s.fabric := rfl
@[simp] theorem State.setG_roles (s : State) (r : Reg) (x : Word) : (s.setG r x).roles = s.roles := rfl
@[simp] theorem State.setG_dropped (s : State) (r : Reg) (x : Word) : (s.setG r x).dropped = s.dropped := rfl
@[simp] theorem State.setG_temps (s : State) (r : Reg) (x : Word) : (s.setG r x).temps = s.temps := rfl
@[simp] theorem State.setG_thermAt (s : State) (r : Reg) (x : Word) : (s.setG r x).thermAt = s.thermAt := rfl
@[simp] theorem State.setG_pwrStep (s : State) (r : Reg) (x : Word) : (s.setG r x).pwrStep = s.pwrStep := rfl
@[simp] theorem State.setG_watts (s : State) (r : Reg) (x : Word) : (s.setG r x).watts = s.watts := rfl
@[simp] theorem State.setG_boot (s : State) (r : Reg) (x : Word) : (s.setG r x).boot = s.boot := rfl
@[simp] theorem State.setG_board (s : State) (r : Reg) (x : Word) : (s.setG r x).board = s.board := rfl
@[simp] theorem State.setG_agenda (s : State) (r : Reg) (x : Word) : (s.setG r x).agenda = s.agenda := rfl
@[simp] theorem State.setG_blocked (s : State) (r : Reg) (x : Word) : (s.setG r x).blocked = s.blocked := rfl
@[simp] theorem State.setG_timers (s : State) (r : Reg) (x : Word) : (s.setG r x).timers = s.timers := rfl
@[simp] theorem State.setG_sched (s : State) (r : Reg) (x : Word) : (s.setG r x).sched = s.sched := rfl
@[simp] theorem State.setG_clk (s : State) (r : Reg) (x : Word) : (s.setG r x).clk = s.clk := rfl
@[simp] theorem State.setG_accs (s : State) (r : Reg) (x : Word) : (s.setG r x).accs = s.accs := rfl
@[simp] theorem State.setG_fresh (s : State) (r : Reg) (x : Word) : (s.setG r x).fresh = s.fresh := rfl
@[simp] theorem State.setG_cause (s : State) (r : Reg) (x : Word) : (s.setG r x).cause = s.cause := rfl
@[simp] theorem State.setG_quiet (s : State) (r : Reg) (x : Word) : (s.setG r x).quiet = s.quiet := rfl
@[simp] theorem State.setG_out (s : State) (r : Reg) (x : Word) : (s.setG r x).out = s.out := rfl

/-! ### `updCur` -/

@[simp] theorem State.updCur_cur (s : State) (f : Proc → Proc) : (s.updCur f).cur = f s.cur := rfl
@[simp] theorem State.updCur_ir (s : State) (f : Proc → Proc) : (s.updCur f).ir = s.ir := rfl
@[simp] theorem State.updCur_pre (s : State) (f : Proc → Proc) : (s.updCur f).pre = s.pre := rfl
@[simp] theorem State.updCur_xfer (s : State) (f : Proc → Proc) : (s.updCur f).xfer = s.xfer := rfl
@[simp] theorem State.updCur_aflags (s : State) (f : Proc → Proc) : (s.updCur f).aflags = s.aflags := rfl
@[simp] theorem State.updCur_curX (s : State) (f : Proc → Proc) : (s.updCur f).curX = s.curX := rfl
@[simp] theorem State.updCur_procs (s : State) (f : Proc → Proc) : (s.updCur f).procs = s.procs := rfl
@[simp] theorem State.updCur_cores (s : State) (f : Proc → Proc) : (s.updCur f).cores = s.cores := rfl
@[simp] theorem State.updCur_lastCore (s : State) (f : Proc → Proc) : (s.updCur f).lastCore = s.lastCore := rfl
@[simp] theorem State.updCur_barriers (s : State) (f : Proc → Proc) : (s.updCur f).barriers = s.barriers := rfl
@[simp] theorem State.updCur_helpers (s : State) (f : Proc → Proc) : (s.updCur f).helpers = s.helpers := rfl
@[simp] theorem State.updCur_hstore (s : State) (f : Proc → Proc) : (s.updCur f).hstore = s.hstore := rfl
@[simp] theorem State.updCur_streams (s : State) (f : Proc → Proc) : (s.updCur f).streams = s.streams := rfl
@[simp] theorem State.updCur_mem (s : State) (f : Proc → Proc) : (s.updCur f).mem = s.mem := rfl
@[simp] theorem State.updCur_side (s : State) (f : Proc → Proc) : (s.updCur f).side = s.side := rfl
@[simp] theorem State.updCur_poison (s : State) (f : Proc → Proc) : (s.updCur f).poison = s.poison := rfl
@[simp] theorem State.updCur_badRead (s : State) (f : Proc → Proc) : (s.updCur f).badRead = s.badRead := rfl
@[simp] theorem State.updCur_corrected (s : State) (f : Proc → Proc) : (s.updCur f).corrected = s.corrected := rfl
@[simp] theorem State.updCur_parity (s : State) (f : Proc → Proc) : (s.updCur f).parity = s.parity := rfl
@[simp] theorem State.updCur_waiters (s : State) (f : Proc → Proc) : (s.updCur f).waiters = s.waiters := rfl
@[simp] theorem State.updCur_rels (s : State) (f : Proc → Proc) : (s.updCur f).rels = s.rels := rfl
@[simp] theorem State.updCur_widens (s : State) (f : Proc → Proc) : (s.updCur f).widens = s.widens := rfl
@[simp] theorem State.updCur_locks (s : State) (f : Proc → Proc) : (s.updCur f).locks = s.locks := rfl
@[simp] theorem State.updCur_regs (s : State) (f : Proc → Proc) : (s.updCur f).regs = s.regs := rfl
@[simp] theorem State.updCur_descs (s : State) (f : Proc → Proc) : (s.updCur f).descs = s.descs := rfl
@[simp] theorem State.updCur_tlb (s : State) (f : Proc → Proc) : (s.updCur f).tlb = s.tlb := rfl
@[simp] theorem State.updCur_upper (s : State) (f : Proc → Proc) : (s.updCur f).upper = s.upper := rfl
@[simp] theorem State.updCur_walks (s : State) (f : Proc → Proc) : (s.updCur f).walks = s.walks := rfl
@[simp] theorem State.updCur_walkQ (s : State) (f : Proc → Proc) : (s.updCur f).walkQ = s.walkQ := rfl
@[simp] theorem State.updCur_walkWait (s : State) (f : Proc → Proc) : (s.updCur f).walkWait = s.walkWait := rfl
@[simp] theorem State.updCur_benches (s : State) (f : Proc → Proc) : (s.updCur f).benches = s.benches := rfl
@[simp] theorem State.updCur_acc (s : State) (f : Proc → Proc) : (s.updCur f).acc = s.acc := rfl
@[simp] theorem State.updCur_matq (s : State) (f : Proc → Proc) : (s.updCur f).matq = s.matq := rfl
@[simp] theorem State.updCur_engines (s : State) (f : Proc → Proc) : (s.updCur f).engines = s.engines := rfl
@[simp] theorem State.updCur_chanq (s : State) (f : Proc → Proc) : (s.updCur f).chanq = s.chanq := rfl
@[simp] theorem State.updCur_selq (s : State) (f : Proc → Proc) : (s.updCur f).selq = s.selq := rfl
@[simp] theorem State.updCur_epHeld (s : State) (f : Proc → Proc) : (s.updCur f).epHeld = s.epHeld := rfl
@[simp] theorem State.updCur_elems (s : State) (f : Proc → Proc) : (s.updCur f).elems = s.elems := rfl
@[simp] theorem State.updCur_tiles (s : State) (f : Proc → Proc) : (s.updCur f).tiles = s.tiles := rfl
@[simp] theorem State.updCur_ctxs (s : State) (f : Proc → Proc) : (s.updCur f).ctxs = s.ctxs := rfl
@[simp] theorem State.updCur_launches (s : State) (f : Proc → Proc) : (s.updCur f).launches = s.launches := rfl
@[simp] theorem State.updCur_lqs (s : State) (f : Proc → Proc) : (s.updCur f).lqs = s.lqs := rfl
@[simp] theorem State.updCur_lastQ (s : State) (f : Proc → Proc) : (s.updCur f).lastQ = s.lastQ := rfl
@[simp] theorem State.updCur_commitAt (s : State) (f : Proc → Proc) : (s.updCur f).commitAt = s.commitAt := rfl
@[simp] theorem State.updCur_turns (s : State) (f : Proc → Proc) : (s.updCur f).turns = s.turns := rfl
@[simp] theorem State.updCur_commits (s : State) (f : Proc → Proc) : (s.updCur f).commits = s.commits := rfl
@[simp] theorem State.updCur_msStore (s : State) (f : Proc → Proc) : (s.updCur f).msStore = s.msStore := rfl
@[simp] theorem State.updCur_eth (s : State) (f : Proc → Proc) : (s.updCur f).eth = s.eth := rfl
@[simp] theorem State.updCur_links (s : State) (f : Proc → Proc) : (s.updCur f).links = s.links := rfl
@[simp] theorem State.updCur_eseqTx (s : State) (f : Proc → Proc) : (s.updCur f).eseqTx = s.eseqTx := rfl
@[simp] theorem State.updCur_eseqRx (s : State) (f : Proc → Proc) : (s.updCur f).eseqRx = s.eseqRx := rfl
@[simp] theorem State.updCur_heldFlits (s : State) (f : Proc → Proc) : (s.updCur f).heldFlits = s.heldFlits := rfl
@[simp] theorem State.updCur_resent (s : State) (f : Proc → Proc) : (s.updCur f).resent = s.resent := rfl
@[simp] theorem State.updCur_reorder (s : State) (f : Proc → Proc) : (s.updCur f).reorder = s.reorder := rfl
@[simp] theorem State.updCur_tileIn (s : State) (f : Proc → Proc) : (s.updCur f).tileIn = s.tileIn := rfl
@[simp] theorem State.updCur_peers (s : State) (f : Proc → Proc) : (s.updCur f).peers = s.peers := rfl
@[simp] theorem State.updCur_peerOps (s : State) (f : Proc → Proc) : (s.updCur f).peerOps = s.peerOps := rfl
@[simp] theorem State.updCur_peerCalls (s : State) (f : Proc → Proc) : (s.updCur f).peerCalls = s.peerCalls := rfl
@[simp] theorem State.updCur_frozenNodes (s : State) (f : Proc → Proc) : (s.updCur f).frozenNodes = s.frozenNodes := rfl
@[simp] theorem State.updCur_refusals (s : State) (f : Proc → Proc) : (s.updCur f).refusals = s.refusals := rfl
@[simp] theorem State.updCur_hostReads (s : State) (f : Proc → Proc) : (s.updCur f).hostReads = s.hostReads := rfl
@[simp] theorem State.updCur_hostGot (s : State) (f : Proc → Proc) : (s.updCur f).hostGot = s.hostGot := rfl
@[simp] theorem State.updCur_msix (s : State) (f : Proc → Proc) : (s.updCur f).msix = s.msix := rfl
@[simp] theorem State.updCur_posts (s : State) (f : Proc → Proc) : (s.updCur f).posts = s.posts := rfl
@[simp] theorem State.updCur_anns (s : State) (f : Proc → Proc) : (s.updCur f).anns = s.anns := rfl
@[simp] theorem State.updCur_postNum (s : State) (f : Proc → Proc) : (s.updCur f).postNum = s.postNum := rfl
@[simp] theorem State.updCur_colls (s : State) (f : Proc → Proc) : (s.updCur f).colls = s.colls := rfl
@[simp] theorem State.updCur_chunkBufs (s : State) (f : Proc → Proc) : (s.updCur f).chunkBufs = s.chunkBufs := rfl
@[simp] theorem State.updCur_lastCid (s : State) (f : Proc → Proc) : (s.updCur f).lastCid = s.lastCid := rfl
@[simp] theorem State.updCur_truss (s : State) (f : Proc → Proc) : (s.updCur f).truss = s.truss := rfl
@[simp] theorem State.updCur_fabric (s : State) (f : Proc → Proc) : (s.updCur f).fabric = s.fabric := rfl
@[simp] theorem State.updCur_roles (s : State) (f : Proc → Proc) : (s.updCur f).roles = s.roles := rfl
@[simp] theorem State.updCur_dropped (s : State) (f : Proc → Proc) : (s.updCur f).dropped = s.dropped := rfl
@[simp] theorem State.updCur_temps (s : State) (f : Proc → Proc) : (s.updCur f).temps = s.temps := rfl
@[simp] theorem State.updCur_thermAt (s : State) (f : Proc → Proc) : (s.updCur f).thermAt = s.thermAt := rfl
@[simp] theorem State.updCur_pwrStep (s : State) (f : Proc → Proc) : (s.updCur f).pwrStep = s.pwrStep := rfl
@[simp] theorem State.updCur_watts (s : State) (f : Proc → Proc) : (s.updCur f).watts = s.watts := rfl
@[simp] theorem State.updCur_boot (s : State) (f : Proc → Proc) : (s.updCur f).boot = s.boot := rfl
@[simp] theorem State.updCur_board (s : State) (f : Proc → Proc) : (s.updCur f).board = s.board := rfl
@[simp] theorem State.updCur_agenda (s : State) (f : Proc → Proc) : (s.updCur f).agenda = s.agenda := rfl
@[simp] theorem State.updCur_blocked (s : State) (f : Proc → Proc) : (s.updCur f).blocked = s.blocked := rfl
@[simp] theorem State.updCur_timers (s : State) (f : Proc → Proc) : (s.updCur f).timers = s.timers := rfl
@[simp] theorem State.updCur_sched (s : State) (f : Proc → Proc) : (s.updCur f).sched = s.sched := rfl
@[simp] theorem State.updCur_clk (s : State) (f : Proc → Proc) : (s.updCur f).clk = s.clk := rfl
@[simp] theorem State.updCur_accs (s : State) (f : Proc → Proc) : (s.updCur f).accs = s.accs := rfl
@[simp] theorem State.updCur_fresh (s : State) (f : Proc → Proc) : (s.updCur f).fresh = s.fresh := rfl
@[simp] theorem State.updCur_cause (s : State) (f : Proc → Proc) : (s.updCur f).cause = s.cause := rfl
@[simp] theorem State.updCur_quiet (s : State) (f : Proc → Proc) : (s.updCur f).quiet = s.quiet := rfl
@[simp] theorem State.updCur_out (s : State) (f : Proc → Proc) : (s.updCur f).out = s.out := rfl

/-! ### `push` -/

@[simp] theorem State.push_cur (s : State) (e : Ev) : (s.push e).cur = s.cur := rfl
@[simp] theorem State.push_ir (s : State) (e : Ev) : (s.push e).ir = s.ir := rfl
@[simp] theorem State.push_pre (s : State) (e : Ev) : (s.push e).pre = s.pre := rfl
@[simp] theorem State.push_xfer (s : State) (e : Ev) : (s.push e).xfer = s.xfer := rfl
@[simp] theorem State.push_aflags (s : State) (e : Ev) : (s.push e).aflags = s.aflags := rfl
@[simp] theorem State.push_curX (s : State) (e : Ev) : (s.push e).curX = s.curX := rfl
@[simp] theorem State.push_procs (s : State) (e : Ev) : (s.push e).procs = s.procs := rfl
@[simp] theorem State.push_cores (s : State) (e : Ev) : (s.push e).cores = s.cores := rfl
@[simp] theorem State.push_lastCore (s : State) (e : Ev) : (s.push e).lastCore = s.lastCore := rfl
@[simp] theorem State.push_barriers (s : State) (e : Ev) : (s.push e).barriers = s.barriers := rfl
@[simp] theorem State.push_helpers (s : State) (e : Ev) : (s.push e).helpers = s.helpers := rfl
@[simp] theorem State.push_hstore (s : State) (e : Ev) : (s.push e).hstore = s.hstore := rfl
@[simp] theorem State.push_streams (s : State) (e : Ev) : (s.push e).streams = s.streams := rfl
@[simp] theorem State.push_mem (s : State) (e : Ev) : (s.push e).mem = s.mem := rfl
@[simp] theorem State.push_side (s : State) (e : Ev) : (s.push e).side = s.side := rfl
@[simp] theorem State.push_poison (s : State) (e : Ev) : (s.push e).poison = s.poison := rfl
@[simp] theorem State.push_badRead (s : State) (e : Ev) : (s.push e).badRead = s.badRead := rfl
@[simp] theorem State.push_corrected (s : State) (e : Ev) : (s.push e).corrected = s.corrected := rfl
@[simp] theorem State.push_parity (s : State) (e : Ev) : (s.push e).parity = s.parity := rfl
@[simp] theorem State.push_waiters (s : State) (e : Ev) : (s.push e).waiters = s.waiters := rfl
@[simp] theorem State.push_rels (s : State) (e : Ev) : (s.push e).rels = s.rels := rfl
@[simp] theorem State.push_widens (s : State) (e : Ev) : (s.push e).widens = s.widens := rfl
@[simp] theorem State.push_locks (s : State) (e : Ev) : (s.push e).locks = s.locks := rfl
@[simp] theorem State.push_regs (s : State) (e : Ev) : (s.push e).regs = s.regs := rfl
@[simp] theorem State.push_descs (s : State) (e : Ev) : (s.push e).descs = s.descs := rfl
@[simp] theorem State.push_tlb (s : State) (e : Ev) : (s.push e).tlb = s.tlb := rfl
@[simp] theorem State.push_upper (s : State) (e : Ev) : (s.push e).upper = s.upper := rfl
@[simp] theorem State.push_walks (s : State) (e : Ev) : (s.push e).walks = s.walks := rfl
@[simp] theorem State.push_walkQ (s : State) (e : Ev) : (s.push e).walkQ = s.walkQ := rfl
@[simp] theorem State.push_walkWait (s : State) (e : Ev) : (s.push e).walkWait = s.walkWait := rfl
@[simp] theorem State.push_benches (s : State) (e : Ev) : (s.push e).benches = s.benches := rfl
@[simp] theorem State.push_acc (s : State) (e : Ev) : (s.push e).acc = s.acc := rfl
@[simp] theorem State.push_matq (s : State) (e : Ev) : (s.push e).matq = s.matq := rfl
@[simp] theorem State.push_engines (s : State) (e : Ev) : (s.push e).engines = s.engines := rfl
@[simp] theorem State.push_chanq (s : State) (e : Ev) : (s.push e).chanq = s.chanq := rfl
@[simp] theorem State.push_selq (s : State) (e : Ev) : (s.push e).selq = s.selq := rfl
@[simp] theorem State.push_epHeld (s : State) (e : Ev) : (s.push e).epHeld = s.epHeld := rfl
@[simp] theorem State.push_elems (s : State) (e : Ev) : (s.push e).elems = s.elems := rfl
@[simp] theorem State.push_tiles (s : State) (e : Ev) : (s.push e).tiles = s.tiles := rfl
@[simp] theorem State.push_ctxs (s : State) (e : Ev) : (s.push e).ctxs = s.ctxs := rfl
@[simp] theorem State.push_launches (s : State) (e : Ev) : (s.push e).launches = s.launches := rfl
@[simp] theorem State.push_lqs (s : State) (e : Ev) : (s.push e).lqs = s.lqs := rfl
@[simp] theorem State.push_lastQ (s : State) (e : Ev) : (s.push e).lastQ = s.lastQ := rfl
@[simp] theorem State.push_commitAt (s : State) (e : Ev) : (s.push e).commitAt = s.commitAt := rfl
@[simp] theorem State.push_turns (s : State) (e : Ev) : (s.push e).turns = s.turns := rfl
@[simp] theorem State.push_commits (s : State) (e : Ev) : (s.push e).commits = s.commits := rfl
@[simp] theorem State.push_msStore (s : State) (e : Ev) : (s.push e).msStore = s.msStore := rfl
@[simp] theorem State.push_eth (s : State) (e : Ev) : (s.push e).eth = s.eth := rfl
@[simp] theorem State.push_links (s : State) (e : Ev) : (s.push e).links = s.links := rfl
@[simp] theorem State.push_eseqTx (s : State) (e : Ev) : (s.push e).eseqTx = s.eseqTx := rfl
@[simp] theorem State.push_eseqRx (s : State) (e : Ev) : (s.push e).eseqRx = s.eseqRx := rfl
@[simp] theorem State.push_heldFlits (s : State) (e : Ev) : (s.push e).heldFlits = s.heldFlits := rfl
@[simp] theorem State.push_resent (s : State) (e : Ev) : (s.push e).resent = s.resent := rfl
@[simp] theorem State.push_reorder (s : State) (e : Ev) : (s.push e).reorder = s.reorder := rfl
@[simp] theorem State.push_tileIn (s : State) (e : Ev) : (s.push e).tileIn = s.tileIn := rfl
@[simp] theorem State.push_peers (s : State) (e : Ev) : (s.push e).peers = s.peers := rfl
@[simp] theorem State.push_peerOps (s : State) (e : Ev) : (s.push e).peerOps = s.peerOps := rfl
@[simp] theorem State.push_peerCalls (s : State) (e : Ev) : (s.push e).peerCalls = s.peerCalls := rfl
@[simp] theorem State.push_frozenNodes (s : State) (e : Ev) : (s.push e).frozenNodes = s.frozenNodes := rfl
@[simp] theorem State.push_refusals (s : State) (e : Ev) : (s.push e).refusals = s.refusals := rfl
@[simp] theorem State.push_hostReads (s : State) (e : Ev) : (s.push e).hostReads = s.hostReads := rfl
@[simp] theorem State.push_hostGot (s : State) (e : Ev) : (s.push e).hostGot = s.hostGot := rfl
@[simp] theorem State.push_msix (s : State) (e : Ev) : (s.push e).msix = s.msix := rfl
@[simp] theorem State.push_posts (s : State) (e : Ev) : (s.push e).posts = s.posts := rfl
@[simp] theorem State.push_anns (s : State) (e : Ev) : (s.push e).anns = s.anns := rfl
@[simp] theorem State.push_postNum (s : State) (e : Ev) : (s.push e).postNum = s.postNum := rfl
@[simp] theorem State.push_colls (s : State) (e : Ev) : (s.push e).colls = s.colls := rfl
@[simp] theorem State.push_chunkBufs (s : State) (e : Ev) : (s.push e).chunkBufs = s.chunkBufs := rfl
@[simp] theorem State.push_lastCid (s : State) (e : Ev) : (s.push e).lastCid = s.lastCid := rfl
@[simp] theorem State.push_truss (s : State) (e : Ev) : (s.push e).truss = s.truss := rfl
@[simp] theorem State.push_fabric (s : State) (e : Ev) : (s.push e).fabric = s.fabric := rfl
@[simp] theorem State.push_roles (s : State) (e : Ev) : (s.push e).roles = s.roles := rfl
@[simp] theorem State.push_dropped (s : State) (e : Ev) : (s.push e).dropped = s.dropped := rfl
@[simp] theorem State.push_temps (s : State) (e : Ev) : (s.push e).temps = s.temps := rfl
@[simp] theorem State.push_thermAt (s : State) (e : Ev) : (s.push e).thermAt = s.thermAt := rfl
@[simp] theorem State.push_pwrStep (s : State) (e : Ev) : (s.push e).pwrStep = s.pwrStep := rfl
@[simp] theorem State.push_watts (s : State) (e : Ev) : (s.push e).watts = s.watts := rfl
@[simp] theorem State.push_boot (s : State) (e : Ev) : (s.push e).boot = s.boot := rfl
@[simp] theorem State.push_board (s : State) (e : Ev) : (s.push e).board = s.board := rfl
@[simp] theorem State.push_agenda (s : State) (e : Ev) : (s.push e).agenda = s.agenda ++ [e] := rfl
@[simp] theorem State.push_blocked (s : State) (e : Ev) : (s.push e).blocked = s.blocked := rfl
@[simp] theorem State.push_timers (s : State) (e : Ev) : (s.push e).timers = s.timers := rfl
@[simp] theorem State.push_sched (s : State) (e : Ev) : (s.push e).sched = s.sched := rfl
@[simp] theorem State.push_clk (s : State) (e : Ev) : (s.push e).clk = s.clk := rfl
@[simp] theorem State.push_accs (s : State) (e : Ev) : (s.push e).accs = s.accs := rfl
@[simp] theorem State.push_fresh (s : State) (e : Ev) : (s.push e).fresh = s.fresh := rfl
@[simp] theorem State.push_cause (s : State) (e : Ev) : (s.push e).cause = s.cause := rfl
@[simp] theorem State.push_quiet (s : State) (e : Ev) : (s.push e).quiet = s.quiet := rfl
@[simp] theorem State.push_out (s : State) (e : Ev) : (s.push e).out = s.out := rfl

/-! ### `pushAll` -/

@[simp] theorem State.pushAll_cur (s : State) (es : List Ev) : (s.pushAll es).cur = s.cur := rfl
@[simp] theorem State.pushAll_ir (s : State) (es : List Ev) : (s.pushAll es).ir = s.ir := rfl
@[simp] theorem State.pushAll_pre (s : State) (es : List Ev) : (s.pushAll es).pre = s.pre := rfl
@[simp] theorem State.pushAll_xfer (s : State) (es : List Ev) : (s.pushAll es).xfer = s.xfer := rfl
@[simp] theorem State.pushAll_aflags (s : State) (es : List Ev) : (s.pushAll es).aflags = s.aflags := rfl
@[simp] theorem State.pushAll_curX (s : State) (es : List Ev) : (s.pushAll es).curX = s.curX := rfl
@[simp] theorem State.pushAll_procs (s : State) (es : List Ev) : (s.pushAll es).procs = s.procs := rfl
@[simp] theorem State.pushAll_cores (s : State) (es : List Ev) : (s.pushAll es).cores = s.cores := rfl
@[simp] theorem State.pushAll_lastCore (s : State) (es : List Ev) : (s.pushAll es).lastCore = s.lastCore := rfl
@[simp] theorem State.pushAll_barriers (s : State) (es : List Ev) : (s.pushAll es).barriers = s.barriers := rfl
@[simp] theorem State.pushAll_helpers (s : State) (es : List Ev) : (s.pushAll es).helpers = s.helpers := rfl
@[simp] theorem State.pushAll_hstore (s : State) (es : List Ev) : (s.pushAll es).hstore = s.hstore := rfl
@[simp] theorem State.pushAll_streams (s : State) (es : List Ev) : (s.pushAll es).streams = s.streams := rfl
@[simp] theorem State.pushAll_mem (s : State) (es : List Ev) : (s.pushAll es).mem = s.mem := rfl
@[simp] theorem State.pushAll_side (s : State) (es : List Ev) : (s.pushAll es).side = s.side := rfl
@[simp] theorem State.pushAll_poison (s : State) (es : List Ev) : (s.pushAll es).poison = s.poison := rfl
@[simp] theorem State.pushAll_badRead (s : State) (es : List Ev) : (s.pushAll es).badRead = s.badRead := rfl
@[simp] theorem State.pushAll_corrected (s : State) (es : List Ev) : (s.pushAll es).corrected = s.corrected := rfl
@[simp] theorem State.pushAll_parity (s : State) (es : List Ev) : (s.pushAll es).parity = s.parity := rfl
@[simp] theorem State.pushAll_waiters (s : State) (es : List Ev) : (s.pushAll es).waiters = s.waiters := rfl
@[simp] theorem State.pushAll_rels (s : State) (es : List Ev) : (s.pushAll es).rels = s.rels := rfl
@[simp] theorem State.pushAll_widens (s : State) (es : List Ev) : (s.pushAll es).widens = s.widens := rfl
@[simp] theorem State.pushAll_locks (s : State) (es : List Ev) : (s.pushAll es).locks = s.locks := rfl
@[simp] theorem State.pushAll_regs (s : State) (es : List Ev) : (s.pushAll es).regs = s.regs := rfl
@[simp] theorem State.pushAll_descs (s : State) (es : List Ev) : (s.pushAll es).descs = s.descs := rfl
@[simp] theorem State.pushAll_tlb (s : State) (es : List Ev) : (s.pushAll es).tlb = s.tlb := rfl
@[simp] theorem State.pushAll_upper (s : State) (es : List Ev) : (s.pushAll es).upper = s.upper := rfl
@[simp] theorem State.pushAll_walks (s : State) (es : List Ev) : (s.pushAll es).walks = s.walks := rfl
@[simp] theorem State.pushAll_walkQ (s : State) (es : List Ev) : (s.pushAll es).walkQ = s.walkQ := rfl
@[simp] theorem State.pushAll_walkWait (s : State) (es : List Ev) : (s.pushAll es).walkWait = s.walkWait := rfl
@[simp] theorem State.pushAll_benches (s : State) (es : List Ev) : (s.pushAll es).benches = s.benches := rfl
@[simp] theorem State.pushAll_acc (s : State) (es : List Ev) : (s.pushAll es).acc = s.acc := rfl
@[simp] theorem State.pushAll_matq (s : State) (es : List Ev) : (s.pushAll es).matq = s.matq := rfl
@[simp] theorem State.pushAll_engines (s : State) (es : List Ev) : (s.pushAll es).engines = s.engines := rfl
@[simp] theorem State.pushAll_chanq (s : State) (es : List Ev) : (s.pushAll es).chanq = s.chanq := rfl
@[simp] theorem State.pushAll_selq (s : State) (es : List Ev) : (s.pushAll es).selq = s.selq := rfl
@[simp] theorem State.pushAll_epHeld (s : State) (es : List Ev) : (s.pushAll es).epHeld = s.epHeld := rfl
@[simp] theorem State.pushAll_elems (s : State) (es : List Ev) : (s.pushAll es).elems = s.elems := rfl
@[simp] theorem State.pushAll_tiles (s : State) (es : List Ev) : (s.pushAll es).tiles = s.tiles := rfl
@[simp] theorem State.pushAll_ctxs (s : State) (es : List Ev) : (s.pushAll es).ctxs = s.ctxs := rfl
@[simp] theorem State.pushAll_launches (s : State) (es : List Ev) : (s.pushAll es).launches = s.launches := rfl
@[simp] theorem State.pushAll_lqs (s : State) (es : List Ev) : (s.pushAll es).lqs = s.lqs := rfl
@[simp] theorem State.pushAll_lastQ (s : State) (es : List Ev) : (s.pushAll es).lastQ = s.lastQ := rfl
@[simp] theorem State.pushAll_commitAt (s : State) (es : List Ev) : (s.pushAll es).commitAt = s.commitAt := rfl
@[simp] theorem State.pushAll_turns (s : State) (es : List Ev) : (s.pushAll es).turns = s.turns := rfl
@[simp] theorem State.pushAll_commits (s : State) (es : List Ev) : (s.pushAll es).commits = s.commits := rfl
@[simp] theorem State.pushAll_msStore (s : State) (es : List Ev) : (s.pushAll es).msStore = s.msStore := rfl
@[simp] theorem State.pushAll_eth (s : State) (es : List Ev) : (s.pushAll es).eth = s.eth := rfl
@[simp] theorem State.pushAll_links (s : State) (es : List Ev) : (s.pushAll es).links = s.links := rfl
@[simp] theorem State.pushAll_eseqTx (s : State) (es : List Ev) : (s.pushAll es).eseqTx = s.eseqTx := rfl
@[simp] theorem State.pushAll_eseqRx (s : State) (es : List Ev) : (s.pushAll es).eseqRx = s.eseqRx := rfl
@[simp] theorem State.pushAll_heldFlits (s : State) (es : List Ev) : (s.pushAll es).heldFlits = s.heldFlits := rfl
@[simp] theorem State.pushAll_resent (s : State) (es : List Ev) : (s.pushAll es).resent = s.resent := rfl
@[simp] theorem State.pushAll_reorder (s : State) (es : List Ev) : (s.pushAll es).reorder = s.reorder := rfl
@[simp] theorem State.pushAll_tileIn (s : State) (es : List Ev) : (s.pushAll es).tileIn = s.tileIn := rfl
@[simp] theorem State.pushAll_peers (s : State) (es : List Ev) : (s.pushAll es).peers = s.peers := rfl
@[simp] theorem State.pushAll_peerOps (s : State) (es : List Ev) : (s.pushAll es).peerOps = s.peerOps := rfl
@[simp] theorem State.pushAll_peerCalls (s : State) (es : List Ev) : (s.pushAll es).peerCalls = s.peerCalls := rfl
@[simp] theorem State.pushAll_frozenNodes (s : State) (es : List Ev) : (s.pushAll es).frozenNodes = s.frozenNodes := rfl
@[simp] theorem State.pushAll_refusals (s : State) (es : List Ev) : (s.pushAll es).refusals = s.refusals := rfl
@[simp] theorem State.pushAll_hostReads (s : State) (es : List Ev) : (s.pushAll es).hostReads = s.hostReads := rfl
@[simp] theorem State.pushAll_hostGot (s : State) (es : List Ev) : (s.pushAll es).hostGot = s.hostGot := rfl
@[simp] theorem State.pushAll_msix (s : State) (es : List Ev) : (s.pushAll es).msix = s.msix := rfl
@[simp] theorem State.pushAll_posts (s : State) (es : List Ev) : (s.pushAll es).posts = s.posts := rfl
@[simp] theorem State.pushAll_anns (s : State) (es : List Ev) : (s.pushAll es).anns = s.anns := rfl
@[simp] theorem State.pushAll_postNum (s : State) (es : List Ev) : (s.pushAll es).postNum = s.postNum := rfl
@[simp] theorem State.pushAll_colls (s : State) (es : List Ev) : (s.pushAll es).colls = s.colls := rfl
@[simp] theorem State.pushAll_chunkBufs (s : State) (es : List Ev) : (s.pushAll es).chunkBufs = s.chunkBufs := rfl
@[simp] theorem State.pushAll_lastCid (s : State) (es : List Ev) : (s.pushAll es).lastCid = s.lastCid := rfl
@[simp] theorem State.pushAll_truss (s : State) (es : List Ev) : (s.pushAll es).truss = s.truss := rfl
@[simp] theorem State.pushAll_fabric (s : State) (es : List Ev) : (s.pushAll es).fabric = s.fabric := rfl
@[simp] theorem State.pushAll_roles (s : State) (es : List Ev) : (s.pushAll es).roles = s.roles := rfl
@[simp] theorem State.pushAll_dropped (s : State) (es : List Ev) : (s.pushAll es).dropped = s.dropped := rfl
@[simp] theorem State.pushAll_temps (s : State) (es : List Ev) : (s.pushAll es).temps = s.temps := rfl
@[simp] theorem State.pushAll_thermAt (s : State) (es : List Ev) : (s.pushAll es).thermAt = s.thermAt := rfl
@[simp] theorem State.pushAll_pwrStep (s : State) (es : List Ev) : (s.pushAll es).pwrStep = s.pwrStep := rfl
@[simp] theorem State.pushAll_watts (s : State) (es : List Ev) : (s.pushAll es).watts = s.watts := rfl
@[simp] theorem State.pushAll_boot (s : State) (es : List Ev) : (s.pushAll es).boot = s.boot := rfl
@[simp] theorem State.pushAll_board (s : State) (es : List Ev) : (s.pushAll es).board = s.board := rfl
@[simp] theorem State.pushAll_agenda (s : State) (es : List Ev) : (s.pushAll es).agenda = s.agenda ++ es := rfl
@[simp] theorem State.pushAll_blocked (s : State) (es : List Ev) : (s.pushAll es).blocked = s.blocked := rfl
@[simp] theorem State.pushAll_timers (s : State) (es : List Ev) : (s.pushAll es).timers = s.timers := rfl
@[simp] theorem State.pushAll_sched (s : State) (es : List Ev) : (s.pushAll es).sched = s.sched := rfl
@[simp] theorem State.pushAll_clk (s : State) (es : List Ev) : (s.pushAll es).clk = s.clk := rfl
@[simp] theorem State.pushAll_accs (s : State) (es : List Ev) : (s.pushAll es).accs = s.accs := rfl
@[simp] theorem State.pushAll_fresh (s : State) (es : List Ev) : (s.pushAll es).fresh = s.fresh := rfl
@[simp] theorem State.pushAll_cause (s : State) (es : List Ev) : (s.pushAll es).cause = s.cause := rfl
@[simp] theorem State.pushAll_quiet (s : State) (es : List Ev) : (s.pushAll es).quiet = s.quiet := rfl
@[simp] theorem State.pushAll_out (s : State) (es : List Ev) : (s.pushAll es).out = s.out := rfl

/-! ### `later` -/

@[simp] theorem State.later_cur (s : State) (e : Ev) : (s.later e).cur = s.cur := rfl
@[simp] theorem State.later_ir (s : State) (e : Ev) : (s.later e).ir = s.ir := rfl
@[simp] theorem State.later_pre (s : State) (e : Ev) : (s.later e).pre = s.pre := rfl
@[simp] theorem State.later_xfer (s : State) (e : Ev) : (s.later e).xfer = s.xfer := rfl
@[simp] theorem State.later_aflags (s : State) (e : Ev) : (s.later e).aflags = s.aflags := rfl
@[simp] theorem State.later_curX (s : State) (e : Ev) : (s.later e).curX = s.curX := rfl
@[simp] theorem State.later_procs (s : State) (e : Ev) : (s.later e).procs = s.procs := rfl
@[simp] theorem State.later_cores (s : State) (e : Ev) : (s.later e).cores = s.cores := rfl
@[simp] theorem State.later_lastCore (s : State) (e : Ev) : (s.later e).lastCore = s.lastCore := rfl
@[simp] theorem State.later_barriers (s : State) (e : Ev) : (s.later e).barriers = s.barriers := rfl
@[simp] theorem State.later_helpers (s : State) (e : Ev) : (s.later e).helpers = s.helpers := rfl
@[simp] theorem State.later_hstore (s : State) (e : Ev) : (s.later e).hstore = s.hstore := rfl
@[simp] theorem State.later_streams (s : State) (e : Ev) : (s.later e).streams = s.streams := rfl
@[simp] theorem State.later_mem (s : State) (e : Ev) : (s.later e).mem = s.mem := rfl
@[simp] theorem State.later_side (s : State) (e : Ev) : (s.later e).side = s.side := rfl
@[simp] theorem State.later_poison (s : State) (e : Ev) : (s.later e).poison = s.poison := rfl
@[simp] theorem State.later_badRead (s : State) (e : Ev) : (s.later e).badRead = s.badRead := rfl
@[simp] theorem State.later_corrected (s : State) (e : Ev) : (s.later e).corrected = s.corrected := rfl
@[simp] theorem State.later_parity (s : State) (e : Ev) : (s.later e).parity = s.parity := rfl
@[simp] theorem State.later_waiters (s : State) (e : Ev) : (s.later e).waiters = s.waiters := rfl
@[simp] theorem State.later_rels (s : State) (e : Ev) : (s.later e).rels = s.rels := rfl
@[simp] theorem State.later_widens (s : State) (e : Ev) : (s.later e).widens = s.widens := rfl
@[simp] theorem State.later_locks (s : State) (e : Ev) : (s.later e).locks = s.locks := rfl
@[simp] theorem State.later_regs (s : State) (e : Ev) : (s.later e).regs = s.regs := rfl
@[simp] theorem State.later_descs (s : State) (e : Ev) : (s.later e).descs = s.descs := rfl
@[simp] theorem State.later_tlb (s : State) (e : Ev) : (s.later e).tlb = s.tlb := rfl
@[simp] theorem State.later_upper (s : State) (e : Ev) : (s.later e).upper = s.upper := rfl
@[simp] theorem State.later_walks (s : State) (e : Ev) : (s.later e).walks = s.walks := rfl
@[simp] theorem State.later_walkQ (s : State) (e : Ev) : (s.later e).walkQ = s.walkQ := rfl
@[simp] theorem State.later_walkWait (s : State) (e : Ev) : (s.later e).walkWait = s.walkWait := rfl
@[simp] theorem State.later_benches (s : State) (e : Ev) : (s.later e).benches = s.benches := rfl
@[simp] theorem State.later_acc (s : State) (e : Ev) : (s.later e).acc = s.acc := rfl
@[simp] theorem State.later_matq (s : State) (e : Ev) : (s.later e).matq = s.matq := rfl
@[simp] theorem State.later_engines (s : State) (e : Ev) : (s.later e).engines = s.engines := rfl
@[simp] theorem State.later_chanq (s : State) (e : Ev) : (s.later e).chanq = s.chanq := rfl
@[simp] theorem State.later_selq (s : State) (e : Ev) : (s.later e).selq = s.selq := rfl
@[simp] theorem State.later_epHeld (s : State) (e : Ev) : (s.later e).epHeld = s.epHeld := rfl
@[simp] theorem State.later_elems (s : State) (e : Ev) : (s.later e).elems = s.elems := rfl
@[simp] theorem State.later_tiles (s : State) (e : Ev) : (s.later e).tiles = s.tiles := rfl
@[simp] theorem State.later_ctxs (s : State) (e : Ev) : (s.later e).ctxs = s.ctxs := rfl
@[simp] theorem State.later_launches (s : State) (e : Ev) : (s.later e).launches = s.launches := rfl
@[simp] theorem State.later_lqs (s : State) (e : Ev) : (s.later e).lqs = s.lqs := rfl
@[simp] theorem State.later_lastQ (s : State) (e : Ev) : (s.later e).lastQ = s.lastQ := rfl
@[simp] theorem State.later_commitAt (s : State) (e : Ev) : (s.later e).commitAt = s.commitAt := rfl
@[simp] theorem State.later_turns (s : State) (e : Ev) : (s.later e).turns = s.turns := rfl
@[simp] theorem State.later_commits (s : State) (e : Ev) : (s.later e).commits = s.commits := rfl
@[simp] theorem State.later_msStore (s : State) (e : Ev) : (s.later e).msStore = s.msStore := rfl
@[simp] theorem State.later_eth (s : State) (e : Ev) : (s.later e).eth = s.eth := rfl
@[simp] theorem State.later_links (s : State) (e : Ev) : (s.later e).links = s.links := rfl
@[simp] theorem State.later_eseqTx (s : State) (e : Ev) : (s.later e).eseqTx = s.eseqTx := rfl
@[simp] theorem State.later_eseqRx (s : State) (e : Ev) : (s.later e).eseqRx = s.eseqRx := rfl
@[simp] theorem State.later_heldFlits (s : State) (e : Ev) : (s.later e).heldFlits = s.heldFlits := rfl
@[simp] theorem State.later_resent (s : State) (e : Ev) : (s.later e).resent = s.resent := rfl
@[simp] theorem State.later_reorder (s : State) (e : Ev) : (s.later e).reorder = s.reorder := rfl
@[simp] theorem State.later_tileIn (s : State) (e : Ev) : (s.later e).tileIn = s.tileIn := rfl
@[simp] theorem State.later_peers (s : State) (e : Ev) : (s.later e).peers = s.peers := rfl
@[simp] theorem State.later_peerOps (s : State) (e : Ev) : (s.later e).peerOps = s.peerOps := rfl
@[simp] theorem State.later_peerCalls (s : State) (e : Ev) : (s.later e).peerCalls = s.peerCalls := rfl
@[simp] theorem State.later_frozenNodes (s : State) (e : Ev) : (s.later e).frozenNodes = s.frozenNodes := rfl
@[simp] theorem State.later_refusals (s : State) (e : Ev) : (s.later e).refusals = s.refusals := rfl
@[simp] theorem State.later_hostReads (s : State) (e : Ev) : (s.later e).hostReads = s.hostReads := rfl
@[simp] theorem State.later_hostGot (s : State) (e : Ev) : (s.later e).hostGot = s.hostGot := rfl
@[simp] theorem State.later_msix (s : State) (e : Ev) : (s.later e).msix = s.msix := rfl
@[simp] theorem State.later_posts (s : State) (e : Ev) : (s.later e).posts = s.posts := rfl
@[simp] theorem State.later_anns (s : State) (e : Ev) : (s.later e).anns = s.anns := rfl
@[simp] theorem State.later_postNum (s : State) (e : Ev) : (s.later e).postNum = s.postNum := rfl
@[simp] theorem State.later_colls (s : State) (e : Ev) : (s.later e).colls = s.colls := rfl
@[simp] theorem State.later_chunkBufs (s : State) (e : Ev) : (s.later e).chunkBufs = s.chunkBufs := rfl
@[simp] theorem State.later_lastCid (s : State) (e : Ev) : (s.later e).lastCid = s.lastCid := rfl
@[simp] theorem State.later_truss (s : State) (e : Ev) : (s.later e).truss = s.truss := rfl
@[simp] theorem State.later_fabric (s : State) (e : Ev) : (s.later e).fabric = s.fabric := rfl
@[simp] theorem State.later_roles (s : State) (e : Ev) : (s.later e).roles = s.roles := rfl
@[simp] theorem State.later_dropped (s : State) (e : Ev) : (s.later e).dropped = s.dropped := rfl
@[simp] theorem State.later_temps (s : State) (e : Ev) : (s.later e).temps = s.temps := rfl
@[simp] theorem State.later_thermAt (s : State) (e : Ev) : (s.later e).thermAt = s.thermAt := rfl
@[simp] theorem State.later_pwrStep (s : State) (e : Ev) : (s.later e).pwrStep = s.pwrStep := rfl
@[simp] theorem State.later_watts (s : State) (e : Ev) : (s.later e).watts = s.watts := rfl
@[simp] theorem State.later_boot (s : State) (e : Ev) : (s.later e).boot = s.boot := rfl
@[simp] theorem State.later_board (s : State) (e : Ev) : (s.later e).board = s.board := rfl
@[simp] theorem State.later_agenda (s : State) (e : Ev) : (s.later e).agenda = s.agenda := rfl
@[simp] theorem State.later_blocked (s : State) (e : Ev) : (s.later e).blocked = s.blocked ++ [e] := rfl
@[simp] theorem State.later_timers (s : State) (e : Ev) : (s.later e).timers = s.timers := rfl
@[simp] theorem State.later_sched (s : State) (e : Ev) : (s.later e).sched = s.sched := rfl
@[simp] theorem State.later_clk (s : State) (e : Ev) : (s.later e).clk = s.clk := rfl
@[simp] theorem State.later_accs (s : State) (e : Ev) : (s.later e).accs = s.accs := rfl
@[simp] theorem State.later_fresh (s : State) (e : Ev) : (s.later e).fresh = s.fresh := rfl
@[simp] theorem State.later_cause (s : State) (e : Ev) : (s.later e).cause = s.cause := rfl
@[simp] theorem State.later_quiet (s : State) (e : Ev) : (s.later e).quiet = s.quiet := rfl
@[simp] theorem State.later_out (s : State) (e : Ev) : (s.later e).out = s.out := rfl

/-! ### `after` -/

@[simp] theorem State.after_cur (s : State) (n : Nat) (e : Ev) : (s.after n e).cur = s.cur := rfl
@[simp] theorem State.after_ir (s : State) (n : Nat) (e : Ev) : (s.after n e).ir = s.ir := rfl
@[simp] theorem State.after_pre (s : State) (n : Nat) (e : Ev) : (s.after n e).pre = s.pre := rfl
@[simp] theorem State.after_xfer (s : State) (n : Nat) (e : Ev) : (s.after n e).xfer = s.xfer := rfl
@[simp] theorem State.after_aflags (s : State) (n : Nat) (e : Ev) : (s.after n e).aflags = s.aflags := rfl
@[simp] theorem State.after_curX (s : State) (n : Nat) (e : Ev) : (s.after n e).curX = s.curX := rfl
@[simp] theorem State.after_procs (s : State) (n : Nat) (e : Ev) : (s.after n e).procs = s.procs := rfl
@[simp] theorem State.after_cores (s : State) (n : Nat) (e : Ev) : (s.after n e).cores = s.cores := rfl
@[simp] theorem State.after_lastCore (s : State) (n : Nat) (e : Ev) : (s.after n e).lastCore = s.lastCore := rfl
@[simp] theorem State.after_barriers (s : State) (n : Nat) (e : Ev) : (s.after n e).barriers = s.barriers := rfl
@[simp] theorem State.after_helpers (s : State) (n : Nat) (e : Ev) : (s.after n e).helpers = s.helpers := rfl
@[simp] theorem State.after_hstore (s : State) (n : Nat) (e : Ev) : (s.after n e).hstore = s.hstore := rfl
@[simp] theorem State.after_streams (s : State) (n : Nat) (e : Ev) : (s.after n e).streams = s.streams := rfl
@[simp] theorem State.after_mem (s : State) (n : Nat) (e : Ev) : (s.after n e).mem = s.mem := rfl
@[simp] theorem State.after_side (s : State) (n : Nat) (e : Ev) : (s.after n e).side = s.side := rfl
@[simp] theorem State.after_poison (s : State) (n : Nat) (e : Ev) : (s.after n e).poison = s.poison := rfl
@[simp] theorem State.after_badRead (s : State) (n : Nat) (e : Ev) : (s.after n e).badRead = s.badRead := rfl
@[simp] theorem State.after_corrected (s : State) (n : Nat) (e : Ev) : (s.after n e).corrected = s.corrected := rfl
@[simp] theorem State.after_parity (s : State) (n : Nat) (e : Ev) : (s.after n e).parity = s.parity := rfl
@[simp] theorem State.after_waiters (s : State) (n : Nat) (e : Ev) : (s.after n e).waiters = s.waiters := rfl
@[simp] theorem State.after_rels (s : State) (n : Nat) (e : Ev) : (s.after n e).rels = s.rels := rfl
@[simp] theorem State.after_widens (s : State) (n : Nat) (e : Ev) : (s.after n e).widens = s.widens := rfl
@[simp] theorem State.after_locks (s : State) (n : Nat) (e : Ev) : (s.after n e).locks = s.locks := rfl
@[simp] theorem State.after_regs (s : State) (n : Nat) (e : Ev) : (s.after n e).regs = s.regs := rfl
@[simp] theorem State.after_descs (s : State) (n : Nat) (e : Ev) : (s.after n e).descs = s.descs := rfl
@[simp] theorem State.after_tlb (s : State) (n : Nat) (e : Ev) : (s.after n e).tlb = s.tlb := rfl
@[simp] theorem State.after_upper (s : State) (n : Nat) (e : Ev) : (s.after n e).upper = s.upper := rfl
@[simp] theorem State.after_walks (s : State) (n : Nat) (e : Ev) : (s.after n e).walks = s.walks := rfl
@[simp] theorem State.after_walkQ (s : State) (n : Nat) (e : Ev) : (s.after n e).walkQ = s.walkQ := rfl
@[simp] theorem State.after_walkWait (s : State) (n : Nat) (e : Ev) : (s.after n e).walkWait = s.walkWait := rfl
@[simp] theorem State.after_benches (s : State) (n : Nat) (e : Ev) : (s.after n e).benches = s.benches := rfl
@[simp] theorem State.after_acc (s : State) (n : Nat) (e : Ev) : (s.after n e).acc = s.acc := rfl
@[simp] theorem State.after_matq (s : State) (n : Nat) (e : Ev) : (s.after n e).matq = s.matq := rfl
@[simp] theorem State.after_engines (s : State) (n : Nat) (e : Ev) : (s.after n e).engines = s.engines := rfl
@[simp] theorem State.after_chanq (s : State) (n : Nat) (e : Ev) : (s.after n e).chanq = s.chanq := rfl
@[simp] theorem State.after_selq (s : State) (n : Nat) (e : Ev) : (s.after n e).selq = s.selq := rfl
@[simp] theorem State.after_epHeld (s : State) (n : Nat) (e : Ev) : (s.after n e).epHeld = s.epHeld := rfl
@[simp] theorem State.after_elems (s : State) (n : Nat) (e : Ev) : (s.after n e).elems = s.elems := rfl
@[simp] theorem State.after_tiles (s : State) (n : Nat) (e : Ev) : (s.after n e).tiles = s.tiles := rfl
@[simp] theorem State.after_ctxs (s : State) (n : Nat) (e : Ev) : (s.after n e).ctxs = s.ctxs := rfl
@[simp] theorem State.after_launches (s : State) (n : Nat) (e : Ev) : (s.after n e).launches = s.launches := rfl
@[simp] theorem State.after_lqs (s : State) (n : Nat) (e : Ev) : (s.after n e).lqs = s.lqs := rfl
@[simp] theorem State.after_lastQ (s : State) (n : Nat) (e : Ev) : (s.after n e).lastQ = s.lastQ := rfl
@[simp] theorem State.after_commitAt (s : State) (n : Nat) (e : Ev) : (s.after n e).commitAt = s.commitAt := rfl
@[simp] theorem State.after_turns (s : State) (n : Nat) (e : Ev) : (s.after n e).turns = s.turns := rfl
@[simp] theorem State.after_commits (s : State) (n : Nat) (e : Ev) : (s.after n e).commits = s.commits := rfl
@[simp] theorem State.after_msStore (s : State) (n : Nat) (e : Ev) : (s.after n e).msStore = s.msStore := rfl
@[simp] theorem State.after_eth (s : State) (n : Nat) (e : Ev) : (s.after n e).eth = s.eth := rfl
@[simp] theorem State.after_links (s : State) (n : Nat) (e : Ev) : (s.after n e).links = s.links := rfl
@[simp] theorem State.after_eseqTx (s : State) (n : Nat) (e : Ev) : (s.after n e).eseqTx = s.eseqTx := rfl
@[simp] theorem State.after_eseqRx (s : State) (n : Nat) (e : Ev) : (s.after n e).eseqRx = s.eseqRx := rfl
@[simp] theorem State.after_heldFlits (s : State) (n : Nat) (e : Ev) : (s.after n e).heldFlits = s.heldFlits := rfl
@[simp] theorem State.after_resent (s : State) (n : Nat) (e : Ev) : (s.after n e).resent = s.resent := rfl
@[simp] theorem State.after_reorder (s : State) (n : Nat) (e : Ev) : (s.after n e).reorder = s.reorder := rfl
@[simp] theorem State.after_tileIn (s : State) (n : Nat) (e : Ev) : (s.after n e).tileIn = s.tileIn := rfl
@[simp] theorem State.after_peers (s : State) (n : Nat) (e : Ev) : (s.after n e).peers = s.peers := rfl
@[simp] theorem State.after_peerOps (s : State) (n : Nat) (e : Ev) : (s.after n e).peerOps = s.peerOps := rfl
@[simp] theorem State.after_peerCalls (s : State) (n : Nat) (e : Ev) : (s.after n e).peerCalls = s.peerCalls := rfl
@[simp] theorem State.after_frozenNodes (s : State) (n : Nat) (e : Ev) : (s.after n e).frozenNodes = s.frozenNodes := rfl
@[simp] theorem State.after_refusals (s : State) (n : Nat) (e : Ev) : (s.after n e).refusals = s.refusals := rfl
@[simp] theorem State.after_hostReads (s : State) (n : Nat) (e : Ev) : (s.after n e).hostReads = s.hostReads := rfl
@[simp] theorem State.after_hostGot (s : State) (n : Nat) (e : Ev) : (s.after n e).hostGot = s.hostGot := rfl
@[simp] theorem State.after_msix (s : State) (n : Nat) (e : Ev) : (s.after n e).msix = s.msix := rfl
@[simp] theorem State.after_posts (s : State) (n : Nat) (e : Ev) : (s.after n e).posts = s.posts := rfl
@[simp] theorem State.after_anns (s : State) (n : Nat) (e : Ev) : (s.after n e).anns = s.anns := rfl
@[simp] theorem State.after_postNum (s : State) (n : Nat) (e : Ev) : (s.after n e).postNum = s.postNum := rfl
@[simp] theorem State.after_colls (s : State) (n : Nat) (e : Ev) : (s.after n e).colls = s.colls := rfl
@[simp] theorem State.after_chunkBufs (s : State) (n : Nat) (e : Ev) : (s.after n e).chunkBufs = s.chunkBufs := rfl
@[simp] theorem State.after_lastCid (s : State) (n : Nat) (e : Ev) : (s.after n e).lastCid = s.lastCid := rfl
@[simp] theorem State.after_truss (s : State) (n : Nat) (e : Ev) : (s.after n e).truss = s.truss := rfl
@[simp] theorem State.after_fabric (s : State) (n : Nat) (e : Ev) : (s.after n e).fabric = s.fabric := rfl
@[simp] theorem State.after_roles (s : State) (n : Nat) (e : Ev) : (s.after n e).roles = s.roles := rfl
@[simp] theorem State.after_dropped (s : State) (n : Nat) (e : Ev) : (s.after n e).dropped = s.dropped := rfl
@[simp] theorem State.after_temps (s : State) (n : Nat) (e : Ev) : (s.after n e).temps = s.temps := rfl
@[simp] theorem State.after_thermAt (s : State) (n : Nat) (e : Ev) : (s.after n e).thermAt = s.thermAt := rfl
@[simp] theorem State.after_pwrStep (s : State) (n : Nat) (e : Ev) : (s.after n e).pwrStep = s.pwrStep := rfl
@[simp] theorem State.after_watts (s : State) (n : Nat) (e : Ev) : (s.after n e).watts = s.watts := rfl
@[simp] theorem State.after_boot (s : State) (n : Nat) (e : Ev) : (s.after n e).boot = s.boot := rfl
@[simp] theorem State.after_board (s : State) (n : Nat) (e : Ev) : (s.after n e).board = s.board := rfl
@[simp] theorem State.after_agenda (s : State) (n : Nat) (e : Ev) : (s.after n e).agenda = s.agenda := rfl
@[simp] theorem State.after_blocked (s : State) (n : Nat) (e : Ev) : (s.after n e).blocked = s.blocked := rfl
@[simp] theorem State.after_timers (s : State) (n : Nat) (e : Ev) : (s.after n e).timers = s.timers ++ [(s.clk + n, e)] := rfl
@[simp] theorem State.after_sched (s : State) (n : Nat) (e : Ev) : (s.after n e).sched = s.sched := rfl
@[simp] theorem State.after_clk (s : State) (n : Nat) (e : Ev) : (s.after n e).clk = s.clk := rfl
@[simp] theorem State.after_accs (s : State) (n : Nat) (e : Ev) : (s.after n e).accs = s.accs := rfl
@[simp] theorem State.after_fresh (s : State) (n : Nat) (e : Ev) : (s.after n e).fresh = s.fresh := rfl
@[simp] theorem State.after_cause (s : State) (n : Nat) (e : Ev) : (s.after n e).cause = s.cause := rfl
@[simp] theorem State.after_quiet (s : State) (n : Nat) (e : Ev) : (s.after n e).quiet = s.quiet := rfl
@[simp] theorem State.after_out (s : State) (n : Nat) (e : Ev) : (s.after n e).out = s.out := rfl

/-! ### `stall` -/

@[simp] theorem State.stall_cur (s : State) : (s.stall).cur = s.cur := rfl
@[simp] theorem State.stall_ir (s : State) : (s.stall).ir = s.ir := rfl
@[simp] theorem State.stall_pre (s : State) : (s.stall).pre = s.pre := rfl
@[simp] theorem State.stall_xfer (s : State) : (s.stall).xfer = .again := rfl
@[simp] theorem State.stall_aflags (s : State) : (s.stall).aflags = s.aflags := rfl
@[simp] theorem State.stall_curX (s : State) : (s.stall).curX = s.curX := rfl
@[simp] theorem State.stall_procs (s : State) : (s.stall).procs = s.procs := rfl
@[simp] theorem State.stall_cores (s : State) : (s.stall).cores = s.cores := rfl
@[simp] theorem State.stall_lastCore (s : State) : (s.stall).lastCore = s.lastCore := rfl
@[simp] theorem State.stall_barriers (s : State) : (s.stall).barriers = s.barriers := rfl
@[simp] theorem State.stall_helpers (s : State) : (s.stall).helpers = s.helpers := rfl
@[simp] theorem State.stall_hstore (s : State) : (s.stall).hstore = s.hstore := rfl
@[simp] theorem State.stall_streams (s : State) : (s.stall).streams = s.streams := rfl
@[simp] theorem State.stall_mem (s : State) : (s.stall).mem = s.mem := rfl
@[simp] theorem State.stall_side (s : State) : (s.stall).side = s.side := rfl
@[simp] theorem State.stall_poison (s : State) : (s.stall).poison = s.poison := rfl
@[simp] theorem State.stall_badRead (s : State) : (s.stall).badRead = s.badRead := rfl
@[simp] theorem State.stall_corrected (s : State) : (s.stall).corrected = s.corrected := rfl
@[simp] theorem State.stall_parity (s : State) : (s.stall).parity = s.parity := rfl
@[simp] theorem State.stall_waiters (s : State) : (s.stall).waiters = s.waiters := rfl
@[simp] theorem State.stall_rels (s : State) : (s.stall).rels = s.rels := rfl
@[simp] theorem State.stall_widens (s : State) : (s.stall).widens = s.widens := rfl
@[simp] theorem State.stall_locks (s : State) : (s.stall).locks = s.locks := rfl
@[simp] theorem State.stall_regs (s : State) : (s.stall).regs = s.regs := rfl
@[simp] theorem State.stall_descs (s : State) : (s.stall).descs = s.descs := rfl
@[simp] theorem State.stall_tlb (s : State) : (s.stall).tlb = s.tlb := rfl
@[simp] theorem State.stall_upper (s : State) : (s.stall).upper = s.upper := rfl
@[simp] theorem State.stall_walks (s : State) : (s.stall).walks = s.walks := rfl
@[simp] theorem State.stall_walkQ (s : State) : (s.stall).walkQ = s.walkQ := rfl
@[simp] theorem State.stall_walkWait (s : State) : (s.stall).walkWait = s.walkWait := rfl
@[simp] theorem State.stall_benches (s : State) : (s.stall).benches = s.benches := rfl
@[simp] theorem State.stall_acc (s : State) : (s.stall).acc = s.acc := rfl
@[simp] theorem State.stall_matq (s : State) : (s.stall).matq = s.matq := rfl
@[simp] theorem State.stall_engines (s : State) : (s.stall).engines = s.engines := rfl
@[simp] theorem State.stall_chanq (s : State) : (s.stall).chanq = s.chanq := rfl
@[simp] theorem State.stall_selq (s : State) : (s.stall).selq = s.selq := rfl
@[simp] theorem State.stall_epHeld (s : State) : (s.stall).epHeld = s.epHeld := rfl
@[simp] theorem State.stall_elems (s : State) : (s.stall).elems = s.elems := rfl
@[simp] theorem State.stall_tiles (s : State) : (s.stall).tiles = s.tiles := rfl
@[simp] theorem State.stall_ctxs (s : State) : (s.stall).ctxs = s.ctxs := rfl
@[simp] theorem State.stall_launches (s : State) : (s.stall).launches = s.launches := rfl
@[simp] theorem State.stall_lqs (s : State) : (s.stall).lqs = s.lqs := rfl
@[simp] theorem State.stall_lastQ (s : State) : (s.stall).lastQ = s.lastQ := rfl
@[simp] theorem State.stall_commitAt (s : State) : (s.stall).commitAt = s.commitAt := rfl
@[simp] theorem State.stall_turns (s : State) : (s.stall).turns = s.turns := rfl
@[simp] theorem State.stall_commits (s : State) : (s.stall).commits = s.commits := rfl
@[simp] theorem State.stall_msStore (s : State) : (s.stall).msStore = s.msStore := rfl
@[simp] theorem State.stall_eth (s : State) : (s.stall).eth = s.eth := rfl
@[simp] theorem State.stall_links (s : State) : (s.stall).links = s.links := rfl
@[simp] theorem State.stall_eseqTx (s : State) : (s.stall).eseqTx = s.eseqTx := rfl
@[simp] theorem State.stall_eseqRx (s : State) : (s.stall).eseqRx = s.eseqRx := rfl
@[simp] theorem State.stall_heldFlits (s : State) : (s.stall).heldFlits = s.heldFlits := rfl
@[simp] theorem State.stall_resent (s : State) : (s.stall).resent = s.resent := rfl
@[simp] theorem State.stall_reorder (s : State) : (s.stall).reorder = s.reorder := rfl
@[simp] theorem State.stall_tileIn (s : State) : (s.stall).tileIn = s.tileIn := rfl
@[simp] theorem State.stall_peers (s : State) : (s.stall).peers = s.peers := rfl
@[simp] theorem State.stall_peerOps (s : State) : (s.stall).peerOps = s.peerOps := rfl
@[simp] theorem State.stall_peerCalls (s : State) : (s.stall).peerCalls = s.peerCalls := rfl
@[simp] theorem State.stall_frozenNodes (s : State) : (s.stall).frozenNodes = s.frozenNodes := rfl
@[simp] theorem State.stall_refusals (s : State) : (s.stall).refusals = s.refusals := rfl
@[simp] theorem State.stall_hostReads (s : State) : (s.stall).hostReads = s.hostReads := rfl
@[simp] theorem State.stall_hostGot (s : State) : (s.stall).hostGot = s.hostGot := rfl
@[simp] theorem State.stall_msix (s : State) : (s.stall).msix = s.msix := rfl
@[simp] theorem State.stall_posts (s : State) : (s.stall).posts = s.posts := rfl
@[simp] theorem State.stall_anns (s : State) : (s.stall).anns = s.anns := rfl
@[simp] theorem State.stall_postNum (s : State) : (s.stall).postNum = s.postNum := rfl
@[simp] theorem State.stall_colls (s : State) : (s.stall).colls = s.colls := rfl
@[simp] theorem State.stall_chunkBufs (s : State) : (s.stall).chunkBufs = s.chunkBufs := rfl
@[simp] theorem State.stall_lastCid (s : State) : (s.stall).lastCid = s.lastCid := rfl
@[simp] theorem State.stall_truss (s : State) : (s.stall).truss = s.truss := rfl
@[simp] theorem State.stall_fabric (s : State) : (s.stall).fabric = s.fabric := rfl
@[simp] theorem State.stall_roles (s : State) : (s.stall).roles = s.roles := rfl
@[simp] theorem State.stall_dropped (s : State) : (s.stall).dropped = s.dropped := rfl
@[simp] theorem State.stall_temps (s : State) : (s.stall).temps = s.temps := rfl
@[simp] theorem State.stall_thermAt (s : State) : (s.stall).thermAt = s.thermAt := rfl
@[simp] theorem State.stall_pwrStep (s : State) : (s.stall).pwrStep = s.pwrStep := rfl
@[simp] theorem State.stall_watts (s : State) : (s.stall).watts = s.watts := rfl
@[simp] theorem State.stall_boot (s : State) : (s.stall).boot = s.boot := rfl
@[simp] theorem State.stall_board (s : State) : (s.stall).board = s.board := rfl
@[simp] theorem State.stall_agenda (s : State) : (s.stall).agenda = s.agenda := rfl
@[simp] theorem State.stall_blocked (s : State) : (s.stall).blocked = s.blocked := rfl
@[simp] theorem State.stall_timers (s : State) : (s.stall).timers = s.timers := rfl
@[simp] theorem State.stall_sched (s : State) : (s.stall).sched = s.sched := rfl
@[simp] theorem State.stall_clk (s : State) : (s.stall).clk = s.clk := rfl
@[simp] theorem State.stall_accs (s : State) : (s.stall).accs = s.accs := rfl
@[simp] theorem State.stall_fresh (s : State) : (s.stall).fresh = s.fresh := rfl
@[simp] theorem State.stall_cause (s : State) : (s.stall).cause = s.cause := rfl
@[simp] theorem State.stall_quiet (s : State) : (s.stall).quiet = s.quiet := rfl
@[simp] theorem State.stall_out (s : State) : (s.stall).out = s.out := rfl

/-! ### `setReg` -/

@[simp] theorem State.setReg_cur (s : State) (a : Nat) (x : Word) : (s.setReg a x).cur = s.cur := rfl
@[simp] theorem State.setReg_ir (s : State) (a : Nat) (x : Word) : (s.setReg a x).ir = s.ir := rfl
@[simp] theorem State.setReg_pre (s : State) (a : Nat) (x : Word) : (s.setReg a x).pre = s.pre := rfl
@[simp] theorem State.setReg_xfer (s : State) (a : Nat) (x : Word) : (s.setReg a x).xfer = s.xfer := rfl
@[simp] theorem State.setReg_aflags (s : State) (a : Nat) (x : Word) : (s.setReg a x).aflags = s.aflags := rfl
@[simp] theorem State.setReg_curX (s : State) (a : Nat) (x : Word) : (s.setReg a x).curX = s.curX := rfl
@[simp] theorem State.setReg_procs (s : State) (a : Nat) (x : Word) : (s.setReg a x).procs = s.procs := rfl
@[simp] theorem State.setReg_cores (s : State) (a : Nat) (x : Word) : (s.setReg a x).cores = s.cores := rfl
@[simp] theorem State.setReg_lastCore (s : State) (a : Nat) (x : Word) : (s.setReg a x).lastCore = s.lastCore := rfl
@[simp] theorem State.setReg_barriers (s : State) (a : Nat) (x : Word) : (s.setReg a x).barriers = s.barriers := rfl
@[simp] theorem State.setReg_helpers (s : State) (a : Nat) (x : Word) : (s.setReg a x).helpers = s.helpers := rfl
@[simp] theorem State.setReg_hstore (s : State) (a : Nat) (x : Word) : (s.setReg a x).hstore = s.hstore := rfl
@[simp] theorem State.setReg_streams (s : State) (a : Nat) (x : Word) : (s.setReg a x).streams = s.streams := rfl
@[simp] theorem State.setReg_mem (s : State) (a : Nat) (x : Word) : (s.setReg a x).mem = s.mem := rfl
@[simp] theorem State.setReg_side (s : State) (a : Nat) (x : Word) : (s.setReg a x).side = s.side := rfl
@[simp] theorem State.setReg_poison (s : State) (a : Nat) (x : Word) : (s.setReg a x).poison = s.poison := rfl
@[simp] theorem State.setReg_badRead (s : State) (a : Nat) (x : Word) : (s.setReg a x).badRead = s.badRead := rfl
@[simp] theorem State.setReg_corrected (s : State) (a : Nat) (x : Word) : (s.setReg a x).corrected = s.corrected := rfl
@[simp] theorem State.setReg_parity (s : State) (a : Nat) (x : Word) : (s.setReg a x).parity = s.parity := rfl
@[simp] theorem State.setReg_waiters (s : State) (a : Nat) (x : Word) : (s.setReg a x).waiters = s.waiters := rfl
@[simp] theorem State.setReg_rels (s : State) (a : Nat) (x : Word) : (s.setReg a x).rels = s.rels := rfl
@[simp] theorem State.setReg_widens (s : State) (a : Nat) (x : Word) : (s.setReg a x).widens = s.widens := rfl
@[simp] theorem State.setReg_locks (s : State) (a : Nat) (x : Word) : (s.setReg a x).locks = s.locks := rfl
@[simp] theorem State.setReg_regs (s : State) (a : Nat) (x : Word) : (s.setReg a x).regs = SMap.put (regReset a) s.regs a x := rfl
@[simp] theorem State.setReg_descs (s : State) (a : Nat) (x : Word) : (s.setReg a x).descs = s.descs := rfl
@[simp] theorem State.setReg_tlb (s : State) (a : Nat) (x : Word) : (s.setReg a x).tlb = s.tlb := rfl
@[simp] theorem State.setReg_upper (s : State) (a : Nat) (x : Word) : (s.setReg a x).upper = s.upper := rfl
@[simp] theorem State.setReg_walks (s : State) (a : Nat) (x : Word) : (s.setReg a x).walks = s.walks := rfl
@[simp] theorem State.setReg_walkQ (s : State) (a : Nat) (x : Word) : (s.setReg a x).walkQ = s.walkQ := rfl
@[simp] theorem State.setReg_walkWait (s : State) (a : Nat) (x : Word) : (s.setReg a x).walkWait = s.walkWait := rfl
@[simp] theorem State.setReg_benches (s : State) (a : Nat) (x : Word) : (s.setReg a x).benches = s.benches := rfl
@[simp] theorem State.setReg_acc (s : State) (a : Nat) (x : Word) : (s.setReg a x).acc = s.acc := rfl
@[simp] theorem State.setReg_matq (s : State) (a : Nat) (x : Word) : (s.setReg a x).matq = s.matq := rfl
@[simp] theorem State.setReg_engines (s : State) (a : Nat) (x : Word) : (s.setReg a x).engines = s.engines := rfl
@[simp] theorem State.setReg_chanq (s : State) (a : Nat) (x : Word) : (s.setReg a x).chanq = s.chanq := rfl
@[simp] theorem State.setReg_selq (s : State) (a : Nat) (x : Word) : (s.setReg a x).selq = s.selq := rfl
@[simp] theorem State.setReg_epHeld (s : State) (a : Nat) (x : Word) : (s.setReg a x).epHeld = s.epHeld := rfl
@[simp] theorem State.setReg_elems (s : State) (a : Nat) (x : Word) : (s.setReg a x).elems = s.elems := rfl
@[simp] theorem State.setReg_tiles (s : State) (a : Nat) (x : Word) : (s.setReg a x).tiles = s.tiles := rfl
@[simp] theorem State.setReg_ctxs (s : State) (a : Nat) (x : Word) : (s.setReg a x).ctxs = s.ctxs := rfl
@[simp] theorem State.setReg_launches (s : State) (a : Nat) (x : Word) : (s.setReg a x).launches = s.launches := rfl
@[simp] theorem State.setReg_lqs (s : State) (a : Nat) (x : Word) : (s.setReg a x).lqs = s.lqs := rfl
@[simp] theorem State.setReg_lastQ (s : State) (a : Nat) (x : Word) : (s.setReg a x).lastQ = s.lastQ := rfl
@[simp] theorem State.setReg_commitAt (s : State) (a : Nat) (x : Word) : (s.setReg a x).commitAt = s.commitAt := rfl
@[simp] theorem State.setReg_turns (s : State) (a : Nat) (x : Word) : (s.setReg a x).turns = s.turns := rfl
@[simp] theorem State.setReg_commits (s : State) (a : Nat) (x : Word) : (s.setReg a x).commits = s.commits := rfl
@[simp] theorem State.setReg_msStore (s : State) (a : Nat) (x : Word) : (s.setReg a x).msStore = s.msStore := rfl
@[simp] theorem State.setReg_eth (s : State) (a : Nat) (x : Word) : (s.setReg a x).eth = s.eth := rfl
@[simp] theorem State.setReg_links (s : State) (a : Nat) (x : Word) : (s.setReg a x).links = s.links := rfl
@[simp] theorem State.setReg_eseqTx (s : State) (a : Nat) (x : Word) : (s.setReg a x).eseqTx = s.eseqTx := rfl
@[simp] theorem State.setReg_eseqRx (s : State) (a : Nat) (x : Word) : (s.setReg a x).eseqRx = s.eseqRx := rfl
@[simp] theorem State.setReg_heldFlits (s : State) (a : Nat) (x : Word) : (s.setReg a x).heldFlits = s.heldFlits := rfl
@[simp] theorem State.setReg_resent (s : State) (a : Nat) (x : Word) : (s.setReg a x).resent = s.resent := rfl
@[simp] theorem State.setReg_reorder (s : State) (a : Nat) (x : Word) : (s.setReg a x).reorder = s.reorder := rfl
@[simp] theorem State.setReg_tileIn (s : State) (a : Nat) (x : Word) : (s.setReg a x).tileIn = s.tileIn := rfl
@[simp] theorem State.setReg_peers (s : State) (a : Nat) (x : Word) : (s.setReg a x).peers = s.peers := rfl
@[simp] theorem State.setReg_peerOps (s : State) (a : Nat) (x : Word) : (s.setReg a x).peerOps = s.peerOps := rfl
@[simp] theorem State.setReg_peerCalls (s : State) (a : Nat) (x : Word) : (s.setReg a x).peerCalls = s.peerCalls := rfl
@[simp] theorem State.setReg_frozenNodes (s : State) (a : Nat) (x : Word) : (s.setReg a x).frozenNodes = s.frozenNodes := rfl
@[simp] theorem State.setReg_refusals (s : State) (a : Nat) (x : Word) : (s.setReg a x).refusals = s.refusals := rfl
@[simp] theorem State.setReg_hostReads (s : State) (a : Nat) (x : Word) : (s.setReg a x).hostReads = s.hostReads := rfl
@[simp] theorem State.setReg_hostGot (s : State) (a : Nat) (x : Word) : (s.setReg a x).hostGot = s.hostGot := rfl
@[simp] theorem State.setReg_msix (s : State) (a : Nat) (x : Word) : (s.setReg a x).msix = s.msix := rfl
@[simp] theorem State.setReg_posts (s : State) (a : Nat) (x : Word) : (s.setReg a x).posts = s.posts := rfl
@[simp] theorem State.setReg_anns (s : State) (a : Nat) (x : Word) : (s.setReg a x).anns = s.anns := rfl
@[simp] theorem State.setReg_postNum (s : State) (a : Nat) (x : Word) : (s.setReg a x).postNum = s.postNum := rfl
@[simp] theorem State.setReg_colls (s : State) (a : Nat) (x : Word) : (s.setReg a x).colls = s.colls := rfl
@[simp] theorem State.setReg_chunkBufs (s : State) (a : Nat) (x : Word) : (s.setReg a x).chunkBufs = s.chunkBufs := rfl
@[simp] theorem State.setReg_lastCid (s : State) (a : Nat) (x : Word) : (s.setReg a x).lastCid = s.lastCid := rfl
@[simp] theorem State.setReg_truss (s : State) (a : Nat) (x : Word) : (s.setReg a x).truss = s.truss := rfl
@[simp] theorem State.setReg_fabric (s : State) (a : Nat) (x : Word) : (s.setReg a x).fabric = s.fabric := rfl
@[simp] theorem State.setReg_roles (s : State) (a : Nat) (x : Word) : (s.setReg a x).roles = s.roles := rfl
@[simp] theorem State.setReg_dropped (s : State) (a : Nat) (x : Word) : (s.setReg a x).dropped = s.dropped := rfl
@[simp] theorem State.setReg_temps (s : State) (a : Nat) (x : Word) : (s.setReg a x).temps = s.temps := rfl
@[simp] theorem State.setReg_thermAt (s : State) (a : Nat) (x : Word) : (s.setReg a x).thermAt = s.thermAt := rfl
@[simp] theorem State.setReg_pwrStep (s : State) (a : Nat) (x : Word) : (s.setReg a x).pwrStep = s.pwrStep := rfl
@[simp] theorem State.setReg_watts (s : State) (a : Nat) (x : Word) : (s.setReg a x).watts = s.watts := rfl
@[simp] theorem State.setReg_boot (s : State) (a : Nat) (x : Word) : (s.setReg a x).boot = s.boot := rfl
@[simp] theorem State.setReg_board (s : State) (a : Nat) (x : Word) : (s.setReg a x).board = s.board := rfl
@[simp] theorem State.setReg_agenda (s : State) (a : Nat) (x : Word) : (s.setReg a x).agenda = s.agenda := rfl
@[simp] theorem State.setReg_blocked (s : State) (a : Nat) (x : Word) : (s.setReg a x).blocked = s.blocked := rfl
@[simp] theorem State.setReg_timers (s : State) (a : Nat) (x : Word) : (s.setReg a x).timers = s.timers := rfl
@[simp] theorem State.setReg_sched (s : State) (a : Nat) (x : Word) : (s.setReg a x).sched = s.sched := rfl
@[simp] theorem State.setReg_clk (s : State) (a : Nat) (x : Word) : (s.setReg a x).clk = s.clk := rfl
@[simp] theorem State.setReg_accs (s : State) (a : Nat) (x : Word) : (s.setReg a x).accs = s.accs := rfl
@[simp] theorem State.setReg_fresh (s : State) (a : Nat) (x : Word) : (s.setReg a x).fresh = s.fresh := rfl
@[simp] theorem State.setReg_cause (s : State) (a : Nat) (x : Word) : (s.setReg a x).cause = s.cause := rfl
@[simp] theorem State.setReg_quiet (s : State) (a : Nat) (x : Word) : (s.setReg a x).quiet = s.quiet := rfl
@[simp] theorem State.setReg_out (s : State) (a : Nat) (x : Word) : (s.setReg a x).out = s.out := rfl

/-! ### `poke` -/

@[simp] theorem State.poke_cur (s : State) (a : Nat) (x : Word) : (s.poke a x).cur = s.cur := rfl
@[simp] theorem State.poke_ir (s : State) (a : Nat) (x : Word) : (s.poke a x).ir = s.ir := rfl
@[simp] theorem State.poke_pre (s : State) (a : Nat) (x : Word) : (s.poke a x).pre = s.pre := rfl
@[simp] theorem State.poke_xfer (s : State) (a : Nat) (x : Word) : (s.poke a x).xfer = s.xfer := rfl
@[simp] theorem State.poke_aflags (s : State) (a : Nat) (x : Word) : (s.poke a x).aflags = s.aflags := rfl
@[simp] theorem State.poke_curX (s : State) (a : Nat) (x : Word) : (s.poke a x).curX = s.curX := rfl
@[simp] theorem State.poke_procs (s : State) (a : Nat) (x : Word) : (s.poke a x).procs = s.procs := rfl
@[simp] theorem State.poke_cores (s : State) (a : Nat) (x : Word) : (s.poke a x).cores = s.cores := rfl
@[simp] theorem State.poke_lastCore (s : State) (a : Nat) (x : Word) : (s.poke a x).lastCore = s.lastCore := rfl
@[simp] theorem State.poke_barriers (s : State) (a : Nat) (x : Word) : (s.poke a x).barriers = s.barriers := rfl
@[simp] theorem State.poke_helpers (s : State) (a : Nat) (x : Word) : (s.poke a x).helpers = s.helpers := rfl
@[simp] theorem State.poke_hstore (s : State) (a : Nat) (x : Word) : (s.poke a x).hstore = s.hstore := rfl
@[simp] theorem State.poke_streams (s : State) (a : Nat) (x : Word) : (s.poke a x).streams = s.streams := rfl
@[simp] theorem State.poke_mem (s : State) (a : Nat) (x : Word) : (s.poke a x).mem = writeWord s.mem a x := rfl
@[simp] theorem State.poke_side (s : State) (a : Nat) (x : Word) : (s.poke a x).side = s.side := rfl
@[simp] theorem State.poke_poison (s : State) (a : Nat) (x : Word) : (s.poke a x).poison = s.poison := rfl
@[simp] theorem State.poke_badRead (s : State) (a : Nat) (x : Word) : (s.poke a x).badRead = s.badRead := rfl
@[simp] theorem State.poke_corrected (s : State) (a : Nat) (x : Word) : (s.poke a x).corrected = s.corrected := rfl
@[simp] theorem State.poke_parity (s : State) (a : Nat) (x : Word) : (s.poke a x).parity = s.parity := rfl
@[simp] theorem State.poke_waiters (s : State) (a : Nat) (x : Word) : (s.poke a x).waiters = s.waiters := rfl
@[simp] theorem State.poke_rels (s : State) (a : Nat) (x : Word) : (s.poke a x).rels = s.rels := rfl
@[simp] theorem State.poke_widens (s : State) (a : Nat) (x : Word) : (s.poke a x).widens = s.widens := rfl
@[simp] theorem State.poke_locks (s : State) (a : Nat) (x : Word) : (s.poke a x).locks = s.locks := rfl
@[simp] theorem State.poke_regs (s : State) (a : Nat) (x : Word) : (s.poke a x).regs = s.regs := rfl
@[simp] theorem State.poke_descs (s : State) (a : Nat) (x : Word) : (s.poke a x).descs = s.descs := rfl
@[simp] theorem State.poke_tlb (s : State) (a : Nat) (x : Word) : (s.poke a x).tlb = s.tlb := rfl
@[simp] theorem State.poke_upper (s : State) (a : Nat) (x : Word) : (s.poke a x).upper = s.upper := rfl
@[simp] theorem State.poke_walks (s : State) (a : Nat) (x : Word) : (s.poke a x).walks = s.walks := rfl
@[simp] theorem State.poke_walkQ (s : State) (a : Nat) (x : Word) : (s.poke a x).walkQ = s.walkQ := rfl
@[simp] theorem State.poke_walkWait (s : State) (a : Nat) (x : Word) : (s.poke a x).walkWait = s.walkWait := rfl
@[simp] theorem State.poke_benches (s : State) (a : Nat) (x : Word) : (s.poke a x).benches = s.benches := rfl
@[simp] theorem State.poke_acc (s : State) (a : Nat) (x : Word) : (s.poke a x).acc = s.acc := rfl
@[simp] theorem State.poke_matq (s : State) (a : Nat) (x : Word) : (s.poke a x).matq = s.matq := rfl
@[simp] theorem State.poke_engines (s : State) (a : Nat) (x : Word) : (s.poke a x).engines = s.engines := rfl
@[simp] theorem State.poke_chanq (s : State) (a : Nat) (x : Word) : (s.poke a x).chanq = s.chanq := rfl
@[simp] theorem State.poke_selq (s : State) (a : Nat) (x : Word) : (s.poke a x).selq = s.selq := rfl
@[simp] theorem State.poke_epHeld (s : State) (a : Nat) (x : Word) : (s.poke a x).epHeld = s.epHeld := rfl
@[simp] theorem State.poke_elems (s : State) (a : Nat) (x : Word) : (s.poke a x).elems = s.elems := rfl
@[simp] theorem State.poke_tiles (s : State) (a : Nat) (x : Word) : (s.poke a x).tiles = s.tiles := rfl
@[simp] theorem State.poke_ctxs (s : State) (a : Nat) (x : Word) : (s.poke a x).ctxs = s.ctxs := rfl
@[simp] theorem State.poke_launches (s : State) (a : Nat) (x : Word) : (s.poke a x).launches = s.launches := rfl
@[simp] theorem State.poke_lqs (s : State) (a : Nat) (x : Word) : (s.poke a x).lqs = s.lqs := rfl
@[simp] theorem State.poke_lastQ (s : State) (a : Nat) (x : Word) : (s.poke a x).lastQ = s.lastQ := rfl
@[simp] theorem State.poke_commitAt (s : State) (a : Nat) (x : Word) : (s.poke a x).commitAt = s.commitAt := rfl
@[simp] theorem State.poke_turns (s : State) (a : Nat) (x : Word) : (s.poke a x).turns = s.turns := rfl
@[simp] theorem State.poke_commits (s : State) (a : Nat) (x : Word) : (s.poke a x).commits = s.commits := rfl
@[simp] theorem State.poke_msStore (s : State) (a : Nat) (x : Word) : (s.poke a x).msStore = s.msStore := rfl
@[simp] theorem State.poke_eth (s : State) (a : Nat) (x : Word) : (s.poke a x).eth = s.eth := rfl
@[simp] theorem State.poke_links (s : State) (a : Nat) (x : Word) : (s.poke a x).links = s.links := rfl
@[simp] theorem State.poke_eseqTx (s : State) (a : Nat) (x : Word) : (s.poke a x).eseqTx = s.eseqTx := rfl
@[simp] theorem State.poke_eseqRx (s : State) (a : Nat) (x : Word) : (s.poke a x).eseqRx = s.eseqRx := rfl
@[simp] theorem State.poke_heldFlits (s : State) (a : Nat) (x : Word) : (s.poke a x).heldFlits = s.heldFlits := rfl
@[simp] theorem State.poke_resent (s : State) (a : Nat) (x : Word) : (s.poke a x).resent = s.resent := rfl
@[simp] theorem State.poke_reorder (s : State) (a : Nat) (x : Word) : (s.poke a x).reorder = s.reorder := rfl
@[simp] theorem State.poke_tileIn (s : State) (a : Nat) (x : Word) : (s.poke a x).tileIn = s.tileIn := rfl
@[simp] theorem State.poke_peers (s : State) (a : Nat) (x : Word) : (s.poke a x).peers = s.peers := rfl
@[simp] theorem State.poke_peerOps (s : State) (a : Nat) (x : Word) : (s.poke a x).peerOps = s.peerOps := rfl
@[simp] theorem State.poke_peerCalls (s : State) (a : Nat) (x : Word) : (s.poke a x).peerCalls = s.peerCalls := rfl
@[simp] theorem State.poke_frozenNodes (s : State) (a : Nat) (x : Word) : (s.poke a x).frozenNodes = s.frozenNodes := rfl
@[simp] theorem State.poke_refusals (s : State) (a : Nat) (x : Word) : (s.poke a x).refusals = s.refusals := rfl
@[simp] theorem State.poke_hostReads (s : State) (a : Nat) (x : Word) : (s.poke a x).hostReads = s.hostReads := rfl
@[simp] theorem State.poke_hostGot (s : State) (a : Nat) (x : Word) : (s.poke a x).hostGot = s.hostGot := rfl
@[simp] theorem State.poke_msix (s : State) (a : Nat) (x : Word) : (s.poke a x).msix = s.msix := rfl
@[simp] theorem State.poke_posts (s : State) (a : Nat) (x : Word) : (s.poke a x).posts = s.posts := rfl
@[simp] theorem State.poke_anns (s : State) (a : Nat) (x : Word) : (s.poke a x).anns = s.anns := rfl
@[simp] theorem State.poke_postNum (s : State) (a : Nat) (x : Word) : (s.poke a x).postNum = s.postNum := rfl
@[simp] theorem State.poke_colls (s : State) (a : Nat) (x : Word) : (s.poke a x).colls = s.colls := rfl
@[simp] theorem State.poke_chunkBufs (s : State) (a : Nat) (x : Word) : (s.poke a x).chunkBufs = s.chunkBufs := rfl
@[simp] theorem State.poke_lastCid (s : State) (a : Nat) (x : Word) : (s.poke a x).lastCid = s.lastCid := rfl
@[simp] theorem State.poke_truss (s : State) (a : Nat) (x : Word) : (s.poke a x).truss = s.truss := rfl
@[simp] theorem State.poke_fabric (s : State) (a : Nat) (x : Word) : (s.poke a x).fabric = s.fabric := rfl
@[simp] theorem State.poke_roles (s : State) (a : Nat) (x : Word) : (s.poke a x).roles = s.roles := rfl
@[simp] theorem State.poke_dropped (s : State) (a : Nat) (x : Word) : (s.poke a x).dropped = s.dropped := rfl
@[simp] theorem State.poke_temps (s : State) (a : Nat) (x : Word) : (s.poke a x).temps = s.temps := rfl
@[simp] theorem State.poke_thermAt (s : State) (a : Nat) (x : Word) : (s.poke a x).thermAt = s.thermAt := rfl
@[simp] theorem State.poke_pwrStep (s : State) (a : Nat) (x : Word) : (s.poke a x).pwrStep = s.pwrStep := rfl
@[simp] theorem State.poke_watts (s : State) (a : Nat) (x : Word) : (s.poke a x).watts = s.watts := rfl
@[simp] theorem State.poke_boot (s : State) (a : Nat) (x : Word) : (s.poke a x).boot = s.boot := rfl
@[simp] theorem State.poke_board (s : State) (a : Nat) (x : Word) : (s.poke a x).board = s.board := rfl
@[simp] theorem State.poke_agenda (s : State) (a : Nat) (x : Word) : (s.poke a x).agenda = s.agenda := rfl
@[simp] theorem State.poke_blocked (s : State) (a : Nat) (x : Word) : (s.poke a x).blocked = s.blocked := rfl
@[simp] theorem State.poke_timers (s : State) (a : Nat) (x : Word) : (s.poke a x).timers = s.timers := rfl
@[simp] theorem State.poke_sched (s : State) (a : Nat) (x : Word) : (s.poke a x).sched = s.sched := rfl
@[simp] theorem State.poke_clk (s : State) (a : Nat) (x : Word) : (s.poke a x).clk = s.clk := rfl
@[simp] theorem State.poke_accs (s : State) (a : Nat) (x : Word) : (s.poke a x).accs = s.accs := rfl
@[simp] theorem State.poke_fresh (s : State) (a : Nat) (x : Word) : (s.poke a x).fresh = s.fresh := rfl
@[simp] theorem State.poke_cause (s : State) (a : Nat) (x : Word) : (s.poke a x).cause = s.cause := rfl
@[simp] theorem State.poke_quiet (s : State) (a : Nat) (x : Word) : (s.poke a x).quiet = s.quiet := rfl
@[simp] theorem State.poke_out (s : State) (a : Nat) (x : Word) : (s.poke a x).out = s.out := rfl

/-! ### `setSide` -/

@[simp] theorem State.setSide_cur (s : State) (w : Nat) (x : BitVec 15) : (s.setSide w x).cur = s.cur := rfl
@[simp] theorem State.setSide_ir (s : State) (w : Nat) (x : BitVec 15) : (s.setSide w x).ir = s.ir := rfl
@[simp] theorem State.setSide_pre (s : State) (w : Nat) (x : BitVec 15) : (s.setSide w x).pre = s.pre := rfl
@[simp] theorem State.setSide_xfer (s : State) (w : Nat) (x : BitVec 15) : (s.setSide w x).xfer = s.xfer := rfl
@[simp] theorem State.setSide_aflags (s : State) (w : Nat) (x : BitVec 15) : (s.setSide w x).aflags = s.aflags := rfl
@[simp] theorem State.setSide_curX (s : State) (w : Nat) (x : BitVec 15) : (s.setSide w x).curX = s.curX := rfl
@[simp] theorem State.setSide_procs (s : State) (w : Nat) (x : BitVec 15) : (s.setSide w x).procs = s.procs := rfl
@[simp] theorem State.setSide_cores (s : State) (w : Nat) (x : BitVec 15) : (s.setSide w x).cores = s.cores := rfl
@[simp] theorem State.setSide_lastCore (s : State) (w : Nat) (x : BitVec 15) : (s.setSide w x).lastCore = s.lastCore := rfl
@[simp] theorem State.setSide_barriers (s : State) (w : Nat) (x : BitVec 15) : (s.setSide w x).barriers = s.barriers := rfl
@[simp] theorem State.setSide_helpers (s : State) (w : Nat) (x : BitVec 15) : (s.setSide w x).helpers = s.helpers := rfl
@[simp] theorem State.setSide_hstore (s : State) (w : Nat) (x : BitVec 15) : (s.setSide w x).hstore = s.hstore := rfl
@[simp] theorem State.setSide_streams (s : State) (w : Nat) (x : BitVec 15) : (s.setSide w x).streams = s.streams := rfl
@[simp] theorem State.setSide_mem (s : State) (w : Nat) (x : BitVec 15) : (s.setSide w x).mem = s.mem := rfl
@[simp] theorem State.setSide_side (s : State) (w : Nat) (x : BitVec 15) : (s.setSide w x).side = SMap.put side0 s.side w x := rfl
@[simp] theorem State.setSide_poison (s : State) (w : Nat) (x : BitVec 15) : (s.setSide w x).poison = s.poison := rfl
@[simp] theorem State.setSide_badRead (s : State) (w : Nat) (x : BitVec 15) : (s.setSide w x).badRead = s.badRead := rfl
@[simp] theorem State.setSide_corrected (s : State) (w : Nat) (x : BitVec 15) : (s.setSide w x).corrected = s.corrected := rfl
@[simp] theorem State.setSide_parity (s : State) (w : Nat) (x : BitVec 15) : (s.setSide w x).parity = s.parity := rfl
@[simp] theorem State.setSide_waiters (s : State) (w : Nat) (x : BitVec 15) : (s.setSide w x).waiters = s.waiters := rfl
@[simp] theorem State.setSide_rels (s : State) (w : Nat) (x : BitVec 15) : (s.setSide w x).rels = s.rels := rfl
@[simp] theorem State.setSide_widens (s : State) (w : Nat) (x : BitVec 15) : (s.setSide w x).widens = s.widens := rfl
@[simp] theorem State.setSide_locks (s : State) (w : Nat) (x : BitVec 15) : (s.setSide w x).locks = s.locks := rfl
@[simp] theorem State.setSide_regs (s : State) (w : Nat) (x : BitVec 15) : (s.setSide w x).regs = s.regs := rfl
@[simp] theorem State.setSide_descs (s : State) (w : Nat) (x : BitVec 15) : (s.setSide w x).descs = s.descs := rfl
@[simp] theorem State.setSide_tlb (s : State) (w : Nat) (x : BitVec 15) : (s.setSide w x).tlb = s.tlb := rfl
@[simp] theorem State.setSide_upper (s : State) (w : Nat) (x : BitVec 15) : (s.setSide w x).upper = s.upper := rfl
@[simp] theorem State.setSide_walks (s : State) (w : Nat) (x : BitVec 15) : (s.setSide w x).walks = s.walks := rfl
@[simp] theorem State.setSide_walkQ (s : State) (w : Nat) (x : BitVec 15) : (s.setSide w x).walkQ = s.walkQ := rfl
@[simp] theorem State.setSide_walkWait (s : State) (w : Nat) (x : BitVec 15) : (s.setSide w x).walkWait = s.walkWait := rfl
@[simp] theorem State.setSide_benches (s : State) (w : Nat) (x : BitVec 15) : (s.setSide w x).benches = s.benches := rfl
@[simp] theorem State.setSide_acc (s : State) (w : Nat) (x : BitVec 15) : (s.setSide w x).acc = s.acc := rfl
@[simp] theorem State.setSide_matq (s : State) (w : Nat) (x : BitVec 15) : (s.setSide w x).matq = s.matq := rfl
@[simp] theorem State.setSide_engines (s : State) (w : Nat) (x : BitVec 15) : (s.setSide w x).engines = s.engines := rfl
@[simp] theorem State.setSide_chanq (s : State) (w : Nat) (x : BitVec 15) : (s.setSide w x).chanq = s.chanq := rfl
@[simp] theorem State.setSide_selq (s : State) (w : Nat) (x : BitVec 15) : (s.setSide w x).selq = s.selq := rfl
@[simp] theorem State.setSide_epHeld (s : State) (w : Nat) (x : BitVec 15) : (s.setSide w x).epHeld = s.epHeld := rfl
@[simp] theorem State.setSide_elems (s : State) (w : Nat) (x : BitVec 15) : (s.setSide w x).elems = s.elems := rfl
@[simp] theorem State.setSide_tiles (s : State) (w : Nat) (x : BitVec 15) : (s.setSide w x).tiles = s.tiles := rfl
@[simp] theorem State.setSide_ctxs (s : State) (w : Nat) (x : BitVec 15) : (s.setSide w x).ctxs = s.ctxs := rfl
@[simp] theorem State.setSide_launches (s : State) (w : Nat) (x : BitVec 15) : (s.setSide w x).launches = s.launches := rfl
@[simp] theorem State.setSide_lqs (s : State) (w : Nat) (x : BitVec 15) : (s.setSide w x).lqs = s.lqs := rfl
@[simp] theorem State.setSide_lastQ (s : State) (w : Nat) (x : BitVec 15) : (s.setSide w x).lastQ = s.lastQ := rfl
@[simp] theorem State.setSide_commitAt (s : State) (w : Nat) (x : BitVec 15) : (s.setSide w x).commitAt = s.commitAt := rfl
@[simp] theorem State.setSide_turns (s : State) (w : Nat) (x : BitVec 15) : (s.setSide w x).turns = s.turns := rfl
@[simp] theorem State.setSide_commits (s : State) (w : Nat) (x : BitVec 15) : (s.setSide w x).commits = s.commits := rfl
@[simp] theorem State.setSide_msStore (s : State) (w : Nat) (x : BitVec 15) : (s.setSide w x).msStore = s.msStore := rfl
@[simp] theorem State.setSide_eth (s : State) (w : Nat) (x : BitVec 15) : (s.setSide w x).eth = s.eth := rfl
@[simp] theorem State.setSide_links (s : State) (w : Nat) (x : BitVec 15) : (s.setSide w x).links = s.links := rfl
@[simp] theorem State.setSide_eseqTx (s : State) (w : Nat) (x : BitVec 15) : (s.setSide w x).eseqTx = s.eseqTx := rfl
@[simp] theorem State.setSide_eseqRx (s : State) (w : Nat) (x : BitVec 15) : (s.setSide w x).eseqRx = s.eseqRx := rfl
@[simp] theorem State.setSide_heldFlits (s : State) (w : Nat) (x : BitVec 15) : (s.setSide w x).heldFlits = s.heldFlits := rfl
@[simp] theorem State.setSide_resent (s : State) (w : Nat) (x : BitVec 15) : (s.setSide w x).resent = s.resent := rfl
@[simp] theorem State.setSide_reorder (s : State) (w : Nat) (x : BitVec 15) : (s.setSide w x).reorder = s.reorder := rfl
@[simp] theorem State.setSide_tileIn (s : State) (w : Nat) (x : BitVec 15) : (s.setSide w x).tileIn = s.tileIn := rfl
@[simp] theorem State.setSide_peers (s : State) (w : Nat) (x : BitVec 15) : (s.setSide w x).peers = s.peers := rfl
@[simp] theorem State.setSide_peerOps (s : State) (w : Nat) (x : BitVec 15) : (s.setSide w x).peerOps = s.peerOps := rfl
@[simp] theorem State.setSide_peerCalls (s : State) (w : Nat) (x : BitVec 15) : (s.setSide w x).peerCalls = s.peerCalls := rfl
@[simp] theorem State.setSide_frozenNodes (s : State) (w : Nat) (x : BitVec 15) : (s.setSide w x).frozenNodes = s.frozenNodes := rfl
@[simp] theorem State.setSide_refusals (s : State) (w : Nat) (x : BitVec 15) : (s.setSide w x).refusals = s.refusals := rfl
@[simp] theorem State.setSide_hostReads (s : State) (w : Nat) (x : BitVec 15) : (s.setSide w x).hostReads = s.hostReads := rfl
@[simp] theorem State.setSide_hostGot (s : State) (w : Nat) (x : BitVec 15) : (s.setSide w x).hostGot = s.hostGot := rfl
@[simp] theorem State.setSide_msix (s : State) (w : Nat) (x : BitVec 15) : (s.setSide w x).msix = s.msix := rfl
@[simp] theorem State.setSide_posts (s : State) (w : Nat) (x : BitVec 15) : (s.setSide w x).posts = s.posts := rfl
@[simp] theorem State.setSide_anns (s : State) (w : Nat) (x : BitVec 15) : (s.setSide w x).anns = s.anns := rfl
@[simp] theorem State.setSide_postNum (s : State) (w : Nat) (x : BitVec 15) : (s.setSide w x).postNum = s.postNum := rfl
@[simp] theorem State.setSide_colls (s : State) (w : Nat) (x : BitVec 15) : (s.setSide w x).colls = s.colls := rfl
@[simp] theorem State.setSide_chunkBufs (s : State) (w : Nat) (x : BitVec 15) : (s.setSide w x).chunkBufs = s.chunkBufs := rfl
@[simp] theorem State.setSide_lastCid (s : State) (w : Nat) (x : BitVec 15) : (s.setSide w x).lastCid = s.lastCid := rfl
@[simp] theorem State.setSide_truss (s : State) (w : Nat) (x : BitVec 15) : (s.setSide w x).truss = s.truss := rfl
@[simp] theorem State.setSide_fabric (s : State) (w : Nat) (x : BitVec 15) : (s.setSide w x).fabric = s.fabric := rfl
@[simp] theorem State.setSide_roles (s : State) (w : Nat) (x : BitVec 15) : (s.setSide w x).roles = s.roles := rfl
@[simp] theorem State.setSide_dropped (s : State) (w : Nat) (x : BitVec 15) : (s.setSide w x).dropped = s.dropped := rfl
@[simp] theorem State.setSide_temps (s : State) (w : Nat) (x : BitVec 15) : (s.setSide w x).temps = s.temps := rfl
@[simp] theorem State.setSide_thermAt (s : State) (w : Nat) (x : BitVec 15) : (s.setSide w x).thermAt = s.thermAt := rfl
@[simp] theorem State.setSide_pwrStep (s : State) (w : Nat) (x : BitVec 15) : (s.setSide w x).pwrStep = s.pwrStep := rfl
@[simp] theorem State.setSide_watts (s : State) (w : Nat) (x : BitVec 15) : (s.setSide w x).watts = s.watts := rfl
@[simp] theorem State.setSide_boot (s : State) (w : Nat) (x : BitVec 15) : (s.setSide w x).boot = s.boot := rfl
@[simp] theorem State.setSide_board (s : State) (w : Nat) (x : BitVec 15) : (s.setSide w x).board = s.board := rfl
@[simp] theorem State.setSide_agenda (s : State) (w : Nat) (x : BitVec 15) : (s.setSide w x).agenda = s.agenda := rfl
@[simp] theorem State.setSide_blocked (s : State) (w : Nat) (x : BitVec 15) : (s.setSide w x).blocked = s.blocked := rfl
@[simp] theorem State.setSide_timers (s : State) (w : Nat) (x : BitVec 15) : (s.setSide w x).timers = s.timers := rfl
@[simp] theorem State.setSide_sched (s : State) (w : Nat) (x : BitVec 15) : (s.setSide w x).sched = s.sched := rfl
@[simp] theorem State.setSide_clk (s : State) (w : Nat) (x : BitVec 15) : (s.setSide w x).clk = s.clk := rfl
@[simp] theorem State.setSide_accs (s : State) (w : Nat) (x : BitVec 15) : (s.setSide w x).accs = s.accs := rfl
@[simp] theorem State.setSide_fresh (s : State) (w : Nat) (x : BitVec 15) : (s.setSide w x).fresh = s.fresh := rfl
@[simp] theorem State.setSide_cause (s : State) (w : Nat) (x : BitVec 15) : (s.setSide w x).cause = s.cause := rfl
@[simp] theorem State.setSide_quiet (s : State) (w : Nat) (x : BitVec 15) : (s.setSide w x).quiet = s.quiet := rfl
@[simp] theorem State.setSide_out (s : State) (w : Nat) (x : BitVec 15) : (s.setSide w x).out = s.out := rfl

/-! ### `updCore` -/

@[simp] theorem State.updCore_cur (s : State) (p : Nat) (f : Core → Core) : (s.updCore p f).cur = s.cur := rfl
@[simp] theorem State.updCore_ir (s : State) (p : Nat) (f : Core → Core) : (s.updCore p f).ir = s.ir := rfl
@[simp] theorem State.updCore_pre (s : State) (p : Nat) (f : Core → Core) : (s.updCore p f).pre = s.pre := rfl
@[simp] theorem State.updCore_xfer (s : State) (p : Nat) (f : Core → Core) : (s.updCore p f).xfer = s.xfer := rfl
@[simp] theorem State.updCore_aflags (s : State) (p : Nat) (f : Core → Core) : (s.updCore p f).aflags = s.aflags := rfl
@[simp] theorem State.updCore_curX (s : State) (p : Nat) (f : Core → Core) : (s.updCore p f).curX = s.curX := rfl
@[simp] theorem State.updCore_procs (s : State) (p : Nat) (f : Core → Core) : (s.updCore p f).procs = s.procs := rfl
@[simp] theorem State.updCore_cores (s : State) (p : Nat) (f : Core → Core) : (s.updCore p f).cores = SMap.put Core.empty s.cores p (f (s.core p)) := rfl
@[simp] theorem State.updCore_lastCore (s : State) (p : Nat) (f : Core → Core) : (s.updCore p f).lastCore = s.lastCore := rfl
@[simp] theorem State.updCore_barriers (s : State) (p : Nat) (f : Core → Core) : (s.updCore p f).barriers = s.barriers := rfl
@[simp] theorem State.updCore_helpers (s : State) (p : Nat) (f : Core → Core) : (s.updCore p f).helpers = s.helpers := rfl
@[simp] theorem State.updCore_hstore (s : State) (p : Nat) (f : Core → Core) : (s.updCore p f).hstore = s.hstore := rfl
@[simp] theorem State.updCore_streams (s : State) (p : Nat) (f : Core → Core) : (s.updCore p f).streams = s.streams := rfl
@[simp] theorem State.updCore_mem (s : State) (p : Nat) (f : Core → Core) : (s.updCore p f).mem = s.mem := rfl
@[simp] theorem State.updCore_side (s : State) (p : Nat) (f : Core → Core) : (s.updCore p f).side = s.side := rfl
@[simp] theorem State.updCore_poison (s : State) (p : Nat) (f : Core → Core) : (s.updCore p f).poison = s.poison := rfl
@[simp] theorem State.updCore_badRead (s : State) (p : Nat) (f : Core → Core) : (s.updCore p f).badRead = s.badRead := rfl
@[simp] theorem State.updCore_corrected (s : State) (p : Nat) (f : Core → Core) : (s.updCore p f).corrected = s.corrected := rfl
@[simp] theorem State.updCore_parity (s : State) (p : Nat) (f : Core → Core) : (s.updCore p f).parity = s.parity := rfl
@[simp] theorem State.updCore_waiters (s : State) (p : Nat) (f : Core → Core) : (s.updCore p f).waiters = s.waiters := rfl
@[simp] theorem State.updCore_rels (s : State) (p : Nat) (f : Core → Core) : (s.updCore p f).rels = s.rels := rfl
@[simp] theorem State.updCore_widens (s : State) (p : Nat) (f : Core → Core) : (s.updCore p f).widens = s.widens := rfl
@[simp] theorem State.updCore_locks (s : State) (p : Nat) (f : Core → Core) : (s.updCore p f).locks = s.locks := rfl
@[simp] theorem State.updCore_regs (s : State) (p : Nat) (f : Core → Core) : (s.updCore p f).regs = s.regs := rfl
@[simp] theorem State.updCore_descs (s : State) (p : Nat) (f : Core → Core) : (s.updCore p f).descs = s.descs := rfl
@[simp] theorem State.updCore_tlb (s : State) (p : Nat) (f : Core → Core) : (s.updCore p f).tlb = s.tlb := rfl
@[simp] theorem State.updCore_upper (s : State) (p : Nat) (f : Core → Core) : (s.updCore p f).upper = s.upper := rfl
@[simp] theorem State.updCore_walks (s : State) (p : Nat) (f : Core → Core) : (s.updCore p f).walks = s.walks := rfl
@[simp] theorem State.updCore_walkQ (s : State) (p : Nat) (f : Core → Core) : (s.updCore p f).walkQ = s.walkQ := rfl
@[simp] theorem State.updCore_walkWait (s : State) (p : Nat) (f : Core → Core) : (s.updCore p f).walkWait = s.walkWait := rfl
@[simp] theorem State.updCore_benches (s : State) (p : Nat) (f : Core → Core) : (s.updCore p f).benches = s.benches := rfl
@[simp] theorem State.updCore_acc (s : State) (p : Nat) (f : Core → Core) : (s.updCore p f).acc = s.acc := rfl
@[simp] theorem State.updCore_matq (s : State) (p : Nat) (f : Core → Core) : (s.updCore p f).matq = s.matq := rfl
@[simp] theorem State.updCore_engines (s : State) (p : Nat) (f : Core → Core) : (s.updCore p f).engines = s.engines := rfl
@[simp] theorem State.updCore_chanq (s : State) (p : Nat) (f : Core → Core) : (s.updCore p f).chanq = s.chanq := rfl
@[simp] theorem State.updCore_selq (s : State) (p : Nat) (f : Core → Core) : (s.updCore p f).selq = s.selq := rfl
@[simp] theorem State.updCore_epHeld (s : State) (p : Nat) (f : Core → Core) : (s.updCore p f).epHeld = s.epHeld := rfl
@[simp] theorem State.updCore_elems (s : State) (p : Nat) (f : Core → Core) : (s.updCore p f).elems = s.elems := rfl
@[simp] theorem State.updCore_tiles (s : State) (p : Nat) (f : Core → Core) : (s.updCore p f).tiles = s.tiles := rfl
@[simp] theorem State.updCore_ctxs (s : State) (p : Nat) (f : Core → Core) : (s.updCore p f).ctxs = s.ctxs := rfl
@[simp] theorem State.updCore_launches (s : State) (p : Nat) (f : Core → Core) : (s.updCore p f).launches = s.launches := rfl
@[simp] theorem State.updCore_lqs (s : State) (p : Nat) (f : Core → Core) : (s.updCore p f).lqs = s.lqs := rfl
@[simp] theorem State.updCore_lastQ (s : State) (p : Nat) (f : Core → Core) : (s.updCore p f).lastQ = s.lastQ := rfl
@[simp] theorem State.updCore_commitAt (s : State) (p : Nat) (f : Core → Core) : (s.updCore p f).commitAt = s.commitAt := rfl
@[simp] theorem State.updCore_turns (s : State) (p : Nat) (f : Core → Core) : (s.updCore p f).turns = s.turns := rfl
@[simp] theorem State.updCore_commits (s : State) (p : Nat) (f : Core → Core) : (s.updCore p f).commits = s.commits := rfl
@[simp] theorem State.updCore_msStore (s : State) (p : Nat) (f : Core → Core) : (s.updCore p f).msStore = s.msStore := rfl
@[simp] theorem State.updCore_eth (s : State) (p : Nat) (f : Core → Core) : (s.updCore p f).eth = s.eth := rfl
@[simp] theorem State.updCore_links (s : State) (p : Nat) (f : Core → Core) : (s.updCore p f).links = s.links := rfl
@[simp] theorem State.updCore_eseqTx (s : State) (p : Nat) (f : Core → Core) : (s.updCore p f).eseqTx = s.eseqTx := rfl
@[simp] theorem State.updCore_eseqRx (s : State) (p : Nat) (f : Core → Core) : (s.updCore p f).eseqRx = s.eseqRx := rfl
@[simp] theorem State.updCore_heldFlits (s : State) (p : Nat) (f : Core → Core) : (s.updCore p f).heldFlits = s.heldFlits := rfl
@[simp] theorem State.updCore_resent (s : State) (p : Nat) (f : Core → Core) : (s.updCore p f).resent = s.resent := rfl
@[simp] theorem State.updCore_reorder (s : State) (p : Nat) (f : Core → Core) : (s.updCore p f).reorder = s.reorder := rfl
@[simp] theorem State.updCore_tileIn (s : State) (p : Nat) (f : Core → Core) : (s.updCore p f).tileIn = s.tileIn := rfl
@[simp] theorem State.updCore_peers (s : State) (p : Nat) (f : Core → Core) : (s.updCore p f).peers = s.peers := rfl
@[simp] theorem State.updCore_peerOps (s : State) (p : Nat) (f : Core → Core) : (s.updCore p f).peerOps = s.peerOps := rfl
@[simp] theorem State.updCore_peerCalls (s : State) (p : Nat) (f : Core → Core) : (s.updCore p f).peerCalls = s.peerCalls := rfl
@[simp] theorem State.updCore_frozenNodes (s : State) (p : Nat) (f : Core → Core) : (s.updCore p f).frozenNodes = s.frozenNodes := rfl
@[simp] theorem State.updCore_refusals (s : State) (p : Nat) (f : Core → Core) : (s.updCore p f).refusals = s.refusals := rfl
@[simp] theorem State.updCore_hostReads (s : State) (p : Nat) (f : Core → Core) : (s.updCore p f).hostReads = s.hostReads := rfl
@[simp] theorem State.updCore_hostGot (s : State) (p : Nat) (f : Core → Core) : (s.updCore p f).hostGot = s.hostGot := rfl
@[simp] theorem State.updCore_msix (s : State) (p : Nat) (f : Core → Core) : (s.updCore p f).msix = s.msix := rfl
@[simp] theorem State.updCore_posts (s : State) (p : Nat) (f : Core → Core) : (s.updCore p f).posts = s.posts := rfl
@[simp] theorem State.updCore_anns (s : State) (p : Nat) (f : Core → Core) : (s.updCore p f).anns = s.anns := rfl
@[simp] theorem State.updCore_postNum (s : State) (p : Nat) (f : Core → Core) : (s.updCore p f).postNum = s.postNum := rfl
@[simp] theorem State.updCore_colls (s : State) (p : Nat) (f : Core → Core) : (s.updCore p f).colls = s.colls := rfl
@[simp] theorem State.updCore_chunkBufs (s : State) (p : Nat) (f : Core → Core) : (s.updCore p f).chunkBufs = s.chunkBufs := rfl
@[simp] theorem State.updCore_lastCid (s : State) (p : Nat) (f : Core → Core) : (s.updCore p f).lastCid = s.lastCid := rfl
@[simp] theorem State.updCore_truss (s : State) (p : Nat) (f : Core → Core) : (s.updCore p f).truss = s.truss := rfl
@[simp] theorem State.updCore_fabric (s : State) (p : Nat) (f : Core → Core) : (s.updCore p f).fabric = s.fabric := rfl
@[simp] theorem State.updCore_roles (s : State) (p : Nat) (f : Core → Core) : (s.updCore p f).roles = s.roles := rfl
@[simp] theorem State.updCore_dropped (s : State) (p : Nat) (f : Core → Core) : (s.updCore p f).dropped = s.dropped := rfl
@[simp] theorem State.updCore_temps (s : State) (p : Nat) (f : Core → Core) : (s.updCore p f).temps = s.temps := rfl
@[simp] theorem State.updCore_thermAt (s : State) (p : Nat) (f : Core → Core) : (s.updCore p f).thermAt = s.thermAt := rfl
@[simp] theorem State.updCore_pwrStep (s : State) (p : Nat) (f : Core → Core) : (s.updCore p f).pwrStep = s.pwrStep := rfl
@[simp] theorem State.updCore_watts (s : State) (p : Nat) (f : Core → Core) : (s.updCore p f).watts = s.watts := rfl
@[simp] theorem State.updCore_boot (s : State) (p : Nat) (f : Core → Core) : (s.updCore p f).boot = s.boot := rfl
@[simp] theorem State.updCore_board (s : State) (p : Nat) (f : Core → Core) : (s.updCore p f).board = s.board := rfl
@[simp] theorem State.updCore_agenda (s : State) (p : Nat) (f : Core → Core) : (s.updCore p f).agenda = s.agenda := rfl
@[simp] theorem State.updCore_blocked (s : State) (p : Nat) (f : Core → Core) : (s.updCore p f).blocked = s.blocked := rfl
@[simp] theorem State.updCore_timers (s : State) (p : Nat) (f : Core → Core) : (s.updCore p f).timers = s.timers := rfl
@[simp] theorem State.updCore_sched (s : State) (p : Nat) (f : Core → Core) : (s.updCore p f).sched = s.sched := rfl
@[simp] theorem State.updCore_clk (s : State) (p : Nat) (f : Core → Core) : (s.updCore p f).clk = s.clk := rfl
@[simp] theorem State.updCore_accs (s : State) (p : Nat) (f : Core → Core) : (s.updCore p f).accs = s.accs := rfl
@[simp] theorem State.updCore_fresh (s : State) (p : Nat) (f : Core → Core) : (s.updCore p f).fresh = s.fresh := rfl
@[simp] theorem State.updCore_cause (s : State) (p : Nat) (f : Core → Core) : (s.updCore p f).cause = s.cause := rfl
@[simp] theorem State.updCore_quiet (s : State) (p : Nat) (f : Core → Core) : (s.updCore p f).quiet = s.quiet := rfl
@[simp] theorem State.updCore_out (s : State) (p : Nat) (f : Core → Core) : (s.updCore p f).out = s.out := rfl

/-! ### A process's register write -/

@[simp] theorem Proc.setG_pid (p : Proc) (r : Reg) (x : Word) : (p.setG r x).pid = p.pid := by unfold Proc.setG; split <;> rfl
@[simp] theorem Proc.setG_ctx (p : Proc) (r : Reg) (x : Word) : (p.setG r x).ctx = p.ctx := by unfold Proc.setG; split <;> rfl
@[simp] theorem Proc.setG_unit (p : Proc) (r : Reg) (x : Word) : (p.setG r x).unit = p.unit := by unfold Proc.setG; split <;> rfl
@[simp] theorem Proc.setG_core (p : Proc) (r : Reg) (x : Word) : (p.setG r x).core = p.core := by unfold Proc.setG; split <;> rfl
@[simp] theorem Proc.setG_st (p : Proc) (r : Reg) (x : Word) : (p.setG r x).st = p.st := by unfold Proc.setG; split <;> rfl
@[simp] theorem Proc.setG_pc (p : Proc) (r : Reg) (x : Word) : (p.setG r x).pc = p.pc := by unfold Proc.setG; split <;> rfl
@[simp] theorem Proc.setG_pend (p : Proc) (r : Reg) (x : Word) : (p.setG r x).pend = p.pend := by unfold Proc.setG; split <;> rfl
@[simp] theorem Proc.setG_fsr (p : Proc) (r : Reg) (x : Word) : (p.setG r x).fsr = p.fsr := by unfold Proc.setG; split <;> rfl
@[simp] theorem Proc.setG_fcr (p : Proc) (r : Reg) (x : Word) : (p.setG r x).fcr = p.fcr := by unfold Proc.setG; split <;> rfl
@[simp] theorem Proc.setG_rs (p : Proc) (r : Reg) (x : Word) : (p.setG r x).rs = p.rs := by unfold Proc.setG; split <;> rfl
@[simp] theorem Proc.setG_cnt (p : Proc) (r : Reg) (x : Word) : (p.setG r x).cnt = p.cnt := by unfold Proc.setG; split <;> rfl
@[simp] theorem Proc.setG_seq (p : Proc) (r : Reg) (x : Word) : (p.setG r x).seq = p.seq := by unfold Proc.setG; split <;> rfl
@[simp] theorem Proc.setG_loops (p : Proc) (r : Reg) (x : Word) : (p.setG r x).loops = p.loops := by unfold Proc.setG; split <;> rfl
@[simp] theorem Proc.setG_waiting (p : Proc) (r : Reg) (x : Word) : (p.setG r x).waiting = p.waiting := by unfold Proc.setG; split <;> rfl
@[simp] theorem Proc.setG_chunk (p : Proc) (r : Reg) (x : Word) : (p.setG r x).chunk = p.chunk := by unfold Proc.setG; split <;> rfl
@[simp] theorem Proc.setG_tstat (p : Proc) (r : Reg) (x : Word) : (p.setG r x).tstat = p.tstat := by unfold Proc.setG; split <;> rfl

end Sys2Proof.Machine
end

