-- ==== Sys2Proof/Laws/Ops.lean ====
section
/-! SUPPORT. What each shared operation can do, said once: registers, the process table, raising a cause, chunk boundaries,
accesses checked, beats, owner writes. -/

namespace Sys2Proof.Machine

/-! ### General registers and device registers -/

@[simp] theorem State.g_zero (s : State) : s.g 0 = 0 := by unfold State.g; split <;> rfl

@[simp] theorem State.setG_zero (s : State) (x : Word) : s.setG 0 x = s := rfl

theorem Proc.rg_setG_self (p : Proc) {r : Reg} (x : Word) (h : r ≠ 0) : (p.setG r x).rg r = x := by
  unfold Proc.rg Proc.setG
  rw [if_neg h, if_neg h]
  exact Vector.getElem_set_self _

theorem Proc.rg_setG_ne (p : Proc) {r q : Reg} (x : Word) (h : q ≠ r) : (p.setG r x).rg q = p.rg q := by
  unfold Proc.rg Proc.setG
  split
  · rfl
  · split
    · rfl
    · simp only
      rw [Vector.getElem_set_ne]
      intro hq
      exact h (BitVec.eq_of_toNat_eq hq.symm)

theorem State.g_of_no_pre (s : State) (r : Reg) (h : s.pre = none) : s.g r = s.cur.rg r := by unfold State.g; rw [h]

theorem State.reg_setReg_ne (s : State) {a b : Nat} (x : Word) (h : b ≠ a) : (s.setReg a x).reg b = s.reg b := by
  unfold State.reg State.setReg
  induction s.regs with
  | nil =>
    simp only [SMap.put]
    split
    · rfl
    · simp [SMap.get, h]
  | cons e r ih =>
    simp only [SMap.put]
    split
    · split
      · rfl
      · simp [SMap.get, h]
    · split
      · rename_i h1 h2
        subst h2
        split <;> simp [SMap.get, h]
      · simp only [SMap.get]
        split
        · rfl
        · exact ih

/-! ### Processes -/

@[simp] theorem State.proc_cur (s : State) : s.proc s.cur.pid = s.cur := by simp [State.proc]

theorem State.setProc_cur (s : State) {p : Proc} (h : p.pid = s.cur.pid) : s.setProc p = { s with cur := p } := by
  simp [State.setProc, h]

/-- A process changed: the one that issues, or an entry of the table. -/
theorem State.updProc_cases (s : State) (pid : Nat) (f : Proc → Proc) :
    (pid = s.cur.pid ∧ s.updProc pid f = { s with cur := { f s.cur with pid := pid } }) ∨
    (pid ≠ s.cur.pid ∧ s.updProc pid f =
      { s with procs := SMap.put Proc.empty s.procs pid { f (s.proc pid) with pid := pid } }) := by
  by_cases h : pid = s.cur.pid
  · left; subst h; simp [State.updProc, State.setProc]
  · right; simp [State.updProc, State.setProc, h]

@[simp] theorem State.updProc_mem (s : State) (pid : Nat) (f : Proc → Proc) : (s.updProc pid f).mem = s.mem := by
  rcases s.updProc_cases pid f with ⟨_, h⟩ | ⟨_, h⟩ <;> rw [h]

@[simp] theorem State.updProc_agenda (s : State) (pid : Nat) (f : Proc → Proc) : (s.updProc pid f).agenda = s.agenda := by
  rcases s.updProc_cases pid f with ⟨_, h⟩ | ⟨_, h⟩ <;> rw [h]

@[simp] theorem State.updProc_clk (s : State) (pid : Nat) (f : Proc → Proc) : (s.updProc pid f).clk = s.clk := by
  rcases s.updProc_cases pid f with ⟨_, h⟩ | ⟨_, h⟩ <;> rw [h]

@[simp] theorem State.updProc_regs (s : State) (pid : Nat) (f : Proc → Proc) : (s.updProc pid f).regs = s.regs := by
  rcases s.updProc_cases pid f with ⟨_, h⟩ | ⟨_, h⟩ <;> rw [h]

@[simp] theorem State.updProc_side (s : State) (pid : Nat) (f : Proc → Proc) : (s.updProc pid f).side = s.side := by
  rcases s.updProc_cases pid f with ⟨_, h⟩ | ⟨_, h⟩ <;> rw [h]

/-- A record's state is written into the process and into byte 15 of its record. -/
theorem State.setState_mem (s : State) (pid : Nat) (st : RecState) :
    (s.setState pid st).mem = putByte s.mem (pid + 15) (BitVec.ofNat 8 st.code) := by
  simp [State.setState, State.setRecState]

/-! ### Chunk boundaries and handlers -/

theorem boundary_of_not_speculating {s : State} (k : Out) (h : s.speculating = false) : boundary s k = k := by
  simp [boundary, h]

theorem boundary_of_speculating {s : State} (k : Out) (h : s.speculating = true) : boundary s k = .next s.endChunk := by
  simp [boundary, h]

theorem notInHandler_of_not_rc {s : State} (k : Out) (h : s.cur.rc = false) : notInHandler s k = k := by
  simp [notInHandler, h]

theorem notInHandler_of_rc {s : State} (k : Out) (h : s.cur.rc = true) :
    notInHandler s k = .next (s.raiseAfter 0x0C2 0 [] none) := by
  simp [notInHandler, h]

/-! ### Raising a cause -/

/-- Everything that raising a cause can do: the end of a chunk, a local trap, a helper's fault, or a process's. -/
theorem State.raise_cases (s : State) (cause : Nat) (tval epc : Word) (words : List Word) (atIssue : Bool) (bundle : Word) :
    (s.speculating = true ∧ s.raise cause tval epc words atIssue bundle = s.endChunk) ∨
    (s.speculating = false ∧ isTrap cause = true ∧ s.cur.canTrap = true ∧
      s.raise cause tval epc words atIssue bundle = s.takeTrap cause tval epc) ∨
    (s.speculating = false ∧ (isTrap cause = false ∨ s.cur.canTrap = false) ∧ s.cur.isHelper = true ∧
      s.raise cause tval epc words atIssue bundle =
        { s.faultHelper (s.cur.pid - 2 ^ 64) { cause := cause, tval := tval, words := words } bundle with xfer := .gone }) ∨
    (s.speculating = false ∧ (isTrap cause = false ∨ s.cur.canTrap = false) ∧ s.cur.isHelper = false ∧
      s.raise cause tval epc words atIssue bundle =
        { s.faultProc s.cur.pid { cause := cause, tval := tval, words := words }
            { atIssue := atIssue, pc := bundle, req := none, redo := none, writes := [], cls := .none, sn := 0, entry := false,
              again := none } (isTrap cause) with xfer := .gone }) := by
  unfold State.raise
  cases h1 : s.speculating <;> cases h2 : isTrap cause <;> cases h3 : s.cur.canTrap <;> cases h4 : s.cur.isHelper <;> simp

theorem raiseO_eq (s : State) (cause : Nat) (tval : Word) :
    raiseO s cause tval = .next (s.raise cause tval s.cur.pc [] true s.cur.pc) := rfl

@[simp] theorem State.endChunk_mem (s : State) : s.endChunk.mem = s.mem := rfl
@[simp] theorem State.endChunk_agenda (s : State) : s.endChunk.agenda = s.agenda := rfl
@[simp] theorem State.takeTrap_mem (s : State) (c : Nat) (t e : Word) : (s.takeTrap c t e).mem = s.mem := rfl
@[simp] theorem State.takeTrap_agenda (s : State) (c : Nat) (t e : Word) : (s.takeTrap c t e).agenda = s.agenda := rfl

theorem State.stepReg_eq (s : State) (a lo n : Nat) :
    s.stepReg a lo n = s.setReg a (setField (s.reg a) lo n (field (s.reg a) lo n + 1)) := rfl

theorem State.bumpReg_eq (s : State) (a lo n : Nat) :
    s.bumpReg a lo n = s.setReg a (setField (s.reg a) lo n (satAdd (field (s.reg a) lo n) 1 (2 ^ n - 1))) := rfl

/-- A fault report is one step more to take. -/
theorem State.faultReport_agenda (s : State) (c : Byte) (f : FaultInfo) :
    ∃ ws, s.faultReport c f = s.push (.faultPost c ws) := ⟨_, rfl⟩

/-! ### A process's sequencer -/

/-- A sequencer that looks for work already is not asked again. -/
theorem State.kick_cases (s : State) (pid : Nat) : s.kick pid = s ∨ s.kick pid = s.push (.sequencerEntry pid) := by
  unfold State.kick; split
  · exact .inl rfl
  · exact .inr rfl

/-! ### Reads and writes at an owner -/

/-- Counting a corrected error changes no byte. -/
@[simp] theorem State.countCorrected_mem (s : State) (pa : Nat) : (s.countCorrected pa).mem = s.mem := by
  unfold State.countCorrected; split <;> rfl

/-- Counting a transient error changes no byte. -/
@[simp] theorem State.countTransient_mem (s : State) (pa : Nat) : (s.countTransient pa).mem = s.mem := by
  unfold State.countTransient; simp only; split <;> rfl

/-- The bad-page list is in registers. -/
@[simp] theorem State.addBadPage_mem (s : State) (pa : Nat) : (s.addBadPage pa).mem = s.mem := by
  unfold State.addBadPage; simp only; split <;> rfl

/-- Counting a lasting error changes no byte. -/
@[simp] theorem State.countFailed_mem (s : State) : s.countFailed.mem = s.mem := by
  unfold State.countFailed; simp only; split <;> rfl

/-- Marking a bench changes no byte. -/
@[simp] theorem State.markDark_mem (s : State) (i : Nat) : (s.markDark i).mem = s.mem := rfl

/-- A lasting error spoils a word without changing its bytes. -/
@[simp] theorem State.countLasting_mem (s : State) (pa : Nat) : (s.countLasting pa).mem = s.mem := by
  unfold State.countLasting; simp only
  split
  · rw [State.markDark_mem, State.countFailed_mem]; rfl
  · rw [State.addBadPage_mem, State.countFailed_mem]; rfl

/-- A unit without an error goes on unchanged. -/
theorem State.parityGuard_clean {s : State} {core unit : Nat} (h : s.unitErrors core unit = 0) :
    s.parityGuard core unit = (true, s) := by
  unfold State.parityGuard; rw [h]; rfl

/-- A unit with a lasting error does not go on. -/
theorem State.parityGuard_lasting {s : State} {core unit : Nat} (h : 2 ≤ s.unitErrors core unit) :
    (s.parityGuard core unit).1 = false := by
  obtain ⟨n, hn⟩ := Nat.exists_eq_add_of_le' h
  unfold State.parityGuard; rw [hn]; rfl

/-- A unit's guard changes no byte. -/
@[simp] theorem State.parityGuard_mem (s : State) (core unit : Nat) : (s.parityGuard core unit).2.mem = s.mem := by
  unfold State.parityGuard
  split
  · rfl
  · rfl
  · rw [State.markDark_mem, State.countFailed_mem]; rfl

/-- A read's guard changes no byte. -/
@[simp] theorem State.readGuard_mem (s : State) (pa : Nat) : (s.readGuard pa).2.mem = s.mem := by
  unfold State.readGuard
  split
  · rfl
  · split
    · rfl
    · rw [State.countCorrected_mem]; rfl
    · rw [State.countTransient_mem]; rfl
    · rw [State.countLasting_mem]; rfl

/-- Guarding a list of words changes no byte. -/
@[simp] theorem State.guardList_mem (s : State) (ps : List Nat) : (s.guardList ps).2.mem = s.mem := by
  induction ps generalizing s with
  | nil => rfl
  | cons p r ih =>
    simp only [State.guardList]
    split
    · rw [ih, State.readGuard_mem]
    · exact State.readGuard_mem s p

/-- Moving a table entry to the widening list changes no byte. -/
@[simp] theorem State.moveOldest_mem (s : State) (part : Nat) : (s.moveOldest part).mem = s.mem := by
  unfold State.moveOldest
  split
  · rfl
  · split <;> rfl

/-- The release table is no part of memory. -/
@[simp] theorem State.noteRelease_mem (s : State) (key scope core unit : Nat) :
    (s.noteRelease key scope core unit).mem = s.mem := by
  unfold State.noteRelease
  simp only
  split
  · exact State.moveOldest_mem _ _
  · rfl

/-- A full mask replaces the word. -/
theorem mergeNibbles_full (old x : Word) : mergeNibbles old x 0xFFFF = x := by
  have h : (BitVec.ofNat 64 (expandNibbles 0xFFFF 16) : Word) = BitVec.allOnes 64 := by decide
  simp only [mergeNibbles, h, BitVec.and_allOnes]
  simp

/-- A plain write at an owner: the word's nibbles, and no other byte of memory. -/
theorem State.plainWrite_mem (s : State) {w : Nat} {x : Word} {m scope core unit : Nat} {t : State}
    (h : s.plainWrite w x m scope core unit = .ok t) : t.mem = writeWord s.mem w (mergeNibbles (s.peek w) x m) := by
  have hp (u : State) (hu : u.mem = s.mem) : u.peek w = s.peek w := by simp [State.peek, hu]
  unfold State.plainWrite at h
  simp only at h
  split at h
  · split at h
    · cases h; simp [State.poke, hp _ (s.readGuard_mem w)]
    · cases h
  · split at h
    · rename_i hm
      subst hm
      rw [mergeNibbles_full]
      split at h
      · cases h; simp [State.poke, State.setPoison]
      · split at h
        · cases h
        · cases h; simp [State.poke, State.setErrors]
    · split at h
      · cases h
      · split at h
        · cases h
        · cases h; simp [State.poke, hp _ (s.readGuard_mem w)]

end Sys2Proof.Machine
end

