-- ==== Sys2Proof/Laws/PerInstr.lean ====
section
/-! SUPPORT. Decoding undoes encoding, instruction by instruction: the family `Roundtrip` with one lemma for each constructor. -/

namespace Sys2Proof.Laws

set_option Elab.async false

/-- Decoding the words of a well-formed instruction, by the map that it belongs to, gives it back. -/
def Roundtrip.Statement (i : Instr) : Prop :=
  wellFormed i = true →
    (isCWord i = true → decodeC ((encode i).getD 0 0).toNat ((encode i).getD 1 0).toNat = .ok i) ∧
    (isAWord i = true → decodeA ((encode i).getD 0 0).toNat = .ok i) ∧
    (isFabricWord i = true → decodeX ((encode i).getD 0 0).toNat = .ok i)

open Roundtrip

theorem illFormed_of {i : Instr} (h : wellFormed i = true) : illFormed i = none := by simpa [wellFormed] using h

theorem encode_head {i : Instr} {w : Nat} (he : encodeWord i = some w) (hw : w < 2 ^ 32) : ((encode i).getD 0 0).toNat = w := by
  rw [encode, he]; cases loneOf i <;> simp <;> omega

/-! ### The maps -/

/-- A C-word. -/
theorem ofC {i : Instr} {w : Nat} {l : Lone} (ha : isAWord i = false) (hx : isFabricWord i = false) (hl : loneOf i = l)
    (he : encodeWord i = some w) (hw : w < 2 ^ 32)
    (h : illFormed i = none → ∀ x : Nat, (∀ e, l = some e → BitVec.ofNat 32 x = e) → decodeC w x = .ok i) : Statement i := by
  intro hi
  refine ⟨fun _ => ?_, by simp [ha], by simp [hx]⟩
  rw [encode_head he hw]
  apply h (illFormed_of hi)
  intro e h'
  rw [encode, he, hl, h']; simp

/-- An A-word. -/
theorem ofA {i : Instr} {w : Nat} (hc : isCWord i = false) (hx : isFabricWord i = false) (_hl : loneOf i = none)
    (he : encodeWord i = some w) (hw : w < 2 ^ 32) (h : illFormed i = none → decodeA w = .ok i) : Statement i := by
  intro hi
  refine ⟨by simp [hc], fun _ => ?_, by simp [hx]⟩
  rw [encode_head he hw]
  exact h (illFormed_of hi)

/-- A fabric word. -/
theorem ofX {i : Instr} {w : Nat} (hc : isCWord i = false) (ha : isAWord i = false) (_hl : loneOf i = none)
    (he : encodeWord i = some w) (hw : w < 2 ^ 32) (h : illFormed i = none → decodeX w = .ok i) : Statement i := by
  intro hi
  refine ⟨by simp [hc], by simp [ha], fun _ => ?_⟩
  rw [encode_head he hw]
  exact h (illFormed_of hi)

/-- An operation or event, which has no word. -/
theorem event {i : Instr} (hc : isCWord i = false) (ha : isAWord i = false) (hx : isFabricWord i = false) : Statement i :=
  fun _ => ⟨by simp [hc], by simp [ha], by simp [hx]⟩

/-! ### Fields side by side -/

/-- Every value fits its width. -/
def Fits : List (Nat × Nat) → Prop
  | [] => True
  | (n, v) :: r => v < 2 ^ n ∧ Fits r

/-- The bit at which field `i` begins. -/
def offset : List (Nat × Nat) → Nat → Nat
  | (n, _) :: r, i + 1 => n + offset r i
  | _, _ => 0

def width (fs : List (Nat × Nat)) (i : Nat) : Nat := (fs.getD i (0, 0)).1
def value (fs : List (Nat × Nat)) (i : Nat) : Nat := (fs.getD i (0, 0)).2

theorem pack_field (fs : List (Nat × Nat)) (i : Nat) (h : Fits fs) :
    pack fs / 2 ^ offset fs i % 2 ^ width fs i = value fs i := by
  induction fs generalizing i with
  | nil => simp [pack, offset, width, value, Nat.mod_one]
  | cons e r ih =>
    obtain ⟨n, v⟩ := e
    cases i with
    | zero => simp [pack, offset, width, value, Nat.mod_eq_of_lt h.1]
    | succ k =>
      have := ih k h.2
      simp only [pack, offset, Nat.pow_add]
      rw [← Nat.div_div_eq_div_mul, Nat.add_mul_div_left _ _ (Nat.two_pow_pos n), Nat.div_eq_of_lt h.1, Nat.zero_add]
      simpa [width, value] using this

theorem pack_lt (fs : List (Nat × Nat)) (h : Fits fs) : pack fs < 2 ^ offset fs fs.length := by
  induction fs with
  | nil => simp [pack, offset]
  | cons e r ih =>
    obtain ⟨n, v⟩ := e
    have h1 := h.1
    have h2 := ih h.2
    simp only [pack, List.length_cons, offset, Nat.pow_add]
    calc v + 2 ^ n * pack r < 2 ^ n + 2 ^ n * pack r := by omega
      _ = 2 ^ n * (pack r + 1) := by rw [Nat.mul_add]; omega
      _ ≤ 2 ^ n * 2 ^ offset r r.length := Nat.mul_le_mul_left _ h2

/-- A field of a word that is packed from its fields. -/
theorem field_of {w : Nat} {fs : List (Nat × Nat)} (hw : w = pack fs) (h : Fits fs) (i : Nat) :
    w / 2 ^ offset fs i % 2 ^ width fs i = value fs i := hw ▸ pack_field fs i h

theorem lt_of {w : Nat} {fs : List (Nat × Nat)} (hw : w = pack fs) (h : Fits fs) : w < 2 ^ offset fs fs.length :=
  hw ▸ pack_lt fs h

theorem loneBit_lt (l : Lone) : loneBit l < 2 ^ 1 := by cases l <;> simp [loneBit]

theorem fld_of {w lo len : Nat} {x : BitVec len} (h : w / 2 ^ lo % 2 ^ len = x.toNat) : fld w lo len = x :=
  BitVec.eq_of_toNat_eq (by simpa [fld] using h)

theorem ne_zero {w lo len k : Nat} (h : bitsOf w lo len = k) (hk : k ≠ 0) : w ≠ 0 := by
  rintro rfl; simp [bitsOf] at h; exact hk h.symm

/-- L of the word and the extension give the lone form back. -/
theorem lone_of {w x : Nat} {l : Lone} (hw : bitsOf w 31 1 = loneBit l)
    (hx : ∀ e, l = some e → BitVec.ofNat 32 x = e) : (if bitsOf w 31 1 = 1 then some (BitVec.ofNat 32 x) else none) = l := by
  cases l with
  | none => rw [hw]; rfl
  | some e => rw [hw, hx e rfl]; rfl

theorem typed_code (t : LaneTy) (k : LaneTy → Except DecodeErr Instr) : typed t.code k = k t := by cases t <;> rfl

theorem ofCode_code (o : MemOrder) : MemOrder.ofCode o.code = o := by cases o <;> rfl

theorem zeros_nil (r : Except DecodeErr Instr) : zeros [] r = r := rfl

theorem zeros_cons (fs : List Nat) (r : Except DecodeErr Instr) : zeros (0 :: fs) r = zeros fs r := by simp [zeros]


theorem decodeA01_of {w : Nat} (h : bitsOf w 26 6 = 1) : decodeA w = decodeA01 w := by
  simp only [decodeA, h, if_neg (ne_zero h (by decide))]

theorem decodeA02_of {w : Nat} (h : bitsOf w 26 6 = 2) : decodeA w = decodeA02 w := by
  simp only [decodeA, h, if_neg (ne_zero h (by decide))]

theorem decodeA03_of {w : Nat} (h : bitsOf w 26 6 = 3) : decodeA w = decodeA03 w := by
  simp only [decodeA, h, if_neg (ne_zero h (by decide))]

theorem decodeA04_of {w : Nat} (h : bitsOf w 26 6 = 4) : decodeA w = decodeA04 w := by
  simp only [decodeA, h, if_neg (ne_zero h (by decide))]

theorem decodeA05_of {w : Nat} (h : bitsOf w 26 6 = 5) : decodeA w = decodeA05 w := by
  simp only [decodeA, h, if_neg (ne_zero h (by decide))]

theorem decodeA06_of {w : Nat} (h : bitsOf w 26 6 = 6) : decodeA w = decodeA06 w := by
  simp only [decodeA, h, if_neg (ne_zero h (by decide))]

theorem decodeA07_of {w : Nat} (h : bitsOf w 26 6 = 7) : decodeA w = decodeA07 w := by
  simp only [decodeA, h, if_neg (ne_zero h (by decide))]

theorem decodeA08_of {w : Nat} (h : bitsOf w 26 6 = 8) : decodeA w = decodeA08 w := by
  simp only [decodeA, h, if_neg (ne_zero h (by decide))]

theorem decodeA09_of {w : Nat} (h : bitsOf w 26 6 = 9) : decodeA w = decodeA09 w := by
  simp only [decodeA, h, if_neg (ne_zero h (by decide))]

theorem decodeA0A_of {w : Nat} (h : bitsOf w 26 6 = 10) : decodeA w = decodeA0A w := by
  simp only [decodeA, h, if_neg (ne_zero h (by decide))]

theorem decodeA0B_of {w : Nat} (h : bitsOf w 26 6 = 11) : decodeA w = decodeA0B w := by
  simp only [decodeA, h, if_neg (ne_zero h (by decide))]

theorem decodeA0C_of {w : Nat} (h : bitsOf w 26 6 = 12) : decodeA w = decodeA0C w := by
  simp only [decodeA, h, if_neg (ne_zero h (by decide))]

theorem decodeA0D_of {w : Nat} (h : bitsOf w 26 6 = 13) : decodeA w = decodeA0D w := by
  simp only [decodeA, h, if_neg (ne_zero h (by decide))]

theorem decodeA10_of {w : Nat} (h : bitsOf w 26 6 = 16) : decodeA w = decodeA10 w := by
  simp only [decodeA, h, if_neg (ne_zero h (by decide))]

theorem decodeA11_of {w : Nat} (h : bitsOf w 26 6 = 17) : decodeA w = decodeA11 w := by
  simp only [decodeA, h, if_neg (ne_zero h (by decide))]

theorem decodeA12_of {w : Nat} (h : bitsOf w 26 6 = 18) : decodeA w = decodeA12 w := by
  simp only [decodeA, h, if_neg (ne_zero h (by decide))]

theorem decodeA13_of {w : Nat} (h : bitsOf w 26 6 = 19) : decodeA w = decodeA13 w := by
  simp only [decodeA, h, if_neg (ne_zero h (by decide))]

theorem decodeA14_of {w : Nat} (h : bitsOf w 26 6 = 20) : decodeA w = decodeA14 w := by
  simp only [decodeA, h, if_neg (ne_zero h (by decide))]

theorem decodeA15_of {w : Nat} (h : bitsOf w 26 6 = 21) : decodeA w = decodeA15 w := by
  simp only [decodeA, h, if_neg (ne_zero h (by decide))]

theorem decodeA16_of {w : Nat} (h : bitsOf w 26 6 = 22) : decodeA w = decodeA16 w := by
  simp only [decodeA, h, if_neg (ne_zero h (by decide))]

theorem decodeA17_of {w : Nat} (h : bitsOf w 26 6 = 23) : decodeA w = decodeA17 w := by
  simp only [decodeA, h, if_neg (ne_zero h (by decide))]

theorem decodeA18_of {w : Nat} (h : bitsOf w 26 6 = 24) : decodeA w = decodeA18 w := by
  simp only [decodeA, h, if_neg (ne_zero h (by decide))]

theorem decodeA19_of {w : Nat} (h : bitsOf w 26 6 = 25) : decodeA w = decodeA19 w := by
  simp only [decodeA, h, if_neg (ne_zero h (by decide))]

theorem decodeC01_of {w x : Nat} {l : Lone} (h : bitsOf w 25 6 = 1)
    (hl : (if bitsOf w 31 1 = 1 then some (BitVec.ofNat 32 x) else none) = l) : decodeC w x = decodeC01 w l := by
  simp only [decodeC, h, hl, if_neg (ne_zero h (by decide))]

theorem decodeC02_of {w x : Nat} {l : Lone} (h : bitsOf w 25 6 = 2)
    (hl : (if bitsOf w 31 1 = 1 then some (BitVec.ofNat 32 x) else none) = l) : decodeC w x = decodeC02 w l := by
  simp only [decodeC, h, hl, if_neg (ne_zero h (by decide))]

theorem decodeC03_of {w x : Nat} {l : Lone} (h : bitsOf w 25 6 = 3)
    (hl : (if bitsOf w 31 1 = 1 then some (BitVec.ofNat 32 x) else none) = l) : decodeC w x = decodeC03 w l := by
  simp only [decodeC, h, hl, if_neg (ne_zero h (by decide))]

theorem decodeC04_of {w x : Nat} {l : Lone} (h : bitsOf w 25 6 = 4)
    (hl : (if bitsOf w 31 1 = 1 then some (BitVec.ofNat 32 x) else none) = l) : decodeC w x = decodeC04 w l := by
  simp only [decodeC, h, hl, if_neg (ne_zero h (by decide))]

theorem decodeC05_of {w x : Nat} {l : Lone} (h : bitsOf w 25 6 = 5)
    (hl : (if bitsOf w 31 1 = 1 then some (BitVec.ofNat 32 x) else none) = l) : decodeC w x = decodeC05 w l := by
  simp only [decodeC, h, hl, if_neg (ne_zero h (by decide))]

theorem decodeC06_of {w x : Nat} {l : Lone} (h : bitsOf w 25 6 = 6)
    (hl : (if bitsOf w 31 1 = 1 then some (BitVec.ofNat 32 x) else none) = l) : decodeC w x = decodeC06 w l := by
  simp only [decodeC, h, hl, if_neg (ne_zero h (by decide))]

theorem decodeC07_of {w x : Nat} {l : Lone} (h : bitsOf w 25 6 = 7)
    (hl : (if bitsOf w 31 1 = 1 then some (BitVec.ofNat 32 x) else none) = l) : decodeC w x = decodeC07 w l := by
  simp only [decodeC, h, hl, if_neg (ne_zero h (by decide))]

theorem decodeC08_of {w x : Nat} {l : Lone} (h : bitsOf w 25 6 = 8)
    (hl : (if bitsOf w 31 1 = 1 then some (BitVec.ofNat 32 x) else none) = l) : decodeC w x = decodeC08 w l := by
  simp only [decodeC, h, hl, if_neg (ne_zero h (by decide))]

theorem decodeC09_of {w x : Nat} {l : Lone} (h : bitsOf w 25 6 = 9)
    (hl : (if bitsOf w 31 1 = 1 then some (BitVec.ofNat 32 x) else none) = l) : decodeC w x = decodeC09 w l := by
  simp only [decodeC, h, hl, if_neg (ne_zero h (by decide))]

theorem decodeC0A_of {w x : Nat} {l : Lone} (h : bitsOf w 25 6 = 10)
    (hl : (if bitsOf w 31 1 = 1 then some (BitVec.ofNat 32 x) else none) = l) : decodeC w x = decodeC0A w l := by
  simp only [decodeC, h, hl, if_neg (ne_zero h (by decide))]

theorem decodeC0B_of {w x : Nat} {l : Lone} (h : bitsOf w 25 6 = 11)
    (hl : (if bitsOf w 31 1 = 1 then some (BitVec.ofNat 32 x) else none) = l) : decodeC w x = decodeC0B w l := by
  simp only [decodeC, h, hl, if_neg (ne_zero h (by decide))]

theorem decodeC0C_of {w x : Nat} {l : Lone} (h : bitsOf w 25 6 = 12)
    (hl : (if bitsOf w 31 1 = 1 then some (BitVec.ofNat 32 x) else none) = l) : decodeC w x = decodeC0C w l := by
  simp only [decodeC, h, hl, if_neg (ne_zero h (by decide))]

theorem decodeC0D_of {w x : Nat} {l : Lone} (h : bitsOf w 25 6 = 13)
    (hl : (if bitsOf w 31 1 = 1 then some (BitVec.ofNat 32 x) else none) = l) : decodeC w x = decodeC0D w l := by
  simp only [decodeC, h, hl, if_neg (ne_zero h (by decide))]

theorem decodeC0E_of {w x : Nat} {l : Lone} (h : bitsOf w 25 6 = 14)
    (hl : (if bitsOf w 31 1 = 1 then some (BitVec.ofNat 32 x) else none) = l) : decodeC w x = decodeC0E w l := by
  simp only [decodeC, h, hl, if_neg (ne_zero h (by decide))]

theorem decodeC0F_of {w x : Nat} {l : Lone} (h : bitsOf w 25 6 = 15)
    (hl : (if bitsOf w 31 1 = 1 then some (BitVec.ofNat 32 x) else none) = l) : decodeC w x = decodeC0F w l := by
  simp only [decodeC, h, hl, if_neg (ne_zero h (by decide))]

theorem decodeC10_of {w x : Nat} {l : Lone} (h : bitsOf w 25 6 = 16)
    (hl : (if bitsOf w 31 1 = 1 then some (BitVec.ofNat 32 x) else none) = l) : decodeC w x = decodeC10 w l := by
  simp only [decodeC, h, hl, if_neg (ne_zero h (by decide))]

theorem decodeC11_of {w x : Nat} {l : Lone} (h : bitsOf w 25 6 = 17)
    (hl : (if bitsOf w 31 1 = 1 then some (BitVec.ofNat 32 x) else none) = l) : decodeC w x = decodeC11 w l := by
  simp only [decodeC, h, hl, if_neg (ne_zero h (by decide))]

theorem decodeC12_of {w x : Nat} {l : Lone} (h : bitsOf w 25 6 = 18)
    (hl : (if bitsOf w 31 1 = 1 then some (BitVec.ofNat 32 x) else none) = l) : decodeC w x = decodeC12 w l := by
  simp only [decodeC, h, hl, if_neg (ne_zero h (by decide))]

theorem decodeC13_of {w x : Nat} {l : Lone} (h : bitsOf w 25 6 = 19)
    (hl : (if bitsOf w 31 1 = 1 then some (BitVec.ofNat 32 x) else none) = l) : decodeC w x = decodeC13 w l := by
  simp only [decodeC, h, hl, if_neg (ne_zero h (by decide))]

theorem decodeC14_of {w x : Nat} {l : Lone} (h : bitsOf w 25 6 = 20)
    (hl : (if bitsOf w 31 1 = 1 then some (BitVec.ofNat 32 x) else none) = l) : decodeC w x = decodeC14 w l := by
  simp only [decodeC, h, hl, if_neg (ne_zero h (by decide))]

theorem decodeC15_of {w x : Nat} {l : Lone} (h : bitsOf w 25 6 = 21)
    (hl : (if bitsOf w 31 1 = 1 then some (BitVec.ofNat 32 x) else none) = l) : decodeC w x = decodeC15 w l := by
  simp only [decodeC, h, hl, if_neg (ne_zero h (by decide))]

theorem decodeC16_of {w x : Nat} {l : Lone} (h : bitsOf w 25 6 = 22)
    (hl : (if bitsOf w 31 1 = 1 then some (BitVec.ofNat 32 x) else none) = l) : decodeC w x = decodeC16 w l := by
  simp only [decodeC, h, hl, if_neg (ne_zero h (by decide))]

theorem decodeC17_of {w x : Nat} {l : Lone} (h : bitsOf w 25 6 = 23)
    (hl : (if bitsOf w 31 1 = 1 then some (BitVec.ofNat 32 x) else none) = l) : decodeC w x = decodeC17 w l := by
  simp only [decodeC, h, hl, if_neg (ne_zero h (by decide))]

theorem decodeC18_of {w x : Nat} {l : Lone} (h : bitsOf w 25 6 = 24)
    (hl : (if bitsOf w 31 1 = 1 then some (BitVec.ofNat 32 x) else none) = l) : decodeC w x = decodeC18 w l := by
  simp only [decodeC, h, hl, if_neg (ne_zero h (by decide))]

theorem decodeC19_of {w x : Nat} {l : Lone} (h : bitsOf w 25 6 = 25)
    (hl : (if bitsOf w 31 1 = 1 then some (BitVec.ofNat 32 x) else none) = l) : decodeC w x = decodeC19 w l := by
  simp only [decodeC, h, hl, if_neg (ne_zero h (by decide))]

theorem decodeC1A_of {w x : Nat} {l : Lone} (h : bitsOf w 25 6 = 26)
    (hl : (if bitsOf w 31 1 = 1 then some (BitVec.ofNat 32 x) else none) = l) : decodeC w x = decodeC1A w l := by
  simp only [decodeC, h, hl, if_neg (ne_zero h (by decide))]

theorem decodeC1B_of {w x : Nat} {l : Lone} (h : bitsOf w 25 6 = 27)
    (hl : (if bitsOf w 31 1 = 1 then some (BitVec.ofNat 32 x) else none) = l) : decodeC w x = decodeC1B w l := by
  simp only [decodeC, h, hl, if_neg (ne_zero h (by decide))]

theorem decodeC1C_of {w x : Nat} {l : Lone} (h : bitsOf w 25 6 = 28)
    (hl : (if bitsOf w 31 1 = 1 then some (BitVec.ofNat 32 x) else none) = l) : decodeC w x = decodeC1C w l := by
  simp only [decodeC, h, hl, if_neg (ne_zero h (by decide))]

theorem decodeC1D_of {w x : Nat} {l : Lone} (h : bitsOf w 25 6 = 29)
    (hl : (if bitsOf w 31 1 = 1 then some (BitVec.ofNat 32 x) else none) = l) : decodeC w x = decodeC1D w l := by
  simp only [decodeC, h, hl, if_neg (ne_zero h (by decide))]

theorem decodeC1E_of {w x : Nat} {l : Lone} (h : bitsOf w 25 6 = 30)
    (hl : (if bitsOf w 31 1 = 1 then some (BitVec.ofNat 32 x) else none) = l) : decodeC w x = decodeC1E w l := by
  simp only [decodeC, h, hl, if_neg (ne_zero h (by decide))]

theorem decodeC1F_of {w x : Nat} {l : Lone} (h : bitsOf w 25 6 = 31)
    (hl : (if bitsOf w 31 1 = 1 then some (BitVec.ofNat 32 x) else none) = l) : decodeC w x = decodeC1F w l := by
  simp only [decodeC, h, hl, if_neg (ne_zero h (by decide))]

theorem decodeC20_of {w x : Nat} {l : Lone} (h : bitsOf w 25 6 = 32)
    (hl : (if bitsOf w 31 1 = 1 then some (BitVec.ofNat 32 x) else none) = l) : decodeC w x = decodeC20 w l := by
  simp only [decodeC, h, hl, if_neg (ne_zero h (by decide))]

theorem decodeC21_of {w x : Nat} {l : Lone} (h : bitsOf w 25 6 = 33)
    (hl : (if bitsOf w 31 1 = 1 then some (BitVec.ofNat 32 x) else none) = l) : decodeC w x = decodeC21 w l := by
  simp only [decodeC, h, hl, if_neg (ne_zero h (by decide))]

theorem decodeC22_of {w x : Nat} {l : Lone} (h : bitsOf w 25 6 = 34)
    (hl : (if bitsOf w 31 1 = 1 then some (BitVec.ofNat 32 x) else none) = l) : decodeC w x = decodeC22 w l := by
  simp only [decodeC, h, hl, if_neg (ne_zero h (by decide))]

theorem decodeC23_of {w x : Nat} {l : Lone} (h : bitsOf w 25 6 = 35)
    (hl : (if bitsOf w 31 1 = 1 then some (BitVec.ofNat 32 x) else none) = l) : decodeC w x = decodeC23 w l := by
  simp only [decodeC, h, hl, if_neg (ne_zero h (by decide))]

theorem decodeC24_of {w x : Nat} {l : Lone} (h : bitsOf w 25 6 = 36)
    (hl : (if bitsOf w 31 1 = 1 then some (BitVec.ofNat 32 x) else none) = l) : decodeC w x = decodeC24 w l := by
  simp only [decodeC, h, hl, if_neg (ne_zero h (by decide))]

theorem decodeC25_of {w x : Nat} {l : Lone} (h : bitsOf w 25 6 = 37)
    (hl : (if bitsOf w 31 1 = 1 then some (BitVec.ofNat 32 x) else none) = l) : decodeC w x = decodeC25 w l := by
  simp only [decodeC, h, hl, if_neg (ne_zero h (by decide))]

theorem decodeC26_of {w x : Nat} {l : Lone} (h : bitsOf w 25 6 = 38)
    (hl : (if bitsOf w 31 1 = 1 then some (BitVec.ofNat 32 x) else none) = l) : decodeC w x = decodeC26 w l := by
  simp only [decodeC, h, hl, if_neg (ne_zero h (by decide))]

theorem decodeC27_of {w x : Nat} {l : Lone} (h : bitsOf w 25 6 = 39)
    (hl : (if bitsOf w 31 1 = 1 then some (BitVec.ofNat 32 x) else none) = l) : decodeC w x = decodeC27 w l := by
  simp only [decodeC, h, hl, if_neg (ne_zero h (by decide))]

theorem decodeC28_of {w x : Nat} {l : Lone} (h : bitsOf w 25 6 = 40)
    (hl : (if bitsOf w 31 1 = 1 then some (BitVec.ofNat 32 x) else none) = l) : decodeC w x = decodeC28 w l := by
  simp only [decodeC, h, hl, if_neg (ne_zero h (by decide))]

theorem decodeC29_of {w x : Nat} {l : Lone} (h : bitsOf w 25 6 = 41)
    (hl : (if bitsOf w 31 1 = 1 then some (BitVec.ofNat 32 x) else none) = l) : decodeC w x = decodeC29 w l := by
  simp only [decodeC, h, hl, if_neg (ne_zero h (by decide))]

theorem decodeC2A_of {w x : Nat} {l : Lone} (h : bitsOf w 25 6 = 42)
    (hl : (if bitsOf w 31 1 = 1 then some (BitVec.ofNat 32 x) else none) = l) : decodeC w x = decodeC2A w l := by
  simp only [decodeC, h, hl, if_neg (ne_zero h (by decide))]

theorem decodeC2B_of {w x : Nat} {l : Lone} (h : bitsOf w 25 6 = 43)
    (hl : (if bitsOf w 31 1 = 1 then some (BitVec.ofNat 32 x) else none) = l) : decodeC w x = decodeC2B w l := by
  simp only [decodeC, h, hl, if_neg (ne_zero h (by decide))]

theorem decodeC2C_of {w x : Nat} {l : Lone} (h : bitsOf w 25 6 = 44)
    (hl : (if bitsOf w 31 1 = 1 then some (BitVec.ofNat 32 x) else none) = l) : decodeC w x = decodeC2C w l := by
  simp only [decodeC, h, hl, if_neg (ne_zero h (by decide))]

theorem decodeX00_of {w : Nat} (h : bitsOf w 26 6 = 0) : decodeX w = decodeX00 w := by
  simp only [decodeX, h]

theorem decodeX01_of {w : Nat} (h : bitsOf w 26 6 = 1) : decodeX w = decodeX01 w := by
  simp only [decodeX, h]

theorem decodeX02_of {w : Nat} (h : bitsOf w 26 6 = 2) : decodeX w = decodeX02 w := by
  simp only [decodeX, h]

theorem decodeX03_of {w : Nat} (h : bitsOf w 26 6 = 3) : decodeX w = decodeX03 w := by
  simp only [decodeX, h]

theorem decodeX04_of {w : Nat} (h : bitsOf w 26 6 = 4) : decodeX w = decodeX04 w := by
  simp only [decodeX, h]

theorem decodeX05_of {w : Nat} (h : bitsOf w 26 6 = 5) : decodeX w = decodeX05 w := by
  simp only [decodeX, h]

theorem decodeX06_of {w : Nat} (h : bitsOf w 26 6 = 6) : decodeX w = decodeX06 w := by
  simp only [decodeX, h]

theorem decodeX07_of {w : Nat} (h : bitsOf w 26 6 = 7) : decodeX w = decodeX07 w := by
  simp only [decodeX, h]

theorem decodeX08_of {w : Nat} (h : bitsOf w 26 6 = 8) : decodeX w = decodeX08 w := by
  simp only [decodeX, h]

theorem decodeX09_of {w : Nat} (h : bitsOf w 26 6 = 9) : decodeX w = decodeX09 w := by
  simp only [decodeX, h]

theorem Roundtrip.cnop (l : Lone) : Statement (.cnop l) := by
  have fits : Fits [(22, 0), (3, 0), (6, 0x01), (1, loneBit l)] := ⟨by decide, by decide, by decide, loneBit_lt l, trivial⟩
  obtain ⟨w, hw⟩ : ∃ w, w = pack [(22, 0), (3, 0), (6, 0x01), (1, loneBit l)] := ⟨_, rfl⟩
  have word : encodeWord (.cnop l) = some w := by rw [hw]; rfl
  have small : w < 2 ^ 32 := lt_of hw fits
  have major : bitsOf w 25 6 = 1 := field_of hw fits 2
  have lone : bitsOf w 31 1 = loneBit l := field_of hw fits 3
  have bits0 : bitsOf w 0 22 = 0 := field_of hw fits 0
  have bits22 : bitsOf w 22 3 = 0 := field_of hw fits 1
  refine ofC rfl rfl rfl word small fun wf x ext => ?_
  rw [decodeC01_of major (lone_of lone ext)]
  simp only [decodeC01, bits0, bits22, zeros_nil, zeros_cons, checked, wf]

theorem Roundtrip.halt (l : Lone) : Statement (.halt l) := by
  have fits : Fits [(22, 0), (3, 1), (6, 0x01), (1, loneBit l)] := ⟨by decide, by decide, by decide, loneBit_lt l, trivial⟩
  obtain ⟨w, hw⟩ : ∃ w, w = pack [(22, 0), (3, 1), (6, 0x01), (1, loneBit l)] := ⟨_, rfl⟩
  have word : encodeWord (.halt l) = some w := by rw [hw]; rfl
  have small : w < 2 ^ 32 := lt_of hw fits
  have major : bitsOf w 25 6 = 1 := field_of hw fits 2
  have lone : bitsOf w 31 1 = loneBit l := field_of hw fits 3
  have bits0 : bitsOf w 0 22 = 0 := field_of hw fits 0
  have bits22 : bitsOf w 22 3 = 1 := field_of hw fits 1
  refine ofC rfl rfl rfl word small fun wf x ext => ?_
  rw [decodeC01_of major (lone_of lone ext)]
  simp only [decodeC01, bits0, bits22, zeros_nil, zeros_cons, checked, wf]

theorem Roundtrip.brk (l : Lone) (c : BitVec 22) : Statement (.brk l c) := by
  have fits : Fits [(22, c.toNat), (3, 2), (6, 0x01), (1, loneBit l)] := ⟨c.isLt, by decide, by decide, loneBit_lt l, trivial⟩
  obtain ⟨w, hw⟩ : ∃ w, w = pack [(22, c.toNat), (3, 2), (6, 0x01), (1, loneBit l)] := ⟨_, rfl⟩
  have word : encodeWord (.brk l c) = some w := by rw [hw]; rfl
  have small : w < 2 ^ 32 := lt_of hw fits
  have major : bitsOf w 25 6 = 1 := field_of hw fits 2
  have lone : bitsOf w 31 1 = loneBit l := field_of hw fits 3
  have bits22 : bitsOf w 22 3 = 2 := field_of hw fits 1
  have field0 : fld w 0 22 = c := fld_of (field_of hw fits 0)
  refine ofC rfl rfl rfl word small fun wf x ext => ?_
  rw [decodeC01_of major (lone_of lone ext)]
  simp only [decodeC01, bits22, field0, checked, wf]

theorem Roundtrip.br (l : Lone) (o : BitVec 25) : Statement (.br l o) := by
  have fits : Fits [(25, o.toNat), (6, 0x02), (1, loneBit l)] := ⟨o.isLt, by decide, loneBit_lt l, trivial⟩
  obtain ⟨w, hw⟩ : ∃ w, w = pack [(25, o.toNat), (6, 0x02), (1, loneBit l)] := ⟨_, rfl⟩
  have word : encodeWord (.br l o) = some w := by rw [hw]; rfl
  have small : w < 2 ^ 32 := lt_of hw fits
  have major : bitsOf w 25 6 = 2 := field_of hw fits 1
  have lone : bitsOf w 31 1 = loneBit l := field_of hw fits 2
  have field0 : fld w 0 25 = o := fld_of (field_of hw fits 0)
  refine ofC rfl rfl rfl word small fun wf x ext => ?_
  rw [decodeC02_of major (lone_of lone ext)]
  simp only [decodeC02, field0, checked, wf]

theorem Roundtrip.jal (l : Lone) (o : BitVec 25) : Statement (.jal l o) := by
  have fits : Fits [(25, o.toNat), (6, 0x03), (1, loneBit l)] := ⟨o.isLt, by decide, loneBit_lt l, trivial⟩
  obtain ⟨w, hw⟩ : ∃ w, w = pack [(25, o.toNat), (6, 0x03), (1, loneBit l)] := ⟨_, rfl⟩
  have word : encodeWord (.jal l o) = some w := by rw [hw]; rfl
  have small : w < 2 ^ 32 := lt_of hw fits
  have major : bitsOf w 25 6 = 3 := field_of hw fits 1
  have lone : bitsOf w 31 1 = loneBit l := field_of hw fits 2
  have field0 : fld w 0 25 = o := fld_of (field_of hw fits 0)
  refine ofC rfl rfl rfl word small fun wf x ext => ?_
  rw [decodeC03_of major (lone_of lone ext)]
  simp only [decodeC03, field0, checked, wf]

theorem Roundtrip.jr (l : Lone) (a : Reg) : Statement (.jr l a) := by
  have fits : Fits [(10, 0), (5, 0), (5, a.toNat), (5, 0), (6, 0x04), (1, loneBit l)] := ⟨by decide, by decide, a.isLt, by decide, by decide, loneBit_lt l, trivial⟩
  obtain ⟨w, hw⟩ : ∃ w, w = pack [(10, 0), (5, 0), (5, a.toNat), (5, 0), (6, 0x04), (1, loneBit l)] := ⟨_, rfl⟩
  have word : encodeWord (.jr l a) = some w := by rw [hw]; rfl
  have small : w < 2 ^ 32 := lt_of hw fits
  have major : bitsOf w 25 6 = 4 := field_of hw fits 4
  have lone : bitsOf w 31 1 = loneBit l := field_of hw fits 5
  have bits0 : bitsOf w 0 10 = 0 := field_of hw fits 0
  have bits10 : bitsOf w 10 5 = 0 := field_of hw fits 1
  have bits20 : bitsOf w 20 5 = 0 := field_of hw fits 3
  have field15 : fld w 15 5 = a := fld_of (field_of hw fits 2)
  refine ofC rfl rfl rfl word small fun wf x ext => ?_
  rw [decodeC04_of major (lone_of lone ext)]
  simp only [decodeC04, bits0, bits10, bits20, field15, zeros_nil, zeros_cons, checked, wf]

theorem Roundtrip.jalr (l : Lone) (d : Reg) (a : Reg) : Statement (.jalr l d a) := by
  have fits : Fits [(10, 1), (5, 0), (5, a.toNat), (5, d.toNat), (6, 0x04), (1, loneBit l)] := ⟨by decide, by decide, a.isLt, d.isLt, by decide, loneBit_lt l, trivial⟩
  obtain ⟨w, hw⟩ : ∃ w, w = pack [(10, 1), (5, 0), (5, a.toNat), (5, d.toNat), (6, 0x04), (1, loneBit l)] := ⟨_, rfl⟩
  have word : encodeWord (.jalr l d a) = some w := by rw [hw]; rfl
  have small : w < 2 ^ 32 := lt_of hw fits
  have major : bitsOf w 25 6 = 4 := field_of hw fits 4
  have lone : bitsOf w 31 1 = loneBit l := field_of hw fits 5
  have bits0 : bitsOf w 0 10 = 1 := field_of hw fits 0
  have bits10 : bitsOf w 10 5 = 0 := field_of hw fits 1
  have field15 : fld w 15 5 = a := fld_of (field_of hw fits 2)
  have field20 : fld w 20 5 = d := fld_of (field_of hw fits 3)
  refine ofC rfl rfl rfl word small fun wf x ext => ?_
  rw [decodeC04_of major (lone_of lone ext)]
  simp only [decodeC04, bits0, bits10, field15, field20, zeros_nil, zeros_cons, checked, wf]

theorem Roundtrip.beq (l : Lone) (a : Reg) (b : Reg) (o : BitVec 15) : Statement (.beq l a b o) := by
  have fits : Fits [(15, o.toNat), (5, b.toNat), (5, a.toNat), (6, 0x05), (1, loneBit l)] := ⟨o.isLt, b.isLt, a.isLt, by decide, loneBit_lt l, trivial⟩
  obtain ⟨w, hw⟩ : ∃ w, w = pack [(15, o.toNat), (5, b.toNat), (5, a.toNat), (6, 0x05), (1, loneBit l)] := ⟨_, rfl⟩
  have word : encodeWord (.beq l a b o) = some w := by rw [hw]; rfl
  have small : w < 2 ^ 32 := lt_of hw fits
  have major : bitsOf w 25 6 = 5 := field_of hw fits 3
  have lone : bitsOf w 31 1 = loneBit l := field_of hw fits 4
  have field0 : fld w 0 15 = o := fld_of (field_of hw fits 0)
  have field15 : fld w 15 5 = b := fld_of (field_of hw fits 1)
  have field20 : fld w 20 5 = a := fld_of (field_of hw fits 2)
  refine ofC rfl rfl rfl word small fun wf x ext => ?_
  rw [decodeC05_of major (lone_of lone ext)]
  simp only [decodeC05, field0, field15, field20, checked, wf]

theorem Roundtrip.bne (l : Lone) (a : Reg) (b : Reg) (o : BitVec 15) : Statement (.bne l a b o) := by
  have fits : Fits [(15, o.toNat), (5, b.toNat), (5, a.toNat), (6, 0x06), (1, loneBit l)] := ⟨o.isLt, b.isLt, a.isLt, by decide, loneBit_lt l, trivial⟩
  obtain ⟨w, hw⟩ : ∃ w, w = pack [(15, o.toNat), (5, b.toNat), (5, a.toNat), (6, 0x06), (1, loneBit l)] := ⟨_, rfl⟩
  have word : encodeWord (.bne l a b o) = some w := by rw [hw]; rfl
  have small : w < 2 ^ 32 := lt_of hw fits
  have major : bitsOf w 25 6 = 6 := field_of hw fits 3
  have lone : bitsOf w 31 1 = loneBit l := field_of hw fits 4
  have field0 : fld w 0 15 = o := fld_of (field_of hw fits 0)
  have field15 : fld w 15 5 = b := fld_of (field_of hw fits 1)
  have field20 : fld w 20 5 = a := fld_of (field_of hw fits 2)
  refine ofC rfl rfl rfl word small fun wf x ext => ?_
  rw [decodeC06_of major (lone_of lone ext)]
  simp only [decodeC06, field0, field15, field20, checked, wf]

theorem Roundtrip.bltS (l : Lone) (a : Reg) (b : Reg) (o : BitVec 15) : Statement (.bltS l a b o) := by
  have fits : Fits [(15, o.toNat), (5, b.toNat), (5, a.toNat), (6, 0x07), (1, loneBit l)] := ⟨o.isLt, b.isLt, a.isLt, by decide, loneBit_lt l, trivial⟩
  obtain ⟨w, hw⟩ : ∃ w, w = pack [(15, o.toNat), (5, b.toNat), (5, a.toNat), (6, 0x07), (1, loneBit l)] := ⟨_, rfl⟩
  have word : encodeWord (.bltS l a b o) = some w := by rw [hw]; rfl
  have small : w < 2 ^ 32 := lt_of hw fits
  have major : bitsOf w 25 6 = 7 := field_of hw fits 3
  have lone : bitsOf w 31 1 = loneBit l := field_of hw fits 4
  have field0 : fld w 0 15 = o := fld_of (field_of hw fits 0)
  have field15 : fld w 15 5 = b := fld_of (field_of hw fits 1)
  have field20 : fld w 20 5 = a := fld_of (field_of hw fits 2)
  refine ofC rfl rfl rfl word small fun wf x ext => ?_
  rw [decodeC07_of major (lone_of lone ext)]
  simp only [decodeC07, field0, field15, field20, checked, wf]

theorem Roundtrip.bgeS (l : Lone) (a : Reg) (b : Reg) (o : BitVec 15) : Statement (.bgeS l a b o) := by
  have fits : Fits [(15, o.toNat), (5, b.toNat), (5, a.toNat), (6, 0x08), (1, loneBit l)] := ⟨o.isLt, b.isLt, a.isLt, by decide, loneBit_lt l, trivial⟩
  obtain ⟨w, hw⟩ : ∃ w, w = pack [(15, o.toNat), (5, b.toNat), (5, a.toNat), (6, 0x08), (1, loneBit l)] := ⟨_, rfl⟩
  have word : encodeWord (.bgeS l a b o) = some w := by rw [hw]; rfl
  have small : w < 2 ^ 32 := lt_of hw fits
  have major : bitsOf w 25 6 = 8 := field_of hw fits 3
  have lone : bitsOf w 31 1 = loneBit l := field_of hw fits 4
  have field0 : fld w 0 15 = o := fld_of (field_of hw fits 0)
  have field15 : fld w 15 5 = b := fld_of (field_of hw fits 1)
  have field20 : fld w 20 5 = a := fld_of (field_of hw fits 2)
  refine ofC rfl rfl rfl word small fun wf x ext => ?_
  rw [decodeC08_of major (lone_of lone ext)]
  simp only [decodeC08, field0, field15, field20, checked, wf]

theorem Roundtrip.bltN (l : Lone) (a : Reg) (b : Reg) (o : BitVec 15) : Statement (.bltN l a b o) := by
  have fits : Fits [(15, o.toNat), (5, b.toNat), (5, a.toNat), (6, 0x09), (1, loneBit l)] := ⟨o.isLt, b.isLt, a.isLt, by decide, loneBit_lt l, trivial⟩
  obtain ⟨w, hw⟩ : ∃ w, w = pack [(15, o.toNat), (5, b.toNat), (5, a.toNat), (6, 0x09), (1, loneBit l)] := ⟨_, rfl⟩
  have word : encodeWord (.bltN l a b o) = some w := by rw [hw]; rfl
  have small : w < 2 ^ 32 := lt_of hw fits
  have major : bitsOf w 25 6 = 9 := field_of hw fits 3
  have lone : bitsOf w 31 1 = loneBit l := field_of hw fits 4
  have field0 : fld w 0 15 = o := fld_of (field_of hw fits 0)
  have field15 : fld w 15 5 = b := fld_of (field_of hw fits 1)
  have field20 : fld w 20 5 = a := fld_of (field_of hw fits 2)
  refine ofC rfl rfl rfl word small fun wf x ext => ?_
  rw [decodeC09_of major (lone_of lone ext)]
  simp only [decodeC09, field0, field15, field20, checked, wf]

theorem Roundtrip.bgeN (l : Lone) (a : Reg) (b : Reg) (o : BitVec 15) : Statement (.bgeN l a b o) := by
  have fits : Fits [(15, o.toNat), (5, b.toNat), (5, a.toNat), (6, 0x0A), (1, loneBit l)] := ⟨o.isLt, b.isLt, a.isLt, by decide, loneBit_lt l, trivial⟩
  obtain ⟨w, hw⟩ : ∃ w, w = pack [(15, o.toNat), (5, b.toNat), (5, a.toNat), (6, 0x0A), (1, loneBit l)] := ⟨_, rfl⟩
  have word : encodeWord (.bgeN l a b o) = some w := by rw [hw]; rfl
  have small : w < 2 ^ 32 := lt_of hw fits
  have major : bitsOf w 25 6 = 10 := field_of hw fits 3
  have lone : bitsOf w 31 1 = loneBit l := field_of hw fits 4
  have field0 : fld w 0 15 = o := fld_of (field_of hw fits 0)
  have field15 : fld w 15 5 = b := fld_of (field_of hw fits 1)
  have field20 : fld w 20 5 = a := fld_of (field_of hw fits 2)
  refine ofC rfl rfl rfl word small fun wf x ext => ?_
  rw [decodeC0A_of major (lone_of lone ext)]
  simp only [decodeC0A, field0, field15, field20, checked, wf]

theorem Roundtrip.lp (l : Lone) (a : Reg) (e : BitVec 15) : Statement (.lp l a e) := by
  have fits : Fits [(15, e.toNat), (5, 0), (5, a.toNat), (6, 0x0B), (1, loneBit l)] := ⟨e.isLt, by decide, a.isLt, by decide, loneBit_lt l, trivial⟩
  obtain ⟨w, hw⟩ : ∃ w, w = pack [(15, e.toNat), (5, 0), (5, a.toNat), (6, 0x0B), (1, loneBit l)] := ⟨_, rfl⟩
  have word : encodeWord (.lp l a e) = some w := by rw [hw]; rfl
  have small : w < 2 ^ 32 := lt_of hw fits
  have major : bitsOf w 25 6 = 11 := field_of hw fits 3
  have lone : bitsOf w 31 1 = loneBit l := field_of hw fits 4
  have bits15 : bitsOf w 15 5 = 0 := field_of hw fits 1
  have field0 : fld w 0 15 = e := fld_of (field_of hw fits 0)
  have field20 : fld w 20 5 = a := fld_of (field_of hw fits 2)
  refine ofC rfl rfl rfl word small fun wf x ext => ?_
  rw [decodeC0B_of major (lone_of lone ext)]
  simp only [decodeC0B, bits15, field0, field20, zeros_nil, zeros_cons, checked, wf]

theorem Roundtrip.lpi (l : Lone) (c : BitVec 10) (e : BitVec 15) : Statement (.lpi l c e) := by
  have fits : Fits [(15, e.toNat), (10, c.toNat), (6, 0x0C), (1, loneBit l)] := ⟨e.isLt, c.isLt, by decide, loneBit_lt l, trivial⟩
  obtain ⟨w, hw⟩ : ∃ w, w = pack [(15, e.toNat), (10, c.toNat), (6, 0x0C), (1, loneBit l)] := ⟨_, rfl⟩
  have word : encodeWord (.lpi l c e) = some w := by rw [hw]; rfl
  have small : w < 2 ^ 32 := lt_of hw fits
  have major : bitsOf w 25 6 = 12 := field_of hw fits 2
  have lone : bitsOf w 31 1 = loneBit l := field_of hw fits 3
  have field0 : fld w 0 15 = e := fld_of (field_of hw fits 0)
  have field15 : fld w 15 10 = c := fld_of (field_of hw fits 1)
  refine ofC rfl rfl rfl word small fun wf x ext => ?_
  rw [decodeC0C_of major (lone_of lone ext)]
  simp only [decodeC0C, field0, field15, checked, wf]

theorem Roundtrip.ldbS (l : Lone) (d : Reg) (a : Reg) (ord : MemOrder) (sc : BitVec 3) (f : BitVec 10) : Statement (.ldbS l d a ord sc f) := by
  have fits : Fits [(10, f.toNat), (3, sc.toNat), (2, ord.code.toNat), (5, a.toNat), (5, d.toNat), (6, 0x0D), (1, loneBit l)] := ⟨f.isLt, sc.isLt, ord.code.isLt, a.isLt, d.isLt, by decide, loneBit_lt l, trivial⟩
  obtain ⟨w, hw⟩ : ∃ w, w = pack [(10, f.toNat), (3, sc.toNat), (2, ord.code.toNat), (5, a.toNat), (5, d.toNat), (6, 0x0D), (1, loneBit l)] := ⟨_, rfl⟩
  have word : encodeWord (.ldbS l d a ord sc f) = some w := by rw [hw]; rfl
  have small : w < 2 ^ 32 := lt_of hw fits
  have major : bitsOf w 25 6 = 13 := field_of hw fits 5
  have lone : bitsOf w 31 1 = loneBit l := field_of hw fits 6
  have field0 : fld w 0 10 = f := fld_of (field_of hw fits 0)
  have field10 : fld w 10 3 = sc := fld_of (field_of hw fits 1)
  have field13 : fld w 13 2 = ord.code := fld_of (field_of hw fits 2)
  have field15 : fld w 15 5 = a := fld_of (field_of hw fits 3)
  have field20 : fld w 20 5 = d := fld_of (field_of hw fits 4)
  refine ofC rfl rfl rfl word small fun wf x ext => ?_
  rw [decodeC0D_of major (lone_of lone ext)]
  simp only [decodeC0D, field0, field10, field13, field15, field20, ofCode_code, checked, wf]

theorem Roundtrip.ldbN (l : Lone) (d : Reg) (a : Reg) (ord : MemOrder) (sc : BitVec 3) (f : BitVec 10) : Statement (.ldbN l d a ord sc f) := by
  have fits : Fits [(10, f.toNat), (3, sc.toNat), (2, ord.code.toNat), (5, a.toNat), (5, d.toNat), (6, 0x0E), (1, loneBit l)] := ⟨f.isLt, sc.isLt, ord.code.isLt, a.isLt, d.isLt, by decide, loneBit_lt l, trivial⟩
  obtain ⟨w, hw⟩ : ∃ w, w = pack [(10, f.toNat), (3, sc.toNat), (2, ord.code.toNat), (5, a.toNat), (5, d.toNat), (6, 0x0E), (1, loneBit l)] := ⟨_, rfl⟩
  have word : encodeWord (.ldbN l d a ord sc f) = some w := by rw [hw]; rfl
  have small : w < 2 ^ 32 := lt_of hw fits
  have major : bitsOf w 25 6 = 14 := field_of hw fits 5
  have lone : bitsOf w 31 1 = loneBit l := field_of hw fits 6
  have field0 : fld w 0 10 = f := fld_of (field_of hw fits 0)
  have field10 : fld w 10 3 = sc := fld_of (field_of hw fits 1)
  have field13 : fld w 13 2 = ord.code := fld_of (field_of hw fits 2)
  have field15 : fld w 15 5 = a := fld_of (field_of hw fits 3)
  have field20 : fld w 20 5 = d := fld_of (field_of hw fits 4)
  refine ofC rfl rfl rfl word small fun wf x ext => ?_
  rw [decodeC0E_of major (lone_of lone ext)]
  simp only [decodeC0E, field0, field10, field13, field15, field20, ofCode_code, checked, wf]

theorem Roundtrip.ldhS (l : Lone) (d : Reg) (a : Reg) (ord : MemOrder) (sc : BitVec 3) (f : BitVec 10) : Statement (.ldhS l d a ord sc f) := by
  have fits : Fits [(10, f.toNat), (3, sc.toNat), (2, ord.code.toNat), (5, a.toNat), (5, d.toNat), (6, 0x0F), (1, loneBit l)] := ⟨f.isLt, sc.isLt, ord.code.isLt, a.isLt, d.isLt, by decide, loneBit_lt l, trivial⟩
  obtain ⟨w, hw⟩ : ∃ w, w = pack [(10, f.toNat), (3, sc.toNat), (2, ord.code.toNat), (5, a.toNat), (5, d.toNat), (6, 0x0F), (1, loneBit l)] := ⟨_, rfl⟩
  have word : encodeWord (.ldhS l d a ord sc f) = some w := by rw [hw]; rfl
  have small : w < 2 ^ 32 := lt_of hw fits
  have major : bitsOf w 25 6 = 15 := field_of hw fits 5
  have lone : bitsOf w 31 1 = loneBit l := field_of hw fits 6
  have field0 : fld w 0 10 = f := fld_of (field_of hw fits 0)
  have field10 : fld w 10 3 = sc := fld_of (field_of hw fits 1)
  have field13 : fld w 13 2 = ord.code := fld_of (field_of hw fits 2)
  have field15 : fld w 15 5 = a := fld_of (field_of hw fits 3)
  have field20 : fld w 20 5 = d := fld_of (field_of hw fits 4)
  refine ofC rfl rfl rfl word small fun wf x ext => ?_
  rw [decodeC0F_of major (lone_of lone ext)]
  simp only [decodeC0F, field0, field10, field13, field15, field20, ofCode_code, checked, wf]

theorem Roundtrip.ldhN (l : Lone) (d : Reg) (a : Reg) (ord : MemOrder) (sc : BitVec 3) (f : BitVec 10) : Statement (.ldhN l d a ord sc f) := by
  have fits : Fits [(10, f.toNat), (3, sc.toNat), (2, ord.code.toNat), (5, a.toNat), (5, d.toNat), (6, 0x10), (1, loneBit l)] := ⟨f.isLt, sc.isLt, ord.code.isLt, a.isLt, d.isLt, by decide, loneBit_lt l, trivial⟩
  obtain ⟨w, hw⟩ : ∃ w, w = pack [(10, f.toNat), (3, sc.toNat), (2, ord.code.toNat), (5, a.toNat), (5, d.toNat), (6, 0x10), (1, loneBit l)] := ⟨_, rfl⟩
  have word : encodeWord (.ldhN l d a ord sc f) = some w := by rw [hw]; rfl
  have small : w < 2 ^ 32 := lt_of hw fits
  have major : bitsOf w 25 6 = 16 := field_of hw fits 5
  have lone : bitsOf w 31 1 = loneBit l := field_of hw fits 6
  have field0 : fld w 0 10 = f := fld_of (field_of hw fits 0)
  have field10 : fld w 10 3 = sc := fld_of (field_of hw fits 1)
  have field13 : fld w 13 2 = ord.code := fld_of (field_of hw fits 2)
  have field15 : fld w 15 5 = a := fld_of (field_of hw fits 3)
  have field20 : fld w 20 5 = d := fld_of (field_of hw fits 4)
  refine ofC rfl rfl rfl word small fun wf x ext => ?_
  rw [decodeC10_of major (lone_of lone ext)]
  simp only [decodeC10, field0, field10, field13, field15, field20, ofCode_code, checked, wf]

theorem Roundtrip.ldwS (l : Lone) (d : Reg) (a : Reg) (ord : MemOrder) (sc : BitVec 3) (f : BitVec 10) : Statement (.ldwS l d a ord sc f) := by
  have fits : Fits [(10, f.toNat), (3, sc.toNat), (2, ord.code.toNat), (5, a.toNat), (5, d.toNat), (6, 0x11), (1, loneBit l)] := ⟨f.isLt, sc.isLt, ord.code.isLt, a.isLt, d.isLt, by decide, loneBit_lt l, trivial⟩
  obtain ⟨w, hw⟩ : ∃ w, w = pack [(10, f.toNat), (3, sc.toNat), (2, ord.code.toNat), (5, a.toNat), (5, d.toNat), (6, 0x11), (1, loneBit l)] := ⟨_, rfl⟩
  have word : encodeWord (.ldwS l d a ord sc f) = some w := by rw [hw]; rfl
  have small : w < 2 ^ 32 := lt_of hw fits
  have major : bitsOf w 25 6 = 17 := field_of hw fits 5
  have lone : bitsOf w 31 1 = loneBit l := field_of hw fits 6
  have field0 : fld w 0 10 = f := fld_of (field_of hw fits 0)
  have field10 : fld w 10 3 = sc := fld_of (field_of hw fits 1)
  have field13 : fld w 13 2 = ord.code := fld_of (field_of hw fits 2)
  have field15 : fld w 15 5 = a := fld_of (field_of hw fits 3)
  have field20 : fld w 20 5 = d := fld_of (field_of hw fits 4)
  refine ofC rfl rfl rfl word small fun wf x ext => ?_
  rw [decodeC11_of major (lone_of lone ext)]
  simp only [decodeC11, field0, field10, field13, field15, field20, ofCode_code, checked, wf]

theorem Roundtrip.ldwN (l : Lone) (d : Reg) (a : Reg) (ord : MemOrder) (sc : BitVec 3) (f : BitVec 10) : Statement (.ldwN l d a ord sc f) := by
  have fits : Fits [(10, f.toNat), (3, sc.toNat), (2, ord.code.toNat), (5, a.toNat), (5, d.toNat), (6, 0x12), (1, loneBit l)] := ⟨f.isLt, sc.isLt, ord.code.isLt, a.isLt, d.isLt, by decide, loneBit_lt l, trivial⟩
  obtain ⟨w, hw⟩ : ∃ w, w = pack [(10, f.toNat), (3, sc.toNat), (2, ord.code.toNat), (5, a.toNat), (5, d.toNat), (6, 0x12), (1, loneBit l)] := ⟨_, rfl⟩
  have word : encodeWord (.ldwN l d a ord sc f) = some w := by rw [hw]; rfl
  have small : w < 2 ^ 32 := lt_of hw fits
  have major : bitsOf w 25 6 = 18 := field_of hw fits 5
  have lone : bitsOf w 31 1 = loneBit l := field_of hw fits 6
  have field0 : fld w 0 10 = f := fld_of (field_of hw fits 0)
  have field10 : fld w 10 3 = sc := fld_of (field_of hw fits 1)
  have field13 : fld w 13 2 = ord.code := fld_of (field_of hw fits 2)
  have field15 : fld w 15 5 = a := fld_of (field_of hw fits 3)
  have field20 : fld w 20 5 = d := fld_of (field_of hw fits 4)
  refine ofC rfl rfl rfl word small fun wf x ext => ?_
  rw [decodeC12_of major (lone_of lone ext)]
  simp only [decodeC12, field0, field10, field13, field15, field20, ofCode_code, checked, wf]

theorem Roundtrip.ldd (l : Lone) (d : Reg) (a : Reg) (ord : MemOrder) (sc : BitVec 3) (f : BitVec 10) : Statement (.ldd l d a ord sc f) := by
  have fits : Fits [(10, f.toNat), (3, sc.toNat), (2, ord.code.toNat), (5, a.toNat), (5, d.toNat), (6, 0x13), (1, loneBit l)] := ⟨f.isLt, sc.isLt, ord.code.isLt, a.isLt, d.isLt, by decide, loneBit_lt l, trivial⟩
  obtain ⟨w, hw⟩ : ∃ w, w = pack [(10, f.toNat), (3, sc.toNat), (2, ord.code.toNat), (5, a.toNat), (5, d.toNat), (6, 0x13), (1, loneBit l)] := ⟨_, rfl⟩
  have word : encodeWord (.ldd l d a ord sc f) = some w := by rw [hw]; rfl
  have small : w < 2 ^ 32 := lt_of hw fits
  have major : bitsOf w 25 6 = 19 := field_of hw fits 5
  have lone : bitsOf w 31 1 = loneBit l := field_of hw fits 6
  have field0 : fld w 0 10 = f := fld_of (field_of hw fits 0)
  have field10 : fld w 10 3 = sc := fld_of (field_of hw fits 1)
  have field13 : fld w 13 2 = ord.code := fld_of (field_of hw fits 2)
  have field15 : fld w 15 5 = a := fld_of (field_of hw fits 3)
  have field20 : fld w 20 5 = d := fld_of (field_of hw fits 4)
  refine ofC rfl rfl rfl word small fun wf x ext => ?_
  rw [decodeC13_of major (lone_of lone ext)]
  simp only [decodeC13, field0, field10, field13, field15, field20, ofCode_code, checked, wf]

theorem Roundtrip.stb (l : Lone) (s : Reg) (a : Reg) (ord : MemOrder) (sc : BitVec 3) (f : BitVec 10) : Statement (.stb l s a ord sc f) := by
  have fits : Fits [(10, f.toNat), (3, sc.toNat), (2, ord.code.toNat), (5, a.toNat), (5, s.toNat), (6, 0x14), (1, loneBit l)] := ⟨f.isLt, sc.isLt, ord.code.isLt, a.isLt, s.isLt, by decide, loneBit_lt l, trivial⟩
  obtain ⟨w, hw⟩ : ∃ w, w = pack [(10, f.toNat), (3, sc.toNat), (2, ord.code.toNat), (5, a.toNat), (5, s.toNat), (6, 0x14), (1, loneBit l)] := ⟨_, rfl⟩
  have word : encodeWord (.stb l s a ord sc f) = some w := by rw [hw]; rfl
  have small : w < 2 ^ 32 := lt_of hw fits
  have major : bitsOf w 25 6 = 20 := field_of hw fits 5
  have lone : bitsOf w 31 1 = loneBit l := field_of hw fits 6
  have field0 : fld w 0 10 = f := fld_of (field_of hw fits 0)
  have field10 : fld w 10 3 = sc := fld_of (field_of hw fits 1)
  have field13 : fld w 13 2 = ord.code := fld_of (field_of hw fits 2)
  have field15 : fld w 15 5 = a := fld_of (field_of hw fits 3)
  have field20 : fld w 20 5 = s := fld_of (field_of hw fits 4)
  refine ofC rfl rfl rfl word small fun wf x ext => ?_
  rw [decodeC14_of major (lone_of lone ext)]
  simp only [decodeC14, field0, field10, field13, field15, field20, ofCode_code, checked, wf]

theorem Roundtrip.sth (l : Lone) (s : Reg) (a : Reg) (ord : MemOrder) (sc : BitVec 3) (f : BitVec 10) : Statement (.sth l s a ord sc f) := by
  have fits : Fits [(10, f.toNat), (3, sc.toNat), (2, ord.code.toNat), (5, a.toNat), (5, s.toNat), (6, 0x15), (1, loneBit l)] := ⟨f.isLt, sc.isLt, ord.code.isLt, a.isLt, s.isLt, by decide, loneBit_lt l, trivial⟩
  obtain ⟨w, hw⟩ : ∃ w, w = pack [(10, f.toNat), (3, sc.toNat), (2, ord.code.toNat), (5, a.toNat), (5, s.toNat), (6, 0x15), (1, loneBit l)] := ⟨_, rfl⟩
  have word : encodeWord (.sth l s a ord sc f) = some w := by rw [hw]; rfl
  have small : w < 2 ^ 32 := lt_of hw fits
  have major : bitsOf w 25 6 = 21 := field_of hw fits 5
  have lone : bitsOf w 31 1 = loneBit l := field_of hw fits 6
  have field0 : fld w 0 10 = f := fld_of (field_of hw fits 0)
  have field10 : fld w 10 3 = sc := fld_of (field_of hw fits 1)
  have field13 : fld w 13 2 = ord.code := fld_of (field_of hw fits 2)
  have field15 : fld w 15 5 = a := fld_of (field_of hw fits 3)
  have field20 : fld w 20 5 = s := fld_of (field_of hw fits 4)
  refine ofC rfl rfl rfl word small fun wf x ext => ?_
  rw [decodeC15_of major (lone_of lone ext)]
  simp only [decodeC15, field0, field10, field13, field15, field20, ofCode_code, checked, wf]

theorem Roundtrip.stw (l : Lone) (s : Reg) (a : Reg) (ord : MemOrder) (sc : BitVec 3) (f : BitVec 10) : Statement (.stw l s a ord sc f) := by
  have fits : Fits [(10, f.toNat), (3, sc.toNat), (2, ord.code.toNat), (5, a.toNat), (5, s.toNat), (6, 0x16), (1, loneBit l)] := ⟨f.isLt, sc.isLt, ord.code.isLt, a.isLt, s.isLt, by decide, loneBit_lt l, trivial⟩
  obtain ⟨w, hw⟩ : ∃ w, w = pack [(10, f.toNat), (3, sc.toNat), (2, ord.code.toNat), (5, a.toNat), (5, s.toNat), (6, 0x16), (1, loneBit l)] := ⟨_, rfl⟩
  have word : encodeWord (.stw l s a ord sc f) = some w := by rw [hw]; rfl
  have small : w < 2 ^ 32 := lt_of hw fits
  have major : bitsOf w 25 6 = 22 := field_of hw fits 5
  have lone : bitsOf w 31 1 = loneBit l := field_of hw fits 6
  have field0 : fld w 0 10 = f := fld_of (field_of hw fits 0)
  have field10 : fld w 10 3 = sc := fld_of (field_of hw fits 1)
  have field13 : fld w 13 2 = ord.code := fld_of (field_of hw fits 2)
  have field15 : fld w 15 5 = a := fld_of (field_of hw fits 3)
  have field20 : fld w 20 5 = s := fld_of (field_of hw fits 4)
  refine ofC rfl rfl rfl word small fun wf x ext => ?_
  rw [decodeC16_of major (lone_of lone ext)]
  simp only [decodeC16, field0, field10, field13, field15, field20, ofCode_code, checked, wf]

theorem Roundtrip.std (l : Lone) (s : Reg) (a : Reg) (ord : MemOrder) (sc : BitVec 3) (f : BitVec 10) : Statement (.std l s a ord sc f) := by
  have fits : Fits [(10, f.toNat), (3, sc.toNat), (2, ord.code.toNat), (5, a.toNat), (5, s.toNat), (6, 0x17), (1, loneBit l)] := ⟨f.isLt, sc.isLt, ord.code.isLt, a.isLt, s.isLt, by decide, loneBit_lt l, trivial⟩
  obtain ⟨w, hw⟩ : ∃ w, w = pack [(10, f.toNat), (3, sc.toNat), (2, ord.code.toNat), (5, a.toNat), (5, s.toNat), (6, 0x17), (1, loneBit l)] := ⟨_, rfl⟩
  have word : encodeWord (.std l s a ord sc f) = some w := by rw [hw]; rfl
  have small : w < 2 ^ 32 := lt_of hw fits
  have major : bitsOf w 25 6 = 23 := field_of hw fits 5
  have lone : bitsOf w 31 1 = loneBit l := field_of hw fits 6
  have field0 : fld w 0 10 = f := fld_of (field_of hw fits 0)
  have field10 : fld w 10 3 = sc := fld_of (field_of hw fits 1)
  have field13 : fld w 13 2 = ord.code := fld_of (field_of hw fits 2)
  have field15 : fld w 15 5 = a := fld_of (field_of hw fits 3)
  have field20 : fld w 20 5 = s := fld_of (field_of hw fits 4)
  refine ofC rfl rfl rfl word small fun wf x ext => ?_
  rw [decodeC17_of major (lone_of lone ext)]
  simp only [decodeC17, field0, field10, field13, field15, field20, ofCode_code, checked, wf]

theorem Roundtrip.ldv (l : Lone) (d : Reg) (a : Reg) (ord : MemOrder) (sc : BitVec 3) (v : Reg) : Statement (.ldv l d a ord sc v) := by
  have fits : Fits [(5, 0), (5, v.toNat), (3, sc.toNat), (2, ord.code.toNat), (5, a.toNat), (5, d.toNat), (6, 0x18), (1, loneBit l)] := ⟨by decide, v.isLt, sc.isLt, ord.code.isLt, a.isLt, d.isLt, by decide, loneBit_lt l, trivial⟩
  obtain ⟨w, hw⟩ : ∃ w, w = pack [(5, 0), (5, v.toNat), (3, sc.toNat), (2, ord.code.toNat), (5, a.toNat), (5, d.toNat), (6, 0x18), (1, loneBit l)] := ⟨_, rfl⟩
  have word : encodeWord (.ldv l d a ord sc v) = some w := by rw [hw]; rfl
  have small : w < 2 ^ 32 := lt_of hw fits
  have major : bitsOf w 25 6 = 24 := field_of hw fits 6
  have lone : bitsOf w 31 1 = loneBit l := field_of hw fits 7
  have bits0 : bitsOf w 0 5 = 0 := field_of hw fits 0
  have field5 : fld w 5 5 = v := fld_of (field_of hw fits 1)
  have field10 : fld w 10 3 = sc := fld_of (field_of hw fits 2)
  have field13 : fld w 13 2 = ord.code := fld_of (field_of hw fits 3)
  have field15 : fld w 15 5 = a := fld_of (field_of hw fits 4)
  have field20 : fld w 20 5 = d := fld_of (field_of hw fits 5)
  refine ofC rfl rfl rfl word small fun wf x ext => ?_
  rw [decodeC18_of major (lone_of lone ext)]
  simp only [decodeC18, bits0, field5, field10, field13, field15, field20, zeros_nil, zeros_cons, ofCode_code, checked, wf]

theorem Roundtrip.stv (l : Lone) (d : Reg) (a : Reg) (ord : MemOrder) (sc : BitVec 3) (v : Reg) : Statement (.stv l d a ord sc v) := by
  have fits : Fits [(5, 0), (5, v.toNat), (3, sc.toNat), (2, ord.code.toNat), (5, a.toNat), (5, d.toNat), (6, 0x19), (1, loneBit l)] := ⟨by decide, v.isLt, sc.isLt, ord.code.isLt, a.isLt, d.isLt, by decide, loneBit_lt l, trivial⟩
  obtain ⟨w, hw⟩ : ∃ w, w = pack [(5, 0), (5, v.toNat), (3, sc.toNat), (2, ord.code.toNat), (5, a.toNat), (5, d.toNat), (6, 0x19), (1, loneBit l)] := ⟨_, rfl⟩
  have word : encodeWord (.stv l d a ord sc v) = some w := by rw [hw]; rfl
  have small : w < 2 ^ 32 := lt_of hw fits
  have major : bitsOf w 25 6 = 25 := field_of hw fits 6
  have lone : bitsOf w 31 1 = loneBit l := field_of hw fits 7
  have bits0 : bitsOf w 0 5 = 0 := field_of hw fits 0
  have field5 : fld w 5 5 = v := fld_of (field_of hw fits 1)
  have field10 : fld w 10 3 = sc := fld_of (field_of hw fits 2)
  have field13 : fld w 13 2 = ord.code := fld_of (field_of hw fits 3)
  have field15 : fld w 15 5 = a := fld_of (field_of hw fits 4)
  have field20 : fld w 20 5 = d := fld_of (field_of hw fits 5)
  refine ofC rfl rfl rfl word small fun wf x ext => ?_
  rw [decodeC19_of major (lone_of lone ext)]
  simp only [decodeC19, bits0, field5, field10, field13, field15, field20, zeros_nil, zeros_cons, ofCode_code, checked, wf]

theorem Roundtrip.rcl (l : Lone) (a : Reg) (b : Reg) (ord : MemOrder) (sc : BitVec 3) : Statement (.rcl l a b ord sc) := by
  have fits : Fits [(2, 0), (3, 0), (3, sc.toNat), (2, ord.code.toNat), (5, b.toNat), (5, a.toNat), (5, 0), (6, 0x1A), (1, loneBit l)] := ⟨by decide, by decide, sc.isLt, ord.code.isLt, b.isLt, a.isLt, by decide, by decide, loneBit_lt l, trivial⟩
  obtain ⟨w, hw⟩ : ∃ w, w = pack [(2, 0), (3, 0), (3, sc.toNat), (2, ord.code.toNat), (5, b.toNat), (5, a.toNat), (5, 0), (6, 0x1A), (1, loneBit l)] := ⟨_, rfl⟩
  have word : encodeWord (.rcl l a b ord sc) = some w := by rw [hw]; rfl
  have small : w < 2 ^ 32 := lt_of hw fits
  have major : bitsOf w 25 6 = 26 := field_of hw fits 7
  have lone : bitsOf w 31 1 = loneBit l := field_of hw fits 8
  have bits0 : bitsOf w 0 2 = 0 := field_of hw fits 0
  have bits2 : bitsOf w 2 3 = 0 := field_of hw fits 1
  have bits20 : bitsOf w 20 5 = 0 := field_of hw fits 6
  have field5 : fld w 5 3 = sc := fld_of (field_of hw fits 2)
  have field8 : fld w 8 2 = ord.code := fld_of (field_of hw fits 3)
  have field10 : fld w 10 5 = b := fld_of (field_of hw fits 4)
  have field15 : fld w 15 5 = a := fld_of (field_of hw fits 5)
  refine ofC rfl rfl rfl word small fun wf x ext => ?_
  rw [decodeC1A_of major (lone_of lone ext)]
  simp only [decodeC1A, bits0, bits2, bits20, field5, field8, field10, field15, zeros_nil, zeros_cons, ofCode_code, checked, wf]

theorem Roundtrip.vtag (l : Lone) (d : Reg) (a : Reg) (ord : MemOrder) (sc : BitVec 3) : Statement (.vtag l d a ord sc) := by
  have fits : Fits [(2, 0), (3, 1), (3, sc.toNat), (2, ord.code.toNat), (5, 0), (5, a.toNat), (5, d.toNat), (6, 0x1A), (1, loneBit l)] := ⟨by decide, by decide, sc.isLt, ord.code.isLt, by decide, a.isLt, d.isLt, by decide, loneBit_lt l, trivial⟩
  obtain ⟨w, hw⟩ : ∃ w, w = pack [(2, 0), (3, 1), (3, sc.toNat), (2, ord.code.toNat), (5, 0), (5, a.toNat), (5, d.toNat), (6, 0x1A), (1, loneBit l)] := ⟨_, rfl⟩
  have word : encodeWord (.vtag l d a ord sc) = some w := by rw [hw]; rfl
  have small : w < 2 ^ 32 := lt_of hw fits
  have major : bitsOf w 25 6 = 26 := field_of hw fits 7
  have lone : bitsOf w 31 1 = loneBit l := field_of hw fits 8
  have bits0 : bitsOf w 0 2 = 0 := field_of hw fits 0
  have bits2 : bitsOf w 2 3 = 1 := field_of hw fits 1
  have bits10 : bitsOf w 10 5 = 0 := field_of hw fits 4
  have field5 : fld w 5 3 = sc := fld_of (field_of hw fits 2)
  have field8 : fld w 8 2 = ord.code := fld_of (field_of hw fits 3)
  have field15 : fld w 15 5 = a := fld_of (field_of hw fits 5)
  have field20 : fld w 20 5 = d := fld_of (field_of hw fits 6)
  refine ofC rfl rfl rfl word small fun wf x ext => ?_
  rw [decodeC1A_of major (lone_of lone ext)]
  simp only [decodeC1A, bits0, bits2, bits10, field5, field8, field15, field20, zeros_nil, zeros_cons, ofCode_code, checked, wf]

theorem Roundtrip.vinit (l : Lone) (a : Reg) (b : Reg) (ord : MemOrder) (sc : BitVec 3) (k : BitVec 2) : Statement (.vinit l a b ord sc k) := by
  have fits : Fits [(2, k.toNat), (3, 2), (3, sc.toNat), (2, ord.code.toNat), (5, b.toNat), (5, a.toNat), (5, 0), (6, 0x1A), (1, loneBit l)] := ⟨k.isLt, by decide, sc.isLt, ord.code.isLt, b.isLt, a.isLt, by decide, by decide, loneBit_lt l, trivial⟩
  obtain ⟨w, hw⟩ : ∃ w, w = pack [(2, k.toNat), (3, 2), (3, sc.toNat), (2, ord.code.toNat), (5, b.toNat), (5, a.toNat), (5, 0), (6, 0x1A), (1, loneBit l)] := ⟨_, rfl⟩
  have word : encodeWord (.vinit l a b ord sc k) = some w := by rw [hw]; rfl
  have small : w < 2 ^ 32 := lt_of hw fits
  have major : bitsOf w 25 6 = 26 := field_of hw fits 7
  have lone : bitsOf w 31 1 = loneBit l := field_of hw fits 8
  have bits2 : bitsOf w 2 3 = 2 := field_of hw fits 1
  have bits20 : bitsOf w 20 5 = 0 := field_of hw fits 6
  have field0 : fld w 0 2 = k := fld_of (field_of hw fits 0)
  have field5 : fld w 5 3 = sc := fld_of (field_of hw fits 2)
  have field8 : fld w 8 2 = ord.code := fld_of (field_of hw fits 3)
  have field10 : fld w 10 5 = b := fld_of (field_of hw fits 4)
  have field15 : fld w 15 5 = a := fld_of (field_of hw fits 5)
  refine ofC rfl rfl rfl word small fun wf x ext => ?_
  rw [decodeC1A_of major (lone_of lone ext)]
  simp only [decodeC1A, bits2, bits20, field0, field5, field8, field10, field15, zeros_nil, zeros_cons, ofCode_code, checked, wf]

theorem Roundtrip.aswp (l : Lone) (d : Reg) (a : Reg) (b : Reg) (ord : MemOrder) (sc : BitVec 3) : Statement (.aswp l d a b ord sc) := by
  have fits : Fits [(5, 0), (3, sc.toNat), (2, ord.code.toNat), (5, b.toNat), (5, a.toNat), (5, d.toNat), (6, 0x1B), (1, loneBit l)] := ⟨by decide, sc.isLt, ord.code.isLt, b.isLt, a.isLt, d.isLt, by decide, loneBit_lt l, trivial⟩
  obtain ⟨w, hw⟩ : ∃ w, w = pack [(5, 0), (3, sc.toNat), (2, ord.code.toNat), (5, b.toNat), (5, a.toNat), (5, d.toNat), (6, 0x1B), (1, loneBit l)] := ⟨_, rfl⟩
  have word : encodeWord (.aswp l d a b ord sc) = some w := by rw [hw]; rfl
  have small : w < 2 ^ 32 := lt_of hw fits
  have major : bitsOf w 25 6 = 27 := field_of hw fits 6
  have lone : bitsOf w 31 1 = loneBit l := field_of hw fits 7
  have bits0 : bitsOf w 0 5 = 0 := field_of hw fits 0
  have field5 : fld w 5 3 = sc := fld_of (field_of hw fits 1)
  have field8 : fld w 8 2 = ord.code := fld_of (field_of hw fits 2)
  have field10 : fld w 10 5 = b := fld_of (field_of hw fits 3)
  have field15 : fld w 15 5 = a := fld_of (field_of hw fits 4)
  have field20 : fld w 20 5 = d := fld_of (field_of hw fits 5)
  refine ofC rfl rfl rfl word small fun wf x ext => ?_
  rw [decodeC1B_of major (lone_of lone ext)]
  simp only [decodeC1B, bits0, field5, field8, field10, field15, field20, ofCode_code, checked, wf]

theorem Roundtrip.aswpd (l : Lone) (d : Reg) (a : Reg) (b : Reg) (ord : MemOrder) (sc : BitVec 3) : Statement (.aswpd l d a b ord sc) := by
  have fits : Fits [(5, 1), (3, sc.toNat), (2, ord.code.toNat), (5, b.toNat), (5, a.toNat), (5, d.toNat), (6, 0x1B), (1, loneBit l)] := ⟨by decide, sc.isLt, ord.code.isLt, b.isLt, a.isLt, d.isLt, by decide, loneBit_lt l, trivial⟩
  obtain ⟨w, hw⟩ : ∃ w, w = pack [(5, 1), (3, sc.toNat), (2, ord.code.toNat), (5, b.toNat), (5, a.toNat), (5, d.toNat), (6, 0x1B), (1, loneBit l)] := ⟨_, rfl⟩
  have word : encodeWord (.aswpd l d a b ord sc) = some w := by rw [hw]; rfl
  have small : w < 2 ^ 32 := lt_of hw fits
  have major : bitsOf w 25 6 = 27 := field_of hw fits 6
  have lone : bitsOf w 31 1 = loneBit l := field_of hw fits 7
  have bits0 : bitsOf w 0 5 = 1 := field_of hw fits 0
  have field5 : fld w 5 3 = sc := fld_of (field_of hw fits 1)
  have field8 : fld w 8 2 = ord.code := fld_of (field_of hw fits 2)
  have field10 : fld w 10 5 = b := fld_of (field_of hw fits 3)
  have field15 : fld w 15 5 = a := fld_of (field_of hw fits 4)
  have field20 : fld w 20 5 = d := fld_of (field_of hw fits 5)
  refine ofC rfl rfl rfl word small fun wf x ext => ?_
  rw [decodeC1B_of major (lone_of lone ext)]
  simp only [decodeC1B, bits0, field5, field8, field10, field15, field20, ofCode_code, checked, wf]

theorem Roundtrip.acas (l : Lone) (d : Reg) (a : Reg) (b : Reg) (ord : MemOrder) (sc : BitVec 3) : Statement (.acas l d a b ord sc) := by
  have fits : Fits [(5, 2), (3, sc.toNat), (2, ord.code.toNat), (5, b.toNat), (5, a.toNat), (5, d.toNat), (6, 0x1B), (1, loneBit l)] := ⟨by decide, sc.isLt, ord.code.isLt, b.isLt, a.isLt, d.isLt, by decide, loneBit_lt l, trivial⟩
  obtain ⟨w, hw⟩ : ∃ w, w = pack [(5, 2), (3, sc.toNat), (2, ord.code.toNat), (5, b.toNat), (5, a.toNat), (5, d.toNat), (6, 0x1B), (1, loneBit l)] := ⟨_, rfl⟩
  have word : encodeWord (.acas l d a b ord sc) = some w := by rw [hw]; rfl
  have small : w < 2 ^ 32 := lt_of hw fits
  have major : bitsOf w 25 6 = 27 := field_of hw fits 6
  have lone : bitsOf w 31 1 = loneBit l := field_of hw fits 7
  have bits0 : bitsOf w 0 5 = 2 := field_of hw fits 0
  have field5 : fld w 5 3 = sc := fld_of (field_of hw fits 1)
  have field8 : fld w 8 2 = ord.code := fld_of (field_of hw fits 2)
  have field10 : fld w 10 5 = b := fld_of (field_of hw fits 3)
  have field15 : fld w 15 5 = a := fld_of (field_of hw fits 4)
  have field20 : fld w 20 5 = d := fld_of (field_of hw fits 5)
  refine ofC rfl rfl rfl word small fun wf x ext => ?_
  rw [decodeC1B_of major (lone_of lone ext)]
  simp only [decodeC1B, bits0, field5, field8, field10, field15, field20, ofCode_code, checked, wf]

theorem Roundtrip.acasd (l : Lone) (d : Reg) (a : Reg) (b : Reg) (ord : MemOrder) (sc : BitVec 3) : Statement (.acasd l d a b ord sc) := by
  have fits : Fits [(5, 3), (3, sc.toNat), (2, ord.code.toNat), (5, b.toNat), (5, a.toNat), (5, d.toNat), (6, 0x1B), (1, loneBit l)] := ⟨by decide, sc.isLt, ord.code.isLt, b.isLt, a.isLt, d.isLt, by decide, loneBit_lt l, trivial⟩
  obtain ⟨w, hw⟩ : ∃ w, w = pack [(5, 3), (3, sc.toNat), (2, ord.code.toNat), (5, b.toNat), (5, a.toNat), (5, d.toNat), (6, 0x1B), (1, loneBit l)] := ⟨_, rfl⟩
  have word : encodeWord (.acasd l d a b ord sc) = some w := by rw [hw]; rfl
  have small : w < 2 ^ 32 := lt_of hw fits
  have major : bitsOf w 25 6 = 27 := field_of hw fits 6
  have lone : bitsOf w 31 1 = loneBit l := field_of hw fits 7
  have bits0 : bitsOf w 0 5 = 3 := field_of hw fits 0
  have field5 : fld w 5 3 = sc := fld_of (field_of hw fits 1)
  have field8 : fld w 8 2 = ord.code := fld_of (field_of hw fits 2)
  have field10 : fld w 10 5 = b := fld_of (field_of hw fits 3)
  have field15 : fld w 15 5 = a := fld_of (field_of hw fits 4)
  have field20 : fld w 20 5 = d := fld_of (field_of hw fits 5)
  refine ofC rfl rfl rfl word small fun wf x ext => ?_
  rw [decodeC1B_of major (lone_of lone ext)]
  simp only [decodeC1B, bits0, field5, field8, field10, field15, field20, ofCode_code, checked, wf]

theorem Roundtrip.aadd (l : Lone) (d : Reg) (a : Reg) (b : Reg) (ord : MemOrder) (sc : BitVec 3) : Statement (.aadd l d a b ord sc) := by
  have fits : Fits [(5, 4), (3, sc.toNat), (2, ord.code.toNat), (5, b.toNat), (5, a.toNat), (5, d.toNat), (6, 0x1B), (1, loneBit l)] := ⟨by decide, sc.isLt, ord.code.isLt, b.isLt, a.isLt, d.isLt, by decide, loneBit_lt l, trivial⟩
  obtain ⟨w, hw⟩ : ∃ w, w = pack [(5, 4), (3, sc.toNat), (2, ord.code.toNat), (5, b.toNat), (5, a.toNat), (5, d.toNat), (6, 0x1B), (1, loneBit l)] := ⟨_, rfl⟩
  have word : encodeWord (.aadd l d a b ord sc) = some w := by rw [hw]; rfl
  have small : w < 2 ^ 32 := lt_of hw fits
  have major : bitsOf w 25 6 = 27 := field_of hw fits 6
  have lone : bitsOf w 31 1 = loneBit l := field_of hw fits 7
  have bits0 : bitsOf w 0 5 = 4 := field_of hw fits 0
  have field5 : fld w 5 3 = sc := fld_of (field_of hw fits 1)
  have field8 : fld w 8 2 = ord.code := fld_of (field_of hw fits 2)
  have field10 : fld w 10 5 = b := fld_of (field_of hw fits 3)
  have field15 : fld w 15 5 = a := fld_of (field_of hw fits 4)
  have field20 : fld w 20 5 = d := fld_of (field_of hw fits 5)
  refine ofC rfl rfl rfl word small fun wf x ext => ?_
  rw [decodeC1B_of major (lone_of lone ext)]
  simp only [decodeC1B, bits0, field5, field8, field10, field15, field20, ofCode_code, checked, wf]

theorem Roundtrip.aaddd (l : Lone) (d : Reg) (a : Reg) (b : Reg) (ord : MemOrder) (sc : BitVec 3) : Statement (.aaddd l d a b ord sc) := by
  have fits : Fits [(5, 5), (3, sc.toNat), (2, ord.code.toNat), (5, b.toNat), (5, a.toNat), (5, d.toNat), (6, 0x1B), (1, loneBit l)] := ⟨by decide, sc.isLt, ord.code.isLt, b.isLt, a.isLt, d.isLt, by decide, loneBit_lt l, trivial⟩
  obtain ⟨w, hw⟩ : ∃ w, w = pack [(5, 5), (3, sc.toNat), (2, ord.code.toNat), (5, b.toNat), (5, a.toNat), (5, d.toNat), (6, 0x1B), (1, loneBit l)] := ⟨_, rfl⟩
  have word : encodeWord (.aaddd l d a b ord sc) = some w := by rw [hw]; rfl
  have small : w < 2 ^ 32 := lt_of hw fits
  have major : bitsOf w 25 6 = 27 := field_of hw fits 6
  have lone : bitsOf w 31 1 = loneBit l := field_of hw fits 7
  have bits0 : bitsOf w 0 5 = 5 := field_of hw fits 0
  have field5 : fld w 5 3 = sc := fld_of (field_of hw fits 1)
  have field8 : fld w 8 2 = ord.code := fld_of (field_of hw fits 2)
  have field10 : fld w 10 5 = b := fld_of (field_of hw fits 3)
  have field15 : fld w 15 5 = a := fld_of (field_of hw fits 4)
  have field20 : fld w 20 5 = d := fld_of (field_of hw fits 5)
  refine ofC rfl rfl rfl word small fun wf x ext => ?_
  rw [decodeC1B_of major (lone_of lone ext)]
  simp only [decodeC1B, bits0, field5, field8, field10, field15, field20, ofCode_code, checked, wf]

theorem Roundtrip.aand (l : Lone) (d : Reg) (a : Reg) (b : Reg) (ord : MemOrder) (sc : BitVec 3) : Statement (.aand l d a b ord sc) := by
  have fits : Fits [(5, 6), (3, sc.toNat), (2, ord.code.toNat), (5, b.toNat), (5, a.toNat), (5, d.toNat), (6, 0x1B), (1, loneBit l)] := ⟨by decide, sc.isLt, ord.code.isLt, b.isLt, a.isLt, d.isLt, by decide, loneBit_lt l, trivial⟩
  obtain ⟨w, hw⟩ : ∃ w, w = pack [(5, 6), (3, sc.toNat), (2, ord.code.toNat), (5, b.toNat), (5, a.toNat), (5, d.toNat), (6, 0x1B), (1, loneBit l)] := ⟨_, rfl⟩
  have word : encodeWord (.aand l d a b ord sc) = some w := by rw [hw]; rfl
  have small : w < 2 ^ 32 := lt_of hw fits
  have major : bitsOf w 25 6 = 27 := field_of hw fits 6
  have lone : bitsOf w 31 1 = loneBit l := field_of hw fits 7
  have bits0 : bitsOf w 0 5 = 6 := field_of hw fits 0
  have field5 : fld w 5 3 = sc := fld_of (field_of hw fits 1)
  have field8 : fld w 8 2 = ord.code := fld_of (field_of hw fits 2)
  have field10 : fld w 10 5 = b := fld_of (field_of hw fits 3)
  have field15 : fld w 15 5 = a := fld_of (field_of hw fits 4)
  have field20 : fld w 20 5 = d := fld_of (field_of hw fits 5)
  refine ofC rfl rfl rfl word small fun wf x ext => ?_
  rw [decodeC1B_of major (lone_of lone ext)]
  simp only [decodeC1B, bits0, field5, field8, field10, field15, field20, ofCode_code, checked, wf]

theorem Roundtrip.aandd (l : Lone) (d : Reg) (a : Reg) (b : Reg) (ord : MemOrder) (sc : BitVec 3) : Statement (.aandd l d a b ord sc) := by
  have fits : Fits [(5, 7), (3, sc.toNat), (2, ord.code.toNat), (5, b.toNat), (5, a.toNat), (5, d.toNat), (6, 0x1B), (1, loneBit l)] := ⟨by decide, sc.isLt, ord.code.isLt, b.isLt, a.isLt, d.isLt, by decide, loneBit_lt l, trivial⟩
  obtain ⟨w, hw⟩ : ∃ w, w = pack [(5, 7), (3, sc.toNat), (2, ord.code.toNat), (5, b.toNat), (5, a.toNat), (5, d.toNat), (6, 0x1B), (1, loneBit l)] := ⟨_, rfl⟩
  have word : encodeWord (.aandd l d a b ord sc) = some w := by rw [hw]; rfl
  have small : w < 2 ^ 32 := lt_of hw fits
  have major : bitsOf w 25 6 = 27 := field_of hw fits 6
  have lone : bitsOf w 31 1 = loneBit l := field_of hw fits 7
  have bits0 : bitsOf w 0 5 = 7 := field_of hw fits 0
  have field5 : fld w 5 3 = sc := fld_of (field_of hw fits 1)
  have field8 : fld w 8 2 = ord.code := fld_of (field_of hw fits 2)
  have field10 : fld w 10 5 = b := fld_of (field_of hw fits 3)
  have field15 : fld w 15 5 = a := fld_of (field_of hw fits 4)
  have field20 : fld w 20 5 = d := fld_of (field_of hw fits 5)
  refine ofC rfl rfl rfl word small fun wf x ext => ?_
  rw [decodeC1B_of major (lone_of lone ext)]
  simp only [decodeC1B, bits0, field5, field8, field10, field15, field20, ofCode_code, checked, wf]

theorem Roundtrip.aor (l : Lone) (d : Reg) (a : Reg) (b : Reg) (ord : MemOrder) (sc : BitVec 3) : Statement (.aor l d a b ord sc) := by
  have fits : Fits [(5, 8), (3, sc.toNat), (2, ord.code.toNat), (5, b.toNat), (5, a.toNat), (5, d.toNat), (6, 0x1B), (1, loneBit l)] := ⟨by decide, sc.isLt, ord.code.isLt, b.isLt, a.isLt, d.isLt, by decide, loneBit_lt l, trivial⟩
  obtain ⟨w, hw⟩ : ∃ w, w = pack [(5, 8), (3, sc.toNat), (2, ord.code.toNat), (5, b.toNat), (5, a.toNat), (5, d.toNat), (6, 0x1B), (1, loneBit l)] := ⟨_, rfl⟩
  have word : encodeWord (.aor l d a b ord sc) = some w := by rw [hw]; rfl
  have small : w < 2 ^ 32 := lt_of hw fits
  have major : bitsOf w 25 6 = 27 := field_of hw fits 6
  have lone : bitsOf w 31 1 = loneBit l := field_of hw fits 7
  have bits0 : bitsOf w 0 5 = 8 := field_of hw fits 0
  have field5 : fld w 5 3 = sc := fld_of (field_of hw fits 1)
  have field8 : fld w 8 2 = ord.code := fld_of (field_of hw fits 2)
  have field10 : fld w 10 5 = b := fld_of (field_of hw fits 3)
  have field15 : fld w 15 5 = a := fld_of (field_of hw fits 4)
  have field20 : fld w 20 5 = d := fld_of (field_of hw fits 5)
  refine ofC rfl rfl rfl word small fun wf x ext => ?_
  rw [decodeC1B_of major (lone_of lone ext)]
  simp only [decodeC1B, bits0, field5, field8, field10, field15, field20, ofCode_code, checked, wf]

theorem Roundtrip.aord (l : Lone) (d : Reg) (a : Reg) (b : Reg) (ord : MemOrder) (sc : BitVec 3) : Statement (.aord l d a b ord sc) := by
  have fits : Fits [(5, 9), (3, sc.toNat), (2, ord.code.toNat), (5, b.toNat), (5, a.toNat), (5, d.toNat), (6, 0x1B), (1, loneBit l)] := ⟨by decide, sc.isLt, ord.code.isLt, b.isLt, a.isLt, d.isLt, by decide, loneBit_lt l, trivial⟩
  obtain ⟨w, hw⟩ : ∃ w, w = pack [(5, 9), (3, sc.toNat), (2, ord.code.toNat), (5, b.toNat), (5, a.toNat), (5, d.toNat), (6, 0x1B), (1, loneBit l)] := ⟨_, rfl⟩
  have word : encodeWord (.aord l d a b ord sc) = some w := by rw [hw]; rfl
  have small : w < 2 ^ 32 := lt_of hw fits
  have major : bitsOf w 25 6 = 27 := field_of hw fits 6
  have lone : bitsOf w 31 1 = loneBit l := field_of hw fits 7
  have bits0 : bitsOf w 0 5 = 9 := field_of hw fits 0
  have field5 : fld w 5 3 = sc := fld_of (field_of hw fits 1)
  have field8 : fld w 8 2 = ord.code := fld_of (field_of hw fits 2)
  have field10 : fld w 10 5 = b := fld_of (field_of hw fits 3)
  have field15 : fld w 15 5 = a := fld_of (field_of hw fits 4)
  have field20 : fld w 20 5 = d := fld_of (field_of hw fits 5)
  refine ofC rfl rfl rfl word small fun wf x ext => ?_
  rw [decodeC1B_of major (lone_of lone ext)]
  simp only [decodeC1B, bits0, field5, field8, field10, field15, field20, ofCode_code, checked, wf]

theorem Roundtrip.axor (l : Lone) (d : Reg) (a : Reg) (b : Reg) (ord : MemOrder) (sc : BitVec 3) : Statement (.axor l d a b ord sc) := by
  have fits : Fits [(5, 10), (3, sc.toNat), (2, ord.code.toNat), (5, b.toNat), (5, a.toNat), (5, d.toNat), (6, 0x1B), (1, loneBit l)] := ⟨by decide, sc.isLt, ord.code.isLt, b.isLt, a.isLt, d.isLt, by decide, loneBit_lt l, trivial⟩
  obtain ⟨w, hw⟩ : ∃ w, w = pack [(5, 10), (3, sc.toNat), (2, ord.code.toNat), (5, b.toNat), (5, a.toNat), (5, d.toNat), (6, 0x1B), (1, loneBit l)] := ⟨_, rfl⟩
  have word : encodeWord (.axor l d a b ord sc) = some w := by rw [hw]; rfl
  have small : w < 2 ^ 32 := lt_of hw fits
  have major : bitsOf w 25 6 = 27 := field_of hw fits 6
  have lone : bitsOf w 31 1 = loneBit l := field_of hw fits 7
  have bits0 : bitsOf w 0 5 = 10 := field_of hw fits 0
  have field5 : fld w 5 3 = sc := fld_of (field_of hw fits 1)
  have field8 : fld w 8 2 = ord.code := fld_of (field_of hw fits 2)
  have field10 : fld w 10 5 = b := fld_of (field_of hw fits 3)
  have field15 : fld w 15 5 = a := fld_of (field_of hw fits 4)
  have field20 : fld w 20 5 = d := fld_of (field_of hw fits 5)
  refine ofC rfl rfl rfl word small fun wf x ext => ?_
  rw [decodeC1B_of major (lone_of lone ext)]
  simp only [decodeC1B, bits0, field5, field8, field10, field15, field20, ofCode_code, checked, wf]

theorem Roundtrip.axord (l : Lone) (d : Reg) (a : Reg) (b : Reg) (ord : MemOrder) (sc : BitVec 3) : Statement (.axord l d a b ord sc) := by
  have fits : Fits [(5, 11), (3, sc.toNat), (2, ord.code.toNat), (5, b.toNat), (5, a.toNat), (5, d.toNat), (6, 0x1B), (1, loneBit l)] := ⟨by decide, sc.isLt, ord.code.isLt, b.isLt, a.isLt, d.isLt, by decide, loneBit_lt l, trivial⟩
  obtain ⟨w, hw⟩ : ∃ w, w = pack [(5, 11), (3, sc.toNat), (2, ord.code.toNat), (5, b.toNat), (5, a.toNat), (5, d.toNat), (6, 0x1B), (1, loneBit l)] := ⟨_, rfl⟩
  have word : encodeWord (.axord l d a b ord sc) = some w := by rw [hw]; rfl
  have small : w < 2 ^ 32 := lt_of hw fits
  have major : bitsOf w 25 6 = 27 := field_of hw fits 6
  have lone : bitsOf w 31 1 = loneBit l := field_of hw fits 7
  have bits0 : bitsOf w 0 5 = 11 := field_of hw fits 0
  have field5 : fld w 5 3 = sc := fld_of (field_of hw fits 1)
  have field8 : fld w 8 2 = ord.code := fld_of (field_of hw fits 2)
  have field10 : fld w 10 5 = b := fld_of (field_of hw fits 3)
  have field15 : fld w 15 5 = a := fld_of (field_of hw fits 4)
  have field20 : fld w 20 5 = d := fld_of (field_of hw fits 5)
  refine ofC rfl rfl rfl word small fun wf x ext => ?_
  rw [decodeC1B_of major (lone_of lone ext)]
  simp only [decodeC1B, bits0, field5, field8, field10, field15, field20, ofCode_code, checked, wf]

theorem Roundtrip.amaxS (l : Lone) (d : Reg) (a : Reg) (b : Reg) (ord : MemOrder) (sc : BitVec 3) : Statement (.amaxS l d a b ord sc) := by
  have fits : Fits [(5, 12), (3, sc.toNat), (2, ord.code.toNat), (5, b.toNat), (5, a.toNat), (5, d.toNat), (6, 0x1B), (1, loneBit l)] := ⟨by decide, sc.isLt, ord.code.isLt, b.isLt, a.isLt, d.isLt, by decide, loneBit_lt l, trivial⟩
  obtain ⟨w, hw⟩ : ∃ w, w = pack [(5, 12), (3, sc.toNat), (2, ord.code.toNat), (5, b.toNat), (5, a.toNat), (5, d.toNat), (6, 0x1B), (1, loneBit l)] := ⟨_, rfl⟩
  have word : encodeWord (.amaxS l d a b ord sc) = some w := by rw [hw]; rfl
  have small : w < 2 ^ 32 := lt_of hw fits
  have major : bitsOf w 25 6 = 27 := field_of hw fits 6
  have lone : bitsOf w 31 1 = loneBit l := field_of hw fits 7
  have bits0 : bitsOf w 0 5 = 12 := field_of hw fits 0
  have field5 : fld w 5 3 = sc := fld_of (field_of hw fits 1)
  have field8 : fld w 8 2 = ord.code := fld_of (field_of hw fits 2)
  have field10 : fld w 10 5 = b := fld_of (field_of hw fits 3)
  have field15 : fld w 15 5 = a := fld_of (field_of hw fits 4)
  have field20 : fld w 20 5 = d := fld_of (field_of hw fits 5)
  refine ofC rfl rfl rfl word small fun wf x ext => ?_
  rw [decodeC1B_of major (lone_of lone ext)]
  simp only [decodeC1B, bits0, field5, field8, field10, field15, field20, ofCode_code, checked, wf]

theorem Roundtrip.amaxdS (l : Lone) (d : Reg) (a : Reg) (b : Reg) (ord : MemOrder) (sc : BitVec 3) : Statement (.amaxdS l d a b ord sc) := by
  have fits : Fits [(5, 13), (3, sc.toNat), (2, ord.code.toNat), (5, b.toNat), (5, a.toNat), (5, d.toNat), (6, 0x1B), (1, loneBit l)] := ⟨by decide, sc.isLt, ord.code.isLt, b.isLt, a.isLt, d.isLt, by decide, loneBit_lt l, trivial⟩
  obtain ⟨w, hw⟩ : ∃ w, w = pack [(5, 13), (3, sc.toNat), (2, ord.code.toNat), (5, b.toNat), (5, a.toNat), (5, d.toNat), (6, 0x1B), (1, loneBit l)] := ⟨_, rfl⟩
  have word : encodeWord (.amaxdS l d a b ord sc) = some w := by rw [hw]; rfl
  have small : w < 2 ^ 32 := lt_of hw fits
  have major : bitsOf w 25 6 = 27 := field_of hw fits 6
  have lone : bitsOf w 31 1 = loneBit l := field_of hw fits 7
  have bits0 : bitsOf w 0 5 = 13 := field_of hw fits 0
  have field5 : fld w 5 3 = sc := fld_of (field_of hw fits 1)
  have field8 : fld w 8 2 = ord.code := fld_of (field_of hw fits 2)
  have field10 : fld w 10 5 = b := fld_of (field_of hw fits 3)
  have field15 : fld w 15 5 = a := fld_of (field_of hw fits 4)
  have field20 : fld w 20 5 = d := fld_of (field_of hw fits 5)
  refine ofC rfl rfl rfl word small fun wf x ext => ?_
  rw [decodeC1B_of major (lone_of lone ext)]
  simp only [decodeC1B, bits0, field5, field8, field10, field15, field20, ofCode_code, checked, wf]

theorem Roundtrip.aminS (l : Lone) (d : Reg) (a : Reg) (b : Reg) (ord : MemOrder) (sc : BitVec 3) : Statement (.aminS l d a b ord sc) := by
  have fits : Fits [(5, 14), (3, sc.toNat), (2, ord.code.toNat), (5, b.toNat), (5, a.toNat), (5, d.toNat), (6, 0x1B), (1, loneBit l)] := ⟨by decide, sc.isLt, ord.code.isLt, b.isLt, a.isLt, d.isLt, by decide, loneBit_lt l, trivial⟩
  obtain ⟨w, hw⟩ : ∃ w, w = pack [(5, 14), (3, sc.toNat), (2, ord.code.toNat), (5, b.toNat), (5, a.toNat), (5, d.toNat), (6, 0x1B), (1, loneBit l)] := ⟨_, rfl⟩
  have word : encodeWord (.aminS l d a b ord sc) = some w := by rw [hw]; rfl
  have small : w < 2 ^ 32 := lt_of hw fits
  have major : bitsOf w 25 6 = 27 := field_of hw fits 6
  have lone : bitsOf w 31 1 = loneBit l := field_of hw fits 7
  have bits0 : bitsOf w 0 5 = 14 := field_of hw fits 0
  have field5 : fld w 5 3 = sc := fld_of (field_of hw fits 1)
  have field8 : fld w 8 2 = ord.code := fld_of (field_of hw fits 2)
  have field10 : fld w 10 5 = b := fld_of (field_of hw fits 3)
  have field15 : fld w 15 5 = a := fld_of (field_of hw fits 4)
  have field20 : fld w 20 5 = d := fld_of (field_of hw fits 5)
  refine ofC rfl rfl rfl word small fun wf x ext => ?_
  rw [decodeC1B_of major (lone_of lone ext)]
  simp only [decodeC1B, bits0, field5, field8, field10, field15, field20, ofCode_code, checked, wf]

theorem Roundtrip.amindS (l : Lone) (d : Reg) (a : Reg) (b : Reg) (ord : MemOrder) (sc : BitVec 3) : Statement (.amindS l d a b ord sc) := by
  have fits : Fits [(5, 15), (3, sc.toNat), (2, ord.code.toNat), (5, b.toNat), (5, a.toNat), (5, d.toNat), (6, 0x1B), (1, loneBit l)] := ⟨by decide, sc.isLt, ord.code.isLt, b.isLt, a.isLt, d.isLt, by decide, loneBit_lt l, trivial⟩
  obtain ⟨w, hw⟩ : ∃ w, w = pack [(5, 15), (3, sc.toNat), (2, ord.code.toNat), (5, b.toNat), (5, a.toNat), (5, d.toNat), (6, 0x1B), (1, loneBit l)] := ⟨_, rfl⟩
  have word : encodeWord (.amindS l d a b ord sc) = some w := by rw [hw]; rfl
  have small : w < 2 ^ 32 := lt_of hw fits
  have major : bitsOf w 25 6 = 27 := field_of hw fits 6
  have lone : bitsOf w 31 1 = loneBit l := field_of hw fits 7
  have bits0 : bitsOf w 0 5 = 15 := field_of hw fits 0
  have field5 : fld w 5 3 = sc := fld_of (field_of hw fits 1)
  have field8 : fld w 8 2 = ord.code := fld_of (field_of hw fits 2)
  have field10 : fld w 10 5 = b := fld_of (field_of hw fits 3)
  have field15 : fld w 15 5 = a := fld_of (field_of hw fits 4)
  have field20 : fld w 20 5 = d := fld_of (field_of hw fits 5)
  refine ofC rfl rfl rfl word small fun wf x ext => ?_
  rw [decodeC1B_of major (lone_of lone ext)]
  simp only [decodeC1B, bits0, field5, field8, field10, field15, field20, ofCode_code, checked, wf]

theorem Roundtrip.amaxN (l : Lone) (d : Reg) (a : Reg) (b : Reg) (ord : MemOrder) (sc : BitVec 3) : Statement (.amaxN l d a b ord sc) := by
  have fits : Fits [(5, 16), (3, sc.toNat), (2, ord.code.toNat), (5, b.toNat), (5, a.toNat), (5, d.toNat), (6, 0x1B), (1, loneBit l)] := ⟨by decide, sc.isLt, ord.code.isLt, b.isLt, a.isLt, d.isLt, by decide, loneBit_lt l, trivial⟩
  obtain ⟨w, hw⟩ : ∃ w, w = pack [(5, 16), (3, sc.toNat), (2, ord.code.toNat), (5, b.toNat), (5, a.toNat), (5, d.toNat), (6, 0x1B), (1, loneBit l)] := ⟨_, rfl⟩
  have word : encodeWord (.amaxN l d a b ord sc) = some w := by rw [hw]; rfl
  have small : w < 2 ^ 32 := lt_of hw fits
  have major : bitsOf w 25 6 = 27 := field_of hw fits 6
  have lone : bitsOf w 31 1 = loneBit l := field_of hw fits 7
  have bits0 : bitsOf w 0 5 = 16 := field_of hw fits 0
  have field5 : fld w 5 3 = sc := fld_of (field_of hw fits 1)
  have field8 : fld w 8 2 = ord.code := fld_of (field_of hw fits 2)
  have field10 : fld w 10 5 = b := fld_of (field_of hw fits 3)
  have field15 : fld w 15 5 = a := fld_of (field_of hw fits 4)
  have field20 : fld w 20 5 = d := fld_of (field_of hw fits 5)
  refine ofC rfl rfl rfl word small fun wf x ext => ?_
  rw [decodeC1B_of major (lone_of lone ext)]
  simp only [decodeC1B, bits0, field5, field8, field10, field15, field20, ofCode_code, checked, wf]

theorem Roundtrip.amaxdN (l : Lone) (d : Reg) (a : Reg) (b : Reg) (ord : MemOrder) (sc : BitVec 3) : Statement (.amaxdN l d a b ord sc) := by
  have fits : Fits [(5, 17), (3, sc.toNat), (2, ord.code.toNat), (5, b.toNat), (5, a.toNat), (5, d.toNat), (6, 0x1B), (1, loneBit l)] := ⟨by decide, sc.isLt, ord.code.isLt, b.isLt, a.isLt, d.isLt, by decide, loneBit_lt l, trivial⟩
  obtain ⟨w, hw⟩ : ∃ w, w = pack [(5, 17), (3, sc.toNat), (2, ord.code.toNat), (5, b.toNat), (5, a.toNat), (5, d.toNat), (6, 0x1B), (1, loneBit l)] := ⟨_, rfl⟩
  have word : encodeWord (.amaxdN l d a b ord sc) = some w := by rw [hw]; rfl
  have small : w < 2 ^ 32 := lt_of hw fits
  have major : bitsOf w 25 6 = 27 := field_of hw fits 6
  have lone : bitsOf w 31 1 = loneBit l := field_of hw fits 7
  have bits0 : bitsOf w 0 5 = 17 := field_of hw fits 0
  have field5 : fld w 5 3 = sc := fld_of (field_of hw fits 1)
  have field8 : fld w 8 2 = ord.code := fld_of (field_of hw fits 2)
  have field10 : fld w 10 5 = b := fld_of (field_of hw fits 3)
  have field15 : fld w 15 5 = a := fld_of (field_of hw fits 4)
  have field20 : fld w 20 5 = d := fld_of (field_of hw fits 5)
  refine ofC rfl rfl rfl word small fun wf x ext => ?_
  rw [decodeC1B_of major (lone_of lone ext)]
  simp only [decodeC1B, bits0, field5, field8, field10, field15, field20, ofCode_code, checked, wf]

theorem Roundtrip.aminN (l : Lone) (d : Reg) (a : Reg) (b : Reg) (ord : MemOrder) (sc : BitVec 3) : Statement (.aminN l d a b ord sc) := by
  have fits : Fits [(5, 18), (3, sc.toNat), (2, ord.code.toNat), (5, b.toNat), (5, a.toNat), (5, d.toNat), (6, 0x1B), (1, loneBit l)] := ⟨by decide, sc.isLt, ord.code.isLt, b.isLt, a.isLt, d.isLt, by decide, loneBit_lt l, trivial⟩
  obtain ⟨w, hw⟩ : ∃ w, w = pack [(5, 18), (3, sc.toNat), (2, ord.code.toNat), (5, b.toNat), (5, a.toNat), (5, d.toNat), (6, 0x1B), (1, loneBit l)] := ⟨_, rfl⟩
  have word : encodeWord (.aminN l d a b ord sc) = some w := by rw [hw]; rfl
  have small : w < 2 ^ 32 := lt_of hw fits
  have major : bitsOf w 25 6 = 27 := field_of hw fits 6
  have lone : bitsOf w 31 1 = loneBit l := field_of hw fits 7
  have bits0 : bitsOf w 0 5 = 18 := field_of hw fits 0
  have field5 : fld w 5 3 = sc := fld_of (field_of hw fits 1)
  have field8 : fld w 8 2 = ord.code := fld_of (field_of hw fits 2)
  have field10 : fld w 10 5 = b := fld_of (field_of hw fits 3)
  have field15 : fld w 15 5 = a := fld_of (field_of hw fits 4)
  have field20 : fld w 20 5 = d := fld_of (field_of hw fits 5)
  refine ofC rfl rfl rfl word small fun wf x ext => ?_
  rw [decodeC1B_of major (lone_of lone ext)]
  simp only [decodeC1B, bits0, field5, field8, field10, field15, field20, ofCode_code, checked, wf]

theorem Roundtrip.amindN (l : Lone) (d : Reg) (a : Reg) (b : Reg) (ord : MemOrder) (sc : BitVec 3) : Statement (.amindN l d a b ord sc) := by
  have fits : Fits [(5, 19), (3, sc.toNat), (2, ord.code.toNat), (5, b.toNat), (5, a.toNat), (5, d.toNat), (6, 0x1B), (1, loneBit l)] := ⟨by decide, sc.isLt, ord.code.isLt, b.isLt, a.isLt, d.isLt, by decide, loneBit_lt l, trivial⟩
  obtain ⟨w, hw⟩ : ∃ w, w = pack [(5, 19), (3, sc.toNat), (2, ord.code.toNat), (5, b.toNat), (5, a.toNat), (5, d.toNat), (6, 0x1B), (1, loneBit l)] := ⟨_, rfl⟩
  have word : encodeWord (.amindN l d a b ord sc) = some w := by rw [hw]; rfl
  have small : w < 2 ^ 32 := lt_of hw fits
  have major : bitsOf w 25 6 = 27 := field_of hw fits 6
  have lone : bitsOf w 31 1 = loneBit l := field_of hw fits 7
  have bits0 : bitsOf w 0 5 = 19 := field_of hw fits 0
  have field5 : fld w 5 3 = sc := fld_of (field_of hw fits 1)
  have field8 : fld w 8 2 = ord.code := fld_of (field_of hw fits 2)
  have field10 : fld w 10 5 = b := fld_of (field_of hw fits 3)
  have field15 : fld w 15 5 = a := fld_of (field_of hw fits 4)
  have field20 : fld w 20 5 = d := fld_of (field_of hw fits 5)
  refine ofC rfl rfl rfl word small fun wf x ext => ?_
  rw [decodeC1B_of major (lone_of lone ext)]
  simp only [decodeC1B, bits0, field5, field8, field10, field15, field20, ofCode_code, checked, wf]

theorem Roundtrip.afadd (l : Lone) (d : Reg) (a : Reg) (b : Reg) (ord : MemOrder) (sc : BitVec 3) : Statement (.afadd l d a b ord sc) := by
  have fits : Fits [(5, 20), (3, sc.toNat), (2, ord.code.toNat), (5, b.toNat), (5, a.toNat), (5, d.toNat), (6, 0x1B), (1, loneBit l)] := ⟨by decide, sc.isLt, ord.code.isLt, b.isLt, a.isLt, d.isLt, by decide, loneBit_lt l, trivial⟩
  obtain ⟨w, hw⟩ : ∃ w, w = pack [(5, 20), (3, sc.toNat), (2, ord.code.toNat), (5, b.toNat), (5, a.toNat), (5, d.toNat), (6, 0x1B), (1, loneBit l)] := ⟨_, rfl⟩
  have word : encodeWord (.afadd l d a b ord sc) = some w := by rw [hw]; rfl
  have small : w < 2 ^ 32 := lt_of hw fits
  have major : bitsOf w 25 6 = 27 := field_of hw fits 6
  have lone : bitsOf w 31 1 = loneBit l := field_of hw fits 7
  have bits0 : bitsOf w 0 5 = 20 := field_of hw fits 0
  have field5 : fld w 5 3 = sc := fld_of (field_of hw fits 1)
  have field8 : fld w 8 2 = ord.code := fld_of (field_of hw fits 2)
  have field10 : fld w 10 5 = b := fld_of (field_of hw fits 3)
  have field15 : fld w 15 5 = a := fld_of (field_of hw fits 4)
  have field20 : fld w 20 5 = d := fld_of (field_of hw fits 5)
  refine ofC rfl rfl rfl word small fun wf x ext => ?_
  rw [decodeC1B_of major (lone_of lone ext)]
  simp only [decodeC1B, bits0, field5, field8, field10, field15, field20, ofCode_code, checked, wf]

theorem Roundtrip.afmax (l : Lone) (d : Reg) (a : Reg) (b : Reg) (ord : MemOrder) (sc : BitVec 3) : Statement (.afmax l d a b ord sc) := by
  have fits : Fits [(5, 21), (3, sc.toNat), (2, ord.code.toNat), (5, b.toNat), (5, a.toNat), (5, d.toNat), (6, 0x1B), (1, loneBit l)] := ⟨by decide, sc.isLt, ord.code.isLt, b.isLt, a.isLt, d.isLt, by decide, loneBit_lt l, trivial⟩
  obtain ⟨w, hw⟩ : ∃ w, w = pack [(5, 21), (3, sc.toNat), (2, ord.code.toNat), (5, b.toNat), (5, a.toNat), (5, d.toNat), (6, 0x1B), (1, loneBit l)] := ⟨_, rfl⟩
  have word : encodeWord (.afmax l d a b ord sc) = some w := by rw [hw]; rfl
  have small : w < 2 ^ 32 := lt_of hw fits
  have major : bitsOf w 25 6 = 27 := field_of hw fits 6
  have lone : bitsOf w 31 1 = loneBit l := field_of hw fits 7
  have bits0 : bitsOf w 0 5 = 21 := field_of hw fits 0
  have field5 : fld w 5 3 = sc := fld_of (field_of hw fits 1)
  have field8 : fld w 8 2 = ord.code := fld_of (field_of hw fits 2)
  have field10 : fld w 10 5 = b := fld_of (field_of hw fits 3)
  have field15 : fld w 15 5 = a := fld_of (field_of hw fits 4)
  have field20 : fld w 20 5 = d := fld_of (field_of hw fits 5)
  refine ofC rfl rfl rfl word small fun wf x ext => ?_
  rw [decodeC1B_of major (lone_of lone ext)]
  simp only [decodeC1B, bits0, field5, field8, field10, field15, field20, ofCode_code, checked, wf]

theorem Roundtrip.afmin (l : Lone) (d : Reg) (a : Reg) (b : Reg) (ord : MemOrder) (sc : BitVec 3) : Statement (.afmin l d a b ord sc) := by
  have fits : Fits [(5, 22), (3, sc.toNat), (2, ord.code.toNat), (5, b.toNat), (5, a.toNat), (5, d.toNat), (6, 0x1B), (1, loneBit l)] := ⟨by decide, sc.isLt, ord.code.isLt, b.isLt, a.isLt, d.isLt, by decide, loneBit_lt l, trivial⟩
  obtain ⟨w, hw⟩ : ∃ w, w = pack [(5, 22), (3, sc.toNat), (2, ord.code.toNat), (5, b.toNat), (5, a.toNat), (5, d.toNat), (6, 0x1B), (1, loneBit l)] := ⟨_, rfl⟩
  have word : encodeWord (.afmin l d a b ord sc) = some w := by rw [hw]; rfl
  have small : w < 2 ^ 32 := lt_of hw fits
  have major : bitsOf w 25 6 = 27 := field_of hw fits 6
  have lone : bitsOf w 31 1 = loneBit l := field_of hw fits 7
  have bits0 : bitsOf w 0 5 = 22 := field_of hw fits 0
  have field5 : fld w 5 3 = sc := fld_of (field_of hw fits 1)
  have field8 : fld w 8 2 = ord.code := fld_of (field_of hw fits 2)
  have field10 : fld w 10 5 = b := fld_of (field_of hw fits 3)
  have field15 : fld w 15 5 = a := fld_of (field_of hw fits 4)
  have field20 : fld w 20 5 = d := fld_of (field_of hw fits 5)
  refine ofC rfl rfl rfl word small fun wf x ext => ?_
  rw [decodeC1B_of major (lone_of lone ext)]
  simp only [decodeC1B, bits0, field5, field8, field10, field15, field20, ofCode_code, checked, wf]

theorem Roundtrip.fence (l : Lone) (ord : MemOrder) (sc : BitVec 3) : Statement (.fence l ord sc) := by
  have fits : Fits [(10, 0), (3, sc.toNat), (2, ord.code.toNat), (10, 0), (6, 0x1C), (1, loneBit l)] := ⟨by decide, sc.isLt, ord.code.isLt, by decide, by decide, loneBit_lt l, trivial⟩
  obtain ⟨w, hw⟩ : ∃ w, w = pack [(10, 0), (3, sc.toNat), (2, ord.code.toNat), (10, 0), (6, 0x1C), (1, loneBit l)] := ⟨_, rfl⟩
  have word : encodeWord (.fence l ord sc) = some w := by rw [hw]; rfl
  have small : w < 2 ^ 32 := lt_of hw fits
  have major : bitsOf w 25 6 = 28 := field_of hw fits 4
  have lone : bitsOf w 31 1 = loneBit l := field_of hw fits 5
  have bits0 : bitsOf w 0 10 = 0 := field_of hw fits 0
  have bits15 : bitsOf w 15 10 = 0 := field_of hw fits 3
  have field10 : fld w 10 3 = sc := fld_of (field_of hw fits 1)
  have field13 : fld w 13 2 = ord.code := fld_of (field_of hw fits 2)
  refine ofC rfl rfl rfl word small fun wf x ext => ?_
  rw [decodeC1C_of major (lone_of lone ext)]
  simp only [decodeC1C, bits0, bits15, field10, field13, zeros_nil, zeros_cons, ofCode_code, checked, wf]

theorem Roundtrip.waitc (l : Lone) (a : BitVec 5) (b : BitVec 5) (c : BitVec 5) (d : BitVec 5) (e : BitVec 5) : Statement (.waitc l a b c d e) := by
  have fits : Fits [(5, e.toNat), (5, d.toNat), (5, c.toNat), (5, b.toNat), (5, a.toNat), (6, 0x1D), (1, loneBit l)] := ⟨e.isLt, d.isLt, c.isLt, b.isLt, a.isLt, by decide, loneBit_lt l, trivial⟩
  obtain ⟨w, hw⟩ : ∃ w, w = pack [(5, e.toNat), (5, d.toNat), (5, c.toNat), (5, b.toNat), (5, a.toNat), (6, 0x1D), (1, loneBit l)] := ⟨_, rfl⟩
  have word : encodeWord (.waitc l a b c d e) = some w := by rw [hw]; rfl
  have small : w < 2 ^ 32 := lt_of hw fits
  have major : bitsOf w 25 6 = 29 := field_of hw fits 5
  have lone : bitsOf w 31 1 = loneBit l := field_of hw fits 6
  have field0 : fld w 0 5 = e := fld_of (field_of hw fits 0)
  have field5 : fld w 5 5 = d := fld_of (field_of hw fits 1)
  have field10 : fld w 10 5 = c := fld_of (field_of hw fits 2)
  have field15 : fld w 15 5 = b := fld_of (field_of hw fits 3)
  have field20 : fld w 20 5 = a := fld_of (field_of hw fits 4)
  refine ofC rfl rfl rfl word small fun wf x ext => ?_
  rw [decodeC1D_of major (lone_of lone ext)]
  simp only [decodeC1D, field0, field5, field10, field15, field20, checked, wf]

theorem Roundtrip.vld (l : Lone) (d : Reg) (a : Reg) (b : Reg) (t : LaneTy) (m : MReg) : Statement (.vld l d a b t m) := by
  have fits : Fits [(2, 0), (3, m.toNat), (4, t.code.toNat), (1, 0), (5, b.toNat), (5, a.toNat), (5, d.toNat), (6, 0x1E), (1, loneBit l)] := ⟨by decide, m.isLt, t.code.isLt, by decide, b.isLt, a.isLt, d.isLt, by decide, loneBit_lt l, trivial⟩
  obtain ⟨w, hw⟩ : ∃ w, w = pack [(2, 0), (3, m.toNat), (4, t.code.toNat), (1, 0), (5, b.toNat), (5, a.toNat), (5, d.toNat), (6, 0x1E), (1, loneBit l)] := ⟨_, rfl⟩
  have word : encodeWord (.vld l d a b t m) = some w := by rw [hw]; rfl
  have small : w < 2 ^ 32 := lt_of hw fits
  have major : bitsOf w 25 6 = 30 := field_of hw fits 7
  have lone : bitsOf w 31 1 = loneBit l := field_of hw fits 8
  have bits0 : bitsOf w 0 2 = 0 := field_of hw fits 0
  have bits9 : bitsOf w 9 1 = 0 := field_of hw fits 3
  have field2 : fld w 2 3 = m := fld_of (field_of hw fits 1)
  have field5 : fld w 5 4 = t.code := fld_of (field_of hw fits 2)
  have field10 : fld w 10 5 = b := fld_of (field_of hw fits 4)
  have field15 : fld w 15 5 = a := fld_of (field_of hw fits 5)
  have field20 : fld w 20 5 = d := fld_of (field_of hw fits 6)
  refine ofC rfl rfl rfl word small fun wf x ext => ?_
  rw [decodeC1E_of major (lone_of lone ext)]
  simp only [decodeC1E, bits0, bits9, field2, field5, field10, field15, field20, zeros_nil, zeros_cons, typed_code, checked, wf]

theorem Roundtrip.vst (l : Lone) (d : Reg) (a : Reg) (b : Reg) (t : LaneTy) (m : MReg) : Statement (.vst l d a b t m) := by
  have fits : Fits [(2, 0), (3, m.toNat), (4, t.code.toNat), (1, 1), (5, b.toNat), (5, a.toNat), (5, d.toNat), (6, 0x1E), (1, loneBit l)] := ⟨by decide, m.isLt, t.code.isLt, by decide, b.isLt, a.isLt, d.isLt, by decide, loneBit_lt l, trivial⟩
  obtain ⟨w, hw⟩ : ∃ w, w = pack [(2, 0), (3, m.toNat), (4, t.code.toNat), (1, 1), (5, b.toNat), (5, a.toNat), (5, d.toNat), (6, 0x1E), (1, loneBit l)] := ⟨_, rfl⟩
  have word : encodeWord (.vst l d a b t m) = some w := by rw [hw]; rfl
  have small : w < 2 ^ 32 := lt_of hw fits
  have major : bitsOf w 25 6 = 30 := field_of hw fits 7
  have lone : bitsOf w 31 1 = loneBit l := field_of hw fits 8
  have bits0 : bitsOf w 0 2 = 0 := field_of hw fits 0
  have bits9 : bitsOf w 9 1 = 1 := field_of hw fits 3
  have field2 : fld w 2 3 = m := fld_of (field_of hw fits 1)
  have field5 : fld w 5 4 = t.code := fld_of (field_of hw fits 2)
  have field10 : fld w 10 5 = b := fld_of (field_of hw fits 4)
  have field15 : fld w 15 5 = a := fld_of (field_of hw fits 5)
  have field20 : fld w 20 5 = d := fld_of (field_of hw fits 6)
  refine ofC rfl rfl rfl word small fun wf x ext => ?_
  rw [decodeC1E_of major (lone_of lone ext)]
  simp only [decodeC1E, bits0, bits9, field2, field5, field10, field15, field20, zeros_nil, zeros_cons, typed_code, checked, wf]

theorem Roundtrip.vldx (l : Lone) (d : Reg) (a : Reg) (b : Reg) (t : LaneTy) (m : MReg) : Statement (.vldx l d a b t m) := by
  have fits : Fits [(2, 0), (3, m.toNat), (4, t.code.toNat), (1, 0), (5, b.toNat), (5, a.toNat), (5, d.toNat), (6, 0x1F), (1, loneBit l)] := ⟨by decide, m.isLt, t.code.isLt, by decide, b.isLt, a.isLt, d.isLt, by decide, loneBit_lt l, trivial⟩
  obtain ⟨w, hw⟩ : ∃ w, w = pack [(2, 0), (3, m.toNat), (4, t.code.toNat), (1, 0), (5, b.toNat), (5, a.toNat), (5, d.toNat), (6, 0x1F), (1, loneBit l)] := ⟨_, rfl⟩
  have word : encodeWord (.vldx l d a b t m) = some w := by rw [hw]; rfl
  have small : w < 2 ^ 32 := lt_of hw fits
  have major : bitsOf w 25 6 = 31 := field_of hw fits 7
  have lone : bitsOf w 31 1 = loneBit l := field_of hw fits 8
  have bits0 : bitsOf w 0 2 = 0 := field_of hw fits 0
  have bits9 : bitsOf w 9 1 = 0 := field_of hw fits 3
  have field2 : fld w 2 3 = m := fld_of (field_of hw fits 1)
  have field5 : fld w 5 4 = t.code := fld_of (field_of hw fits 2)
  have field10 : fld w 10 5 = b := fld_of (field_of hw fits 4)
  have field15 : fld w 15 5 = a := fld_of (field_of hw fits 5)
  have field20 : fld w 20 5 = d := fld_of (field_of hw fits 6)
  refine ofC rfl rfl rfl word small fun wf x ext => ?_
  rw [decodeC1F_of major (lone_of lone ext)]
  simp only [decodeC1F, bits0, bits9, field2, field5, field10, field15, field20, zeros_nil, zeros_cons, typed_code, checked, wf]

theorem Roundtrip.vstx (l : Lone) (d : Reg) (a : Reg) (b : Reg) (t : LaneTy) (m : MReg) : Statement (.vstx l d a b t m) := by
  have fits : Fits [(2, 0), (3, m.toNat), (4, t.code.toNat), (1, 1), (5, b.toNat), (5, a.toNat), (5, d.toNat), (6, 0x1F), (1, loneBit l)] := ⟨by decide, m.isLt, t.code.isLt, by decide, b.isLt, a.isLt, d.isLt, by decide, loneBit_lt l, trivial⟩
  obtain ⟨w, hw⟩ : ∃ w, w = pack [(2, 0), (3, m.toNat), (4, t.code.toNat), (1, 1), (5, b.toNat), (5, a.toNat), (5, d.toNat), (6, 0x1F), (1, loneBit l)] := ⟨_, rfl⟩
  have word : encodeWord (.vstx l d a b t m) = some w := by rw [hw]; rfl
  have small : w < 2 ^ 32 := lt_of hw fits
  have major : bitsOf w 25 6 = 31 := field_of hw fits 7
  have lone : bitsOf w 31 1 = loneBit l := field_of hw fits 8
  have bits0 : bitsOf w 0 2 = 0 := field_of hw fits 0
  have bits9 : bitsOf w 9 1 = 1 := field_of hw fits 3
  have field2 : fld w 2 3 = m := fld_of (field_of hw fits 1)
  have field5 : fld w 5 4 = t.code := fld_of (field_of hw fits 2)
  have field10 : fld w 10 5 = b := fld_of (field_of hw fits 4)
  have field15 : fld w 15 5 = a := fld_of (field_of hw fits 5)
  have field20 : fld w 20 5 = d := fld_of (field_of hw fits 6)
  refine ofC rfl rfl rfl word small fun wf x ext => ?_
  rw [decodeC1F_of major (lone_of lone ext)]
  simp only [decodeC1F, bits0, bits9, field2, field5, field10, field15, field20, zeros_nil, zeros_cons, typed_code, checked, wf]

theorem Roundtrip.csend (l : Lone) (d : Reg) (a : Reg) (b : Reg) : Statement (.csend l d a b) := by
  have fits : Fits [(10, 0), (5, b.toNat), (5, a.toNat), (5, d.toNat), (6, 0x20), (1, loneBit l)] := ⟨by decide, b.isLt, a.isLt, d.isLt, by decide, loneBit_lt l, trivial⟩
  obtain ⟨w, hw⟩ : ∃ w, w = pack [(10, 0), (5, b.toNat), (5, a.toNat), (5, d.toNat), (6, 0x20), (1, loneBit l)] := ⟨_, rfl⟩
  have word : encodeWord (.csend l d a b) = some w := by rw [hw]; rfl
  have small : w < 2 ^ 32 := lt_of hw fits
  have major : bitsOf w 25 6 = 32 := field_of hw fits 4
  have lone : bitsOf w 31 1 = loneBit l := field_of hw fits 5
  have bits0 : bitsOf w 0 10 = 0 := field_of hw fits 0
  have field10 : fld w 10 5 = b := fld_of (field_of hw fits 1)
  have field15 : fld w 15 5 = a := fld_of (field_of hw fits 2)
  have field20 : fld w 20 5 = d := fld_of (field_of hw fits 3)
  refine ofC rfl rfl rfl word small fun wf x ext => ?_
  rw [decodeC20_of major (lone_of lone ext)]
  simp only [decodeC20, bits0, field10, field15, field20, checked, wf]

theorem Roundtrip.crecv (l : Lone) (d : Reg) (a : Reg) (b : Reg) : Statement (.crecv l d a b) := by
  have fits : Fits [(10, 1), (5, b.toNat), (5, a.toNat), (5, d.toNat), (6, 0x20), (1, loneBit l)] := ⟨by decide, b.isLt, a.isLt, d.isLt, by decide, loneBit_lt l, trivial⟩
  obtain ⟨w, hw⟩ : ∃ w, w = pack [(10, 1), (5, b.toNat), (5, a.toNat), (5, d.toNat), (6, 0x20), (1, loneBit l)] := ⟨_, rfl⟩
  have word : encodeWord (.crecv l d a b) = some w := by rw [hw]; rfl
  have small : w < 2 ^ 32 := lt_of hw fits
  have major : bitsOf w 25 6 = 32 := field_of hw fits 4
  have lone : bitsOf w 31 1 = loneBit l := field_of hw fits 5
  have bits0 : bitsOf w 0 10 = 1 := field_of hw fits 0
  have field10 : fld w 10 5 = b := fld_of (field_of hw fits 1)
  have field15 : fld w 15 5 = a := fld_of (field_of hw fits 2)
  have field20 : fld w 20 5 = d := fld_of (field_of hw fits 3)
  refine ofC rfl rfl rfl word small fun wf x ext => ?_
  rw [decodeC20_of major (lone_of lone ext)]
  simp only [decodeC20, bits0, field10, field15, field20, checked, wf]

theorem Roundtrip.csendb (l : Lone) (d : Reg) (a : Reg) (b : Reg) : Statement (.csendb l d a b) := by
  have fits : Fits [(10, 2), (5, b.toNat), (5, a.toNat), (5, d.toNat), (6, 0x20), (1, loneBit l)] := ⟨by decide, b.isLt, a.isLt, d.isLt, by decide, loneBit_lt l, trivial⟩
  obtain ⟨w, hw⟩ : ∃ w, w = pack [(10, 2), (5, b.toNat), (5, a.toNat), (5, d.toNat), (6, 0x20), (1, loneBit l)] := ⟨_, rfl⟩
  have word : encodeWord (.csendb l d a b) = some w := by rw [hw]; rfl
  have small : w < 2 ^ 32 := lt_of hw fits
  have major : bitsOf w 25 6 = 32 := field_of hw fits 4
  have lone : bitsOf w 31 1 = loneBit l := field_of hw fits 5
  have bits0 : bitsOf w 0 10 = 2 := field_of hw fits 0
  have field10 : fld w 10 5 = b := fld_of (field_of hw fits 1)
  have field15 : fld w 15 5 = a := fld_of (field_of hw fits 2)
  have field20 : fld w 20 5 = d := fld_of (field_of hw fits 3)
  refine ofC rfl rfl rfl word small fun wf x ext => ?_
  rw [decodeC20_of major (lone_of lone ext)]
  simp only [decodeC20, bits0, field10, field15, field20, checked, wf]

theorem Roundtrip.crecvb (l : Lone) (d : Reg) (a : Reg) (b : Reg) : Statement (.crecvb l d a b) := by
  have fits : Fits [(10, 3), (5, b.toNat), (5, a.toNat), (5, d.toNat), (6, 0x20), (1, loneBit l)] := ⟨by decide, b.isLt, a.isLt, d.isLt, by decide, loneBit_lt l, trivial⟩
  obtain ⟨w, hw⟩ : ∃ w, w = pack [(10, 3), (5, b.toNat), (5, a.toNat), (5, d.toNat), (6, 0x20), (1, loneBit l)] := ⟨_, rfl⟩
  have word : encodeWord (.crecvb l d a b) = some w := by rw [hw]; rfl
  have small : w < 2 ^ 32 := lt_of hw fits
  have major : bitsOf w 25 6 = 32 := field_of hw fits 4
  have lone : bitsOf w 31 1 = loneBit l := field_of hw fits 5
  have bits0 : bitsOf w 0 10 = 3 := field_of hw fits 0
  have field10 : fld w 10 5 = b := fld_of (field_of hw fits 1)
  have field15 : fld w 15 5 = a := fld_of (field_of hw fits 2)
  have field20 : fld w 20 5 = d := fld_of (field_of hw fits 3)
  refine ofC rfl rfl rfl word small fun wf x ext => ?_
  rw [decodeC20_of major (lone_of lone ext)]
  simp only [decodeC20, bits0, field10, field15, field20, checked, wf]

theorem Roundtrip.csendt (l : Lone) (d : Reg) (a : Reg) (b : Reg) : Statement (.csendt l d a b) := by
  have fits : Fits [(10, 4), (5, b.toNat), (5, a.toNat), (5, d.toNat), (6, 0x20), (1, loneBit l)] := ⟨by decide, b.isLt, a.isLt, d.isLt, by decide, loneBit_lt l, trivial⟩
  obtain ⟨w, hw⟩ : ∃ w, w = pack [(10, 4), (5, b.toNat), (5, a.toNat), (5, d.toNat), (6, 0x20), (1, loneBit l)] := ⟨_, rfl⟩
  have word : encodeWord (.csendt l d a b) = some w := by rw [hw]; rfl
  have small : w < 2 ^ 32 := lt_of hw fits
  have major : bitsOf w 25 6 = 32 := field_of hw fits 4
  have lone : bitsOf w 31 1 = loneBit l := field_of hw fits 5
  have bits0 : bitsOf w 0 10 = 4 := field_of hw fits 0
  have field10 : fld w 10 5 = b := fld_of (field_of hw fits 1)
  have field15 : fld w 15 5 = a := fld_of (field_of hw fits 2)
  have field20 : fld w 20 5 = d := fld_of (field_of hw fits 3)
  refine ofC rfl rfl rfl word small fun wf x ext => ?_
  rw [decodeC20_of major (lone_of lone ext)]
  simp only [decodeC20, bits0, field10, field15, field20, checked, wf]

theorem Roundtrip.crecvt (l : Lone) (d : Reg) (a : Reg) (b : Reg) : Statement (.crecvt l d a b) := by
  have fits : Fits [(10, 5), (5, b.toNat), (5, a.toNat), (5, d.toNat), (6, 0x20), (1, loneBit l)] := ⟨by decide, b.isLt, a.isLt, d.isLt, by decide, loneBit_lt l, trivial⟩
  obtain ⟨w, hw⟩ : ∃ w, w = pack [(10, 5), (5, b.toNat), (5, a.toNat), (5, d.toNat), (6, 0x20), (1, loneBit l)] := ⟨_, rfl⟩
  have word : encodeWord (.crecvt l d a b) = some w := by rw [hw]; rfl
  have small : w < 2 ^ 32 := lt_of hw fits
  have major : bitsOf w 25 6 = 32 := field_of hw fits 4
  have lone : bitsOf w 31 1 = loneBit l := field_of hw fits 5
  have bits0 : bitsOf w 0 10 = 5 := field_of hw fits 0
  have field10 : fld w 10 5 = b := fld_of (field_of hw fits 1)
  have field15 : fld w 15 5 = a := fld_of (field_of hw fits 2)
  have field20 : fld w 20 5 = d := fld_of (field_of hw fits 3)
  refine ofC rfl rfl rfl word small fun wf x ext => ?_
  rw [decodeC20_of major (lone_of lone ext)]
  simp only [decodeC20, bits0, field10, field15, field20, checked, wf]

theorem Roundtrip.cpoll (l : Lone) (d : Reg) (a : Reg) : Statement (.cpoll l d a) := by
  have fits : Fits [(10, 6), (5, 0), (5, a.toNat), (5, d.toNat), (6, 0x20), (1, loneBit l)] := ⟨by decide, by decide, a.isLt, d.isLt, by decide, loneBit_lt l, trivial⟩
  obtain ⟨w, hw⟩ : ∃ w, w = pack [(10, 6), (5, 0), (5, a.toNat), (5, d.toNat), (6, 0x20), (1, loneBit l)] := ⟨_, rfl⟩
  have word : encodeWord (.cpoll l d a) = some w := by rw [hw]; rfl
  have small : w < 2 ^ 32 := lt_of hw fits
  have major : bitsOf w 25 6 = 32 := field_of hw fits 4
  have lone : bitsOf w 31 1 = loneBit l := field_of hw fits 5
  have bits0 : bitsOf w 0 10 = 6 := field_of hw fits 0
  have bits10 : bitsOf w 10 5 = 0 := field_of hw fits 1
  have field15 : fld w 15 5 = a := fld_of (field_of hw fits 2)
  have field20 : fld w 20 5 = d := fld_of (field_of hw fits 3)
  refine ofC rfl rfl rfl word small fun wf x ext => ?_
  rw [decodeC20_of major (lone_of lone ext)]
  simp only [decodeC20, bits0, bits10, field15, field20, zeros_nil, zeros_cons, checked, wf]

theorem Roundtrip.cclose (l : Lone) (a : Reg) : Statement (.cclose l a) := by
  have fits : Fits [(10, 7), (5, 0), (5, a.toNat), (5, 0), (6, 0x20), (1, loneBit l)] := ⟨by decide, by decide, a.isLt, by decide, by decide, loneBit_lt l, trivial⟩
  obtain ⟨w, hw⟩ : ∃ w, w = pack [(10, 7), (5, 0), (5, a.toNat), (5, 0), (6, 0x20), (1, loneBit l)] := ⟨_, rfl⟩
  have word : encodeWord (.cclose l a) = some w := by rw [hw]; rfl
  have small : w < 2 ^ 32 := lt_of hw fits
  have major : bitsOf w 25 6 = 32 := field_of hw fits 4
  have lone : bitsOf w 31 1 = loneBit l := field_of hw fits 5
  have bits0 : bitsOf w 0 10 = 7 := field_of hw fits 0
  have bits10 : bitsOf w 10 5 = 0 := field_of hw fits 1
  have bits20 : bitsOf w 20 5 = 0 := field_of hw fits 3
  have field15 : fld w 15 5 = a := fld_of (field_of hw fits 2)
  refine ofC rfl rfl rfl word small fun wf x ext => ?_
  rw [decodeC20_of major (lone_of lone ext)]
  simp only [decodeC20, bits0, bits10, bits20, field15, zeros_nil, zeros_cons, checked, wf]

theorem Roundtrip.csendp (l : Lone) (d : Reg) (a : Reg) (b : Reg) : Statement (.csendp l d a b) := by
  have fits : Fits [(10, 8), (5, b.toNat), (5, a.toNat), (5, d.toNat), (6, 0x20), (1, loneBit l)] := ⟨by decide, b.isLt, a.isLt, d.isLt, by decide, loneBit_lt l, trivial⟩
  obtain ⟨w, hw⟩ : ∃ w, w = pack [(10, 8), (5, b.toNat), (5, a.toNat), (5, d.toNat), (6, 0x20), (1, loneBit l)] := ⟨_, rfl⟩
  have word : encodeWord (.csendp l d a b) = some w := by rw [hw]; rfl
  have small : w < 2 ^ 32 := lt_of hw fits
  have major : bitsOf w 25 6 = 32 := field_of hw fits 4
  have lone : bitsOf w 31 1 = loneBit l := field_of hw fits 5
  have bits0 : bitsOf w 0 10 = 8 := field_of hw fits 0
  have field10 : fld w 10 5 = b := fld_of (field_of hw fits 1)
  have field15 : fld w 15 5 = a := fld_of (field_of hw fits 2)
  have field20 : fld w 20 5 = d := fld_of (field_of hw fits 3)
  refine ofC rfl rfl rfl word small fun wf x ext => ?_
  rw [decodeC20_of major (lone_of lone ext)]
  simp only [decodeC20, bits0, field10, field15, field20, checked, wf]

theorem Roundtrip.crecvp (l : Lone) (d : Reg) (a : Reg) (b : Reg) : Statement (.crecvp l d a b) := by
  have fits : Fits [(10, 9), (5, b.toNat), (5, a.toNat), (5, d.toNat), (6, 0x20), (1, loneBit l)] := ⟨by decide, b.isLt, a.isLt, d.isLt, by decide, loneBit_lt l, trivial⟩
  obtain ⟨w, hw⟩ : ∃ w, w = pack [(10, 9), (5, b.toNat), (5, a.toNat), (5, d.toNat), (6, 0x20), (1, loneBit l)] := ⟨_, rfl⟩
  have word : encodeWord (.crecvp l d a b) = some w := by rw [hw]; rfl
  have small : w < 2 ^ 32 := lt_of hw fits
  have major : bitsOf w 25 6 = 32 := field_of hw fits 4
  have lone : bitsOf w 31 1 = loneBit l := field_of hw fits 5
  have bits0 : bitsOf w 0 10 = 9 := field_of hw fits 0
  have field10 : fld w 10 5 = b := fld_of (field_of hw fits 1)
  have field15 : fld w 15 5 = a := fld_of (field_of hw fits 2)
  have field20 : fld w 20 5 = d := fld_of (field_of hw fits 3)
  refine ofC rfl rfl rfl word small fun wf x ext => ?_
  rw [decodeC20_of major (lone_of lone ext)]
  simp only [decodeC20, bits0, field10, field15, field20, checked, wf]

theorem Roundtrip.chsel (l : Lone) (d : Reg) (b : Reg) (f : BitVec 1) : Statement (.chsel l d b f) := by
  have fits : Fits [(1, f.toNat), (9, 0), (5, b.toNat), (5, 0), (5, d.toNat), (6, 0x21), (1, loneBit l)] := ⟨f.isLt, by decide, b.isLt, by decide, d.isLt, by decide, loneBit_lt l, trivial⟩
  obtain ⟨w, hw⟩ : ∃ w, w = pack [(1, f.toNat), (9, 0), (5, b.toNat), (5, 0), (5, d.toNat), (6, 0x21), (1, loneBit l)] := ⟨_, rfl⟩
  have word : encodeWord (.chsel l d b f) = some w := by rw [hw]; rfl
  have small : w < 2 ^ 32 := lt_of hw fits
  have major : bitsOf w 25 6 = 33 := field_of hw fits 5
  have lone : bitsOf w 31 1 = loneBit l := field_of hw fits 6
  have bits1 : bitsOf w 1 9 = 0 := field_of hw fits 1
  have bits15 : bitsOf w 15 5 = 0 := field_of hw fits 3
  have field0 : fld w 0 1 = f := fld_of (field_of hw fits 0)
  have field10 : fld w 10 5 = b := fld_of (field_of hw fits 2)
  have field20 : fld w 20 5 = d := fld_of (field_of hw fits 4)
  refine ofC rfl rfl rfl word small fun wf x ext => ?_
  rw [decodeC21_of major (lone_of lone ext)]
  simp only [decodeC21, bits1, bits15, field0, field10, field20, zeros_nil, zeros_cons, checked, wf]

theorem Roundtrip.chnew (l : Lone) (d : Reg) (b : Reg) : Statement (.chnew l d b) := by
  have fits : Fits [(10, 0), (5, b.toNat), (5, 0), (5, d.toNat), (6, 0x22), (1, loneBit l)] := ⟨by decide, b.isLt, by decide, d.isLt, by decide, loneBit_lt l, trivial⟩
  obtain ⟨w, hw⟩ : ∃ w, w = pack [(10, 0), (5, b.toNat), (5, 0), (5, d.toNat), (6, 0x22), (1, loneBit l)] := ⟨_, rfl⟩
  have word : encodeWord (.chnew l d b) = some w := by rw [hw]; rfl
  have small : w < 2 ^ 32 := lt_of hw fits
  have major : bitsOf w 25 6 = 34 := field_of hw fits 4
  have lone : bitsOf w 31 1 = loneBit l := field_of hw fits 5
  have bits0 : bitsOf w 0 10 = 0 := field_of hw fits 0
  have bits15 : bitsOf w 15 5 = 0 := field_of hw fits 2
  have field10 : fld w 10 5 = b := fld_of (field_of hw fits 1)
  have field20 : fld w 20 5 = d := fld_of (field_of hw fits 3)
  refine ofC rfl rfl rfl word small fun wf x ext => ?_
  rw [decodeC22_of major (lone_of lone ext)]
  simp only [decodeC22, bits0, bits15, field10, field20, zeros_nil, zeros_cons, checked, wf]

theorem Roundtrip.chdel (l : Lone) (b : Reg) : Statement (.chdel l b) := by
  have fits : Fits [(10, 1), (5, b.toNat), (10, 0), (6, 0x22), (1, loneBit l)] := ⟨by decide, b.isLt, by decide, by decide, loneBit_lt l, trivial⟩
  obtain ⟨w, hw⟩ : ∃ w, w = pack [(10, 1), (5, b.toNat), (10, 0), (6, 0x22), (1, loneBit l)] := ⟨_, rfl⟩
  have word : encodeWord (.chdel l b) = some w := by rw [hw]; rfl
  have small : w < 2 ^ 32 := lt_of hw fits
  have major : bitsOf w 25 6 = 34 := field_of hw fits 3
  have lone : bitsOf w 31 1 = loneBit l := field_of hw fits 4
  have bits0 : bitsOf w 0 10 = 1 := field_of hw fits 0
  have bits15 : bitsOf w 15 10 = 0 := field_of hw fits 2
  have field10 : fld w 10 5 = b := fld_of (field_of hw fits 1)
  refine ofC rfl rfl rfl word small fun wf x ext => ?_
  rw [decodeC22_of major (lone_of lone ext)]
  simp only [decodeC22, bits0, bits15, field10, zeros_nil, zeros_cons, checked, wf]

theorem Roundtrip.spawn (l : Lone) (d : Reg) (a : Reg) (b : Reg) : Statement (.spawn l d a b) := by
  have fits : Fits [(10, 0), (5, b.toNat), (5, a.toNat), (5, d.toNat), (6, 0x23), (1, loneBit l)] := ⟨by decide, b.isLt, a.isLt, d.isLt, by decide, loneBit_lt l, trivial⟩
  obtain ⟨w, hw⟩ : ∃ w, w = pack [(10, 0), (5, b.toNat), (5, a.toNat), (5, d.toNat), (6, 0x23), (1, loneBit l)] := ⟨_, rfl⟩
  have word : encodeWord (.spawn l d a b) = some w := by rw [hw]; rfl
  have small : w < 2 ^ 32 := lt_of hw fits
  have major : bitsOf w 25 6 = 35 := field_of hw fits 4
  have lone : bitsOf w 31 1 = loneBit l := field_of hw fits 5
  have bits0 : bitsOf w 0 10 = 0 := field_of hw fits 0
  have field10 : fld w 10 5 = b := fld_of (field_of hw fits 1)
  have field15 : fld w 15 5 = a := fld_of (field_of hw fits 2)
  have field20 : fld w 20 5 = d := fld_of (field_of hw fits 3)
  refine ofC rfl rfl rfl word small fun wf x ext => ?_
  rw [decodeC23_of major (lone_of lone ext)]
  simp only [decodeC23, bits0, field10, field15, field20, checked, wf]

theorem Roundtrip.spawnk (l : Lone) (d : Reg) (a : Reg) (b : Reg) : Statement (.spawnk l d a b) := by
  have fits : Fits [(10, 1), (5, b.toNat), (5, a.toNat), (5, d.toNat), (6, 0x23), (1, loneBit l)] := ⟨by decide, b.isLt, a.isLt, d.isLt, by decide, loneBit_lt l, trivial⟩
  obtain ⟨w, hw⟩ : ∃ w, w = pack [(10, 1), (5, b.toNat), (5, a.toNat), (5, d.toNat), (6, 0x23), (1, loneBit l)] := ⟨_, rfl⟩
  have word : encodeWord (.spawnk l d a b) = some w := by rw [hw]; rfl
  have small : w < 2 ^ 32 := lt_of hw fits
  have major : bitsOf w 25 6 = 35 := field_of hw fits 4
  have lone : bitsOf w 31 1 = loneBit l := field_of hw fits 5
  have bits0 : bitsOf w 0 10 = 1 := field_of hw fits 0
  have field10 : fld w 10 5 = b := fld_of (field_of hw fits 1)
  have field15 : fld w 15 5 = a := fld_of (field_of hw fits 2)
  have field20 : fld w 20 5 = d := fld_of (field_of hw fits 3)
  refine ofC rfl rfl rfl word small fun wf x ext => ?_
  rw [decodeC23_of major (lone_of lone ext)]
  simp only [decodeC23, bits0, field10, field15, field20, checked, wf]

theorem Roundtrip.callat (l : Lone) (h : Reg) (a : Reg) (b : Reg) : Statement (.callat l h a b) := by
  have fits : Fits [(10, 2), (5, b.toNat), (5, a.toNat), (5, h.toNat), (6, 0x23), (1, loneBit l)] := ⟨by decide, b.isLt, a.isLt, h.isLt, by decide, loneBit_lt l, trivial⟩
  obtain ⟨w, hw⟩ : ∃ w, w = pack [(10, 2), (5, b.toNat), (5, a.toNat), (5, h.toNat), (6, 0x23), (1, loneBit l)] := ⟨_, rfl⟩
  have word : encodeWord (.callat l h a b) = some w := by rw [hw]; rfl
  have small : w < 2 ^ 32 := lt_of hw fits
  have major : bitsOf w 25 6 = 35 := field_of hw fits 4
  have lone : bitsOf w 31 1 = loneBit l := field_of hw fits 5
  have bits0 : bitsOf w 0 10 = 2 := field_of hw fits 0
  have field10 : fld w 10 5 = b := fld_of (field_of hw fits 1)
  have field15 : fld w 15 5 = a := fld_of (field_of hw fits 2)
  have field20 : fld w 20 5 = h := fld_of (field_of hw fits 3)
  refine ofC rfl rfl rfl word small fun wf x ext => ?_
  rw [decodeC23_of major (lone_of lone ext)]
  simp only [decodeC23, bits0, field10, field15, field20, checked, wf]

theorem Roundtrip.fork (l : Lone) (a : Reg) : Statement (.fork l a) := by
  have fits : Fits [(10, 3), (5, 0), (5, a.toNat), (5, 0), (6, 0x23), (1, loneBit l)] := ⟨by decide, by decide, a.isLt, by decide, by decide, loneBit_lt l, trivial⟩
  obtain ⟨w, hw⟩ : ∃ w, w = pack [(10, 3), (5, 0), (5, a.toNat), (5, 0), (6, 0x23), (1, loneBit l)] := ⟨_, rfl⟩
  have word : encodeWord (.fork l a) = some w := by rw [hw]; rfl
  have small : w < 2 ^ 32 := lt_of hw fits
  have major : bitsOf w 25 6 = 35 := field_of hw fits 4
  have lone : bitsOf w 31 1 = loneBit l := field_of hw fits 5
  have bits0 : bitsOf w 0 10 = 3 := field_of hw fits 0
  have bits10 : bitsOf w 10 5 = 0 := field_of hw fits 1
  have bits20 : bitsOf w 20 5 = 0 := field_of hw fits 3
  have field15 : fld w 15 5 = a := fld_of (field_of hw fits 2)
  refine ofC rfl rfl rfl word small fun wf x ext => ?_
  rw [decodeC23_of major (lone_of lone ext)]
  simp only [decodeC23, bits0, bits10, bits20, field15, zeros_nil, zeros_cons, checked, wf]

theorem Roundtrip.join (l : Lone) (a : Reg) : Statement (.join l a) := by
  have fits : Fits [(10, 4), (5, 0), (5, a.toNat), (5, 0), (6, 0x23), (1, loneBit l)] := ⟨by decide, by decide, a.isLt, by decide, by decide, loneBit_lt l, trivial⟩
  obtain ⟨w, hw⟩ : ∃ w, w = pack [(10, 4), (5, 0), (5, a.toNat), (5, 0), (6, 0x23), (1, loneBit l)] := ⟨_, rfl⟩
  have word : encodeWord (.join l a) = some w := by rw [hw]; rfl
  have small : w < 2 ^ 32 := lt_of hw fits
  have major : bitsOf w 25 6 = 35 := field_of hw fits 4
  have lone : bitsOf w 31 1 = loneBit l := field_of hw fits 5
  have bits0 : bitsOf w 0 10 = 4 := field_of hw fits 0
  have bits10 : bitsOf w 10 5 = 0 := field_of hw fits 1
  have bits20 : bitsOf w 20 5 = 0 := field_of hw fits 3
  have field15 : fld w 15 5 = a := fld_of (field_of hw fits 2)
  refine ofC rfl rfl rfl word small fun wf x ext => ?_
  rw [decodeC23_of major (lone_of lone ext)]
  simp only [decodeC23, bits0, bits10, bits20, field15, zeros_nil, zeros_cons, checked, wf]

theorem Roundtrip.jinit (l : Lone) (a : Reg) (b : Reg) : Statement (.jinit l a b) := by
  have fits : Fits [(10, 5), (5, b.toNat), (5, a.toNat), (5, 0), (6, 0x23), (1, loneBit l)] := ⟨by decide, b.isLt, a.isLt, by decide, by decide, loneBit_lt l, trivial⟩
  obtain ⟨w, hw⟩ : ∃ w, w = pack [(10, 5), (5, b.toNat), (5, a.toNat), (5, 0), (6, 0x23), (1, loneBit l)] := ⟨_, rfl⟩
  have word : encodeWord (.jinit l a b) = some w := by rw [hw]; rfl
  have small : w < 2 ^ 32 := lt_of hw fits
  have major : bitsOf w 25 6 = 35 := field_of hw fits 4
  have lone : bitsOf w 31 1 = loneBit l := field_of hw fits 5
  have bits0 : bitsOf w 0 10 = 5 := field_of hw fits 0
  have bits20 : bitsOf w 20 5 = 0 := field_of hw fits 3
  have field10 : fld w 10 5 = b := fld_of (field_of hw fits 1)
  have field15 : fld w 15 5 = a := fld_of (field_of hw fits 2)
  refine ofC rfl rfl rfl word small fun wf x ext => ?_
  rw [decodeC23_of major (lone_of lone ext)]
  simp only [decodeC23, bits0, bits20, field10, field15, zeros_nil, zeros_cons, checked, wf]

theorem Roundtrip.yield (l : Lone) : Statement (.yield l) := by
  have fits : Fits [(10, 6), (15, 0), (6, 0x23), (1, loneBit l)] := ⟨by decide, by decide, by decide, loneBit_lt l, trivial⟩
  obtain ⟨w, hw⟩ : ∃ w, w = pack [(10, 6), (15, 0), (6, 0x23), (1, loneBit l)] := ⟨_, rfl⟩
  have word : encodeWord (.yield l) = some w := by rw [hw]; rfl
  have small : w < 2 ^ 32 := lt_of hw fits
  have major : bitsOf w 25 6 = 35 := field_of hw fits 2
  have lone : bitsOf w 31 1 = loneBit l := field_of hw fits 3
  have bits0 : bitsOf w 0 10 = 6 := field_of hw fits 0
  have bits10 : bitsOf w 10 15 = 0 := field_of hw fits 1
  refine ofC rfl rfl rfl word small fun wf x ext => ?_
  rw [decodeC23_of major (lone_of lone ext)]
  simp only [decodeC23, bits0, bits10, zeros_nil, zeros_cons, checked, wf]

theorem Roundtrip.park (l : Lone) (a : Reg) (b : Reg) : Statement (.park l a b) := by
  have fits : Fits [(10, 7), (5, b.toNat), (5, a.toNat), (5, 0), (6, 0x23), (1, loneBit l)] := ⟨by decide, b.isLt, a.isLt, by decide, by decide, loneBit_lt l, trivial⟩
  obtain ⟨w, hw⟩ : ∃ w, w = pack [(10, 7), (5, b.toNat), (5, a.toNat), (5, 0), (6, 0x23), (1, loneBit l)] := ⟨_, rfl⟩
  have word : encodeWord (.park l a b) = some w := by rw [hw]; rfl
  have small : w < 2 ^ 32 := lt_of hw fits
  have major : bitsOf w 25 6 = 35 := field_of hw fits 4
  have lone : bitsOf w 31 1 = loneBit l := field_of hw fits 5
  have bits0 : bitsOf w 0 10 = 7 := field_of hw fits 0
  have bits20 : bitsOf w 20 5 = 0 := field_of hw fits 3
  have field10 : fld w 10 5 = b := fld_of (field_of hw fits 1)
  have field15 : fld w 15 5 = a := fld_of (field_of hw fits 2)
  refine ofC rfl rfl rfl word small fun wf x ext => ?_
  rw [decodeC23_of major (lone_of lone ext)]
  simp only [decodeC23, bits0, bits20, field10, field15, zeros_nil, zeros_cons, checked, wf]

theorem Roundtrip.exit (l : Lone) (a : Reg) : Statement (.exit l a) := by
  have fits : Fits [(10, 8), (5, 0), (5, a.toNat), (5, 0), (6, 0x23), (1, loneBit l)] := ⟨by decide, by decide, a.isLt, by decide, by decide, loneBit_lt l, trivial⟩
  obtain ⟨w, hw⟩ : ∃ w, w = pack [(10, 8), (5, 0), (5, a.toNat), (5, 0), (6, 0x23), (1, loneBit l)] := ⟨_, rfl⟩
  have word : encodeWord (.exit l a) = some w := by rw [hw]; rfl
  have small : w < 2 ^ 32 := lt_of hw fits
  have major : bitsOf w 25 6 = 35 := field_of hw fits 4
  have lone : bitsOf w 31 1 = loneBit l := field_of hw fits 5
  have bits0 : bitsOf w 0 10 = 8 := field_of hw fits 0
  have bits10 : bitsOf w 10 5 = 0 := field_of hw fits 1
  have bits20 : bitsOf w 20 5 = 0 := field_of hw fits 3
  have field15 : fld w 15 5 = a := fld_of (field_of hw fits 2)
  refine ofC rfl rfl rfl word small fun wf x ext => ?_
  rw [decodeC23_of major (lone_of lone ext)]
  simp only [decodeC23, bits0, bits10, bits20, field15, zeros_nil, zeros_cons, checked, wf]

theorem Roundtrip.chprio (l : Lone) (b : Reg) : Statement (.chprio l b) := by
  have fits : Fits [(10, 9), (5, b.toNat), (10, 0), (6, 0x23), (1, loneBit l)] := ⟨by decide, b.isLt, by decide, by decide, loneBit_lt l, trivial⟩
  obtain ⟨w, hw⟩ : ∃ w, w = pack [(10, 9), (5, b.toNat), (10, 0), (6, 0x23), (1, loneBit l)] := ⟨_, rfl⟩
  have word : encodeWord (.chprio l b) = some w := by rw [hw]; rfl
  have small : w < 2 ^ 32 := lt_of hw fits
  have major : bitsOf w 25 6 = 35 := field_of hw fits 3
  have lone : bitsOf w 31 1 = loneBit l := field_of hw fits 4
  have bits0 : bitsOf w 0 10 = 9 := field_of hw fits 0
  have bits15 : bitsOf w 15 10 = 0 := field_of hw fits 2
  have field10 : fld w 10 5 = b := fld_of (field_of hw fits 1)
  refine ofC rfl rfl rfl word small fun wf x ext => ?_
  rw [decodeC23_of major (lone_of lone ext)]
  simp only [decodeC23, bits0, bits15, field10, zeros_nil, zeros_cons, checked, wf]

theorem Roundtrip.binit (l : Lone) (a : Reg) (b : Reg) : Statement (.binit l a b) := by
  have fits : Fits [(10, 0), (5, b.toNat), (5, a.toNat), (5, 0), (6, 0x24), (1, loneBit l)] := ⟨by decide, b.isLt, a.isLt, by decide, by decide, loneBit_lt l, trivial⟩
  obtain ⟨w, hw⟩ : ∃ w, w = pack [(10, 0), (5, b.toNat), (5, a.toNat), (5, 0), (6, 0x24), (1, loneBit l)] := ⟨_, rfl⟩
  have word : encodeWord (.binit l a b) = some w := by rw [hw]; rfl
  have small : w < 2 ^ 32 := lt_of hw fits
  have major : bitsOf w 25 6 = 36 := field_of hw fits 4
  have lone : bitsOf w 31 1 = loneBit l := field_of hw fits 5
  have bits0 : bitsOf w 0 10 = 0 := field_of hw fits 0
  have bits20 : bitsOf w 20 5 = 0 := field_of hw fits 3
  have field10 : fld w 10 5 = b := fld_of (field_of hw fits 1)
  have field15 : fld w 15 5 = a := fld_of (field_of hw fits 2)
  refine ofC rfl rfl rfl word small fun wf x ext => ?_
  rw [decodeC24_of major (lone_of lone ext)]
  simp only [decodeC24, bits0, bits20, field10, field15, zeros_nil, zeros_cons, checked, wf]

theorem Roundtrip.barr (l : Lone) (d : Reg) (a : Reg) : Statement (.barr l d a) := by
  have fits : Fits [(10, 1), (5, 0), (5, a.toNat), (5, d.toNat), (6, 0x24), (1, loneBit l)] := ⟨by decide, by decide, a.isLt, d.isLt, by decide, loneBit_lt l, trivial⟩
  obtain ⟨w, hw⟩ : ∃ w, w = pack [(10, 1), (5, 0), (5, a.toNat), (5, d.toNat), (6, 0x24), (1, loneBit l)] := ⟨_, rfl⟩
  have word : encodeWord (.barr l d a) = some w := by rw [hw]; rfl
  have small : w < 2 ^ 32 := lt_of hw fits
  have major : bitsOf w 25 6 = 36 := field_of hw fits 4
  have lone : bitsOf w 31 1 = loneBit l := field_of hw fits 5
  have bits0 : bitsOf w 0 10 = 1 := field_of hw fits 0
  have bits10 : bitsOf w 10 5 = 0 := field_of hw fits 1
  have field15 : fld w 15 5 = a := fld_of (field_of hw fits 2)
  have field20 : fld w 20 5 = d := fld_of (field_of hw fits 3)
  refine ofC rfl rfl rfl word small fun wf x ext => ?_
  rw [decodeC24_of major (lone_of lone ext)]
  simp only [decodeC24, bits0, bits10, field15, field20, zeros_nil, zeros_cons, checked, wf]

theorem Roundtrip.barw (l : Lone) (d : Reg) (a : Reg) : Statement (.barw l d a) := by
  have fits : Fits [(10, 2), (5, 0), (5, a.toNat), (5, d.toNat), (6, 0x24), (1, loneBit l)] := ⟨by decide, by decide, a.isLt, d.isLt, by decide, loneBit_lt l, trivial⟩
  obtain ⟨w, hw⟩ : ∃ w, w = pack [(10, 2), (5, 0), (5, a.toNat), (5, d.toNat), (6, 0x24), (1, loneBit l)] := ⟨_, rfl⟩
  have word : encodeWord (.barw l d a) = some w := by rw [hw]; rfl
  have small : w < 2 ^ 32 := lt_of hw fits
  have major : bitsOf w 25 6 = 36 := field_of hw fits 4
  have lone : bitsOf w 31 1 = loneBit l := field_of hw fits 5
  have bits0 : bitsOf w 0 10 = 2 := field_of hw fits 0
  have bits10 : bitsOf w 10 5 = 0 := field_of hw fits 1
  have field15 : fld w 15 5 = a := fld_of (field_of hw fits 2)
  have field20 : fld w 20 5 = d := fld_of (field_of hw fits 3)
  refine ofC rfl rfl rfl word small fun wf x ext => ?_
  rw [decodeC24_of major (lone_of lone ext)]
  simp only [decodeC24, bits0, bits10, field15, field20, zeros_nil, zeros_cons, checked, wf]

theorem Roundtrip.ginit (l : Lone) (a : Reg) (b : Reg) : Statement (.ginit l a b) := by
  have fits : Fits [(10, 3), (5, b.toNat), (5, a.toNat), (5, 0), (6, 0x24), (1, loneBit l)] := ⟨by decide, b.isLt, a.isLt, by decide, by decide, loneBit_lt l, trivial⟩
  obtain ⟨w, hw⟩ : ∃ w, w = pack [(10, 3), (5, b.toNat), (5, a.toNat), (5, 0), (6, 0x24), (1, loneBit l)] := ⟨_, rfl⟩
  have word : encodeWord (.ginit l a b) = some w := by rw [hw]; rfl
  have small : w < 2 ^ 32 := lt_of hw fits
  have major : bitsOf w 25 6 = 36 := field_of hw fits 4
  have lone : bitsOf w 31 1 = loneBit l := field_of hw fits 5
  have bits0 : bitsOf w 0 10 = 3 := field_of hw fits 0
  have bits20 : bitsOf w 20 5 = 0 := field_of hw fits 3
  have field10 : fld w 10 5 = b := fld_of (field_of hw fits 1)
  have field15 : fld w 15 5 = a := fld_of (field_of hw fits 2)
  refine ofC rfl rfl rfl word small fun wf x ext => ?_
  rw [decodeC24_of major (lone_of lone ext)]
  simp only [decodeC24, bits0, bits20, field10, field15, zeros_nil, zeros_cons, checked, wf]

theorem Roundtrip.gkill (l : Lone) (a : Reg) : Statement (.gkill l a) := by
  have fits : Fits [(10, 4), (5, 0), (5, a.toNat), (5, 0), (6, 0x24), (1, loneBit l)] := ⟨by decide, by decide, a.isLt, by decide, by decide, loneBit_lt l, trivial⟩
  obtain ⟨w, hw⟩ : ∃ w, w = pack [(10, 4), (5, 0), (5, a.toNat), (5, 0), (6, 0x24), (1, loneBit l)] := ⟨_, rfl⟩
  have word : encodeWord (.gkill l a) = some w := by rw [hw]; rfl
  have small : w < 2 ^ 32 := lt_of hw fits
  have major : bitsOf w 25 6 = 36 := field_of hw fits 4
  have lone : bitsOf w 31 1 = loneBit l := field_of hw fits 5
  have bits0 : bitsOf w 0 10 = 4 := field_of hw fits 0
  have bits10 : bitsOf w 10 5 = 0 := field_of hw fits 1
  have bits20 : bitsOf w 20 5 = 0 := field_of hw fits 3
  have field15 : fld w 15 5 = a := fld_of (field_of hw fits 2)
  refine ofC rfl rfl rfl word small fun wf x ext => ?_
  rw [decodeC24_of major (lone_of lone ext)]
  simp only [decodeC24, bits0, bits10, bits20, field15, zeros_nil, zeros_cons, checked, wf]

theorem Roundtrip.gquery (l : Lone) (d : Reg) (a : Reg) : Statement (.gquery l d a) := by
  have fits : Fits [(10, 5), (5, 0), (5, a.toNat), (5, d.toNat), (6, 0x24), (1, loneBit l)] := ⟨by decide, by decide, a.isLt, d.isLt, by decide, loneBit_lt l, trivial⟩
  obtain ⟨w, hw⟩ : ∃ w, w = pack [(10, 5), (5, 0), (5, a.toNat), (5, d.toNat), (6, 0x24), (1, loneBit l)] := ⟨_, rfl⟩
  have word : encodeWord (.gquery l d a) = some w := by rw [hw]; rfl
  have small : w < 2 ^ 32 := lt_of hw fits
  have major : bitsOf w 25 6 = 36 := field_of hw fits 4
  have lone : bitsOf w 31 1 = loneBit l := field_of hw fits 5
  have bits0 : bitsOf w 0 10 = 5 := field_of hw fits 0
  have bits10 : bitsOf w 10 5 = 0 := field_of hw fits 1
  have field15 : fld w 15 5 = a := fld_of (field_of hw fits 2)
  have field20 : fld w 20 5 = d := fld_of (field_of hw fits 3)
  refine ofC rfl rfl rfl word small fun wf x ext => ?_
  rw [decodeC24_of major (lone_of lone ext)]
  simp only [decodeC24, bits0, bits10, field15, field20, zeros_nil, zeros_cons, checked, wf]

theorem Roundtrip.mfs (l : Lone) (d : Reg) (i : BitVec 12) : Statement (.mfs l d i) := by
  have fits : Fits [(12, i.toNat), (3, 0), (5, 0), (5, d.toNat), (6, 0x25), (1, loneBit l)] := ⟨i.isLt, by decide, by decide, d.isLt, by decide, loneBit_lt l, trivial⟩
  obtain ⟨w, hw⟩ : ∃ w, w = pack [(12, i.toNat), (3, 0), (5, 0), (5, d.toNat), (6, 0x25), (1, loneBit l)] := ⟨_, rfl⟩
  have word : encodeWord (.mfs l d i) = some w := by rw [hw]; rfl
  have small : w < 2 ^ 32 := lt_of hw fits
  have major : bitsOf w 25 6 = 37 := field_of hw fits 4
  have lone : bitsOf w 31 1 = loneBit l := field_of hw fits 5
  have bits12 : bitsOf w 12 3 = 0 := field_of hw fits 1
  have bits15 : bitsOf w 15 5 = 0 := field_of hw fits 2
  have field0 : fld w 0 12 = i := fld_of (field_of hw fits 0)
  have field20 : fld w 20 5 = d := fld_of (field_of hw fits 3)
  refine ofC rfl rfl rfl word small fun wf x ext => ?_
  rw [decodeC25_of major (lone_of lone ext)]
  simp only [decodeC25, bits12, bits15, field0, field20, zeros_nil, zeros_cons, checked, wf]

theorem Roundtrip.mts (l : Lone) (a : Reg) (i : BitVec 12) : Statement (.mts l a i) := by
  have fits : Fits [(12, i.toNat), (3, 1), (5, a.toNat), (5, 0), (6, 0x25), (1, loneBit l)] := ⟨i.isLt, by decide, a.isLt, by decide, by decide, loneBit_lt l, trivial⟩
  obtain ⟨w, hw⟩ : ∃ w, w = pack [(12, i.toNat), (3, 1), (5, a.toNat), (5, 0), (6, 0x25), (1, loneBit l)] := ⟨_, rfl⟩
  have word : encodeWord (.mts l a i) = some w := by rw [hw]; rfl
  have small : w < 2 ^ 32 := lt_of hw fits
  have major : bitsOf w 25 6 = 37 := field_of hw fits 4
  have lone : bitsOf w 31 1 = loneBit l := field_of hw fits 5
  have bits12 : bitsOf w 12 3 = 1 := field_of hw fits 1
  have bits20 : bitsOf w 20 5 = 0 := field_of hw fits 3
  have field0 : fld w 0 12 = i := fld_of (field_of hw fits 0)
  have field15 : fld w 15 5 = a := fld_of (field_of hw fits 2)
  refine ofC rfl rfl rfl word small fun wf x ext => ?_
  rw [decodeC25_of major (lone_of lone ext)]
  simp only [decodeC25, bits12, bits20, field0, field15, zeros_nil, zeros_cons, checked, wf]

theorem Roundtrip.trap (l : Lone) (n : BitVec 6) : Statement (.trap l n) := by
  have fits : Fits [(6, n.toNat), (6, 0), (3, 2), (10, 0), (6, 0x25), (1, loneBit l)] := ⟨n.isLt, by decide, by decide, by decide, by decide, loneBit_lt l, trivial⟩
  obtain ⟨w, hw⟩ : ∃ w, w = pack [(6, n.toNat), (6, 0), (3, 2), (10, 0), (6, 0x25), (1, loneBit l)] := ⟨_, rfl⟩
  have word : encodeWord (.trap l n) = some w := by rw [hw]; rfl
  have small : w < 2 ^ 32 := lt_of hw fits
  have major : bitsOf w 25 6 = 37 := field_of hw fits 4
  have lone : bitsOf w 31 1 = loneBit l := field_of hw fits 5
  have bits6 : bitsOf w 6 6 = 0 := field_of hw fits 1
  have bits12 : bitsOf w 12 3 = 2 := field_of hw fits 2
  have bits15 : bitsOf w 15 10 = 0 := field_of hw fits 3
  have field0 : fld w 0 6 = n := fld_of (field_of hw fits 0)
  refine ofC rfl rfl rfl word small fun wf x ext => ?_
  rw [decodeC25_of major (lone_of lone ext)]
  simp only [decodeC25, bits6, bits12, bits15, field0, zeros_nil, zeros_cons, checked, wf]

theorem Roundtrip.tret (l : Lone) : Statement (.tret l) := by
  have fits : Fits [(12, 0), (3, 3), (10, 0), (6, 0x25), (1, loneBit l)] := ⟨by decide, by decide, by decide, by decide, loneBit_lt l, trivial⟩
  obtain ⟨w, hw⟩ : ∃ w, w = pack [(12, 0), (3, 3), (10, 0), (6, 0x25), (1, loneBit l)] := ⟨_, rfl⟩
  have word : encodeWord (.tret l) = some w := by rw [hw]; rfl
  have small : w < 2 ^ 32 := lt_of hw fits
  have major : bitsOf w 25 6 = 37 := field_of hw fits 3
  have lone : bitsOf w 31 1 = loneBit l := field_of hw fits 4
  have bits0 : bitsOf w 0 12 = 0 := field_of hw fits 0
  have bits12 : bitsOf w 12 3 = 3 := field_of hw fits 1
  have bits15 : bitsOf w 15 10 = 0 := field_of hw fits 2
  refine ofC rfl rfl rfl word small fun wf x ext => ?_
  rw [decodeC25_of major (lone_of lone ext)]
  simp only [decodeC25, bits0, bits12, bits15, zeros_nil, zeros_cons, checked, wf]

theorem Roundtrip.xinv (l : Lone) (a : Reg) (k : BitVec 3) : Statement (.xinv l a k) := by
  have fits : Fits [(3, k.toNat), (9, 0), (3, 4), (5, a.toNat), (5, 0), (6, 0x25), (1, loneBit l)] := ⟨k.isLt, by decide, by decide, a.isLt, by decide, by decide, loneBit_lt l, trivial⟩
  obtain ⟨w, hw⟩ : ∃ w, w = pack [(3, k.toNat), (9, 0), (3, 4), (5, a.toNat), (5, 0), (6, 0x25), (1, loneBit l)] := ⟨_, rfl⟩
  have word : encodeWord (.xinv l a k) = some w := by rw [hw]; rfl
  have small : w < 2 ^ 32 := lt_of hw fits
  have major : bitsOf w 25 6 = 37 := field_of hw fits 5
  have lone : bitsOf w 31 1 = loneBit l := field_of hw fits 6
  have bits3 : bitsOf w 3 9 = 0 := field_of hw fits 1
  have bits12 : bitsOf w 12 3 = 4 := field_of hw fits 2
  have bits20 : bitsOf w 20 5 = 0 := field_of hw fits 4
  have field0 : fld w 0 3 = k := fld_of (field_of hw fits 0)
  have field15 : fld w 15 5 = a := fld_of (field_of hw fits 3)
  refine ofC rfl rfl rfl word small fun wf x ext => ?_
  rw [decodeC25_of major (lone_of lone ext)]
  simp only [decodeC25, bits3, bits12, bits20, field0, field15, zeros_nil, zeros_cons, checked, wf]

theorem Roundtrip.mreq (l : Lone) (a : Reg) : Statement (.mreq l a) := by
  have fits : Fits [(10, 0), (5, 0), (5, a.toNat), (5, 0), (6, 0x26), (1, loneBit l)] := ⟨by decide, by decide, a.isLt, by decide, by decide, loneBit_lt l, trivial⟩
  obtain ⟨w, hw⟩ : ∃ w, w = pack [(10, 0), (5, 0), (5, a.toNat), (5, 0), (6, 0x26), (1, loneBit l)] := ⟨_, rfl⟩
  have word : encodeWord (.mreq l a) = some w := by rw [hw]; rfl
  have small : w < 2 ^ 32 := lt_of hw fits
  have major : bitsOf w 25 6 = 38 := field_of hw fits 4
  have lone : bitsOf w 31 1 = loneBit l := field_of hw fits 5
  have bits0 : bitsOf w 0 10 = 0 := field_of hw fits 0
  have bits10 : bitsOf w 10 5 = 0 := field_of hw fits 1
  have bits20 : bitsOf w 20 5 = 0 := field_of hw fits 3
  have field15 : fld w 15 5 = a := fld_of (field_of hw fits 2)
  refine ofC rfl rfl rfl word small fun wf x ext => ?_
  rw [decodeC26_of major (lone_of lone ext)]
  simp only [decodeC26, bits0, bits10, bits20, field15, zeros_nil, zeros_cons, checked, wf]

theorem Roundtrip.mrel (l : Lone) : Statement (.mrel l) := by
  have fits : Fits [(10, 1), (15, 0), (6, 0x26), (1, loneBit l)] := ⟨by decide, by decide, by decide, loneBit_lt l, trivial⟩
  obtain ⟨w, hw⟩ : ∃ w, w = pack [(10, 1), (15, 0), (6, 0x26), (1, loneBit l)] := ⟨_, rfl⟩
  have word : encodeWord (.mrel l) = some w := by rw [hw]; rfl
  have small : w < 2 ^ 32 := lt_of hw fits
  have major : bitsOf w 25 6 = 38 := field_of hw fits 2
  have lone : bitsOf w 31 1 = loneBit l := field_of hw fits 3
  have bits0 : bitsOf w 0 10 = 1 := field_of hw fits 0
  have bits10 : bitsOf w 10 15 = 0 := field_of hw fits 1
  refine ofC rfl rfl rfl word small fun wf x ext => ?_
  rw [decodeC26_of major (lone_of lone ext)]
  simp only [decodeC26, bits0, bits10, zeros_nil, zeros_cons, checked, wf]

theorem Roundtrip.mfmt (l : Lone) (a : Reg) : Statement (.mfmt l a) := by
  have fits : Fits [(10, 2), (5, 0), (5, a.toNat), (5, 0), (6, 0x26), (1, loneBit l)] := ⟨by decide, by decide, a.isLt, by decide, by decide, loneBit_lt l, trivial⟩
  obtain ⟨w, hw⟩ : ∃ w, w = pack [(10, 2), (5, 0), (5, a.toNat), (5, 0), (6, 0x26), (1, loneBit l)] := ⟨_, rfl⟩
  have word : encodeWord (.mfmt l a) = some w := by rw [hw]; rfl
  have small : w < 2 ^ 32 := lt_of hw fits
  have major : bitsOf w 25 6 = 38 := field_of hw fits 4
  have lone : bitsOf w 31 1 = loneBit l := field_of hw fits 5
  have bits0 : bitsOf w 0 10 = 2 := field_of hw fits 0
  have bits10 : bitsOf w 10 5 = 0 := field_of hw fits 1
  have bits20 : bitsOf w 20 5 = 0 := field_of hw fits 3
  have field15 : fld w 15 5 = a := fld_of (field_of hw fits 2)
  refine ofC rfl rfl rfl word small fun wf x ext => ?_
  rw [decodeC26_of major (lone_of lone ext)]
  simp only [decodeC26, bits0, bits10, bits20, field15, zeros_nil, zeros_cons, checked, wf]

theorem Roundtrip.mscl (l : Lone) (a : Reg) (b : Reg) : Statement (.mscl l a b) := by
  have fits : Fits [(10, 3), (5, b.toNat), (5, a.toNat), (5, 0), (6, 0x26), (1, loneBit l)] := ⟨by decide, b.isLt, a.isLt, by decide, by decide, loneBit_lt l, trivial⟩
  obtain ⟨w, hw⟩ : ∃ w, w = pack [(10, 3), (5, b.toNat), (5, a.toNat), (5, 0), (6, 0x26), (1, loneBit l)] := ⟨_, rfl⟩
  have word : encodeWord (.mscl l a b) = some w := by rw [hw]; rfl
  have small : w < 2 ^ 32 := lt_of hw fits
  have major : bitsOf w 25 6 = 38 := field_of hw fits 4
  have lone : bitsOf w 31 1 = loneBit l := field_of hw fits 5
  have bits0 : bitsOf w 0 10 = 3 := field_of hw fits 0
  have bits20 : bitsOf w 20 5 = 0 := field_of hw fits 3
  have field10 : fld w 10 5 = b := fld_of (field_of hw fits 1)
  have field15 : fld w 15 5 = a := fld_of (field_of hw fits 2)
  refine ofC rfl rfl rfl word small fun wf x ext => ?_
  rw [decodeC26_of major (lone_of lone ext)]
  simp only [decodeC26, bits0, bits20, field10, field15, zeros_nil, zeros_cons, checked, wf]

theorem Roundtrip.mlid (l : Lone) (b : Reg) : Statement (.mlid l b) := by
  have fits : Fits [(10, 4), (5, b.toNat), (10, 0), (6, 0x26), (1, loneBit l)] := ⟨by decide, b.isLt, by decide, by decide, loneBit_lt l, trivial⟩
  obtain ⟨w, hw⟩ : ∃ w, w = pack [(10, 4), (5, b.toNat), (10, 0), (6, 0x26), (1, loneBit l)] := ⟨_, rfl⟩
  have word : encodeWord (.mlid l b) = some w := by rw [hw]; rfl
  have small : w < 2 ^ 32 := lt_of hw fits
  have major : bitsOf w 25 6 = 38 := field_of hw fits 3
  have lone : bitsOf w 31 1 = loneBit l := field_of hw fits 4
  have bits0 : bitsOf w 0 10 = 4 := field_of hw fits 0
  have bits15 : bitsOf w 15 10 = 0 := field_of hw fits 2
  have field10 : fld w 10 5 = b := fld_of (field_of hw fits 1)
  refine ofC rfl rfl rfl word small fun wf x ext => ?_
  rw [decodeC26_of major (lone_of lone ext)]
  simp only [decodeC26, bits0, bits15, field10, zeros_nil, zeros_cons, checked, wf]

theorem Roundtrip.mclr (l : Lone) (a : Reg) : Statement (.mclr l a) := by
  have fits : Fits [(10, 5), (5, 0), (5, a.toNat), (5, 0), (6, 0x26), (1, loneBit l)] := ⟨by decide, by decide, a.isLt, by decide, by decide, loneBit_lt l, trivial⟩
  obtain ⟨w, hw⟩ : ∃ w, w = pack [(10, 5), (5, 0), (5, a.toNat), (5, 0), (6, 0x26), (1, loneBit l)] := ⟨_, rfl⟩
  have word : encodeWord (.mclr l a) = some w := by rw [hw]; rfl
  have small : w < 2 ^ 32 := lt_of hw fits
  have major : bitsOf w 25 6 = 38 := field_of hw fits 4
  have lone : bitsOf w 31 1 = loneBit l := field_of hw fits 5
  have bits0 : bitsOf w 0 10 = 5 := field_of hw fits 0
  have bits10 : bitsOf w 10 5 = 0 := field_of hw fits 1
  have bits20 : bitsOf w 20 5 = 0 := field_of hw fits 3
  have field15 : fld w 15 5 = a := fld_of (field_of hw fits 2)
  refine ofC rfl rfl rfl word small fun wf x ext => ?_
  rw [decodeC26_of major (lone_of lone ext)]
  simp only [decodeC26, bits0, bits10, bits20, field15, zeros_nil, zeros_cons, checked, wf]

theorem Roundtrip.mmac (l : Lone) (a : Reg) (b : Reg) : Statement (.mmac l a b) := by
  have fits : Fits [(10, 6), (5, b.toNat), (5, a.toNat), (5, 0), (6, 0x26), (1, loneBit l)] := ⟨by decide, b.isLt, a.isLt, by decide, by decide, loneBit_lt l, trivial⟩
  obtain ⟨w, hw⟩ : ∃ w, w = pack [(10, 6), (5, b.toNat), (5, a.toNat), (5, 0), (6, 0x26), (1, loneBit l)] := ⟨_, rfl⟩
  have word : encodeWord (.mmac l a b) = some w := by rw [hw]; rfl
  have small : w < 2 ^ 32 := lt_of hw fits
  have major : bitsOf w 25 6 = 38 := field_of hw fits 4
  have lone : bitsOf w 31 1 = loneBit l := field_of hw fits 5
  have bits0 : bitsOf w 0 10 = 6 := field_of hw fits 0
  have bits20 : bitsOf w 20 5 = 0 := field_of hw fits 3
  have field10 : fld w 10 5 = b := fld_of (field_of hw fits 1)
  have field15 : fld w 15 5 = a := fld_of (field_of hw fits 2)
  refine ofC rfl rfl rfl word small fun wf x ext => ?_
  rw [decodeC26_of major (lone_of lone ext)]
  simp only [decodeC26, bits0, bits20, field10, field15, zeros_nil, zeros_cons, checked, wf]

theorem Roundtrip.mmacc (l : Lone) (a : Reg) (b : Reg) : Statement (.mmacc l a b) := by
  have fits : Fits [(10, 7), (5, b.toNat), (5, a.toNat), (5, 0), (6, 0x26), (1, loneBit l)] := ⟨by decide, b.isLt, a.isLt, by decide, by decide, loneBit_lt l, trivial⟩
  obtain ⟨w, hw⟩ : ∃ w, w = pack [(10, 7), (5, b.toNat), (5, a.toNat), (5, 0), (6, 0x26), (1, loneBit l)] := ⟨_, rfl⟩
  have word : encodeWord (.mmacc l a b) = some w := by rw [hw]; rfl
  have small : w < 2 ^ 32 := lt_of hw fits
  have major : bitsOf w 25 6 = 38 := field_of hw fits 4
  have lone : bitsOf w 31 1 = loneBit l := field_of hw fits 5
  have bits0 : bitsOf w 0 10 = 7 := field_of hw fits 0
  have bits20 : bitsOf w 20 5 = 0 := field_of hw fits 3
  have field10 : fld w 10 5 = b := fld_of (field_of hw fits 1)
  have field15 : fld w 15 5 = a := fld_of (field_of hw fits 2)
  refine ofC rfl rfl rfl word small fun wf x ext => ?_
  rw [decodeC26_of major (lone_of lone ext)]
  simp only [decodeC26, bits0, bits20, field10, field15, zeros_nil, zeros_cons, checked, wf]

theorem Roundtrip.mmacj (l : Lone) (a : Reg) (b : Reg) : Statement (.mmacj l a b) := by
  have fits : Fits [(10, 8), (5, b.toNat), (5, a.toNat), (5, 0), (6, 0x26), (1, loneBit l)] := ⟨by decide, b.isLt, a.isLt, by decide, by decide, loneBit_lt l, trivial⟩
  obtain ⟨w, hw⟩ : ∃ w, w = pack [(10, 8), (5, b.toNat), (5, a.toNat), (5, 0), (6, 0x26), (1, loneBit l)] := ⟨_, rfl⟩
  have word : encodeWord (.mmacj l a b) = some w := by rw [hw]; rfl
  have small : w < 2 ^ 32 := lt_of hw fits
  have major : bitsOf w 25 6 = 38 := field_of hw fits 4
  have lone : bitsOf w 31 1 = loneBit l := field_of hw fits 5
  have bits0 : bitsOf w 0 10 = 8 := field_of hw fits 0
  have bits20 : bitsOf w 20 5 = 0 := field_of hw fits 3
  have field10 : fld w 10 5 = b := fld_of (field_of hw fits 1)
  have field15 : fld w 15 5 = a := fld_of (field_of hw fits 2)
  refine ofC rfl rfl rfl word small fun wf x ext => ?_
  rw [decodeC26_of major (lone_of lone ext)]
  simp only [decodeC26, bits0, bits20, field10, field15, zeros_nil, zeros_cons, checked, wf]

theorem Roundtrip.mdrn (l : Lone) (a : Reg) (b : Reg) : Statement (.mdrn l a b) := by
  have fits : Fits [(10, 9), (5, b.toNat), (5, a.toNat), (5, 0), (6, 0x26), (1, loneBit l)] := ⟨by decide, b.isLt, a.isLt, by decide, by decide, loneBit_lt l, trivial⟩
  obtain ⟨w, hw⟩ : ∃ w, w = pack [(10, 9), (5, b.toNat), (5, a.toNat), (5, 0), (6, 0x26), (1, loneBit l)] := ⟨_, rfl⟩
  have word : encodeWord (.mdrn l a b) = some w := by rw [hw]; rfl
  have small : w < 2 ^ 32 := lt_of hw fits
  have major : bitsOf w 25 6 = 38 := field_of hw fits 4
  have lone : bitsOf w 31 1 = loneBit l := field_of hw fits 5
  have bits0 : bitsOf w 0 10 = 9 := field_of hw fits 0
  have bits20 : bitsOf w 20 5 = 0 := field_of hw fits 3
  have field10 : fld w 10 5 = b := fld_of (field_of hw fits 1)
  have field15 : fld w 15 5 = a := fld_of (field_of hw fits 2)
  refine ofC rfl rfl rfl word small fun wf x ext => ?_
  rw [decodeC26_of major (lone_of lone ext)]
  simp only [decodeC26, bits0, bits20, field10, field15, zeros_nil, zeros_cons, checked, wf]

theorem Roundtrip.cpy (l : Lone) (a : Reg) (b : Reg) (p : BitVec 1) : Statement (.cpy l a b p) := by
  have fits : Fits [(2, 0), (7, 0), (1, p.toNat), (5, b.toNat), (5, a.toNat), (5, 0), (6, 0x27), (1, loneBit l)] := ⟨by decide, by decide, p.isLt, b.isLt, a.isLt, by decide, by decide, loneBit_lt l, trivial⟩
  obtain ⟨w, hw⟩ : ∃ w, w = pack [(2, 0), (7, 0), (1, p.toNat), (5, b.toNat), (5, a.toNat), (5, 0), (6, 0x27), (1, loneBit l)] := ⟨_, rfl⟩
  have word : encodeWord (.cpy l a b p) = some w := by rw [hw]; rfl
  have small : w < 2 ^ 32 := lt_of hw fits
  have major : bitsOf w 25 6 = 39 := field_of hw fits 6
  have lone : bitsOf w 31 1 = loneBit l := field_of hw fits 7
  have bits0 : bitsOf w 0 2 = 0 := field_of hw fits 0
  have bits2 : bitsOf w 2 7 = 0 := field_of hw fits 1
  have bits20 : bitsOf w 20 5 = 0 := field_of hw fits 5
  have field9 : fld w 9 1 = p := fld_of (field_of hw fits 2)
  have field10 : fld w 10 5 = b := fld_of (field_of hw fits 3)
  have field15 : fld w 15 5 = a := fld_of (field_of hw fits 4)
  refine ofC rfl rfl rfl word small fun wf x ext => ?_
  rw [decodeC27_of major (lone_of lone ext)]
  simp only [decodeC27, bits0, bits2, bits20, field9, field10, field15, zeros_nil, zeros_cons, checked, wf]

theorem Roundtrip.tcpy (l : Lone) (a : Reg) (b : Reg) (p : BitVec 1) : Statement (.tcpy l a b p) := by
  have fits : Fits [(2, 1), (7, 0), (1, p.toNat), (5, b.toNat), (5, a.toNat), (5, 0), (6, 0x27), (1, loneBit l)] := ⟨by decide, by decide, p.isLt, b.isLt, a.isLt, by decide, by decide, loneBit_lt l, trivial⟩
  obtain ⟨w, hw⟩ : ∃ w, w = pack [(2, 1), (7, 0), (1, p.toNat), (5, b.toNat), (5, a.toNat), (5, 0), (6, 0x27), (1, loneBit l)] := ⟨_, rfl⟩
  have word : encodeWord (.tcpy l a b p) = some w := by rw [hw]; rfl
  have small : w < 2 ^ 32 := lt_of hw fits
  have major : bitsOf w 25 6 = 39 := field_of hw fits 6
  have lone : bitsOf w 31 1 = loneBit l := field_of hw fits 7
  have bits0 : bitsOf w 0 2 = 1 := field_of hw fits 0
  have bits2 : bitsOf w 2 7 = 0 := field_of hw fits 1
  have bits20 : bitsOf w 20 5 = 0 := field_of hw fits 5
  have field9 : fld w 9 1 = p := fld_of (field_of hw fits 2)
  have field10 : fld w 10 5 = b := fld_of (field_of hw fits 3)
  have field15 : fld w 15 5 = a := fld_of (field_of hw fits 4)
  refine ofC rfl rfl rfl word small fun wf x ext => ?_
  rw [decodeC27_of major (lone_of lone ext)]
  simp only [decodeC27, bits0, bits2, bits20, field9, field10, field15, zeros_nil, zeros_cons, checked, wf]

theorem Roundtrip.deal (l : Lone) (a : Reg) (b : Reg) (p : BitVec 1) : Statement (.deal l a b p) := by
  have fits : Fits [(2, 2), (7, 0), (1, p.toNat), (5, b.toNat), (5, a.toNat), (5, 0), (6, 0x27), (1, loneBit l)] := ⟨by decide, by decide, p.isLt, b.isLt, a.isLt, by decide, by decide, loneBit_lt l, trivial⟩
  obtain ⟨w, hw⟩ : ∃ w, w = pack [(2, 2), (7, 0), (1, p.toNat), (5, b.toNat), (5, a.toNat), (5, 0), (6, 0x27), (1, loneBit l)] := ⟨_, rfl⟩
  have word : encodeWord (.deal l a b p) = some w := by rw [hw]; rfl
  have small : w < 2 ^ 32 := lt_of hw fits
  have major : bitsOf w 25 6 = 39 := field_of hw fits 6
  have lone : bitsOf w 31 1 = loneBit l := field_of hw fits 7
  have bits0 : bitsOf w 0 2 = 2 := field_of hw fits 0
  have bits2 : bitsOf w 2 7 = 0 := field_of hw fits 1
  have bits20 : bitsOf w 20 5 = 0 := field_of hw fits 5
  have field9 : fld w 9 1 = p := fld_of (field_of hw fits 2)
  have field10 : fld w 10 5 = b := fld_of (field_of hw fits 3)
  have field15 : fld w 15 5 = a := fld_of (field_of hw fits 4)
  refine ofC rfl rfl rfl word small fun wf x ext => ?_
  rw [decodeC27_of major (lone_of lone ext)]
  simp only [decodeC27, bits0, bits2, bits20, field9, field10, field15, zeros_nil, zeros_cons, checked, wf]

theorem Roundtrip.gath (l : Lone) (a : Reg) (b : Reg) (p : BitVec 1) : Statement (.gath l a b p) := by
  have fits : Fits [(2, 3), (7, 0), (1, p.toNat), (5, b.toNat), (5, a.toNat), (5, 0), (6, 0x27), (1, loneBit l)] := ⟨by decide, by decide, p.isLt, b.isLt, a.isLt, by decide, by decide, loneBit_lt l, trivial⟩
  obtain ⟨w, hw⟩ : ∃ w, w = pack [(2, 3), (7, 0), (1, p.toNat), (5, b.toNat), (5, a.toNat), (5, 0), (6, 0x27), (1, loneBit l)] := ⟨_, rfl⟩
  have word : encodeWord (.gath l a b p) = some w := by rw [hw]; rfl
  have small : w < 2 ^ 32 := lt_of hw fits
  have major : bitsOf w 25 6 = 39 := field_of hw fits 6
  have lone : bitsOf w 31 1 = loneBit l := field_of hw fits 7
  have bits0 : bitsOf w 0 2 = 3 := field_of hw fits 0
  have bits2 : bitsOf w 2 7 = 0 := field_of hw fits 1
  have bits20 : bitsOf w 20 5 = 0 := field_of hw fits 5
  have field9 : fld w 9 1 = p := fld_of (field_of hw fits 2)
  have field10 : fld w 10 5 = b := fld_of (field_of hw fits 3)
  have field15 : fld w 15 5 = a := fld_of (field_of hw fits 4)
  refine ofC rfl rfl rfl word small fun wf x ext => ?_
  rw [decodeC27_of major (lone_of lone ext)]
  simp only [decodeC27, bits0, bits2, bits20, field9, field10, field15, zeros_nil, zeros_cons, checked, wf]

theorem Roundtrip.cpost (l : Lone) (a : Reg) (b : Reg) : Statement (.cpost l a b) := by
  have fits : Fits [(10, 0), (5, b.toNat), (5, a.toNat), (5, 0), (6, 0x28), (1, loneBit l)] := ⟨by decide, b.isLt, a.isLt, by decide, by decide, loneBit_lt l, trivial⟩
  obtain ⟨w, hw⟩ : ∃ w, w = pack [(10, 0), (5, b.toNat), (5, a.toNat), (5, 0), (6, 0x28), (1, loneBit l)] := ⟨_, rfl⟩
  have word : encodeWord (.cpost l a b) = some w := by rw [hw]; rfl
  have small : w < 2 ^ 32 := lt_of hw fits
  have major : bitsOf w 25 6 = 40 := field_of hw fits 4
  have lone : bitsOf w 31 1 = loneBit l := field_of hw fits 5
  have bits0 : bitsOf w 0 10 = 0 := field_of hw fits 0
  have bits20 : bitsOf w 20 5 = 0 := field_of hw fits 3
  have field10 : fld w 10 5 = b := fld_of (field_of hw fits 1)
  have field15 : fld w 15 5 = a := fld_of (field_of hw fits 2)
  refine ofC rfl rfl rfl word small fun wf x ext => ?_
  rw [decodeC28_of major (lone_of lone ext)]
  simp only [decodeC28, bits0, bits20, field10, field15, zeros_nil, zeros_cons, checked, wf]

theorem Roundtrip.fgload (l : Lone) (a : Reg) (b : Reg) : Statement (.fgload l a b) := by
  have fits : Fits [(10, 1), (5, b.toNat), (5, a.toNat), (5, 0), (6, 0x28), (1, loneBit l)] := ⟨by decide, b.isLt, a.isLt, by decide, by decide, loneBit_lt l, trivial⟩
  obtain ⟨w, hw⟩ : ∃ w, w = pack [(10, 1), (5, b.toNat), (5, a.toNat), (5, 0), (6, 0x28), (1, loneBit l)] := ⟨_, rfl⟩
  have word : encodeWord (.fgload l a b) = some w := by rw [hw]; rfl
  have small : w < 2 ^ 32 := lt_of hw fits
  have major : bitsOf w 25 6 = 40 := field_of hw fits 4
  have lone : bitsOf w 31 1 = loneBit l := field_of hw fits 5
  have bits0 : bitsOf w 0 10 = 1 := field_of hw fits 0
  have bits20 : bitsOf w 20 5 = 0 := field_of hw fits 3
  have field10 : fld w 10 5 = b := fld_of (field_of hw fits 1)
  have field15 : fld w 15 5 = a := fld_of (field_of hw fits 2)
  refine ofC rfl rfl rfl word small fun wf x ext => ?_
  rw [decodeC28_of major (lone_of lone ext)]
  simp only [decodeC28, bits0, bits20, field10, field15, zeros_nil, zeros_cons, checked, wf]

theorem Roundtrip.vclaim (l : Lone) (d : Reg) (a : Reg) (b : Reg) : Statement (.vclaim l d a b) := by
  have fits : Fits [(10, 0), (5, b.toNat), (5, a.toNat), (5, d.toNat), (6, 0x29), (1, loneBit l)] := ⟨by decide, b.isLt, a.isLt, d.isLt, by decide, loneBit_lt l, trivial⟩
  obtain ⟨w, hw⟩ : ∃ w, w = pack [(10, 0), (5, b.toNat), (5, a.toNat), (5, d.toNat), (6, 0x29), (1, loneBit l)] := ⟨_, rfl⟩
  have word : encodeWord (.vclaim l d a b) = some w := by rw [hw]; rfl
  have small : w < 2 ^ 32 := lt_of hw fits
  have major : bitsOf w 25 6 = 41 := field_of hw fits 4
  have lone : bitsOf w 31 1 = loneBit l := field_of hw fits 5
  have bits0 : bitsOf w 0 10 = 0 := field_of hw fits 0
  have field10 : fld w 10 5 = b := fld_of (field_of hw fits 1)
  have field15 : fld w 15 5 = a := fld_of (field_of hw fits 2)
  have field20 : fld w 20 5 = d := fld_of (field_of hw fits 3)
  refine ofC rfl rfl rfl word small fun wf x ext => ?_
  rw [decodeC29_of major (lone_of lone ext)]
  simp only [decodeC29, bits0, field10, field15, field20, checked, wf]

theorem Roundtrip.vrenew (l : Lone) (d : Reg) (a : Reg) (b : Reg) : Statement (.vrenew l d a b) := by
  have fits : Fits [(10, 1), (5, b.toNat), (5, a.toNat), (5, d.toNat), (6, 0x29), (1, loneBit l)] := ⟨by decide, b.isLt, a.isLt, d.isLt, by decide, loneBit_lt l, trivial⟩
  obtain ⟨w, hw⟩ : ∃ w, w = pack [(10, 1), (5, b.toNat), (5, a.toNat), (5, d.toNat), (6, 0x29), (1, loneBit l)] := ⟨_, rfl⟩
  have word : encodeWord (.vrenew l d a b) = some w := by rw [hw]; rfl
  have small : w < 2 ^ 32 := lt_of hw fits
  have major : bitsOf w 25 6 = 41 := field_of hw fits 4
  have lone : bitsOf w 31 1 = loneBit l := field_of hw fits 5
  have bits0 : bitsOf w 0 10 = 1 := field_of hw fits 0
  have field10 : fld w 10 5 = b := fld_of (field_of hw fits 1)
  have field15 : fld w 15 5 = a := fld_of (field_of hw fits 2)
  have field20 : fld w 20 5 = d := fld_of (field_of hw fits 3)
  refine ofC rfl rfl rfl word small fun wf x ext => ?_
  rw [decodeC29_of major (lone_of lone ext)]
  simp only [decodeC29, bits0, field10, field15, field20, checked, wf]

theorem Roundtrip.vrel (l : Lone) : Statement (.vrel l) := by
  have fits : Fits [(10, 2), (15, 0), (6, 0x29), (1, loneBit l)] := ⟨by decide, by decide, by decide, loneBit_lt l, trivial⟩
  obtain ⟨w, hw⟩ : ∃ w, w = pack [(10, 2), (15, 0), (6, 0x29), (1, loneBit l)] := ⟨_, rfl⟩
  have word : encodeWord (.vrel l) = some w := by rw [hw]; rfl
  have small : w < 2 ^ 32 := lt_of hw fits
  have major : bitsOf w 25 6 = 41 := field_of hw fits 2
  have lone : bitsOf w 31 1 = loneBit l := field_of hw fits 3
  have bits0 : bitsOf w 0 10 = 2 := field_of hw fits 0
  have bits10 : bitsOf w 10 15 = 0 := field_of hw fits 1
  refine ofC rfl rfl rfl word small fun wf x ext => ?_
  rw [decodeC29_of major (lone_of lone ext)]
  simp only [decodeC29, bits0, bits10, zeros_nil, zeros_cons, checked, wf]

theorem Roundtrip.vloop (l : Lone) (n : BitVec 5) (a : Reg) : Statement (.vloop l n a) := by
  have fits : Fits [(10, 3), (5, 0), (5, a.toNat), (5, n.toNat), (6, 0x29), (1, loneBit l)] := ⟨by decide, by decide, a.isLt, n.isLt, by decide, loneBit_lt l, trivial⟩
  obtain ⟨w, hw⟩ : ∃ w, w = pack [(10, 3), (5, 0), (5, a.toNat), (5, n.toNat), (6, 0x29), (1, loneBit l)] := ⟨_, rfl⟩
  have word : encodeWord (.vloop l n a) = some w := by rw [hw]; rfl
  have small : w < 2 ^ 32 := lt_of hw fits
  have major : bitsOf w 25 6 = 41 := field_of hw fits 4
  have lone : bitsOf w 31 1 = loneBit l := field_of hw fits 5
  have bits0 : bitsOf w 0 10 = 3 := field_of hw fits 0
  have bits10 : bitsOf w 10 5 = 0 := field_of hw fits 1
  have field15 : fld w 15 5 = a := fld_of (field_of hw fits 2)
  have field20 : fld w 20 5 = n := fld_of (field_of hw fits 3)
  refine ofC rfl rfl rfl word small fun wf x ext => ?_
  rw [decodeC29_of major (lone_of lone ext)]
  simp only [decodeC29, bits0, bits10, field15, field20, zeros_nil, zeros_cons, checked, wf]

theorem Roundtrip.vbind (l : Lone) (a : Reg) : Statement (.vbind l a) := by
  have fits : Fits [(10, 4), (5, 0), (5, a.toNat), (5, 0), (6, 0x29), (1, loneBit l)] := ⟨by decide, by decide, a.isLt, by decide, by decide, loneBit_lt l, trivial⟩
  obtain ⟨w, hw⟩ : ∃ w, w = pack [(10, 4), (5, 0), (5, a.toNat), (5, 0), (6, 0x29), (1, loneBit l)] := ⟨_, rfl⟩
  have word : encodeWord (.vbind l a) = some w := by rw [hw]; rfl
  have small : w < 2 ^ 32 := lt_of hw fits
  have major : bitsOf w 25 6 = 41 := field_of hw fits 4
  have lone : bitsOf w 31 1 = loneBit l := field_of hw fits 5
  have bits0 : bitsOf w 0 10 = 4 := field_of hw fits 0
  have bits10 : bitsOf w 10 5 = 0 := field_of hw fits 1
  have bits20 : bitsOf w 20 5 = 0 := field_of hw fits 3
  have field15 : fld w 15 5 = a := fld_of (field_of hw fits 2)
  refine ofC rfl rfl rfl word small fun wf x ext => ?_
  rw [decodeC29_of major (lone_of lone ext)]
  simp only [decodeC29, bits0, bits10, bits20, field15, zeros_nil, zeros_cons, checked, wf]

theorem Roundtrip.vunbind (l : Lone) (a : Reg) : Statement (.vunbind l a) := by
  have fits : Fits [(10, 5), (5, 0), (5, a.toNat), (5, 0), (6, 0x29), (1, loneBit l)] := ⟨by decide, by decide, a.isLt, by decide, by decide, loneBit_lt l, trivial⟩
  obtain ⟨w, hw⟩ : ∃ w, w = pack [(10, 5), (5, 0), (5, a.toNat), (5, 0), (6, 0x29), (1, loneBit l)] := ⟨_, rfl⟩
  have word : encodeWord (.vunbind l a) = some w := by rw [hw]; rfl
  have small : w < 2 ^ 32 := lt_of hw fits
  have major : bitsOf w 25 6 = 41 := field_of hw fits 4
  have lone : bitsOf w 31 1 = loneBit l := field_of hw fits 5
  have bits0 : bitsOf w 0 10 = 5 := field_of hw fits 0
  have bits10 : bitsOf w 10 5 = 0 := field_of hw fits 1
  have bits20 : bitsOf w 20 5 = 0 := field_of hw fits 3
  have field15 : fld w 15 5 = a := fld_of (field_of hw fits 2)
  refine ofC rfl rfl rfl word small fun wf x ext => ?_
  rw [decodeC29_of major (lone_of lone ext)]
  simp only [decodeC29, bits0, bits10, bits20, field15, zeros_nil, zeros_cons, checked, wf]

theorem Roundtrip.lic (l : Lone) (d : Reg) (i : BitVec 15) : Statement (.lic l d i) := by
  have fits : Fits [(15, i.toNat), (5, 0), (5, d.toNat), (6, 0x2A), (1, loneBit l)] := ⟨i.isLt, by decide, d.isLt, by decide, loneBit_lt l, trivial⟩
  obtain ⟨w, hw⟩ : ∃ w, w = pack [(15, i.toNat), (5, 0), (5, d.toNat), (6, 0x2A), (1, loneBit l)] := ⟨_, rfl⟩
  have word : encodeWord (.lic l d i) = some w := by rw [hw]; rfl
  have small : w < 2 ^ 32 := lt_of hw fits
  have major : bitsOf w 25 6 = 42 := field_of hw fits 3
  have lone : bitsOf w 31 1 = loneBit l := field_of hw fits 4
  have bits15 : bitsOf w 15 5 = 0 := field_of hw fits 1
  have field0 : fld w 0 15 = i := fld_of (field_of hw fits 0)
  have field20 : fld w 20 5 = d := fld_of (field_of hw fits 2)
  refine ofC rfl rfl rfl word small fun wf x ext => ?_
  rw [decodeC2A_of major (lone_of lone ext)]
  simp only [decodeC2A, bits15, field0, field20, zeros_nil, zeros_cons, checked, wf]

theorem Roundtrip.ldnS (l : Lone) (d : Reg) (a : Reg) (b : Reg) (ord : MemOrder) (sc : BitVec 3) : Statement (.ldnS l d a b ord sc) := by
  have fits : Fits [(3, 0), (2, 0), (3, sc.toNat), (2, ord.code.toNat), (5, b.toNat), (5, a.toNat), (5, d.toNat), (6, 0x2B), (1, loneBit l)] := ⟨by decide, by decide, sc.isLt, ord.code.isLt, b.isLt, a.isLt, d.isLt, by decide, loneBit_lt l, trivial⟩
  obtain ⟨w, hw⟩ : ∃ w, w = pack [(3, 0), (2, 0), (3, sc.toNat), (2, ord.code.toNat), (5, b.toNat), (5, a.toNat), (5, d.toNat), (6, 0x2B), (1, loneBit l)] := ⟨_, rfl⟩
  have word : encodeWord (.ldnS l d a b ord sc) = some w := by rw [hw]; rfl
  have small : w < 2 ^ 32 := lt_of hw fits
  have major : bitsOf w 25 6 = 43 := field_of hw fits 7
  have lone : bitsOf w 31 1 = loneBit l := field_of hw fits 8
  have bits0 : bitsOf w 0 3 = 0 := field_of hw fits 0
  have bits3 : bitsOf w 3 2 = 0 := field_of hw fits 1
  have field5 : fld w 5 3 = sc := fld_of (field_of hw fits 2)
  have field8 : fld w 8 2 = ord.code := fld_of (field_of hw fits 3)
  have field10 : fld w 10 5 = b := fld_of (field_of hw fits 4)
  have field15 : fld w 15 5 = a := fld_of (field_of hw fits 5)
  have field20 : fld w 20 5 = d := fld_of (field_of hw fits 6)
  refine ofC rfl rfl rfl word small fun wf x ext => ?_
  rw [decodeC2B_of major (lone_of lone ext)]
  simp only [decodeC2B, bits0, bits3, field5, field8, field10, field15, field20, zeros_nil, zeros_cons, ofCode_code, checked, wf]

theorem Roundtrip.ldnN (l : Lone) (d : Reg) (a : Reg) (b : Reg) (ord : MemOrder) (sc : BitVec 3) : Statement (.ldnN l d a b ord sc) := by
  have fits : Fits [(3, 0), (2, 1), (3, sc.toNat), (2, ord.code.toNat), (5, b.toNat), (5, a.toNat), (5, d.toNat), (6, 0x2B), (1, loneBit l)] := ⟨by decide, by decide, sc.isLt, ord.code.isLt, b.isLt, a.isLt, d.isLt, by decide, loneBit_lt l, trivial⟩
  obtain ⟨w, hw⟩ : ∃ w, w = pack [(3, 0), (2, 1), (3, sc.toNat), (2, ord.code.toNat), (5, b.toNat), (5, a.toNat), (5, d.toNat), (6, 0x2B), (1, loneBit l)] := ⟨_, rfl⟩
  have word : encodeWord (.ldnN l d a b ord sc) = some w := by rw [hw]; rfl
  have small : w < 2 ^ 32 := lt_of hw fits
  have major : bitsOf w 25 6 = 43 := field_of hw fits 7
  have lone : bitsOf w 31 1 = loneBit l := field_of hw fits 8
  have bits0 : bitsOf w 0 3 = 0 := field_of hw fits 0
  have bits3 : bitsOf w 3 2 = 1 := field_of hw fits 1
  have field5 : fld w 5 3 = sc := fld_of (field_of hw fits 2)
  have field8 : fld w 8 2 = ord.code := fld_of (field_of hw fits 3)
  have field10 : fld w 10 5 = b := fld_of (field_of hw fits 4)
  have field15 : fld w 15 5 = a := fld_of (field_of hw fits 5)
  have field20 : fld w 20 5 = d := fld_of (field_of hw fits 6)
  refine ofC rfl rfl rfl word small fun wf x ext => ?_
  rw [decodeC2B_of major (lone_of lone ext)]
  simp only [decodeC2B, bits0, bits3, field5, field8, field10, field15, field20, zeros_nil, zeros_cons, ofCode_code, checked, wf]

theorem Roundtrip.stn (l : Lone) (d : Reg) (a : Reg) (b : Reg) (ord : MemOrder) (sc : BitVec 3) : Statement (.stn l d a b ord sc) := by
  have fits : Fits [(3, 0), (2, 2), (3, sc.toNat), (2, ord.code.toNat), (5, b.toNat), (5, a.toNat), (5, d.toNat), (6, 0x2B), (1, loneBit l)] := ⟨by decide, by decide, sc.isLt, ord.code.isLt, b.isLt, a.isLt, d.isLt, by decide, loneBit_lt l, trivial⟩
  obtain ⟨w, hw⟩ : ∃ w, w = pack [(3, 0), (2, 2), (3, sc.toNat), (2, ord.code.toNat), (5, b.toNat), (5, a.toNat), (5, d.toNat), (6, 0x2B), (1, loneBit l)] := ⟨_, rfl⟩
  have word : encodeWord (.stn l d a b ord sc) = some w := by rw [hw]; rfl
  have small : w < 2 ^ 32 := lt_of hw fits
  have major : bitsOf w 25 6 = 43 := field_of hw fits 7
  have lone : bitsOf w 31 1 = loneBit l := field_of hw fits 8
  have bits0 : bitsOf w 0 3 = 0 := field_of hw fits 0
  have bits3 : bitsOf w 3 2 = 2 := field_of hw fits 1
  have field5 : fld w 5 3 = sc := fld_of (field_of hw fits 2)
  have field8 : fld w 8 2 = ord.code := fld_of (field_of hw fits 3)
  have field10 : fld w 10 5 = b := fld_of (field_of hw fits 4)
  have field15 : fld w 15 5 = a := fld_of (field_of hw fits 5)
  have field20 : fld w 20 5 = d := fld_of (field_of hw fits 6)
  refine ofC rfl rfl rfl word small fun wf x ext => ?_
  rw [decodeC2B_of major (lone_of lone ext)]
  simp only [decodeC2B, bits0, bits3, field5, field8, field10, field15, field20, zeros_nil, zeros_cons, ofCode_code, checked, wf]

theorem Roundtrip.sgen (l : Lone) (a : Reg) (b : Reg) : Statement (.sgen l a b) := by
  have fits : Fits [(10, 0), (5, b.toNat), (5, a.toNat), (5, 0), (6, 0x2C), (1, loneBit l)] := ⟨by decide, b.isLt, a.isLt, by decide, by decide, loneBit_lt l, trivial⟩
  obtain ⟨w, hw⟩ : ∃ w, w = pack [(10, 0), (5, b.toNat), (5, a.toNat), (5, 0), (6, 0x2C), (1, loneBit l)] := ⟨_, rfl⟩
  have word : encodeWord (.sgen l a b) = some w := by rw [hw]; rfl
  have small : w < 2 ^ 32 := lt_of hw fits
  have major : bitsOf w 25 6 = 44 := field_of hw fits 4
  have lone : bitsOf w 31 1 = loneBit l := field_of hw fits 5
  have bits0 : bitsOf w 0 10 = 0 := field_of hw fits 0
  have bits20 : bitsOf w 20 5 = 0 := field_of hw fits 3
  have field10 : fld w 10 5 = b := fld_of (field_of hw fits 1)
  have field15 : fld w 15 5 = a := fld_of (field_of hw fits 2)
  refine ofC rfl rfl rfl word small fun wf x ext => ?_
  rw [decodeC2C_of major (lone_of lone ext)]
  simp only [decodeC2C, bits0, bits20, field10, field15, zeros_nil, zeros_cons, checked, wf]

theorem Roundtrip.srun (l : Lone) (a : Reg) : Statement (.srun l a) := by
  have fits : Fits [(10, 1), (5, 0), (5, a.toNat), (5, 0), (6, 0x2C), (1, loneBit l)] := ⟨by decide, by decide, a.isLt, by decide, by decide, loneBit_lt l, trivial⟩
  obtain ⟨w, hw⟩ : ∃ w, w = pack [(10, 1), (5, 0), (5, a.toNat), (5, 0), (6, 0x2C), (1, loneBit l)] := ⟨_, rfl⟩
  have word : encodeWord (.srun l a) = some w := by rw [hw]; rfl
  have small : w < 2 ^ 32 := lt_of hw fits
  have major : bitsOf w 25 6 = 44 := field_of hw fits 4
  have lone : bitsOf w 31 1 = loneBit l := field_of hw fits 5
  have bits0 : bitsOf w 0 10 = 1 := field_of hw fits 0
  have bits10 : bitsOf w 10 5 = 0 := field_of hw fits 1
  have bits20 : bitsOf w 20 5 = 0 := field_of hw fits 3
  have field15 : fld w 15 5 = a := fld_of (field_of hw fits 2)
  refine ofC rfl rfl rfl word small fun wf x ext => ?_
  rw [decodeC2C_of major (lone_of lone ext)]
  simp only [decodeC2C, bits0, bits10, bits20, field15, zeros_nil, zeros_cons, checked, wf]

theorem Roundtrip.sstat (l : Lone) (d : Reg) (a : Reg) : Statement (.sstat l d a) := by
  have fits : Fits [(10, 2), (5, 0), (5, a.toNat), (5, d.toNat), (6, 0x2C), (1, loneBit l)] := ⟨by decide, by decide, a.isLt, d.isLt, by decide, loneBit_lt l, trivial⟩
  obtain ⟨w, hw⟩ : ∃ w, w = pack [(10, 2), (5, 0), (5, a.toNat), (5, d.toNat), (6, 0x2C), (1, loneBit l)] := ⟨_, rfl⟩
  have word : encodeWord (.sstat l d a) = some w := by rw [hw]; rfl
  have small : w < 2 ^ 32 := lt_of hw fits
  have major : bitsOf w 25 6 = 44 := field_of hw fits 4
  have lone : bitsOf w 31 1 = loneBit l := field_of hw fits 5
  have bits0 : bitsOf w 0 10 = 2 := field_of hw fits 0
  have bits10 : bitsOf w 10 5 = 0 := field_of hw fits 1
  have field15 : fld w 15 5 = a := fld_of (field_of hw fits 2)
  have field20 : fld w 20 5 = d := fld_of (field_of hw fits 3)
  refine ofC rfl rfl rfl word small fun wf x ext => ?_
  rw [decodeC2C_of major (lone_of lone ext)]
  simp only [decodeC2C, bits0, bits10, field15, field20, zeros_nil, zeros_cons, checked, wf]

theorem Roundtrip.hload (l : Lone) (a : Reg) (b : Reg) : Statement (.hload l a b) := by
  have fits : Fits [(10, 3), (5, b.toNat), (5, a.toNat), (5, 0), (6, 0x2C), (1, loneBit l)] := ⟨by decide, b.isLt, a.isLt, by decide, by decide, loneBit_lt l, trivial⟩
  obtain ⟨w, hw⟩ : ∃ w, w = pack [(10, 3), (5, b.toNat), (5, a.toNat), (5, 0), (6, 0x2C), (1, loneBit l)] := ⟨_, rfl⟩
  have word : encodeWord (.hload l a b) = some w := by rw [hw]; rfl
  have small : w < 2 ^ 32 := lt_of hw fits
  have major : bitsOf w 25 6 = 44 := field_of hw fits 4
  have lone : bitsOf w 31 1 = loneBit l := field_of hw fits 5
  have bits0 : bitsOf w 0 10 = 3 := field_of hw fits 0
  have bits20 : bitsOf w 20 5 = 0 := field_of hw fits 3
  have field10 : fld w 10 5 = b := fld_of (field_of hw fits 1)
  have field15 : fld w 15 5 = a := fld_of (field_of hw fits 2)
  refine ofC rfl rfl rfl word small fun wf x ext => ?_
  rw [decodeC2C_of major (lone_of lone ext)]
  simp only [decodeC2C, bits0, bits20, field10, field15, zeros_nil, zeros_cons, checked, wf]

theorem Roundtrip.hstart (l : Lone) (a : Reg) (b : Reg) : Statement (.hstart l a b) := by
  have fits : Fits [(10, 4), (5, b.toNat), (5, a.toNat), (5, 0), (6, 0x2C), (1, loneBit l)] := ⟨by decide, b.isLt, a.isLt, by decide, by decide, loneBit_lt l, trivial⟩
  obtain ⟨w, hw⟩ : ∃ w, w = pack [(10, 4), (5, b.toNat), (5, a.toNat), (5, 0), (6, 0x2C), (1, loneBit l)] := ⟨_, rfl⟩
  have word : encodeWord (.hstart l a b) = some w := by rw [hw]; rfl
  have small : w < 2 ^ 32 := lt_of hw fits
  have major : bitsOf w 25 6 = 44 := field_of hw fits 4
  have lone : bitsOf w 31 1 = loneBit l := field_of hw fits 5
  have bits0 : bitsOf w 0 10 = 4 := field_of hw fits 0
  have bits20 : bitsOf w 20 5 = 0 := field_of hw fits 3
  have field10 : fld w 10 5 = b := fld_of (field_of hw fits 1)
  have field15 : fld w 15 5 = a := fld_of (field_of hw fits 2)
  refine ofC rfl rfl rfl word small fun wf x ext => ?_
  rw [decodeC2C_of major (lone_of lone ext)]
  simp only [decodeC2C, bits0, bits20, field10, field15, zeros_nil, zeros_cons, checked, wf]

theorem Roundtrip.anop : Statement (.anop) := by
  refine ofA rfl rfl rfl rfl (by decide) (fun _ => rfl)

theorem Roundtrip.add (d : Reg) (a : Reg) (b : Reg) : Statement (.add d a b) := by
  have fits : Fits [(11, 0), (5, b.toNat), (5, a.toNat), (5, d.toNat), (6, 0x01)] := ⟨by decide, b.isLt, a.isLt, d.isLt, by decide, trivial⟩
  obtain ⟨w, hw⟩ : ∃ w, w = pack [(11, 0), (5, b.toNat), (5, a.toNat), (5, d.toNat), (6, 0x01)] := ⟨_, rfl⟩
  have word : encodeWord (.add d a b) = some w := by rw [hw]; rfl
  have small : w < 2 ^ 32 := lt_of hw fits
  have major : bitsOf w 26 6 = 1 := field_of hw fits 4
  have bits0 : bitsOf w 0 11 = 0 := field_of hw fits 0
  have field11 : fld w 11 5 = b := fld_of (field_of hw fits 1)
  have field16 : fld w 16 5 = a := fld_of (field_of hw fits 2)
  have field21 : fld w 21 5 = d := fld_of (field_of hw fits 3)
  refine ofA rfl rfl rfl word small fun wf => ?_
  rw [decodeA01_of major]
  simp only [decodeA01, bits0, field11, field16, field21, checked, wf]

theorem Roundtrip.sub (d : Reg) (a : Reg) (b : Reg) : Statement (.sub d a b) := by
  have fits : Fits [(11, 1), (5, b.toNat), (5, a.toNat), (5, d.toNat), (6, 0x01)] := ⟨by decide, b.isLt, a.isLt, d.isLt, by decide, trivial⟩
  obtain ⟨w, hw⟩ : ∃ w, w = pack [(11, 1), (5, b.toNat), (5, a.toNat), (5, d.toNat), (6, 0x01)] := ⟨_, rfl⟩
  have word : encodeWord (.sub d a b) = some w := by rw [hw]; rfl
  have small : w < 2 ^ 32 := lt_of hw fits
  have major : bitsOf w 26 6 = 1 := field_of hw fits 4
  have bits0 : bitsOf w 0 11 = 1 := field_of hw fits 0
  have field11 : fld w 11 5 = b := fld_of (field_of hw fits 1)
  have field16 : fld w 16 5 = a := fld_of (field_of hw fits 2)
  have field21 : fld w 21 5 = d := fld_of (field_of hw fits 3)
  refine ofA rfl rfl rfl word small fun wf => ?_
  rw [decodeA01_of major]
  simp only [decodeA01, bits0, field11, field16, field21, checked, wf]

theorem Roundtrip.andR (d : Reg) (a : Reg) (b : Reg) : Statement (.andR d a b) := by
  have fits : Fits [(11, 2), (5, b.toNat), (5, a.toNat), (5, d.toNat), (6, 0x01)] := ⟨by decide, b.isLt, a.isLt, d.isLt, by decide, trivial⟩
  obtain ⟨w, hw⟩ : ∃ w, w = pack [(11, 2), (5, b.toNat), (5, a.toNat), (5, d.toNat), (6, 0x01)] := ⟨_, rfl⟩
  have word : encodeWord (.andR d a b) = some w := by rw [hw]; rfl
  have small : w < 2 ^ 32 := lt_of hw fits
  have major : bitsOf w 26 6 = 1 := field_of hw fits 4
  have bits0 : bitsOf w 0 11 = 2 := field_of hw fits 0
  have field11 : fld w 11 5 = b := fld_of (field_of hw fits 1)
  have field16 : fld w 16 5 = a := fld_of (field_of hw fits 2)
  have field21 : fld w 21 5 = d := fld_of (field_of hw fits 3)
  refine ofA rfl rfl rfl word small fun wf => ?_
  rw [decodeA01_of major]
  simp only [decodeA01, bits0, field11, field16, field21, checked, wf]

theorem Roundtrip.orR (d : Reg) (a : Reg) (b : Reg) : Statement (.orR d a b) := by
  have fits : Fits [(11, 3), (5, b.toNat), (5, a.toNat), (5, d.toNat), (6, 0x01)] := ⟨by decide, b.isLt, a.isLt, d.isLt, by decide, trivial⟩
  obtain ⟨w, hw⟩ : ∃ w, w = pack [(11, 3), (5, b.toNat), (5, a.toNat), (5, d.toNat), (6, 0x01)] := ⟨_, rfl⟩
  have word : encodeWord (.orR d a b) = some w := by rw [hw]; rfl
  have small : w < 2 ^ 32 := lt_of hw fits
  have major : bitsOf w 26 6 = 1 := field_of hw fits 4
  have bits0 : bitsOf w 0 11 = 3 := field_of hw fits 0
  have field11 : fld w 11 5 = b := fld_of (field_of hw fits 1)
  have field16 : fld w 16 5 = a := fld_of (field_of hw fits 2)
  have field21 : fld w 21 5 = d := fld_of (field_of hw fits 3)
  refine ofA rfl rfl rfl word small fun wf => ?_
  rw [decodeA01_of major]
  simp only [decodeA01, bits0, field11, field16, field21, checked, wf]

theorem Roundtrip.xor (d : Reg) (a : Reg) (b : Reg) : Statement (.xor d a b) := by
  have fits : Fits [(11, 4), (5, b.toNat), (5, a.toNat), (5, d.toNat), (6, 0x01)] := ⟨by decide, b.isLt, a.isLt, d.isLt, by decide, trivial⟩
  obtain ⟨w, hw⟩ : ∃ w, w = pack [(11, 4), (5, b.toNat), (5, a.toNat), (5, d.toNat), (6, 0x01)] := ⟨_, rfl⟩
  have word : encodeWord (.xor d a b) = some w := by rw [hw]; rfl
  have small : w < 2 ^ 32 := lt_of hw fits
  have major : bitsOf w 26 6 = 1 := field_of hw fits 4
  have bits0 : bitsOf w 0 11 = 4 := field_of hw fits 0
  have field11 : fld w 11 5 = b := fld_of (field_of hw fits 1)
  have field16 : fld w 16 5 = a := fld_of (field_of hw fits 2)
  have field21 : fld w 21 5 = d := fld_of (field_of hw fits 3)
  refine ofA rfl rfl rfl word small fun wf => ?_
  rw [decodeA01_of major]
  simp only [decodeA01, bits0, field11, field16, field21, checked, wf]

theorem Roundtrip.andn (d : Reg) (a : Reg) (b : Reg) : Statement (.andn d a b) := by
  have fits : Fits [(11, 5), (5, b.toNat), (5, a.toNat), (5, d.toNat), (6, 0x01)] := ⟨by decide, b.isLt, a.isLt, d.isLt, by decide, trivial⟩
  obtain ⟨w, hw⟩ : ∃ w, w = pack [(11, 5), (5, b.toNat), (5, a.toNat), (5, d.toNat), (6, 0x01)] := ⟨_, rfl⟩
  have word : encodeWord (.andn d a b) = some w := by rw [hw]; rfl
  have small : w < 2 ^ 32 := lt_of hw fits
  have major : bitsOf w 26 6 = 1 := field_of hw fits 4
  have bits0 : bitsOf w 0 11 = 5 := field_of hw fits 0
  have field11 : fld w 11 5 = b := fld_of (field_of hw fits 1)
  have field16 : fld w 16 5 = a := fld_of (field_of hw fits 2)
  have field21 : fld w 21 5 = d := fld_of (field_of hw fits 3)
  refine ofA rfl rfl rfl word small fun wf => ?_
  rw [decodeA01_of major]
  simp only [decodeA01, bits0, field11, field16, field21, checked, wf]

theorem Roundtrip.sll (d : Reg) (a : Reg) (b : Reg) : Statement (.sll d a b) := by
  have fits : Fits [(11, 6), (5, b.toNat), (5, a.toNat), (5, d.toNat), (6, 0x01)] := ⟨by decide, b.isLt, a.isLt, d.isLt, by decide, trivial⟩
  obtain ⟨w, hw⟩ : ∃ w, w = pack [(11, 6), (5, b.toNat), (5, a.toNat), (5, d.toNat), (6, 0x01)] := ⟨_, rfl⟩
  have word : encodeWord (.sll d a b) = some w := by rw [hw]; rfl
  have small : w < 2 ^ 32 := lt_of hw fits
  have major : bitsOf w 26 6 = 1 := field_of hw fits 4
  have bits0 : bitsOf w 0 11 = 6 := field_of hw fits 0
  have field11 : fld w 11 5 = b := fld_of (field_of hw fits 1)
  have field16 : fld w 16 5 = a := fld_of (field_of hw fits 2)
  have field21 : fld w 21 5 = d := fld_of (field_of hw fits 3)
  refine ofA rfl rfl rfl word small fun wf => ?_
  rw [decodeA01_of major]
  simp only [decodeA01, bits0, field11, field16, field21, checked, wf]

theorem Roundtrip.srl (d : Reg) (a : Reg) (b : Reg) : Statement (.srl d a b) := by
  have fits : Fits [(11, 7), (5, b.toNat), (5, a.toNat), (5, d.toNat), (6, 0x01)] := ⟨by decide, b.isLt, a.isLt, d.isLt, by decide, trivial⟩
  obtain ⟨w, hw⟩ : ∃ w, w = pack [(11, 7), (5, b.toNat), (5, a.toNat), (5, d.toNat), (6, 0x01)] := ⟨_, rfl⟩
  have word : encodeWord (.srl d a b) = some w := by rw [hw]; rfl
  have small : w < 2 ^ 32 := lt_of hw fits
  have major : bitsOf w 26 6 = 1 := field_of hw fits 4
  have bits0 : bitsOf w 0 11 = 7 := field_of hw fits 0
  have field11 : fld w 11 5 = b := fld_of (field_of hw fits 1)
  have field16 : fld w 16 5 = a := fld_of (field_of hw fits 2)
  have field21 : fld w 21 5 = d := fld_of (field_of hw fits 3)
  refine ofA rfl rfl rfl word small fun wf => ?_
  rw [decodeA01_of major]
  simp only [decodeA01, bits0, field11, field16, field21, checked, wf]

theorem Roundtrip.sra (d : Reg) (a : Reg) (b : Reg) : Statement (.sra d a b) := by
  have fits : Fits [(11, 8), (5, b.toNat), (5, a.toNat), (5, d.toNat), (6, 0x01)] := ⟨by decide, b.isLt, a.isLt, d.isLt, by decide, trivial⟩
  obtain ⟨w, hw⟩ : ∃ w, w = pack [(11, 8), (5, b.toNat), (5, a.toNat), (5, d.toNat), (6, 0x01)] := ⟨_, rfl⟩
  have word : encodeWord (.sra d a b) = some w := by rw [hw]; rfl
  have small : w < 2 ^ 32 := lt_of hw fits
  have major : bitsOf w 26 6 = 1 := field_of hw fits 4
  have bits0 : bitsOf w 0 11 = 8 := field_of hw fits 0
  have field11 : fld w 11 5 = b := fld_of (field_of hw fits 1)
  have field16 : fld w 16 5 = a := fld_of (field_of hw fits 2)
  have field21 : fld w 21 5 = d := fld_of (field_of hw fits 3)
  refine ofA rfl rfl rfl word small fun wf => ?_
  rw [decodeA01_of major]
  simp only [decodeA01, bits0, field11, field16, field21, checked, wf]

theorem Roundtrip.rol (d : Reg) (a : Reg) (b : Reg) : Statement (.rol d a b) := by
  have fits : Fits [(11, 9), (5, b.toNat), (5, a.toNat), (5, d.toNat), (6, 0x01)] := ⟨by decide, b.isLt, a.isLt, d.isLt, by decide, trivial⟩
  obtain ⟨w, hw⟩ : ∃ w, w = pack [(11, 9), (5, b.toNat), (5, a.toNat), (5, d.toNat), (6, 0x01)] := ⟨_, rfl⟩
  have word : encodeWord (.rol d a b) = some w := by rw [hw]; rfl
  have small : w < 2 ^ 32 := lt_of hw fits
  have major : bitsOf w 26 6 = 1 := field_of hw fits 4
  have bits0 : bitsOf w 0 11 = 9 := field_of hw fits 0
  have field11 : fld w 11 5 = b := fld_of (field_of hw fits 1)
  have field16 : fld w 16 5 = a := fld_of (field_of hw fits 2)
  have field21 : fld w 21 5 = d := fld_of (field_of hw fits 3)
  refine ofA rfl rfl rfl word small fun wf => ?_
  rw [decodeA01_of major]
  simp only [decodeA01, bits0, field11, field16, field21, checked, wf]

theorem Roundtrip.addw (d : Reg) (a : Reg) (b : Reg) : Statement (.addw d a b) := by
  have fits : Fits [(11, 10), (5, b.toNat), (5, a.toNat), (5, d.toNat), (6, 0x01)] := ⟨by decide, b.isLt, a.isLt, d.isLt, by decide, trivial⟩
  obtain ⟨w, hw⟩ : ∃ w, w = pack [(11, 10), (5, b.toNat), (5, a.toNat), (5, d.toNat), (6, 0x01)] := ⟨_, rfl⟩
  have word : encodeWord (.addw d a b) = some w := by rw [hw]; rfl
  have small : w < 2 ^ 32 := lt_of hw fits
  have major : bitsOf w 26 6 = 1 := field_of hw fits 4
  have bits0 : bitsOf w 0 11 = 10 := field_of hw fits 0
  have field11 : fld w 11 5 = b := fld_of (field_of hw fits 1)
  have field16 : fld w 16 5 = a := fld_of (field_of hw fits 2)
  have field21 : fld w 21 5 = d := fld_of (field_of hw fits 3)
  refine ofA rfl rfl rfl word small fun wf => ?_
  rw [decodeA01_of major]
  simp only [decodeA01, bits0, field11, field16, field21, checked, wf]

theorem Roundtrip.subw (d : Reg) (a : Reg) (b : Reg) : Statement (.subw d a b) := by
  have fits : Fits [(11, 11), (5, b.toNat), (5, a.toNat), (5, d.toNat), (6, 0x01)] := ⟨by decide, b.isLt, a.isLt, d.isLt, by decide, trivial⟩
  obtain ⟨w, hw⟩ : ∃ w, w = pack [(11, 11), (5, b.toNat), (5, a.toNat), (5, d.toNat), (6, 0x01)] := ⟨_, rfl⟩
  have word : encodeWord (.subw d a b) = some w := by rw [hw]; rfl
  have small : w < 2 ^ 32 := lt_of hw fits
  have major : bitsOf w 26 6 = 1 := field_of hw fits 4
  have bits0 : bitsOf w 0 11 = 11 := field_of hw fits 0
  have field11 : fld w 11 5 = b := fld_of (field_of hw fits 1)
  have field16 : fld w 16 5 = a := fld_of (field_of hw fits 2)
  have field21 : fld w 21 5 = d := fld_of (field_of hw fits 3)
  refine ofA rfl rfl rfl word small fun wf => ?_
  rw [decodeA01_of major]
  simp only [decodeA01, bits0, field11, field16, field21, checked, wf]

theorem Roundtrip.addsS (d : Reg) (a : Reg) (b : Reg) : Statement (.addsS d a b) := by
  have fits : Fits [(11, 12), (5, b.toNat), (5, a.toNat), (5, d.toNat), (6, 0x01)] := ⟨by decide, b.isLt, a.isLt, d.isLt, by decide, trivial⟩
  obtain ⟨w, hw⟩ : ∃ w, w = pack [(11, 12), (5, b.toNat), (5, a.toNat), (5, d.toNat), (6, 0x01)] := ⟨_, rfl⟩
  have word : encodeWord (.addsS d a b) = some w := by rw [hw]; rfl
  have small : w < 2 ^ 32 := lt_of hw fits
  have major : bitsOf w 26 6 = 1 := field_of hw fits 4
  have bits0 : bitsOf w 0 11 = 12 := field_of hw fits 0
  have field11 : fld w 11 5 = b := fld_of (field_of hw fits 1)
  have field16 : fld w 16 5 = a := fld_of (field_of hw fits 2)
  have field21 : fld w 21 5 = d := fld_of (field_of hw fits 3)
  refine ofA rfl rfl rfl word small fun wf => ?_
  rw [decodeA01_of major]
  simp only [decodeA01, bits0, field11, field16, field21, checked, wf]

theorem Roundtrip.addsN (d : Reg) (a : Reg) (b : Reg) : Statement (.addsN d a b) := by
  have fits : Fits [(11, 13), (5, b.toNat), (5, a.toNat), (5, d.toNat), (6, 0x01)] := ⟨by decide, b.isLt, a.isLt, d.isLt, by decide, trivial⟩
  obtain ⟨w, hw⟩ : ∃ w, w = pack [(11, 13), (5, b.toNat), (5, a.toNat), (5, d.toNat), (6, 0x01)] := ⟨_, rfl⟩
  have word : encodeWord (.addsN d a b) = some w := by rw [hw]; rfl
  have small : w < 2 ^ 32 := lt_of hw fits
  have major : bitsOf w 26 6 = 1 := field_of hw fits 4
  have bits0 : bitsOf w 0 11 = 13 := field_of hw fits 0
  have field11 : fld w 11 5 = b := fld_of (field_of hw fits 1)
  have field16 : fld w 16 5 = a := fld_of (field_of hw fits 2)
  have field21 : fld w 21 5 = d := fld_of (field_of hw fits 3)
  refine ofA rfl rfl rfl word small fun wf => ?_
  rw [decodeA01_of major]
  simp only [decodeA01, bits0, field11, field16, field21, checked, wf]

theorem Roundtrip.subsS (d : Reg) (a : Reg) (b : Reg) : Statement (.subsS d a b) := by
  have fits : Fits [(11, 14), (5, b.toNat), (5, a.toNat), (5, d.toNat), (6, 0x01)] := ⟨by decide, b.isLt, a.isLt, d.isLt, by decide, trivial⟩
  obtain ⟨w, hw⟩ : ∃ w, w = pack [(11, 14), (5, b.toNat), (5, a.toNat), (5, d.toNat), (6, 0x01)] := ⟨_, rfl⟩
  have word : encodeWord (.subsS d a b) = some w := by rw [hw]; rfl
  have small : w < 2 ^ 32 := lt_of hw fits
  have major : bitsOf w 26 6 = 1 := field_of hw fits 4
  have bits0 : bitsOf w 0 11 = 14 := field_of hw fits 0
  have field11 : fld w 11 5 = b := fld_of (field_of hw fits 1)
  have field16 : fld w 16 5 = a := fld_of (field_of hw fits 2)
  have field21 : fld w 21 5 = d := fld_of (field_of hw fits 3)
  refine ofA rfl rfl rfl word small fun wf => ?_
  rw [decodeA01_of major]
  simp only [decodeA01, bits0, field11, field16, field21, checked, wf]

theorem Roundtrip.subsN (d : Reg) (a : Reg) (b : Reg) : Statement (.subsN d a b) := by
  have fits : Fits [(11, 15), (5, b.toNat), (5, a.toNat), (5, d.toNat), (6, 0x01)] := ⟨by decide, b.isLt, a.isLt, d.isLt, by decide, trivial⟩
  obtain ⟨w, hw⟩ : ∃ w, w = pack [(11, 15), (5, b.toNat), (5, a.toNat), (5, d.toNat), (6, 0x01)] := ⟨_, rfl⟩
  have word : encodeWord (.subsN d a b) = some w := by rw [hw]; rfl
  have small : w < 2 ^ 32 := lt_of hw fits
  have major : bitsOf w 26 6 = 1 := field_of hw fits 4
  have bits0 : bitsOf w 0 11 = 15 := field_of hw fits 0
  have field11 : fld w 11 5 = b := fld_of (field_of hw fits 1)
  have field16 : fld w 16 5 = a := fld_of (field_of hw fits 2)
  have field21 : fld w 21 5 = d := fld_of (field_of hw fits 3)
  refine ofA rfl rfl rfl word small fun wf => ?_
  rw [decodeA01_of major]
  simp only [decodeA01, bits0, field11, field16, field21, checked, wf]

theorem Roundtrip.addi (d : Reg) (a : Reg) (i : BitVec 16) : Statement (.addi d a i) := by
  have fits : Fits [(16, i.toNat), (5, a.toNat), (5, d.toNat), (6, 0x02)] := ⟨i.isLt, a.isLt, d.isLt, by decide, trivial⟩
  obtain ⟨w, hw⟩ : ∃ w, w = pack [(16, i.toNat), (5, a.toNat), (5, d.toNat), (6, 0x02)] := ⟨_, rfl⟩
  have word : encodeWord (.addi d a i) = some w := by rw [hw]; rfl
  have small : w < 2 ^ 32 := lt_of hw fits
  have major : bitsOf w 26 6 = 2 := field_of hw fits 3
  have field0 : fld w 0 16 = i := fld_of (field_of hw fits 0)
  have field16 : fld w 16 5 = a := fld_of (field_of hw fits 1)
  have field21 : fld w 21 5 = d := fld_of (field_of hw fits 2)
  refine ofA rfl rfl rfl word small fun wf => ?_
  rw [decodeA02_of major]
  simp only [decodeA02, field0, field16, field21, checked, wf]

theorem Roundtrip.andi (d : Reg) (a : Reg) (i : BitVec 16) : Statement (.andi d a i) := by
  have fits : Fits [(16, i.toNat), (5, a.toNat), (5, d.toNat), (6, 0x03)] := ⟨i.isLt, a.isLt, d.isLt, by decide, trivial⟩
  obtain ⟨w, hw⟩ : ∃ w, w = pack [(16, i.toNat), (5, a.toNat), (5, d.toNat), (6, 0x03)] := ⟨_, rfl⟩
  have word : encodeWord (.andi d a i) = some w := by rw [hw]; rfl
  have small : w < 2 ^ 32 := lt_of hw fits
  have major : bitsOf w 26 6 = 3 := field_of hw fits 3
  have field0 : fld w 0 16 = i := fld_of (field_of hw fits 0)
  have field16 : fld w 16 5 = a := fld_of (field_of hw fits 1)
  have field21 : fld w 21 5 = d := fld_of (field_of hw fits 2)
  refine ofA rfl rfl rfl word small fun wf => ?_
  rw [decodeA03_of major]
  simp only [decodeA03, field0, field16, field21, checked, wf]

theorem Roundtrip.ori (d : Reg) (a : Reg) (i : BitVec 16) : Statement (.ori d a i) := by
  have fits : Fits [(16, i.toNat), (5, a.toNat), (5, d.toNat), (6, 0x04)] := ⟨i.isLt, a.isLt, d.isLt, by decide, trivial⟩
  obtain ⟨w, hw⟩ : ∃ w, w = pack [(16, i.toNat), (5, a.toNat), (5, d.toNat), (6, 0x04)] := ⟨_, rfl⟩
  have word : encodeWord (.ori d a i) = some w := by rw [hw]; rfl
  have small : w < 2 ^ 32 := lt_of hw fits
  have major : bitsOf w 26 6 = 4 := field_of hw fits 3
  have field0 : fld w 0 16 = i := fld_of (field_of hw fits 0)
  have field16 : fld w 16 5 = a := fld_of (field_of hw fits 1)
  have field21 : fld w 21 5 = d := fld_of (field_of hw fits 2)
  refine ofA rfl rfl rfl word small fun wf => ?_
  rw [decodeA04_of major]
  simp only [decodeA04, field0, field16, field21, checked, wf]

theorem Roundtrip.xori (d : Reg) (a : Reg) (i : BitVec 16) : Statement (.xori d a i) := by
  have fits : Fits [(16, i.toNat), (5, a.toNat), (5, d.toNat), (6, 0x05)] := ⟨i.isLt, a.isLt, d.isLt, by decide, trivial⟩
  obtain ⟨w, hw⟩ : ∃ w, w = pack [(16, i.toNat), (5, a.toNat), (5, d.toNat), (6, 0x05)] := ⟨_, rfl⟩
  have word : encodeWord (.xori d a i) = some w := by rw [hw]; rfl
  have small : w < 2 ^ 32 := lt_of hw fits
  have major : bitsOf w 26 6 = 5 := field_of hw fits 3
  have field0 : fld w 0 16 = i := fld_of (field_of hw fits 0)
  have field16 : fld w 16 5 = a := fld_of (field_of hw fits 1)
  have field21 : fld w 21 5 = d := fld_of (field_of hw fits 2)
  refine ofA rfl rfl rfl word small fun wf => ?_
  rw [decodeA05_of major]
  simp only [decodeA05, field0, field16, field21, checked, wf]

theorem Roundtrip.slli (d : Reg) (a : Reg) (n : BitVec 6) : Statement (.slli d a n) := by
  have fits : Fits [(6, n.toNat), (2, 0), (8, 0), (5, a.toNat), (5, d.toNat), (6, 0x06)] := ⟨n.isLt, by decide, by decide, a.isLt, d.isLt, by decide, trivial⟩
  obtain ⟨w, hw⟩ : ∃ w, w = pack [(6, n.toNat), (2, 0), (8, 0), (5, a.toNat), (5, d.toNat), (6, 0x06)] := ⟨_, rfl⟩
  have word : encodeWord (.slli d a n) = some w := by rw [hw]; rfl
  have small : w < 2 ^ 32 := lt_of hw fits
  have major : bitsOf w 26 6 = 6 := field_of hw fits 5
  have bits6 : bitsOf w 6 2 = 0 := field_of hw fits 1
  have bits8 : bitsOf w 8 8 = 0 := field_of hw fits 2
  have field0 : fld w 0 6 = n := fld_of (field_of hw fits 0)
  have field16 : fld w 16 5 = a := fld_of (field_of hw fits 3)
  have field21 : fld w 21 5 = d := fld_of (field_of hw fits 4)
  refine ofA rfl rfl rfl word small fun wf => ?_
  rw [decodeA06_of major]
  simp only [decodeA06, bits6, bits8, field0, field16, field21, zeros_nil, zeros_cons, checked, wf]

theorem Roundtrip.srli (d : Reg) (a : Reg) (n : BitVec 6) : Statement (.srli d a n) := by
  have fits : Fits [(6, n.toNat), (2, 0), (8, 1), (5, a.toNat), (5, d.toNat), (6, 0x06)] := ⟨n.isLt, by decide, by decide, a.isLt, d.isLt, by decide, trivial⟩
  obtain ⟨w, hw⟩ : ∃ w, w = pack [(6, n.toNat), (2, 0), (8, 1), (5, a.toNat), (5, d.toNat), (6, 0x06)] := ⟨_, rfl⟩
  have word : encodeWord (.srli d a n) = some w := by rw [hw]; rfl
  have small : w < 2 ^ 32 := lt_of hw fits
  have major : bitsOf w 26 6 = 6 := field_of hw fits 5
  have bits6 : bitsOf w 6 2 = 0 := field_of hw fits 1
  have bits8 : bitsOf w 8 8 = 1 := field_of hw fits 2
  have field0 : fld w 0 6 = n := fld_of (field_of hw fits 0)
  have field16 : fld w 16 5 = a := fld_of (field_of hw fits 3)
  have field21 : fld w 21 5 = d := fld_of (field_of hw fits 4)
  refine ofA rfl rfl rfl word small fun wf => ?_
  rw [decodeA06_of major]
  simp only [decodeA06, bits6, bits8, field0, field16, field21, zeros_nil, zeros_cons, checked, wf]

theorem Roundtrip.srai (d : Reg) (a : Reg) (n : BitVec 6) : Statement (.srai d a n) := by
  have fits : Fits [(6, n.toNat), (2, 0), (8, 2), (5, a.toNat), (5, d.toNat), (6, 0x06)] := ⟨n.isLt, by decide, by decide, a.isLt, d.isLt, by decide, trivial⟩
  obtain ⟨w, hw⟩ : ∃ w, w = pack [(6, n.toNat), (2, 0), (8, 2), (5, a.toNat), (5, d.toNat), (6, 0x06)] := ⟨_, rfl⟩
  have word : encodeWord (.srai d a n) = some w := by rw [hw]; rfl
  have small : w < 2 ^ 32 := lt_of hw fits
  have major : bitsOf w 26 6 = 6 := field_of hw fits 5
  have bits6 : bitsOf w 6 2 = 0 := field_of hw fits 1
  have bits8 : bitsOf w 8 8 = 2 := field_of hw fits 2
  have field0 : fld w 0 6 = n := fld_of (field_of hw fits 0)
  have field16 : fld w 16 5 = a := fld_of (field_of hw fits 3)
  have field21 : fld w 21 5 = d := fld_of (field_of hw fits 4)
  refine ofA rfl rfl rfl word small fun wf => ?_
  rw [decodeA06_of major]
  simp only [decodeA06, bits6, bits8, field0, field16, field21, zeros_nil, zeros_cons, checked, wf]

theorem Roundtrip.roli (d : Reg) (a : Reg) (n : BitVec 6) : Statement (.roli d a n) := by
  have fits : Fits [(6, n.toNat), (2, 0), (8, 3), (5, a.toNat), (5, d.toNat), (6, 0x06)] := ⟨n.isLt, by decide, by decide, a.isLt, d.isLt, by decide, trivial⟩
  obtain ⟨w, hw⟩ : ∃ w, w = pack [(6, n.toNat), (2, 0), (8, 3), (5, a.toNat), (5, d.toNat), (6, 0x06)] := ⟨_, rfl⟩
  have word : encodeWord (.roli d a n) = some w := by rw [hw]; rfl
  have small : w < 2 ^ 32 := lt_of hw fits
  have major : bitsOf w 26 6 = 6 := field_of hw fits 5
  have bits6 : bitsOf w 6 2 = 0 := field_of hw fits 1
  have bits8 : bitsOf w 8 8 = 3 := field_of hw fits 2
  have field0 : fld w 0 6 = n := fld_of (field_of hw fits 0)
  have field16 : fld w 16 5 = a := fld_of (field_of hw fits 3)
  have field21 : fld w 21 5 = d := fld_of (field_of hw fits 4)
  refine ofA rfl rfl rfl word small fun wf => ?_
  rw [decodeA06_of major]
  simp only [decodeA06, bits6, bits8, field0, field16, field21, zeros_nil, zeros_cons, checked, wf]

theorem Roundtrip.mul (d : Reg) (a : Reg) (b : Reg) : Statement (.mul d a b) := by
  have fits : Fits [(11, 0), (5, b.toNat), (5, a.toNat), (5, d.toNat), (6, 0x07)] := ⟨by decide, b.isLt, a.isLt, d.isLt, by decide, trivial⟩
  obtain ⟨w, hw⟩ : ∃ w, w = pack [(11, 0), (5, b.toNat), (5, a.toNat), (5, d.toNat), (6, 0x07)] := ⟨_, rfl⟩
  have word : encodeWord (.mul d a b) = some w := by rw [hw]; rfl
  have small : w < 2 ^ 32 := lt_of hw fits
  have major : bitsOf w 26 6 = 7 := field_of hw fits 4
  have bits0 : bitsOf w 0 11 = 0 := field_of hw fits 0
  have field11 : fld w 11 5 = b := fld_of (field_of hw fits 1)
  have field16 : fld w 16 5 = a := fld_of (field_of hw fits 2)
  have field21 : fld w 21 5 = d := fld_of (field_of hw fits 3)
  refine ofA rfl rfl rfl word small fun wf => ?_
  rw [decodeA07_of major]
  simp only [decodeA07, bits0, field11, field16, field21, checked, wf]

theorem Roundtrip.mulhS (d : Reg) (a : Reg) (b : Reg) : Statement (.mulhS d a b) := by
  have fits : Fits [(11, 1), (5, b.toNat), (5, a.toNat), (5, d.toNat), (6, 0x07)] := ⟨by decide, b.isLt, a.isLt, d.isLt, by decide, trivial⟩
  obtain ⟨w, hw⟩ : ∃ w, w = pack [(11, 1), (5, b.toNat), (5, a.toNat), (5, d.toNat), (6, 0x07)] := ⟨_, rfl⟩
  have word : encodeWord (.mulhS d a b) = some w := by rw [hw]; rfl
  have small : w < 2 ^ 32 := lt_of hw fits
  have major : bitsOf w 26 6 = 7 := field_of hw fits 4
  have bits0 : bitsOf w 0 11 = 1 := field_of hw fits 0
  have field11 : fld w 11 5 = b := fld_of (field_of hw fits 1)
  have field16 : fld w 16 5 = a := fld_of (field_of hw fits 2)
  have field21 : fld w 21 5 = d := fld_of (field_of hw fits 3)
  refine ofA rfl rfl rfl word small fun wf => ?_
  rw [decodeA07_of major]
  simp only [decodeA07, bits0, field11, field16, field21, checked, wf]

theorem Roundtrip.mulhN (d : Reg) (a : Reg) (b : Reg) : Statement (.mulhN d a b) := by
  have fits : Fits [(11, 2), (5, b.toNat), (5, a.toNat), (5, d.toNat), (6, 0x07)] := ⟨by decide, b.isLt, a.isLt, d.isLt, by decide, trivial⟩
  obtain ⟨w, hw⟩ : ∃ w, w = pack [(11, 2), (5, b.toNat), (5, a.toNat), (5, d.toNat), (6, 0x07)] := ⟨_, rfl⟩
  have word : encodeWord (.mulhN d a b) = some w := by rw [hw]; rfl
  have small : w < 2 ^ 32 := lt_of hw fits
  have major : bitsOf w 26 6 = 7 := field_of hw fits 4
  have bits0 : bitsOf w 0 11 = 2 := field_of hw fits 0
  have field11 : fld w 11 5 = b := fld_of (field_of hw fits 1)
  have field16 : fld w 16 5 = a := fld_of (field_of hw fits 2)
  have field21 : fld w 21 5 = d := fld_of (field_of hw fits 3)
  refine ofA rfl rfl rfl word small fun wf => ?_
  rw [decodeA07_of major]
  simp only [decodeA07, bits0, field11, field16, field21, checked, wf]

theorem Roundtrip.mulw (d : Reg) (a : Reg) (b : Reg) : Statement (.mulw d a b) := by
  have fits : Fits [(11, 3), (5, b.toNat), (5, a.toNat), (5, d.toNat), (6, 0x07)] := ⟨by decide, b.isLt, a.isLt, d.isLt, by decide, trivial⟩
  obtain ⟨w, hw⟩ : ∃ w, w = pack [(11, 3), (5, b.toNat), (5, a.toNat), (5, d.toNat), (6, 0x07)] := ⟨_, rfl⟩
  have word : encodeWord (.mulw d a b) = some w := by rw [hw]; rfl
  have small : w < 2 ^ 32 := lt_of hw fits
  have major : bitsOf w 26 6 = 7 := field_of hw fits 4
  have bits0 : bitsOf w 0 11 = 3 := field_of hw fits 0
  have field11 : fld w 11 5 = b := fld_of (field_of hw fits 1)
  have field16 : fld w 16 5 = a := fld_of (field_of hw fits 2)
  have field21 : fld w 21 5 = d := fld_of (field_of hw fits 3)
  refine ofA rfl rfl rfl word small fun wf => ?_
  rw [decodeA07_of major]
  simp only [decodeA07, bits0, field11, field16, field21, checked, wf]

theorem Roundtrip.divS (d : Reg) (a : Reg) (b : Reg) : Statement (.divS d a b) := by
  have fits : Fits [(11, 4), (5, b.toNat), (5, a.toNat), (5, d.toNat), (6, 0x07)] := ⟨by decide, b.isLt, a.isLt, d.isLt, by decide, trivial⟩
  obtain ⟨w, hw⟩ : ∃ w, w = pack [(11, 4), (5, b.toNat), (5, a.toNat), (5, d.toNat), (6, 0x07)] := ⟨_, rfl⟩
  have word : encodeWord (.divS d a b) = some w := by rw [hw]; rfl
  have small : w < 2 ^ 32 := lt_of hw fits
  have major : bitsOf w 26 6 = 7 := field_of hw fits 4
  have bits0 : bitsOf w 0 11 = 4 := field_of hw fits 0
  have field11 : fld w 11 5 = b := fld_of (field_of hw fits 1)
  have field16 : fld w 16 5 = a := fld_of (field_of hw fits 2)
  have field21 : fld w 21 5 = d := fld_of (field_of hw fits 3)
  refine ofA rfl rfl rfl word small fun wf => ?_
  rw [decodeA07_of major]
  simp only [decodeA07, bits0, field11, field16, field21, checked, wf]

theorem Roundtrip.divN (d : Reg) (a : Reg) (b : Reg) : Statement (.divN d a b) := by
  have fits : Fits [(11, 5), (5, b.toNat), (5, a.toNat), (5, d.toNat), (6, 0x07)] := ⟨by decide, b.isLt, a.isLt, d.isLt, by decide, trivial⟩
  obtain ⟨w, hw⟩ : ∃ w, w = pack [(11, 5), (5, b.toNat), (5, a.toNat), (5, d.toNat), (6, 0x07)] := ⟨_, rfl⟩
  have word : encodeWord (.divN d a b) = some w := by rw [hw]; rfl
  have small : w < 2 ^ 32 := lt_of hw fits
  have major : bitsOf w 26 6 = 7 := field_of hw fits 4
  have bits0 : bitsOf w 0 11 = 5 := field_of hw fits 0
  have field11 : fld w 11 5 = b := fld_of (field_of hw fits 1)
  have field16 : fld w 16 5 = a := fld_of (field_of hw fits 2)
  have field21 : fld w 21 5 = d := fld_of (field_of hw fits 3)
  refine ofA rfl rfl rfl word small fun wf => ?_
  rw [decodeA07_of major]
  simp only [decodeA07, bits0, field11, field16, field21, checked, wf]

theorem Roundtrip.remS (d : Reg) (a : Reg) (b : Reg) : Statement (.remS d a b) := by
  have fits : Fits [(11, 6), (5, b.toNat), (5, a.toNat), (5, d.toNat), (6, 0x07)] := ⟨by decide, b.isLt, a.isLt, d.isLt, by decide, trivial⟩
  obtain ⟨w, hw⟩ : ∃ w, w = pack [(11, 6), (5, b.toNat), (5, a.toNat), (5, d.toNat), (6, 0x07)] := ⟨_, rfl⟩
  have word : encodeWord (.remS d a b) = some w := by rw [hw]; rfl
  have small : w < 2 ^ 32 := lt_of hw fits
  have major : bitsOf w 26 6 = 7 := field_of hw fits 4
  have bits0 : bitsOf w 0 11 = 6 := field_of hw fits 0
  have field11 : fld w 11 5 = b := fld_of (field_of hw fits 1)
  have field16 : fld w 16 5 = a := fld_of (field_of hw fits 2)
  have field21 : fld w 21 5 = d := fld_of (field_of hw fits 3)
  refine ofA rfl rfl rfl word small fun wf => ?_
  rw [decodeA07_of major]
  simp only [decodeA07, bits0, field11, field16, field21, checked, wf]

theorem Roundtrip.remN (d : Reg) (a : Reg) (b : Reg) : Statement (.remN d a b) := by
  have fits : Fits [(11, 7), (5, b.toNat), (5, a.toNat), (5, d.toNat), (6, 0x07)] := ⟨by decide, b.isLt, a.isLt, d.isLt, by decide, trivial⟩
  obtain ⟨w, hw⟩ : ∃ w, w = pack [(11, 7), (5, b.toNat), (5, a.toNat), (5, d.toNat), (6, 0x07)] := ⟨_, rfl⟩
  have word : encodeWord (.remN d a b) = some w := by rw [hw]; rfl
  have small : w < 2 ^ 32 := lt_of hw fits
  have major : bitsOf w 26 6 = 7 := field_of hw fits 4
  have bits0 : bitsOf w 0 11 = 7 := field_of hw fits 0
  have field11 : fld w 11 5 = b := fld_of (field_of hw fits 1)
  have field16 : fld w 16 5 = a := fld_of (field_of hw fits 2)
  have field21 : fld w 21 5 = d := fld_of (field_of hw fits 3)
  refine ofA rfl rfl rfl word small fun wf => ?_
  rw [decodeA07_of major]
  simp only [decodeA07, bits0, field11, field16, field21, checked, wf]

theorem Roundtrip.seq (d : Reg) (a : Reg) (b : Reg) : Statement (.seq d a b) := by
  have fits : Fits [(6, 0), (5, 0), (5, b.toNat), (5, a.toNat), (5, d.toNat), (6, 0x08)] := ⟨by decide, by decide, b.isLt, a.isLt, d.isLt, by decide, trivial⟩
  obtain ⟨w, hw⟩ : ∃ w, w = pack [(6, 0), (5, 0), (5, b.toNat), (5, a.toNat), (5, d.toNat), (6, 0x08)] := ⟨_, rfl⟩
  have word : encodeWord (.seq d a b) = some w := by rw [hw]; rfl
  have small : w < 2 ^ 32 := lt_of hw fits
  have major : bitsOf w 26 6 = 8 := field_of hw fits 5
  have bits0 : bitsOf w 0 6 = 0 := field_of hw fits 0
  have bits6 : bitsOf w 6 5 = 0 := field_of hw fits 1
  have field11 : fld w 11 5 = b := fld_of (field_of hw fits 2)
  have field16 : fld w 16 5 = a := fld_of (field_of hw fits 3)
  have field21 : fld w 21 5 = d := fld_of (field_of hw fits 4)
  refine ofA rfl rfl rfl word small fun wf => ?_
  rw [decodeA08_of major]
  simp only [decodeA08, bits0, bits6, field11, field16, field21, zeros_nil, zeros_cons, checked, wf]

theorem Roundtrip.sne (d : Reg) (a : Reg) (b : Reg) : Statement (.sne d a b) := by
  have fits : Fits [(6, 1), (5, 0), (5, b.toNat), (5, a.toNat), (5, d.toNat), (6, 0x08)] := ⟨by decide, by decide, b.isLt, a.isLt, d.isLt, by decide, trivial⟩
  obtain ⟨w, hw⟩ : ∃ w, w = pack [(6, 1), (5, 0), (5, b.toNat), (5, a.toNat), (5, d.toNat), (6, 0x08)] := ⟨_, rfl⟩
  have word : encodeWord (.sne d a b) = some w := by rw [hw]; rfl
  have small : w < 2 ^ 32 := lt_of hw fits
  have major : bitsOf w 26 6 = 8 := field_of hw fits 5
  have bits0 : bitsOf w 0 6 = 1 := field_of hw fits 0
  have bits6 : bitsOf w 6 5 = 0 := field_of hw fits 1
  have field11 : fld w 11 5 = b := fld_of (field_of hw fits 2)
  have field16 : fld w 16 5 = a := fld_of (field_of hw fits 3)
  have field21 : fld w 21 5 = d := fld_of (field_of hw fits 4)
  refine ofA rfl rfl rfl word small fun wf => ?_
  rw [decodeA08_of major]
  simp only [decodeA08, bits0, bits6, field11, field16, field21, zeros_nil, zeros_cons, checked, wf]

theorem Roundtrip.sltS (d : Reg) (a : Reg) (b : Reg) : Statement (.sltS d a b) := by
  have fits : Fits [(6, 2), (5, 0), (5, b.toNat), (5, a.toNat), (5, d.toNat), (6, 0x08)] := ⟨by decide, by decide, b.isLt, a.isLt, d.isLt, by decide, trivial⟩
  obtain ⟨w, hw⟩ : ∃ w, w = pack [(6, 2), (5, 0), (5, b.toNat), (5, a.toNat), (5, d.toNat), (6, 0x08)] := ⟨_, rfl⟩
  have word : encodeWord (.sltS d a b) = some w := by rw [hw]; rfl
  have small : w < 2 ^ 32 := lt_of hw fits
  have major : bitsOf w 26 6 = 8 := field_of hw fits 5
  have bits0 : bitsOf w 0 6 = 2 := field_of hw fits 0
  have bits6 : bitsOf w 6 5 = 0 := field_of hw fits 1
  have field11 : fld w 11 5 = b := fld_of (field_of hw fits 2)
  have field16 : fld w 16 5 = a := fld_of (field_of hw fits 3)
  have field21 : fld w 21 5 = d := fld_of (field_of hw fits 4)
  refine ofA rfl rfl rfl word small fun wf => ?_
  rw [decodeA08_of major]
  simp only [decodeA08, bits0, bits6, field11, field16, field21, zeros_nil, zeros_cons, checked, wf]

theorem Roundtrip.sleS (d : Reg) (a : Reg) (b : Reg) : Statement (.sleS d a b) := by
  have fits : Fits [(6, 3), (5, 0), (5, b.toNat), (5, a.toNat), (5, d.toNat), (6, 0x08)] := ⟨by decide, by decide, b.isLt, a.isLt, d.isLt, by decide, trivial⟩
  obtain ⟨w, hw⟩ : ∃ w, w = pack [(6, 3), (5, 0), (5, b.toNat), (5, a.toNat), (5, d.toNat), (6, 0x08)] := ⟨_, rfl⟩
  have word : encodeWord (.sleS d a b) = some w := by rw [hw]; rfl
  have small : w < 2 ^ 32 := lt_of hw fits
  have major : bitsOf w 26 6 = 8 := field_of hw fits 5
  have bits0 : bitsOf w 0 6 = 3 := field_of hw fits 0
  have bits6 : bitsOf w 6 5 = 0 := field_of hw fits 1
  have field11 : fld w 11 5 = b := fld_of (field_of hw fits 2)
  have field16 : fld w 16 5 = a := fld_of (field_of hw fits 3)
  have field21 : fld w 21 5 = d := fld_of (field_of hw fits 4)
  refine ofA rfl rfl rfl word small fun wf => ?_
  rw [decodeA08_of major]
  simp only [decodeA08, bits0, bits6, field11, field16, field21, zeros_nil, zeros_cons, checked, wf]

theorem Roundtrip.sltN (d : Reg) (a : Reg) (b : Reg) : Statement (.sltN d a b) := by
  have fits : Fits [(6, 4), (5, 0), (5, b.toNat), (5, a.toNat), (5, d.toNat), (6, 0x08)] := ⟨by decide, by decide, b.isLt, a.isLt, d.isLt, by decide, trivial⟩
  obtain ⟨w, hw⟩ : ∃ w, w = pack [(6, 4), (5, 0), (5, b.toNat), (5, a.toNat), (5, d.toNat), (6, 0x08)] := ⟨_, rfl⟩
  have word : encodeWord (.sltN d a b) = some w := by rw [hw]; rfl
  have small : w < 2 ^ 32 := lt_of hw fits
  have major : bitsOf w 26 6 = 8 := field_of hw fits 5
  have bits0 : bitsOf w 0 6 = 4 := field_of hw fits 0
  have bits6 : bitsOf w 6 5 = 0 := field_of hw fits 1
  have field11 : fld w 11 5 = b := fld_of (field_of hw fits 2)
  have field16 : fld w 16 5 = a := fld_of (field_of hw fits 3)
  have field21 : fld w 21 5 = d := fld_of (field_of hw fits 4)
  refine ofA rfl rfl rfl word small fun wf => ?_
  rw [decodeA08_of major]
  simp only [decodeA08, bits0, bits6, field11, field16, field21, zeros_nil, zeros_cons, checked, wf]

theorem Roundtrip.sleN (d : Reg) (a : Reg) (b : Reg) : Statement (.sleN d a b) := by
  have fits : Fits [(6, 5), (5, 0), (5, b.toNat), (5, a.toNat), (5, d.toNat), (6, 0x08)] := ⟨by decide, by decide, b.isLt, a.isLt, d.isLt, by decide, trivial⟩
  obtain ⟨w, hw⟩ : ∃ w, w = pack [(6, 5), (5, 0), (5, b.toNat), (5, a.toNat), (5, d.toNat), (6, 0x08)] := ⟨_, rfl⟩
  have word : encodeWord (.sleN d a b) = some w := by rw [hw]; rfl
  have small : w < 2 ^ 32 := lt_of hw fits
  have major : bitsOf w 26 6 = 8 := field_of hw fits 5
  have bits0 : bitsOf w 0 6 = 5 := field_of hw fits 0
  have bits6 : bitsOf w 6 5 = 0 := field_of hw fits 1
  have field11 : fld w 11 5 = b := fld_of (field_of hw fits 2)
  have field16 : fld w 16 5 = a := fld_of (field_of hw fits 3)
  have field21 : fld w 21 5 = d := fld_of (field_of hw fits 4)
  refine ofA rfl rfl rfl word small fun wf => ?_
  rw [decodeA08_of major]
  simp only [decodeA08, bits0, bits6, field11, field16, field21, zeros_nil, zeros_cons, checked, wf]

theorem Roundtrip.minS (d : Reg) (a : Reg) (b : Reg) : Statement (.minS d a b) := by
  have fits : Fits [(6, 6), (5, 0), (5, b.toNat), (5, a.toNat), (5, d.toNat), (6, 0x08)] := ⟨by decide, by decide, b.isLt, a.isLt, d.isLt, by decide, trivial⟩
  obtain ⟨w, hw⟩ : ∃ w, w = pack [(6, 6), (5, 0), (5, b.toNat), (5, a.toNat), (5, d.toNat), (6, 0x08)] := ⟨_, rfl⟩
  have word : encodeWord (.minS d a b) = some w := by rw [hw]; rfl
  have small : w < 2 ^ 32 := lt_of hw fits
  have major : bitsOf w 26 6 = 8 := field_of hw fits 5
  have bits0 : bitsOf w 0 6 = 6 := field_of hw fits 0
  have bits6 : bitsOf w 6 5 = 0 := field_of hw fits 1
  have field11 : fld w 11 5 = b := fld_of (field_of hw fits 2)
  have field16 : fld w 16 5 = a := fld_of (field_of hw fits 3)
  have field21 : fld w 21 5 = d := fld_of (field_of hw fits 4)
  refine ofA rfl rfl rfl word small fun wf => ?_
  rw [decodeA08_of major]
  simp only [decodeA08, bits0, bits6, field11, field16, field21, zeros_nil, zeros_cons, checked, wf]

theorem Roundtrip.maxS (d : Reg) (a : Reg) (b : Reg) : Statement (.maxS d a b) := by
  have fits : Fits [(6, 7), (5, 0), (5, b.toNat), (5, a.toNat), (5, d.toNat), (6, 0x08)] := ⟨by decide, by decide, b.isLt, a.isLt, d.isLt, by decide, trivial⟩
  obtain ⟨w, hw⟩ : ∃ w, w = pack [(6, 7), (5, 0), (5, b.toNat), (5, a.toNat), (5, d.toNat), (6, 0x08)] := ⟨_, rfl⟩
  have word : encodeWord (.maxS d a b) = some w := by rw [hw]; rfl
  have small : w < 2 ^ 32 := lt_of hw fits
  have major : bitsOf w 26 6 = 8 := field_of hw fits 5
  have bits0 : bitsOf w 0 6 = 7 := field_of hw fits 0
  have bits6 : bitsOf w 6 5 = 0 := field_of hw fits 1
  have field11 : fld w 11 5 = b := fld_of (field_of hw fits 2)
  have field16 : fld w 16 5 = a := fld_of (field_of hw fits 3)
  have field21 : fld w 21 5 = d := fld_of (field_of hw fits 4)
  refine ofA rfl rfl rfl word small fun wf => ?_
  rw [decodeA08_of major]
  simp only [decodeA08, bits0, bits6, field11, field16, field21, zeros_nil, zeros_cons, checked, wf]

theorem Roundtrip.minN (d : Reg) (a : Reg) (b : Reg) : Statement (.minN d a b) := by
  have fits : Fits [(6, 8), (5, 0), (5, b.toNat), (5, a.toNat), (5, d.toNat), (6, 0x08)] := ⟨by decide, by decide, b.isLt, a.isLt, d.isLt, by decide, trivial⟩
  obtain ⟨w, hw⟩ : ∃ w, w = pack [(6, 8), (5, 0), (5, b.toNat), (5, a.toNat), (5, d.toNat), (6, 0x08)] := ⟨_, rfl⟩
  have word : encodeWord (.minN d a b) = some w := by rw [hw]; rfl
  have small : w < 2 ^ 32 := lt_of hw fits
  have major : bitsOf w 26 6 = 8 := field_of hw fits 5
  have bits0 : bitsOf w 0 6 = 8 := field_of hw fits 0
  have bits6 : bitsOf w 6 5 = 0 := field_of hw fits 1
  have field11 : fld w 11 5 = b := fld_of (field_of hw fits 2)
  have field16 : fld w 16 5 = a := fld_of (field_of hw fits 3)
  have field21 : fld w 21 5 = d := fld_of (field_of hw fits 4)
  refine ofA rfl rfl rfl word small fun wf => ?_
  rw [decodeA08_of major]
  simp only [decodeA08, bits0, bits6, field11, field16, field21, zeros_nil, zeros_cons, checked, wf]

theorem Roundtrip.maxN (d : Reg) (a : Reg) (b : Reg) : Statement (.maxN d a b) := by
  have fits : Fits [(6, 9), (5, 0), (5, b.toNat), (5, a.toNat), (5, d.toNat), (6, 0x08)] := ⟨by decide, by decide, b.isLt, a.isLt, d.isLt, by decide, trivial⟩
  obtain ⟨w, hw⟩ : ∃ w, w = pack [(6, 9), (5, 0), (5, b.toNat), (5, a.toNat), (5, d.toNat), (6, 0x08)] := ⟨_, rfl⟩
  have word : encodeWord (.maxN d a b) = some w := by rw [hw]; rfl
  have small : w < 2 ^ 32 := lt_of hw fits
  have major : bitsOf w 26 6 = 8 := field_of hw fits 5
  have bits0 : bitsOf w 0 6 = 9 := field_of hw fits 0
  have bits6 : bitsOf w 6 5 = 0 := field_of hw fits 1
  have field11 : fld w 11 5 = b := fld_of (field_of hw fits 2)
  have field16 : fld w 16 5 = a := fld_of (field_of hw fits 3)
  have field21 : fld w 21 5 = d := fld_of (field_of hw fits 4)
  refine ofA rfl rfl rfl word small fun wf => ?_
  rw [decodeA08_of major]
  simp only [decodeA08, bits0, bits6, field11, field16, field21, zeros_nil, zeros_cons, checked, wf]

theorem Roundtrip.sel (d : Reg) (a : Reg) (b : Reg) (c : Reg) : Statement (.sel d a b c) := by
  have fits : Fits [(6, 10), (5, c.toNat), (5, b.toNat), (5, a.toNat), (5, d.toNat), (6, 0x08)] := ⟨by decide, c.isLt, b.isLt, a.isLt, d.isLt, by decide, trivial⟩
  obtain ⟨w, hw⟩ : ∃ w, w = pack [(6, 10), (5, c.toNat), (5, b.toNat), (5, a.toNat), (5, d.toNat), (6, 0x08)] := ⟨_, rfl⟩
  have word : encodeWord (.sel d a b c) = some w := by rw [hw]; rfl
  have small : w < 2 ^ 32 := lt_of hw fits
  have major : bitsOf w 26 6 = 8 := field_of hw fits 5
  have bits0 : bitsOf w 0 6 = 10 := field_of hw fits 0
  have field6 : fld w 6 5 = c := fld_of (field_of hw fits 1)
  have field11 : fld w 11 5 = b := fld_of (field_of hw fits 2)
  have field16 : fld w 16 5 = a := fld_of (field_of hw fits 3)
  have field21 : fld w 21 5 = d := fld_of (field_of hw fits 4)
  refine ofA rfl rfl rfl word small fun wf => ?_
  rw [decodeA08_of major]
  simp only [decodeA08, bits0, field6, field11, field16, field21, checked, wf]

theorem Roundtrip.clz (d : Reg) (a : Reg) : Statement (.clz d a) := by
  have fits : Fits [(11, 0), (5, 0), (5, a.toNat), (5, d.toNat), (6, 0x09)] := ⟨by decide, by decide, a.isLt, d.isLt, by decide, trivial⟩
  obtain ⟨w, hw⟩ : ∃ w, w = pack [(11, 0), (5, 0), (5, a.toNat), (5, d.toNat), (6, 0x09)] := ⟨_, rfl⟩
  have word : encodeWord (.clz d a) = some w := by rw [hw]; rfl
  have small : w < 2 ^ 32 := lt_of hw fits
  have major : bitsOf w 26 6 = 9 := field_of hw fits 4
  have bits0 : bitsOf w 0 11 = 0 := field_of hw fits 0
  have bits11 : bitsOf w 11 5 = 0 := field_of hw fits 1
  have field16 : fld w 16 5 = a := fld_of (field_of hw fits 2)
  have field21 : fld w 21 5 = d := fld_of (field_of hw fits 3)
  refine ofA rfl rfl rfl word small fun wf => ?_
  rw [decodeA09_of major]
  simp only [decodeA09, bits0, bits11, field16, field21, zeros_nil, zeros_cons, checked, wf]

theorem Roundtrip.ctz (d : Reg) (a : Reg) : Statement (.ctz d a) := by
  have fits : Fits [(11, 1), (5, 0), (5, a.toNat), (5, d.toNat), (6, 0x09)] := ⟨by decide, by decide, a.isLt, d.isLt, by decide, trivial⟩
  obtain ⟨w, hw⟩ : ∃ w, w = pack [(11, 1), (5, 0), (5, a.toNat), (5, d.toNat), (6, 0x09)] := ⟨_, rfl⟩
  have word : encodeWord (.ctz d a) = some w := by rw [hw]; rfl
  have small : w < 2 ^ 32 := lt_of hw fits
  have major : bitsOf w 26 6 = 9 := field_of hw fits 4
  have bits0 : bitsOf w 0 11 = 1 := field_of hw fits 0
  have bits11 : bitsOf w 11 5 = 0 := field_of hw fits 1
  have field16 : fld w 16 5 = a := fld_of (field_of hw fits 2)
  have field21 : fld w 21 5 = d := fld_of (field_of hw fits 3)
  refine ofA rfl rfl rfl word small fun wf => ?_
  rw [decodeA09_of major]
  simp only [decodeA09, bits0, bits11, field16, field21, zeros_nil, zeros_cons, checked, wf]

theorem Roundtrip.popc (d : Reg) (a : Reg) : Statement (.popc d a) := by
  have fits : Fits [(11, 2), (5, 0), (5, a.toNat), (5, d.toNat), (6, 0x09)] := ⟨by decide, by decide, a.isLt, d.isLt, by decide, trivial⟩
  obtain ⟨w, hw⟩ : ∃ w, w = pack [(11, 2), (5, 0), (5, a.toNat), (5, d.toNat), (6, 0x09)] := ⟨_, rfl⟩
  have word : encodeWord (.popc d a) = some w := by rw [hw]; rfl
  have small : w < 2 ^ 32 := lt_of hw fits
  have major : bitsOf w 26 6 = 9 := field_of hw fits 4
  have bits0 : bitsOf w 0 11 = 2 := field_of hw fits 0
  have bits11 : bitsOf w 11 5 = 0 := field_of hw fits 1
  have field16 : fld w 16 5 = a := fld_of (field_of hw fits 2)
  have field21 : fld w 21 5 = d := fld_of (field_of hw fits 3)
  refine ofA rfl rfl rfl word small fun wf => ?_
  rw [decodeA09_of major]
  simp only [decodeA09, bits0, bits11, field16, field21, zeros_nil, zeros_cons, checked, wf]

theorem Roundtrip.brev (d : Reg) (a : Reg) : Statement (.brev d a) := by
  have fits : Fits [(11, 3), (5, 0), (5, a.toNat), (5, d.toNat), (6, 0x09)] := ⟨by decide, by decide, a.isLt, d.isLt, by decide, trivial⟩
  obtain ⟨w, hw⟩ : ∃ w, w = pack [(11, 3), (5, 0), (5, a.toNat), (5, d.toNat), (6, 0x09)] := ⟨_, rfl⟩
  have word : encodeWord (.brev d a) = some w := by rw [hw]; rfl
  have small : w < 2 ^ 32 := lt_of hw fits
  have major : bitsOf w 26 6 = 9 := field_of hw fits 4
  have bits0 : bitsOf w 0 11 = 3 := field_of hw fits 0
  have bits11 : bitsOf w 11 5 = 0 := field_of hw fits 1
  have field16 : fld w 16 5 = a := fld_of (field_of hw fits 2)
  have field21 : fld w 21 5 = d := fld_of (field_of hw fits 3)
  refine ofA rfl rfl rfl word small fun wf => ?_
  rw [decodeA09_of major]
  simp only [decodeA09, bits0, bits11, field16, field21, zeros_nil, zeros_cons, checked, wf]

theorem Roundtrip.bswap (d : Reg) (a : Reg) : Statement (.bswap d a) := by
  have fits : Fits [(11, 4), (5, 0), (5, a.toNat), (5, d.toNat), (6, 0x09)] := ⟨by decide, by decide, a.isLt, d.isLt, by decide, trivial⟩
  obtain ⟨w, hw⟩ : ∃ w, w = pack [(11, 4), (5, 0), (5, a.toNat), (5, d.toNat), (6, 0x09)] := ⟨_, rfl⟩
  have word : encodeWord (.bswap d a) = some w := by rw [hw]; rfl
  have small : w < 2 ^ 32 := lt_of hw fits
  have major : bitsOf w 26 6 = 9 := field_of hw fits 4
  have bits0 : bitsOf w 0 11 = 4 := field_of hw fits 0
  have bits11 : bitsOf w 11 5 = 0 := field_of hw fits 1
  have field16 : fld w 16 5 = a := fld_of (field_of hw fits 2)
  have field21 : fld w 21 5 = d := fld_of (field_of hw fits 3)
  refine ofA rfl rfl rfl word small fun wf => ?_
  rw [decodeA09_of major]
  simp only [decodeA09, bits0, bits11, field16, field21, zeros_nil, zeros_cons, checked, wf]

theorem Roundtrip.sextB (d : Reg) (a : Reg) : Statement (.sextB d a) := by
  have fits : Fits [(11, 5), (5, 0), (5, a.toNat), (5, d.toNat), (6, 0x09)] := ⟨by decide, by decide, a.isLt, d.isLt, by decide, trivial⟩
  obtain ⟨w, hw⟩ : ∃ w, w = pack [(11, 5), (5, 0), (5, a.toNat), (5, d.toNat), (6, 0x09)] := ⟨_, rfl⟩
  have word : encodeWord (.sextB d a) = some w := by rw [hw]; rfl
  have small : w < 2 ^ 32 := lt_of hw fits
  have major : bitsOf w 26 6 = 9 := field_of hw fits 4
  have bits0 : bitsOf w 0 11 = 5 := field_of hw fits 0
  have bits11 : bitsOf w 11 5 = 0 := field_of hw fits 1
  have field16 : fld w 16 5 = a := fld_of (field_of hw fits 2)
  have field21 : fld w 21 5 = d := fld_of (field_of hw fits 3)
  refine ofA rfl rfl rfl word small fun wf => ?_
  rw [decodeA09_of major]
  simp only [decodeA09, bits0, bits11, field16, field21, zeros_nil, zeros_cons, checked, wf]

theorem Roundtrip.sextH (d : Reg) (a : Reg) : Statement (.sextH d a) := by
  have fits : Fits [(11, 6), (5, 0), (5, a.toNat), (5, d.toNat), (6, 0x09)] := ⟨by decide, by decide, a.isLt, d.isLt, by decide, trivial⟩
  obtain ⟨w, hw⟩ : ∃ w, w = pack [(11, 6), (5, 0), (5, a.toNat), (5, d.toNat), (6, 0x09)] := ⟨_, rfl⟩
  have word : encodeWord (.sextH d a) = some w := by rw [hw]; rfl
  have small : w < 2 ^ 32 := lt_of hw fits
  have major : bitsOf w 26 6 = 9 := field_of hw fits 4
  have bits0 : bitsOf w 0 11 = 6 := field_of hw fits 0
  have bits11 : bitsOf w 11 5 = 0 := field_of hw fits 1
  have field16 : fld w 16 5 = a := fld_of (field_of hw fits 2)
  have field21 : fld w 21 5 = d := fld_of (field_of hw fits 3)
  refine ofA rfl rfl rfl word small fun wf => ?_
  rw [decodeA09_of major]
  simp only [decodeA09, bits0, bits11, field16, field21, zeros_nil, zeros_cons, checked, wf]

theorem Roundtrip.sextW (d : Reg) (a : Reg) : Statement (.sextW d a) := by
  have fits : Fits [(11, 7), (5, 0), (5, a.toNat), (5, d.toNat), (6, 0x09)] := ⟨by decide, by decide, a.isLt, d.isLt, by decide, trivial⟩
  obtain ⟨w, hw⟩ : ∃ w, w = pack [(11, 7), (5, 0), (5, a.toNat), (5, d.toNat), (6, 0x09)] := ⟨_, rfl⟩
  have word : encodeWord (.sextW d a) = some w := by rw [hw]; rfl
  have small : w < 2 ^ 32 := lt_of hw fits
  have major : bitsOf w 26 6 = 9 := field_of hw fits 4
  have bits0 : bitsOf w 0 11 = 7 := field_of hw fits 0
  have bits11 : bitsOf w 11 5 = 0 := field_of hw fits 1
  have field16 : fld w 16 5 = a := fld_of (field_of hw fits 2)
  have field21 : fld w 21 5 = d := fld_of (field_of hw fits 3)
  refine ofA rfl rfl rfl word small fun wf => ?_
  rw [decodeA09_of major]
  simp only [decodeA09, bits0, bits11, field16, field21, zeros_nil, zeros_cons, checked, wf]

theorem Roundtrip.zextW (d : Reg) (a : Reg) : Statement (.zextW d a) := by
  have fits : Fits [(11, 8), (5, 0), (5, a.toNat), (5, d.toNat), (6, 0x09)] := ⟨by decide, by decide, a.isLt, d.isLt, by decide, trivial⟩
  obtain ⟨w, hw⟩ : ∃ w, w = pack [(11, 8), (5, 0), (5, a.toNat), (5, d.toNat), (6, 0x09)] := ⟨_, rfl⟩
  have word : encodeWord (.zextW d a) = some w := by rw [hw]; rfl
  have small : w < 2 ^ 32 := lt_of hw fits
  have major : bitsOf w 26 6 = 9 := field_of hw fits 4
  have bits0 : bitsOf w 0 11 = 8 := field_of hw fits 0
  have bits11 : bitsOf w 11 5 = 0 := field_of hw fits 1
  have field16 : fld w 16 5 = a := fld_of (field_of hw fits 2)
  have field21 : fld w 21 5 = d := fld_of (field_of hw fits 3)
  refine ofA rfl rfl rfl word small fun wf => ?_
  rw [decodeA09_of major]
  simp only [decodeA09, bits0, bits11, field16, field21, zeros_nil, zeros_cons, checked, wf]

theorem Roundtrip.bext (d : Reg) (a : Reg) (b : Reg) : Statement (.bext d a b) := by
  have fits : Fits [(11, 9), (5, b.toNat), (5, a.toNat), (5, d.toNat), (6, 0x09)] := ⟨by decide, b.isLt, a.isLt, d.isLt, by decide, trivial⟩
  obtain ⟨w, hw⟩ : ∃ w, w = pack [(11, 9), (5, b.toNat), (5, a.toNat), (5, d.toNat), (6, 0x09)] := ⟨_, rfl⟩
  have word : encodeWord (.bext d a b) = some w := by rw [hw]; rfl
  have small : w < 2 ^ 32 := lt_of hw fits
  have major : bitsOf w 26 6 = 9 := field_of hw fits 4
  have bits0 : bitsOf w 0 11 = 9 := field_of hw fits 0
  have field11 : fld w 11 5 = b := fld_of (field_of hw fits 1)
  have field16 : fld w 16 5 = a := fld_of (field_of hw fits 2)
  have field21 : fld w 21 5 = d := fld_of (field_of hw fits 3)
  refine ofA rfl rfl rfl word small fun wf => ?_
  rw [decodeA09_of major]
  simp only [decodeA09, bits0, field11, field16, field21, checked, wf]

theorem Roundtrip.bins (d : Reg) (a : Reg) (b : Reg) : Statement (.bins d a b) := by
  have fits : Fits [(11, 10), (5, b.toNat), (5, a.toNat), (5, d.toNat), (6, 0x09)] := ⟨by decide, b.isLt, a.isLt, d.isLt, by decide, trivial⟩
  obtain ⟨w, hw⟩ : ∃ w, w = pack [(11, 10), (5, b.toNat), (5, a.toNat), (5, d.toNat), (6, 0x09)] := ⟨_, rfl⟩
  have word : encodeWord (.bins d a b) = some w := by rw [hw]; rfl
  have small : w < 2 ^ 32 := lt_of hw fits
  have major : bitsOf w 26 6 = 9 := field_of hw fits 4
  have bits0 : bitsOf w 0 11 = 10 := field_of hw fits 0
  have field11 : fld w 11 5 = b := fld_of (field_of hw fits 1)
  have field16 : fld w 16 5 = a := fld_of (field_of hw fits 2)
  have field21 : fld w 21 5 = d := fld_of (field_of hw fits 3)
  refine ofA rfl rfl rfl word small fun wf => ?_
  rw [decodeA09_of major]
  simp only [decodeA09, bits0, field11, field16, field21, checked, wf]

theorem Roundtrip.lui (d : Reg) (k : BitVec 2) (i : BitVec 16) : Statement (.lui d k i) := by
  have fits : Fits [(16, i.toNat), (2, k.toNat), (3, 0), (5, d.toNat), (6, 0x0A)] := ⟨i.isLt, k.isLt, by decide, d.isLt, by decide, trivial⟩
  obtain ⟨w, hw⟩ : ∃ w, w = pack [(16, i.toNat), (2, k.toNat), (3, 0), (5, d.toNat), (6, 0x0A)] := ⟨_, rfl⟩
  have word : encodeWord (.lui d k i) = some w := by rw [hw]; rfl
  have small : w < 2 ^ 32 := lt_of hw fits
  have major : bitsOf w 26 6 = 10 := field_of hw fits 4
  have bits18 : bitsOf w 18 3 = 0 := field_of hw fits 2
  have field0 : fld w 0 16 = i := fld_of (field_of hw fits 0)
  have field16 : fld w 16 2 = k := fld_of (field_of hw fits 1)
  have field21 : fld w 21 5 = d := fld_of (field_of hw fits 3)
  refine ofA rfl rfl rfl word small fun wf => ?_
  rw [decodeA0A_of major]
  simp only [decodeA0A, bits18, field0, field16, field21, zeros_nil, zeros_cons, checked, wf]

theorem Roundtrip.fadd (d : Reg) (a : Reg) (b : Reg) : Statement (.fadd d a b) := by
  have fits : Fits [(11, 0), (5, b.toNat), (5, a.toNat), (5, d.toNat), (6, 0x0B)] := ⟨by decide, b.isLt, a.isLt, d.isLt, by decide, trivial⟩
  obtain ⟨w, hw⟩ : ∃ w, w = pack [(11, 0), (5, b.toNat), (5, a.toNat), (5, d.toNat), (6, 0x0B)] := ⟨_, rfl⟩
  have word : encodeWord (.fadd d a b) = some w := by rw [hw]; rfl
  have small : w < 2 ^ 32 := lt_of hw fits
  have major : bitsOf w 26 6 = 11 := field_of hw fits 4
  have bits0 : bitsOf w 0 11 = 0 := field_of hw fits 0
  have field11 : fld w 11 5 = b := fld_of (field_of hw fits 1)
  have field16 : fld w 16 5 = a := fld_of (field_of hw fits 2)
  have field21 : fld w 21 5 = d := fld_of (field_of hw fits 3)
  refine ofA rfl rfl rfl word small fun wf => ?_
  rw [decodeA0B_of major]
  simp only [decodeA0B, bits0, field11, field16, field21, checked, wf]

theorem Roundtrip.fsub (d : Reg) (a : Reg) (b : Reg) : Statement (.fsub d a b) := by
  have fits : Fits [(11, 1), (5, b.toNat), (5, a.toNat), (5, d.toNat), (6, 0x0B)] := ⟨by decide, b.isLt, a.isLt, d.isLt, by decide, trivial⟩
  obtain ⟨w, hw⟩ : ∃ w, w = pack [(11, 1), (5, b.toNat), (5, a.toNat), (5, d.toNat), (6, 0x0B)] := ⟨_, rfl⟩
  have word : encodeWord (.fsub d a b) = some w := by rw [hw]; rfl
  have small : w < 2 ^ 32 := lt_of hw fits
  have major : bitsOf w 26 6 = 11 := field_of hw fits 4
  have bits0 : bitsOf w 0 11 = 1 := field_of hw fits 0
  have field11 : fld w 11 5 = b := fld_of (field_of hw fits 1)
  have field16 : fld w 16 5 = a := fld_of (field_of hw fits 2)
  have field21 : fld w 21 5 = d := fld_of (field_of hw fits 3)
  refine ofA rfl rfl rfl word small fun wf => ?_
  rw [decodeA0B_of major]
  simp only [decodeA0B, bits0, field11, field16, field21, checked, wf]

theorem Roundtrip.fmul (d : Reg) (a : Reg) (b : Reg) : Statement (.fmul d a b) := by
  have fits : Fits [(11, 2), (5, b.toNat), (5, a.toNat), (5, d.toNat), (6, 0x0B)] := ⟨by decide, b.isLt, a.isLt, d.isLt, by decide, trivial⟩
  obtain ⟨w, hw⟩ : ∃ w, w = pack [(11, 2), (5, b.toNat), (5, a.toNat), (5, d.toNat), (6, 0x0B)] := ⟨_, rfl⟩
  have word : encodeWord (.fmul d a b) = some w := by rw [hw]; rfl
  have small : w < 2 ^ 32 := lt_of hw fits
  have major : bitsOf w 26 6 = 11 := field_of hw fits 4
  have bits0 : bitsOf w 0 11 = 2 := field_of hw fits 0
  have field11 : fld w 11 5 = b := fld_of (field_of hw fits 1)
  have field16 : fld w 16 5 = a := fld_of (field_of hw fits 2)
  have field21 : fld w 21 5 = d := fld_of (field_of hw fits 3)
  refine ofA rfl rfl rfl word small fun wf => ?_
  rw [decodeA0B_of major]
  simp only [decodeA0B, bits0, field11, field16, field21, checked, wf]

theorem Roundtrip.fdiv (d : Reg) (a : Reg) (b : Reg) : Statement (.fdiv d a b) := by
  have fits : Fits [(11, 3), (5, b.toNat), (5, a.toNat), (5, d.toNat), (6, 0x0B)] := ⟨by decide, b.isLt, a.isLt, d.isLt, by decide, trivial⟩
  obtain ⟨w, hw⟩ : ∃ w, w = pack [(11, 3), (5, b.toNat), (5, a.toNat), (5, d.toNat), (6, 0x0B)] := ⟨_, rfl⟩
  have word : encodeWord (.fdiv d a b) = some w := by rw [hw]; rfl
  have small : w < 2 ^ 32 := lt_of hw fits
  have major : bitsOf w 26 6 = 11 := field_of hw fits 4
  have bits0 : bitsOf w 0 11 = 3 := field_of hw fits 0
  have field11 : fld w 11 5 = b := fld_of (field_of hw fits 1)
  have field16 : fld w 16 5 = a := fld_of (field_of hw fits 2)
  have field21 : fld w 21 5 = d := fld_of (field_of hw fits 3)
  refine ofA rfl rfl rfl word small fun wf => ?_
  rw [decodeA0B_of major]
  simp only [decodeA0B, bits0, field11, field16, field21, checked, wf]

theorem Roundtrip.fsqrt (d : Reg) (a : Reg) : Statement (.fsqrt d a) := by
  have fits : Fits [(11, 4), (5, 0), (5, a.toNat), (5, d.toNat), (6, 0x0B)] := ⟨by decide, by decide, a.isLt, d.isLt, by decide, trivial⟩
  obtain ⟨w, hw⟩ : ∃ w, w = pack [(11, 4), (5, 0), (5, a.toNat), (5, d.toNat), (6, 0x0B)] := ⟨_, rfl⟩
  have word : encodeWord (.fsqrt d a) = some w := by rw [hw]; rfl
  have small : w < 2 ^ 32 := lt_of hw fits
  have major : bitsOf w 26 6 = 11 := field_of hw fits 4
  have bits0 : bitsOf w 0 11 = 4 := field_of hw fits 0
  have bits11 : bitsOf w 11 5 = 0 := field_of hw fits 1
  have field16 : fld w 16 5 = a := fld_of (field_of hw fits 2)
  have field21 : fld w 21 5 = d := fld_of (field_of hw fits 3)
  refine ofA rfl rfl rfl word small fun wf => ?_
  rw [decodeA0B_of major]
  simp only [decodeA0B, bits0, bits11, field16, field21, zeros_nil, zeros_cons, checked, wf]

theorem Roundtrip.fmin (d : Reg) (a : Reg) (b : Reg) : Statement (.fmin d a b) := by
  have fits : Fits [(11, 5), (5, b.toNat), (5, a.toNat), (5, d.toNat), (6, 0x0B)] := ⟨by decide, b.isLt, a.isLt, d.isLt, by decide, trivial⟩
  obtain ⟨w, hw⟩ : ∃ w, w = pack [(11, 5), (5, b.toNat), (5, a.toNat), (5, d.toNat), (6, 0x0B)] := ⟨_, rfl⟩
  have word : encodeWord (.fmin d a b) = some w := by rw [hw]; rfl
  have small : w < 2 ^ 32 := lt_of hw fits
  have major : bitsOf w 26 6 = 11 := field_of hw fits 4
  have bits0 : bitsOf w 0 11 = 5 := field_of hw fits 0
  have field11 : fld w 11 5 = b := fld_of (field_of hw fits 1)
  have field16 : fld w 16 5 = a := fld_of (field_of hw fits 2)
  have field21 : fld w 21 5 = d := fld_of (field_of hw fits 3)
  refine ofA rfl rfl rfl word small fun wf => ?_
  rw [decodeA0B_of major]
  simp only [decodeA0B, bits0, field11, field16, field21, checked, wf]

theorem Roundtrip.fmax (d : Reg) (a : Reg) (b : Reg) : Statement (.fmax d a b) := by
  have fits : Fits [(11, 6), (5, b.toNat), (5, a.toNat), (5, d.toNat), (6, 0x0B)] := ⟨by decide, b.isLt, a.isLt, d.isLt, by decide, trivial⟩
  obtain ⟨w, hw⟩ : ∃ w, w = pack [(11, 6), (5, b.toNat), (5, a.toNat), (5, d.toNat), (6, 0x0B)] := ⟨_, rfl⟩
  have word : encodeWord (.fmax d a b) = some w := by rw [hw]; rfl
  have small : w < 2 ^ 32 := lt_of hw fits
  have major : bitsOf w 26 6 = 11 := field_of hw fits 4
  have bits0 : bitsOf w 0 11 = 6 := field_of hw fits 0
  have field11 : fld w 11 5 = b := fld_of (field_of hw fits 1)
  have field16 : fld w 16 5 = a := fld_of (field_of hw fits 2)
  have field21 : fld w 21 5 = d := fld_of (field_of hw fits 3)
  refine ofA rfl rfl rfl word small fun wf => ?_
  rw [decodeA0B_of major]
  simp only [decodeA0B, bits0, field11, field16, field21, checked, wf]

theorem Roundtrip.fmint (d : Reg) (a : Reg) (b : Reg) : Statement (.fmint d a b) := by
  have fits : Fits [(11, 7), (5, b.toNat), (5, a.toNat), (5, d.toNat), (6, 0x0B)] := ⟨by decide, b.isLt, a.isLt, d.isLt, by decide, trivial⟩
  obtain ⟨w, hw⟩ : ∃ w, w = pack [(11, 7), (5, b.toNat), (5, a.toNat), (5, d.toNat), (6, 0x0B)] := ⟨_, rfl⟩
  have word : encodeWord (.fmint d a b) = some w := by rw [hw]; rfl
  have small : w < 2 ^ 32 := lt_of hw fits
  have major : bitsOf w 26 6 = 11 := field_of hw fits 4
  have bits0 : bitsOf w 0 11 = 7 := field_of hw fits 0
  have field11 : fld w 11 5 = b := fld_of (field_of hw fits 1)
  have field16 : fld w 16 5 = a := fld_of (field_of hw fits 2)
  have field21 : fld w 21 5 = d := fld_of (field_of hw fits 3)
  refine ofA rfl rfl rfl word small fun wf => ?_
  rw [decodeA0B_of major]
  simp only [decodeA0B, bits0, field11, field16, field21, checked, wf]

theorem Roundtrip.fmaxt (d : Reg) (a : Reg) (b : Reg) : Statement (.fmaxt d a b) := by
  have fits : Fits [(11, 8), (5, b.toNat), (5, a.toNat), (5, d.toNat), (6, 0x0B)] := ⟨by decide, b.isLt, a.isLt, d.isLt, by decide, trivial⟩
  obtain ⟨w, hw⟩ : ∃ w, w = pack [(11, 8), (5, b.toNat), (5, a.toNat), (5, d.toNat), (6, 0x0B)] := ⟨_, rfl⟩
  have word : encodeWord (.fmaxt d a b) = some w := by rw [hw]; rfl
  have small : w < 2 ^ 32 := lt_of hw fits
  have major : bitsOf w 26 6 = 11 := field_of hw fits 4
  have bits0 : bitsOf w 0 11 = 8 := field_of hw fits 0
  have field11 : fld w 11 5 = b := fld_of (field_of hw fits 1)
  have field16 : fld w 16 5 = a := fld_of (field_of hw fits 2)
  have field21 : fld w 21 5 = d := fld_of (field_of hw fits 3)
  refine ofA rfl rfl rfl word small fun wf => ?_
  rw [decodeA0B_of major]
  simp only [decodeA0B, bits0, field11, field16, field21, checked, wf]

theorem Roundtrip.fabs (d : Reg) (a : Reg) : Statement (.fabs d a) := by
  have fits : Fits [(11, 9), (5, 0), (5, a.toNat), (5, d.toNat), (6, 0x0B)] := ⟨by decide, by decide, a.isLt, d.isLt, by decide, trivial⟩
  obtain ⟨w, hw⟩ : ∃ w, w = pack [(11, 9), (5, 0), (5, a.toNat), (5, d.toNat), (6, 0x0B)] := ⟨_, rfl⟩
  have word : encodeWord (.fabs d a) = some w := by rw [hw]; rfl
  have small : w < 2 ^ 32 := lt_of hw fits
  have major : bitsOf w 26 6 = 11 := field_of hw fits 4
  have bits0 : bitsOf w 0 11 = 9 := field_of hw fits 0
  have bits11 : bitsOf w 11 5 = 0 := field_of hw fits 1
  have field16 : fld w 16 5 = a := fld_of (field_of hw fits 2)
  have field21 : fld w 21 5 = d := fld_of (field_of hw fits 3)
  refine ofA rfl rfl rfl word small fun wf => ?_
  rw [decodeA0B_of major]
  simp only [decodeA0B, bits0, bits11, field16, field21, zeros_nil, zeros_cons, checked, wf]

theorem Roundtrip.fneg (d : Reg) (a : Reg) : Statement (.fneg d a) := by
  have fits : Fits [(11, 10), (5, 0), (5, a.toNat), (5, d.toNat), (6, 0x0B)] := ⟨by decide, by decide, a.isLt, d.isLt, by decide, trivial⟩
  obtain ⟨w, hw⟩ : ∃ w, w = pack [(11, 10), (5, 0), (5, a.toNat), (5, d.toNat), (6, 0x0B)] := ⟨_, rfl⟩
  have word : encodeWord (.fneg d a) = some w := by rw [hw]; rfl
  have small : w < 2 ^ 32 := lt_of hw fits
  have major : bitsOf w 26 6 = 11 := field_of hw fits 4
  have bits0 : bitsOf w 0 11 = 10 := field_of hw fits 0
  have bits11 : bitsOf w 11 5 = 0 := field_of hw fits 1
  have field16 : fld w 16 5 = a := fld_of (field_of hw fits 2)
  have field21 : fld w 21 5 = d := fld_of (field_of hw fits 3)
  refine ofA rfl rfl rfl word small fun wf => ?_
  rw [decodeA0B_of major]
  simp only [decodeA0B, bits0, bits11, field16, field21, zeros_nil, zeros_cons, checked, wf]

theorem Roundtrip.fsgnj (d : Reg) (a : Reg) (b : Reg) : Statement (.fsgnj d a b) := by
  have fits : Fits [(11, 11), (5, b.toNat), (5, a.toNat), (5, d.toNat), (6, 0x0B)] := ⟨by decide, b.isLt, a.isLt, d.isLt, by decide, trivial⟩
  obtain ⟨w, hw⟩ : ∃ w, w = pack [(11, 11), (5, b.toNat), (5, a.toNat), (5, d.toNat), (6, 0x0B)] := ⟨_, rfl⟩
  have word : encodeWord (.fsgnj d a b) = some w := by rw [hw]; rfl
  have small : w < 2 ^ 32 := lt_of hw fits
  have major : bitsOf w 26 6 = 11 := field_of hw fits 4
  have bits0 : bitsOf w 0 11 = 11 := field_of hw fits 0
  have field11 : fld w 11 5 = b := fld_of (field_of hw fits 1)
  have field16 : fld w 16 5 = a := fld_of (field_of hw fits 2)
  have field21 : fld w 21 5 = d := fld_of (field_of hw fits 3)
  refine ofA rfl rfl rfl word small fun wf => ?_
  rw [decodeA0B_of major]
  simp only [decodeA0B, bits0, field11, field16, field21, checked, wf]

theorem Roundtrip.fmadd (d : Reg) (a : Reg) (b : Reg) (c : Reg) : Statement (.fmadd d a b c) := by
  have fits : Fits [(6, 0), (5, c.toNat), (5, b.toNat), (5, a.toNat), (5, d.toNat), (6, 0x0C)] := ⟨by decide, c.isLt, b.isLt, a.isLt, d.isLt, by decide, trivial⟩
  obtain ⟨w, hw⟩ : ∃ w, w = pack [(6, 0), (5, c.toNat), (5, b.toNat), (5, a.toNat), (5, d.toNat), (6, 0x0C)] := ⟨_, rfl⟩
  have word : encodeWord (.fmadd d a b c) = some w := by rw [hw]; rfl
  have small : w < 2 ^ 32 := lt_of hw fits
  have major : bitsOf w 26 6 = 12 := field_of hw fits 5
  have bits0 : bitsOf w 0 6 = 0 := field_of hw fits 0
  have field6 : fld w 6 5 = c := fld_of (field_of hw fits 1)
  have field11 : fld w 11 5 = b := fld_of (field_of hw fits 2)
  have field16 : fld w 16 5 = a := fld_of (field_of hw fits 3)
  have field21 : fld w 21 5 = d := fld_of (field_of hw fits 4)
  refine ofA rfl rfl rfl word small fun wf => ?_
  rw [decodeA0C_of major]
  simp only [decodeA0C, bits0, field6, field11, field16, field21, checked, wf]

theorem Roundtrip.fmsub (d : Reg) (a : Reg) (b : Reg) (c : Reg) : Statement (.fmsub d a b c) := by
  have fits : Fits [(6, 1), (5, c.toNat), (5, b.toNat), (5, a.toNat), (5, d.toNat), (6, 0x0C)] := ⟨by decide, c.isLt, b.isLt, a.isLt, d.isLt, by decide, trivial⟩
  obtain ⟨w, hw⟩ : ∃ w, w = pack [(6, 1), (5, c.toNat), (5, b.toNat), (5, a.toNat), (5, d.toNat), (6, 0x0C)] := ⟨_, rfl⟩
  have word : encodeWord (.fmsub d a b c) = some w := by rw [hw]; rfl
  have small : w < 2 ^ 32 := lt_of hw fits
  have major : bitsOf w 26 6 = 12 := field_of hw fits 5
  have bits0 : bitsOf w 0 6 = 1 := field_of hw fits 0
  have field6 : fld w 6 5 = c := fld_of (field_of hw fits 1)
  have field11 : fld w 11 5 = b := fld_of (field_of hw fits 2)
  have field16 : fld w 16 5 = a := fld_of (field_of hw fits 3)
  have field21 : fld w 21 5 = d := fld_of (field_of hw fits 4)
  refine ofA rfl rfl rfl word small fun wf => ?_
  rw [decodeA0C_of major]
  simp only [decodeA0C, bits0, field6, field11, field16, field21, checked, wf]

theorem Roundtrip.fnmadd (d : Reg) (a : Reg) (b : Reg) (c : Reg) : Statement (.fnmadd d a b c) := by
  have fits : Fits [(6, 2), (5, c.toNat), (5, b.toNat), (5, a.toNat), (5, d.toNat), (6, 0x0C)] := ⟨by decide, c.isLt, b.isLt, a.isLt, d.isLt, by decide, trivial⟩
  obtain ⟨w, hw⟩ : ∃ w, w = pack [(6, 2), (5, c.toNat), (5, b.toNat), (5, a.toNat), (5, d.toNat), (6, 0x0C)] := ⟨_, rfl⟩
  have word : encodeWord (.fnmadd d a b c) = some w := by rw [hw]; rfl
  have small : w < 2 ^ 32 := lt_of hw fits
  have major : bitsOf w 26 6 = 12 := field_of hw fits 5
  have bits0 : bitsOf w 0 6 = 2 := field_of hw fits 0
  have field6 : fld w 6 5 = c := fld_of (field_of hw fits 1)
  have field11 : fld w 11 5 = b := fld_of (field_of hw fits 2)
  have field16 : fld w 16 5 = a := fld_of (field_of hw fits 3)
  have field21 : fld w 21 5 = d := fld_of (field_of hw fits 4)
  refine ofA rfl rfl rfl word small fun wf => ?_
  rw [decodeA0C_of major]
  simp only [decodeA0C, bits0, field6, field11, field16, field21, checked, wf]

theorem Roundtrip.fnmsub (d : Reg) (a : Reg) (b : Reg) (c : Reg) : Statement (.fnmsub d a b c) := by
  have fits : Fits [(6, 3), (5, c.toNat), (5, b.toNat), (5, a.toNat), (5, d.toNat), (6, 0x0C)] := ⟨by decide, c.isLt, b.isLt, a.isLt, d.isLt, by decide, trivial⟩
  obtain ⟨w, hw⟩ : ∃ w, w = pack [(6, 3), (5, c.toNat), (5, b.toNat), (5, a.toNat), (5, d.toNat), (6, 0x0C)] := ⟨_, rfl⟩
  have word : encodeWord (.fnmsub d a b c) = some w := by rw [hw]; rfl
  have small : w < 2 ^ 32 := lt_of hw fits
  have major : bitsOf w 26 6 = 12 := field_of hw fits 5
  have bits0 : bitsOf w 0 6 = 3 := field_of hw fits 0
  have field6 : fld w 6 5 = c := fld_of (field_of hw fits 1)
  have field11 : fld w 11 5 = b := fld_of (field_of hw fits 2)
  have field16 : fld w 16 5 = a := fld_of (field_of hw fits 3)
  have field21 : fld w 21 5 = d := fld_of (field_of hw fits 4)
  refine ofA rfl rfl rfl word small fun wf => ?_
  rw [decodeA0C_of major]
  simp only [decodeA0C, bits0, field6, field11, field16, field21, checked, wf]

theorem Roundtrip.feq (d : Reg) (a : Reg) (b : Reg) : Statement (.feq d a b) := by
  have fits : Fits [(11, 0), (5, b.toNat), (5, a.toNat), (5, d.toNat), (6, 0x0D)] := ⟨by decide, b.isLt, a.isLt, d.isLt, by decide, trivial⟩
  obtain ⟨w, hw⟩ : ∃ w, w = pack [(11, 0), (5, b.toNat), (5, a.toNat), (5, d.toNat), (6, 0x0D)] := ⟨_, rfl⟩
  have word : encodeWord (.feq d a b) = some w := by rw [hw]; rfl
  have small : w < 2 ^ 32 := lt_of hw fits
  have major : bitsOf w 26 6 = 13 := field_of hw fits 4
  have bits0 : bitsOf w 0 11 = 0 := field_of hw fits 0
  have field11 : fld w 11 5 = b := fld_of (field_of hw fits 1)
  have field16 : fld w 16 5 = a := fld_of (field_of hw fits 2)
  have field21 : fld w 21 5 = d := fld_of (field_of hw fits 3)
  refine ofA rfl rfl rfl word small fun wf => ?_
  rw [decodeA0D_of major]
  simp only [decodeA0D, bits0, field11, field16, field21, checked, wf]

theorem Roundtrip.flt (d : Reg) (a : Reg) (b : Reg) : Statement (.flt d a b) := by
  have fits : Fits [(11, 1), (5, b.toNat), (5, a.toNat), (5, d.toNat), (6, 0x0D)] := ⟨by decide, b.isLt, a.isLt, d.isLt, by decide, trivial⟩
  obtain ⟨w, hw⟩ : ∃ w, w = pack [(11, 1), (5, b.toNat), (5, a.toNat), (5, d.toNat), (6, 0x0D)] := ⟨_, rfl⟩
  have word : encodeWord (.flt d a b) = some w := by rw [hw]; rfl
  have small : w < 2 ^ 32 := lt_of hw fits
  have major : bitsOf w 26 6 = 13 := field_of hw fits 4
  have bits0 : bitsOf w 0 11 = 1 := field_of hw fits 0
  have field11 : fld w 11 5 = b := fld_of (field_of hw fits 1)
  have field16 : fld w 16 5 = a := fld_of (field_of hw fits 2)
  have field21 : fld w 21 5 = d := fld_of (field_of hw fits 3)
  refine ofA rfl rfl rfl word small fun wf => ?_
  rw [decodeA0D_of major]
  simp only [decodeA0D, bits0, field11, field16, field21, checked, wf]

theorem Roundtrip.fle (d : Reg) (a : Reg) (b : Reg) : Statement (.fle d a b) := by
  have fits : Fits [(11, 2), (5, b.toNat), (5, a.toNat), (5, d.toNat), (6, 0x0D)] := ⟨by decide, b.isLt, a.isLt, d.isLt, by decide, trivial⟩
  obtain ⟨w, hw⟩ : ∃ w, w = pack [(11, 2), (5, b.toNat), (5, a.toNat), (5, d.toNat), (6, 0x0D)] := ⟨_, rfl⟩
  have word : encodeWord (.fle d a b) = some w := by rw [hw]; rfl
  have small : w < 2 ^ 32 := lt_of hw fits
  have major : bitsOf w 26 6 = 13 := field_of hw fits 4
  have bits0 : bitsOf w 0 11 = 2 := field_of hw fits 0
  have field11 : fld w 11 5 = b := fld_of (field_of hw fits 1)
  have field16 : fld w 16 5 = a := fld_of (field_of hw fits 2)
  have field21 : fld w 21 5 = d := fld_of (field_of hw fits 3)
  refine ofA rfl rfl rfl word small fun wf => ?_
  rw [decodeA0D_of major]
  simp only [decodeA0D, bits0, field11, field16, field21, checked, wf]

theorem Roundtrip.funord (d : Reg) (a : Reg) (b : Reg) : Statement (.funord d a b) := by
  have fits : Fits [(11, 3), (5, b.toNat), (5, a.toNat), (5, d.toNat), (6, 0x0D)] := ⟨by decide, b.isLt, a.isLt, d.isLt, by decide, trivial⟩
  obtain ⟨w, hw⟩ : ∃ w, w = pack [(11, 3), (5, b.toNat), (5, a.toNat), (5, d.toNat), (6, 0x0D)] := ⟨_, rfl⟩
  have word : encodeWord (.funord d a b) = some w := by rw [hw]; rfl
  have small : w < 2 ^ 32 := lt_of hw fits
  have major : bitsOf w 26 6 = 13 := field_of hw fits 4
  have bits0 : bitsOf w 0 11 = 3 := field_of hw fits 0
  have field11 : fld w 11 5 = b := fld_of (field_of hw fits 1)
  have field16 : fld w 16 5 = a := fld_of (field_of hw fits 2)
  have field21 : fld w 21 5 = d := fld_of (field_of hw fits 3)
  refine ofA rfl rfl rfl word small fun wf => ?_
  rw [decodeA0D_of major]
  simp only [decodeA0D, bits0, field11, field16, field21, checked, wf]

theorem Roundtrip.fclass (d : Reg) (a : Reg) : Statement (.fclass d a) := by
  have fits : Fits [(11, 4), (5, 0), (5, a.toNat), (5, d.toNat), (6, 0x0D)] := ⟨by decide, by decide, a.isLt, d.isLt, by decide, trivial⟩
  obtain ⟨w, hw⟩ : ∃ w, w = pack [(11, 4), (5, 0), (5, a.toNat), (5, d.toNat), (6, 0x0D)] := ⟨_, rfl⟩
  have word : encodeWord (.fclass d a) = some w := by rw [hw]; rfl
  have small : w < 2 ^ 32 := lt_of hw fits
  have major : bitsOf w 26 6 = 13 := field_of hw fits 4
  have bits0 : bitsOf w 0 11 = 4 := field_of hw fits 0
  have bits11 : bitsOf w 11 5 = 0 := field_of hw fits 1
  have field16 : fld w 16 5 = a := fld_of (field_of hw fits 2)
  have field21 : fld w 21 5 = d := fld_of (field_of hw fits 3)
  refine ofA rfl rfl rfl word small fun wf => ?_
  rw [decodeA0D_of major]
  simp only [decodeA0D, bits0, bits11, field16, field21, zeros_nil, zeros_cons, checked, wf]

theorem Roundtrip.fkey (d : Reg) (a : Reg) : Statement (.fkey d a) := by
  have fits : Fits [(11, 5), (5, 0), (5, a.toNat), (5, d.toNat), (6, 0x0D)] := ⟨by decide, by decide, a.isLt, d.isLt, by decide, trivial⟩
  obtain ⟨w, hw⟩ : ∃ w, w = pack [(11, 5), (5, 0), (5, a.toNat), (5, d.toNat), (6, 0x0D)] := ⟨_, rfl⟩
  have word : encodeWord (.fkey d a) = some w := by rw [hw]; rfl
  have small : w < 2 ^ 32 := lt_of hw fits
  have major : bitsOf w 26 6 = 13 := field_of hw fits 4
  have bits0 : bitsOf w 0 11 = 5 := field_of hw fits 0
  have bits11 : bitsOf w 11 5 = 0 := field_of hw fits 1
  have field16 : fld w 16 5 = a := fld_of (field_of hw fits 2)
  have field21 : fld w 21 5 = d := fld_of (field_of hw fits 3)
  refine ofA rfl rfl rfl word small fun wf => ?_
  rw [decodeA0D_of major]
  simp only [decodeA0D, bits0, bits11, field16, field21, zeros_nil, zeros_cons, checked, wf]

theorem Roundtrip.fcvtF32S32 (d : Reg) (a : Reg) : Statement (.fcvtF32S32 d a) := by
  have fits : Fits [(11, 16), (5, 0), (5, a.toNat), (5, d.toNat), (6, 0x0D)] := ⟨by decide, by decide, a.isLt, d.isLt, by decide, trivial⟩
  obtain ⟨w, hw⟩ : ∃ w, w = pack [(11, 16), (5, 0), (5, a.toNat), (5, d.toNat), (6, 0x0D)] := ⟨_, rfl⟩
  have word : encodeWord (.fcvtF32S32 d a) = some w := by rw [hw]; rfl
  have small : w < 2 ^ 32 := lt_of hw fits
  have major : bitsOf w 26 6 = 13 := field_of hw fits 4
  have bits0 : bitsOf w 0 11 = 16 := field_of hw fits 0
  have bits11 : bitsOf w 11 5 = 0 := field_of hw fits 1
  have field16 : fld w 16 5 = a := fld_of (field_of hw fits 2)
  have field21 : fld w 21 5 = d := fld_of (field_of hw fits 3)
  refine ofA rfl rfl rfl word small fun wf => ?_
  rw [decodeA0D_of major]
  simp only [decodeA0D, bits0, bits11, field16, field21, zeros_nil, zeros_cons, checked, wf]

theorem Roundtrip.fcvtF32S64 (d : Reg) (a : Reg) : Statement (.fcvtF32S64 d a) := by
  have fits : Fits [(11, 17), (5, 0), (5, a.toNat), (5, d.toNat), (6, 0x0D)] := ⟨by decide, by decide, a.isLt, d.isLt, by decide, trivial⟩
  obtain ⟨w, hw⟩ : ∃ w, w = pack [(11, 17), (5, 0), (5, a.toNat), (5, d.toNat), (6, 0x0D)] := ⟨_, rfl⟩
  have word : encodeWord (.fcvtF32S64 d a) = some w := by rw [hw]; rfl
  have small : w < 2 ^ 32 := lt_of hw fits
  have major : bitsOf w 26 6 = 13 := field_of hw fits 4
  have bits0 : bitsOf w 0 11 = 17 := field_of hw fits 0
  have bits11 : bitsOf w 11 5 = 0 := field_of hw fits 1
  have field16 : fld w 16 5 = a := fld_of (field_of hw fits 2)
  have field21 : fld w 21 5 = d := fld_of (field_of hw fits 3)
  refine ofA rfl rfl rfl word small fun wf => ?_
  rw [decodeA0D_of major]
  simp only [decodeA0D, bits0, bits11, field16, field21, zeros_nil, zeros_cons, checked, wf]

theorem Roundtrip.fcvtS32F32 (d : Reg) (a : Reg) : Statement (.fcvtS32F32 d a) := by
  have fits : Fits [(11, 18), (5, 0), (5, a.toNat), (5, d.toNat), (6, 0x0D)] := ⟨by decide, by decide, a.isLt, d.isLt, by decide, trivial⟩
  obtain ⟨w, hw⟩ : ∃ w, w = pack [(11, 18), (5, 0), (5, a.toNat), (5, d.toNat), (6, 0x0D)] := ⟨_, rfl⟩
  have word : encodeWord (.fcvtS32F32 d a) = some w := by rw [hw]; rfl
  have small : w < 2 ^ 32 := lt_of hw fits
  have major : bitsOf w 26 6 = 13 := field_of hw fits 4
  have bits0 : bitsOf w 0 11 = 18 := field_of hw fits 0
  have bits11 : bitsOf w 11 5 = 0 := field_of hw fits 1
  have field16 : fld w 16 5 = a := fld_of (field_of hw fits 2)
  have field21 : fld w 21 5 = d := fld_of (field_of hw fits 3)
  refine ofA rfl rfl rfl word small fun wf => ?_
  rw [decodeA0D_of major]
  simp only [decodeA0D, bits0, bits11, field16, field21, zeros_nil, zeros_cons, checked, wf]

theorem Roundtrip.fcvtS64F32 (d : Reg) (a : Reg) : Statement (.fcvtS64F32 d a) := by
  have fits : Fits [(11, 19), (5, 0), (5, a.toNat), (5, d.toNat), (6, 0x0D)] := ⟨by decide, by decide, a.isLt, d.isLt, by decide, trivial⟩
  obtain ⟨w, hw⟩ : ∃ w, w = pack [(11, 19), (5, 0), (5, a.toNat), (5, d.toNat), (6, 0x0D)] := ⟨_, rfl⟩
  have word : encodeWord (.fcvtS64F32 d a) = some w := by rw [hw]; rfl
  have small : w < 2 ^ 32 := lt_of hw fits
  have major : bitsOf w 26 6 = 13 := field_of hw fits 4
  have bits0 : bitsOf w 0 11 = 19 := field_of hw fits 0
  have bits11 : bitsOf w 11 5 = 0 := field_of hw fits 1
  have field16 : fld w 16 5 = a := fld_of (field_of hw fits 2)
  have field21 : fld w 21 5 = d := fld_of (field_of hw fits 3)
  refine ofA rfl rfl rfl word small fun wf => ?_
  rw [decodeA0D_of major]
  simp only [decodeA0D, bits0, bits11, field16, field21, zeros_nil, zeros_cons, checked, wf]

theorem Roundtrip.fcvtF32Bf16 (d : Reg) (a : Reg) : Statement (.fcvtF32Bf16 d a) := by
  have fits : Fits [(11, 20), (5, 0), (5, a.toNat), (5, d.toNat), (6, 0x0D)] := ⟨by decide, by decide, a.isLt, d.isLt, by decide, trivial⟩
  obtain ⟨w, hw⟩ : ∃ w, w = pack [(11, 20), (5, 0), (5, a.toNat), (5, d.toNat), (6, 0x0D)] := ⟨_, rfl⟩
  have word : encodeWord (.fcvtF32Bf16 d a) = some w := by rw [hw]; rfl
  have small : w < 2 ^ 32 := lt_of hw fits
  have major : bitsOf w 26 6 = 13 := field_of hw fits 4
  have bits0 : bitsOf w 0 11 = 20 := field_of hw fits 0
  have bits11 : bitsOf w 11 5 = 0 := field_of hw fits 1
  have field16 : fld w 16 5 = a := fld_of (field_of hw fits 2)
  have field21 : fld w 21 5 = d := fld_of (field_of hw fits 3)
  refine ofA rfl rfl rfl word small fun wf => ?_
  rw [decodeA0D_of major]
  simp only [decodeA0D, bits0, bits11, field16, field21, zeros_nil, zeros_cons, checked, wf]

theorem Roundtrip.fcvtBf16F32 (d : Reg) (a : Reg) : Statement (.fcvtBf16F32 d a) := by
  have fits : Fits [(11, 21), (5, 0), (5, a.toNat), (5, d.toNat), (6, 0x0D)] := ⟨by decide, by decide, a.isLt, d.isLt, by decide, trivial⟩
  obtain ⟨w, hw⟩ : ∃ w, w = pack [(11, 21), (5, 0), (5, a.toNat), (5, d.toNat), (6, 0x0D)] := ⟨_, rfl⟩
  have word : encodeWord (.fcvtBf16F32 d a) = some w := by rw [hw]; rfl
  have small : w < 2 ^ 32 := lt_of hw fits
  have major : bitsOf w 26 6 = 13 := field_of hw fits 4
  have bits0 : bitsOf w 0 11 = 21 := field_of hw fits 0
  have bits11 : bitsOf w 11 5 = 0 := field_of hw fits 1
  have field16 : fld w 16 5 = a := fld_of (field_of hw fits 2)
  have field21 : fld w 21 5 = d := fld_of (field_of hw fits 3)
  refine ofA rfl rfl rfl word small fun wf => ?_
  rw [decodeA0D_of major]
  simp only [decodeA0D, bits0, bits11, field16, field21, zeros_nil, zeros_cons, checked, wf]

theorem Roundtrip.fcvtF32E4m3 (d : Reg) (a : Reg) : Statement (.fcvtF32E4m3 d a) := by
  have fits : Fits [(11, 22), (5, 0), (5, a.toNat), (5, d.toNat), (6, 0x0D)] := ⟨by decide, by decide, a.isLt, d.isLt, by decide, trivial⟩
  obtain ⟨w, hw⟩ : ∃ w, w = pack [(11, 22), (5, 0), (5, a.toNat), (5, d.toNat), (6, 0x0D)] := ⟨_, rfl⟩
  have word : encodeWord (.fcvtF32E4m3 d a) = some w := by rw [hw]; rfl
  have small : w < 2 ^ 32 := lt_of hw fits
  have major : bitsOf w 26 6 = 13 := field_of hw fits 4
  have bits0 : bitsOf w 0 11 = 22 := field_of hw fits 0
  have bits11 : bitsOf w 11 5 = 0 := field_of hw fits 1
  have field16 : fld w 16 5 = a := fld_of (field_of hw fits 2)
  have field21 : fld w 21 5 = d := fld_of (field_of hw fits 3)
  refine ofA rfl rfl rfl word small fun wf => ?_
  rw [decodeA0D_of major]
  simp only [decodeA0D, bits0, bits11, field16, field21, zeros_nil, zeros_cons, checked, wf]

theorem Roundtrip.fcvtE4m3F32 (d : Reg) (a : Reg) : Statement (.fcvtE4m3F32 d a) := by
  have fits : Fits [(11, 23), (5, 0), (5, a.toNat), (5, d.toNat), (6, 0x0D)] := ⟨by decide, by decide, a.isLt, d.isLt, by decide, trivial⟩
  obtain ⟨w, hw⟩ : ∃ w, w = pack [(11, 23), (5, 0), (5, a.toNat), (5, d.toNat), (6, 0x0D)] := ⟨_, rfl⟩
  have word : encodeWord (.fcvtE4m3F32 d a) = some w := by rw [hw]; rfl
  have small : w < 2 ^ 32 := lt_of hw fits
  have major : bitsOf w 26 6 = 13 := field_of hw fits 4
  have bits0 : bitsOf w 0 11 = 23 := field_of hw fits 0
  have bits11 : bitsOf w 11 5 = 0 := field_of hw fits 1
  have field16 : fld w 16 5 = a := fld_of (field_of hw fits 2)
  have field21 : fld w 21 5 = d := fld_of (field_of hw fits 3)
  refine ofA rfl rfl rfl word small fun wf => ?_
  rw [decodeA0D_of major]
  simp only [decodeA0D, bits0, bits11, field16, field21, zeros_nil, zeros_cons, checked, wf]

theorem Roundtrip.fcvtF32E2m1 (d : Reg) (a : Reg) : Statement (.fcvtF32E2m1 d a) := by
  have fits : Fits [(11, 24), (5, 0), (5, a.toNat), (5, d.toNat), (6, 0x0D)] := ⟨by decide, by decide, a.isLt, d.isLt, by decide, trivial⟩
  obtain ⟨w, hw⟩ : ∃ w, w = pack [(11, 24), (5, 0), (5, a.toNat), (5, d.toNat), (6, 0x0D)] := ⟨_, rfl⟩
  have word : encodeWord (.fcvtF32E2m1 d a) = some w := by rw [hw]; rfl
  have small : w < 2 ^ 32 := lt_of hw fits
  have major : bitsOf w 26 6 = 13 := field_of hw fits 4
  have bits0 : bitsOf w 0 11 = 24 := field_of hw fits 0
  have bits11 : bitsOf w 11 5 = 0 := field_of hw fits 1
  have field16 : fld w 16 5 = a := fld_of (field_of hw fits 2)
  have field21 : fld w 21 5 = d := fld_of (field_of hw fits 3)
  refine ofA rfl rfl rfl word small fun wf => ?_
  rw [decodeA0D_of major]
  simp only [decodeA0D, bits0, bits11, field16, field21, zeros_nil, zeros_cons, checked, wf]

theorem Roundtrip.fcvtE2m1F32 (d : Reg) (a : Reg) : Statement (.fcvtE2m1F32 d a) := by
  have fits : Fits [(11, 25), (5, 0), (5, a.toNat), (5, d.toNat), (6, 0x0D)] := ⟨by decide, by decide, a.isLt, d.isLt, by decide, trivial⟩
  obtain ⟨w, hw⟩ : ∃ w, w = pack [(11, 25), (5, 0), (5, a.toNat), (5, d.toNat), (6, 0x0D)] := ⟨_, rfl⟩
  have word : encodeWord (.fcvtE2m1F32 d a) = some w := by rw [hw]; rfl
  have small : w < 2 ^ 32 := lt_of hw fits
  have major : bitsOf w 26 6 = 13 := field_of hw fits 4
  have bits0 : bitsOf w 0 11 = 25 := field_of hw fits 0
  have bits11 : bitsOf w 11 5 = 0 := field_of hw fits 1
  have field16 : fld w 16 5 = a := fld_of (field_of hw fits 2)
  have field21 : fld w 21 5 = d := fld_of (field_of hw fits 3)
  refine ofA rfl rfl rfl word small fun wf => ?_
  rw [decodeA0D_of major]
  simp only [decodeA0D, bits0, bits11, field16, field21, zeros_nil, zeros_cons, checked, wf]

theorem Roundtrip.fcvtF32N32 (d : Reg) (a : Reg) : Statement (.fcvtF32N32 d a) := by
  have fits : Fits [(11, 26), (5, 0), (5, a.toNat), (5, d.toNat), (6, 0x0D)] := ⟨by decide, by decide, a.isLt, d.isLt, by decide, trivial⟩
  obtain ⟨w, hw⟩ : ∃ w, w = pack [(11, 26), (5, 0), (5, a.toNat), (5, d.toNat), (6, 0x0D)] := ⟨_, rfl⟩
  have word : encodeWord (.fcvtF32N32 d a) = some w := by rw [hw]; rfl
  have small : w < 2 ^ 32 := lt_of hw fits
  have major : bitsOf w 26 6 = 13 := field_of hw fits 4
  have bits0 : bitsOf w 0 11 = 26 := field_of hw fits 0
  have bits11 : bitsOf w 11 5 = 0 := field_of hw fits 1
  have field16 : fld w 16 5 = a := fld_of (field_of hw fits 2)
  have field21 : fld w 21 5 = d := fld_of (field_of hw fits 3)
  refine ofA rfl rfl rfl word small fun wf => ?_
  rw [decodeA0D_of major]
  simp only [decodeA0D, bits0, bits11, field16, field21, zeros_nil, zeros_cons, checked, wf]

theorem Roundtrip.fcvtN32F32 (d : Reg) (a : Reg) : Statement (.fcvtN32F32 d a) := by
  have fits : Fits [(11, 27), (5, 0), (5, a.toNat), (5, d.toNat), (6, 0x0D)] := ⟨by decide, by decide, a.isLt, d.isLt, by decide, trivial⟩
  obtain ⟨w, hw⟩ : ∃ w, w = pack [(11, 27), (5, 0), (5, a.toNat), (5, d.toNat), (6, 0x0D)] := ⟨_, rfl⟩
  have word : encodeWord (.fcvtN32F32 d a) = some w := by rw [hw]; rfl
  have small : w < 2 ^ 32 := lt_of hw fits
  have major : bitsOf w 26 6 = 13 := field_of hw fits 4
  have bits0 : bitsOf w 0 11 = 27 := field_of hw fits 0
  have bits11 : bitsOf w 11 5 = 0 := field_of hw fits 1
  have field16 : fld w 16 5 = a := fld_of (field_of hw fits 2)
  have field21 : fld w 21 5 = d := fld_of (field_of hw fits 3)
  refine ofA rfl rfl rfl word small fun wf => ?_
  rw [decodeA0D_of major]
  simp only [decodeA0D, bits0, bits11, field16, field21, zeros_nil, zeros_cons, checked, wf]

theorem Roundtrip.vadd (d : Reg) (a : Reg) (b : Reg) (m : MReg) (t : LaneTy) : Statement (.vadd d a b m t) := by
  have fits : Fits [(4, 0), (4, t.code.toNat), (3, m.toNat), (5, b.toNat), (5, a.toNat), (5, d.toNat), (6, 0x10)] := ⟨by decide, t.code.isLt, m.isLt, b.isLt, a.isLt, d.isLt, by decide, trivial⟩
  obtain ⟨w, hw⟩ : ∃ w, w = pack [(4, 0), (4, t.code.toNat), (3, m.toNat), (5, b.toNat), (5, a.toNat), (5, d.toNat), (6, 0x10)] := ⟨_, rfl⟩
  have word : encodeWord (.vadd d a b m t) = some w := by rw [hw]; rfl
  have small : w < 2 ^ 32 := lt_of hw fits
  have major : bitsOf w 26 6 = 16 := field_of hw fits 6
  have bits0 : bitsOf w 0 4 = 0 := field_of hw fits 0
  have field4 : fld w 4 4 = t.code := fld_of (field_of hw fits 1)
  have field8 : fld w 8 3 = m := fld_of (field_of hw fits 2)
  have field11 : fld w 11 5 = b := fld_of (field_of hw fits 3)
  have field16 : fld w 16 5 = a := fld_of (field_of hw fits 4)
  have field21 : fld w 21 5 = d := fld_of (field_of hw fits 5)
  refine ofA rfl rfl rfl word small fun wf => ?_
  rw [decodeA10_of major]
  simp only [decodeA10, bits0, field4, field8, field11, field16, field21, typed_code, checked, wf]

theorem Roundtrip.vsub (d : Reg) (a : Reg) (b : Reg) (m : MReg) (t : LaneTy) : Statement (.vsub d a b m t) := by
  have fits : Fits [(4, 1), (4, t.code.toNat), (3, m.toNat), (5, b.toNat), (5, a.toNat), (5, d.toNat), (6, 0x10)] := ⟨by decide, t.code.isLt, m.isLt, b.isLt, a.isLt, d.isLt, by decide, trivial⟩
  obtain ⟨w, hw⟩ : ∃ w, w = pack [(4, 1), (4, t.code.toNat), (3, m.toNat), (5, b.toNat), (5, a.toNat), (5, d.toNat), (6, 0x10)] := ⟨_, rfl⟩
  have word : encodeWord (.vsub d a b m t) = some w := by rw [hw]; rfl
  have small : w < 2 ^ 32 := lt_of hw fits
  have major : bitsOf w 26 6 = 16 := field_of hw fits 6
  have bits0 : bitsOf w 0 4 = 1 := field_of hw fits 0
  have field4 : fld w 4 4 = t.code := fld_of (field_of hw fits 1)
  have field8 : fld w 8 3 = m := fld_of (field_of hw fits 2)
  have field11 : fld w 11 5 = b := fld_of (field_of hw fits 3)
  have field16 : fld w 16 5 = a := fld_of (field_of hw fits 4)
  have field21 : fld w 21 5 = d := fld_of (field_of hw fits 5)
  refine ofA rfl rfl rfl word small fun wf => ?_
  rw [decodeA10_of major]
  simp only [decodeA10, bits0, field4, field8, field11, field16, field21, typed_code, checked, wf]

theorem Roundtrip.vmul (d : Reg) (a : Reg) (b : Reg) (m : MReg) (t : LaneTy) : Statement (.vmul d a b m t) := by
  have fits : Fits [(4, 2), (4, t.code.toNat), (3, m.toNat), (5, b.toNat), (5, a.toNat), (5, d.toNat), (6, 0x10)] := ⟨by decide, t.code.isLt, m.isLt, b.isLt, a.isLt, d.isLt, by decide, trivial⟩
  obtain ⟨w, hw⟩ : ∃ w, w = pack [(4, 2), (4, t.code.toNat), (3, m.toNat), (5, b.toNat), (5, a.toNat), (5, d.toNat), (6, 0x10)] := ⟨_, rfl⟩
  have word : encodeWord (.vmul d a b m t) = some w := by rw [hw]; rfl
  have small : w < 2 ^ 32 := lt_of hw fits
  have major : bitsOf w 26 6 = 16 := field_of hw fits 6
  have bits0 : bitsOf w 0 4 = 2 := field_of hw fits 0
  have field4 : fld w 4 4 = t.code := fld_of (field_of hw fits 1)
  have field8 : fld w 8 3 = m := fld_of (field_of hw fits 2)
  have field11 : fld w 11 5 = b := fld_of (field_of hw fits 3)
  have field16 : fld w 16 5 = a := fld_of (field_of hw fits 4)
  have field21 : fld w 21 5 = d := fld_of (field_of hw fits 5)
  refine ofA rfl rfl rfl word small fun wf => ?_
  rw [decodeA10_of major]
  simp only [decodeA10, bits0, field4, field8, field11, field16, field21, typed_code, checked, wf]

theorem Roundtrip.vdiv (d : Reg) (a : Reg) (b : Reg) (m : MReg) (t : LaneTy) : Statement (.vdiv d a b m t) := by
  have fits : Fits [(4, 3), (4, t.code.toNat), (3, m.toNat), (5, b.toNat), (5, a.toNat), (5, d.toNat), (6, 0x10)] := ⟨by decide, t.code.isLt, m.isLt, b.isLt, a.isLt, d.isLt, by decide, trivial⟩
  obtain ⟨w, hw⟩ : ∃ w, w = pack [(4, 3), (4, t.code.toNat), (3, m.toNat), (5, b.toNat), (5, a.toNat), (5, d.toNat), (6, 0x10)] := ⟨_, rfl⟩
  have word : encodeWord (.vdiv d a b m t) = some w := by rw [hw]; rfl
  have small : w < 2 ^ 32 := lt_of hw fits
  have major : bitsOf w 26 6 = 16 := field_of hw fits 6
  have bits0 : bitsOf w 0 4 = 3 := field_of hw fits 0
  have field4 : fld w 4 4 = t.code := fld_of (field_of hw fits 1)
  have field8 : fld w 8 3 = m := fld_of (field_of hw fits 2)
  have field11 : fld w 11 5 = b := fld_of (field_of hw fits 3)
  have field16 : fld w 16 5 = a := fld_of (field_of hw fits 4)
  have field21 : fld w 21 5 = d := fld_of (field_of hw fits 5)
  refine ofA rfl rfl rfl word small fun wf => ?_
  rw [decodeA10_of major]
  simp only [decodeA10, bits0, field4, field8, field11, field16, field21, typed_code, checked, wf]

theorem Roundtrip.vmin (d : Reg) (a : Reg) (b : Reg) (m : MReg) (t : LaneTy) : Statement (.vmin d a b m t) := by
  have fits : Fits [(4, 4), (4, t.code.toNat), (3, m.toNat), (5, b.toNat), (5, a.toNat), (5, d.toNat), (6, 0x10)] := ⟨by decide, t.code.isLt, m.isLt, b.isLt, a.isLt, d.isLt, by decide, trivial⟩
  obtain ⟨w, hw⟩ : ∃ w, w = pack [(4, 4), (4, t.code.toNat), (3, m.toNat), (5, b.toNat), (5, a.toNat), (5, d.toNat), (6, 0x10)] := ⟨_, rfl⟩
  have word : encodeWord (.vmin d a b m t) = some w := by rw [hw]; rfl
  have small : w < 2 ^ 32 := lt_of hw fits
  have major : bitsOf w 26 6 = 16 := field_of hw fits 6
  have bits0 : bitsOf w 0 4 = 4 := field_of hw fits 0
  have field4 : fld w 4 4 = t.code := fld_of (field_of hw fits 1)
  have field8 : fld w 8 3 = m := fld_of (field_of hw fits 2)
  have field11 : fld w 11 5 = b := fld_of (field_of hw fits 3)
  have field16 : fld w 16 5 = a := fld_of (field_of hw fits 4)
  have field21 : fld w 21 5 = d := fld_of (field_of hw fits 5)
  refine ofA rfl rfl rfl word small fun wf => ?_
  rw [decodeA10_of major]
  simp only [decodeA10, bits0, field4, field8, field11, field16, field21, typed_code, checked, wf]

theorem Roundtrip.vmax (d : Reg) (a : Reg) (b : Reg) (m : MReg) (t : LaneTy) : Statement (.vmax d a b m t) := by
  have fits : Fits [(4, 5), (4, t.code.toNat), (3, m.toNat), (5, b.toNat), (5, a.toNat), (5, d.toNat), (6, 0x10)] := ⟨by decide, t.code.isLt, m.isLt, b.isLt, a.isLt, d.isLt, by decide, trivial⟩
  obtain ⟨w, hw⟩ : ∃ w, w = pack [(4, 5), (4, t.code.toNat), (3, m.toNat), (5, b.toNat), (5, a.toNat), (5, d.toNat), (6, 0x10)] := ⟨_, rfl⟩
  have word : encodeWord (.vmax d a b m t) = some w := by rw [hw]; rfl
  have small : w < 2 ^ 32 := lt_of hw fits
  have major : bitsOf w 26 6 = 16 := field_of hw fits 6
  have bits0 : bitsOf w 0 4 = 5 := field_of hw fits 0
  have field4 : fld w 4 4 = t.code := fld_of (field_of hw fits 1)
  have field8 : fld w 8 3 = m := fld_of (field_of hw fits 2)
  have field11 : fld w 11 5 = b := fld_of (field_of hw fits 3)
  have field16 : fld w 16 5 = a := fld_of (field_of hw fits 4)
  have field21 : fld w 21 5 = d := fld_of (field_of hw fits 5)
  refine ofA rfl rfl rfl word small fun wf => ?_
  rw [decodeA10_of major]
  simp only [decodeA10, bits0, field4, field8, field11, field16, field21, typed_code, checked, wf]

theorem Roundtrip.vand (d : Reg) (a : Reg) (b : Reg) (m : MReg) (t : LaneTy) : Statement (.vand d a b m t) := by
  have fits : Fits [(4, 6), (4, t.code.toNat), (3, m.toNat), (5, b.toNat), (5, a.toNat), (5, d.toNat), (6, 0x10)] := ⟨by decide, t.code.isLt, m.isLt, b.isLt, a.isLt, d.isLt, by decide, trivial⟩
  obtain ⟨w, hw⟩ : ∃ w, w = pack [(4, 6), (4, t.code.toNat), (3, m.toNat), (5, b.toNat), (5, a.toNat), (5, d.toNat), (6, 0x10)] := ⟨_, rfl⟩
  have word : encodeWord (.vand d a b m t) = some w := by rw [hw]; rfl
  have small : w < 2 ^ 32 := lt_of hw fits
  have major : bitsOf w 26 6 = 16 := field_of hw fits 6
  have bits0 : bitsOf w 0 4 = 6 := field_of hw fits 0
  have field4 : fld w 4 4 = t.code := fld_of (field_of hw fits 1)
  have field8 : fld w 8 3 = m := fld_of (field_of hw fits 2)
  have field11 : fld w 11 5 = b := fld_of (field_of hw fits 3)
  have field16 : fld w 16 5 = a := fld_of (field_of hw fits 4)
  have field21 : fld w 21 5 = d := fld_of (field_of hw fits 5)
  refine ofA rfl rfl rfl word small fun wf => ?_
  rw [decodeA10_of major]
  simp only [decodeA10, bits0, field4, field8, field11, field16, field21, typed_code, checked, wf]

theorem Roundtrip.vor (d : Reg) (a : Reg) (b : Reg) (m : MReg) (t : LaneTy) : Statement (.vor d a b m t) := by
  have fits : Fits [(4, 7), (4, t.code.toNat), (3, m.toNat), (5, b.toNat), (5, a.toNat), (5, d.toNat), (6, 0x10)] := ⟨by decide, t.code.isLt, m.isLt, b.isLt, a.isLt, d.isLt, by decide, trivial⟩
  obtain ⟨w, hw⟩ : ∃ w, w = pack [(4, 7), (4, t.code.toNat), (3, m.toNat), (5, b.toNat), (5, a.toNat), (5, d.toNat), (6, 0x10)] := ⟨_, rfl⟩
  have word : encodeWord (.vor d a b m t) = some w := by rw [hw]; rfl
  have small : w < 2 ^ 32 := lt_of hw fits
  have major : bitsOf w 26 6 = 16 := field_of hw fits 6
  have bits0 : bitsOf w 0 4 = 7 := field_of hw fits 0
  have field4 : fld w 4 4 = t.code := fld_of (field_of hw fits 1)
  have field8 : fld w 8 3 = m := fld_of (field_of hw fits 2)
  have field11 : fld w 11 5 = b := fld_of (field_of hw fits 3)
  have field16 : fld w 16 5 = a := fld_of (field_of hw fits 4)
  have field21 : fld w 21 5 = d := fld_of (field_of hw fits 5)
  refine ofA rfl rfl rfl word small fun wf => ?_
  rw [decodeA10_of major]
  simp only [decodeA10, bits0, field4, field8, field11, field16, field21, typed_code, checked, wf]

theorem Roundtrip.vxor (d : Reg) (a : Reg) (b : Reg) (m : MReg) (t : LaneTy) : Statement (.vxor d a b m t) := by
  have fits : Fits [(4, 8), (4, t.code.toNat), (3, m.toNat), (5, b.toNat), (5, a.toNat), (5, d.toNat), (6, 0x10)] := ⟨by decide, t.code.isLt, m.isLt, b.isLt, a.isLt, d.isLt, by decide, trivial⟩
  obtain ⟨w, hw⟩ : ∃ w, w = pack [(4, 8), (4, t.code.toNat), (3, m.toNat), (5, b.toNat), (5, a.toNat), (5, d.toNat), (6, 0x10)] := ⟨_, rfl⟩
  have word : encodeWord (.vxor d a b m t) = some w := by rw [hw]; rfl
  have small : w < 2 ^ 32 := lt_of hw fits
  have major : bitsOf w 26 6 = 16 := field_of hw fits 6
  have bits0 : bitsOf w 0 4 = 8 := field_of hw fits 0
  have field4 : fld w 4 4 = t.code := fld_of (field_of hw fits 1)
  have field8 : fld w 8 3 = m := fld_of (field_of hw fits 2)
  have field11 : fld w 11 5 = b := fld_of (field_of hw fits 3)
  have field16 : fld w 16 5 = a := fld_of (field_of hw fits 4)
  have field21 : fld w 21 5 = d := fld_of (field_of hw fits 5)
  refine ofA rfl rfl rfl word small fun wf => ?_
  rw [decodeA10_of major]
  simp only [decodeA10, bits0, field4, field8, field11, field16, field21, typed_code, checked, wf]

theorem Roundtrip.vsll (d : Reg) (a : Reg) (b : Reg) (m : MReg) (t : LaneTy) : Statement (.vsll d a b m t) := by
  have fits : Fits [(4, 9), (4, t.code.toNat), (3, m.toNat), (5, b.toNat), (5, a.toNat), (5, d.toNat), (6, 0x10)] := ⟨by decide, t.code.isLt, m.isLt, b.isLt, a.isLt, d.isLt, by decide, trivial⟩
  obtain ⟨w, hw⟩ : ∃ w, w = pack [(4, 9), (4, t.code.toNat), (3, m.toNat), (5, b.toNat), (5, a.toNat), (5, d.toNat), (6, 0x10)] := ⟨_, rfl⟩
  have word : encodeWord (.vsll d a b m t) = some w := by rw [hw]; rfl
  have small : w < 2 ^ 32 := lt_of hw fits
  have major : bitsOf w 26 6 = 16 := field_of hw fits 6
  have bits0 : bitsOf w 0 4 = 9 := field_of hw fits 0
  have field4 : fld w 4 4 = t.code := fld_of (field_of hw fits 1)
  have field8 : fld w 8 3 = m := fld_of (field_of hw fits 2)
  have field11 : fld w 11 5 = b := fld_of (field_of hw fits 3)
  have field16 : fld w 16 5 = a := fld_of (field_of hw fits 4)
  have field21 : fld w 21 5 = d := fld_of (field_of hw fits 5)
  refine ofA rfl rfl rfl word small fun wf => ?_
  rw [decodeA10_of major]
  simp only [decodeA10, bits0, field4, field8, field11, field16, field21, typed_code, checked, wf]

theorem Roundtrip.vsrl (d : Reg) (a : Reg) (b : Reg) (m : MReg) (t : LaneTy) : Statement (.vsrl d a b m t) := by
  have fits : Fits [(4, 10), (4, t.code.toNat), (3, m.toNat), (5, b.toNat), (5, a.toNat), (5, d.toNat), (6, 0x10)] := ⟨by decide, t.code.isLt, m.isLt, b.isLt, a.isLt, d.isLt, by decide, trivial⟩
  obtain ⟨w, hw⟩ : ∃ w, w = pack [(4, 10), (4, t.code.toNat), (3, m.toNat), (5, b.toNat), (5, a.toNat), (5, d.toNat), (6, 0x10)] := ⟨_, rfl⟩
  have word : encodeWord (.vsrl d a b m t) = some w := by rw [hw]; rfl
  have small : w < 2 ^ 32 := lt_of hw fits
  have major : bitsOf w 26 6 = 16 := field_of hw fits 6
  have bits0 : bitsOf w 0 4 = 10 := field_of hw fits 0
  have field4 : fld w 4 4 = t.code := fld_of (field_of hw fits 1)
  have field8 : fld w 8 3 = m := fld_of (field_of hw fits 2)
  have field11 : fld w 11 5 = b := fld_of (field_of hw fits 3)
  have field16 : fld w 16 5 = a := fld_of (field_of hw fits 4)
  have field21 : fld w 21 5 = d := fld_of (field_of hw fits 5)
  refine ofA rfl rfl rfl word small fun wf => ?_
  rw [decodeA10_of major]
  simp only [decodeA10, bits0, field4, field8, field11, field16, field21, typed_code, checked, wf]

theorem Roundtrip.vsra (d : Reg) (a : Reg) (b : Reg) (m : MReg) (t : LaneTy) : Statement (.vsra d a b m t) := by
  have fits : Fits [(4, 11), (4, t.code.toNat), (3, m.toNat), (5, b.toNat), (5, a.toNat), (5, d.toNat), (6, 0x10)] := ⟨by decide, t.code.isLt, m.isLt, b.isLt, a.isLt, d.isLt, by decide, trivial⟩
  obtain ⟨w, hw⟩ : ∃ w, w = pack [(4, 11), (4, t.code.toNat), (3, m.toNat), (5, b.toNat), (5, a.toNat), (5, d.toNat), (6, 0x10)] := ⟨_, rfl⟩
  have word : encodeWord (.vsra d a b m t) = some w := by rw [hw]; rfl
  have small : w < 2 ^ 32 := lt_of hw fits
  have major : bitsOf w 26 6 = 16 := field_of hw fits 6
  have bits0 : bitsOf w 0 4 = 11 := field_of hw fits 0
  have field4 : fld w 4 4 = t.code := fld_of (field_of hw fits 1)
  have field8 : fld w 8 3 = m := fld_of (field_of hw fits 2)
  have field11 : fld w 11 5 = b := fld_of (field_of hw fits 3)
  have field16 : fld w 16 5 = a := fld_of (field_of hw fits 4)
  have field21 : fld w 21 5 = d := fld_of (field_of hw fits 5)
  refine ofA rfl rfl rfl word small fun wf => ?_
  rw [decodeA10_of major]
  simp only [decodeA10, bits0, field4, field8, field11, field16, field21, typed_code, checked, wf]

theorem Roundtrip.vabs (d : Reg) (a : Reg) (m : MReg) (t : LaneTy) : Statement (.vabs d a m t) := by
  have fits : Fits [(4, 12), (4, t.code.toNat), (3, m.toNat), (5, 0), (5, a.toNat), (5, d.toNat), (6, 0x10)] := ⟨by decide, t.code.isLt, m.isLt, by decide, a.isLt, d.isLt, by decide, trivial⟩
  obtain ⟨w, hw⟩ : ∃ w, w = pack [(4, 12), (4, t.code.toNat), (3, m.toNat), (5, 0), (5, a.toNat), (5, d.toNat), (6, 0x10)] := ⟨_, rfl⟩
  have word : encodeWord (.vabs d a m t) = some w := by rw [hw]; rfl
  have small : w < 2 ^ 32 := lt_of hw fits
  have major : bitsOf w 26 6 = 16 := field_of hw fits 6
  have bits0 : bitsOf w 0 4 = 12 := field_of hw fits 0
  have bits11 : bitsOf w 11 5 = 0 := field_of hw fits 3
  have field4 : fld w 4 4 = t.code := fld_of (field_of hw fits 1)
  have field8 : fld w 8 3 = m := fld_of (field_of hw fits 2)
  have field16 : fld w 16 5 = a := fld_of (field_of hw fits 4)
  have field21 : fld w 21 5 = d := fld_of (field_of hw fits 5)
  refine ofA rfl rfl rfl word small fun wf => ?_
  rw [decodeA10_of major]
  simp only [decodeA10, bits0, bits11, field4, field8, field16, field21, zeros_nil, zeros_cons, typed_code, checked, wf]

theorem Roundtrip.vneg (d : Reg) (a : Reg) (m : MReg) (t : LaneTy) : Statement (.vneg d a m t) := by
  have fits : Fits [(4, 13), (4, t.code.toNat), (3, m.toNat), (5, 0), (5, a.toNat), (5, d.toNat), (6, 0x10)] := ⟨by decide, t.code.isLt, m.isLt, by decide, a.isLt, d.isLt, by decide, trivial⟩
  obtain ⟨w, hw⟩ : ∃ w, w = pack [(4, 13), (4, t.code.toNat), (3, m.toNat), (5, 0), (5, a.toNat), (5, d.toNat), (6, 0x10)] := ⟨_, rfl⟩
  have word : encodeWord (.vneg d a m t) = some w := by rw [hw]; rfl
  have small : w < 2 ^ 32 := lt_of hw fits
  have major : bitsOf w 26 6 = 16 := field_of hw fits 6
  have bits0 : bitsOf w 0 4 = 13 := field_of hw fits 0
  have bits11 : bitsOf w 11 5 = 0 := field_of hw fits 3
  have field4 : fld w 4 4 = t.code := fld_of (field_of hw fits 1)
  have field8 : fld w 8 3 = m := fld_of (field_of hw fits 2)
  have field16 : fld w 16 5 = a := fld_of (field_of hw fits 4)
  have field21 : fld w 21 5 = d := fld_of (field_of hw fits 5)
  refine ofA rfl rfl rfl word small fun wf => ?_
  rw [decodeA10_of major]
  simp only [decodeA10, bits0, bits11, field4, field8, field16, field21, zeros_nil, zeros_cons, typed_code, checked, wf]

theorem Roundtrip.vadds (d : Reg) (a : Reg) (b : Reg) (m : MReg) (t : LaneTy) : Statement (.vadds d a b m t) := by
  have fits : Fits [(4, 14), (4, t.code.toNat), (3, m.toNat), (5, b.toNat), (5, a.toNat), (5, d.toNat), (6, 0x10)] := ⟨by decide, t.code.isLt, m.isLt, b.isLt, a.isLt, d.isLt, by decide, trivial⟩
  obtain ⟨w, hw⟩ : ∃ w, w = pack [(4, 14), (4, t.code.toNat), (3, m.toNat), (5, b.toNat), (5, a.toNat), (5, d.toNat), (6, 0x10)] := ⟨_, rfl⟩
  have word : encodeWord (.vadds d a b m t) = some w := by rw [hw]; rfl
  have small : w < 2 ^ 32 := lt_of hw fits
  have major : bitsOf w 26 6 = 16 := field_of hw fits 6
  have bits0 : bitsOf w 0 4 = 14 := field_of hw fits 0
  have field4 : fld w 4 4 = t.code := fld_of (field_of hw fits 1)
  have field8 : fld w 8 3 = m := fld_of (field_of hw fits 2)
  have field11 : fld w 11 5 = b := fld_of (field_of hw fits 3)
  have field16 : fld w 16 5 = a := fld_of (field_of hw fits 4)
  have field21 : fld w 21 5 = d := fld_of (field_of hw fits 5)
  refine ofA rfl rfl rfl word small fun wf => ?_
  rw [decodeA10_of major]
  simp only [decodeA10, bits0, field4, field8, field11, field16, field21, typed_code, checked, wf]

theorem Roundtrip.vsubs (d : Reg) (a : Reg) (b : Reg) (m : MReg) (t : LaneTy) : Statement (.vsubs d a b m t) := by
  have fits : Fits [(4, 15), (4, t.code.toNat), (3, m.toNat), (5, b.toNat), (5, a.toNat), (5, d.toNat), (6, 0x10)] := ⟨by decide, t.code.isLt, m.isLt, b.isLt, a.isLt, d.isLt, by decide, trivial⟩
  obtain ⟨w, hw⟩ : ∃ w, w = pack [(4, 15), (4, t.code.toNat), (3, m.toNat), (5, b.toNat), (5, a.toNat), (5, d.toNat), (6, 0x10)] := ⟨_, rfl⟩
  have word : encodeWord (.vsubs d a b m t) = some w := by rw [hw]; rfl
  have small : w < 2 ^ 32 := lt_of hw fits
  have major : bitsOf w 26 6 = 16 := field_of hw fits 6
  have bits0 : bitsOf w 0 4 = 15 := field_of hw fits 0
  have field4 : fld w 4 4 = t.code := fld_of (field_of hw fits 1)
  have field8 : fld w 8 3 = m := fld_of (field_of hw fits 2)
  have field11 : fld w 11 5 = b := fld_of (field_of hw fits 3)
  have field16 : fld w 16 5 = a := fld_of (field_of hw fits 4)
  have field21 : fld w 21 5 = d := fld_of (field_of hw fits 5)
  refine ofA rfl rfl rfl word small fun wf => ?_
  rw [decodeA10_of major]
  simp only [decodeA10, bits0, field4, field8, field11, field16, field21, typed_code, checked, wf]

theorem Roundtrip.vfma (d : Reg) (a : Reg) (b : Reg) (c : Reg) (m : MReg) : Statement (.vfma d a b c m) := by
  have fits : Fits [(3, 0), (3, m.toNat), (5, c.toNat), (5, b.toNat), (5, a.toNat), (5, d.toNat), (6, 0x11)] := ⟨by decide, m.isLt, c.isLt, b.isLt, a.isLt, d.isLt, by decide, trivial⟩
  obtain ⟨w, hw⟩ : ∃ w, w = pack [(3, 0), (3, m.toNat), (5, c.toNat), (5, b.toNat), (5, a.toNat), (5, d.toNat), (6, 0x11)] := ⟨_, rfl⟩
  have word : encodeWord (.vfma d a b c m) = some w := by rw [hw]; rfl
  have small : w < 2 ^ 32 := lt_of hw fits
  have major : bitsOf w 26 6 = 17 := field_of hw fits 6
  have bits0 : bitsOf w 0 3 = 0 := field_of hw fits 0
  have field3 : fld w 3 3 = m := fld_of (field_of hw fits 1)
  have field6 : fld w 6 5 = c := fld_of (field_of hw fits 2)
  have field11 : fld w 11 5 = b := fld_of (field_of hw fits 3)
  have field16 : fld w 16 5 = a := fld_of (field_of hw fits 4)
  have field21 : fld w 21 5 = d := fld_of (field_of hw fits 5)
  refine ofA rfl rfl rfl word small fun wf => ?_
  rw [decodeA11_of major]
  simp only [decodeA11, bits0, field3, field6, field11, field16, field21, checked, wf]

theorem Roundtrip.vfms (d : Reg) (a : Reg) (b : Reg) (c : Reg) (m : MReg) : Statement (.vfms d a b c m) := by
  have fits : Fits [(3, 1), (3, m.toNat), (5, c.toNat), (5, b.toNat), (5, a.toNat), (5, d.toNat), (6, 0x11)] := ⟨by decide, m.isLt, c.isLt, b.isLt, a.isLt, d.isLt, by decide, trivial⟩
  obtain ⟨w, hw⟩ : ∃ w, w = pack [(3, 1), (3, m.toNat), (5, c.toNat), (5, b.toNat), (5, a.toNat), (5, d.toNat), (6, 0x11)] := ⟨_, rfl⟩
  have word : encodeWord (.vfms d a b c m) = some w := by rw [hw]; rfl
  have small : w < 2 ^ 32 := lt_of hw fits
  have major : bitsOf w 26 6 = 17 := field_of hw fits 6
  have bits0 : bitsOf w 0 3 = 1 := field_of hw fits 0
  have field3 : fld w 3 3 = m := fld_of (field_of hw fits 1)
  have field6 : fld w 6 5 = c := fld_of (field_of hw fits 2)
  have field11 : fld w 11 5 = b := fld_of (field_of hw fits 3)
  have field16 : fld w 16 5 = a := fld_of (field_of hw fits 4)
  have field21 : fld w 21 5 = d := fld_of (field_of hw fits 5)
  refine ofA rfl rfl rfl word small fun wf => ?_
  rw [decodeA11_of major]
  simp only [decodeA11, bits0, field3, field6, field11, field16, field21, checked, wf]

theorem Roundtrip.vfnma (d : Reg) (a : Reg) (b : Reg) (c : Reg) (m : MReg) : Statement (.vfnma d a b c m) := by
  have fits : Fits [(3, 2), (3, m.toNat), (5, c.toNat), (5, b.toNat), (5, a.toNat), (5, d.toNat), (6, 0x11)] := ⟨by decide, m.isLt, c.isLt, b.isLt, a.isLt, d.isLt, by decide, trivial⟩
  obtain ⟨w, hw⟩ : ∃ w, w = pack [(3, 2), (3, m.toNat), (5, c.toNat), (5, b.toNat), (5, a.toNat), (5, d.toNat), (6, 0x11)] := ⟨_, rfl⟩
  have word : encodeWord (.vfnma d a b c m) = some w := by rw [hw]; rfl
  have small : w < 2 ^ 32 := lt_of hw fits
  have major : bitsOf w 26 6 = 17 := field_of hw fits 6
  have bits0 : bitsOf w 0 3 = 2 := field_of hw fits 0
  have field3 : fld w 3 3 = m := fld_of (field_of hw fits 1)
  have field6 : fld w 6 5 = c := fld_of (field_of hw fits 2)
  have field11 : fld w 11 5 = b := fld_of (field_of hw fits 3)
  have field16 : fld w 16 5 = a := fld_of (field_of hw fits 4)
  have field21 : fld w 21 5 = d := fld_of (field_of hw fits 5)
  refine ofA rfl rfl rfl word small fun wf => ?_
  rw [decodeA11_of major]
  simp only [decodeA11, bits0, field3, field6, field11, field16, field21, checked, wf]

theorem Roundtrip.vfnms (d : Reg) (a : Reg) (b : Reg) (c : Reg) (m : MReg) : Statement (.vfnms d a b c m) := by
  have fits : Fits [(3, 3), (3, m.toNat), (5, c.toNat), (5, b.toNat), (5, a.toNat), (5, d.toNat), (6, 0x11)] := ⟨by decide, m.isLt, c.isLt, b.isLt, a.isLt, d.isLt, by decide, trivial⟩
  obtain ⟨w, hw⟩ : ∃ w, w = pack [(3, 3), (3, m.toNat), (5, c.toNat), (5, b.toNat), (5, a.toNat), (5, d.toNat), (6, 0x11)] := ⟨_, rfl⟩
  have word : encodeWord (.vfnms d a b c m) = some w := by rw [hw]; rfl
  have small : w < 2 ^ 32 := lt_of hw fits
  have major : bitsOf w 26 6 = 17 := field_of hw fits 6
  have bits0 : bitsOf w 0 3 = 3 := field_of hw fits 0
  have field3 : fld w 3 3 = m := fld_of (field_of hw fits 1)
  have field6 : fld w 6 5 = c := fld_of (field_of hw fits 2)
  have field11 : fld w 11 5 = b := fld_of (field_of hw fits 3)
  have field16 : fld w 16 5 = a := fld_of (field_of hw fits 4)
  have field21 : fld w 21 5 = d := fld_of (field_of hw fits 5)
  refine ofA rfl rfl rfl word small fun wf => ?_
  rw [decodeA11_of major]
  simp only [decodeA11, bits0, field3, field6, field11, field16, field21, checked, wf]

theorem Roundtrip.vmadS (d : Reg) (a : Reg) (b : Reg) (c : Reg) (m : MReg) : Statement (.vmadS d a b c m) := by
  have fits : Fits [(3, 4), (3, m.toNat), (5, c.toNat), (5, b.toNat), (5, a.toNat), (5, d.toNat), (6, 0x11)] := ⟨by decide, m.isLt, c.isLt, b.isLt, a.isLt, d.isLt, by decide, trivial⟩
  obtain ⟨w, hw⟩ : ∃ w, w = pack [(3, 4), (3, m.toNat), (5, c.toNat), (5, b.toNat), (5, a.toNat), (5, d.toNat), (6, 0x11)] := ⟨_, rfl⟩
  have word : encodeWord (.vmadS d a b c m) = some w := by rw [hw]; rfl
  have small : w < 2 ^ 32 := lt_of hw fits
  have major : bitsOf w 26 6 = 17 := field_of hw fits 6
  have bits0 : bitsOf w 0 3 = 4 := field_of hw fits 0
  have field3 : fld w 3 3 = m := fld_of (field_of hw fits 1)
  have field6 : fld w 6 5 = c := fld_of (field_of hw fits 2)
  have field11 : fld w 11 5 = b := fld_of (field_of hw fits 3)
  have field16 : fld w 16 5 = a := fld_of (field_of hw fits 4)
  have field21 : fld w 21 5 = d := fld_of (field_of hw fits 5)
  refine ofA rfl rfl rfl word small fun wf => ?_
  rw [decodeA11_of major]
  simp only [decodeA11, bits0, field3, field6, field11, field16, field21, checked, wf]

theorem Roundtrip.vmadN (d : Reg) (a : Reg) (b : Reg) (c : Reg) (m : MReg) : Statement (.vmadN d a b c m) := by
  have fits : Fits [(3, 5), (3, m.toNat), (5, c.toNat), (5, b.toNat), (5, a.toNat), (5, d.toNat), (6, 0x11)] := ⟨by decide, m.isLt, c.isLt, b.isLt, a.isLt, d.isLt, by decide, trivial⟩
  obtain ⟨w, hw⟩ : ∃ w, w = pack [(3, 5), (3, m.toNat), (5, c.toNat), (5, b.toNat), (5, a.toNat), (5, d.toNat), (6, 0x11)] := ⟨_, rfl⟩
  have word : encodeWord (.vmadN d a b c m) = some w := by rw [hw]; rfl
  have small : w < 2 ^ 32 := lt_of hw fits
  have major : bitsOf w 26 6 = 17 := field_of hw fits 6
  have bits0 : bitsOf w 0 3 = 5 := field_of hw fits 0
  have field3 : fld w 3 3 = m := fld_of (field_of hw fits 1)
  have field6 : fld w 6 5 = c := fld_of (field_of hw fits 2)
  have field11 : fld w 11 5 = b := fld_of (field_of hw fits 3)
  have field16 : fld w 16 5 = a := fld_of (field_of hw fits 4)
  have field21 : fld w 21 5 = d := fld_of (field_of hw fits 5)
  refine ofA rfl rfl rfl word small fun wf => ?_
  rw [decodeA11_of major]
  simp only [decodeA11, bits0, field3, field6, field11, field16, field21, checked, wf]

theorem Roundtrip.veq (d : MReg) (a : Reg) (b : Reg) (m : MReg) (t : LaneTy) : Statement (.veq d a b m t) := by
  have fits : Fits [(4, 0), (4, t.code.toNat), (3, m.toNat), (5, b.toNat), (5, a.toNat), (3, d.toNat), (2, 0), (6, 0x12)] := ⟨by decide, t.code.isLt, m.isLt, b.isLt, a.isLt, d.isLt, by decide, by decide, trivial⟩
  obtain ⟨w, hw⟩ : ∃ w, w = pack [(4, 0), (4, t.code.toNat), (3, m.toNat), (5, b.toNat), (5, a.toNat), (3, d.toNat), (2, 0), (6, 0x12)] := ⟨_, rfl⟩
  have word : encodeWord (.veq d a b m t) = some w := by rw [hw]; rfl
  have small : w < 2 ^ 32 := lt_of hw fits
  have major : bitsOf w 26 6 = 18 := field_of hw fits 7
  have bits0 : bitsOf w 0 4 = 0 := field_of hw fits 0
  have bits24 : bitsOf w 24 2 = 0 := field_of hw fits 6
  have field4 : fld w 4 4 = t.code := fld_of (field_of hw fits 1)
  have field8 : fld w 8 3 = m := fld_of (field_of hw fits 2)
  have field11 : fld w 11 5 = b := fld_of (field_of hw fits 3)
  have field16 : fld w 16 5 = a := fld_of (field_of hw fits 4)
  have field21 : fld w 21 3 = d := fld_of (field_of hw fits 5)
  refine ofA rfl rfl rfl word small fun wf => ?_
  rw [decodeA12_of major]
  simp only [decodeA12, bits0, bits24, field4, field8, field11, field16, field21, zeros_nil, zeros_cons, typed_code, checked, wf]

theorem Roundtrip.vne (d : MReg) (a : Reg) (b : Reg) (m : MReg) (t : LaneTy) : Statement (.vne d a b m t) := by
  have fits : Fits [(4, 1), (4, t.code.toNat), (3, m.toNat), (5, b.toNat), (5, a.toNat), (3, d.toNat), (2, 0), (6, 0x12)] := ⟨by decide, t.code.isLt, m.isLt, b.isLt, a.isLt, d.isLt, by decide, by decide, trivial⟩
  obtain ⟨w, hw⟩ : ∃ w, w = pack [(4, 1), (4, t.code.toNat), (3, m.toNat), (5, b.toNat), (5, a.toNat), (3, d.toNat), (2, 0), (6, 0x12)] := ⟨_, rfl⟩
  have word : encodeWord (.vne d a b m t) = some w := by rw [hw]; rfl
  have small : w < 2 ^ 32 := lt_of hw fits
  have major : bitsOf w 26 6 = 18 := field_of hw fits 7
  have bits0 : bitsOf w 0 4 = 1 := field_of hw fits 0
  have bits24 : bitsOf w 24 2 = 0 := field_of hw fits 6
  have field4 : fld w 4 4 = t.code := fld_of (field_of hw fits 1)
  have field8 : fld w 8 3 = m := fld_of (field_of hw fits 2)
  have field11 : fld w 11 5 = b := fld_of (field_of hw fits 3)
  have field16 : fld w 16 5 = a := fld_of (field_of hw fits 4)
  have field21 : fld w 21 3 = d := fld_of (field_of hw fits 5)
  refine ofA rfl rfl rfl word small fun wf => ?_
  rw [decodeA12_of major]
  simp only [decodeA12, bits0, bits24, field4, field8, field11, field16, field21, zeros_nil, zeros_cons, typed_code, checked, wf]

theorem Roundtrip.vlt (d : MReg) (a : Reg) (b : Reg) (m : MReg) (t : LaneTy) : Statement (.vlt d a b m t) := by
  have fits : Fits [(4, 2), (4, t.code.toNat), (3, m.toNat), (5, b.toNat), (5, a.toNat), (3, d.toNat), (2, 0), (6, 0x12)] := ⟨by decide, t.code.isLt, m.isLt, b.isLt, a.isLt, d.isLt, by decide, by decide, trivial⟩
  obtain ⟨w, hw⟩ : ∃ w, w = pack [(4, 2), (4, t.code.toNat), (3, m.toNat), (5, b.toNat), (5, a.toNat), (3, d.toNat), (2, 0), (6, 0x12)] := ⟨_, rfl⟩
  have word : encodeWord (.vlt d a b m t) = some w := by rw [hw]; rfl
  have small : w < 2 ^ 32 := lt_of hw fits
  have major : bitsOf w 26 6 = 18 := field_of hw fits 7
  have bits0 : bitsOf w 0 4 = 2 := field_of hw fits 0
  have bits24 : bitsOf w 24 2 = 0 := field_of hw fits 6
  have field4 : fld w 4 4 = t.code := fld_of (field_of hw fits 1)
  have field8 : fld w 8 3 = m := fld_of (field_of hw fits 2)
  have field11 : fld w 11 5 = b := fld_of (field_of hw fits 3)
  have field16 : fld w 16 5 = a := fld_of (field_of hw fits 4)
  have field21 : fld w 21 3 = d := fld_of (field_of hw fits 5)
  refine ofA rfl rfl rfl word small fun wf => ?_
  rw [decodeA12_of major]
  simp only [decodeA12, bits0, bits24, field4, field8, field11, field16, field21, zeros_nil, zeros_cons, typed_code, checked, wf]

theorem Roundtrip.vle (d : MReg) (a : Reg) (b : Reg) (m : MReg) (t : LaneTy) : Statement (.vle d a b m t) := by
  have fits : Fits [(4, 3), (4, t.code.toNat), (3, m.toNat), (5, b.toNat), (5, a.toNat), (3, d.toNat), (2, 0), (6, 0x12)] := ⟨by decide, t.code.isLt, m.isLt, b.isLt, a.isLt, d.isLt, by decide, by decide, trivial⟩
  obtain ⟨w, hw⟩ : ∃ w, w = pack [(4, 3), (4, t.code.toNat), (3, m.toNat), (5, b.toNat), (5, a.toNat), (3, d.toNat), (2, 0), (6, 0x12)] := ⟨_, rfl⟩
  have word : encodeWord (.vle d a b m t) = some w := by rw [hw]; rfl
  have small : w < 2 ^ 32 := lt_of hw fits
  have major : bitsOf w 26 6 = 18 := field_of hw fits 7
  have bits0 : bitsOf w 0 4 = 3 := field_of hw fits 0
  have bits24 : bitsOf w 24 2 = 0 := field_of hw fits 6
  have field4 : fld w 4 4 = t.code := fld_of (field_of hw fits 1)
  have field8 : fld w 8 3 = m := fld_of (field_of hw fits 2)
  have field11 : fld w 11 5 = b := fld_of (field_of hw fits 3)
  have field16 : fld w 16 5 = a := fld_of (field_of hw fits 4)
  have field21 : fld w 21 3 = d := fld_of (field_of hw fits 5)
  refine ofA rfl rfl rfl word small fun wf => ?_
  rw [decodeA12_of major]
  simp only [decodeA12, bits0, bits24, field4, field8, field11, field16, field21, zeros_nil, zeros_cons, typed_code, checked, wf]

theorem Roundtrip.vunord (d : MReg) (a : Reg) (b : Reg) (m : MReg) (t : LaneTy) : Statement (.vunord d a b m t) := by
  have fits : Fits [(4, 4), (4, t.code.toNat), (3, m.toNat), (5, b.toNat), (5, a.toNat), (3, d.toNat), (2, 0), (6, 0x12)] := ⟨by decide, t.code.isLt, m.isLt, b.isLt, a.isLt, d.isLt, by decide, by decide, trivial⟩
  obtain ⟨w, hw⟩ : ∃ w, w = pack [(4, 4), (4, t.code.toNat), (3, m.toNat), (5, b.toNat), (5, a.toNat), (3, d.toNat), (2, 0), (6, 0x12)] := ⟨_, rfl⟩
  have word : encodeWord (.vunord d a b m t) = some w := by rw [hw]; rfl
  have small : w < 2 ^ 32 := lt_of hw fits
  have major : bitsOf w 26 6 = 18 := field_of hw fits 7
  have bits0 : bitsOf w 0 4 = 4 := field_of hw fits 0
  have bits24 : bitsOf w 24 2 = 0 := field_of hw fits 6
  have field4 : fld w 4 4 = t.code := fld_of (field_of hw fits 1)
  have field8 : fld w 8 3 = m := fld_of (field_of hw fits 2)
  have field11 : fld w 11 5 = b := fld_of (field_of hw fits 3)
  have field16 : fld w 16 5 = a := fld_of (field_of hw fits 4)
  have field21 : fld w 21 3 = d := fld_of (field_of hw fits 5)
  refine ofA rfl rfl rfl word small fun wf => ?_
  rw [decodeA12_of major]
  simp only [decodeA12, bits0, bits24, field4, field8, field11, field16, field21, zeros_nil, zeros_cons, typed_code, checked, wf]

theorem Roundtrip.vltt (d : MReg) (a : Reg) (b : Reg) (m : MReg) (t : LaneTy) : Statement (.vltt d a b m t) := by
  have fits : Fits [(4, 5), (4, t.code.toNat), (3, m.toNat), (5, b.toNat), (5, a.toNat), (3, d.toNat), (2, 0), (6, 0x12)] := ⟨by decide, t.code.isLt, m.isLt, b.isLt, a.isLt, d.isLt, by decide, by decide, trivial⟩
  obtain ⟨w, hw⟩ : ∃ w, w = pack [(4, 5), (4, t.code.toNat), (3, m.toNat), (5, b.toNat), (5, a.toNat), (3, d.toNat), (2, 0), (6, 0x12)] := ⟨_, rfl⟩
  have word : encodeWord (.vltt d a b m t) = some w := by rw [hw]; rfl
  have small : w < 2 ^ 32 := lt_of hw fits
  have major : bitsOf w 26 6 = 18 := field_of hw fits 7
  have bits0 : bitsOf w 0 4 = 5 := field_of hw fits 0
  have bits24 : bitsOf w 24 2 = 0 := field_of hw fits 6
  have field4 : fld w 4 4 = t.code := fld_of (field_of hw fits 1)
  have field8 : fld w 8 3 = m := fld_of (field_of hw fits 2)
  have field11 : fld w 11 5 = b := fld_of (field_of hw fits 3)
  have field16 : fld w 16 5 = a := fld_of (field_of hw fits 4)
  have field21 : fld w 21 3 = d := fld_of (field_of hw fits 5)
  refine ofA rfl rfl rfl word small fun wf => ?_
  rw [decodeA12_of major]
  simp only [decodeA12, bits0, bits24, field4, field8, field11, field16, field21, zeros_nil, zeros_cons, typed_code, checked, wf]

theorem Roundtrip.vmov (d : Reg) (a : Reg) (m : MReg) : Statement (.vmov d a m) := by
  have fits : Fits [(4, 0), (4, 0), (3, m.toNat), (5, 0), (5, a.toNat), (5, d.toNat), (6, 0x13)] := ⟨by decide, by decide, m.isLt, by decide, a.isLt, d.isLt, by decide, trivial⟩
  obtain ⟨w, hw⟩ : ∃ w, w = pack [(4, 0), (4, 0), (3, m.toNat), (5, 0), (5, a.toNat), (5, d.toNat), (6, 0x13)] := ⟨_, rfl⟩
  have word : encodeWord (.vmov d a m) = some w := by rw [hw]; rfl
  have small : w < 2 ^ 32 := lt_of hw fits
  have major : bitsOf w 26 6 = 19 := field_of hw fits 6
  have bits0 : bitsOf w 0 4 = 0 := field_of hw fits 0
  have bits4 : bitsOf w 4 4 = 0 := field_of hw fits 1
  have bits11 : bitsOf w 11 5 = 0 := field_of hw fits 3
  have field8 : fld w 8 3 = m := fld_of (field_of hw fits 2)
  have field16 : fld w 16 5 = a := fld_of (field_of hw fits 4)
  have field21 : fld w 21 5 = d := fld_of (field_of hw fits 5)
  refine ofA rfl rfl rfl word small fun wf => ?_
  rw [decodeA13_of major]
  simp only [decodeA13, bits0, bits4, bits11, field8, field16, field21, zeros_nil, zeros_cons, checked, wf]

theorem Roundtrip.vbcast (d : Reg) (a : Reg) (m : MReg) : Statement (.vbcast d a m) := by
  have fits : Fits [(4, 1), (4, 0), (3, m.toNat), (5, 0), (5, a.toNat), (5, d.toNat), (6, 0x13)] := ⟨by decide, by decide, m.isLt, by decide, a.isLt, d.isLt, by decide, trivial⟩
  obtain ⟨w, hw⟩ : ∃ w, w = pack [(4, 1), (4, 0), (3, m.toNat), (5, 0), (5, a.toNat), (5, d.toNat), (6, 0x13)] := ⟨_, rfl⟩
  have word : encodeWord (.vbcast d a m) = some w := by rw [hw]; rfl
  have small : w < 2 ^ 32 := lt_of hw fits
  have major : bitsOf w 26 6 = 19 := field_of hw fits 6
  have bits0 : bitsOf w 0 4 = 1 := field_of hw fits 0
  have bits4 : bitsOf w 4 4 = 0 := field_of hw fits 1
  have bits11 : bitsOf w 11 5 = 0 := field_of hw fits 3
  have field8 : fld w 8 3 = m := fld_of (field_of hw fits 2)
  have field16 : fld w 16 5 = a := fld_of (field_of hw fits 4)
  have field21 : fld w 21 5 = d := fld_of (field_of hw fits 5)
  refine ofA rfl rfl rfl word small fun wf => ?_
  rw [decodeA13_of major]
  simp only [decodeA13, bits0, bits4, bits11, field8, field16, field21, zeros_nil, zeros_cons, checked, wf]

theorem Roundtrip.vrot (d : Reg) (a : Reg) (b : Reg) (m : MReg) : Statement (.vrot d a b m) := by
  have fits : Fits [(4, 2), (4, 0), (3, m.toNat), (5, b.toNat), (5, a.toNat), (5, d.toNat), (6, 0x13)] := ⟨by decide, by decide, m.isLt, b.isLt, a.isLt, d.isLt, by decide, trivial⟩
  obtain ⟨w, hw⟩ : ∃ w, w = pack [(4, 2), (4, 0), (3, m.toNat), (5, b.toNat), (5, a.toNat), (5, d.toNat), (6, 0x13)] := ⟨_, rfl⟩
  have word : encodeWord (.vrot d a b m) = some w := by rw [hw]; rfl
  have small : w < 2 ^ 32 := lt_of hw fits
  have major : bitsOf w 26 6 = 19 := field_of hw fits 6
  have bits0 : bitsOf w 0 4 = 2 := field_of hw fits 0
  have bits4 : bitsOf w 4 4 = 0 := field_of hw fits 1
  have field8 : fld w 8 3 = m := fld_of (field_of hw fits 2)
  have field11 : fld w 11 5 = b := fld_of (field_of hw fits 3)
  have field16 : fld w 16 5 = a := fld_of (field_of hw fits 4)
  have field21 : fld w 21 5 = d := fld_of (field_of hw fits 5)
  refine ofA rfl rfl rfl word small fun wf => ?_
  rw [decodeA13_of major]
  simp only [decodeA13, bits0, bits4, field8, field11, field16, field21, zeros_nil, zeros_cons, checked, wf]

theorem Roundtrip.vshuf (d : Reg) (a : Reg) (b : Reg) (m : MReg) : Statement (.vshuf d a b m) := by
  have fits : Fits [(4, 3), (4, 0), (3, m.toNat), (5, b.toNat), (5, a.toNat), (5, d.toNat), (6, 0x13)] := ⟨by decide, by decide, m.isLt, b.isLt, a.isLt, d.isLt, by decide, trivial⟩
  obtain ⟨w, hw⟩ : ∃ w, w = pack [(4, 3), (4, 0), (3, m.toNat), (5, b.toNat), (5, a.toNat), (5, d.toNat), (6, 0x13)] := ⟨_, rfl⟩
  have word : encodeWord (.vshuf d a b m) = some w := by rw [hw]; rfl
  have small : w < 2 ^ 32 := lt_of hw fits
  have major : bitsOf w 26 6 = 19 := field_of hw fits 6
  have bits0 : bitsOf w 0 4 = 3 := field_of hw fits 0
  have bits4 : bitsOf w 4 4 = 0 := field_of hw fits 1
  have field8 : fld w 8 3 = m := fld_of (field_of hw fits 2)
  have field11 : fld w 11 5 = b := fld_of (field_of hw fits 3)
  have field16 : fld w 16 5 = a := fld_of (field_of hw fits 4)
  have field21 : fld w 21 5 = d := fld_of (field_of hw fits 5)
  refine ofA rfl rfl rfl word small fun wf => ?_
  rw [decodeA13_of major]
  simp only [decodeA13, bits0, bits4, field8, field11, field16, field21, zeros_nil, zeros_cons, checked, wf]

theorem Roundtrip.vcomp (d : Reg) (a : Reg) (m : MReg) : Statement (.vcomp d a m) := by
  have fits : Fits [(4, 4), (4, 0), (3, m.toNat), (5, 0), (5, a.toNat), (5, d.toNat), (6, 0x13)] := ⟨by decide, by decide, m.isLt, by decide, a.isLt, d.isLt, by decide, trivial⟩
  obtain ⟨w, hw⟩ : ∃ w, w = pack [(4, 4), (4, 0), (3, m.toNat), (5, 0), (5, a.toNat), (5, d.toNat), (6, 0x13)] := ⟨_, rfl⟩
  have word : encodeWord (.vcomp d a m) = some w := by rw [hw]; rfl
  have small : w < 2 ^ 32 := lt_of hw fits
  have major : bitsOf w 26 6 = 19 := field_of hw fits 6
  have bits0 : bitsOf w 0 4 = 4 := field_of hw fits 0
  have bits4 : bitsOf w 4 4 = 0 := field_of hw fits 1
  have bits11 : bitsOf w 11 5 = 0 := field_of hw fits 3
  have field8 : fld w 8 3 = m := fld_of (field_of hw fits 2)
  have field16 : fld w 16 5 = a := fld_of (field_of hw fits 4)
  have field21 : fld w 21 5 = d := fld_of (field_of hw fits 5)
  refine ofA rfl rfl rfl word small fun wf => ?_
  rw [decodeA13_of major]
  simp only [decodeA13, bits0, bits4, bits11, field8, field16, field21, zeros_nil, zeros_cons, checked, wf]

theorem Roundtrip.vexpd (d : Reg) (a : Reg) (m : MReg) : Statement (.vexpd d a m) := by
  have fits : Fits [(4, 5), (4, 0), (3, m.toNat), (5, 0), (5, a.toNat), (5, d.toNat), (6, 0x13)] := ⟨by decide, by decide, m.isLt, by decide, a.isLt, d.isLt, by decide, trivial⟩
  obtain ⟨w, hw⟩ : ∃ w, w = pack [(4, 5), (4, 0), (3, m.toNat), (5, 0), (5, a.toNat), (5, d.toNat), (6, 0x13)] := ⟨_, rfl⟩
  have word : encodeWord (.vexpd d a m) = some w := by rw [hw]; rfl
  have small : w < 2 ^ 32 := lt_of hw fits
  have major : bitsOf w 26 6 = 19 := field_of hw fits 6
  have bits0 : bitsOf w 0 4 = 5 := field_of hw fits 0
  have bits4 : bitsOf w 4 4 = 0 := field_of hw fits 1
  have bits11 : bitsOf w 11 5 = 0 := field_of hw fits 3
  have field8 : fld w 8 3 = m := fld_of (field_of hw fits 2)
  have field16 : fld w 16 5 = a := fld_of (field_of hw fits 4)
  have field21 : fld w 21 5 = d := fld_of (field_of hw fits 5)
  refine ofA rfl rfl rfl word small fun wf => ?_
  rw [decodeA13_of major]
  simp only [decodeA13, bits0, bits4, bits11, field8, field16, field21, zeros_nil, zeros_cons, checked, wf]

theorem Roundtrip.vins (d : Reg) (a : Reg) (b : Reg) : Statement (.vins d a b) := by
  have fits : Fits [(4, 6), (7, 0), (5, b.toNat), (5, a.toNat), (5, d.toNat), (6, 0x13)] := ⟨by decide, by decide, b.isLt, a.isLt, d.isLt, by decide, trivial⟩
  obtain ⟨w, hw⟩ : ∃ w, w = pack [(4, 6), (7, 0), (5, b.toNat), (5, a.toNat), (5, d.toNat), (6, 0x13)] := ⟨_, rfl⟩
  have word : encodeWord (.vins d a b) = some w := by rw [hw]; rfl
  have small : w < 2 ^ 32 := lt_of hw fits
  have major : bitsOf w 26 6 = 19 := field_of hw fits 5
  have bits0 : bitsOf w 0 4 = 6 := field_of hw fits 0
  have bits4 : bitsOf w 4 7 = 0 := field_of hw fits 1
  have field11 : fld w 11 5 = b := fld_of (field_of hw fits 2)
  have field16 : fld w 16 5 = a := fld_of (field_of hw fits 3)
  have field21 : fld w 21 5 = d := fld_of (field_of hw fits 4)
  refine ofA rfl rfl rfl word small fun wf => ?_
  rw [decodeA13_of major]
  simp only [decodeA13, bits0, bits4, field11, field16, field21, zeros_nil, zeros_cons, checked, wf]

theorem Roundtrip.vext (d : Reg) (a : Reg) (b : Reg) : Statement (.vext d a b) := by
  have fits : Fits [(4, 7), (7, 0), (5, b.toNat), (5, a.toNat), (5, d.toNat), (6, 0x13)] := ⟨by decide, by decide, b.isLt, a.isLt, d.isLt, by decide, trivial⟩
  obtain ⟨w, hw⟩ : ∃ w, w = pack [(4, 7), (7, 0), (5, b.toNat), (5, a.toNat), (5, d.toNat), (6, 0x13)] := ⟨_, rfl⟩
  have word : encodeWord (.vext d a b) = some w := by rw [hw]; rfl
  have small : w < 2 ^ 32 := lt_of hw fits
  have major : bitsOf w 26 6 = 19 := field_of hw fits 5
  have bits0 : bitsOf w 0 4 = 7 := field_of hw fits 0
  have bits4 : bitsOf w 4 7 = 0 := field_of hw fits 1
  have field11 : fld w 11 5 = b := fld_of (field_of hw fits 2)
  have field16 : fld w 16 5 = a := fld_of (field_of hw fits 3)
  have field21 : fld w 21 5 = d := fld_of (field_of hw fits 4)
  refine ofA rfl rfl rfl word small fun wf => ?_
  rw [decodeA13_of major]
  simp only [decodeA13, bits0, bits4, field11, field16, field21, zeros_nil, zeros_cons, checked, wf]

theorem Roundtrip.vcvt (d : Reg) (a : Reg) (m : MReg) (t : LaneTy) (s : LaneTy) : Statement (.vcvt d a m t s) := by
  have fits : Fits [(4, s.code.toNat), (4, t.code.toNat), (3, m.toNat), (5, 0), (5, a.toNat), (5, d.toNat), (6, 0x14)] := ⟨s.code.isLt, t.code.isLt, m.isLt, by decide, a.isLt, d.isLt, by decide, trivial⟩
  obtain ⟨w, hw⟩ : ∃ w, w = pack [(4, s.code.toNat), (4, t.code.toNat), (3, m.toNat), (5, 0), (5, a.toNat), (5, d.toNat), (6, 0x14)] := ⟨_, rfl⟩
  have word : encodeWord (.vcvt d a m t s) = some w := by rw [hw]; rfl
  have small : w < 2 ^ 32 := lt_of hw fits
  have major : bitsOf w 26 6 = 20 := field_of hw fits 6
  have bits11 : bitsOf w 11 5 = 0 := field_of hw fits 3
  have field0 : fld w 0 4 = s.code := fld_of (field_of hw fits 0)
  have field4 : fld w 4 4 = t.code := fld_of (field_of hw fits 1)
  have field8 : fld w 8 3 = m := fld_of (field_of hw fits 2)
  have field16 : fld w 16 5 = a := fld_of (field_of hw fits 4)
  have field21 : fld w 21 5 = d := fld_of (field_of hw fits 5)
  refine ofA rfl rfl rfl word small fun wf => ?_
  rw [decodeA14_of major]
  simp only [decodeA14, bits11, field0, field4, field8, field16, field21, zeros_nil, zeros_cons, typed_code, checked, wf]

theorem Roundtrip.vexp (d : Reg) (a : Reg) (m : MReg) : Statement (.vexp d a m) := by
  have fits : Fits [(4, 0), (4, 0), (3, m.toNat), (5, 0), (5, a.toNat), (5, d.toNat), (6, 0x15)] := ⟨by decide, by decide, m.isLt, by decide, a.isLt, d.isLt, by decide, trivial⟩
  obtain ⟨w, hw⟩ : ∃ w, w = pack [(4, 0), (4, 0), (3, m.toNat), (5, 0), (5, a.toNat), (5, d.toNat), (6, 0x15)] := ⟨_, rfl⟩
  have word : encodeWord (.vexp d a m) = some w := by rw [hw]; rfl
  have small : w < 2 ^ 32 := lt_of hw fits
  have major : bitsOf w 26 6 = 21 := field_of hw fits 6
  have bits0 : bitsOf w 0 4 = 0 := field_of hw fits 0
  have bits4 : bitsOf w 4 4 = 0 := field_of hw fits 1
  have bits11 : bitsOf w 11 5 = 0 := field_of hw fits 3
  have field8 : fld w 8 3 = m := fld_of (field_of hw fits 2)
  have field16 : fld w 16 5 = a := fld_of (field_of hw fits 4)
  have field21 : fld w 21 5 = d := fld_of (field_of hw fits 5)
  refine ofA rfl rfl rfl word small fun wf => ?_
  rw [decodeA15_of major]
  simp only [decodeA15, bits0, bits4, bits11, field8, field16, field21, zeros_nil, zeros_cons, checked, wf]

theorem Roundtrip.vexp2 (d : Reg) (a : Reg) (m : MReg) : Statement (.vexp2 d a m) := by
  have fits : Fits [(4, 1), (4, 0), (3, m.toNat), (5, 0), (5, a.toNat), (5, d.toNat), (6, 0x15)] := ⟨by decide, by decide, m.isLt, by decide, a.isLt, d.isLt, by decide, trivial⟩
  obtain ⟨w, hw⟩ : ∃ w, w = pack [(4, 1), (4, 0), (3, m.toNat), (5, 0), (5, a.toNat), (5, d.toNat), (6, 0x15)] := ⟨_, rfl⟩
  have word : encodeWord (.vexp2 d a m) = some w := by rw [hw]; rfl
  have small : w < 2 ^ 32 := lt_of hw fits
  have major : bitsOf w 26 6 = 21 := field_of hw fits 6
  have bits0 : bitsOf w 0 4 = 1 := field_of hw fits 0
  have bits4 : bitsOf w 4 4 = 0 := field_of hw fits 1
  have bits11 : bitsOf w 11 5 = 0 := field_of hw fits 3
  have field8 : fld w 8 3 = m := fld_of (field_of hw fits 2)
  have field16 : fld w 16 5 = a := fld_of (field_of hw fits 4)
  have field21 : fld w 21 5 = d := fld_of (field_of hw fits 5)
  refine ofA rfl rfl rfl word small fun wf => ?_
  rw [decodeA15_of major]
  simp only [decodeA15, bits0, bits4, bits11, field8, field16, field21, zeros_nil, zeros_cons, checked, wf]

theorem Roundtrip.vlog (d : Reg) (a : Reg) (m : MReg) : Statement (.vlog d a m) := by
  have fits : Fits [(4, 2), (4, 0), (3, m.toNat), (5, 0), (5, a.toNat), (5, d.toNat), (6, 0x15)] := ⟨by decide, by decide, m.isLt, by decide, a.isLt, d.isLt, by decide, trivial⟩
  obtain ⟨w, hw⟩ : ∃ w, w = pack [(4, 2), (4, 0), (3, m.toNat), (5, 0), (5, a.toNat), (5, d.toNat), (6, 0x15)] := ⟨_, rfl⟩
  have word : encodeWord (.vlog d a m) = some w := by rw [hw]; rfl
  have small : w < 2 ^ 32 := lt_of hw fits
  have major : bitsOf w 26 6 = 21 := field_of hw fits 6
  have bits0 : bitsOf w 0 4 = 2 := field_of hw fits 0
  have bits4 : bitsOf w 4 4 = 0 := field_of hw fits 1
  have bits11 : bitsOf w 11 5 = 0 := field_of hw fits 3
  have field8 : fld w 8 3 = m := fld_of (field_of hw fits 2)
  have field16 : fld w 16 5 = a := fld_of (field_of hw fits 4)
  have field21 : fld w 21 5 = d := fld_of (field_of hw fits 5)
  refine ofA rfl rfl rfl word small fun wf => ?_
  rw [decodeA15_of major]
  simp only [decodeA15, bits0, bits4, bits11, field8, field16, field21, zeros_nil, zeros_cons, checked, wf]

theorem Roundtrip.vlog2 (d : Reg) (a : Reg) (m : MReg) : Statement (.vlog2 d a m) := by
  have fits : Fits [(4, 3), (4, 0), (3, m.toNat), (5, 0), (5, a.toNat), (5, d.toNat), (6, 0x15)] := ⟨by decide, by decide, m.isLt, by decide, a.isLt, d.isLt, by decide, trivial⟩
  obtain ⟨w, hw⟩ : ∃ w, w = pack [(4, 3), (4, 0), (3, m.toNat), (5, 0), (5, a.toNat), (5, d.toNat), (6, 0x15)] := ⟨_, rfl⟩
  have word : encodeWord (.vlog2 d a m) = some w := by rw [hw]; rfl
  have small : w < 2 ^ 32 := lt_of hw fits
  have major : bitsOf w 26 6 = 21 := field_of hw fits 6
  have bits0 : bitsOf w 0 4 = 3 := field_of hw fits 0
  have bits4 : bitsOf w 4 4 = 0 := field_of hw fits 1
  have bits11 : bitsOf w 11 5 = 0 := field_of hw fits 3
  have field8 : fld w 8 3 = m := fld_of (field_of hw fits 2)
  have field16 : fld w 16 5 = a := fld_of (field_of hw fits 4)
  have field21 : fld w 21 5 = d := fld_of (field_of hw fits 5)
  refine ofA rfl rfl rfl word small fun wf => ?_
  rw [decodeA15_of major]
  simp only [decodeA15, bits0, bits4, bits11, field8, field16, field21, zeros_nil, zeros_cons, checked, wf]

theorem Roundtrip.vrcp (d : Reg) (a : Reg) (m : MReg) : Statement (.vrcp d a m) := by
  have fits : Fits [(4, 4), (4, 0), (3, m.toNat), (5, 0), (5, a.toNat), (5, d.toNat), (6, 0x15)] := ⟨by decide, by decide, m.isLt, by decide, a.isLt, d.isLt, by decide, trivial⟩
  obtain ⟨w, hw⟩ : ∃ w, w = pack [(4, 4), (4, 0), (3, m.toNat), (5, 0), (5, a.toNat), (5, d.toNat), (6, 0x15)] := ⟨_, rfl⟩
  have word : encodeWord (.vrcp d a m) = some w := by rw [hw]; rfl
  have small : w < 2 ^ 32 := lt_of hw fits
  have major : bitsOf w 26 6 = 21 := field_of hw fits 6
  have bits0 : bitsOf w 0 4 = 4 := field_of hw fits 0
  have bits4 : bitsOf w 4 4 = 0 := field_of hw fits 1
  have bits11 : bitsOf w 11 5 = 0 := field_of hw fits 3
  have field8 : fld w 8 3 = m := fld_of (field_of hw fits 2)
  have field16 : fld w 16 5 = a := fld_of (field_of hw fits 4)
  have field21 : fld w 21 5 = d := fld_of (field_of hw fits 5)
  refine ofA rfl rfl rfl word small fun wf => ?_
  rw [decodeA15_of major]
  simp only [decodeA15, bits0, bits4, bits11, field8, field16, field21, zeros_nil, zeros_cons, checked, wf]

theorem Roundtrip.vsqrt (d : Reg) (a : Reg) (m : MReg) : Statement (.vsqrt d a m) := by
  have fits : Fits [(4, 5), (4, 0), (3, m.toNat), (5, 0), (5, a.toNat), (5, d.toNat), (6, 0x15)] := ⟨by decide, by decide, m.isLt, by decide, a.isLt, d.isLt, by decide, trivial⟩
  obtain ⟨w, hw⟩ : ∃ w, w = pack [(4, 5), (4, 0), (3, m.toNat), (5, 0), (5, a.toNat), (5, d.toNat), (6, 0x15)] := ⟨_, rfl⟩
  have word : encodeWord (.vsqrt d a m) = some w := by rw [hw]; rfl
  have small : w < 2 ^ 32 := lt_of hw fits
  have major : bitsOf w 26 6 = 21 := field_of hw fits 6
  have bits0 : bitsOf w 0 4 = 5 := field_of hw fits 0
  have bits4 : bitsOf w 4 4 = 0 := field_of hw fits 1
  have bits11 : bitsOf w 11 5 = 0 := field_of hw fits 3
  have field8 : fld w 8 3 = m := fld_of (field_of hw fits 2)
  have field16 : fld w 16 5 = a := fld_of (field_of hw fits 4)
  have field21 : fld w 21 5 = d := fld_of (field_of hw fits 5)
  refine ofA rfl rfl rfl word small fun wf => ?_
  rw [decodeA15_of major]
  simp only [decodeA15, bits0, bits4, bits11, field8, field16, field21, zeros_nil, zeros_cons, checked, wf]

theorem Roundtrip.vrsqrt (d : Reg) (a : Reg) (m : MReg) : Statement (.vrsqrt d a m) := by
  have fits : Fits [(4, 6), (4, 0), (3, m.toNat), (5, 0), (5, a.toNat), (5, d.toNat), (6, 0x15)] := ⟨by decide, by decide, m.isLt, by decide, a.isLt, d.isLt, by decide, trivial⟩
  obtain ⟨w, hw⟩ : ∃ w, w = pack [(4, 6), (4, 0), (3, m.toNat), (5, 0), (5, a.toNat), (5, d.toNat), (6, 0x15)] := ⟨_, rfl⟩
  have word : encodeWord (.vrsqrt d a m) = some w := by rw [hw]; rfl
  have small : w < 2 ^ 32 := lt_of hw fits
  have major : bitsOf w 26 6 = 21 := field_of hw fits 6
  have bits0 : bitsOf w 0 4 = 6 := field_of hw fits 0
  have bits4 : bitsOf w 4 4 = 0 := field_of hw fits 1
  have bits11 : bitsOf w 11 5 = 0 := field_of hw fits 3
  have field8 : fld w 8 3 = m := fld_of (field_of hw fits 2)
  have field16 : fld w 16 5 = a := fld_of (field_of hw fits 4)
  have field21 : fld w 21 5 = d := fld_of (field_of hw fits 5)
  refine ofA rfl rfl rfl word small fun wf => ?_
  rw [decodeA15_of major]
  simp only [decodeA15, bits0, bits4, bits11, field8, field16, field21, zeros_nil, zeros_cons, checked, wf]

theorem Roundtrip.vsin (d : Reg) (a : Reg) (m : MReg) : Statement (.vsin d a m) := by
  have fits : Fits [(4, 7), (4, 0), (3, m.toNat), (5, 0), (5, a.toNat), (5, d.toNat), (6, 0x15)] := ⟨by decide, by decide, m.isLt, by decide, a.isLt, d.isLt, by decide, trivial⟩
  obtain ⟨w, hw⟩ : ∃ w, w = pack [(4, 7), (4, 0), (3, m.toNat), (5, 0), (5, a.toNat), (5, d.toNat), (6, 0x15)] := ⟨_, rfl⟩
  have word : encodeWord (.vsin d a m) = some w := by rw [hw]; rfl
  have small : w < 2 ^ 32 := lt_of hw fits
  have major : bitsOf w 26 6 = 21 := field_of hw fits 6
  have bits0 : bitsOf w 0 4 = 7 := field_of hw fits 0
  have bits4 : bitsOf w 4 4 = 0 := field_of hw fits 1
  have bits11 : bitsOf w 11 5 = 0 := field_of hw fits 3
  have field8 : fld w 8 3 = m := fld_of (field_of hw fits 2)
  have field16 : fld w 16 5 = a := fld_of (field_of hw fits 4)
  have field21 : fld w 21 5 = d := fld_of (field_of hw fits 5)
  refine ofA rfl rfl rfl word small fun wf => ?_
  rw [decodeA15_of major]
  simp only [decodeA15, bits0, bits4, bits11, field8, field16, field21, zeros_nil, zeros_cons, checked, wf]

theorem Roundtrip.vcos (d : Reg) (a : Reg) (m : MReg) : Statement (.vcos d a m) := by
  have fits : Fits [(4, 8), (4, 0), (3, m.toNat), (5, 0), (5, a.toNat), (5, d.toNat), (6, 0x15)] := ⟨by decide, by decide, m.isLt, by decide, a.isLt, d.isLt, by decide, trivial⟩
  obtain ⟨w, hw⟩ : ∃ w, w = pack [(4, 8), (4, 0), (3, m.toNat), (5, 0), (5, a.toNat), (5, d.toNat), (6, 0x15)] := ⟨_, rfl⟩
  have word : encodeWord (.vcos d a m) = some w := by rw [hw]; rfl
  have small : w < 2 ^ 32 := lt_of hw fits
  have major : bitsOf w 26 6 = 21 := field_of hw fits 6
  have bits0 : bitsOf w 0 4 = 8 := field_of hw fits 0
  have bits4 : bitsOf w 4 4 = 0 := field_of hw fits 1
  have bits11 : bitsOf w 11 5 = 0 := field_of hw fits 3
  have field8 : fld w 8 3 = m := fld_of (field_of hw fits 2)
  have field16 : fld w 16 5 = a := fld_of (field_of hw fits 4)
  have field21 : fld w 21 5 = d := fld_of (field_of hw fits 5)
  refine ofA rfl rfl rfl word small fun wf => ?_
  rw [decodeA15_of major]
  simp only [decodeA15, bits0, bits4, bits11, field8, field16, field21, zeros_nil, zeros_cons, checked, wf]

theorem Roundtrip.vtanh (d : Reg) (a : Reg) (m : MReg) : Statement (.vtanh d a m) := by
  have fits : Fits [(4, 9), (4, 0), (3, m.toNat), (5, 0), (5, a.toNat), (5, d.toNat), (6, 0x15)] := ⟨by decide, by decide, m.isLt, by decide, a.isLt, d.isLt, by decide, trivial⟩
  obtain ⟨w, hw⟩ : ∃ w, w = pack [(4, 9), (4, 0), (3, m.toNat), (5, 0), (5, a.toNat), (5, d.toNat), (6, 0x15)] := ⟨_, rfl⟩
  have word : encodeWord (.vtanh d a m) = some w := by rw [hw]; rfl
  have small : w < 2 ^ 32 := lt_of hw fits
  have major : bitsOf w 26 6 = 21 := field_of hw fits 6
  have bits0 : bitsOf w 0 4 = 9 := field_of hw fits 0
  have bits4 : bitsOf w 4 4 = 0 := field_of hw fits 1
  have bits11 : bitsOf w 11 5 = 0 := field_of hw fits 3
  have field8 : fld w 8 3 = m := fld_of (field_of hw fits 2)
  have field16 : fld w 16 5 = a := fld_of (field_of hw fits 4)
  have field21 : fld w 21 5 = d := fld_of (field_of hw fits 5)
  refine ofA rfl rfl rfl word small fun wf => ?_
  rw [decodeA15_of major]
  simp only [decodeA15, bits0, bits4, bits11, field8, field16, field21, zeros_nil, zeros_cons, checked, wf]

theorem Roundtrip.vsigm (d : Reg) (a : Reg) (m : MReg) : Statement (.vsigm d a m) := by
  have fits : Fits [(4, 10), (4, 0), (3, m.toNat), (5, 0), (5, a.toNat), (5, d.toNat), (6, 0x15)] := ⟨by decide, by decide, m.isLt, by decide, a.isLt, d.isLt, by decide, trivial⟩
  obtain ⟨w, hw⟩ : ∃ w, w = pack [(4, 10), (4, 0), (3, m.toNat), (5, 0), (5, a.toNat), (5, d.toNat), (6, 0x15)] := ⟨_, rfl⟩
  have word : encodeWord (.vsigm d a m) = some w := by rw [hw]; rfl
  have small : w < 2 ^ 32 := lt_of hw fits
  have major : bitsOf w 26 6 = 21 := field_of hw fits 6
  have bits0 : bitsOf w 0 4 = 10 := field_of hw fits 0
  have bits4 : bitsOf w 4 4 = 0 := field_of hw fits 1
  have bits11 : bitsOf w 11 5 = 0 := field_of hw fits 3
  have field8 : fld w 8 3 = m := fld_of (field_of hw fits 2)
  have field16 : fld w 16 5 = a := fld_of (field_of hw fits 4)
  have field21 : fld w 21 5 = d := fld_of (field_of hw fits 5)
  refine ofA rfl rfl rfl word small fun wf => ?_
  rw [decodeA15_of major]
  simp only [decodeA15, bits0, bits4, bits11, field8, field16, field21, zeros_nil, zeros_cons, checked, wf]

theorem Roundtrip.verf (d : Reg) (a : Reg) (m : MReg) : Statement (.verf d a m) := by
  have fits : Fits [(4, 11), (4, 0), (3, m.toNat), (5, 0), (5, a.toNat), (5, d.toNat), (6, 0x15)] := ⟨by decide, by decide, m.isLt, by decide, a.isLt, d.isLt, by decide, trivial⟩
  obtain ⟨w, hw⟩ : ∃ w, w = pack [(4, 11), (4, 0), (3, m.toNat), (5, 0), (5, a.toNat), (5, d.toNat), (6, 0x15)] := ⟨_, rfl⟩
  have word : encodeWord (.verf d a m) = some w := by rw [hw]; rfl
  have small : w < 2 ^ 32 := lt_of hw fits
  have major : bitsOf w 26 6 = 21 := field_of hw fits 6
  have bits0 : bitsOf w 0 4 = 11 := field_of hw fits 0
  have bits4 : bitsOf w 4 4 = 0 := field_of hw fits 1
  have bits11 : bitsOf w 11 5 = 0 := field_of hw fits 3
  have field8 : fld w 8 3 = m := fld_of (field_of hw fits 2)
  have field16 : fld w 16 5 = a := fld_of (field_of hw fits 4)
  have field21 : fld w 21 5 = d := fld_of (field_of hw fits 5)
  refine ofA rfl rfl rfl word small fun wf => ?_
  rw [decodeA15_of major]
  simp only [decodeA15, bits0, bits4, bits11, field8, field16, field21, zeros_nil, zeros_cons, checked, wf]

theorem Roundtrip.vrsum (d : Reg) (a : Reg) (m : MReg) (t : LaneTy) : Statement (.vrsum d a m t) := by
  have fits : Fits [(4, 0), (4, t.code.toNat), (3, m.toNat), (5, 0), (5, a.toNat), (5, d.toNat), (6, 0x16)] := ⟨by decide, t.code.isLt, m.isLt, by decide, a.isLt, d.isLt, by decide, trivial⟩
  obtain ⟨w, hw⟩ : ∃ w, w = pack [(4, 0), (4, t.code.toNat), (3, m.toNat), (5, 0), (5, a.toNat), (5, d.toNat), (6, 0x16)] := ⟨_, rfl⟩
  have word : encodeWord (.vrsum d a m t) = some w := by rw [hw]; rfl
  have small : w < 2 ^ 32 := lt_of hw fits
  have major : bitsOf w 26 6 = 22 := field_of hw fits 6
  have bits0 : bitsOf w 0 4 = 0 := field_of hw fits 0
  have bits11 : bitsOf w 11 5 = 0 := field_of hw fits 3
  have field4 : fld w 4 4 = t.code := fld_of (field_of hw fits 1)
  have field8 : fld w 8 3 = m := fld_of (field_of hw fits 2)
  have field16 : fld w 16 5 = a := fld_of (field_of hw fits 4)
  have field21 : fld w 21 5 = d := fld_of (field_of hw fits 5)
  refine ofA rfl rfl rfl word small fun wf => ?_
  rw [decodeA16_of major]
  simp only [decodeA16, bits0, bits11, field4, field8, field16, field21, zeros_nil, zeros_cons, typed_code, checked, wf]

theorem Roundtrip.vrmax (d : Reg) (a : Reg) (m : MReg) (t : LaneTy) : Statement (.vrmax d a m t) := by
  have fits : Fits [(4, 1), (4, t.code.toNat), (3, m.toNat), (5, 0), (5, a.toNat), (5, d.toNat), (6, 0x16)] := ⟨by decide, t.code.isLt, m.isLt, by decide, a.isLt, d.isLt, by decide, trivial⟩
  obtain ⟨w, hw⟩ : ∃ w, w = pack [(4, 1), (4, t.code.toNat), (3, m.toNat), (5, 0), (5, a.toNat), (5, d.toNat), (6, 0x16)] := ⟨_, rfl⟩
  have word : encodeWord (.vrmax d a m t) = some w := by rw [hw]; rfl
  have small : w < 2 ^ 32 := lt_of hw fits
  have major : bitsOf w 26 6 = 22 := field_of hw fits 6
  have bits0 : bitsOf w 0 4 = 1 := field_of hw fits 0
  have bits11 : bitsOf w 11 5 = 0 := field_of hw fits 3
  have field4 : fld w 4 4 = t.code := fld_of (field_of hw fits 1)
  have field8 : fld w 8 3 = m := fld_of (field_of hw fits 2)
  have field16 : fld w 16 5 = a := fld_of (field_of hw fits 4)
  have field21 : fld w 21 5 = d := fld_of (field_of hw fits 5)
  refine ofA rfl rfl rfl word small fun wf => ?_
  rw [decodeA16_of major]
  simp only [decodeA16, bits0, bits11, field4, field8, field16, field21, zeros_nil, zeros_cons, typed_code, checked, wf]

theorem Roundtrip.vrmin (d : Reg) (a : Reg) (m : MReg) (t : LaneTy) : Statement (.vrmin d a m t) := by
  have fits : Fits [(4, 2), (4, t.code.toNat), (3, m.toNat), (5, 0), (5, a.toNat), (5, d.toNat), (6, 0x16)] := ⟨by decide, t.code.isLt, m.isLt, by decide, a.isLt, d.isLt, by decide, trivial⟩
  obtain ⟨w, hw⟩ : ∃ w, w = pack [(4, 2), (4, t.code.toNat), (3, m.toNat), (5, 0), (5, a.toNat), (5, d.toNat), (6, 0x16)] := ⟨_, rfl⟩
  have word : encodeWord (.vrmin d a m t) = some w := by rw [hw]; rfl
  have small : w < 2 ^ 32 := lt_of hw fits
  have major : bitsOf w 26 6 = 22 := field_of hw fits 6
  have bits0 : bitsOf w 0 4 = 2 := field_of hw fits 0
  have bits11 : bitsOf w 11 5 = 0 := field_of hw fits 3
  have field4 : fld w 4 4 = t.code := fld_of (field_of hw fits 1)
  have field8 : fld w 8 3 = m := fld_of (field_of hw fits 2)
  have field16 : fld w 16 5 = a := fld_of (field_of hw fits 4)
  have field21 : fld w 21 5 = d := fld_of (field_of hw fits 5)
  refine ofA rfl rfl rfl word small fun wf => ?_
  rw [decodeA16_of major]
  simp only [decodeA16, bits0, bits11, field4, field8, field16, field21, zeros_nil, zeros_cons, typed_code, checked, wf]

theorem Roundtrip.vrmaxt (d : Reg) (a : Reg) (m : MReg) (t : LaneTy) : Statement (.vrmaxt d a m t) := by
  have fits : Fits [(4, 3), (4, t.code.toNat), (3, m.toNat), (5, 0), (5, a.toNat), (5, d.toNat), (6, 0x16)] := ⟨by decide, t.code.isLt, m.isLt, by decide, a.isLt, d.isLt, by decide, trivial⟩
  obtain ⟨w, hw⟩ : ∃ w, w = pack [(4, 3), (4, t.code.toNat), (3, m.toNat), (5, 0), (5, a.toNat), (5, d.toNat), (6, 0x16)] := ⟨_, rfl⟩
  have word : encodeWord (.vrmaxt d a m t) = some w := by rw [hw]; rfl
  have small : w < 2 ^ 32 := lt_of hw fits
  have major : bitsOf w 26 6 = 22 := field_of hw fits 6
  have bits0 : bitsOf w 0 4 = 3 := field_of hw fits 0
  have bits11 : bitsOf w 11 5 = 0 := field_of hw fits 3
  have field4 : fld w 4 4 = t.code := fld_of (field_of hw fits 1)
  have field8 : fld w 8 3 = m := fld_of (field_of hw fits 2)
  have field16 : fld w 16 5 = a := fld_of (field_of hw fits 4)
  have field21 : fld w 21 5 = d := fld_of (field_of hw fits 5)
  refine ofA rfl rfl rfl word small fun wf => ?_
  rw [decodeA16_of major]
  simp only [decodeA16, bits0, bits11, field4, field8, field16, field21, zeros_nil, zeros_cons, typed_code, checked, wf]

theorem Roundtrip.vrmint (d : Reg) (a : Reg) (m : MReg) (t : LaneTy) : Statement (.vrmint d a m t) := by
  have fits : Fits [(4, 4), (4, t.code.toNat), (3, m.toNat), (5, 0), (5, a.toNat), (5, d.toNat), (6, 0x16)] := ⟨by decide, t.code.isLt, m.isLt, by decide, a.isLt, d.isLt, by decide, trivial⟩
  obtain ⟨w, hw⟩ : ∃ w, w = pack [(4, 4), (4, t.code.toNat), (3, m.toNat), (5, 0), (5, a.toNat), (5, d.toNat), (6, 0x16)] := ⟨_, rfl⟩
  have word : encodeWord (.vrmint d a m t) = some w := by rw [hw]; rfl
  have small : w < 2 ^ 32 := lt_of hw fits
  have major : bitsOf w 26 6 = 22 := field_of hw fits 6
  have bits0 : bitsOf w 0 4 = 4 := field_of hw fits 0
  have bits11 : bitsOf w 11 5 = 0 := field_of hw fits 3
  have field4 : fld w 4 4 = t.code := fld_of (field_of hw fits 1)
  have field8 : fld w 8 3 = m := fld_of (field_of hw fits 2)
  have field16 : fld w 16 5 = a := fld_of (field_of hw fits 4)
  have field21 : fld w 21 5 = d := fld_of (field_of hw fits 5)
  refine ofA rfl rfl rfl word small fun wf => ?_
  rw [decodeA16_of major]
  simp only [decodeA16, bits0, bits11, field4, field8, field16, field21, zeros_nil, zeros_cons, typed_code, checked, wf]

theorem Roundtrip.vrand (d : Reg) (a : Reg) (m : MReg) (t : LaneTy) : Statement (.vrand d a m t) := by
  have fits : Fits [(4, 5), (4, t.code.toNat), (3, m.toNat), (5, 0), (5, a.toNat), (5, d.toNat), (6, 0x16)] := ⟨by decide, t.code.isLt, m.isLt, by decide, a.isLt, d.isLt, by decide, trivial⟩
  obtain ⟨w, hw⟩ : ∃ w, w = pack [(4, 5), (4, t.code.toNat), (3, m.toNat), (5, 0), (5, a.toNat), (5, d.toNat), (6, 0x16)] := ⟨_, rfl⟩
  have word : encodeWord (.vrand d a m t) = some w := by rw [hw]; rfl
  have small : w < 2 ^ 32 := lt_of hw fits
  have major : bitsOf w 26 6 = 22 := field_of hw fits 6
  have bits0 : bitsOf w 0 4 = 5 := field_of hw fits 0
  have bits11 : bitsOf w 11 5 = 0 := field_of hw fits 3
  have field4 : fld w 4 4 = t.code := fld_of (field_of hw fits 1)
  have field8 : fld w 8 3 = m := fld_of (field_of hw fits 2)
  have field16 : fld w 16 5 = a := fld_of (field_of hw fits 4)
  have field21 : fld w 21 5 = d := fld_of (field_of hw fits 5)
  refine ofA rfl rfl rfl word small fun wf => ?_
  rw [decodeA16_of major]
  simp only [decodeA16, bits0, bits11, field4, field8, field16, field21, zeros_nil, zeros_cons, typed_code, checked, wf]

theorem Roundtrip.vror (d : Reg) (a : Reg) (m : MReg) (t : LaneTy) : Statement (.vror d a m t) := by
  have fits : Fits [(4, 6), (4, t.code.toNat), (3, m.toNat), (5, 0), (5, a.toNat), (5, d.toNat), (6, 0x16)] := ⟨by decide, t.code.isLt, m.isLt, by decide, a.isLt, d.isLt, by decide, trivial⟩
  obtain ⟨w, hw⟩ : ∃ w, w = pack [(4, 6), (4, t.code.toNat), (3, m.toNat), (5, 0), (5, a.toNat), (5, d.toNat), (6, 0x16)] := ⟨_, rfl⟩
  have word : encodeWord (.vror d a m t) = some w := by rw [hw]; rfl
  have small : w < 2 ^ 32 := lt_of hw fits
  have major : bitsOf w 26 6 = 22 := field_of hw fits 6
  have bits0 : bitsOf w 0 4 = 6 := field_of hw fits 0
  have bits11 : bitsOf w 11 5 = 0 := field_of hw fits 3
  have field4 : fld w 4 4 = t.code := fld_of (field_of hw fits 1)
  have field8 : fld w 8 3 = m := fld_of (field_of hw fits 2)
  have field16 : fld w 16 5 = a := fld_of (field_of hw fits 4)
  have field21 : fld w 21 5 = d := fld_of (field_of hw fits 5)
  refine ofA rfl rfl rfl word small fun wf => ?_
  rw [decodeA16_of major]
  simp only [decodeA16, bits0, bits11, field4, field8, field16, field21, zeros_nil, zeros_cons, typed_code, checked, wf]

theorem Roundtrip.vrxor (d : Reg) (a : Reg) (m : MReg) (t : LaneTy) : Statement (.vrxor d a m t) := by
  have fits : Fits [(4, 7), (4, t.code.toNat), (3, m.toNat), (5, 0), (5, a.toNat), (5, d.toNat), (6, 0x16)] := ⟨by decide, t.code.isLt, m.isLt, by decide, a.isLt, d.isLt, by decide, trivial⟩
  obtain ⟨w, hw⟩ : ∃ w, w = pack [(4, 7), (4, t.code.toNat), (3, m.toNat), (5, 0), (5, a.toNat), (5, d.toNat), (6, 0x16)] := ⟨_, rfl⟩
  have word : encodeWord (.vrxor d a m t) = some w := by rw [hw]; rfl
  have small : w < 2 ^ 32 := lt_of hw fits
  have major : bitsOf w 26 6 = 22 := field_of hw fits 6
  have bits0 : bitsOf w 0 4 = 7 := field_of hw fits 0
  have bits11 : bitsOf w 11 5 = 0 := field_of hw fits 3
  have field4 : fld w 4 4 = t.code := fld_of (field_of hw fits 1)
  have field8 : fld w 8 3 = m := fld_of (field_of hw fits 2)
  have field16 : fld w 16 5 = a := fld_of (field_of hw fits 4)
  have field21 : fld w 21 5 = d := fld_of (field_of hw fits 5)
  refine ofA rfl rfl rfl word small fun wf => ?_
  rw [decodeA16_of major]
  simp only [decodeA16, bits0, bits11, field4, field8, field16, field21, zeros_nil, zeros_cons, typed_code, checked, wf]

theorem Roundtrip.vskq (a : Reg) (b : Reg) (m : MReg) (t : LaneTy) : Statement (.vskq a b m t) := by
  have fits : Fits [(4, 0), (4, t.code.toNat), (3, m.toNat), (5, b.toNat), (5, a.toNat), (5, 0), (6, 0x17)] := ⟨by decide, t.code.isLt, m.isLt, b.isLt, a.isLt, by decide, by decide, trivial⟩
  obtain ⟨w, hw⟩ : ∃ w, w = pack [(4, 0), (4, t.code.toNat), (3, m.toNat), (5, b.toNat), (5, a.toNat), (5, 0), (6, 0x17)] := ⟨_, rfl⟩
  have word : encodeWord (.vskq a b m t) = some w := by rw [hw]; rfl
  have small : w < 2 ^ 32 := lt_of hw fits
  have major : bitsOf w 26 6 = 23 := field_of hw fits 6
  have bits0 : bitsOf w 0 4 = 0 := field_of hw fits 0
  have bits21 : bitsOf w 21 5 = 0 := field_of hw fits 5
  have field4 : fld w 4 4 = t.code := fld_of (field_of hw fits 1)
  have field8 : fld w 8 3 = m := fld_of (field_of hw fits 2)
  have field11 : fld w 11 5 = b := fld_of (field_of hw fits 3)
  have field16 : fld w 16 5 = a := fld_of (field_of hw fits 4)
  refine ofA rfl rfl rfl word small fun wf => ?_
  rw [decodeA17_of major]
  simp only [decodeA17, bits0, bits21, field4, field8, field11, field16, zeros_nil, zeros_cons, typed_code, checked, wf]

theorem Roundtrip.vskh (a : Reg) (b : Reg) (m : MReg) (t : LaneTy) : Statement (.vskh a b m t) := by
  have fits : Fits [(4, 1), (4, t.code.toNat), (3, m.toNat), (5, b.toNat), (5, a.toNat), (5, 0), (6, 0x17)] := ⟨by decide, t.code.isLt, m.isLt, b.isLt, a.isLt, by decide, by decide, trivial⟩
  obtain ⟨w, hw⟩ : ∃ w, w = pack [(4, 1), (4, t.code.toNat), (3, m.toNat), (5, b.toNat), (5, a.toNat), (5, 0), (6, 0x17)] := ⟨_, rfl⟩
  have word : encodeWord (.vskh a b m t) = some w := by rw [hw]; rfl
  have small : w < 2 ^ 32 := lt_of hw fits
  have major : bitsOf w 26 6 = 23 := field_of hw fits 6
  have bits0 : bitsOf w 0 4 = 1 := field_of hw fits 0
  have bits21 : bitsOf w 21 5 = 0 := field_of hw fits 5
  have field4 : fld w 4 4 = t.code := fld_of (field_of hw fits 1)
  have field8 : fld w 8 3 = m := fld_of (field_of hw fits 2)
  have field11 : fld w 11 5 = b := fld_of (field_of hw fits 3)
  have field16 : fld w 16 5 = a := fld_of (field_of hw fits 4)
  refine ofA rfl rfl rfl word small fun wf => ?_
  rw [decodeA17_of major]
  simp only [decodeA17, bits0, bits21, field4, field8, field11, field16, zeros_nil, zeros_cons, typed_code, checked, wf]

theorem Roundtrip.vskd (a : Reg) (b : Reg) (m : MReg) (t : LaneTy) : Statement (.vskd a b m t) := by
  have fits : Fits [(4, 2), (4, t.code.toNat), (3, m.toNat), (5, b.toNat), (5, a.toNat), (5, 0), (6, 0x17)] := ⟨by decide, t.code.isLt, m.isLt, b.isLt, a.isLt, by decide, by decide, trivial⟩
  obtain ⟨w, hw⟩ : ∃ w, w = pack [(4, 2), (4, t.code.toNat), (3, m.toNat), (5, b.toNat), (5, a.toNat), (5, 0), (6, 0x17)] := ⟨_, rfl⟩
  have word : encodeWord (.vskd a b m t) = some w := by rw [hw]; rfl
  have small : w < 2 ^ 32 := lt_of hw fits
  have major : bitsOf w 26 6 = 23 := field_of hw fits 6
  have bits0 : bitsOf w 0 4 = 2 := field_of hw fits 0
  have bits21 : bitsOf w 21 5 = 0 := field_of hw fits 5
  have field4 : fld w 4 4 = t.code := fld_of (field_of hw fits 1)
  have field8 : fld w 8 3 = m := fld_of (field_of hw fits 2)
  have field11 : fld w 11 5 = b := fld_of (field_of hw fits 3)
  have field16 : fld w 16 5 = a := fld_of (field_of hw fits 4)
  refine ofA rfl rfl rfl word small fun wf => ?_
  rw [decodeA17_of major]
  simp only [decodeA17, bits0, bits21, field4, field8, field11, field16, zeros_nil, zeros_cons, typed_code, checked, wf]

theorem Roundtrip.skinit (a : Reg) (b : Reg) : Statement (.skinit a b) := by
  have fits : Fits [(11, 0), (5, b.toNat), (5, a.toNat), (5, 0), (6, 0x18)] := ⟨by decide, b.isLt, a.isLt, by decide, by decide, trivial⟩
  obtain ⟨w, hw⟩ : ∃ w, w = pack [(11, 0), (5, b.toNat), (5, a.toNat), (5, 0), (6, 0x18)] := ⟨_, rfl⟩
  have word : encodeWord (.skinit a b) = some w := by rw [hw]; rfl
  have small : w < 2 ^ 32 := lt_of hw fits
  have major : bitsOf w 26 6 = 24 := field_of hw fits 4
  have bits0 : bitsOf w 0 11 = 0 := field_of hw fits 0
  have bits21 : bitsOf w 21 5 = 0 := field_of hw fits 3
  have field11 : fld w 11 5 = b := fld_of (field_of hw fits 1)
  have field16 : fld w 16 5 = a := fld_of (field_of hw fits 2)
  refine ofA rfl rfl rfl word small fun wf => ?_
  rw [decodeA18_of major]
  simp only [decodeA18, bits0, bits21, field11, field16, zeros_nil, zeros_cons, checked, wf]

theorem Roundtrip.skmerge (a : Reg) (b : Reg) : Statement (.skmerge a b) := by
  have fits : Fits [(11, 1), (5, b.toNat), (5, a.toNat), (5, 0), (6, 0x18)] := ⟨by decide, b.isLt, a.isLt, by decide, by decide, trivial⟩
  obtain ⟨w, hw⟩ : ∃ w, w = pack [(11, 1), (5, b.toNat), (5, a.toNat), (5, 0), (6, 0x18)] := ⟨_, rfl⟩
  have word : encodeWord (.skmerge a b) = some w := by rw [hw]; rfl
  have small : w < 2 ^ 32 := lt_of hw fits
  have major : bitsOf w 26 6 = 24 := field_of hw fits 4
  have bits0 : bitsOf w 0 11 = 1 := field_of hw fits 0
  have bits21 : bitsOf w 21 5 = 0 := field_of hw fits 3
  have field11 : fld w 11 5 = b := fld_of (field_of hw fits 1)
  have field16 : fld w 16 5 = a := fld_of (field_of hw fits 2)
  refine ofA rfl rfl rfl word small fun wf => ?_
  rw [decodeA18_of major]
  simp only [decodeA18, bits0, bits21, field11, field16, zeros_nil, zeros_cons, checked, wf]

theorem Roundtrip.skquant (d : Reg) (a : Reg) (b : Reg) : Statement (.skquant d a b) := by
  have fits : Fits [(11, 2), (5, b.toNat), (5, a.toNat), (5, d.toNat), (6, 0x18)] := ⟨by decide, b.isLt, a.isLt, d.isLt, by decide, trivial⟩
  obtain ⟨w, hw⟩ : ∃ w, w = pack [(11, 2), (5, b.toNat), (5, a.toNat), (5, d.toNat), (6, 0x18)] := ⟨_, rfl⟩
  have word : encodeWord (.skquant d a b) = some w := by rw [hw]; rfl
  have small : w < 2 ^ 32 := lt_of hw fits
  have major : bitsOf w 26 6 = 24 := field_of hw fits 4
  have bits0 : bitsOf w 0 11 = 2 := field_of hw fits 0
  have field11 : fld w 11 5 = b := fld_of (field_of hw fits 1)
  have field16 : fld w 16 5 = a := fld_of (field_of hw fits 2)
  have field21 : fld w 21 5 = d := fld_of (field_of hw fits 3)
  refine ofA rfl rfl rfl word small fun wf => ?_
  rw [decodeA18_of major]
  simp only [decodeA18, bits0, field11, field16, field21, checked, wf]

theorem Roundtrip.skrank (d : Reg) (a : Reg) (b : Reg) : Statement (.skrank d a b) := by
  have fits : Fits [(11, 3), (5, b.toNat), (5, a.toNat), (5, d.toNat), (6, 0x18)] := ⟨by decide, b.isLt, a.isLt, d.isLt, by decide, trivial⟩
  obtain ⟨w, hw⟩ : ∃ w, w = pack [(11, 3), (5, b.toNat), (5, a.toNat), (5, d.toNat), (6, 0x18)] := ⟨_, rfl⟩
  have word : encodeWord (.skrank d a b) = some w := by rw [hw]; rfl
  have small : w < 2 ^ 32 := lt_of hw fits
  have major : bitsOf w 26 6 = 24 := field_of hw fits 4
  have bits0 : bitsOf w 0 11 = 3 := field_of hw fits 0
  have field11 : fld w 11 5 = b := fld_of (field_of hw fits 1)
  have field16 : fld w 16 5 = a := fld_of (field_of hw fits 2)
  have field21 : fld w 21 5 = d := fld_of (field_of hw fits 3)
  refine ofA rfl rfl rfl word small fun wf => ?_
  rw [decodeA18_of major]
  simp only [decodeA18, bits0, field11, field16, field21, checked, wf]

theorem Roundtrip.skest (d : Reg) (a : Reg) (b : Reg) : Statement (.skest d a b) := by
  have fits : Fits [(11, 4), (5, b.toNat), (5, a.toNat), (5, d.toNat), (6, 0x18)] := ⟨by decide, b.isLt, a.isLt, d.isLt, by decide, trivial⟩
  obtain ⟨w, hw⟩ : ∃ w, w = pack [(11, 4), (5, b.toNat), (5, a.toNat), (5, d.toNat), (6, 0x18)] := ⟨_, rfl⟩
  have word : encodeWord (.skest d a b) = some w := by rw [hw]; rfl
  have small : w < 2 ^ 32 := lt_of hw fits
  have major : bitsOf w 26 6 = 24 := field_of hw fits 4
  have bits0 : bitsOf w 0 11 = 4 := field_of hw fits 0
  have field11 : fld w 11 5 = b := fld_of (field_of hw fits 1)
  have field16 : fld w 16 5 = a := fld_of (field_of hw fits 2)
  have field21 : fld w 21 5 = d := fld_of (field_of hw fits 3)
  refine ofA rfl rfl rfl word small fun wf => ?_
  rw [decodeA18_of major]
  simp only [decodeA18, bits0, field11, field16, field21, checked, wf]

theorem Roundtrip.skcount (d : Reg) (a : Reg) : Statement (.skcount d a) := by
  have fits : Fits [(11, 5), (5, 0), (5, a.toNat), (5, d.toNat), (6, 0x18)] := ⟨by decide, by decide, a.isLt, d.isLt, by decide, trivial⟩
  obtain ⟨w, hw⟩ : ∃ w, w = pack [(11, 5), (5, 0), (5, a.toNat), (5, d.toNat), (6, 0x18)] := ⟨_, rfl⟩
  have word : encodeWord (.skcount d a) = some w := by rw [hw]; rfl
  have small : w < 2 ^ 32 := lt_of hw fits
  have major : bitsOf w 26 6 = 24 := field_of hw fits 4
  have bits0 : bitsOf w 0 11 = 5 := field_of hw fits 0
  have bits11 : bitsOf w 11 5 = 0 := field_of hw fits 1
  have field16 : fld w 16 5 = a := fld_of (field_of hw fits 2)
  have field21 : fld w 21 5 = d := fld_of (field_of hw fits 3)
  refine ofA rfl rfl rfl word small fun wf => ?_
  rw [decodeA18_of major]
  simp only [decodeA18, bits0, bits11, field16, field21, zeros_nil, zeros_cons, checked, wf]

theorem Roundtrip.mand (d : MReg) (a : MReg) (b : MReg) : Statement (.mand d a b) := by
  have fits : Fits [(4, 0), (7, 0), (3, b.toNat), (2, 0), (3, a.toNat), (2, 0), (3, d.toNat), (2, 0), (6, 0x19)] := ⟨by decide, by decide, b.isLt, by decide, a.isLt, by decide, d.isLt, by decide, by decide, trivial⟩
  obtain ⟨w, hw⟩ : ∃ w, w = pack [(4, 0), (7, 0), (3, b.toNat), (2, 0), (3, a.toNat), (2, 0), (3, d.toNat), (2, 0), (6, 0x19)] := ⟨_, rfl⟩
  have word : encodeWord (.mand d a b) = some w := by rw [hw]; rfl
  have small : w < 2 ^ 32 := lt_of hw fits
  have major : bitsOf w 26 6 = 25 := field_of hw fits 8
  have bits0 : bitsOf w 0 4 = 0 := field_of hw fits 0
  have bits4 : bitsOf w 4 7 = 0 := field_of hw fits 1
  have bits14 : bitsOf w 14 2 = 0 := field_of hw fits 3
  have bits19 : bitsOf w 19 2 = 0 := field_of hw fits 5
  have bits24 : bitsOf w 24 2 = 0 := field_of hw fits 7
  have field11 : fld w 11 3 = b := fld_of (field_of hw fits 2)
  have field16 : fld w 16 3 = a := fld_of (field_of hw fits 4)
  have field21 : fld w 21 3 = d := fld_of (field_of hw fits 6)
  refine ofA rfl rfl rfl word small fun wf => ?_
  rw [decodeA19_of major]
  simp only [decodeA19, bits0, bits4, bits14, bits19, bits24, field11, field16, field21, zeros_nil, zeros_cons, checked, wf]

theorem Roundtrip.mor (d : MReg) (a : MReg) (b : MReg) : Statement (.mor d a b) := by
  have fits : Fits [(4, 1), (7, 0), (3, b.toNat), (2, 0), (3, a.toNat), (2, 0), (3, d.toNat), (2, 0), (6, 0x19)] := ⟨by decide, by decide, b.isLt, by decide, a.isLt, by decide, d.isLt, by decide, by decide, trivial⟩
  obtain ⟨w, hw⟩ : ∃ w, w = pack [(4, 1), (7, 0), (3, b.toNat), (2, 0), (3, a.toNat), (2, 0), (3, d.toNat), (2, 0), (6, 0x19)] := ⟨_, rfl⟩
  have word : encodeWord (.mor d a b) = some w := by rw [hw]; rfl
  have small : w < 2 ^ 32 := lt_of hw fits
  have major : bitsOf w 26 6 = 25 := field_of hw fits 8
  have bits0 : bitsOf w 0 4 = 1 := field_of hw fits 0
  have bits4 : bitsOf w 4 7 = 0 := field_of hw fits 1
  have bits14 : bitsOf w 14 2 = 0 := field_of hw fits 3
  have bits19 : bitsOf w 19 2 = 0 := field_of hw fits 5
  have bits24 : bitsOf w 24 2 = 0 := field_of hw fits 7
  have field11 : fld w 11 3 = b := fld_of (field_of hw fits 2)
  have field16 : fld w 16 3 = a := fld_of (field_of hw fits 4)
  have field21 : fld w 21 3 = d := fld_of (field_of hw fits 6)
  refine ofA rfl rfl rfl word small fun wf => ?_
  rw [decodeA19_of major]
  simp only [decodeA19, bits0, bits4, bits14, bits19, bits24, field11, field16, field21, zeros_nil, zeros_cons, checked, wf]

theorem Roundtrip.mxor (d : MReg) (a : MReg) (b : MReg) : Statement (.mxor d a b) := by
  have fits : Fits [(4, 2), (7, 0), (3, b.toNat), (2, 0), (3, a.toNat), (2, 0), (3, d.toNat), (2, 0), (6, 0x19)] := ⟨by decide, by decide, b.isLt, by decide, a.isLt, by decide, d.isLt, by decide, by decide, trivial⟩
  obtain ⟨w, hw⟩ : ∃ w, w = pack [(4, 2), (7, 0), (3, b.toNat), (2, 0), (3, a.toNat), (2, 0), (3, d.toNat), (2, 0), (6, 0x19)] := ⟨_, rfl⟩
  have word : encodeWord (.mxor d a b) = some w := by rw [hw]; rfl
  have small : w < 2 ^ 32 := lt_of hw fits
  have major : bitsOf w 26 6 = 25 := field_of hw fits 8
  have bits0 : bitsOf w 0 4 = 2 := field_of hw fits 0
  have bits4 : bitsOf w 4 7 = 0 := field_of hw fits 1
  have bits14 : bitsOf w 14 2 = 0 := field_of hw fits 3
  have bits19 : bitsOf w 19 2 = 0 := field_of hw fits 5
  have bits24 : bitsOf w 24 2 = 0 := field_of hw fits 7
  have field11 : fld w 11 3 = b := fld_of (field_of hw fits 2)
  have field16 : fld w 16 3 = a := fld_of (field_of hw fits 4)
  have field21 : fld w 21 3 = d := fld_of (field_of hw fits 6)
  refine ofA rfl rfl rfl word small fun wf => ?_
  rw [decodeA19_of major]
  simp only [decodeA19, bits0, bits4, bits14, bits19, bits24, field11, field16, field21, zeros_nil, zeros_cons, checked, wf]

theorem Roundtrip.mandn (d : MReg) (a : MReg) (b : MReg) : Statement (.mandn d a b) := by
  have fits : Fits [(4, 3), (7, 0), (3, b.toNat), (2, 0), (3, a.toNat), (2, 0), (3, d.toNat), (2, 0), (6, 0x19)] := ⟨by decide, by decide, b.isLt, by decide, a.isLt, by decide, d.isLt, by decide, by decide, trivial⟩
  obtain ⟨w, hw⟩ : ∃ w, w = pack [(4, 3), (7, 0), (3, b.toNat), (2, 0), (3, a.toNat), (2, 0), (3, d.toNat), (2, 0), (6, 0x19)] := ⟨_, rfl⟩
  have word : encodeWord (.mandn d a b) = some w := by rw [hw]; rfl
  have small : w < 2 ^ 32 := lt_of hw fits
  have major : bitsOf w 26 6 = 25 := field_of hw fits 8
  have bits0 : bitsOf w 0 4 = 3 := field_of hw fits 0
  have bits4 : bitsOf w 4 7 = 0 := field_of hw fits 1
  have bits14 : bitsOf w 14 2 = 0 := field_of hw fits 3
  have bits19 : bitsOf w 19 2 = 0 := field_of hw fits 5
  have bits24 : bitsOf w 24 2 = 0 := field_of hw fits 7
  have field11 : fld w 11 3 = b := fld_of (field_of hw fits 2)
  have field16 : fld w 16 3 = a := fld_of (field_of hw fits 4)
  have field21 : fld w 21 3 = d := fld_of (field_of hw fits 6)
  refine ofA rfl rfl rfl word small fun wf => ?_
  rw [decodeA19_of major]
  simp only [decodeA19, bits0, bits4, bits14, bits19, bits24, field11, field16, field21, zeros_nil, zeros_cons, checked, wf]

theorem Roundtrip.mnot (d : MReg) (a : MReg) : Statement (.mnot d a) := by
  have fits : Fits [(4, 4), (12, 0), (3, a.toNat), (2, 0), (3, d.toNat), (2, 0), (6, 0x19)] := ⟨by decide, by decide, a.isLt, by decide, d.isLt, by decide, by decide, trivial⟩
  obtain ⟨w, hw⟩ : ∃ w, w = pack [(4, 4), (12, 0), (3, a.toNat), (2, 0), (3, d.toNat), (2, 0), (6, 0x19)] := ⟨_, rfl⟩
  have word : encodeWord (.mnot d a) = some w := by rw [hw]; rfl
  have small : w < 2 ^ 32 := lt_of hw fits
  have major : bitsOf w 26 6 = 25 := field_of hw fits 6
  have bits0 : bitsOf w 0 4 = 4 := field_of hw fits 0
  have bits4 : bitsOf w 4 12 = 0 := field_of hw fits 1
  have bits19 : bitsOf w 19 2 = 0 := field_of hw fits 3
  have bits24 : bitsOf w 24 2 = 0 := field_of hw fits 5
  have field16 : fld w 16 3 = a := fld_of (field_of hw fits 2)
  have field21 : fld w 21 3 = d := fld_of (field_of hw fits 4)
  refine ofA rfl rfl rfl word small fun wf => ?_
  rw [decodeA19_of major]
  simp only [decodeA19, bits0, bits4, bits19, bits24, field16, field21, zeros_nil, zeros_cons, checked, wf]

theorem Roundtrip.mpop (d : Reg) (a : MReg) : Statement (.mpop d a) := by
  have fits : Fits [(4, 5), (12, 0), (3, a.toNat), (2, 0), (5, d.toNat), (6, 0x19)] := ⟨by decide, by decide, a.isLt, by decide, d.isLt, by decide, trivial⟩
  obtain ⟨w, hw⟩ : ∃ w, w = pack [(4, 5), (12, 0), (3, a.toNat), (2, 0), (5, d.toNat), (6, 0x19)] := ⟨_, rfl⟩
  have word : encodeWord (.mpop d a) = some w := by rw [hw]; rfl
  have small : w < 2 ^ 32 := lt_of hw fits
  have major : bitsOf w 26 6 = 25 := field_of hw fits 5
  have bits0 : bitsOf w 0 4 = 5 := field_of hw fits 0
  have bits4 : bitsOf w 4 12 = 0 := field_of hw fits 1
  have bits19 : bitsOf w 19 2 = 0 := field_of hw fits 3
  have field16 : fld w 16 3 = a := fld_of (field_of hw fits 2)
  have field21 : fld w 21 5 = d := fld_of (field_of hw fits 4)
  refine ofA rfl rfl rfl word small fun wf => ?_
  rw [decodeA19_of major]
  simp only [decodeA19, bits0, bits4, bits19, field16, field21, zeros_nil, zeros_cons, checked, wf]

theorem Roundtrip.mfrst (d : Reg) (a : MReg) : Statement (.mfrst d a) := by
  have fits : Fits [(4, 6), (12, 0), (3, a.toNat), (2, 0), (5, d.toNat), (6, 0x19)] := ⟨by decide, by decide, a.isLt, by decide, d.isLt, by decide, trivial⟩
  obtain ⟨w, hw⟩ : ∃ w, w = pack [(4, 6), (12, 0), (3, a.toNat), (2, 0), (5, d.toNat), (6, 0x19)] := ⟨_, rfl⟩
  have word : encodeWord (.mfrst d a) = some w := by rw [hw]; rfl
  have small : w < 2 ^ 32 := lt_of hw fits
  have major : bitsOf w 26 6 = 25 := field_of hw fits 5
  have bits0 : bitsOf w 0 4 = 6 := field_of hw fits 0
  have bits4 : bitsOf w 4 12 = 0 := field_of hw fits 1
  have bits19 : bitsOf w 19 2 = 0 := field_of hw fits 3
  have field16 : fld w 16 3 = a := fld_of (field_of hw fits 2)
  have field21 : fld w 21 5 = d := fld_of (field_of hw fits 4)
  refine ofA rfl rfl rfl word small fun wf => ?_
  rw [decodeA19_of major]
  simp only [decodeA19, bits0, bits4, bits19, field16, field21, zeros_nil, zeros_cons, checked, wf]

theorem Roundtrip.mfromg (d : MReg) (a : Reg) : Statement (.mfromg d a) := by
  have fits : Fits [(4, 7), (12, 0), (5, a.toNat), (3, d.toNat), (2, 0), (6, 0x19)] := ⟨by decide, by decide, a.isLt, d.isLt, by decide, by decide, trivial⟩
  obtain ⟨w, hw⟩ : ∃ w, w = pack [(4, 7), (12, 0), (5, a.toNat), (3, d.toNat), (2, 0), (6, 0x19)] := ⟨_, rfl⟩
  have word : encodeWord (.mfromg d a) = some w := by rw [hw]; rfl
  have small : w < 2 ^ 32 := lt_of hw fits
  have major : bitsOf w 26 6 = 25 := field_of hw fits 5
  have bits0 : bitsOf w 0 4 = 7 := field_of hw fits 0
  have bits4 : bitsOf w 4 12 = 0 := field_of hw fits 1
  have bits24 : bitsOf w 24 2 = 0 := field_of hw fits 4
  have field16 : fld w 16 5 = a := fld_of (field_of hw fits 2)
  have field21 : fld w 21 3 = d := fld_of (field_of hw fits 3)
  refine ofA rfl rfl rfl word small fun wf => ?_
  rw [decodeA19_of major]
  simp only [decodeA19, bits0, bits4, bits24, field16, field21, zeros_nil, zeros_cons, checked, wf]

theorem Roundtrip.mtog (d : Reg) (a : MReg) : Statement (.mtog d a) := by
  have fits : Fits [(4, 8), (12, 0), (3, a.toNat), (2, 0), (5, d.toNat), (6, 0x19)] := ⟨by decide, by decide, a.isLt, by decide, d.isLt, by decide, trivial⟩
  obtain ⟨w, hw⟩ : ∃ w, w = pack [(4, 8), (12, 0), (3, a.toNat), (2, 0), (5, d.toNat), (6, 0x19)] := ⟨_, rfl⟩
  have word : encodeWord (.mtog d a) = some w := by rw [hw]; rfl
  have small : w < 2 ^ 32 := lt_of hw fits
  have major : bitsOf w 26 6 = 25 := field_of hw fits 5
  have bits0 : bitsOf w 0 4 = 8 := field_of hw fits 0
  have bits4 : bitsOf w 4 12 = 0 := field_of hw fits 1
  have bits19 : bitsOf w 19 2 = 0 := field_of hw fits 3
  have field16 : fld w 16 3 = a := fld_of (field_of hw fits 2)
  have field21 : fld w 21 5 = d := fld_of (field_of hw fits 4)
  refine ofA rfl rfl rfl word small fun wf => ?_
  rw [decodeA19_of major]
  simp only [decodeA19, bits0, bits4, bits19, field16, field21, zeros_nil, zeros_cons, checked, wf]

theorem Roundtrip.xend : Statement (.xend) := by
  have fits : Fits [(26, 0), (6, 0x00)] := ⟨by decide, by decide, trivial⟩
  obtain ⟨w, hw⟩ : ∃ w, w = pack [(26, 0), (6, 0x00)] := ⟨_, rfl⟩
  have word : encodeWord (.xend) = some w := by rw [hw]; rfl
  have small : w < 2 ^ 32 := lt_of hw fits
  have major : bitsOf w 26 6 = 0 := field_of hw fits 1
  have bits0 : bitsOf w 0 26 = 0 := field_of hw fits 0
  refine ofX rfl rfl rfl word small fun wf => ?_
  rw [decodeX00_of major]
  simp only [decodeX00, bits0, zeros_nil, zeros_cons, checked, wf]

theorem Roundtrip.xadd (d : XReg) (a : XReg) (b : XReg) (t : BitVec 4) : Statement (.xadd d a b t) := by
  have fits : Fits [(4, t.toNat), (10, 0), (4, b.toNat), (4, a.toNat), (4, d.toNat), (6, 0x01)] := ⟨t.isLt, by decide, b.isLt, a.isLt, d.isLt, by decide, trivial⟩
  obtain ⟨w, hw⟩ : ∃ w, w = pack [(4, t.toNat), (10, 0), (4, b.toNat), (4, a.toNat), (4, d.toNat), (6, 0x01)] := ⟨_, rfl⟩
  have word : encodeWord (.xadd d a b t) = some w := by rw [hw]; rfl
  have small : w < 2 ^ 32 := lt_of hw fits
  have major : bitsOf w 26 6 = 1 := field_of hw fits 5
  have bits4 : bitsOf w 4 10 = 0 := field_of hw fits 1
  have field0 : fld w 0 4 = t := fld_of (field_of hw fits 0)
  have field14 : fld w 14 4 = b := fld_of (field_of hw fits 2)
  have field18 : fld w 18 4 = a := fld_of (field_of hw fits 3)
  have field22 : fld w 22 4 = d := fld_of (field_of hw fits 4)
  refine ofX rfl rfl rfl word small fun wf => ?_
  rw [decodeX01_of major]
  simp only [decodeX01, bits4, field0, field14, field18, field22, zeros_nil, zeros_cons, checked, wf]

theorem Roundtrip.xmax (d : XReg) (a : XReg) (b : XReg) (t : BitVec 4) : Statement (.xmax d a b t) := by
  have fits : Fits [(4, t.toNat), (10, 0), (4, b.toNat), (4, a.toNat), (4, d.toNat), (6, 0x02)] := ⟨t.isLt, by decide, b.isLt, a.isLt, d.isLt, by decide, trivial⟩
  obtain ⟨w, hw⟩ : ∃ w, w = pack [(4, t.toNat), (10, 0), (4, b.toNat), (4, a.toNat), (4, d.toNat), (6, 0x02)] := ⟨_, rfl⟩
  have word : encodeWord (.xmax d a b t) = some w := by rw [hw]; rfl
  have small : w < 2 ^ 32 := lt_of hw fits
  have major : bitsOf w 26 6 = 2 := field_of hw fits 5
  have bits4 : bitsOf w 4 10 = 0 := field_of hw fits 1
  have field0 : fld w 0 4 = t := fld_of (field_of hw fits 0)
  have field14 : fld w 14 4 = b := fld_of (field_of hw fits 2)
  have field18 : fld w 18 4 = a := fld_of (field_of hw fits 3)
  have field22 : fld w 22 4 = d := fld_of (field_of hw fits 4)
  refine ofX rfl rfl rfl word small fun wf => ?_
  rw [decodeX02_of major]
  simp only [decodeX02, bits4, field0, field14, field18, field22, zeros_nil, zeros_cons, checked, wf]

theorem Roundtrip.xmin (d : XReg) (a : XReg) (b : XReg) (t : BitVec 4) : Statement (.xmin d a b t) := by
  have fits : Fits [(4, t.toNat), (10, 0), (4, b.toNat), (4, a.toNat), (4, d.toNat), (6, 0x03)] := ⟨t.isLt, by decide, b.isLt, a.isLt, d.isLt, by decide, trivial⟩
  obtain ⟨w, hw⟩ : ∃ w, w = pack [(4, t.toNat), (10, 0), (4, b.toNat), (4, a.toNat), (4, d.toNat), (6, 0x03)] := ⟨_, rfl⟩
  have word : encodeWord (.xmin d a b t) = some w := by rw [hw]; rfl
  have small : w < 2 ^ 32 := lt_of hw fits
  have major : bitsOf w 26 6 = 3 := field_of hw fits 5
  have bits4 : bitsOf w 4 10 = 0 := field_of hw fits 1
  have field0 : fld w 0 4 = t := fld_of (field_of hw fits 0)
  have field14 : fld w 14 4 = b := fld_of (field_of hw fits 2)
  have field18 : fld w 18 4 = a := fld_of (field_of hw fits 3)
  have field22 : fld w 22 4 = d := fld_of (field_of hw fits 4)
  refine ofX rfl rfl rfl word small fun wf => ?_
  rw [decodeX03_of major]
  simp only [decodeX03, bits4, field0, field14, field18, field22, zeros_nil, zeros_cons, checked, wf]

theorem Roundtrip.xmx6 (d : XReg) (a : XReg) (b : XReg) : Statement (.xmx6 d a b) := by
  have fits : Fits [(14, 0), (4, b.toNat), (4, a.toNat), (4, d.toNat), (6, 0x04)] := ⟨by decide, b.isLt, a.isLt, d.isLt, by decide, trivial⟩
  obtain ⟨w, hw⟩ : ∃ w, w = pack [(14, 0), (4, b.toNat), (4, a.toNat), (4, d.toNat), (6, 0x04)] := ⟨_, rfl⟩
  have word : encodeWord (.xmx6 d a b) = some w := by rw [hw]; rfl
  have small : w < 2 ^ 32 := lt_of hw fits
  have major : bitsOf w 26 6 = 4 := field_of hw fits 4
  have bits0 : bitsOf w 0 14 = 0 := field_of hw fits 0
  have field14 : fld w 14 4 = b := fld_of (field_of hw fits 1)
  have field18 : fld w 18 4 = a := fld_of (field_of hw fits 2)
  have field22 : fld w 22 4 = d := fld_of (field_of hw fits 3)
  refine ofX rfl rfl rfl word small fun wf => ?_
  rw [decodeX04_of major]
  simp only [decodeX04, bits0, field14, field18, field22, zeros_nil, zeros_cons, checked, wf]

theorem Roundtrip.xpack (d : XReg) (a : XReg) (b : XReg) : Statement (.xpack d a b) := by
  have fits : Fits [(14, 0), (4, b.toNat), (4, a.toNat), (4, d.toNat), (6, 0x05)] := ⟨by decide, b.isLt, a.isLt, d.isLt, by decide, trivial⟩
  obtain ⟨w, hw⟩ : ∃ w, w = pack [(14, 0), (4, b.toNat), (4, a.toNat), (4, d.toNat), (6, 0x05)] := ⟨_, rfl⟩
  have word : encodeWord (.xpack d a b) = some w := by rw [hw]; rfl
  have small : w < 2 ^ 32 := lt_of hw fits
  have major : bitsOf w 26 6 = 5 := field_of hw fits 4
  have bits0 : bitsOf w 0 14 = 0 := field_of hw fits 0
  have field14 : fld w 14 4 = b := fld_of (field_of hw fits 1)
  have field18 : fld w 18 4 = a := fld_of (field_of hw fits 2)
  have field22 : fld w 22 4 = d := fld_of (field_of hw fits 3)
  refine ofX rfl rfl rfl word small fun wf => ?_
  rw [decodeX05_of major]
  simp only [decodeX05, bits0, field14, field18, field22, zeros_nil, zeros_cons, checked, wf]

theorem Roundtrip.xunpk (d : XReg) (a : XReg) (h : BitVec 1) : Statement (.xunpk d a h) := by
  have fits : Fits [(1, h.toNat), (17, 0), (4, a.toNat), (4, d.toNat), (6, 0x06)] := ⟨h.isLt, by decide, a.isLt, d.isLt, by decide, trivial⟩
  obtain ⟨w, hw⟩ : ∃ w, w = pack [(1, h.toNat), (17, 0), (4, a.toNat), (4, d.toNat), (6, 0x06)] := ⟨_, rfl⟩
  have word : encodeWord (.xunpk d a h) = some w := by rw [hw]; rfl
  have small : w < 2 ^ 32 := lt_of hw fits
  have major : bitsOf w 26 6 = 6 := field_of hw fits 4
  have bits1 : bitsOf w 1 17 = 0 := field_of hw fits 1
  have field0 : fld w 0 1 = h := fld_of (field_of hw fits 0)
  have field18 : fld w 18 4 = a := fld_of (field_of hw fits 2)
  have field22 : fld w 22 4 = d := fld_of (field_of hw fits 3)
  refine ofX rfl rfl rfl word small fun wf => ?_
  rw [decodeX06_of major]
  simp only [decodeX06, bits1, field0, field18, field22, zeros_nil, zeros_cons, checked, wf]

theorem Roundtrip.xmov (d : XReg) (a : XReg) : Statement (.xmov d a) := by
  have fits : Fits [(18, 0), (4, a.toNat), (4, d.toNat), (6, 0x07)] := ⟨by decide, a.isLt, d.isLt, by decide, trivial⟩
  obtain ⟨w, hw⟩ : ∃ w, w = pack [(18, 0), (4, a.toNat), (4, d.toNat), (6, 0x07)] := ⟨_, rfl⟩
  have word : encodeWord (.xmov d a) = some w := by rw [hw]; rfl
  have small : w < 2 ^ 32 := lt_of hw fits
  have major : bitsOf w 26 6 = 7 := field_of hw fits 3
  have bits0 : bitsOf w 0 18 = 0 := field_of hw fits 0
  have field18 : fld w 18 4 = a := fld_of (field_of hw fits 1)
  have field22 : fld w 22 4 = d := fld_of (field_of hw fits 2)
  refine ofX rfl rfl rfl word small fun wf => ?_
  rw [decodeX07_of major]
  simp only [decodeX07, bits0, field18, field22, zeros_nil, zeros_cons, checked, wf]

theorem Roundtrip.xrecv (d : XReg) (i : BitVec 1) : Statement (.xrecv d i) := by
  have fits : Fits [(1, i.toNat), (21, 0), (4, d.toNat), (6, 0x08)] := ⟨i.isLt, by decide, d.isLt, by decide, trivial⟩
  obtain ⟨w, hw⟩ : ∃ w, w = pack [(1, i.toNat), (21, 0), (4, d.toNat), (6, 0x08)] := ⟨_, rfl⟩
  have word : encodeWord (.xrecv d i) = some w := by rw [hw]; rfl
  have small : w < 2 ^ 32 := lt_of hw fits
  have major : bitsOf w 26 6 = 8 := field_of hw fits 3
  have bits1 : bitsOf w 1 21 = 0 := field_of hw fits 1
  have field0 : fld w 0 1 = i := fld_of (field_of hw fits 0)
  have field22 : fld w 22 4 = d := fld_of (field_of hw fits 2)
  refine ofX rfl rfl rfl word small fun wf => ?_
  rw [decodeX08_of major]
  simp only [decodeX08, bits1, field0, field22, zeros_nil, zeros_cons, checked, wf]

theorem Roundtrip.xemit (a : XReg) (o : BitVec 2) : Statement (.xemit a o) := by
  have fits : Fits [(2, o.toNat), (16, 0), (4, a.toNat), (4, 0), (6, 0x09)] := ⟨o.isLt, by decide, a.isLt, by decide, by decide, trivial⟩
  obtain ⟨w, hw⟩ : ∃ w, w = pack [(2, o.toNat), (16, 0), (4, a.toNat), (4, 0), (6, 0x09)] := ⟨_, rfl⟩
  have word : encodeWord (.xemit a o) = some w := by rw [hw]; rfl
  have small : w < 2 ^ 32 := lt_of hw fits
  have major : bitsOf w 26 6 = 9 := field_of hw fits 4
  have bits2 : bitsOf w 2 16 = 0 := field_of hw fits 1
  have bits22 : bitsOf w 22 4 = 0 := field_of hw fits 3
  have field0 : fld w 0 2 = o := fld_of (field_of hw fits 0)
  have field18 : fld w 18 4 = a := fld_of (field_of hw fits 2)
  refine ofX rfl rfl rfl word small fun wf => ?_
  rw [decodeX09_of major]
  simp only [decodeX09, bits2, bits22, field0, field18, zeros_nil, zeros_cons, checked, wf]

theorem Roundtrip.sequencerTrap (pid : Nat) (cause : Nat) (tval : Word) : Statement (.sequencerTrap pid cause tval) := event rfl rfl rfl

theorem Roundtrip.sequencerEntry (pid : Nat) : Statement (.sequencerEntry pid) := event rfl rfl rfl

theorem Roundtrip.streamItem (helper : Nat) (stream : Nat) : Statement (.streamItem helper stream) := event rfl rfl rfl

theorem Roundtrip.ownerAccess (r : Req) : Statement (.ownerAccess r) := event rfl rfl rfl

theorem Roundtrip.subByteStore (r : Req) : Statement (.subByteStore r) := event rfl rfl rfl

theorem Roundtrip.versionedStoreAtOwner (r : Req) : Statement (.versionedStoreAtOwner r) := event rfl rfl rfl

theorem Roundtrip.versionedLoadAtOwner (r : Req) : Statement (.versionedLoadAtOwner r) := event rfl rfl rfl

theorem Roundtrip.reclaimAtOwner (r : Req) : Statement (.reclaimAtOwner r) := event rfl rfl rfl

theorem Roundtrip.initialiseAtOwner (r : Req) : Statement (.initialiseAtOwner r) := event rfl rfl rfl

theorem Roundtrip.heldCompletion (d : Done) : Statement (.heldCompletion d) := event rfl rfl rfl

theorem Roundtrip.waiterRetry (r : Req) : Statement (.waiterRetry r) := event rfl rfl rfl

theorem Roundtrip.acknowledgement (d : Done) : Statement (.acknowledgement d) := event rfl rfl rfl

theorem Roundtrip.widen (key : Nat) : Statement (.widen key) := event rfl rfl rfl

theorem Roundtrip.widened (key : Nat) : Statement (.widened key) := event rfl rfl rfl

theorem Roundtrip.released (a : Agent) : Statement (.released a) := event rfl rfl rfl

theorem Roundtrip.translationWalk (die : Nat) (ctx : Byte) (space : Nat) (vpage : Nat) : Statement (.translationWalk die ctx space vpage) := event rfl rfl rfl

theorem Roundtrip.engineBeat (queue : Nat) : Statement (.engineBeat queue) := event rfl rfl rfl

theorem Roundtrip.commandCompletion (queue : Nat) (status : Nat) : Statement (.commandCompletion queue status) := event rfl rfl rfl

theorem Roundtrip.msRequest (m : MsMsg) : Statement (.msRequest m) := event rfl rfl rfl

theorem Roundtrip.msReply (stack : Nat) : Statement (.msReply stack) := event rfl rfl rfl

theorem Roundtrip.frameReceive (port : Nat) (f : Frame) : Statement (.frameReceive port f) := event rfl rfl rfl

theorem Roundtrip.pfcRepeat (port : Nat) (prio : Nat) : Statement (.pfcRepeat port prio) := event rfl rfl rfl

theorem Roundtrip.pfcFrame (port : Nat) (prios : Byte) (quanta : List Nat) : Statement (.pfcFrame port prios quanta) := event rfl rfl rfl

theorem Roundtrip.pfcQuantaExpire (port : Nat) (prio : Nat) : Statement (.pfcQuantaExpire port prio) := event rfl rfl rfl

theorem Roundtrip.ingestDeposit (port : Nat) (ring : Nat) : Statement (.ingestDeposit port ring) := event rfl rfl rfl

theorem Roundtrip.ringDescriptorWrite (addr : Nat) (x : Word) : Statement (.ringDescriptorWrite addr x) := event rfl rfl rfl

theorem Roundtrip.portRegisterWrite (addr : Nat) (x : Word) : Statement (.portRegisterWrite addr x) := event rfl rfl rfl

theorem Roundtrip.frameTransmit (port : Nat) (prio : Nat) : Statement (.frameTransmit port prio) := event rfl rfl rfl

theorem Roundtrip.partGo (x : Word) : Statement (.partGo x) := event rfl rfl rfl

theorem Roundtrip.drainComplete : Statement (.drainComplete) := event rfl rfl rfl

theorem Roundtrip.drainTimeout : Statement (.drainTimeout) := event rfl rfl rfl

theorem Roundtrip.flushComplete : Statement (.flushComplete) := event rfl rfl rfl

theorem Roundtrip.powerComplete : Statement (.powerComplete) := event rfl rfl rfl

theorem Roundtrip.enumerate : Statement (.enumerate) := event rfl rfl rfl

theorem Roundtrip.roleChangeStop : Statement (.roleChangeStop) := event rfl rfl rfl

theorem Roundtrip.frzctlResume (x : Word) : Statement (.frzctlResume x) := event rfl rfl rfl

theorem Roundtrip.frzctlDiscard (x : Word) : Statement (.frzctlDiscard x) := event rfl rfl rfl

theorem Roundtrip.peerRequest (p : PeerMsg) : Statement (.peerRequest p) := event rfl rfl rfl

theorem Roundtrip.peerErrorReply (d : Done) : Statement (.peerErrorReply d) := event rfl rfl rfl

theorem Roundtrip.poolHeadWrite (core : Nat) (x : Word) : Statement (.poolHeadWrite core x) := event rfl rfl rfl

theorem Roundtrip.recfree (core : Nat) (x : Word) : Statement (.recfree core x) := event rfl rfl rfl

theorem Roundtrip.slotFill (core : Nat) : Statement (.slotFill core) := event rfl rfl rfl

theorem Roundtrip.spillParked (core : Nat) : Statement (.spillParked core) := event rfl rfl rfl

theorem Roundtrip.preempt (core : Nat) : Statement (.preempt core) := event rfl rfl rfl

theorem Roundtrip.spillComplete (pid : Nat) : Statement (.spillComplete pid) := event rfl rfl rfl

theorem Roundtrip.taskSteal (core : Nat) : Statement (.taskSteal core) := event rfl rfl rfl

theorem Roundtrip.laneGrant (bench : Nat) : Statement (.laneGrant bench) := event rfl rfl rfl

theorem Roundtrip.leaseGrant (bench : Nat) : Statement (.leaseGrant bench) := event rfl rfl rfl

theorem Roundtrip.mrelEffect (core : Nat) : Statement (.mrelEffect core) := event rfl rfl rfl

theorem Roundtrip.mfmtExecute (core : Nat) : Statement (.mfmtExecute core) := event rfl rfl rfl

theorem Roundtrip.mmacExecute (core : Nat) : Statement (.mmacExecute core) := event rfl rfl rfl

theorem Roundtrip.mlidExecute (core : Nat) : Statement (.mlidExecute core) := event rfl rfl rfl

theorem Roundtrip.mclrExecute (core : Nat) : Statement (.mclrExecute core) := event rfl rfl rfl

theorem Roundtrip.mdrnExecute (core : Nat) : Statement (.mdrnExecute core) := event rfl rfl rfl

theorem Roundtrip.thermalPeriod (temps : List (Nat × Nat)) : Statement (.thermalPeriod temps) := event rfl rfl rfl

theorem Roundtrip.launchTake (q : Nat) : Statement (.launchTake q) := event rfl rfl rfl

theorem Roundtrip.levelChange (q : Nat) : Statement (.levelChange q) := event rfl rfl rfl

theorem Roundtrip.queueBarrier (q : Nat) : Statement (.queueBarrier q) := event rfl rfl rfl

theorem Roundtrip.contextFence (q : Nat) : Statement (.contextFence q) := event rfl rfl rfl

theorem Roundtrip.launchQueueWrite (addr : Nat) (x : Word) : Statement (.launchQueueWrite addr x) := event rfl rfl rfl

theorem Roundtrip.startMessage (m : StartMsg) : Statement (.startMessage m) := event rfl rfl rfl

theorem Roundtrip.doneNotice (m : DoneMsg) : Statement (.doneNotice m) := event rfl rfl rfl

theorem Roundtrip.checkRunAEnd (tower : Nat) (idx : Nat) : Statement (.checkRunAEnd tower idx) := event rfl rfl rfl

theorem Roundtrip.checkRunBEnd (tower : Nat) (idx : Nat) : Statement (.checkRunBEnd tower idx) := event rfl rfl rfl

theorem Roundtrip.commitTurn (domain : Nat) : Statement (.commitTurn domain) := event rfl rfl rfl

theorem Roundtrip.chunkCommit (pid : Nat) : Statement (.chunkCommit pid) := event rfl rfl rfl

theorem Roundtrip.logUnitWrite (ctx : Byte) : Statement (.logUnitWrite ctx) := event rfl rfl rfl

theorem Roundtrip.logPadTimeout (ctx : Byte) : Statement (.logPadTimeout ctx) := event rfl rfl rfl

theorem Roundtrip.logctlWrite (ctx : Byte) (x : Word) : Statement (.logctlWrite ctx x) := event rfl rfl rfl

theorem Roundtrip.logtailWrite (ctx : Byte) (x : Word) : Statement (.logtailWrite ctx x) := event rfl rfl rfl

theorem Roundtrip.logheadWrite (ctx : Byte) (x : Word) : Statement (.logheadWrite ctx x) := event rfl rfl rfl

theorem Roundtrip.channelSendAtHome (m : ChanMsg) : Statement (.channelSendAtHome m) := event rfl rfl rfl

theorem Roundtrip.channelReceiveAtHome (m : ChanMsg) : Statement (.channelReceiveAtHome m) := event rfl rfl rfl

theorem Roundtrip.sendRetry (m : ChanMsg) : Statement (.sendRetry m) := event rfl rfl rfl

theorem Roundtrip.drainQueryReply (m : ChanMsg) (elem : List Byte) (stamp : Word) : Statement (.drainQueryReply m elem stamp) := event rfl rfl rfl

theorem Roundtrip.tileTransfer (t : TileMsg) : Statement (.tileTransfer t) := event rfl rfl rfl

theorem Roundtrip.selectClaim (list : Nat) (index : Nat) : Statement (.selectClaim list index) := event rfl rfl rfl

theorem Roundtrip.timeoutFire (pid : Nat) : Statement (.timeoutFire pid) := event rfl rfl rfl

theorem Roundtrip.channelTimeout (pid : Nat) : Statement (.channelTimeout pid) := event rfl rfl rfl

theorem Roundtrip.withdrawal (m : ChanMsg) : Statement (.withdrawal m) := event rfl rfl rfl

theorem Roundtrip.spawnPlace (m : SpawnMsg) : Statement (.spawnPlace m) := event rfl rfl rfl

theorem Roundtrip.barrierArrival (m : BarMsg) : Statement (.barrierArrival m) := event rfl rfl rfl

theorem Roundtrip.handlerRequest (m : HandlerMsg) : Statement (.handlerRequest m) := event rfl rfl rfl

theorem Roundtrip.faultPost (ctx : Byte) (words : List Word) : Statement (.faultPost ctx words) := event rfl rfl rfl

theorem Roundtrip.fltresRetry (core : Nat) (x : Word) : Statement (.fltresRetry core x) := event rfl rfl rfl

theorem Roundtrip.fltresSkip (core : Nat) (x : Word) : Statement (.fltresSkip core x) := event rfl rfl rfl

theorem Roundtrip.fltresDiscard (core : Nat) (x : Word) : Statement (.fltresDiscard core x) := event rfl rfl rfl

theorem Roundtrip.contextEvict (ctx : Byte) : Statement (.contextEvict ctx) := event rfl rfl rfl

theorem Roundtrip.contextRestore (ctx : Byte) : Statement (.contextRestore ctx) := event rfl rfl rfl

theorem Roundtrip.triggerLatch (ctx : Byte) (t : TrigMsg) : Statement (.triggerLatch ctx t) := event rfl rfl rfl

theorem Roundtrip.deadlock : Statement (.deadlock) := event rfl rfl rfl

theorem Roundtrip.collAnnounce (a : AnnMsg) : Statement (.collAnnounce a) := event rfl rfl rfl

theorem Roundtrip.announceRetry (a : AnnMsg) : Statement (.announceRetry a) := event rfl rfl rfl

theorem Roundtrip.chunkGrant (cid : Nat) (chunk : Nat) (link : Nat) : Statement (.chunkGrant cid chunk link) := event rfl rfl rfl

theorem Roundtrip.chunkArbitration (resource : Nat) : Statement (.chunkArbitration resource) := event rfl rfl rfl

theorem Roundtrip.collComplete (cid : Nat) (num : Nat) : Statement (.collComplete cid num) := event rfl rfl rfl

theorem Roundtrip.trussPush (r : Req) : Statement (.trussPush r) := event rfl rfl rfl

theorem Roundtrip.trussPop (r : Req) : Statement (.trussPop r) := event rfl rfl rfl

theorem Roundtrip.trussQueueWrite (addr : Nat) (x : Word) : Statement (.trussQueueWrite addr x) := event rfl rfl rfl

theorem Roundtrip.linkFlit (link : Nat) (f : Flit) : Statement (.linkFlit link f) := event rfl rfl rfl

theorem Roundtrip.linkReplay (link : Nat) (lseq : BitVec 12) : Statement (.linkReplay link lseq) := event rfl rfl rfl

theorem Roundtrip.linkRetrain (link : Nat) (ok : Bool) : Statement (.linkRetrain link ok) := event rfl rfl rfl

theorem Roundtrip.hostBar0 (offset : Nat) (data : Option Word) : Statement (.hostBar0 offset data) := event rfl rfl rfl

theorem Roundtrip.hostLaunchWrite (offset : Nat) (bytes : List Byte) : Statement (.hostLaunchWrite offset bytes) := event rfl rfl rfl

theorem Roundtrip.hostAperture (offset : Nat) (size : Nat) (data : Option Word) : Statement (.hostAperture offset size data) := event rfl rfl rfl

theorem Roundtrip.msixSend (vector : Nat) : Statement (.msixSend vector) := event rfl rfl rfl

theorem Roundtrip.hostReadCompletion (tag : Nat) (status : Nat) (data : List Byte) : Statement (.hostReadCompletion tag status data) := event rfl rfl rfl

theorem Roundtrip.hostReadTimeout (tag : Nat) : Statement (.hostReadTimeout tag) := event rfl rfl rfl

theorem Roundtrip.hwakeExpire : Statement (.hwakeExpire) := event rfl rfl rfl

theorem Roundtrip.powerOn : Statement (.powerOn) := event rfl rfl rfl

theorem Roundtrip.bootStage (result : BootResult) : Statement (.bootStage result) := event rfl rfl rfl

theorem Roundtrip.bootWatchdog : Statement (.bootWatchdog) := event rfl rfl rfl

theorem Roundtrip.reset : Statement (.reset) := event rfl rfl rfl

theorem Roundtrip.recgo (valid : Bool) : Statement (.recgo valid) := event rfl rfl rfl

theorem Roundtrip.calc : Statement (.calc) := event rfl rfl rfl

theorem Roundtrip.attctlGo : Statement (.attctlGo) := event rfl rfl rfl

theorem Roundtrip.attestDone : Statement (.attestDone) := event rfl rfl rfl

theorem Roundtrip.powerCapStep (watts : Nat) : Statement (.powerCapStep watts) := event rfl rfl rfl

theorem Roundtrip.thermalTrip : Statement (.thermalTrip) := event rfl rfl rfl

theorem Roundtrip.tripRelease : Statement (.tripRelease) := event rfl rfl rfl

theorem Roundtrip.blockRead (offset : Nat) : Statement (.blockRead offset) := event rfl rfl rfl

theorem Roundtrip.blockWrite (offset : Nat) (x : Word) : Statement (.blockWrite offset x) := event rfl rfl rfl

theorem Roundtrip.registerWrite (addr : Nat) (x : Word) : Statement (.registerWrite addr x) := event rfl rfl rfl

theorem Roundtrip.loadReturn (d : Done) : Statement (.loadReturn d) := event rfl rfl rfl

theorem Roundtrip.linkUp (link : Nat) : Statement (.linkUp link) := event rfl rfl rfl

theorem Roundtrip.lossOfPower : Statement (.lossOfPower) := event rfl rfl rfl

end Sys2Proof.Laws
end

