-- ==== Sys2Proof/Tests/Slice0.lean ====
section
/-! SUPPORT. Tests: ill-formed terms, words of the spec, single steps with the results that the spec states, and witnesses that
the hypotheses of the statements can be met. -/

namespace Sys2Proof.Tests

set_option Elab.async false

open Sys2Proof Sys2Proof.Machine

/-! ### States to test in -/

/-- The machine after power-on with FCR 0: round to nearest even, SUBM = TRAP. -/
def s0 : State := { State.reset with cur := { State.reset.cur with fcr := 0 } }

/-- A process of context 0 that runs in slot 0 of core 0. -/
def proc0 : State :=
  { State.reset with cur := { Proc.empty with pid := sliceAddr 0 0x100, unit := 0, st := .running, pc := BitVec.ofNat 64 (sliceAddr 0 0x1000) } }

/-- The loader of core 0, running. -/
def help0 : State :=
  { State.reset with cur := { Proc.empty with pid := helperKey 0, unit := 1, st := .running },
                     helpers := SMap.put Helper.empty [] 0 { Helper.empty with run := 1 } }

/-- As `proc0`, with 128 cores in use on die 0 and a descriptor of context 0 whose window grants every right to the first 2 MiB of every
slice and lid. -/
def proc1 : State :=
  { (proc0.setReg regPartstat 0x800000) with
      roles := [(0, 2)]
      descs := [(0, some { valid := true, sup := false, dev := false, xhost := false, root0 := 0, root1 := 0, mbox := 0,
                           windows := [{ w0 := 0xFFFFFFFFF8000000, w1 := 0x20000000000 }] })] }

/-- A channel's record at 0x2000 with one process's operation. -/
def chan0 : ChanMsg :=
  { agent := .proc (sliceAddr 0 0x100), core := 0, unit := 0, ctx := 0, handle := BitVec.ofNat 64 (sliceAddr 0 0x2000),
    key := sliceAddr 0 0x2000, send := true, kind := 0, elem := [], addr := 0, rs := 5, re := 0, pc := 0, seq := 1, deadline := none,
    issued := 0, sel := none, num := 1, flags := 0 }

/-- A request of node 5 for a word. -/
def peer0 : PeerMsg :=
  { node := 5, ctx := 0, lcore := 0, va := BitVec.ofNat 64 (sliceAddr 0 0x2000), size := 8, op := .load false, ord := .rlx, scope := 0, tag := 9 }

/-- What an instruction leaves. -/
noncomputable def after (i : Instr) (s : State) : State :=
  match exec i s with
  | .next t => t
  | _ => s

/-! ### Ill-formed terms, one for each check of `illFormed` -/

theorem test_ill_formed_lone_ext : wellFormed (.cnop (some 1)) = false := by decide
theorem test_ill_formed_lone_fence : wellFormed (.fence (some 1) .acq 1) = false := by decide
theorem test_ill_formed_lone_mreq : wellFormed (.mreq (some 0) 4) = false := by decide
theorem test_ill_formed_lone_rb : wellFormed (.cpy (some 9) 4 5 0) = false := by decide
theorem test_ill_formed_lone_offset : wellFormed (.beq (some 9) 1 2 3) = false := by decide
theorem test_ill_formed_lone_access : wellFormed (.ldd (some 9) 1 2 .rlx 0 3) = false := by decide
theorem test_ill_formed_scope_access : wellFormed (.std none 1 2 .rlx 7 0) = false := by decide
theorem test_ill_formed_scope_atomic : wellFormed (.aadd none 1 2 3 .rlx 7) = false := by decide
theorem test_ill_formed_scope_fence : wellFormed (.fence none .acq 7) = false := by decide
theorem test_ill_formed_fence_relaxed : wellFormed (.fence none .rlx 3) = false := by decide
theorem test_ill_formed_fence_scope0 : wellFormed (.fence none .rel 0) = false := by decide
theorem test_ill_formed_loop_end0 : wellFormed (.lp none 5 0) = false := by decide
theorem test_ill_formed_loop_ext0 : wellFormed (.lp (some 0) 5 0) = false := by decide
theorem test_ill_formed_loop_lone_end : wellFormed (.lp (some 4) 5 1) = false := by decide
theorem test_ill_formed_lpi_end0 : wellFormed (.lpi none 3 0) = false := by decide
theorem test_ill_formed_lpi_lone_count : wellFormed (.lpi (some 4) 3 1) = false := by decide
theorem test_ill_formed_type_word : wellFormed (.vadd 1 2 3 0 .bf16) = false := by decide
theorem test_ill_formed_type_int : wellFormed (.vsll 1 2 3 0 .f32) = false := by decide
theorem test_ill_formed_type_f32 : wellFormed (.vdiv 1 2 3 0 .s32) = false := by decide
theorem test_ill_formed_type_signed : wellFormed (.vabs 1 2 0 .n32) = false := by decide
theorem test_ill_formed_type_gather : wellFormed (.vldx none 1 2 3 .s4 0) = false := by decide
theorem test_ill_formed_type_pair : wellFormed (.vcvt 1 2 0 .s8 .n8) = false := by decide
theorem test_ill_formed_sysreg : wellFormed (.mfs none 3 0x003) = false := by decide
theorem test_ill_formed_xinv_kind : wellFormed (.xinv none 4 4) = false := by decide
theorem test_ill_formed_vloop_len0 : wellFormed (.vloop none 0 5) = false := by decide
theorem test_ill_formed_fabric_type : wellFormed (.xadd 1 2 3 3) = false := by decide
theorem test_ill_formed_fabric_group : wellFormed (.xmx6 14 0 0) = false := by decide
theorem test_ill_formed_fabric_output : wellFormed (.xemit 1 3) = false := by decide

/-! ### Words of the spec's own encoding tables (R217, R271–R287, R289–R317, R324–R349, R370, R384, R396) -/

set_option maxRecDepth 100000 in
theorem test_decode_c_words :
    decodeC 0x18010003 0 = .ok (.lpi none 2 3) ∧
    decodeC 0x0C707FFE 0 = .ok (.bne none 7 0 0x7FFE) ∧
    decodeC 0x02400000 0 = .ok (.halt none) ∧
    decodeC 0x3A007FFF 0 = .ok (.waitc none 0 0 31 31 31) ∧
    decodeC 0x363217A4 0 = .ok (.aadd none 3 4 5 .acqrel 5) ∧
    decodeC 0x303234C0 0 = .ok (.ldv none 3 4 .acq 5 6) ∧
    decodeC 0x327254C0 0 = .ok (.stv none 7 4 .rel 5 6) ∧
    decodeC 0x34021800 0 = .ok (.rcl none 4 6 .rlx 0) ∧
    decodeC 0x3402180A 0 = .ok (.vinit none 4 6 .rlx 0 2) ∧
    decodeC 0x38007000 0 = .ok (.fence none .acqrel 4) ∧
    decodeC 0x56221410 0 = .ok (.stn none 2 4 5 .rlx 0) ∧
    decodeC 0x2E324801 0 = .ok (.std none 3 4 .rel 2 1) ∧
    decodeC 0x40321400 0 = .ok (.csend none 3 4 5) ∧
    decodeC 0x40621C01 0 = .ok (.crecv none 6 4 7) ∧
    decodeC 0x40020007 0 = .ok (.cclose none 4) ∧
    decodeC 0x42302001 0 = .ok (.chsel none 3 8 1) ∧
    decodeC 0x44302400 0 = .ok (.chnew none 3 9) ∧
    decodeC 0x46321401 0 = .ok (.spawnk none 3 4 5) ∧
    decodeC 0x46048008 0 = .ok (.exit none 9) ∧
    decodeC 0x48320002 0 = .ok (.barw none 3 4) ∧
    decodeC 0x4A300050 0 = .ok (.mfs none 3 0x050) ∧
    decodeC 0x4A021051 0 = .ok (.mts none 4 0x051) ∧
    decodeC 0x4A002005 0 = .ok (.trap none 5) ∧
    decodeC 0x4A003000 0 = .ok (.tret none) ∧
    decodeC 0x58021404 0 = .ok (.hstart none 4 5) ∧
    decodeC 0x3C120020 0 = .ok (.vld none 1 4 0 .s32 0) ∧
    decodeC 0x3C220284 0 = .ok (.vst none 2 4 0 .e4m3 1) ∧
    decodeC 0x52321400 0 = .ok (.vclaim none 3 4 5) ∧
    decodeC 0x4C021406 0 = .ok (.mmac none 4 5) ∧
    decodeC 0x4E031600 0 = .ok (.cpy none 6 5 1) ∧
    decodeC 0xD4900000 0xA7E24681 = .ok (.lic (some 0xA7E24681) 9 0) := by decide

set_option maxRecDepth 100000 in
theorem test_decode_a_words :
    decodeA 0x08E00004 = .ok (.addi 7 0 4) ∧
    decodeA 0x29225C3B = .ok (.lui 9 2 0x5C3B) ∧
    decodeA 0x04A51800 = .ok (.add 5 5 3) ∧
    decodeA 0x1C642804 = .ok (.divS 3 4 5) ∧
    decodeA 0x20A63A0A = .ok (.sel 5 6 7 8) ∧
    decodeA 0x30A63A00 = .ok (.fmadd 5 6 7 8) ∧
    decodeA 0x34640017 = .ok (.fcvtE4m3F32 3 4) ∧
    decodeA 0x40221800 = .ok (.vadd 1 2 3 0 .f32) ∧
    decodeA 0x448531C0 = .ok (.vfma 4 5 6 7 0) ∧
    decodeA 0x48411112 = .ok (.vlt 2 1 2 1 .s32) ∧
    decodeA 0x50410040 = .ok (.vcvt 2 1 0 .e4m3 .f32) ∧
    decodeA 0x58610000 = .ok (.vrsum 3 1 0 .f32) ∧
    decodeA 0x60674002 = .ok (.skquant 3 7 8) := by decide

set_option maxRecDepth 100000 in
theorem test_decode_fabric_words :
    decodeX 0x0448C001 = .ok (.xadd 1 2 3 1) ∧
    decodeX 0x00000000 = .ok (.xend) := by decide

/-- A zero C-word, a reserved selector of cmaj 1, an A-word of amaj 0 and a reserved fabric op are refused (R215, R220, R271, R396). -/
theorem test_reserved_words : decodeC 0 0 = .error .zeroWord ∧ decodeC 0x02C00000 0 = .error .reservedFunction ∧
    (match decodeA 1 with | .error _ => true | .ok _ => false) = true ∧
    (match decodeX 0x28000000 with | .error _ => true | .ok _ => false) = true := by decide

set_option maxRecDepth 100000 in
theorem test_encode_words : encode (.lic (some 0xA7E24681) 9 0) = [0xD4900000, 0xA7E24681] ∧ encode (.add 5 5 3) = [0x04A51800] ∧
    encode (.xadd 1 2 3 1) = [0x0448C001] := by decide

/-- The host's numbering of a row's bits: a C-word, a lone one with an ext of zeros, an A-word. -/
theorem test_table_words : decodeTableWord 32 0x4C021406 = some (.mmac none 4 5) ∧
    decodeTableWord 32 0xD4900000 = some (.lic (some 0) 9 0) ∧ decodeTableWord 32 0x30A63A00 = some (.fmadd 5 6 7 8) := by decide

/-! ### Single steps, with results that the spec states -/

/-- The constant of R266's example, built in g9. -/
theorem test_lui : ((after (.lui 9 2 0x5C3B) (s0.setG 9 0xA7E24681)).g 9 = 0x00005C3BA7E24681) ∧
    ((after (.lui 9 3 0x9F1D) (s0.setG 9 0x00005C3BA7E24681)).g 9 = 0x9F1D5C3BA7E24681) := by decide

theorem test_add_wraps : (after (.add 5 6 7) ((s0.setG 6 0xFFFFFFFFFFFFFFFF).setG 7 1)).g 5 = 0 := by decide

theorem test_add_to_source : (after (.add 5 5 5) (s0.setG 5 7)).g 5 = 14 := by decide

theorem test_write_g0 : (after (.addi 0 0 5) s0).g 0 = 0 := by decide

theorem test_bundle_reads_before : (after (.jalr none 5 5) (proc0.setG 5 0x40)).xfer = .jump 0x40 := by decide

/-- R277's example: the inner loop is exhausted and the outer one counts in the same step. -/
theorem test_nested_loops :
    let l : Loop := { start := 8, stop := 24, rem := 2 }
    let k : Loop := { start := 24, stop := 24, rem := 1 }
    let s := { s0 with cur := { s0.cur with pc := 24, loops := [k, l] } }
    s.advance.cur.pc = 8 ∧ s.advance.cur.loops = [{ l with rem := 1 }] := by decide

/-- R21's examples of a Class A tower: C C S S and C C S D pass, C C D S fails with ERR 3, C C C S with ERR 1. -/
theorem test_plans : planError 0x15A5A 0 = 0 ∧ planError 0x11A1A 0 = 0 ∧ planError 0x1005A 0 = 0 ∧ planError 0x1004A 0 = 3 ∧
    planError 0x1006A 0 = 1 := by decide

/-- R79's example: A then B leave 0x97 in byte 5. -/
theorem test_nibbles : mergeNibbles (mergeNibbles 0x3A0000000000 0x70000000000 0x0400) 0x900000000000 0x0800 = 0x970000000000 := by decide

/-- R246: 0.8 rounds to 1.0 in e2m1 under round to nearest, and UF is for magnitudes of 0.5 or below: NX (bit 4) alone.
0.4 rounds to 0.5 and sets UF (bit 3) as well. -/
theorem test_e2m1_underflow :
    convF fmtF32 fmtE2m1 Mode.rne false 0x3F4CCCCD = { bits := 2, flags := flNX, rs := Mode.rne.rs } ∧
    (convF fmtF32 fmtE2m1 Mode.rne false 0x3ECCCCCD).bits = 1 ∧ (convF fmtF32 fmtE2m1 Mode.rne false 0x3ECCCCCD).flags = flUF ||| flNX := by
  decide

/-- A placed `add` is the first instruction that a step runs after reset. -/
theorem test_fetch_word :
    (match step (State.reset.withFetchWord 32 0x04A51800) with
      | .next t => decide (t.cur.pc = placedProc.pc + 8) | _ => false) = true := by decide

/-! ### Witnesses: the hypotheses of each statement can be met -/

/-- Well-formed instructions of each map, plain and lone. -/
theorem witness_encode : wellFormed (.add 5 6 7) = true ∧ isAWord (.add 5 6 7) = true ∧ wellFormed (.lic (some 7) 9 0) = true ∧
    isCWord (.lic (some 7) 9 0) = true ∧ (loneOf (.lic (some 7) 9 0)).isSome = true ∧ isCWord (.br none 1) = true ∧
    wellFormed (.br none 1) = true ∧ wellFormed (.xadd 1 2 3 1) = true ∧ isFabricWord (.xadd 1 2 3 1) = true := by decide

/-- A state that issues `add g5, g6, g7` beside `cnop` at the next step; a step in flight; and a fabric word. -/
theorem witness_step :
    let s := State.reset.opened.withProc
    let p := s.poke placedProc.pc.toNat (BitVec.ofNat 64 (0x2000000 + (2 ^ 26 + 5 * 2 ^ 21 + 6 * 2 ^ 16 + 7 * 2 ^ 11) * 2 ^ 32))
    (match s.tick.watchLines.choose with | (none, _) => true | _ => false) = true ∧ s.tick.issuers = [0] ∧ (s.tick.slotOrder 0).head? = some (0, true) ∧
      (match s.tick.startSlot 0 0 with | some (.issue v) => decide (v.cur.redo = []) | _ => false) = true ∧
      (match fetchBundle p with | .ok u => decide (u.ir.toNat % 2 ^ 32 = 0x2000000) | .error _ => false) = true ∧
      transfers (.cnop none) = false ∧ performedLast (.cnop none) = false ∧ s.notPerformed = false ∧
      (match State.reset.tick.watchLines.choose with | (some e, _) => decide (e = .bootStage .ok) | _ => false) = true := by decide

/-- A memory in canonical form that is not empty, a number of one byte, and an owner's answers of each kind. -/
theorem witness_memory :
    let w := sliceAddr 0 0x800
    let r : Req := { agent := .proc 64, core := 0, unit := 0, ctx := 0, va := 0x800, pa := w, space := 2, size := 8,
                     op := .store 7, ord := .rlx, scope := 0, rd := 0, pc := 0, sn := 1 }
    Memory.wf (State.reset.poke w 7).mem = true ∧ (7#64).toNat < 256 ^ 1 ∧
      (match perform State.reset r with | .done t _ _ _ => decide (t.peek w = 7) | _ => false) = true ∧
      (match perform State.reset { r with op := .ldv 200 } with | .fault _ f => decide (f.cause = 0x060) | _ => false) = true := by decide

/-- Registers other than g0, and a state inside a bundle. -/
theorem witness_registers : (5 : Reg) ≠ 0 ∧ (6 : Reg) ≠ 5 ∧ proc1.pre = none ∧
    ({ proc1 with pre := some proc1.keep } : State).pre.isSome = true := by decide

/-- Two steps of one lane and one of another are in flight, and the second choice is named. -/
theorem witness_order :
    let s := { State.reset with agenda := [.released (.proc 1), .released (.proc 1), .released (.proc 2)], sched := [1] }
    (match s.choose with | (some e, u) => decide (e = .released (.proc 2)) && decide (u.agenda.length = 2) | _ => false) = true ∧
      (match ({ s with sched := [7] } : State).choose with | (none, u) => decide (u.agenda.length = 3) | _ => false) = true ∧
      (match ({ s with sched := [] } : State).choose with | (some e, u) => decide (e = .released (.proc 1)) && u.blocked.isEmpty | _ => false) = true := by
  decide

/-- The hypothesis of `ProductsQuotientsAndComparisons` can be met: a divisor that is not 0. -/
theorem witness_divisor : (State.reset.setG 3 5).g 3 ≠ 0 := by decide

/-- The hypotheses of `FloatArithmeticCompletes` can be met under SUBM = TRAP, by normal sources. -/
theorem witness_float_sources :
    let s := ((Sys2Proof.Tests.s0.setG 1 0x3F800000).setG 2 0x00800000).setG 3 0x7F7FFFFF
    s.fcr.toNat / 8 % 4 = 0 ∧ isSub32 ((s.g 1).setWidth 32) = false ∧ isSub32 ((s.g 2).setWidth 32) = false ∧
      isSub32 ((s.g 3).setWidth 32) = false := by decide

/-- The hypotheses of `FloatComparisonsFollowTheNumericOrder` can be met: they define `n`, `v` and `key`. -/
theorem witness_float_order : ∃ (n : W32 → Prop) (v : W32 → Int) (key : W32 → Nat),
    (∀ w : W32, n w ↔ w.toNat / 2 ^ 23 % 256 = 255 ∧ w.toNat % 2 ^ 23 ≠ 0) ∧
    (∀ w : W32, v w = if w.toNat < 2 ^ 31 then (w.toNat : Int) else -((w.toNat - 2 ^ 31 : Nat) : Int)) ∧
    ∀ w : W32, key w = if w.toNat < 2 ^ 31 then w.toNat + 2 ^ 31 else 2 ^ 32 - 1 - w.toNat :=
  ⟨_, _, _, fun _ => Iff.rfl, fun _ => rfl, fun _ => rfl⟩

/-- The hypotheses of `FloatConversionsComplete` can be met: a finite source that is no subnormal, and a NaN. -/
theorem witness_conversion :
    let s := Sys2Proof.Tests.s0.setG 1 0xC0200000
    let t := Sys2Proof.Tests.s0.setG 1 0x7FC00000
    s.fcr.toNat / 8 % 4 = 0 ∧ isSub32 ((s.g 1).setWidth 32) = false ∧ isSubF fmtBf16 ((s.g 1).toNat % 2 ^ 16) = false ∧
      srcF fmtF32 (Mode.ofFcr s.fcr true s.cur.rs) ((s.g 1).setWidth 32 : W32).toNat = (.fin true 0xA00000 (-22), 0) ∧
      isSub32 ((t.g 1).setWidth 32) = false ∧ isNaN32 ((t.g 1).setWidth 32) = true := by decide

/-- The hypotheses of `RoundingIsByTheModeAndKeepsRepresentableValues` can be met in each mode and sign. -/
theorem witness_rounding : (-3 : Int) < 0 ∧ 8 = 2 ^ (0 - (-3 : Int)).toNat ∧ 2 = (quantize Mode.rne false 20 (-3) 0).1 ∧
    2 = (quantize { Mode.rne with rm := 1 } true 20 (-3) 0).1 ∧ 3 = (quantize { Mode.rne with rm := 2 } true 20 (-3) 0).1 ∧
    2 = (quantize { Mode.rne with rm := 2 } false 20 (-3) 0).1 ∧ 3 = (quantize { Mode.rne with rm := 3 } false 20 (-3) 0).1 ∧
    2 = (quantize { Mode.rne with rm := 3 } true 20 (-3) 0).1 ∧ Mode.rne.flush = false ∧ isNaN32 0x7F800000 = false := by decide

/-- The hypotheses of `BranchesJumpsAndConstantsComplete` can be met: they name three expressions, and a register holds a
multiple of 8. -/
theorem witness_jump : (State.reset.setG 5 0xFFFFFFFFFFFFFFF8).g 5 % 8 = 0 ∧
    ∃ (jumpTo : State → Word → State) (left : Word → State), (∀ t x, jumpTo t x = { t with xfer := .jump x }) ∧
      ∀ x, left x = { jumpTo State.reset x with
        cur := { State.reset.cur with loops := leaveLoops x State.reset.cur.loops State.reset.cur.liveLoops } } :=
  ⟨by decide, _, _, fun _ _ => rfl, fun _ => rfl⟩

/-- The hypotheses of `LoopsBreakpointsAndEndsComplete` can be met: a count of 0 and one that is not, with three entries on the
stack, in a process and in a helper. -/
theorem witness_loops :
    let s := Sys2Proof.Tests.proc0
    let h := Sys2Proof.Tests.help0
    (s.setG 4 0).g 4 = 0 ∧ (s.setG 4 0xFFFFFFFFFFFFFFFF).g 4 ≠ 0 ∧
      ({ s with cur := { s.cur with loops := List.replicate 3 ⟨0, 8, 1⟩ } }).cur.loops.length < 4 ∧
      s.speculating = false ∧ s.cur.isHelper = false ∧ s.cur.seq = [] ∧ s.cur.vloop = none ∧ s.cur.chan = 0 ∧
      h.speculating = false ∧ h.cur.isHelper = true ∧ h.cur.seq = [] ∧ h.cur.vloop = none ∧ h.cur.chan = 0 ∧ h.cur.outst = [] := by decide

/-- The hypotheses of `SystemRegistersReadAndWrite` can be met: no chunk, a legal FCR value, a space 1 address of this package, and
read-only numbers at both ends of their range. -/
theorem witness_sysreg :
    let s := (Sys2Proof.Tests.proc0.setG 4 0x1F0C).setG 5 0x003FFFFFFFFFFFFF
    s.speculating = false ∧ (s.g 4).toNat % 8 ≤ 4 ∧ (s.g 4).toNat / 8 % 4 ≤ 1 ∧ (s.g 5).toNat / 2 ^ 53 % 8 < 2 ∧ (s.g 5).toNat / 2 ^ 56 = 0 ∧
      sysRegListed (0x050#12).toNat = true ∧ sysRegListed (0x100#12).toNat = true ∧ sysReadOnly (0x100#12).toNat = false ∧ sysReadOnly (0x001#12).toNat = false ∧
      0x010 ≤ (0x010 : BitVec 12).toNat ∧ (0x030 : BitVec 12).toNat ≤ 0x030 := by decide

/-- The hypotheses of `TrapsAreTakenAndReturnedFrom` can be met: a process with a handler address, in and out of its handler, with a
divisor of 0 and with a stopped sequencer. -/
theorem witness_traps :
    let s := { Sys2Proof.Tests.proc0 with cur := { Sys2Proof.Tests.proc0.cur with tvec := 0x1000 } }
    let h := { s with cur := { s.cur with tstat := 1 } }
    let q := { s with cur := { s.cur with seqStop := true } }
    s.speculating = false ∧ s.cur.isHelper = false ∧ s.cur.tvec ≠ 0 ∧ s.cur.tstat.getLsbD 0 = false ∧ s.g 3 = 0 ∧
      isTrap 0x082 = true ∧ isTrap 0x1C0 = true ∧ isTrap 0x1FF = true ∧
      h.speculating = false ∧ h.cur.isHelper = false ∧ h.cur.tstat.getLsbD 0 = true ∧ h.cur.seqStop = false ∧
      Sys2Proof.Tests.proc0.cur.tvec = 0 ∧
      q.cur.st = .running ∧ q.cur.seqStop = true ∧ q.cur.resident = true ∧ q.cur.frozen = false ∧ q.cur.waiting = false ∧
      q.cur.leaving = 0 ∧ q.cur.chunk = none := by decide

/-- A loop of two passes over one bundle inside a loop of one pass over it, at their END: counted, popped and left. -/
theorem witness_looping :
    let l := fun n : Word => ({ start := 8, stop := proc1.cur.pc, rem := n } : Loop)
    let s := { proc1 with cur := { proc1.cur with loops := [l 2, l 1] } }
    proc1.xfer = .seq ∧ proc1.cur.loops = [] ∧ proc1.cur.frozenLoops = 0 ∧ (l 2).rem - 1 ≠ 0 ∧ (l 1).rem - 1 = 0 ∧
      (l 2).stop = s.cur.pc ∧ s.cur.frozenLoops = 0 ∧ s.advance.cur.pc = 8 ∧ s.advance.cur.loops = [l 1, l 1] ∧
      s.advance.aflags = 0 := by decide

/-- The hypotheses of `ConditionalBranchesGoWhereTheirConditionSays` can be met, for a branch and for the A-word beside it. -/
theorem witness_branch : proc1.xfer = .seq ∧ proc1.atLoopEnd = false ∧ proc1.notPerformed = false ∧
    (5, Instr.beq none 1 2 3, true) ∈ [(5, Instr.beq none 1 2 3, decide (proc1.g 1 = proc1.g 2))] := by decide

/-- `proc1` with a bundle at its program counter. -/
def bundle0 (x : Word) : State := proc1.poke (sliceAddr 0 0x1000) x

/-- A bundle can be fetched; words that do not decode, that conflict, that need SUP, that wait and that branch at a loop's end exist. -/
theorem witness_issue :
    let p := { proc1.cur with pend := 1#32 <<< 5 }
    let e := { proc1 with cur := { proc1.cur with loops := [{ start := 0, stop := proc1.cur.pc, rem := 2 }] } }
    proc1.cur.redo = [] ∧ (proc1.setUnitErrors 0 0 2).unitErrors 0 0 = 2 ∧ (match fetchBundle (bundle0 0x2000000) with | .ok u => decide (u.ir = 0x2000000) | .error _ => false) = true ∧
      (match fetchBundle (bundle0 0) with | .ok u => decide (u.ir = 0) | .error _ => false) = true ∧
      (match decodeC 0x7E000000 0 with | .error _ => true | .ok _ => false) = true ∧
      decodeC 0x2000000 0 = .ok (.cnop none) ∧ e.atLoopEnd = true ∧ transfers (.br none 1) = true ∧
      waitsFor p (.jr none 5) = true ∧ waitsFor proc1.cur (.jr none 5) = false ∧ helperOnly (.cnop none) = false ∧
      supervisorOnly (.mfs none 5 0x100) = true ∧ supervisorOnly (.cnop none) = false ∧ (proc1.desc 0).sup = false ∧
      proc1.cur.isHelper = false ∧ (conflictOf (.jal none 1) (.add 30 1 2) 0).isSome = true ∧
      conflictOf (.cnop none) (.add 30 1 2) 0 = none := by decide

/-- A store of two bytes and a sub-byte store meet the hypotheses of `PartialStoresReplaceOnlyWhatTheyName`, after power-on. -/
theorem witness_partial :
    let w := sliceAddr 0 0x800
    let r : Req := { agent := .proc 64, core := 0, unit := 0, ctx := 0, va := 0x806, pa := w + 6, space := 2, size := 2,
                     op := .store 0x1234, ord := .rlx, scope := 0, rd := 0, pc := 0, sn := 1 }
    let q := { r with op := .sub 0x0800 0x900000000000, size := 8, pa := w }
    let s := State.reset
    r.pa / 8 * 8 = w ∧ q.pa / 8 * 8 = w ∧ SMap.get 0 s.locks (r.pa / 64) = 0 ∧ s.relOk r = true ∧ s.relOk q = true ∧
      s.isPoison r.pa = false ∧ s.isPoison q.pa = false ∧ s.errorsAt r.pa = 0 ∧ sideDepth (s.sideOf w) = 0 ∧ Memory.wf s.mem = true ∧ r.pa % r.size = 0 ∧
      BitVec.ofNat 16 ((2 ^ (2 * r.size) - 1) * 2 ^ (2 * (r.pa % 8))) &&& 0x0800#16 = 0 ∧
      (match perform s r with | .done t _ _ _ => t.peek w == 0x1234000000000000 && (match perform t q with
        | .done u _ _ _ => u.peek w == 0x1234900000000000 | _ => false) | _ => false) = true := by decide

/-- The hypotheses of `AccessesAreSentOrWait` can be met: the three expressions exist, and a process outside a chunk has an aligned and
a misaligned address, at the top of the address space too. -/
theorem witness_accesses :
    proc0.speculating = false ∧ ((proc0.setG 5 0xFFFFFFFFFFFFFFF8).g 5).toNat % 8 = 0 ∧
      ((proc0.setG 5 0xFFFFFFFFFFFFFFFF).g 5).toNat % 2 ≠ 0 ∧ (proc0.setG 5 8).speculating = false := by decide

/-- The hypotheses of `FencesAndWaitsForCounters` can be met, on either side of a limit and at the limit 31. -/
theorem witness_waits :
    let p := { proc0 with cur := { proc0.cur with cnt := { proc0.cur.cnt with loads := 3 } } }
    let h := { p with cur := { p.cur with rc := true } }
    let c := { p with cur := { p.cur with chunk := some (proc0.cur.newChunk 0) } }
    p.speculating = false ∧ p.cur.rc = false ∧ h.cur.rc = true ∧ h.speculating = false ∧ p.cur.vecSent = true ∧
      p.cur.cnt.loads.toNat ≤ (3 : BitVec 5).toNat ∧ ¬ p.cur.cnt.loads.toNat ≤ (2 : BitVec 5).toNat ∧
      ¬ (31 : BitVec 5).toNat < 31 ∧ (30 : BitVec 5).toNat < 31 ∧ c.speculating = true := by decide

/-- The hypotheses of each clause of `VersionedStoreFollowsItsRule` can be met: word 0 of a slice after power-on is a depth-1 cell of
version 0, empty; with its slot full; and a cell of depth 2. -/
theorem witness_versionedStore :
    let a := sliceAddr 0 0x800
    let s := State.reset
    let f := s.setSide a (mkSide 0 0 3 0)
    let g := (s.setSide a (mkSide 0 1 2 0)).setSide (a + 8) (mkSide 0 1 0 255)
    s.isBase a = true ∧ s.latestOf a = 0 ∧ sideFull (s.sideOf a) = false ∧ f.isBase a = true ∧ sideFull (f.sideOf a) = true ∧
      g.isBase a = true ∧ g.latestOf a = 0 ∧ sideFull (g.sideOf (a + 8)) = false ∧ SMap.wf side0 g.side = true ∧
      Memory.wf s.mem = true := by decide

/-- The hypotheses of each clause of `VersionedLoadChangesNothing` can be met: a cell of depth 2 that holds versions 0 and 255. -/
theorem witness_versionedLoad :
    let a := sliceAddr 0 0x800
    let s := (State.reset.setSide a (mkSide 0 1 2 0)).setSide (a + 8) (mkSide 0 1 0 255)
    s.isBase a = true ∧ s.latestOf a = 0 ∧ (s.sideOf a).toNat % 256 = 0 ∧ (s.sideOf (a + 8)).toNat % 256 = 255 ∧
      (s.sideOf (a + 8)).toNat % 256 ≠ 1 ∧ (s.sideOf (a + 8)).toNat % 256 ≠ 127 ∧ (s.sideOf a).toNat % 256 ≠ 128 := by decide

/-- The hypotheses of each clause of `ReclaimClearsFullOfItsVersion` can be met: a cell of depth 2 that holds version 0, full, and
version 255, reclaimed. -/
theorem witness_reclaim :
    let a := sliceAddr 0 0x800
    let s := (State.reset.setSide a (mkSide 0 1 3 0)).setSide (a + 8) (mkSide 0 1 0 255)
    s.isBase a = true ∧ s.latestOf a = 0 ∧ (s.sideOf a).toNat % 256 = 0 ∧ (s.sideOf a).getLsbD 8 = true ∧
      (s.sideOf (a + 8)).toNat % 256 = 255 ∧ (s.sideOf (a + 8)).getLsbD 8 = false ∧ SMap.wf side0 s.side = true ∧
      (s.sideOf (a + 8)).toNat % 256 ≠ 127 ∧ (s.sideOf a).toNat % 256 ≠ 128 := by decide

/-- The hypotheses of `PlainAccessesAtTheirOwner` can be met: a load, a nibble load and a store of a word of core 0's slice after
power-on, the same store into HBM, and a store into a cell of depth 2. -/
theorem witness_owner :
    let w := sliceAddr 0 0x800
    let r : Req := { agent := .proc 64, core := 0, unit := 0, ctx := 0, va := 0x800, pa := w, space := 2, size := 8,
                     op := .load true, ord := .rlx, scope := 0, rd := 5, pc := 0, sn := 1 }
    let q := { r with op := .store 7, size := 2, pa := w + 6 }
    let m := { q with pa := 0x800, space := 0 }
    let d := State.reset.setSide w (mkSide 0 1 2 0)
    let s := State.reset
    SMap.get 0 s.locks (r.pa / 64) = 0 ∧ s.relOk r = true ∧ s.isPoison r.pa = false ∧ SMap.get 0 s.badRead (poisonKey r.pa) = 0 ∧
      r.ord.acquires = false ∧ r.pa % r.size = 0 ∧ s.behind (ownerStep r) = false ∧ s.afterServer r = false ∧ (∀ c ∈ s.cellWords w, s.isPoison c = false ∧ SMap.get 0 s.badRead (poisonKey c) = 0) ∧ s.relOk q = true ∧ q.pa % q.size = 0 ∧
      2 ^ 54 ≤ q.pa ∧ sideDepth (s.sideOf w) = 0 ∧ m.pa < 2 ^ 54 ∧ m.pa % m.size = 0 ∧ s.relOk m = true ∧
      sideDepth (d.sideOf (q.pa / 8 * 8)) ≠ 0 ∧ d.relOk q = true ∧ SMap.wf side0 s.side = true ∧ Memory.wf s.mem = true := by decide

/-- The hypotheses of `OwnerStepsAnswerTheirRequests` can be met: `served` can always be chosen, and a versioned load of a helper meets
no log gate. -/
theorem witness_ownerSteps :
    let r : Req := { agent := .helper 0, core := 0, unit := 8, ctx := 0, va := 0x800, pa := sliceAddr 0 0x800, space := 2, size := 8,
                     op := .ldv 0, ord := .rlx, scope := 0, rd := 5, pc := 0, sn := 1 }
    State.reset.behind (ownerStep r) = false ∧ State.reset.afterServer r = false ∧ SMap.get 0 State.reset.locks (r.pa / 64) = 0 ∧ State.reset.relOk r = true ∧
      (∀ c ∈ State.reset.cellWords (r.pa / 8 * 8), State.reset.isPoison c = false ∧ SMap.get 0 State.reset.badRead (poisonKey c) = 0) ∧ r.ord.acquires = false ∧
      (∀ k, gated State.reset r 0x04 0 k = k State.reset) ∧ perform State.reset r = .done State.reset 0 0 .none := by
  refine ⟨by decide, by decide, by decide, by decide, by decide, by decide, fun k => rfl, by decide⟩

/-- The hypothesis of the last 4-byte clause of `AtomicsComputeTheirNewValue` can be met on either side. -/
theorem witness_atomics : isNaN32 0x7FC00001 = true ∧ isNaN32 0xFFFFFFFF = true ∧ isNaN32 0x7F800000 = false := by decide

/-- The hypotheses of each clause of `RepliesReachTheirIssuer` can be met. -/
theorem witness_replies :
    let o : Outst := { sn := 1, loads := true, stores := false, held := true, sp3 := false, owner := [0] }
    let s := { proc0 with cur := { proc0.cur with outst := [o], st := .parked, wait := 64, wkind := 4 } }
    let d : Done := { agent := .proc s.cur.pid, writes := [(5, 7)], flags := 0, fault := none, cls := .loads, sn := 1,
                      miss := false, key := 0, req := none, chan := none, pc := 0 }
    let r : Req := { agent := .host, core := 0, unit := 32, ctx := 0, va := 0x800, pa := 0x800, space := 0, size := 8,
                     op := .tag, ord := .rlx, scope := 0, rd := 0, pc := 0, sn := 1 }
    (proc0.cur.st = .running ∧ proc0.cur.unit < 8 ∧ proc0.cur.away = false ∧ d.agent = .proc proc0.cur.pid ∧
      s.cur.task = false ∧ s.cur.st = .parked ∧ s.cur.wait ≠ 0 ∧ s.levelOf s.cur.ctx ≠ 2 ∧
      (s.cur.outst.any fun o => decide (o.sn = d.sn) && o.held) = true ∧ s.waiters = []) ∧
      (∀ n, r.agent ≠ .sill n) ∧ (∀ n, r.agent ≠ .proc n) ∧ (r ∉ s.waiters ∧ r ∈ ({ s with waiters := [r] } : State).waiters) ∧ ({ r with agent := .sill 0, unit := 5 } : Req).unit < 64 := by
  exact ⟨by decide, fun n => nofun, fun n => nofun, by decide, by decide⟩

/-- The hypotheses of `WideningsDrainAndRelease` can be met: an open widening, a process, and a walk of an empty root. -/
theorem witness_widening :
    let k := sliceAddr 0 0x800
    let w : Widening := { key := k, core := 0, unit := 0, acquirers := [.proc 64], snap := none, rewritten := false }
    let s := { proc0 with widens := [w] }
    let r : Req := { agent := .proc 64, core := 0, unit := 0, ctx := 0, va := 0x50000, pa := 0x50000, space := 0, size := 8,
                     op := .load false, ord := .rlx, scope := 0, rd := 5, pc := 0, sn := 1 }
    let x : Walk := { die := 0, ctx := 0, space := 0, vpage := 5, joined := [r] }
    let q := { proc0 with walks := [x] }
    s.widens.find? (fun v => decide (v.key = k ∧ v.snap = none)) = some w ∧
      (let z := { w with snap := some [] }; ({ s with widens := [z] } : State).widens.find? (fun v => decide (v.key = k ∧ v.snap = some [])) = some z) ∧ (s.proc s.cur.pid).pid = s.cur.pid ∧ s.waitersOf (k / 64) = [] ∧
      q.walks.find? (fun v => decide (v.die = 0 ∧ v.ctx = 0 ∧ v.space = 0 ∧ v.vpage = 5)) = some x ∧
      q.walkQ = [] ∧ q.walkWait = [] ∧ q.upper = [] ∧ q.poison = [] ∧ q.badRead = [] ∧ walk q.mem 0 0 ((q.desc 0).root 0) (5 * 2 ^ 16) = .error (0, 3) := by decide

/-- The hypotheses of the last clause of `WideningsDrainAndRelease` can be met: one entry of 2^40 bytes, read, write and execute. -/
theorem witness_walk :
    let d : Desc := { valid := true, sup := true, dev := true, xhost := true, root0 := 0x10001, root1 := 0, mbox := 0, windows := [] }
    let r : Req := { agent := .proc 64, core := 0, unit := 0, ctx := 0, va := 0x50000, pa := 0x50000, space := 0, size := 8,
                     op := .load false, ord := .rlx, scope := 0, rd := 5, pc := 0, sn := 1 }
    let x : Walk := { die := 0, ctx := 0, space := 0, vpage := 5, joined := [r] }
    let t := { proc0 with walks := [x], descs := [(0, some d)], mem := writeWord [] 0x10000 0x1D }
    ∃ e, walk t.mem 0 0 ((t.desc 0).root 0) (5 * 2 ^ 16) = .ok e ∧ t.findTlb (tlbUnit r.core) 0 0 (5 * 2 ^ 16) = none ∧
      useTlb e 0 (r.va.toNat % 2 ^ 53) r.op.need = .ok 0x50000 0 ∧
      t.walks.find? (fun v => decide (v.die = 0 ∧ v.ctx = 0 ∧ v.space = 0 ∧ v.vpage = 5)) = some x :=
  ⟨mkTlb 0 0 40 (5 * 2 ^ 16) 0x1D, by decide⟩

/-- The hypotheses of `VectorInstructionsQueueTheirEntry` can be met: no lanes, lanes with room, and lanes with every entry in use. -/
theorem witness_vectorIssue :
    let s := { proc0 with cur := { proc0.cur with vgrant := 1 } }
    let e : SeqEntry := { word := 0, isC := false, op := .msk .not 1 1 0, ga := 0, gb := 0, fcr := 0, pc := 0 }
    let f := { s with cur := { s.cur with seq := List.replicate 16 e } }
    proc0.units = 0 ∧ s.units = 1 ∧ s.cur.seqRoom ≠ 0 ∧ s.cur.cnt.full .none = false ∧ (s.g 5).toNat % 64 = 0 ∧
      (VecOp.ext 4 5 6).badIndex (16 * s.units) 15 = false ∧ (VecOp.ext 4 5 6).badIndex (16 * s.units) 16 = true ∧
      f.units ≠ 0 ∧ f.cur.seqRoom = 0 := by decide

/-- The hypotheses of `LaneControlAndVectorMemoryComplete` can be met: lanes held and not, a claim of 1 to 16, a binding to make and one
to end, and an aligned unit-stride access. -/
theorem witness_laneControl :
    let s := { proc0 with cur := { proc0.cur with vgrant := 1 } }
    let c := (proc0.setG 5 1).setG 6 16
    let b := { s with cur := { s.cur with bound := 8 } }
    s.units ≠ 0 ∧ proc0.units = 0 ∧ c.speculating = false ∧ c.cur.rc = false ∧ 1 ≤ (c.g 5).toNat ∧ (c.g 5).toNat ≤ (c.g 6).toNat ∧
      (c.g 6).toNat ≤ 16 ∧ c.units = 0 ∧ s.cur.seq = [] ∧ s.cur.vloop = none ∧ (s.g 5).toNat < 16 ∧
      ((s.setG 5 15).g 5).toNat < 16 ∧ (s.setG 5 3).cur.bound.getLsbD 3 = false ∧ (b.setG 5 3).cur.bound.getLsbD 3 = true ∧
      nibblesOf .f32 = 8 ∧ s.cur.laneCount = 16 ∧ s.cur.seqRoom ≠ 0 ∧ s.cur.cnt.full .loads = false ∧
      (∀ i < 16, (s.g 5 + BitVec.ofNat 64 (i * 4)).toNat * 2 % 8 = 0) ∧ s.bodyHoldsEnd 1 = false ∧
      ((s.setG 5 0).g 5 = 0) ∧ (s.setG 5 1).g 5 ≠ 0 := by decide

/-- The hypotheses of `VectorLanesFollowTheirMask` can be met, with the mask m0 and with the most lanes. -/
theorem witness_lanes :
    let x : VecIn := { n := 256, v := Vector.replicate 32 [], m := Vector.replicate 8 0, rs := 0 }
    x.n ≤ 256 ∧ (x.mask 0).getLsbD 255 = true ∧ (x.mask 1).getLsbD 0 = false := by decide

/-- The hypotheses of both parts of `SequencerRetiresItsHeadEntry` can be met: a queued mask operation, and a claim of 1 to 16 units
that heads its pool with 16 units free, and with none. -/
theorem witness_sequencer :
    let e : SeqEntry := { word := 0, isC := false, op := .msk .not 1 1 0, ga := 0, gb := 0, fcr := 0, pc := 0 }
    let s := { proc0 with cur := { proc0.cur with vgrant := 1, seq := [e] } }
    let x : VecIn := { n := 16, v := s.cur.v, m := s.cur.m, rs := 0 }
    let c : Claim := { pid := proc0.cur.pid, core := 0, slot := 0, ctx := 0, lo := 1, hi := 16, rd := some 5, keep := 0 }
    let g := { proc0 with benches := [(0, { Bench.empty with claims := [c] })] }
    let n := { proc0 with benches := [(0, { Bench.empty with claims := [c], used := 16 })] }
    s.cur.seqRuns = true ∧ s.levelOf s.cur.ctx ≠ 2 ∧ s.unitErrors s.cur.core 1 = 0 ∧ s.cur.bound = 0 ∧ s.cur.vloop = none ∧ s.cur.chunk = none ∧ e.op.mem = none ∧
      e.op.trapLane x e.fcr = none ∧ enabledFlags e.fcr (vecCompute e.op x e.ga e.gb e.fcr).flags = 0 ∧
      (g.updBench 0 fun x => { x with claims := x.claims.filter g.liveClaim }).headClaim 0 = some c ∧
      1 ≤ 16 - (g.bench 0).used ∧ 16 - (n.bench 0).used < c.lo ∧ g.cur.unit < 8 ∧ g.cur.st = .running ∧
      (n.updBench 0 fun x => { x with claims := x.claims.filter n.liveClaim }).headClaim 0 = some c := by decide

set_option maxRecDepth 100000 in
/-- The hypotheses of `SummaryInstructionsApplyTheirOperation` can be met: a supervisor with every window initialises a DC record in its
slice, and counts its keys. -/
theorem witness_summary :
    let d : Desc := { valid := true, sup := true, dev := true, xhost := true, root0 := 0, root1 := 0, mbox := 0, windows := [openWindow] }
    let s := { proc0 with descs := [(0, some d)], roles := [(0, 2)] }
    let a : Word := BitVec.ofNat 64 (sliceAddr 0 0x2000)
    let r := { s with mem := writeWord [] (sliceAddr 0 0x2000) 0xF4443 }
    s.speculating = false ∧ s.cur.mayAccess = true ∧ s.cur.finished s.cur.holdSt = true ∧ a.toNat % 64 = 0 ∧
      s.recordQuiet a true = true ∧ r.recordQuiet a false = true ∧
      (match sumApply s s.cur a (.init 2) with | .ok _ _ => true | _ => false) = true ∧
      (match sumApply r r.cur a (.query .count 0) with | .ok _ x => x == 0 | _ => false) = true := by
  decide

/-- The hypotheses of `SketchesCountEveryKeyAndMergeAddsTheCounts` can be met. -/
theorem witness_sketch : (Sketch.fresh 1).insertAll 0 [7, 7, 9] 0 0 ≠ none ∧
    (match Sketch.fresh 2 with | .dc x => decide (x.regs.length = 1024) | _ => false) = true := by
  refine ⟨by decide, ?_⟩
  show decide ((List.replicate 1024 0).length = 1024) = true
  rw [List.length_replicate]; rfl

/-- A process, a record of a channel of each kind at 0x…2000, and the handles of `ChannelOperationsTravelToTheirHome`. -/
theorem witness_channels :
    let h : Word := BitVec.ofNat 64 (sliceAddr 0 0x2000)
    let s := (proc1.setG 5 h).setG 6 (h + 0x40)
    let u := s.setG 5 (h ||| 1)
    let e := s.setG 5 (BitVec.ofNat 64 (3 * 2 ^ 53 + 0x10000))
    s.speculating = false ∧ s.cur.rc = false ∧ s.cur.armed = none ∧ s.cur.chan = 0 ∧ s.cur.mayAccess = true ∧
      (s.g 5).getLsbD 1 = false ∧ (s.g 6).toNat % 64 = 0 ∧ s.cur.releaseHolds 6 = true ∧ s.cur.cnt.full .transfers = false ∧
      handleCheck s (s.g 5) (some true) = .ok (sliceAddr 0 0x2000) ∧ handleCheck u (u.g 5) (some false) = .ok (sliceAddr 0 0x2000) ∧
      handleCheck s (s.g 5) none = .ok (sliceAddr 0 0x2000) ∧ isExtKey (sliceAddr 0 0x2000) = false ∧ s.areaOk (s.g 6) = true ∧
      s.blockSize (sliceAddr 0 0x2000) (s.g 6) = 1 ∧ s.tileBytes (sliceAddr 0 0x2000) = 1 ∧
      s.chanMaySend (sliceAddr 0 0x2000) true = true ∧ s.chanMaySend (sliceAddr 0 0x2000) false = true ∧
      (match checkAccess s 0 0 h 64 needRW false with | .ok _ _ => true | _ => false) = true ∧
      (match (readBeat s 0 0 (h + 0x40) 64).1 with | .ok _ => true | .error _ => false) = true ∧ (s.readable (h + 0x40) 64).isSome = true ∧
      (s.takeScore [(s.g 6, 64, false)] .transfers 1).isSome = true ∧ resolved 0 ((e.g 5) &&& ~~~3#64) / 2 ^ 53 % 8 = 3 ∧
      (e.g 5).getLsbD 1 = false ∧ ((s.setG 5 (h + 4)).g 5 &&& ~~~3#64).toNat % 64 ≠ 0 ∧
      (let x : Word := BitVec.ofNat 64 (blockAddr 0 8 0x100 + 2); handleCheck (s.setG 5 x) x (some true) = .ok (blockAddr 0 8 0x100) ∧
        extEnd (blockAddr 0 8 0x100) = some (.server 0)) ∧ e.cur.chan = 0 ∧ e.speculating = false := by decide

/-- The hypotheses of each clause of `ChannelHomeAnswersOperations` can be met: a rendezvous word channel with and without a waiter,
closed and open, of another context, with a poisoned word; a time-out due and not yet due; a waiter to withdraw. -/
theorem witness_chanhome :
    let k := sliceAddr 0 0x2000
    let s := proc0.poke k 0x300
    let w := s.poke (k + 8) 1
    let c := s.poke k 0x10000300
    let q := { s with chanq := [chan0] }
    let m := { chan0 with deadline := some 0 }
    let a := { s with cur := { s.cur with armed := some 0 }, chanq := [m] }
    Memory.wf s.mem = true ∧ isExtKey chan0.key = false ∧ s.goesAway chan0 = false ∧ chan0.agent = .proc (sliceAddr 0 0x100) ∧
      newRefused s chan0 = false ∧ s.hasWaiter k = false ∧ w.hasWaiter k = true ∧ (chanType (s.peek k)).ctx = chan0.ctx.toNat ∧
      homeRefuses (chanType (s.peek k)) chan0 = false ∧ homeRefuses (chanType (s.peek k)) { chan0 with ctx := 1 } = true ∧
      (∀ i < 7, s.isPoison (chan0.key + 8 * i) = false ∧ s.errorsAt (chan0.key + 8 * i) = 0) ∧ s.stoppedTile chan0 = none ∧
      (s.setPoison k true).isPoison (chan0.key + 8 * 0) = true ∧
      (chanType (c.peek k)).closed = true ∧ (chanType (s.peek k)).closed = false ∧ s.tableUse (partOf k) < 112 ∧
      sendWaits s (chanType (s.peek k)) k = true ∧ s.epHeld = [] ∧ a.cur.armed = some 0 ∧ a.armedOp (sliceAddr 0 0x100) = some m ∧
      a.timeoutDue (a.proc (sliceAddr 0 0x100)) 0 k = true ∧ (a.proc (sliceAddr 0 0x100)).killed = false ∧
      s.replays s.cur = false ∧ s.clkOf 0 < 1 ∧ s.peerOps = [] ∧ s.asksPeer k = false ∧ s.takeOut chan0 = none ∧
      (q.takeOut chan0).isSome = true ∧ q.takenSlot chan0 = none := by decide

/-- 112 processes can wait at one controller's table. -/
theorem witness_fullTable :
    let s := { proc0.poke (sliceAddr 0 0x2000) 0x300 with chanq := List.replicate 112 chan0 }
    112 ≤ s.tableUse (partOf (sliceAddr 0 0x2000)) ∧ (∀ m ∈ s.chanq, m = chan0) := by
  refine ⟨?_, fun m h => (List.mem_replicate.1 h).2⟩
  simp [State.tableUse, State.poke, chan0]

/-- A withdrawal's time-out passes the gate of a context that keeps no log. -/
theorem witness_withdrawal :
    let s := { proc0.poke (sliceAddr 0 0x2000) 0x300 with chanq := [chan0] }
    ∃ g, s.logGate (s.proc (sliceAddr 0 0x100)) 0x09 (ownerUnit chan0.key) false (s.core chan0.core).lcore chan0.unit (sliceAddr 0 0x100) 0 =
      .pass g := ⟨_, rfl⟩

/-- An early-push channel of one element, held for a sender that has drained. -/
def heldEp : State :=
  let k := sliceAddr 0 0x2000
  let m := { chan0 with send := false }
  { ((proc0.poke k 0x1010300).poke (k + 24) (BitVec.ofNat 64 (sliceAddr 0 0x3000))).poke (k + 32) 1 with
      chanq := [m], epHeld := [(m, [], 0)], roles := [(0, 2)] }

theorem witness_drainQuery :
    let m := { chan0 with send := false }
    let t := chanType (heldEp.peek m.key)
    let u := { heldEp with epHeld := heldEp.epHeld.filter fun e => !(decide (e.1.num = m.num) && decide (e.1.sel = m.sel)) }
    (heldEp.epHeld.any fun e => decide (e.1.num = m.num) && decide (e.1.sel = m.sel)) = true ∧
      (heldEp.proc (sliceAddr 0 0x100)).killed = false ∧ heldEp.stampDrained 0 = true ∧ heldEp.stampDrained 1 = false ∧
      t.kind = 0 ∧ t.ep = true ∧ m.kind = 0 ∧ m.sel = none ∧ heldEp.goesAway m = false ∧
      u.homeRead (u.chanBuf m.key + u.chanHead m.key % t.depth * 2 ^ t.log2e) (2 ^ t.log2e) = (.ok (List.replicate 8 0), u) ∧
      u.homeRead (u.stampAt t m.key (u.chanHead m.key)) 8 = (.ok (List.replicate 8 0), u) ∧ u.takeMiss t m.key m = false := by
  decide

/-- A tile beat can be read and written. -/
theorem witness_tileBeat :
    let x : TileMsg := { num := 1, key := 0, buf := sliceAddr 0 0x3000, pos := 0, len := 128, sender := none, receiver := none,
                         stopped := none, mark := 0 }
    ∃ bs u v, tileRead { proc0 with tiles := [x], roles := [(0, 2)] } x = (.ok bs, u) ∧ tileWrite u x bs = (.ok (), v) :=
  ⟨_, _, _, rfl, rfl⟩

/-- A select list with one guarded time-out of COUNT 0 or 8, and one with a guarded channel of another record. -/
theorem witness_select :
    let k := sliceAddr 0 0x2000
    let s := (proc1.setG 5 (BitVec.ofNat 64 k)).poke k 1
    let p := (s.poke (k + 40) 5)
    let q := (s.poke (k + 40) (5 + 8 * 2 ^ 32))
    let z := (proc0.setG 5 (BitVec.ofNat 64 k))
    s.speculating = false ∧ s.cur.rc = false ∧ s.cur.chan = 0 ∧ s.cur.mayAccess = true ∧ s.cur.armed = none ∧
      resolved 0 (s.g 5) = k ∧ localKey k = k ∧ k / 2 ^ 53 % 8 = 2 ∧ s.isPeerKey k = false ∧ (s.g 5).toNat % 64 = 0 ∧
      s.cur.releaseHolds 6 = true ∧ s.inFlightTo s.cur.agent (k / 64) = false ∧ listOutside k 1 = false ∧
      field (s.peek k) 0 6 = 1 ∧ field (s.peek k) 13 51 = 0 ∧ field (s.peek k) 6 2 = 0 ∧ field (s.peek k) 8 5 = 0 ∧
      s.guardList ((List.range 8).map fun i => k + 8 * i) = (none, s) ∧
      (match s.setPoison k true |>.guardList ((List.range 8).map fun i => k + 8 * i) with | (some x, _) => decide (x = k) | _ => false) = true ∧
      s.peek (k + 8) = 0 ∧ s.peek (k + 16) = 0 ∧ s.peek (k + 24) = 0 ∧ field (z.peek k) 0 6 = 0 ∧
      badAlt p k [0] 0 = none ∧ badAlt q k [0] 0 = none ∧ (s.altAt k 0).guard = false ∧ (p.altAt k 0).guard = true ∧
      badAlt (s.poke (k + 40) 7) k [0] 0 = some 0 ∧ (altElems p 0 0 [] []).1 = .ok [] ∧
      (p.altAt k 0).count = 0 ∧ (q.altAt k 0).count = 8 ∧ (p.altAt k 0).kind = 2 ∧
      (match checkAccess s 0 0 (s.g 5) 32 needRW false with | .ok _ _ => true | _ => false) = true ∧
      (match checkAccess s 0 0 (s.g 5 + 56) 8 needRW false with | .ok _ _ => true | _ => false) = true ∧
      p.replayIndex p.cur k = none ∧ p.selq = [] ∧ p.selAt k = none ∧ p.replays p.cur = false ∧
      p.cur.st = .running ∧ p.cur.task = false ∧ ({ p with cur := { p.cur with armed := some 0 } } : State).cur.armed.isSome = true := by decide

/-- A select waits whose only alternative is claimed; another has its time-out due. -/
theorem witness_claim :
    let k := sliceAddr 0 0x2000
    let w : SelWait := { pid := sliceAddr 0 0x100, core := 0, unit := 0, ctx := 0, list := sliceAddr 0 0x4000, rd := 5, fair := false,
                         pc := 0, num := 1, deadline := some 0, timed := 1, order := [0, 1] }
    let m := { chan0 with sel := some (sliceAddr 0 0x4000, 0) }
    let s := { proc0.poke k 0x10300 with selq := [w], chanq := [m] }
    s.selAt w.list = some w ∧ s.selAt 0 = none ∧ w.alts = [] ∧ w.granted = none ∧ s.claimAhead w 0 = false ∧ s.claimAhead w 1 = false ∧
      s.replayIndex (s.proc w.pid) w.list = none ∧
      (s.chanq ++ s.peerOps.map (·.2)).find? (fun m => isProcMsg m && m.sel == some (w.list, 0)) = some m ∧
      s.isPeerAddr m.handle = false ∧ isExtKey m.key = false ∧ s.altReady m = true ∧ s.partner m = none ∧
      readyAlt { s with chanq := [] } { w with order := [0] } [m] = some 0 ∧ readyAlt s w [] = some 1 ∧
      readyAlt s { w with deadline := none } [] = none ∧ (s.proc w.pid).killed = false ∧
      s.selq.find? (fun w => decide (w.pid = sliceAddr 0 0x100) && w.deadline.isSome) = some w ∧
      s.replays (s.proc w.pid) = false ∧ 0 ≤ s.clkOf (s.proc w.pid).core ∧
      (∃ u, s.selGate w 1 true = .pass u) := ⟨by decide, by decide, by decide, by decide, by decide, by decide, by decide, by decide,
        by decide, by decide, by decide, by decide, by decide, by decide, by decide, by decide, by decide, by decide, by decide, ⟨_, rfl⟩⟩

/-- The hypotheses of each clause of `RecordsAreCreatedFromThePool` can be met: a pool with one record and an empty one, entries aligned
and not, a receive handle, an address of space 1, of space 2 and of space 7. -/
theorem witness_records :
    let s := proc1.setReg (corePage 0 + 0x900) 0x200000040
    let e := proc0.setReg (corePage 0 + 0x900) 0x1FFFC0
    Memory.wf s.mem = true ∧ s.speculating = false ∧ s.cur.rc = false ∧ s.cur.maySpawn = true ∧ s.hasRecord 0 = true ∧
      e.hasRecord 0 = false ∧ e.levelOf e.cur.ctx = 0 ∧ (s.takeRecord 0).1 = sliceAddr 0 0x40 ∧ (s.core 0).deque.length < 256 ∧
      field ((s.setG 5 4).g 5) 0 3 ≠ 0 ∧ field ((s.setG 5 8).g 5) 0 3 = 0 ∧ ((s.setG 5 1).g 5).getLsbD 0 = true ∧
      s.cur.mayAccess = true ∧ s.cur.releaseHolds 5 = true ∧ s.spawnCore 0 = none ∧ s.logged s.cur = false ∧
      (resolved 0 (BitVec.ofNat 64 (sliceAddr 0 0x40))) / 2 ^ 53 % 8 = 2 ∧ resolved 0 (BitVec.ofNat 64 (7 * 2 ^ 53)) / 2 ^ 53 % 8 = 7 ∧
      s.callCore (sliceAddr 0 0x40) = some 0 ∧ s.callCore (sliceAddr 2048 0x40) = none ∧
      SMap.get 0 s.locks 0 = 0 ∧ SMap.get 0 { s with locks := [(0, 1)] }.locks 0 ≠ 0 := by decide

/-- A fork that runs its child inline passes the gate of a context that keeps no log. -/
theorem witness_forkInline :
    ∃ u, proc1.logGate proc1.cur 0x08 0 false (proc1.core 0).lcore proc1.cur.unit 0 (2 ^ 15 + (proc1.core 0).lcore) = .pass u := ⟨_, rfl⟩

/-- The hypotheses of each clause of `JoinParkYieldExitComplete` can be met: addresses aligned and not, of space 2, 3 and another package,
a handler, a busy process, a queue with a record of equal priority. -/
theorem witness_joinPark :
    let s := proc0.setG 5 (BitVec.ofNat 64 (sliceAddr 0 0x2000))
    let h := { s with cur := { s.cur with rc := true } }
    let b := { s with cur := { s.cur with chan := 1 } }
    let q := s.setCore 0 { s.core 0 with deque := [sliceAddr 0 0x140] }
    let c : Acc := { va := s.g 5, size := 8, op := .join, ord := .acq, sc := 5, rd := 0 }
    s.speculating = false ∧ (s.g 5).toNat % 8 = 0 ∧ ((s.setG 5 4).g 5).toNat % 8 ≠ 0 ∧ s.cur.rc = false ∧ (s.sendAccess c).xfer ≠ .again ∧
      s.accessWaits c (s.accScope c) = false ∧ s.nodeAway (s.g 5) = false ∧
      (s.setG 5 (BitVec.ofNat 64 (3 * 2 ^ 56))).nodeAway ((s.setG 5 (BitVec.ofNat 64 (3 * 2 ^ 56))).g 5) = true ∧ s.cur.busy = false ∧
      b.cur.busy = true ∧ s.spaceAt (s.g 5) ≠ 3 ∧ s.spaceAt (BitVec.ofNat 64 (3 * 2 ^ 53)) = 3 ∧ h.cur.rc = true ∧ h.speculating = false ∧
      s.queued s.cur.core = [] ∧ q.queued 0 = [sliceAddr 0 0x140] ∧ q.cur.prio.toNat ≤ (q.proc (sliceAddr 0 0x140)).prio.toNat ∧
      Memory.wf s.mem = true := by decide

/-- The hypotheses of each clause of `BarriersAndGroupsComplete` can be met: a name and no name, a barrier of two with no and one
arrival, a table of 64 words in the barrier's slice. -/
theorem witness_barriers :
    let s := ((proc1).setG 5 3).setG 6 (BitVec.ofNat 64 (sliceAddr 0 0x2000))
    let i := s.setBarrier 3 { Barrier.empty with expect := 2 }
    let w := s.setBarrier 3 { Barrier.empty with expect := 2, arrived := 1 }
    let h := { s with cur := { s.cur with rc := true } }
    let n := s.setG 5 (BitVec.ofNat 64 (2 ^ 20))
    s.speculating = false ∧ s.cur.rc = false ∧ h.cur.rc = true ∧ h.speculating = false ∧ s.arrivalOut = false ∧
      s.barrierKey (s.g 5) = some 3 ∧ n.barrierKey (n.g 5) = none ∧ field (s.g 6) 0 16 ≠ 0 ∧ field (s.g 7) 0 16 = 0 ∧
      (s.barrier 3).expect = 0 ∧ (s.barrier 3).arrived = 0 ∧ (w.barrier 3).arrived ≠ 0 ∧ (i.barrier 3).arrived + 1 < (i.barrier 3).expect ∧
      (w.barrier 3).expect ≤ (w.barrier 3).arrived + 1 ∧ s.cur.mayAccess = true ∧ s.cur.releaseHolds 5 = true ∧
      (s.g 6).toNat % 64 = 0 ∧ (s.g 5).toNat % 64 ≠ 0 ∧ s.nodeAway (s.g 6) = false ∧
      resolved 0 (s.g 6) = sliceAddr 0 0x2000 ∧ sramLid (sliceAddr 0 0x2000 % 2 ^ 56) = false ∧
      sramFieldsOk s (sliceAddr 0 0x2000 % 2 ^ 56) = true ∧ coreOfSlice (sliceAddr 0 0x2000 % 2 ^ 56) = 3 / 1024 ∧
      sramOff (sliceAddr 0 0x2000) + 512 ≤ Config.sliceBytes ∧ s.logged s.cur = false ∧ s.cur.st = .running ∧ s.cur.task = false ∧
      i.guardList ((List.range 64).map fun j => sliceAddr 0 0x2000 + 8 * j) = (none, i) ∧
      ((i.setPoison (sliceAddr 0 0x2000) true).guardList ((List.range 64).map fun j => sliceAddr 0 0x2000 + 8 * j)).1 = some (sliceAddr 0 0x2000) := by decide

/-- The hypotheses of each clause of `SlotsAndPoolsComplete` can be met. -/
theorem witness_slots :
    let a := sliceAddr 0 0x100
    let b := sliceAddr 0 0x140
    let full := proc0.setCore 0 { proc0.core 0 with dis := 0xFE, slots := (proc0.core 0).slots.set 0 a (by decide) }
    let q := full.setCore 0 { full.core 0 with deque := [b] }
    let w := { q with cur := { q.cur with st := .parked } }
    let v := { q with procs := [(b, { Proc.empty with pid := b, st := .ready, prio := 7 })] }
    let l := { q with cur := { q.cur with leaving := 2 } }
    let f := { q with cur := { q.cur with leaving := 2, st := .faulted } }
    let t := { q with cur := { q.cur with leaving := 5, task := true } }
    let o := { l with cur := { l.cur with outst := [{ sn := 1, loads := true, stores := false, held := false, sp3 := false, owner := [0] }] } }
    let r := { q with cur := { q.cur with st := .faulted, unit := 10 } }
    full.slotsFull 0 = true ∧ full.queued 0 = [] ∧ full.idleCore 0 = false ∧ q.queued 0 ≠ [] ∧ w.spillChoice 0 = some a ∧
      w.slotsFull 0 = true ∧ full.victim 0 = none ∧ v.victim 0 = some a ∧ (l.proc a).resident = true ∧ (l.proc a).pid = a ∧
      (l.proc a).leaving ≠ 0 ∧ (f.proc a).st = .faulted ∧ (l.proc a).outst.all (·.held) = true ∧ (o.proc a).outst.all (·.held) = false ∧
      (t.proc a).task = true ∧
      (r.proc a).resident = false ∧ coreOfSlice a = 0 ∧ (r.queued (r.physOf 0)).contains a = false ∧
      l.spillBehind (l.proc a) = false ∧ (l.proc a).missPending = false ∧ (l.proc a).taskBarred = false ∧ (l.proc a).vpos = 0 ∧
      (l.frameHole (l.proc a)).isSome = true ∧ { t with cur := { t.cur with leaving := 2 } }.frameHole
        ({ t with cur := { t.cur with leaving := 2 } }.proc a) = none := by decide

/-- An empty slot has a record to take. -/
theorem witness_slotFill :
    let b := sliceAddr 0 0x140
    let s := { proc0.setCore 0 { proc0.core 0 with dis := 0xFC, deque := [b] } with
      procs := [(b, { Proc.empty with pid := b, st := .ready })] }
    s.enabledSlots 0 = [0, 1] ∧ s.slotPid 0 0 = 0 ∧ s.pickBelow 0 0 8 = some b ∧ (s.proc b).pid = b ∧
      proc0.pickBelow 0 0 8 = none := by decide

/-- A chain of no record is good. -/
theorem witness_chain : chainLength [] 0 0x1FFFC0 0 24576 = some 0 := by rw [chainLength.eq_def]; rfl

/-- The hypotheses of each clause of `ArrayCommandsAreQueued` can be met: no lease, a lease requested, good and bad operands, an aligned
descriptor of a multiply and one of zeros. -/
theorem witness_matIssue :
    let s := proc1
    let r := { s with cur := { s.cur with lease := .requested } }
    let k := BitVec.ofNat 64 (sliceAddr 0 0x4000)
    let d := (((r.setG 5 (BitVec.ofNat 64 (64 * 2 ^ 48))).setG 6 k).poke (sliceAddr 0 0x4000) (BitVec.ofNat 64 (64 * 2 ^ 32)))
    let z := (r.setG 6 k)
    s.speculating = false ∧ s.cur.rc = false ∧ s.cur.lease = .none ∧ r.cur.lease ≠ .none ∧ r.speculating = false ∧
      1 ≤ ((s.setG 5 15).g 5).toNat ∧ ((s.setG 5 15).g 5).toNat < 16 ∧ 16 ≤ ((s.setG 5 16).g 5).toNat ∧
      r.cur.mayAccess = true ∧ r.cur.finished r.cur.holdSt = true ∧ r.cur.cnt.full .matrix = false ∧ r.matFull = false ∧
      (r.takeScore [] .matrix (r.accs + 1)).isSome = true ∧ (d.takeScore [(0, 64, false)] .matrix (d.accs + 1)).isSome = true ∧
      matFmt 0x7F = none ∧ (matFmt (s.g 7)).isSome = (matFmt 0).isSome ∧ memSpace 0 k = true ∧ k.toNat % 8 = 0 ∧ (4 : Word).toNat % 8 ≠ 0 ∧
      d.scoreOk k 24 false = true ∧ d.scoreOk k 16 false = true ∧
      (match (descWords d k 2).1 with | .ok ws => decide (ws = [BitVec.ofNat 64 (64 * 2 ^ 32), 0]) | .error _ => false) = true ∧
      macFieldsOk (d.g 5) (BitVec.ofNat 64 (64 * 2 ^ 32)) 0 = true ∧ macFieldsOk (d.g 5) 0 0 = false ∧
      (match (descWords z k 3).1 with | .ok ws => decide (ws = [0, 0, 0]) | .error _ => false) = true ∧
      z.lidFieldsOk 0 0 0 2 = false ∧ z.lidFieldsOk 0 (BitVec.ofNat 64 (2 ^ 32 + 2 ^ 16)) 0 2 = true ∧
      z.drainFieldsOk 0 k 64 2 = true ∧ z.drainFieldsOk 1 0 0 2 = false ∧ d.xfer = .seq := by decide

/-- An item of the process of `proc1`. -/
def item0 (op : MatOp) : MatItem :=
  { pid := sliceAddr 0 0x100, slot := 0, ctx := 0, op := op, cmd := 1, pc := 0, stopped := false, pos := 0, flags := 0, rs := 0 }

/-- The machine whose array of bench 0 executes an item for core 0: layers 0 and 1 in use, the lease held, banks 0 and 1 owned, the format
s8 by s8 to s32. -/
def array0 (op : MatOp) : State :=
  (({ proc1 with roles := [(0, 2), (1, 2)] }.setMats 0 [item0 op]).updBench 0 fun x =>
    { x with held := true, holder := sliceAddr 0 0x100, hcore := 0,
             owners := Vector.ofFn fun k => if k.val < 2 then some (sliceAddr 0 0x100, 0, 0) else none }).setMatCtx 0 (0x66100, 0, 0)

/-- The hypotheses of each clause of `ArrayStepsComputeAccumulators` can be met: items of each kind at the head, banks owned and not, a
lease free and one asked for, a first and a last beat. -/
theorem witness_arrayHeads :
    let m := array0 (.clr 3)
    let q := proc1.setMats 0 [item0 (.req 1)]
    let r := proc1.setMats 0 [item0 .rel]
    (m.bench 0).held = true ∧ (proc1.bench 0).held = false ∧ proc1.orderAsks 64 (proc1.leaseAsks 0) = [] ∧
      q.orderAsks 64 (q.leaseAsks 0) = [{ core := 0, pid := sliceAddr 0 0x100, slot := 0, mask := 1, fresh := true }] ∧
      q.logged q.cur = false ∧ (headItems (q.mats 0)).find? (fun i => decide (i.op = .rel)) = none ∧
      (headItems (r.mats 0)).find? (fun i => decide (i.op = .rel)) = some (item0 .rel) ∧ SMap.wf [] r.matq = true ∧
      SMap.wf Bench.empty r.benches = true ∧ proc1.arrayHead 0 = none ∧ m.unitErrors 0 2 = 0 ∧ (m.setUnitErrors 0 2 2).unitErrors 0 2 = 2 ∧
      (m.setUnitErrors 0 2 2).arrayHead 0 = some (item0 (.clr 3)) ∧ m.arrayHead 0 = some (item0 (.clr 3)) ∧
      (array0 (.fmt 0)).arrayHead 0 = some (item0 (.fmt 0)) ∧ (array0 (.scl 0 0)).arrayHead 0 = some (item0 (.scl 0 0)) ∧
      m.ownsBank 0 (sliceAddr 0 0x100) 0 = true ∧ m.ownsBank 0 (sliceAddr 0 0x100) 1 = true ∧
      m.ownsBank 0 (sliceAddr 0 0x100) 2 = false ∧ m.ownsBank 0 (sliceAddr 0 0x100) 3 = false := by decide

set_option maxRecDepth 100000 in
/-- A multiply of one k-step passes its checks, one of a bank that is not owned does not, and a lid load and a drain have a last beat. -/
theorem witness_arraySteps :
    let ctl := BitVec.ofNat 64 (2 ^ 48)
    let d0 := BitVec.ofNat 64 (64 * 2 ^ 32 + 0x40)
    let m := array0 (.mac 0 ctl d0 0)
    let i := item0 (.mac 0 ctl d0 0)
    let f : MatFmt := { cls := .int, a := .s8, b := .s8, d := .s32, scaled := false }
    let w1 := BitVec.ofNat 64 (2 ^ 32 + 2 ^ 16)
    let src := BitVec.ofNat 64 (sliceAddr 0 0x40)
    m.arrayHead 0 = some i ∧ matFmt (m.matCtx 0).1 = some f ∧ macChecks m 0 i f 0 ctl d0 0 = none ∧
      (macChecks m 0 i f 0 (ctl + 2) d0 0).isSome = true ∧ matFmt (proc1.matCtx 0).1 = none ∧
      (guardRanges m [(rowAddr 0 d0 0, 1), (colAddr 0 0 0, 1)]).1 = none ∧ (macScales m 0 i f ctl).1 = .ok none ∧
      SMap.wf 0 m.acc = true ∧ lidChecks m 0 i f 0 w1 0 = none ∧ drainChecks m 0 i f ctl 4 = none ∧
      (match (engineRead m 0 66 0 src (beatLen src 0 1)).1 with | .ok _ => true | .error _ => false) = true ∧
      (match (lidWrites m 0 0 .s8 0 0 (rowElems .s8 1 0 [5])).1 with | .ok _ => true | .error _ => false) = true ∧
      1 ≤ 0 + beatLen src 0 1 ∧ 0 + beatLen src 0 65 < 65 ∧
      (match (engineWrite m 0 66 0 src (packElems 8 [5]) false).1 with | .ok _ => true | .error _ => false) = true := by decide

/-- The hypotheses of each clause of `EngineCommandsRunBeatByBeat` can be met: descriptors good and bad, a frozen queue, a command with and
without beats to move. -/
theorem witness_engines :
    let k := BitVec.ofNat 64 (sliceAddr 0 0x4000)
    let s := (proc1.setG 5 0).setG 6 k
    let d := ((s.poke (sliceAddr 0 0x4000) (k + 0x1000)).poke (sliceAddr 0 0x4008) (k + 0x2000)).poke (sliceAddr 0 0x4010) 64
    let f := s.setEngine 0 { EngQueue.empty with frozen := true }
    let c := s.engCmd .copy [k + 0x1000, k + 0x2000, 64, 0] 0 false
    let q := s.setEngine 0 { EngQueue.empty with cmds := [c] }
    let e := { c with pos := 64 }
    let w := { s with cur := { s.cur with dpat := BitVec.ofNat 64 (2 ^ 32 + 6 * 2 ^ 27) } }
    s.speculating = false ∧ k.toNat % 8 = 0 ∧ (s.engine 0).frozen = false ∧ (f.engine 0).frozen = true ∧ (s.desc 0).dev = false ∧
      s.cur.mayAccess = true ∧ s.cur.finished s.cur.holdSt = true ∧ s.scoreOk k 32 false = true ∧
      (match (descWords d k 4).1 with | .ok ws => decide (ws = [k + 0x1000, k + 0x2000, 64, 0]) | .error _ => false) = true ∧
      (copyDesc [k + 0x1000, k + 0x2000, 64, 0]).isSome = true ∧ copyDesc [0, 0, 0, 0] = none ∧
      d.rangesMeet (k + 0x1000) 64 (k + 0x2000) 64 = false ∧ d.rangesMeet k 64 k 64 = true ∧ (doneCheck d k 0).1 = none ∧
      s.cur.cnt.full .copies = false ∧ s.engFull 0 = false ∧ (s.takeScore [(k, 64, true)] .copies 1).isSome = true ∧
      tensorHeadOk [0, 0, 1, 0] = true ∧ tensorHeadOk [0, 0, 0, 0] = false ∧ tensorOk [0, 0, 1, 0, 1, 0] = true ∧ tensorOk [0, 0, 1, 0, 0, 0] = false ∧
      dpatOk w w.cur.dpat = true ∧ dpatOk s s.cur.dpat = false ∧ graphDescOk [0, 0] = false ∧ graphDescOk [1, 0] = true ∧ (s.helper 0).run = 0 ∧
      (q.engine 0).cmds = [c] ∧ c.pos < c.total ∧ (q.setUnitErrors 0 3 2).unitErrors c.core (engUnitCode 0) = 2 ∧ e.total ≤ e.pos ∧ c.err = none ∧ c.pre = false ∧ c.done = 0 ∧
      (match (nextBeat q 0 c).1 with | .ok _ => true | .error _ => false) = true ∧
      (match (nextBeat q 0 { c with words := [0, k, 64, 0] }).1 with | .ok _ => false | .error _ => true) = true ∧
      (match (writeDone q 0 64 0 k 0).1 with | .ok _ => true | .error _ => false) = true := by decide

set_option maxRecDepth 100000 in
/-- The hypotheses of each clause of `HelpersStreamItems` can be met: an idle and a running helper, offsets good and bad, a stream of one
unit left and of none, queues with room and with data. -/
theorem witness_helpers :
    let w := { proc1 with cur := { proc1.cur with pid := helperKey 0 } }
    let k := BitVec.ofNat 64 (sliceAddr 0 0x4000)
    let ws : List Word := [k, 1, 1, 1, 1, 1, 0, 0]
    let x := { HStream.empty with desc := ws, left := 1 }
    let r := w.setHelper 0 { Helper.empty with run := 1, active := some 0, streams := Helper.empty.streams.setIfInBounds 0 x }
    let t := r.setHelper 1 { Helper.empty with run := 1, active := some 0, streams := Helper.empty.streams.setIfInBounds 0 x }
    let q := t.setQueue 0 0 (List.replicate 64 7)
    let f := t.setQueue 0 0 (List.replicate 2048 7)
    let d := [8, 16, 24, 32, 40].foldl (fun (s : State) o => s.poke (sliceAddr 0 (0x4000 + o)) 1) (w.poke (sliceAddr 0 0x4000) k)
    proc1.speculating = false ∧ field 8 0 3 = 0 ∧ field 1 0 3 ≠ 0 ∧ (8 : Word).toNat < 0x4000 ∧ (proc1.helper 0).run = 0 ∧ (r.helper 0).run ≠ 0 ∧
      proc1.cur.mayAccess = true ∧ proc1.cur.releaseHolds 1 = true ∧ SMap.wf Proc.empty proc1.procs = true ∧
      SMap.wf Helper.empty proc1.helpers = true ∧ proc1.cur.pid ≠ helperKey 0 ∧ k.toNat % 64 = 0 ∧ (1 : Word).toNat % 64 ≠ 0 ∧
      streamOk w ws = true ∧ streamOk w [0, 0, 0, 0, 0, 0, 0, 0] = false ∧ (d.readable k 64).isSome = true ∧
      (match (readBeat d 0 0 k 64).1 with | .ok bs => decide (wordsOfBytes bs = ws) | .error _ => false) = true ∧
      ((w.helper 0).stream 0).left = 0 ∧ ((r.helper 0).stream 0).left ≠ 0 ∧ r.cur.mayAccess = true ∧ w.cur.isHelper = true ∧
      proc1.cur.isHelper = false ∧ (r.helper 0).run = 1 ∧ (r.helper 0).active = some 0 ∧ (r.queueOf 0 0).length + 64 ≤ streamRoom ∧
      streamRoom < (f.queueOf 0 0).length + 64 ∧ (r.queueOf 0 0).length < 64 ∧ 64 ≤ (q.queueOf 0 0).length ∧
      r.itemBarred 0 0 k 64 needRd = false ∧ t.itemBarred 1 0 k 64 needWr = false ∧
      (match (engineSpan 17 r 0 68 0 k 64).1 with | .ok _ => true | .error _ => false) = true ∧
      (match (engineSpan 17 r 0 68 0 (BitVec.ofNat 64 (7 * 2 ^ 53)) 64).1 with | .ok _ => false | .error f => f.cause != notYet) = true ∧
      (match (engineWrite t 0 69 0 k (List.replicate 64 7) false).1 with | .ok _ => true | .error _ => false) = true ∧
      (match (engineWrite t 0 69 0 (BitVec.ofNat 64 (7 * 2 ^ 53)) (List.replicate 64 7) false).1 with | .ok _ => false | .error f => f.cause != notYet) = true := by decide

set_option maxRecDepth 100000 in
/-- The hypotheses of each clause of `FabricWordsComputeLanes` can be met: a unit with and without flits, alone and before another of its
graph. -/
theorem witness_fabric :
    let p : FabUnit := { FabUnit.empty with store := [0], cid := 5 }
    let s := (proc0.setUnitX 0 { p with in0 := [7] }).setUnitX 2 p
    SMap.wf FabUnit.empty proc0.fabric = true ∧ SMap.wf FabUnit.empty s.fabric = true ∧ s.curX = 0 ∧ (proc0.unitX 0).in0 = [] ∧
      (s.unitX 0).in0 = [7] ∧ (proc0.graphAt 0 0).find? (fun w => decide (0 < w)) = none ∧
      (s.graphAt 5 0).find? (fun w => decide (0 < w)) = some 2 := by decide

/-- The hypotheses of each clause of `CollectivesAndTrussComplete` about a post can be met: a communicator of one member, this core, and
the words that a refused one has. -/
theorem witness_post :
    let k := BitVec.ofNat 64 (sliceAddr 0 0x4000)
    let x := { proc1 with cores := [(0, { proc1.core 0 with lcore := 0 })] }
    let cw : List Word := [BitVec.ofNat 64 (2 ^ 20), BitVec.ofNat 64 (1 + 2 ^ 16 + 2 ^ 32 + 2 ^ 48), k, 0, 0, 0, 0, 0]
    let ws : List Word := [k, 0, 0, BitVec.ofNat 64 (1 + 2 ^ 32), BitVec.ofNat 64 (1 + 2 ^ 32), k + 0x1000, k + 0x1000, 0]
    k.toNat % 64 = 0 ∧ memSpace 0 k = true ∧ commOk cw = true ∧ commOk [0, 0, 0, 0, 0, 0, 0, 0] = false ∧ commCount cw = 1 ∧
      ([0] : List Word).findIdx? (· = BitVec.ofNat 64 (x.mynode * 2 ^ 56 + (x.core x.cur.core).lcore)) = some 0 ∧
      ([1] : List Word).findIdx? (· = BitVec.ofNat 64 (x.mynode * 2 ^ 56 + (x.core x.cur.core).lcore)) = none ∧
      ([0] : List Word).all entryOk = true ∧ collFieldsOk ws cw = true ∧ buffersOk x (collDesc ws) (commSizes cw) 0 = true ∧
      (doneCheck x k 0).1 = none ∧ x.cur.cnt.full .transfers = false ∧ x.postsFull = false ∧
      (x.takeScore [] .transfers (x.accs + 1)).isSome = true ∧ (x.engine 4096).frozen = false ∧ x.cur.finished x.cur.holdSt = true ∧
      (match (descWords x k 8).1 with | .ok _ => true | .error _ => false) = true ∧ x.scoreOk k 64 false = true := by decide

/-- The hypotheses of each clause about announcements, chunks and truss queues can be met. -/
theorem witness_collective :
    let m : AnnMsg := { node := 0, cid := 3, num := 1, rank := 0, sig := [], comm := [] }
    let p : Post := { pid := sliceAddr 0 0x100, slot := 0, core := 0, ctx := 0, cmd := 1, cid := 3, num := 1, rank := 0, comm := [],
                      words := [], table := [], va := 0, done := 0, told := false, pc := 0 }
    let i : Piece := { key := 0, target := 0, bytes := [], st := 0, res := 16, vc := 0 }
    let c : Coll := { cid := 3, num := 1, status := 2, step := 0, blocks := [], pieces := [i], got := [], chain := false, flags := 0 }
    let s := { proc1 with posts := [p] }
    let q := { s with colls := [c] }
    let g := { s with colls := [c.setPiece { i with st := 1 }] }
    let r : Req := { agent := .proc (sliceAddr 0 0x100), core := 0, unit := 0, ctx := 0, va := 0, pa := blockAddr 0 0x21 0, space := 3, size := 8,
                     op := .store 5, ord := .rlx, scope := 0, rd := 0, pc := 0, sn := 1 }
    let t := s.setReg (blockAddr 0 0x20 0x1000) (BitVec.ofNat 64 (2 ^ 63 + 2 ^ 32))
    let o : TrussGen := { q := 0, parts := [(7, 1)], popped := [], result := none, flags := 0 }
    m.node = s.mynode ∧ ({ m with node := 9 } : AnnMsg).node ≠ s.mynode ∧ (proc1.postsOf 3 1) = [] ∧ s.postsOf 3 1 = [p] ∧
      s.activeCids.contains 3 = true ∧ s.poolFree = none ∧ (s.reserve 3 0 17).isSome = true ∧ s.pieceOf 3 0 = none ∧
      (q.pieceOf 3 0).isSome = true ∧ s.chunkWinner 16 (s.chunkCands 16) = none ∧ (g.chunkWinner 16 (g.chunkCands 16)).isSome = true ∧
      s.collOf 3 = none ∧ q.collOf 3 = some c ∧ c.num ≠ 2 ∧ ({ q with posts := [] } : State).postsOf 3 1 = [] ∧ c.status ≠ 0 ∧
      s.trussOpen r = false ∧ t.trussOpen r = true ∧ trussOf r.pa = 0 ∧
      t.truss.findIdx? (fun g => decide (g.q = 0) && g.result.isNone && !(g.parts.any fun p => decide (p.1 = 0))) = none ∧
      ({ t with truss := [o] } : State).truss.findIdx? (fun g => decide (g.q = 0) && g.result.isNone && !(g.parts.any fun p => decide (p.1 = 0)))
        = some 0 ∧ trussCfgOk 0 = true ∧ trussCfgOk (BitVec.ofNat 64 (5 * 2 ^ 12)) = false ∧
      ([4, 5, 6, 7].find? fun v => !(s.boundVcs 0).contains v) = some 4 := by decide

/-- The hypotheses of the clauses of `PortsServersAndRegistersComplete` about servers and frames can be met. -/
theorem witness_ports :
    let q : MsMsg := { stack := 0, words := [0, 0, 0, 0, 0, 0, 0, 0], msg := chan0 }
    let r : MsMsg := { q with words := [0, 0, 0, 0, 0, BitVec.ofNat 64 (sliceAddr 0 0x2000), 0, 0] }
    let s := proc1.poke (sliceAddr 0 0x2000) 0x601
    let on := proc1.setReg (portReg 0 0) (BitVec.ofNat 64 (2 ^ 23))
    let a := (proc1.setReg (portReg 0 0x100) 0).setPort 0 { EthPort.empty with asserted := 1, rx := [{ bytes := List.replicate 64 0, stamp := 0, prio := 0, ring := 0, rule := 0 }] }
    let h := proc1.setPort 0 { EthPort.empty with held := 1 }
    let t := proc1.setPort 0 { EthPort.empty with tx := [(0, [1, 2])] }
    field (q.words.getD 0 0) 24 3 ≠ 7 ∧ field (BitVec.ofNat 64 (7 * 2 ^ 24)) 24 3 = 7 ∧ q.words.getD 5 0 = 0 ∧ r.words.getD 5 0 ≠ 0 ∧
      proc1.blockChannel (r.words.getD 5 0) 0 = false ∧ s.blockChannel (r.words.getD 5 0) 0 = true ∧ s.repliesOf 0 < 128 ∧
      s.msStore.find? (fun m => decide (16 * m.msg.num + m.stack = 16)) = none ∧ s.intakeRoom 0 = true ∧
      ({ s with msStore := [q] } : State).msBehind q = false ∧
      ({ s with msStore := [q] } : State).msStore.find? (fun m => decide (16 * m.msg.num + m.stack = 16)) = some q ∧
      (proc1.reg (portReg 0 0)).getLsbD 23 = false ∧ (on.reg (portReg 0 0)).getLsbD 23 = true ∧
      be16 (List.replicate 12 0 ++ [0x88, 0x08, 1, 1]) 12 = 0x8808 ∧ be16 (List.replicate 12 0 ++ [0x88, 0x08, 1, 1]) 14 = 0x0101 ∧
      (a.port 0).asserted.getLsbD 0 = true ∧ a.threshold 0 0 0 < (a.port 0).held_ 0 ∧ (proc1.port 0).asserted.getLsbD 0 = false ∧
      (h.port 0).held.getLsbD 0 = true ∧ SMap.get 0 (h.port 0).heldTo 0 ≤ h.clk ∧ (proc1.port 0).held.getLsbD 0 = false ∧
      (t.port 0).tx.find? (fun f => decide (f.1 = 0)) = some (0, [1, 2]) ∧ SMap.wf EthPort.empty proc1.eth = true ∧
      regBlock (blockAddr 0 0x10 0) = 0x10 ∧ regOff (blockAddr 0 0x10 0x2000) = 0x2000 ∧ regBlock (blockAddr 0 0x05 0) = 5 := by decide

/-- A ring in service with an empty slot: presence words at 0x4000, payloads at 0x8000. -/
def ring0 : State :=
  (((proc1.setReg (portReg 0 0x2000) (BitVec.ofNat 64 (sliceAddr 0 0x4000))).setReg (portReg 0 0x2008)
    (BitVec.ofNat 64 (sliceAddr 0 0x8000))).setReg (portReg 0 0x2010) 0x8000000004080000)

/-- A frame can be deposited, and a packet receive of a slot that holds its version completes. -/
theorem witness_ingest :
    let f : RxFrame := { bytes := List.replicate 60 0, stamp := 0, prio := 0, ring := 0, rule := 0 }
    let s := ring0.setPort 0 { EthPort.empty with rx := [f] }
    let m : ChanMsg := { chan0 with send := false, kind := 3, addr := BitVec.ofNat 64 (sliceAddr 0 0xC000) }
    let q := ring0.setPort 0 { EthPort.empty with taken := [(0, m, 0, 0)] }
    let z : List Byte := List.replicate 60 0
    s.ingressHeld = false ∧ { s with boot := { s.boot with stopped := true } }.ingressHeld = true ∧ s.ringUp 0 0 = true ∧
      proc1.ringUp 0 0 = false ∧ (s.port 0).taken = [] ∧ (s.port 0).rx.find? (fun f => decide (f.ring = 0)) = some f ∧
      (s.guardList (s.cellWords (s.presence 0 0 0))).1 = none ∧ s.isLocked (s.presence 0 0 0) = false ∧
      sideFull (s.sideOf (s.slotOf (s.presence 0 0 0) 1)) = false ∧
      (match (writeRange 300 s (portSeat 0) 0 (s.payload 0 0 0) z).1 with | .ok _ => true | .error _ => false) = true ∧
      (match (checkNow s (portSeat 0) 0 (BitVec.ofNat 64 (sliceAddr 0 0x4000)) 8 needWr false).1 with | .ok a _ => a == sliceAddr 0 0x4000 | _ => false) = true ∧
      (match verStore s (sliceAddr 0 0x4000) 1 (presenceWord f 60 false) 5 0 99 with | .done _ _ _ => true | _ => false) = true ∧
      s.ringDue 0 0 = none ∧ q.ringDue 0 0 = some (0, m, 0, 0) ∧
      (q.guardList [q.slotOf (q.presence 0 0 0) 0]).1 = none ∧
      (match (writeBeat q m.core m.ctx m.addr
        (bytesOfWords (areaWords q 0 0 0 0 (q.peek (q.slotOf (q.presence 0 0 0) 0)) (q.payload 0 0 0))) 0).1 with
        | .ok _ => true | .error _ => false) = true := by decide

/-- The hypotheses of each clause of `RoleChangesRunThroughTheirPhases` can be met: each phase, a good and a bad plan, a deadline. -/
theorem witness_role :
    let p := proc1.setReg regPartplan 0x1AAAA
    let d := ((State.reset.setReg regPartplan 0x10A0A).setPhase 2)
    let k := State.reset.setPhase
    planError 0x1AAAA 0 ≠ 0 ∧ planError 0x15A5A 0 = 0 ∧ planError (p.reg regPartplan) p.board.cls ≠ 0 ∧
      proc1.phase = 0 ∧ proc1.boot.stopped = false ∧ (1#64).getLsbD 0 = true ∧ (0#64).getLsbD 0 = false ∧
      field (proc1.reg regPartctl) 8 24 ≠ 0 ∧ (k 2).phase = 2 ∧ (k 3).phase = 3 ∧ (k 4).phase = 4 ∧ (k 5).phase = 5 ∧
      d.isDrained = true ∧ (proc1.setPhase 2).isDrained = false ∧
      ((k 3).agenda.drop 1 ++ (k 3).blocked).all Ev.heldOver = true ∧ ([Ev.slotFill 0] ++ (k 3).blocked).all Ev.heldOver = false ∧
      ((k 4).regs.map (·.1)).Pairwise (· < ·) ∧ ((k 5).regs.map (·.1)).Pairwise (· < ·) ∧
      (regWritten (regSpec regPartctl) 0 1).getLsbD 0 = false ∧ proc1.boot.broken = false ∧
      { proc1 with boot := { proc1.boot with broken := true } }.boot.broken = true ∧ proc1.thermalDue = true ∧
      { proc1.setReg regThermctl 0x10000 with thermAt := some 0 }.thermalDue = false := by decide

/-- A fault record owed for an access that violated its rights. -/
def owed0 : Owed :=
  { atIssue := true, pc := 0, req := none, redo := none, writes := [], cls := .none, sn := 0, entry := false, again := none, viol := true }

/-- A record of context 0 that stopped at a fault it owes. -/
def stop0 : State :=
  { State.reset with
    cur := { Proc.empty with
      pid := sliceAddr 0 0x100, unit := 0, st := .faulted
      owed := [owed0] } }

/-- The hypotheses of each clause of `FaultsAreReportedAndResolved` can be met. -/
theorem witness_faults :
    let w : Word := BitVec.ofNat 64 0x100
    let e : State := proc0.updCtx 0 fun x => { x with evicted := true }
    let g : TrigMsg := { pid := sliceAddr 0 0x100, buf := 0, msg := chan0 }
    let f := e.updCtx 0 fun x => { x with trigs := List.replicate 64 g }
    proc0.owesReplies [] = false ∧ proc0.mailbox 0 = none ∧ proc0.mailbox 3 = none ∧
      (stop0.fltOwed 0 w).isSome = true ∧ proc0.fltOwed 0 w = none ∧ fltUnit w = 0 ∧ fltUnit (BitVec.ofNat 64 (3 * 2 ^ 59)) = 3 ∧
      proc0.fltCmd 0 w = none ∧ proc0.fltTile 0 w = none ∧ fltUnit (BitVec.ofNat 64 (5 * 2 ^ 59)) = 5 ∧
      fltUnit (BitVec.ofNat 64 (6 * 2 ^ 59)) = 6 ∧ proc0.frozenMaster 0 = .none ∧
      ({ proc0 with frozenNodes := [3] } : State).frozenMaster 0x3000300 = .node 3 ∧
      (stop0.proc (sliceAddr 0 0x100)).owed.find? (·.viol) ≠ none ∧ (proc0.proc (sliceAddr 0 0x100)).owed.find? (·.viol) = none ∧
      (proc0.setHelper 0 { Helper.empty with run := 3 }).frozenMaster 0x100 = .helper 0 ∧
      (proc0.setEngine 0 { proc0.engine 0 with frozen := true }).frozenMaster 0x200 = .queue 0 ∧
      (proc0.ctx 0).evicted = false ∧ (e.ctx 0).evicted = true ∧ (e.ctx 0).chain = [] ∧ (f.ctx 0).trigs.length = 64 ∧
      SMap.wf Ctxt.empty proc0.ctxs = true ∧ SMap.wf Ctxt.empty e.ctxs = true ∧ State.reset.toEvict 3 = [] ∧ proc0.toEvict 0 ≠ [] ∧
      (proc0.proc g.pid).pid = g.pid ∧ (proc0.proc 7).pid ≠ 7 ∧ (State.reset.reg (blockAddr 0 0 0x100)).getLsbD 0 = true ∧
      ((State.reset.setReg (blockAddr 0 0 0x100) 0).reg (blockAddr 0 0 0x100)).getLsbD 0 = false := by decide

/-- No record is queued at reset. -/
theorem witness_no_fifo (p : Nat) (prio : BitVec 3) : State.reset.fifo p prio = [] := by
  revert prio; exact (by decide : ∀ prio : BitVec 3, Core.empty.fifos[prio.toNat]'prio.isLt = [])

/-- A flit for node 0 with the first LSEQ. -/
def flit0 (dnode : Nat) (ok : Bool) : Flit :=
  { dnode := dnode, snode := 5, vc := 0, eseq := 0, lseq := 1, ack := 0, crcOk := ok, sctx := 0, body := .released 3 }

/-- The hypotheses of each clause of `LinksCarryFlitsInOrder` can be met. -/
theorem witness_link :
    let u := proc1.setLink 0 { Link.empty with up := true, rseq := 0, replay := [flit0 0 true] }
    let v := proc1.setLink 0 { Link.empty with up := true, replay := [flit0 0 true], tries := 8 }
    let a := (proc1.setReg (aclReg 0) (BitVec.ofNat 64 (2 ^ 63 + 5 * 2 ^ 55 + 2 ^ 46 + 2 ^ 37)))
    (proc1.link 0).up = false ∧ (u.link 0).up = true ∧ proc1.ingressHeld = false ∧ (proc1.setPhase 3).ingressHeld = true ∧
      (flit0 0 true).lseq = (u.link 0).rseq + 1 ∧ (flit0 0 true).lseq ≠ (v.setLink 0 { v.link 0 with rseq := 7 } |>.link 0).rseq + 1 ∧
      (flit0 0 true).dnode = u.mynode ∧ (flit0 9 true).dnode ≠ u.mynode ∧
      (u.link 0).replay.findIdx? (fun f => decide (f.lseq = 1)) = some 0 ∧
      (u.link 0).replay.findIdx? (fun f => decide (f.lseq = 2)) = none ∧ (v.link 0).tries + 1 = 9 ∧ (u.link 0).tries + 1 = 1 ∧
      (proc1.link 0).down = false ∧ (proc1.link 0).fails < 2 ∧ 2 ≤ ((proc1.setLink 0 { Link.empty with fails := 2 }).link 0).fails ∧
      ((proc1.setReg (linkReg 0) 2).reg (linkReg 0)).getLsbD 1 = true ∧ (((proc1.setReg (linkReg 0) 0)).reg (linkReg 0)).getLsbD 1 = false ∧
      ({ proc1 with frozenNodes := [5] } : State).frozenNodes.contains peer0.node = true ∧
      proc1.frozenNodes.contains peer0.node = false ∧ proc1.aclEntry 5 0 = none ∧ a.aclEntry 5 0 = some 0 ∧
      (match peerCheck a 5 0 peer0.va 8 (a.aclNeedAt peer0.op peer0.va 8) peer0.op.need (peer0.op.plain 8) with
        | .ok c pa space 0 _ => decide (c = 0 ∧ pa = sliceAddr 0 0x2000) && !versionSpace peer0.op space && !hostRefused peer0.op space
        | _ => false) = true := by decide

/-- A launch of queue 0 in context 0 that has no records left to end. -/
def launch0 (check unsent : Nat) : Launch :=
  { queue := 0, pkt := 0, ctx := 0, slot := 0, done := 0, dropped := false, record := false, check := check,
    ranges := BitVec.ofNat 64 (sliceAddr 0 0x4000), starts := [], unsent := unsent, faulted := 0, pids := [], digA := [] }

/-- A start message of rank 0 for core 0. -/
def start0 : StartMsg :=
  { tower := 0, idx := 0, core := 0, entry := 0, prio := 0, task := false, g14 := [], rank := 0, nrank := 1, mc := false, ext := [],
    org := [], ctx := 0, chk := 0 }

/-- `proc1` with a range list of one range of 64 bytes at 0x4000, and a launch in check mode. -/
def check0 (check : Nat) : State :=
  ((((proc1.poke (sliceAddr 0 0x4000) 1).poke (sliceAddr 0 0x4008) (BitVec.ofNat 64 (sliceAddr 0 0x5000))).poke
    (sliceAddr 0 0x4080) (BitVec.ofNat 64 (sliceAddr 0 0x6000))).poke (sliceAddr 0 0x4088) 64).setLaunch 0 0 (some (launch0 check 0))

/-- The hypotheses of the clauses of `LaunchQueuesTakeAndCompletePackets` about queues, packets, barriers and notices can be met. -/
theorem witness_launch :
    let c := lqReg 0 8
    let b := proc1.setLq 0 { LaunchQ.empty with barrier := some [0, 0, 0, 0, 5, 7] }
    let w := State.setLq (b.setLaunch 0 0 (some { launch0 0 1 with pids := [sliceAddr 0 0x100] })) 0 ({ LaunchQ.empty with barrier := some [], waitFor := [(0, 0)] })
    let v := State.updProc w (sliceAddr 0 0x100) fun p => { p with launch := some (0, 0) }
    let on := proc1.setReg c (BitVec.ofNat 64 (2 ^ 63 + 2 ^ 32))
    let l := proc1.setLaunch 0 0
    proc1.phase = 0 ∧ (proc1.setPhase 2).phase = 2 ∧ proc1.boot.stopped = false ∧ proc1.lqTower 0 = 0 ∧ proc1.lqOn 0 = false ∧
      on.lqOn 0 = true ∧ (proc1.chanq.filter fun m => decide (m.agent = .sill 200)).length < 64 ∧ (proc1.lqCtx 0).toNat = 0 ∧
      field (0x40000 : Word) 16 4 = 4 ∧ field (0x20000 : Word) 16 4 = 2 ∧ field (0x20000 : Word) 24 40 = 0 ∧ field (0x20000 : Word) 11 5 = 0 ∧
      field (0x20000 : Word) 0 8 = 0 ∧ field (0x30000 : Word) 16 4 = 3 ∧ (proc1.lq 0).barrier = none ∧ b.barrierOver (b.lq 0) = true ∧
      v.barrierOver (v.lq 0) = false ∧ SMap.wf Ctxt.empty b.ctxs = true ∧
      proc1.physOf 0 = 0 ∧ proc1.launch 0 0 = none ∧ State.launch (l (some (launch0 0 1))) 0 0 = some (launch0 0 1) ∧
      (launch0 0 2).unsent - 1 ≠ 0 ∧ (launch0 0 1).unsent - 1 = 0 ∧ regOff (lqReg 0 0) % 32 = 0 ∧ regOff c % 32 = 8 ∧
      (regWritten (regSpec c) (proc1.reg c) (BitVec.ofNat 64 (2 ^ 63 + 2 ^ 32))).getLsbD 63 = true ∧
      field (regWritten (regSpec c) (proc1.reg c) (BitVec.ofNat 64 (2 ^ 63 + 2 ^ 32))) 32 5 = 1 ∧
      (proc1.reg (lqReg 0 0)).toNat % 256 = 0 ∧ regOff (lqReg 0 16) % 32 = 16 := by decide

set_option maxRecDepth 100000 in
/-- A packet of kind 2 stands in queue 0, and the launch unit looks at it; a record of core 0's pool is free. -/
theorem witness_launch_take :
    let s := (((proc1.setReg (lqReg 0 0) (BitVec.ofNat 64 (sliceAddr 0 0x8000))).setReg (lqReg 0 8) (BitVec.ofNat 64 (2 ^ 63 + 2 ^ 32)))).poke
      (sliceAddr 0 0x8008) 0x20000
    let r := { s with side := [(sliceAddr 0 0x8000 + 120, 0x301)] }
    let f := proc1.setReg (corePage 0 + 0x900) 0x1000
    s.lookAt 1 = .absent ∧ (match s.lookAt 0 with | .absent => true | _ => false) = true ∧
      (match r.lookAt 0 with | .ready pa _ => decide (pa = sliceAddr 0 0x8078) | _ => false) = true ∧
      (s.freeEntry 0).isSome = true ∧ f.hasRecord 0 = true ∧ proc1.hasRecord 0 = false ∧
      (match r.takePacket 0 0 with | .ok u => decide ((u.lq 0).barrier ≠ none) | .wait _ => false) = true := by decide

/-- Check mode's runs can go on, end by a fault and end. -/
theorem witness_launch_check :
    let s := check0 1
    let f := s.setLaunch 0 0 (some { launch0 1 0 with faulted := 1 })
    s.runEnd 0 0 (launch0 1 0) = .over ∧ f.runEnd 0 0 { launch0 1 0 with faulted := 1 } = .fault ∧
      { s with cur := { s.cur with launch := some (0, 0) } }.runEnd 0 0 { launch0 1 1 with pids := [sliceAddr 0 0x100] } = .running := by
  decide

/-- A chunk of the current process that has ended and read nothing. -/
def chunk0 (fin : Bool) : Chunk := 
  { bundles := 0, reads := [], writes := [], rel := [], cmds := [], first := 0, ended := fin, boundary := false, granted := false, pc := 0,
    g := [], fsr := 0, rs := 0, smiss := 0, tstat := 0, frozenLoops := 0, seqStop := false, loops := [], v := [], m := [], seq := [], vloop := none, bound := 0, dir := 0,
    lease := Proc.empty.lease, seqWaits := 0 }

/-- `proc1` in a level 2 context with a chunk, its turn held or not. -/
def turn0 (fin : Bool) (t : Nat × Nat) : State :=
  { (proc1.updCtx 0 fun x => { x with level := 2 }) with
      cur := { proc1.cur with chunk := some (chunk0 fin) }
      turns := if t = (0, 0) then [] else [(0, t)] }

/-- The hypotheses of each clause of `ChunksCommitInTurnAndLogsFill` can be met. -/
theorem witness_chunks :
    let a := sliceAddr 0 0x100
    let o := turn0 true (a, 0)
    let r : LogRec := { w0 := 1, w1 := 2 }
    let g := proc1.updCtx 0 fun x => { x with logbase := BitVec.ofNat 64 (sliceAddr 0 0x8000), logsize := 4, staging := List.replicate 4 (1, r) }
    o.domainOf (o.proc a) = 0 ∧ (o.proc a).chunkOver = true ∧ ((turn0 false (a, 0)).proc a).chunkOver = false ∧
      (o.proc a).takesTurn = true ∧ (o.proc a).inTurn = false ∧ (turn0 true (a, 1)).turns = [(0, a, 1)] ∧
      SMap.get (0, 0) o.turns 0 = (a, 0) ∧ o.cmdsFit (chunk0 true) = true ∧ o.conflicts 0 (chunk0 true) = false ∧
      (commitWords o (o.proc a) (chunk0 true)).2 = none ∧ (turn0 true (0, 0)).turns = [] ∧
      (match (turn0 true (0, 0)).nextTurn 0 with | (some q, _) => q.chunkOver | _ => false) = true ∧
      (match (proc1.nextTurn 0).1 with | none => true | some _ => false) = true ∧
      (proc1.ctx 0).complete = none ∧ (proc1.ctx 0).overdue 0 = none ∧ (g.ctx 0).complete = some 1 ∧ (g.ctx 0).logctl.getLsbD 4 = false ∧
      (g.ctx 0).loghead.toNat + 4 ≤ (g.ctx 0).logtail.toNat + 2 ^ field (g.ctx 0).logsize 0 5 ∧ SMap.wf Ctxt.empty g.ctxs = true ∧
      (match (writeBeat g (sillSeat 0) 0 (BitVec.ofNat 64 (sliceAddr 0 0x8000)) (List.replicate 64 0) 0).1 with | .ok _ => true | _ => false) = true ∧
      (proc1.ctx 0).recording = 0 ∧ (proc1.ctx 0).logctl.getLsbD 0 = false := by decide

/-- The hypotheses of each clause of `HostAndManagementAccessesComplete` can be met. -/
theorem witness_host :
    let s := { proc1 with boot := { proc1.boot with powered := true, started := false } }
    let v := { proc1 with boot := { proc1.boot with powered := true, started := true } }
    let r := { proc1 with boot := { proc1.boot with powered := true, recovery := true, started := true } }
    let q := (s.setReg (lqReg 0 0) (BitVec.ofNat 64 (sliceAddr 0 0x8000))).setReg (lqReg 0 8) (BitVec.ofNat 64 (2 ^ 63 + 2 ^ 32))
    let a := s.setReg (blockAddr 0 0x12 0x100) (BitVec.ofNat 64 (2 ^ 63))
    let m := s.setMsix 3 0
    let h := { s with hostReads := [(7, peerReq peer0 0 0 1 0)] }
    s.silent = false ∧ State.reset.silent = false ∧ ({ s with boot := { s.boot with powered := false } } : State).silent = true ∧
      v.silent = false ∧ v.boot.started = true ∧ s.boot.started = false ∧ (s.desc 0).valid = true ∧ (State.reset.desc 0).valid = false ∧
      s.ingressHeld = false ∧ (s.setPhase 3).ingressHeld = true ∧ s.hostBehind = false ∧ q.lqOn 0 = true ∧ s.lqOn 0 = false ∧
      128 * q.lqN 0 = 256 ∧ q.slotsLocked (sliceAddr 0 0x8000) 8 = false ∧ (64 : Nat) ≤ 2 ^ 25 / 0x80000 ∧
      (match readBeat q hostSeat (q.lqCtx 0) (BitVec.ofNat 64 (sliceAddr 0 0x8000)) 8 with | (.ok bs, _) => decide (bs = List.replicate 8 0) | _ => false) = true ∧
      (match readBeat (q.setReg (lqReg 0 8) (BitVec.ofNat 64 (2 ^ 63 + 9 * 2 ^ 48 + 2 ^ 32))) hostSeat 9 (BitVec.ofNat 64 (sliceAddr 0 0x8000)) 8 with
        | (.error _, _) => true | _ => false) = true ∧ r.boot.recovery = true ∧ s.boot.recovery = false ∧
      (a.reg (blockAddr 0 0x12 0x100)).getLsbD 63 = true ∧ 4 ≤ partBytes (2 ^ 54) ∧ a.isLocked (2 ^ 54) = false ∧
      (match readBeat a hostSeat 0 (BitVec.ofNat 64 (2 ^ 54)) 8 with | (.ok bs, _) => decide (bs = List.replicate 8 0) | _ => false) = true ∧
      (match readBeat a hostSeat 9 (BitVec.ofNat 64 (2 ^ 54)) 8 with | (.error _, _) => true | _ => false) = true ∧
      (match (writeBeat a hostSeat 0 (BitVec.ofNat 64 (2 ^ 54)) (natToBytes 8 5) 0).1 with | .ok _ => true | _ => false) = true ∧
      (m.msixWord 3).getLsbD 32 = false ∧ (s.msixWord 3).getLsbD 32 = true ∧ s.hostReads.find? (fun e => decide (e.1 = 7)) = none ∧
      (h.hostReads.find? (fun e => decide (e.1 = 7))).isSome = true ∧ (s.regs.map (·.1)).Pairwise (· < ·) := by decide

/-- A package in stage `k` of a start. -/
def stage0 (k : Nat) (minimal : Bool) : State :=
  { State.reset with boot := { State.reset.boot with powered := true, started := true, stage := k, minimal := minimal } }

/-- The hypotheses of each clause of `StartsRunThroughTheirStages` can be met. -/
theorem witness_boot :
    let b := State.reset.boot
    let off := { State.reset with boot := { b with powered := false } }
    let trip := { State.reset with boot := { b with trip := true } }
    let rec_ := { State.reset with boot := { b with recovery := true } }
    let g := State.reset.setReg regAttctl 2
    let p := (State.reset.setReg regPartplan 0x10A0A).setPhase 0
    let bad := State.setReg p (blockAddr 0 0 0x600) (BitVec.ofNat 64 (2 ^ 63 + 5))
    State.reset.boot.powered = true ∧ off.boot.powered = false ∧ trip.boot.trip = true ∧ rec_.boot.recovery = true ∧
      State.reset.boot.trip = false ∧ (stage0 0 true).boot.started = true ∧ (stage0 0 true).boot.recovery = false ∧
      (stage0 0 true).boot.trip = false ∧ (stage0 0 true).boot.powered = true ∧
      ({ stage0 2 false with board := { (stage0 2 false).board with plan := 0x15A5A, cls := 0 } } : State).bootPlan = 0x15A5A ∧
      planError 0x15A5A 0 = 0 ∧ planError ({ stage0 2 false with board := { (stage0 2 false).board with plan := 0 } } : State).bootPlan 0 ≠ 0 ∧
      (State.reset.setPhase 3).phase ≠ 0 ∧ p.phase = 0 ∧ planClass (p.reg regPartplan) = 1 ∧
      State.bands bad = [(5, 0)] ∧ p.bands = [] ∧ planClass (State.reset.reg regPartplan) = 0 ∧
      (match planSteps [] 1 0 5 with | .ok fs => decide (fs = [3840, 3360, 2880, 2400, 1920]) | .error _ => false) = true ∧
      (g.reg regAttctl).getLsbD 1 = true ∧ (State.reset.reg regAttctl).getLsbD 1 = false ∧
      (g.regs.map (·.1)).Pairwise (· < ·) := by decide

end Sys2Proof.Tests
end

namespace Sys2Proof.Machine

/-! ### Every outcome is a next state (O5)

A meaning of the model is a chain of checks, each of which leaves or raises something and ends there, in front of an effect.
So one lemma per shared operation, and one per meaning that branches, says that its outcome is a next state; the case split
over the instructions puts them together, and a step follows the issuers. -/

/-- An outcome is a next state: neither a fault nor a refusal. -/
def GoesOn (o : Out) : Prop := ∃ t, o = .next t

theorem GoesOn.next (t : State) : GoesOn (.next t) := ⟨t, rfl⟩

theorem goesOn_ite {c : Prop} {_ : Decidable c} {a b : Out} (ha :
    GoesOn a) (hb : GoesOn b) : GoesOn (if c then a else b) := by
  split
  · exact ha
  · exact hb

/-- A check in front of the rest: where it holds, what it raises or leaves is the next state. -/
theorem goesOn_guard {c : Prop} {_ : Decidable c} {t : State} {k : Out} (hk : GoesOn k) :
    GoesOn (if c then .next t else k) := goesOn_ite (.next t) hk

/-- A match that goes on with the state of a next outcome and passes anything else on. -/
theorem goesOn_then {o : Out} {f : State → Out} (ho : GoesOn o) (hf : ∀ t, GoesOn (f t)) :
    GoesOn (match (generalizing := false) o with | .next t => f t | o => o) := by
  obtain ⟨t, rfl⟩ := ho
  exact hf t

/-- A match on two checks that goes on when either refuses and when both pass. -/
theorem goesOn_bothChecked {x y : Chk} {f g : Nat → List Word → Out} {k : Out} (hf : ∀ c ws, GoesOn (f c ws))
    (hg : ∀ c ws, GoesOn (g c ws)) (hk : GoesOn k) :
    GoesOn (match (generalizing := false) x, y with | .fail c ws, _ => f c ws | _, .fail c ws => g c ws | _, _ => k) := by
  split
  · exact hf _ _
  · exact hg _ _
  · exact hk

section
variable {s : State}

/-! ### Guards before a meaning -/

theorem goesOn_boundary {k : Out} (hk : GoesOn k) : GoesOn (boundary s k) := goesOn_guard hk

theorem goesOn_notInHandler {k : Out} (hk : GoesOn k) : GoesOn (notInHandler s k) := goesOn_guard hk

theorem goesOn_aligned {va : Word} {n : Nat} {k : Out} (hk : GoesOn k) : GoesOn (aligned s va n k) := goesOn_guard hk

theorem goesOn_entryCheck {pc : Word} {k : Out} (hk : GoesOn k) : GoesOn (entryCheck s pc k) := goesOn_guard hk

theorem goesOn_subChecked {xs : List W32} {k : Out} (hk : GoesOn k) : GoesOn (subChecked s xs k) := by
  unfold subChecked
  split
  · exact .next _
  · exact hk

theorem goesOn_chanStart {timed : Bool} {k : Out} (hk : GoesOn k) : GoesOn (chanStart s timed k) :=
  goesOn_boundary (goesOn_guard (goesOn_guard (goesOn_guard hk)))

theorem goesOn_vecIssue {isC : Bool} {op : VecOp} {ga gb : Word} {k : Out → Out} (hk : ∀ o, GoesOn o → GoesOn (k o)) :
    GoesOn (vecIssue s isC op ga gb k) :=
  goesOn_guard (goesOn_guard (hk _ (goesOn_guard (.next _))))

theorem goesOn_barrierOp {a : Reg} {k : Nat → Out} (hk : ∀ b, GoesOn (k b)) : GoesOn (barrierOp s a k) := by
  refine goesOn_boundary (goesOn_notInHandler (goesOn_guard ?_))
  split
  · exact .next _
  · exact hk _

theorem goesOn_arrayCmd {tval : Word} {ok : Bool} {cause : Nat} {k : State → Out} (hk : ∀ t, GoesOn (k t)) :
    GoesOn (arrayCmd s tval ok cause k) :=
  goesOn_guard (goesOn_guard (goesOn_notInHandler (goesOn_guard (hk _))))

theorem goesOn_withArray {core : Nat} {k : State → MatItem → Out} (hk : ∀ t i, GoesOn (k t i)) :
    GoesOn (s.withArray core k) := by
  unfold State.withArray
  split
  · exact .next _
  · exact goesOn_ite (hk _ _) (.next _)

/-! ### Operands read from memory -/

theorem goesOn_withElement {va : Word} {n : Nat} {k : State → List Byte → Out} (hk : ∀ t bs, GoesOn (k t bs)) :
    GoesOn (withElement s va n k) := by
  unfold withElement
  split
  · exact .next _
  · split
    · exact hk _ _
    · exact goesOn_guard (.next _)

theorem goesOn_withMore {va : Word} {n : Nat} {k : State → List Word → Out} (hk : ∀ t ws, GoesOn (k t ws)) :
    GoesOn (withMore s va n k) := by
  refine goesOn_ite ?_ (goesOn_guard ?_)
  · split
    · exact hk _ _
    · exact .next _
  · split
    · exact hk _ _
    · exact goesOn_guard (.next _)

theorem goesOn_withWords {va : Word} {n : Nat} {k : State → List Word → Out} (hk : ∀ t ws, GoesOn (k t ws)) :
    GoesOn (withWords s va n k) := goesOn_withMore fun _ _ => hk _ _

theorem goesOn_engMore {l : Lone} {b : Reg} {q n : Nat} {k : State → List Word → Out} (hk : ∀ t ws, GoesOn (k t ws)) :
    GoesOn (engMore s l b q n k) :=
  goesOn_guard (goesOn_guard (goesOn_guard (goesOn_withMore hk)))

theorem goesOn_engStart {l : Lone} {b : Reg} {q n : Nat} {k : State → List Word → Out} (hk : ∀ t ws, GoesOn (k t ws)) :
    GoesOn (engStart s l b q n k) := goesOn_engMore fun _ _ => hk _ _

/-! ### What goes on after an outcome -/

theorem goesOn_awaitOwner {o : Out} (ho : GoesOn o) : GoesOn (awaitOwner o) := by
  obtain ⟨t, rfl⟩ := ho
  exact goesOn_guard (.next _)

theorem goesOn_withoutPreO {o : Out} (ho : GoesOn o) : GoesOn (withoutPreO o) := by
  obtain ⟨t, rfl⟩ := ho
  exact .next _

theorem goesOn_heldBack {o : Out} (ho : GoesOn o) : GoesOn (heldBack o s) := by
  obtain ⟨t, rfl⟩ := ho
  exact .next _

theorem goesOn_waitBeside {o : Out} : GoesOn (waitBeside s o) := by cases o <;> exact .next _

/-! ### Shared operations -/

theorem goesOn_issue {a : Acc} : GoesOn (issue s a) := goesOn_guard (goesOn_guard (.next _))

theorem goesOn_loadN {l : Lone} {d a : Reg} {ord : MemOrder} {sc : BitVec 3} {f : BitVec 10} {n : Nat} {sg : Bool} :
    GoesOn (loadN s l d a ord sc f n sg) := goesOn_aligned goesOn_issue

theorem goesOn_storeN {l : Lone} {r a : Reg} {ord : MemOrder} {sc : BitVec 3} {f : BitVec 10} {n : Nat} :
    GoesOn (storeN s l r a ord sc f n) := goesOn_aligned goesOn_issue

theorem goesOn_atomic {f : BitVec 5} {d a b : Reg} {ord : MemOrder} {sc : BitVec 3} : GoesOn (atomic s f d a b ord sc) :=
  goesOn_aligned (goesOn_boundary goesOn_issue)

theorem goesOn_condBranch {l : Lone} {o : BitVec 15} {c : Bool} : GoesOn (condBranch s l o c) :=
  goesOn_guard (.next _)

theorem goesOn_startLoop {count e : Word} : GoesOn (startLoop s count e) :=
  goesOn_guard (goesOn_guard (.next _))

theorem goesOn_divided {d b : Reg} {x : Word × Flags} : GoesOn (divided s d b x) := goesOn_guard (.next _)

theorem goesOn_fpArith {d a b : Reg} {f : Mode → W32 → W32 → W32 × Flags} : GoesOn (fpArith s d a b f) :=
  goesOn_subChecked (.next _)

theorem goesOn_fpFma {d a b c : Reg} {np nc : Bool} : GoesOn (fpFma s d a b c np nc) := goesOn_subChecked (.next _)

theorem goesOn_fpConv {d : Reg} {src : List W32} {r : FRes} : GoesOn (fpConv s d src r) := goesOn_subChecked (.next _)

theorem goesOn_fpToInt {d a : Reg} {n : Nat} {lo hi : Int} {sg : Bool} : GoesOn (fpToInt s d a n lo hi sg) :=
  goesOn_subChecked (.next _)

theorem goesOn_vecA {op : VecOp} : GoesOn (vecA s op) := goesOn_vecIssue fun _ ho => ho

theorem goesOn_vecAg {op : VecOp} {a b : Reg} : GoesOn (vecAg s op a b) := goesOn_vecIssue fun _ ho => ho

theorem goesOn_skIssue {f : SkOp} {a b : Reg} {m : MReg} {t : LaneTy} : GoesOn (skIssue s f a b m t) :=
  goesOn_vecIssue fun _ ho => goesOn_aligned ho

theorem goesOn_vecMemIssue {op : VecOp} {a b : Reg} : GoesOn (vecMemIssue s op a b) := by
  refine goesOn_vecIssue fun o ho => ?_
  split
  · exact ho
  · refine goesOn_guard (goesOn_ite ho (goesOn_ite (goesOn_guard ?_) ho))
    split
    · exact .next _
    · exact ho

theorem goesOn_sumOp {va : Word} {o : SumOp} {d : Reg} : GoesOn (sumOp s va o d) := by
  refine goesOn_aligned ?_
  split
  · refine goesOn_guard (goesOn_guard ?_)
    split <;> exact .next _
  · refine goesOn_boundary (goesOn_guard ?_)
    split <;> exact .next _

theorem goesOn_noRoom : GoesOn (noRoom s) := by
  unfold noRoom
  split <;> exact .next _

theorem goesOn_enqueueCmd {cls : CntClass} {full : Bool} {ranges : List (Word × Nat × Bool)} {h : Held} :
    GoesOn (enqueueCmd s cls full ranges h) := by
  refine goesOn_ite goesOn_noRoom ?_
  split
  · exact goesOn_noRoom
  · exact .next _

theorem goesOn_sendMat {op : MatOp} {ranges : List (Word × Nat × Bool)} : GoesOn (sendMat s op ranges) := goesOn_enqueueCmd

theorem goesOn_matStop {core : Nat} {i : MatItem} {f : FaultInfo} : GoesOn (matStop s core i f) :=
  goesOn_guard (.next _)

theorem goesOn_multiply {l : Lone} {a b : Reg} {form : Nat} : GoesOn (multiply s l a b form) :=
  goesOn_guard (goesOn_arrayCmd fun _ => goesOn_withWords fun _ _ => goesOn_guard goesOn_sendMat)

theorem goesOn_engEnqueue {q : Nat} {va : Word} {ranges : List (Word × Nat × Bool)} {c : EngCmd} :
    GoesOn (engEnqueue s q va ranges c) := by
  unfold engEnqueue
  split
  · exact .next _
  · exact goesOn_enqueueCmd

theorem goesOn_distribute {l : Lone} {a b : Reg} {p : BitVec 1} {kind : EngKind} : GoesOn (distribute s l a b p kind) := by
  unfold distribute
  refine goesOn_engStart fun t ws => goesOn_ite ?_ ?_
  · exact .next _
  · exact goesOn_engEnqueue

theorem goesOn_postColl {va done : Word} {ws cw tab : List Word} : GoesOn (postColl s va done ws cw tab) := by
  simp only [postColl]
  split
  · exact .next _
  · refine goesOn_guard ?_
    split
    · exact .next _
    · exact goesOn_enqueueCmd

theorem goesOn_wordOp {h : Word} {send : Bool} {x : Word} {rs re : Reg} : GoesOn (wordOp s h send x rs re) := by
  refine goesOn_chanStart ?_
  split
  · exact .next _
  · exact goesOn_guard (.next _)

theorem goesOn_serverSend {h : Word} {key stack : Nat} {va : Word} {rs : Reg} : GoesOn (serverSend s h key stack va rs) :=
  goesOn_guard (goesOn_withElement fun _ _ => goesOn_guard (.next _))

theorem goesOn_tileOp {h : Word} {send : Bool} {va : Word} {rs : Reg} : GoesOn (tileOp s h send va rs) := by
  refine goesOn_chanStart ?_
  split
  · exact .next _
  · refine goesOn_guard (goesOn_guard ?_)
    split <;> exact .next _

theorem goesOn_recordOp {x : Word} {kind : Nat} {d : Reg} : GoesOn (recordOp s x kind d) := by
  refine goesOn_boundary (goesOn_guard (goesOn_guard (goesOn_guard ?_)))
  split
  · exact .next _
  · exact goesOn_guard (.next _)

theorem goesOn_spawnOp {kind : Nat} {d a b : Reg} : GoesOn (spawnOp s kind d a b) :=
  goesOn_entryCheck (goesOn_boundary (goesOn_notInHandler (goesOn_guard (.next _))))

theorem goesOn_arrive {d a : Reg} {waits : Bool} : GoesOn (arrive s d a waits) := by
  refine goesOn_boundary (goesOn_notInHandler ?_)
  split
  · exact .next _
  · exact goesOn_guard (.next _)

/-! ### Meanings with a branch of their own -/

theorem goesOn_execExit (l : Lone) {a : Reg} : GoesOn (execExit l a s) := by
  refine goesOn_ite (goesOn_boundary (goesOn_guard (.next _)))
    (goesOn_aligned (goesOn_boundary (goesOn_guard ?_)))
  exact goesOn_then goesOn_issue fun _ => goesOn_guard (.next _)

theorem goesOn_execXinv (l : Lone) {a : Reg} {k : BitVec 3} : GoesOn (execXinv l a k s) := by
  refine goesOn_boundary ?_
  split
  · exact goesOn_guard (.next _)
  all_goals exact .next _

theorem goesOn_execChsel {l : Lone} {d b : Reg} {f : BitVec 1} : GoesOn (execChsel l d b f s) := by
  refine goesOn_boundary (goesOn_guard (goesOn_guard (goesOn_guard (goesOn_guard
    (goesOn_guard ?_)))))
  refine goesOn_bothChecked (fun _ _ => .next _) (fun _ _ => .next _) (goesOn_guard ?_)
  split
  · exact .next _
  refine goesOn_guard (goesOn_guard ?_)
  split
  · exact .next _
  refine goesOn_guard ?_
  extract_lets
  split <;> exact goesOn_guard (.next _)

theorem goesOn_execCsendb (l : Lone) {d a b : Reg} : GoesOn (execCsendb l d a b s) := by
  refine goesOn_chanStart ?_
  split
  · exact .next _
  split
  · exact goesOn_serverSend
  · exact .next _
  · exact goesOn_guard (goesOn_guard (goesOn_withElement fun _ _ => .next _))

theorem goesOn_execCrecvb (l : Lone) {d a b : Reg} : GoesOn (execCrecvb l d a b s) := by
  refine goesOn_chanStart ?_
  split
  · exact .next _
  · exact goesOn_guard (goesOn_guard (.next _))

theorem goesOn_execCpoll (l : Lone) {d a : Reg} : GoesOn (execCpoll l d a s) := by
  refine goesOn_chanStart ?_
  split <;> exact .next _

theorem goesOn_execCclose (l : Lone) {a : Reg} : GoesOn (execCclose l a s) := by
  refine goesOn_chanStart ?_
  split
  · exact .next _
  · exact goesOn_guard (.next _)

theorem goesOn_execCsendp (l : Lone) {d a b : Reg} : GoesOn (execCsendp l d a b s) := by
  refine goesOn_chanStart ?_
  split
  · exact .next _
  · exact goesOn_ite (goesOn_guard (.next _)) (goesOn_guard (goesOn_guard (.next _)))

theorem goesOn_execCrecvp (l : Lone) {d a b : Reg} : GoesOn (execCrecvp l d a b s) := by
  refine goesOn_chanStart ?_
  split
  · exact .next _
  · exact goesOn_guard (goesOn_guard (.next _))

theorem goesOn_execCallat (l : Lone) {h a b : Reg} : GoesOn (execCallat l h a b s) := by
  refine goesOn_entryCheck (goesOn_guard (goesOn_boundary (goesOn_notInHandler (goesOn_guard (goesOn_guard
    (goesOn_guard (goesOn_ite ?_ ?_)))))))
  · split <;> exact .next _
  · split <;> exact .next _

theorem goesOn_execFork (l : Lone) {a : Reg} : GoesOn (execFork l a s) := by
  refine goesOn_entryCheck (goesOn_boundary (goesOn_notInHandler (goesOn_guard (goesOn_ite ?_ (goesOn_guard
    (.next _))))))
  split <;> exact .next _

theorem goesOn_execGinit (l : Lone) {a b : Reg} : GoesOn (execGinit l a b s) := by
  refine goesOn_barrierOp fun _ => goesOn_guard (goesOn_guard ?_)
  split <;> exact .next _

theorem goesOn_execMdrn {l : Lone} {a b : Reg} : GoesOn (execMdrn l a b s) := by
  refine goesOn_guard (goesOn_arrayCmd fun _ => goesOn_withWords fun t ws => goesOn_guard ?_)
  exact goesOn_then goesOn_enqueueCmd fun _ => goesOn_guard (.next _)

theorem goesOn_execSkinit {a b : Reg} : GoesOn (execSkinit a b s) := goesOn_guard goesOn_sumOp

theorem goesOn_execSkquant {d a b : Reg} : GoesOn (execSkquant d a b s) := goesOn_sumOp

theorem goesOn_execSkrank {d a b : Reg} : GoesOn (execSkrank d a b s) := goesOn_sumOp

theorem goesOn_execSkest {d a b : Reg} : GoesOn (execSkest d a b s) := goesOn_sumOp

theorem goesOn_execSkcount {d a : Reg} : GoesOn (execSkcount d a s) := goesOn_sumOp

theorem goesOn_execCpy {l : Lone} {a b : Reg} {p : BitVec 1} : GoesOn (execCpy l a b p s) := by
  unfold execCpy
  refine goesOn_engStart fun t ws => ?_
  split
  · exact .next _
  · exact goesOn_guard (goesOn_then goesOn_engEnqueue fun _ => goesOn_guard (.next _))

theorem goesOn_execTcpy {l : Lone} {a b : Reg} {p : BitVec 1} : GoesOn (execTcpy l a b p s) := by
  unfold execTcpy
  exact goesOn_engMore fun t ws => goesOn_guard (goesOn_withWords fun _ _ => goesOn_guard goesOn_engEnqueue)

theorem goesOn_execCpost {l : Lone} {a b : Reg} : GoesOn (execCpost l a b s) := by
  unfold execCpost
  exact goesOn_engMore fun t ws => goesOn_guard (goesOn_withMore fun _ _ => goesOn_guard
    (goesOn_withWords fun _ _ => goesOn_postColl))

/-! ### The events of the array -/

theorem goesOn_execMfmtExecute {core : Nat} : GoesOn (execMfmtExecute core s) := by
  refine goesOn_withArray fun t i => ?_
  split <;> exact .next _

theorem goesOn_execMclrExecute {core : Nat} : GoesOn (execMclrExecute core s) := by
  refine goesOn_withArray fun t i => ?_
  split
  · exact goesOn_guard (.next _)
  · exact .next _

theorem goesOn_execMmacExecute {core : Nat} : GoesOn (execMmacExecute core s) := by
  refine goesOn_withArray fun t i => ?_
  split
  · split
    · exact .next _
    · extract_lets
      split
      · exact .next _
      · split
        · exact goesOn_matStop
        · split
          · exact goesOn_matStop
          · exact .next _
  · exact .next _

theorem goesOn_execMlidExecute {core : Nat} : GoesOn (execMlidExecute core s) := by
  refine goesOn_withArray fun t i => ?_
  split
  · split
    · exact .next _
    · extract_lets
      split
      · exact .next _
      · split
        · exact goesOn_matStop
        · split
          · exact goesOn_matStop
          · exact goesOn_guard (goesOn_guard (.next _))
  · exact .next _

theorem goesOn_execMdrnExecute {core : Nat} : GoesOn (execMdrnExecute core s) := by
  refine goesOn_withArray fun t i => ?_
  split
  · split
    · exact .next _
    · split
      · exact .next _
      · extract_lets
        split
        · exact goesOn_matStop
        · exact goesOn_guard (goesOn_guard (.next _))
  · exact .next _

/-! ### The other events -/

theorem goesOn_execXrecv {d : XReg} {i : BitVec 1} : GoesOn (execXrecv d i s) := by
  unfold execXrecv
  extract_lets
  split <;> exact .next _

theorem goesOn_execWaiterRetry {r : Req} : GoesOn (execWaiterRetry r s) := by
  refine goesOn_guard ?_
  split <;> exact .next _

theorem goesOn_execAcknowledgement {d : Done} : GoesOn (execAcknowledgement d s) := by
  unfold execAcknowledgement
  split <;> exact .next _

theorem goesOn_execWiden {key : Nat} : GoesOn (execWiden key s) := by
  unfold execWiden
  split <;> exact .next _

theorem goesOn_execWidened {key : Nat} : GoesOn (execWidened key s) := by
  unfold execWidened
  split <;> exact .next _

theorem goesOn_execTranslationWalk {die : Nat} {ctx : Byte} {space vpage : Nat} :
    GoesOn (execTranslationWalk die ctx space vpage s) := by
  unfold execTranslationWalk
  split <;> exact .next _

theorem goesOn_execPartGo {x : Word} : GoesOn (execPartGo x s) :=
  goesOn_guard (goesOn_guard (goesOn_guard (.next _)))

theorem goesOn_execRoleChangeStop : GoesOn (execRoleChangeStop s) :=
  goesOn_guard (.next _)

theorem goesOn_execFrzctlDiscard {x : Word} : GoesOn (execFrzctlDiscard x s) := by
  unfold execFrzctlDiscard
  split <;> exact .next _

theorem goesOn_execPeerErrorReply {d : Done} : GoesOn (execPeerErrorReply d s) := by
  unfold execPeerErrorReply
  split <;> exact .next _

theorem goesOn_execSpillParked {core : Nat} : GoesOn (execSpillParked core s) := by
  refine goesOn_guard ?_
  split <;> exact .next _

theorem goesOn_execPreempt {core : Nat} : GoesOn (execPreempt core s) := by
  unfold execPreempt
  split <;> exact .next _

theorem goesOn_execSpillComplete {pid : Nat} : GoesOn (execSpillComplete pid s) := by
  refine goesOn_guard (goesOn_guard (goesOn_guard (goesOn_guard (goesOn_guard ?_))))
  split <;> exact .next _

theorem goesOn_execMrelEffect {core : Nat} : GoesOn (execMrelEffect core s) := by
  unfold execMrelEffect
  split <;> exact .next _

theorem goesOn_execLogUnitWrite {ctx : Byte} : GoesOn (execLogUnitWrite ctx s) := by
  unfold execLogUnitWrite
  extract_lets
  split <;> exact .next _

theorem goesOn_execLogPadTimeout {ctx : Byte} : GoesOn (execLogPadTimeout ctx s) := by
  unfold execLogPadTimeout
  extract_lets
  split <;> exact .next _

theorem goesOn_execSendRetry {m : ChanMsg} : GoesOn (execSendRetry m s) := by
  refine goesOn_guard ?_
  split <;> exact .next _

theorem goesOn_execTrussQueueWrite {addr : Nat} {x : Word} : GoesOn (execTrussQueueWrite addr x s) :=
  goesOn_guard (goesOn_guard (.next _))

theorem goesOn_execHostReadCompletion {tag status : Nat} {data : List Byte} :
    GoesOn (execHostReadCompletion tag status data s) := by
  unfold execHostReadCompletion
  split <;> exact .next _

theorem goesOn_execHostReadTimeout {tag : Nat} : GoesOn (execHostReadTimeout tag s) := by
  unfold execHostReadTimeout
  split <;> exact .next _

theorem goesOn_execReset : GoesOn (execReset s) :=
  goesOn_guard (.next _)

theorem goesOn_execCalc : GoesOn (execCalc s) := by
  refine goesOn_guard (goesOn_guard (goesOn_guard ?_))
  split <;> exact .next _

theorem goesOn_execAttctlGo : GoesOn (execAttctlGo s) :=
  goesOn_guard (.next _)

/-! ### Meanings that branch deeply: each branch, once reached, is a next state -/

theorem goesOn_execVloop (l : Lone) {len : BitVec 5} {a : Reg} : GoesOn (execVloop l len a s) := by
  unfold execVloop
  repeat' first | exact .next _ | split

theorem goesOn_execSequencerTrap {pid cause : Nat} {tval : Word} : GoesOn (execSequencerTrap pid cause tval s) := by
  simp only [execSequencerTrap]
  repeat' first | exact .next _ | split

theorem goesOn_execSequencerEntry {pid : Nat} : GoesOn (execSequencerEntry pid s) := by
  simp only [execSequencerEntry]
  repeat' first | exact .next _ | split

theorem goesOn_execStreamItem {helper stream : Nat} : GoesOn (execStreamItem helper stream s) := by
  simp only [execStreamItem]
  repeat' first | exact .next _ | split

theorem goesOn_execReleased {a : Agent} : GoesOn (execReleased a s) := by
  unfold execReleased
  repeat' first | exact .next _ | split

theorem goesOn_execEngineBeat {queue : Nat} : GoesOn (execEngineBeat queue s) := by
  simp only [execEngineBeat]
  repeat' first | exact .next _ | split

theorem goesOn_execCommandCompletion {queue status : Nat} : GoesOn (execCommandCompletion queue status s) := by
  unfold execCommandCompletion
  repeat' first | exact .next _ | split

theorem goesOn_execMsReply {num : Nat} : GoesOn (execMsReply num s) := by
  simp only [execMsReply]
  repeat' first | exact .next _ | split

theorem goesOn_execFrameReceive {port : Nat} {f : Frame} : GoesOn (execFrameReceive port f s) := by
  simp only [execFrameReceive]
  repeat' first | exact .next _ | split

theorem goesOn_execFrzctlResume {x : Word} : GoesOn (execFrzctlResume x s) := by
  simp only [execFrzctlResume]
  repeat' first | exact .next _ | split

theorem goesOn_execPeerRequest {p : PeerMsg} : GoesOn (execPeerRequest p s) := by
  unfold execPeerRequest
  repeat' first | exact .next _ | split

theorem goesOn_execTaskSteal {core : Nat} : GoesOn (execTaskSteal core s) := by
  simp only [execTaskSteal]
  repeat' first | exact .next _ | split

theorem goesOn_execLaneGrant {bench : Nat} : GoesOn (execLaneGrant bench s) := by
  simp only [execLaneGrant]
  repeat' first | exact .next _ | split

theorem goesOn_execLeaseGrant {bench : Nat} : GoesOn (execLeaseGrant bench s) := by
  unfold execLeaseGrant
  repeat' first | exact .next _ | split

theorem goesOn_execLaunchTake {q : Nat} : GoesOn (execLaunchTake q s) := by
  simp only [execLaunchTake]
  repeat' first | exact .next _ | split

theorem goesOn_execLevelChange {q : Nat} : GoesOn (execLevelChange q s) := by
  unfold execLevelChange
  repeat' first | exact .next _ | split

theorem goesOn_execQueueBarrier {q : Nat} : GoesOn (execQueueBarrier q s) := by
  unfold execQueueBarrier
  repeat' first | exact .next _ | split

theorem goesOn_execContextFence {q : Nat} : GoesOn (execContextFence q s) := by
  unfold execContextFence
  repeat' first | exact .next _ | split

theorem goesOn_execLaunchQueueWrite {addr : Nat} {x : Word} : GoesOn (execLaunchQueueWrite addr x s) := by
  simp only [execLaunchQueueWrite]
  repeat' first | exact .next _ | split

theorem goesOn_execDoneNotice {m : DoneMsg} : GoesOn (execDoneNotice m s) := by
  simp only [execDoneNotice]
  repeat' first | exact .next _ | split

theorem goesOn_execCheckRunAEnd {tower idx : Nat} : GoesOn (execCheckRunAEnd tower idx s) := by
  unfold execCheckRunAEnd
  repeat' first | exact .next _ | split

theorem goesOn_execCheckRunBEnd {tower idx : Nat} : GoesOn (execCheckRunBEnd tower idx s) := by
  unfold execCheckRunBEnd
  repeat' first | exact .next _ | split

theorem goesOn_execCommitTurn {domain : Nat} : GoesOn (execCommitTurn domain s) := by
  simp only [execCommitTurn]
  repeat' first | exact .next _ | split

theorem goesOn_execChunkCommit {pid : Nat} : GoesOn (execChunkCommit pid s) := by
  simp only [execChunkCommit]
  repeat' first | exact .next _ | split

theorem goesOn_execChannelSendAtHome {m : ChanMsg} : GoesOn (execChannelSendAtHome m s) := by
  simp only [execChannelSendAtHome]
  repeat' first | exact .next _ | split

theorem goesOn_execChannelReceiveAtHome {m : ChanMsg} : GoesOn (execChannelReceiveAtHome m s) := by
  unfold execChannelReceiveAtHome
  repeat' first | exact .next _ | split

theorem goesOn_execDrainQueryReply {m : ChanMsg} {elem : List Byte} {stamp : Word} :
    GoesOn (execDrainQueryReply m elem stamp s) := by
  simp only [execDrainQueryReply]
  repeat' first | exact .next _ | split

theorem goesOn_execTileTransfer {t : TileMsg} : GoesOn (execTileTransfer t s) := by
  unfold execTileTransfer
  repeat' first | exact .next _ | split

theorem goesOn_execSelectClaim {list index : Nat} : GoesOn (execSelectClaim list index s) := by
  simp only [execSelectClaim]
  repeat' first | exact .next _ | split

theorem goesOn_execTimeoutFire {pid : Nat} : GoesOn (execTimeoutFire pid s) := by
  simp only [execTimeoutFire]
  repeat' first | exact .next _ | split

theorem goesOn_execChannelTimeout {pid : Nat} : GoesOn (execChannelTimeout pid s) := by
  simp only [execChannelTimeout]
  repeat' first | exact .next _ | split

theorem goesOn_execWithdrawal {m : ChanMsg} : GoesOn (execWithdrawal m s) := by
  simp only [execWithdrawal]
  repeat' first | exact .next _ | split

theorem goesOn_execSpawnPlace {m : SpawnMsg} : GoesOn (execSpawnPlace m s) := by
  simp only [execSpawnPlace]
  repeat' first | exact .next _ | split

theorem goesOn_execBarrierArrival {m : BarMsg} : GoesOn (execBarrierArrival m s) := by
  simp only [execBarrierArrival]
  repeat' first | exact .next _ | split

theorem goesOn_execFaultPost {ctx : Byte} {words : List Word} : GoesOn (execFaultPost ctx words s) := by
  simp only [execFaultPost]
  repeat' first | exact .next _ | split

theorem goesOn_execFltresRetry {core : Nat} {x : Word} : GoesOn (execFltresRetry core x s) := by
  unfold execFltresRetry
  repeat' first | exact .next _ | split

theorem goesOn_execFltresSkip {core : Nat} {x : Word} : GoesOn (execFltresSkip core x s) := by
  unfold execFltresSkip
  repeat' first | exact .next _ | split

theorem goesOn_execFltresDiscard {core : Nat} {x : Word} : GoesOn (execFltresDiscard core x s) := by
  unfold execFltresDiscard
  repeat' first | exact .next _ | split

theorem goesOn_execCollAnnounce {a : AnnMsg} : GoesOn (execCollAnnounce a s) := by
  simp only [execCollAnnounce]
  repeat' first | exact .next _ | split

theorem goesOn_execChunkGrant {cid chunk link : Nat} : GoesOn (execChunkGrant cid chunk link s) := by
  unfold execChunkGrant
  repeat' first | exact .next _ | split

theorem goesOn_execChunkArbitration {resource : Nat} : GoesOn (execChunkArbitration resource s) := by
  simp only [execChunkArbitration]
  repeat' first | exact .next _ | split

theorem goesOn_execCollComplete {cid num : Nat} : GoesOn (execCollComplete cid num s) := by
  simp only [execCollComplete]
  repeat' first | exact .next _ | split

theorem goesOn_execTrussPush {r : Req} : GoesOn (execTrussPush r s) := by
  simp only [execTrussPush]
  repeat' first | exact .next _ | split

theorem goesOn_execLinkReplay {link : Nat} {lseq : BitVec 12} : GoesOn (execLinkReplay link lseq s) := by
  simp only [execLinkReplay]
  repeat' first | exact .next _ | split

theorem goesOn_execBootStage {result : BootResult} : GoesOn (execBootStage result s) := by
  simp only [execBootStage]
  repeat' first | exact .next _ | split

/-! ### Meanings that call other meanings -/

theorem goesOn_writeRstctl {x : Word} : GoesOn (s.writeRstctl x) :=
  goesOn_ite goesOn_execReset (goesOn_guard (.next _))

theorem goesOn_writeAttctl {x : Word} : GoesOn (writeAttctl s x) := goesOn_ite goesOn_execAttctlGo (.next _)

theorem goesOn_writeMgmt {a : Nat} {x : Word} : GoesOn (writeMgmt s a x) :=
  goesOn_ite goesOn_execPartGo (goesOn_guard (goesOn_guard (goesOn_guard (goesOn_ite goesOn_writeRstctl
    (goesOn_guard (goesOn_ite goesOn_writeAttctl (goesOn_ite (goesOn_ite goesOn_execCalc (.next _))
      (goesOn_ite goesOn_execLaunchQueueWrite (.next _)))))))))

theorem goesOn_writeProt {a : Nat} {x : Word} : GoesOn (writeProt s a x) := by
  refine goesOn_guard (goesOn_ite ?_ (.next _))
  split
  · exact goesOn_execFrzctlResume
  · exact goesOn_execFrzctlDiscard
  · exact .next _

theorem goesOn_writeHostBlock {a : Nat} {x : Word} : GoesOn (writeHostBlock s a x) := goesOn_guard (.next _)

theorem goesOn_writeColl {a : Nat} {x : Word} : GoesOn (writeColl s a x) :=
  goesOn_guard (goesOn_guard (goesOn_ite goesOn_execTrussQueueWrite (.next _)))

theorem goesOn_writeFltres {core : Nat} {x : Word} : GoesOn (writeFltres s core x) := by
  unfold writeFltres
  split
  · exact goesOn_execFltresRetry
  · exact goesOn_execFltresSkip
  · exact goesOn_execFltresDiscard
  · exact .next _

theorem goesOn_writeBench {a : Nat} {x : Word} : GoesOn (writeBench s a x) :=
  goesOn_guard (goesOn_guard (goesOn_guard (goesOn_ite goesOn_writeFltres (.next _))))

theorem goesOn_execRegisterWrite {addr : Nat} {x : Word} : GoesOn (execRegisterWrite addr x s) :=
  goesOn_ite goesOn_writeMgmt (goesOn_ite goesOn_writeProt (goesOn_ite
    (goesOn_guard (goesOn_guard (.next _))) (goesOn_guard (goesOn_ite goesOn_writeHostBlock
      (goesOn_ite goesOn_writeColl (goesOn_ite goesOn_writeBench (.next _)))))))

theorem goesOn_registerAccess {r : Req} : GoesOn (registerAccess r s) := by
  unfold registerAccess
  extract_lets
  split
  · exact goesOn_guard (.next _)
  · exact goesOn_ite goesOn_execTrussPush (goesOn_guard (goesOn_then goesOn_execRegisterWrite fun _ => .next _))
  · exact .next _

theorem goesOn_bar0Register {offset : Nat} {data : Option Word} : GoesOn (bar0Register offset data s) := by
  refine goesOn_guard (goesOn_guard ?_)
  split
  · exact goesOn_execRegisterWrite
  · exact .next _

theorem goesOn_execHostBar0 {offset : Nat} {data : Option Word} : GoesOn (execHostBar0 offset data s) := by
  refine goesOn_guard (goesOn_ite (goesOn_guard goesOn_bar0Register) (goesOn_guard
    (goesOn_guard ?_)))
  split <;> exact .next _

theorem goesOn_apertureAccess {va : Word} {size : Nat} {data : Option Word} : GoesOn (apertureAccess va size data s) := by
  unfold apertureAccess
  extract_lets
  split
  · split <;> exact .next _
  · split <;> exact .next _

end

/-- Every meaning, by its row of the table, is one of the shapes above. -/
theorem goesOn_exec (i : Instr) (s : State) : GoesOn (exec i s) := by
  cases i with
  | cnop | br | jal | lic | anop | add | sub | andR | orR | xor | andn | sll | srl | sra | rol | addw | subw | addsS | addsN |
    subsS | subsN | addi | andi | ori | xori | slli | srli | srai | roli | mul | mulhS | mulhN | mulw | seq | sne | sltS |
    sleS | sltN | sleN | minS | maxS | minN | maxN | sel | clz | ctz | popc | brev | bswap | sextB | sextH | sextW | zextW |
    bext | bins | lui | fmin | fmax | fmint | fmaxt | fabs | fneg | fsgnj | feq | flt | fle | funord | fclass | fkey | xend |
    xadd | xmax | xmin | xmx6 | xpack | xunpk | xmov | xemit | subByteStore | versionedStoreAtOwner | versionedLoadAtOwner |
    reclaimAtOwner | initialiseAtOwner | heldCompletion | pfcFrame | ringDescriptorWrite | portRegisterWrite | frameTransmit |
    poolHeadWrite | recfree | slotFill | logctlWrite | logtailWrite | logheadWrite | announceRetry | trussPop | hwakeExpire |
    loadReturn =>
    exact .next _
  | halt | vrel => exact goesOn_boundary (goesOn_guard (goesOn_guard (.next _)))
  | brk | fence | srun | sstat | drainComplete | contextEvict | triggerLatch | msixSend | blockRead =>
    exact goesOn_guard (goesOn_guard (.next _))
  | jr | jalr | tret | vbind | pfcRepeat | pfcQuantaExpire | ingestDeposit | drainTimeout | thermalPeriod | startMessage |
    handlerRequest | contextRestore | deadlock | powerOn | bootWatchdog | recgo | attestDone | thermalTrip | tripRelease |
    linkUp | lossOfPower =>
    exact goesOn_guard (.next _)
  | beq | bne | bltS | bgeS | bltN | bgeN => exact goesOn_condBranch
  | lp | lpi => exact goesOn_startLoop
  | ldbS | ldbN | ldhS | ldhN | ldwS | ldwN | ldd => exact goesOn_loadN
  | stb | sth | stw | std => exact goesOn_storeN
  | ldv | stv | rcl | vinit => exact goesOn_aligned (goesOn_boundary goesOn_issue)
  | vtag => exact goesOn_aligned goesOn_issue
  | aswp | aswpd | acas | acasd | aadd | aaddd | aand | aandd | aor | aord | axor | axord | amaxS | amaxdS | aminS | amindS |
    amaxN | amaxdN | aminN | amindN | afadd | afmax | afmin =>
    exact goesOn_atomic
  | waitc => exact goesOn_boundary (goesOn_guard (goesOn_notInHandler (.next _)))
  | vld | vst | vldx | vstx => exact goesOn_vecMemIssue
  | csend | crecv => exact goesOn_wordOp
  | csendb l => exact goesOn_execCsendb l
  | crecvb l => exact goesOn_execCrecvb l
  | csendt | crecvt => exact goesOn_tileOp
  | cpoll l => exact goesOn_execCpoll l
  | cclose l => exact goesOn_execCclose l
  | csendp l => exact goesOn_execCsendp l
  | crecvp l => exact goesOn_execCrecvp l
  | chsel => exact goesOn_execChsel
  | chnew | chdel => exact goesOn_recordOp
  | spawn | spawnk => exact goesOn_spawnOp
  | callat l => exact goesOn_execCallat l
  | fork l => exact goesOn_execFork l
  | join => exact goesOn_aligned (goesOn_boundary (goesOn_notInHandler (goesOn_awaitOwner goesOn_issue)))
  | jinit => exact goesOn_aligned (goesOn_boundary (goesOn_guard goesOn_issue))
  | yield => exact goesOn_boundary (goesOn_notInHandler (goesOn_guard (.next _)))
  | park =>
    exact goesOn_aligned (goesOn_boundary (goesOn_notInHandler (goesOn_guard (goesOn_awaitOwner goesOn_issue))))
  | exit l => exact goesOn_execExit l
  | chprio => exact goesOn_boundary (.next _)
  | binit => exact goesOn_barrierOp fun _ => goesOn_guard (goesOn_guard (.next _))
  | barr | barw => exact goesOn_arrive
  | ginit l => exact goesOn_execGinit l
  | gkill | gquery => exact goesOn_barrierOp fun _ => .next _
  | mfs => exact goesOn_ite (goesOn_boundary (.next _)) (.next _)
  | mts => exact goesOn_guard (goesOn_guard (goesOn_boundary (.next _)))
  | trap => exact goesOn_boundary (goesOn_guard (.next _))
  | xinv l => exact goesOn_execXinv l
  | mreq => exact goesOn_guard (goesOn_notInHandler (.next _))
  | mrel => exact goesOn_notInHandler (goesOn_guard (.next _))
  | mfmt | mscl | mclr => exact goesOn_arrayCmd fun _ => goesOn_sendMat
  | mlid =>
    exact goesOn_guard (goesOn_arrayCmd fun _ => goesOn_withWords fun _ _ => goesOn_guard goesOn_sendMat)
  | mmac | mmacc | mmacj => exact goesOn_multiply
  | mdrn => exact goesOn_execMdrn
  | cpy => exact goesOn_execCpy
  | tcpy => exact goesOn_execTcpy
  | deal | gath => exact goesOn_distribute
  | cpost => exact goesOn_execCpost
  | fgload =>
    exact goesOn_guard (goesOn_guard (goesOn_engStart fun _ _ => goesOn_guard goesOn_engEnqueue))
  | vclaim => exact goesOn_guard (goesOn_boundary (goesOn_notInHandler (.next _)))
  | vrenew =>
    exact goesOn_guard (goesOn_boundary (goesOn_notInHandler (goesOn_guard (goesOn_guard (.next _)))))
  | vloop l => exact goesOn_execVloop l
  | vunbind | msRequest | linkRetrain | powerCapStep =>
    exact goesOn_guard (goesOn_guard (goesOn_guard (.next _)))
  | ldnS | ldnN | stn => exact goesOn_issue
  | sgen => exact goesOn_guard (goesOn_guard (goesOn_withElement fun _ _ => goesOn_guard (.next _)))
  | hload =>
    exact goesOn_boundary (goesOn_guard (goesOn_guard (goesOn_guard (goesOn_guard (goesOn_ite
      (.next _) goesOn_engEnqueue)))))
  | hstart => exact goesOn_boundary (goesOn_guard (goesOn_guard (goesOn_guard (.next _))))
  | divS | divN | remS | remN => exact goesOn_divided
  | fadd | fsub | fmul | fdiv => exact goesOn_fpArith
  | fsqrt => exact goesOn_subChecked (.next _)
  | fmadd | fmsub | fnmadd | fnmsub => exact goesOn_fpFma
  | fcvtF32S32 | fcvtF32S64 | fcvtBf16F32 | fcvtF32E4m3 | fcvtE4m3F32 | fcvtF32E2m1 | fcvtE2m1F32 | fcvtF32N32 =>
    exact goesOn_fpConv
  | fcvtS32F32 | fcvtS64F32 | fcvtN32F32 => exact goesOn_fpToInt
  | fcvtF32Bf16 => exact goesOn_guard goesOn_fpConv
  | vadd | vsub | vmul | vdiv | vmin | vmax | vand | vor | vxor | vsll | vsrl | vsra | vabs | vneg | vadds | vsubs | vfma |
    vfms | vfnma | vfnms | vmadS | vmadN | veq | vne | vlt | vle | vunord | vltt | vmov | vshuf | vcomp | vexpd | vcvt | vexp
    | vexp2 | vlog | vlog2 | vrcp | vsqrt | vrsqrt | vsin | vcos | vtanh | vsigm | verf | vrsum | vrmax | vrmin | vrmaxt |
    vrmint | vrand | vror | vrxor | mand | mor | mxor | mandn | mnot | mpop | mfrst | mtog =>
    exact goesOn_vecA
  | vbcast | vrot | vins | vext | mfromg => exact goesOn_vecAg
  | vskq | vskh | vskd => exact goesOn_skIssue
  | skinit => exact goesOn_execSkinit
  | skmerge => exact goesOn_aligned goesOn_sumOp
  | skquant => exact goesOn_execSkquant
  | skrank => exact goesOn_execSkrank
  | skest => exact goesOn_execSkest
  | skcount => exact goesOn_execSkcount
  | xrecv => exact goesOn_execXrecv
  | sequencerTrap => exact goesOn_execSequencerTrap
  | sequencerEntry => exact goesOn_execSequencerEntry
  | streamItem => exact goesOn_execStreamItem
  | ownerAccess => exact goesOn_ite goesOn_registerAccess (goesOn_guard (.next _))
  | waiterRetry => exact goesOn_execWaiterRetry
  | acknowledgement => exact goesOn_execAcknowledgement
  | widen => exact goesOn_execWiden
  | widened => exact goesOn_execWidened
  | released => exact goesOn_execReleased
  | translationWalk => exact goesOn_execTranslationWalk
  | engineBeat => exact goesOn_execEngineBeat
  | commandCompletion => exact goesOn_execCommandCompletion
  | msReply => exact goesOn_execMsReply
  | frameReceive => exact goesOn_execFrameReceive
  | partGo => exact goesOn_execPartGo
  | flushComplete => exact goesOn_guard (goesOn_ite goesOn_execRoleChangeStop (goesOn_guard (.next _)))
  | powerComplete | enumerate => exact goesOn_guard (goesOn_ite goesOn_execRoleChangeStop (.next _))
  | roleChangeStop => exact goesOn_execRoleChangeStop
  | frzctlResume => exact goesOn_execFrzctlResume
  | frzctlDiscard => exact goesOn_execFrzctlDiscard
  | peerRequest => exact goesOn_execPeerRequest
  | peerErrorReply => exact goesOn_execPeerErrorReply
  | spillParked => exact goesOn_execSpillParked
  | preempt => exact goesOn_execPreempt
  | spillComplete => exact goesOn_execSpillComplete
  | taskSteal => exact goesOn_execTaskSteal
  | laneGrant => exact goesOn_execLaneGrant
  | leaseGrant => exact goesOn_execLeaseGrant
  | mrelEffect => exact goesOn_execMrelEffect
  | mfmtExecute => exact goesOn_execMfmtExecute
  | mmacExecute => exact goesOn_execMmacExecute
  | mlidExecute => exact goesOn_execMlidExecute
  | mclrExecute => exact goesOn_execMclrExecute
  | mdrnExecute => exact goesOn_execMdrnExecute
  | launchTake => exact goesOn_execLaunchTake
  | levelChange => exact goesOn_execLevelChange
  | queueBarrier => exact goesOn_execQueueBarrier
  | contextFence => exact goesOn_execContextFence
  | launchQueueWrite => exact goesOn_execLaunchQueueWrite
  | doneNotice => exact goesOn_execDoneNotice
  | checkRunAEnd => exact goesOn_execCheckRunAEnd
  | checkRunBEnd => exact goesOn_execCheckRunBEnd
  | commitTurn => exact goesOn_execCommitTurn
  | chunkCommit => exact goesOn_execChunkCommit
  | logUnitWrite => exact goesOn_execLogUnitWrite
  | logPadTimeout => exact goesOn_execLogPadTimeout
  | channelSendAtHome => exact goesOn_execChannelSendAtHome
  | channelReceiveAtHome => exact goesOn_execChannelReceiveAtHome
  | sendRetry => exact goesOn_execSendRetry
  | drainQueryReply => exact goesOn_execDrainQueryReply
  | tileTransfer => exact goesOn_execTileTransfer
  | selectClaim => exact goesOn_execSelectClaim
  | timeoutFire => exact goesOn_execTimeoutFire
  | channelTimeout => exact goesOn_execChannelTimeout
  | withdrawal => exact goesOn_execWithdrawal
  | spawnPlace => exact goesOn_execSpawnPlace
  | barrierArrival => exact goesOn_execBarrierArrival
  | faultPost => exact goesOn_execFaultPost
  | fltresRetry => exact goesOn_execFltresRetry
  | fltresSkip => exact goesOn_execFltresSkip
  | fltresDiscard => exact goesOn_execFltresDiscard
  | collAnnounce => exact goesOn_execCollAnnounce
  | chunkGrant => exact goesOn_execChunkGrant
  | chunkArbitration => exact goesOn_execChunkArbitration
  | collComplete => exact goesOn_execCollComplete
  | trussPush => exact goesOn_execTrussPush
  | trussQueueWrite => exact goesOn_execTrussQueueWrite
  | linkFlit => exact goesOn_guard (goesOn_guard (goesOn_guard (goesOn_guard (.next _))))
  | linkReplay => exact goesOn_execLinkReplay
  | hostBar0 => exact goesOn_execHostBar0
  | hostLaunchWrite =>
    exact goesOn_guard (goesOn_guard (goesOn_guard (goesOn_guard (goesOn_guard
      (.next _)))))
  | hostAperture =>
    exact goesOn_guard (goesOn_guard (goesOn_guard (goesOn_guard (goesOn_guard
      (goesOn_guard goesOn_apertureAccess)))))
  | hostReadCompletion => exact goesOn_execHostReadCompletion
  | hostReadTimeout => exact goesOn_execHostReadTimeout
  | bootStage => exact goesOn_execBootStage
  | reset => exact goesOn_execReset
  | attctlGo => exact goesOn_execAttctlGo
  | blockWrite => exact goesOn_guard (goesOn_ite goesOn_writeMgmt (.next _))
  | registerWrite => exact goesOn_execRegisterWrite
  -- The one constructor left is the clock calculation, whose name is a keyword of Lean.
  | _ => exact goesOn_execCalc

/-! ### A step -/

section
variable {s : State}

theorem goesOn_runBundle {b : Bundle} : GoesOn (runBundle b s) := by
  unfold runBundle
  split
  · exact goesOn_exec _ _
  · refine goesOn_ite ?_ ?_
    · refine goesOn_then (goesOn_exec _ _) fun p => goesOn_ite goesOn_waitBeside ?_
      exact goesOn_then (goesOn_exec _ _) fun q => goesOn_guard (goesOn_withoutPreO (goesOn_exec _ _))
    · refine goesOn_then (goesOn_exec _ _) fun p => goesOn_ite goesOn_waitBeside ?_
      exact goesOn_then (goesOn_exec _ _) fun q => goesOn_ite (goesOn_heldBack (goesOn_exec _ _)) (.next _)

theorem goesOn_runRedo {r : Redo} {rest : List Redo} : GoesOn (runRedo r rest s) := by
  unfold runRedo
  extract_lets pc word
  clear_value word
  split
  · exact .next _
  · exact goesOn_then (goesOn_exec _ _) fun _ => .next _

theorem goesOn_issueBundle : GoesOn (issueBundle s) := by
  unfold issueBundle
  split
  · exact goesOn_runRedo
  split
  · exact .next _
  refine goesOn_guard ?_
  split
  · exact .next _
  split
  · exact .next _
  exact goesOn_guard (goesOn_guard (goesOn_then goesOn_runBundle fun _ => .next _))

theorem goesOn_issueFabric {u : Nat} : GoesOn (issueFabric u s) := by
  unfold issueFabric
  extract_lets
  split
  · exact .next _
  · exact goesOn_then (goesOn_exec _ _) fun _ => .next _

/-- What a core's slots bring, where one of them issues. -/
theorem goesOn_of_trySlots {p : Nat} {ks : List (Nat × Bool)} {o : Out} (h : trySlots s p ks = some o) : GoesOn o := by
  induction ks with
  | nil => simp [trySlots] at h
  | cons k rest ih =>
    obtain ⟨k, rotates⟩ := k
    unfold trySlots at h
    split at h
    · exact ih h
    · cases h
      exact .next _
    · rename_i s1 _
      obtain ⟨q, hq⟩ := goesOn_issueBundle (s := s1)
      simp only [hq] at h
      split at h
      · exact ih h
      · cases h
        exact .next _

/-- What the issuers bring, where one of them issues. -/
theorem goesOn_of_tryIssuers {us : List Nat} {o : Out} (h : tryIssuers s us = some o) : GoesOn o := by
  induction us with
  | nil => simp [tryIssuers] at h
  | cons u rest ih =>
    unfold tryIssuers at h
    extract_lets r at h
    have hr : ∀ o, r = some o → GoesOn o := by
      intro o ho
      simp only [r] at ho
      split at ho
      · cases ho
        exact goesOn_issueFabric
      split at ho
      · exact goesOn_of_trySlots ho
      obtain ⟨q, hq⟩ := goesOn_issueBundle (s := s.startHelper (2 * (u / 3) + u % 3 - 1))
      simp only [hq] at ho
      split at ho
      · cases ho
      · cases ho
        exact .next _
    clear_value r
    split at h
    · cases h
      exact .next _
    · cases h
      exact hr _ rfl
    · exact ih h

theorem goesOn_issueStep : GoesOn (issueStep s) := by
  unfold issueStep
  split
  · rename_i h
    exact goesOn_of_tryIssuers h
  · exact .next _

theorem goesOn_step : GoesOn (step s) := by
  unfold step
  extract_lets
  split
  · exact goesOn_exec _ _
  · exact goesOn_issueStep

end

/-- Settles O5: every meaning goes on, and a step performs a meaning or one that an issuer issues. -/
theorem everyInstructionAndEveryStepGoesOn : Obligations.EveryInstructionAndEveryStepGoesOn :=
  ⟨goesOn_exec, fun _ => goesOn_step⟩

/-! ### General registers and their pending marks -/

theorem State.g_setG_self (s : State) {r : Reg} (x : Word) (hr : r ≠ 0) (hs : s.pre = none) : (s.setG r x).g r = x :=
  (State.g_of_no_pre (s.setG r x) r hs).trans (Proc.rg_setG_self _ x hr)

/-- A word of a bundle reads the registers as they stood before the bundle (R213). -/
theorem State.g_setG_of_pre (s : State) {p : Pre} (r q : Reg) (x : Word) (hs : s.pre = some p) : (s.setG r x).g q = s.g q := by
  simp [State.g, hs]

theorem Proc.setG_eq (p : Proc) (r : Reg) (x : Word) : p.setG r x = { p with g := (p.setG r x).g } := by
  unfold Proc.setG
  split <;> rfl

/-- The mark of a register in PEND is its own bit. -/
theorem pendMark_getLsbD (r q : Reg) : (1#32 <<< r.toNat).getLsbD q.toNat = decide (q = r) := by
  have hq := q.isLt
  rw [Bool.eq_iff_iff]
  simp only [BitVec.getLsbD_shiftLeft, BitVec.getLsbD_one, Bool.and_eq_true, Bool.not_eq_true', decide_eq_true_eq,
    decide_eq_false_iff_not, ← BitVec.toNat_inj]
  omega

theorem Proc.isPend_setPend_self (p : Proc) {r : Reg} (hr : r ≠ 0) : (p.setPend r).isPend r = true := by
  rw [Proc.setPend, if_neg hr]
  simp only [Proc.isPend, BitVec.getLsbD_or, pendMark_getLsbD]
  simpa using hr

theorem Proc.isPend_clearPend_self (p : Proc) (r : Reg) : (p.clearPend r).isPend r = false := by
  simp only [Proc.isPend, Proc.clearPend, BitVec.getLsbD_and, BitVec.getLsbD_not, pendMark_getLsbD]
  simp

theorem Proc.isPend_clearPend_ne (p : Proc) {r q : Reg} (h : q ≠ r) : (p.clearPend r).isPend q = p.isPend q := by
  have hq := q.isLt
  simp only [Proc.isPend, Proc.clearPend, BitVec.getLsbD_and, BitVec.getLsbD_not, pendMark_getLsbD]
  simp [h, hq]

theorem Proc.rg_deliver_self (p : Proc) {r : Reg} (x : Word) (hr : r ≠ 0) : (p.deliver (r, x)).rg r = x :=
  Proc.rg_setG_self _ x hr

theorem Proc.isPend_deliver_ne (p : Proc) {r q : Reg} (x : Word) (h : q ≠ r) : (p.deliver (r, x)).isPend q = p.isPend q := by
  unfold Proc.deliver
  rw [Proc.isPend_clearPend_ne _ h, Proc.setG_eq]
  rfl

/-- Settles O7, by the accessor laws of the registers and of their marks. -/
theorem generalRegistersHoldWhatIsWritten : Obligations.GeneralRegistersHoldWhatIsWritten := by
  intro s r q x
  exact ⟨s.g_zero, s.setG_zero x, rfl, rfl, rfl, fun hr hs => s.g_setG_self x hr hs, fun hr => Proc.rg_setG_self _ x hr,
    fun hq => Proc.rg_setG_ne _ x hq, congrArg (fun c => { s with cur := c }) (s.cur.setG_eq r x),
    fun p hp => s.g_setG_of_pre r q x hp,
    fun hr => ⟨s.cur.rg_deliver_self x hr, s.cur.isPend_setPend_self hr⟩,
    Proc.isPend_clearPend_self _ r, fun hq => s.cur.isPend_deliver_ne x hq⟩

/-! ### A port table with two entries for one port (O53)

The ring clause counts the receives that a port has taken before the ring's waiting mark is taken off, the model after it.
The clause does not ask for a canonical port table, and in the table below taking the mark off brings the second entry of
port 0 to the front. -/

/-- A receive of ring 0's slot 0 whose presence word is at version 0, so that it is due. -/
def dueReceive : ChanMsg :=
  { agent := .sill 0, core := 0, unit := 0, ctx := 0, handle := 0, key := 0, send := false, kind := 3, elem := [], addr := 0,
    rs := 0, re := 0, pc := 0, seq := 0, deadline := none, issued := 0, sel := none, num := 0, flags := 0 }

/-- Port 0 twice: ring 0's waiting mark alone in front of an entry with the receive. -/
def twicePort : State :=
  { State.reset with eth := [(0, { EthPort.empty with ringWait := [0] }),
                             (0, { EthPort.empty with taken := [(0, dueReceive, 0, 0)] })] }

/-- The state with the waiting mark taken off: the port now has a receive. -/
def twicePortUnmarked : State :=
  twicePort.setPort 0 { twicePort.port 0 with ringWait := (twicePort.port 0).ringWait.filter (· ≠ 0) }

theorem twicePort_taken : (twicePort.port 0).taken = [] := by decide

theorem twicePortUnmarked_taken : (twicePortUnmarked.port 0).taken = [(0, dueReceive, 0, 0)] := by decide

/-- The deposit completes the receive, which the statement leaves in the port. -/
theorem ingestDeposit_twicePort_taken {t : State} (h : exec (.ingestDeposit 0 0) twicePort = .next t) :
    (t.port 0).taken = [] := by
  cases h
  decide

/-- Refutes O53: with two entries for port 0, the receive that the second one holds is completed by a deposit, while the
ring clause, which counts the receives of the first, has it left. -/
theorem not_portsServersAndRegistersComplete : ¬ Obligations.PortsServersAndRegistersComplete := by
  unfold Obligations.PortsServersAndRegistersComplete
  rintro ⟨-, -, -, hring, -⟩
  have hkept := (hring twicePort twicePortUnmarked 0 0 (by decide) (by rw [twicePort_taken]; rfl)).1 (.inr (by decide))
  have hdone := ingestDeposit_twicePort_taken hkept
  have hleft : ((twicePortUnmarked.claimExt (portReg 0 (0x2000 + 32 * 0))).port 0).taken ≠ [] := by decide
  exact hleft hdone

end Sys2Proof.Machine

namespace Sys2Proof.Machine

/-! ### The machine after reset (O4) -/

/-- An unlisted word's sideband is that of a reclaimed depth-1 cell of scope 0 (R103). -/
theorem side0_fields : sideDepth side0 = 0 ∧ sideState side0 = 2 ∧ sideVersion side0 = 0 ∧ sideScope side0 = 0 := by decide

/-- PARTCTL holds the DRAINLIM of R19, and THERMCTL the thresholds, period and slot limit of R209. -/
theorem regReset_fields :
    field (regReset regPartctl) 8 24 = 0x2710 ∧ regReset regPartstat = 0 ∧ field (regReset regThermctl) 36 12 = 0x690 ∧
      field (regReset regThermctl) 24 12 = 0x5F0 ∧ field (regReset regThermctl) 16 8 = 0x0A ∧
      field (regReset regThermctl) 0 3 = 6 := by decide

/-- Settles O4: reset lists nothing, so every byte, word and register reads its default. -/
theorem resetLeavesTheValuesTheSpecGives : Obligations.ResetLeavesTheValuesTheSpecGives := by
  intro a p
  obtain ⟨hdepth, hstate, hversion, hscope⟩ := side0_fields
  obtain ⟨hdrain, hstat, hhot, hcool, hperiod, hslots⟩ := regReset_fields
  exact ⟨rfl, hdepth, hstate, hversion, hscope, rfl, rfl, ⟨rfl, rfl⟩, rfl, hdrain, hstat, hhot, hcool, hperiod, hslots,
    rfl, rfl, rfl, rfl, rfl, rfl, rfl, rfl⟩

/-! ### Register maps whose keys rise (O60)

The attestation clause asks only that the keys rise, and not that no entry equals its register's reset value. -/

section
variable {α : Type} {d : α} {m : SMap α} {j k : Nat} {v : α}

theorem SMap.get_of_lt_keys (h : ∀ i ∈ m.map (·.1), k < i) : SMap.get d m k = d := by
  induction m with
  | nil => rfl
  | cons e r ih =>
    simp only [List.map_cons, List.forall_mem_cons] at h
    simp only [SMap.get, if_neg h.1.ne]
    exact ih h.2

variable [DecidableEq α]

theorem SMap.mem_keys_put (h : j ∈ (SMap.put d m k v).map (·.1)) : j = k ∨ j ∈ m.map (·.1) := by
  induction m with
  | nil => grind [SMap.put]
  | cons e r ih => grind [SMap.put]

theorem SMap.keys_pairwise_put (h : (m.map (·.1)).Pairwise (· < ·)) :
    ((SMap.put d m k v).map (·.1)).Pairwise (· < ·) := by
  induction m with
  | nil => simp only [SMap.put]; split <;> simp
  | cons e r ih =>
    have hr := List.pairwise_cons.1 h
    simp only [SMap.put]
    split
    · split
      · exact h
      · refine List.pairwise_cons.2 ⟨?_, h⟩
        simp only [List.map_cons, List.forall_mem_cons]
        exact ⟨‹_›, fun i hi => (‹k < e.1›).trans (hr.1 i hi)⟩
    · split
      · subst k
        split
        · exact hr.2
        · exact h
      · refine List.pairwise_cons.2 ⟨fun i hi => ?_, ih hr.2⟩
        rcases SMap.mem_keys_put hi with rfl | hi
        · change e.1 < i; omega
        · exact hr.1 i hi

theorem SMap.get_put_self_of_keys_pairwise (h : (m.map (·.1)).Pairwise (· < ·)) : SMap.get d (SMap.put d m k v) k = v := by
  induction m with
  | nil => simp only [SMap.put]; split <;> simp_all [SMap.get]
  | cons e r ih =>
    obtain ⟨hlt, hr⟩ := List.pairwise_cons.1 h
    simp only [SMap.put]
    split
    · next hk =>
      split
      · next hv =>
        rw [hv, SMap.get_of_lt_keys]
        simp only [List.map_cons, List.forall_mem_cons]
        exact ⟨hk, fun i hi => hk.trans (hlt i hi)⟩
      · simp [SMap.get]
    · split
      · next hk =>
        subst hk
        split
        · next hv => rw [hv, SMap.get_of_lt_keys hlt]
        · simp [SMap.get]
      · next hk => simp only [SMap.get, if_neg hk, ih hr]

end

/-! ### Rows of registers (O60) -/

section
variable {s : State} {a b : Nat} {x : Word} {ws : List Word}

theorem State.reg_setReg_self (h : (s.regs.map (·.1)).Pairwise (· < ·)) : (s.setReg a x).reg a = x :=
  SMap.get_put_self_of_keys_pairwise h

theorem State.keys_pairwise_setReg (h : (s.regs.map (·.1)).Pairwise (· < ·)) :
    ((s.setReg a x).regs.map (·.1)).Pairwise (· < ·) := SMap.keys_pairwise_put h

theorem State.keys_pairwise_setRegs (h : (s.regs.map (·.1)).Pairwise (· < ·)) :
    ((s.setRegs a ws).regs.map (·.1)).Pairwise (· < ·) := by
  induction ws generalizing s a with
  | nil => exact h
  | cons w r ih => exact ih (State.keys_pairwise_setReg h)

theorem State.reg_setRegs_of_lt (h : b < a) : (s.setRegs a ws).reg b = s.reg b := by
  induction ws generalizing s a with
  | nil => rfl
  | cons w r ih => exact (ih (by omega)).trans (s.reg_setReg_ne w h.ne)

/-- The first word of a row stands at its address. -/
theorem State.reg_setRegs_cons (w : Word) (h : (s.regs.map (·.1)).Pairwise (· < ·)) :
    (s.setRegs a (w :: ws)).reg a = w :=
  (State.reg_setRegs_of_lt (s := s.setReg a w) (Nat.lt_add_of_pos_right (by decide))).trans (State.reg_setReg_self h)

/-- What no write of a register changes, no row of registers changes. -/
theorem State.setRegs_frame {β : Type} (f : State → β) (hf : ∀ u c y, f (State.setReg u c y) = f u) :
    f (s.setRegs a ws) = f s := by
  induction ws generalizing s a with
  | nil => rfl
  | cons w r ih => exact ih.trans (hf s a w)

theorem State.setReg_setRegs_frame {β : Type} (f : State → β) (hf : ∀ u c y, f (State.setReg u c y) = f u) :
    f ((s.setRegs a ws).setReg b x) = f s := (hf _ _ _).trans (State.setRegs_frame f hf)

@[simp] theorem State.setRegs_boot : (s.setRegs a ws).boot = s.boot := State.setRegs_frame State.boot fun _ _ _ => rfl
@[simp] theorem State.setRegs_board : (s.setRegs a ws).board = s.board := State.setRegs_frame State.board fun _ _ _ => rfl

end

/-! ### Starts begin, end and are refused (O60) -/

section
variable {s : State}

theorem exec_powerOn_of_powered (h : s.boot.powered = true) : exec .powerOn s = .next s := if_pos h

theorem exec_powerOn_of_off (h : s.boot.powered = false) : exec .powerOn s = .next (s.beginStart s.boot []) :=
  if_neg (by simp [h])

theorem exec_lossOfPower_of_off (h : s.boot.powered = false) : exec .lossOfPower s = .next s := if_pos (by simp [h])

theorem exec_lossOfPower_of_powered (h : s.boot.powered = true) :
    exec .lossOfPower s = .next (s.cold { s.ended 0 with stage := 0, started := false, powered := false, stopped := false,
                                                         trip := false, recovery := false } []) := if_neg (by simp [h])

/-- Power is off, or a trip holds the package in reset: nothing is there to reset or to trip. -/
theorem exec_reset_of_held (h : s.boot.powered = false ∨ s.boot.trip = true) : exec .reset s = .next s :=
  if_pos (by simpa using h)

theorem exec_reset_of_powered (hp : s.boot.powered = true) (ht : s.boot.trip = false) :
    exec .reset s = .next (s.beginStart (s.ended 0) (darkRegs s)) := if_neg (by simp [hp, ht])

theorem exec_thermalTrip_of_held (h : s.boot.powered = false ∨ s.boot.trip = true) : exec .thermalTrip s = .next s :=
  if_pos (by simpa using h)

theorem exec_thermalTrip_of_powered (hp : s.boot.powered = true) (ht : s.boot.trip = false) :
    exec .thermalTrip s = .next (s.cold { s.ended 8 with stage := 0, started := false, trip := true, stopped := false,
                                                         recovery := false } (darkRegs s)) := if_neg (by simp [hp, ht])

theorem exec_tripRelease_of_trip (h : s.boot.trip = true) :
    exec .tripRelease s = .next (s.beginStart s.boot (darkRegs s)) := if_pos h

theorem exec_tripRelease_of_noTrip (h : s.boot.trip = false) : exec .tripRelease s = .next s := if_neg (by simp [h])

/-- What ends a run leaves the count of failed starts to the start that follows (R449). -/
theorem State.ended_fails (s : State) (k : Nat) : (s.ended k).fails = s.boot.fails := by
  unfold State.ended
  split <;> rfl

theorem State.failStart_fails (s : State) (k : Nat) : (s.failStart k).boot.fails = s.boot.fails + 1 := rfl

/-! ### The stages of a start (O60) -/

/-- No stage is being run: the end of a stage or its watchdog has nothing to end. -/
def State.noStage (s : State) : Bool := !s.boot.started || s.boot.recovery || !s.boot.powered || s.boot.trip

theorem noStage_iff : s.noStage = true ↔
    s.boot.started = false ∨ s.boot.recovery = true ∨ s.boot.powered = false ∨ s.boot.trip = true := by
  simp [State.noStage, or_assoc]

theorem exec_bootStage_of_noStage (h : s.noStage = true) (r : BootResult) : exec (.bootStage r) s = .next s := if_pos h

theorem exec_bootWatchdog_of_noStage (h : s.noStage = true) : exec .bootWatchdog s = .next s := if_pos h

theorem exec_bootWatchdog_of_stage (h : ¬ s.noStage = true) : exec .bootWatchdog s = .next (s.failStart 5) := if_neg h

theorem exec_bootStage_fail (h : ¬ s.noStage = true) (k : Nat) :
    exec (.bootStage (.fail k)) s =
      if s.boot.stage = 0 ∧ s.boot.minimal = true ∧ (k = 1 ∨ k = 2) then .next (s.recover k) else .next (s.failStart k) :=
  if_neg h

theorem exec_bootStage_ok_of_stage0 (h : ¬ s.noStage = true) (hk : s.boot.stage = 0) :
    exec (.bootStage .ok) s =
      .next ((s.setRegs (blockAddr 0 0 0x440) (wordsOfBytes (s.board.meas0.take 48))).enterStage 1) := by
  refine (if_neg h).trans ?_
  simp only [hk]

theorem exec_bootStage_ok_of_stage1 (h : ¬ s.noStage = true) (hk : s.boot.stage = 1) :
    exec (.bootStage .ok) s = .next (s.enterStage 2) := by
  refine (if_neg h).trans ?_
  simp only [hk]

theorem exec_bootStage_ok_of_stage2 (h : ¬ s.noStage = true) (hk : s.boot.stage = 2) :
    exec (.bootStage .ok) s = .next s.configure := by
  refine (if_neg h).trans ?_
  simp only [hk]

theorem exec_bootStage_ok_of_stage3 (h : ¬ s.noStage = true) (hk : 3 ≤ s.boot.stage) :
    exec (.bootStage .ok) s = .next s.enablePorts.ready := by
  obtain ⟨n, hn⟩ := Nat.exists_eq_add_of_le' hk
  refine (if_neg h).trans ?_
  simp only [hn]

theorem exec_recgo_of_refused {v : Bool} (h : s.boot.recovery = false ∨ v = false) : exec (.recgo v) s = .next s :=
  if_pos (by simpa using h)

theorem exec_recgo_of_valid (h : s.boot.recovery = true) :
    exec (.recgo true) s = .next ({ (s.freeDigest 6).2 with board := { s.board with meas0 := (s.freeDigest 6).1 } }.beginStart
      s.boot (darkRegs s)) := if_neg (by simp [h])

/-! ### Stage 2 applies the plan, stage 3 the ports (O60) -/

theorem SMap.wf_foldl_put_range (f : Nat → Nat) (n : Nat) :
    SMap.wf 0 ((List.range n).foldl (fun m i => SMap.put 0 m i (f i)) []) = true := by
  induction n with
  | zero => rfl
  | succ n ih => simpa [List.range_succ] using SMap.wf_put _ n (f n) ih

theorem SMap.get_foldl_put_range (f : Nat → Nat) {n i : Nat} (h : i < n) :
    SMap.get 0 ((List.range n).foldl (fun m i => SMap.put 0 m i (f i)) []) i = f i := by
  induction n with
  | zero => omega
  | succ n ih =>
    rw [List.range_succ, List.foldl_append, List.foldl_cons, List.foldl_nil]
    rcases Nat.lt_succ_iff_lt_or_eq.1 h with hi | rfl
    · rw [SMap.get_put_ne hi.ne, ih hi]
    · exact SMap.get_put_self _ _ _ (SMap.wf_foldl_put_range f i)

theorem State.applyRoles_roles (s : State) (plan : Word) :
    (s.applyRoles plan).roles = (List.range 8).foldl (fun m i => SMap.put 0 m i (planRole plan i)) [] := by
  simp only [State.applyRoles]

theorem State.applyRoles_role (s : State) (plan : Word) {i : Nat} (h : i < 8) :
    (s.applyRoles plan).role (i / 4) (i % 4) = planRole plan i := by
  rw [State.role, State.applyRoles_roles, Nat.div_add_mod, SMap.get_foldl_put_range _ h]

@[simp] theorem State.setPart_boot (s : State) (lo n x : Nat) : (s.setPart lo n x).boot = s.boot := rfl
@[simp] theorem State.setPart_role (s : State) (lo n x t l : Nat) : (s.setPart lo n x).role t l = s.role t l := rfl
@[simp] theorem State.setReg_role (s : State) (a : Nat) (x : Word) (t l : Nat) : (s.setReg a x).role t l = s.role t l := rfl
@[simp] theorem State.applyRoles_boot (s : State) (plan : Word) : (s.applyRoles plan).boot = s.boot := rfl
@[simp] theorem State.enumerated_boot (s : State) : s.enumerated.boot = s.boot := rfl
@[simp] theorem State.enumerated_role (s : State) (t l : Nat) : s.enumerated.role t l = s.role t l := rfl

/-- What no write of a register changes, the choice of a clock plan leaves alone. -/
theorem State.applyClock_frame {β : Type} (f : State → β) (hf : ∀ u c y, f (State.setReg u c y) = f u) (cls : Nat) :
    f (s.applyClock cls) = f s := by
  simp only [State.applyClock]
  split <;> exact (hf _ _ _).trans (hf _ _ _)

@[simp] theorem State.applyClock_boot (s : State) (cls : Nat) : (s.applyClock cls).boot = s.boot :=
  State.applyClock_frame State.boot (fun _ _ _ => rfl) cls

@[simp] theorem State.applyClock_role (s : State) (cls t l : Nat) : (s.applyClock cls).role t l = s.role t l :=
  State.applyClock_frame (State.role · t l) (fun _ _ _ => rfl) cls

@[simp] theorem State.writeContext0_boot (s : State) : s.writeContext0.boot = s.boot := by simp only [State.writeContext0]
@[simp] theorem State.writeContext0_board (s : State) : s.writeContext0.board = s.board := by simp only [State.writeContext0]

/-- The configuration block is written into registers and memory; then a plan that the validator refuses fails the start
with reason 6, and an accepted one stands when stage 3 is entered (R447, R449). -/
theorem State.configure_cases (s : State) : ∃ u : State,
    (planError s.bootPlan s.board.cls ≠ 0 ∧ u.boot = s.boot ∧ s.configure = u.failStart 6) ∨
      (planError s.bootPlan s.board.cls = 0 ∧ u.boot.plan = s.bootPlan ∧
        (∀ i < 8, u.role (i / 4) (i % 4) = planRole s.bootPlan i) ∧ s.configure = u.enterStage 3) := by
  unfold State.configure
  extract_lets min plan s₁ s₂ s₃ s₄ written e b planned applied budgeted
  have hwritten : written.boot = s.boot ∧ written.board = s.board := by
    simp [written, s₄, s₃, s₂, s₁, apply_ite State.boot, apply_ite State.board]
  have he : e = planError s.bootPlan s.board.cls := by simp only [e, hwritten.2, plan]
  have hplan : (budgeted.setPart 32 32 1).boot.plan = plan := by simp [budgeted, applied, planned]
  have hrole : ∀ i < 8, (budgeted.setPart 32 32 1).role (i / 4) (i % 4) = planRole plan i := fun i hi => by
    simp [budgeted, applied, State.applyRoles_role _ _ hi]
  by_cases hok : e = 0
  · rw [if_neg (not_not.2 hok)]
    exact ⟨budgeted.setPart 32 32 1, .inr ⟨he ▸ hok, hplan, hrole, rfl⟩⟩
  · rw [if_pos hok]
    exact ⟨written.setErr e, .inl ⟨he ▸ hok, hwritten.1, rfl⟩⟩

theorem exec_configure_refused (h : ¬ s.noStage = true) (hk : s.boot.stage = 2) (he : planError s.bootPlan s.board.cls ≠ 0) :
    ∃ t, exec (.bootStage .ok) s = .next t ∧ t.boot.stage = 0 ∧ t.boot.reason = 6 ∧ t.boot.fails = s.boot.fails + 1 := by
  obtain ⟨u, ⟨-, hb, hu⟩ | ⟨h0, -⟩⟩ := s.configure_cases
  · exact ⟨_, (exec_bootStage_ok_of_stage2 h hk).trans (congrArg _ hu), rfl, rfl, (u.failStart_fails 6).trans (by rw [hb])⟩
  · exact absurd h0 he

theorem exec_configure_accepted (h : ¬ s.noStage = true) (hk : s.boot.stage = 2) (he : planError s.bootPlan s.board.cls = 0) :
    ∃ t, exec (.bootStage .ok) s = .next t ∧ t.boot.stage = 3 ∧ t.boot.plan = s.bootPlan ∧
      ∀ i < 8, t.role (i / 4) (i % 4) = planRole s.bootPlan i := by
  obtain ⟨u, ⟨h0, -⟩ | ⟨-, hplan, hrole, hu⟩⟩ := s.configure_cases
  · exact absurd he h0
  · exact ⟨_, (exec_bootStage_ok_of_stage2 h hk).trans (congrArg _ hu), rfl, hplan, hrole⟩

/-- What no write of a register changes, the enabling of the ports leaves alone. -/
theorem State.enablePorts_frame {β : Type} (f : State → β) (hf : ∀ u c y, f (State.setReg u c y) = f u) :
    f s.enablePorts = f s := by
  unfold State.enablePorts
  split
  · rfl
  · refine List.foldlRecOn (motive := fun u => f u = f s) _ _ rfl fun u hu l _ => ?_
    split
    · exact (hf _ _ _).trans hu
    · exact hu

/-! ### Clock plans (O60) -/

theorem exec_calc_of_roleChange (h : s.phase ≠ 0) : exec .calc s = .next (s.calcResult 2 0) := if_pos h

theorem exec_calc_of_emptyBand (h : s.phase = 0) (hb : s.bands.any (fun b => decide (b.2 < b.1)) = true) :
    exec .calc s = .next (s.calcResult 3 0) := (if_neg (not_not.2 h)).trans (if_pos hb)

/-- A class that names no frequency gets a free plan. -/
theorem exec_calc_of_noClass (h : s.phase = 0) (hb : s.bands.any (fun b => decide (b.2 < b.1)) = false)
    (hc : planClass (s.reg regPartplan) = 0 ∨ planClass (s.reg regPartplan) = 3) :
    exec .calc s = .next ((s.freeWord.2.calcResult 0 0).setReg regClknext
      (setField (setField s.freeWord.1 60 2 (planClass (s.reg regPartplan))) 62 2 0)) :=
  ((if_neg (not_not.2 h)).trans (if_neg (Bool.eq_false_iff.1 hb))).trans (if_pos hc)

theorem exec_calc_of_class (h : s.phase = 0) (hb : s.bands.any (fun b => decide (b.2 < b.1)) = false)
    (hc : planClass (s.reg regPartplan) = 1 ∨ planClass (s.reg regPartplan) = 2) :
    (∀ k, planSteps s.bands (planClass (s.reg regPartplan)) 0 5 = .error k → exec .calc s = .next (s.calcResult 1 k)) ∧
    (∀ fs, planSteps s.bands (planClass (s.reg regPartplan)) 0 5 = .ok fs →
      exec .calc s = .next ((s.calcResult 0 0).setReg regClknext (BitVec.ofNat 64 (planClass (s.reg regPartplan) * 2 ^ 60 +
        ((fs.zipIdx).map fun e => e.1 * 2 ^ (12 * e.2)).foldl (· + ·) 0)))) := by
  have hn : ¬ (planClass (s.reg regPartplan) = 0 ∨ planClass (s.reg regPartplan) = 3) := by omega
  refine ⟨fun k hk => ?_, fun fs hk => ?_⟩ <;>
  · refine ((if_neg (not_not.2 h)).trans (if_neg (Bool.eq_false_iff.1 hb))).trans ((if_neg hn).trans ?_)
    simp only [hk]

/-- A step that is found clears the bands, lies at or below `f`, and keeps to 96 per cent of `top` where `f` does (R453). -/
theorem clearStep_spec {bands : List (Nat × Nat)} {top f fuel g : Nat} (h : clearStep bands top f fuel = some g) :
    hitsBand bands g = false ∧ g ≤ f ∧ (96 * top ≤ 100 * f → 96 * top ≤ 100 * g) := by
  induction fuel generalizing f with
  | zero =>
    simp only [clearStep] at h
    split at h
    · next hclear => cases h; exact ⟨by simpa using hclear, le_rfl, id⟩
    · cases h
  | succ n ih =>
    simp only [clearStep] at h
    split at h
    · next hclear => cases h; exact ⟨by simpa using hclear, le_rfl, id⟩
    · split at h
      · cases h
      · next habove =>
        obtain ⟨hclear, hle, hmin⟩ := ih h
        exact ⟨hclear, by omega, fun _ => hmin (by omega)⟩

/-- Each of the steps found is the one that `clearStep` finds below the class's own. -/
theorem planSteps_spec {bands : List (Nat × Nat)} {cls k n : Nat} {fs : List Nat} (h : planSteps bands cls k n = .ok fs) :
    fs.length = n ∧ ∀ j < n, clearStep bands (nominalStep cls (k + j)) (nominalStep cls (k + j)) (nominalStep cls (k + j)) =
      some (fs.getD j 0) := by
  induction n generalizing k fs with
  | zero => cases h; simp
  | succ n ih =>
    simp only [planSteps] at h
    split at h
    · cases h
    · next f hf =>
      split at h
      · cases h
      · next r hr =>
        cases h
        obtain ⟨hlen, hstep⟩ := ih hr
        refine ⟨by simp [hlen], fun j hj => ?_⟩
        cases j with
        | zero => exact hf
        | succ j => simpa [Nat.add_right_comm, Nat.add_assoc] using hstep j (by omega)

/-! ### Attestation and the power cap (O60) -/

theorem exec_attctlGo_of_busy (h : (s.reg regAttctl).getLsbD 1 = true) :
    exec .attctlGo s = .next (s.setRegBit regAttctl 2) := if_pos h

theorem exec_attctlGo_of_idle (h : (s.reg regAttctl).getLsbD 1 = false) :
    exec .attctlGo s = .next ((s.setRegBit regAttctl 1).push .attestDone) := if_neg (Bool.eq_false_iff.1 h)

theorem exec_attestDone_of_idle (h : (s.reg regAttctl).getLsbD 1 = false) : exec .attestDone s = .next s :=
  if_pos (by rw [h]; rfl)

/-- The report of R451 with its signature. -/
def State.signedReport (s : State) : List Byte :=
  s.report ++ (List.range 512).map fun k => Config.attestationByte s.report k

theorem exec_attestDone_of_busy (h : (s.reg regAttctl).getLsbD 1 = true) :
    exec .attestDone s = .next ((s.setRegs (blockAddr 0 0 0x800) (wordsOfBytes s.signedReport)).setReg regAttctl
      (setField (s.reg regAttctl) 1 1 0)) := if_neg (by rw [h]; decide)

theorem wordsOfBytes_natToBytes_append (n : Nat) (bs : List Byte) :
    wordsOfBytes (natToBytes 8 n ++ bs) = BitVec.ofNat 64 n :: wordsOfBytes bs := by
  have hlen : (natToBytes 8 n ++ bs).length / 8 = bs.length / 8 + 1 := by simp
  have hfirst : (natToBytes 8 n ++ bs).take 8 = natToBytes 8 n := List.take_left' (natToBytes_length 8 n)
  have hrest (i : Nat) : (natToBytes 8 n ++ bs).drop (8 * (i + 1)) = bs.drop (8 * i) := by
    rw [Nat.mul_succ, Nat.add_comm, ← List.drop_drop, List.drop_left' (natToBytes_length 8 n)]
  have hvalue : BitVec.ofNat 64 (bytesToNat (natToBytes 8 n)) = BitVec.ofNat 64 n := by
    rw [bytesToNat_natToBytes]; exact BitVec.eq_of_toNat_eq (by simp)
  simp only [wordsOfBytes, hlen, List.range_succ_eq_map, List.map_cons, List.map_map, Nat.mul_zero, List.drop_zero, hfirst,
    hvalue, Function.comp_def, Nat.succ_eq_add_one, hrest]

/-- The report begins with the format word of R451. -/
theorem wordsOfBytes_signedReport (s : State) : ∃ ws, wordsOfBytes s.signedReport = 0x000000014C394154 :: ws := by
  simp only [State.signedReport, State.report, List.append_assoc]
  exact ⟨_, wordsOfBytes_natToBytes_append _ _⟩

theorem getLsbD_setField_zero (x : Word) (i : Nat) (h : i < 64) : (setField x i 1 0).getLsbD i = false := by
  have hmask : (BitVec.ofNat 64 ((2 ^ 1 - 1) * 2 ^ i)).getLsbD i = true := by
    rw [BitVec.getLsbD_ofNat, show (2 ^ 1 - 1) * 2 ^ i = 2 ^ i by omega, Nat.testBit_two_pow_self, decide_eq_true h]; rfl
  simp only [setField, BitVec.getLsbD_or, BitVec.getLsbD_and, BitVec.getLsbD_not, hmask]
  simp

/-- The end of a report clears BUSY and leaves the report's first word at 0x800. -/
theorem attestDone_regs (h : (s.regs.map (·.1)).Pairwise (· < ·)) {t : State}
    (ht : t = (s.setRegs (blockAddr 0 0 0x800) (wordsOfBytes s.signedReport)).setReg regAttctl
      (setField (s.reg regAttctl) 1 1 0)) :
    (t.reg regAttctl).getLsbD 1 = false ∧ t.reg (blockAddr 0 0 0x800) = 0x000000014C394154 := by
  subst ht
  obtain ⟨ws, hws⟩ := wordsOfBytes_signedReport s
  constructor
  · rw [State.reg_setReg_self (State.keys_pairwise_setRegs h)]
    exact getLsbD_setField_zero _ 1 (by decide)
  · rw [State.reg_setReg_ne _ _ (by decide), hws]
    exact State.reg_setRegs_cons _ h

/-- The clock step after the power cap's look (R454). -/
def State.cappedStep (s : State) (w : Nat) : Nat :=
  if s.boot.minimal then s.pwrStep else if s.powerCap < w then min 4 (s.pwrStep + 1)
  else if 100 * w < 95 * s.powerCap then s.pwrStep - 1 else s.pwrStep

theorem exec_powerCapStep (w : Nat) : exec (.powerCapStep w) s = .next { s with watts := w, pwrStep := s.cappedStep w } := by
  have hcap : ({ s with watts := w } : State).powerCap = s.powerCap := rfl
  change execPowerCapStep w s = _
  simp only [execPowerCapStep, hcap, State.cappedStep]
  split_ifs <;> rfl

end

/-- Settles O60: each event by its equation for the case at hand, the plan of CALC by the search's own bound at each step,
and the report by what a row of registers leaves at its first address. -/
theorem startsRunThroughTheirStages : Obligations.StartsRunThroughTheirStages := by
  refine ⟨?starts, ?power, ?stages, ?plan, ?steps, ?attest, ?cap⟩
  case starts => exact fun s b kept => ⟨_, rfl, rfl, rfl, rfl, rfl, rfl, rfl, rfl, rfl, rfl, rfl⟩
  case power =>
    refine fun s => ⟨exec_powerOn_of_powered, fun hoff => ?_, fun hon => ⟨?_, fun hnt => ⟨?_, ?_⟩, fun ht => ⟨?_, ?_⟩⟩,
      exec_tripRelease_of_trip, exec_tripRelease_of_noTrip⟩
    · have hno : s.noStage = true := noStage_iff.2 (.inr (.inr (.inl hoff)))
      exact ⟨exec_powerOn_of_off hoff, exec_lossOfPower_of_off hoff, exec_reset_of_held (.inl hoff),
        exec_thermalTrip_of_held (.inl hoff), exec_bootStage_of_noStage hno, exec_bootWatchdog_of_noStage hno⟩
    · exact ⟨_, exec_lossOfPower_of_powered hon, rfl, rfl, rfl, rfl, rfl, s.ended_fails 0, rfl⟩
    · exact exec_reset_of_powered hon hnt
    · exact ⟨_, exec_thermalTrip_of_powered hon hnt, rfl, rfl, rfl, rfl, rfl, s.ended_fails 8, rfl⟩
    · exact exec_reset_of_held (.inr ht)
    · exact exec_thermalTrip_of_held (.inr ht)
  case stages =>
    refine fun s => ⟨fun hidle => ?_, fun hst hrec hnt hon => ?_, ?_⟩
    · have hno : s.noStage = true := noStage_iff.2 (by tauto)
      exact ⟨exec_bootStage_of_noStage hno, exec_bootWatchdog_of_noStage hno⟩
    · have hin : ¬ s.noStage = true := by simp [noStage_iff, hst, hrec, hnt, hon]
      refine ⟨exec_bootWatchdog_of_stage hin, fun k h0 hmin hk => ?_, fun k hk => ?_, fun h0 => ?_, fun h1 => ?_,
        fun h2 => ⟨exec_configure_accepted hin h2, exec_configure_refused hin h2⟩, fun h3 => ?_⟩
      · exact ⟨_, (exec_bootStage_fail hin k).trans (if_pos ⟨h0, hmin, hk⟩), rfl, rfl, rfl⟩
      · refine (exec_bootStage_fail hin k).trans (if_neg fun ⟨h0, hmin, h12⟩ => ?_)
        rcases hk with hk | hk | ⟨h1, h2⟩
        · exact hk h0
        · simp [hmin] at hk
        · exact h12.elim h1 h2
      · exact ⟨_, exec_bootStage_ok_of_stage0 hin h0, rfl⟩
      · exact ⟨_, exec_bootStage_ok_of_stage1 hin h1, rfl⟩
      · exact ⟨_, exec_bootStage_ok_of_stage3 hin h3, rfl, rfl, rfl, State.enablePorts_frame State.mem fun _ _ _ => rfl,
          State.enablePorts_frame State.agenda fun _ _ _ => rfl⟩
    · exact ⟨fun hrec v => exec_recgo_of_refused (.inl hrec), exec_recgo_of_refused (.inr rfl),
        fun hrec => ⟨_, exec_recgo_of_valid hrec, rfl, rfl, rfl⟩⟩
  case plan =>
    rintro s cls rfl
    exact ⟨exec_calc_of_roleChange, exec_calc_of_emptyBand, fun h hb =>
      ⟨fun hc => ⟨_, _, exec_calc_of_noClass h hb hc, rfl, rfl⟩, exec_calc_of_class h hb⟩⟩
  case steps =>
    intro bands cls k fs hfs hk
    obtain ⟨hlen, hstep⟩ := planSteps_spec hfs
    obtain ⟨hclear, hle, hmin⟩ := clearStep_spec (hstep k hk)
    rw [Nat.zero_add] at hle hmin
    exact ⟨hlen, hle, hmin (by omega), hclear⟩
  case attest =>
    refine fun s => ⟨fun hbusy => ⟨exec_attctlGo_of_busy hbusy, _, exec_attestDone_of_busy hbusy, ?_, ?_, ?_, ?_⟩,
      fun hidle => ⟨exec_attestDone_of_idle hidle, exec_attctlGo_of_idle hidle⟩⟩
    · exact State.setReg_setRegs_frame State.mem fun _ _ _ => rfl
    · exact State.setReg_setRegs_frame State.cur fun _ _ _ => rfl
    · exact State.setReg_setRegs_frame State.agenda fun _ _ _ => rfl
    · exact fun hkeys => attestDone_regs hkeys rfl
  case cap => exact fun s w => ⟨_, exec_powerCapStep w, rfl, rfl, rfl, rfl, rfl⟩

end Sys2Proof.Machine

namespace Sys2Proof.Machine

/-! ### Widenings (O33) -/

section
variable {s : State} {k : Nat} {w : Widening}

/-- A pass over a unit in which nothing waits changes nothing. -/
theorem State.pass_of_noWaiters {unit : Nat} (h : s.waitersOf unit = []) : s.pass unit = s := by
  simp only [State.pass, h]
  rfl

/-- An empty snapshot ends its widening at once, any other waits for its accesses (R134 step 3). -/
theorem exec_widen_of_open (h : s.widens.find? (fun v => decide (v.key = k ∧ v.snap = none)) = some w) {snap : List Nat}
    (hsnap : snap = ((s.core w.core).unacked.filter fun e => decide (e.1 = w.unit)).map (fun e => e.2.1)) {t : State}
    (ht : t = { s with widens := s.widens.map fun v => if v = w then { v with snap := some snap } else v }) :
    exec (.widen k) s = .next (if snap = [] then t.push (.widened k) else t) := by
  change execWiden k s = _
  simp only [execWiden, h, ← hsnap, ← ht, List.isEmpty_iff]

/-- A widening whose snapshot is empty ends, and with no waiter of its unit nothing else changes (R134 step 4). -/
theorem exec_widened_of_drained (h : s.widens.find? (fun v => decide (v.key = k ∧ v.snap = some [])) = some w) {t : State}
    (ht : t = if w.rewritten then { s with widens := s.widens.erase w }
      else ({ s with widens := s.widens.erase w } : State).setSide k
        (mkSide 6 (sideDepth (s.sideOf k)) (sideState (s.sideOf k)) (sideVersion (s.sideOf k))))
    (hw : (t.pushAll (w.acquirers.map Ev.released)).waitersOf (k / 64) = []) :
    exec (.widened k) s = .next (t.pushAll (w.acquirers.map Ev.released)) := by
  change execWidened k s = _
  simp only [execWidened, h, ← ht, State.pass_of_noWaiters hw]

end

/-! ### Translation walks (O33) -/

section
variable {s : State}

theorem State.readGuard_of_noErrors (hp : s.poison = []) (hb : s.badRead = []) (pa : Nat) : s.readGuard pa = (true, s) := by
  simp only [State.readGuard, State.isPoison, State.errorsAt, hp, hb]
  rfl

theorem State.guardList_of_noErrors (hp : s.poison = []) (hb : s.badRead = []) (ps : List Nat) :
    s.guardList ps = (none, s) := by
  induction ps with
  | nil => rfl
  | cons p r ih =>
    simp only [State.guardList, State.readGuard_of_noErrors hp hb, if_true]
    exact ih

theorem State.findUpper_of_noUpper (hu : s.upper = []) (die : Nat) (c : Byte) (space level va : Nat) :
    s.findUpper die c space level va = none := by
  simp only [State.findUpper, hu]
  rfl

theorem State.addUpper_eq (die : Nat) (c : Byte) (space level va : Nat) (e : Word) :
    ∃ us, s.addUpper die c space level va e = { s with upper := us } := by
  unfold State.addUpper
  split
  · exact ⟨s.upper, rfl⟩
  · exact ⟨_, rfl⟩

/-- An entry kept for one level is none of another. -/
theorem State.findUpper_addUpper_of_noUpper (hu : s.upper = []) {level other : Nat} (h : other ≠ level) (die : Nat) (c : Byte)
    (space va : Nat) (e : Word) : (s.addUpper die c space level va e).findUpper die c space other va = none := by
  unfold State.addUpper
  split
  · exact State.findUpper_of_noUpper hu ..
  · simp [State.findUpper, hu, keepFirst, h.symm]

/-- A walk of the tables in memory as the walk of a die ends. -/
def walkEndOf : Except (Nat × Nat) Tlb → WalkEnd
  | .ok e => .ok e
  | .error (reason, level) => .fail reason level

/-- A die that caches no entry and meets no error walks the tables in memory, and only its cache may change (R45–R48, R50). -/
theorem State.tableWalk_of_noUpper (hu : s.upper = []) (hp : s.poison = []) (hb : s.badRead = []) (die : Nat) (c : Byte)
    (space va : Nat) :
    ∃ us, s.tableWalk die c space va = (walkEndOf (walk s.mem c space ((s.desc c).root space) va), { s with upper := us }) := by
  have hclean (us : List Upper) (ps : List Nat) :
      ({ s with upper := us } : State).guardList ps = (none, { s with upper := us }) :=
    State.guardList_of_noErrors (s := { s with upper := us }) hp hb ps
  cases hroot : ((s.desc c).root space).getLsbD 0 with
  | false => exact ⟨s.upper, by simp only [State.tableWalk, walk, hroot]; rfl⟩
  | true =>
    have htop := State.findUpper_of_noUpper hu die c space 2 va
    generalize he2 : readWord s.mem (topAddr ((s.desc c).root space) va) = e2
    generalize he1 : readWord s.mem (midAddr e2 va) = e1
    have hmid := State.findUpper_addUpper_of_noUpper hu (other := 1) (level := 2) (by decide) die c space va e2
    obtain ⟨us, hus⟩ := s.addUpper_eq die c space 2 va e2
    obtain ⟨vs, hvs⟩ : ∃ vs, (if isTable e2 then ({ s with upper := us } : State).addUpper die c space 1 va e1
        else { s with upper := us }) = { s with upper := vs } := by
      split
      · exact State.addUpper_eq ..
      · exact ⟨us, rfl⟩
    rw [hus] at hmid
    refine ⟨vs, ?_⟩
    simp only [State.tableWalk, walk, hroot, htop, State.guardList_of_noErrors hp hb, hclean, Option.getD_none, he2, hus, hmid, he1,
      hvs]
    cases walkFrom s.mem c space e2 e1 va <;> rfl

/-- A change of a process stays in the table of processes. -/
theorem State.updProc_eq (s : State) (pid : Nat) (f : Proc → Proc) :
    ∃ p ps, s.updProc pid f = { s with cur := p, procs := ps } := by
  rcases s.updProc_cases pid f with ⟨-, h⟩ | ⟨-, h⟩
  · exact ⟨_, s.procs, h⟩
  · exact ⟨s.cur, _, h⟩

/-- A request sent to its owner changes its process, and no other part of the state but the steps to take. -/
theorem State.toOwner_eq (s : State) (r : Req) (pa space : Nat) : ∃ p ps sc,
    s.toOwner r pa space = ({ s with cur := p, procs := ps } : State).push
      (ownerStep { r with pa := pa, space := space, scope := sc }) := by
  unfold State.toOwner
  extract_lets o q t
  obtain ⟨p, ps, h⟩ := s.updProc_eq q.agent.pid fun p =>
    { p with outst := p.outst.map fun x => if x.sn = q.sn then { x with owner := o } else x }
  exact ⟨p, ps, _, congrArg (State.push · _) h⟩

theorem State.walkFails_of_proc {r : Req} {pid : Nat} (h : r.agent = .proc pid) (cause : Nat) (words : List Word) :
    s.walkFails r cause words = s.push (replyEv r (failDone r cause words)) := by
  simp only [State.walkFails, State.failAt, State.answer, failDone, h]
  rfl

theorem State.takeSlots_of_noMisses (h : s.walkQ = []) (die : Nat) : s.takeSlots die s.walkQ.length = s := by
  rw [h]
  rfl

theorem State.relook_of_noneWaits (h : s.walkWait = []) : s.relook = s := by
  cases s
  cases h
  rfl

section
variable {x : Walk} {r : Req} {t : State}

/-- The tables refuse the address: the one access that waits is answered with XLATE_FAULT (R47, R50). -/
theorem State.endWalk_of_fail {reason level pid : Nat} (hjoined : x.joined = [r]) (hagent : r.agent = .proc pid)
    (hwalk : ({ s with walks := s.walks.erase x } : State).tableWalk x.die x.ctx x.space (x.vpage * 2 ^ 16) =
      (.fail reason level, t)) (hq : t.walkQ = []) (hw : t.walkWait = []) :
    (s.endWalk x).2 = t.push (replyEv r (failDone r 0x042 [xlateWord reason level r.op.need])) := by
  simp only [State.endWalk, hwalk, hjoined, List.foldl, walkEnds, State.walkFails_of_proc hagent]
  generalize hu : t.push (replyEv r (failDone r 0x042 [xlateWord reason level r.op.need])) = u
  rw [State.takeSlots_of_noMisses (hu ▸ hq), State.relook_of_noneWaits (hu ▸ hw)]

/-- The walk finds an entry: it joins the cache of the requester's bench, and the one access that waits goes on to its owner
(R49, R50). -/
theorem State.endWalk_of_ok {e : Tlb} {pa : Nat} (hjoined : x.joined = [r])
    (hwalk : ({ s with walks := s.walks.erase x } : State).tableWalk x.die x.ctx x.space (x.vpage * 2 ^ 16) = (.ok e, t))
    (hmiss : t.findTlb (tlbUnit r.core) x.ctx x.space (x.vpage * 2 ^ 16) = none)
    (huse : useTlb e r.space (r.va.toNat % 2 ^ 53) r.op.need = .ok pa 0) (hq : t.walkQ = []) (hw : t.walkWait = []) :
    (s.endWalk x).2 = (t.addTlb (tlbUnit r.core) e).toOwner r pa 0 := by
  have hcache : t.cacheEntry (tlbUnit r.core) x.ctx x.space (x.vpage * 2 ^ 16) e = t.addTlb (tlbUnit r.core) e := by
    simp only [State.cacheEntry, hmiss]
    rfl
  have hends : walkEnds (t.addTlb (tlbUnit r.core) e) r (.ok e) = (t.addTlb (tlbUnit r.core) e).toOwner r pa 0 := by
    simp only [walkEnds, huse]
    exact if_neg (by simp)
  obtain ⟨p, ps, sc, hto⟩ := (t.addTlb (tlbUnit r.core) e).toOwner_eq r pa 0
  simp only [State.endWalk, hwalk, hjoined, List.foldl, hcache, hends]
  rw [State.takeSlots_of_noMisses (by rw [hto]; exact hq), State.relook_of_noneWaits (by rw [hto]; exact hw)]

end

theorem exec_translationWalk_of_find {x : Walk} {die : Nat} {c : Byte} {space vpage : Nat}
    (h : s.walks.find? (fun v => decide (v.die = die ∧ v.ctx = c ∧ v.space = space ∧ v.vpage = vpage)) = some x) :
    exec (.translationWalk die c space vpage) s = .next (s.endWalk x).2 := by
  change execTranslationWalk die c space vpage s = _
  simp only [execTranslationWalk, Walk.of, h]

end

/-- Settles O33: each event by its equation, and a walk by what the tables in memory answer to a die without cached entries. -/
theorem wideningsDrainAndRelease : Obligations.WideningsDrainAndRelease := by
  refine fun s k w => ⟨fun hw snap t hsnap ht => exec_widen_of_open hw hsnap ht, ?widened, ?released, fun h => rfl,
    fun p f => rfl, fun n t => rfl, ?walk⟩
  case widened =>
    rintro hw t ht u rfl hno
    exact exec_widened_of_drained hw ht hno
  case released => exact fun pid hpid => if_pos hpid
  case walk =>
    rintro x r va rfl hfind hjoined ⟨pid, hagent⟩ hq hw hu hp hb
    have hexec := exec_translationWalk_of_find hfind
    obtain ⟨us, hwalk⟩ : ∃ us, ({ s with walks := s.walks.erase x } : State).tableWalk x.die x.ctx x.space (x.vpage * 2 ^ 16) =
        (walkEndOf (walk s.mem x.ctx x.space ((s.desc x.ctx).root x.space) (x.vpage * 2 ^ 16)),
          { s with walks := s.walks.erase x, upper := us }) :=
      State.tableWalk_of_noUpper (s := { s with walks := s.walks.erase x }) hu hp hb x.die x.ctx x.space (x.vpage * 2 ^ 16)
    constructor
    · intro reason level herr
      rw [herr] at hwalk
      have hend := State.endWalk_of_fail hjoined hagent hwalk hq hw
      exact ⟨_, _, hexec.trans (congrArg _ hend), rfl, rfl, rfl, rfl, rfl, rfl, rfl⟩
    · intro e pa hok hx hr hmiss huse
      rw [hok] at hwalk
      have hend := State.endWalk_of_ok hjoined hwalk (hx ▸ hmiss) (by rw [hr]; exact huse) hq hw
      obtain ⟨p, ps, sc, hto⟩ := State.toOwner_eq _ r pa 0
      exact ⟨_, _, hexec.trans (congrArg _ (hend.trans hto)), rfl, List.mem_cons_self, rfl, rfl, rfl⟩

/-! ### Engine commands at issue (O49) -/

/-- What lets an engine command read the `n` words of its descriptor at `va`, and what the read brings (R382). -/
structure DescReads (s : State) (va : Word) (n : Nat) (ws : List Word) (u : State) : Prop where
  performed : s.speculating = false
  access : s.cur.mayAccess = true
  score : s.scoreOk va (8 * n) false = true
  words : descWords s va n = (.ok ws, u)

/-- What lets an engine command for queue `q` begin to issue (R56, R382). -/
structure EngBegins (s : State) (va : Word) (q : Nat) : Prop where
  aligned : va.toNat % 8 = 0
  unfrozen : (s.engine q).frozen = false
  stores : s.cur.finished s.cur.holdSt = true

/-- The command joins queue `q`: it is counted, its ranges stand in the scoreboard, and it is sent (R71, R287, R382). -/
def EngJoins (s : State) (q : Nat) (ranges : List (Word × Nat × Bool)) (c : EngCmd) (t : State) : Prop :=
  s.cur.cnt.full .copies = false ∧ s.engFull q = false ∧ ∃ y, s.takeScore ranges .copies (s.accs + 1) = some y ∧
    t = ({ y with accs := y.accs + 1, cur := { y.cur with cnt := y.cur.cnt.up .copies } }).sendCmd (.eng q c)

/-- The source range of a tensor descriptor. -/
def tensorSrc (ws : List Word) : Word × Nat := tensorRange (ws.getD 0 0) (tensorReach TDim.ss (tensorDims ws)) (tensorEs ws)

/-- The destination range of a tensor descriptor. -/
def tensorDst (ws : List Word) : Word × Nat := tensorRange (ws.getD 1 0) (tensorReach TDim.ds (tensorDims ws)) (tensorEs ws)

/-- A control word of `hload` that R313 refuses: a reserved bit, or a count of bundles that is 0 or above 2,048. -/
def badHload (ctl : Word) : Prop := field ctl 1 47 ≠ 0 ∨ field ctl 48 16 = 0 ∨ 2048 < field ctl 48 16

section
variable {s u z t : State} {l : Lone} {a b : Reg} {p : BitVec 1} {q n : Nat} {ws : List Word} {c : EngCmd}
  {ranges : List (Word × Nat × Bool)} {k : State → List Word → Out}

theorem withMore_of_reads {va : Word} (h : DescReads s va n ws u) : withMore s va n k = k u ws := by
  simp [withMore, h.performed, h.access, h.score, h.words]

theorem withWords_of_reads {va : Word} (h : DescReads s va n ws u) : withWords s va n k = k u.dropWords ws :=
  withMore_of_reads h

theorem engMore_of_misaligned (h : (s.descOp l b).toNat % 8 ≠ 0) : engMore s l b q n k = raiseO s 0x040 (s.descOp l b) :=
  if_pos h

theorem engMore_of_frozen (ha : (s.descOp l b).toNat % 8 = 0) (hf : (s.engine q).frozen = true) :
    engMore s l b q n k = .next (s.raiseAfter 0x180 (s.descOp l b) [] none) :=
  (if_neg (not_not.2 ha)).trans (if_pos hf)

theorem engMore_of_reads (hb : EngBegins s (s.descOp l b) q) (h : DescReads s (s.descOp l b) n ws u) :
    engMore s l b q n k = k u ws := by
  simp [engMore, hb.aligned, hb.unfrozen, hb.stores, h.access, withMore_of_reads h]

theorem engStart_of_reads (hb : EngBegins s (s.descOp l b) q) (h : DescReads s (s.descOp l b) n ws u) :
    engStart s l b q n k = k u.dropWords ws := engMore_of_reads hb h

/-- A command whose completion word stands joins its queue. -/
theorem engEnqueue_of_joins {va : Word} (hdone : doneCheck s va c.done = (none, z)) (h : EngJoins z q ranges c t) :
    engEnqueue s q va ranges c = .next t := by
  obtain ⟨hcnt, hroom, y, hy, rfl⟩ := h
  simp [engEnqueue, hdone, enqueueCmd, hcnt, hroom, hy]

/-! ### Copies (O49) -/

theorem exec_cpy_of_badDesc (hb : EngBegins s (s.descOp l b) s.copyQueue) (h : DescReads s (s.descOp l b) 4 ws u)
    (hd : copyDesc ws = none) : exec (.cpy l a b p) s = .next (u.dropWords.raiseAfter 0x143 (s.descOp l b) [] none) := by
  change execCpy l a b p s = _
  simp only [execCpy, engStart_of_reads hb h, hd]
  rfl

theorem exec_cpy_of_overlap (hb : EngBegins s (s.descOp l b) s.copyQueue) (h : DescReads s (s.descOp l b) 4 ws u)
    {d : CopyDesc} (hd : copyDesc ws = some d) (hmeet : u.dropWords.rangesMeet d.src d.len d.dst d.dlen = true) :
    exec (.cpy l a b p) s = .next (u.dropWords.raiseAfter 0x143 (s.descOp l b) [] none) := by
  change execCpy l a b p s = _
  simp only [execCpy, engStart_of_reads hb h, hd]
  exact if_pos hmeet

/-- A copy joins its queue; one that rounds stochastically has drawn for its process (R243, R384). -/
theorem exec_cpy_of_joins (hb : EngBegins s (s.descOp l b) s.copyQueue) (h : DescReads s (s.descOp l b) 4 ws u)
    {d : CopyDesc} (hd : copyDesc ws = some d) (hmeet : u.dropWords.rangesMeet d.src d.len d.dst d.dlen = false)
    (hdone : doneCheck u.dropWords (s.descOp l b) (u.dropWords.g a) = (none, z))
    (ht : EngJoins z u.dropWords.copyQueue [(d.src, d.len, false), (d.dst, d.dlen, true)]
      (u.dropWords.engCmd .copy ws (u.dropWords.g a) (p == 1)) t) :
    exec (.cpy l a b p) s = if (d.conv.isSome && field u.dropWords.fcr 0 3 == 4) && !t.notPerformed && t.cur.st != .faulted
      then .next { t with cur := { t.cur with rs := drawRs u.dropWords.cur.rs } } else .next t := by
  have henq := engEnqueue_of_joins (c := u.dropWords.engCmd .copy ws (u.dropWords.g a) (p == 1)) hdone ht
  change execCpy l a b p s = _
  simp only [execCpy, engStart_of_reads hb h, hd, hmeet, henq]
  rfl

theorem exec_tcpy_of_badHead (hb : EngBegins s (s.descOp l b) s.copyQueue) (h : DescReads s (s.descOp l b) 4 ws u)
    (hhead : tensorHeadOk ws = false) :
    exec (.tcpy l a b p) s = .next (u.dropWords.raiseAfter 0x143 (s.descOp l b) [] none) := by
  refine (engMore_of_reads hb h).trans ?_
  simp only [hhead]
  rfl

section
variable {v : State} {xs : List Word}

theorem exec_tcpy_of_badDesc (hb : EngBegins s (s.descOp l b) s.copyQueue) (h : DescReads s (s.descOp l b) 4 ws u)
    (hhead : tensorHeadOk ws = true) (hmore : DescReads u (s.descOp l b) (4 + 2 * field (ws.getD 2 0) 0 5) xs v)
    (hbad : tensorOk xs = false) :
    exec (.tcpy l a b p) s = .next (v.dropWords.raiseAfter 0x143 (s.descOp l b) [] none) := by
  refine (engMore_of_reads hb h).trans ?_
  simp only [hhead, withWords_of_reads hmore, hbad]
  rfl

theorem exec_tcpy_of_joins (hb : EngBegins s (s.descOp l b) s.copyQueue) (h : DescReads s (s.descOp l b) 4 ws u)
    (hhead : tensorHeadOk ws = true) (hmore : DescReads u (s.descOp l b) (4 + 2 * field (ws.getD 2 0) 0 5) xs v)
    (hok : tensorOk xs = true)
    (hmeet : v.dropWords.rangesMeet (tensorSrc xs).1 (tensorSrc xs).2 (tensorDst xs).1 (tensorDst xs).2 = false)
    (hdone : doneCheck v.dropWords (s.descOp l b) (v.dropWords.g a) = (none, z))
    (ht : EngJoins z v.dropWords.copyQueue
      [((tensorSrc xs).1, (tensorSrc xs).2, false), ((tensorDst xs).1, (tensorDst xs).2, true)]
      (v.dropWords.engCmd .tensor xs (v.dropWords.g a) (p == 1)) t) :
    exec (.tcpy l a b p) s = .next t := by
  refine (engMore_of_reads hb h).trans ?_
  simp only [hhead, withWords_of_reads hmore, hok]
  exact (if_neg (Bool.eq_false_iff.1 hmeet)).trans
    (engEnqueue_of_joins (c := v.dropWords.engCmd .tensor xs (v.dropWords.g a) (p == 1)) hdone ht)

end

/-! ### Deals, gathers and loads (O49) -/

theorem distribute_of_badDesc (kind : EngKind) (hb : EngBegins s (s.descOp l b) s.dealQueue)
    (h : DescReads s (s.descOp l b) 2 ws u)
    (hbad : field (ws.getD 1 0) 32 32 ≠ 0 ∨ field (ws.getD 1 0) 0 32 = 0 ∨ dpatOk u.dropWords u.dropWords.cur.dpat = false) :
    distribute s l a b p kind = .next (u.dropWords.raiseAfter 0x143 (s.descOp l b) [] none) := by
  simp only [distribute, engStart_of_reads hb h]
  exact if_pos (by simpa only [Bool.not_eq_true'] using hbad)

theorem distribute_of_joins (kind : EngKind) (hb : EngBegins s (s.descOp l b) s.dealQueue)
    (h : DescReads s (s.descOp l b) 2 ws u) (hzero : field (ws.getD 1 0) 32 32 = 0) (hlen : field (ws.getD 1 0) 0 32 ≠ 0)
    (hpat : dpatOk u.dropWords u.dropWords.cur.dpat = true)
    (hdone : doneCheck u.dropWords (s.descOp l b) (u.dropWords.g a) = (none, z)) {far : Word × Nat}
    (hfar : far = dpRange u.dropWords u.dropWords.cur.dpat (field (ws.getD 1 0) 0 32))
    (ht : EngJoins z u.dropWords.dealQueue
      (if kind = .deal then [(ws.getD 0 0, field (ws.getD 1 0) 0 32, false), (far.1, far.2, true)]
        else [(far.1, far.2, false), (ws.getD 0 0, field (ws.getD 1 0) 0 32, true)])
      (u.dropWords.engCmd kind ws (u.dropWords.g a) (p == 1)) t) :
    distribute s l a b p kind = .next t := by
  subst hfar
  have hgood : ¬ (field (ws.getD 1 0) 32 32 ≠ 0 ∨ field (ws.getD 1 0) 0 32 = 0 ∨
      (!dpatOk u.dropWords u.dropWords.cur.dpat) = true) := by
    rintro (hset | hempty | hoff)
    · exact hset hzero
    · exact hlen hempty
    · simp [hpat] at hoff
  have henq := engEnqueue_of_joins (c := u.dropWords.engCmd kind ws (u.dropWords.g a) (p == 1)) hdone ht
  simp only [distribute, engStart_of_reads hb h, if_neg hgood, henq]

theorem exec_fgload_of_misaligned (h : (s.descOp l b).toNat % 8 ≠ 0) :
    exec (.fgload l a b) s = raiseO s 0x040 (s.descOp l b) := if_pos h

theorem exec_fgload_of_noDev (ha : (s.descOp l b).toNat % 8 = 0) (hdev : (s.desc s.cur.ctx).dev = false) :
    exec (.fgload l a b) s = .next (s.raiseAfter 0x043 (s.descOp l b) [] none) :=
  (if_neg (not_not.2 ha)).trans (if_pos (by simp [hdev]))

/-- A load of a graph with DEV set goes on as its descriptor says. -/
theorem exec_fgload_of_reads (hdev : (s.desc s.cur.ctx).dev = true) (hb : EngBegins s (s.descOp l b) graphQueue)
    (h : DescReads s (s.descOp l b) 2 ws u) :
    exec (.fgload l a b) s = if !graphDescOk ws then .next (u.dropWords.raiseAfter 0x0A0 (ws.getD 0 0) [0, 0] none)
      else engEnqueue u.dropWords graphQueue (s.descOp l b) [] (u.dropWords.engCmd .fgload ws (u.dropWords.g a) false) :=
  (if_neg (not_not.2 hb.aligned)).trans ((if_neg (by simp [hdev])).trans (engStart_of_reads hb h))

theorem exec_fgload_of_badDesc (hdev : (s.desc s.cur.ctx).dev = true) (hb : EngBegins s (s.descOp l b) graphQueue)
    (h : DescReads s (s.descOp l b) 2 ws u) (hbad : graphDescOk ws = false) :
    exec (.fgload l a b) s = .next (u.dropWords.raiseAfter 0x0A0 (ws.getD 0 0) [0, 0] none) :=
  (exec_fgload_of_reads hdev hb h).trans (if_pos (by simp [hbad]))

theorem exec_fgload_of_joins (hdev : (s.desc s.cur.ctx).dev = true) (hb : EngBegins s (s.descOp l b) graphQueue)
    (h : DescReads s (s.descOp l b) 2 ws u) (hok : graphDescOk ws = true)
    (hdone : doneCheck u.dropWords (s.descOp l b) (u.dropWords.g a) = (none, z))
    (ht : EngJoins z graphQueue [] (u.dropWords.engCmd .fgload ws (u.dropWords.g a) false) t) :
    exec (.fgload l a b) s = .next t :=
  (exec_fgload_of_reads hdev hb h).trans ((if_neg (by simp [hok])).trans
    (engEnqueue_of_joins (c := u.dropWords.engCmd .fgload ws (u.dropWords.g a) false) hdone ht))

theorem exec_hload_of_misaligned (hs : s.speculating = false) (h : (s.descOp l b).toNat % 8 ≠ 0) :
    exec (.hload l a b) s = raiseO s 0x040 (s.descOp l b) := (boundary_of_not_speculating _ hs).trans (if_pos h)

theorem exec_hload_of_badControl (hs : s.speculating = false) (ha : (s.descOp l b).toNat % 8 = 0) (h : badHload (s.g a)) :
    exec (.hload l a b) s = .next (s.raiseAfter 0x143 (s.descOp l b) [] none) :=
  (boundary_of_not_speculating _ hs).trans ((if_neg (not_not.2 ha)).trans (if_pos h))

theorem exec_hload_of_running (hs : s.speculating = false) (ha : (s.descOp l b).toNat % 8 = 0) (hc : ¬ badHload (s.g a))
    (hrun : (s.helper (2 * s.cur.core + field (s.g a) 0 1)).run ≠ 0) :
    exec (.hload l a b) s = .next (s.raiseAfter 0x0C7 (s.g a) [] none) :=
  (boundary_of_not_speculating _ hs).trans ((if_neg (not_not.2 ha)).trans ((if_neg hc).trans (if_pos hrun)))

theorem exec_hload_of_joins (hs : s.speculating = false) (hb : EngBegins s (s.descOp l b) s.copyQueue)
    (hma : s.cur.mayAccess = true) (hc : ¬ badHload (s.g a))
    (hrun : (s.helper (2 * s.cur.core + field (s.g a) 0 1)).run = 0)
    (ht : EngJoins s s.copyQueue [(s.descOp l b, 8 * field (s.g a) 48 16, false)]
      (s.engCmd .hload [s.g a, s.descOp l b] 0 false) t) :
    exec (.hload l a b) s = .next t := by
  have henq := engEnqueue_of_joins (c := s.engCmd .hload [s.g a, s.descOp l b] 0 false) (va := s.descOp l b) rfl ht
  refine (boundary_of_not_speculating _ hs).trans ((if_neg (not_not.2 hb.aligned)).trans ((if_neg hc).trans
    ((if_neg (not_not.2 hrun)).trans ?_)))
  simpa [hb.unfrozen, hb.stores, hma] using henq

end

/-! ### Beats and completions of engine commands (O49) -/

/-- The command at the head of an engine queue can move: it has not stopped, and waits for no earlier access. -/
structure HeadRuns (s : State) (q : Nat) (c : EngCmd) (rest : List EngCmd) : Prop where
  head : (s.engine q).cmds = c :: rest
  unfrozen : (s.engine q).frozen = false
  unfailed : c.err = none
  unfenced : c.pre = false

section
variable {s u : State} {q : Nat} {c d : EngCmd} {rest : List EngCmd}

theorem exec_engineBeat_of_noCommand (h : (s.engine q).cmds = []) : exec (.engineBeat q) s = .next s := by
  change execEngineBeat q s = _
  simp only [execEngineBeat, h]

theorem exec_engineBeat_of_stopped (h : (s.engine q).cmds = c :: rest) (hstop : (s.engine q).frozen = true ∨ c.err.isSome = true) :
    exec (.engineBeat q) s = .next s := by
  change execEngineBeat q s = _
  simp only [execEngineBeat, h]
  exact if_pos (by simpa using hstop)

theorem exec_engineBeat_of_moved (h : HeadRuns s q c rest) (hend : c.total ≤ c.pos) :
    exec (.engineBeat q) s = .next (s.push (.commandCompletion q 0)) := by
  change execEngineBeat q s = _
  simp [execEngineBeat, h.head, h.unfrozen, h.unfailed, h.unfenced, hend]

/-- A beat that is done moves the head of its queue, and its command completes or goes on. -/
theorem exec_engineBeat_of_beat (h : HeadRuns s q c rest) (hpos : c.pos < c.total) (hbeat : nextBeat s q c = (.ok d, u)) :
    exec (.engineBeat q) s = .next (if d.total ≤ d.pos then
        ((((u.setHead q d).dropHost d.seat d.ctx).dropAsks d.seat (engUnit q)).dropScore d.core d.cmd).push (.commandCompletion q 0)
      else (((u.setHead q d).dropHost d.seat d.ctx).dropAsks d.seat (engUnit q)).push (.engineBeat q)) := by
  change execEngineBeat q s = _
  simp [execEngineBeat, h.head, h.unfrozen, h.unfailed, h.unfenced, hpos.not_ge, hbeat]

/-- A beat that fails stops its command, or ends the load of a graph (R44, R397). -/
theorem exec_engineBeat_of_fault (h : HeadRuns s q c rest) (hpos : c.pos < c.total) {f : FaultInfo}
    (hbeat : nextBeat s q c = (.error f, u)) (hf : f.cause ≠ notYet) :
    exec (.engineBeat q) s = .next (if 4096 ≤ q then u.failGraph q c f else u.stopEngine q c f) := by
  change execEngineBeat q s = _
  simp [execEngineBeat, h.head, h.unfrozen, h.unfailed, h.unfenced, hpos.not_ge, hbeat, hf, apply_ite Host.Outcome.next]

theorem exec_commandCompletion_of_noCommand (h : (s.engine q).cmds = []) (st : Nat) :
    exec (.commandCompletion q st) s = .next s := by
  change execCommandCompletion q st s = _
  simp only [execCommandCompletion, h]

theorem exec_commandCompletion_of_unmoved (h : (s.engine q).cmds = c :: rest) (hpos : c.pos < c.total) :
    exec (.commandCompletion q 0) s = .next s := by
  change execCommandCompletion q 0 s = _
  simp only [execCommandCompletion, h]
  exact if_pos ⟨trivial, .inl hpos⟩

/-- A command that has moved everything, or that a discard retires, writes its completion word if it has one, and retires (R383). -/
theorem exec_commandCompletion_of_ended (h : (s.engine q).cmds = c :: rest) {st : Nat}
    (hend : st ≠ 0 ∨ (c.total ≤ c.pos ∧ c.err = none)) :
    (c.done = 0 → exec (.commandCompletion q st) s = .next (s.retireEngine q c)) ∧
      (c.done ≠ 0 → writeDone s c.seat (engUnit q) c.ctx c.done (c.doneWord st) = (.ok (), u) →
        exec (.commandCompletion q st) s = .next (u.retireEngine q c)) := by
  have hgo : ¬ (st = 0 ∧ (c.pos < c.total ∨ c.err.isSome = true)) := by
    rintro ⟨hst, hrest⟩
    obtain ⟨hmoved, herr⟩ := hend.resolve_left (not_not.2 hst)
    rcases hrest with hpos | hfail
    · omega
    · simp [herr] at hfail
  change (_ → execCommandCompletion q st s = _) ∧ (_ → _ → execCommandCompletion q st s = _)
  simp only [execCommandCompletion, h, if_neg hgo]
  exact ⟨fun h0 => if_pos h0, fun h0 hw => by rw [if_neg h0, hw]⟩

/-- An engine with a lasting error moves nothing (R409). -/
theorem nextBeat_of_lasting (hq : q < 4096) (h : 2 ≤ s.unitErrors c.core (engUnitCode q)) :
    nextBeat s q c = (.error (machineCheck (engUnitCode q)), (s.parityGuard c.core (engUnitCode q)).2) := by
  simp [nextBeat, hq, State.parityGuard_lasting h]

/-- A beat of a plain copy reads its bytes and writes them within one unit of the destination (R44, R384). -/
theorem copyBeat_of_moves {t : State} {src dst : Word} {len n : Nat} {bs : List Byte}
    (hn : n = min (len - c.pos) (64 - (dst + BitVec.ofNat 64 c.pos).toNat % 64))
    (hr : engineSpan 3 s c.core (engUnit q) c.ctx (src + BitVec.ofNat 64 c.pos) n = (.ok bs, t))
    (hw : engineWrite t c.core (engUnit q) c.ctx (dst + BitVec.ofNat 64 c.pos) bs false = (.ok (), u)) :
    copyBeat s q c src dst len = (.ok { c with pos := c.pos + n, beats := c.beats + 1 }, u) := by
  subst hn
  simp only [copyBeat, hr, hw]

end
/-- Settles O49: each command by what its descriptor brings, and a beat or a completion by the head of its queue. -/
theorem engineCommandsRunBeatByBeat : Obligations.EngineCommandsRunBeatByBeat := by
  refine ⟨?issue, ?beats, fun s q c hq h => nextBeat_of_lasting hq h,
    fun s t u q c src dst len n bs hn hr hw => copyBeat_of_moves hn hr hw⟩
  case issue =>
    intro s u v z l a b p va ws joins hs hva hjoins
    obtain rfl : joins = EngJoins := by
      funext x q rs c t
      exact propext (hjoins x q rs c t)
    subst hva
    refine ⟨fun h => ?misaligned, fun ha => ⟨fun hf => ⟨engMore_of_frozen ha hf, engMore_of_frozen ha hf⟩,
      fun hf => ⟨engMore_of_frozen ha hf, engMore_of_frozen ha hf⟩, exec_fgload_of_noDev ha,
      fun hma hst => ⟨fun hsc hnf hw hv => ?copy, fun hsc hw hv hcore => ⟨?deal, ?graph⟩, ?load⟩,
      exec_hload_of_badControl hs ha⟩⟩
    case misaligned =>
      simp only [List.forall_mem_cons]
      exact ⟨engMore_of_misaligned h, engMore_of_misaligned h, engMore_of_misaligned h, engMore_of_misaligned h,
        exec_hload_of_misaligned hs h, exec_fgload_of_misaligned h, List.forall_mem_nil _⟩
    case copy =>
      have hb : EngBegins s (s.descOp l b) s.copyQueue := ⟨ha, hnf, hst⟩
      have hr : DescReads s (s.descOp l b) 4 ws u := ⟨hs, hma, hsc, hw⟩
      subst hv
      refine ⟨exec_cpy_of_badDesc hb hr, fun d hd => ⟨exec_cpy_of_overlap hb hr hd, ?plain, ?draws⟩,
        exec_tcpy_of_badHead hb hr, ?tensor⟩
      case plain =>
        intro hmeet hdone hcore hnone t ht
        rw [exec_cpy_of_joins hb hr hd hmeet hdone (by rw [State.copyQueue, hcore]; exact ht)]
        exact if_neg (by rcases hnone with h | h <;> simp [h])
      case draws =>
        intro hmeet hdone hcore hconv hmode t ht hperf hst
        rw [exec_cpy_of_joins hb hr hd hmeet hdone (by rw [State.copyQueue, hcore]; exact ht)]
        exact if_pos (by simp [Option.isSome_iff_ne_none, hconv, hmode, hperf, hst])
      case tensor =>
        rintro xs u2 v2 ds n hhead rfl hs2 hma2 hsc2 hw2 rfl rfl src dst rfl rfl
        have hmore : DescReads u (s.descOp l b) (4 + 2 * field (ws.getD 2 0) 0 5) xs u2 := ⟨hs2, hma2, hsc2, hw2⟩
        refine ⟨exec_tcpy_of_badDesc hb hr hhead hmore, fun hok hmeet hdone hcore t ht => ?_⟩
        exact exec_tcpy_of_joins hb hr hhead hmore hok hmeet hdone (by rw [State.copyQueue, hcore]; exact ht)
    case deal =>
      rintro len rfl hnf
      have hb : EngBegins s (s.descOp l b) s.dealQueue := ⟨ha, hnf, hst⟩
      have hr : DescReads s (s.descOp l b) 2 ws u := ⟨hs, hma, hsc, hw⟩
      subst hv
      refine ⟨fun hbad => ⟨distribute_of_badDesc .deal hb hr hbad, distribute_of_badDesc .gather hb hr hbad⟩, ?_⟩
      intro far hfar hzero hlen hpat hdone t
      have hq : u.dropWords.dealQueue = 2 * s.cur.core + 1 := by rw [State.dealQueue, hcore]
      exact ⟨fun ht => distribute_of_joins .deal hb hr hzero hlen hpat hdone hfar (hq ▸ ht),
        fun ht => distribute_of_joins .gather hb hr hzero hlen hpat hdone hfar (hq ▸ ht)⟩
    case graph =>
      intro hdev hnf
      have hb : EngBegins s (s.descOp l b) graphQueue := ⟨ha, hnf, hst⟩
      have hr : DescReads s (s.descOp l b) 2 ws u := ⟨hs, hma, hsc, hw⟩
      subst hv
      exact ⟨exec_fgload_of_badDesc hdev hb hr, fun hok hdone t ht => exec_fgload_of_joins hdev hb hr hok hdone ht⟩
    case load =>
      intro hzero hmin hmax
      have hc : ¬ badHload (s.g a) := by
        rintro (h | h | h)
        · exact h hzero
        all_goals omega
      exact ⟨exec_hload_of_running hs ha hc, fun hrun hnf t ht => exec_hload_of_joins hs ⟨ha, hnf, hst⟩ hma hc hrun ht⟩
  case beats =>
    refine fun s u q c rest => ⟨fun h => ⟨exec_engineBeat_of_noCommand h, exec_commandCompletion_of_noCommand h⟩, fun h =>
      ⟨exec_engineBeat_of_stopped h, fun hnf herr hpre => ?_, fun h0 st hend => ?_, fun h0 st hend => ?_,
        exec_commandCompletion_of_unmoved h⟩⟩
    · have hruns : HeadRuns s q c rest := ⟨h, hnf, herr, hpre⟩
      exact ⟨exec_engineBeat_of_moved hruns, fun d => exec_engineBeat_of_beat hruns,
        fun f hpos => exec_engineBeat_of_fault hruns hpos⟩
    · exact (exec_commandCompletion_of_ended (u := u) h hend).1 h0
    · exact (exec_commandCompletion_of_ended h hend).2 h0

end Sys2Proof.Machine

namespace Sys2Proof.Machine

/-! ### What an owner answers, by the operation (R64, R65, R105–R112, R185, R284, R307) -/

/-- A commit of another process locks the unit, or a release finds no place for its words: the owner does not perform the
request now (R133, R152). -/
def State.heldBack (s : State) (r : Req) : Prop :=
  (SMap.get 0 s.locks (r.pa / 64) ≠ 0 ∧ r.agent ≠ .proc (SMap.get 0 s.locks (r.pa / 64))) ∨ s.relOk r = false

theorem State.not_heldBack {s : State} {r : Req} (hl : SMap.get 0 s.locks (r.pa / 64) = 0) (hr : s.relOk r = true) :
    ¬ s.heldBack r := by
  simp [State.heldBack, hl, hr]

section
variable {s : State} {r : Req}

theorem perform_of_heldBack (h : s.heldBack r) : perform s r = .wait := by
  unfold perform
  extract_lets w
  rcases h with h | h
  · exact if_pos h
  · simp [h]

variable (h : ¬ s.heldBack r)
include h

/-- The two checks that every operation passes. -/
theorem perform_checks : ¬ (SMap.get 0 s.locks (r.pa / 64) ≠ 0 ∧ r.agent ≠ .proc (SMap.get 0 s.locks (r.pa / 64))) ∧
    ¬ (!s.relOk r) = true := by
  rw [State.heldBack, not_or, Bool.not_eq_false] at h
  exact ⟨h.1, by simp [h.2]⟩

theorem perform_load {sg : Bool} (hop : r.op = .load sg) : perform s r =
    guarded s r fun s => acquired s r (r.pa / 8 * 8) fun s m => .done s
      (if sg then signExtend (readNat s.mem r.pa r.size) (8 * r.size) else zeroExtend (readNat s.mem r.pa r.size) (8 * r.size))
      0 m := by
  rw [perform, if_neg (perform_checks h).1, if_neg (perform_checks h).2, hop]

theorem perform_nibble {sg : Bool} {k : Nat} (hop : r.op = .nibble sg k) : perform s r =
    guarded s r fun s => acquired s r (r.pa / 8 * 8) fun s m => .done s
      (if sg then signExtend (field (s.peek (r.pa / 8 * 8)) (4 * k) 4) 4
        else zeroExtend (field (s.peek (r.pa / 8 * 8)) (4 * k) 4) 4) 0 m := by
  rw [perform, if_neg (perform_checks h).1, if_neg (perform_checks h).2, hop]

theorem perform_tag (hop : r.op = .tag) : perform s r =
    guardedCell s r fun s => acquired s r (r.pa / 8 * 8) fun s m => .done s (verTag s (r.pa / 8 * 8)) 0 m := by
  rw [perform, if_neg (perform_checks h).1, if_neg (perform_checks h).2, hop]

theorem perform_store {x : Word} (hop : r.op = .store x) :
    perform s r = writePlain s r r.size (x.toNat % 2 ^ (8 * r.size)) 0 0 .none := by
  rw [perform, if_neg (perform_checks h).1, if_neg (perform_checks h).2, hop]

theorem perform_sub {mask : BitVec 16} {x : Word} (hop : r.op = .sub mask x) : perform s r =
    match s.plainWrite (r.pa / 8 * 8) x mask.toNat r.rscope r.core r.unit with
    | .error (c, s) => failP s r c (s.depthWords (r.pa / 8 * 8) c)
    | .ok s => .done s 0 0 .none := by
  rewrite [perform, if_neg (perform_checks h).1, if_neg (perform_checks h).2, hop]
  rfl

theorem perform_atom {f : BitVec 5} {b c : Word} {ret : Bool} (hop : r.op = .atom f b c ret) : perform s r =
    guarded s r fun s =>
      if r.pa / 8 * 8 ≥ 2 ^ 54 ∧ sideDepth (s.sideOf (r.pa / 8 * 8)) ≠ 0 then failP s r 0x062 [s.verWord (r.pa / 8 * 8) 3 0]
      else
        gated s r 0x05 f.toNat fun s => acquired s { r with ord := if ret then r.ord else .rlx } (r.pa / 8 * 8) fun s m =>
          match atomNew f (atomSize f) (readNat s.mem r.pa (atomSize f)) b.toNat c.toNat with
          | (none, fl) => .done (if ret then s else s.noteTouch (r.pa / 8 * 8))
              (BitVec.ofNat 64 (readNat s.mem r.pa (atomSize f))) fl m
          | (some y, fl) => writePlain s r (atomSize f) y (BitVec.ofNat 64 (readNat s.mem r.pa (atomSize f))) fl m := by
  rewrite [perform, if_neg (perform_checks h).1, if_neg (perform_checks h).2, hop]
  rfl

theorem perform_ldv {v : Byte} (hop : r.op = .ldv v) : perform s r =
    guardedCell s r fun s =>
      match verLoad s r.pa v.toNat with
      | .done s x _ => gated s r 0x04 v.toNat fun s => acquired s r (s.slotOf r.pa v.toNat) fun s m => .done s x 0 m
      | o => ofVer s r o .none := by
  rewrite [perform, if_neg (perform_checks h).1, if_neg (perform_checks h).2, hop]
  rfl

theorem perform_stv {v : Byte} {x : Word} (hop : r.op = .stv v x) :
    perform s r = guardedCell s r fun s => ofVer s r (verStore s r.pa v.toNat x r.rscope r.core r.unit) .none := by
  rw [perform, if_neg (perform_checks h).1, if_neg (perform_checks h).2, hop]

theorem perform_rcl {v : Byte} (hop : r.op = .rcl v) :
    perform s r = guardedCell s r fun s => ofVer s r (verReclaim s r.pa v.toNat) .none := by
  rw [perform, if_neg (perform_checks h).1, if_neg (perform_checks h).2, hop]

theorem perform_vinit {k : BitVec 2} {v : Byte} (hop : r.op = .vinit k v) :
    perform s r = ofVer s r (verInit s r.pa k.toNat v.toNat r.rscope r.core r.unit) .none := by
  rw [perform, if_neg (perform_checks h).1, if_neg (perform_checks h).2, hop]

theorem perform_park {x : Word} (hop : r.op = .park x) : perform s r =
    guarded s r fun s => if s.peek (r.pa / 8 * 8) = x then .hold else acquired s r (r.pa / 8 * 8) fun s m => .done s 0 0 m := by
  rw [perform, if_neg (perform_checks h).1, if_neg (perform_checks h).2, hop]

theorem perform_join (hop : r.op = .join) : perform s r =
    guarded s r fun s =>
      if field (s.peek (r.pa / 8 * 8)) 32 32 ≠ 0 then failP s r 0x0C3 []
      else if field (s.peek (r.pa / 8 * 8)) 0 32 ≠ 0 then .hold
      else acquired s r (r.pa / 8 * 8) fun s m => .done s 0 0 m := by
  rw [perform, if_neg (perform_checks h).1, if_neg (perform_checks h).2, hop]

theorem perform_joinDec (hop : r.op = .joinDec) : perform s r =
    guarded s r fun s =>
      if (s.peek (r.pa / 8 * 8)).toNat = 0 ∨ (s.peek (r.pa / 8 * 8)).toNat ≥ 2 ^ 32 then failP s r 0x0C3 []
      else gated s r 0x05 4 fun s' => writePlain s' r 8 ((s.peek (r.pa / 8 * 8)).toNat - 1) 0 0 .none := by
  rw [perform, if_neg (perform_checks h).1, if_neg (perform_checks h).2, hop]

end

end Sys2Proof.Machine

namespace Sys2Proof.Machine

/-! ### Maps in canonical form are equal when they read alike (R64) -/

section
variable {α : Type} [DecidableEq α] {d : α} {m n : SMap α}

omit [DecidableEq α] in
theorem SMap.get_head {k : Nat} {v : α} : SMap.get d ((k, v) :: m) k = v := if_pos rfl

/-- A map in canonical form reads its default below its first key, and not at it. -/
theorem SMap.get_eq_default_of_lt {j k : Nat} {v : α} (h : SMap.wf d ((k, v) :: m) = true) (hj : j < k) :
    SMap.get d ((k, v) :: m) j = d :=
  SMap.get_below _ h (by simpa [SMap.above] using hj)

theorem SMap.eq_of_get_eq (hm : SMap.wf d m = true) (hn : SMap.wf d n = true) (h : ∀ k, SMap.get d m k = SMap.get d n k) :
    m = n := by
  induction m generalizing n with
  | nil =>
    cases n with
    | nil => rfl
    | cons e r =>
      obtain ⟨k, v⟩ := e
      have hv := h k
      simp_all [SMap.get, SMap.wf]
  | cons e r ih =>
    obtain ⟨k, v⟩ := e
    have hv : v ≠ d := by simp_all [SMap.wf]
    cases n with
    | nil => exact absurd ((SMap.get_head (d := d)).symm.trans (h k)) hv
    | cons e' r' =>
      obtain ⟨j, w⟩ := e'
      have hw : w ≠ d := by simp_all [SMap.wf]
      have hkj : k = j := by
        rcases Nat.lt_trichotomy k j with hlt | heq | hlt
        · exact absurd ((SMap.get_head.symm.trans (h k)).trans (SMap.get_eq_default_of_lt hn hlt)) hv
        · exact heq
        · exact absurd ((SMap.get_head.symm.trans (h j).symm).trans (SMap.get_eq_default_of_lt hm hlt)) hw
      subst hkj
      have hvw : v = w := (SMap.get_head (d := d)).symm.trans ((h k).trans SMap.get_head)
      subst hvw
      have hrest : r = r' := ih (SMap.wf_tail hm) (SMap.wf_tail hn) fun i => by
        by_cases hi : i = k
        · subst hi
          simp only [SMap.wf, Bool.and_eq_true] at hm hn
          rw [SMap.get_below _ hm.2 hm.1.2, SMap.get_below _ hn.2 hn.1.2]
        · simpa [SMap.get, hi] using h i
      rw [hrest]

end

/-! ### What an owner's answer leaves of the bytes (R64, R65, R105–R111) -/

/-- The bytes of memory and of the helpers' instruction stores. -/
def State.HasBytes (s : State) (m h : List Host.Cell) : Prop := s.mem = m ∧ s.hstore = h

/-- A performed request leaves memory in canonical form, a refused one leaves every byte. -/
inductive Perf.KeepsBytes (m h : List Host.Cell) : Perf → Prop
  | done {t : State} {x : Word} {fl : Flags} {miss : Miss} (hm : Memory.wf m = true → Memory.wf t.mem = true)
      (hh : t.hstore = h) : Perf.KeepsBytes m h (.done t x fl miss)
  | fault {t : State} {f : FaultInfo} (ht : t.HasBytes m h) : Perf.KeepsBytes m h (.fault t f)
  | hold : Perf.KeepsBytes m h .hold
  | wait : Perf.KeepsBytes m h .wait

/-- The same of a versioned operation that is done. -/
inductive Ver.KeepsBytes (m h : List Host.Cell) : Ver → Prop
  | done {t : State} {x : Word} {fl : Flags} (hm : Memory.wf m = true → Memory.wf t.mem = true) (hh : t.hstore = h) :
      Ver.KeepsBytes m h (.done t x fl)
  | hold : Ver.KeepsBytes m h .hold
  | fault {c : Nat} {ws : List Word} : Ver.KeepsBytes m h (.fault c ws)

section
variable {s t : State} {m h : List Host.Cell} {r : Req}

theorem hasBytes_self : s.HasBytes s.mem s.hstore := ⟨rfl, rfl⟩

theorem State.HasBytes.done (hs : s.HasBytes m h) (x : Word) (fl : Flags) (miss : Miss) :
    (Perf.done s x fl miss).KeepsBytes m h := .done (fun hm => hs.1 ▸ hm) hs.2

theorem State.HasBytes.failP (hs : s.HasBytes m h) (r : Req) (c : Nat) (ws : List Word) :
    (Machine.failP s r c ws).KeepsBytes m h := .fault hs

/-! #### Guards -/

theorem hasBytes_countCorrected (hs : s.HasBytes m h) (pa : Nat) : (s.countCorrected pa).HasBytes m h := by
  unfold State.countCorrected; split <;> exact hs

theorem hasBytes_countTransient (hs : s.HasBytes m h) (pa : Nat) : (s.countTransient pa).HasBytes m h := by
  simp only [State.countTransient]; split <;> exact hs

theorem hasBytes_countFailed (hs : s.HasBytes m h) : s.countFailed.HasBytes m h := by
  simp only [State.countFailed]; split <;> exact hs

theorem hasBytes_addBadPage (hs : s.HasBytes m h) (pa : Nat) : (s.addBadPage pa).HasBytes m h := by
  simp only [State.addBadPage]; split <;> exact hs

theorem hasBytes_countLasting (hs : s.HasBytes m h) (pa : Nat) : (s.countLasting pa).HasBytes m h := by
  have hf : (s.setPoison pa true).countFailed.HasBytes m h := hasBytes_countFailed (s := s.setPoison pa true) hs
  simp only [State.countLasting]
  split
  · exact hf
  · exact hasBytes_addBadPage hf pa

theorem hasBytes_readGuard (hs : s.HasBytes m h) (pa : Nat) : (s.readGuard pa).2.HasBytes m h := by
  unfold State.readGuard
  split
  · exact hs
  split
  · exact hs
  · exact hasBytes_countCorrected (s := s.setErrors pa 0) hs pa
  · exact hasBytes_countTransient (s := s.setErrors pa 0) hs pa
  · exact hasBytes_countLasting (s := s.setErrors pa _) hs pa

theorem hasBytes_guardList (hs : s.HasBytes m h) (ps : List Nat) : (s.guardList ps).2.HasBytes m h := by
  induction ps generalizing s with
  | nil => exact hs
  | cons p rest ih =>
    simp only [State.guardList]
    split
    · exact ih (hasBytes_readGuard hs p)
    · exact hasBytes_readGuard hs p

theorem keepsBytes_ite {c : Prop} [Decidable c] {p q : Perf} (hp : p.KeepsBytes m h) (hq : q.KeepsBytes m h) :
    (if c then p else q).KeepsBytes m h := by split <;> assumption

section
variable {k : State → Perf}

theorem keepsBytes_guarded (hs : s.HasBytes m h) (hk : ∀ u : State, u.HasBytes m h → (k u).KeepsBytes m h) :
    (guarded s r k).KeepsBytes m h := by
  have hg := hasBytes_readGuard hs r.pa
  simp only [guarded]
  split
  · exact hk _ hg
  · exact hg.failP r _ _

theorem keepsBytes_guardedCell (hs : s.HasBytes m h) (hk : ∀ u : State, u.HasBytes m h → (k u).KeepsBytes m h) :
    (guardedCell s r k).KeepsBytes m h := by
  have hg := hasBytes_guardList hs (s.cellWords (r.pa / 8 * 8))
  unfold guardedCell
  split <;> rename_i heq <;> rw [heq] at hg
  · exact hk _ hg
  · exact .fault hg

/-! #### The log's gate and the check of an acquire -/

/-- The number of an object that is no channel is kept apart from memory (R160). -/
theorem hasBytes_nextSeq (hs : s.HasBytes m h) (c : Byte) (unit obj : Nat) : (s.nextSeq c unit false obj).2.HasBytes m h := hs

/-- An event that no channel counts passes the log's gate without a byte of memory (R160). -/
theorem hasBytes_logGate {p : Proc} {kind unit lc slot obj detail : Nat} (hs : s.HasBytes m h)
    (hp : s.logGate p kind unit false lc slot obj detail = .pass t) : t.HasBytes m h := by
  unfold State.logGate at hp
  split at hp
  · cases hp; exact hs
  split at hp
  · extract_lets u x q at hp
    have hq : q.2.HasBytes m h := hasBytes_nextSeq (s := u) hs p.ctx unit obj
    split at hp
    · cases hp
    split at hp
    · cases hp
    split at hp <;> cases hp
    exact hq
  extract_lets x lg mine q u v at hp
  have hu : u.HasBytes m h := hasBytes_nextSeq hs p.ctx unit obj
  have hv : v.HasBytes m h := by
    simp only [v]; split <;> exact hu
  clear_value v
  split at hp
  · cases hp; exact hs
  split at hp <;> cases hp
  split <;> exact hv

theorem keepsBytes_gated {kind detail : Nat} (hs : s.HasBytes m h)
    (hk : ∀ u : State, u.HasBytes m h → (k u).KeepsBytes m h) : (gated s r kind detail k).KeepsBytes m h := by
  unfold gated
  split
  · split
    · rename_i heq
      exact hk _ (hasBytes_logGate hs heq)
    · exact .wait
    · exact .fault hs
  · exact hk s hs

theorem hasBytes_scopeCheck {key sc : Nat} {a : Agent} {c : List Nat} {x : Miss} (hs : s.HasBytes m h)
    (hc : s.scopeCheck key sc a c = (x, t)) : t.HasBytes m h := by
  unfold State.scopeCheck at hc
  split at hc
  · cases hc; exact hs
  split at hc
  · split at hc <;> cases hc <;> exact hs
  split at hc
  · cases hc; exact hs
  · split at hc <;> cases hc <;> exact hs

theorem keepsBytes_acquired {w : Nat} {k : State → Miss → Perf} (hs : s.HasBytes m h)
    (hk : ∀ (u : State) (x : Miss), u.HasBytes m h → (k u x).KeepsBytes m h) : (acquired s r w k).KeepsBytes m h := by
  unfold acquired
  split
  · split
    · exact .wait
    · rename_i heq
      exact hk _ _ (hasBytes_scopeCheck hs heq)
  · exact hk s _ hs

end

/-! #### Writes -/

theorem noteRelease_hstore (s : State) (key scope core unit : Nat) : (s.noteRelease key scope core unit).hstore = s.hstore := by
  simp only [State.noteRelease, State.moveOldest]
  split
  · split
    · rfl
    · split <;> rfl
  · rfl

theorem wf_noteRelease_poke (u : State) (w : Nat) (x : Word) (key scope core unit : Nat) (hu : u.mem = writeWord m w x)
    (hm : Memory.wf m = true) : Memory.wf (u.noteRelease key scope core unit).mem = true := by
  rw [State.noteRelease_mem, hu]
  exact Memory.wf_writeWord m w x hm

/-- A refused plain write leaves every byte. -/
theorem hasBytes_plainWrite_error {w scope core unit c : Nat} {x : Word} {mask : Nat} (hs : s.HasBytes m h)
    (hp : s.plainWrite w x mask scope core unit = .error (c, t)) : t.HasBytes m h := by
  have hg := hasBytes_readGuard hs w
  simp only [State.plainWrite] at hp
  split at hp
  · split at hp <;> cases hp
    exact hg
  split at hp
  · split at hp
    · cases hp
    split at hp <;> cases hp
    exact hs
  split at hp
  · cases hp; exact hg
  split at hp <;> cases hp
  exact hg

theorem plainWrite_hstore {w scope core unit : Nat} {x : Word} {mask : Nat}
    (hp : s.plainWrite w x mask scope core unit = .ok t) : t.hstore = s.hstore := by
  have hg := (hasBytes_readGuard (hasBytes_self (s := s)) w).2
  simp only [State.plainWrite] at hp
  split at hp
  · split at hp <;> cases hp
    exact hg
  split at hp
  · split at hp
    · cases hp; exact noteRelease_hstore _ _ _ _ _
    split at hp <;> cases hp
    exact noteRelease_hstore _ _ _ _ _
  split at hp
  · cases hp
  split at hp <;> cases hp
  exact (noteRelease_hstore _ _ _ _ _).trans hg

theorem keepsBytes_of_plainWrite {w scope core unit : Nat} {x : Word} {mask : Nat} (hs : s.HasBytes m h)
    (hp : s.plainWrite w x mask scope core unit = .ok t) (y : Word) (fl : Flags) (miss : Miss) :
    (Perf.done t y fl miss).KeepsBytes m h := by
  refine .done (fun hm => ?_) ((plainWrite_hstore hp).trans hs.2)
  rw [s.plainWrite_mem hp, hs.1]
  exact Memory.wf_writeWord m w _ hm

theorem keepsBytes_writePlain {n x : Nat} {ans : Word} {fl : Flags} {miss : Miss} (hs : s.HasBytes m h) :
    (writePlain s r n x ans fl miss).KeepsBytes m h := by
  simp only [writePlain]
  split <;> rename_i heq
  · exact (hasBytes_plainWrite_error hs heq).failP r _ _
  · exact keepsBytes_of_plainWrite hs heq _ _ _

/-! #### Versioned operations -/

theorem keepsBytes_ofVer {v : Ver} {miss : Miss} (hs : s.HasBytes m h) (hv : v.KeepsBytes m h) :
    (ofVer s r v miss).KeepsBytes m h := by
  cases hv with
  | done hm hh => exact .done hm hh
  | hold => exact .hold
  | fault => exact hs.failP r _ _

theorem keepsBytes_verStore {a v scope core unit : Nat} {x : Word} (hs : s.HasBytes m h) :
    (verStore s a v x scope core unit).KeepsBytes m h := by
  simp only [verStore]
  split
  · exact .fault
  split
  · exact .fault
  split
  · exact .hold
  split
  · exact .hold
  · exact .done (wf_noteRelease_poke _ _ x _ _ _ _ (congrArg (writeWord · _ x) hs.1))
      ((noteRelease_hstore _ _ _ _ _).trans hs.2)

/-- A versioned load that is done changes nothing (R108). -/
theorem state_of_verLoad_done {a v : Nat} {x : Word} {fl : Flags} (hv : verLoad s a v = .done t x fl) : t = s ∧ fl = 0 := by
  simp only [verLoad] at hv
  split at hv
  · cases hv
  split at hv
  · cases hv; exact ⟨rfl, rfl⟩
  split at hv <;> cases hv

theorem keepsBytes_verReclaim {a v : Nat} (hs : s.HasBytes m h) : (verReclaim s a v).KeepsBytes m h := by
  simp only [verReclaim]
  split
  · exact .fault
  split
  · exact .done (fun hm => hs.1 ▸ hm) hs.2
  split
  · exact .hold
  · exact .fault

theorem initWords_keeps {a dep v0 scope core unit : Nat} (k : Nat) :
    (Memory.wf s.mem = true → Memory.wf (initWords s a dep v0 scope core unit k).mem = true) ∧
      (initWords s a dep v0 scope core unit k).hstore = s.hstore := by
  induction k generalizing s with
  | zero => exact ⟨id, rfl⟩
  | succ j ih =>
    simp only [initWords]
    refine ⟨fun hm => ih.1 ?_, ih.2.trans (noteRelease_hstore _ _ _ _ _)⟩
    exact wf_noteRelease_poke _ _ 0 _ _ _ _ rfl hm

theorem keepsBytes_verInit {a dep v0 scope core unit : Nat} (hs : s.HasBytes m h) :
    (verInit s a dep v0 scope core unit).KeepsBytes m h := by
  obtain ⟨rfl, rfl⟩ := hs
  unfold verInit
  split
  · exact .fault
  · exact .done (initWords_keeps _).1 (initWords_keeps _).2

/-! #### The owner -/

/-- Whatever an owner answers, it leaves memory in canonical form, and a refusal leaves every byte. -/
theorem keepsBytes_perform (s : State) (r : Req) : (perform s r).KeepsBytes s.mem s.hstore := by
  have hs := hasBytes_self (s := s)
  by_cases hf : s.heldBack r
  · rw [perform_of_heldBack hf]
    exact .wait
  cases hop : r.op with
  | load sg =>
    rw [perform_load hf hop]
    exact keepsBytes_guarded hs fun u hu => keepsBytes_acquired hu fun v x hv => hv.done _ _ _
  | nibble sg k =>
    rw [perform_nibble hf hop]
    exact keepsBytes_guarded hs fun u hu => keepsBytes_acquired hu fun v x hv => hv.done _ _ _
  | tag =>
    rw [perform_tag hf hop]
    exact keepsBytes_guardedCell hs fun u hu => keepsBytes_acquired hu fun v x hv => hv.done _ _ _
  | store x =>
    rw [perform_store hf hop]
    exact keepsBytes_writePlain hs
  | sub mask x =>
    rw [perform_sub hf hop]
    split <;> rename_i heq
    · exact (hasBytes_plainWrite_error hs heq).failP r _ _
    · exact keepsBytes_of_plainWrite hs heq _ _ _
  | atom f b c ret =>
    rw [perform_atom hf hop]
    refine keepsBytes_guarded hs fun u hu => ?_
    refine keepsBytes_ite (hu.failP r _ _) (keepsBytes_gated hu fun u hu => keepsBytes_acquired hu fun u x hu => ?_)
    split
    · have hkept : (if ret then u else u.noteTouch (r.pa / 8 * 8)).HasBytes s.mem s.hstore := by split <;> exact hu
      exact hkept.done _ _ _
    · exact keepsBytes_writePlain hu
  | ldv v =>
    rw [perform_ldv hf hop]
    refine keepsBytes_guardedCell hs fun u hu => ?_
    cases hver : verLoad u r.pa v.toNat with
    | done t x fl =>
      rw [(state_of_verLoad_done hver).1]
      exact keepsBytes_gated hu fun u hu => keepsBytes_acquired hu fun u x hu => hu.done _ _ _
    | hold => exact .hold
    | fault c ws => exact hu.failP r c ws
  | stv v x =>
    rw [perform_stv hf hop]
    exact keepsBytes_guardedCell hs fun u hu => keepsBytes_ofVer hu (keepsBytes_verStore hu)
  | rcl v =>
    rw [perform_rcl hf hop]
    exact keepsBytes_guardedCell hs fun u hu => keepsBytes_ofVer hu (keepsBytes_verReclaim hu)
  | vinit k v =>
    rw [perform_vinit hf hop]
    exact keepsBytes_ofVer hs (keepsBytes_verInit hs)
  | park x =>
    rw [perform_park hf hop]
    refine keepsBytes_guarded hs fun u hu => ?_
    exact keepsBytes_ite .hold (keepsBytes_acquired hu fun v x hv => hv.done _ _ _)
  | join =>
    rw [perform_join hf hop]
    refine keepsBytes_guarded hs fun u hu => ?_
    exact keepsBytes_ite (hu.failP r _ _) (keepsBytes_ite .hold (keepsBytes_acquired hu fun v x hv => hv.done _ _ _))
  | joinDec =>
    rw [perform_joinDec hf hop]
    refine keepsBytes_guarded hs fun u hu => ?_
    exact keepsBytes_ite (hu.failP r _ _) (keepsBytes_gated hu fun u hu => keepsBytes_writePlain hu)

end

/-- Settles O6. -/
theorem ownersKeepMemoryCanonicalAndReadBackWrites : Obligations.OwnersKeepMemoryCanonicalAndReadBackWrites := by
  refine ⟨⟨rfl, rfl⟩, fun s a b n x bs hm => ?_, fun m k hm hk h => SMap.eq_of_get_eq hm hk h, fun s r hm => ?_⟩
  · refine ⟨s.peek_poke a x hm, s.wf_poke a x hm, fun hb => ?_, bytesAt_putBytes bs s.mem a hm, Memory.wf_putBytes bs s.mem a hm,
      byteAt_putBytes_out bs s.mem a b, fun hx => ?_⟩
    · exact byteAt_putBytes_out _ s.mem a b (by rwa [natToBytes_length])
    · rw [readNat_writeNat _ _ _ _ hm, Nat.mod_eq_of_lt hx]
  · have hp := keepsBytes_perform s r
    refine ⟨fun t x fl m h => ?_, fun t f h => ?_⟩ <;> rw [h] at hp
    · cases hp with
      | done hwf hh => exact ⟨hwf hm, hh⟩
    · cases hp with
      | fault ht => exact ht

end Sys2Proof.Machine

namespace Sys2Proof.Machine

/-! ### The choice among the steps in flight (O8: R66, R68, R69, R83, R84) -/

/-- A candidate stands in the agenda, the first of its lane, in its owner's queue, and passes no request that 16 have passed. -/
theorem candidates_spec {es before : List Ev} {seen : List (List Nat)} {i n : Nat} {e : Ev}
    (h : (i, e) ∈ candidates es before seen n) : ∃ k, i = n + k ∧ es[k]? = some e ∧ seen.contains (laneOf e) = false ∧
      (∀ j < k, ∀ f, es[j]? = some f → laneOf f ≠ laneOf e) ∧
      admitted (before ++ es.take k) e = true ∧ passAllowed (before ++ es.take k) e = true := by
  induction es generalizing before seen n with
  | nil => simp [candidates] at h
  | cons a r ih =>
    have later (hr : (i, e) ∈ candidates r (before ++ [a]) (laneOf a :: seen) (n + 1)) : ∃ k, i = n + k ∧
        (a :: r)[k]? = some e ∧ seen.contains (laneOf e) = false ∧
        (∀ j < k, ∀ f, (a :: r)[j]? = some f → laneOf f ≠ laneOf e) ∧
        admitted (before ++ (a :: r).take k) e = true ∧ passAllowed (before ++ (a :: r).take k) e = true := by
      obtain ⟨k, hi, hk, hseen, hfirst, hadm, hpass⟩ := ih hr
      simp only [List.contains_cons, Bool.or_eq_false_iff, beq_eq_false_iff_ne] at hseen
      refine ⟨k + 1, by omega, by simpa using hk, hseen.2, fun j hj f hf => ?_, by simpa using hadm, by simpa using hpass⟩
      cases j with
      | zero =>
        cases hf
        exact Ne.symm hseen.1
      | succ j => exact hfirst j (by omega) f (by simpa using hf)
    simp only [candidates] at h
    split at h
    · exact later h
    rename_i hc
    rcases List.mem_cons.mp h with heq | hr
    · cases heq
      simp only [Bool.or_eq_true, Bool.not_eq_true', not_or, Bool.not_eq_true, Bool.not_eq_false] at hc
      obtain ⟨⟨hseen, hadm⟩, hpass⟩ := hc
      exact ⟨0, rfl, rfl, hseen, fun j hj => absurd hj (Nat.not_lt_zero j), by simpa using hadm, by simpa using hpass⟩
    · exact later hr

/-- What counts as passed changes no lane. -/
theorem laneOf_countPass (e b : Ev) : laneOf (countPass e b) = laneOf b := by
  unfold countPass
  split
  · cases b <;> rfl
  · rfl

/-- A taken step leaves the agenda; those that it passes count it. -/
theorem State.takeStep_eq (s : State) (i : Nat) (e : Ev) : ∃ f, (f = id ∨ f = countPass e) ∧
    s.takeStep i e = { s with agenda := (s.agenda.take i).map f ++ s.agenda.drop (i + 1), blocked := s.blocked.map f } := by
  refine ⟨_, ?_, rfl⟩
  split
  · exact .inr rfl
  · exact .inl rfl

section
variable {s u : State} {e : Ev}

theorem State.choose_some (h : s.choose = (some e, u)) : ∃ k, (k, e) ∈ candidates s.agenda s.blocked [] 0 ∧
    u = { s with sched := s.sched.drop 1 }.takeStep k e := by
  unfold State.choose at h
  extract_lets t at h
  split at h
  · rename_i heq
    cases h
    exact ⟨_, List.mem_of_getElem? heq, rfl⟩
  · cases h

theorem State.choose_none (h : s.choose = (none, u)) : u = { s with sched := s.sched.drop 1 } := by
  unfold State.choose at h
  extract_lets t at h
  split at h
  · cases h
  · exact (Prod.mk.inj h).2.symm

/-- With nothing before it a step is in its owner's queue and passes no other. -/
theorem admitted_nil (e : Ev) : admitted [] e = true := by
  unfold admitted
  split <;> rfl

theorem passAllowed_nil (e : Ev) : passAllowed [] e = true := by
  unfold passAllowed
  split <;> rfl

theorem State.sched_of_none (hs : s.sched = []) : { s with sched := s.sched.drop 1 } = s := by
  rw [show s.sched.drop 1 = s.sched by rw [hs]; rfl]

/-- Without choices and waiting steps the oldest step is taken. -/
theorem State.choose_oldest {r : List Ev} (hs : s.sched = []) (hb : s.blocked = []) (ha : s.agenda = e :: r) :
    s.choose = (some e, { s with agenda := r }) := by
  have hc : candidates s.agenda s.blocked [] 0 = (0, e) :: candidates r [e] [laneOf e] 1 := by
    simp [ha, hb, candidates, admitted_nil, passAllowed_nil]
  have ht : s.takeStep 0 e = { s with agenda := r } := by
    simp [State.takeStep, ha, hb]
  rw [State.choose, State.sched_of_none hs]
  simp [hs, hc, ht]

theorem State.choose_of_noSteps (hs : s.sched = []) (ha : s.agenda = []) : s.choose = (none, s) := by
  rewrite [State.choose, State.sched_of_none hs, ha]
  rfl

/-- The requests of one unit for one address are in one lane (R69). -/
theorem laneOf_ownerAccess_congr {r q : Req} (ha : r.agent = q.agent) (hc : r.core = q.core) (hu : r.unit = q.unit)
    (hs : r.space = q.space) (hp : r.pa = q.pa) : laneOf (.ownerAccess r) = laneOf (.ownerAccess q) := by
  simp only [laneOf, reqSource, laneEnd, ha, hc, hu, hs, hp]

/-- Requests travel on REQ, replies on RSP. -/
theorem laneOf_ownerAccess_ne_loadReturn (r : Req) (d : Done) : laneOf (.ownerAccess r) ≠ laneOf (.loadReturn d) := by
  simp [laneOf, replyLane]

end

/-- Settles O8, by what a candidate is and what taking it leaves. -/
theorem stepsInFlightKeepTheirOrder : Obligations.StepsInFlightKeepTheirOrder := by
  refine ⟨fun s => ⟨fun e u h => ?_, fun u h => State.choose_none h, fun e r hs hb ha => State.choose_oldest hs hb ha,
    State.choose_of_noSteps⟩, laneOf_countPass, fun r q => laneOf_ownerAccess_congr, laneOf_ownerAccess_ne_loadReturn⟩
  obtain ⟨i, hi, rfl⟩ := State.choose_some h
  obtain ⟨k, hk, he, -, hfirst, hadm, hpass⟩ := candidates_spec hi
  obtain rfl : i = k := by omega
  obtain ⟨f, hf, hu⟩ := { s with sched := s.sched.drop 1 }.takeStep_eq i e
  have hlt : i < s.agenda.length := (List.getElem?_eq_some_iff.mp he).1
  refine ⟨i, f, he, hfirst, hadm, hpass, hf, hu, ?_⟩
  rw [hu]
  simp only [List.length_append, List.length_map, List.length_take, List.length_drop]
  omega

end Sys2Proof.Machine

namespace Sys2Proof.Machine

/-! ### Nibbles of a word (R79) -/

theorem testBit_expandNibbles (m n i : Nat) : (expandNibbles m n).testBit i = (decide (i / 4 < n) && m.testBit (i / 4)) := by
  induction n generalizing m i with
  | zero => simp [expandNibbles]
  | succ n ih =>
    have hlow : (if m % 2 = 1 then 15 else 0) < 2 ^ 4 := by split <;> decide
    rw [expandNibbles, Nat.add_comm, show (16 : Nat) = 2 ^ 4 from rfl, Nat.testBit_two_pow_mul_add _ hlow]
    split
    · rename_i hi
      rw [show i / 4 = 0 by omega, Nat.testBit_zero]
      split <;> rename_i hm
      · simpa [hm] using (by decide : ∀ i < 4, Nat.testBit 15 i = true) i hi
      · simp [hm]
    · rename_i hi
      rw [ih, Nat.testBit_div_two, show (i - 4) / 4 + 1 = i / 4 by omega]
      congr 1
      exact decide_eq_decide.mpr (by omega)

theorem testBit_field (x : Word) (lo n j : Nat) : (field x lo n).testBit j = (decide (j < n) && x.getLsbD (lo + j)) := by
  rw [field, Nat.testBit_mod_two_pow, Nat.testBit_div_two_pow, BitVec.getLsbD, Nat.add_comm]

/-- A merge takes each nibble from the store or from the word, as the mask says. -/
theorem field_mergeNibbles (old x : Word) (m : BitVec 16) {k : Nat} (hk : k < 16) :
    field (mergeNibbles old x m.toNat) (4 * k) 4 = if m.getLsbD k then field x (4 * k) 4 else field old (4 * k) 4 := by
  apply Nat.eq_of_testBit_eq
  intro j
  rw [testBit_field]
  by_cases hj : j < 4
  · have hbit : (BitVec.ofNat 64 (expandNibbles m.toNat 16)).getLsbD (4 * k + j) = m.getLsbD k := by
      rw [BitVec.getLsbD_ofNat, testBit_expandNibbles, show (4 * k + j) / 4 = k by omega]
      simp [hk, show 4 * k + j < 64 by omega, BitVec.getLsbD]
    simp only [mergeNibbles, BitVec.getLsbD_or, BitVec.getLsbD_and, BitVec.getLsbD_not, hbit]
    cases m.getLsbD k <;> simp [testBit_field, hj, show 4 * k + j < 64 by omega]
  · split <;> simp [testBit_field, hj]

/-! ### Words that can be read (R62, R85) -/

section
variable {s t : State} {w pa : Nat}

/-- An error is of the whole word, or of the whole unit of HBM. -/
theorem poisonKey_word (pa : Nat) : poisonKey (pa / 8 * 8) = poisonKey pa := by
  unfold poisonKey
  split <;> split <;> omega

theorem State.isPoison_word (s : State) (pa : Nat) : s.isPoison (pa / 8 * 8) = s.isPoison pa :=
  congrArg (SMap.get false s.poison) (poisonKey_word pa)

theorem State.errorsAt_word (s : State) (pa : Nat) : s.errorsAt (pa / 8 * 8) = s.errorsAt pa :=
  congrArg (SMap.get 0 s.badRead) (poisonKey_word pa)

theorem State.readGuard_clean (hp : s.isPoison pa = false) (he : s.errorsAt pa = 0) : s.readGuard pa = (true, s) := by
  simp [State.readGuard, hp, he]

/-- An error that its retry clears leaves the word readable. -/
theorem State.readGuard_readable (hp : s.isPoison pa = false) (he : s.errorsAt pa < 3) : (s.readGuard pa).1 = true := by
  have hcase : s.errorsAt pa = 0 ∨ s.errorsAt pa = 1 ∨ s.errorsAt pa = 2 := by omega
  rcases hcase with h | h | h <;> simp [State.readGuard, hp, h]

theorem State.guardList_clean {ps : List Nat} (h : ∀ p ∈ ps, s.isPoison p = false ∧ s.errorsAt p = 0) :
    s.guardList ps = (none, s) := by
  induction ps with
  | nil => rfl
  | cons p r ih =>
    obtain ⟨hp, he⟩ := h p List.mem_cons_self
    simpa [State.guardList, State.readGuard_clean hp he] using ih fun q hq => h q (List.mem_cons_of_mem p hq)

/-- A word that can be read, of a cell of depth 1 in SRAM, takes a plain write (R110). -/
theorem State.plainWrite_ok {x : Word} {m scope core unit : Nat} (hp : s.isPoison w = false) (he : s.errorsAt w < 3)
    (hd : 2 ^ 54 ≤ w → sideDepth (s.sideOf w) = 0) : ∃ t, s.plainWrite w x m scope core unit = .ok t := by
  have hg := State.readGuard_readable hp he
  unfold State.plainWrite
  split
  · exact ⟨_, if_pos hg⟩
  · rename_i hw
    have hd := hd (Nat.le_of_not_lt hw)
    split
    · simp [hp, hd]
    · simp [hg, hd]

end

/-! ### Stores of a part of a word (R65, R79) -/

/-- A request names the nibbles `m` of its word and puts those of `d` there: a sub-byte store, or an aligned store of 1, 2 or 4
bytes. -/
def NamesNibbles (q : Req) (m : BitVec 16) (d : Word) : Prop :=
  q.op = .sub m d ∨ ∃ x, q.op = .store x ∧ q.size ∈ [1, 2, 4] ∧ q.pa % q.size = 0 ∧
    m = BitVec.ofNat 16 ((2 ^ (2 * q.size) - 1) * 2 ^ (2 * (q.pa % 8))) ∧
    d = BitVec.ofNat 64 (x.toNat % 2 ^ (8 * q.size) * 2 ^ (8 * (q.pa % 8)))

section
variable {s t : State} {r q : Req} {m n : BitVec 16} {d e : Word}

/-- The mask of an aligned store of a part of a word has 16 bits. -/
theorem nibbleMask_lt {o n : Nat} (h : o + n ≤ 8) : nibbleMask o n < 2 ^ 16 := by
  calc nibbleMask o n < 2 ^ (2 * n) * 2 ^ (2 * o) :=
        Nat.mul_lt_mul_of_pos_right (Nat.sub_lt (Nat.two_pow_pos _) Nat.one_pos) (Nat.two_pow_pos _)
    _ = 2 ^ (2 * n + 2 * o) := (Nat.pow_add 2 _ _).symm
    _ ≤ 2 ^ 16 := Nat.pow_le_pow_right (by decide) (by omega)

/-- The owner merges a store of a part of a word into it. -/
theorem perform_of_names (hf : ¬ s.heldBack q) (hn : NamesNibbles q m d) : perform s q =
    match s.plainWrite (q.pa / 8 * 8) d m.toNat q.rscope q.core q.unit with
    | .error (c, u) => failP u q c (u.depthWords (q.pa / 8 * 8) c)
    | .ok u => .done u 0 0 .none := by
  rcases hn with hop | ⟨x, hop, hsize, hal, rfl, rfl⟩
  · exact perform_sub hf hop
  · have hfits : q.pa % 8 + q.size ≤ 8 := by
      simp only [List.mem_cons, List.not_mem_nil, or_false] at hsize
      rcases hsize with h | h | h <;> rw [h] at hal ⊢ <;> omega
    have hmask : (BitVec.ofNat 16 ((2 ^ (2 * q.size) - 1) * 2 ^ (2 * (q.pa % 8)))).toNat = nibbleMask (q.pa % 8) q.size := by
      rw [BitVec.toNat_ofNat]
      exact Nat.mod_eq_of_lt (nibbleMask_lt hfits)
    rewrite [perform_store hf hop, hmask, writePlain, show q.pa - q.pa % 8 = q.pa / 8 * 8 by omega]
    rfl

/-- A store of a part of a word that is performed leaves the merged word. -/
theorem mem_of_perform_names (hn : NamesNibbles q m d) {x : Word} {fl : Flags} {miss : Miss} (hp : perform s q = .done t x fl miss) :
    t.mem = writeWord s.mem (q.pa / 8 * 8) (mergeNibbles (s.peek (q.pa / 8 * 8)) d m.toNat) := by
  have hf : ¬ s.heldBack q := fun h => by rw [perform_of_heldBack h] at hp; cases hp
  rw [perform_of_names hf hn] at hp
  split at hp <;> cases hp
  rename_i hw
  exact s.plainWrite_mem hw

theorem field_peek_of_perform_names (hm : Memory.wf s.mem = true) (hn : NamesNibbles q m d) {x : Word} {fl : Flags} {miss : Miss}
    (hp : perform s q = .done t x fl miss) {k : Nat} (hk : k < 16) : field (t.peek (q.pa / 8 * 8)) (4 * k) 4 =
      if m.getLsbD k then field d (4 * k) 4 else field (s.peek (q.pa / 8 * 8)) (4 * k) 4 := by
  rw [State.peek, mem_of_perform_names hn hp, readWord_writeWord _ _ _ hm, field_mergeNibbles _ _ m hk]

theorem getLsbD_of_and_eq_zero (h : m &&& n = 0) {k : Nat} (hk : m.getLsbD k = true) : n.getLsbD k = false := by
  have hand := congrArg (·.getLsbD k) h
  simpa [hk] using hand

end

/-- Settles O23: the owner merges each store into its word, so that a nibble holds what the last store that names it put there. -/
theorem partialStoresReplaceOnlyWhatTheyName : Obligations.PartialStoresReplaceOnlyWhatTheyName := by
  intro s r m d w names hnames hr hw hlock hrel hpoison herr hdepth hm
  obtain rfl : names = NamesNibbles := funext fun q => funext fun m => funext fun d => propext (hnames q m d)
  subst hw
  obtain ⟨t, ht⟩ := State.plainWrite_ok (s := s) (w := r.pa / 8 * 8) (x := d) (m := m.toNat) (scope := r.rscope) (core := r.core)
    (unit := r.unit) (by rwa [State.isPoison_word]) (by rwa [State.errorsAt_word]) fun h => hdepth (by omega)
  have hdone : perform s r = .done t 0 0 .none := by
    rw [perform_of_names (State.not_heldBack hlock hrel) hr, ht]
  have hmem := mem_of_perform_names hr hdone
  have hwf : Memory.wf t.mem = true := hmem ▸ Memory.wf_writeWord s.mem _ _ hm
  refine ⟨t, hdone, hwf, fun k hk => field_peek_of_perform_names hm hr hdone hk, fun a ha => ?_,
    fun q n e u hq hword hdisj hu k hk => ?_⟩
  · rw [hmem]
    exact byteAt_putBytes_out _ s.mem _ a (by rwa [natToBytes_length])
  · have hlast := field_peek_of_perform_names hwf hq hu hk
    rw [hword] at hlast
    rw [hlast, field_peek_of_perform_names hm hr hdone hk]
    cases hmk : m.getLsbD k with
    | true => simp [getLsbD_of_and_eq_zero hdisj hmk]
    | false => simp

end Sys2Proof.Machine

namespace Sys2Proof.Machine

/-! ### A request served at its owner (O30: R79, R107–R109, R111) -/

section
variable {s : State} {r : Req}

/-- A request whose turn it is gets the owner's answer: done, held as a waiter, tried again, or refused. -/
theorem State.serve_of_turn {served : State} (hbehind : s.behind (ownerStep r) = false) (hserver : s.afterServer r = false)
    (hdone : ∀ t x fl m, perform s r = .done t x fl m → served =
      if changes r.op then (s.wordsWritten r).foldl State.stir ((t.complete r x fl m false).noteCommit r m)
      else (t.complete r x fl m false).noteCommit r m)
    (hhold : perform s r = .hold → served = s.holdAt r) (hwait : perform s r = .wait → served = s.later (ownerStep r))
    (hfault : ∀ t f, perform s r = .fault t f → served = t.failAt r f false) : s.serve r = served := by
  unfold State.serve
  rw [hbehind, hserver]
  cases hp : perform s r with
  | done t x fl m => exact (hdone t x fl m hp).symm
  | hold => exact (hhold hp).symm
  | wait => exact (hwait hp).symm
  | fault t f => exact (hfault t f hp).symm

theorem wordsWritten_eq (s : State) (r : Req) : s.wordsWritten r = match r.op with
    | .stv v _ | .rcl v => [r.pa + 8 * (v.toNat % 2 ^ sideDepth (s.sideOf r.pa))]
    | .vinit k _ => (List.range (2 ^ k.toNat)).map fun i => r.pa + 8 * i
    | _ => [r.pa / 8 * 8] := by
  unfold State.wordsWritten
  cases r.op <;> rfl

/-- An operation on a cell that can be read goes on in the state as it stands. -/
theorem guardedCell_clean (h : ∀ c ∈ s.cellWords (r.pa / 8 * 8), s.isPoison c = false ∧ s.errorsAt c = 0) (k : State → Perf) :
    guardedCell s r k = k s := by
  rw [guardedCell, State.guardList_clean h]

/-- An access that is no acquire is checked against no scope. -/
theorem acquired_of_not_acquires (h : r.ord.acquires = false) (w : Nat) (k : State → Miss → Perf) :
    acquired s r w k = k s .none := by
  simp [acquired, h]

/-- A versioned load that no log gate stops and that is no acquire is answered as R108 answers. -/
theorem perform_ldv_of_ungated (hf : ¬ s.heldBack r) {v : Byte} (hop : r.op = .ldv v)
    (hcell : ∀ c ∈ s.cellWords (r.pa / 8 * 8), s.isPoison c = false ∧ s.errorsAt c = 0)
    (hgate : ∀ k, gated s r 0x04 v.toNat k = k s) (hacq : r.ord.acquires = false) :
    perform s r = ofVer s r (verLoad s r.pa v.toNat) .none := by
  rw [perform_ldv hf hop, guardedCell_clean hcell]
  cases hv : verLoad s r.pa v.toNat with
  | done t x fl =>
    obtain ⟨rfl, rfl⟩ := state_of_verLoad_done hv
    exact (hgate _).trans (acquired_of_not_acquires hacq _ _)
  | hold => rfl
  | fault c ws => rfl

end

/-- Settles O30, by what the owner answers and what its step makes of the answer. -/
theorem ownerStepsAnswerTheirRequests : Obligations.OwnerStepsAnswerTheirRequests := by
  intro s r served hbehind hserver hdone hhold hwait hfault
  have hs : Host.Outcome.next (s.serve r) = (.next served : Out) :=
    congrArg _ (State.serve_of_turn hbehind hserver hdone hhold hwait hfault)
  refine ⟨hs, hs, hs, hs, hs, wordsWritten_eq s r, fun hlock hrel hcell => ?_⟩
  have hf := State.not_heldBack hlock hrel
  refine ⟨fun v x hop => ?_, fun v hop => ?_, fun k v hop => perform_vinit hf hop,
    fun v hop hgate hacq => perform_ldv_of_ungated hf hop hcell hgate hacq⟩
  · rw [perform_stv hf hop, guardedCell_clean hcell]
  · rw [perform_rcl hf hop, guardedCell_clean hcell]

end Sys2Proof.Machine

namespace Sys2Proof.Machine

/-! ### A store into memory that lists a byte twice (O29)

The clause on the bytes around a store does not ask for memory in canonical form. The store of a byte writes its whole word back;
in the memory below the first entry of byte 1 says 0, and writing that 0 back takes the entry off, so that the second, which says
7, comes to the front. -/

/-- Byte 1 of HBM listed twice: as 0, and behind that as 7. -/
def twiceListed : State := { State.reset with mem := [(1, 0), (1, 7)] }

/-- The host stores 5 into byte 0. -/
def byteStore : Req :=
  { agent := .host, core := 0, unit := 0, ctx := 0, va := 0, pa := 0, space := 0, size := 1, op := .store 5, ord := .rlx, scope := 0,
    rd := 0, pc := 0, sn := 0 }

theorem byteStore_names : NamesNibbles byteStore 3 5 :=
  .inr ⟨5, rfl, by decide, rfl, rfl, rfl⟩

theorem twiceListed_byte : byteAt twiceListed.mem 1 = 0 := by decide

/-- After the store, however the owner answers it, byte 1 reads 7. -/
theorem byteStore_uncovers {t : State} (h : perform twiceListed byteStore = .done t 0 0 .none) : byteAt t.mem 1 = 7 := by
  rw [mem_of_perform_names byteStore_names h]
  decide

/-- Refutes O29: in memory that is not in canonical form, a store of byte 0 changes what byte 1 reads. -/
theorem not_plainAccessesAtTheirOwner : ¬ Obligations.PlainAccessesAtTheirOwner := by
  unfold Obligations.PlainAccessesAtTheirOwner
  intro h
  obtain ⟨-, -, -, hstore, -⟩ := h twiceListed byteStore 0 (by decide) (by decide) (by decide) (by decide) (.inl rfl) (by decide)
    (by decide) rfl
  obtain ⟨t, ht, hframe, -⟩ := hstore 5 rfl (.inl (by decide))
  have hkept : byteAt t.mem 1 = 0 := (hframe 1 (.inr (by decide))).trans twiceListed_byte
  exact absurd (hkept.symm.trans (byteStore_uncovers ht)) (by decide)

end Sys2Proof.Machine

namespace Sys2Proof.Machine

/-! ### Barriers and groups (O45: R187, R188, R309–R311) -/

/-- The instructions of the family. -/
def barrierInstrs (l : Lone) (d a b : Reg) : List Instr :=
  [.binit l a b, .barr l d a, .barw l d a, .ginit l a b, .gkill l a, .gquery l d a]

/-- A table that is refused: misaligned, of another package, or not wholly in the slice of the barrier (R188, R311). -/
def State.badTable (s : State) (k : Nat) (x : Word) : Prop :=
  x.toNat % 64 ≠ 0 ∨ s.nodeAway x = true ∨ resolved s.cur.core x / 2 ^ 53 % 8 ≠ 2 ∨
    sramLid (resolved s.cur.core x % 2 ^ 56) = true ∨ (!sramFieldsOk s (resolved s.cur.core x % 2 ^ 56)) = true ∨
    coreOfSlice (resolved s.cur.core x % 2 ^ 56) ≠ k / 1024 ∨ Config.sliceBytes < sramOff (resolved s.cur.core x) + 512

section
variable {s : State} {a : Reg} {k : Nat} {f : Nat → Out}

/-! #### What every instruction of the family checks first -/

theorem barrierOp_of_handler (hs : s.speculating = false) (hrc : s.cur.rc = true) :
    barrierOp s a f = .next (s.raiseAfter 0x0C2 0 [] none) := by
  rw [barrierOp, boundary_of_not_speculating _ hs, notInHandler_of_rc _ hrc]

theorem arrive_of_handler (hs : s.speculating = false) (hrc : s.cur.rc = true) (d : Reg) (w : Bool) :
    arrive s d a w = .next (s.raiseAfter 0x0C2 0 [] none) := by
  rw [arrive, boundary_of_not_speculating _ hs, notInHandler_of_rc _ hrc]

theorem exec_barrier_of_handler (hs : s.speculating = false) (hrc : s.cur.rc = true) {l : Lone} {d b : Reg} :
    ∀ i ∈ barrierInstrs l d a b, exec i s = .next (s.raiseAfter 0x0C2 0 [] none) := by
  simp only [barrierInstrs, List.forall_mem_cons, List.not_mem_nil, false_implies, implies_true, and_true]
  exact ⟨barrierOp_of_handler hs hrc, arrive_of_handler hs hrc d false, arrive_of_handler hs hrc d true,
    barrierOp_of_handler hs hrc, barrierOp_of_handler hs hrc, barrierOp_of_handler hs hrc⟩

variable (hs : s.speculating = false) (hrc : s.cur.rc = false)
include hs hrc

theorem arrive_of_noBarrier (hk : s.barrierKey (s.g a) = none) (d : Reg) (w : Bool) :
    arrive s d a w = .next (s.raiseAfter 0x043 (s.g a) [] none) := by
  rw [arrive, boundary_of_not_speculating _ hs, notInHandler_of_not_rc _ hrc, hk]

theorem arrive_of_notReleased (hk : s.barrierKey (s.g a) = some k)
    (h : s.cur.mayAccess = false ∨ s.cur.releaseHolds 5 = false) (d : Reg) (w : Bool) : arrive s d a w = .next s.stall := by
  rw [arrive, boundary_of_not_speculating _ hs, notInHandler_of_not_rc _ hrc, hk]
  rcases h with h | h <;> simp [h]

/-- An arrival that may leave is on its way to the barrier's core. -/
theorem arrive_of_released (hk : s.barrierKey (s.g a) = some k) (hma : s.cur.mayAccess = true)
    (hrel : s.cur.releaseHolds 5 = true) (d : Reg) (w : Bool) : ∃ t m, arrive s d a w = .next t ∧
      t.agenda = s.agenda ++ [.barrierArrival m] ∧ m.name = s.g a ∧ m.waits = w ∧ m.rd = d ∧ m.agent = s.cur.agent ∧
      t.mem = s.mem ∧ t.cur.g = s.cur.g ∧ t.cur.isPend d = (s.cur.setPend d).isPend d ∧
      t.cur.waiting = (w || s.cur.waiting) ∧ t.barriers = s.barriers := by
  have hp : (s.cur.setPend d).g = s.cur.g ∧ (s.cur.setPend d).waiting = s.cur.waiting := by
    unfold Proc.setPend; split <;> exact ⟨rfl, rfl⟩
  rw [arrive, boundary_of_not_speculating _ hs, notInHandler_of_not_rc _ hrc, hk]
  simp only [hma, hrel, Bool.not_true, Bool.or_self, Bool.false_eq_true, if_false]
  exact ⟨_, _, rfl, rfl, rfl, rfl, rfl, rfl, rfl, hp.1, rfl, congrArg (w || ·) hp.2, rfl⟩

variable (hout : s.arrivalOut = false)
include hout

theorem barrierOp_of_noBarrier (hk : s.barrierKey (s.g a) = none) :
    barrierOp s a f = .next (s.raiseAfter 0x043 (s.g a) [] none) := by
  rewrite [barrierOp, boundary_of_not_speculating _ hs, notInHandler_of_not_rc _ hrc, hout, hk]
  rfl

theorem barrierOp_of_barrier (hk : s.barrierKey (s.g a) = some k) : barrierOp s a f = f k := by
  rewrite [barrierOp, boundary_of_not_speculating _ hs, notInHandler_of_not_rc _ hrc, hout, hk]
  rfl

theorem exec_barrier_of_noBarrier (hk : s.barrierKey (s.g a) = none) {l : Lone} {d b : Reg} :
    ∀ i ∈ barrierInstrs l d a b, exec i s = .next (s.raiseAfter 0x043 (s.g a) [] none) := by
  simp only [barrierInstrs, List.forall_mem_cons, List.not_mem_nil, false_implies, implies_true, and_true]
  exact ⟨barrierOp_of_noBarrier hs hrc hout hk, arrive_of_noBarrier hs hrc hk d false, arrive_of_noBarrier hs hrc hk d true,
    barrierOp_of_noBarrier hs hrc hout hk, barrierOp_of_noBarrier hs hrc hout hk, barrierOp_of_noBarrier hs hrc hout hk⟩

/-! #### `binit`, `ginit`, `gkill`, `gquery` at a barrier that exists -/

variable (hk : s.barrierKey (s.g a) = some k)
include hk

theorem exec_binit (l : Lone) (b : Reg) : exec (.binit l a b) s =
    if field (s.g b) 0 16 = 0 then .next (s.raiseAfter 0x001 s.cword [] none)
    else if (s.barrier k).arrived ≠ 0 then .next (s.raiseAfter 0x0C6 (s.g a) [] none)
    else .next (s.setBarrier k { Barrier.empty with expect := field (s.g b) 0 16 }) :=
  barrierOp_of_barrier hs hrc hout hk

theorem exec_gkill (l : Lone) : exec (.gkill l a) s = .next (((s.barrier k).members.filter (· ≠ 0)).foldl State.kill s) :=
  barrierOp_of_barrier hs hrc hout hk

theorem exec_gquery (l : Lone) (d : Reg) : exec (.gquery l d a) s = .next (s.setG d (BitVec.ofNat 64
    ((s.barrier k).members.countP fun p => decide (p ≠ 0) && decide ((s.proc p).pid = p) &&
      decide ((s.proc p).st ≠ .free) && decide ((s.proc p).st ≠ .done)))) := by
  have hlive : s.liveRecord = fun p => decide (p ≠ 0) && decide ((s.proc p).pid = p) &&
      decide ((s.proc p).st ≠ .free) && decide ((s.proc p).st ≠ .done) := by
    funext p
    simp [State.liveRecord, bne, beq_eq_decide]
  rw [← hlive, List.countP_eq_length_filter]
  exact barrierOp_of_barrier hs hrc hout hk

theorem exec_ginit_of_badTable (l : Lone) {b : Reg} (hb : s.badTable k (s.g b)) :
    exec (.ginit l a b) s = .next (s.raiseAfter 0x043 (s.g b) [] none) :=
  (barrierOp_of_barrier hs hrc hout hk).trans (if_pos hb)

section
variable {b : Reg} (hb : ¬ s.badTable k (s.g b))
include hb

theorem exec_ginit_of_uninitialised (l : Lone) (he : (s.barrier k).expect = 0) :
    exec (.ginit l a b) s = .next (s.raiseAfter 0x0C6 (s.g a) [] none) :=
  (barrierOp_of_barrier hs hrc hout hk).trans ((if_neg hb).trans (if_pos he))

theorem exec_ginit_of_unreadable (l : Lone) (he : (s.barrier k).expect ≠ 0) {table x : Nat} {z : State}
    (ht : table = resolved s.cur.core (s.g b))
    (hg : s.guardList ((List.range 64).map fun i => table % 2 ^ 56 + 8 * i) = (some x, z)) :
    exec (.ginit l a b) s = .next (z.raiseAfter 0x046 (BitVec.ofNat 64 x) [] none) := by
  subst ht
  refine (barrierOp_of_barrier hs hrc hout hk).trans ((if_neg hb).trans ((if_neg he).trans ?_))
  rw [hg]

theorem exec_ginit_of_read (l : Lone) (he : (s.barrier k).expect ≠ 0) {table : Nat} (ht : table = resolved s.cur.core (s.g b))
    (hg : s.guardList ((List.range 64).map fun i => table % 2 ^ 56 + 8 * i) = (none, s)) :
    exec (.ginit l a b) s = .next (s.setBarrier k { s.barrier k with
      table := table % 2 ^ 56, members := (List.range 64).map fun i => readNat s.mem (table % 2 ^ 56 + 8 * i) 8 }) := by
  subst ht
  refine (barrierOp_of_barrier hs hrc hout hk).trans ((if_neg hb).trans ((if_neg he).trans ?_))
  rw [hg]

end

end

/-! #### Parking -/

section
variable {s : State}

/-- Chaining the waiters of a controller writes records alone. -/
theorem State.relink_eq (s : State) (obj : Nat) : ∃ m, s.relink obj = { s with mem := m } := by
  simp only [State.relink]
  split
  · exact ⟨s.mem, rfl⟩
  · exact ⟨_, rfl⟩

theorem State.updProc_self {f : Proc → Proc} (hf : (f s.cur).pid = s.cur.pid) : s.updProc s.cur.pid f = s.updCur f := by
  have hp : { f s.cur with pid := s.cur.pid } = f s.cur := by rw [← hf]
  rw [State.updProc, State.proc_cur, hp, State.setProc_cur s hf, State.updCur]

/-- A process parked on an object at a cycle. -/
def Proc.parkedOn (obj kind clk : Nat) (p : Proc) : Proc := { p with st := .parked, wait := obj, wkind := kind, parkedAt := clk }

/-- The record of the process that issues as it parks, in its context and in memory. -/
def State.parkedOn (s : State) (obj kind : Nat) : State :=
  ((s.updCur (Proc.parkedOn obj kind s.clk)).setRecState s.cur.pid .parked).setRecWait s.cur.pid obj

/-- The process that issues parks, when it is no task (R168). -/
theorem State.park_self (hst : s.cur.st = .running) (htask : s.cur.task = false) (obj kind : Nat) :
    ∃ m, s.park s.cur.pid obj kind = { s with
      mem := m, cur := s.cur.parkedOn obj kind s.clk, agenda := s.agenda ++ [.slotFill s.cur.core] } := by
  have hpark : s.park s.cur.pid obj kind = ((s.parkedOn obj kind).relink obj).push (.slotFill s.cur.core) := by
    have hself : s.updProc s.cur.pid (Proc.parkedOn obj kind s.clk) = s.updCur (Proc.parkedOn obj kind s.clk) :=
      State.updProc_self rfl
    rw [State.parkedOn, ← hself]
    simp only [State.park, State.proc_cur, hst, htask, reduceCtorEq, false_and, if_false, bne_self_eq_false, Bool.false_and,
      Bool.false_eq_true]
    rfl
  obtain ⟨m, hm⟩ := State.relink_eq (s.parkedOn obj kind) obj
  exact ⟨m, by rw [hpark, hm]; rfl⟩

end

/-! #### Arrivals at the barrier's core -/

section
variable {s : State} {m : BarMsg} {x : Barrier} {k : Nat} (hk : s.barrierKey m.name = some k) (hx : s.barrier k = x)
include hk hx

theorem exec_barrierArrival_of_uninitialised (he : x.expect = 0) : exec (.barrierArrival m) s = .next ((s.endAwait m.agent).push
    (.heldCompletion (barDone m 0 (some { cause := 0x0C6, tval := m.name, words := [] })))) := by
  change execBarrierArrival m s = _
  simp only [execBarrierArrival, hk, hx, he, if_pos]

theorem exec_barrierArrival_of_barr (he : x.expect ≠ 0) (hshort : x.arrived + 1 < x.expect) (hw : m.waits = false) :
    exec (.barrierArrival m) s =
      .next ((s.setBarrier k { x with arrived := x.arrived + 1 }).push (.heldCompletion (barDone m x.gen none))) := by
  change execBarrierArrival m s = _
  simp [execBarrierArrival, hk, hx, he, hshort, hw]

/-- The arrival that a process waits for is held at the barrier, and the process no longer waits for its acceptance. -/
def Proc.heldAt (num : Nat) (p : Proc) : Proc :=
  { p with waiting := false, outst := p.outst.map fun o => if o.sn = num then { o with held := true } else o }

/-- A wait that is not the last joins the barrier's waiters, and its process parks. -/
theorem exec_barrierArrival_of_barw (he : x.expect ≠ 0) (hshort : x.arrived + 1 < x.expect) (hw : m.waits = true)
    (ha : m.agent = .proc s.cur.pid) (hst : s.cur.st = .running) (htask : s.cur.task = false) :
    ∃ t, exec (.barrierArrival m) s = .next t ∧
      t.barriers = SMap.put Barrier.empty s.barriers k { x with arrived := x.arrived + 1, waiters := x.waiters ++ [m] } ∧
      t.cur.st = .parked ∧ t.cur.wait = m.name.toNat ∧ t.cur.wkind = 6 := by
  let u : State := (s.setBarrier k { x with arrived := x.arrived + 1, waiters := x.waiters ++ [m] }).updCur (Proc.heldAt m.num)
  have hu : exec (.barrierArrival m) s = .next (u.park u.cur.pid m.name.toNat 6) := by
    change execBarrierArrival m s = _
    simp only [execBarrierArrival, hk, hx, he, hshort, hw, ha, if_true, if_false]
    exact congrArg (fun v : State => Host.Outcome.next (v.park s.cur.pid m.name.toNat 6)) (State.updProc_self rfl)
  obtain ⟨n, hn⟩ := State.park_self (s := u) hst htask m.name.toNat 6
  exact ⟨_, hn ▸ hu, rfl, rfl, rfl, rfl⟩

/-- The last arrival releases the generation: every waiter and the arrival itself are answered with it. -/
theorem exec_barrierArrival_of_last (he : x.expect ≠ 0) (hlast : x.expect ≤ x.arrived + 1)
    (hlog : s.logged (s.proc m.agent.pid) = false) : exec (.barrierArrival m) s =
      .next (((x.waiters.foldl (fun s w => s.satisfies w.agent)
          (s.setBarrier k { x with arrived := 0, gen := x.gen + 1, waiters := [] })).endAwait m.agent).pushAll
        ((x.waiters ++ [m]).map fun w => .heldCompletion (barDone w x.gen none))) := by
  change execBarrierArrival m s = _
  simp [execBarrierArrival, hk, hx, he, hlast.not_gt, State.logGate, hlog]

end

/-- A table of the barrier's own slice is not refused. -/
theorem State.not_badTable {s : State} {k table : Nat} {x : Word} (ht : table = resolved s.cur.core x) (hal : x.toNat % 64 = 0)
    (hnode : s.nodeAway x = false) (hsp : table / 2 ^ 53 % 8 = 2) (hlid : sramLid (table % 2 ^ 56) = false)
    (hok : sramFieldsOk s (table % 2 ^ 56) = true) (hcore : coreOfSlice (table % 2 ^ 56) = k / 1024)
    (hfits : sramOff table + 512 ≤ Config.sliceBytes) : ¬ s.badTable k x := by
  subst ht
  simp only [State.badTable, hal, hnode, hsp, hlid, hok, hcore, hfits.not_gt, ne_eq, not_true_eq_false, Bool.not_true,
    Bool.false_eq_true, or_self, not_false_eq_true]

/-- Settles O45, by the checks of the family and what each instruction and each arrival does then. -/
theorem barriersAndGroupsComplete : Obligations.BarriersAndGroupsComplete := by
  intro s l d a b k
  refine ⟨fun hs hrc hout => ⟨fun hk => exec_barrier_of_noBarrier hs hrc hout hk, fun hk => ?_⟩,
    fun hs hrc => exec_barrier_of_handler hs hrc,
    fun m x hk hx => ⟨exec_barrierArrival_of_uninitialised hk hx, exec_barrierArrival_of_barr hk hx, ?_,
      exec_barrierArrival_of_last hk hx⟩⟩
  · have hbinit := exec_binit hs hrc hout hk l b
    refine ⟨fun hn => ?_, fun hn ha => ?_, fun hn ha => ?_, fun hma hrel i w hi => ?_, fun hno => ?_, fun table ht hal hnode hsp
      hlid hok hcore hfits => ?_, fun hal => exec_ginit_of_badTable hs hrc hout hk l (.inl hal), exec_gkill hs hrc hout hk l,
      exec_gquery hs hrc hout hk l d⟩
    · rw [hbinit, if_pos hn]
    · rw [hbinit, if_neg hn, if_pos ha]
    · rw [hbinit, if_neg hn, if_neg (not_not_intro ha)]
    · rcases hi with ⟨rfl, rfl⟩ | ⟨rfl, rfl⟩
      · exact arrive_of_released hs hrc hk hma hrel d false
      · exact arrive_of_released hs hrc hk hma hrel d true
    · exact ⟨arrive_of_notReleased hs hrc hk hno d false, arrive_of_notReleased hs hrc hk hno d true⟩
    · have hb := State.not_badTable ht hal hnode hsp hlid hok hcore hfits
      exact ⟨exec_ginit_of_uninitialised hs hrc hout hk hb l, fun he x z => exec_ginit_of_unreadable hs hrc hout hk hb l he ht,
        fun he => exec_ginit_of_read hs hrc hout hk hb l he ht⟩
  · intro hwf he hshort hw pid ha hpid hst htask
    obtain ⟨t, ht, hbars, hparked⟩ := exec_barrierArrival_of_barw hk hx he hshort hw (hpid ▸ ha) hst htask
    exact ⟨t, ht, by rw [State.barrier, hbars, SMap.get_put_self _ _ _ hwf], hparked⟩

end Sys2Proof.Machine

namespace Sys2Proof.Machine

/-! ### Select (O42: R179–R181, R300, R301) -/

/-! #### What `chsel` checks, in its order -/

/-- `chsel` comes to its list: no chunk, handler, time-out or channel operation stands in its way. -/
structure SelIssues (s : State) (l : Lone) (b : Reg) (la : Word) : Prop where
  plain : s.speculating = false
  noHandler : s.cur.rc = false
  noneOut : s.cur.chan = 0
  access : s.cur.mayAccess = true
  unarmed : s.cur.armed = none
  operand : la = s.descOp l b

/-- Its list is in a slice or lid of this package, and nothing keeps its words from being read. -/
structure SelReaches (s : State) (l : Lone) (b : Reg) (la : Word) (list n : Nat) : Prop extends SelIssues s l b la where
  aligned : la.toNat % 64 = 0
  sram : resolved s.cur.core la / 2 ^ 53 % 8 = 2
  own : s.isPeerKey (resolved s.cur.core la) = false
  key : list = localKey (resolved s.cur.core la)
  count : n = field (s.peek list) 0 6
  head : ∃ x y, checkAccess s s.cur.core s.cur.ctx la 32 needRW false = .ok x y
  last : ∃ x y, checkAccess s s.cur.core s.cur.ctx (la + BitVec.ofNat 64 (24 + 32 * min n 32)) 8 needRW false = .ok x y
  released : s.cur.releaseHolds 6 = true
  settled : s.inFlightTo s.cur.agent (list / 64) = false

/-- The words of a list of `n` alternatives. -/
def listWords (list n : Nat) : List Nat := (List.range (4 + 4 * min n 32)).map fun i => list + 8 * i

/-- Every word of the list can be read, and it lies in one slice or lid. -/
structure SelReads (s : State) (l : Lone) (b : Reg) (la : Word) (list n : Nat) : Prop extends SelReaches s l b la list n where
  readable : s.guardList (listWords list n) = (none, s)
  inside : listOutside list n = false

/-- The channel messages of the guarded alternatives, before their elements are read. -/
def State.selMsgs (s : State) (list n : Nat) : List ChanMsg :=
  (List.range n).filterMap fun i => (if (s.altAt list i).guard && (s.altAt list i).kind != 2 then altKey s (s.altAt list i)
    else none).map fun key => altMsg s list (s.accs + 1) i key []

/-- The guarded time-out of a list. -/
def State.selTime (s : State) (list n : Nat) : Option Nat :=
  (List.range n).find? fun i => (s.altAt list i).guard && (s.altAt list i).kind == 2

/-- The select as it waits. -/
def State.selWait (s : State) (list n start num : Nat) (d : Reg) (f : BitVec 1) : SelWait :=
  { pid := s.cur.pid, core := s.cur.core, unit := s.cur.unit, ctx := s.cur.ctx, list := list, rd := d, fair := f == 1, pc := s.cur.pc,
    num := num, deadline := (s.selTime list n).map fun _ => s.clkOf s.cur.core + (s.selTime list n).elim 0 fun i => (s.altAt list i).count,
    timed := (s.selTime list n).getD 0,
    order := if f = 1 then (List.range n).map fun i => (start + i) % n else List.range n }

/-- What its process keeps of a select. -/
def State.selKeep (s : State) (n num : Nat) (d : Reg) (ms : List ChanMsg) : State :=
  { s with
    accs := num + n
    cur := { (s.cur.setPend d) with
      holdAll := s.cur.holdAll ++ [num]
      selRedo := some { pc := s.cur.pc, ir := s.ir, regs := s.keep, isA := false }
      seqs := ms.foldl (fun q m => if m.send then SMap.put 0 q m.key m.seq else q) s.cur.seqs
      outst := s.cur.outst ++ [{ sn := num, loads := false, stores := false, held := false, sp3 := false, owner := [] }] } }

/-- A select whose elements have been read: it asks the homes of peers first, or chooses (R179, R180). -/
def State.selGo (s : State) (list n start num : Nat) (d : Reg) (f : BitVec 1) (ms : List ChanMsg) : Out :=
  let w := s.selWait list n start num d f
  let away := ms.filter fun m => s.isPeerAddr m.handle
  let k := s.selKeep n num d ms
  if away.isEmpty then .next (k.enterSelect w ms)
  else .next (away.foldl State.toHome { k with
    cur := { k.cur with waiting := true }, selq := k.selq ++ [{ w with alts := ms, asked := away.filterMap fun m => m.sel.map (·.2) }] })

section
variable {s u z : State} {l : Lone} {d b : Reg} {f : BitVec 1} {la : Word} {list n x i : Nat} {ms : List ChanMsg}

/-- The checks that `chsel` makes before it looks at its list are passed. -/
theorem SelIssues.checks (h : SelIssues s l b la) : ¬ s.cur.rc = true ∧ ¬ (s.cur.armed.isSome && s.cur.chan == 0) = true ∧
    ¬ (0 < s.cur.chan ∨ (!s.cur.mayAccess) = true) := by
  simp [h.noHandler, h.unarmed, h.noneOut, h.access]

/-- The checks of the list's address are passed. -/
theorem SelReaches.addressChecks (h : SelReaches s l b la list n) : ¬ la.toNat % 64 ≠ 0 ∧
    ¬ (resolved s.cur.core la / 2 ^ 53 % 8 ≠ 2 ∨ s.isPeerKey (resolved s.cur.core la) = true) ∧
    ¬ (!s.cur.releaseHolds 6 || s.inFlightTo s.cur.agent (list / 64)) = true := by
  simp only [h.aligned, h.sram, h.own, h.released, h.settled, ne_eq, not_true_eq_false, Bool.false_eq_true, or_self,
    not_false_eq_true, Bool.not_true, Bool.or_self, and_self]

theorem exec_chsel_of_armed (hs : s.speculating = false) (hrc : s.cur.rc = false) (harm : s.cur.armed.isSome = true)
    (hchan : s.cur.chan = 0) : exec (.chsel l d b f) s = raiseO s 0x001 s.cword :=
  (boundary_of_not_speculating _ hs).trans ((if_neg (by simp [hrc])).trans (if_pos (by simp [harm, hchan])))

theorem exec_chsel_of_misaligned (h : SelIssues s l b la) (hal : la.toNat % 64 ≠ 0) : exec (.chsel l d b f) s = raiseO s 0x040 la := by
  obtain ⟨hrc, harm, hbusy⟩ := h.checks
  obtain rfl := h.operand
  exact (boundary_of_not_speculating _ h.plain).trans ((if_neg hrc).trans ((if_neg harm).trans ((if_neg hbusy).trans (if_pos hal))))

theorem exec_chsel_of_elsewhere (h : SelIssues s l b la) (hal : la.toNat % 64 = 0)
    (hk : resolved s.cur.core la / 2 ^ 53 % 8 ≠ 2 ∨ s.isPeerKey (resolved s.cur.core la) = true) :
    exec (.chsel l d b f) s = .next (s.raise 0x0C0 la s.cur.pc [] true) := by
  obtain ⟨hrc, harm, hbusy⟩ := h.checks
  obtain rfl := h.operand
  exact (boundary_of_not_speculating _ h.plain).trans ((if_neg hrc).trans ((if_neg harm).trans ((if_neg hbusy).trans
    ((if_neg (not_not_intro hal)).trans (if_pos hk)))))

/-- A list with a word that cannot be read raises SRAM_ECC (R62). -/
theorem exec_chsel_of_unreadable (h : SelReaches s l b la list n) (hg : s.guardList (listWords list n) = (some x, z)) :
    exec (.chsel l d b f) s = .next (z.raiseAfter 0x046 (BitVec.ofNat 64 x) [] none) := by
  obtain ⟨hrc, harm, hbusy⟩ := h.checks
  obtain ⟨hal, hkey, hstall⟩ := h.addressChecks
  obtain ⟨⟨y, k, hhead⟩, ⟨y', k', hlast⟩⟩ := And.intro h.head h.last
  obtain ⟨rfl, rfl, rfl⟩ := And.intro h.operand (And.intro h.key h.count)
  refine (boundary_of_not_speculating _ h.plain).trans ((if_neg hrc).trans ((if_neg harm).trans ((if_neg hbusy).trans
    ((if_neg hal).trans ((if_neg hkey).trans ?_)))))
  dsimp only
  rw [hhead, hlast]
  refine (if_neg hstall).trans ?_
  unfold listWords at hg
  rw [hg]

/-- A list whose words can be read: the header, the alternatives in order, the guards, and the elements (R300, R301). -/
theorem exec_chsel_of_reads (h : SelReads s l b la list n) : exec (.chsel l d b f) s =
    if field (s.peek list) 13 51 ≠ 0 ∨ field (s.peek list) 6 2 ≠ 0 ∨ n = 0 ∨ 32 < n ∨ n ≤ field (s.peek list) 8 5 ∨
      s.peek (list + 8) ≠ 0 ∨ s.peek (list + 16) ≠ 0 ∨ s.peek (list + 24) ≠ 0 then .next (s.raiseAfter 0x0C0 la [0] none)
    else match badAlt s list (List.range n) 0 with
      | some i => .next (s.raiseAfter 0x0C0 la [BitVec.ofNat 64 i] none)
      | none =>
        if (List.range n).all fun i => !(s.altAt list i).guard then .next (s.raiseAfter 0x001 s.cword [] none)
        else match altElems s s.cur.core s.cur.ctx (s.selMsgs list n) [] with
          | (.error e, u) => if e.cause = notYet then .next u.stall else .next (u.raiseAfter e.cause e.tval e.words none)
          | (.ok ms, u) => (u.dropHost u.cur.core u.cur.ctx).selGo list n (field (s.peek list) 8 5) (s.accs + 1) d f ms := by
  obtain ⟨hrc, harm, hbusy⟩ := h.checks
  obtain ⟨hal, hkey, hstall⟩ := h.addressChecks
  obtain ⟨⟨y, k, hhead⟩, ⟨y', k', hlast⟩⟩ := And.intro h.head h.last
  have hg := h.readable
  have hin := h.inside
  obtain ⟨rfl, rfl, rfl⟩ := And.intro h.operand (And.intro h.key h.count)
  refine (boundary_of_not_speculating _ h.plain).trans ((if_neg hrc).trans ((if_neg harm).trans ((if_neg hbusy).trans
    ((if_neg hal).trans ((if_neg hkey).trans ?_)))))
  dsimp only
  rw [hhead, hlast]
  refine (if_neg hstall).trans ?_
  unfold listWords at hg
  rw [hg]
  refine (if_neg (by simp [hin])).trans ?_
  rfl

end

/-! #### The choice -/

theorem map_add_elim (o : Option Nat) (c : Nat) (g : Nat → Nat) : (o.map fun _ => c + o.elim 0 g) = o.map fun i => c + g i := by
  cases o <;> rfl

/-- The deadline of a select is the core's CLK and the count of its time-out. -/
theorem selWait_eq (s : State) (list n start num : Nat) (d : Reg) (f : BitVec 1) : s.selWait list n start num d f =
    { pid := s.cur.pid, core := s.cur.core, unit := s.cur.unit, ctx := s.cur.ctx, list := list, rd := d, fair := f == 1,
      pc := s.cur.pc, num := num, deadline := (s.selTime list n).map fun i => s.clkOf s.cur.core + (s.altAt list i).count,
      timed := (s.selTime list n).getD 0,
      order := if f = 1 then (List.range n).map fun i => (start + i) % n else List.range n } := by
  rw [State.selWait, map_add_elim]

section
variable {s : State} {list n start num : Nat} {d : Reg} {f : BitVec 1} {ms : List ChanMsg}

theorem State.selGo_of_near (h : ∀ m ∈ ms, s.isPeerAddr m.handle = false) : s.selGo list n start num d f ms =
    .next ((s.selKeep n num d ms).enterSelect (s.selWait list n start num d f) ms) := by
  have hnone : ms.filter (fun m => s.isPeerAddr m.handle) = [] := List.filter_eq_nil_iff.mpr (by simpa using h)
  unfold State.selGo
  extract_lets w away k
  have hempty : away.isEmpty = true := List.isEmpty_iff.mpr hnone
  exact if_pos hempty

theorem State.selGo_of_away (h : ∃ m ∈ ms, s.isPeerAddr m.handle = true) : s.selGo list n start num d f ms =
    .next ((ms.filter fun m => s.isPeerAddr m.handle).foldl State.toHome { s.selKeep n num d ms with
      cur := { (s.selKeep n num d ms).cur with waiting := true }
      selq := (s.selKeep n num d ms).selq ++ [{ s.selWait list n start num d f with
        alts := ms, asked := (ms.filter fun m => s.isPeerAddr m.handle).filterMap fun m => m.sel.map (·.2) }] }) := by
  refine if_neg fun hempty => ?_
  obtain ⟨m, hm, hp⟩ := h
  exact absurd hp (List.filter_eq_nil_iff.mp (List.isEmpty_iff.mp hempty) m hm)

end

section
variable {s x : State} {w : SelWait} {ms : List ChanMsg}

/-- Outside a replay the first alternative in order is taken whose time-out has come or whose channel is ready. -/
theorem readyAlt_of_noReplay (h : x.replayIndex (x.proc w.pid) w.list = none) : readyAlt x w ms = w.order.find? fun i =>
    (w.deadline.elim false fun d => decide (w.timed = i) && decide (d ≤ x.clkOf w.core)) ||
    ms.any fun m => m.sel == some (w.list, i) && (if x.isPeerAddr m.handle then w.found.contains i else x.altReady m) := by
  unfold readyAlt
  rewrite [h]
  rfl

theorem replayIndex_of_noReplay {p : Proc} (h : s.replays p = false) (list : Nat) : s.replayIndex p list = none := by
  exact if_neg (show ¬ s.replays p = true by simp [h])

/-- Whether a process replays is a matter of its launch and of its context's log. -/
theorem replays_congr {p q : Proc} (hctxs : x.ctxs = s.ctxs) (hlaunches : x.launches = s.launches) (hc : p.ctx = q.ctx)
    (hl : p.launch = q.launch) : x.replays p = s.replays q := by
  simp only [State.replays, State.logged, State.launchOf, State.ctx, hctxs, hlaunches, hc, hl]

variable (hx : x = { s with selq := s.selq ++ [w], chanq := s.chanq ++ ms.filter fun m => !s.isPeerAddr m.handle })
include hx

theorem enterSelect_of_noneReady (h : readyAlt x w ms = none) : s.enterSelect w ms = x.waitSelect w ms none := by
  subst hx
  simp only [State.enterSelect, h]

theorem enterSelect_of_time {i : Nat} (h : readyAlt x w ms = some i) (hf : ms.find? (fun m => m.sel == some (w.list, i)) = none) :
    s.enterSelect w ms = (x.fireTime w).waitSelect w ms none := by
  subst hx
  simp only [State.enterSelect, h, hf]

section
variable {m : ChanMsg} {i : Nat} (h : readyAlt x w ms = some i) (hf : ms.find? (fun m => m.sel == some (w.list, i)) = some m)
include h hf

theorem enterSelect_of_endpoint (he : isExtKey m.key = true) : s.enterSelect w ms = (x.moveExt w m i).waitSelect w ms none := by
  subst hx
  simp only [State.enterSelect, h, hf, he, if_true]

theorem enterSelect_of_channel (he : isExtKey m.key = false) (hp : x.isPeerAddr m.handle = false) (hpart : x.partner m = none) :
    s.enterSelect w ms = ((x.grantAlt w.list (some i)).serveChan m.key).waitSelect w ms none := by
  subst hx
  simp only [State.enterSelect, h, hf, he, hp, hpart, Option.isSome_none, Bool.false_eq_true, if_false]

end

end

/-! #### A select that waits for its time-out alone -/

section
variable {s : State} {w : SelWait}

theorem waitSelect_of_registered (hsel : s.selAt w.list = some w) (hg : w.granted = none) :
    s.waitSelect w [] none = s.parkSelect w := by
  have hserve : s.serveAll [] = s := rfl
  simp [State.waitSelect, hsel, hg, hserve]

/-- The process of a select as it parks: its time-out armed, its operation held. -/
def Proc.armedFor (w : SelWait) (p : Proc) : Proc :=
  { p with armed := w.deadline, waiting := false, outst := p.outst.map fun o => if o.sn = w.num then { o with held := true } else o }

/-- Outside a replay the time-out of a select is a timer of its core. -/
theorem parkSelect_self {dl : Nat} (hp : w.pid = s.cur.pid) (hd : w.deadline = some dl) (hrep : s.replays s.cur = false)
    (hst : s.cur.st = .running) (htask : s.cur.task = false) : ∃ m, s.parkSelect w = { s with
      mem := m, timers := s.timers ++ [(s.clk + (dl - s.clkOf w.core), .timeoutFire s.cur.pid)]
      cur := (s.cur.armedFor w).parkedOn w.list 3 s.clk, agenda := s.agenda ++ [.slotFill s.cur.core] } := by
  have hself : s.updProc s.cur.pid (Proc.armedFor w) = s.updCur (Proc.armedFor w) := State.updProc_self rfl
  have hproc : (s.updCur (Proc.armedFor w)).proc s.cur.pid = s.cur.armedFor w := (s.updCur (Proc.armedFor w)).proc_cur
  have hr : (s.updCur (Proc.armedFor w)).replays (s.cur.armedFor w) = false :=
    (replays_congr (s := s) (q := s.cur) rfl rfl rfl rfl).trans hrep
  have harm : (s.updCur (Proc.armedFor w)).arm s.cur.pid (dl - s.clkOf w.core) (.timeoutFire s.cur.pid) =
      (s.updCur (Proc.armedFor w)).after (dl - s.clkOf w.core) (.timeoutFire s.cur.pid) := by
    simp [State.arm, hproc, hr]
  have helim (u : State) (g : Nat → State) : w.deadline.elim u g = g dl := by rw [hd]; rfl
  obtain ⟨m, hm⟩ := State.park_self (s := (s.updCur (Proc.armedFor w)).after (dl - s.clkOf w.core) (.timeoutFire s.cur.pid))
    hst htask w.list 3
  refine ⟨m, Eq.trans ?_ hm⟩
  simp only [State.parkSelect, helim, hp]
  exact (congrArg (fun u : State => (u.arm s.cur.pid (dl - u.clkOf w.core) (.timeoutFire s.cur.pid)).park s.cur.pid w.list 3)
    hself).trans (congrArg (State.park · s.cur.pid w.list 3) harm)

end

/-! A pending mark is no part of where a process stands. -/

section
variable (p : Proc) (r : Reg)

@[simp] theorem Proc.setPend_pid : (p.setPend r).pid = p.pid := by unfold Proc.setPend; split <;> rfl
@[simp] theorem Proc.setPend_st : (p.setPend r).st = p.st := by unfold Proc.setPend; split <;> rfl
@[simp] theorem Proc.setPend_task : (p.setPend r).task = p.task := by unfold Proc.setPend; split <;> rfl
@[simp] theorem Proc.setPend_ctx : (p.setPend r).ctx = p.ctx := by unfold Proc.setPend; split <;> rfl
@[simp] theorem Proc.setPend_launch : (p.setPend r).launch = p.launch := by unfold Proc.setPend; split <;> rfl

end

/-- The select is registered, and its channel alternatives of this package wait at their homes. -/
def State.registered (s : State) (w : SelWait) (ms : List ChanMsg) : State :=
  { s with selq := s.selq ++ [w], chanq := s.chanq ++ ms.filter fun m => !s.isPeerAddr m.handle }

theorem State.selAt_registered {s : State} {w : SelWait} (h : s.selAt w.list = none) (ms : List ChanMsg) :
    (s.registered w ms).selAt w.list = some w := by
  unfold State.selAt at h
  simp [State.selAt, State.registered, h]

/-- A select with no channel alternative waits for its time-out, when its count is not 0 (R180, R181). -/
theorem enterSelect_of_timeOnly {v : State} {list n start num i : Nat} {d : Reg} {f : BitVec 1} {w : SelWait}
    (hw : w = v.selWait list n start num d f) (hsel : v.selAt list = none) (hrep : v.replays v.cur = false)
    (hst : v.cur.st = .running) (htask : v.cur.task = false) (htime : v.selTime list n = some i)
    (hpos : 0 < (v.altAt list i).count) : ∃ t, (v.selKeep n num d []).enterSelect w [] = t ∧
      t.selq = v.selq ++ [w] ∧ t.chanq = v.chanq ∧ (v.clk + (v.altAt list i).count, Ev.timeoutFire v.cur.pid) ∈ t.timers ∧
      t.cur.st = .parked ∧ t.cur.wait = list ∧ t.cur.wkind = 3 := by
  have hlist : w.list = list := by rw [hw]; rfl
  have hcore : w.core = v.cur.core := by rw [hw]; rfl
  have hpid : w.pid = v.cur.pid := by rw [hw]; rfl
  have hgranted : w.granted = none := by rw [hw]; rfl
  have hdl : w.deadline = some (v.clkOf v.cur.core + (v.altAt list i).count) := by rw [hw, selWait_eq, htime]; rfl
  obtain ⟨x, hx⟩ : ∃ x, x = (v.selKeep n num d []).registered w [] := ⟨_, rfl⟩
  have hxpid : x.cur.pid = v.cur.pid := by rw [hx]; exact v.cur.setPend_pid d
  have hxst : x.cur.st = .running := by rw [hx]; exact (v.cur.setPend_st d).trans hst
  have hxtask : x.cur.task = false := by rw [hx]; exact (v.cur.setPend_task d).trans htask
  have hxrep : x.replays x.cur = false := by
    rw [hx]
    exact (replays_congr (s := v) (q := v.cur) rfl rfl (v.cur.setPend_ctx d) (v.cur.setPend_launch d)).trans hrep
  have hlate : ¬ v.clkOf v.cur.core + (v.altAt list i).count ≤ x.clkOf v.cur.core := by
    have hclk : x.clkOf v.cur.core = v.clkOf v.cur.core := by rw [hx]; rfl
    omega
  have hnone : readyAlt x w [] = none := by
    have hproc : x.proc w.pid = x.cur := by rw [hpid, ← hxpid, State.proc_cur]
    rw [readyAlt_of_noReplay (by rw [hproc]; exact replayIndex_of_noReplay hxrep w.list), hdl, hcore]
    simp [hlate]
  have hreg : x.selAt w.list = some w := by
    rw [hx]
    exact State.selAt_registered (show v.selAt w.list = none by rw [hlist, hsel]) []
  obtain ⟨m, hm⟩ := parkSelect_self (hpid.trans hxpid.symm) hdl hxrep hxst hxtask
  have htimer : x.clk + (v.clkOf v.cur.core + (v.altAt list i).count - x.clkOf w.core) = v.clk + (v.altAt list i).count := by
    rw [hcore, hx]
    exact congrArg (v.clk + ·) (Nat.add_sub_cancel_left ..)
  rw [htimer, hxpid] at hm
  refine ⟨_, ((enterSelect_of_noneReady hx hnone).trans (waitSelect_of_registered hreg hgranted)).trans hm, ?_, ?_,
    List.mem_append_right _ (List.mem_singleton_self _), rfl, hlist, rfl⟩
  · rw [hx]; rfl
  · rw [hx]; exact List.append_nil _

/-! #### Claims and the time-out -/

section
variable {s u : State} {list i pid dl : Nat} {w : SelWait} {m : ChanMsg}

theorem fireTime_of_pass (hkill : (s.proc w.pid).killed = false) (hg : s.selGate w w.timed true = .pass u) :
    s.fireTime w = (u.endSelect w w.timed 2 none 0 false none).1.serveAll (u.endSelect w w.timed 2 none 0 false none).2 := by
  simp only [State.fireTime, hkill, hg]
  rfl

theorem exec_selectClaim_of_ended (h : s.selAt list = none) : exec (.selectClaim list i) s = .next s := by
  change execSelectClaim list i s = _
  simp only [execSelectClaim, h]

/-- A claim behind a grant of another alternative waits. -/
theorem exec_selectClaim_of_otherGrant {j : Nat} (h : s.selAt list = some w) (ha : w.alts = []) (hg : w.granted = some j)
    (hj : j ≠ i) : exec (.selectClaim list i) s = .next (s.later (.selectClaim list i)) := by
  change execSelectClaim list i s = _
  simp [execSelectClaim, h, ha, hg, hj]

section
variable (h : s.selAt list = some w) (ha : w.alts = []) (hg : w.granted = none ∨ w.granted = some i)
  (hahead : s.claimAhead w i = false) (hlog : s.replayIndex (s.proc w.pid) list = none)
  (hm : (s.chanq ++ s.peerOps.map (·.2)).find? (fun m => isProcMsg m && m.sel == some (list, i)) = some m)
  (hpeer : s.isPeerAddr m.handle = false)
include h ha hg hahead hlog hm hpeer

/-- A claim that is free is granted, and the alternative served. -/
theorem exec_selectClaim_of_free : exec (.selectClaim list i) s =
    if isExtKey m.key then .next (if s.altReady m then s.moveExt w m i else s)
    else .next ((s.grantAlt list (some i)).serveChan m.key) := by
  change execSelectClaim list i s = _
  have hfree : (w.granted.isSome && w.granted != some i || s.claimAhead w i) = false := by
    rcases hg with hg | hg <;> simp [hg, hahead]
  simp only [execSelectClaim, h, ha, hfree, hlog, hm, hpeer]
  rfl

end

theorem exec_timeoutFire_of_none (h : ∀ w ∈ s.selq, w.pid ≠ pid ∨ w.deadline = none) : exec (.timeoutFire pid) s = .next s := by
  change execTimeoutFire pid s = _
  have hnone : s.selq.find? (fun w => decide (w.pid = pid) && w.deadline.isSome) = none := by
    rw [List.find?_eq_none]
    intro w hw
    rcases h w hw with h | h <;> simp [h]
  simp only [execTimeoutFire, hnone]

section
variable (hw : s.selq.find? (fun w => decide (w.pid = pid) && w.deadline.isSome) = some w) (hd : w.deadline = some dl)
  (hrep : s.replays (s.proc pid) = false)
include hw hd hrep

theorem exec_timeoutFire_of_early (h : s.clkOf (s.proc pid).core < dl) : exec (.timeoutFire pid) s = .next s := by
  change execTimeoutFire pid s = _
  simp [execTimeoutFire, hw, hd, hrep, h]

theorem exec_timeoutFire_of_due (h : dl ≤ s.clkOf (s.proc pid).core) (hg : w.granted = none)
    (hahead : s.claimAhead w w.timed = false) : exec (.timeoutFire pid) s = .next (s.fireTime w) := by
  change execTimeoutFire pid s = _
  simp [execTimeoutFire, hw, hd, hrep, h.not_gt, hg, hahead]

end

end

/-- Settles O42, by the checks of `chsel` in their order, the choice of its probe, and its claims and time-out. -/
theorem selectTakesTheFirstReady : Obligations.SelectTakesTheFirstReady := by
  refine ⟨fun s l d b f hs hrc harm hchan => exec_chsel_of_armed hs hrc harm hchan, ?_, ?_,
    fun s u w hkill hg => fireTime_of_pass hkill hg, fun s list i h => exec_selectClaim_of_ended h, ?_,
    fun s pid h => exec_timeoutFire_of_none h, ?_⟩
  case refine_1 =>
    intro s u v l d b f la a list n num here ms time w keep hs hrc hchan hma harm hla ha hlist hn
    have hi : SelIssues s l b la := ⟨hs, hrc, hchan, hma, harm, hla⟩
    subst ha
    refine ⟨exec_chsel_of_misaligned hi, exec_chsel_of_elsewhere hi, fun hal hsp hown hhead hlast hrel hset ws hws => ?_⟩
    have hr : SelReaches s l b la list n := ⟨hi, hal, hsp, hown, hlist, hn, hhead, hlast, hrel, hset⟩
    subst hws
    refine ⟨fun x z hg => exec_chsel_of_unreadable hr hg, fun hg hin => ?_⟩
    have hread := exec_chsel_of_reads (d := d) (f := f) ⟨hr, hg, hin⟩
    refine ⟨fun hbad => ?_, fun h1 h2 h3 h4 h5 h6 h7 h8 => ?_⟩
    · rw [hread, if_pos (.inr (.inr (by tauto)))]
    rw [if_neg (by simp only [h1, h2, h6, h7, h8, ne_eq, not_true_eq_false, false_or, or_false]; omega)] at hread
    refine ⟨fun i hbad => ?_, fun hbad => ?_⟩
    · rw [hread, hbad]
    rw [hbad] at hread
    refine ⟨fun hoff => ?_, fun hon hnum hhere helems hv htime hw hkeep => ?_⟩
    · rw [hread]
      exact if_pos (by simpa using hoff)
    have hgo : exec (.chsel l d b f) s = v.selGo list n (field (s.peek list) 8 5) num d f ms := by
      rw [hread, hnum, hv]
      refine (if_neg (by simpa using hon)).trans ?_
      rw [State.selMsgs, ← hnum, ← hhere, helems]
    have hwait : w = v.selWait list n (field (s.peek list) 8 5) num d f := by
      rw [hw, selWait_eq, htime, State.selTime]
    have hkept : keep = v.selKeep n num d ms := hkeep
    rw [hgo]
    subst hkept
    refine ⟨fun hnear => ?_, fun haway => ?_, fun hms hsel _ hrep hst htask i htime' hpos => ?_⟩
    · rw [State.selGo_of_near hnear, hwait]
    · rw [State.selGo_of_away haway, hwait]
    · subst hms
      obtain ⟨t, ht, hrest⟩ := enterSelect_of_timeOnly hwait hsel hrep hst htask (htime.symm.trans htime') hpos
      exact ⟨t, by rw [State.selGo_of_near (by simp), ← hwait, ht], hrest⟩
  case refine_2 =>
    intro s x w ms hx
    exact ⟨readyAlt_of_noReplay, enterSelect_of_noneReady hx, fun i => enterSelect_of_time hx,
      fun i m h hf => ⟨enterSelect_of_endpoint hx h hf, enterSelect_of_channel hx h hf⟩⟩
  case refine_3 =>
    intro s list i w h ha
    refine ⟨fun j hg hj => exec_selectClaim_of_otherGrant h ha hg hj, fun m hg hahead hlog hm hpeer => ?_⟩
    have hclaim := exec_selectClaim_of_free h ha hg hahead hlog hm hpeer
    exact ⟨fun he => by rw [hclaim, he]; rfl, fun he hready => by rw [hclaim, he, hready]; rfl⟩
  case refine_4 =>
    intro s pid dl w hw hd hrep
    exact ⟨exec_timeoutFire_of_early hw hd hrep, exec_timeoutFire_of_due hw hd hrep⟩

end Sys2Proof.Machine

namespace Sys2Proof.Machine

/-! ### Bits of a sideband (R61, R102) -/

theorem toNat_mkSide_state (x : BitVec 15) (n : Nat) : (mkSide (sideScope x) (sideDepth x) n (sideVersion x)).toNat =
    2 ^ 10 * (x.toNat / 2 ^ 10) + (2 ^ 8 * (n % 4) + x.toNat % 2 ^ 8) := by
  simp only [mkSide, sideScope, sideDepth, sideVersion, BitVec.toNat_ofNat]
  omega

/-- A sideband with another state: bits 8 and 9 are the state's, every other bit stays. -/
theorem getLsbD_mkSide_state (x : BitVec 15) (n i : Nat) : (mkSide (sideScope x) (sideDepth x) n (sideVersion x)).getLsbD i =
    if i = 8 ∨ i = 9 then n.testBit (i - 8) else x.getLsbD i := by
  have hlow : 2 ^ 8 * (n % 4) + x.toNat % 2 ^ 8 < 2 ^ 10 := by omega
  rw [BitVec.getLsbD, toNat_mkSide_state, Nat.testBit_two_pow_mul_add _ hlow,
    Nat.testBit_two_pow_mul_add _ (Nat.mod_lt _ (Nat.two_pow_pos 8))]
  rcases (by omega : i < 8 ∨ (i = 8 ∨ i = 9) ∨ 10 ≤ i) with h | h | h
  · rw [if_pos (by omega), if_pos h, if_neg (by omega), Nat.testBit_mod_two_pow, decide_eq_true h, Bool.true_and, BitVec.getLsbD]
  · rw [if_pos (by omega), if_neg (by omega), if_pos h, show (4 : Nat) = 2 ^ 2 from rfl, Nat.testBit_mod_two_pow,
      decide_eq_true (by omega : i - 8 < 2), Bool.true_and]
  · rw [if_neg (by omega), if_neg (by omega), Nat.testBit_div_two_pow, Nat.sub_add_cancel h, BitVec.getLsbD]

theorem testBit_sideState (x : BitVec 15) {k : Nat} (h : k < 2) : (sideState x).testBit k = x.getLsbD (8 + k) := by
  rw [sideState, show (4 : Nat) = 2 ^ 2 from rfl, show (256 : Nat) = 2 ^ 8 from rfl, Nat.testBit_mod_two_pow,
    Nat.testBit_div_two_pow, decide_eq_true h, Bool.true_and, BitVec.getLsbD, Nat.add_comm]

/-- The sideband of a slot that is no longer the latest: LATEST is 0, the rest stays (R107). -/
def olderSide (x : BitVec 15) : BitVec 15 := mkSide (sideScope x) (sideDepth x) (sideState x % 2) (sideVersion x)

theorem olderSide_latest (x : BitVec 15) : (olderSide x).getLsbD 9 = false := by
  rw [olderSide, getLsbD_mkSide_state, if_pos (.inr rfl), show (2 : Nat) = 2 ^ 1 from rfl, Nat.testBit_mod_two_pow]
  rfl

theorem olderSide_rest (x : BitVec 15) {i : Nat} (h : i ≠ 9) : (olderSide x).getLsbD i = x.getLsbD i := by
  rw [olderSide, getLsbD_mkSide_state]
  split
  · obtain rfl : i = 8 := by omega
    rw [show sideState x % 2 = sideState x % 2 ^ 1 from rfl, Nat.testBit_mod_two_pow]
    exact testBit_sideState x (by decide)
  · rfl

/-- FULL of a sideband at 0, the rest as it was (R109). -/
theorem mkSide_reclaimed (x : BitVec 15) :
    mkSide (sideScope x) (sideDepth x) (sideState x / 2 * 2) (sideVersion x) = x &&& ~~~0x100#15 := by
  refine BitVec.eq_of_getLsbD_eq fun i hi => ?_
  rw [getLsbD_mkSide_state, BitVec.getLsbD_and, BitVec.getLsbD_not, show 0x100#15 = BitVec.twoPow 15 8 from rfl,
    BitVec.getLsbD_twoPow]
  rcases (by omega : i = 8 ∨ i = 9 ∨ (i ≠ 8 ∧ i ≠ 9)) with rfl | rfl | ⟨h8, h9⟩
  · simp [Nat.testBit_zero]
  · rw [if_pos (.inr rfl), show 9 - 8 = 0 + 1 from rfl, Nat.testBit_succ, Nat.mul_div_cancel _ (by decide), ← Nat.testBit_succ,
      testBit_sideState x (by decide)]
    simp
  · simp [h8, h9, Ne.symm h8, hi]

theorem reclaimed_of_notFull {x : BitVec 15} (h : x.getLsbD 8 = false) : x &&& ~~~0x100#15 = x := by
  refine BitVec.eq_of_getLsbD_eq fun i hi => ?_
  rw [BitVec.getLsbD_and, BitVec.getLsbD_not, show 0x100#15 = BitVec.twoPow 15 8 from rfl, BitVec.getLsbD_twoPow]
  by_cases h8 : 8 = i
  · subst h8; simpa using h
  · simp [h8, hi]

/-! ### Sidebands of the state -/

section
variable {s : State}

theorem State.sideOf_setSide_self (hs : SMap.wf side0 s.side = true) (w : Nat) (x : BitVec 15) : (s.setSide w x).sideOf w = x :=
  SMap.get_put_self s.side w x hs

theorem State.sideOf_setSide_ne {u w : Nat} (h : u ≠ w) (x : BitVec 15) : (s.setSide w x).sideOf u = s.sideOf u :=
  SMap.get_put_ne h s.side x

/-- A sideband written as it stands changes none. -/
theorem State.sideOf_setSide_same (hs : SMap.wf side0 s.side = true) (w u : Nat) :
    (s.setSide w (s.sideOf w)).sideOf u = s.sideOf u := by
  by_cases h : u = w
  · subst h; exact State.sideOf_setSide_self hs _ _
  · exact State.sideOf_setSide_ne h _

/-- The release table is no part of the sidebands. -/
theorem State.noteRelease_side (s : State) (key scope core unit : Nat) : (s.noteRelease key scope core unit).side = s.side := by
  simp only [State.noteRelease, State.moveOldest]
  split
  · split
    · rfl
    · split <;> rfl
  · rfl

end

/-! ### Versioned stores (O26: R107) -/

section
variable {s : State} {a v scope core unit : Nat} {x : Word}

/-- The state after a versioned store that is done: the old latest slot is LATEST no more, and the slot of `v` holds `x`. -/
def State.versionStored (s : State) (a v : Nat) (x : Word) (scope core unit : Nat) : State :=
  (((s.setSide (s.slotOf a (s.latestOf a)) (olderSide (s.sideOf (s.slotOf a (s.latestOf a))))).poke (s.slotOf a v) x).setSide
    (s.slotOf a v) (mkSide scope (sideDepth (s.sideOf a)) 3 v)).noteRelease (s.slotOf a v) scope core unit

section
variable (hb : s.isBase a = true)
include hb

theorem verStore_of_occupied (h : (v + 256 - s.latestOf a) % 256 = 0 ∨ 128 ≤ (v + 256 - s.latestOf a) % 256) :
    verStore s a v x scope core unit = .fault 0x061 [s.verWord a 1 v] := by
  simp [verStore, hb, h]

theorem verStore_of_future (h : 2 ≤ (v + 256 - s.latestOf a) % 256) (hlt : (v + 256 - s.latestOf a) % 256 < 128) :
    verStore s a v x scope core unit = .hold := by
  have hocc : ¬ ((v + 256 - s.latestOf a) % 256 = 0 ∨ 128 ≤ (v + 256 - s.latestOf a) % 256) := by omega
  simp [verStore, hb, hocc, h]

section
variable (hd : (v + 256 - s.latestOf a) % 256 = 1)
include hd

theorem verStore_of_full (h : sideFull (s.sideOf (s.slotOf a v)) = true) : verStore s a v x scope core unit = .hold := by
  simp [verStore, hb, hd, h]

theorem verStore_of_next (h : sideFull (s.sideOf (s.slotOf a v)) = false) :
    verStore s a v x scope core unit = .done (s.versionStored a v x scope core unit) 0 0 := by
  simp [verStore, hb, hd, h]
  rfl

end

end

theorem versionStored_mem : (s.versionStored a v x scope core unit).mem = writeWord s.mem (s.slotOf a v) x :=
  State.noteRelease_mem _ _ _ _ _

theorem versionStored_side : (s.versionStored a v x scope core unit).side =
    SMap.put side0 (SMap.put side0 s.side (s.slotOf a (s.latestOf a)) (olderSide (s.sideOf (s.slotOf a (s.latestOf a)))))
      (s.slotOf a v) (mkSide scope (sideDepth (s.sideOf a)) 3 v) :=
  State.noteRelease_side _ _ _ _ _

/-- Every sideband but those of the slot and of the old latest slot stays. -/
theorem versionStored_sideOf_ne {u : Nat} (hu : u ≠ s.slotOf a v) (ho : u ≠ s.slotOf a (s.latestOf a)) :
    (s.versionStored a v x scope core unit).sideOf u = s.sideOf u := by
  rw [State.sideOf, versionStored_side, SMap.get_put_ne hu, SMap.get_put_ne ho, State.sideOf]

section
variable (hwf : SMap.wf side0 s.side = true)
include hwf

theorem versionStored_sideOf_slot : (s.versionStored a v x scope core unit).sideOf (s.slotOf a v) =
    mkSide scope (sideDepth (s.sideOf a)) 3 v := by
  rw [State.sideOf, versionStored_side, SMap.get_put_self _ _ _ (SMap.wf_put _ _ _ hwf)]

theorem versionStored_sideOf_latest (h : s.slotOf a (s.latestOf a) ≠ s.slotOf a v) :
    (s.versionStored a v x scope core unit).sideOf (s.slotOf a (s.latestOf a)) =
      olderSide (s.sideOf (s.slotOf a (s.latestOf a))) := by
  rw [State.sideOf, versionStored_side, SMap.get_put_ne h, SMap.get_put_self _ _ _ hwf]

end

theorem mkSide_of_lt {scope v : Nat} (hs : scope < 8) (hv : v < 256) (y : BitVec 15) :
    mkSide scope (sideDepth y) 3 v = BitVec.ofNat 15 (scope * 4096 + sideDepth y * 1024 + 3 * 256 + v) := by
  have hd : sideDepth y < 4 := Nat.mod_lt _ (by decide)
  rw [mkSide, Nat.mod_eq_of_lt hs, Nat.mod_eq_of_lt hd, Nat.mod_eq_of_lt hv]

end

/-- Settles O26, by the answer of a versioned store in each case of R107 and what it leaves of memory and of each sideband. -/
theorem versionedStoreFollowsItsRule : Obligations.VersionedStoreFollowsItsRule := by
  intro s a v x scope core unit D L d w o hv hscope hb hD hL hd hw ho
  subst hL hD hd
  obtain rfl : w = s.slotOf a v := hw
  obtain rfl : o = s.slotOf a (s.latestOf a) := ho
  refine ⟨verStore_of_occupied hb, verStore_of_future hb, verStore_of_full hb, fun hd hfull =>
    ⟨_, verStore_of_next hb hd hfull, fun hm => ?_, fun b hout => ?_, fun hwf => ⟨?_, fun hne => ?_⟩,
      fun u => versionStored_sideOf_ne⟩⟩
  · rw [State.peek, versionStored_mem, readWord_writeWord _ _ _ hm]
  · rw [versionStored_mem]
    exact byteAt_putBytes_out _ s.mem _ b (by rwa [natToBytes_length])
  · rw [versionStored_sideOf_slot hwf, mkSide_of_lt hscope hv]
  · rw [versionStored_sideOf_latest hwf hne]
    exact ⟨olderSide_latest _, fun i => olderSide_rest _⟩

/-! ### Versioned loads and reclaims (O27, O28: R108, R109) -/

section
variable {s : State} {a v : Nat} (hb : s.isBase a = true)
include hb

theorem verLoad_of_held (h : sideVersion (s.sideOf (s.slotOf a v)) = v) : verLoad s a v = .done s (s.peek (s.slotOf a v)) 0 := by
  simp [verLoad, hb, h]

theorem verReclaim_of_held (h : sideVersion (s.sideOf (s.slotOf a v)) = v) : verReclaim s a v =
    .done ((s.setSide (s.slotOf a v) (s.sideOf (s.slotOf a v) &&& ~~~0x100#15)).noteTouch (s.slotOf a v)) 0 0 := by
  rw [← mkSide_reclaimed]
  simp [verReclaim, hb, h]

section
variable (h : sideVersion (s.sideOf (s.slotOf a v)) ≠ v)
include h

/-- A slot that does not hold the version keeps a load and a reclaim of one to come waiting. -/
theorem hold_of_future (hd : 1 ≤ (v + 256 - s.latestOf a) % 256 ∧ (v + 256 - s.latestOf a) % 256 ≤ 127) :
    verLoad s a v = .hold ∧ verReclaim s a v = .hold := by
  simp [verLoad, verReclaim, hb, h, hd]

/-- A slot that no longer holds the version refuses a load and a reclaim of it. -/
theorem fault_of_passed (hd : (v + 256 - s.latestOf a) % 256 = 0 ∨ 128 ≤ (v + 256 - s.latestOf a) % 256) :
    verLoad s a v = .fault 0x060 [s.verWord a 0 v] ∧ verReclaim s a v = .fault 0x060 [s.verWord a 2 v] := by
  have hno : ¬ (1 ≤ (v + 256 - s.latestOf a) % 256 ∧ (v + 256 - s.latestOf a) % 256 ≤ 127) := by omega
  simp [verLoad, verReclaim, hb, h, hno]

end

end

/-- Settles O27, by the answer of a versioned load in each case of R108. -/
theorem versionedLoadChangesNothing : Obligations.VersionedLoadChangesNothing := by
  intro s a v d w hv hb hd hw
  subst hd
  obtain rfl : w = s.slotOf a v := hw
  exact ⟨verLoad_of_held hb, fun h => ⟨fun hd => (hold_of_future hb h hd).1, fun hd => (fault_of_passed hb h hd).1⟩⟩

/-- Settles O28, by the answer of a reclaim in each case of R109, and by a sideband whose FULL is 0 already. -/
theorem reclaimClearsFullOfItsVersion : Obligations.ReclaimClearsFullOfItsVersion := by
  intro s a v d w hv hb hd hw
  subst hd
  obtain rfl : w = s.slotOf a v := hw
  refine ⟨fun h => ⟨⟨_, verReclaim_of_held hb h, rfl, rfl, rfl⟩, fun hwf hfull u => ?_⟩,
    fun h => ⟨fun hd => (hold_of_future hb h hd).2, fun hd => (fault_of_passed hb h hd).2⟩⟩
  rw [reclaimed_of_notFull hfull]
  exact State.sideOf_setSide_same hwf _ u

end Sys2Proof.Machine

namespace Sys2Proof.Machine

/-! ### A reply at its issuer (O32: R114, R123, R170, R214, R287) -/

/-! #### What a reply does to its process -/

/-- The flags of a reply join FSR, and the counter of its class falls (R238, R287). -/
def Proc.counted (d : Done) (p : Proc) : Proc :=
  { (p.orFsr d.flags) with
      cnt := p.cnt.down d.cls, chunk := p.chunk.map fun (c : Chunk) => { c with fsr := c.fsr ||| d.flags.setWidth 64 } }

/-- A reply is counted, and its results are delivered (R214). -/
def Proc.replied (d : Done) (p : Proc) : Proc := d.writes.foldl Proc.deliver (p.counted d)

/-- The access of a reply is no longer outstanding, and an issue that awaited it goes on (R123). -/
def Proc.ended (d : Done) (p : Proc) : Proc :=
  { p with outst := p.outst.filter fun o => decide (o.sn ≠ d.sn),
           chan := if d.chan.isSome && d.cls == .none then p.chan - 1 else p.chan,
           waiting := p.waiting && !((d.req.elim false fun r => waitsAtOwner r.op || (p.task && suspendsTask r.op)) ||
                                    (p.task && d.chan.elim false fun m => m.kind != 2)) }

/-- A process whose wait is over (R168). -/
def Proc.waitOver (p : Proc) : Proc := { p with wait := 0, wkind := 0, armed := if p.wkind ≤ 3 then none else p.armed }

/-- A parked process whose wait is over is READY (R168). -/
def Proc.woken (p : Proc) : Proc := { p.waitOver with st := .ready }

section
variable (p : Proc)

/-- Results that arrive change registers, their marks and the checkpoint of a chunk. -/
theorem Proc.deliver_eq (w : Reg × Word) : ∃ g m c, p.deliver w = { p with g := g, pend := m, chunk := c } := by
  obtain ⟨c, h⟩ : ∃ c, p.deliver w = (({ p with chunk := c } : Proc).setG w.1 w.2).clearPend w.1 := ⟨_, rfl⟩
  rw [h, Proc.setG_eq]
  exact ⟨_, _, c, rfl⟩

theorem Proc.foldl_deliver_eq (ws : List (Reg × Word)) :
    ∃ g m c, ws.foldl Proc.deliver p = { p with g := g, pend := m, chunk := c } := by
  induction ws generalizing p with
  | nil => exact ⟨p.g, p.pend, p.chunk, rfl⟩
  | cons w ws ih =>
    obtain ⟨g, m, c, hw⟩ := p.deliver_eq w
    obtain ⟨g', m', c', hws⟩ := ih (p.deliver w)
    exact ⟨g', m', c', by rw [List.foldl_cons, hws, hw]⟩

theorem Proc.rg_deliver_ne {r q : Reg} (x : Word) (h : q ≠ r) : (p.deliver (r, x)).rg q = p.rg q :=
  Proc.rg_setG_ne _ x h

/-- A reply changes registers and their marks, FSR, the counters and the checkpoint of a chunk. -/
theorem Proc.replied_eq (d : Done) : ∃ g m c, p.replied d =
    { p with g := g, pend := m, chunk := c, fsr := p.fsr ||| d.flags.setWidth 64, cnt := p.cnt.down d.cls } :=
  (p.counted d).foldl_deliver_eq d.writes

end

section
variable (p : Proc) (d : Done)

@[simp] theorem Proc.replied_pc : (p.replied d).pc = p.pc := by obtain ⟨_, _, _, h⟩ := p.replied_eq d; rw [h]
@[simp] theorem Proc.replied_outst : (p.replied d).outst = p.outst := by obtain ⟨_, _, _, h⟩ := p.replied_eq d; rw [h]
@[simp] theorem Proc.replied_cnt : (p.replied d).cnt = p.cnt.down d.cls := by obtain ⟨_, _, _, h⟩ := p.replied_eq d; rw [h]
@[simp] theorem Proc.replied_fsr : (p.replied d).fsr = p.fsr ||| d.flags.setWidth 64 := by
  obtain ⟨_, _, _, h⟩ := p.replied_eq d; rw [h]

theorem Proc.replied_of_noWrite {d : Done} (h : d.writes = []) : p.replied d = p.counted d := by rw [Proc.replied, h]; rfl

section
variable {d} {r : Reg} {x : Word} (h : d.writes = [(r, x)])
include h

theorem Proc.replied_of_write : p.replied d = (p.counted d).deliver (r, x) := by rw [Proc.replied, h]; rfl

theorem Proc.rg_replied_self (hr : r ≠ 0) : (p.replied d).rg r = x := by
  rw [p.replied_of_write h, Proc.rg_deliver_self _ x hr]

theorem Proc.isPend_replied_self : (p.replied d).isPend r = false := by
  rw [p.replied_of_write h]
  exact Proc.isPend_clearPend_self _ r

theorem Proc.rg_replied_ne {q : Reg} (hq : q ≠ r) : (p.replied d).rg q = p.rg q := by
  rw [p.replied_of_write h, Proc.rg_deliver_ne _ x hq]
  rfl

theorem Proc.isPend_replied_ne {q : Reg} (hq : q ≠ r) : (p.replied d).isPend q = p.isPend q := by
  rw [p.replied_of_write h, Proc.isPend_deliver_ne _ x hq]
  rfl

end

end

/-- A counter falls by one, and stays at 0 (R287). -/
theorem Counters.down_loads (c : Counters) : c.down .loads = { c with loads := if c.loads = 0 then 0 else c.loads - 1 } := by
  obtain ⟨n, _, _, _, _⟩ := c
  by_cases h : n = 0#16 <;> simp [Counters.down, Counters.get, Counters.set, h]

theorem Counters.down_stores (c : Counters) : c.down .stores = { c with stores := if c.stores = 0 then 0 else c.stores - 1 } := by
  obtain ⟨_, k, _, _, _⟩ := c
  by_cases h : k = 0#16 <;> simp [Counters.down, Counters.get, Counters.set, h]

/-! #### What the step of a reply does to the state -/

/-- The access of an acknowledged store-type access is drained (R134, R175). -/
def State.drainedBy (s : State) (d : Done) : State :=
  match d.req with
  | some r => if r.op.stores then s.drained r.core r.unit d.sn else s
  | none => s

/-- The operation of a reply is one on which its process waits. -/
def Proc.heldOn (d : Done) (p : Proc) : Bool := p.outst.any fun o => decide (o.sn = d.sn) && o.held

/-- A reply without a fault reaches its process. -/
def State.delivered (s : State) (d : Done) (pid : Nat) : State :=
  ((s.drainedBy d).touch pid fun p => if d.miss then (p.counted d).noteMiss else p.counted d).resultsTo pid d.writes
    ((s.proc pid).heldOn d)

/-- The end of an access at its process, whose home was `home`: it may free its slot or its record. -/
def State.ends (s : State) (d : Done) (pid home : Nat) : State :=
  let s := s.updProc pid (Proc.ended d)
  let s := if (s.proc pid).unit = 10 ∧ (s.proc pid).wait = 0 then s.push (.slotFill (s.physOf home)) else s
  s.settleDone pid

section
variable {s : State} {d : Done}

theorem State.drainedBy_eq (s : State) (d : Done) :
    ∃ cs ws es, s.drainedBy d = { s with cores := cs, widens := ws, agenda := es } := by
  unfold State.drainedBy
  split
  · split
    · exact ⟨_, _, _, rfl⟩
    · exact ⟨_, _, _, rfl⟩
  · exact ⟨_, _, _, rfl⟩

/-- A reply without a fault, in its parts: it is delivered, it wakes a process that waits on it, and its access ends. -/
theorem State.comeBack_eq (held : Bool) (hagent : d.agent = .proc s.cur.pid) (hfault : d.fault = none) (hst : s.cur.st ≠ .free) :
    s.comeBack d held = (if held && s.cur.heldOn d then (s.delivered d s.cur.pid).wakeOr s.cur.pid
      else s.delivered d s.cur.pid).ends d s.cur.pid s.cur.home := by
  unfold State.comeBack State.delivered
  rw [hagent, hfault]
  simp only [Agent.pid, State.proc_cur]
  rw [if_neg (by simp [hst])]
  rfl

theorem State.touch_self {f : Proc → Proc} (haway : s.cur.away = false) (hf : (f s.cur).pid = s.cur.pid) :
    s.touch s.cur.pid f = { s with cur := f s.cur } := by
  have hself := State.updProc_self hf
  simp only [State.touch, State.proc_cur, haway, Bool.and_false, Bool.false_eq_true, if_false, ne_eq, not_true_eq_false, hself]
  rfl

theorem State.resultsTo_self (haway : s.cur.away = false) (ws : List (Reg × Word)) (held : Bool) :
    s.resultsTo s.cur.pid ws held = { s with cur := ws.foldl Proc.deliver s.cur } := by
  obtain ⟨g, m, c, h⟩ := s.cur.foldl_deliver_eq ws
  have hself : s.touch s.cur.pid (fun p => ws.foldl Proc.deliver p) = _ := State.touch_self haway (by rw [h])
  simp only [State.resultsTo, State.proc_cur, haway, Bool.and_false, Bool.false_and, Bool.false_eq_true, if_false, hself]

/-- A reply that marks no scope miss is delivered to the process that issues. -/
theorem State.delivered_self (hmiss : d.miss = false) (haway : s.cur.away = false) :
    s.delivered d s.cur.pid = { s.drainedBy d with cur := s.cur.replied d } := by
  obtain ⟨cs, ws, es, hd⟩ := s.drainedBy_eq d
  unfold State.delivered
  rw [hd, hmiss]
  have htouch := State.touch_self (s := { s with cores := cs, widens := ws, agenda := es }) (f := Proc.counted d) haway rfl
  refine (congrArg (State.resultsTo · s.cur.pid d.writes _) htouch).trans ?_
  exact State.resultsTo_self (s := { s with cur := s.cur.counted d, cores := cs, widens := ws, agenda := es }) haway _ _

/-- When an access of the process that issues ends, it keeps its slot, and its record while it is not DONE. -/
theorem State.ends_self (hunit : s.cur.unit < 8) (hst : s.cur.st ≠ .done) (home : Nat) :
    s.ends d s.cur.pid home = { s with cur := s.cur.ended d } := by
  have hself : s.updProc s.cur.pid (Proc.ended d) = s.updCur (Proc.ended d) := State.updProc_self rfl
  have hproc : (s.updCur (Proc.ended d)).proc s.cur.pid = s.cur.ended d := (s.updCur (Proc.ended d)).proc_cur
  have hslot : ¬ (s.cur.ended d).unit = 10 := Nat.ne_of_lt (Nat.lt_trans hunit (by decide))
  have hdone : ((s.cur.ended d).st == .done) = false := beq_false_of_ne hst
  unfold State.ends State.settleDone
  simp only [hself, hproc, hslot, false_and, if_false, hdone, Bool.false_and, Bool.false_eq_true]
  rfl

/-- A parked process with no other waiter of its own is READY. -/
theorem State.wakeOr_self (hnone : ∀ r ∈ s.waiters, r.agent ≠ .proc s.cur.pid) (hwait : s.cur.wait ≠ 0)
    (hst : s.cur.st = .parked) : ∃ m, s.wakeOr s.cur.pid = { s with mem := m, cur := s.cur.woken } := by
  have hfind : s.waiters.find? (fun r => decide (r.agent = Agent.proc s.cur.pid)) = none := by
    simpa [List.find?_eq_none] using hnone
  have hself : s.updProc s.cur.pid Proc.waitOver = s.updCur Proc.waitOver := State.updProc_self rfl
  obtain ⟨m, hm⟩ := State.relink_eq ((s.updCur Proc.waitOver).setRecWait s.cur.pid 0) s.cur.wait
  have hwake : s.wake s.cur.pid =
      (((s.updCur Proc.waitOver).setRecWait s.cur.pid 0).relink s.cur.wait).setState s.cur.pid .ready := by
    rw [← hself]
    simp only [State.wake, State.proc_cur, hwait, decide_false, Bool.false_and, Bool.false_eq_true, if_false, hst]
    rfl
  have hready := State.updProc_self (s := { s with cur := s.cur.waitOver, mem := m }) (f := fun p => { p with st := .ready }) rfl
  unfold State.wakeOr
  rw [hfind]
  exact ⟨_, hwake.trans ((congrArg (State.setState · s.cur.pid .ready) hm).trans
    (congrArg (State.setRecState · s.cur.pid .ready) hready))⟩

/-! #### The steps of a reply -/

section
variable (hagent : d.agent = .proc s.cur.pid) (hfault : d.fault = none) (hmiss : d.miss = false) (hunit : s.cur.unit < 8)
  (haway : s.cur.away = false)
include hagent hfault hmiss hunit haway

/-- A value or an acknowledgement that reaches a running process. -/
theorem State.comeBack_of_running (hst : s.cur.st = .running) :
    s.comeBack d false = { s.drainedBy d with cur := (s.cur.replied d).ended d } := by
  obtain ⟨g, m, c, hp⟩ := s.cur.replied_eq d
  rw [State.comeBack_eq false hagent hfault (by simp [hst]), State.delivered_self hmiss haway, Bool.false_and,
    if_neg Bool.false_ne_true]
  have hpid : s.cur.pid = (s.cur.replied d).pid := by rw [hp]
  rw [hpid]
  exact State.ends_self (s := { s.drainedBy d with cur := s.cur.replied d }) (by rw [hp]; exact hunit) (by simp [hp, hst]) _

/-- The completion of the operation on which a parked process waits. -/
theorem State.comeBack_of_parked (hst : s.cur.st = .parked) (hwait : s.cur.wait ≠ 0) (hheld : s.cur.heldOn d = true)
    (hreq : d.req = none) (hnone : ∀ r ∈ s.waiters, r.agent ≠ .proc s.cur.pid) :
    ∃ m, s.comeBack d true = { s with mem := m, cur := (s.cur.replied d).woken.ended d } := by
  obtain ⟨g, p, c, hp⟩ := s.cur.replied_eq d
  have hpid : s.cur.pid = (s.cur.replied d).pid := by rw [hp]
  have hdrained : s.drainedBy d = s := by rw [State.drainedBy, hreq]
  obtain ⟨m, hm⟩ := State.wakeOr_self (s := { s with cur := s.cur.replied d }) (by rw [← hpid]; exact hnone)
    (by rw [hp]; exact hwait) (by rw [hp]; exact hst)
  refine ⟨m, ?_⟩
  rw [State.comeBack_eq true hagent hfault (by simp [hst]), State.delivered_self hmiss haway, hheld, Bool.true_and, if_pos rfl,
    hdrained, hpid, hm]
  exact State.ends_self (s := { s with mem := m, cur := (s.cur.replied d).woken }) (by rw [hp]; exact hunit)
    (by simp [Proc.woken]) _

end

/-- An acknowledgement that ends no record is the reply that comes back. -/
theorem exec_acknowledgement_of_not_joinDec (h : ∀ r, d.req = some r → r.op ≠ .joinDec) :
    exec (.acknowledgement d) s = .next (s.comeBack d false) := by
  change execAcknowledgement d s = _
  unfold execAcknowledgement
  split
  · rename_i r hreq _
    exact congrArg Host.Outcome.next (if_neg (h r hreq))
  · rfl

end

/-! #### A retry of a waiter -/

section
variable {s : State} {r : Req}

theorem exec_waiterRetry_of_mem (h : r ∈ s.waiters) : exec (.waiterRetry r) s = .next (s.pass (r.pa / 64)) :=
  if_pos (List.contains_iff_mem.mpr h)

section
variable (h : r ∉ s.waiters)
include h

/-- A requester that holds no entry looks again by itself: a launch unit at its queue or ring, a process not at all. -/
theorem exec_waiterRetry_of_not_mem : exec (.waiterRetry r) s = match r.agent with
    | .sill t => .next (s.push (sillRetry t r))
    | .proc _ => .next s
    | _ => .next (s.push (ownerStep r)) := by
  change execWaiterRetry r s = _
  unfold execWaiterRetry
  rewrite [if_neg (by simpa using h)]
  rfl

theorem exec_waiterRetry_of_unit (hsill : ∀ n, r.agent ≠ .sill n) (hproc : ∀ pid, r.agent ≠ .proc pid) :
    exec (.waiterRetry r) s = .next (s.push (ownerStep r)) := by
  rw [exec_waiterRetry_of_not_mem h]
  split
  · exact absurd ‹_› (hsill _)
  · exact absurd ‹_› (hproc _)
  · rfl

theorem exec_waiterRetry_of_proc {pid : Nat} (ha : r.agent = .proc pid) : exec (.waiterRetry r) s = .next s := by
  rw [exec_waiterRetry_of_not_mem h, ha]

theorem exec_waiterRetry_of_sill {n : Nat} (ha : r.agent = .sill n) :
    exec (.waiterRetry r) s = .next (s.push (sillRetry n r)) := by
  rw [exec_waiterRetry_of_not_mem h, ha]

end

end

/-- Settles O32: a reply is counted and delivered, it wakes a parked process, and its access ends; a retry goes by its agent. -/
theorem repliesReachTheirIssuer : Obligations.RepliesReachTheirIssuer := by
  intro s d x
  refine ⟨fun hagent hfault hmiss _ hunit haway hreq hst => ?running,
    fun hagent hfault hmiss _ hreq hunit _ haway hst hwait _ hheld hnone rd hw => ?parked,
    fun r => exec_waiterRetry_of_mem, fun r => exec_waiterRetry_of_unit, fun r h pid => exec_waiterRetry_of_proc h,
    fun r h n ha hu => ?queue, fun r h n ha hu => ?ring⟩
  case running =>
    have hback := State.comeBack_of_running hagent hfault hmiss hunit haway hst
    obtain ⟨cs, ws, es, hdrained⟩ := s.drainedBy_eq d
    rw [hdrained] at hback
    refine ⟨fun hcls rd hw => ⟨_, congrArg Host.Outcome.next hback, rfl, ?_⟩, fun hcls hw =>
      ⟨_, (exec_acknowledgement_of_not_joinDec fun r hr => (hreq r hr).2).trans (congrArg Host.Outcome.next hback), rfl, ?_⟩⟩
    · refine ⟨Proc.replied_pc _ _, Proc.rg_replied_self _ hw, Proc.isPend_replied_self _ hw,
        fun q hq => ⟨Proc.rg_replied_ne _ hw hq, Proc.isPend_replied_ne _ hw hq⟩, ?_⟩
      simp [Proc.ended, hcls, Counters.down_loads]
    · refine ⟨by rw [Proc.replied_of_noWrite _ hw]; rfl, ?_⟩
      simp [Proc.ended, hcls, Counters.down_stores]
  case parked =>
    obtain ⟨m, hback⟩ := State.comeBack_of_parked hagent hfault hmiss hunit haway hst hwait hheld hreq hnone
    exact ⟨_, congrArg Host.Outcome.next hback, rfl, rfl, rfl, Proc.rg_replied_self _ hw, Proc.isPend_replied_self _ hw⟩
  case queue =>
    rw [exec_waiterRetry_of_sill h ha, sillRetry, if_neg (by omega)]
  case ring =>
    rw [exec_waiterRetry_of_sill h ha, sillRetry, if_pos hu]

end Sys2Proof.Machine

namespace Sys2Proof.Machine

/-! ### Waits for counters and fences (O25: R132, R286, R287) -/

/-- Each counter that `waitc` looks at, with its limit (R287). -/
def Counters.limits (n : Counters) (a b c d e : BitVec 5) : List (BitVec 16 × BitVec 5) :=
  [(n.loads, a), (n.stores, b), (n.copies, c), (n.matrix, d), (n.transfers, e)]

theorem limit31_iff (k : BitVec 5) : k = 31 ↔ ¬ k.toNat < 31 := by bv_omega

theorem withinLimit_iff (x : BitVec 16) (k : BitVec 5) : withinLimit x k = true ↔ (k.toNat < 31 → x.toNat ≤ k.toNat) := by
  simp only [withinLimit, Bool.or_eq_true, beq_iff_eq, decide_eq_true_eq, limit31_iff]
  exact Decidable.imp_iff_not_or.symm

/-- A limit other than 31 is one below it. -/
theorem bne_limit31 (k : BitVec 5) : (k != 31) = decide (k.toNat < 31) := by
  rw [Bool.eq_iff_iff, bne_iff_ne, decide_eq_true_eq, ne_eq, limit31_iff, not_not]

theorem Outst.near_of_unknown {o : Outst} (ho : o.owner = []) (sc : Nat) (issuer : List Nat) :
    o.near sc issuer = true ↔ 4 ≤ sc := by
  simp [Outst.near, ho]

theorem Outst.near_of_known {o : Outst} (ho : o.owner ≠ []) (sc : Nat) (issuer : List Nat) :
    o.near sc issuer = scopeCovers sc issuer o.owner :=
  if_neg (by simpa using ho)

section
variable {s : State} {l : Lone} {a b c d e : BitVec 5}

theorem exec_waitc (hs : s.speculating = false) : exec (.waitc l a b c d e) s =
    if ∀ x ∈ s.cur.cnt.limits a b c d e, x.2.toNat < 31 → x.1.toNat ≤ x.2.toNat then
      .next { s with cur := s.cur.takeLate (decide (c.toNat < 31)) (decide (d.toNat < 31)) (decide (e.toNat < 31)) }
    else notInHandler s (.next s.stall) := by
  refine (boundary_of_not_speculating _ hs).trans ?_
  simp only [Bool.and_eq_true, withinLimit_iff, bne_limit31, State.updCur, Counters.limits, List.forall_mem_cons,
    List.not_mem_nil, false_implies, implies_true, and_true, and_assoc]

theorem exec_waitc_of_within (hs : s.speculating = false)
    (h : ∀ x ∈ s.cur.cnt.limits a b c d e, x.2.toNat < 31 → x.1.toNat ≤ x.2.toNat) : exec (.waitc l a b c d e) s =
    .next { s with cur := s.cur.takeLate (decide (c.toNat < 31)) (decide (d.toNat < 31)) (decide (e.toNat < 31)) } :=
  (exec_waitc hs).trans (if_pos h)

theorem exec_waitc_of_over (hs : s.speculating = false)
    (h : ¬ ∀ x ∈ s.cur.cnt.limits a b c d e, x.2.toNat < 31 → x.1.toNat ≤ x.2.toNat) :
    exec (.waitc l a b c d e) s = notInHandler s (.next s.stall) :=
  (exec_waitc hs).trans (if_neg h)

/-- Limits of 31 are no limits. -/
theorem exec_waitc_of_unlimited (hs : s.speculating = false) :
    exec (.waitc l 31 31 31 31 31) s = .next { s with cur := s.cur.takeLate false false false } :=
  exec_waitc_of_within hs (by simp [Counters.limits])

theorem exec_fence_of_speculating (hs : s.speculating = true) (ord : MemOrder) (sc : BitVec 3) :
    exec (.fence l ord sc) s = .next s :=
  if_pos hs

/-- A fence behind vector entries that have all been sent: what each order adds to the bars of later accesses and of later
stores. -/
theorem exec_fence_of_sent (hs : s.speculating = false) (hv : s.cur.vecSent = true) (ord : MemOrder) (sc : BitVec 3)
    {loads near : List Nat} (hloads : loads = (s.cur.outst.filter fun o => o.loads).map (·.sn))
    (hnear : near = (s.cur.outst.filter fun o => o.loads || (o.stores && o.near sc.toNat (coordOfCore s.cur.core))).map (·.sn)) :
    exec (.fence l ord sc) s = .next { s with cur := { s.cur with
      holdAll := s.cur.holdAll ++ (if ord = .acqrel then near else if ord = .acq then loads else [])
      holdSt := s.cur.holdSt ++ (if ord.releases then near else []) } } := by
  subst hloads hnear
  exact (if_neg (by simp [hs])).trans (if_neg (by simp [hv]))

end

/-- Settles O25: `waitc` by its five limits, and a fence by what each order adds to the bars. -/
theorem fencesAndWaitsForCounters : Obligations.FencesAndWaitsForCounters := by
  intro s l a b c d e ord sc ends hends
  refine ⟨fun hs => ⟨fun h => exec_waitc_of_within hs (hends.mp h),
    fun h hrc => (exec_waitc_of_over hs (mt hends.mpr h)).trans (notInHandler_of_not_rc _ hrc),
    fun h hrc => (exec_waitc_of_over hs (mt hends.mpr h)).trans (notInHandler_of_rc _ hrc),
    exec_waitc_of_unlimited hs, fun o => ⟨fun ho => Outst.near_of_unknown ho _ _, fun ho => Outst.near_of_known ho _ _⟩,
    fun hv loads near hloads hnear => ?_⟩, fun hs => exec_fence_of_speculating hs ord sc⟩
  rw [exec_fence_of_sent hs hv ord sc hloads hnear]
  cases ord <;> rfl

/-! ### Helpers and their streams (O50: R140, R312, R314–R316) -/

/-! #### The helper of a state -/

section
variable {s : State}

theorem State.helper_setHelper_self (hw : SMap.wf Helper.empty s.helpers = true) (h : Nat) (x : Helper) :
    (s.setHelper h x).helper h = x :=
  SMap.get_put_self _ _ _ hw

theorem State.setProc_of_ne {p : Proc} (hp : p.pid ≠ s.cur.pid) :
    s.setProc p = { s with procs := SMap.put Proc.empty s.procs p.pid p } :=
  if_neg hp

theorem State.updProc_issuing {pid : Nat} {f : Proc → Proc} (hp : pid = s.cur.pid) (hf : (f s.cur).pid = s.cur.pid) :
    s.updProc pid f = s.updCur f :=
  hp ▸ State.updProc_self hf

theorem getElem_regFile (ws : List Word) {i : Nat} (hi : i < 32) :
    (regFile ws)[i] = if i = 0 then 0 else ws.getD (i - 1) 0 := by
  simp [regFile]

end

/-! #### `hstart` -/

/-- A helper that starts, with g1 to g4 of the process that starts it (R314). -/
def State.hstartProc (s : State) (h : Nat) (off : Word) : Proc :=
  { Proc.empty with pid := helperKey h, core := s.cur.core, unit := 8 + h % 2, ctx := s.cur.ctx,
                    pc := off, g := regFile s.carry, st := .running, fcr := 0 }

theorem State.rg_hstartProc (s : State) (h : Nat) (off : Word) (r : Reg) : (s.hstartProc h off).rg r =
    if r.toNat = 1 ∨ r.toNat = 2 ∨ r.toNat = 3 ∨ r.toNat = 4 then s.g r else 0 := by
  have hrg : (s.hstartProc h off).rg r = if r.toNat = 0 then 0 else s.carry.getD (r.toNat - 1) 0 := by
    unfold Proc.rg
    split
    · simp [*]
    · exact getElem_regFile _ r.isLt
  rw [hrg]
  have hr : r = BitVec.ofNat 5 r.toNat := by simp
  generalize r.toNat = i at hr
  match i with
  | 0 => rfl
  | 1 | 2 | 3 | 4 => rw [hr]; rfl
  | i + 5 => simp [State.carry]

/-- The state in which a helper has been started (R314). -/
def State.hstarted (s : State) (h : Nat) (off : Word) : State :=
  (s.setProc (s.hstartProc h off)).setHelper h { s.helper h with run := 1, active := none, owed := none }

/-- What starting a helper leaves, and what it makes of the helper. -/
theorem State.hstarted_effect (s : State) {h : Nat} (hprocs : SMap.wf Proc.empty s.procs = true)
    (hhelpers : SMap.wf Helper.empty s.helpers = true) (hne : s.cur.pid ≠ helperKey h) (off : Word) :
    (s.hstarted h off).mem = s.mem ∧ (s.hstarted h off).cur = s.cur ∧
      (s.hstarted h off).helper h = { s.helper h with run := 1, active := none, owed := none } ∧
      (s.hstarted h off).proc (helperKey h) = s.hstartProc h off := by
  rw [State.hstarted, State.setProc_of_ne hne.symm]
  exact ⟨rfl, rfl, State.helper_setHelper_self hhelpers h _, (if_neg hne.symm).trans (SMap.get_put_self _ _ _ hprocs)⟩

section
variable {s : State} {l : Lone} {a b : Reg} {h : Nat} {off : Word} (hs : s.speculating = false) (hoff : off = s.descOp l b)
include hs hoff

theorem exec_hstart_of_badOffset (hbad : field off 0 3 ≠ 0 ∨ 0x4000 ≤ off.toNat) :
    exec (.hstart l a b) s = .next (s.raiseAfter 0x143 off [] none) := by
  subst hoff
  exact (boundary_of_not_speculating _ hs).trans (if_pos hbad)

variable (hal : field off 0 3 = 0) (hin : off.toNat < 0x4000) (hh : h = 2 * s.cur.core + field (s.g a) 0 1)
include hal hin hh

theorem exec_hstart_of_busy (hrun : (s.helper h).run ≠ 0) :
    exec (.hstart l a b) s = .next (s.raiseAfter 0x0C7 (s.g a) [] none) := by
  subst hoff hh
  exact (boundary_of_not_speculating _ hs).trans ((if_neg (by omega)).trans (if_pos hrun))

theorem exec_hstart_of_idle (hrun : (s.helper h).run = 0) (hma : s.cur.mayAccess = true)
    (hrel : s.cur.releaseHolds 1 = true) : exec (.hstart l a b) s = .next (s.hstarted h off) := by
  have hheld : ¬ (!s.cur.mayAccess || !s.cur.releaseHolds 1) = true := by simp [hma, hrel]
  subst hoff hh
  exact (boundary_of_not_speculating _ hs).trans ((if_neg (by omega)).trans ((if_neg (not_not_intro hrun)).trans (if_neg hheld)))

end

/-! #### `sgen`, `srun` and `sstat` -/

/-- An operand that can be read now goes on with its bytes (R291). -/
theorem withElement_of_read {s u v : State} {va : Word} {n : Nat} {bs : List Byte} {k : State → List Byte → Out}
    (hr : s.readable va n = some u) (hb : readBeat u u.cur.core u.cur.ctx va n = (.ok bs, v)) :
    withElement s va n k = k (v.dropHost v.cur.core v.cur.ctx) bs := by
  simp only [withElement, hr, hb]

section
variable {s : State} {l : Lone} {d a b : Reg} {va : Word}

theorem exec_sgen_of_misaligned (hva : va = s.descOp l b) (hal : va.toNat % 64 ≠ 0) : exec (.sgen l a b) s = raiseO s 0x040 va := by
  subst hva
  exact if_pos hal

section
variable {h n : Nat} (hh : h = s.cur.pid - 2 ^ 64) (hn : n = field (s.g a) 0 3)
include hh hn

/-- The descriptor of `sgen` has been read: it is refused, or the stream takes it with as many items as its counts give (R315). -/
theorem exec_sgen_of_read {u v w : State} {bs : List Byte} {ws : List Word} {count : Nat} (hva : va = s.descOp l b)
    (hal : va.toNat % 64 = 0) (hma : s.cur.mayAccess = true) (hr : s.readable va 64 = some u) (hu : u.cur = s.cur)
    (hb : readBeat u s.cur.core s.cur.ctx va 64 = (.ok bs, v)) (hws : ws = wordsOfBytes bs)
    (hw : w = v.dropHost s.cur.core s.cur.ctx) (hwcur : w.cur = s.cur)
    (hcount : count = field (ws.getD 2 0) 0 32 * field (ws.getD 3 0) 0 32 * field (ws.getD 4 0) 0 32 * field (ws.getD 5 0) 0 32) :
    exec (.sgen l a b) s = if streamOk w ws = true then .next (w.setStream h n { HStream.empty with desc := ws, left := count })
      else .next (w.raiseAfter 0x143 va [] none) := by
  have hread : readBeat u u.cur.core u.cur.ctx va 64 = (.ok bs, v) := by rw [hu]; exact hb
  have hv : v.cur = s.cur := by rw [← hwcur, hw]; rfl
  have hprod : (List.range 4).foldl (fun k d => k * field (ws.getD (2 + d) 0) 0 32) 1 = count := by
    simp [List.range, List.range.loop, hcount]
  subst hva
  refine (if_neg (not_not_intro hal)).trans ((if_neg (by simp [hma])).trans ((withElement_of_read hr hread).trans ?_))
  rw [hv, ← hw, ← hws]
  dsimp only
  rw [hprod, hwcur, ← hh, ← hn]
  cases streamOk w ws <;> rfl

theorem exec_srun_of_ended (hleft : ((s.helper h).stream n).left = 0) : exec (.srun l a) s = .next s := by
  change execSrun l a s = _
  rw [execSrun, ← hh, ← hn]
  exact if_pos hleft

/-- A stream with items left: the helper waits, and the stream's first item is under way (R316). -/
theorem exec_srun_of_left (hleft : ((s.helper h).stream n).left ≠ 0) (hma : s.cur.mayAccess = true) :
    ∃ t, exec (.srun l a) s = .next t ∧ t.cur = { s.cur with waiting := true } ∧ t.agenda = s.agenda ++ [.streamItem h n] ∧
      t.mem = s.mem := by
  change ∃ t, execSrun l a s = _ ∧ _
  rw [execSrun, ← hh, ← hn]
  exact ⟨_, (if_neg hleft).trans (if_neg (by simp [hma])), rfl, rfl, rfl⟩

theorem exec_sstat_of_helper (hhelp : s.cur.isHelper = true) : exec (.sstat l d a) s =
    .next (s.setG d (BitVec.ofNat 64 (((s.helper h).stream n).left * 2 ^ 32 + ((s.helper h).stream n).run))) := by
  change execSstat l d a s = _
  rw [execSstat, ← hh, ← hn]
  exact if_pos hhelp

end

theorem exec_sstat_of_core {k : Nat} (hk : k = 2 * s.cur.core + field (s.g a) 0 1) (hhelp : s.cur.isHelper = false)
    (hma : s.cur.mayAccess = true) : exec (.sstat l d a) s =
      .next (s.setG d (BitVec.ofNat 64 ((s.proc (helperKey k)).pc.toNat % 2 ^ 32 * 2 ^ 32 + (s.helper k).run))) := by
  subst hk
  exact (if_neg (by simp [hhelp])).trans (if_neg (by simp [hma]))

end

/-! #### Items of a stream -/

/-- A loader reads an item whole when the queue has room for it (R316). -/
def State.loadItem (s : State) (h n : Nat) (x : HStream) (len : Nat) : Out :=
  if streamRoom < (s.queueOf (h / 2) n).length + len then .next ((s.setStream h n { x with run := 2 }).later (.streamItem h n))
  else match engineSpan 17 s (h / 2) (helperUnit h) (s.proc (helperKey h)).ctx (itemAddr x.desc x.idx) len with
    | (.ok bs, u) => .next (itemDone (((u.setQueue (h / 2) n (s.queueOf (h / 2) n ++ bs)).dropHost (h / 2)
        (s.proc (helperKey h)).ctx).dropAsks (h / 2) (helperUnit h)) h n)
    | (.error f, u) => .next (itemFault u h n f)

/-- A storer writes the next unit of an item, `bs` being what is left of it and `v` the state without it in the queue (R316). -/
def State.storeUnit (s v : State) (h n : Nat) (x : HStream) (len : Nat) (bs : List Byte) : Out :=
  match engineWrite v (h / 2) (helperUnit h) (s.proc (helperKey h)).ctx (itemAddr x.desc x.idx + BitVec.ofNat 64 (len - bs.length))
      (bs.take 64) false with
  | (.ok (), u) => .next (if bs.length ≤ 64 then itemDone (u.dropAsks (h / 2) (helperUnit h)) h n
      else ((u.dropAsks (h / 2) (helperUnit h)).setStream h n { x with part := bs.drop 64, run := 1 }).push (.streamItem h n))
  | (.error f, u) => .next (itemFault u h n f)

section
variable {s u v : State} {h n len : Nat} {x : HStream} {va : Word} {bs : List Byte} {f : FaultInfo}

theorem exec_streamItem_of_idle (hx : x = (s.helper h).stream n)
    (hidle : (s.helper h).run ≠ 1 ∨ x.left = 0 ∨ (s.helper h).active ≠ some n) : exec (.streamItem h n) s = .next s := by
  subst hx
  exact if_pos hidle

/-- Stream `n`, as `x` stands, runs at helper `h`, with items of `len` bytes of which the next is at `va` (R315, R316). -/
structure StreamRuns (s : State) (h n : Nat) (x : HStream) (len : Nat) (va : Word) : Prop where
  stream : x = (s.helper h).stream n
  size : len = 64 * field (x.desc.getD 1 0) 0 5
  address : va = itemAddr x.desc x.idx
  running : (s.helper h).run = 1
  more : x.left ≠ 0
  active : (s.helper h).active = some n

theorem StreamRuns.notIdle (hr : StreamRuns s h n x len va) :
    ¬ ((s.helper h).run ≠ 1 ∨ ((s.helper h).stream n).left = 0 ∨ (s.helper h).active ≠ some n) := by
  simp [hr.running, ← hr.stream, hr.more, hr.active]

/-- An item waits for the helper's own accesses to its words (R126, R316). -/
theorem exec_streamItem_of_barred (hr : StreamRuns s h n x len va)
    (hbar : s.itemBarred h (s.proc (helperKey h)).ctx va len (if h % 2 = 0 then needRd else needWr) = true) :
    exec (.streamItem h n) s = .next (s.later (.streamItem h n)) := by
  obtain ⟨rfl, rfl, rfl⟩ := And.intro hr.stream (And.intro hr.size hr.address)
  exact (if_neg hr.notIdle).trans (if_pos hbar)

section
variable (hr : StreamRuns s h n x len va)
  (hbar : s.itemBarred h (s.proc (helperKey h)).ctx va len (if h % 2 = 0 then needRd else needWr) = false)
include hr hbar

theorem exec_streamItem_of_loader (heven : h % 2 = 0) : exec (.streamItem h n) s = s.loadItem h n x len := by
  obtain ⟨rfl, rfl, rfl⟩ := And.intro hr.stream (And.intro hr.size hr.address)
  exact (if_neg hr.notIdle).trans ((if_neg (Bool.eq_false_iff.mp hbar)).trans (if_pos heven))

/-- A storer whose queue has no whole item for it waits. -/
theorem exec_streamItem_of_short (hodd : h % 2 = 1) (hpart : x.part = []) (hlen : (s.queueOf (h / 2) n).length < len) :
    exec (.streamItem h n) s = .next ((s.setStream h n { x with run := 2 }).later (.streamItem h n)) := by
  have hshort : (x.part.isEmpty && decide ((s.queueOf (h / 2) n).length < len)) = true := by simp [hpart, hlen]
  obtain ⟨rfl, rfl, rfl⟩ := And.intro hr.stream (And.intro hr.size hr.address)
  exact (if_neg hr.notIdle).trans ((if_neg (Bool.eq_false_iff.mp hbar)).trans ((if_neg (by omega)).trans (if_pos hshort)))

/-- A storer with an item begun or a whole one in its queue writes its next unit. -/
theorem exec_streamItem_of_storer (hodd : h % 2 = 1) (hdata : x.part ≠ [] ∨ len ≤ (s.queueOf (h / 2) n).length)
    (hbs : bs = if x.part = [] then (s.queueOf (h / 2) n).take len else x.part)
    (hv : v = (if x.part = [] then s.setQueue (h / 2) n ((s.queueOf (h / 2) n).drop len) else s).setStream h n
      { x with part := bs, run := 1 }) : exec (.streamItem h n) s = s.storeUnit v h n x len bs := by
  have henough : ¬ (x.part.isEmpty && decide ((s.queueOf (h / 2) n).length < len)) = true := by
    simp only [Bool.and_eq_true, List.isEmpty_iff, decide_eq_true_eq]
    rintro ⟨hp, hl⟩
    exact hdata.elim (absurd hp) (by omega)
  simp only [← List.isEmpty_iff] at hbs hv
  subst hv hbs
  obtain ⟨rfl, rfl, rfl⟩ := And.intro hr.stream (And.intro hr.size hr.address)
  exact (if_neg hr.notIdle).trans ((if_neg (Bool.eq_false_iff.mp hbar)).trans ((if_neg (by omega)).trans (if_neg henough)))

end

theorem loadItem_of_full (hfull : streamRoom < (s.queueOf (h / 2) n).length + len) :
    s.loadItem h n x len = .next ((s.setStream h n { x with run := 2 }).later (.streamItem h n)) :=
  if_pos hfull

section
variable (hroom : (s.queueOf (h / 2) n).length + len ≤ streamRoom)
include hroom

theorem loadItem_of_read (hread : engineSpan 17 s (h / 2) (helperUnit h) (s.proc (helperKey h)).ctx (itemAddr x.desc x.idx) len =
    (.ok bs, u)) : s.loadItem h n x len = .next (itemDone (((u.setQueue (h / 2) n (s.queueOf (h / 2) n ++ bs)).dropHost (h / 2)
      (s.proc (helperKey h)).ctx).dropAsks (h / 2) (helperUnit h)) h n) := by
  rw [State.loadItem, if_neg (by omega), hread]

theorem loadItem_of_fault (hread : engineSpan 17 s (h / 2) (helperUnit h) (s.proc (helperKey h)).ctx (itemAddr x.desc x.idx) len =
    (.error f, u)) : s.loadItem h n x len = .next (itemFault u h n f) := by
  rw [State.loadItem, if_neg (by omega), hread]

end

/-! #### The end of an item -/

/-- The last item ends the run and wakes the helper (R316). -/
theorem itemDone_of_last (hleft : ((s.helper h).stream n).left ≤ 1) (hcur : s.cur.pid = helperKey h) :
    (itemDone s h n).cur = { s.cur with waiting := false } ∧ (itemDone s h n).agenda = s.agenda := by
  rw [itemDone, if_pos hleft, State.updProc_issuing]
  · exact ⟨rfl, rfl⟩
  · exact hcur.symm
  · rfl

/-- An item with more to follow puts the next one under way. -/
theorem itemDone_agenda_of_more (hleft : 1 < ((s.helper h).stream n).left) :
    (itemDone s h n).agenda = s.agenda ++ [.streamItem h n] := by
  rw [itemDone, if_neg (Nat.not_le.mpr hleft)]
  rfl

end

/-- Settles O50: `hstart`, `sgen`, `srun` and `sstat` by their checks in order, and an item by its side of the queue. -/
theorem helpersStreamItems : Obligations.HelpersStreamItems := by
  refine ⟨fun s l a b h off hs hh hoff => ⟨exec_hstart_of_badOffset hs hoff,
      fun hal hin => exec_hstart_of_busy hs hoff hal hin hh, fun hal hin hrun hma hrel hprocs hhelpers hne => ?start⟩,
    fun s l d a b va h n hva hh hn => ⟨exec_sgen_of_misaligned hva,
      fun u v bs ws hal hma hr hu hb hws w hw hwcur => ?pattern, exec_srun_of_ended hh hn, exec_srun_of_left hh hn,
      exec_sstat_of_helper hh hn, fun hhelp hma k hk => exec_sstat_of_core hk hhelp hma⟩,
    fun s h n len x va q hx hlen hva hq => ⟨exec_streamItem_of_idle hx,
      fun hrun hleft hact => exec_streamItem_of_barred ⟨hx, hlen, hva, hrun, hleft, hact⟩,
      fun hrun hleft hact hbar => ?item⟩,
    fun s h n hleft hcur => ?last, fun s h n => itemDone_agenda_of_more⟩
  case start =>
    refine ⟨_, exec_hstart_of_idle hs hoff hal hin hh hrun hma hrel, ?_⟩
    obtain ⟨hmem, hcur, hhelper, hproc⟩ := s.hstarted_effect hprocs hhelpers hne off
    rw [hmem, hcur, hhelper, hproc]
    exact ⟨rfl, rfl, rfl, rfl, rfl, rfl, rfl, s.rg_hstartProc h off⟩
  case pattern =>
    have hread := fun count => exec_sgen_of_read (count := count) hh hn hva hal hma hr hu hb hws hw hwcur
    exact ⟨fun hok => (hread _ rfl).trans (if_neg (Bool.eq_false_iff.mp hok)),
      fun hok count hcount => (hread count hcount).trans (if_pos hok)⟩
  case item =>
    have hr : StreamRuns s h n x len va := ⟨hx, hlen, hva, hrun, hleft, hact⟩
    subst hq hva
    refine ⟨fun heven hfull => (exec_streamItem_of_loader hr hbar heven).trans (loadItem_of_full hfull),
      fun heven hroom bs u hread => (exec_streamItem_of_loader hr hbar heven).trans (loadItem_of_read hroom hread),
      fun heven hroom f u hread => (exec_streamItem_of_loader hr hbar heven).trans (loadItem_of_fault hroom hread),
      exec_streamItem_of_short hr hbar, fun hodd hdata bs v u hbs hv => ?_⟩
    rw [exec_streamItem_of_storer hr hbar hodd hdata hbs hv, State.storeUnit]
    exact ⟨fun hwrite => by rw [hwrite], fun f hwrite => by rw [hwrite]; rfl⟩
  case last =>
    obtain ⟨hc, ha⟩ := itemDone_of_last hleft hcur
    exact ⟨by rw [hc], ha⟩

end Sys2Proof.Machine

namespace Sys2Proof.Machine

/-! ### Commit turns and decision logs (O58: R149, R151, R152, R154, R160–R162) -/

/-! #### A domain's commit arbiter (R151) -/

section
variable {s u : State} {d : Nat} {p q : Proc} {t : Nat × Nat}

theorem exec_commitTurn_of_noTaker (ht : SMap.get (0, 0) s.turns d = (0, 0)) (hn : s.nextTurn d = (none, u)) :
    exec (.commitTurn d) s = .next u := by
  change execCommitTurn d s = _
  rw [execCommitTurn, if_pos ht, hn]

theorem exec_commitTurn_of_taker (ht : SMap.get (0, 0) s.turns d = (0, 0)) (hn : s.nextTurn d = (some q, u)) :
    exec (.commitTurn d) s =
      if q.chunkOver then .next ({ u with turns := SMap.put (0, 0) u.turns d (q.pid, 0) }.push (.chunkCommit q.pid))
      else .next (u.turnWaits d) := by
  change execCommitTurn d s = _
  rw [execCommitTurn, if_pos ht, hn]

/-- A turn whose commit has been made: its work, then the machine at rest. -/
theorem exec_commitTurn_of_committed (ht : t = SMap.get (0, 0) s.turns d) (hheld : t ≠ (0, 0)) (hdone : t.2 = 1) :
    exec (.commitTurn d) s =
      if (s.proc t.1).inTurn then .next (s.turnWaits d)
      else if s.settled then .next (s.turnPasses d (s.proc t.1)) else .next (s.push (.commitTurn d)) := by
  subst ht
  exact (if_neg hheld).trans (if_pos hdone)

/-- A turn whose commit is still to come. -/
theorem exec_commitTurn_of_open (ht : t = SMap.get (0, 0) s.turns d) (hheld : t ≠ (0, 0)) (hopen : t.2 ≠ 1) :
    exec (.commitTurn d) s =
      if (s.proc t.1).chunkOver then .next (s.push (.chunkCommit (s.proc t.1).pid))
      else if (s.proc t.1).pid = t.1 ∧ (s.proc t.1).takesTurn then .next (s.turnWaits d)
      else .next (s.turnPasses d (s.proc t.1)) := by
  subst ht
  exact (if_neg hheld).trans (if_neg hopen)

end

/-! #### The commit of a chunk (R152) -/

section
variable {s : State} {pid : Nat} {c : Chunk}

theorem exec_chunkCommit_of_noChunk (hc : (s.proc pid).chunk = none) : exec (.chunkCommit pid) s = .next s := by
  change execChunkCommit pid s = _
  rw [execChunkCommit, hc]

theorem exec_chunkCommit_of_notDue (hc : (s.proc pid).chunk = some c)
    (h : (s.proc pid).chunkOver = false ∨ SMap.get (0, 0) s.turns (s.domainOf (s.proc pid)) ≠ (pid, 0)) :
    exec (.chunkCommit pid) s = .next s := by
  change execChunkCommit pid s = _
  simp only [execChunkCommit, hc]
  exact if_pos (by simpa using h)

/-- The commit of process `pid` is due: its chunk `c` has ended in its turn. -/
structure CommitDue (s : State) (pid : Nat) (c : Chunk) : Prop where
  chunk : (s.proc pid).chunk = some c
  ended : (s.proc pid).chunkOver = true
  turn : SMap.get (0, 0) s.turns (s.domainOf (s.proc pid)) = (pid, 0)

/-- A commit that is due waits, is squashed, or goes on by the owners' answer to its words. -/
theorem exec_chunkCommit_of_due {d : Nat} (hdue : CommitDue s pid c) (hd : d = s.domainOf (s.proc pid)) :
    ∃ k : Out, (exec (.chunkCommit pid) s =
        if c.writes.any (fun e => s.isLocked e.1) || !s.cmdsFit c then .next (s.later (.chunkCommit pid))
        else if s.conflicts d c then .next ((s.squash pid).kick pid) else k) ∧
      ((commitWords s (s.proc pid) c).2 = none → ∀ u, u = (commitWords s (s.proc pid) c).1 →
        k = .next ((State.pruneCommits
          { u with commits := u.commits ++ [(d, u.clk, (c.writes.map fun e => e.1 / 64).eraseDups)] } d).publish d
          (s.proc pid) c)) := by
  subst hd
  apply Exists.intro
  refine ⟨?_, fun hok u hu => ?_⟩
  · change execChunkCommit pid s = _
    simp only [execChunkCommit, hdue.chunk]
    exact if_neg (by simp [hdue.ended, hdue.turn])
  · rw [hok, hu]

end

/-! #### The registers of a context -/

section
variable {s : State} {c : Byte}

@[simp] theorem State.updCtx_mem (s : State) (c : Byte) (f : Ctxt → Ctxt) : (s.updCtx c f).mem = s.mem := rfl

theorem State.ctx_updCtx_self (h : SMap.wf Ctxt.empty s.ctxs = true) (f : Ctxt → Ctxt) : (s.updCtx c f).ctx c = f (s.ctx c) :=
  SMap.get_put_self _ _ _ h

/-- Writing of the ring goes on by steps put in flight, and changes nothing else. -/
theorem State.moreLog_eq_pushAll (s : State) (c : Byte) : ∃ es, s.moreLog c = s.pushAll es := by
  simp only [State.moreLog]
  split <;> split
  · exact ⟨[.logUnitWrite c, .logPadTimeout c], by simp [State.pushAll, State.push]⟩
  · exact ⟨[_], rfl⟩
  · exact ⟨[_], rfl⟩
  · exact ⟨[], by simp [State.pushAll]⟩

@[simp] theorem State.moreLog_mem (s : State) (c : Byte) : (s.moreLog c).mem = s.mem := by
  obtain ⟨es, h⟩ := s.moreLog_eq_pushAll c
  rw [h, State.pushAll_mem]

@[simp] theorem State.moreLog_ctx (s : State) (c b : Byte) : (s.moreLog c).ctx b = s.ctx b := by
  obtain ⟨es, h⟩ := s.moreLog_eq_pushAll c
  rw [h, State.ctx, State.pushAll_ctxs, State.ctx]

/-- A field written takes the value's bits, and every other bit of the word stands. -/
theorem getLsbD_setField (x : Word) {lo n y i : Nat} (hi : i < 64) : (setField x lo n y).getLsbD i =
    if lo ≤ i ∧ i < lo + n then y.testBit (i - lo) else x.getLsbD i := by
  have hin : (decide (lo ≤ i) && decide (i - lo < n)) = decide (lo ≤ i ∧ i < lo + n) := by
    rw [← Bool.decide_and]; exact decide_eq_decide.mpr (by omega)
  simp only [setField, BitVec.getLsbD_or, BitVec.getLsbD_and, BitVec.getLsbD_not, BitVec.getLsbD_ofNat, hi,
    Nat.testBit_mul_two_pow, Nat.testBit_two_pow_sub_one, Nat.testBit_mod_two_pow, ← Bool.and_assoc, hin]
  split <;> rename_i h <;> simp [h]

end

/-! #### Units of the log's ring (R162) -/

/-- The records of one 64-byte unit as bytes, filled up with pads. -/
def logUnitBytes (recs : List LogRec) : List Byte :=
  (recs ++ List.replicate (4 - recs.length) ({ w0 := BitVec.ofNat 64 (0x3F * 2 ^ 58), w1 := 0 } : LogRec)).flatMap
    fun r => natToBytes 8 r.w0.toNat ++ natToBytes 8 r.w1.toNat

/-- The address of the record at HEAD. -/
def Ctxt.headAddr (x : Ctxt) : Word := x.logbase + BitVec.ofNat 64 (16 * (x.loghead.toNat % 2 ^ field x.logsize 0 5))

/-- The ring has room for a unit of four. -/
abbrev Ctxt.HasRoom (x : Ctxt) : Prop := x.loghead.toNat + 4 ≤ x.logtail.toNat + 2 ^ field x.logsize 0 5

section
variable {s v : State} {c : Byte} {u : Nat} {i : Instr} {recs : List LogRec}

theorem exec_logUnitWrite_of_none (h : (s.ctx c).complete = none) : exec (.logUnitWrite c) s = .next s := by
  change execLogUnitWrite c s = _
  rw [execLogUnitWrite, h]

theorem exec_logPadTimeout_of_none (h : (s.ctx c).overdue s.clk = none) : exec (.logPadTimeout c) s = .next s := by
  change execLogPadTimeout c s = _
  rw [execLogPadTimeout, h]

/-- A complete unit and an overdue one are written alike. -/
theorem exec_of_logDue (h : ((s.ctx c).complete = some u ∧ i = .logUnitWrite c) ∨
    ((s.ctx c).overdue s.clk = some u ∧ i = .logPadTimeout c)) :
    exec i s = .next (s.writeLogUnit c u (((s.ctx c).staged u).take 4)) := by
  obtain ⟨h, rfl⟩ | ⟨h, rfl⟩ := h
  · change execLogUnitWrite c s = _
    rw [execLogUnitWrite, h]
  · change execLogPadTimeout c s = _
    rw [execLogPadTimeout, h]

theorem State.writeLogUnit_of_err (herr : (s.ctx c).logctl.getLsbD 4 = true) : s.writeLogUnit c u recs = s := if_pos herr

/-- Without room, the first unit lost sets OVF and counts, and until TAIL is written no other one is counted. -/
theorem State.writeLogUnit_of_full (herr : (s.ctx c).logctl.getLsbD 4 = false) (hfull : ¬ (s.ctx c).HasRoom) :
    s.writeLogUnit c u recs = if (s.ctx c).logctl.getLsbD 2 then s else s.updCtx c fun x =>
      { x with logctl := setField (x.logctl ||| 4) 32 32 (satAdd (field x.logctl 32 32) 1 (2 ^ 32 - 1)) } :=
  (if_neg (Bool.eq_false_iff.mp herr)).trans (if_pos (Nat.lt_of_not_le hfull))

/-- Once the beat is written, HEAD advances by the unit's four records. -/
theorem State.writeLogUnit_effect_of_written (herr : (s.ctx c).logctl.getLsbD 4 = false) (hroom : (s.ctx c).HasRoom)
    (hw : writeBeat s (sillSeat 0) c (s.ctx c).headAddr (logUnitBytes recs) 0 = (.ok (), v))
    (hwf : SMap.wf Ctxt.empty v.ctxs = true) :
    ((s.writeLogUnit c u recs).ctx c).loghead = (v.ctx c).loghead + 4 ∧ (s.writeLogUnit c u recs).mem = v.mem := by
  rw [Ctxt.headAddr, logUnitBytes] at hw
  simp only [State.writeLogUnit, herr, Bool.false_eq_true, if_false, if_neg (Nat.not_lt.mpr hroom), hw]
  rw [State.moreLog_ctx, State.moreLog_mem, State.ctx_updCtx_self hwf]
  exact ⟨(apply_ite Ctxt.loghead _ _ _).trans (ite_self _), rfl⟩

theorem State.writeLogUnit_of_refused (herr : (s.ctx c).logctl.getLsbD 4 = false) (hroom : (s.ctx c).HasRoom) {f : FaultInfo}
    (hw : writeBeat s (sillSeat 0) c (s.ctx c).headAddr (logUnitBytes recs) 0 = (.error f, v)) (hf : f.cause ≠ notYet) :
    s.writeLogUnit c u recs = (v.updCtx c fun x => { x with logctl := x.logctl ||| 16 }).faultReport c
      { f with tval := (s.ctx c).headAddr } := by
  rw [Ctxt.headAddr, logUnitBytes] at hw
  simp only [State.writeLogUnit, herr, Bool.false_eq_true, if_false, if_neg (Nat.not_lt.mpr hroom), hw, if_neg hf]
  rfl

end

/-! #### LOGTAIL, LOGHEAD and LOGCTL (R161) -/

section
variable {s : State} {c : Byte} {w : Word}

theorem exec_logtailWrite_of_replay (h : (s.ctx c).logctl.getLsbD 0 = true) : exec (.logtailWrite c w) s = .next s :=
  congrArg Host.Outcome.next (if_pos h)

theorem exec_logtailWrite_of_record (h : (s.ctx c).logctl.getLsbD 0 = false) : exec (.logtailWrite c w) s =
    .next ((s.updCtx c fun k => { k with logtail := w, logctl := k.logctl &&& ~~~4#64 }).moreLog c) :=
  congrArg Host.Outcome.next (if_neg (Bool.eq_false_iff.mp h))

theorem exec_logheadWrite_of_ignored (h : (s.ctx c).logctl.getLsbD 0 = false ∨ w.toNat < (s.ctx c).loghead.toNat ∨
    2 ^ field (s.ctx c).logsize 0 5 < w.toNat - (s.ctx c).logtail.toNat) : exec (.logheadWrite c w) s = .next s :=
  congrArg Host.Outcome.next (if_pos (by simpa [or_assoc] using h))

theorem exec_logheadWrite_of_replay (hmode : (s.ctx c).logctl.getLsbD 0 = true)
    (hlow : (s.ctx c).loghead.toNat ≤ w.toNat)
    (hfit : w.toNat - (s.ctx c).logtail.toNat ≤ 2 ^ field (s.ctx c).logsize 0 5) :
    exec (.logheadWrite c w) s = .next (s.updCtx c fun k => { k with loghead := w }) :=
  congrArg Host.Outcome.next (if_neg (by simp [hmode, hlow, Nat.sub_le_iff_le_add.mp hfit]))

/-- LOGCTL after a write of `w`, MODE apart: its W1C fields and the watermark. -/
def loggedCtl (ctl w : Word) : Word :=
  let k := ctl &&& ~~~(w &&& 0x1A#64)
  setField (setField k 32 32 (field (BitVec.ofNat 64 (field k 32 32) &&& ~~~(w >>> 32)) 0 32)) 16 16 (field w 16 16)

theorem getLsbD_loggedCtl_mode (ctl w : Word) : (loggedCtl ctl w).getLsbD 0 = ctl.getLsbD 0 := by
  simp only [loggedCtl]
  rw [getLsbD_setField _ (by decide), if_neg (by decide), getLsbD_setField _ (by decide), if_neg (by decide)]
  simp

/-- The registers of a context after a write of LOGCTL: MODE, with HEAD and TAIL zeroed, only while no record-mode launch
runs. -/
def Ctxt.ctlWritten (x : Ctxt) (w : Word) : Ctxt :=
  if x.recording = 0 then ({ x with logctl := setField (loggedCtl x.logctl w) 0 1 (field w 0 1) } : Ctxt).rewind
  else { x with logctl := loggedCtl x.logctl w }

theorem Ctxt.ctlWritten_of_idle {x : Ctxt} (h : x.recording = 0) (w : Word) : (x.ctlWritten w).logctl.getLsbD 0 = w.getLsbD 0 ∧
    (x.ctlWritten w).loghead = 0 ∧ (x.ctlWritten w).logtail = 0 := by
  rw [Ctxt.ctlWritten, if_pos h]
  refine ⟨?_, rfl, rfl⟩
  rw [Ctxt.rewind, BitVec.getLsbD_and, getLsbD_setField _ (by decide), if_pos (by decide), testBit_field]
  simp

theorem Ctxt.ctlWritten_of_recording {x : Ctxt} (h : x.recording ≠ 0) (w : Word) :
    (x.ctlWritten w).logctl.getLsbD 0 = x.logctl.getLsbD 0 ∧ (x.ctlWritten w).loghead = x.loghead := by
  rw [Ctxt.ctlWritten, if_neg h]
  exact ⟨getLsbD_loggedCtl_mode _ w, rfl⟩

theorem State.writeLogctl_eq (s : State) (c : Byte) (w : Word) : s.writeLogctl c w =
    if (s.ctx c).logctl.getLsbD 4 && w.getLsbD 4 then (s.updCtx c fun k => k.ctlWritten w).moreLog c
    else s.updCtx c fun k => k.ctlWritten w := rfl

theorem exec_logctlWrite (hwf : SMap.wf Ctxt.empty s.ctxs = true) : ∃ t, exec (.logctlWrite c w) s = .next t ∧
    t.ctx c = (s.ctx c).ctlWritten w ∧ t.mem = s.mem := by
  refine ⟨s.writeLogctl c w, rfl, ?_⟩
  rw [State.writeLogctl_eq]
  split <;> simp [State.ctx_updCtx_self hwf]

end

/-- Settles O58: the arbiter and the commit by their cases, a unit of the log by the room in its ring and by the answer to its
beat, and the log's registers by the mode. -/
theorem chunksCommitInTurnAndLogsFill : Obligations.ChunksCommitInTurnAndLogsFill := by
  refine ⟨?arbiter, ?commit, ?units, ?registers⟩
  case arbiter =>
    rintro s d t p ht rfl
    refine ⟨fun hfree => ?free, fun hheld hdone => ?committed, fun hheld hopen => ?waiting⟩
    case free =>
      exact ⟨fun u hn => exec_commitTurn_of_noTaker (ht.symm.trans hfree) hn, fun q u hn =>
        ⟨fun h => (exec_commitTurn_of_taker (ht.symm.trans hfree) hn).trans (if_pos h),
          fun h => (exec_commitTurn_of_taker (ht.symm.trans hfree) hn).trans (if_neg (Bool.eq_false_iff.mp h))⟩⟩
    case committed =>
      rw [exec_commitTurn_of_committed ht hheld hdone]
      exact ⟨fun h => by rw [if_pos h], fun h hs => by simp [h, hs], fun h hs => by simp [h, hs]⟩
    case waiting =>
      rw [exec_commitTurn_of_open ht hheld hopen]
      refine ⟨fun h => by rw [if_pos h], fun h hp hk => by simp [h, hp, hk], fun h hgone => ?_⟩
      rw [if_neg (by simp [h]), if_neg (not_and_or.mpr (hgone.imp_right Bool.eq_false_iff.mp))]
  case commit =>
    rintro s pid d p rfl rfl
    refine ⟨exec_chunkCommit_of_noChunk, fun c hc => ⟨exec_chunkCommit_of_notDue hc, fun hover hturn => ?_⟩⟩
    have hdue : CommitDue s pid c := ⟨hc, hover, hturn⟩
    obtain ⟨k, hexec, hk⟩ := exec_chunkCommit_of_due hdue rfl
    rw [hexec]
    refine ⟨fun h => if_pos h, fun hfree hfit => ?_⟩
    rw [if_neg (by simp [hfree, hfit])]
    exact ⟨fun h => if_pos h, fun h u hok hu => (if_neg (Bool.eq_false_iff.mp h)).trans (hk hok u hu)⟩
  case units =>
    rintro s c x rfl
    refine ⟨exec_logUnitWrite_of_none, exec_logPadTimeout_of_none, fun u i hdue => ?_⟩
    rw [exec_of_logDue hdue]
    refine ⟨fun herr => by rw [State.writeLogUnit_of_err herr], fun herr hfull => ?full, fun herr hroom hwf va bs hva hbs => ?room⟩
    case full =>
      rw [State.writeLogUnit_of_full herr (Nat.not_le.mpr hfull)]
      exact ⟨fun h => by rw [if_pos h], fun h => by rw [if_neg (Bool.eq_false_iff.mp h)]⟩
    case room =>
      subst hva hbs
      refine ⟨fun v hw hv hx => ⟨_, rfl, ?_⟩, fun f v hw hf => ?_⟩
      · have hwritten := State.writeLogUnit_effect_of_written (u := u) herr hroom hw hv
        rwa [hx] at hwritten
      · exact congrArg Host.Outcome.next (State.writeLogUnit_of_refused herr hroom hw hf)
  case registers =>
    rintro s c w x rfl
    refine ⟨exec_logtailWrite_of_replay, exec_logtailWrite_of_record, exec_logheadWrite_of_ignored, exec_logheadWrite_of_replay,
      fun hwf => ?_⟩
    obtain ⟨t, ht, hctx, hmem⟩ := exec_logctlWrite (c := c) (w := w) hwf
    refine ⟨t, ht, ?_⟩
    rw [hctx]
    exact ⟨fun h => Ctxt.ctlWritten_of_idle h w, fun h => Ctxt.ctlWritten_of_recording h w, hmem⟩

end Sys2Proof.Machine

namespace Sys2Proof.Machine

/-! ### Join counters, `park`, `exit`, `yield` and `chprio` (O44: R168, R185, R306–R308) -/

section
variable {s : State} {a : Reg} {c : Acc}

theorem aligned_of_misaligned {va : Word} {n : Nat} (h : va.toNat % n ≠ 0) (k : Out) : aligned s va n k = raiseO s 0x040 va := if_pos h

theorem aligned_of_aligned {va : Word} {n : Nat} (h : va.toNat % n = 0) (k : Out) : aligned s va n k = k := if_neg (not_not_intro h)

/-- Outside a chunk an access waits or is sent. -/
theorem issue_of_not_speculating (hs : s.speculating = false) :
    issue s c = .next (if s.accessWaits c (s.accScope c) then s.stall else s.sendAccess c) := by
  rw [issue, if_neg (by simp [hs])]
  split <;> rfl

/-- An access has been sent, and its slot issues nothing until the owner answers. -/
def State.sentAwaiting (s : State) (c : Acc) : State :=
  { s.sendAccess c with cur := { (s.sendAccess c).cur with waiting := true } }

/-- An owner operation that stops its slot waits, or is sent and its slot waits for the owner. -/
theorem awaitOwner_issue (hs : s.speculating = false) (hx : (s.sendAccess c).xfer ≠ .again) :
    awaitOwner (issue s c) = .next (if s.accessWaits c (s.accScope c) then s.stall else s.sentAwaiting c) := by
  rw [issue_of_not_speculating hs]
  split
  · rfl
  · exact if_neg hx

/-! #### Each instruction of the family -/

/-- The process that issues leaves its slot once its context has been taken. -/
theorem State.leave_self (why : Nat) : s.leave s.cur.pid why =
    { s with cur := { s.cur with leaving := why, leaveNo := s.accs + 1 }, accs := s.accs + 1,
             agenda := s.agenda ++ [.spillComplete s.cur.pid] } := by
  rw [State.leave, State.updProc_self rfl]
  rfl

theorem exec_misaligned_word (hal : (s.g a).toNat % 8 ≠ 0) (l : Lone) (b : Reg) :
    ∀ i ∈ [Instr.join l a, .jinit l a b, .park l a b], exec i s = raiseO s 0x040 (s.g a) := by
  simp only [List.forall_mem_cons, List.not_mem_nil, false_implies, implies_true, and_true]
  exact ⟨aligned_of_misaligned hal _, aligned_of_misaligned hal _, aligned_of_misaligned hal _⟩

theorem exec_exit_of_misaligned (hal : (s.g a).toNat % 8 ≠ 0) (l : Lone) (ha : a ≠ 0) :
    exec (.exit l a) s = raiseO s 0x040 (s.g a) :=
  (if_neg ha).trans (aligned_of_misaligned hal _)

section
variable (hs : s.speculating = false) (hal : (s.g a).toNat % 8 = 0)
include hs

theorem exec_exit_of_busy (l : Lone) (hb : s.cur.busy = true) (ha : a = 0 ∨ (s.g a).toNat % 8 = 0) :
    exec (.exit l a) s = .next s.stall := by
  change execExit l a s = _
  rw [execExit, boundary_of_not_speculating _ hs, boundary_of_not_speculating _ hs, if_pos hb]
  split
  · rfl
  · next h => exact aligned_of_aligned (ha.resolve_left h) _

theorem exec_exit_of_noCounter (l : Lone) (hb : s.cur.busy = false) :
    exec (.exit l 0) s = .next { s.finish s.cur.pid with xfer := .left } := by
  change execExit l 0 s = _
  rw [execExit, if_pos rfl, boundary_of_not_speculating _ hs, if_neg (by simp [hb])]

theorem exec_yield_of_handler (l : Lone) (hrc : s.cur.rc = true) : exec (.yield l) s = .next (s.raiseAfter 0x0C2 0 [] none) :=
  (boundary_of_not_speculating _ hs).trans (notInHandler_of_rc _ hrc)

theorem exec_yield (l : Lone) (hrc : s.cur.rc = false) : exec (.yield l) s =
    if (s.queued s.cur.core).any fun q => decide (s.cur.prio.toNat ≤ (s.proc q).prio.toNat) then .next (s.leave s.cur.pid 5)
    else .next s :=
  (boundary_of_not_speculating _ hs).trans (notInHandler_of_not_rc _ hrc)

/-- The priority of the process that issues becomes `x`, in its context and in its record. -/
def State.reprioritised (s : State) (x : BitVec 3) : State :=
  ({ s with cur := { s.cur with prio := x } }.poke (s.cur.pid + 8) (setField (s.peek (s.cur.pid + 8)) 53 3 x.toNat)).push
    (.slotFill s.cur.core)

theorem exec_chprio (l : Lone) (b : Reg) : exec (.chprio l b) s = .next (s.reprioritised ((s.g b).setWidth 3)) :=
  boundary_of_not_speculating _ hs

include hal

theorem exec_join_of_aligned (l : Lone) (hrc : s.cur.rc = false) : exec (.join l a) s =
    awaitOwner (issue s { va := s.g a, size := 8, op := .join, ord := .acq, sc := 5, rd := 0 }) :=
  (aligned_of_aligned hal _).trans ((boundary_of_not_speculating _ hs).trans (notInHandler_of_not_rc _ hrc))

theorem exec_park_of_aligned (l : Lone) (b : Reg) (hrc : s.cur.rc = false) : exec (.park l a b) s =
    if s.nodeAway (s.g a) then .next (s.raiseAfter 0x043 (s.g a) [] none)
    else awaitOwner (issue s { va := s.g a, size := 8, op := .park (s.g b), ord := .acq, sc := 1, rd := 0 }) :=
  (aligned_of_aligned hal _).trans ((boundary_of_not_speculating _ hs).trans (notInHandler_of_not_rc _ hrc))

theorem exec_join_park_of_handler (l : Lone) (b : Reg) (hrc : s.cur.rc = true) :
    ∀ i ∈ [Instr.join l a, .park l a b], exec i s = .next (s.raiseAfter 0x0C2 0 [] none) := by
  have h (k : Out) : aligned s (s.g a) 8 (boundary s (notInHandler s k)) = .next (s.raiseAfter 0x0C2 0 [] none) := by
    rw [aligned_of_aligned hal, boundary_of_not_speculating _ hs, notInHandler_of_rc _ hrc]
  simp only [List.forall_mem_cons, List.not_mem_nil, false_implies, implies_true, and_true]
  exact ⟨h _, h _⟩

theorem exec_jinit_of_aligned (l : Lone) (b : Reg) : exec (.jinit l a b) s =
    if s.spaceAt (s.g a) = 3 then .next (s.raiseAfter 0x043 (s.g a) [] none)
    else issue s { va := s.g a, size := 8, op := .store (zeroExtend (s.g b).toNat 32), ord := .rlx, sc := 0, rd := 0 } :=
  (aligned_of_aligned hal _).trans (boundary_of_not_speculating _ hs)

/-- A process ends with the decrement of its counter: its slot stops, and the owner's answer ends the record. -/
theorem exec_exit_of_counter (l : Lone) (ha : a ≠ 0) (hb : s.cur.busy = false)
    (hc : c = { va := s.g a, size := 8, op := .joinDec, ord := .rel, sc := 5, rd := 0 }) (hx : (s.sendAccess c).xfer ≠ .again) :
    exec (.exit l a) s = .next (if s.accessWaits c (s.accScope c) then s.stall else { s.sentAwaiting c with xfer := .left }) := by
  change execExit l a s = _
  rw [execExit, if_neg ha, aligned_of_aligned hal, boundary_of_not_speculating _ hs, if_neg (by simp [hb]), ← hc,
    issue_of_not_speculating hs]
  by_cases hw : s.accessWaits c (s.accScope c)
  · simp only [if_pos hw]
    rfl
  · simp only [if_neg hw, if_neg hx]
    rfl

end

end

/-- Settles O44: each instruction by its checks in order, and an owner operation by whether its access may be sent. -/
theorem joinParkYieldExitComplete : Obligations.JoinParkYieldExitComplete := by
  intro s l a b acc after hs hacc hafter
  obtain rfl : after = s.sentAwaiting := funext hafter
  refine ⟨fun hal => ?_, fun hal => ⟨fun c hc hrc hx => ?_, fun c hc hrc hx => ⟨fun hn => ?_, fun hn => ?_⟩,
    fun c hc ha hb hx => exec_exit_of_counter hs hal l ha hb (hc.trans (hacc ..)) hx, fun c hc hsp => ?_, fun hsp => ?_, fun hrc => ?_⟩,
    exec_exit_of_noCounter hs l, exec_exit_of_busy hs l, exec_yield_of_handler hs l,
    fun hrc => ⟨fun hq => ?_, fun hq => ?_⟩, fun hm => ⟨_, exec_chprio hs l b, rfl, rfl, ?_, fun x hx => ?_⟩⟩
  · have hi := exec_misaligned_word hal l b
    simp only [List.forall_mem_cons] at hi
    obtain ⟨hjoin, hjinit, hpark, -⟩ := hi
    exact ⟨hjoin, hjinit, hpark, exec_exit_of_misaligned hal l⟩
  · rw [exec_join_of_aligned hs hal l hrc, ← hacc, ← hc, awaitOwner_issue hs hx]
  · rw [exec_park_of_aligned hs hal l b hrc, if_neg (by simp [hn]), ← hacc, ← hc, awaitOwner_issue hs hx]
  · rw [exec_park_of_aligned hs hal l b hrc, if_pos hn]
  · rw [exec_jinit_of_aligned hs hal l b, if_neg hsp, ← hacc, ← hc, issue_of_not_speculating hs]
  · rw [exec_jinit_of_aligned hs hal l b, if_pos hsp]
  · have hi := exec_join_park_of_handler hs hal l b hrc
    simp only [List.forall_mem_cons] at hi
    exact ⟨hi.1, hi.2.1⟩
  · rw [exec_yield hs l hrc, if_neg]
    simpa only [List.any_eq_true, decide_eq_true_eq, not_exists, not_and, not_le] using hq
  · rw [exec_yield hs l hrc, if_pos (by simpa using hq), State.leave_self]
  · have h8 : ((s.g b).setWidth 3).toNat = (s.g b).toNat % 8 := BitVec.toNat_setWidth ..
    rw [← h8]
    exact readWord_writeWord _ _ _ hm
  · exact byteAt_putBytes_out _ _ _ _ (by rw [natToBytes_length]; omega)

end Sys2Proof.Machine

namespace Sys2Proof.Machine

/-! ### A core table with three entries for one core (O46)

The placement clause asks that the slot reads back the record placed in it. It does not ask for a canonical core table, nor that
the record's address is not 0. Where a record at address 0 is all that a core's entry holds, each of the two writes of its
placement, off its queue and into its slot, leaves the entry at its default, so the table drops it and the next entry of the
core comes to the front. -/

/-- Core 0 three times: a record at address 0 in its deque, nothing, and a record in slot 0. -/
def thriceCore : State :=
  { State.reset with cores := [(0, { Core.empty with deque := [0] }), (0, Core.empty),
                               (0, { Core.empty with slots := Core.empty.slots.set 0 7 })] }

/-- Slot 0 is enabled and empty, and takes the record at address 0. -/
theorem thriceCore_takes : 0 ∈ thriceCore.enabledSlots 0 ∧ thriceCore.slotPid 0 0 = 0 ∧ thriceCore.pickBelow 0 0 8 = some 0 := by
  decide

/-- The placement uncovers the third entry. -/
theorem thriceCore_place_slotPid : (thriceCore.place 0 0 0).slotPid 0 0 = 7 := by decide

/-- Refutes O46: with three entries for core 0, the record placed in slot 0 is not the one that the slot reads back. -/
theorem not_slotsAndPoolsComplete : ¬ Obligations.SlotsAndPoolsComplete := by
  intro h
  obtain ⟨-, -, -, hplace, -⟩ := h thriceCore 0 0 0
  obtain ⟨henabled, hempty, hpick⟩ := thriceCore_takes
  obtain ⟨-, hslot, -⟩ := hplace 0 0 henabled hempty hpick fun j _ hj => absurd hj (Nat.not_lt_zero j)
  rw [thriceCore_place_slotPid] at hslot
  exact absurd hslot (by decide)

end Sys2Proof.Machine

namespace Sys2Proof.Machine

/-! ### A check made at once leaves the registers that a bundle reads (R213; O40) -/

section
variable {s : State}

@[simp] theorem State.updProc_pre (pid : Nat) (f : Proc → Proc) : (s.updProc pid f).pre = s.pre := by
  rcases s.updProc_cases pid f with ⟨_, h⟩ | ⟨_, h⟩ <;> rw [h]

/-- A fold of steps that each keep the registers keeps them. -/
theorem foldl_pre {α : Type} {f : State → α → State} (hf : ∀ u x, (f u x).pre = u.pre) (xs : List α) (u : State) :
    (xs.foldl f u).pre = u.pre := by
  induction xs generalizing u with
  | nil => rfl
  | cons x r ih => exact (ih _).trans (hf u x)

/-! #### Reads with their error checks -/

@[simp] theorem State.countFailed_pre : s.countFailed.pre = s.pre := by unfold State.countFailed; simp only; split <;> rfl

@[simp] theorem State.addBadPage_pre (pa : Nat) : (s.addBadPage pa).pre = s.pre := by
  unfold State.addBadPage; simp only; split <;> rfl

@[simp] theorem State.countCorrected_pre (pa : Nat) : (s.countCorrected pa).pre = s.pre := by
  unfold State.countCorrected; split <;> rfl

@[simp] theorem State.countTransient_pre (pa : Nat) : (s.countTransient pa).pre = s.pre := by
  unfold State.countTransient; simp only; split <;> rfl

@[simp] theorem State.countLasting_pre (pa : Nat) : (s.countLasting pa).pre = s.pre := by
  unfold State.countLasting; simp only
  split
  · exact State.countFailed_pre
  · exact (State.addBadPage_pre pa).trans State.countFailed_pre

@[simp] theorem State.readGuard_pre (pa : Nat) : (s.readGuard pa).2.pre = s.pre := by
  unfold State.readGuard
  split
  · rfl
  · split
    · rfl
    · exact State.countCorrected_pre pa
    · exact State.countTransient_pre pa
    · exact State.countLasting_pre pa

@[simp] theorem State.guardList_pre (ps : List Nat) : (s.guardList ps).2.pre = s.pre := by
  induction ps generalizing s with
  | nil => rfl
  | cons p r ih =>
    simp only [State.guardList]
    split
    · rw [ih, State.readGuard_pre]
    · exact State.readGuard_pre p

theorem State.guardList_pre_of_eq {ps : List Nat} {o : Option Nat} {t : State} (h : s.guardList ps = (o, t)) : t.pre = s.pre := by
  rw [← s.guardList_pre ps, h]

@[simp] theorem State.cacheDesc_pre (c : Byte) : (s.cacheDesc c).pre = s.pre := by
  unfold State.cacheDesc
  split
  · rfl
  · split
    · next h => exact (State.guardList_pre_of_eq h :)
    · next h => exact State.guardList_pre_of_eq h

/-! #### Answers of a walk -/

@[simp] theorem State.addUpper_pre (die : Nat) (c : Byte) (space level va : Nat) (w : Word) :
    (s.addUpper die c space level va w).pre = s.pre := by unfold State.addUpper; split <;> rfl

@[simp] theorem State.tableWalk_pre (die : Nat) (c : Byte) (space va : Nat) : (s.tableWalk die c space va).2.pre = s.pre := by
  simp only [State.tableWalk]
  split
  · rfl
  · split
    · next h => exact State.guardList_pre_of_eq h
    · next h =>
      split
      · next h' => simp [State.guardList_pre_of_eq h', State.guardList_pre_of_eq h]
      · next h' =>
        split
        · next h'' =>
          rw [State.guardList_pre_of_eq h'']
          split <;> simp [State.guardList_pre_of_eq h', State.guardList_pre_of_eq h]
        · next h'' =>
          rw [State.guardList_pre_of_eq h'']
          split <;> simp [State.guardList_pre_of_eq h', State.guardList_pre_of_eq h]

@[simp] theorem State.cacheEntry_pre (unit : Nat) (c : Byte) (space va : Nat) (e : Tlb) :
    (s.cacheEntry unit c space va e).pre = s.pre := by unfold State.cacheEntry; split <;> rfl

@[simp] theorem State.sendFlit_pre (node : Nat) (c : Byte) (vc : Nat) (b : Payload) : (s.sendFlit node c vc b).pre = s.pre := by
  simp only [State.sendFlit]
  split
  · split <;> rfl
  · rfl

@[simp] theorem State.satisfies_pre (a : Agent) : (s.satisfies a).pre = s.pre := by
  cases a with
  | proc pid =>
    simp only [State.satisfies, State.holdTurn]
    split
    · rfl
    · exact State.updProc_pre ..
  | _ => rfl

@[simp] theorem State.peerViolates_pre (node : Nat) (entry : Option Nat) (f : FaultInfo) :
    (s.peerViolates node entry f).pre = s.pre := by
  simp only [State.peerViolates]
  cases entry <;> exact (apply_ite State.pre _ _ _).trans (ite_self _)

@[simp] theorem State.hostAnswer_pre (r : Req) (x : Word) (f : Option FaultInfo) : (s.hostAnswer r x f).pre = s.pre := by
  unfold State.hostAnswer
  split
  · rfl
  · cases f <;> rfl

/-- A failed operation answers its issuer, and no register changes here. -/
@[simp] theorem State.failAt_pre (r : Req) (f : FaultInfo) (held : Bool) : (s.failAt r f held).pre = s.pre := by
  have hsat (u : State) : (if held = true then u.satisfies r.agent else u).pre = u.pre := by
    split
    · exact State.satisfies_pre _
    · rfl
  unfold State.failAt State.answer
  split
  · exact hsat s
  · exact hsat s
  · simp only [Option.elim, State.sendFlit_pre]
    split
    · exact State.peerViolates_pre ..
    · rfl
  · rfl
  · exact State.hostAnswer_pre ..
  · rfl

@[simp] theorem State.toOwner_pre (r : Req) (pa space : Nat) : (s.toOwner r pa space).pre = s.pre := State.updProc_pre ..

@[simp] theorem State.joinWalk_pre (r : Req) : (s.joinWalk r).pre = s.pre := by
  simp only [State.joinWalk]
  split
  · split <;> rfl
  · split
    · rfl
    · split <;> rfl

@[simp] theorem State.lookUp_pre (r : Req) : (s.lookUp r).pre = s.pre := by
  unfold State.lookUp
  split
  · split
    · rfl
    · exact State.toOwner_pre ..
  · exact State.joinWalk_pre r
  · exact State.failAt_pre ..
  · rfl

@[simp] theorem walkEnds_pre (r : Req) (res : WalkEnd) : (walkEnds s r res).pre = s.pre := by
  unfold walkEnds
  split
  · exact State.failAt_pre ..
  · exact State.failAt_pre ..
  · split
    · split
      · exact State.failAt_pre ..
      · exact State.toOwner_pre ..
    · exact State.failAt_pre ..
    · rfl

@[simp] theorem State.takeSlots_pre (die fuel : Nat) : (s.takeSlots die fuel).pre = s.pre := by
  induction fuel generalizing s with
  | zero => rfl
  | succ n ih =>
    simp only [State.takeSlots]
    split
    · rfl
    · split
      · rfl
      · rw [ih]
        split
        · split
          · exact State.joinWalk_pre _
          · rfl
        · exact State.lookUp_pre _

@[simp] theorem State.endWalk_pre (w : Walk) : (s.endWalk w).2.pre = s.pre := by
  simp only [State.endWalk, State.relook]
  rw [foldl_pre (fun u x => State.lookUp_pre x)]
  simp only [State.takeSlots_pre]
  rw [foldl_pre (fun u x => walkEnds_pre x _)]
  split
  · rw [foldl_pre (fun u x => State.cacheEntry_pre ..)]
    exact State.tableWalk_pre ..
  · exact State.tableWalk_pre ..

@[simp] theorem State.awaitSlot_pre (die fuel : Nat) : (s.awaitSlot die fuel).pre = s.pre := by
  induction fuel generalizing s with
  | zero => rfl
  | succ n ih =>
    unfold State.awaitSlot
    split
    · rfl
    · split
      · rfl
      · rw [ih, State.endWalk_pre]

@[simp] theorem walkNow_pre (core : Nat) (c : Byte) (space va : Nat) (n : Need) : (walkNow s core c space va n).2.pre = s.pre := by
  simp only [walkNow]
  generalize (s.walks.find? fun w => w.of (dieOf core) c space (va / 2 ^ 16)) = o
  cases o with
  | none => split <;> simp
  | some w => split <;> simp

@[simp] theorem checkNow_pre (core : Nat) (c : Byte) (va : Word) (size : Nat) (n : Need) (reg : Bool) :
    (checkNow s core c va size n reg).2.pre = s.pre := by
  simp only [checkNow]
  split
  · simp
  · exact State.cacheDesc_pre c

/-! #### A unit's read -/

@[simp] theorem State.askHost_pre (core : Nat) (c : Byte) (va : Word) (pa n : Nat) : (s.askHost core c va pa n).2.pre = s.pre := by
  simp only [State.askHost]
  split
  · split <;> rfl
  · split
    · rfl
    · unfold State.startHostRead; split <;> rfl

@[simp] theorem readBytes_pre (pa n : Nat) : (readBytes s pa n).2.pre = s.pre := by
  unfold readBytes
  split
  · next h => exact State.guardList_pre_of_eq h
  · next h => exact State.guardList_pre_of_eq h

@[simp] theorem readBeat_pre (core : Nat) (c : Byte) (va : Word) (n : Nat) : (readBeat s core c va n).2.pre = s.pre := by
  have hb (u : State) (pa : Nat) {r : Except Nat (List Byte)} {t : State} (h : readBytes u pa n = (r, t)) : t.pre = u.pre := by
    rw [← readBytes_pre (s := u) pa n, h]
  simp only [readBeat]
  split
  · split
    · rw [State.askHost_pre, checkNow_pre]
    · split
      · exact checkNow_pre ..
      · split
        · next h => rw [hb _ _ h, checkNow_pre]
        · next h => rw [hb _ _ h, checkNow_pre]
  · exact checkNow_pre ..
  · exact checkNow_pre ..

theorem State.readable_pre {va : Word} {n : Nat} {t : State} (h : s.readable va n = some t) : t.pre = s.pre := by
  simp only [State.readable] at h
  split at h
  · split at h
    · exact absurd h nofun
    · rw [← Option.some.inj h, checkNow_pre]
  · rw [← Option.some.inj h]

end

end Sys2Proof.Machine

namespace Sys2Proof.Machine

/-! ### Channel instructions at their issuer (O40: R172, R288–R299) -/

/-! #### The message and what its process keeps of it -/

/-- The state `t` is `u` with one message of the issuer of `s` sent to the home of `key`. -/
def State.SentChan (s : State) (key : Nat) (u : State) (send : Option Bool) (kind : Nat) (acq : Bool) (elem : List Byte)
    (addr : Word) (rs re : Reg) (t : State) : Prop :=
  ∃ m : ChanMsg, m.agent = s.cur.agent ∧ m.core = s.cur.core ∧ m.unit = s.cur.unit ∧ m.ctx = s.cur.ctx ∧
    m.key = key % 2 ^ 56 ∧ m.send = (send = some true) ∧ m.kind = kind ∧ m.elem = elem ∧ m.addr = addr ∧ m.rs = rs ∧ m.re = re ∧
    m.pc = s.cur.pc ∧ (m.deadline.isSome ↔ s.cur.tmo ≠ 0 ∧ kind ≤ 3) ∧
    (u.goesAway m = false → (s.cur.tmo = 0 ∨ (u.ctx s.cur.ctx).logctl.getLsbD 0 = false) → t.agenda = u.agenda ++
      [if m.send then Ev.channelSendAtHome m else Ev.channelReceiveAtHome m]) ∧
    t.mem = u.mem ∧ t.cur.g = u.cur.g ∧ t.cur.pc = u.cur.pc ∧ t.cur.fcr = u.cur.fcr ∧ t.cur.fsr = u.cur.fsr ∧
    t.cur.chan = u.cur.chan + (if kind = 2 then 0 else 1) ∧
    t.cur.cnt = (if kind = 2 then u.cur.cnt.up .transfers else u.cur.cnt) ∧
    t.cur.holdAll = u.cur.holdAll ++ (if acq && kind != 2 then [m.num] else [])

/-- The process with its operation recorded, before its result registers are pending (R288). -/
def Proc.sentChan (p : Proc) (m : ChanMsg) (key : Nat) (acq : Bool) : Proc :=
  { p with
    chan := if m.kind = 2 then p.chan else p.chan + 1
    waiting := p.waiting || (p.task && m.kind != 2)
    cnt := if m.kind = 2 then p.cnt.up .transfers else p.cnt
    seqs := if m.send then SMap.put 0 p.seqs key m.seq else p.seqs
    armed := if m.deadline.isSome then m.deadline else p.armed
    outst := p.outst ++ [{ sn := m.num, loads := false, stores := false, held := decide (m.kind = 2), sp3 := false, owner := [] }]
    holdAll := if acq && m.kind != 2 then p.holdAll ++ [m.num] else p.holdAll }

section
variable {s u : State} {m : ChanMsg}

/-- Marking registers pending changes nothing else of a process. -/
theorem Proc.foldl_setPend_eq (ws : List (Reg × Word)) (p : Proc) :
    ∃ x, ws.foldl (fun (p : Proc) w => p.setPend w.1) p = { p with pend := x } := by
  induction ws generalizing p with
  | nil => exact ⟨p.pend, rfl⟩
  | cons w r ih =>
    have hp : ∃ y, p.setPend w.1 = { p with pend := y } := by
      unfold Proc.setPend
      split
      · exact ⟨p.pend, rfl⟩
      · exact ⟨_, rfl⟩
    obtain ⟨y, hy⟩ := hp
    obtain ⟨x, hx⟩ := ih (p.setPend w.1)
    exact ⟨x, by rw [List.foldl_cons, hx, hy]⟩

@[simp] theorem State.sendFlit_mem (node : Nat) (c : Byte) (vc : Nat) (b : Payload) : (s.sendFlit node c vc b).mem = s.mem := by
  simp only [State.sendFlit]
  split
  · split <;> rfl
  · rfl

@[simp] theorem State.sendFlit_cur (node : Nat) (c : Byte) (vc : Nat) (b : Payload) : (s.sendFlit node c vc b).cur = s.cur := by
  simp only [State.sendFlit]
  split
  · split <;> rfl
  · rfl

@[simp] theorem State.toHome_mem : (s.toHome m).mem = s.mem := by
  simp only [State.toHome]
  split
  · split <;> exact State.sendFlit_mem ..
  · rfl

@[simp] theorem State.toHome_cur : (s.toHome m).cur = s.cur := by
  simp only [State.toHome]
  split
  · split <;> exact State.sendFlit_cur ..
  · rfl

theorem State.toHome_of_here (h : s.goesAway m = false) :
    s.toHome m = s.push (if m.send then .channelSendAtHome m else .channelReceiveAtHome m) := if_neg (by simp [h])

/-- The issuer as the message leaves: its operation is recorded, and a time-out is armed (R181). -/
def State.recordedChan (s : State) (m : ChanMsg) (p : Proc) : State :=
  let u : State := { s with cur := p, accs := s.accs + 1 }
  if m.deadline.isSome then u.arm p.pid p.tmo.toNat (.channelTimeout p.pid) else u

theorem State.sendChan_eq (s : State) (m : ChanMsg) (key : Nat) (acq : Bool) :
    ∃ x, s.sendChan m key acq = (s.recordedChan m { s.cur.sentChan m key acq with pend := x }).toHome m := by
  obtain ⟨x, hx⟩ := Proc.foldl_setPend_eq (chanWrites m 0 0) (s.cur.sentChan m key acq)
  exact ⟨x, congrArg (fun p => (s.recordedChan m p).toHome m) hx⟩

@[simp] theorem State.recordedChan_mem (p : Proc) : (s.recordedChan m p).mem = s.mem := by
  simp only [State.recordedChan, State.arm]
  split
  · split <;> rfl
  · rfl

@[simp] theorem State.sendChan_mem (key : Nat) (acq : Bool) : (s.sendChan m key acq).mem = s.mem := by
  obtain ⟨x, hx⟩ := State.sendChan_eq s m key acq
  rw [hx, State.toHome_mem, State.recordedChan_mem]

@[simp] theorem State.recordedChan_cur (p : Proc) : (s.recordedChan m p).cur = p := by
  simp only [State.recordedChan, State.arm]
  split
  · split <;> rfl
  · rfl

/-- Whether a message leaves the package goes by its handle and the package's number. -/
theorem State.goesAway_recordedChan (p : Proc) : (s.recordedChan m p).goesAway m = s.goesAway m := by
  simp only [State.recordedChan, State.arm]
  split
  · split <;> rfl
  · rfl

/-- Outside a replay an armed time-out is a timer, and no step in flight. -/
theorem State.recordedChan_agenda {p : Proc} (h : m.deadline = none ∨ (s.ctx p.ctx).logctl.getLsbD 0 = false) :
    (s.recordedChan m p).agenda = s.agenda := by
  simp only [State.recordedChan, State.arm]
  rcases h with h | h
  · simp [h]
  · split
    · have hproc : State.proc { s with cur := p, accs := s.accs + 1 } p.pid = p := State.proc_cur { s with cur := p, accs := s.accs + 1 }
      have hrep : State.replays { s with cur := p, accs := s.accs + 1 } p = false := by
        rw [State.replays, Bool.and_eq_false_iff]
        exact .inr h
      rw [hproc, hrep]
      rfl
    · rfl

/-- A message of the issuer, whatever its deadline, has been sent. -/
theorem sentChan_sendChan (hcur : u.cur = s.cur) (h : Word) (key : Nat) {send : Bool} {o : Option Bool} (ho : send = (o = some true))
    (kind : Nat) (elem : List Byte) (addr : Word) (rs re : Reg) {dl : Option Nat} (hdl : dl.isSome ↔ s.cur.tmo ≠ 0 ∧ kind ≤ 3)
    (acq : Bool) :
    s.SentChan key u o kind acq elem addr rs re
      (u.sendChan { u.mkChan h key send kind elem addr rs re with deadline := dl } key acq) := by
  let m : ChanMsg := { u.mkChan h key send kind elem addr rs re with deadline := dl }
  obtain ⟨x, hx⟩ := State.sendChan_eq u m key acq
  have hcur' : (u.sendChan m key acq).cur = { u.cur.sentChan m key acq with pend := x } := by
    rw [hx, State.toHome_cur, State.recordedChan_cur]
  have hissuer (f : Proc → Prop) (hf : f u.cur) : f s.cur := hcur ▸ hf
  refine ⟨m, hissuer (m.agent = ·.agent) rfl, hissuer (m.core = ·.core) rfl, hissuer (m.unit = ·.unit) rfl,
    hissuer (m.ctx = ·.ctx) rfl, rfl, ho, rfl, rfl, rfl, rfl, rfl, hissuer (m.pc = ·.pc) rfl, hdl, fun haway hlog => ?_, State.sendChan_mem key acq, ?_⟩
  · have hquiet : m.deadline = none ∨ (u.ctx u.cur.ctx).logctl.getLsbD 0 = false := by
      rw [hcur]
      refine hlog.imp (fun ht => ?_) id
      rw [← Option.not_isSome_iff_eq_none]
      exact fun hd => (hdl.1 hd).1 ht
    rw [hx, State.toHome_of_here ((State.goesAway_recordedChan _).trans haway)]
    exact congrArg (· ++ _) (State.recordedChan_agenda hquiet)
  · rw [hcur']
    refine ⟨rfl, rfl, rfl, rfl, ?_, rfl, ?_⟩
    · change (if kind = 2 then u.cur.chan else u.cur.chan + 1) = _
      split <;> rfl
    · change (if acq && kind != 2 then u.cur.holdAll ++ [m.num] else u.cur.holdAll) = _
      split
      · rfl
      · exact (List.append_nil _).symm

/-- The message as the issuer makes it has been sent. -/
theorem sentChan_mkChan (hcur : u.cur = s.cur) (h : Word) (key : Nat) {send : Bool} {o : Option Bool} (ho : send = (o = some true))
    (kind : Nat) (elem : List Byte) (addr : Word) (rs re : Reg) (acq : Bool) :
    s.SentChan key u o kind acq elem addr rs re (u.sendChan (u.mkChan h key send kind elem addr rs re) key acq) := by
  refine sentChan_sendChan hcur h key ho kind elem addr rs re ?_ acq
  rw [← hcur]
  split
  · next hd => exact iff_of_true rfl hd
  · next hd => exact iff_of_false nofun hd

/-! #### What comes before an instruction's own checks -/

/-- Nothing bars a channel instruction: no chunk, handler, spent time-out or earlier operation, and its accesses may be sent. -/
structure ChanIssues (s : State) : Prop where
  plain : s.speculating = false
  noHandler : s.cur.rc = false
  unarmed : s.cur.armed = none
  noneOut : s.cur.chan = 0
  access : s.cur.mayAccess = true

section
variable (hi : ChanIssues s)
include hi

theorem chanStart_of_issues (timed : Bool) (k : Out) : chanStart s timed k = k := by
  rw [chanStart, boundary_of_not_speculating _ hi.plain]
  simp [hi.noHandler, hi.unarmed, hi.noneOut, hi.access]

variable {l : Lone} {d a b : Reg} {key : Nat} {f : FaultInfo}

/-- A handle that is refused raises its fault as an issue check, whatever the instruction (R172, R288). -/
theorem exec_chan_of_refused (hf : ∀ e, handleCheck s (s.g a) (some e) = .error f) :
    ∀ i ∈ [Instr.csend l d a b, .crecv l d a b, .csendb l d a b, .crecvb l d a b, .csendt l d a b, .crecvt l d a b,
      .csendp l d a b, .crecvp l d a b], exec i s = issueFault s f := by
  have h {send : Bool} {ok : Nat → Out} : chanStart s true (match handleCheck s (s.g a) (some send) with
      | .error f => issueFault s f
      | .ok key => ok key) = issueFault s f := by rw [chanStart_of_issues hi, hf]
  simp only [List.forall_mem_cons, List.not_mem_nil, false_implies, implies_true, and_true]
  exact ⟨h, h, h, h, h, h, h, h⟩

/-! #### Handles that are refused at issue (R172) -/

omit hi in
theorem handleCheck_of_notSram (hb : (s.g a).getLsbD 1 = false)
    (hsp : resolved s.cur.core (s.g a &&& ~~~3#64) / 2 ^ 53 % 8 ≠ 2) (e : Option Bool) :
    handleCheck s (s.g a) e = .error { cause := 0x0C0, tval := s.g a, words := [] } := by
  simp only [handleCheck, hb, Bool.false_eq_true, if_false]
  exact if_pos hsp

omit hi in
theorem handleCheck_of_misaligned (hb : (s.g a).getLsbD 1 = false)
    (hsp : resolved s.cur.core (s.g a &&& ~~~3#64) / 2 ^ 53 % 8 = 2) (hal : (s.g a &&& ~~~3#64).toNat % 64 ≠ 0) (e : Option Bool) :
    handleCheck s (s.g a) e = .error { cause := 0x040, tval := s.g a &&& ~~~3#64, words := [] } := by
  simp only [handleCheck, hb, Bool.false_eq_true, if_false]
  exact (if_neg (not_not_intro hsp)).trans (if_pos hal)

/-! #### Words, blocks and tiles (R290–R292) -/

theorem wordOp_of_sent {h x : Word} {send : Bool} {rs re : Reg} (hk : handleCheck s h (some send) = .ok key)
    (hr : s.chanMaySend key send = true) : wordOp s h send x rs re =
      .next (s.sendChan (s.mkChan h key send 0 (if send then natToBytes 8 x.toNat else []) 0 rs re) key (s.chanAcquires key send)) := by
  rw [wordOp, chanStart_of_issues hi, hk]
  exact if_neg (by simp [hr])

omit hi in
/-- The element of a send has been read at issue: `t` is the state in which it could be, `v` the one after (R291). -/
structure ReadsElem (s : State) (va : Word) (n : Nat) (t v : State) (bs : List Byte) : Prop where
  ready : s.readable va n = some t
  curReady : t.cur = s.cur
  read : readBeat t s.cur.core s.cur.ctx va n = (.ok bs, v)
  curRead : v.cur = s.cur

section
omit hi
variable {va : Word} {n : Nat} {t v : State} {bs : List Byte} (hr : ReadsElem s va n t v bs)
include hr

theorem ReadsElem.withElement_eq (k : State → List Byte → Out) :
    withElement s va n k = k (v.dropHost s.cur.core s.cur.ctx) bs := by
  have hread : readBeat t t.cur.core t.cur.ctx va n = (.ok bs, v) := by rw [hr.curReady]; exact hr.read
  rw [withElement_of_read hr.ready hread, hr.curRead]

/-- The read leaves the registers that the bundle reads (R213). -/
theorem ReadsElem.g_eq (r : Reg) : (v.dropHost s.cur.core s.cur.ctx).g r = s.g r := by
  have hpre : v.pre = s.pre := by
    have hv := readBeat_pre (s := t) s.cur.core s.cur.ctx va n
    rw [hr.read] at hv
    exact hv.trans (State.readable_pre hr.ready)
  have hg : v.g r = s.g r := by simp only [State.g, hr.curRead, hpre]
  exact hg

end

/-- A block send goes with the element that was read (R291). -/
theorem exec_csendb_of_sent (hk : handleCheck s (s.g a) (some true) = .ok key) (he : isExtKey key = false)
    (hal : s.isPeerKey key = false → (s.g b).toNat % s.blockSize key (s.g b) = 0) (hm : s.chanMaySend key true = true)
    {t v : State} {bs : List Byte} (hr : ReadsElem s (s.g b) (s.blockSize key (s.g b)) t v bs) {u : State}
    (hu : u = v.dropHost s.cur.core s.cur.ctx) : exec (.csendb l d a b) s =
      .next (u.sendChan (u.mkChan (s.g a) key true 1 bs (s.g b) d 0) key (v.chanAcquires key true)) := by
  have halign : ¬ (!s.isPeerKey key && decide ((s.g b).toNat % s.blockSize key (s.g b) ≠ 0)) = true := by
    simpa using hal
  change execCsendb l d a b s = _
  rw [execCsendb, chanStart_of_issues hi, hk]
  simp only [he]
  rw [if_neg halign, if_neg (by simp [hm]), hr.withElement_eq, ← hu]
  simp only [hu, hr.g_eq]
  rfl

theorem exec_crecvb_of_sent (hk : handleCheck s (s.g a) (some false) = .ok key)
    (hal : s.isPeerKey key = false → (s.g b).toNat % s.blockSize key (s.g b) = 0) (hm : s.chanMaySend key false = true) :
    exec (.crecvb l d a b) s = .next (s.sendChan (s.mkChan (s.g a) key false 1 [] (s.g b) d 0) key true) := by
  have halign : ¬ (!s.isPeerKey key && !isExtKey key && decide ((s.g b).toNat % s.blockSize key (s.g b) ≠ 0)) = true := by
    simp only [Bool.and_eq_true, Bool.not_eq_true', decide_eq_true_eq, not_and, not_not, and_imp]
    exact fun hp _ => hal hp
  change execCrecvb l d a b s = _
  rw [execCrecvb, chanStart_of_issues hi, hk]
  exact (if_neg halign).trans (if_neg (by simp [hm]))

omit hi in
/-- A message whose words go to a memory server as a request, and which is no step of a home (R88, R291). -/
def State.askServer (u : State) (m : ChanMsg) (key stack : Nat) : State :=
  { u.sendChan m key true with
    agenda := (u.sendChan m key true).agenda.filter (· ≠ .channelSendAtHome m) ++
      [.msRequest { stack := stack, words := wordsOfBytes m.elem, msg := m }] }

theorem exec_csendb_of_server (hk : handleCheck s (s.g a) (some true) = .ok key) (he : isExtKey key = true) {k : Nat}
    (hend : extEnd key = some (.server k)) (hal : (s.g b).toNat % 64 = 0) {t v : State} {bs : List Byte}
    (hr : ReadsElem s (s.g b) 64 t v bs) {u : State} (hu : u = v.dropHost s.cur.core s.cur.ctx)
    (hsc : field ((wordsOfBytes bs).getD 0 0) 24 3 = 0 ∨ field ((wordsOfBytes bs).getD 0 0) 24 3 = 7 ∨
      s.cur.releaseHolds (field ((wordsOfBytes bs).getD 0 0) 24 3) = true) :
    exec (.csendb l d a b) s = .next (u.askServer (u.mkChan (s.g a) key true 1 bs (s.g b) d 0) key k) := by
  have hucur : u.cur = s.cur := by rw [hu]; exact hr.curRead
  have hfree : ¬ (field ((wordsOfBytes bs).getD 0 0) 24 3 ≠ 0 ∧ field ((wordsOfBytes bs).getD 0 0) 24 3 ≠ 7 ∧
      (!u.cur.releaseHolds (field ((wordsOfBytes bs).getD 0 0) 24 3)) = true) := by
    rw [hucur, Bool.not_eq_true', ← Bool.not_eq_true]
    tauto
  change execCsendb l d a b s = _
  rw [execCsendb, chanStart_of_issues hi, hk]
  simp only [he, hend]
  rw [serverSend, if_neg (not_not_intro hal), hr.withElement_eq, ← hu]
  exact if_neg hfree

omit hi in
theorem State.takeScore_cur {es : List (Word × Nat × Bool)} {cls : CntClass} {cmd : Nat} {t : State}
    (ht : s.takeScore es cls cmd = some t) : t.cur = s.cur := by
  simp only [State.takeScore] at ht
  split at ht
  · exact absurd ht nofun
  · rw [← Option.some.inj ht]
    rfl

theorem tileOp_of_sent {h va : Word} {send : Bool} {rs : Reg} {t : State} (hk : handleCheck s h (some send) = .ok key)
    (hal : va.toNat % 64 = 0) (hm : s.chanMaySend key send = true) (hfull : s.cur.cnt.full .transfers = false)
    (ht : s.takeScore [(va, s.tileBytes key, !send)] .transfers (s.accs + 1) = some t) :
    tileOp s h send va rs = .next (t.sendChan (t.mkChan h key send 2 [] va rs 0) key false) := by
  rw [tileOp, chanStart_of_issues hi, hk]
  refine (if_neg (not_not_intro hal)).trans ((if_neg (by simp [hm, hfull])).trans ?_)
  rw [ht]

/-! #### Packets, looks and closes (R293–R296) -/

theorem exec_csendp_of_packet (hk : handleCheck s (s.g a) (some true) = .ok key) (hb : (s.g a).getLsbD 1 = true)
    (hal : (s.g b).toNat % 8 = 0) (hrel : s.cur.releaseHolds 6 = true) :
    exec (.csendp l d a b) s = .next (s.sendChan (s.mkChan (s.g a) key true 3 [] (s.g b) d 0) key false) := by
  change execCsendp l d a b s = _
  rw [execCsendp, chanStart_of_issues hi, hk]
  exact (if_neg (by simp [hb])).trans ((if_neg (not_not_intro hal)).trans (if_neg (by simp [hrel])))

theorem exec_csendp_of_channel (hk : handleCheck s (s.g a) (some true) = .ok key) (hb : (s.g a).getLsbD 1 = false)
    (hm : s.chanMaySend key true = true) :
    exec (.csendp l d a b) s = .next (s.sendChan (s.mkChan (s.g a) key true 3 [] (s.g b) d 0) key false) := by
  change execCsendp l d a b s = _
  rw [execCsendp, chanStart_of_issues hi, hk]
  exact (if_pos (by rw [hb]; rfl)).trans (if_neg (by simp [hm]))

theorem exec_crecvp_of_sent (hk : handleCheck s (s.g a) (some false) = .ok key)
    (hok : (s.g a).getLsbD 1 = false ∨ (s.g b).toNat % 32 = 0 ∧ s.areaOk (s.g b) = true) :
    exec (.crecvp l d a b) s = .next (s.sendChan (s.mkChan (s.g a) key false 3 [] (s.g b) d 0) key true) := by
  change execCrecvp l d a b s = _
  rw [execCrecvp, chanStart_of_issues hi, hk]
  rcases hok with hb | ⟨hal, harea⟩
  · exact (if_neg (by rw [hb]; simp)).trans (if_neg (by rw [hb]; simp))
  · exact (if_neg (by simp [hal])).trans (if_neg (by simp [harea]))

theorem exec_crecvp_of_misaligned (hk : handleCheck s (s.g a) (some false) = .ok key) (hb : (s.g a).getLsbD 1 = true)
    (hal : (s.g b).toNat % 32 ≠ 0) : exec (.crecvp l d a b) s = raiseO s 0x040 (s.g b) := by
  change execCrecvp l d a b s = _
  rw [execCrecvp, chanStart_of_issues hi, hk]
  exact if_pos ⟨hb, hal⟩

theorem exec_cpoll_of_sent (hk : handleCheck s (s.g a) none = .ok key) : exec (.cpoll l d a) s =
    .next (s.sendChan { s.mkChan (s.g a) key false 4 [] 0 d 0 with deadline := none } key false) := by
  change execCpoll l d a s = _
  rw [execCpoll, chanStart_of_issues hi, hk]

theorem exec_cclose_of_sent (hk : handleCheck s (s.g a) none = .ok key)
    (hrel : isExtKey key = true ∨ s.cur.releaseHolds (s.chanScope key) = true) :
    exec (.cclose l a) s = .next (s.sendChan (s.mkChan (s.g a) key true 5 [] 0 0 0) key false) := by
  change execCclose l a s = _
  rw [execCclose, chanStart_of_issues hi, hk]
  refine if_neg ?_
  simpa [← Bool.not_eq_true, imp_iff_not_or] using hrel

/-! #### Records made and deleted (R298, R299) -/

theorem recordOp_of_sent {x h : Word} {kind : Nat} (hh : h = if kind = 7 then x &&& ~~~3#64 else x)
    (hkey : key = resolved s.cur.core h) (hal : h.toNat % 64 = 0) (hsp : key / 2 ^ 53 % 8 = 2) (hp : s.isPeerKey key = false)
    {w y : Nat} (hc : checkAccess s s.cur.core s.cur.ctx h 64 needRW false = .ok w y)
    (hrel : s.cur.releaseHolds (s.chanScope key) = true) :
    recordOp s x kind d = .next (s.sendChan (s.mkChan x key true kind [] 0 d 0) key false) := by
  subst hkey
  rw [recordOp, boundary_of_not_speculating _ hi.plain, if_neg (by simp [hi.noneOut, hi.access]), ← hh]
  refine (if_neg (not_not_intro hal)).trans ((if_neg (not_or.2 ⟨not_not_intro hsp, by simp [hp]⟩)).trans ?_)
  rw [hc]
  exact if_neg (by simp [hrel])

theorem exec_chnew_of_misaligned (hal : (s.descOp l b).toNat % 64 ≠ 0) :
    exec (.chnew l d b) s = raiseO s 0x040 (s.descOp l b) := by
  change recordOp s (s.descOp l b) 6 d = _
  rw [recordOp, boundary_of_not_speculating _ hi.plain, if_neg (by simp [hi.noneOut, hi.access])]
  exact if_pos hal

end

end

/-- Settles O40: each instruction by its checks in order, what it sends by the message that its issuer makes. -/
theorem channelOperationsTravelToTheirHome : Obligations.ChannelOperationsTravelToTheirHome := by
  intro s t0 l d a b key n bs sent hplain hrc harm hsent
  obtain rfl : sent = s.SentChan key := by
    funext u send kind acq elem addr rs re t
    exact propext (hsent u send kind acq elem addr rs re t)
  have hissues (hchan : s.cur.chan = 0) (hacc : s.cur.mayAccess = true) : ChanIssues s :=
    ⟨hplain, hrc, harm.resolve_right (not_not_intro hchan), hchan, hacc⟩
  have hsend : (true : Bool) = (some true = some true) := by simp
  have hrecv : (false : Bool) = (some false = some true) := by simp
  have hlook : (false : Bool) = ((none : Option Bool) = some true) := by simp
  refine ⟨fun r hr hchan hacc hb => ?_, fun hchan hacc => ?_⟩
  case refine_1 =>
    have hi := hissues hchan hacc
    have hmem : r.1 ∈ [Instr.csend l d a b, .crecv l d a b, .csendb l d a b, .crecvb l d a b, .csendt l d a b, .crecvt l d a b,
        .csendp l d a b, .crecvp l d a b] := List.mem_map_of_mem (f := Prod.fst) hr
    exact ⟨fun hsp => exec_chan_of_refused hi (fun e => handleCheck_of_notSram hb hsp e) _ hmem,
      fun hsp hal => exec_chan_of_refused hi (fun e => handleCheck_of_misaligned hb hsp hal e) _ hmem⟩
  have hi := hissues hchan hacc
  refine ⟨fun hk hm => ⟨_, wordOp_of_sent hi hk hm, sentChan_mkChan rfl _ _ hsend ..⟩,
    fun hk hm => ⟨_, wordOp_of_sent hi hk hm, sentChan_mkChan rfl _ _ hrecv ..⟩,
    fun hn hal he => ⟨fun hp => ?_, fun hk hm hr ht t1 hb h1 => ?_, fun hk hm => ?_⟩,
    fun k hk he hend hal hr ht t1 hb h1 hsc => ?_,
    fun hn => ⟨fun hp => ?_, fun hal hfull => ⟨fun hk hm ht => ?_, fun hk hm ht => ?_⟩⟩,
    fun hk => ⟨fun hb hal hrel => ?_, fun hb hm => ?_⟩,
    fun hk => ⟨fun hok => ?_, fun hb hal => exec_crecvp_of_misaligned hi hk hb hal⟩,
    fun hk => ?_, fun hk hrel => ?_, fun h hkey hal hsp hp hc hrel => ⟨fun hx => ?_, fun hx => ?_⟩, exec_chnew_of_misaligned hi⟩
  · rw [hn, State.blockSize, if_neg (by simp [hp])]
  · subst hn
    have hread : ReadsElem s _ _ _ _ _ := ⟨hr, ht, hb, h1⟩
    exact ⟨_, exec_csendb_of_sent hi hk he hal hm hread rfl,
      sentChan_mkChan (u := t1.dropHost s.cur.core s.cur.ctx) h1 (s.g a) key hsend 1 bs (s.g b) d 0 _⟩
  · subst hn
    exact ⟨_, exec_crecvb_of_sent hi hk hal hm, sentChan_mkChan rfl _ _ hrecv ..⟩
  · exact ⟨_, _, exec_csendb_of_server hi hk he hend hal ⟨hr, ht, hb, h1⟩ rfl hsc, State.sendChan_mem .., congrArg Proc.agent h1,
      rfl, rfl, List.mem_append_right _ (List.mem_singleton_self _)⟩
  · rw [hn, State.tileBytes, if_neg (by simp [hp])]
  · exact ⟨_, tileOp_of_sent hi hk hal hm hfull (hn ▸ ht), sentChan_mkChan (State.takeScore_cur ht) _ _ hsend ..⟩
  · exact ⟨_, tileOp_of_sent hi hk hal hm hfull (hn ▸ ht), sentChan_mkChan (State.takeScore_cur ht) _ _ hrecv ..⟩
  · exact ⟨_, exec_csendp_of_packet hi hk hb hal hrel, sentChan_mkChan rfl _ _ hsend ..⟩
  · exact ⟨_, exec_csendp_of_channel hi hk hb hm, sentChan_mkChan rfl _ _ hsend ..⟩
  · exact ⟨_, exec_crecvp_of_sent hi hk hok, sentChan_mkChan rfl _ _ hrecv ..⟩
  · exact ⟨_, exec_cpoll_of_sent hi hk, sentChan_sendChan rfl _ _ hlook _ _ _ _ _ (by simp) _⟩
  · exact ⟨_, exec_cclose_of_sent hi hk hrel, sentChan_mkChan rfl _ _ hsend ..⟩
  · obtain ⟨w, y, hc⟩ := hc
    exact ⟨_, recordOp_of_sent hi (hx.trans (if_neg (by decide)).symm) hkey hal hsp hp hc hrel, sentChan_mkChan rfl _ _ hsend ..⟩
  · obtain ⟨w, y, hc⟩ := hc
    exact ⟨_, recordOp_of_sent hi (hx.trans (if_pos rfl).symm) hkey hal hsp hp hc hrel, sentChan_mkChan rfl _ _ hsend ..⟩

end Sys2Proof.Machine

namespace Sys2Proof.Machine

/-! ### Records made by instructions and handlers (O43: R166, R182–R186, R302–R305) -/

/-! #### Fields of a word -/

section
variable (x : Word) {lo n : Nat} (y : Nat)

theorem field_setField_self (h : lo + n ≤ 64) : field (setField x lo n y) lo n = y % 2 ^ n := by
  apply Nat.eq_of_testBit_eq
  intro j
  rw [testBit_field, Nat.testBit_mod_two_pow]
  by_cases hj : j < n
  · rw [getLsbD_setField x (by omega), if_pos ⟨by omega, by omega⟩, Nat.add_sub_cancel_left]
  · simp [hj]

theorem field_setField_of_disjoint {lo' n' : Nat} (h : lo' + n' ≤ 64) (hd : lo' + n' ≤ lo ∨ lo + n ≤ lo') :
    field (setField x lo n y) lo' n' = field x lo' n' := by
  apply Nat.eq_of_testBit_eq
  intro j
  rw [testBit_field, testBit_field]
  by_cases hj : j < n'
  · rw [getLsbD_setField x (by omega), if_neg (by omega)]
  · simp [hj]

end

/-! #### Words written one after another -/

section
variable {m : List Host.Cell} {a b : Nat} {x : Word}

theorem byteAt_writeWord_out (h : b < a ∨ a + 8 ≤ b) : byteAt (writeWord m a x) b = byteAt m b :=
  byteAt_putBytes_out _ _ _ _ (by rw [natToBytes_length]; exact h)

theorem wf_pokeWords (ws : List Word) (hm : Memory.wf m = true) : Memory.wf (pokeWords m a ws) = true := by
  induction ws generalizing m a with
  | nil => exact hm
  | cons w r ih => exact ih (Memory.wf_writeWord m a w hm)

theorem byteAt_pokeWords_out (ws : List Word) (h : b < a ∨ a + 8 * ws.length ≤ b) :
    byteAt (pokeWords m a ws) b = byteAt m b := by
  induction ws generalizing m a with
  | nil => rfl
  | cons w r ih =>
    rw [List.length_cons] at h
    rw [pokeWords, ih (by omega), byteAt_writeWord_out (by omega)]

theorem readWord_pokeWords_out (ws : List Word) (h : b + 8 ≤ a ∨ a + 8 * ws.length ≤ b) :
    readWord (pokeWords m a ws) b = readWord m b := by
  induction ws generalizing m a with
  | nil => rfl
  | cons w r ih =>
    rw [List.length_cons] at h
    rw [pokeWords, ih (by omega), readWord_writeWord_out _ _ _ _ (by omega)]

theorem readWord_pokeWords_in (ws : List Word) (hm : Memory.wf m = true) {i : Nat} (hi : i < ws.length) :
    readWord (pokeWords m a ws) (a + 8 * i) = ws[i] := by
  induction ws generalizing m a i with
  | nil => exact absurd hi (Nat.not_lt_zero i)
  | cons w r ih =>
    cases i with
    | zero =>
      rw [Nat.mul_zero, Nat.add_zero, pokeWords, readWord_pokeWords_out _ (.inl (by omega)), readWord_writeWord _ _ _ hm]
      rfl
    | succ j =>
      have hj := ih (m := writeWord m a w) (a := a + 8) (Memory.wf_writeWord m a w hm) (i := j) (by simpa using hi)
      rw [pokeWords, show a + 8 * (j + 1) = a + 8 + 8 * j by omega, hj]
      rfl

end

/-! #### The words of a record (R165) -/

/-- The state `u` is `s` with a record of the given home, priority, marks, entry and g1 to g4 written at `q`. -/
def State.MadeRecord (s u : State) (q home : Nat) (prio : BitVec 3) (task rc : Bool) (pc : Word) (gs : List Word) : Prop :=
  u.peek q = pc ∧ (∀ i < 4, u.peek (q + 16 + 8 * i) = gs.getD i 0) ∧
    field (u.peek (q + 8)) 41 10 = home % 1024 ∧ field (u.peek (q + 8)) 51 1 = bit rc ∧ field (u.peek (q + 8)) 52 1 = bit task ∧
    field (u.peek (q + 8)) 53 3 = prio.toNat ∧ field (u.peek (q + 8)) 0 41 = field (s.peek (q + 8)) 0 41 ∧
    ∀ x, x < q ∨ q + 64 ≤ x → byteAt u.mem x = byteAt s.mem x

/-- Memory with an entry, a record word and g1 to g4 written at `pid`. -/
def recordMem (m : List Host.Cell) (pid : Nat) (pc w g1 g2 g3 g4 : Word) : List Host.Cell :=
  pokeWords (writeWord (writeWord m pid pc) (pid + 8) w) (pid + 16) [g1, g2, g3, g4, 0, 0]

section
variable (old : Word) (q : Proc)

theorem field_recordWord_home : field (recordWord old q) 41 10 = q.home % 1024 := by
  simp (disch := omega) only [recordWord, field_setField_of_disjoint, field_setField_self]
  rfl

theorem field_recordWord_rc : field (recordWord old q) 51 1 = bit q.rc := by
  simp (disch := omega) only [recordWord, field_setField_of_disjoint, field_setField_self]
  cases q.rc <;> rfl

theorem field_recordWord_task : field (recordWord old q) 52 1 = bit q.task := by
  simp (disch := omega) only [recordWord, field_setField_of_disjoint, field_setField_self]
  cases q.task <;> rfl

theorem field_recordWord_prio : field (recordWord old q) 53 3 = q.prio.toNat := by
  simp (disch := omega) only [recordWord, field_setField_of_disjoint, field_setField_self]
  exact Nat.mod_eq_of_lt q.prio.isLt

theorem field_recordWord_frame : field (recordWord old q) 0 41 = field old 0 41 := by
  simp (disch := omega) only [recordWord, field_setField_of_disjoint]

end

section
variable {s u : State} {p pid home : Nat} {prio : BitVec 3} {task rc : Bool} {pc : Word} {gs : List Word} {q : Proc}

theorem State.setProc_mem (s : State) (p : Proc) : (s.setProc p).mem = s.mem := by
  unfold State.setProc
  split <;> rfl

/-- The words that a record is made of, from the parts of the context that they show. -/
theorem pokeWords_eq_recordMem {s s' : State} {q q' : Proc} (hmem : s'.mem = s.mem) (hpc : q'.pc = q.pc) (hg : q'.g = q.g) :
    pokeWords (writeWord (writeWord s'.mem pid q'.pc) (pid + 8) (recordWord (s'.peek (pid + 8)) q')) (pid + 16)
        [q'.rg 1, q'.rg 2, q'.rg 3, q'.rg 4, 0, 0] =
      recordMem s.mem pid q.pc (recordWord (readWord s.mem (pid + 8)) q') (q.rg 1) (q.rg 2) (q.rg 3) (q.rg 4) := by
  simp only [State.peek, Proc.rg, hmem, hpc, hg, recordMem]

/-- Making a record writes its words (R165, R303). -/
theorem State.create_mem (s : State) (p pid : Nat) (q : Proc) :
    ∃ q' : Proc, (q'.home = q.home ∧ q'.rc = q.rc ∧ q'.task = q.task ∧ q'.prio = q.prio) ∧
      (s.create p pid q).mem =
        recordMem s.mem pid q.pc (recordWord (readWord s.mem (pid + 8)) q') (q.rg 1) (q.rg 2) (q.rg 3) (q.rg 4) := by
  unfold State.create
  extract_lets n q' s' m
  have hwritten := pokeWords_eq_recordMem (pid := pid) (s' := s') (q' := q') (s := s) (q := q) rfl rfl rfl
  change pokeWords m (pid + 16) _ = _ at hwritten
  refine ⟨q', ⟨rfl, rfl, rfl, rfl⟩, ?_⟩
  generalize pokeWords m _ _ = written at *
  rw [State.setProc_mem]
  exact hwritten

/-- A record written has its entry, its marks and its registers, and lies in its 64 bytes. -/
theorem State.madeRecord_of_mem {g1 g2 g3 g4 : Word} (hm : Memory.wf s.mem = true)
    (hu : u.mem = recordMem s.mem pid pc (recordWord (readWord s.mem (pid + 8)) q) g1 g2 g3 g4) :
    s.MadeRecord u pid q.home q.prio q.task q.rc pc [g1, g2, g3, g4] := by
  have hmem : Memory.wf (writeWord (writeWord s.mem pid pc) (pid + 8) (recordWord (readWord s.mem (pid + 8)) q)) = true :=
    Memory.wf_writeWord _ _ _ (Memory.wf_writeWord _ _ _ hm)
  have hword : u.peek (pid + 8) = recordWord (s.peek (pid + 8)) q := by
    rw [State.peek, hu, recordMem, readWord_pokeWords_out _ (.inl (by omega)),
      readWord_writeWord _ _ _ (Memory.wf_writeWord _ _ _ hm), State.peek]
  refine ⟨?_, fun i hi => ?_, ?_, ?_, ?_, ?_, ?_, fun x hx => ?_⟩
  · rw [State.peek, hu, recordMem, readWord_pokeWords_out _ (.inl (by omega)), readWord_writeWord_out _ _ _ _ (.inl (by omega)),
      readWord_writeWord _ _ _ hm]
  · rw [State.peek, hu, recordMem, readWord_pokeWords_in _ hmem (by simp only [List.length_cons, List.length_nil]; omega)]
    obtain rfl | rfl | rfl | rfl : i = 0 ∨ i = 1 ∨ i = 2 ∨ i = 3 := by omega
    · rfl
    · rfl
    · rfl
    · rfl
  · rw [hword, field_recordWord_home]
  · rw [hword, field_recordWord_rc]
  · rw [hword, field_recordWord_task]
  · rw [hword, field_recordWord_prio]
  · rw [hword, field_recordWord_frame]
  · rw [hu, recordMem, byteAt_pokeWords_out _ (by simp only [List.length_cons, List.length_nil]; omega),
      byteAt_writeWord_out (by omega), byteAt_writeWord_out (by omega)]

/-- g1 to g4 of a register file are those given. -/
theorem Proc.rg_of_regFile (hq : q.g = regFile gs) (i : Fin 4) : q.rg (BitVec.ofNat 5 (i + 1)) = gs.getD i 0 := by
  fin_cases i <;> simp [Proc.rg, hq, regFile]

/-- A record made with the register file `gs` (R303). -/
theorem State.madeRecord_create (hm : Memory.wf s.mem = true) (hu : u.mem = s.mem) (hg : q.g = regFile gs) :
    s.MadeRecord (u.create p pid q) pid q.home q.prio q.task q.rc q.pc ((List.range 4).map fun i => gs.getD i 0) := by
  obtain ⟨q', ⟨hhome, hrc, htask, hprio⟩, hmem⟩ := State.create_mem u p pid q
  have hmade := State.madeRecord_of_mem hm (hu ▸ hmem)
  have hgs : [q.rg 1, q.rg 2, q.rg 3, q.rg 4] = (List.range 4).map fun i => gs.getD i 0 := by
    have h1 := Proc.rg_of_regFile hg 0
    have h2 := Proc.rg_of_regFile hg 1
    have h3 := Proc.rg_of_regFile hg 2
    have h4 := Proc.rg_of_regFile hg 3
    exact congrArg₂ _ h1 (congrArg₂ _ h2 (congrArg₂ _ h3 (congrArg (· :: []) h4)))
  rwa [hhome, hrc, htask, hprio, hgs] at hmade

end

/-! #### The log's gate keeps the issuer -/

/-- An event that no channel counts passes the log's gate without a change to the process that issues (R159, R160). -/
theorem logGate_cur {s t : State} {p : Proc} {kind unit lc slot obj detail : Nat}
    (hp : s.logGate p kind unit false lc slot obj detail = .pass t) : t.cur = s.cur ∧ t.pre = s.pre := by
  unfold State.logGate at hp
  split at hp
  · cases hp
    exact ⟨rfl, rfl⟩
  split at hp
  · extract_lets u x q at hp
    have hq : q.2.cur = s.cur ∧ q.2.pre = s.pre := ⟨rfl, rfl⟩
    split at hp
    · cases hp
    split at hp
    · cases hp
    split at hp <;> cases hp
    exact hq
  extract_lets x lg mine q u v at hp
  have hv : v.cur = s.cur ∧ v.pre = s.pre := by
    simp only [v]
    split <;> exact ⟨rfl, rfl⟩
  clear_value v
  split at hp
  · cases hp
    exact ⟨rfl, rfl⟩
  split at hp <;> cases hp
  split <;> exact hv

/-! #### Each instruction that asks for a record -/

theorem entryCheck_of_misaligned {s : State} {pc : Word} (h : field pc 0 3 ≠ 0) (k : Out) : entryCheck s pc k = raiseO s 0x040 pc :=
  if_pos h

theorem entryCheck_of_aligned {s : State} {pc : Word} (h : field pc 0 3 = 0) (k : Out) : entryCheck s pc k = k :=
  if_neg (not_not_intro h)

section
variable {s : State} {l : Lone} {d h a b : Reg}

theorem exec_spawnOp (hs : s.speculating = false) (hrc : s.cur.rc = false) (hal : field (s.g a) 0 3 = 0)
    (hm : s.cur.maySpawn = true) (kind : Nat) :
    spawnOp s kind d a b = .next (s.sendSpawn (s.mkSpawn kind (s.g a) ((s.g b).setWidth 3) s.carry 0 d)) := by
  rw [spawnOp, entryCheck_of_aligned hal, boundary_of_not_speculating _ hs, notInHandler_of_not_rc _ hrc, if_neg (by simp [hm])]

/-- The request leaves as a step, and the issuer's slot waits for the answer; memory and register values stay. -/
theorem sendSpawn_eq (m : SpawnMsg) : (s.sendSpawn m).agenda = s.agenda ++ [.spawnPlace m] ∧ (s.sendSpawn m).mem = s.mem ∧
    (s.sendSpawn m).cur.g = s.cur.g ∧ (s.sendSpawn m).cur.waiting = true := by
  refine ⟨rfl, rfl, ?_, rfl⟩
  show (s.cur.setPend m.rd).g = s.cur.g
  unfold Proc.setPend
  split <;> rfl

/-- The state with the child's record that a fork makes. -/
def State.forked (s : State) (pc : Word) : State :=
  let p := s.cur.core
  (s.takeRecord p).2.create p (s.takeRecord p).1
    (childOf s.cur.ctx s.cur.prio true (if s.levelOf s.cur.ctx = 0 then (s.core p).lcore else s.cur.home) pc s.carry)

theorem State.madeRecord_forked (hw : Memory.wf s.mem = true) (pc : Word) :
    s.MadeRecord (s.forked pc) (s.takeRecord s.cur.core).1
      (if s.levelOf s.cur.ctx = 0 then (s.core s.cur.core).lcore else s.cur.home) s.cur.prio true false pc s.carry := by
  have hmade : s.MadeRecord (s.forked pc) _ _ _ _ _ _ ((List.range 4).map fun i => s.carry.getD i 0) :=
    State.madeRecord_create hw rfl rfl
  exact hmade

section
variable (hs : s.speculating = false) (hrc : s.cur.rc = false) (hal : field (s.g a) 0 3 = 0) (hm : s.cur.maySpawn = true)
include hs hrc hal hm

/-- A fork without room runs its child in the place of its parent, once the log has taken that (R184, R305). -/
theorem exec_fork_inline {u : State}
    (hroom : 256 ≤ (s.core s.cur.core).deque.length ∨ (s.hasRecord s.cur.core = false ∧ s.levelOf s.cur.ctx = 0))
    (hu : s.logGate s.cur 0x08 s.cur.core false (s.core s.cur.core).lcore s.cur.unit 0 (2 ^ 15 + (s.core s.cur.core).lcore) = .pass u) :
    exec (.fork l a) s = .next ((u.setG 30 (s.cur.pc + 8)).jump (s.g a)) := by
  obtain ⟨hcur, hpre⟩ := logGate_cur hu
  have hg : u.g a = s.g a := by simp only [State.g, hcur, hpre]
  change execFork l a s = _
  rw [execFork, entryCheck_of_aligned hal, boundary_of_not_speculating _ hs, notInHandler_of_not_rc _ hrc]
  simp only [hm, Bool.not_true, Bool.false_eq_true, if_false, hu, hcur, hg]
  exact if_pos (by simpa using hroom)

theorem exec_fork_of_room (hd : (s.core s.cur.core).deque.length < 256) (hr : s.hasRecord s.cur.core = true) :
    exec (.fork l a) s =
      .next (((s.forked (s.g a)).updCore s.cur.core fun c => { c with deque := (s.takeRecord s.cur.core).1 :: c.deque }).push
        (.slotFill s.cur.core)) := by
  change execFork l a s = _
  rw [execFork, entryCheck_of_aligned hal, boundary_of_not_speculating _ hs, notInHandler_of_not_rc _ hrc]
  simp only [hm, hr, Bool.not_true, Bool.false_eq_true, if_false, Bool.false_and, Bool.or_false]
  exact if_neg (by simpa using hd)

end

section
variable (hs : s.speculating = false) (hrc : s.cur.rc = false) (hal : field (s.g b) 0 3 = 0) (hh : s.g h = 0)
include hs hrc hal hh

/-- The message of a `callat` whose handle is 0. -/
def State.callMsg (s : State) (h a b : Reg) : SpawnMsg :=
  s.mkSpawn 2 (s.g b) s.cur.prio [s.g 1, s.g 2, s.g 3, s.g h] (resolved s.cur.core (s.g a) % 2 ^ 56) 0

theorem exec_callat_of_denied (hsp : 4 ≤ resolved s.cur.core (s.g a) / 2 ^ 53 % 8) :
    exec (.callat l h a b) s = .next (s.raiseAfter 0x043 (s.g a) [] none) := by
  change execCallat l h a b s = _
  rw [execCallat, entryCheck_of_aligned hal, if_neg (by simp [hh]), boundary_of_not_speculating _ hs, notInHandler_of_not_rc _ hrc]
  exact if_pos hsp

theorem exec_callat_of_notSram (hlt : resolved s.cur.core (s.g a) / 2 ^ 53 % 8 < 4) (hsp : resolved s.cur.core (s.g a) / 2 ^ 53 % 8 ≠ 2) :
    exec (.callat l h a b) s = .next (s.raiseAfter 0x0C4 (s.g a) [] none) := by
  change execCallat l h a b s = _
  rw [execCallat, entryCheck_of_aligned hal, if_neg (by simp [hh]), boundary_of_not_speculating _ hs, notInHandler_of_not_rc _ hrc]
  exact (if_neg (by omega)).trans (if_pos hsp)

/-- A `callat` to this package's SRAM goes where `callCore` says. -/
theorem exec_callat_of_sram (hsp : resolved s.cur.core (s.g a) / 2 ^ 53 % 8 = 2)
    (hnode : resolved s.cur.core (s.g a) / 2 ^ 56 = 0 ∨ resolved s.cur.core (s.g a) / 2 ^ 56 = s.mynode)
    (hacc : s.cur.mayAccess = true) (hrel : s.cur.releaseHolds 5 = true) :
    exec (.callat l h a b) s =
      match s.callCore (resolved s.cur.core (s.g a) % 2 ^ 56) with
      | none => .next (s.raiseAfter 0x0C4 (s.g a) [] none)
      | some _ => .next (s.sendSpawn (s.callMsg h a b)) := by
  have hpeer : (decide (resolved s.cur.core (s.g a) / 2 ^ 56 ≠ 0) && decide (resolved s.cur.core (s.g a) / 2 ^ 56 ≠ s.mynode)) = false := by
    obtain hn | hn := hnode
    · rw [hn, decide_eq_false (not_not_intro rfl), Bool.false_and]
    · rw [hn, decide_eq_false (p := s.mynode ≠ s.mynode) (not_not_intro rfl), Bool.and_false]
  change execCallat l h a b s = _
  rw [execCallat, entryCheck_of_aligned hal, if_neg (by simp [hh]), boundary_of_not_speculating _ hs, notInHandler_of_not_rc _ hrc]
  simp only [if_pos hh, hpeer, hsp, hacc, hrel, Bool.not_true, Bool.or_false, Bool.false_eq_true, if_false, ne_eq, not_true_eq_false]
  rfl

end

end

/-! #### Where a record asked for is made -/

section
variable {s : State} {m : SpawnMsg} {p : Nat}

/-- The state with the record of core `p` that a message asks for. -/
def State.childMade (s : State) (m : SpawnMsg) (p home : Nat) : State :=
  (s.takeRecord p).2.create p (s.takeRecord p).1 (childOf m.ctx m.prio (m.kind != 0) home m.entry m.g14)

theorem State.makeChild_eq (home : Nat) : s.makeChild m p home =
    ((s.childMade m p home).enqueue p (s.takeRecord p).1).spawned m (s.takeRecord p).1 := rfl

theorem State.madeRecord_childMade (hm : Memory.wf s.mem = true) (home : Nat) :
    s.MadeRecord (s.childMade m p home) (s.takeRecord p).1 home m.prio (m.kind != 0) false m.entry
      ((List.range 4).map fun i => m.g14.getD i 0) :=
  State.madeRecord_create hm rfl rfl

theorem exec_spawnPlace_at (hk : m.kind ≤ 1) (hl : s.levelOf m.ctx = 0) (hp : s.spawnCore m.core = some m.core) :
    exec (.spawnPlace m) s = .next (s.makeChild m m.core (s.core m.core).lcore) := by
  change execSpawnPlace m s = _
  rw [execSpawnPlace, if_neg (by omega), if_neg (not_not_intro hl), hp]
  exact if_pos rfl

theorem exec_spawnPlace_nowhere (hk : m.kind ≤ 1) (hl : s.levelOf m.ctx = 0) (hp : s.spawnCore m.core = none)
    (hlog : s.logged (s.proc m.agent.pid) = false) : exec (.spawnPlace m) s = .next (s.runInline m) := by
  change execSpawnPlace m s = _
  rw [execSpawnPlace, if_neg (by omega), if_neg (not_not_intro hl), hp]
  simp only [bounceGate, State.logGate, hlog, Bool.not_false, if_true]

theorem exec_spawnPlace_call (hk : m.kind = 2) (hp : s.callCore m.target = some p) :
    exec (.spawnPlace m) s =
      if s.hasRecord p then .next (s.makeChild m p (s.core p).lcore) else .next (s.later (.spawnPlace m)) := by
  change execSpawnPlace m s = _
  rw [execSpawnPlace, if_pos hk, hp]

end

section
variable {s : State} {m : HandlerMsg}

/-- The state with the record of a handler, which runs to completion and holds its object's unit (R186). -/
def State.handlerMade (s : State) (m : HandlerMsg) (p : Nat) : State :=
  (s.takeRecord p).2.create p (s.takeRecord p).1
    { childOf m.ctx 7 false (s.core p).lcore m.entry m.g14 with rc := true, handlerOf := some (m.object / 64) }

theorem State.madeRecord_handlerMade (hm : Memory.wf s.mem = true) (p : Nat) :
    s.MadeRecord (s.handlerMade m p) (s.takeRecord p).1 (s.core p).lcore 7 false true m.entry
      ((List.range 4).map fun i => m.g14.getD i 0) :=
  State.madeRecord_create hm rfl rfl

/-- The unit of an object is locked by the record `pid` (R186). -/
def State.lockedBy (s : State) (unit pid : Nat) : State := { s with locks := SMap.put 0 s.locks unit pid }

theorem State.lockedBy_mem (s : State) (unit pid : Nat) : (s.lockedBy unit pid).mem = s.mem := rfl

theorem State.lockedBy_locks (s : State) (unit pid : Nat) : (s.lockedBy unit pid).locks = SMap.put 0 s.locks unit pid := rfl

theorem exec_handlerRequest_free (hlid : sramLid m.object = true) (hlock : SMap.get 0 s.locks (m.object / 64) = 0)
    (hr : s.hasRecord m.core = true) :
    exec (.handlerRequest m) s =
      .next (((s.handlerMade m m.core).lockedBy (m.object / 64) (s.takeRecord m.core).1).enqueueHead m.core
        (s.takeRecord m.core).1) := by
  change execHandlerRequest m s = _
  rw [execHandlerRequest]
  simp only [hlid, Bool.not_true, Bool.false_and, Bool.false_eq_true, if_false, hr, hlock, ne_eq, not_true_eq_false, decide_false,
    Bool.or_false]
  rfl

theorem exec_handlerRequest_locked (hlock : SMap.get 0 s.locks (m.object / 64) ≠ 0) :
    exec (.handlerRequest m) s = .next (s.later (.handlerRequest m)) := by
  change execHandlerRequest m s = _
  rw [execHandlerRequest]
  exact if_pos (by simp [hlock])

end

/-- Settles O43: each instruction by its checks, and each request by the pool that it finds; the record by its words. -/
theorem recordsAreCreatedFromThePool : Obligations.RecordsAreCreatedFromThePool := by
  intro s l d h a b p pid made hm hmade
  obtain rfl : made = s.MadeRecord := by
    funext u q home prio task rc pc gs
    exact propext (hmade ..)
  refine ⟨fun hs hrc => ⟨fun hal => ?_, fun hal hmay => ⟨?_, ?_, sendSpawn_eq, ?_, ?_⟩, fun hal => ?_, fun hal hbit => ?_, ?_⟩,
    fun m hl => ⟨?_, fun hk hp hlog => ?_, ?_, fun hk hp hr => ?_⟩, fun m hp hlid => ⟨?_, exec_handlerRequest_locked⟩⟩
  · exact ⟨entryCheck_of_misaligned hal _, entryCheck_of_misaligned hal _, entryCheck_of_misaligned hal _⟩
  · exact ⟨_, exec_spawnOp hs hrc hal hmay 0, rfl, rfl, rfl, rfl, rfl, rfl, rfl⟩
  · exact ⟨_, exec_spawnOp hs hrc hal hmay 1, rfl, rfl, rfl, rfl, rfl, rfl, rfl⟩
  · rintro rfl hroom u hu
    exact exec_fork_inline hs hrc hal hmay hroom hu
  · rintro rfl hd hr rfl
    exact ⟨_, exec_fork_of_room hs hrc hal hmay hd hr, State.madeRecord_forked hm _⟩
  · exact entryCheck_of_misaligned hal _
  · exact (entryCheck_of_aligned hal _).trans (if_pos hbit)
  · rintro hal hh at_ rfl
    refine ⟨exec_callat_of_denied hs hrc hal hh, exec_callat_of_notSram hs hrc hal hh, fun hsp hnode hacc hrel => ?_⟩
    rw [exec_callat_of_sram hs hrc hal hh hsp hnode hacc hrel]
    refine ⟨fun hq => ?_, fun q hq => ⟨s.callMsg h a b, ?_, rfl, rfl, rfl, rfl, rfl⟩⟩
    · rw [hq]
    · rw [hq]
  · rintro hk rfl hp rfl
    exact ⟨_, exec_spawnPlace_at hk hl hp, State.madeRecord_childMade hm _⟩
  · exact exec_spawnPlace_nowhere hk hl hp hlog
  · rintro hk hp hr rfl
    refine ⟨_, (exec_spawnPlace_call hk hp).trans (if_pos hr), ?_⟩
    have hmake := State.madeRecord_childMade (m := m) (p := p) hm (s.core p).lcore
    rwa [show (m.kind != 0) = true by rw [hk]; rfl] at hmake
  · exact (exec_spawnPlace_call hk hp).trans (if_neg (by simp [hr]))
  · subst hp
    rintro hlock hr rfl
    exact ⟨s.handlerMade m m.core, _, exec_handlerRequest_free hlid hlock hr, State.lockedBy_mem .., State.lockedBy_locks ..,
      State.madeRecord_handlerMade hm _⟩

end Sys2Proof.Machine

namespace Sys2Proof.Machine

/-! ### The home of a channel (O41: R172–R181, R295–R299) -/

/-! #### Words cleared one after another -/

section
variable {s : State} {k a : Nat}

/-- The words at some offsets of a record are cleared. -/
def State.clearAt (s : State) (k : Nat) (os : List Nat) : State := os.foldl (fun s o => s.poke (k + o) 0) s

theorem State.clearAt_cur (os : List Nat) : (s.clearAt k os).cur = s.cur := by
  induction os generalizing s with
  | nil => rfl
  | cons o r ih => exact ih (s := s.poke (k + o) 0)

theorem State.wf_clearAt (os : List Nat) (hm : Memory.wf s.mem = true) : Memory.wf (s.clearAt k os).mem = true := by
  induction os generalizing s with
  | nil => exact hm
  | cons o r ih => exact ih (s.wf_poke _ _ hm)

theorem State.byteAt_clearAt_out (os : List Nat) (h : ∀ o ∈ os, a < k + o ∨ k + o + 8 ≤ a) :
    byteAt (s.clearAt k os).mem a = byteAt s.mem a := by
  induction os generalizing s with
  | nil => rfl
  | cons o r ih =>
    rw [List.forall_mem_cons] at h
    exact (ih h.2).trans (byteAt_writeWord_out h.1)

theorem State.peek_clearAt_out (os : List Nat) (h : ∀ o ∈ os, a + 8 ≤ k + o ∨ k + o + 8 ≤ a) :
    (s.clearAt k os).peek a = s.peek a := by
  induction os generalizing s with
  | nil => rfl
  | cons o r ih =>
    rw [List.forall_mem_cons] at h
    exact (ih h.2).trans (s.peek_poke_out _ _ _ h.1)

/-- A word cleared reads 0, if the other words cleared do not overlap it. -/
theorem State.peek_clearAt_in {o : Nat} (os : List Nat) (hm : Memory.wf s.mem = true) (ho : o ∈ os)
    (h : ∀ o' ∈ os, o' = o ∨ o' + 8 ≤ o ∨ o + 8 ≤ o') : (s.clearAt k os).peek (k + o) = 0 := by
  induction os generalizing s with
  | nil => cases ho
  | cons o' r ih =>
    rw [List.forall_mem_cons] at h
    by_cases hr : o ∈ r
    · exact ih (s.wf_poke _ _ hm) hr h.2
    · obtain rfl : o = o' := (List.mem_cons.mp ho).resolve_right hr
      refine (State.peek_clearAt_out r fun x hx => ?_).trans (s.peek_poke _ _ hm)
      obtain rfl | hlt | hgt := h.2 x hx
      · exact absurd hx hr
      · omega
      · omega

end

/-! #### Words of the record that cannot be read -/

section
variable {s : State}

theorem State.guardList_append_poison {ps qs : List Nat} {p : Nat} (h : ∀ q ∈ ps, s.isPoison q = false ∧ s.errorsAt q = 0)
    (hp : s.isPoison p = true) : s.guardList (ps ++ p :: qs) = (some p, s) := by
  induction ps with
  | nil => simp [State.guardList, State.readGuard, hp]
  | cons q r ih =>
    rw [List.forall_mem_cons] at h
    rw [List.cons_append, State.guardList, State.readGuard_clean h.1.1 h.1.2]
    exact ih h.2

/-- The first poisoned word of a record stops the check of its words. -/
theorem State.guardList_range_poison {f : Nat → Nat} {i n : Nat} (hi : i < n)
    (h : ∀ j < i, s.isPoison (f j) = false ∧ s.errorsAt (f j) = 0) (hp : s.isPoison (f i) = true) :
    s.guardList ((List.range n).map f) = (some (f i), s) := by
  obtain ⟨r, rfl⟩ := Nat.exists_eq_add_of_lt hi
  rw [show i + r + 1 = i + (r + 1) by omega, List.range_add, List.range_succ_eq_map, List.map_append, List.map_cons, List.map_cons,
    Nat.add_zero]
  refine State.guardList_append_poison (fun q hq => ?_) hp
  obtain ⟨j, hj, rfl⟩ := List.mem_map.mp hq
  exact h j (List.mem_range.mp hj)

variable {m : ChanMsg}

theorem homeFault_of_poison {i : Nat} (hi : i < 7) (h : ∀ j < i, s.isPoison (m.key + 8 * j) = false ∧ s.errorsAt (m.key + 8 * j) = 0)
    (hp : s.isPoison (m.key + 8 * i) = true) :
    homeFault s m = (some { cause := 0x046, tval := BitVec.ofNat 64 (m.key + 8 * i), words := [] }, s) := by
  rw [homeFault, State.guardList_range_poison (f := fun j => m.key + 8 * j) hi h hp]

section
variable (h : ∀ i < 7, s.isPoison (m.key + 8 * i) = false ∧ s.errorsAt (m.key + 8 * i) = 0)
include h

theorem State.guardList_record : s.guardList ((List.range 7).map fun i => m.key + 8 * i) = (none, s) := by
  refine State.guardList_clean fun p hp => ?_
  obtain ⟨i, hi, rfl⟩ := List.mem_map.mp hp
  exact h i (List.mem_range.mp hi)

theorem homeFault_of_refused (hr : homeRefuses (chanType (s.peek m.key)) m = true) : homeFault s m = (chanFault 0x0C0 m, s) := by
  rw [homeFault, State.guardList_record h]
  simp only [hr, if_true]

theorem homeFault_of_fit (hp : isProcMsg m = true) (hr : homeRefuses (chanType (s.peek m.key)) m = false) :
    homeFault s m = (none, s) := by
  rw [homeFault, State.guardList_record h]
  simp [hr, hp]

end

end

/-! #### Operations at the home -/

section
variable {s : State} {m : ChanMsg} {pid : Nat}

/-- The end of an operation is told to its process in a step; memory stays. -/
theorem endWith_eq (hp : m.agent = .proc pid) (u : State) (x : Word) (f : Option FaultInfo) :
    ∃ (w : State) (d : Done), endWith u m x f = w.push (.heldCompletion d) ∧ w.mem = u.mem ∧ d.agent = m.agent ∧ d.fault = f ∧
      d.sn = m.num ∧ d.chan = some m ∧ (f = none → d.writes = chanWrites m 0 (elemWord (natToBytes 8 x.toNat))) := by
  have hhold (v : State) : (v.holdTurn pid).mem = v.mem := by
    simp only [State.holdTurn]
    split
    · rfl
    · exact State.updProc_mem ..
  unfold endWith State.reportChan
  extract_lets u1 u2
  have hu1 : u1.mem = u.mem := by
    simp only [u1]
    split
    · exact State.updProc_mem ..
    · rfl
  have hu2 : u2.mem = u1.mem := by
    simp only [u2]
    split <;> rfl
  clear_value u1 u2
  rw [hp]
  refine ⟨_, _, rfl, (hhold u2).trans (hu2.trans hu1), rfl, rfl, rfl, rfl, ?_⟩
  rintro rfl
  rfl

/-- The home forgets the elements that a channel kept. -/
def State.forgetElems (s : State) (k : Nat) : State := { s with elems := s.elems.filter fun e => decide (e.key ≠ k) }

theorem State.forgetElems_mem (k : Nat) : (s.forgetElems k).mem = s.mem := rfl

theorem State.forgetElems_cur (k : Nat) : (s.forgetElems k).cur = s.cur := rfl

theorem State.forgetElems_peek (k a : Nat) : (s.forgetElems k).peek a = s.peek a := rfl

/-- A record becomes a channel: its owner and its state are written, and the words that the home keeps are cleared (R298). -/
def State.newRecord (s : State) (m : ChanMsg) : State :=
  (s.poke m.key (setField (setField (s.peek m.key) 28 1 0) 32 16 m.ctx.toNat)).clearAt m.key [8, 16, 32, 40, 48, 56]

/-- A record is no channel any longer (R299). -/
def State.deadRecord (s : State) (m : ChanMsg) : State := (s.forgetElems m.key).poke m.key 0x0000FFFF10000000

theorem newAtHome_of_waiter (hn : newRefused s m = false) (hw : s.hasWaiter m.key = true) :
    newAtHome s m = endWith s m 0 (chanFault 0x0C5 m) := by
  rw [newAtHome, if_neg (by simp [hn]), if_pos hw]

theorem newAtHome_of_free (hn : newRefused s m = false) (hw : s.hasWaiter m.key = false) :
    newAtHome s m = endWith ((s.newRecord m).forgetElems m.key) m (BitVec.ofNat 64 m.key) none := by
  rw [newAtHome, if_neg (by simp [hn]), if_neg (by simp [hw])]
  rfl

theorem deleteAtHome_of_waiter (hn : newRefused s m = false) (hc : (chanType (s.peek m.key)).ctx = m.ctx.toNat)
    (hw : s.hasWaiter m.key = true) : deleteAtHome s m = endWith s m 0 (chanFault 0x0C5 m) := by
  rw [deleteAtHome, if_neg (by simp [hn, hc]), if_pos hw]

theorem deleteAtHome_of_free (hn : newRefused s m = false) (hc : (chanType (s.peek m.key)).ctx = m.ctx.toNat)
    (hw : s.hasWaiter m.key = false) : deleteAtHome s m = endWith (s.deadRecord m) m 0 none := by
  rw [deleteAtHome, if_neg (by simp [hn, hc]), if_neg (by simp [hw])]
  rfl

/-- A new channel's record: what it holds, and what its making leaves. -/
theorem newRecord_eq (hm : Memory.wf s.mem = true) :
    (s.newRecord m).peek m.key = setField (setField (s.peek m.key) 28 1 0) 32 16 m.ctx.toNat ∧
    (∀ o ∈ [8, 16, 32, 40, 48, 56], (s.newRecord m).peek (m.key + o) = 0) ∧ (s.newRecord m).peek (m.key + 24) = s.peek (m.key + 24) ∧
    (∀ a, a < m.key ∨ m.key + 64 ≤ a → byteAt (s.newRecord m).mem a = byteAt s.mem a) ∧ (s.newRecord m).cur = s.cur ∧
    Memory.wf (s.newRecord m).mem = true := by
  have hw := s.wf_poke m.key (setField (setField (s.peek m.key) 28 1 0) 32 16 m.ctx.toNat) hm
  refine ⟨?_, fun o ho => State.peek_clearAt_in _ hw ho ?_, ?_, fun a ha => ?_, State.clearAt_cur _, State.wf_clearAt _ hw⟩
  · refine (State.peek_clearAt_out _ ?_).trans (s.peek_poke _ _ hm)
    simp
  · revert o
    decide
  · refine (State.peek_clearAt_out _ ?_).trans (s.peek_poke_out _ _ _ (.inr (by omega)))
    simp
  · refine (State.byteAt_clearAt_out _ fun o ho => ?_).trans (byteAt_writeWord_out (by omega))
    have : 8 ≤ o ∧ o + 8 ≤ 64 := by
      revert o
      decide
    omega

section
variable (hext : isExtKey m.key = false) (haway : s.goesAway m = false)
include hext haway

theorem exec_channelSendAtHome_new (hk : m.kind = 6) : exec (.channelSendAtHome m) s = .next (newAtHome s m) := by
  change execChannelSendAtHome m s = _
  rw [execChannelSendAtHome, if_neg (by simp [haway]), if_neg (by simp [hext]), if_pos hk]

theorem exec_channelSendAtHome_delete (hk : m.kind = 7) : exec (.channelSendAtHome m) s = .next (deleteAtHome s m) := by
  change execChannelSendAtHome m s = _
  rw [execChannelSendAtHome, if_neg (by simp [haway]), if_neg (by simp [hext]), if_neg (by omega), if_pos hk]

theorem exec_channelSendAtHome_of_fault (hk : m.kind ≤ 5) {f : FaultInfo} (hf : homeFault s m = (some f, s)) :
    exec (.channelSendAtHome m) s = .next (endWith s m 0 (some f)) := by
  change execChannelSendAtHome m s = _
  rw [execChannelSendAtHome, if_neg (by simp [haway]), if_neg (by simp [hext]), if_neg (by omega), if_neg (by omega), hf]

theorem exec_channelReceiveAtHome_of_fault {f : FaultInfo} (hf : homeFault s m = (some f, s)) :
    exec (.channelReceiveAtHome m) s = .next (endWith s m 0 (some f)) := by
  change execChannelReceiveAtHome m s = _
  rw [execChannelReceiveAtHome, if_neg (by simp [haway]), if_neg (by simp [hext]), hf]

section
variable (hf : homeFault s m = (none, s))
include hf

theorem exec_channelSendAtHome_close (hk : m.kind = 5) : exec (.channelSendAtHome m) s = .next (closeAtHome s m) := by
  change execChannelSendAtHome m s = _
  rw [execChannelSendAtHome, if_neg (by simp [haway]), if_neg (by simp [hext]), if_neg (by omega), if_neg (by omega), hf]
  exact if_pos hk

/-- A send that the home does not refuse: it resumes its tile, or finds the channel closed, the waiter table full, or a place. -/
theorem exec_channelSendAtHome_send (hk : m.kind ≤ 4) : exec (.channelSendAtHome m) s = .next
    ((s.stoppedTile m).elim
      (if (chanType (s.peek m.key)).closed then endWith s m 0 (chanFault 0x0C1 m)
       else if 112 ≤ s.tableUse (partOf m.key) ∧ sendWaits s (chanType (s.peek m.key)) m.key = true then s.refuseSend m
       else s.arrive m) (s.resumeAt m)) := by
  change execChannelSendAtHome m s = _
  rw [execChannelSendAtHome, if_neg (by simp [haway]), if_neg (by simp [hext]), if_neg (by omega), if_neg (by omega), hf]
  refine (if_neg (by omega)).trans ?_
  cases s.stoppedTile m with
  | some x => rfl
  | none =>
    simp only [Option.elim_none, Bool.and_eq_true, decide_eq_true_eq, ge_iff_le, apply_ite Host.Outcome.next]

theorem exec_channelReceiveAtHome_receive (hk : m.kind ≤ 3) :
    exec (.channelReceiveAtHome m) s = .next ((s.stoppedTile m).elim (s.arrive m) (s.resumeAt m)) := by
  change execChannelReceiveAtHome m s = _
  rw [execChannelReceiveAtHome, if_neg (by simp [haway]), if_neg (by simp [hext]), hf]
  refine (if_neg (by omega)).trans ?_
  cases s.stoppedTile m with
  | some x => rfl
  | none => rfl

theorem exec_channelReceiveAtHome_poll (hk : m.kind = 4) (hsel : m.sel = none) :
    exec (.channelReceiveAtHome m) s = .next (endWith s m (s.pollWord m.key) none) := by
  change execChannelReceiveAtHome m s = _
  rw [execChannelReceiveAtHome, if_neg (by simp [haway]), if_neg (by simp [hext]), hf]
  refine (if_pos hk).trans ?_
  rw [hsel]
  rfl

end

end

section
variable (hp : m.agent = .proc pid)
include hp

/-- A refused send comes again after 64 cycles, and is no waiter meanwhile (R173). -/
theorem refuseSend_eq : (s.refuseSend m).timers = s.timers ++ [(s.clk + 64, .sendRetry m)] ∧ (s.refuseSend m).chanq = s.chanq ∧
    (s.refuseSend m).mem = s.mem := by
  rw [State.refuseSend, hp]
  obtain ⟨p, ps, h⟩ := s.updProc_eq pid fun p => { p with waiting := true }
  simp only [h]
  exact ⟨rfl, rfl, rfl⟩

theorem exec_sendRetry_send (hk : m.kind ≠ 8) :
    exec (.sendRetry m) s = .next ((s.updProc pid fun p => { p with waiting := false }).push (.channelSendAtHome m)) := by
  change execSendRetry m s = _
  rw [execSendRetry, if_neg hk, hp]

end

theorem exec_sendRetry_move (hk : m.kind = 8) : exec (.sendRetry m) s = .next (s.serveChan m.key) := if_pos hk

end

/-! #### Elements held for their sender's stores (R175) -/

section
variable {s u : State} {m : ChanMsg} {bs : List Byte} {st : Word} {pid : Nat} {t : ChanType}

theorem exec_drainQueryReply_of_unheld (h : (s.epHeld.any fun e => decide (e.1.num = m.num) && decide (e.1.sel = m.sel)) = false) :
    exec (.drainQueryReply m bs st) s = .next s := if_pos (by rw [h]; rfl)

section
variable (h : (s.epHeld.any fun e => decide (e.1.num = m.num) && decide (e.1.sel = m.sel)) = true)
  (hkill : s.killedAgent m.agent = false)
include h hkill

theorem exec_drainQueryReply_of_notDrained (hst : s.stampDrained st = false) :
    exec (.drainQueryReply m bs st) s = .next (s.later (.drainQueryReply m bs st)) := by
  change execDrainQueryReply m bs st s = _
  rw [execDrainQueryReply, if_neg (by simp [h]), if_neg (by simp [hkill]), if_pos (by simp [hst])]

/-- The element of a slot that has drained is taken, and is held no longer. -/
theorem exec_drainQueryReply_of_drained (hst : s.stampDrained st = true)
    (hu : u = { s with epHeld := s.epHeld.filter fun e => !(decide (e.1.num = m.num) && decide (e.1.sel = m.sel)) })
    (ht : t = chanType (s.peek m.key)) :
    exec (.drainQueryReply m bs st) s = .next
      (match (if t.kind = 2 then takeTile u t m.key m true else takeElem u t m.key m true) with
       | .moved v ks => v.serveAll (m.key :: ks)
       | .idle v => v
       | .held v q => v.tryAgain q) := by
  have hpeek : u.peek m.key = s.peek m.key := by
    rw [hu]
    rfl
  change execDrainQueryReply m bs st s = _
  rw [execDrainQueryReply, if_neg (by simp [h]), if_neg (by simp [hkill]), if_neg (by simp [hst]), ← hu]
  simp only [hpeek, ← ht]
  cases (if t.kind = 2 then takeTile u t m.key m true else takeElem u t m.key m true) with
  | moved v ks => rfl
  | idle v => rfl
  | held v q => rfl

end

/-- The end of an operation that is no alternative of a select. -/
theorem State.endChan_of_notSelect (hsel : m.sel = none) (status : Nat) (bs : List Byte) (fl : Flags) (miss : Bool)
    (f : Option FaultInfo) : s.endChan m status bs fl miss f = ((s.unwait m).reportChan m status bs fl miss f, []) := by
  rw [State.endChan, hsel]

theorem selGates_of_notSelect {s0 : State} (hsel : m.sel = none) (k : State → Serve) : selGates s0 s [m] k = k s := by
  rw [selGates, hsel]
  rfl

/-- A word that its sender pushed early goes to its receiver. -/
theorem takeElem_of_word {k : Nat} {es ss : List Byte} (hep : t.ep = true) (hk : m.kind = 0) (hsel : m.sel = none)
    (hes : u.homeRead (u.chanBuf k + u.chanHead k % t.depth * 2 ^ t.log2e) (2 ^ t.log2e) = (.ok es, u))
    (hss : u.homeRead (u.stampAt t k (u.chanHead k)) 8 = (.ok ss, u)) (hmiss : u.takeMiss t k m = false) :
    takeElem u t k m true = .moved
      ((((u.takeDone t k m).homeCommit m.agent.pid [k / 64]).unwait m).reportChan m 0 es
        ((u.elemInfo k (u.chanHead k)).elim 0 (·.flags)) false none) [] := by
  have hdeliver : deliverBlock u m es (1 + u.chanHead k) = .ok u := if_neg (by omega)
  have hroom : u.chanRoom k 0 = true := rfl
  simp only [takeElem, hes, hep, if_true, hss, Bool.not_true, Bool.and_false, Bool.false_and, Bool.false_eq_true, if_false, hmiss,
    hroom, hdeliver, selGates_of_notSelect hsel, State.endChan_of_notSelect hsel]

end

/-! #### Time-outs, withdrawals and beats of tiles -/

section
variable {s : State} {m : ChanMsg} {pid d : Nat}

theorem exec_channelTimeout_of_due (hd : (s.proc pid).armed = some d) (hq : s.armedOp pid = some m)
    (hdue : s.timeoutDue (s.proc pid) d m.key = true) (hkill : (s.proc pid).killed = false) :
    exec (.channelTimeout pid) s = .next (s.push (.withdrawal m)) := by
  change execChannelTimeout pid s = _
  simp only [execChannelTimeout, hd, hq, hdue, if_true, hkill, Bool.false_and, Bool.false_eq_true, if_false]

theorem exec_channelTimeout_of_early (hd : (s.proc pid).armed = some d) (hrep : s.replays (s.proc pid) = false)
    (hclk : s.clkOf (s.proc pid).core < d) : exec (.channelTimeout pid) s = .next s := by
  have hdue (k : Nat) : s.timeoutDue (s.proc pid) d k = false := by
    simp [State.timeoutDue, hrep, hclk]
  change execChannelTimeout pid s = _
  rw [execChannelTimeout, hd]
  cases s.armedOp pid with
  | none => rfl
  | some q => simp only [hdue, hrep, Bool.false_eq_true, if_false]

section
variable (hhere : (s.peerOps.any fun e => decide (e.1 = m.num)) = false) (hasks : s.asksPeer m.key = false)
include hhere hasks

theorem exec_withdrawal_of_matched (h : s.takeOut m = none) : exec (.withdrawal m) s = .next s := by
  change execWithdrawal m s = _
  rw [execWithdrawal, if_neg (by simp [hhere]), if_neg (by simp [hasks]), h]

theorem exec_withdrawal_of_waiting {w g : State} (hp : m.agent = .proc pid) (h : s.takeOut m = some w)
    (hg : s.logGate (s.proc pid) 0x09 (ownerUnit m.key) false (s.core m.core).lcore m.unit pid 0 = .pass g)
    (hslot : g.takenSlot m = none) :
    exec (.withdrawal m) s = .next (((g.takeOut m).getD g).reportChan m 2 [] 0 false none) := by
  change execWithdrawal m s = _
  rw [execWithdrawal, if_neg (by simp [hhere]), if_neg (by simp [hasks]), h]
  simp only [hp, hg, hslot]
  rfl

end

/-- A beat of a tile in progress is copied, and the next one follows (R176). -/
theorem exec_tileTransfer_of_beat {x : TileMsg} {bs : List Byte} {u v : State} (hx : x ∈ s.tiles) (hstop : x.stopped = none)
    (hlen : x.len ≠ remoteTile) (hpos : x.pos + 64 < x.len) (hr : tileRead s x = (.ok bs, u)) (hw : tileWrite u x bs = (.ok (), v)) :
    exec (.tileTransfer x) s = .next (({ v with
      tiles := v.tiles.map fun (y : TileMsg) => if y.num = x.num then { x with pos := x.pos + 64 } else y }).push
        (.tileTransfer { x with pos := x.pos + 64 })) := by
  have hgoing : (s.tiles.any fun y => decide (y.num = x.num) && y.stopped.isNone) = true :=
    List.any_eq_true.mpr ⟨x, hx, by simp [hstop]⟩
  change execTileTransfer x s = _
  rw [execTileTransfer, if_neg (by simp [hgoing]), if_neg hlen, if_neg (by omega), hr]
  simp only [hw]
  rw [if_neg (by simpa using hpos)]

end

/-- Settles O41: each step of the home by its checks in order, and the record by its words. -/
theorem channelHomeAnswersOperations : Obligations.ChannelHomeAnswersOperations := by
  intro s m t pid hm ht hext haway hp
  subst ht
  have hproc : isProcMsg m = true := by rw [isProcMsg, hp]
  refine ⟨endWith_eq hp, fun hk hn => ⟨fun hw => ?_, fun hw => ?_⟩, fun hk hn hc => ⟨fun hw => ?_, fun hw => ?_⟩,
    fun i hi hclean hbad f hf => ?_, fun hclean => ⟨fun hr => ?_, fun hr => ?_⟩, exec_sendRetry_send hp, exec_sendRetry_move,
    fun bs st => exec_drainQueryReply_of_unheld, fun bs st u hheld hkill hu => ?_, fun d q hd hq hdue hkill =>
      exec_channelTimeout_of_due hd hq hdue hkill, fun d => exec_channelTimeout_of_early, fun hhere hasks =>
      ⟨exec_withdrawal_of_matched hhere hasks, fun w g h hg hslot => exec_withdrawal_of_waiting hhere hasks hp h hg hslot⟩,
    fun x bs u v hx hstop hlen hpos hr hw => exec_tileTransfer_of_beat hx hstop hlen hpos hr hw⟩
  · rw [exec_channelSendAtHome_new hext haway hk, newAtHome_of_waiter hn hw]
  · refine ⟨(s.newRecord m).forgetElems m.key, by rw [exec_channelSendAtHome_new hext haway hk, newAtHome_of_free hn hw], ?_⟩
    simp only [State.forgetElems_peek, State.forgetElems_mem, State.forgetElems_cur]
    exact newRecord_eq hm
  · rw [exec_channelSendAtHome_delete hext haway hk, deleteAtHome_of_waiter hn hc hw]
  · exact ⟨s.deadRecord m, by rw [exec_channelSendAtHome_delete hext haway hk, deleteAtHome_of_free hn hc hw],
      (s.forgetElems m.key).peek_poke _ _ hm, fun a ha => byteAt_writeWord_out ha, rfl⟩
  · subst hf
    have hfault := homeFault_of_poison hi hclean hbad
    exact ⟨fun hk => exec_channelSendAtHome_of_fault hext haway hk hfault, exec_channelReceiveAtHome_of_fault hext haway hfault⟩
  · have hfault := homeFault_of_refused hclean hr
    exact ⟨fun hk => exec_channelSendAtHome_of_fault hext haway hk hfault, exec_channelReceiveAtHome_of_fault hext haway hfault⟩
  · have hfit := homeFault_of_fit hclean hproc hr
    have hsend (hk : m.kind ≤ 4) := exec_channelSendAtHome_send hext haway hfit hk
    have hrecv (hk : m.kind ≤ 3) := exec_channelReceiveAtHome_receive hext haway hfit hk
    refine ⟨fun hk => ?_, fun hk hx => ?_, fun hk hx => ?_, fun x hk hx => ⟨?_, ?_⟩,
      exec_channelReceiveAtHome_poll hext haway hfit⟩
    · rw [exec_channelSendAtHome_close hext haway hfit hk, closeAtHome]
    · rw [hsend hk, hx, Option.elim_none]
      refine ⟨fun hc => by rw [if_pos hc], fun hc hu hw => ⟨_, by rw [if_neg (by simp [hc]), if_pos ⟨hu, hw⟩], refuseSend_eq hp⟩,
        fun hc hn => by rw [if_neg (by simp [hc]), if_neg hn]⟩
    · rw [hrecv hk, hx, Option.elim_none]
    · rw [hrecv hk, hx, Option.elim_some]
    · rw [hsend (by omega), hx, Option.elim_some]
  · have hlive : s.killedAgent m.agent = false := by
      rw [hp]
      exact hkill
    have hdrained (hst : s.stampDrained st = true) := exec_drainQueryReply_of_drained (bs := bs) hheld hlive hst hu rfl
    refine ⟨exec_drainQueryReply_of_notDrained hheld hlive, hdrained, fun es ss hst hword hep hk hsel hes hss hmiss => ?_⟩
    rw [hdrained hst, if_neg (by omega), takeElem_of_word hep hk hsel hes hss hmiss, hp]
    rfl

end Sys2Proof.Machine

namespace Sys2Proof.Machine

/-! ### A step, a turn of an issuer, a bundle (R204, R211–R215, R395) -/

section
variable {s u v p q r : State} {c a : Instr} {b : Bundle} {keep : Pre}

theorem step_of_chosen {e : Ev} (h : s.tick.watchLines.choose = (some e, u)) :
    step s = exec e.toInstr { u with xfer := .seq, pre := none, cause := e.cause } := by
  unfold step
  simp only [h]
  rfl

theorem step_of_noneChosen (h : s.tick.watchLines.choose = (none, u)) : step s = issueStep u := by
  unfold step
  simp only [h]

theorem issueStep_of_noIssuers (h : u.issuers = []) : issueStep u = .next (idle u) := by
  unfold issueStep
  rw [h]
  rfl

/-- A slot whose bundle is performed, or makes progress though it stalls, ends its core's search (R204). -/
theorem trySlots_of_issued {n k : Nat} {rot : Bool} {ks : List (Nat × Bool)} (hstart : u.startSlot n k = some (.issue v))
    (hq : issueBundle v = .next q) (hprogress : q.xfer = .again → q.accs ≠ v.accs) :
    trySlots u n ((k, rot) :: ks) = some (.next (q.turned n k rot)) := by
  have hends : ¬ (q.xfer = .again && q.cur.chunk == v.cur.chunk && q.accs == v.accs) = true := by
    simp only [Bool.and_eq_true, decide_eq_true_eq, beq_iff_eq]
    exact fun h => hprogress h.1.1 h.2
  rw [trySlots]
  simp only [hstart, hq]
  rw [if_neg hends]

/-- The issuer is recorded, and the steps that waited are tried again before the later ones. -/
theorem issueStep_of_slots {n : Nat} {us : List Nat} (hus : u.issuers = 3 * n :: us) (hcore : 3 * n < 4096)
    (hq : trySlots u n (u.slotOrder n) = some (.next q)) :
    issueStep u = .next { q with lastCore := 3 * n, agenda := q.blocked ++ q.agenda, blocked := [] } := by
  have hn : 3 * n / 3 = n := by omega
  have hturn : tryIssuers u (3 * n :: us) =
      some (.next { q with lastCore := 3 * n, agenda := q.blocked ++ q.agenda, blocked := [] }) := by
    rw [tryIssuers]
    simp only [if_neg (show ¬ 3 * n ≥ 4096 by omega), if_pos (show 3 * n % 3 = 0 by omega), hn, hq]
  unfold issueStep
  rw [hus, hturn]

/-- What decides that the words of the bundle fetched in `u` are performed (R213–R215, R277). -/
theorem issueBundle_of_runs (hredo : s.cur.redo = []) (hfetch : fetchBundle s = .ok u) (hlo : u.ir.toNat % 2 ^ 32 ≠ 0)
    (hdecode : decodeBundle (u.ir.toNat % 2 ^ 32) (u.ir.toNat / 2 ^ 32) = .ok b) (hcheck : decodeCheck u b = none)
    (hpend : bundlePending u.cur b = false) (hend : transfers b.c = false ∨ u.atLoopEnd = false) (hq : runBundle b u = .next q) :
    issueBundle s = .next (((q.fillDest b.c false).fillDest (b.a.getD b.c) true).endBundle u b.c.isTrap) := by
  have hloop : ¬ (transfers b.c && u.atLoopEnd) = true := by rcases hend with h | h <;> simp [h]
  unfold issueBundle
  simp only [hredo, hfetch]
  rw [if_neg hlo]
  simp only [hdecode, hcheck]
  rw [if_neg (by simp [hpend]), if_neg hloop]
  simp only [hq]

theorem runBundle_of_noA (hb : b.a = none) : runBundle b u = exec b.c u := by
  unfold runBundle
  simp only [hb]
  rfl

/-- The C-word, then the A-word at the state that it leaves, which reads the registers as they stood before the bundle (R213). -/
theorem runBundle_of_cFirst (hb : b.a = some a) (hlast : performedLast b.c = false) (hp : exec b.c u = .next p)
    (hdone : p.notPerformed = false) (hq : exec a { p with pre := some u.keep } = .next q) (hdone' : q.notPerformed = false) :
    runBundle b u = .next { q with pre := none } := by
  unfold runBundle runWord
  simp only [hb, hlast, hp, hdone, hq, hdone', Bool.false_eq_true, if_false]

/-- A word that releases or ends goes last: the A-word is performed first, and the C-word reads what stood before it (R213). -/
theorem runBundle_of_aFirst (hb : b.a = some a) (hlast : performedLast b.c = true) (hp : exec b.c u = .next p)
    (hdone : p.notPerformed = false) (hq : exec a u = .next q) (hdone' : q.notPerformed = false)
    (hr : exec b.c { q with pre := some u.keep } = .next r) : runBundle b u = .next { r with pre := none } := by
  unfold runBundle runWord
  simp only [hb, hlast, hp, hdone, hq, hdone', hr, Bool.false_eq_true, if_false, if_true]
  rfl

theorem issueFabric_of_decodes {n : Nat} {i : Instr}
    (hi : decodeX ((SMap.get FabUnit.empty s.fabric n).store.getD (SMap.get FabUnit.empty s.fabric n).pc 0).toNat = .ok i)
    (hq : exec i { s with curX := n, xfer := .seq } = .next q) : issueFabric n s = .next (q.endFabric n) := by
  unfold issueFabric runWord
  simp only [hi, hq]

end

/-- Settles O3: the step by what is chosen, the issuer's turn by its first slot that issues, and the bundle by the order of its
two words. -/
theorem stepRunsTheDecodedBundle : Obligations.StepRunsTheDecodedBundle := by
  refine ⟨fun _ _ _ h => step_of_chosen h, fun s u h hus => (step_of_noneChosen h).trans (issueStep_of_noIssuers hus), ?_, ?_, ?_⟩
  · intro s u v p k rot us ks h hus hcore horder hstart q hq hprogress
    rw [step_of_noneChosen h]
    exact issueStep_of_slots hus hcore (by rw [horder]; exact trySlots_of_issued hstart hq hprogress)
  · intro s u c b hredo hfetch hlo hdecode hc hcheck hpend hend
    subst hc
    refine ⟨fun q hq => issueBundle_of_runs hredo hfetch hlo hdecode hcheck hpend hend hq, runBundle_of_noA, ?_⟩
    intro a p q keep ha hkeep
    subst hkeep
    exact ⟨runBundle_of_cFirst ha, fun hlast hp hdone hq hdone' r hr => runBundle_of_aFirst ha hlast hp hdone hq hdone' hr⟩
  · intro s n f i hf hi q hq
    subst hf
    exact issueFabric_of_decodes hi hq

end Sys2Proof.Machine

namespace Sys2Proof.Machine

/-! ### The sequencer's head entry and the head claim of a lane pool (R207, R328, R331, R333) -/

@[simp] theorem State.kick_cur (s : State) (pid : Nat) : (s.kick pid).cur = s.cur := by
  rcases s.kick_cases pid with h | h
  · rw [h]
  · rw [h, State.push_cur]

@[simp] theorem State.kick_mem (s : State) (pid : Nat) : (s.kick pid).mem = s.mem := by
  rcases s.kick_cases pid with h | h
  · rw [h]
  · rw [h, State.push_mem]

section
variable (p : Proc) (e : SeqEntry) (rest : List SeqEntry) (o : VecOut)

/-- The flags, RS, lanes and mask that an entry leaves (R239, R331); mask m0 stays as it is (R324). -/
def Proc.withOut : Proc :=
  { (p.orFsr o.flags) with
      rs := o.rs, vpos := 0, voff := [],
      v := match o.v with | some (r, x) => setLanes p.v r x | none => p.v,
      m := match o.m with | some (k, x) => if k = 0 then p.m else p.m.set k.toNat x k.isLt | none => p.m }

/-- A result reaches its general register, which is no longer pending (R214, R331). -/
def Proc.withResult (g : Option (Reg × Word)) : Proc :=
  match g with | some (d, x) => (p.setG d x).clearPend d | none => p

/-- The process once its entry at the head has retired, `rest` being behind it. -/
def Proc.retired : Proc := Proc.withResult { ((p.withOut o).dropEntry e) with seq := rest } o.g

theorem Proc.dropEntry_eq : ∃ n w, p.dropEntry e = { p with cnt := n, pend := w } := by
  unfold Proc.dropEntry
  cases e.op.gDest with
  | none => exact ⟨_, p.pend, rfl⟩
  | some r => exact ⟨_, _, rfl⟩

theorem Proc.withResult_eq (g : Option (Reg × Word)) : ∃ gs w, p.withResult g = { p with g := gs, pend := w } := by
  cases g with
  | none => exact ⟨p.g, p.pend, rfl⟩
  | some z =>
    have h : p.withResult (some z) = (p.setG z.1 z.2).clearPend z.1 := rfl
    rw [h, Proc.setG_eq]
    exact ⟨_, _, rfl⟩

/-- Retiring changes counters, pending marks and general registers beside what `withOut` sets. -/
theorem Proc.retired_eq : ∃ n w g, p.retired e rest o = { p.withOut o with cnt := n, pend := w, seq := rest, g := g } := by
  obtain ⟨n, w, h⟩ := (p.withOut o).dropEntry_eq e
  obtain ⟨g, w', h'⟩ := Proc.withResult_eq { ((p.withOut o).dropEntry e) with seq := rest } o.g
  exact ⟨n, w', g, by rw [Proc.retired, h', h]⟩

theorem Proc.retired_pid : (p.retired e rest o).pid = p.pid := by obtain ⟨_, _, _, h⟩ := p.retired_eq e rest o; rw [h]; rfl
theorem Proc.retired_seq : (p.retired e rest o).seq = rest := by obtain ⟨_, _, _, h⟩ := p.retired_eq e rest o; rw [h]
theorem Proc.retired_pc : (p.retired e rest o).pc = p.pc := by obtain ⟨_, _, _, h⟩ := p.retired_eq e rest o; rw [h]; rfl
theorem Proc.retired_rs : (p.retired e rest o).rs = o.rs := by obtain ⟨_, _, _, h⟩ := p.retired_eq e rest o; rw [h]; rfl
theorem Proc.retired_chunk : (p.retired e rest o).chunk = p.chunk := by obtain ⟨_, _, _, h⟩ := p.retired_eq e rest o; rw [h]; rfl
theorem Proc.retired_fsr : (p.retired e rest o).fsr = p.fsr ||| o.flags.setWidth 64 := by
  obtain ⟨_, _, _, h⟩ := p.retired_eq e rest o; rw [h]; rfl
theorem Proc.retired_v : (p.retired e rest o).v = (p.withOut o).v := by obtain ⟨_, _, _, h⟩ := p.retired_eq e rest o; rw [h]
theorem Proc.retired_m : (p.retired e rest o).m = (p.withOut o).m := by obtain ⟨_, _, _, h⟩ := p.retired_eq e rest o; rw [h]

/-- A register is replaced where it is named, and keeps its value elsewhere. -/
theorem getElem_set_toNat {α : Type} {k : Nat} (v : Vector α (2 ^ k)) (d r : BitVec k) (x : α) :
    (v.set d.toNat x d.isLt)[r.toNat]'r.isLt = if r = d then x else v[r.toNat]'r.isLt := by
  rw [Vector.getElem_set]
  simp only [← BitVec.toNat_inj, eq_comm]

theorem Proc.retired_lanes (r : Reg) : (p.retired e rest o).v[r.toNat]'r.isLt =
    match o.v with | some (d, y) => if r = d then y else p.v[r.toNat]'r.isLt | none => p.v[r.toNat]'r.isLt := by
  rcases hv : o.v with _ | ⟨d, y⟩
  · have h : (p.withOut o).v = p.v := by simp only [Proc.withOut, hv]
    simp only [Proc.retired_v, h]
  · have h : (p.withOut o).v = p.v.set d.toNat y d.isLt := by simp only [Proc.withOut, hv, setLanes]
    simp only [Proc.retired_v, h]
    exact getElem_set_toNat (k := 5) p.v d r y

theorem Proc.retired_mask (k : MReg) : (p.retired e rest o).m[k.toNat]'k.isLt =
    match o.m with | some (d, y) => if k = d ∧ k ≠ 0 then y else p.m[k.toNat]'k.isLt | none => p.m[k.toNat]'k.isLt := by
  rcases hm : o.m with _ | ⟨d, y⟩
  · have h : (p.withOut o).m = p.m := by simp only [Proc.withOut, hm]
    simp only [Proc.retired_m, h]
  · by_cases hd : d = 0
    · have h : (p.withOut o).m = p.m := by simp only [Proc.withOut, hm, if_pos hd]
      simp only [Proc.retired_m, h]
      rw [if_neg fun hk => hk.2 (hk.1.trans hd)]
    · have h : (p.withOut o).m = p.m.set d.toNat y d.isLt := by simp only [Proc.withOut, hm, if_neg hd]
      simp only [Proc.retired_m, h]
      rw [getElem_set_toNat (k := 3) p.m d k y]
      exact if_congr ⟨fun hk => ⟨hk, hk ▸ hd⟩, And.left⟩ rfl rfl

theorem Proc.withResult_rg (g : Option (Reg × Word)) (r : Reg) : (p.withResult g).rg r =
    match g with | some (d, y) => if r = d ∧ r ≠ 0 then y else p.rg r | none => p.rg r := by
  rcases g with _ | ⟨d, y⟩
  · rfl
  change (p.setG d y).rg r = if r = d ∧ r ≠ 0 then y else p.rg r
  split
  · rename_i hr
    obtain ⟨rfl, hr⟩ := hr
    exact Proc.rg_setG_self _ y hr
  · rename_i hr
    by_cases hd : r = d
    · obtain rfl : r = 0 := by simpa [hd] using hr
      rfl
    · exact Proc.rg_setG_ne _ y hd

theorem Proc.retired_rg (r : Reg) : (p.retired e rest o).rg r =
    match o.g with | some (d, y) => if r = d ∧ r ≠ 0 then y else p.rg r | none => p.rg r := by
  obtain ⟨n, w, h⟩ := (p.withOut o).dropEntry_eq e
  unfold Proc.retired
  rw [h]
  exact Proc.withResult_rg _ o.g r

theorem Proc.retired_isPend {d : Reg} {y : Word} (hg : o.g = some (d, y)) : (p.retired e rest o).isPend d = false := by
  rw [Proc.retired, hg]
  exact Proc.isPend_clearPend_self _ d

end

section
variable {s : State} {e : SeqEntry} {rest : List SeqEntry} {o : VecOut}

theorem Proc.popEntry_of_noLoop {p : Proc} (hloop : p.vloop = none) (hseq : p.seq = e :: rest) :
    p.popEntry = ({ p.dropEntry e with seq := rest }, 0) := by
  unfold Proc.popEntry
  simp only [hloop, hseq]

theorem State.countEntry_of_noChunk {pid n : Nat} (h : (s.proc pid).chunk = none) : s.countEntry pid n = s := by
  unfold State.countEntry
  simp only [h]

/-- The state once the head entry's results are written and its bundle is counted; `r` is what leaving the queue gives. -/
def State.resultsOf (s : State) (pid : Nat) (o : VecOut) (r : Proc × Nat) : State :=
  (s.setProc (r.1.withResult o.g)).countEntry pid r.2

theorem State.retireEntry_eq (s : State) (pid : Nat) (e : SeqEntry) (o : VecOut) : s.retireEntry pid e o =
    if enabledFlags e.fcr o.flags = 0 then (s.resultsOf pid o ((s.proc pid).withOut o).popEntry).kick pid
    else (s.resultsOf pid o ((s.proc pid).withOut o).popEntry).stopSeq pid e 0x081 ((enabledFlags e.fcr o.flags).setWidth 64) := rfl

theorem State.retireEntry_self (hloop : s.cur.vloop = none) (hseq : s.cur.seq = e :: rest) (hchunk : s.cur.chunk = none)
    (hfl : enabledFlags e.fcr o.flags = 0) :
    s.retireEntry s.cur.pid e o = State.kick { s with cur := s.cur.retired e rest o } s.cur.pid := by
  have hpop : (s.cur.withOut o).popEntry = ({ (s.cur.withOut o).dropEntry e with seq := rest }, 0) :=
    Proc.popEntry_of_noLoop hloop hseq
  have hpid := s.cur.retired_pid e rest o
  have hset : s.setProc (s.cur.retired e rest o) = { s with cur := s.cur.retired e rest o } := State.setProc_cur _ hpid
  rw [State.retireEntry_eq, if_pos hfl, State.proc_cur, hpop, State.resultsOf, ← Proc.retired, hset, State.countEntry_of_noChunk]
  rw [State.proc, if_pos hpid.symm, Proc.retired_chunk, hchunk]

/-- With no stream bound no entry meets one (R336). -/
theorem State.streamsOf_of_unbound {p : Proc} (h : p.bound = 0) (op : VecOp) : s.streamsOf p op = .ok [] none := by
  have hb : ∀ r, p.boundTo r = none := fun r => by simp [Proc.boundTo, h]
  have hr (rs : List Reg) : rs.filterMap p.boundTo = [] := List.filterMap_eq_nil_iff.mpr fun r _ => hb r
  have hw : op.vwrite.bind p.boundTo = none := by cases op.vwrite <;> simp [hb]
  unfold State.streamsOf
  simp only [hr, hw]
  rfl

/-- An entry that is no summary insertion, by `hsk`, and no memory access is computed in one step (R331). -/
theorem entryWork_of_compute {p : Proc} {iter : Nat} (hbound : p.bound = 0) (hmem : e.op.mem = none)
    (hsk : ∀ f d a g m t, e.op ≠ .sk f d a g m t) (htrap : e.op.trapLane (s.vecIn p [] none) e.fcr = none) :
    entryWork s p e iter = .retire s (vecCompute e.op (s.vecIn p [] none) e.ga e.gb e.fcr) := by
  unfold entryWork
  simp only [State.streamsOf_of_unbound hbound, hmem, htrap]
  rfl

/-- The head entry of a process outside level 2 executes at once. -/
theorem exec_sequencerEntry_of_head {iter : Nat} (hruns : s.cur.seqRuns = true) (hlevel : s.levelOf s.cur.ctx ≠ 2)
    (hhead : s.cur.headEntry = some (e, iter)) : exec (.sequencerEntry s.cur.pid) s =
      .next (s.afterEntry s.cur.pid e (entryStep s s.cur e iter)) := by
  change execSequencerEntry s.cur.pid s = _
  unfold execSequencerEntry
  simp only [State.proc_cur]
  rw [if_neg (by simp [hruns])]
  simp only [hhead]
  rw [if_pos (Or.inl hlevel)]

theorem exec_sequencerEntry_of_compute (hruns : s.cur.seqRuns = true) (hlevel : s.levelOf s.cur.ctx ≠ 2)
    (herr : s.unitErrors s.cur.core 1 = 0) (hbound : s.cur.bound = 0) (hloop : s.cur.vloop = none) (hseq : s.cur.seq = e :: rest)
    (hchunk : s.cur.chunk = none) (hmem : e.op.mem = none) (hsk : ∀ f d a g m t, e.op ≠ .sk f d a g m t)
    (htrap : e.op.trapLane (s.vecIn s.cur [] none) e.fcr = none)
    (ho : o = vecCompute e.op (s.vecIn s.cur [] none) e.ga e.gb e.fcr) (hfl : enabledFlags e.fcr o.flags = 0) :
    exec (.sequencerEntry s.cur.pid) s = .next (State.kick { s with cur := s.cur.retired e rest o } s.cur.pid) := by
  have hhead : s.cur.headEntry = some (e, 0) := by
    unfold Proc.headEntry
    simp only [hloop, hseq]
    rfl
  have hwork : entryStep s s.cur e 0 = .retire s o := by
    rw [ho]
    unfold entryStep
    simp only [State.parityGuard_clean herr, if_true]
    exact entryWork_of_compute hbound hmem hsk htrap
  rw [exec_sequencerEntry_of_head hruns hlevel hhead, hwork, ← State.retireEntry_self hloop hseq hchunk hfl]
  rfl

end

section
variable {p : Proc} {c : Claim} {u : Nat} {d : Reg}

/-- The lanes and the record of its claim that a process has with `u` units granted (R207, R328, R329). -/
def Proc.laneGranted (p : Proc) (c : Claim) (u : Nat) : Proc :=
  { p with vgrant := setField (setField (setField p.vgrant 16 5 c.hi) 8 5 c.lo) 0 5 u,
           v := p.v.map (resizeLanes (16 * u) (16 * min c.keep u)), m := p.m.map (maskN (16 * min c.keep u)),
           savedUnits := 0, waiting := false }

/-- The process once its claim has been granted and `d` has the number of units. -/
def Proc.granted (p : Proc) (c : Claim) (u : Nat) (d : Reg) : Proc := (p.laneGranted c u).deliver (d, BitVec.ofNat 64 u)

/-- A grant changes registers, their marks and a chunk's checkpoint beside what it sets. -/
theorem Proc.granted_eq : ∃ g w k, p.granted c u d = { p.laneGranted c u with g := g, pend := w, chunk := k } :=
  Proc.deliver_eq _ _

theorem Proc.granted_laneCount (hu : u ≤ 16) : (p.granted c u d).laneCount = 16 * u := by
  obtain ⟨_, _, _, h⟩ := p.granted_eq (c := c) (u := u) (d := d)
  rw [h]
  unfold Proc.laneCount Proc.laneGranted
  rw [field_setField_self _ _ (by omega), Nat.mod_eq_of_lt (by omega)]

theorem Proc.granted_waiting : (p.granted c u d).waiting = false := by
  obtain ⟨_, _, _, h⟩ := p.granted_eq (c := c) (u := u) (d := d); rw [h]; rfl

theorem Proc.granted_pid : (p.granted c u d).pid = p.pid := by obtain ⟨_, _, _, h⟩ := p.granted_eq (c := c) (u := u) (d := d); rw [h]; rfl
theorem Proc.granted_st : (p.granted c u d).st = p.st := by obtain ⟨_, _, _, h⟩ := p.granted_eq (c := c) (u := u) (d := d); rw [h]; rfl

/-- A claim that keeps no units leaves every lane 0. -/
theorem Proc.granted_lanes (hkeep : c.keep = 0) (r : Reg) :
    (p.granted c u d).v[r.toNat]'r.isLt = List.replicate (16 * u) 0 := by
  obtain ⟨_, _, _, h⟩ := p.granted_eq (c := c) (u := u) (d := d)
  simp only [h, Proc.laneGranted, hkeep, Vector.getElem_map, resizeLanes, Nat.zero_min, Nat.mul_zero, Nat.not_lt_zero, if_false,
    List.map_const', List.length_range]

/-- A claim that keeps no units leaves every mask 0. -/
theorem Proc.granted_mask (hkeep : c.keep = 0) (k : MReg) : (p.granted c u d).m[k.toNat]'k.isLt = 0 := by
  obtain ⟨_, _, _, h⟩ := p.granted_eq (c := c) (u := u) (d := d)
  simp [h, Proc.laneGranted, hkeep, maskN]

end

section
variable {s t : State} {b u : Nat} {c : Claim} {d : Reg}

/-- The bench once claim `c` has left its queue with `u` units. -/
def State.claimTaken (t : State) (b : Nat) (c : Claim) (u : Nat) : State :=
  t.updBench b fun x => { x with claims := x.claims.erase c, used := x.used + u }

theorem State.grantLanes_self (hpid : c.pid = t.cur.pid) (hrd : c.rd = some d) (hst : t.cur.st = .running) :
    t.grantLanes b c u = State.kick { t.claimTaken b c u with cur := t.cur.granted c u d } t.cur.pid := by
  have hproc : (t.claimTaken b c u).proc c.pid = t.cur := by
    rw [hpid]
    exact State.proc_cur (t.claimTaken b c u)
  have hpid' : (t.cur.granted c u d).pid = (t.claimTaken b c u).cur.pid := Proc.granted_pid
  have hsame : ({ t.cur.granted c u d with pid := c.pid } : Proc) = t.cur.granted c u d := by rw [hpid, ← Proc.granted_pid]
  unfold State.grantLanes
  rw [← State.claimTaken]
  simp only [hproc, hrd, Option.isNone_some, Bool.false_and, Bool.false_eq_true, if_false]
  change (if (t.cur.granted c u d).st = .parked then _ else
    (t.claimTaken b c u).setProc { t.cur.granted c u d with pid := c.pid }).kick c.pid = _
  rw [Proc.granted_st, hst, if_neg (by decide), hsame, State.setProc_cur _ hpid', hpid]

/-- The claim at the head is granted when its pool holds the units (R207). -/
theorem exec_laneGrant_of_room (ht : t = s.updBench b fun x => { x with claims := x.claims.filter s.liveClaim })
    (hc : t.headClaim b = some c) (hroom : c.lo ≤ 16 - (t.bench b).used) (hres : (t.proc c.pid).resident = true) :
    exec (.laneGrant b) s = .next ((t.grantLanes b c (min c.hi (16 - (t.bench b).used))).push (.laneGrant b)) := by
  subst ht
  change execLaneGrant b s = _
  unfold execLaneGrant
  simp only [hc]
  rw [if_neg (by omega), if_pos hres]

theorem exec_laneGrant_of_short (ht : t = s.updBench b fun x => { x with claims := x.claims.filter s.liveClaim })
    (hc : t.headClaim b = some c) (hshort : 16 - (t.bench b).used < c.lo) : exec (.laneGrant b) s = .next (t.parkClaims b) := by
  subst ht
  change execLaneGrant b s = _
  unfold execLaneGrant
  simp only [hc]
  rw [if_pos hshort]

end

/-- Settles O37: a compute entry by what retiring leaves of its process, and a claim by what its grant leaves. -/
theorem sequencerRetiresItsHeadEntry : Obligations.SequencerRetiresItsHeadEntry := by
  intro s e rest o b c
  constructor
  · intro hruns hlevel herr hbound hloop hseq hchunk hmem hsk x hx htrap ho hfl
    subst hx
    refine ⟨_, exec_sequencerEntry_of_compute hruns hlevel herr hbound hloop hseq hchunk hmem hsk htrap ho hfl, ?_⟩
    rw [State.kick_cur, State.kick_mem]
    exact ⟨Proc.retired_seq .., Proc.retired_pc .., rfl, Proc.retired_rs .., Proc.retired_fsr .., Proc.retired_lanes _ _ _ _,
      Proc.retired_mask _ _ _ _, Proc.retired_rg _ _ _ _, fun d y hg => Proc.retired_isPend _ _ _ _ hg⟩
  · intro t ht hc free hfree
    subst hfree
    refine ⟨exec_laneGrant_of_short ht hc, fun hroom hlo hle hhi hpid hunit hst d hrd => ?_⟩
    have hcur : t.cur = s.cur := by rw [ht]; rfl
    rw [← hcur] at hpid hst hunit
    have hres : (t.proc c.pid).resident = true := by rw [hpid, State.proc_cur]; exact decide_eq_true hunit
    refine ⟨_, exec_laneGrant_of_room ht hc hroom hres, ?_⟩
    rw [State.grantLanes_self hpid hrd hst]
    simp only [State.push_cur, State.push_mem, State.kick_cur, State.kick_mem]
    have hu : min c.hi (16 - (t.bench b).used) ≤ 16 := by omega
    exact ⟨Proc.granted_laneCount hu, fun hd => Proc.rg_deliver_self _ _ hd, Proc.isPend_clearPend_self _ d, Proc.granted_waiting,
      by rw [ht]; rfl, Proc.granted_lanes, Proc.granted_mask⟩

end Sys2Proof.Machine

namespace Sys2Proof.Machine

/-! ### Cells of the accumulators (R368, R379) -/

/-- A map keeps, of the entries whose keys pass a test, what it read. -/
theorem SMap.get_filter_key {α : Type} {d : α} (m : SMap α) (f : Nat → Bool) (k : Nat) :
    SMap.get d (m.filter fun e => f e.1) k = if f k = true then SMap.get d m k else d := by
  induction m with
  | nil => simp [SMap.get]
  | cons e r ih =>
    obtain ⟨j, v⟩ := e
    rw [List.filter_cons]
    by_cases hk : k = j
    · subst hk
      by_cases hj : f k = true
      · simp [SMap.get, hj]
      · simp [hj, ih]
    · by_cases hj : f j = true
      · simp [SMap.get, hj, hk, ih]
      · simp [SMap.get, hj, hk, ih]

/-- Two cells of a bench are one when they agree in bank, row and column. -/
theorem cellKey_inj {b k k' i i' n n' : Nat} (hi : i < 256) (hi' : i' < 256) (hn : n < 256) (hn' : n' < 256)
    (h : cellKey b k i n = cellKey b k' i' n') : k = k' ∧ i = i' ∧ n = n' := by
  unfold cellKey at h
  omega

theorem cellKey_bank {b k i n : Nat} (hi : i < 256) (hn : n < 256) : cellKey b k i n / 2 ^ 16 = 4 * b + k := by
  unfold cellKey
  omega

theorem ctlM_le (w : Word) : ctlM w ≤ 256 := Nat.mod_lt _ (by decide)
theorem ctlN_le (w : Word) : ctlN w ≤ 256 := Nat.mod_lt _ (by decide)

section
variable {s : State}

theorem State.accAt_setAcc_self (h : SMap.wf 0 s.acc = true) (k : Nat) (x : W32) : (s.setAcc k x).accAt k = x :=
  SMap.get_put_self _ _ _ h

theorem State.accAt_setAcc_ne {j k : Nat} (h : j ≠ k) (x : W32) : (s.setAcc k x).accAt j = s.accAt j :=
  SMap.get_put_ne h _ _

theorem State.wf_setAcc (h : SMap.wf 0 s.acc = true) (k : Nat) (x : W32) : SMap.wf 0 (s.setAcc k x).acc = true :=
  SMap.wf_put _ _ _ h

/-- The banks of a bench that `mclr` names become zero. -/
def State.zeroBanks (s : State) (b : Nat) (banks : List Nat) : State := banks.foldl (fun s k => s.zeroBank b k) s

theorem State.accAt_zeroBank (b bank x : Nat) : (s.zeroBank b bank).accAt x = if x / 2 ^ 16 = 4 * b + bank then 0 else s.accAt x := by
  refine (SMap.get_filter_key s.acc (fun j => !decide (j / 2 ^ 16 = 4 * b + bank)) x).trans ?_
  simp only [Bool.not_eq_true', decide_eq_false_iff_not, ite_not, State.accAt]

theorem State.accAt_zeroBanks (b x : Nat) (banks : List Nat) :
    (s.zeroBanks b banks).accAt x = if ∃ k ∈ banks, x / 2 ^ 16 = 4 * b + k then 0 else s.accAt x := by
  induction banks generalizing s with
  | nil => simp [State.zeroBanks]
  | cons k ks ih =>
    change ((s.zeroBank b k).zeroBanks b ks).accAt x = _
    rw [ih, State.accAt_zeroBank]
    by_cases hks : ∃ j ∈ ks, x / 2 ^ 16 = 4 * b + j
    · rw [if_pos hks, if_pos (hks.imp fun j hj => ⟨List.mem_cons_of_mem k hj.1, hj.2⟩)]
    · rw [if_neg hks]
      refine if_congr ⟨fun hk => ⟨k, List.mem_cons_self, hk⟩, fun ⟨j, hj, he⟩ => ?_⟩ rfl rfl
      obtain rfl | hj := List.mem_cons.mp hj
      · exact he
      · exact absurd ⟨j, hj, he⟩ hks

/-- Clearing banks changes accumulators alone. -/
theorem State.zeroBanks_eq (b : Nat) (banks : List Nat) : ∃ m, s.zeroBanks b banks = { s with acc := m } := by
  induction banks generalizing s with
  | nil => exact ⟨s.acc, rfl⟩
  | cons k ks ih => exact ih (s := s.zeroBank b k)

end

/-! ### The cells of a multiply (R376) -/

section
variable (core : Nat) (f : MatFmt) (ctl : Word)

/-- The cell of a multiply in its bank, and in the bank after it, which COMPLEX writes too. -/
def macKey (x : Nat × Nat) : Nat := cellKey (core / 8) (ctlBank ctl) x.1 x.2
def macKeyIm (x : Nat × Nat) : Nat := cellKey (core / 8) (ctlBank ctl + 1) x.1 x.2

/-- One cell of a multiply is written. -/
def State.setCell (t : State) (x : Nat × Nat) (r : W32 × W32 × Flags) : State :=
  let u := t.setAcc (macKey core ctl x) r.1
  if f.cls = .cplx then u.setAcc (macKeyIm core ctl x) r.2.1 else u

/-- The cells of a list are written, each with its value. -/
def State.setCells (t : State) (val : Nat × Nat → W32 × W32 × Flags) (xs : List (Nat × Nat)) : State :=
  xs.foldl (fun u x => u.setCell core f ctl x (val x)) t

/-- The cells that a multiply writes: its rows and columns. -/
def macRange : List (Nat × Nat) := (List.range (ctlM ctl)).flatMap fun i => (List.range (ctlN ctl)).map fun n => (i, n)

theorem mem_macRange {x : Nat × Nat} : x ∈ macRange ctl ↔ x.1 < ctlM ctl ∧ x.2 < ctlN ctl := by
  obtain ⟨i, n⟩ := x
  simp [macRange]

end

section
variable {core : Nat} {f : MatFmt} {ctl : Word} {t : State} {val : Nat × Nat → W32 × W32 × Flags}

theorem lt_of_mem_macRange {x : Nat × Nat} (h : x ∈ macRange ctl) : x.1 < 256 ∧ x.2 < 256 := by
  have hx := (mem_macRange ctl).mp h
  exact ⟨Nat.lt_of_lt_of_le hx.1 (ctlM_le ctl), Nat.lt_of_lt_of_le hx.2 (ctlN_le ctl)⟩

theorem macKey_ne {x y : Nat × Nat} (hx : x ∈ macRange ctl) (hy : y ∈ macRange ctl) (h : x ≠ y) :
    macKey core ctl x ≠ macKey core ctl y ∧ macKeyIm core ctl x ≠ macKeyIm core ctl y := by
  obtain ⟨hx1, hx2⟩ := lt_of_mem_macRange hx
  obtain ⟨hy1, hy2⟩ := lt_of_mem_macRange hy
  exact ⟨fun hk => h (Prod.ext (cellKey_inj hx1 hy1 hx2 hy2 hk).2.1 (cellKey_inj hx1 hy1 hx2 hy2 hk).2.2),
    fun hk => h (Prod.ext (cellKey_inj hx1 hy1 hx2 hy2 hk).2.1 (cellKey_inj hx1 hy1 hx2 hy2 hk).2.2)⟩

/-- The two banks of a COMPLEX multiply have no cell in common. -/
theorem macKey_ne_macKeyIm {x y : Nat × Nat} (hx : x ∈ macRange ctl) (hy : y ∈ macRange ctl) :
    macKey core ctl x ≠ macKeyIm core ctl y := by
  obtain ⟨hx1, hx2⟩ := lt_of_mem_macRange hx
  obtain ⟨hy1, hy2⟩ := lt_of_mem_macRange hy
  intro hk
  have := (cellKey_inj hx1 hy1 hx2 hy2 hk).1
  omega

theorem State.setCell_eq (x : Nat × Nat) (r : W32 × W32 × Flags) : ∃ m, t.setCell core f ctl x r = { t with acc := m } := by
  unfold State.setCell
  split
  · exact ⟨_, rfl⟩
  · exact ⟨_, rfl⟩

theorem State.wf_setCell (h : SMap.wf 0 t.acc = true) (x : Nat × Nat) (r : W32 × W32 × Flags) :
    SMap.wf 0 (t.setCell core f ctl x r).acc = true := by
  unfold State.setCell
  split
  · exact State.wf_setAcc (State.wf_setAcc h _ _) _ _
  · exact State.wf_setAcc h _ _

theorem State.accAt_setCell_out {x : Nat × Nat} {y : Nat} (h : y ≠ macKey core ctl x)
    (him : f.cls = .cplx → y ≠ macKeyIm core ctl x) (r : W32 × W32 × Flags) : (t.setCell core f ctl x r).accAt y = t.accAt y := by
  unfold State.setCell
  split
  · rename_i hc
    rw [State.accAt_setAcc_ne (him hc), State.accAt_setAcc_ne h]
  · exact State.accAt_setAcc_ne h _

theorem State.accAt_setCell_self (h : SMap.wf 0 t.acc = true) {x : Nat × Nat} (hx : x ∈ macRange ctl) (r : W32 × W32 × Flags) :
    (t.setCell core f ctl x r).accAt (macKey core ctl x) = r.1 := by
  unfold State.setCell
  split
  · rw [State.accAt_setAcc_ne (macKey_ne_macKeyIm hx hx), State.accAt_setAcc_self h]
  · exact State.accAt_setAcc_self h _ _

theorem State.accAt_setCell_selfIm (h : SMap.wf 0 t.acc = true) (hc : f.cls = .cplx) (x : Nat × Nat) (r : W32 × W32 × Flags) :
    (t.setCell core f ctl x r).accAt (macKeyIm core ctl x) = r.2.1 := by
  rw [State.setCell, if_pos hc, State.accAt_setAcc_self (State.wf_setAcc h _ _)]

theorem State.setCells_concat (xs : List (Nat × Nat)) (x : Nat × Nat) :
    t.setCells core f ctl val (xs ++ [x]) = (t.setCells core f ctl val xs).setCell core f ctl x (val x) := by
  simp [State.setCells]

theorem State.setCells_eq (xs : List (Nat × Nat)) : ∃ m, t.setCells core f ctl val xs = { t with acc := m } := by
  induction xs using List.reverseRecOn with
  | nil => exact ⟨t.acc, rfl⟩
  | append_singleton xs x ih =>
    obtain ⟨m, hm⟩ := ih
    obtain ⟨m', hm'⟩ := State.setCell_eq (t := t.setCells core f ctl val xs) (core := core) (f := f) (ctl := ctl) x (val x)
    exact ⟨m', by rw [State.setCells_concat, hm', hm]⟩

theorem State.wf_setCells (h : SMap.wf 0 t.acc = true) (xs : List (Nat × Nat)) :
    SMap.wf 0 (t.setCells core f ctl val xs).acc = true := by
  induction xs using List.reverseRecOn with
  | nil => exact h
  | append_singleton xs x ih => rw [State.setCells_concat]; exact State.wf_setCell ih x (val x)

/-- A cell that no place of the list names stays as it was. -/
theorem State.accAt_setCells_out {y : Nat} {xs : List (Nat × Nat)}
    (h : ∀ x ∈ xs, y ≠ macKey core ctl x ∧ (f.cls = .cplx → y ≠ macKeyIm core ctl x)) :
    (t.setCells core f ctl val xs).accAt y = t.accAt y := by
  induction xs using List.reverseRecOn with
  | nil => rfl
  | append_singleton xs x ih =>
    obtain ⟨hx, him⟩ := h x (by simp)
    rw [State.setCells_concat, State.accAt_setCell_out hx him, ih fun z hz => h z (by simp [hz])]

/-- Each cell of the list holds its value: a later place writes other cells, or the same value again. -/
theorem State.accAt_setCells_in (h : SMap.wf 0 t.acc = true) {xs : List (Nat × Nat)} (hxs : ∀ x ∈ xs, x ∈ macRange ctl)
    {x : Nat × Nat} (hx : x ∈ xs) : (t.setCells core f ctl val xs).accAt (macKey core ctl x) = (val x).1 ∧
      (f.cls = .cplx → (t.setCells core f ctl val xs).accAt (macKeyIm core ctl x) = (val x).2.1) := by
  induction xs using List.reverseRecOn with
  | nil => simp at hx
  | append_singleton xs z ih =>
    have hwf := State.wf_setCells (core := core) (f := f) (ctl := ctl) (val := val) h xs
    have hzr := hxs z (by simp)
    have hxr := hxs x hx
    rw [State.setCells_concat]
    by_cases hxz : x = z
    · subst hxz
      exact ⟨State.accAt_setCell_self hwf hzr _, fun hc => State.accAt_setCell_selfIm hwf hc _ _⟩
    · obtain ⟨hkey, him⟩ := macKey_ne (core := core) hxr hzr hxz
      have hin : x ∈ xs := by simpa [hxz] using hx
      obtain ⟨hre, hre'⟩ := ih (fun y hy => hxs y (by simp [hy])) hin
      rw [State.accAt_setCell_out hkey fun _ => macKey_ne_macKeyIm hxr hzr]
      refine ⟨hre, fun hc => ?_⟩
      rw [State.accAt_setCell_out (macKey_ne_macKeyIm hzr hxr).symm fun _ => him]
      exact hre' hc

/-- Asks that are dropped leave every cell. -/
theorem State.accAt_dropAsks_dropHost (c : Byte) (unit y : Nat) : ((t.dropHost core c).dropAsks core unit).accAt y = t.accAt y := rfl

/-- A multiply writes its cells, each computed from the accumulators as the command found them. -/
theorem macCells_fst (form : Nat) (d0 d1 : Word) (sc : Option Scales) : (macCells t core f form ctl d0 d1 sc).1 =
    t.setCells core f ctl (fun x => cellMac t core f form ctl d0 d1 sc x.1 x.2) (macRange ctl) :=
  (List.foldl_hom Prod.fst fun _ _ => rfl).symm

end

/-! ### The lease of an array (R208, R371–R373) -/

section
variable {s : State} {b core : Nat} {i : MatItem}

theorem exec_leaseGrant_of_held (h : (s.bench b).held = true) : exec (.leaseGrant b) s = .next (s.pumpArray b) := if_pos h

theorem exec_leaseGrant_of_noCandidate (h : (s.bench b).held = false) (ha : s.orderAsks 64 (s.leaseAsks b) = []) :
    exec (.leaseGrant b) s = .next s := by
  change execLeaseGrant b s = _
  unfold execLeaseGrant
  rw [if_neg (by simp [h])]
  simp only [ha]

theorem State.logGate_of_notLogged {p : Proc} (h : s.logged p = false) (kind unit : Nat) (chan : Bool) (lcore slot obj detail : Nat) :
    s.logGate p kind unit chan lcore slot obj detail = .pass s := if_pos (by simp [h])

theorem exec_leaseGrant_of_candidate {a : LeaseAsk} {rest : List LeaseAsk} (h : (s.bench b).held = false)
    (ha : s.orderAsks 64 (s.leaseAsks b) = a :: rest) (hlog : s.logged (s.proc a.pid) = false) :
    exec (.leaseGrant b) s = .next ((s.grantLease b a).pumpArray b) := by
  have htry : s.tryAsks b (a :: rest) = some (s.grantLease b a) := by
    unfold State.tryAsks
    simp only [State.logGate_of_notLogged hlog]
  change execLeaseGrant b s = _
  unfold execLeaseGrant
  rw [if_neg (by simp [h])]
  simp only [ha, htry]

/-- The owner of a bank, unless it is `pid`. -/
def ownerBut (pid : Nat) (o : Option (Nat × Nat × Nat)) : Option (Nat × Nat × Nat) :=
  if o.elim false fun w => w.1 = pid then none else o

/-- The item of an `mrel` has left the queue, its banks are free and its lease is over (R372). -/
def State.leaseEnded (s : State) (core : Nat) (i : MatItem) : State :=
  (s.setMats core ((s.mats core).eraseIdx ((s.mats core).findIdx fun j => decide (j = i)))).updBench (core / 8) fun x =>
    { x with owners := x.owners.map (ownerBut i.pid), held := x.held && x.holder != i.pid }

theorem State.leaseEnded_proc (pid : Nat) : (s.leaseEnded core i).proc pid = s.proc pid := rfl
theorem State.leaseEnded_mem : (s.leaseEnded core i).mem = s.mem := rfl

/-- `mrel` has taken effect, and its process owns no bank by its record (R372). -/
def State.leaseReleased (s : State) (core : Nat) (i : MatItem) : State := (s.leaseEnded core i).touch i.pid fun p => { p with banks := 0 }

theorem exec_mrelEffect_of_noRelease (h : (headItems (s.mats core)).find? (fun i => decide (i.op = .rel)) = none) :
    exec (.mrelEffect core) s = .next s := by
  change execMrelEffect core s = _
  unfold execMrelEffect
  simp only [h]

theorem exec_mrelEffect_of_release (h : (headItems (s.mats core)).find? (fun i => decide (i.op = .rel)) = some i) :
    exec (.mrelEffect core) s = .next (((s.leaseReleased core i).pumpArray (core / 8)).settleDone i.pid) := by
  change execMrelEffect core s = _
  unfold execMrelEffect
  simp only [h]
  rfl

theorem State.setProc_eq (p : Proc) : ∃ c ps, s.setProc p = { s with cur := c, procs := ps } := by
  unfold State.setProc
  split
  · exact ⟨p, s.procs, rfl⟩
  · exact ⟨s.cur, _, rfl⟩

theorem State.setProc_mem_eq (s : State) (p : Proc) (m : List Host.Cell) :
    ∃ c ps, ({ s.setProc p with mem := m } : State) = { s with cur := c, procs := ps, mem := m } := by
  obtain ⟨c, ps, h⟩ := s.setProc_eq p
  exact ⟨c, ps, by rw [h]⟩

/-- A change of a process wherever its context stands is one of the table of processes and of memory. -/
theorem State.touch_eq (s : State) (pid : Nat) (f : Proc → Proc) : ∃ c ps m, s.touch pid f = { s with cur := c, procs := ps, mem := m } := by
  unfold State.touch
  extract_lets
  split
  · exact ⟨s.cur, s.procs, s.mem, rfl⟩
  split
  · exact (s.setProc_mem_eq _ _).imp fun _ h => h.imp fun _ h => ⟨_, h⟩
  split
  · exact (s.setProc_mem_eq _ _).imp fun _ h => h.imp fun _ h => ⟨_, h⟩
  · obtain ⟨c, ps, h⟩ := s.updProc_eq pid f
    exact ⟨c, ps, s.mem, h⟩

theorem State.touch_mem_of_home {pid : Nat} (h : (s.proc pid).away = false) (f : Proc → Proc) : (s.touch pid f).mem = s.mem := by
  unfold State.touch
  simp only [h, Bool.and_false, Bool.false_eq_true, if_false]
  split
  · rfl
  · exact s.updProc_mem pid f

theorem State.bench_updBench_self (h : SMap.wf Bench.empty s.benches = true) (f : Bench → Bench) :
    (s.updBench b f).bench b = f (s.bench b) := SMap.get_put_self _ _ _ h

theorem State.mats_leaseEnded (h : SMap.wf [] s.matq = true) : (s.leaseEnded core i).mats core =
    (s.mats core).eraseIdx ((s.mats core).findIdx fun j => decide (j = i)) := SMap.get_put_self _ _ _ h

theorem State.bench_leaseEnded (h : SMap.wf Bench.empty s.benches = true) : (s.leaseEnded core i).bench (core / 8) =
    { s.bench (core / 8) with owners := (s.bench (core / 8)).owners.map (ownerBut i.pid)
                              held := (s.bench (core / 8)).held && (s.bench (core / 8)).holder != i.pid } :=
  State.bench_updBench_self (s := s.setMats core _) h _

theorem ownerBut_ne (pid : Nat) (o : Option (Nat × Nat × Nat)) {w : Nat × Nat × Nat} (h : ownerBut pid o = some w) : w.1 ≠ pid := by
  unfold ownerBut at h
  split at h
  · cases h
  · rename_i hn
    subst h
    simpa using hn

theorem State.leaseReleased_eq : ∃ c ps m, s.leaseReleased core i = { s.leaseEnded core i with cur := c, procs := ps, mem := m } :=
  (s.leaseEnded core i).touch_eq i.pid _

theorem State.leaseReleased_acc : (s.leaseReleased core i).acc = s.acc := by
  obtain ⟨_, _, _, h⟩ := s.leaseReleased_eq (core := core) (i := i)
  rw [h]
  rfl

theorem State.leaseReleased_mem (h : (s.proc i.pid).away = false) : (s.leaseReleased core i).mem = s.mem := by
  rw [State.leaseReleased, State.touch_mem_of_home (by rw [State.leaseEnded_proc]; exact h), State.leaseEnded_mem]

theorem State.leaseReleased_mats : (s.leaseReleased core i).mats core = (s.leaseEnded core i).mats core := by
  obtain ⟨_, _, _, h⟩ := s.leaseReleased_eq (core := core) (i := i)
  rw [h]
  rfl

theorem State.leaseReleased_bench (b : Nat) : (s.leaseReleased core i).bench b = (s.leaseEnded core i).bench b := by
  obtain ⟨_, _, _, h⟩ := s.leaseReleased_eq (core := core) (i := i)
  rw [h]
  rfl

/-- A process owns no bank once it has released its lease. -/
theorem State.ownsBank_of_released {k pid : Nat} {os : Vector (Option (Nat × Nat × Nat)) 4}
    (h : (s.bench (core / 8)).owners = os.map (ownerBut pid)) : s.ownsBank core pid k = false := by
  have hget : (os.map (ownerBut pid)).toList.getD k none = ownerBut pid (os.toList.getD k none) := by
    rw [Vector.toList_map]
    exact List.getD_map _ none (ownerBut pid)
  unfold State.ownsBank
  rw [h, hget]
  split
  · rename_i w hw
    exact decide_eq_false (ownerBut_ne pid _ hw)
  · rfl

end

/-! ### The command that the array executes (R370, R374–R380, R409) -/

section
variable {s : State} {core : Nat} {i : MatItem}

theorem State.withArray_of_none (h : s.arrayHead core = none) (k : State → MatItem → Out) : s.withArray core k = .next s := by
  unfold State.withArray
  simp only [h]

theorem State.withArray_of_lasting (h : s.arrayHead core = some i) (he : 2 ≤ s.unitErrors core 2) (k : State → MatItem → Out) :
    s.withArray core k = .next ((s.parityGuard core 2).2.matFault core i (machineCheck 2)) := by
  unfold State.withArray
  simp only [h]
  rw [if_neg (by simp [State.parityGuard_lasting he])]

/-- Each step of the array takes the command at the head and goes on by its kind. -/
theorem exec_arrayStep {x : Instr} (hx : x ∈ [Instr.mfmtExecute core, .mmacExecute core, .mlidExecute core, .mclrExecute core,
    .mdrnExecute core]) : ∃ k, exec x s = s.withArray core k := by
  simp only [List.mem_cons, List.not_mem_nil, or_false] at hx
  obtain rfl | rfl | rfl | rfl | rfl := hx
  · exact ⟨_, execMfmtExecute.eq_def core s⟩
  · exact ⟨_, execMmacExecute.eq_def core s⟩
  · exact ⟨_, execMlidExecute.eq_def core s⟩
  · exact ⟨_, execMclrExecute.eq_def core s⟩
  · exact ⟨_, execMdrnExecute.eq_def core s⟩

/-- The array of `core` executes `i` and meets no error. -/
def State.Executes (s : State) (core : Nat) (i : MatItem) : Prop := s.arrayHead core = some i ∧ s.unitErrors core 2 = 0

theorem State.Executes.withArray (h : s.Executes core i) (k : State → MatItem → Out) : s.withArray core k = k s i := by
  obtain ⟨hhead, herr⟩ := h
  unfold State.withArray
  simp only [hhead, State.parityGuard_clean herr, if_true]

end

section
variable {s : State} {core : Nat} {i : MatItem} (h : s.Executes core i)
include h

theorem exec_mfmtExecute_of_fmt {w : Word} (hop : i.op = .fmt w) : exec (.mfmtExecute core) s =
    .next ((s.setMatCtx core (w &&& 0xFFF80, (s.matCtx core).2.1, (s.matCtx core).2.2)).matDone core i 0) := by
  change execMfmtExecute core s = _
  unfold execMfmtExecute
  rw [h.withArray]
  simp only [hop]

theorem exec_mfmtExecute_of_scl {x y : Word} (hop : i.op = .scl x y) : exec (.mfmtExecute core) s =
    .next ((s.setMatCtx core ((s.matCtx core).1, x, y)).matDone core i 0) := by
  change execMfmtExecute core s = _
  unfold execMfmtExecute
  rw [h.withArray]
  simp only [hop]

end

section
variable {s : State} {core m : Nat} {i : MatItem} (h : s.Executes core i) (hop : i.op = .clr m)

/-- The banks that a mask names. -/
def namedBanks (m : Nat) : List Nat := (List.range 4).filter fun k => m / 2 ^ k % 2 == 1

theorem mem_namedBanks {m k : Nat} : k ∈ namedBanks m ↔ k < 4 ∧ m.testBit k = true := by
  simp [namedBanks, Nat.testBit_eq_decide_div_mod_eq]

include h hop

theorem exec_mclrExecute : exec (.mclrExecute core) s = .next (if (namedBanks m).all (s.ownsBank core i.pid) then
    (s.zeroBanks (core / 8) (namedBanks m)).matDone core i 0
    else s.matFault core i { cause := 0x140, tval := BitVec.ofNat 64 m, words := [] }) := by
  change execMclrExecute core s = _
  unfold execMclrExecute
  rw [h.withArray]
  simp only [hop]
  rw [← namedBanks]
  cases (namedBanks m).all (s.ownsBank core i.pid) <;> rfl

theorem exec_mclrExecute_of_owned (howns : ∀ k < 4, m.testBit k = true → s.ownsBank core i.pid k = true) :
    exec (.mclrExecute core) s = .next ((s.zeroBanks (core / 8) (namedBanks m)).matDone core i 0) := by
  rw [exec_mclrExecute h hop, if_pos]
  exact List.all_eq_true.mpr fun k hk => howns k (mem_namedBanks.mp hk).1 (mem_namedBanks.mp hk).2

theorem exec_mclrExecute_of_notOwned (hnot : ∃ k < 4, m.testBit k = true ∧ s.ownsBank core i.pid k = false) :
    exec (.mclrExecute core) s = .next (s.matFault core i { cause := 0x140, tval := BitVec.ofNat 64 m, words := [] }) := by
  obtain ⟨k, hk, hbit, hown⟩ := hnot
  rw [exec_mclrExecute h hop, if_neg]
  intro hall
  simpa [hown] using List.all_eq_true.mp hall k (mem_namedBanks.mpr ⟨hk, hbit⟩)

end

/-- A cell of a bench after `mclr`: zero in a named bank, and as it was in another. -/
theorem State.accAt_zeroBanks_named (s : State) {b m k row col : Nat} (hk : k < 4) (hrow : row < 256) (hcol : col < 256) :
    (s.zeroBanks b (namedBanks m)).accAt (cellKey b k row col) = if m.testBit k then 0 else s.accAt (cellKey b k row col) := by
  rw [State.accAt_zeroBanks, cellKey_bank hrow hcol]
  refine if_congr ⟨fun ⟨j, hj, he⟩ => ?_, fun hbit => ⟨k, mem_namedBanks.mpr ⟨hk, hbit⟩, rfl⟩⟩ rfl rfl
  obtain rfl : k = j := by omega
  exact (mem_namedBanks.mp hj).2

section
variable {s u v : State} {core form : Nat} {i : MatItem} {f : MatFmt} {ctl d0 d1 : Word} (h : s.Executes core i)
  (hop : i.op = .mac form ctl d0 d1)

/-- The ranges that a multiply reads in SRAM: rows of A, columns of B, and the scales of A (R374, R376). -/
def macRanges (s : State) (core : Nat) (f : MatFmt) (ctl d0 d1 : Word) : List (Nat × Nat) :=
  (List.range (ctlM ctl)).map (fun r => (rowAddr core d0 r, nibBytes (nibblesOf f.a) (ctlK ctl))) ++
    (List.range (ctlN ctl)).map (fun n => (colAddr core (field d1 0 13) n, nibBytes (nibblesOf f.b) (ctlK ctl))) ++
    (if f.scaled then scaleRanges core ctl (s.matCtx core).2.1 else [])

include h hop

theorem exec_mmacExecute_of_noFormat (hf : matFmt (s.matCtx core).1 = none) :
    exec (.mmacExecute core) s = .next (s.matFault core i (noFormat s core)) := by
  change execMmacExecute core s = _
  unfold execMmacExecute
  rw [h.withArray]
  simp only [hop, hf]

theorem exec_mmacExecute_of_refused (hf : matFmt (s.matCtx core).1 = some f) {e : FaultInfo}
    (hc : macChecks (s.cacheDesc i.ctx) core i f form ctl d0 d1 = some e) :
    exec (.mmacExecute core) s = .next ((s.cacheDesc i.ctx).matFault core i e) := by
  change execMmacExecute core s = _
  unfold execMmacExecute
  rw [h.withArray]
  simp only [hop, hf, hc]

theorem exec_mmacExecute_of_passed (hf : matFmt (s.matCtx core).1 = some f) {sc : Option Scales}
    (hc : macChecks (s.cacheDesc i.ctx) core i f form ctl d0 d1 = none)
    (hg : guardRanges (s.cacheDesc i.ctx) (macRanges (s.cacheDesc i.ctx) core f ctl d0 d1) = (none, u))
    (hs : macScales u core i f ctl = (.ok sc, v)) :
    exec (.mmacExecute core) s = .next (((((macCells v core f form ctl d0 d1 sc).1.dropHost core i.ctx).dropAsks core 66)).matDone core i
      (macCells v core f form ctl d0 d1 sc).2) := by
  rw [macRanges] at hg
  change execMmacExecute core s = _
  unfold execMmacExecute
  rw [h.withArray]
  simp only [hop, hf, hc, hg, hs]

end

section
variable {s : State} {core : Nat} {i : MatItem} {f : MatFmt} (h : s.Executes core i) (hf : matFmt (s.matCtx core).1 = some f)

/-- Where a lid load goes on after a beat of `len` bytes at offset `off` of row `k`, of `row` bytes (R378). -/
def State.lidGoesOn (z : State) (core : Nat) (i : MatItem) (rows k off len row : Nat) : State :=
  if off + len < row then z.moveMat core i (k * 2 ^ 16 + off + len) 0 i.rs
  else if k + 1 < rows then z.moveMat core i ((k + 1) * 2 ^ 16) 0 i.rs
  else z.matDone core i 0

include h hf

theorem exec_mlidExecute_of_beat {va w0 w1 w2 : Word} {u v : State} {bs : List Byte} {k off row : Nat} {a : Word}
    (hop : i.op = .lid va w0 w1 w2) (hc : i.pos = 0 → lidChecks (s.cacheDesc i.ctx) core i f va w1 w2 = none)
    (hk : k = i.pos / 2 ^ 16) (hoff : off = i.pos % 2 ^ 16) (hrow : row = nibBytes (nibblesOf f.b) (field w1 8 8 + 1))
    (ha : a = w0 + BitVec.ofNat 64 (k * field w1 32 32))
    (hr : engineRead (s.cacheDesc i.ctx) core 66 i.ctx (a + BitVec.ofNat 64 off) (beatLen a off row) = (.ok bs, u))
    (hw : lidWrites u core i.ctx f.b (field w2 0 13) k (rowElems f.b (field w1 8 8 + 1) off bs) = (.ok (), v)) :
    exec (.mlidExecute core) s =
      .next (((v.dropHost core i.ctx).dropAsks core 66).lidGoesOn core i (field w1 16 16) k off (beatLen a off row) row) := by
  simp only [Nat.reducePow] at hk hoff
  have hpass : (if i.pos = 0 then lidChecks (s.cacheDesc i.ctx) core i f va w1 w2 else none) = none := by
    split
    · exact hc ‹_›
    · rfl
  change execMlidExecute core s = _
  unfold execMlidExecute
  rw [h.withArray]
  simp only [hop, hf, hpass, Nat.reducePow, ← hk, ← hoff, ← hrow, ← ha, hr, hw, State.lidGoesOn]
  split_ifs <;> rfl

/-- Where a drain goes on after a beat of `len` bytes at offset `off` of row `r`, of `row` bytes (R380). -/
def State.drainGoesOn (z : State) (core : Nat) (i : MatItem) (f : MatFmt) (ctl : Word) (r off len row : Nat)
    (fl : Flags) (rs : Word) : State :=
  if off + len < row then z.moveMat core i (r * 2 ^ 16 + off + len) fl rs
  else if r + 1 < ctlM ctl then z.moveMat core i ((r + 1) * 2 ^ 16) fl rs
  else (if ctlClr ctl then zeroCells z core f ctl else z).matDone core i fl

theorem exec_mdrnExecute_of_beat {ctl fcr rs0 d0 d1 : Word} {u : State} {r off row first count : Nat} {a : Word}
    {x : List Nat × Flags × Word} (hop : i.op = .drn ctl fcr rs0 d0 d1) (hc : i.pos = 0 → drainChecks s core i f ctl d1 = none)
    (hr : r = i.pos / 2 ^ 16) (hoff : off = i.pos % 2 ^ 16) (hrow : row = nibBytes f.dsize (ctlN ctl))
    (ha : a = d0 + BitVec.ofNat 64 (r * field d1 0 32)) (hfirst : first = 2 * off / f.dsize)
    (hcount : count = min (ctlN ctl - first) (2 * beatLen a off row / f.dsize))
    (hx : x = drainCells s core f fcr ctl r ((List.range count).map (first + ·)) i.rs)
    (hw : engineWrite s core 66 i.ctx (a + BitVec.ofNat 64 off) (packElems f.dsize x.1) (f.dsize * count % 2 == 1) = (.ok (), u)) :
    exec (.mdrnExecute core) s =
      .next (((u.dropHost core i.ctx).dropAsks core 66).drainGoesOn core i f ctl r off (beatLen a off row) row x.2.1 x.2.2) := by
  simp only [Nat.reducePow] at hr hoff
  have hpass : (if i.pos = 0 then drainChecks s core i f ctl d1 else none) = none := by
    split
    · exact hc ‹_›
    · rfl
  change execMdrnExecute core s = _
  unfold execMdrnExecute
  rw [h.withArray]
  simp only [hop, hf, hpass, Nat.reducePow, ← hr, ← hoff, ← hrow, ← ha, ← hfirst, ← hcount, ← hx, hw, State.drainGoesOn]
  split_ifs <;> rfl

end

/-- Settles O48: the arbiter by its candidates, `mrel` by what it leaves of the bench, and each command by its own step. -/
theorem arrayStepsComputeAccumulators : Obligations.ArrayStepsComputeAccumulators := by
  intro s core b i f hb
  subst hb
  refine ⟨exec_leaseGrant_of_held, exec_leaseGrant_of_noCandidate, fun a rest => exec_leaseGrant_of_candidate,
    exec_mrelEffect_of_noRelease, fun hrel hmatq hbenches => ?_, fun hnone x hx => ?_, fun hhead herr x hx => ?_, fun hhead herr => ?_⟩
  · have hbench := (State.leaseReleased_bench (core / 8)).trans (State.bench_leaseEnded (core := core) (i := i) hbenches)
    exact ⟨s.leaseReleased core i, exec_mrelEffect_of_release hrel, State.leaseReleased_acc, State.leaseReleased_mem,
      State.leaseReleased_mats.trans (State.mats_leaseEnded hmatq), congrArg Bench.held hbench,
      fun k _ => State.ownsBank_of_released (congrArg Bench.owners hbench)⟩
  · obtain ⟨k, hk⟩ := exec_arrayStep hx
    rw [hk, State.withArray_of_none hnone]
  · obtain ⟨k, hk⟩ := exec_arrayStep hx
    rw [hk, State.withArray_of_lasting hhead herr]
  have h : s.Executes core i := ⟨hhead, herr⟩
  refine ⟨fun w => exec_mfmtExecute_of_fmt h, fun x y => exec_mfmtExecute_of_scl h, fun m hop => ⟨fun howns => ?_,
    exec_mclrExecute_of_notOwned h hop⟩, fun form ctl d0 d1 hop => ⟨exec_mmacExecute_of_noFormat h hop, fun hf =>
    ⟨fun e => exec_mmacExecute_of_refused h hop hf, fun u v sc hc hg hs hwf => ?_⟩⟩, ?_, ?_⟩
  · obtain ⟨m', hm'⟩ := s.zeroBanks_eq (core / 8) (namedBanks m)
    exact ⟨_, exec_mclrExecute_of_owned h hop howns, by rw [hm'], by rw [hm'], fun k row col => s.accAt_zeroBanks_named⟩
  · obtain ⟨m', hm'⟩ := State.setCells_eq (t := v) (core := core) (f := f) (ctl := ctl)
      (val := fun x => cellMac v core f form ctl d0 d1 sc x.1 x.2) (macRange ctl)
    have hcells := macCells_fst (t := v) (core := core) (f := f) (ctl := ctl) form d0 d1 sc
    refine ⟨_, _, exec_mmacExecute_of_passed h hop hf hc hg hs, ?_, ?_, fun row col hrow hcol => ?_, fun x hx => ?_⟩
    · rw [hcells, hm']; rfl
    · rw [hcells, hm']; rfl
    · simp only [State.accAt_dropAsks_dropHost, hcells]
      exact State.accAt_setCells_in hwf (fun _ hx => hx) ((mem_macRange ctl (x := (row, col))).mpr ⟨hrow, hcol⟩)
    · rw [State.accAt_dropAsks_dropHost, hcells]
      exact State.accAt_setCells_out fun z hz => hx z.1 z.2 ((mem_macRange ctl).mp hz).1 ((mem_macRange ctl).mp hz).2
  · intro va w0 w1 w2 u v bs k off row a hop hf hc hk hoff hrow ha hr hw
    have hbeat := exec_mlidExecute_of_beat h hf hop hc hk hoff hrow ha hr hw
    refine ⟨_, rfl, fun hmore => ?_, fun hend hnext => ?_, fun hend hlast => ?_⟩
    · rw [hbeat, State.lidGoesOn, if_pos hmore]
    · rw [hbeat, State.lidGoesOn, if_neg (by omega), if_pos hnext]
    · rw [hbeat, State.lidGoesOn, if_neg (by omega), if_neg (by omega)]
  · intro ctl fcr rs0 d0 d1 u r off row n first count a x hop hf hc hr hoff hn hrow ha hfirst hcount hx hw
    subst hn
    have hbeat := exec_mdrnExecute_of_beat h hf hop hc hr hoff hrow ha hfirst hcount hx hw
    refine ⟨_, rfl, fun hmore => ?_, fun hend hnext => ?_, fun hend hlast => ?_⟩
    · rw [hbeat, State.drainGoesOn, if_pos hmore]
    · rw [hbeat, State.drainGoesOn, if_neg (by omega), if_pos hnext]
    · rw [hbeat, State.drainGoesOn, if_neg (by omega), if_neg (by omega)]

end Sys2Proof.Machine

namespace Sys2Proof.Machine

/-! ### Words of the maps (O2: R211–R223, R396) -/

/-- The round trip of every instruction, from the one of each word of the maps; operations and events have no word. -/
theorem roundtrip (i : Instr) : Laws.Roundtrip.Statement i := by
  open Laws in
  cases i with
  -- C-words
  | cnop => exact Roundtrip.cnop _ | halt => exact Roundtrip.halt _ | brk => exact Roundtrip.brk _ _ | br => exact Roundtrip.br _ _
  | jal => exact Roundtrip.jal _ _ | jr => exact Roundtrip.jr _ _ | jalr => exact Roundtrip.jalr _ _ _ | beq => exact Roundtrip.beq _ _ _ _
  | bne => exact Roundtrip.bne _ _ _ _ | bltS => exact Roundtrip.bltS _ _ _ _ | bgeS => exact Roundtrip.bgeS _ _ _ _
  | bltN => exact Roundtrip.bltN _ _ _ _ | bgeN => exact Roundtrip.bgeN _ _ _ _ | lp => exact Roundtrip.lp _ _ _ | lpi => exact Roundtrip.lpi _ _ _
  | ldbS => exact Roundtrip.ldbS _ _ _ _ _ _ | ldbN => exact Roundtrip.ldbN _ _ _ _ _ _ | ldhS => exact Roundtrip.ldhS _ _ _ _ _ _
  | ldhN => exact Roundtrip.ldhN _ _ _ _ _ _ | ldwS => exact Roundtrip.ldwS _ _ _ _ _ _ | ldwN => exact Roundtrip.ldwN _ _ _ _ _ _
  | ldd => exact Roundtrip.ldd _ _ _ _ _ _ | stb => exact Roundtrip.stb _ _ _ _ _ _ | sth => exact Roundtrip.sth _ _ _ _ _ _
  | stw => exact Roundtrip.stw _ _ _ _ _ _ | std => exact Roundtrip.std _ _ _ _ _ _ | ldv => exact Roundtrip.ldv _ _ _ _ _ _
  | stv => exact Roundtrip.stv _ _ _ _ _ _ | rcl => exact Roundtrip.rcl _ _ _ _ _ | vtag => exact Roundtrip.vtag _ _ _ _ _
  | vinit => exact Roundtrip.vinit _ _ _ _ _ _ | aswp => exact Roundtrip.aswp _ _ _ _ _ _ | aswpd => exact Roundtrip.aswpd _ _ _ _ _ _
  | acas => exact Roundtrip.acas _ _ _ _ _ _ | acasd => exact Roundtrip.acasd _ _ _ _ _ _ | aadd => exact Roundtrip.aadd _ _ _ _ _ _
  | aaddd => exact Roundtrip.aaddd _ _ _ _ _ _ | aand => exact Roundtrip.aand _ _ _ _ _ _ | aandd => exact Roundtrip.aandd _ _ _ _ _ _
  | aor => exact Roundtrip.aor _ _ _ _ _ _ | aord => exact Roundtrip.aord _ _ _ _ _ _ | axor => exact Roundtrip.axor _ _ _ _ _ _
  | axord => exact Roundtrip.axord _ _ _ _ _ _ | amaxS => exact Roundtrip.amaxS _ _ _ _ _ _ | amaxdS => exact Roundtrip.amaxdS _ _ _ _ _ _
  | aminS => exact Roundtrip.aminS _ _ _ _ _ _ | amindS => exact Roundtrip.amindS _ _ _ _ _ _ | amaxN => exact Roundtrip.amaxN _ _ _ _ _ _
  | amaxdN => exact Roundtrip.amaxdN _ _ _ _ _ _ | aminN => exact Roundtrip.aminN _ _ _ _ _ _ | amindN => exact Roundtrip.amindN _ _ _ _ _ _
  | afadd => exact Roundtrip.afadd _ _ _ _ _ _ | afmax => exact Roundtrip.afmax _ _ _ _ _ _ | afmin => exact Roundtrip.afmin _ _ _ _ _ _
  | fence => exact Roundtrip.fence _ _ _ | waitc => exact Roundtrip.waitc _ _ _ _ _ _ | vld => exact Roundtrip.vld _ _ _ _ _ _
  | vst => exact Roundtrip.vst _ _ _ _ _ _ | vldx => exact Roundtrip.vldx _ _ _ _ _ _ | vstx => exact Roundtrip.vstx _ _ _ _ _ _
  | csend => exact Roundtrip.csend _ _ _ _ | crecv => exact Roundtrip.crecv _ _ _ _ | csendb => exact Roundtrip.csendb _ _ _ _
  | crecvb => exact Roundtrip.crecvb _ _ _ _ | csendt => exact Roundtrip.csendt _ _ _ _ | crecvt => exact Roundtrip.crecvt _ _ _ _
  | cpoll => exact Roundtrip.cpoll _ _ _ | cclose => exact Roundtrip.cclose _ _ | csendp => exact Roundtrip.csendp _ _ _ _
  | crecvp => exact Roundtrip.crecvp _ _ _ _ | chsel => exact Roundtrip.chsel _ _ _ _ | chnew => exact Roundtrip.chnew _ _ _
  | chdel => exact Roundtrip.chdel _ _ | spawn => exact Roundtrip.spawn _ _ _ _ | spawnk => exact Roundtrip.spawnk _ _ _ _
  | callat => exact Roundtrip.callat _ _ _ _ | fork => exact Roundtrip.fork _ _ | join => exact Roundtrip.join _ _
  | jinit => exact Roundtrip.jinit _ _ _ | yield => exact Roundtrip.yield _ | park => exact Roundtrip.park _ _ _ | exit => exact Roundtrip.exit _ _
  | chprio => exact Roundtrip.chprio _ _ | binit => exact Roundtrip.binit _ _ _ | barr => exact Roundtrip.barr _ _ _
  | barw => exact Roundtrip.barw _ _ _ | ginit => exact Roundtrip.ginit _ _ _ | gkill => exact Roundtrip.gkill _ _
  | gquery => exact Roundtrip.gquery _ _ _ | mfs => exact Roundtrip.mfs _ _ _ | mts => exact Roundtrip.mts _ _ _ | trap => exact Roundtrip.trap _ _
  | tret => exact Roundtrip.tret _ | xinv => exact Roundtrip.xinv _ _ _ | mreq => exact Roundtrip.mreq _ _ | mrel => exact Roundtrip.mrel _
  | mfmt => exact Roundtrip.mfmt _ _ | mscl => exact Roundtrip.mscl _ _ _ | mlid => exact Roundtrip.mlid _ _ | mclr => exact Roundtrip.mclr _ _
  | mmac => exact Roundtrip.mmac _ _ _ | mmacc => exact Roundtrip.mmacc _ _ _ | mmacj => exact Roundtrip.mmacj _ _ _
  | mdrn => exact Roundtrip.mdrn _ _ _ | cpy => exact Roundtrip.cpy _ _ _ _ | tcpy => exact Roundtrip.tcpy _ _ _ _
  | deal => exact Roundtrip.deal _ _ _ _ | gath => exact Roundtrip.gath _ _ _ _ | cpost => exact Roundtrip.cpost _ _ _
  | fgload => exact Roundtrip.fgload _ _ _ | vclaim => exact Roundtrip.vclaim _ _ _ _ | vrenew => exact Roundtrip.vrenew _ _ _ _
  | vrel => exact Roundtrip.vrel _ | vloop => exact Roundtrip.vloop _ _ _ | vbind => exact Roundtrip.vbind _ _
  | vunbind => exact Roundtrip.vunbind _ _ | lic => exact Roundtrip.lic _ _ _ | ldnS => exact Roundtrip.ldnS _ _ _ _ _ _
  | ldnN => exact Roundtrip.ldnN _ _ _ _ _ _ | stn => exact Roundtrip.stn _ _ _ _ _ _ | sgen => exact Roundtrip.sgen _ _ _
  | srun => exact Roundtrip.srun _ _ | sstat => exact Roundtrip.sstat _ _ _ | hload => exact Roundtrip.hload _ _ _
  | hstart => exact Roundtrip.hstart _ _ _
  -- A-words
  | anop => exact Roundtrip.anop | add => exact Roundtrip.add _ _ _ | sub => exact Roundtrip.sub _ _ _ | andR => exact Roundtrip.andR _ _ _
  | orR => exact Roundtrip.orR _ _ _ | xor => exact Roundtrip.xor _ _ _ | andn => exact Roundtrip.andn _ _ _ | sll => exact Roundtrip.sll _ _ _
  | srl => exact Roundtrip.srl _ _ _ | sra => exact Roundtrip.sra _ _ _ | rol => exact Roundtrip.rol _ _ _ | addw => exact Roundtrip.addw _ _ _
  | subw => exact Roundtrip.subw _ _ _ | addsS => exact Roundtrip.addsS _ _ _ | addsN => exact Roundtrip.addsN _ _ _
  | subsS => exact Roundtrip.subsS _ _ _ | subsN => exact Roundtrip.subsN _ _ _ | addi => exact Roundtrip.addi _ _ _
  | andi => exact Roundtrip.andi _ _ _ | ori => exact Roundtrip.ori _ _ _ | xori => exact Roundtrip.xori _ _ _ | slli => exact Roundtrip.slli _ _ _
  | srli => exact Roundtrip.srli _ _ _ | srai => exact Roundtrip.srai _ _ _ | roli => exact Roundtrip.roli _ _ _ | mul => exact Roundtrip.mul _ _ _
  | mulhS => exact Roundtrip.mulhS _ _ _ | mulhN => exact Roundtrip.mulhN _ _ _ | mulw => exact Roundtrip.mulw _ _ _
  | divS => exact Roundtrip.divS _ _ _ | divN => exact Roundtrip.divN _ _ _ | remS => exact Roundtrip.remS _ _ _ | remN => exact Roundtrip.remN _ _ _
  | seq => exact Roundtrip.seq _ _ _ | sne => exact Roundtrip.sne _ _ _ | sltS => exact Roundtrip.sltS _ _ _ | sleS => exact Roundtrip.sleS _ _ _
  | sltN => exact Roundtrip.sltN _ _ _ | sleN => exact Roundtrip.sleN _ _ _ | minS => exact Roundtrip.minS _ _ _ | maxS => exact Roundtrip.maxS _ _ _
  | minN => exact Roundtrip.minN _ _ _ | maxN => exact Roundtrip.maxN _ _ _ | sel => exact Roundtrip.sel _ _ _ _ | clz => exact Roundtrip.clz _ _
  | ctz => exact Roundtrip.ctz _ _ | popc => exact Roundtrip.popc _ _ | brev => exact Roundtrip.brev _ _ | bswap => exact Roundtrip.bswap _ _
  | sextB => exact Roundtrip.sextB _ _ | sextH => exact Roundtrip.sextH _ _ | sextW => exact Roundtrip.sextW _ _ | zextW => exact Roundtrip.zextW _ _
  | bext => exact Roundtrip.bext _ _ _ | bins => exact Roundtrip.bins _ _ _ | lui => exact Roundtrip.lui _ _ _ | fadd => exact Roundtrip.fadd _ _ _
  | fsub => exact Roundtrip.fsub _ _ _ | fmul => exact Roundtrip.fmul _ _ _ | fdiv => exact Roundtrip.fdiv _ _ _ | fsqrt => exact Roundtrip.fsqrt _ _
  | fmin => exact Roundtrip.fmin _ _ _ | fmax => exact Roundtrip.fmax _ _ _ | fmint => exact Roundtrip.fmint _ _ _
  | fmaxt => exact Roundtrip.fmaxt _ _ _ | fabs => exact Roundtrip.fabs _ _ | fneg => exact Roundtrip.fneg _ _ | fsgnj => exact Roundtrip.fsgnj _ _ _
  | fmadd => exact Roundtrip.fmadd _ _ _ _ | fmsub => exact Roundtrip.fmsub _ _ _ _ | fnmadd => exact Roundtrip.fnmadd _ _ _ _
  | fnmsub => exact Roundtrip.fnmsub _ _ _ _ | feq => exact Roundtrip.feq _ _ _ | flt => exact Roundtrip.flt _ _ _ | fle => exact Roundtrip.fle _ _ _
  | funord => exact Roundtrip.funord _ _ _ | fclass => exact Roundtrip.fclass _ _ | fkey => exact Roundtrip.fkey _ _
  | fcvtF32S32 => exact Roundtrip.fcvtF32S32 _ _ | fcvtF32S64 => exact Roundtrip.fcvtF32S64 _ _ | fcvtS32F32 => exact Roundtrip.fcvtS32F32 _ _
  | fcvtS64F32 => exact Roundtrip.fcvtS64F32 _ _ | fcvtF32Bf16 => exact Roundtrip.fcvtF32Bf16 _ _ | fcvtBf16F32 => exact Roundtrip.fcvtBf16F32 _ _
  | fcvtF32E4m3 => exact Roundtrip.fcvtF32E4m3 _ _ | fcvtE4m3F32 => exact Roundtrip.fcvtE4m3F32 _ _ | fcvtF32E2m1 => exact Roundtrip.fcvtF32E2m1 _ _
  | fcvtE2m1F32 => exact Roundtrip.fcvtE2m1F32 _ _ | fcvtF32N32 => exact Roundtrip.fcvtF32N32 _ _ | fcvtN32F32 => exact Roundtrip.fcvtN32F32 _ _
  | vadd => exact Roundtrip.vadd _ _ _ _ _ | vsub => exact Roundtrip.vsub _ _ _ _ _ | vmul => exact Roundtrip.vmul _ _ _ _ _
  | vdiv => exact Roundtrip.vdiv _ _ _ _ _ | vmin => exact Roundtrip.vmin _ _ _ _ _ | vmax => exact Roundtrip.vmax _ _ _ _ _
  | vand => exact Roundtrip.vand _ _ _ _ _ | vor => exact Roundtrip.vor _ _ _ _ _ | vxor => exact Roundtrip.vxor _ _ _ _ _
  | vsll => exact Roundtrip.vsll _ _ _ _ _ | vsrl => exact Roundtrip.vsrl _ _ _ _ _ | vsra => exact Roundtrip.vsra _ _ _ _ _
  | vabs => exact Roundtrip.vabs _ _ _ _ | vneg => exact Roundtrip.vneg _ _ _ _ | vadds => exact Roundtrip.vadds _ _ _ _ _
  | vsubs => exact Roundtrip.vsubs _ _ _ _ _ | vfma => exact Roundtrip.vfma _ _ _ _ _ | vfms => exact Roundtrip.vfms _ _ _ _ _
  | vfnma => exact Roundtrip.vfnma _ _ _ _ _ | vfnms => exact Roundtrip.vfnms _ _ _ _ _ | vmadS => exact Roundtrip.vmadS _ _ _ _ _
  | vmadN => exact Roundtrip.vmadN _ _ _ _ _ | veq => exact Roundtrip.veq _ _ _ _ _ | vne => exact Roundtrip.vne _ _ _ _ _
  | vlt => exact Roundtrip.vlt _ _ _ _ _ | vle => exact Roundtrip.vle _ _ _ _ _ | vunord => exact Roundtrip.vunord _ _ _ _ _
  | vltt => exact Roundtrip.vltt _ _ _ _ _ | vmov => exact Roundtrip.vmov _ _ _ | vbcast => exact Roundtrip.vbcast _ _ _
  | vrot => exact Roundtrip.vrot _ _ _ _ | vshuf => exact Roundtrip.vshuf _ _ _ _ | vcomp => exact Roundtrip.vcomp _ _ _
  | vexpd => exact Roundtrip.vexpd _ _ _ | vins => exact Roundtrip.vins _ _ _ | vext => exact Roundtrip.vext _ _ _
  | vcvt => exact Roundtrip.vcvt _ _ _ _ _ | vexp => exact Roundtrip.vexp _ _ _ | vexp2 => exact Roundtrip.vexp2 _ _ _
  | vlog => exact Roundtrip.vlog _ _ _ | vlog2 => exact Roundtrip.vlog2 _ _ _ | vrcp => exact Roundtrip.vrcp _ _ _
  | vsqrt => exact Roundtrip.vsqrt _ _ _ | vrsqrt => exact Roundtrip.vrsqrt _ _ _ | vsin => exact Roundtrip.vsin _ _ _
  | vcos => exact Roundtrip.vcos _ _ _ | vtanh => exact Roundtrip.vtanh _ _ _ | vsigm => exact Roundtrip.vsigm _ _ _
  | verf => exact Roundtrip.verf _ _ _ | vrsum => exact Roundtrip.vrsum _ _ _ _ | vrmax => exact Roundtrip.vrmax _ _ _ _
  | vrmin => exact Roundtrip.vrmin _ _ _ _ | vrmaxt => exact Roundtrip.vrmaxt _ _ _ _ | vrmint => exact Roundtrip.vrmint _ _ _ _
  | vrand => exact Roundtrip.vrand _ _ _ _ | vror => exact Roundtrip.vror _ _ _ _ | vrxor => exact Roundtrip.vrxor _ _ _ _
  | vskq => exact Roundtrip.vskq _ _ _ _ | vskh => exact Roundtrip.vskh _ _ _ _ | vskd => exact Roundtrip.vskd _ _ _ _
  | skinit => exact Roundtrip.skinit _ _ | skmerge => exact Roundtrip.skmerge _ _ | skquant => exact Roundtrip.skquant _ _ _
  | skrank => exact Roundtrip.skrank _ _ _ | skest => exact Roundtrip.skest _ _ _ | skcount => exact Roundtrip.skcount _ _
  | mand => exact Roundtrip.mand _ _ _ | mor => exact Roundtrip.mor _ _ _ | mxor => exact Roundtrip.mxor _ _ _ | mandn => exact Roundtrip.mandn _ _ _
  | mnot => exact Roundtrip.mnot _ _ | mpop => exact Roundtrip.mpop _ _ | mfrst => exact Roundtrip.mfrst _ _ | mfromg => exact Roundtrip.mfromg _ _
  | mtog => exact Roundtrip.mtog _ _
  -- fabric words
  | xend => exact Roundtrip.xend | xadd => exact Roundtrip.xadd _ _ _ _ | xmax => exact Roundtrip.xmax _ _ _ _ | xmin => exact Roundtrip.xmin _ _ _ _
  | xmx6 => exact Roundtrip.xmx6 _ _ _ | xpack => exact Roundtrip.xpack _ _ _ | xunpk => exact Roundtrip.xunpk _ _ _
  | xmov => exact Roundtrip.xmov _ _ | xrecv => exact Roundtrip.xrecv _ _ | xemit => exact Roundtrip.xemit _ _
  | _ => exact event rfl rfl rfl

section
variable {i j : Instr}

/-- The words of the three maps are the instructions that have an encoding. -/
theorem encodeWord_isSome (i : Instr) : (encodeWord i).isSome = (isCWord i || isAWord i || isFabricWord i) := by
  cases i <;> rfl

/-- Only a C-word has a lone form (R212). -/
theorem isCWord_or_loneOf_isNone (i : Instr) : (isCWord i || (loneOf i).isNone) = true := by
  cases i <;> rfl

/-- The C-word map shares no instruction with the other two. -/
theorem isCWord_disjoint (i : Instr) : (isCWord i && (isAWord i || isFabricWord i)) = false := by
  cases i <;> rfl

theorem encode_length (h : (isCWord i || isAWord i || isFabricWord i) = true) :
    (encode i).length = if (loneOf i).isSome then 2 else 1 := by
  rw [← encodeWord_isSome, Option.isSome_iff_exists] at h
  obtain ⟨w, hw⟩ := h
  rw [encode, hw]
  cases loneOf i <;> rfl

theorem encode_length_of_not_lone (h : (isAWord i || isFabricWord i) = true) : (encode i).length = 1 := by
  have hc : isCWord i = false := by simpa [h] using isCWord_disjoint i
  have hl : loneOf i = none := by simpa [hc] using isCWord_or_loneOf_isNone i
  rw [encode_length (by simpa [hc] using h), hl]
  rfl

/-- Two instructions that one decoder gives back from the same words are the same. -/
theorem eq_of_decoded {r : Except DecodeErr Instr} (hi : r = .ok i) (hj : r = .ok j) : i = j := Except.ok.inj (hi.symm.trans hj)

end

/-- Settles O2: the round trip of each instruction; the number of words from whether there is an extension, and the injectivity
of each map from its decoder. -/
theorem decodingUndoesEncoding : Obligations.DecodingUndoesEncoding := by
  refine ⟨fun i hi => ?_, fun i j hi hj hwords hmap => ?_⟩
  · obtain ⟨hC, hA, hX⟩ := roundtrip i hi
    exact ⟨fun h => ⟨hC h, encode_length (by simp [h])⟩, fun h => ⟨hA h, encode_length_of_not_lone (by simp [h])⟩,
      fun h => ⟨hX h, encode_length_of_not_lone (by simp [h])⟩⟩
  · obtain ⟨hiC, hiA, hiX⟩ := roundtrip i hi
    obtain ⟨hjC, hjA, hjX⟩ := hwords ▸ roundtrip j hj
    rcases hmap with ⟨ci, cj⟩ | ⟨ai, aj⟩ | ⟨xi, xj⟩
    · exact eq_of_decoded (hiC ci) (hjC cj)
    · exact eq_of_decoded (hiA ai) (hjA aj)
    · exact eq_of_decoded (hiX xi) (hjX xj)

end Sys2Proof.Machine

namespace Sys2Proof.Machine

/-! ### Bundles that do not issue (O22: R211, R213–R215, R220, R221, R277, R409) -/

/-! #### The words of a bundle -/

section
variable {lo hi : Nat} {c a : Instr} {e : DecodeErr}

theorem bitsOf_lone (h : lo < 2 ^ 32) : bitsOf lo 31 1 = 1 ↔ 2 ^ 31 ≤ lo := by
  unfold bitsOf
  omega

theorem decodeBundle_of_cError (h : decodeC lo hi = .error e) : decodeBundle lo hi = .error (e, lo) := by
  simp only [decodeBundle, h]

theorem decodeBundle_of_lone (hc : decodeC lo hi = .ok c) (hl : bitsOf lo 31 1 = 1) : decodeBundle lo hi = .ok { c := c, a := none } := by
  simp only [decodeBundle, hc, if_pos hl]

theorem decodeBundle_of_aError (hc : decodeC lo hi = .ok c) (hl : ¬ bitsOf lo 31 1 = 1) (ha : decodeA hi = .error e) :
    decodeBundle lo hi = .error (e, hi) := by
  simp only [decodeBundle, hc, if_neg hl, ha]

theorem decodeBundle_of_pair (hc : decodeC lo hi = .ok c) (hl : ¬ bitsOf lo 31 1 = 1) (ha : decodeA hi = .ok a) :
    decodeBundle lo hi = .ok { c := c, a := some a } := by
  simp only [decodeBundle, hc, if_neg hl, ha]

end

/-! #### What the fetched words lead to -/

section
variable {s u : State} {lo hi w : Nat} {b : Bundle} {c : Instr} {e : DecodeErr} {cause : Nat} {tval : Word}

theorem State.firstBad_of_cError (h : decodeC lo (s.ir.toNat / 2 ^ 32) = .error e) : s.firstBad lo lo = lo := by
  simp only [State.firstBad, h]

theorem State.firstBad_of_decoded (h : decodeC lo (s.ir.toNat / 2 ^ 32) = .ok c) :
    s.firstBad lo w = if s.foreignWord c then lo else w := by
  simp only [State.firstBad, h]

/-- A lasting error of the core's instruction path stops the fetch (R409). -/
theorem fetchBundle_of_lasting (h : 2 ≤ s.unitErrors s.cur.core 0) :
    fetchBundle s = .error ((s.parityGuard s.cur.core 0).2.raiseIssue 0x182 0) := by
  simp only [fetchBundle, State.parityGuard_lasting h, Bool.false_eq_true, if_false]

section
variable (hredo : s.cur.redo = []) (hfetch : fetchBundle s = .ok u)
include hredo hfetch

theorem issueBundle_of_zeroWord (hlo : u.ir.toNat % 2 ^ 32 = 0) : issueBundle s = raiseO u 0x002 u.cur.pc := by
  unfold issueBundle
  simp only [hredo, hfetch]
  rw [if_pos hlo]

variable (hlo : u.ir.toNat % 2 ^ 32 ≠ 0)
include hlo

theorem issueBundle_of_undecoded (hdecode : decodeBundle (u.ir.toNat % 2 ^ 32) (u.ir.toNat / 2 ^ 32) = .error (e, w)) :
    issueBundle s = raiseO u 0x001 (BitVec.ofNat 64 (u.firstBad (u.ir.toNat % 2 ^ 32) w)) := by
  unfold issueBundle
  simp only [hredo, hfetch]
  rw [if_neg hlo]
  simp only [hdecode]

variable (hdecode : decodeBundle (u.ir.toNat % 2 ^ 32) (u.ir.toNat / 2 ^ 32) = .ok b)
include hdecode

theorem issueBundle_of_refused (hcheck : decodeCheck u b = some (cause, tval)) : issueBundle s = raiseO u cause tval := by
  unfold issueBundle
  simp only [hredo, hfetch]
  rw [if_neg hlo]
  simp only [hdecode, hcheck]

theorem issueBundle_of_pending (hcheck : decodeCheck u b = none) (hpend : bundlePending u.cur b = true) :
    issueBundle s = .next u.stall := by
  unfold issueBundle
  simp only [hredo, hfetch]
  rw [if_neg hlo]
  simp only [hdecode, hcheck]
  rw [if_pos hpend]

/-- A transfer may not stand at the END of a live loop (R277). -/
theorem issueBundle_of_loopEnd (hcheck : decodeCheck u b = none) (hpend : bundlePending u.cur b = false)
    (htrans : transfers b.c = true) (hend : u.atLoopEnd = true) : issueBundle s = raiseO u 0x004 u.cword := by
  unfold issueBundle
  simp only [hredo, hfetch]
  rw [if_neg hlo]
  simp only [hdecode, hcheck]
  rw [if_neg (by simp [hpend]), if_pos (by simp [htrans, hend])]

end

end

/-! #### The checks of the decoded words on a core (R213, R220, R221) -/

section
variable {s : State} {b : Bundle}

theorem any_toList {α : Type} (p : α → Bool) (o : Option α) : o.toList.any p = o.any p := by
  cases o <;> simp

theorem State.foreignWord_of_core (h : s.cur.isHelper = false) : s.foreignWord = helperOnly := by
  funext i
  simp only [State.foreignWord, h, Bool.false_eq_true, if_false]

theorem decodeCheck_of_helperC (h : s.cur.isHelper = false) (hc : helperOnly b.c = true) : decodeCheck s b = some (0x001, s.cword) := by
  simp only [decodeCheck, State.foreignWord_of_core h, hc, if_true]

theorem decodeCheck_of_helperA (h : s.cur.isHelper = false) (hc : helperOnly b.c = false) (ha : b.a.any helperOnly = true) :
    decodeCheck s b = some (0x001, s.aword) := by
  simp only [decodeCheck, State.foreignWord_of_core h, hc, ha, Bool.false_eq_true, if_false, if_true]

/-! Words that the core executes. -/

section
variable (h : s.cur.isHelper = false) (hc : helperOnly b.c = false) (ha : b.a.any helperOnly = false)
include h hc ha

theorem decodeCheck_of_conflict {k : Nat} (hk : (b.a.bind fun a => conflictOf b.c a s.cur.fcr) = some k) :
    decodeCheck s b = some (0x003, BitVec.ofNat 64 k) := by
  simp only [decodeCheck, State.foreignWord_of_core h, hc, ha, hk, Bool.false_eq_true, if_false]

theorem decodeCheck_of_noConflict (hk : (b.a.bind fun a => conflictOf b.c a s.cur.fcr) = none) : decodeCheck s b =
    if (supervisorOnly b.c || b.a.any supervisorOnly) && !(s.desc s.cur.ctx).sup then some (0x005, s.cword) else none := by
  simp only [decodeCheck, State.foreignWord_of_core h, hc, ha, hk, Bool.false_eq_true, if_false, List.any_cons, any_toList]

end

end

theorem supervisorOnly_iff (i : Instr) : supervisorOnly i = true ↔
    (∃ l k a, i = .xinv l k a) ∨ (∃ l d x, i = .mfs l d x ∧ 0x100 ≤ x.toNat) ∨ (∃ l x a, i = .mts l a x ∧ 0x100 ≤ x.toNat) := by
  unfold supervisorOnly
  split <;> simp_all

/-- Settles O22: the fetched words by the order in which they are looked at, the checks of decoded words by theirs. -/
theorem bundlesAreDecodedBeforeTheyIssue : Obligations.BundlesAreDecodedBeforeTheyIssue := by
  refine ⟨fun s u lo hi hredo hfetch hlo hhi => ?_, fun s => fetchBundle_of_lasting, fun s b hcore => ?_, supervisorOnly_iff⟩
  · subst hlo hhi
    have hlone := bitsOf_lone (Nat.mod_lt u.ir.toNat (show 0 < 2 ^ 32 by decide))
    refine ⟨issueBundle_of_zeroWord hredo hfetch, fun hlo => ⟨fun e he => ?_, fun c hc => ⟨fun hpair e he => ?_, fun b hb => ?_⟩⟩⟩
    · rw [issueBundle_of_undecoded hredo hfetch hlo (decodeBundle_of_cError he), State.firstBad_of_cError he]
    · rw [issueBundle_of_undecoded hredo hfetch hlo (decodeBundle_of_aError hc (mt hlone.mp (by omega)) he),
        State.firstBad_of_decoded hc]
    have hdecode : decodeBundle (u.ir.toNat % 2 ^ 32) (u.ir.toNat / 2 ^ 32) = .ok b ∧ b.c = c := by
      obtain ⟨hpair, a, ha, rfl⟩ | ⟨hL, rfl⟩ := hb
      · exact ⟨decodeBundle_of_pair hc (mt hlone.mp (by omega)) ha, rfl⟩
      · exact ⟨decodeBundle_of_lone hc (hlone.mpr hL), rfl⟩
    obtain ⟨hdecode, rfl⟩ := hdecode
    exact ⟨fun _ _ => issueBundle_of_refused hredo hfetch hlo hdecode, issueBundle_of_pending hredo hfetch hlo hdecode,
      issueBundle_of_loopEnd hredo hfetch hlo hdecode⟩
  · refine ⟨decodeCheck_of_helperC hcore, fun hc a hba ha => decodeCheck_of_helperA hcore hc (by simp [hba, ha]), fun hc ha => ?_⟩
    rw [← Option.any_eq_false] at ha
    refine ⟨fun a k hba hk => decodeCheck_of_conflict hcore hc ha (by simp [hba, hk]), fun hnone => ?_⟩
    rw [decodeCheck_of_noConflict hcore hc ha (Option.bind_eq_none_iff.mpr hnone), ← Option.any_eq_true, ← Option.any_eq_false]
    refine ⟨fun hsup hctx => if_pos ?_, fun hsup => if_neg ?_⟩
    · simpa [hctx] using hsup
    · rcases hsup with ⟨hC, hA⟩ | hctx
      · simp [hC, hA]
      · simp [hctx]

end Sys2Proof.Machine

namespace Sys2Proof.Machine

/-! ### New values of atomics (O31: R222, R284) -/

section
variable {w : Nat} (x b : BitVec w)

theorem sInt_toNat : sInt x.toNat w = x.toInt := by
  rw [sInt, Nat.mod_eq_of_lt x.isLt, BitVec.toInt_eq_toNat_cond]
  push_cast
  split <;> split <;> omega

theorem max_toNat : max x.toNat b.toNat = (if b.toNat ≤ x.toNat then x else b).toNat := by
  rw [apply_ite BitVec.toNat, max_comm, Nat.max_def]

theorem min_toNat : min x.toNat b.toNat = (if x.toNat ≤ b.toNat then x else b).toNat := by
  rw [apply_ite BitVec.toNat, Nat.min_def]

end

/-! One rule per row of R284 for an access of `n` bytes; the function is half its value, whose lowest bit is the size (R222). -/

section
variable {n : Nat} {f : BitVec 5} {x b c : BitVec (8 * n)}

theorem atomNew_swap (hf : f.toNat / 2 = 0) : atomNew f n x.toNat b.toNat c.toNat = (some b.toNat, 0) := by
  simp only [atomNew, hf, Nat.mod_eq_of_lt b.isLt]

theorem atomNew_cas (hf : f.toNat / 2 = 1) :
    atomNew f n x.toNat b.toNat c.toNat = (if x = c then some b.toNat else none, 0) := by
  simp only [atomNew, hf, Nat.mod_eq_of_lt b.isLt, Nat.mod_eq_of_lt c.isLt, BitVec.toNat_inj]

theorem atomNew_add (hf : f.toNat / 2 = 2) : atomNew f n x.toNat b.toNat c.toNat = (some (x + b).toNat, 0) := by
  simp only [atomNew, hf, Nat.mod_eq_of_lt b.isLt, BitVec.toNat_add]

theorem atomNew_and (hf : f.toNat / 2 = 3) : atomNew f n x.toNat b.toNat c.toNat = (some (x &&& b).toNat, 0) := by
  simp only [atomNew, hf, Nat.mod_eq_of_lt b.isLt, BitVec.toNat_and]

theorem atomNew_or (hf : f.toNat / 2 = 4) : atomNew f n x.toNat b.toNat c.toNat = (some (x ||| b).toNat, 0) := by
  simp only [atomNew, hf, Nat.mod_eq_of_lt b.isLt, BitVec.toNat_or]

theorem atomNew_xor (hf : f.toNat / 2 = 5) : atomNew f n x.toNat b.toNat c.toNat = (some (x ^^^ b).toNat, 0) := by
  simp only [atomNew, hf, Nat.mod_eq_of_lt b.isLt, BitVec.toNat_xor]

theorem atomNew_maxS (hf : f.toNat / 2 = 6) :
    atomNew f n x.toNat b.toNat c.toNat = (some (if b.toInt ≤ x.toInt then x else b).toNat, 0) := by
  simp only [atomNew, hf, Nat.mod_eq_of_lt b.isLt, sInt_toNat, ge_iff_le, apply_ite BitVec.toNat]

theorem atomNew_minS (hf : f.toNat / 2 = 7) :
    atomNew f n x.toNat b.toNat c.toNat = (some (if x.toInt ≤ b.toInt then x else b).toNat, 0) := by
  simp only [atomNew, hf, Nat.mod_eq_of_lt b.isLt, sInt_toNat, apply_ite BitVec.toNat]

theorem atomNew_maxN (hf : f.toNat / 2 = 8) :
    atomNew f n x.toNat b.toNat c.toNat = (some (if b.toNat ≤ x.toNat then x else b).toNat, 0) := by
  simp only [atomNew, hf, Nat.mod_eq_of_lt b.isLt, max_toNat]

theorem atomNew_minN (hf : f.toNat / 2 = 9) :
    atomNew f n x.toNat b.toNat c.toNat = (some (if x.toNat ≤ b.toNat then x else b).toNat, 0) := by
  simp only [atomNew, hf, Nat.mod_eq_of_lt b.isLt, min_toNat]

end

/-- A sum with a NaN is the canonical NaN with NV (R284). -/
theorem atomNew_afadd_nan {x b : BitVec 32} (c : Nat) (h : isNaN32 x = true ∨ isNaN32 b = true) :
    atomNew 20 4 x.toNat b.toNat c = (some 0x7FC00000, flNV) := by
  have hb : b.toNat % 2 ^ (8 * 4) = b.toNat := Nat.mod_eq_of_lt b.isLt
  have hnan : (isNaN32 x || isNaN32 b) = true := by simpa using h
  change (if isNaN32 (BitVec.ofNat 32 x.toNat) || isNaN32 (BitVec.ofNat 32 (b.toNat % 2 ^ (8 * 4))) then _ else _) = _
  rw [hb, BitVec.ofNat_toNat, BitVec.ofNat_toNat, BitVec.setWidth_eq, BitVec.setWidth_eq, if_pos hnan]

/-- Settles O31: each function by its row, at both widths. -/
theorem atomicsComputeTheirNewValue : Obligations.AtomicsComputeTheirNewValue :=
  ⟨fun _ _ c => ⟨atomNew_swap rfl, atomNew_cas rfl, atomNew_add rfl, atomNew_and rfl, atomNew_or rfl, atomNew_xor rfl,
      atomNew_maxS rfl, atomNew_minS rfl, atomNew_maxN rfl, atomNew_minN rfl, atomNew_afadd_nan c.toNat⟩,
    fun _ _ _ => ⟨atomNew_swap rfl, atomNew_cas rfl, atomNew_add rfl, atomNew_and rfl, atomNew_or rfl, atomNew_xor rfl,
      atomNew_maxS rfl, atomNew_minS rfl, atomNew_maxN rfl, atomNew_minN rfl⟩⟩

end Sys2Proof.Machine

namespace Sys2Proof.Machine

/-- Settles O1, by running the decoders on each word. -/
theorem wordsOfTheSpecDecode : Obligations.WordsOfTheSpecDecode := by
  have hzero : decodeC 0 0 = .error .zeroWord := rfl
  have hselector : decodeC 0x02C00000 0 = .error .reservedFunction := rfl
  have hamaj : decodeA 1 = .error .reservedMajor := rfl
  have hop : decodeX 0x28000000 = .error .reservedMajor := rfl
  unfold Obligations.WordsOfTheSpecDecode
  rw [hzero, hselector, hamaj, hop]
  refine ⟨rfl, rfl, rfl, rfl, rfl, rfl, rfl, rfl, rfl, rfl, rfl, rfl, rfl, rfl, rfl, rfl, rfl, rfl, rfl, rfl, rfl, rfl, rfl, rfl, rfl, rfl,
    rfl, rfl, rfl, rfl, rfl, ?_, ?_, ?_, ?_⟩ <;> exact fun _ h => by cases h

end Sys2Proof.Machine

namespace Sys2Proof.Machine

/-! ### Integer sums, logic and shifts (O9: R219, R261, R262, R266) -/

/-- A shift count: the low six bits (R261). -/
theorem field_low6 (x : Word) : field x 0 6 = x.toNat % 64 := by simp [field]

theorem signExtend_low32 (x : Word) : signExtend x.toNat 32 = (x.setWidth 32).signExtend 64 := by
  rw [signExtend, BitVec.ofNat_toNat]

/-- The halfword that `lui` replaces (R266). -/
theorem setField_halfword (x : Word) (k : BitVec 2) (i : BitVec 16) : setField x (16 * k.toNat) 16 i.toNat =
    (x &&& ~~~(0xFFFF#64 <<< (16 * k.toNat))) ||| (i.setWidth 64 <<< (16 * k.toNat)) := by
  apply BitVec.eq_of_getLsbD_eq
  intro j hj
  have hones : (0xFFFF#64).getLsbD (j - 16 * k.toNat) = decide (j - 16 * k.toNat < 16) := by
    rw [show (0xFFFF#64) = BitVec.ofNat 64 (2 ^ 16 - 1) from rfl, BitVec.getLsbD_ofNat, Nat.testBit_two_pow_sub_one,
      decide_eq_true (by omega), Bool.true_and]
  rw [getLsbD_setField x hj]
  simp only [BitVec.getLsbD_or, BitVec.getLsbD_and, BitVec.getLsbD_not, BitVec.getLsbD_shiftLeft, BitVec.getLsbD_setWidth, hones, hj,
    decide_true, Bool.true_and]
  by_cases hlo : j < 16 * k.toNat
  · simp [hlo, Nat.not_le.mpr hlo]
  by_cases hhi : j - 16 * k.toNat < 16
  · rw [if_pos (by omega)]
    simp [hlo, hhi, BitVec.getLsbD, show j - 16 * k.toNat < 64 by omega]
  · rw [if_neg (by omega)]
    simp [hhi, BitVec.getLsbD_of_ge i _ (Nat.not_lt.mp hhi)]

/-- At most one of the two bounds is passed, so their order does not count. -/
theorem clampI_eq {x lo hi : Int} (h : lo ≤ hi) :
    clampI x lo hi = if x < lo then (lo, flSAT) else if hi < x then (hi, flSAT) else (x, 0) := by
  unfold clampI
  by_cases hx : x < lo
  · rw [if_pos hx, if_neg (by omega), if_pos hx]
  · simp only [if_neg hx, gt_iff_lt]

section
variable (s : State) (d : Reg) {a b : Word} {x y : Int}

/-- A signed result is delivered with SAT where it passes a bound of 64 bits (R238, R261). -/
theorem State.setClamped_clampS (h : x = y) : s.setClamped d (clampS y) =
    if x < -(2 ^ 63) then s.setClamped d (BitVec.ofInt 64 (-(2 ^ 63)), flSAT)
    else if 2 ^ 63 - 1 < x then s.setClamped d (BitVec.ofInt 64 (2 ^ 63 - 1), flSAT)
    else s.setClamped d (BitVec.ofInt 64 x, 0) := by
  rw [clampS, ← h, clampI_eq (by decide)]
  split_ifs <;> rfl

/-- A sum of unsigned numbers is not negative, so it can pass the upper bound only. -/
theorem State.setClamped_addSatN (h : x = (a.toNat : Int) + b.toNat) : s.setClamped d (addSatN a b) =
    if 2 ^ 64 - 1 < x then s.setClamped d (BitVec.ofInt 64 (2 ^ 64 - 1), flSAT)
    else s.setClamped d (BitVec.ofInt 64 x, 0) := by
  rw [addSatN, ← h, clampI_eq (by decide), if_neg (by omega)]
  split_ifs <;> rfl

/-- A difference of unsigned numbers is below 2^64, so it can pass the lower bound only. -/
theorem State.setClamped_subSatN (h : x = (a.toNat : Int) - b.toNat) : s.setClamped d (subSatN a b) =
    if x < 0 then s.setClamped d (0, flSAT) else s.setClamped d (BitVec.ofInt 64 x, 0) := by
  have ha := a.isLt
  rw [subSatN, ← h, clampI_eq (by decide), if_neg (show ¬ (2 ^ 64 - 1 : Int) < x by omega)]
  split_ifs <;> rfl

end

/-- Settles O9: by the lemmas above where the model gives a row in other words than the statement. -/
theorem integerSumsLogicAndShifts : Obligations.IntegerSumsLogicAndShifts := by
  intro s d a b
  have put {x y : Word} (h : x = y) : (.next (s.setG d x) : Out) = .next (s.setG d y) := by rw [h]
  have shift (f : Nat → Word) := put (congrArg f (field_low6 (s.g b)))
  exact ⟨rfl, rfl, rfl, rfl, rfl, rfl, rfl, shift fun n => s.g a <<< n, shift fun n => s.g a >>> n, shift (s.g a).sshiftRight,
    shift (s.g a).rotateLeft, put (signExtend_low32 _), put (signExtend_low32 _),
    fun _ h => congrArg _ (s.setClamped_clampS d h), fun _ h => congrArg _ (s.setClamped_addSatN d h),
    fun _ h => congrArg _ (s.setClamped_clampS d h), fun _ h => congrArg _ (s.setClamped_subSatN d h),
    fun i => ⟨rfl, rfl, rfl, rfl, fun k => put (setField_halfword _ k i)⟩, fun _ => ⟨rfl, rfl, rfl, rfl⟩⟩

end Sys2Proof.Machine

namespace Sys2Proof.Machine

/-! ### Rounding (O15: R232, R236, R240) -/

section
variable {md : Mode} {neg : Bool} {m : Nat} {e q : Int}

/-- A finer unit holds the value exactly, and nothing is drawn. -/
theorem quantize_of_le (h : q ≤ e) : quantize md neg m e q = (m * 2 ^ (e - q).toNat, false, md.rs) :=
  if_pos h

/-! At a coarser unit of `p` finer ones the number is the lower neighbour or, with a remainder that rounds up, the upper. -/

section
variable {p : Nat} (h : e < q) (hp : p = 2 ^ (q - e).toNat)
include h hp

theorem quantize_of_lt : quantize md neg m e q =
    if m % p = 0 then (m / p, false, md.rs)
    else (if (roundsUp md neg (m / p) (m % p) (q - e).toNat).1 then m / p + 1 else m / p, true,
      (roundsUp md neg (m / p) (m % p) (q - e).toNat).2) := by
  subst hp
  exact if_neg (by omega)

theorem quantize_inexact_iff : (quantize md neg m e q).2.1 = true ↔ m % p ≠ 0 := by
  rw [quantize_of_lt h hp]
  split
  next hr => exact iff_of_false Bool.false_ne_true (not_not.mpr hr)
  next hr => exact iff_of_true rfl hr

theorem quantize_lower (hup : m % p ≠ 0 → (roundsUp md neg (m / p) (m % p) (q - e).toNat).1 = false) :
    (quantize md neg m e q).1 = m / p := by
  rw [quantize_of_lt h hp]
  split
  · rfl
  next hr => simp [hup hr]

theorem quantize_upper (hr : m % p ≠ 0) (hup : (roundsUp md neg (m / p) (m % p) (q - e).toNat).1 = true) :
    (quantize md neg m e q).1 = m / p + 1 := by
  rw [quantize_of_lt h hp, if_neg hr, if_pos hup]

theorem quantize_of_mod_eq_zero (hr : m % p = 0) : (quantize md neg m e q).1 * p = m := by
  rw [quantize_lower h hp (absurd hr), Nat.div_mul_cancel (Nat.dvd_of_mod_eq_zero hr)]

/-- Where no remainder rounds up, `m` lies in the unit above the number. -/
theorem quantize_bounds_of_down (hup : ∀ n r s, (roundsUp md neg n r s).1 = false) :
    (quantize md neg m e q).1 * p ≤ m ∧ m < ((quantize md neg m e q).1 + 1) * p := by
  rw [quantize_lower h hp fun _ => hup ..]
  exact ⟨Nat.div_mul_le_self m p, Nat.lt_mul_of_div_lt (Nat.lt_succ_self _) (hp ▸ Nat.two_pow_pos _)⟩

/-- Where each remainder rounds up, `m` lies in the unit below the number. -/
theorem quantize_bounds_of_up (hup : ∀ n r s, (roundsUp md neg n r s).1 = true) :
    m ≤ (quantize md neg m e q).1 * p ∧ (quantize md neg m e q).1 * p < m + p := by
  have hppos : 0 < p := hp ▸ Nat.two_pow_pos _
  by_cases hr : m % p = 0
  · rw [quantize_of_mod_eq_zero h hp hr]
    omega
  · have hdiv := Nat.div_add_mod' m p
    have hlt := Nat.mod_lt m hppos
    rw [quantize_upper h hp hr (hup ..), Nat.add_one_mul]
    omega

end

/-! Which remainders `r` of 2^s round away from the lower neighbour `n` (R236). -/

section
variable (n r s : Nat)

theorem roundsUp_nearest (h : md.rm = 0) :
    (roundsUp md neg n r s).1 = true ↔ 2 ^ s < 2 * r ∨ 2 * r = 2 ^ s ∧ n % 2 = 1 := by
  simp [roundsUp, h]

theorem roundsUp_towardZero (h : md.rm = 1) : (roundsUp md neg n r s).1 = false := by simp only [roundsUp, h]

theorem roundsUp_down (h : md.rm = 2) : (roundsUp md neg n r s).1 = neg := by simp only [roundsUp, h]

theorem roundsUp_up (h : md.rm = 3) : (roundsUp md neg n r s).1 = !neg := by simp only [roundsUp, h]

end

/-- To nearest the number is at most half a unit away, and even at exactly half of it. -/
theorem quantize_nearest {p : Nat} (h : e < q) (hp : p = 2 ^ (q - e).toNat) (hrm : md.rm = 0) :
    2 * (((quantize md neg m e q).1 : Int) * p - m).natAbs ≤ p ∧
      (2 * (((quantize md neg m e q).1 : Int) * p - m).natAbs = p → (quantize md neg m e q).1 % 2 = 0) := by
  have hdiv := Nat.div_add_mod' m p
  have hlt : m % p < p := Nat.mod_lt m (hp ▸ Nat.two_pow_pos _)
  have hiff := roundsUp_nearest (neg := neg) (m / p) (m % p) (q - e).toNat hrm
  rw [← hp] at hiff
  by_cases hup : m % p ≠ 0 ∧ (roundsUp md neg (m / p) (m % p) (q - e).toNat).1 = true
  · have hhalf := hiff.mp hup.2
    have habs : (((m / p + 1 : Nat) : Int) * p - m).natAbs = p - m % p := by
      rw [← Nat.cast_mul, Nat.add_one_mul]
      omega
    rw [quantize_upper h hp hup.1 hup.2, habs]
    omega
  · have hhalf : ¬ (p < 2 * (m % p) ∨ 2 * (m % p) = p ∧ m / p % 2 = 1) := fun hh => hup ⟨by omega, hiff.mpr hh⟩
    have habs : (((m / p : Nat) : Int) * p - m).natAbs = m % p := by
      rw [← Nat.cast_mul]
      omega
    rw [quantize_lower h hp fun hr => by simpa [hr] using hup, habs]
    omega

end

/-! #### Values of the grid of a format -/

theorem bitLen_of_mem {n t : Nat} (hlo : 2 ^ t ≤ n) (hhi : n < 2 ^ (t + 1)) : bitLen n = t + 1 := by
  have hn : n ≠ 0 := by have := Nat.two_pow_pos t; omega
  rw [bitLen, if_neg hn, (Nat.log2_eq_iff hn).mpr ⟨hlo, hhi⟩]

theorem bitLen_le {n t : Nat} (h : n < 2 ^ t) : bitLen n ≤ t := by
  rw [bitLen]
  split
  · exact Nat.zero_le t
  next hn => exact (Nat.log2_lt hn).mpr h

/-- A finite number whose unit is the one that its magnitude rounds to is delivered as it is (R240). -/
theorem roundF_of_grid {f : Fmt} {md : Mode} {neg : Bool} {m : Nat} {e : Int} (hm : m ≠ 0) (hflush : md.flush = false)
    (hunit : (if (bitLen m : Int) - 1 + e < 1 - (f.bias : Int) then 1 - (f.bias : Int) else (bitLen m : Int) - 1 + e) - f.mb = e)
    (hmax : aboveMax f m e = false) : roundF f md neg m e = exactRes (packF f neg m e) 0 md := by
  have hq : quantize md neg m e e = (m, false, md.rs) := by simp [quantize_of_le (Int.le_refl e)]
  unfold roundF
  simp [hm, hunit, hq, hmax, hflush, exactRes]

/-! #### The patterns of f32 (R232) -/

section
variable {neg : Bool} {m : Nat} {e : Int}

/-- The finite f32 values end below 2^24 units of 2^104. -/
theorem aboveMax_f32 (hm : m < 2 ^ 24) (he : e ≤ 104) : aboveMax fmtF32 m e = false := by
  have hdec : decodeF fmtF32 (maxFinite fmtF32) = .fin false (2 ^ 24 - 1) 104 := by decide
  simp only [aboveMax, hdec]
  have hpos := Nat.two_pow_pos (104 - e).toNat
  split
  next hge =>
    obtain rfl : e = 104 := by omega
    simp; omega
  · have : m ≤ (2 ^ 24 - 1) * 2 ^ (104 - e).toNat := (Nat.le_sub_one_of_lt hm).trans (Nat.le_mul_of_pos_right _ hpos)
    simpa using this

/-- A subnormal number is packed as its fraction. -/
theorem packF_f32_subnormal (hm : m < 2 ^ 23) : packF fmtF32 neg m (-149) = signOf fmtF32 neg + m := by
  have := bitLen_le hm
  have htiny : ((bitLen m - 1 : Nat) : Int) + -149 < -126 := by omega
  unfold packF fmtF32
  simp [htiny]

/-- A normal number is packed as its exponent field and its significand without the leading one. -/
theorem packF_f32_normal {x : Nat} (hx : x ≠ 0) (hlo : 2 ^ 23 ≤ m) (hhi : m < 2 ^ 24) :
    packF fmtF32 neg m (x - 150) = signOf fmtF32 neg + (x * 2 ^ 23 + (m - 2 ^ 23)) := by
  have hbig : ¬ (23 + ((x : Int) - 150) < -126) := by omega
  have hexp : (23 + ((x : Int) - 150) + 127).toNat = x := by omega
  unfold packF fmtF32
  simp [bitLen_of_mem hlo hhi, hbig, hexp]

theorem roundF_f32_zero {md : Mode} : roundF fmtF32 md neg 0 e = exactRes (signOf fmtF32 neg) 0 md := rfl

theorem roundF_f32_subnormal {md : Mode} (hflush : md.flush = false) (hm : m < 2 ^ 23) :
    roundF fmtF32 md neg m (-149) = exactRes (signOf fmtF32 neg + m) 0 md := by
  by_cases h0 : m = 0
  · subst h0; exact roundF_f32_zero
  · have := bitLen_le hm
    have hunit : (bitLen m : Int) - 1 + -149 < 1 - (fmtF32.bias : Int) := by change _ < (1 - 127 : Int); omega
    rw [roundF_of_grid h0 hflush (by rw [if_pos hunit]; rfl) (aboveMax_f32 (by omega) (by decide)), packF_f32_subnormal hm]

theorem roundF_f32_normal {md : Mode} {x : Nat} (hflush : md.flush = false) (hx : x ≠ 0) (hmax : x < 255) (hlo : 2 ^ 23 ≤ m)
    (hhi : m < 2 ^ 24) : roundF fmtF32 md neg m (x - 150) = exactRes (signOf fmtF32 neg + (x * 2 ^ 23 + (m - 2 ^ 23))) 0 md := by
  have hunit : ¬ ((24 : Nat) : Int) - 1 + (x - 150) < 1 - (fmtF32.bias : Int) := by change ¬ (_ < (1 - 127 : Int)); omega
  have hgrid : ((24 : Nat) : Int) - 1 + (x - 150) - (fmtF32.mb : Int) = x - 150 := by change _ - (23 : Int) = _; omega
  rw [roundF_of_grid (by omega) hflush (by rw [bitLen_of_mem hlo hhi, if_neg hunit, hgrid]) (aboveMax_f32 hhi (by omega)),
    packF_f32_normal hx hlo hhi]

end

/-- The value of an f32 pattern by its sign, its exponent field and its fraction (R232). -/
theorem decodeF_f32 (b : Nat) : decodeF fmtF32 b =
    if b / 2 ^ 23 % 256 = 255 then
      if b % 2 ^ 23 = 0 then .inf (decide (b / 2 ^ 31 % 2 = 1)) else .nan
    else if b / 2 ^ 23 % 256 = 0 then .fin (decide (b / 2 ^ 31 % 2 = 1)) (b % 2 ^ 23) (-149)
    else .fin (decide (b / 2 ^ 31 % 2 = 1)) (2 ^ 23 + b % 2 ^ 23) ((b / 2 ^ 23 % 256 : Nat) - 150) := by
  have hexp (x : Int) : x - 127 - 23 = x - 150 := by omega
  unfold decodeF fmtF32
  simp [hexp]

theorem isNaN32_iff (w : W32) : isNaN32 w = true ↔ w.toNat / 2 ^ 23 % 256 = 255 ∧ w.toNat % 2 ^ 23 ≠ 0 := by
  rw [isNaN32, beq_iff_eq, decodeF_f32]
  split_ifs with hexp h0 hsub
  · exact iff_of_false nofun fun h => h.2 h0
  · exact iff_of_true rfl ⟨hexp, h0⟩
  · exact iff_of_false nofun fun h => hexp h.1
  · exact iff_of_false nofun fun h => hexp h.1

/-- A pattern is its sign bit, its exponent field and its fraction. -/
theorem signOf_add_fields (w : W32) :
    signOf fmtF32 (decide (w.toNat / 2 ^ 31 % 2 = 1)) + (w.toNat / 2 ^ 23 % 256 * 2 ^ 23 + w.toNat % 2 ^ 23) = w.toNat := by
  have := w.isLt
  simp only [signOf, fmtF32, decide_eq_true_eq]
  split <;> omega

/-- Rounding to f32 gives back each pattern that is no NaN. -/
theorem roundV_decodeF_f32 {w : W32} {md : Mode} (hflush : md.flush = false) (hw : isNaN32 w = false) :
    roundV fmtF32 md (decodeF fmtF32 w.toNat) = exactRes w.toNat 0 md := by
  have hfields := signOf_add_fields w
  have hfrac : w.toNat % 2 ^ 23 < 2 ^ 23 := Nat.mod_lt _ (by decide)
  have hnan : ¬ (w.toNat / 2 ^ 23 % 256 = 255 ∧ w.toNat % 2 ^ 23 ≠ 0) := by rw [← isNaN32_iff, hw]; decide
  rw [decodeF_f32]
  split_ifs with hexp h0 hsub
  · rw [hexp, h0] at hfields
    exact congrArg (exactRes · 0 md) hfields
  · exact absurd ⟨hexp, h0⟩ hnan
  · rw [hsub, Nat.zero_mul, Nat.zero_add] at hfields
    exact (roundF_f32_subnormal hflush hfrac).trans (by rw [hfields])
  · exact (roundF_f32_normal hflush hsub (by omega) (by omega) (by omega)).trans (by rw [Nat.add_sub_cancel_left, hfields])

/-- Settles O15: each mode by the neighbour it takes, and each class of f32 patterns by how it is packed. -/
theorem roundingIsByTheModeAndKeepsRepresentableValues : Obligations.RoundingIsByTheModeAndKeepsRepresentableValues := by
  refine ⟨fun md neg m e q p n h hp hn => ?_, fun b md hflush hb => roundV_decodeF_f32 hflush hb⟩
  subst hn
  refine ⟨quantize_inexact_iff h hp, quantize_of_mod_eq_zero h hp, quantize_nearest h hp, fun hrm => ?_, fun hrm hneg => ?_,
    fun hrm hneg => ?_, fun hrm hneg => ?_, fun hrm hneg => ?_⟩
  · exact quantize_bounds_of_down h hp fun n r s => roundsUp_towardZero n r s hrm
  · exact quantize_bounds_of_down h hp fun n r s => (roundsUp_down n r s hrm).trans hneg
  · exact quantize_bounds_of_up h hp fun n r s => (roundsUp_down n r s hrm).trans hneg
  · exact quantize_bounds_of_down h hp fun n r s => (roundsUp_up n r s hrm).trans (by rw [hneg]; rfl)
  · exact quantize_bounds_of_up h hp fun n r s => (roundsUp_up n r s hrm).trans (by rw [hneg]; rfl)

end Sys2Proof.Machine

namespace Sys2Proof.Machine

/-! ### Comparisons, classes, keys, minima and maxima of f32 (O13: R250, R251, R267, R269) -/

theorem msb_f32_iff (w : W32) : w.getLsbD 31 = true ↔ ¬ w.toNat < 2 ^ 31 := by
  rw [← BitVec.msb_eq_getLsbD_last w, BitVec.msb_eq_true_iff_two_mul_ge]
  omega

/-- With the sign bit clear, turning it adds its weight. -/
theorem toNat_xor_sign {w : W32} (h : w.toNat < 2 ^ 31) : (w ^^^ 0x80000000).toNat = w.toNat + 2 ^ 31 := by
  have hlow : (w.toNat ^^^ 2 ^ 31) % 2 ^ 31 = w.toNat := by
    rw [Nat.xor_mod_two_pow, Nat.mod_self, Nat.xor_zero, Nat.mod_eq_of_lt h]
  have hhigh : (w.toNat ^^^ 2 ^ 31) / 2 ^ 31 = 1 := by
    rw [Nat.xor_div_two_pow, Nat.div_eq_of_lt h, Nat.zero_xor, Nat.div_self (by decide)]
  change w.toNat ^^^ 2 ^ 31 = _
  omega

/-- KeyOf as a number: the non-negative patterns above the negative ones, whose order is turned (R250). -/
theorem keyOf_toNat (w : W32) : (keyOf w).toNat = if w.toNat < 2 ^ 31 then w.toNat + 2 ^ 31 else 2 ^ 32 - 1 - w.toNat := by
  by_cases h : w.toNat < 2 ^ 31
  · rw [keyOf, if_neg (mt (msb_f32_iff w).mp (not_not.mpr h)), if_pos h, toNat_xor_sign h]
  · rw [keyOf, if_pos ((msb_f32_iff w).mpr h), if_neg h, BitVec.toNat_not]

theorem ofBool_eq_ite {b : Bool} {p : Prop} [Decidable p] (h : b = true ↔ p) : ofBool b = if p then 1 else 0 := by
  rw [ofBool]
  exact if_congr h rfl rfl

section
variable {x y : W32} {n : W32 → Prop} {v : W32 → Int} {key : W32 → Nat}

theorem isZero32_iff : isZero32 x = true ↔ x.toNat % 2 ^ 31 = 0 := decide_eq_true_iff

theorem isNaN32_congr (hn : ∀ w : W32, n w ↔ w.toNat / 2 ^ 23 % 256 = 255 ∧ w.toNat % 2 ^ 23 ≠ 0) (w : W32) :
    isNaN32 w = true ↔ n w :=
  (isNaN32_iff w).trans (hn w).symm

section
variable (hnan : ∀ w, isNaN32 w = true ↔ n w)
include hnan

theorem not_isNaN32_iff (w : W32) : (!isNaN32 w) = true ↔ ¬ n w := by rw [Bool.not_eq_true', ← hnan, Bool.not_eq_true]

theorem funordOp_iff : funordOp x y = true ↔ n x ∨ n y := by rw [funordOp, Bool.or_eq_true, hnan, hnan]

section
variable (hv : ∀ w : W32, v w = if w.toNat < 2 ^ 31 then (w.toNat : Int) else -((w.toNat - 2 ^ 31 : Nat) : Int))
include hv

/-- Two patterns have one value exactly where they are the same or are both a zero. -/
theorem feqOp_iff : feqOp x y = true ↔ ¬ n x ∧ ¬ n y ∧ v x = v y := by
  have hval : (x = y ∨ isZero32 x = true ∧ isZero32 y = true) ↔ v x = v y := by
    rw [isZero32_iff, isZero32_iff, hv, hv, ← BitVec.toNat_inj]
    split_ifs <;> omega
  rw [feqOp, Bool.and_eq_true, Bool.and_eq_true, not_isNaN32_iff hnan, not_isNaN32_iff hnan, Bool.or_eq_true, beq_iff_eq,
    Bool.and_eq_true, hval, and_assoc]

/-- The keys order the values, but for the two zeros. -/
theorem fltOp_iff : fltOp x y = true ↔ ¬ n x ∧ ¬ n y ∧ v x < v y := by
  have hval : (¬ (isZero32 x = true ∧ isZero32 y = true) ∧ (keyOf x).toNat < (keyOf y).toNat) ↔ v x < v y := by
    rw [isZero32_iff, isZero32_iff, keyOf_toNat, keyOf_toNat, hv, hv]
    have hx := x.isLt
    have hy := y.isLt
    split_ifs <;> omega
  rw [fltOp, Bool.and_eq_true, Bool.and_eq_true, Bool.and_eq_true, not_isNaN32_iff hnan, not_isNaN32_iff hnan, Bool.not_eq_true',
    ← Bool.not_eq_true, Bool.and_eq_true, decide_eq_true_iff, and_assoc, and_assoc, hval]

theorem fleOp_iff : fleOp x y = true ↔ ¬ n x ∧ ¬ n y ∧ v x ≤ v y := by
  rw [fleOp, Bool.or_eq_true, fltOp_iff hnan hv, feqOp_iff hnan hv, le_iff_lt_or_eq]
  tauto

end

end

theorem fclassOp_of_nan (h : decodeF fmtF32 x.toNat = .nan) : fclassOp x = 256 := by simp only [fclassOp, h]

theorem fclassOp_of_inf {neg : Bool} (h : decodeF fmtF32 x.toNat = .inf neg) : fclassOp x = if neg then 1 else 128 := by
  simp only [fclassOp, h]

theorem fclassOp_of_fin {neg : Bool} {m : Nat} {e : Int} (h : decodeF fmtF32 x.toNat = .fin neg m e) : fclassOp x =
    if m = 0 then (if neg then 8 else 16) else if isSub32 x then (if neg then 4 else 32) else if neg then 2 else 64 := by
  simp only [fclassOp, h]

theorem isSub32_iff : isSub32 x = true ↔ x.toNat / 2 ^ 23 % 256 = 0 ∧ x.toNat % 2 ^ 23 ≠ 0 := by
  unfold isSub32 isSubF fmtF32
  simp

/-- A choice by the sign bit, as the model and as the statement write it. -/
theorem ofNat_ite_sign (i j : Nat) : BitVec.ofNat 64 (if decide (x.toNat / 2 ^ 31 % 2 = 1) = true then i else j) =
    if x.toNat < 2 ^ 31 then BitVec.ofNat 64 j else BitVec.ofNat 64 i := by
  have hx := x.isLt
  rw [apply_ite (BitVec.ofNat 64), ← ite_not]
  exact if_congr (by rw [decide_eq_true_iff]; omega) rfl rfl

/-- The class by the fields of the pattern (R269). -/
theorem fclassOp_eq [DecidablePred n] (hnan : ∀ w, isNaN32 w = true ↔ n w) : BitVec.ofNat 64 (fclassOp x) =
    if n x then 256
    else if x.toNat / 2 ^ 23 % 256 = 255 then (if x.toNat < 2 ^ 31 then 128 else 1)
    else if x.toNat % 2 ^ 31 = 0 then (if x.toNat < 2 ^ 31 then 16 else 8)
    else if x.toNat / 2 ^ 23 % 256 = 0 then (if x.toNat < 2 ^ 31 then 32 else 4)
    else if x.toNat < 2 ^ 31 then 64 else 2 := by
  have hn : n x ↔ x.toNat / 2 ^ 23 % 256 = 255 ∧ x.toNat % 2 ^ 23 ≠ 0 := (hnan x).symm.trans (isNaN32_iff x)
  have hmag : x.toNat % 2 ^ 31 = 0 ↔ x.toNat / 2 ^ 23 % 256 = 0 ∧ x.toNat % 2 ^ 23 = 0 := by omega
  have hdec := decodeF_f32 x.toNat
  split_ifs at hdec with hexp hfrac hzero
  · rw [fclassOp_of_inf hdec, if_neg fun h => (hn.mp h).2 hfrac, if_pos hexp]
    exact ofNat_ite_sign 1 128
  · rw [fclassOp_of_nan hdec, if_pos (hn.mpr ⟨hexp, hfrac⟩)]
    rfl
  · rw [fclassOp_of_fin hdec, if_neg fun h => hexp (hn.mp h).1, if_neg hexp]
    by_cases hfrac : x.toNat % 2 ^ 23 = 0
    · rw [if_pos hfrac, if_pos (hmag.mpr ⟨hzero, hfrac⟩)]
      exact ofNat_ite_sign 8 16
    · rw [if_neg hfrac, if_pos (isSub32_iff.mpr ⟨hzero, hfrac⟩), if_neg fun h => hfrac (hmag.mp h).2, if_pos hzero]
      exact ofNat_ite_sign 4 32
  · have hlead : 2 ^ 23 + x.toNat % 2 ^ 23 ≠ 0 := by omega
    rw [fclassOp_of_fin hdec, if_neg fun h => hexp (hn.mp h).1, if_neg hexp, if_neg hlead,
      if_neg fun h => hzero (isSub32_iff.mp h).1, if_neg fun h => hzero (hmag.mp h).1, if_neg hzero]
    exact ofNat_ite_sign 2 64

theorem fmintOp_eq (hk : ∀ w, (keyOf w).toNat = key w) : fmintOp x y = if key x ≤ key y then x else y := by
  rw [fmintOp, hk, hk]

theorem fmaxtOp_eq (hk : ∀ w, (keyOf w).toNat = key w) : fmaxtOp x y = if key y ≤ key x then x else y := by
  rw [fmaxtOp, hk, hk]

/-- A minimum or maximum delivers CanonNaN for a NaN, and else its choice by the keys (R251). -/
theorem ofW32_ite_isNaN32 [DecidablePred n] (hnan : ∀ w, isNaN32 w = true ↔ n w) (z : W32) :
    ofW32 (if isNaN32 x || isNaN32 y then 0x7FC00000 else z) = if n x ∨ n y then 0x7FC00000 else z.setWidth 64 := by
  rw [apply_ite ofW32]
  exact if_congr (funordOp_iff hnan) rfl rfl

end

/-- Settles O13: each result by the value, the class or the key of its sources. -/
theorem floatComparisonsFollowTheNumericOrder : Obligations.FloatComparisonsFollowTheNumericOrder := by
  intro s d a b x y n _ v key hx hy hn hv hkey
  subst hx hy
  have hnan := isNaN32_congr hn
  have hk (w : W32) : (keyOf w).toNat = key w := (keyOf_toNat w).trans (hkey w).symm
  have put {x y : Word} (h : x = y) : (.next (s.setG d x) : Out) = .next (s.setG d y) := by rw [h]
  refine ⟨put (ofBool_eq_ite (feqOp_iff hnan hv)), put (ofBool_eq_ite (fltOp_iff hnan hv)), put (ofBool_eq_ite (fleOp_iff hnan hv)),
    put (ofBool_eq_ite (funordOp_iff hnan)), put (fclassOp_eq hnan), put ?_, put ?_, put ?_, put ?_, put ?_⟩
  · rw [← hk, BitVec.ofNat_toNat]; rfl
  · exact congrArg ofW32 (fmintOp_eq hk)
  · exact congrArg ofW32 (fmaxtOp_eq hk)
  · rw [← fmintOp_eq hk]; exact ofW32_ite_isNaN32 hnan _
  · rw [← fmaxtOp_eq hk]; exact ofW32_ite_isNaN32 hnan _

end Sys2Proof.Machine

namespace Sys2Proof.Machine

/-! ### Floating-point arithmetic (O12: R238, R241, R267, R268) -/

theorem State.trapsSub_iff (s : State) : s.trapsSub = true ↔ s.fcr.toNat / 8 % 4 = 0 := by simp [State.trapsSub, field]

/-- Where SUBM is not TRAP or no source is subnormal, the issue check passes (R241). -/
theorem subChecked_of_noTrap {s : State} {xs : List W32} {k : Out}
    (h : s.fcr.toNat / 8 % 4 = 0 → ∀ x ∈ xs, isSub32 x = false) : subChecked s xs k = k := by
  have hnone : (if s.trapsSub then firstSub xs else none) = none := by
    split
    next htrap => exact List.find?_eq_none.mpr fun x hx => by simp [h (s.trapsSub_iff.mp htrap) x hx]
    · rfl
  simp only [subChecked, hnone]

/-- Settles O12: past the check of subnormal sources each row delivers its rounded result. -/
theorem floatArithmeticCompletes : Obligations.FloatArithmeticCompletes := by
  intro s d a b c x y z md hx hy hz hmd
  subst hx hy hz hmd
  refine ⟨fun r => rfl, fun h => ?_, fun h => ?_, fun h r hr => ?_, rfl, rfl, rfl⟩
  · have pass {k : Out} : subChecked s [toW32 (s.g a), toW32 (s.g b)] k = k :=
      subChecked_of_noTrap fun htrap => by simpa [toW32] using h htrap
    exact ⟨pass, pass, pass, pass⟩
  · exact subChecked_of_noTrap fun htrap => by simpa [toW32] using h htrap
  · have pass {k : Out} : subChecked s [toW32 (s.g a), toW32 (s.g b), toW32 (s.g c)] k = k :=
      subChecked_of_noTrap fun htrap => by simpa [toW32] using h htrap
    simp only [hr]
    exact ⟨pass, pass, pass, pass⟩

end Sys2Proof.Machine

namespace Sys2Proof.Machine

/-! ### Conversions (O14: R243–R249, R270) -/

/-- An integer as a conversion delivers it: the low `k` bits of its two's complement, sign-extended or not (R248). -/
def intWord (sg : Bool) (k : Nat) (i : Int) : Word :=
  if sg then signExtend (BitVec.ofInt 64 i).toNat k else zeroExtend (BitVec.ofInt 64 i).toNat k

theorem setWidth_ofInt {k w : Nat} (h : k ≤ w) (i : Int) : (BitVec.ofInt w i).setWidth k = BitVec.ofInt k i := by
  have hmod : i % (2 ^ w : Nat) % (2 ^ k : Nat) = i % (2 ^ k : Nat) :=
    Int.emod_emod_of_dvd i (Int.natCast_dvd_natCast.mpr (Nat.pow_dvd_pow 2 h))
  apply BitVec.eq_of_toNat_eq
  rw [BitVec.toNat_setWidth, BitVec.toNat_ofInt, BitVec.toNat_ofInt, ← hmod,
    Int.toNat_emod (Int.emod_nonneg _ (by exact_mod_cast (Nat.two_pow_pos w).ne')) (Int.natCast_nonneg _), Int.toNat_natCast]

/-- A signed integer of `k` bits is not changed by its sign extension. -/
theorem intWord_signed {k : Nat} {i : Int} (hk0 : 0 < k) (hk : k ≤ 64) (hlo : -(2 ^ (k - 1)) ≤ i) (hhi : i ≤ 2 ^ (k - 1) - 1) :
    intWord true k i = BitVec.ofInt 64 i := by
  change signExtend (BitVec.ofInt 64 i).toNat k = _
  rw [signExtend, BitVec.ofNat_toNat, setWidth_ofInt hk, BitVec.signExtend, BitVec.toInt_ofInt_eq_self hk0 hlo (by omega)]

/-- An unsigned integer of `k` bits is not changed by its zero extension. -/
theorem intWord_unsigned {k : Nat} {i : Int} (hk : k ≤ 64) (hlo : 0 ≤ i) (hhi : i ≤ 2 ^ k - 1) :
    intWord false k i = BitVec.ofInt 64 i := by
  change BitVec.ofNat 64 ((BitVec.ofInt 64 i).toNat % 2 ^ k) = _
  rw [← BitVec.toNat_setWidth, setWidth_ofInt hk, BitVec.toNat_ofInt, Int.emod_eq_of_lt hlo (by push_cast; omega),
    ← BitVec.ofInt_natCast, Int.toNat_of_nonneg hlo]

section
variable {s : State} {d a : Reg} {k : Nat} {lo hi i : Int} {sg : Bool}

/-- A finite value is rounded to a whole number and limited to the range (R248). -/
theorem toIntV_fin {md : Mode} {n : Bool} {m : Nat} {e : Int} {q : Nat × Bool × Word} (hq : q = quantize md n m e 0)
    (hval : i = if n then -(q.1 : Int) else q.1) : toIntV md (.fin n m e) lo hi =
      if hi < i then (hi, flNV, q.2.2) else if i < lo then (lo, flNV, q.2.2) else (i, if q.2.1 then flNX else 0, q.2.2) := by
  subst hq hval
  rfl

theorem srcF_of_nan {f : Fmt} {md : Mode} {b : Nat} (h : decodeF f b = .nan) : srcF f md b = (.nan, 0) := by
  simp only [srcF, h]

section
variable (hsub : s.fcr.toNat / 8 % 4 = 0 → isSub32 (toW32 (s.g a)) = false)
include hsub

/-- Past the check of a subnormal source the integer is delivered with its flags. -/
theorem fpToInt_of_noTrap {v : FVal} {fl : Flags} {rs : Word}
    (hsrc : srcF fmtF32 (s.mode true) (toW32 (s.g a)).toNat = (v, 0)) (hint : toIntV (s.mode true) v lo hi = (i, fl, rs)) :
    fpToInt s d a k lo hi sg = .next (s.setFp d (intWord sg k i) fl (s.drawn rs)) := by
  have hflags : fl ||| 0 = fl := BitVec.or_zero
  unfold fpToInt
  rw [subChecked_of_noTrap (by simpa using hsub)]
  simp only [hsrc, hint, hflags]
  rfl

theorem fpToInt_of_fin {n : Bool} {m : Nat} {e : Int} {q : Nat × Bool × Word} {hiW loW : Word}
    (hsrc : srcF fmtF32 (s.mode true) (toW32 (s.g a)).toNat = (.fin n m e, 0)) (hq : q = quantize (s.mode true) n m e 0)
    (hval : i = if n then -(q.1 : Int) else q.1) (hhiW : intWord sg k hi = hiW) (hloW : intWord sg k lo = loW)
    (hmid : lo ≤ i → i ≤ hi → intWord sg k i = BitVec.ofInt 64 i) :
    fpToInt s d a k lo hi sg = .next (
      if hi < i then s.setFp d hiW flNV (s.drawn q.2.2)
      else if i < lo then s.setFp d loW flNV (s.drawn q.2.2)
      else s.setFp d (BitVec.ofInt 64 i) (if q.2.1 then flNX else 0) (s.drawn q.2.2)) := by
  have hint := toIntV_fin (lo := lo) (hi := hi) hq hval
  split at hint
  next habove => rw [fpToInt_of_noTrap hsub hsrc hint, hhiW, if_pos habove]
  next habove =>
    rw [if_neg habove]
    split at hint
    next hbelow => rw [fpToInt_of_noTrap hsub hsrc hint, hloW, if_pos hbelow]
    next hbelow => rw [fpToInt_of_noTrap hsub hsrc hint, hmid (not_lt.mp hbelow) (not_lt.mp habove), if_neg hbelow]

/-- A NaN gives 0 with NV and draws nothing (R248). -/
theorem fpToInt_of_nan (hnan : isNaN32 (toW32 (s.g a)) = true) (hzero : intWord sg k 0 = 0) :
    fpToInt s d a k lo hi sg = .next (s.setFp d 0 flNV s.cur.rs) := by
  have hdrawn : s.drawn (s.mode true).rs = s.cur.rs := if_pos rfl
  rw [fpToInt_of_noTrap hsub (srcF_of_nan (beq_iff_eq.mp hnan)) rfl, hzero, hdrawn]

end

/-- A bf16 source passes the check where SUBM is not TRAP or it is not subnormal (R241, R247). -/
theorem execFcvtF32Bf16_of_noTrap (hsub : s.fcr.toNat / 8 % 4 = 0 → isSubF fmtBf16 (field (s.g a) 0 16) = false) :
    execFcvtF32Bf16 d a s = fpConv s d [] (convF fmtBf16 fmtF32 (s.mode true) true (field (s.g a) 0 16)) := by
  refine if_neg fun h => ?_
  rw [Bool.and_eq_true, State.trapsSub_iff] at h
  exact absurd h.2 (by rw [hsub h.1]; decide)

/-- An unsigned integer is never negative. -/
theorem ofIntV_natCast {f : Fmt} {md : Mode} (n : Nat) : ofIntV f md n = roundF f md false n 0 := by
  rw [ofIntV, decide_eq_false (by omega), Int.natAbs_natCast]

end

/-- Settles O14: each conversion past its check, to integers by the limits of the range. -/
theorem floatConversionsComplete : Obligations.FloatConversionsComplete := by
  intro s d a x md hx hmd put hput
  subst hx hmd
  have conv {src : List W32} (r : FRes) (h : s.fcr.toNat / 8 % 4 = 0 → ∀ x ∈ src, isSub32 x = false) :
      fpConv s d src r = .next (put r) := (subChecked_of_noTrap h).trans (by rw [hput])
  have plain (r : FRes) : fpConv s d [] r = .next (put r) := conv r fun _ _ h => nomatch h
  have low (k : Nat) : field (s.g a) 0 k = (s.g a).toNat % 2 ^ k := by simp [field]
  refine ⟨plain _, plain _, ?_, ?_, plain _, ?_, plain _, fun hsub => ?_, fun hsub => ⟨?_, ?_, fun hnan => ?_⟩⟩
  · exact (plain _).trans (by rw [ofIntV_natCast]; rfl)
  · exact (plain _).trans (by rw [low]; rfl)
  · exact (plain _).trans (by rw [low]; rfl)
  · rw [← low] at hsub ⊢
    exact (execFcvtF32Bf16_of_noTrap hsub).trans (plain _)
  · exact conv _ (by simpa [toW32] using hsub)
  · intro n m e q i hsrc hq hval
    exact ⟨fpToInt_of_fin hsub hsrc hq hval rfl rfl (intWord_signed (k := 32) (by decide) (by decide)),
      fpToInt_of_fin hsub hsrc hq hval rfl rfl (intWord_signed (k := 64) (by decide) (by decide)),
      fpToInt_of_fin hsub hsrc hq hval rfl rfl (intWord_unsigned (k := 32) (by decide))⟩
  · exact ⟨fpToInt_of_nan hsub hnan rfl, fpToInt_of_nan hsub hnan rfl, fpToInt_of_nan hsub hnan rfl⟩

end Sys2Proof.Machine

namespace Sys2Proof.Machine

/-! ### Products, quotients and comparisons (O10: R263, R264) -/

/-- The low halves of the factors decide the low half of the product. -/
theorem signExtend_mul_low32 (a b : Word) :
    signExtend (a.toNat % 2 ^ 32 * (b.toNat % 2 ^ 32)) 32 = ((a * b).setWidth 32).signExtend 64 := by
  rw [signExtend]
  congr 1
  apply BitVec.eq_of_toNat_eq
  rw [BitVec.toNat_ofNat, BitVec.toNat_setWidth, BitVec.toNat_mul, Nat.mod_mod_of_dvd _ (by decide), Nat.mul_mod]
  simp only [Nat.mod_mod]
  rw [← Nat.mul_mod]

theorem ofNat_mul_toNat (a b : Word) : a * b = BitVec.ofNat 64 (a.toNat * b.toNat) :=
  BitVec.eq_of_toNat_eq (by rw [BitVec.toNat_mul, BitVec.toNat_ofNat])

theorem ofNat_div_toNat (a b : Word) : a / b = BitVec.ofNat 64 (a.toNat / b.toNat) :=
  BitVec.eq_of_toNat_eq (by
    rw [BitVec.toNat_udiv, BitVec.toNat_ofNat, Nat.mod_eq_of_lt (Nat.lt_of_le_of_lt (Nat.div_le_self ..) a.isLt)])

theorem ofNat_mod_toNat (a b : Word) : a % b = BitVec.ofNat 64 (a.toNat % b.toNat) :=
  BitVec.eq_of_toNat_eq (by
    rw [BitVec.toNat_umod, BitVec.toNat_ofNat, Nat.mod_eq_of_lt (Nat.lt_of_le_of_lt (Nat.mod_le ..) a.isLt)])

/-- The one quotient that does not fit, by its operands as numbers (R263). -/
theorem quotS_eq (a b : Word) : quotS a b =
    if a.toInt = -(2 ^ 63) ∧ b.toInt = -1 then (a, flSAT) else (BitVec.ofInt 64 (a.toInt.tdiv b.toInt), 0) := by
  have ha : a.toInt = -(2 ^ 63) ↔ a = BitVec.ofNat 64 (2 ^ 63) := BitVec.toInt_inj (y := BitVec.ofNat 64 (2 ^ 63))
  have hb : b.toInt = -1 ↔ b = -1 := BitVec.toInt_inj (y := -1)
  simp only [quotS, ha, hb]

theorem divided_of_ne {s : State} {d b : Reg} (x : Word × Flags) (h : s.g b ≠ 0) : divided s d b x = .next (s.setClamped d x) :=
  if_neg h

theorem ofBool_eq {c : Bool} {p : Prop} [Decidable p] (h : c = true ↔ p) : ofBool c = if p then 1 else 0 := by
  simp only [ofBool, h]

theorem ofBool_bne (x y : Word) : ofBool (x != y) = if x = y then 0 else 1 := by
  rw [ofBool_eq (p := ¬ x = y) bne_iff_ne, ite_not]

/-- Settles O10: the products, quotients and comparisons of words as those of the numbers they stand for. -/
theorem productsQuotientsAndComparisons : Obligations.ProductsQuotientsAndComparisons := by
  intro s d a b c
  have put {x y : Word} (h : x = y) : (.next (s.setG d x) : Out) = .next (s.setG d y) := by rw [h]
  have pick {c : Bool} {p : Prop} [Decidable p] (x y : Word) (h : c = true ↔ p) := put (if_congr h (rfl : x = x) (rfl : y = y))
  refine ⟨put (ofNat_mul_toNat _ _), rfl, rfl, put (signExtend_mul_low32 _ _), fun hb => ⟨?_, ?_, ?_, ?_⟩,
    put (ofBool_eq beq_iff_eq), put (ofBool_bne _ _), put (ofBool_eq BitVec.slt_iff_toInt_lt),
    put (ofBool_eq BitVec.sle_iff_toInt_le), put (ofBool_eq BitVec.ult_iff_toNat_lt), put (ofBool_eq BitVec.ule_iff_toNat_le),
    pick _ _ BitVec.sle_iff_toInt_le, pick _ _ BitVec.sle_iff_toInt_le, pick _ _ BitVec.ule_iff_toNat_le, pick _ _ BitVec.ule_iff_toNat_le,
    ?_⟩
  · refine (divided_of_ne _ hb).trans ?_
    rw [quotS_eq]
    split_ifs <;> rfl
  · exact (divided_of_ne _ hb).trans (by rw [ofNat_div_toNat])
  · exact divided_of_ne _ hb
  · exact (divided_of_ne _ hb).trans (by rw [ofNat_mod_toNat])
  · exact put ((if_congr bne_iff_ne rfl rfl).trans (ite_not ..))

end Sys2Proof.Machine

namespace Sys2Proof.Machine

/-! ### The bit family (O11: R265) -/

/-! #### Counts -/

theorem testBit_of_bitLen_le {x i : Nat} (h : bitLen x ≤ i) : x.testBit i = false := by
  apply Nat.testBit_eq_false_of_lt
  unfold bitLen at h
  split at h
  · subst x; exact Nat.two_pow_pos i
  · exact Nat.lt_of_lt_of_le Nat.lt_log2_self (Nat.pow_le_pow_right (by decide) h)

theorem testBit_bitLen_pred {x : Nat} (h : x ≠ 0) : x.testBit (bitLen x - 1) = true := by
  rw [bitLen, if_neg h, Nat.add_sub_cancel, Nat.testBit_log2 h]

/-- The zeros above the highest one bit (R265). -/
theorem clz64_spec (x : Word) : clz64 x ≤ 64 ∧ (∀ i, 64 - clz64 x ≤ i → x.getLsbD i = false) ∧
    (clz64 x < 64 → x.getLsbD (63 - clz64 x) = true) := by
  have hlen := bitLen_le x.isLt
  refine ⟨Nat.sub_le .., fun i hi => testBit_of_bitLen_le ?_, fun hlt => ?_⟩
  · unfold clz64 at hi
    omega
  · have hx : x.toNat ≠ 0 := fun h => by simp [clz64, bitLen, h] at hlt
    rw [BitVec.getLsbD, show 63 - clz64 x = bitLen x.toNat - 1 by unfold clz64 at hlt ⊢; omega]
    exact testBit_bitLen_pred hx

/-- The search ends at the first one bit from `i` upward, or after `n` bits. -/
theorem ctzFrom_spec (x : Word) (n i : Nat) : i ≤ ctzFrom x i n ∧ ctzFrom x i n ≤ i + n ∧
    (∀ j, i ≤ j → j < ctzFrom x i n → x.getLsbD j = false) ∧ (ctzFrom x i n < i + n → x.getLsbD (ctzFrom x i n) = true) := by
  induction n generalizing i with
  | zero => exact ⟨Nat.le_refl i, Nat.le_refl i, fun j hij hji => absurd hij (Nat.not_le.mpr hji), fun h => absurd h (Nat.lt_irrefl i)⟩
  | succ n ih =>
    unfold ctzFrom
    split
    · next hbit => exact ⟨Nat.le_refl i, Nat.le_add_right .., fun j hij hji => absurd hij (Nat.not_le.mpr hji), fun _ => hbit⟩
    · next hbit =>
      obtain ⟨hlow, hhigh, hzeros, hone⟩ := ih (i + 1)
      refine ⟨by omega, by omega, fun j hij hj => ?_, fun h => hone (by omega)⟩
      rcases Nat.eq_or_lt_of_le hij with rfl | hij
      · simpa using hbit
      · exact hzeros j hij hj

theorem popCount_eq_length_filter (n x : Nat) : popCount x n = ((List.range n).filter fun i => x.testBit i).length := by
  induction n generalizing x with
  | zero => rfl
  | succ n ih =>
    rw [popCount, ih, List.range_succ_eq_map, List.filter_cons, List.filter_map, Nat.testBit_zero]
    have hshift : (fun i => x.testBit i) ∘ Nat.succ = fun i => (x / 2).testBit i := funext fun i => Nat.testBit_succ x i
    rw [hshift]
    rcases Nat.mod_two_eq_zero_or_one x with h | h <;> simp [h, Nat.add_comm]

/-! #### Reversals -/

theorem revBits_lt (n x : Nat) : revBits x n < 2 ^ n := by
  induction n generalizing x with
  | zero => exact Nat.one_pos
  | succ n ih =>
    have hrest := ih (x / 2)
    rcases Nat.mod_two_eq_zero_or_one x with h | h <;> rw [revBits, h, Nat.pow_succ] <;> omega

theorem testBit_revBits {n i : Nat} (x : Nat) (h : i < n) : (revBits x n).testBit i = x.testBit (n - 1 - i) := by
  induction n generalizing x with
  | zero => exact absurd h (Nat.not_lt_zero i)
  | succ n ih =>
    rw [revBits, Nat.mul_comm, Nat.testBit_two_pow_mul_add _ (revBits_lt n _)]
    split
    · next hi =>
      rw [ih (x / 2) hi, ← Nat.testBit_succ]
      congr 1
      omega
    · next hi =>
      obtain rfl : i = n := by omega
      simp

theorem revBytes_lt (n x : Nat) : revBytes x n < 2 ^ (8 * n) := by
  induction n generalizing x with
  | zero => exact Nat.one_pos
  | succ n ih =>
    have hrest := ih (x / 256)
    have hbyte : x % 256 ≤ 255 := by omega
    calc revBytes x (n + 1) = x % 256 * 256 ^ n + revBytes (x / 256) n := rfl
      _ < 255 * 256 ^ n + 2 ^ (8 * n) := Nat.add_lt_add_of_le_of_lt (Nat.mul_le_mul_right _ hbyte) hrest
      _ = 2 ^ (8 * (n + 1)) := by rw [Nat.mul_succ, Nat.pow_add, Nat.pow_mul, show 2 ^ 8 = 256 from rfl]; omega

theorem testBit_revBytes {n i : Nat} (x : Nat) (h : i < 8 * n) :
    (revBytes x n).testBit i = x.testBit (8 * (n - 1 - i / 8) + i % 8) := by
  induction n generalizing x with
  | zero => exact absurd h (Nat.not_lt_zero i)
  | succ n ih =>
    rw [revBytes, show (256 : Nat) ^ n = 2 ^ (8 * n) from (Nat.pow_mul 2 8 n).symm, Nat.mul_comm,
      Nat.testBit_two_pow_mul_add _ (revBytes_lt n _)]
    split
    · next hi =>
      rw [ih (x / 256) hi, show x / 256 = x / 2 ^ 8 from rfl, Nat.testBit_div_two_pow]
      congr 1
      omega
    · next hi =>
      rw [show x % 256 = x % 2 ^ 8 from rfl, Nat.testBit_mod_two_pow, decide_eq_true (by omega), Bool.true_and]
      congr 1
      omega

theorem getLsbD_ofNat_of_lt {x i : Nat} (h : i < 64) : (BitVec.ofNat 64 x).getLsbD i = x.testBit i := by
  rw [BitVec.getLsbD_ofNat, decide_eq_true h, Bool.true_and]

/-! #### Fields -/

theorem signExtend_toNat (x : Word) (n : Nat) : signExtend x.toNat n = (x.setWidth n).signExtend 64 := by
  rw [signExtend, BitVec.ofNat_toNat]

theorem zeroExtend_low32 (x : Word) : zeroExtend x.toNat 32 = (x.setWidth 32).setWidth 64 := by
  apply BitVec.eq_of_toNat_eq
  simp [zeroExtend]

/-- `lo` and `w` of a field, as R265 gives them. -/
theorem bitSpec_eq (b : Word) :
    bitSpec b = (b.toNat % 64, if b.toNat / 256 % 64 = 0 then 64 else b.toNat / 256 % 64) := by
  rw [bitSpec, field_low6]; rfl

theorem getLsbD_lowOnes {w i : Nat} (hi : i < 64) : (BitVec.ofNat 64 (2 ^ w - 1)).getLsbD i = decide (i < w) := by
  rw [getLsbD_ofNat_of_lt hi, Nat.testBit_two_pow_sub_one]

theorem getLsbD_bitExtract {a b : Word} {lo w i : Nat} (hspec : bitSpec b = (lo, w)) (hi : i < 64) :
    (bitExtract a b).getLsbD i = (decide (i < w) && a.getLsbD (lo + i)) := by
  rw [bitExtract, hspec, BitVec.getLsbD_and, BitVec.getLsbD_ushiftRight, getLsbD_lowOnes hi, Bool.and_comm]

theorem getLsbD_bitInsert {old a b : Word} {lo w i : Nat} (hspec : bitSpec b = (lo, w)) (hi : i < 64) :
    (bitInsert old a b).getLsbD i = if lo ≤ i ∧ i < lo + w then a.getLsbD (i - lo) else old.getLsbD i := by
  have hones : (BitVec.ofNat 64 (2 ^ w - 1)).getLsbD (i - lo) = decide (i - lo < w) := getLsbD_lowOnes (by omega)
  simp only [bitInsert, hspec, BitVec.getLsbD_or, BitVec.getLsbD_and, BitVec.getLsbD_not, BitVec.getLsbD_shiftLeft, hones, hi,
    decide_true, Bool.true_and]
  by_cases hlo : lo ≤ i
  · by_cases hhi : i < lo + w
    · simp [hlo, hhi, Nat.not_lt.mpr hlo, show i - lo < w by omega]
    · simp [hhi, show ¬ i - lo < w by omega]
  · simp [hlo, Nat.not_le.mp hlo]

/-- Settles O11: each result of the bit family by the lemma about its bits. -/
theorem bitFamilyResults : Obligations.BitFamilyResults := by
  intro s d a b
  have put {x y : Word} (h : x = y) : (.next (s.setG d x) : Out) = .next (s.setG d y) := by rw [h]
  obtain ⟨-, hctz, hzeros, hone⟩ := ctzFrom_spec (s.g a) 64 0
  rw [Nat.zero_add] at hctz hone
  refine ⟨⟨_, rfl, clz64_spec (s.g a)⟩, ⟨_, rfl, hctz, fun i => hzeros i (Nat.zero_le i), hone⟩,
    put (congrArg _ (popCount_eq_length_filter 64 _)), ⟨_, rfl, fun i hi => ?_⟩, ⟨_, rfl, fun i hi => ?_⟩, put (signExtend_toNat _ 8),
    put (signExtend_toNat _ 16), put (signExtend_toNat _ 32), put (zeroExtend_low32 _), fun lo w hlo hw => ?_⟩
  · rw [getLsbD_ofNat_of_lt hi, testBit_revBits _ hi, BitVec.getLsbD]
  · rw [getLsbD_ofNat_of_lt hi, testBit_revBytes _ (by omega), BitVec.getLsbD]
  · have hspec : bitSpec (s.g b) = (lo, w) := by rw [bitSpec_eq, ← hlo, ← hw]
    exact ⟨⟨_, rfl, fun _ => getLsbD_bitExtract hspec⟩, ⟨_, rfl, fun _ => getLsbD_bitInsert hspec⟩⟩

end Sys2Proof.Machine

namespace Sys2Proof.Machine

/-! ### Control transfers (O16, O20, O21: R266, R271–R277) -/

section
variable {s : State} {l : Lone} {o : BitVec 15}

/-- A conditional branch is taken where its condition holds (R273). -/
theorem condBranch_eq {c : Bool} {p : Prop} [Decidable p] (h : c = true ↔ p) :
    condBranch s l o c = .next (if p then s.branch (s.branchTo l o) else s) := by
  unfold condBranch
  simp only [h, apply_ite Host.Outcome.next]

theorem condBranch_eq_not {c : Bool} {p : Prop} [Decidable p] (h : c = true ↔ ¬ p) :
    condBranch s l o c = .next (if p then s else s.branch (s.branchTo l o)) := by
  rw [condBranch_eq h, ite_not]

theorem State.branchTo_eq :
    s.branchTo l o = s.cur.pc + 8 * (match l with | some e => e.signExtend 64 | none => o.signExtend 64) := by
  cases l <;> rfl

end

theorem field_low3 (x : Word) : field x 0 3 = x.toNat % 8 := by simp [field]

/-- Settles O16: each transfer by the lemma about its condition or its target. -/
theorem branchesJumpsAndConstantsComplete : Obligations.BranchesJumpsAndConstantsComplete := by
  intro s l d a b o o25 far jumpTo left hjump hleft hfar
  obtain rfl : jumpTo = State.jump := funext fun t => funext fun x => hjump t x
  obtain rfl : left = s.branch := funext hleft
  obtain rfl : far = s.branchTo l o := hfar.trans State.branchTo_eq.symm
  refine ⟨rfl, rfl, fun _ => rfl, rfl, rfl, fun ha => ?_, condBranch_eq beq_iff_eq, condBranch_eq_not bne_iff_ne,
    condBranch_eq BitVec.slt_iff_toInt_lt, condBranch_eq_not (BitVec.sle_iff_toInt_le.trans Int.not_lt.symm),
    condBranch_eq BitVec.ult_iff_toNat_lt, condBranch_eq_not (BitVec.ule_iff_toNat_le.trans Nat.not_lt.symm)⟩
  have haligned : ¬ field (s.g a) 0 3 ≠ 0 := not_not.mpr ((field_low3 _).trans ha)
  exact ⟨if_neg haligned, if_neg haligned⟩

/-! #### The loop stack (O20: R274, R276) -/

/-- Only entries that count are looked at, so the frozen ones stay below as they are. -/
theorem countLoops_append (b : Word) (live frozen : List Loop) : countLoops b (live ++ frozen) live.length =
    ((countLoops b live live.length).1, (countLoops b live live.length).2 ++ frozen) := by
  induction live with
  | nil => simp only [List.nil_append, List.length_nil, countLoops]
  | cons top rest ih =>
    simp only [List.cons_append, List.length_cons, countLoops]
    split_ifs
    · exact ih
    · rfl
    · rfl

theorem countLoops_nil (b : Word) : countLoops b [] 0 = (b + 8, []) := by
  simp only [countLoops]

section
variable {top : Loop} {rest : List Loop} {b : Word}

theorem countLoops_of_notEnd (h : top.stop ≠ b) : countLoops b (top :: rest) (rest.length + 1) = (b + 8, top :: rest) := by
  rw [countLoops, if_neg h]

theorem countLoops_of_trips (h : top.stop = b) (hrem : top.rem - 1 ≠ 0) :
    countLoops b (top :: rest) (rest.length + 1) = (top.start, { top with rem := top.rem - 1 } :: rest) := by
  rw [countLoops, if_pos h, if_neg fun h1 => hrem (by rw [h1]; rfl)]

theorem countLoops_of_lastTrip (h : top.stop = b) (hrem : top.rem - 1 = 0) :
    countLoops b (top :: rest) (rest.length + 1) = countLoops b rest rest.length := by
  rw [countLoops, if_pos h, if_pos (sub_eq_zero.mp hrem)]

end

section
variable {s : State} {live frozen counted : List Loop} {pc : Word}
variable (hx : s.xfer = .seq) (hl : s.cur.loops = live ++ frozen) (hf : frozen.length = s.cur.frozenLoops)
include hx hl hf

/-- A bundle without a transfer counts the live entries and keeps the frozen ones (R274, R276). -/
theorem State.advance_of_counted (hc : countLoops s.cur.pc live live.length = (pc, counted)) :
    s.advance = { s with cur := { s.cur with pc := pc, loops := counted ++ frozen } } := by
  have hlive : s.cur.liveLoops = live.length := by rw [Proc.liveLoops, hl, List.length_append, ← hf, Nat.add_sub_cancel]
  have hkept : (if frozen.length = 0 then counted ++ frozen else counted ++ frozen) = counted ++ frozen := ite_self _
  unfold State.advance
  simp only [hx, hlive, hl, countLoops_append, hc, List.length_append, ← hf, Nat.add_sub_cancel, List.take_left, List.drop_left, hkept]

theorem State.advance_of_standing (hc : countLoops s.cur.pc live live.length = (pc, live)) :
    s.advance = { s with cur := { s.cur with pc := pc } } := by
  rw [State.advance_of_counted hx hl hf hc, ← hl]

end

/-- A bundle that raised nothing ends with its PC and its chunk counted. -/
theorem State.endBundle_of_quiet {s s0 : State} (hgone : s.xfer ≠ .gone) (hleft : s.xfer ≠ .left) (hagain : s.xfer ≠ .again)
    (hflags : s.advance.aflags = 0) : s.endBundle s0 false = { s.advance.countChunk.askTurn with xfer := .seq } := by
  unfold State.endBundle
  rw [if_neg (by simp [hgone, hleft]), if_neg hagain]
  simp only [hflags, true_or, or_true, if_true]

theorem State.advance_aflags (s : State) : s.advance.aflags = s.aflags := by
  unfold State.advance
  split <;> rfl

/-- Settles O20: the counting of the live entries, one case per outcome of the top one. -/
theorem loopsCountAtTheirEndBundle : Obligations.LoopsCountAtTheirEndBundle := by
  intro s
  refine ⟨fun x hx => by rw [State.advance, hx], fun hx live frozen hl hf => ⟨fun hnil => ?_, fun top rest hcons => ?_⟩,
    fun s0 hgone hleft hagain hflags => State.endBundle_of_quiet hgone hleft hagain (s.advance_aflags.trans hflags)⟩
  · subst hnil
    exact State.advance_of_standing hx hl hf (countLoops_nil _)
  subst hcons
  refine ⟨fun hstop => ?_, fun hstop hrem => ?_, fun hstop hrem => ?_⟩
  · exact State.advance_of_standing hx hl hf (countLoops_of_notEnd hstop)
  · exact State.advance_of_counted hx hl hf (countLoops_of_trips hstop hrem)
  · rw [State.advance_of_counted hx hl hf (countLoops_of_lastTrip hstop hrem)]
    exact (State.advance_of_counted (s := { s with cur := { s.cur with loops := rest ++ frozen } }) hx rfl hf rfl).symm

end Sys2Proof.Machine

namespace Sys2Proof.Machine

/-! #### Conditional branches (O21: R213, R273, R277) -/

/-- The word of a conditional branch of major code `k` (R273). -/
def branchWord (l : Lone) (k : Nat) (a b : Reg) (o : BitVec 15) : Nat :=
  (if l.isSome then 2 ^ 31 else 0) + k * 2 ^ 25 + a.toNat * 2 ^ 20 + b.toNat * 2 ^ 15 + o.toNat

theorem branchWord_eq_pack (l : Lone) (k : Nat) (a b : Reg) (o : BitVec 15) :
    branchWord l k a b o = pack [(15, o.toNat), (5, b.toNat), (5, a.toNat), (6, k), (1, loneBit l)] := by
  cases l <;> simp [branchWord, pack, loneBit] <;> omega

/-- A branch's word decodes by its row's fields, in the plain form and, with no offset of its own, in the lone form (R212, R273). -/
theorem decodeC_branchWord {l : Lone} {k e : Nat} {a b : Reg} {o : BitVec 15} {make : Lone → Reg → Reg → BitVec 15 → Instr}
    {row : Nat → Lone → Except DecodeErr Instr} (hk : k < 64)
    (hmajor : ∀ {w x : Nat} {l : Lone}, bitsOf w 25 6 = k → (if bitsOf w 31 1 = 1 then some (BitVec.ofNat 32 x) else none) = l →
      decodeC w x = row w l)
    (hrow : ∀ w l, row w l = checked (make l (fld w 20 5) (fld w 15 5) (fld w 0 15)))
    (hform : illFormed (make l a b o) = if l.isSome && o != 0 then some .loneForm else none)
    (h : l = none ∨ (l = some (BitVec.ofNat 32 e) ∧ o = 0)) :
    decodeC (branchWord l k a b o) e = .ok (make l a b o) := by
  have hfits : Laws.Fits [(15, o.toNat), (5, b.toNat), (5, a.toNat), (6, k), (1, loneBit l)] :=
    ⟨o.isLt, b.isLt, a.isLt, hk, Laws.loneBit_lt l, trivial⟩
  have hfield := Laws.field_of (branchWord_eq_pack l k a b o) hfits
  have hlone : ∀ x, l = some x → BitVec.ofNat 32 e = x := fun x hx => by
    rcases h with h | ⟨h, -⟩
    · exact nomatch h.symm.trans hx
    · exact Option.some.inj (h.symm.trans hx)
  have hwell : illFormed (make l a b o) = none := by
    rcases h with rfl | ⟨-, rfl⟩ <;> exact hform.trans (if_neg (by simp))
  have hra : fld (branchWord l k a b o) 20 5 = a := Laws.fld_of (hfield 2)
  have hrb : fld (branchWord l k a b o) 15 5 = b := Laws.fld_of (hfield 1)
  have hoff : fld (branchWord l k a b o) 0 15 = o := Laws.fld_of (hfield 0)
  rw [hmajor (hfield 3) (Laws.lone_of (hfield 4) hlone), hrow, hra, hrb, hoff, checked, hwell]

/-- Away from a live loop's END the PC goes on by 8 (R276, R277). -/
theorem countLoops_of_not_atLoopEnd {s : State} (h : s.atLoopEnd = false) :
    countLoops s.cur.pc s.cur.loops s.cur.liveLoops = (s.cur.pc + 8, s.cur.loops) := by
  unfold State.atLoopEnd at h
  cases hn : s.cur.liveLoops with
  | zero => simp only [countLoops]
  | succ n =>
    cases hl : s.cur.loops with
    | nil => simp only [countLoops]
    | cons top rest =>
      have hstop : top.stop ≠ s.cur.pc := by simpa [hn, hl] using h
      rw [countLoops, if_neg hstop]

section
variable {s : State} {i : Instr} {l : Lone} {o : BitVec 15} {c : Bool}

/-- A conditional branch leaves the PC at its target or after its bundle, and everything but the loop stack as it was (R273). -/
theorem condBranch_leaves (hx : s.xfer = .seq) (hend : s.atLoopEnd = false) : ∃ t, condBranch s l o c = .next t ∧
    t.advance.cur.pc = (if c then s.branchTo l o else s.cur.pc + 8) ∧ t.cur.g = s.cur.g ∧ t.cur.fsr = s.cur.fsr ∧ t.aflags = s.aflags ∧
    t.mem = s.mem ∧ t.notPerformed = false := by
  cases c with
  | true => exact ⟨_, rfl, rfl, rfl, rfl, rfl, rfl, rfl⟩
  | false =>
    refine ⟨s, rfl, ?_, rfl, rfl, rfl, rfl, by rw [State.notPerformed, hx]; rfl⟩
    simp only [State.advance, hx, countLoops_of_not_atLoopEnd hend, Bool.false_eq_true, if_false]

/-- The A-word of a bundle is performed after a C-word that does not wait for it, with the registers from before the bundle
(R213, R215). -/
theorem runBundle_of_pair {t q : State} {w : Instr} (hlast : performedLast i = false) (ht : exec i s = .next t) (hp : t.notPerformed = false)
    (hq : exec w { t with pre := some s.keep } = .next q) (hn : q.notPerformed = false) :
    runBundle { c := i, a := some w } s = .next { q with pre := none } := by
  simp only [runBundle, runWord, hlast, ht, hp, hq, hn, Bool.false_eq_true, if_false]

/-- What O21 asks of an instruction that is a conditional branch with condition `c`, as its rows of `exec` and the decoder say. -/
theorem conditionalBranch_spec {k : Nat} {a b : Reg} {far : Word} (hlast : performedLast i = false)
    (hexec : exec i s = condBranch s l o c) (hfar : far = s.branchTo l o)
    (hdecode : ∀ e, (l = none ∨ (l = some (BitVec.ofNat 32 e) ∧ o = 0)) → decodeC (branchWord l k a b o) e = .ok i) :
    (∀ e : Nat, (l = none ∨ (l = some (BitVec.ofNat 32 e) ∧ o = 0)) →
      decodeC ((if l.isSome then 2 ^ 31 else 0) + k * 2 ^ 25 + a.toNat * 2 ^ 20 + b.toNat * 2 ^ 15 + o.toNat) e = .ok i) ∧
    (s.xfer = .seq → s.atLoopEnd = false → ∃ t, exec i s = .next t ∧
      t.advance.cur.pc = (if c then far else s.cur.pc + 8) ∧
      t.cur.g = s.cur.g ∧ t.cur.fsr = s.cur.fsr ∧ t.aflags = s.aflags ∧ (∀ x, byteAt t.mem x = byteAt s.mem x) ∧
      (∀ (w : Instr) (q : State),
        exec w { t with pre := some s.keep } = .next q → q.notPerformed = false →
        runBundle { c := i, a := some w } s = .next { q with pre := none })) := by
  refine ⟨hdecode, fun hx hend => ?_⟩
  obtain ⟨t, ht, hpc, hg, hfsr, hflags, hmem, hperf⟩ := condBranch_leaves (l := l) (o := o) (c := c) hx hend
  have hnext := hexec.trans ht
  exact ⟨t, hnext, hfar ▸ hpc, hg, hfsr, hflags, fun x => by rw [hmem], fun w q hq hn => runBundle_of_pair hlast hnext hperf hq hn⟩

end

/-- Settles O21: each of the six rows is a conditional branch, and a conditional branch does what the statement says. -/
theorem conditionalBranchesGoWhereTheirConditionSays : Obligations.ConditionalBranchesGoWhereTheirConditionSays := by
  intro s l a b o far k i cond hrow hfar
  have hto := hfar.trans State.branchTo_eq.symm
  have spec {k : Nat} {i : Instr} {c c' : Bool} (hlast : performedLast i = false) (hexec : exec i s = condBranch s l o c') (hc : c' = c)
      (hdecode : ∀ e, (l = none ∨ (l = some (BitVec.ofNat 32 e) ∧ o = 0)) → decodeC (branchWord l k a b o) e = .ok i) :=
    conditionalBranch_spec hlast (hexec.trans (congrArg (condBranch s l o) hc)) hto hdecode
  simp only [List.mem_cons, Prod.mk.injEq, List.not_mem_nil, or_false] at hrow
  rcases hrow with ⟨rfl, rfl, rfl⟩ | ⟨rfl, rfl, rfl⟩ | ⟨rfl, rfl, rfl⟩ | ⟨rfl, rfl, rfl⟩ | ⟨rfl, rfl, rfl⟩ | ⟨rfl, rfl, rfl⟩
  · exact spec rfl rfl (Bool.eq_iff_iff.mpr (by simp)) fun _ =>
      decodeC_branchWord (by decide) Laws.decodeC05_of (fun _ _ => rfl) rfl
  · exact spec rfl rfl (Bool.eq_iff_iff.mpr (by simp)) fun _ =>
      decodeC_branchWord (by decide) Laws.decodeC06_of (fun _ _ => rfl) rfl
  · exact spec rfl rfl (Bool.eq_iff_iff.mpr (by simp [BitVec.slt_iff_toInt_lt])) fun _ =>
      decodeC_branchWord (by decide) Laws.decodeC07_of (fun _ _ => rfl) rfl
  · exact spec rfl rfl (Bool.eq_iff_iff.mpr (by simp [BitVec.sle_iff_toInt_le])) fun _ =>
      decodeC_branchWord (by decide) Laws.decodeC08_of (fun _ _ => rfl) rfl
  · exact spec rfl rfl (Bool.eq_iff_iff.mpr (by simp [BitVec.ult_iff_toNat_lt])) fun _ =>
      decodeC_branchWord (by decide) Laws.decodeC09_of (fun _ _ => rfl) rfl
  · exact spec rfl rfl (Bool.eq_iff_iff.mpr (by simp [BitVec.ule_iff_toNat_le])) fun _ =>
      decodeC_branchWord (by decide) Laws.decodeC0A_of (fun _ _ => rfl) rfl

end Sys2Proof.Machine

namespace Sys2Proof.Machine

/-! ### A helper table with two entries for one helper (O17)

The `halt` clause asks that a helper that ends reads back as idle. It does not ask for a canonical helper table. Where `run` is all
that the helper's entry holds, the idle helper is the default, so the table drops the entry, and the second one comes to the
front. -/

/-- Helper 0 issues, and stands twice in the table as running. -/
def twiceHelper : State :=
  { State.reset with cur := { State.reset.cur with pid := helperKey 0 },
                     helpers := [(0, { Helper.empty with run := 1 }), (0, { Helper.empty with run := 1 })] }

/-- The end of the program uncovers the second entry. -/
theorem twiceHelper_halt {t : State} (h : exec (.halt none) twiceHelper = .next t) :
    (SMap.get Helper.empty t.helpers (twiceHelper.cur.pid - 2 ^ 64)).run = 1 := by
  cases h
  decide

/-- Refutes O17: with two entries for helper 0, the helper still reads as running after its `halt`. -/
theorem not_loopsBreakpointsAndEndsComplete : ¬ Obligations.LoopsBreakpointsAndEndsComplete := by
  intro h
  obtain ⟨-, hends⟩ := h twiceHelper none 0 0 0 0
  obtain ⟨-, -, hhalt⟩ := hends (by decide)
  obtain ⟨-, hhelper⟩ := hhalt rfl rfl rfl
  obtain ⟨t, ht, -, -, hidle⟩ := hhelper (by decide) rfl
  rw [twiceHelper_halt ht] at hidle
  exact absurd hidle (by decide)

end Sys2Proof.Machine

namespace Sys2Proof.Machine

/-! ### Local traps (O19: R263, R319, R399, R400, R402) -/

/-! #### The header of a fault record -/

theorem faultHeader_cause {lcore slot unit : Nat} {ctx : Byte} {cause bits : Nat} (hbits : 512 ∣ bits) :
    (faultHeader lcore slot unit ctx cause bits).toNat % 512 = cause % 512 := by
  rw [faultHeader, BitVec.toNat_ofNat]
  omega

/-- NESTED stands above every bit that the cause, the freeze and the other flags below it can reach (R402). -/
theorem faultHeader_nested {lcore slot unit : Nat} {ctx : Byte} {cause bits : Nat} (hbits : bits / 2 ^ 27 % 2 = 1)
    (hlow : 512 ∣ bits) : (faultHeader lcore slot unit ctx cause bits).getLsbD 27 = true := by
  rw [faultHeader, getLsbD_ofNat_of_lt (by decide), Nat.testBit_eq_decide_div_mod_eq, decide_eq_true_eq]
  omega

/-! #### Causes raised -/

section
variable {s : State} {f : FaultInfo} {o : Owed} {nested : Bool}

/-- The process that issues is FAULTED, with its registers as they were (R401). -/
theorem State.faultProc_cur : (s.faultProc s.cur.pid f o nested).cur =
    { s.cur with st := .faulted, failed := true,
                 owed := s.cur.owed ++ [{ o with viol := isViolation f.cause && s.cur.resident, tval := f.tval }],
                 frozen := s.cur.frozen || (isViolation f.cause && s.cur.resident) } := by
  unfold State.faultProc
  simp only [State.proc_cur, State.setProc, if_true]
  split_ifs <;> rfl

/-- Its record is posted (R401, R402). -/
theorem State.faultProc_agenda : (s.faultProc s.cur.pid f o nested).agenda = s.agenda ++ [.faultPost s.cur.ctx (faultRecord
    (faultHeader (s.core s.cur.core).lcore (if s.cur.resident then s.cur.unit else 0) 0 s.cur.ctx f.cause
      ((if nested then fbNested else 0) + (if isViolation f.cause && s.cur.resident then fbFrozen else 0) + lastingBits f.cause))
    s.cur.pid o.pc f.tval f.words)] := by
  unfold State.faultProc
  simp only [State.proc_cur, State.setProc, if_true, State.push_agenda]
  congr 1
  split_ifs <;> rfl

theorem lastingBits_cases (cause : Nat) : lastingBits cause = 0 ∨ lastingBits cause = fbLasting := by
  unfold lastingBits
  split
  · exact .inr rfl
  · exact .inl rfl

/-- The flag bits of a NESTED record: bit 27 is one of them, and they stand above the cause (R402). -/
theorem nestedBits_spec (freeze : Bool) (cause : Nat) {bits : Nat}
    (h : bits = fbNested + (if freeze then fbFrozen else 0) + lastingBits cause) : bits / 2 ^ 27 % 2 = 1 ∧ 512 ∣ bits := by
  subst h
  rcases lastingBits_cases cause with h | h <;> rw [h] <;> revert freeze <;> decide

/-- The record of a cause that no handler takes names the cause, with NESTED set (R399, R402). -/
theorem State.faultProc_nested : ∃ hdr : Word, hdr.getLsbD 27 = true ∧ hdr.toNat % 512 = f.cause % 512 ∧
    .faultPost s.cur.ctx (faultRecord hdr s.cur.pid o.pc f.tval f.words) ∈ (s.faultProc s.cur.pid f o true).agenda := by
  rw [State.faultProc_agenda]
  obtain ⟨hnested, habove⟩ := nestedBits_spec (isViolation f.cause && s.cur.resident) f.cause rfl
  exact ⟨_, faultHeader_nested hnested habove, faultHeader_cause habove, List.mem_append_right _ (List.mem_singleton.mpr rfl)⟩

/-- A handler takes a trap cause where TVEC is set and no handler runs (R399). -/
theorem State.raise_of_taken {cause : Nat} {tval epc bundle : Word} {words : List Word} {atIssue : Bool} (hs : s.speculating = false)
    (hc : isTrap cause = true) (ht : s.cur.canTrap = true) : s.raise cause tval epc words atIssue bundle = s.takeTrap cause tval epc := by
  unfold State.raise
  simp only [hs, hc, ht, Bool.and_self, Bool.false_eq_true, if_false, if_true]

theorem State.raise_of_nested {cause : Nat} {tval epc bundle : Word} {words : List Word} {atIssue : Bool} (hs : s.speculating = false)
    (hc : isTrap cause = true) (ht : s.cur.canTrap = false) (hh : s.cur.isHelper = false) :
    s.raise cause tval epc words atIssue bundle =
      { s.faultProc s.cur.pid { cause := cause, tval := tval, words := words }
          { atIssue := atIssue, pc := bundle, req := none, redo := none, writes := [], cls := .none, sn := 0, entry := false,
            again := none } true with xfer := .gone } := by
  unfold State.raise
  simp only [hs, hc, ht, hh, Bool.and_false, Bool.false_eq_true, if_false]

end

theorem Proc.canTrap_iff (p : Proc) : p.canTrap = true ↔ p.tvec ≠ 0 ∧ p.tstat.getLsbD 0 = false := by
  simp [Proc.canTrap]

theorem Proc.canTrap_eq_false_iff (p : Proc) : p.canTrap = false ↔ p.tvec = 0 ∨ p.tstat.getLsbD 0 = true := by
  rw [← Bool.not_eq_true, p.canTrap_iff, not_and_or, not_not, Bool.not_eq_false]

/-- The process that a trap leaves (R399). -/
def Proc.trapped (p : Proc) (cause : Nat) (tval epc : Word) : Proc :=
  { p with tcause := BitVec.ofNat 64 cause, tval := tval, epc := epc, tstat := setField p.tstat 0 1 1,
           frozenLoops := p.loops.length, pc := p.tvec &&& ~~~7#64 }

theorem State.takeTrap_eq (s : State) (cause : Nat) (tval epc : Word) :
    s.takeTrap cause tval epc = { s with cur := s.cur.trapped cause tval epc, xfer := .gone } := rfl

/-! #### Trap instructions and traps of the sequencer -/

section
variable {s : State}

theorem State.advance_tvec : s.advance.cur.tvec = s.cur.tvec := by
  unfold State.advance
  split <;> rfl

/-- `trap n` is taken after the bundle (R319). -/
theorem execTrap_of_taken {l : Lone} {n : BitVec 6} (hs : s.speculating = false) (ht : s.cur.canTrap = true) : execTrap l n s =
    .next { s.advance.takeTrap (0x1C0 + n.toNat) (s.aflags.setWidth 64) s.advance.cur.pc with
      xfer := .jump (s.cur.tvec &&& ~~~7#64), aflags := 0 } := by
  rw [execTrap, boundary_of_not_speculating _ hs, if_pos ht, ← State.advance_tvec]
  rfl

/-- Return from a handler while the sequencer goes on (R319). -/
theorem execTret_of_running {l : Lone} (hhnd : s.cur.tstat.getLsbD 0 = true) (hrun : s.cur.seqStop = false) : execTret l s =
    .next { s with xfer := .jump s.cur.epc, cur := { s.cur with
      tstat := setField s.cur.tstat 0 1 0, loops := s.cur.loops.drop (s.cur.loops.length - s.cur.frozenLoops),
      frozenLoops := 0, seqStop := false } } := by
  rw [execTret, if_pos hhnd, State.tret]
  simp only [hrun, Bool.false_and, Bool.false_eq_true, if_false]

/-- The trap of a stopped entry, at the issue turn of its resident process (R400). -/
theorem execSequencerTrap_of_ready {cause : Nat} {tval : Word} (hst : s.cur.st = .running) (hstop : s.cur.seqStop = true)
    (hres : s.cur.resident = true) (hfz : s.cur.frozen = false) (hw : s.cur.waiting = false) (hlv : s.cur.leaving = 0)
    (hchunk : s.cur.chunk = none) (ht : s.cur.canTrap = true) :
    execSequencerTrap s.cur.pid cause tval s = .next { s.takeTrap cause tval s.cur.pc with xfer := .seq } := by
  have hend (t : State) (hpid : t.cur.pid = s.cur.pid) (hc : t.cur.chunk = none) : t.endTurn s.cur.pid = t := by
    rw [← hpid, State.endTurn, State.proc_cur, hc]
  have hselect : s.select s.cur.pid = s := if_pos rfl
  have htrap : s.seqTrap s.cur.pid cause tval = { s.takeTrap cause tval s.cur.pc with xfer := .seq } := by
    rw [State.seqTrap, hselect, if_pos ht]
    exact hend _ rfl hchunk
  rw [execSequencerTrap]
  simp [hst, hstop, hres, hfz, hw, hlv, hchunk, htrap]

end

/-- Settles O19: traps taken by what raising a cause does where a handler can take it, and where it cannot. -/
theorem trapsAreTakenAndReturnedFrom : Obligations.TrapsAreTakenAndReturnedFrom := by
  intro s l d a b n trapped htrapped hs hh
  obtain rfl : trapped = Proc.trapped :=
    funext fun p => funext fun cause => funext fun tval => funext fun epc => htrapped p cause tval epc
  refine ⟨fun htvec hhnd => ?_, fun hnested cause tval epc words atIssue bundle hcause => ?_, execTret_of_running (l := l),
    fun htvec hhnd hst hstop hres hfz hw hlv hchunk cause tval =>
      execSequencerTrap_of_ready hst hstop hres hfz hw hlv hchunk (s.cur.canTrap_iff.mpr ⟨htvec, hhnd⟩)⟩
  · have htrap := s.cur.canTrap_iff.mpr ⟨htvec, hhnd⟩
    refine ⟨fun cause tval epc words atIssue bundle hcause => State.raise_of_taken hs hcause htrap, fun hb i hi => ?_,
      execTrap_of_taken (l := l) hs htrap⟩
    have hdivided (x : Word × Flags) : divided s d b x = .next (s.takeTrap 0x082 0 s.cur.pc) :=
      (if_pos hb).trans (congrArg _ (State.raise_of_taken hs rfl htrap))
    simp only [List.mem_cons, List.not_mem_nil, or_false] at hi
    rcases hi with rfl | rfl | rfl | rfl <;> exact hdivided _
  · have hcan := s.cur.canTrap_eq_false_iff.mpr hnested
    refine ⟨_, State.raise_of_nested hs hcause hcan hh, ?_, rfl, ?_, ?_, ?_,
      State.faultProc_nested (f := { cause := cause, tval := tval, words := words }) (o := _)⟩ <;> simp only [State.faultProc_cur]

end Sys2Proof.Machine

namespace Sys2Proof.Machine

/-! ### Accesses as they leave the core (O24: R126–R132, R278–R284, R287) -/

/-- What O24 asks of an instruction: `n` is the alignment that it needs, `x` the access that it makes. -/
def SentOrWaits (s : State) (i : Instr) (n : Nat) (x : Acc) : Prop :=
  (x.va.toNat % n = 0 → exec i s = .next (if s.accessWaits x (s.accScope x) then s.stall else s.sendAccess x)) ∧
  (x.va.toNat % n ≠ 0 → exec i s = raiseO s 0x040 x.va)

section
variable {s : State} {i : Instr} {n : Nat} {x : Acc} (hs : s.speculating = false)
include hs

theorem sentOrWaits_of_aligned (h : exec i s = aligned s x.va n (issue s x)) : SentOrWaits s i n x := by
  constructor <;> intro hva
  · rw [h, aligned, if_neg (not_not.mpr hva), issue_of_not_speculating hs]
  · rw [h, aligned, if_pos hva]

/-- An access that a chunk does not make by itself (R149). -/
theorem sentOrWaits_of_boundary (h : exec i s = aligned s x.va n (boundary s (issue s x))) : SentOrWaits s i n x :=
  sentOrWaits_of_aligned hs (by rw [h, boundary_of_not_speculating _ hs])

/-- A nibble access is never misaligned (R280). -/
theorem sentOrWaits_of_nibble (h : exec i s = issue s x) : SentOrWaits s i 1 x :=
  ⟨fun _ => h.trans (issue_of_not_speculating hs), fun hva => absurd (Nat.mod_one _) hva⟩

/-- An atomic's size is that of its function (R222, R283). -/
theorem sentOrWaits_of_atomic {f : BitVec 5} {d a b : Reg} {ord : MemOrder} {sc : BitVec 3} (h : exec i s = atomic s f d a b ord sc)
    (hn : atomSize f = n) :
    SentOrWaits s i n { va := s.g a, size := n, op := .atom f (s.g b) (s.g d) (d != 0), ord := ord, sc := sc.toNat, rd := d } := by
  subst hn
  exact sentOrWaits_of_boundary hs h

end

/-- Settles O24: each row is an aligned access, one of these at a chunk's boundary, a nibble access or an atomic. -/
theorem accessesAreSentOrWait : Obligations.AccessesAreSentOrWait := by
  intro s l d a b ord sc f k va nib acc rows hs hva hnib hacc hrows
  obtain rfl : va = fun n => s.ea l a f n := funext fun n => (hva n).trans (by cases l <;> rfl)
  obtain rfl : acc = fun n x op r => { va := x, size := n, op := op, ord := ord, sc := sc.toNat, rd := r } :=
    funext fun n => funext fun x => funext fun op => funext fun r => hacc n x op r
  have hnibble : s.nibbleAddr a b = (BitVec.ofNat 64 (nib / 16 * 8), nib % 16) := by rw [hnib]; rfl
  have plain {i n x} := sentOrWaits_of_aligned (i := i) (n := n) (x := x) hs
  have bound {i n x} := sentOrWaits_of_boundary (i := i) (n := n) (x := x) hs
  have nibble {i x} := sentOrWaits_of_nibble (i := i) (x := x) hs
  have atom {i n f} := sentOrWaits_of_atomic (i := i) (n := n) (f := f) (d := d) (a := a) (b := b) (ord := ord) (sc := sc) hs
  subst hrows
  change ∀ r : Instr × Nat × Acc, r ∈ _ → SentOrWaits s r.1 r.2.1 r.2.2
  rw [List.forall_mem_append, List.forall_mem_map]
  simp only [List.forall_mem_cons]
  refine ⟨⟨plain rfl, plain rfl, plain rfl, plain rfl, plain rfl, plain rfl, plain rfl, plain rfl, plain rfl, plain rfl, plain rfl,
    nibble ?_, nibble ?_, nibble ?_, bound rfl, bound rfl, bound rfl, plain rfl, bound rfl, fun _ h => nomatch h⟩,
    atom rfl rfl, atom rfl rfl, atom rfl rfl, atom rfl rfl, atom rfl rfl, atom rfl rfl, atom rfl rfl, atom rfl rfl, atom rfl rfl,
    atom rfl rfl, atom rfl rfl, atom rfl rfl, atom rfl rfl, atom rfl rfl, atom rfl rfl, atom rfl rfl, atom rfl rfl, atom rfl rfl,
    atom rfl rfl, atom rfl rfl, atom rfl rfl, atom rfl rfl, atom rfl rfl, fun _ h => nomatch h⟩
  · exact (show exec _ s = loadNibble s d a b ord sc true from rfl).trans (by rw [loadNibble, hnibble])
  · exact (show exec _ s = loadNibble s d a b ord sc false from rfl).trans (by rw [loadNibble, hnibble])
  · exact (show exec _ s = execStn l d a b ord sc s from rfl).trans (by rw [execStn, hnibble]; simp [field])

end Sys2Proof.Machine

namespace Sys2Proof.Machine

/-! ### Counts and types of summaries (O39: R352–R365) -/

/-! #### Folds -/

theorem foldl_keeps {α β γ : Type} {f : α → β → α} (g : α → γ) (hf : ∀ x b, g (f x b) = g x) (l : List β) (x : α) :
    g (l.foldl f x) = g x := by
  induction l generalizing x with
  | nil => rfl
  | cons b r ih => rw [List.foldl_cons, ih, hf]

/-- A fold whose step counts one key counts the keys, modulo 2^64. -/
theorem foldl_counts {α β : Type} {f : α → β → α} (n : α → Nat) (hf : ∀ x b, n (f x b) = (n x + 1) % 2 ^ 64) (l : List β) {x : α}
    (hx : n x < 2 ^ 64) : n (l.foldl f x) = (n x + l.length) % 2 ^ 64 := by
  induction l generalizing x with
  | nil => exact (Nat.mod_eq_of_lt hx).symm
  | cons b r ih =>
    rw [List.foldl_cons, ih (by rw [hf]; exact Nat.mod_lt _ (by decide)), hf, List.length_cons]
    omega

/-! #### The quantile sketch (R353–R355, R363) -/

/-- What a summary's header says of its keys. -/
def QS.head (q : QS) : Nat × Nat := (q.ktype, q.ncount)

/-- A key that arrives at a level, and those it pushes up, change neither type nor count (R354). -/
theorem sketchArrive_head (fuel : Nat) (q : QS) (h k : Nat) : (sketchArrive fuel q h k).head = q.head := by
  induction fuel generalizing q h k with
  | zero => rfl
  | succ n ih =>
    simp only [sketchArrive]
    split_ifs
    · rfl
    · rfl
    · exact foldl_keeps QS.head (fun q x => ih q (h + 1) x) _ _

theorem QS.insert_ktype (q : QS) (k : Nat) : (q.insert k).ktype = q.ktype :=
  congrArg Prod.fst (sketchArrive_head 15 _ 0 k)

theorem QS.insert_ncount (q : QS) (k : Nat) : (q.insert k).ncount = (q.ncount + 1) % 2 ^ 64 :=
  congrArg Prod.snd (sketchArrive_head 15 _ 0 k)

theorem QS.seeded_head (q : QS) (level : Nat) (seed : Word) : (q.seeded level seed).head = q.head := by
  unfold QS.seeded
  split <;> rfl

/-- The keys of the source arrive without being counted; the counts are added (R363). -/
theorem QS.merge_head (q src : QS) : (q.merge src).head = (q.ktype, (q.ncount + src.ncount) % 2 ^ 64) := by
  have hkept := foldl_keeps QS.head (fun q h => foldl_keeps QS.head (fun q k => sketchArrive_head (15 - h) q h k)
    ((src.level h).take (src.fillOf h)) q) (List.range 15) q
  simp only [QS.head, Prod.mk.injEq] at hkept
  simp only [QS.merge, QS.head, hkept]

/-! #### Heavy hitters and register sets (R356–R359) -/

theorem HH.insert_ktype (x : HH) (k : Nat) : (x.insert k).ktype = x.ktype := by
  unfold HH.insert
  dsimp only
  split_ifs <;> rfl

theorem HH.insert_ncount (x : HH) (k : Nat) : (x.insert k).ncount = (x.ncount + 1) % 2 ^ 64 := by
  unfold HH.insert
  dsimp only
  split_ifs <;> rfl

/-- A key raises one register, so the same key raises nothing more (R359). -/
theorem DC.insert_regs (x : DC) (k : Nat) (hx : x.regs.length = 1024) :
    (x.insert k).regs.length = 1024 ∧ ((x.insert k).insert k).regs = (x.insert k).regs := by
  have hj : field (mix64 (zeroExtend k 32)) 54 10 < x.regs.length := by
    rw [hx]
    exact Nat.mod_lt _ (by decide)
  refine ⟨(List.length_set ..).trans hx, ?_⟩
  simp [DC.insert, List.getD_eq_getElem?_getD, hj]

theorem zip_self_max (l : List Nat) : (l.zip l).map (fun p => max p.1 p.2) = l := by
  induction l with
  | nil => rfl
  | cons a r ih => rw [List.zip_cons_cons, List.map_cons, ih, Nat.max_self]

theorem zip_comm_max (l m : List Nat) : (l.zip m).map (fun p => max p.1 p.2) = (m.zip l).map fun p => max p.1 p.2 := by
  rw [← List.zip_swap, List.map_map]
  exact List.map_congr_left fun p _ => Nat.max_comm ..

/-! #### Summaries of any kind -/

/-- The kind of a summary, as `skinit` numbers it (R362). -/
def Sketch.kind (x : Sketch) : Nat :=
  match x with
  | .qs _ => 0
  | .hh _ => 1
  | .dc _ => 2

/-- Keys inserted into a fresh summary are counted and give it their type (R352, R354, R357, R359, R360). -/
theorem Sketch.insertAll_fresh {kind ty level : Nat} {seed : Word} {keys : List Nat} (hkind : kind < 3) (hkeys : keys ≠ []) :
    ∃ x, (Sketch.fresh kind).insertAll ty keys level seed = some x ∧ x.kind = kind ∧ x.ktype = ty ∧
      x.ncount = keys.length % 2 ^ 64 := by
  have hempty : keys.isEmpty = false := by simpa using hkeys
  obtain rfl | rfl | rfl : kind = 0 ∨ kind = 1 ∨ kind = 2 := by omega
  · have hseed := QS.seeded_head { QS.empty with ktype := ty } level seed
    simp only [QS.head, Prod.mk.injEq] at hseed
    refine ⟨_, by rw [Sketch.insertAll, hempty]; rfl, rfl, ?_, ?_⟩
    · exact (foldl_keeps QS.ktype QS.insert_ktype keys _).trans hseed.1
    · have hcount := foldl_counts QS.ncount QS.insert_ncount keys (x := QS.seeded { QS.empty with ktype := ty } level seed)
        (by rw [hseed.2]; decide)
      rwa [hseed.2, QS.empty, Nat.zero_add] at hcount
  · refine ⟨.hh (keys.foldl HH.insert { ktype := ty, ncount := 0, dtotal := 0, entries := [] }), by rw [Sketch.insertAll, hempty]; rfl,
      rfl, foldl_keeps HH.ktype HH.insert_ktype keys _, ?_⟩
    exact (foldl_counts HH.ncount HH.insert_ncount keys (Nat.two_pow_pos 64)).trans (by rw [Nat.zero_add])
  · refine ⟨.dc (keys.foldl DC.insert { ktype := ty, ncount := 0, regs := List.replicate 1024 0 }), by rw [Sketch.insertAll, hempty]; rfl,
      rfl, foldl_keeps (f := DC.insert) DC.ktype (fun _ _ => rfl) keys _, ?_⟩
    exact (foldl_counts DC.ncount (fun _ _ => rfl) keys (Nat.two_pow_pos 64)).trans (by rw [Nat.zero_add])

/-- Keys of another type are refused (R352). -/
theorem Sketch.insertAll_of_otherType {x : Sketch} {t level : Nat} {seed : Word} {keys : List Nat} (hkeys : keys ≠ [])
    (htyped : x.ktype ≠ 15) (ht : x.ktype ≠ t) : x.insertAll t keys level seed = none := by
  rw [Sketch.insertAll, if_neg (by simpa using hkeys), if_pos ⟨htyped, ht⟩]

theorem Sketch.query_count (x : Sketch) (v : W32) : x.query .count v = some (BitVec.ofNat 64 x.ncount) := by
  cases x <;> rfl

/-- Merging adds the counts of summaries of one kind and type (R363). -/
theorem Sketch.merge_of_alike {x y : Sketch} {level : Nat} {seed : Word} (hkind : x.kind = y.kind) (htype : x.ktype = y.ktype)
    (htyped : x.ktype ≠ 15) :
    ∃ z, x.merge y level seed = some z ∧ z.ktype = x.ktype ∧ z.ncount = (x.ncount + y.ncount) % 2 ^ 64 := by
  have hsame : ¬ (x.ktype ≠ 15 ∧ y.ktype ≠ 15 ∧ x.ktype ≠ y.ktype) := fun h => h.2.2 htype
  rw [Sketch.merge, if_neg hsame, if_neg htyped]
  match x, y, hkind with
  | .qs q, .qs r, _ =>
    have hhead := QS.merge_head (q.seeded level seed) r
    have hseed := q.seeded_head level seed
    simp only [QS.head, Prod.mk.injEq] at hhead hseed
    exact ⟨_, rfl, hhead.1.trans hseed.1, hhead.2.trans (by rw [hseed.2]; rfl)⟩
  | .hh _, .hh _, _ => exact ⟨_, rfl, rfl, rfl⟩
  | .dc _, .dc _, _ => exact ⟨_, rfl, rfl, rfl⟩

/-- Settles O39: by the counts of insertions and merges of each kind, and the registers as maxima. -/
theorem sketchesCountEveryKeyAndMergeAddsTheCounts : Obligations.SketchesCountEveryKeyAndMergeAddsTheCounts := by
  intro level seed ty keys more hty hkeys
  refine ⟨fun kind hkind => ?_, fun x y hx hy => ⟨zip_self_max _, zip_comm_max _ _, ?_, fun k => x.insert_regs k hx⟩⟩
  · obtain ⟨x, hx, hxkind, rfl, hcount⟩ := Sketch.insertAll_fresh (ty := ty) (level := level) (seed := seed) hkind hkeys
    have htyped : x.ktype ≠ 15 := Nat.ne_of_lt hty
    refine ⟨x, hx, rfl, hcount, x.query_count, fun t ht hmore => Sketch.insertAll_of_otherType hmore htyped ht.symm, fun y hy hmore => ?_⟩
    obtain ⟨y', hy', hykind, hytype, -⟩ := Sketch.insertAll_fresh (ty := x.ktype) (level := level) (seed := seed) hkind hmore
    obtain rfl : y' = y := Option.some.inj (hy'.symm.trans hy)
    exact Sketch.merge_of_alike (hxkind.trans hykind.symm) hytype.symm htyped
  · simp [DC.merge, hx, hy]

end Sys2Proof.Machine

namespace Sys2Proof.Machine

/-! ### Vector A-words at issue (O34: R326, R331, R341–R349, R360) -/

/-- What O34 asks of an instruction: `op` is its entry's operation, `ga` and `gb` the registers that it captures, and `fits` says that its
record stands where it may. -/
def QueuesEntry (s : State) (i : Instr) (op : VecOp) (ga gb : Word) (fits : Prop) : Prop :=
  (s.units = 0 → exec i s = raiseO s 0x009 s.aword) ∧
  (s.units ≠ 0 → op.badIndex (16 * s.units) gb = false → fits →
    (s.cur.seqRoom ≠ 0 → s.cur.cnt.full op.cls = false → ∀ e : SeqEntry,
      e = { word := s.aword.setWidth 32, isC := false, op := op, ga := ga, gb := gb, fcr := s.fcr, pc := s.cur.pc } →
      exec i s = .next (s.queueEntry e)) ∧
    (s.cur.seqRoom = 0 ∨ s.cur.cnt.full op.cls = true → exec i s = .next s.stall))

section
variable {s : State} {isC : Bool} {op : VecOp} {ga gb : Word} {k : Out → Out}

theorem vecIssue_of_noLanes (h : s.units = 0) : vecIssue s isC op ga gb k = raiseO s 0x009 (if isC then s.cword else s.aword) :=
  if_pos h

/-! Lanes are there and the entry's index is one of theirs. -/

section
variable (h : s.units ≠ 0) (hindex : op.badIndex (16 * s.units) gb = false)
include h hindex

theorem vecIssue_of_lanes : vecIssue s isC op ga gb k = k (if s.cur.seqRoom = 0 || s.cur.cnt.full op.cls then .next s.stall
    else .next (s.queueEntry { word := (if isC then s.cword else s.aword).setWidth 32, isC := isC, op := op, ga := ga, gb := gb,
                               fcr := s.fcr, pc := s.cur.pc })) := by
  unfold vecIssue
  rw [if_neg h, if_neg (by rw [hindex]; decide)]

theorem vecIssue_of_room (hroom : s.cur.seqRoom ≠ 0) (hfull : s.cur.cnt.full op.cls = false) : vecIssue s isC op ga gb k =
    k (.next (s.queueEntry { word := (if isC then s.cword else s.aword).setWidth 32, isC := isC, op := op, ga := ga, gb := gb,
                             fcr := s.fcr, pc := s.cur.pc })) := by
  rw [vecIssue_of_lanes h hindex, if_neg (by simp [hroom, hfull])]

theorem vecIssue_of_noRoom (hfull : s.cur.seqRoom = 0 ∨ s.cur.cnt.full op.cls = true) :
    vecIssue s isC op ga gb k = k (.next s.stall) := by
  rw [vecIssue_of_lanes h hindex, if_pos (by simpa using hfull)]

end

/-- An A-word queues its entry where nothing of its own is checked beside. -/
theorem queuesEntry_of_vecIssue {i : Instr} {fits : Prop} (h : exec i s = vecIssue s false op ga gb k)
    (hk : fits → ∀ o, k o = o) : QueuesEntry s i op ga gb fits := by
  refine ⟨fun h0 => h.trans (vecIssue_of_noLanes h0), fun hunits hindex hfits =>
    ⟨fun hroom hfull e he => ?_, fun hfull => ?_⟩⟩
  · rw [he, h, vecIssue_of_room hunits hindex hroom hfull, hk hfits]
    rfl
  · rw [h, vecIssue_of_noRoom hunits hindex hfull, hk hfits]

theorem queuesEntry_of_vecA {i : Instr} {fits : Prop} (h : exec i s = vecA s op) : QueuesEntry s i op 0 0 fits :=
  queuesEntry_of_vecIssue h fun _ _ => rfl

/-- An A-word that captures registers; g0 reads 0. -/
theorem queuesEntry_of_vecAg {i : Instr} {fits : Prop} {a b : Reg} (h : exec i s = vecAg s op a b) (ha : s.g a = ga) (hb : s.g b = gb) :
    QueuesEntry s i op ga gb fits := by
  subst ha hb
  exact queuesEntry_of_vecIssue h fun _ _ => rfl

/-- An insertion into an aligned record (R351, R360). -/
theorem queuesEntry_of_skIssue {i : Instr} {f : SkOp} {a b : Reg} {m : MReg} {t : LaneTy} (h : exec i s = skIssue s f a b m t) :
    QueuesEntry s i (.sk f 0 a b m t) 0 (s.g b)
      ((∃ f', (VecOp.sk f 0 a b m t) = .sk f' 0 a b m t) → (s.g b).toNat % 64 = 0) :=
  queuesEntry_of_vecIssue h fun hfits _ => if_neg (not_not.mpr (hfits ⟨f, rfl⟩))

end

/-- Settles O34: each row is an A-word on lanes alone, one that captures registers, or an insertion. -/
theorem vectorInstructionsQueueTheirEntry : Obligations.VectorInstructionsQueueTheirEntry := by
  intro s d a b c i j k m t u rows hrows
  subst hrows
  change ∀ r : Instr × VecOp × Word × Word, r ∈ _ →
    QueuesEntry s r.1 r.2.1 r.2.2.1 r.2.2.2 ((∃ f, r.2.1 = .sk f 0 a b m t) → (s.g b).toNat % 64 = 0)
  have lanes {i op fits} := queuesEntry_of_vecA (s := s) (i := i) (op := op) (fits := fits)
  have g0 := s.g_zero
  simp only [List.forall_mem_cons]
  exact ⟨lanes rfl, lanes rfl, lanes rfl, lanes rfl, lanes rfl, lanes rfl, lanes rfl, lanes rfl, lanes rfl, lanes rfl, lanes rfl,
    lanes rfl, lanes rfl, lanes rfl, lanes rfl, lanes rfl, lanes rfl, lanes rfl, lanes rfl, lanes rfl, lanes rfl, lanes rfl,
    lanes rfl, lanes rfl, lanes rfl, lanes rfl, lanes rfl, lanes rfl, lanes rfl, lanes rfl, lanes rfl, lanes rfl, lanes rfl,
    lanes rfl, lanes rfl, queuesEntry_of_vecAg rfl rfl g0, lanes rfl, lanes rfl, queuesEntry_of_vecAg rfl rfl g0,
    queuesEntry_of_vecAg rfl g0 rfl, lanes rfl, lanes rfl, lanes rfl, queuesEntry_of_vecAg rfl rfl rfl, queuesEntry_of_vecAg rfl g0 rfl,
    lanes rfl, lanes rfl, lanes rfl, lanes rfl, lanes rfl, lanes rfl, lanes rfl, lanes rfl, lanes rfl, lanes rfl, lanes rfl, lanes rfl,
    lanes rfl, lanes rfl, lanes rfl, lanes rfl, lanes rfl, lanes rfl, lanes rfl, lanes rfl, lanes rfl, queuesEntry_of_skIssue rfl,
    queuesEntry_of_skIssue rfl, queuesEntry_of_skIssue rfl, fun _ h => nomatch h⟩

end Sys2Proof.Machine

namespace Sys2Proof.Machine

/-! ### Lane control, bindings, vector memory entries and vector loops (O35: R328–R340) -/

/-! #### Vector loads and stores (R338, R340) -/

section
variable {s : State} {op : VecOp} {a b : Reg} {x : VecMem}

theorem maskN_allOnes_lt {n i : Nat} (h : (maskN n (BitVec.allOnes 256)).getLsbD i = true) : i < n := by
  rw [maskN, BitVec.getLsbD_and, BitVec.getLsbD_ofNat, Nat.testBit_two_pow_sub_one] at h
  simp only [Bool.and_eq_true, decide_eq_true_eq] at h
  exact h.2.2

variable (hmem : op.mem = some x)
include hmem

/-- Only `vins` and `vext` have an index. -/
theorem badIndex_of_mem (n : Nat) (gb : Word) : op.badIndex n gb = false := by
  cases op with
  | ins | ext => exact nomatch hmem
  | _ => rfl

variable (h : s.units ≠ 0)
include h

/-- A 4-bit type has no stride (R338). -/
theorem vecMemIssue_of_stride (hty : nibblesOf x.ty = 1) (hstride : x.unit_ = false) : vecMemIssue s op a b = raiseO s 0x001 s.cword := by
  rw [vecMemIssue, vecIssue_of_lanes h (badIndex_of_mem hmem _ _), hmem]
  exact if_pos ⟨hty, by rw [hstride]; rfl⟩

variable (hty : ¬ (nibblesOf x.ty = 1 ∧ (!x.unit_) = true)) (hroom : s.cur.seqRoom ≠ 0) (hfull : s.cur.cnt.full op.cls = false)
include hty hroom hfull

/-- Elements at offsets are checked when the entry executes (R340). -/
theorem vecMemIssue_of_indexed (hindexed : x.indexed = true) : vecMemIssue s op a b = .next (s.queueEntry
    { word := s.cword.setWidth 32, isC := true, op := op, ga := s.g a, gb := s.g b, fcr := s.fcr, pc := s.cur.pc }) := by
  rw [vecMemIssue, vecIssue_of_room h (badIndex_of_mem hmem _ _) hroom hfull, hmem]
  exact (if_neg hty).trans (if_pos hindexed)

/-- Every element at issue stands where its size allows (R338). -/
theorem vecMemIssue_of_aligned (hindexed : x.indexed = false)
    (hal : ∀ i < s.cur.laneCount, x.addr (s.g a) (s.g b) s.cur.laneCount 0 i 0 % nibblesOf x.ty = 0) :
    vecMemIssue s op a b = .next (s.queueEntry
      { word := s.cword.setWidth 32, isC := true, op := op, ga := s.g a, gb := s.g b, fcr := s.fcr, pc := s.cur.pc }) := by
  rw [vecMemIssue, vecIssue_of_room h (badIndex_of_mem hmem _ _) hroom hfull, hmem]
  refine (if_neg hty).trans ((if_neg (by rw [hindexed]; decide)).trans (if_neg ?_))
  simp only [VecMem.elems, List.any_map, List.any_eq_true, List.mem_filter, Function.comp_apply, if_true, not_exists, not_and]
  exact fun i hi hmis => of_decide_eq_true hmis (hal i (maskN_allOnes_lt hi.2))

end

/-- The nibble address of a lane in the first iteration (R78, R338). -/
theorem VecMem.addr_of_direct {x : VecMem} (hindexed : x.indexed = false) {ga gb : Word} {n i : Nat}
    (hal : (if x.unit_ then (ga + BitVec.ofNat 64 (i * (nibblesOf x.ty / 2))).toNat else (ga + BitVec.ofNat 64 i * gb).toNat) * 2 %
      nibblesOf x.ty = 0 ∨ nibblesOf x.ty = 1) : x.addr ga gb n 0 i 0 % nibblesOf x.ty = 0 := by
  by_cases hone : nibblesOf x.ty = 1
  · rw [hone, Nat.mod_one]
  · have hal := hal.resolve_right hone
    unfold VecMem.addr
    simp only [if_neg hone, hindexed, Bool.false_eq_true, if_false, Nat.zero_mul, Nat.zero_add]
    split_ifs at hal ⊢ <;> rwa [Nat.mul_comm]

/-- `vld` and `vst` at their issue (R338): `op` is their entry's operation, with the registers `a` and `b`. -/
theorem vecMemIssue_direct {s : State} {op : VecOp} {x : VecMem} {a b : Reg} (hmem : op.mem = some x) (h : s.units ≠ 0)
    (hindexed : x.indexed = false) (hunit : x.unit_ = (b == 0)) :
    (nibblesOf x.ty = 1 → b ≠ 0 → vecMemIssue s op a b = raiseO s 0x001 s.cword) ∧
    (nibblesOf x.ty ≠ 1 ∨ b = 0 → s.cur.seqRoom ≠ 0 → s.cur.cnt.full op.cls = false →
      (∀ i < s.cur.laneCount,
        (if b = 0 then (s.g a + BitVec.ofNat 64 (i * (nibblesOf x.ty / 2))).toNat
         else (s.g a + BitVec.ofNat 64 i * s.g b).toNat) * 2 % nibblesOf x.ty = 0 ∨ nibblesOf x.ty = 1) →
      vecMemIssue s op a b = .next (s.queueEntry
        { word := s.cword.setWidth 32, isC := true, op := op, ga := s.g a, gb := s.g b, fcr := s.fcr, pc := s.cur.pc })) := by
  refine ⟨fun hty hb => vecMemIssue_of_stride hmem h hty (by rw [hunit]; simpa using hb), fun hty hroom hfull hal => ?_⟩
  refine vecMemIssue_of_aligned hmem h ?_ hroom hfull hindexed fun i hi => VecMem.addr_of_direct hindexed ?_
  · rw [hunit]
    simpa [or_iff_not_imp_left] using hty
  · simpa only [hunit, beq_iff_eq] using hal i hi

/-! #### Claims and releases (R328–R330) -/

section
variable {s : State} {d a b : Reg} {l : Lone}

theorem claimOk_iff (m n : Word) : claimOk m n = true ↔ 1 ≤ m.toNat ∧ m.toNat ≤ n.toNat ∧ n.toNat ≤ 16 := by
  simp [claimOk, and_assoc]

theorem execVclaim_of_lanes (h : s.units ≠ 0) : execVclaim l d a b s = raiseO s 0x001 s.cword :=
  if_pos (by simp [h])

section
variable (hok : claimOk (s.g a) (s.g b) = true)
variable (hs : s.speculating = false) (hrc : s.cur.rc = false)
include hok hs hrc

theorem execVclaim_of_noLanes (h : s.units = 0) : execVclaim l d a b s = .next (s.sendClaim d (s.g a).toNat (s.g b).toNat 0) := by
  rw [execVclaim, if_neg (by simp [hok, h]), boundary_of_not_speculating _ hs, notInHandler_of_not_rc _ hrc]

theorem execVrenew_of_noLanes (h : s.units = 0) : execVrenew l d a b s = .next (s.sendClaim d (s.g a).toNat (s.g b).toNat 0) := by
  rw [execVrenew, if_neg (by simp [hok]), boundary_of_not_speculating _ hs, notInHandler_of_not_rc _ hrc]
  exact if_pos h

/-- The lanes held go back to the pool, and the claim names how many are kept (R329). -/
theorem execVrenew_of_lanes (h : s.units ≠ 0) (hidle : s.cur.seqIdle = true) {q : State}
    (hq : q = s.updBench (s.cur.core / 8) fun x => { x with used := x.used - s.units }) : execVrenew l d a b s =
    .next (State.sendClaim { q with cur := { q.cur with vgrant := setField q.cur.vgrant 0 5 0 } } d (s.g a).toNat (s.g b).toNat s.units) := by
  subst hq
  rw [execVrenew, if_neg (by simp [hok]), boundary_of_not_speculating _ hs, notInHandler_of_not_rc _ hrc]
  exact (if_neg h).trans (if_neg (by rw [hidle]; decide))

end

theorem Proc.seqIdle_of_empty {p : Proc} (hseq : p.seq = []) (hloop : p.vloop = none) : p.seqIdle = true := by
  rw [Proc.seqIdle, hseq, hloop]
  rfl

/-- Giving lanes back changes no byte. -/
@[simp] theorem State.dropLanes_mem (s : State) (pid : Nat) : (s.dropLanes pid).mem = s.mem := by
  unfold State.dropLanes
  dsimp only
  split_ifs
  · rfl
  · exact s.updProc_mem _ _
  · exact s.updProc_mem _ _

theorem execVrel_of_noLanes (hs : s.speculating = false) (h : s.units = 0) : execVrel l s = .next s := by
  rw [execVrel, boundary_of_not_speculating _ hs, if_pos h]

theorem execVrel_of_lanes (hs : s.speculating = false) (h : s.units ≠ 0) (hidle : s.cur.seqIdle = true) :
    execVrel l s = .next ((s.dropLanes s.cur.pid).updCur fun p => { p with bound := 0, dir := 0 }) := by
  rw [execVrel, boundary_of_not_speculating _ hs, if_neg h, if_neg (by rw [hidle]; decide)]

end

/-! #### Stream bindings (R336) -/

section
variable {s : State} {a : Reg} {l : Lone}

/-- One bit of a byte. -/
theorem getLsbD_ofNat_two_pow {k i : Nat} (hi : i < 8) : (BitVec.ofNat 8 (2 ^ k)).getLsbD i = decide (i = k) := by
  rw [BitVec.getLsbD_ofNat, decide_eq_true hi, Bool.true_and, Nat.testBit_two_pow]
  simp only [eq_comm]

theorem execVbind_of_bound (hb : s.cur.bound.getLsbD (field (s.g a) 0 3) = true) : execVbind l a s = raiseO s 0x001 s.cword :=
  if_pos (.inr hb)

section
variable (hsmall : (s.g a).toNat < 16)
include hsmall

theorem field_high_of_small : ¬ field (s.g a) 4 60 ≠ 0 := by
  simp [field, Nat.div_eq_of_lt hsmall]

/-- The direction that an operand of `vbind` names, at the place of its register. -/
theorem getLsbD_direction {k i : Nat} (hi : i < 8) :
    (BitVec.ofNat 8 (field (s.g a) 3 1 * 2 ^ k)).getLsbD i = (decide (i = k) && decide (8 ≤ (s.g a).toNat)) := by
  have hdir : field (s.g a) 3 1 = if 8 ≤ (s.g a).toNat then 1 else 0 := by
    unfold field
    split_ifs <;> omega
  rw [hdir]
  split_ifs with hout
  · rw [Nat.one_mul, getLsbD_ofNat_two_pow hi, decide_eq_true hout, Bool.and_true]
  · simp [hout]

/-- A free register is bound, its direction is that of the operand, and nothing else of the process changes. -/
theorem execVbind_of_free {k : Nat} (hk : k = field (s.g a) 0 3) (hb : s.cur.bound.getLsbD k = false) :
    ∃ q, execVbind l a s = .next q ∧
      (∀ i, i < 8 → q.cur.bound.getLsbD i = (s.cur.bound.getLsbD i || decide (i = k))) ∧
      (∀ i, i < 8 → q.cur.dir.getLsbD i = if i = k then decide (8 ≤ (s.g a).toNat) else s.cur.dir.getLsbD i) ∧
      q.mem = s.mem ∧ q.cur.g = s.cur.g ∧ q.cur.v = s.cur.v := by
  subst hk
  have hfree : ¬ (field (s.g a) 4 60 ≠ 0 ∨ s.cur.bound.getLsbD (field (s.g a) 0 3) = true) := by
    rw [hb]
    simpa using field_high_of_small hsmall
  refine ⟨_, if_neg hfree, fun i hi => ?_, fun i hi => ?_, rfl, rfl, rfl⟩
  · rw [BitVec.getLsbD_or, getLsbD_ofNat_two_pow hi]
  · rw [BitVec.getLsbD_or, BitVec.getLsbD_and, BitVec.getLsbD_not, getLsbD_ofNat_two_pow hi, getLsbD_direction hsmall hi,
      decide_eq_true hi]
    by_cases hik : i = field (s.g a) 0 3 <;> simp [hik]

theorem execVunbind_of_free (hb : s.cur.bound.getLsbD (field (s.g a) 0 3) = false) : execVunbind l a s = .next s :=
  (if_neg (field_high_of_small hsmall)).trans (if_pos (by rw [hb]; rfl))

/-- A bound register that no entry names is free again, and its lanes are 0. -/
theorem execVunbind_of_bound {k : Nat} (hk : k = field (s.g a) 0 3) (hb : s.cur.bound.getLsbD k = true) (hseq : s.cur.seq = [])
    (hloop : s.cur.vloop = none) : ∃ q, execVunbind l a s = .next q ∧
      (∀ i, i < 8 → q.cur.bound.getLsbD i = (s.cur.bound.getLsbD i && decide (i ≠ k))) ∧
      (∀ r : Reg, q.cur.v[r.toNat]'r.isLt =
        if r.toNat = 24 + k then List.replicate s.cur.laneCount 0 else s.cur.v[r.toNat]'r.isLt) ∧
      q.mem = s.mem ∧ q.cur.g = s.cur.g := by
  subst hk
  have hreg : (BitVec.ofNat 5 (24 + field (s.g a) 0 3)).toNat = 24 + field (s.g a) 0 3 := by
    rw [BitVec.toNat_ofNat, field_low3]
    omega
  have hbound : ¬ (!s.cur.bound.getLsbD (field (s.g a) 0 3)) = true := by
    rw [hb]
    decide
  have hunnamed : ¬ ((seqAll s.cur.seq s.cur.vloop).any fun e => e.names (BitVec.ofNat 5 (24 + field (s.g a) 0 3))) = true := by
    rw [hseq, hloop]
    exact Bool.false_ne_true
  refine ⟨_, (if_neg (field_high_of_small hsmall)).trans ((if_neg hbound).trans (if_neg hunnamed)), fun i hi => ?_, fun r => ?_, rfl, rfl⟩
  · simp only [BitVec.getLsbD_and, BitVec.getLsbD_not, getLsbD_ofNat_two_pow hi, hi, decide_true, Bool.true_and, decide_not, ne_eq]
  · simp only [Vector.getElem_set, hreg, eq_comm]

end

end

/-! #### Vector loops (R334) -/

section
variable {s q : State} {l : Lone} {len : BitVec 5} {a : Reg} {es : List SeqEntry}
variable (h : s.units ≠ 0) (hread : readBody len.toNat s (s.cur.pc + 8) = .ok q es) (hlen : es.length ≤ 16)
  (hend : s.bodyHoldsEnd len.toNat = false)
  (hes : ∀ e ∈ es, e.op.badIndex (16 * s.units) e.gb = false ∧ s.cur.isPend e.op.gReads.1 = false ∧ s.cur.isPend e.op.gReads.2 = false)
include h hread hlen hend hes

/-- A body that is well formed is queued, or gone past (R334). -/
theorem execVloop_of_body {j : State}
    (hj : j = ((q.dropHost s.cur.core s.cur.ctx).dropAsks s.cur.core (bodyUnit s)).jump (s.cur.pc + 8 * (len.setWidth 64 + 1))) :
    execVloop l len a s = if s.g a = 0 ∨ es.isEmpty then .next j
      else if s.cur.vloop.isSome ∨ s.cur.seqRoom < es.length ∨ es.any (fun e => decide (0xFFF0 ≤ (s.cur.cnt.get e.op.cls).toNat)) then
        .next s.stall
      else .next (State.kick { j with cur := { es.foldl Proc.takeEntry j.cur with
        vloop := some { left := s.g a, len := len.toNat, next := 0, iter := 0, body := es, ahead := s.cur.seq.length } } } s.cur.pid) := by
  subst hj
  have hpend : (es.any fun e => s.cur.isPend e.op.gReads.1 || s.cur.isPend e.op.gReads.2) = false := by
    rw [List.any_eq_false]
    intro e he
    obtain ⟨-, ha, hb⟩ := hes e he
    simp [ha, hb]
  have hbad : (es.any fun e => e.op.badIndex (16 * s.units) e.gb) = false := by
    rw [List.any_eq_false]
    intro e he
    simp [(hes e he).1]
  unfold execVloop
  simp only [if_neg h, hread, hend, hpend, hbad, Nat.not_lt.mpr hlen, Bool.false_eq_true, or_self, if_false]

end

/-- Settles O35: each instruction at issue by the lemmas about its own checks. -/
theorem laneControlAndVectorMemoryComplete : Obligations.LaneControlAndVectorMemoryComplete := by
  intro s l d a b m t claim entry hclaim hentry
  have hsend (q : State) (keep : Nat) : q.sendClaim d (s.g a).toNat (s.g b).toNat keep = claim q keep := (hclaim q keep).symm
  refine ⟨fun hunits => ⟨?_, ?_⟩, fun hs hrc hlow hle hhigh => ?_, fun hs => ⟨execVrel_of_noLanes (l := l) hs, fun hunits hseq hloop => ?_⟩,
    fun hsmall => ?_, fun len q j es hunits hread hlen hend hes hj => ?_⟩
  · simp only [List.forall_mem_cons, hentry]
    exact ⟨vecMemIssue_direct
        (x := { ty := t, mask := m, store := false, indexed := false, unit_ := b == 0, reg := d, off := 0 }) rfl hunits rfl rfl,
      vecMemIssue_direct
        (x := { ty := t, mask := m, store := true, indexed := false, unit_ := b == 0, reg := d, off := 0 }) rfl hunits rfl rfl,
      fun _ h => nomatch h⟩
  · simp only [List.forall_mem_cons, hentry]
    have offsets {op : VecOp} {x : VecMem} (hmem : op.mem = some x) (hindexed : x.indexed = true) (hty : nibblesOf x.ty ≠ 1)
        (hroom : s.cur.seqRoom ≠ 0) (hfull : s.cur.cnt.full op.cls = false) :=
      vecMemIssue_of_indexed (a := a) (b := 0) hmem hunits (fun h => hty h.1) hroom hfull hindexed
    exact ⟨offsets (x := { ty := t, mask := m, store := false, indexed := true, unit_ := false, reg := d, off := b }) rfl rfl,
      offsets (x := { ty := t, mask := m, store := true, indexed := true, unit_ := false, reg := d, off := b }) rfl rfl,
      fun _ h => nomatch h⟩
  · have hok := (claimOk_iff (s.g a) (s.g b)).mpr ⟨hlow, hle, hhigh⟩
    refine ⟨fun h => ⟨?_, ?_⟩, execVclaim_of_lanes (l := l), fun h hseq hloop q hq => ?_⟩
    · rw [← hsend]
      exact execVclaim_of_noLanes (l := l) hok hs hrc h
    · rw [← hsend]
      exact execVrenew_of_noLanes (l := l) hok hs hrc h
    · rw [← hsend]
      exact execVrenew_of_lanes (l := l) hok hs hrc h (Proc.seqIdle_of_empty hseq hloop) hq
  · exact ⟨_, execVrel_of_lanes (l := l) hs hunits (Proc.seqIdle_of_empty hseq hloop), rfl, rfl, s.dropLanes_mem _, rfl⟩
  · have hk := (field_low3 (s.g a)).symm
    exact ⟨execVbind_of_free (l := l) hsmall hk, fun hb => execVbind_of_bound (l := l) (hk ▸ hb),
      fun hb => execVunbind_of_free (l := l) hsmall (hk ▸ hb), execVunbind_of_bound (l := l) hsmall hk⟩
  · have hbody := execVloop_of_body (l := l) (a := a) hunits hread hlen hend hes hj
    refine ⟨fun hnone => hbody.trans (if_pos (by simpa using hnone)), fun ha hnil hloop hroom hcnt => ?_⟩
    have hcount : (es.any fun e => decide (0xFFF0 ≤ (s.cur.cnt.get e.op.cls).toNat)) = false := by
      rw [List.any_eq_false]
      intro e he
      simpa using hcnt e he
    exact hbody.trans ((if_neg (not_or.mpr ⟨ha, by simpa using hnil⟩)).trans (if_neg (by rw [hcount, hloop]; simpa using hroom)))

end Sys2Proof.Machine

namespace Sys2Proof.Machine

/-! ### Fabric words (O51: R395, R396, R427) -/

/-! #### Lanes of a register -/

/-- Lane `i` of `w` bits (R395). -/
def laneAt (w i : Nat) (v : BitVec 512) : Nat := v.toNat / 2 ^ (w * i) % 2 ^ w

theorem xLanes_getElem? {w i : Nat} (v : BitVec 512) (h : i < 512 / w) : (xLanes w v)[i]? = some (BitVec.ofNat w (laneAt w i v)) := by
  have hlane : v.extractLsb' (w * i) w = BitVec.ofNat w (laneAt w i v) :=
    BitVec.eq_of_toNat_eq (by simp [laneAt, Nat.shiftRight_eq_div_pow])
  simp [xLanes, h, hlane]

/-- Lanes as one number. -/
theorem lanes_number {w : Nat} (ls : List (BitVec w)) : ls.foldr (fun l n => l.toNat + 2 ^ w * n) 0 < 2 ^ (w * ls.length) ∧
    ∀ i l, ls[i]? = some l → ls.foldr (fun l n => l.toNat + 2 ^ w * n) 0 / 2 ^ (w * i) % 2 ^ w = l.toNat := by
  induction ls with
  | nil => exact ⟨Nat.two_pow_pos _, fun i l h => nomatch h⟩
  | cons a r ih =>
    obtain ⟨hlt, hlane⟩ := ih
    have ha := a.isLt
    refine ⟨?_, fun i l h => ?_⟩
    · rw [List.foldr_cons, List.length_cons, Nat.mul_succ, Nat.add_comm (w * _), Nat.pow_add]
      calc _ < 2 ^ w * 1 + 2 ^ w * _ := Nat.add_lt_add_right (by rwa [Nat.mul_one]) _
        _ = 2 ^ w * (_ + 1) := by rw [← Nat.mul_add, Nat.add_comm 1]
        _ ≤ _ := Nat.mul_le_mul_left _ hlt
    · rw [List.foldr_cons]
      cases i with
      | zero =>
        obtain rfl := Option.some.inj h
        rw [Nat.mul_zero, Nat.pow_zero, Nat.div_one, Nat.add_mul_mod_self_left, Nat.mod_eq_of_lt ha]
      | succ i =>
        rw [Nat.mul_succ, Nat.add_comm (w * i), Nat.pow_add, ← Nat.div_div_eq_div_mul, Nat.add_mul_div_left _ _ (Nat.two_pow_pos w),
          Nat.div_eq_of_lt ha, Nat.zero_add]
        exact hlane i l h

theorem laneAt_ofLanes {w i : Nat} {ls : List (BitVec w)} {l : BitVec w} (hfit : w * ls.length ≤ 512) (h : ls[i]? = some l) :
    laneAt w i (ofLanes w ls) = l.toNat := by
  obtain ⟨hlt, hlane⟩ := lanes_number ls
  rw [laneAt, ofLanes, BitVec.toNat_ofNat, Nat.mod_eq_of_lt (Nat.lt_of_lt_of_le hlt (Nat.pow_le_pow_right (by decide) hfit))]
  exact hlane i l h

theorem or_and_absorb (x y : Flags) : (x ||| y) &&& x = x := by
  ext i hi
  simpa using Or.inl

theorem and_left_of_or {f x y : Flags} (h : f &&& (x ||| y) = x ||| y) : f &&& x = x := by
  calc f &&& x = f &&& ((x ||| y) &&& x) := by rw [or_and_absorb]
    _ = x := by rw [← BitVec.and_assoc, h, or_and_absorb]

theorem and_of_or_left {f x y : Flags} (h : x &&& y = y) : (f ||| x) &&& y = y := by
  calc (f ||| x) &&& y = (f ||| x) &&& (x &&& y) := by rw [h]
    _ = x &&& y := by rw [← BitVec.and_assoc, BitVec.or_comm, or_and_absorb]
    _ = y := h

/-- The flags of all lanes hold those of each (R238). -/
theorem foldl_or_holds {α : Type} (g : α → Flags) (ls : List α) (f : Flags) :
    ls.foldl (fun f r => f ||| g r) f &&& f = f ∧ ∀ r ∈ ls, ls.foldl (fun f r => f ||| g r) f &&& g r = g r := by
  induction ls generalizing f with
  | nil => exact ⟨BitVec.and_self, fun r h => nomatch h⟩
  | cons a rest ih =>
    obtain ⟨hall, heach⟩ := ih (f ||| g a)
    exact ⟨and_left_of_or hall, List.forall_mem_cons.mpr ⟨and_left_of_or (y := f) (by rwa [BitVec.or_comm]), heach⟩⟩

/-- An operation lane by lane: each lane's value, and its flags among those of all (R395). -/
theorem xZip_lane {op : W32 → W32 → W32 × Flags} {a b : BitVec 512} {k : Nat} {r : W32 × Flags} (h : k < 16)
    (hr : r = op (BitVec.ofNat 32 (laneAt 32 k a)) (BitVec.ofNat 32 (laneAt 32 k b))) :
    laneAt 32 k (xZip op a b).1 = r.1.toNat ∧ (xZip op a b).2 &&& r.2 = r.2 := by
  have hlane : (List.map (fun p => op p.1 p.2) ((xLanes 32 a).zip (xLanes 32 b)))[k]? = some r := by
    have hzip : ((xLanes 32 a).zip (xLanes 32 b))[k]? = some (BitVec.ofNat 32 (laneAt 32 k a), BitVec.ofNat 32 (laneAt 32 k b)) :=
      List.getElem?_zip_eq_some.mpr ⟨xLanes_getElem? a h, xLanes_getElem? b h⟩
    rw [List.getElem?_map, hzip, hr]
    rfl
  exact ⟨laneAt_ofLanes (by simp [xLanes]) (by rw [List.getElem?_map, hlane]; rfl),
    (foldl_or_holds Prod.snd _ 0).2 r (List.mem_of_getElem? hlane)⟩

/-! #### Fields of a register group -/

/-- Six-bit fields of a number (R396). -/
theorem maxFields_spec (n a b : Nat) : maxFields n a b < 64 ^ n ∧
    ∀ k < n, maxFields n a b / 64 ^ k % 64 = max (a / 64 ^ k % 64) (b / 64 ^ k % 64) := by
  induction n generalizing a b with
  | zero => exact ⟨Nat.one_pos, fun k h => absurd h (Nat.not_lt_zero k)⟩
  | succ n ih =>
    obtain ⟨hlt, hfield⟩ := ih (a / 64) (b / 64)
    refine ⟨?_, fun k hk => ?_⟩
    · rw [maxFields, Nat.pow_succ]
      omega
    · rw [maxFields]
      cases k with
      | zero => simp only [Nat.pow_zero, Nat.div_one]; omega
      | succ k =>
        have hpow (x : Nat) : x / 64 ^ (k + 1) = x / 64 / 64 ^ k := by rw [Nat.pow_succ, Nat.mul_comm, Nat.div_div_eq_div_mul]
        rw [hpow, hpow, hpow, ← hfield k (by omega)]
        congr 2
        omega

/-! #### Registers and units -/

section
variable {s : State} {f : FabUnit}

@[simp] theorem State.unitX_setUnitX_self (h : SMap.wf FabUnit.empty s.fabric = true) (u : Nat) : (s.setUnitX u f).unitX u = f :=
  SMap.get_put_self _ u f h

theorem State.unitX_setUnitX_ne {u w : Nat} (h : w ≠ u) : (s.setUnitX u f).unitX w = s.unitX w := SMap.get_put_ne h _ f

theorem State.wf_setUnitX (h : SMap.wf FabUnit.empty s.fabric = true) (u : Nat) :
    SMap.wf FabUnit.empty (s.setUnitX u f).fabric = true := SMap.wf_put _ u f h

end

section
variable {s : State} {g : FabUnit → FabUnit} (h : SMap.wf FabUnit.empty s.fabric = true)

include h in
@[simp] theorem State.unitX_updX_self : (s.updX g).unitX s.curX = g (s.unitX s.curX) := State.unitX_setUnitX_self h _

theorem State.unitX_updX_ne {w : Nat} (hw : w ≠ s.curX) : (s.updX g).unitX w = s.unitX w := State.unitX_setUnitX_ne hw

include h in
theorem State.wf_updX : SMap.wf FabUnit.empty (s.updX g).fabric = true := State.wf_setUnitX h _

include h in
/-- A change of the unit that keeps its registers. -/
theorem State.x_updX (hg : (g (s.unitX s.curX)).x = (s.unitX s.curX).x) (r : XReg) : (s.updX g).x r = s.x r := by
  have hunit : (s.updX g).unitX (s.updX g).curX = g (s.unitX s.curX) := State.unitX_updX_self h
  simp only [State.x, hunit, hg]

variable {r : XReg} {v : BitVec 512} {fl : Flags}
include h

theorem State.unitX_setX : (s.setX r v fl).unitX s.curX =
    { s.unitX s.curX with x := (s.unitX s.curX).x.set r.toNat v r.isLt, flags := (s.unitX s.curX).flags ||| fl } :=
  State.unitX_updX_self h

theorem State.x_setX (q : XReg) : (s.setX r v fl).x q = if q = r then v else s.x q := by
  have hunit : (s.setX r v fl).unitX (s.setX r v fl).curX = _ := State.unitX_setX h
  simp only [State.x, hunit, Vector.getElem_set, BitVec.toNat_inj, eq_comm]

end

@[simp] theorem State.setX_mem (s : State) (r : XReg) (v : BitVec 512) (fl : Flags) : (s.setX r v fl).mem = s.mem := rfl
@[simp] theorem State.setX_cur (s : State) (r : XReg) (v : BitVec 512) (fl : Flags) : (s.setX r v fl).cur = s.cur := rfl

/-- What a word leaves as it was that writes register `r` of the executing unit: every other register, the other units, the outputs, and
all that belongs to the issuing process (R395). -/
def OneRegister (s : State) (r : XReg) (t : State) : Prop :=
  (∀ q, q ≠ r → t.x q = s.x q) ∧ t.mem = s.mem ∧ t.cur = s.cur ∧ t.agenda = s.agenda ∧
  (∀ w, w ≠ s.curX → t.unitX w = s.unitX w) ∧ (t.unitX s.curX).out0 = (s.unitX s.curX).out0 ∧
  (t.unitX s.curX).out1 = (s.unitX s.curX).out1

theorem oneRegister_setX {s : State} {r : XReg} {v : BitVec 512} {fl : Flags} (h : SMap.wf FabUnit.empty s.fabric = true) :
    OneRegister s r (s.setX r v fl) := by
  refine ⟨fun q hq => (State.x_setX h q).trans (if_neg hq), rfl, rfl, rfl, fun w hw => State.unitX_updX_ne hw, ?_, ?_⟩ <;>
    rw [State.unitX_setX h]

/-! #### The words (R396) -/

section
variable {s : State} {d a b : XReg} (h : SMap.wf FabUnit.empty s.fabric = true)
include h

/-- A lane-wise word (R396). -/
theorem xLane_spec {f : VBin} {ty : BitVec 4} : ∃ t, xLane f s d a b ty = .next t ∧ OneRegister s d t ∧ ∀ k < 16, ∀ r,
    r = binLane f (xType ty) Mode.rne (BitVec.ofNat 32 (laneAt 32 k (s.x a))) (BitVec.ofNat 32 (laneAt 32 k (s.x b))) →
    laneAt 32 k (t.x d) = r.1.toNat ∧ (t.unitX s.curX).flags &&& r.2 = r.2 ∧
      (t.unitX s.curX).flags &&& (s.unitX s.curX).flags = (s.unitX s.curX).flags := by
  refine ⟨_, rfl, oneRegister_setX h, fun k hk r hr => ?_⟩
  obtain ⟨hlane, hflags⟩ := xZip_lane hk hr
  rw [State.x_setX h, if_pos rfl, State.unitX_setX h]
  exact ⟨hlane, and_of_or_left hflags, or_and_absorb _ _⟩

omit h in
/-- The three registers of a group are different (R395). -/
theorem xGroup_ne (r : XReg) : r ≠ r + 1 ∧ r ≠ r + 2 ∧ r + 1 ≠ r + 2 := by
  revert r
  decide

/-- A group is written register by register. -/
theorem x_setX_group {v0 v1 v2 : BitVec 512} (q : XReg) :
    (((s.setX d v0 0).setX (xGroup d 1) v1 0).setX (xGroup d 2) v2 0).x q =
      if q = d + 2 then v2 else if q = d + 1 then v1 else if q = d then v0 else s.x q := by
  have h0 : SMap.wf FabUnit.empty (s.setX d v0 0).fabric = true := State.wf_updX h
  have h1 : SMap.wf FabUnit.empty ((s.setX d v0 0).setX (xGroup d 1) v1 0).fabric = true := State.wf_updX h0
  rw [State.x_setX h1, State.x_setX h0, State.x_setX h]
  rfl

theorem xGroupVal_setX_group {v0 v1 v2 : BitVec 512} :
    (((s.setX d v0 0).setX (xGroup d 1) v1 0).setX (xGroup d 2) v2 0).xGroupVal d =
      v0.toNat + 2 ^ 512 * v1.toNat + 2 ^ 1024 * v2.toNat := by
  obtain ⟨h01, h02, h12⟩ := xGroup_ne d
  have hx := x_setX_group h (d := d) (v0 := v0) (v1 := v1) (v2 := v2)
  rw [State.xGroupVal, (hx d).trans ((if_neg h02).trans ((if_neg h01).trans (if_pos rfl))),
    (hx (xGroup d 1)).trans ((if_neg h12).trans (if_pos rfl)), (hx (xGroup d 2)).trans (if_pos rfl)]

omit h in
/-- A number as its three parts of `n` bits. -/
theorem parts_of_number {v n m : Nat} (hm : m = n + n) (hv : v < 2 ^ (n + m)) : (BitVec.ofNat n (v / 2 ^ (n * 0))).toNat +
    2 ^ n * (BitVec.ofNat n (v / 2 ^ (n * 1))).toNat + 2 ^ m * (BitVec.ofNat n (v / 2 ^ (n * 2))).toNat = v := by
  subst hm
  have htop : v / 2 ^ n / 2 ^ n < 2 ^ n := by
    rw [Nat.div_div_eq_div_mul, ← Nat.pow_add]
    exact Nat.div_lt_of_lt_mul (by rwa [← Nat.pow_add, Nat.add_comm])
  simp only [BitVec.toNat_ofNat, Nat.mul_zero, Nat.pow_zero, Nat.div_one, Nat.mul_one, Nat.mul_two, Nat.pow_add]
  rw [← Nat.div_div_eq_div_mul, Nat.mod_eq_of_lt htop, Nat.mul_assoc, Nat.add_assoc, ← Nat.mul_add, Nat.mod_add_div, Nat.mod_add_div]

/-- The larger of each of 256 fields goes to the group (R396). -/
theorem execXmx6_spec : ∃ t, execXmx6 d a b s = .next t ∧
    (∀ k < 256, t.xGroupVal d / 64 ^ k % 64 = max (s.xGroupVal a / 64 ^ k % 64) (s.xGroupVal b / 64 ^ k % 64)) ∧
    (∀ q, q ≠ d → q ≠ d + 1 → q ≠ d + 2 → t.x q = s.x q) ∧ t.mem = s.mem ∧ t.cur = s.cur := by
  obtain ⟨hlt, hfield⟩ := maxFields_spec 256 (s.xGroupVal a) (s.xGroupVal b)
  have hnum : maxFields 256 (s.xGroupVal a) (s.xGroupVal b) < 2 ^ (512 + 1024) := by
    rw [show 512 + 1024 = 6 * 256 from rfl, Nat.pow_mul]
    exact hlt
  refine ⟨_, rfl, fun k hk => ?_, fun q hq0 hq1 hq2 => ?_, by simp only [State.setX_mem], by simp only [State.setX_cur]⟩
  · exact (congrArg (· / 64 ^ k % 64) ((xGroupVal_setX_group h).trans (parts_of_number rfl hnum))).trans (hfield k hk)
  · exact (x_setX_group h q).trans (by rw [if_neg hq2, if_neg hq1, if_neg hq0])

theorem execXpack_spec : ∃ t, execXpack d a b s = .next t ∧ OneRegister s d t ∧ ∀ k < 16,
    laneAt 16 k (t.x d) = (convF fmtF32 fmtBf16 Mode.rne false (laneAt 32 k (s.x a))).bits % 2 ^ 16 ∧
    laneAt 16 (k + 16) (t.x d) = (convF fmtF32 fmtBf16 Mode.rne false (laneAt 32 k (s.x b))).bits % 2 ^ 16 := by
  refine ⟨_, rfl, oneRegister_setX h, fun k hk => ?_⟩
  rw [State.x_setX h, if_pos rfl]
  have hlen (v : BitVec 512) : (xLanes 32 v).length = 16 := by simp [xLanes]
  have hlane (v : BitVec 512) : (BitVec.ofNat 32 (laneAt 32 k v)).toNat = laneAt 32 k v := by
    rw [BitVec.toNat_ofNat, laneAt, Nat.mod_mod]
  constructor
  · refine (laneAt_ofLanes (l := BitVec.ofNat 16 (convF fmtF32 fmtBf16 Mode.rne false (laneAt 32 k (s.x a))).bits) (by simp [hlen]) ?_).trans
      (BitVec.toNat_ofNat ..)
    rw [List.getElem?_map, List.getElem?_map, List.getElem?_append_left (by rwa [hlen]), xLanes_getElem? _ hk, Option.map_some,
      Option.map_some, hlane]
  · refine (laneAt_ofLanes (l := BitVec.ofNat 16 (convF fmtF32 fmtBf16 Mode.rne false (laneAt 32 k (s.x b))).bits) (by simp [hlen]) ?_).trans
      (BitVec.toNat_ofNat ..)
    rw [List.getElem?_map, List.getElem?_map, List.getElem?_append_right (by rw [hlen]; exact Nat.le_add_left ..), hlen, Nat.add_sub_cancel,
      xLanes_getElem? _ hk, Option.map_some, Option.map_some, hlane]

theorem execXunpk_spec {half : BitVec 1} : ∃ t, execXunpk d a half s = .next t ∧ OneRegister s d t ∧ ∀ k < 16,
    laneAt 32 k (t.x d) = (convF fmtBf16 fmtF32 Mode.rne false (laneAt 16 (16 * half.toNat + k) (s.x a))).bits % 2 ^ 32 := by
  refine ⟨_, rfl, oneRegister_setX h, fun k hk => ?_⟩
  rw [State.x_setX h, if_pos rfl]
  have hhalf := half.isLt
  refine (laneAt_ofLanes (l := BitVec.ofNat 32 (convF fmtBf16 fmtF32 Mode.rne false (laneAt 16 (16 * half.toNat + k) (s.x a))).bits)
    (by simp [xLanes]; omega) ?_).trans (BitVec.toNat_ofNat ..)
  rw [List.getElem?_map, List.getElem?_map, List.getElem?_take_of_lt hk, List.getElem?_drop, xLanes_getElem? _ (by omega), Option.map_some,
    Option.map_some, BitVec.toNat_ofNat, laneAt, Nat.mod_mod]

/-- A flit taken from an input, or a wait for one (R396). -/
theorem execXrecv_of_empty {i : BitVec 1} (hq : (if i = 0 then (s.unitX s.curX).in0 else (s.unitX s.curX).in1) = []) :
    ∃ t, execXrecv d i s = .next t ∧ (t.unitX s.curX).waiting = true ∧ (∀ r, t.x r = s.x r) ∧ t.mem = s.mem := by
  refine ⟨s.updX fun f => { f with waiting := true }, ?_, ?_, fun r => State.x_updX h rfl r, rfl⟩
  · simp only [execXrecv, hq]
  · rw [State.unitX_updX_self h]

theorem execXrecv_of_flit {i : BitVec 1} {v : BitVec 512} {rest : List (BitVec 512)}
    (hq : (if i = 0 then (s.unitX s.curX).in0 else (s.unitX s.curX).in1) = v :: rest) :
    ∃ t, execXrecv d i s = .next t ∧ OneRegister s d t ∧ t.x d = v ∧
      (if i = 0 then (t.unitX s.curX).in0 else (t.unitX s.curX).in1) = rest := by
  let u := s.updX fun f => if i = 0 then { f with in0 := rest } else { f with in1 := rest }
  have hw : SMap.wf FabUnit.empty u.fabric = true := State.wf_updX h
  have hx (q : XReg) : u.x q = s.x q := State.x_updX h (by split <;> rfl) q
  have hunit : u.unitX s.curX = if i = 0 then { s.unitX s.curX with in0 := rest } else { s.unitX s.curX with in1 := rest } :=
    State.unitX_updX_self h
  have hset : (u.setX d v 0).unitX s.curX = _ := State.unitX_setX hw
  obtain ⟨hregs, hmem, hcur, hagenda, hothers, hout0, hout1⟩ := oneRegister_setX (r := d) (v := v) (fl := 0) hw
  refine ⟨u.setX d v 0, by simp only [execXrecv, hq, u], ⟨fun q hne => (hregs q hne).trans (hx q), hmem, hcur, hagenda,
    fun w hne => (hothers w hne).trans (State.unitX_updX_ne hne), hout0.trans ?_, hout1.trans ?_⟩,
    (State.x_setX hw d).trans (if_pos rfl), ?_⟩
  · rw [show u.curX = s.curX from rfl, hunit]
    split <;> rfl
  · rw [show u.curX = s.curX from rfl, hunit]
    split <;> rfl
  · rw [hset, show u.curX = s.curX from rfl, hunit]
    split <;> rfl

theorem execXmov_spec : ∃ t, execXmov d a s = .next t ∧ OneRegister s d t ∧ t.x d = s.x a :=
  ⟨s.setX d (s.x a) 0, rfl, oneRegister_setX h, (State.x_setX h d).trans (if_pos rfl)⟩

/-! #### Flits sent (R396, R427) -/

omit h in
/-- The next listed unit is a later one. -/
theorem lt_of_nextUnit {u w : Nat} (hn : (s.graphAt (s.unitX u).cid (u / 4)).find? (fun w => decide (u < w)) = some w) : u < w := by
  simpa using List.find?_some hn

omit h in
theorem forward_of_last {u : Nat} {v : BitVec 512} (hn : (s.graphAt (s.unitX u).cid (u / 4)).find? (fun w => decide (u < w)) = none) :
    s.forward u v = s.setUnitX u { s.unitX u with out0 := (s.unitX u).out0 ++ [v] } := by
  simp only [State.forward, hn]

omit h in
theorem forward_of_next {u w : Nat} {v : BitVec 512}
    (hn : (s.graphAt (s.unitX u).cid (u / 4)).find? (fun w => decide (u < w)) = some w) :
    s.forward u v = s.setUnitX w { s.unitX w with in0 := (s.unitX w).in0 ++ [v], waiting := false } := by
  simp only [State.forward, hn]

omit h in
theorem forward_mem (u : Nat) (v : BitVec 512) : (s.forward u v).mem = s.mem := by
  unfold State.forward
  split <;> rfl

omit h in
theorem forward_curX (u : Nat) (v : BitVec 512) : (s.forward u v).curX = s.curX := by
  unfold State.forward
  split <;> rfl

theorem wf_forward (u : Nat) (v : BitVec 512) : SMap.wf FabUnit.empty (s.forward u v).fabric = true := by
  unfold State.forward
  split <;> exact State.wf_setUnitX h _

/-- The unit that sends keeps its registers. -/
theorem forward_unitX_x (v : BitVec 512) : ((s.forward s.curX v).unitX s.curX).x = (s.unitX s.curX).x := by
  cases hn : (s.graphAt (s.unitX s.curX).cid (s.curX / 4)).find? (fun w => decide (s.curX < w)) with
  | none => rw [forward_of_last hn, State.unitX_setUnitX_self h]
  | some w => rw [forward_of_next hn, State.unitX_setUnitX_ne (lt_of_nextUnit hn).ne]

theorem forward_x (v : BitVec 512) (r : XReg) : (s.forward s.curX v).x r = s.x r := by
  simp only [State.x, forward_curX, forward_unitX_x h]

theorem execXemit_forward_of_last (hn : (s.graphAt (s.unitX s.curX).cid (s.curX / 4)).find? (fun w => decide (s.curX < w)) = none) :
    ∃ t, execXemit a 0 s = .next t ∧ (t.unitX s.curX).out0 = (s.unitX s.curX).out0 ++ [s.x a] ∧
      (t.unitX s.curX).out1 = (s.unitX s.curX).out1 ∧ (∀ r, t.x r = s.x r) ∧ ∀ w, w ≠ s.curX → t.unitX w = s.unitX w := by
  refine ⟨s.forward s.curX (s.x a), rfl, ?_, ?_, fun r => forward_x h _ r, fun w hw => ?_⟩ <;> rw [forward_of_last hn]
  · rw [State.unitX_setUnitX_self h]
  · rw [State.unitX_setUnitX_self h]
  · exact State.unitX_setUnitX_ne hw

theorem execXemit_both_of_last (hn : (s.graphAt (s.unitX s.curX).cid (s.curX / 4)).find? (fun w => decide (s.curX < w)) = none) :
    ∃ t, execXemit a 2 s = .next t ∧ (t.unitX s.curX).out0 = (s.unitX s.curX).out0 ++ [s.x a] ∧
      (t.unitX s.curX).out1 = (s.unitX s.curX).out1 ++ [s.x a] := by
  have hunit := State.unitX_updX_self (g := fun f => { f with out1 := f.out1 ++ [s.x a] }) (wf_forward h s.curX (s.x a))
  rw [forward_curX, forward_of_last hn, State.unitX_setUnitX_self h] at hunit
  refine ⟨(s.forward s.curX (s.x a)).updX fun f => { f with out1 := f.out1 ++ [s.x a] }, rfl, ?_, ?_⟩ <;>
    rw [forward_of_last hn, hunit]

theorem execXemit_forward_of_next {w : Nat}
    (hn : (s.graphAt (s.unitX s.curX).cid (s.curX / 4)).find? (fun w => decide (s.curX < w)) = some w) :
    ∃ t, execXemit a 0 s = .next t ∧ (t.unitX w).in0 = (s.unitX w).in0 ++ [s.x a] ∧ (t.unitX w).waiting = false ∧
      t.unitX s.curX = s.unitX s.curX := by
  refine ⟨s.forward s.curX (s.x a), rfl, ?_, ?_, ?_⟩ <;> rw [forward_of_next hn]
  · rw [State.unitX_setUnitX_self h]
  · rw [State.unitX_setUnitX_self h]
  · exact State.unitX_setUnitX_ne (lt_of_nextUnit hn).ne

theorem execXemit_deliver : ∃ t, execXemit a 1 s = .next t ∧ (t.unitX s.curX).out1 = (s.unitX s.curX).out1 ++ [s.x a] ∧
    (t.unitX s.curX).out0 = (s.unitX s.curX).out0 ∧ ∀ w, w ≠ s.curX → t.unitX w = s.unitX w := by
  refine ⟨s.updX fun f => { f with out1 := f.out1 ++ [s.x a] }, rfl, ?_, ?_, fun w hw => State.unitX_updX_ne hw⟩ <;>
    rw [State.unitX_updX_self h]

/-- A flit sent changes no register and no memory. -/
theorem execXemit_regs (o : BitVec 2) : ∃ t, execXemit a o s = .next t ∧ (∀ r, t.x r = s.x r) ∧ t.mem = s.mem := by
  let u := if o = 1 then s else s.forward s.curX (s.x a)
  obtain ⟨hw, hx, hmem⟩ : SMap.wf FabUnit.empty u.fabric = true ∧ (∀ r, u.x r = s.x r) ∧ u.mem = s.mem := by
    by_cases h1 : o = 1
    · rw [show u = s from if_pos h1]
      exact ⟨h, fun _ => rfl, rfl⟩
    · rw [show u = s.forward s.curX (s.x a) from if_neg h1]
      exact ⟨wf_forward h _ _, forward_x h _, forward_mem _ _⟩
  refine ⟨if o = 0 then u else u.updX fun f => { f with out1 := f.out1 ++ [s.x a] }, rfl, ?_⟩
  split
  · exact ⟨hx, hmem⟩
  · exact ⟨fun r => (State.x_updX hw rfl r).trans (hx r), hmem⟩

end

/-- Settles O51: each word by its lanes, with the frame of a write of one register. -/
theorem fabricWordsComputeLanes : Obligations.FabricWordsComputeLanes := by
  intro s d a b ty half o u one lane h hu hone hlane
  subst hu
  obtain rfl : lane = laneAt := funext fun w => funext fun i => funext fun v => hlane w i v
  obtain rfl : one = OneRegister s := funext fun r => funext fun t => propext (hone r t)
  refine ⟨rfl, ?_, execXmx6_spec h, execXpack_spec h, execXunpk_spec h, execXmov_spec h, ?_, ?_, fun w hn => execXemit_forward_of_next h hn,
    execXemit_deliver h, execXemit_regs h o⟩
  · rintro i f (⟨rfl, rfl⟩ | ⟨rfl, rfl⟩ | ⟨rfl, rfl⟩) <;> exact xLane_spec h
  · rintro q rfl
    exact ⟨execXrecv_of_empty h, fun v rest => execXrecv_of_flit h⟩
  · exact fun hn => ⟨execXemit_forward_of_last h hn, execXemit_both_of_last h hn⟩

end Sys2Proof.Machine

namespace Sys2Proof.Machine

/-! ### Array commands at issue (O47: R370–R381) -/

/-- An array command that may issue for its process: it holds or asks for a lease, and no earlier access bars it (R139, R370). -/
structure MatBegins (s : State) : Prop where
  performed : s.speculating = false
  outside : s.cur.rc = false
  lease : s.cur.lease ≠ .none
  access : s.cur.mayAccess = true
  stores : s.cur.finished s.cur.holdSt = true

/-- The command is counted, its ranges stand in the scoreboard, and its item is sent to the matrix queue (R287, R370). -/
def MatJoins (s : State) (op : MatOp) (ranges : List (Word × Nat × Bool)) (t : State) : Prop :=
  ∃ q, s.takeScore ranges .matrix (s.accs + 1) = some q ∧
    t = ({ q with accs := q.accs + 1, cur := { q.cur with cnt := q.cur.cnt.up .matrix } }).sendCmd (.mat s.cur.core (s.matItem op))

/-- The matrix queue and the counter of matrix commands have room. -/
structure MatRoom (s : State) : Prop where
  counter : s.cur.cnt.full .matrix = false
  queue : s.matFull = false

section
variable {s u : State} {l : Lone} {a b : Reg} {tval : Word} {ok : Bool} {cause : Nat} {k : State → Out} {op : MatOp}
  {ranges : List (Word × Nat × Bool)} {ws : List Word}

theorem arrayCmd_of_noLease (h : s.cur.lease = .none) : arrayCmd s tval ok cause k = raiseO s 0x140 tval := if_pos h

theorem arrayCmd_of_begins (h : MatBegins s) : arrayCmd s tval true cause k = k s := by
  simp [arrayCmd, h.lease, h.access, h.stores, notInHandler_of_not_rc _ h.outside]

theorem arrayCmd_of_bad (h : s.cur.lease ≠ .none) :
    arrayCmd s tval false cause k = raiseO s cause (if cause = 0x001 then s.cword else tval) := if_neg h

theorem sendMat_of_room (hroom : MatRoom s) (hscore : (s.takeScore ranges .matrix (s.accs + 1)).isSome = true) :
    ∃ t, sendMat s op ranges = .next t ∧ MatJoins s op ranges t := by
  obtain ⟨q, hq⟩ := Option.isSome_iff_exists.mp hscore
  exact ⟨_, by simp only [sendMat, enqueueCmd, hroom.counter, hroom.queue, hq]; rfl, q, hq, rfl⟩

/-! #### Leases (R371, R372) -/

theorem exec_mreq_of_bad (h : s.cur.lease ≠ .none ∨ s.g a = 0 ∨ 16 ≤ (s.g a).toNat) :
    exec (.mreq l a) s = raiseO s 0x001 s.cword := if_pos (by tauto)

theorem exec_mreq_of_banks (hrc : s.cur.rc = false) (hl : s.cur.lease = .none) (hmin : 1 ≤ (s.g a).toNat) (hmax : (s.g a).toNat < 16) :
    exec (.mreq l a) s = sendLease s (.req (s.g a).toNat) .requested := by
  have hzero : s.g a ≠ 0 := fun h => by simp [h] at hmin
  exact (if_neg (by rintro (h | h | h); exacts [hzero h, absurd h (by omega), h hl])).trans (notInHandler_of_not_rc _ hrc)

theorem exec_mrel_of_lease (hrc : s.cur.rc = false) (hl : s.cur.lease ≠ .none) : exec (.mrel l) s = sendLease s .rel .none :=
  (notInHandler_of_not_rc _ hrc).trans (if_neg hl)

theorem exec_mrel_of_noLease (hrc : s.cur.rc = false) (hl : s.cur.lease = .none) : exec (.mrel l) s = .next s :=
  (notInHandler_of_not_rc _ hrc).trans (if_pos hl)

/-! #### Commands without a descriptor (R374, R379) -/

theorem exec_mfmt_of_refused (h : MatBegins s) (hf : matFmt (s.g a) = none) : exec (.mfmt l a) s = raiseO s 0x0A0 (s.g a) := by
  change execMfmt l a s = _
  rw [execMfmt, hf]
  exact arrayCmd_of_bad h.lease

theorem exec_mfmt_of_accepted (h : MatBegins s) (hf : (matFmt (s.g a)).isSome = true) :
    exec (.mfmt l a) s = sendMat s (.fmt (s.g a)) [] := by
  change execMfmt l a s = _
  rw [execMfmt, hf]
  exact arrayCmd_of_begins h

theorem exec_mscl_of_places (h : MatBegins s) (ha : (s.g a).toNat % 4 = 0) (hz : field (s.g a) 21 43 = 0) (hb : (s.g b).toNat % 8 = 0)
    (hm : memSpace s.cur.core (s.g b) = true) : exec (.mscl l a b) s = sendMat s (.scl (s.g a) (s.g b)) [] := by
  change execMscl l a b s = _
  rw [execMscl, ha, hz, hb, hm]
  exact arrayCmd_of_begins h

theorem exec_mclr_of_banks (h : MatBegins s) (hzero : s.g a ≠ 0) (hmax : (s.g a).toNat < 16) :
    exec (.mclr l a) s = sendMat s (.clr (s.g a).toNat) [] := by
  have hok : (s.g a != 0 && decide ((s.g a).toNat < 16)) = true := by
    rw [decide_eq_true hmax, bne_iff_ne.2 hzero]
    rfl
  change execMclr l a s = _
  rw [execMclr, hok]
  exact arrayCmd_of_begins h

theorem exec_mclr_of_bad (h : MatBegins s) (hbad : s.g a = 0 ∨ 16 ≤ (s.g a).toNat) : exec (.mclr l a) s = raiseO s 0x001 s.cword := by
  have hok : (s.g a != 0 && decide ((s.g a).toNat < 16)) = false := by rcases hbad with h | h <;> simp [h]
  change execMclr l a s = _
  rw [execMclr, hok]
  exact arrayCmd_of_bad h.lease

theorem exec_mfmt_of_noLease (hl : s.cur.lease = .none) : exec (.mfmt l a) s = raiseO s 0x140 (s.g a) := by
  change execMfmt l a s = _
  exact arrayCmd_of_noLease hl

theorem exec_mscl_of_noLease (hl : s.cur.lease = .none) : exec (.mscl l a b) s = raiseO s 0x140 (s.g a) := by
  change execMscl l a b s = _
  exact arrayCmd_of_noLease hl

theorem exec_mclr_of_noLease (hl : s.cur.lease = .none) : exec (.mclr l a) s = raiseO s 0x140 (s.g a) := by
  change execMclr l a s = _
  exact arrayCmd_of_noLease hl

/-! #### Loads of the lid (R378) -/

/-- The ranges that `mlid` reads and writes. -/
def lidRanges (core nib : Nat) (w0 w1 w2 : Word) : List (Word × Nat × Bool) :=
  [(w0, (field w1 16 16 - 1) * field w1 32 32 + nibBytes nib (field w1 8 8 + 1), false),
    (BitVec.ofNat 64 (lidBase core + field w2 0 13), (field w1 8 8 + 1 - 1) * 0x2000 + nibBytes nib (field w1 16 16), true)]

/-- `mlid` once its descriptor is read. -/
theorem exec_mlid_of_reads (h : MatBegins s) (ha : (s.descOp l b).toNat % 8 = 0) (hr : DescReads s (s.descOp l b) 3 ws u) {nib : Nat}
    (hnib : nib = nibsOr u.dropWords.enqueuedFmt fun f => nibblesOf f.b) :
    exec (.mlid l b) s = if !u.dropWords.lidFieldsOk (ws.getD 0 0) (ws.getD 1 0) (ws.getD 2 0) nib
      then .next (u.dropWords.raiseAfter 0x144 (s.descOp l b) [] none)
      else sendMat u.dropWords (.lid (s.descOp l b) (ws.getD 0 0) (ws.getD 1 0) (ws.getD 2 0))
        (lidRanges u.dropWords.cur.core nib (ws.getD 0 0) (ws.getD 1 0) (ws.getD 2 0)) := by
  subst hnib
  exact (if_neg (not_not.2 ha)).trans ((arrayCmd_of_begins h).trans (withWords_of_reads hr))

/-! #### Multiplies (R376) -/


theorem exec_mlid_of_misaligned (ha : (s.descOp l b).toNat % 8 ≠ 0) : exec (.mlid l b) s = raiseO s 0x040 (s.descOp l b) := if_pos ha

theorem exec_mlid_of_noLease (ha : (s.descOp l b).toNat % 8 = 0) (hl : s.cur.lease = .none) :
    exec (.mlid l b) s = raiseO s 0x140 (s.descOp l b) := (if_neg (not_not.2 ha)).trans (arrayCmd_of_noLease hl)

/-! #### Multiplies (R376) -/

/-- The range of A that a multiply reads. -/
def macReads (core nib : Nat) (ctl d0 : Word) : Word × Nat :=
  spanOf ((List.range (ctlM ctl)).map (rowAddr core d0)) (nibBytes nib (ctlK ctl))

/-- A multiply once its descriptor is read. -/
theorem multiply_of_reads (form : Nat) (h : MatBegins s) (ha : (s.descOp l b).toNat % 8 = 0)
    (hr : DescReads s (s.descOp l b) 2 ws u) {r : Word × Nat}
    (hspan : r = macReads u.dropWords.cur.core (nibsOr u.dropWords.enqueuedFmt fun f => nibblesOf f.a) (s.g a) (ws.getD 0 0)) :
    multiply s l a b form = if !macFieldsOk (s.g a) (ws.getD 0 0) (ws.getD 1 0)
      then .next (u.dropWords.raiseAfter 0x144 (s.g a) [] none)
      else sendMat u.dropWords (.mac form (s.g a) (ws.getD 0 0) (ws.getD 1 0)) [(r.1, r.2, false)] := by
  subst hspan
  exact (if_neg (not_not.2 ha)).trans ((arrayCmd_of_begins h).trans (withWords_of_reads hr))

theorem multiply_of_misaligned (form : Nat) (ha : (s.descOp l b).toNat % 8 ≠ 0) :
    multiply s l a b form = raiseO s 0x040 (s.descOp l b) := if_pos ha

theorem multiply_of_noLease (form : Nat) (ha : (s.descOp l b).toNat % 8 = 0) (hl : s.cur.lease = .none) :
    multiply s l a b form = raiseO s 0x140 (s.g a) := (if_neg (not_not.2 ha)).trans (arrayCmd_of_noLease hl)

/-! #### Drains (R380) -/

theorem State.takeScore_xfer {cls : CntClass} {cmd : Nat} {t : State} (ht : s.takeScore ranges cls cmd = some t) : t.xfer = s.xfer := by
  simp only [State.takeScore] at ht
  split at ht
  · exact absurd ht nofun
  · exact (Option.some.inj ht) ▸ rfl

theorem State.pumpArray_xfer (k : Nat) : (s.pumpArray k).xfer = s.xfer := by
  unfold State.pumpArray
  split
  · split <;> rfl
  · rfl

/-- A command of a process that is not speculating leaves the transfer of its bundle as it was. -/
theorem MatJoins.xfer {t : State} (h : MatJoins s op ranges t) (hs : s.speculating = false) : t.xfer = s.xfer := by
  obtain ⟨q, hq, rfl⟩ := h
  have hspec : ({ q with accs := q.accs + 1, cur := { q.cur with cnt := q.cur.cnt.up .matrix } } : State).speculating = false := by
    rw [← hs]
    simp only [State.speculating, State.takeScore_cur hq]
  rw [State.sendCmd, if_neg (by simp [hspec])]
  have hx := State.takeScore_xfer hq
  exact (State.pumpArray_xfer _).trans hx

/-- A drain to this format draws from RS: it converts, and FCR says SR (R244, R380). -/
def drainDraws (v : State) : Bool := v.enqueuedFmt.elim false MatFmt.converts && field v.fcr 0 3 == 4

/-- The range that a drain writes. -/
def drainRange (nib : Nat) (ctl d0 d1 : Word) : List (Word × Nat × Bool) :=
  [(d0, (ctlM ctl - 1) * field d1 0 32 + nibBytes nib (ctlN ctl), true)]

theorem exec_mdrn_of_misaligned (ha : (s.descOp l b).toNat % 8 ≠ 0) : exec (.mdrn l a b) s = raiseO s 0x040 (s.descOp l b) := if_pos ha

theorem exec_mdrn_of_noLease (ha : (s.descOp l b).toNat % 8 = 0) (hl : s.cur.lease = .none) :
    exec (.mdrn l a b) s = raiseO s 0x140 (s.g a) := (if_neg (not_not.2 ha)).trans (arrayCmd_of_noLease hl)

theorem exec_mdrn_of_refused (h : MatBegins s) (ha : (s.descOp l b).toNat % 8 = 0) (hr : DescReads s (s.descOp l b) 2 ws u)
    (hbad : u.dropWords.drainFieldsOk (s.g a) (ws.getD 0 0) (ws.getD 1 0) (nibsOr u.dropWords.enqueuedFmt MatFmt.dsize) = false) :
    exec (.mdrn l a b) s = .next (u.dropWords.raiseAfter 0x144 (s.g a) [] none) :=
  (if_neg (not_not.2 ha)).trans ((arrayCmd_of_begins h).trans ((withWords_of_reads hr).trans (if_pos (by rw [hbad]; rfl))))

/-- A drain joins its queue with RS as it stands, and RS moves on when the drain draws (R244, R380). -/
theorem exec_mdrn_of_joins (h : MatBegins s) (ha : (s.descOp l b).toNat % 8 = 0) (hr : DescReads s (s.descOp l b) 2 ws u)
    (hok : u.dropWords.drainFieldsOk (s.g a) (ws.getD 0 0) (ws.getD 1 0) (nibsOr u.dropWords.enqueuedFmt MatFmt.dsize) = true)
    (hroom : MatRoom u.dropWords)
    (hscore : (u.dropWords.takeScore (drainRange (nibsOr u.dropWords.enqueuedFmt MatFmt.dsize) (s.g a) (ws.getD 0 0) (ws.getD 1 0)) .matrix
      (u.dropWords.accs + 1)).isSome = true)
    (hx : u.dropWords.xfer = .seq) (hs : u.dropWords.speculating = false) :
    ∃ q, MatJoins u.dropWords (.drn (s.g a) u.dropWords.fcr u.dropWords.cur.rs (ws.getD 0 0) (ws.getD 1 0))
        (drainRange (nibsOr u.dropWords.enqueuedFmt MatFmt.dsize) (s.g a) (ws.getD 0 0) (ws.getD 1 0)) q ∧
      exec (.mdrn l a b) s = .next (if drainDraws u.dropWords
        then { q with cur := { q.cur with rs := drawRs u.dropWords.cur.rs } } else q) := by
  obtain ⟨q, hsend, hjoins⟩ := sendMat_of_room (op := .drn (s.g a) u.dropWords.fcr u.dropWords.cur.rs (ws.getD 0 0) (ws.getD 1 0))
    hroom hscore
  refine ⟨q, hjoins, (if_neg (not_not.2 ha)).trans ((arrayCmd_of_begins h).trans ((withWords_of_reads hr).trans
    ((if_neg (by rw [hok]; decide)).trans ?_)))⟩
  have hperf : q.notPerformed = false := by rw [State.notPerformed, hjoins.xfer hs, hx]; rfl
  rw [sendMat, drainRange] at hsend
  simp only [hsend, hperf, Bool.not_false, Bool.and_true, apply_ite Host.Outcome.next]
  rfl

end

/-- Settles O47: each command by the lease, its own checks, and the room that lets it join its queue. -/
theorem arrayCommandsAreQueued : Obligations.ArrayCommandsAreQueued := by
  intro s u v l a b va ws w joins hs hrc hva hw hv hjoins
  obtain rfl : joins = MatJoins := by
    funext x op rs t
    exact propext (hjoins x op rs t)
  obtain rfl : w = fun i => ws.getD i 0 := funext hw
  subst hva hv
  refine ⟨exec_mreq_of_banks hrc, exec_mreq_of_bad, exec_mrel_of_lease hrc, fun hl => ?noLease, fun ha => ?misaligned,
    fun hl hma hst hcnt hfull => ?leased⟩
  case noLease =>
    refine ⟨exec_mrel_of_noLease hrc hl, exec_mfmt_of_noLease hl, exec_mclr_of_noLease hl, exec_mscl_of_noLease hl,
      fun ha => ⟨exec_mlid_of_noLease ha hl, ?_⟩⟩
    simp only [List.forall_mem_cons]
    exact ⟨multiply_of_noLease 0 ha hl, multiply_of_noLease 1 ha hl, multiply_of_noLease 2 ha hl, exec_mdrn_of_noLease ha hl,
      List.forall_mem_nil _⟩
  case misaligned =>
    simp only [List.forall_mem_cons]
    exact ⟨exec_mlid_of_misaligned ha, multiply_of_misaligned 0 ha, multiply_of_misaligned 1 ha, multiply_of_misaligned 2 ha,
      exec_mdrn_of_misaligned ha, List.forall_mem_nil _⟩
  case leased =>
    have h : MatBegins s := ⟨hs, hrc, hl, hma, hst⟩
    have hroom : MatRoom s := ⟨hcnt, hfull⟩
    refine ⟨exec_mfmt_of_refused h, fun hf hsc => ?_, fun h4 hz h8 hm hsc => ?_, fun hz hmax hsc => ?_, exec_mclr_of_bad h,
      fun ha hcnt hfull => ?described⟩
    · rw [exec_mfmt_of_accepted h hf]
      exact sendMat_of_room hroom hsc
    · rw [exec_mscl_of_places h h4 hz h8 hm]
      exact sendMat_of_room hroom hsc
    · rw [exec_mclr_of_banks h hz hmax]
      exact sendMat_of_room hroom hsc
    case described =>
      have hroom : MatRoom u.dropWords := ⟨hcnt, hfull⟩
      refine ⟨fun hsc hwords nib hnib => ⟨fun hbad => ?_, fun rs hok hrs hscore => ?_⟩,
        fun hsc hwords => ⟨fun i form hi => ⟨fun hbad => ?_, fun r hok hr hscore => ?_⟩, fun nib hnib => ?_⟩⟩
      · rw [exec_mlid_of_reads h ha ⟨hs, hma, hsc, hwords⟩ hnib, hbad]
        rfl
      · subst hrs
        rw [exec_mlid_of_reads h ha ⟨hs, hma, hsc, hwords⟩ hnib, hok]
        exact sendMat_of_room hroom hscore
      · have hread := multiply_of_reads (a := a) form h ha ⟨hs, hma, hsc, hwords⟩ rfl
        rw [hbad] at hread
        obtain ⟨rfl, rfl⟩ | ⟨rfl, rfl⟩ | ⟨rfl, rfl⟩ := hi <;> exact hread
      · have hread := multiply_of_reads (a := a) form h ha ⟨hs, hma, hsc, hwords⟩ hr
        rw [hok] at hread
        obtain ⟨t, hsend, hjoin⟩ := sendMat_of_room (op := .mac form (s.g a) (ws.getD 0 0) (ws.getD 1 0)) hroom hscore
        refine ⟨t, ?_, hjoin⟩
        obtain ⟨rfl, rfl⟩ | ⟨rfl, rfl⟩ | ⟨rfl, rfl⟩ := hi <;> exact hread.trans hsend
      · subst hnib
        refine ⟨exec_mdrn_of_refused h ha ⟨hs, hma, hsc, hwords⟩, fun r hok hr hscore hx hspec => ?_⟩
        subst hr
        obtain ⟨q, hjoin, hexec⟩ := exec_mdrn_of_joins h ha ⟨hs, hma, hsc, hwords⟩ hok hroom hscore hx hspec
        refine ⟨_, q, hexec, hjoin, fun hconv hmode => if_pos (by simp [drainDraws, hconv, hmode]), fun hnone => if_neg ?_⟩
        rcases hnone with hnone | hnone <;> simp [drainDraws, hnone]

end Sys2Proof.Machine

namespace Sys2Proof.Machine

/-! ### Collectives and truss queues (O52: R388–R394, R422–R426) -/

/-! #### Posts (R388, R390, R392) -/

section
variable {s u v y : State} {l : Lone} {a b : Reg} {va : Word} {ws cw tab : List Word} {r : Nat}

/-- A descriptor that names a communicator at a good place. -/
structure CommNamed (u : State) (ws : List Word) : Prop where
  aligned : (ws.getD 0 0).toNat % 64 = 0
  space : memSpace u.cur.core (ws.getD 0 0) = true

theorem exec_cpost_of_badComm (hb : EngBegins s (s.descOp l b) graphQueue) (hr : DescReads s (s.descOp l b) 8 ws u)
    (hbad : (ws.getD 0 0).toNat % 64 ≠ 0 ∨ memSpace u.cur.core (ws.getD 0 0) = false) :
    exec (.cpost l a b) s = badColl u (s.descOp l b) :=
  (engMore_of_reads hb hr).trans (if_pos (by simpa using hbad))

/-- A post once its communicator is read. -/
theorem exec_cpost_of_comm (hb : EngBegins s (s.descOp l b) graphQueue) (hr : DescReads s (s.descOp l b) 8 ws u) (hc : CommNamed u ws)
    (hcw : DescReads u (ws.getD 0 0) 8 cw v) (hva : va = s.descOp l b) :
    exec (.cpost l a b) s = if !commOk cw then badColl v va
      else withWords v (cw.getD 2 0) (commCount cw) fun s tab => postColl s va (s.g a) ws cw tab := by
  subst hva
  exact (engMore_of_reads hb hr).trans ((if_neg (by simpa using And.intro hc.aligned hc.space)).trans (withMore_of_reads hcw))

/-- A core that is no member posts nothing. -/
theorem postColl_of_stranger {done own : Word} (hown : own = BitVec.ofNat 64 (s.mynode * 2 ^ 56 + (s.core s.cur.core).lcore))
    (h : tab.findIdx? (· = own) = none) : postColl s va done ws cw tab = badColl s va := by
  subst hown
  simp only [postColl, h]

/-- The post of a member of rank `r`, whose completion word is to be written to `done`. -/
def memberPost (y : State) (va done : Word) (ws cw tab : List Word) (r : Nat) : Post :=
  { pid := y.cur.pid, slot := y.cur.unit, core := y.cur.core, ctx := y.cur.ctx, cmd := y.accs + 1, cid := commCid cw, num := 0, rank := r,
    comm := cw, words := ws, table := tab, va := va, done := done, told := false, pc := y.cur.pc }

/-- A member whose words are good posts them with its rank. -/
theorem postColl_of_member {done own : Word} {q : State} (hown : own = BitVec.ofNat 64 (s.mynode * 2 ^ 56 + (s.core s.cur.core).lcore))
    (h : tab.findIdx? (· = own) = some r) (htab : tab.all entryOk = true) (hfields : collFieldsOk ws cw = true)
    (hsbuf : memSpace s.cur.core (collDesc ws).sbuf = true) (hdbuf : memSpace s.cur.core (collDesc ws).dbuf = true)
    (hbufs : buffersOk s (collDesc ws) (commSizes cw) r = true) (hdone : doneCheck s va done = (none, y))
    (hcnt : y.cur.cnt.full .transfers = false) (hfull : y.postsFull = false) (hq : y.takeScore [] .transfers (y.accs + 1) = some q) :
    postColl s va done ws cw tab = .next
      (({ q with accs := q.accs + 1, cur := { q.cur with cnt := q.cur.cnt.up .transfers } }).sendCmd (.post (memberPost y va done ws cw tab r))) := by
  subst hown
  simp only [postColl, h, htab, hfields, hsbuf, hdbuf, hbufs, hdone, enqueueCmd, hcnt, hfull, hq]
  rfl

end

/-! #### Announcements (R422, R426) -/

section
variable {s : State} {m : AnnMsg} {p : Post}

theorem exec_collAnnounce_of_noPost (hn : m.node = s.mynode)
    (hp : (s.postsOf m.cid m.num).find? (fun p => decide (p.rank = m.rank)) = none) : exec (.collAnnounce m) s = .next s := by
  change execCollAnnounce m s = _
  simp only [execCollAnnounce, hn, hp, if_pos]

/-- An announcement of a post of this package waits until its communicator is active (R422). -/
theorem exec_collAnnounce_of_post (hn : m.node = s.mynode)
    (hp : (s.postsOf m.cid m.num).find? (fun p => decide (p.rank = m.rank)) = some p) :
    exec (.collAnnounce m) s = if !s.activeCids.contains m.cid then .next (s.later (.collAnnounce m))
      else .next ((((s.tell p m).noteAnn m).poolTake m.cid m.num).beginColl m) := by
  change execCollAnnounce m s = _
  simp only [execCollAnnounce, hn, hp, if_pos]

theorem exec_collAnnounce_of_posted (hn : m.node ≠ s.mynode) (hp : s.postsOf m.cid m.num ≠ []) :
    exec (.collAnnounce m) s = .next ((s.noteAnn m).beginColl m) :=
  (if_neg hn).trans (if_pos (by simp [hp]))

/-- An announcement from elsewhere that nothing here waits for goes to the pool, or is refused. -/
theorem exec_collAnnounce_of_unposted (hn : m.node ≠ s.mynode) (hp : s.postsOf m.cid m.num = []) :
    (∀ i, s.poolFree = some i → exec (.collAnnounce m) s = .next (s.poolStore i m)) ∧
    (s.poolFree = none → exec (.collAnnounce m) s =
      .next ((s.bumpReg regOvfRetry 0 64).after (10 * Config.cyclesPerUs) (.announceRetry m))) := by
  change (∀ i, _ → execCollAnnounce m s = _) ∧ (_ → execCollAnnounce m s = _)
  simp only [execCollAnnounce, if_neg hn, hp]
  exact ⟨fun i hi => by rw [hi]; rfl, fun hi => by rw [hi]; rfl⟩

end

/-! #### Chunks (R423, R424) -/

section
variable {s : State} {cid key link : Nat} {c : Coll} {p : Piece}

/-- Another package that asks for space is granted a buffer, or waits for one. -/
theorem exec_chunkGrant_of_peer {u : State} (n : Nat) (hu : s.reserve cid key 17 = some u) :
    exec (.chunkGrant cid key (256 + n)) s = .next (u.sendFlit n 0 3 (.grant cid key)) := by
  refine (if_pos (Nat.le_add_right 256 n)).trans ?_
  simp only [hu, Nat.add_sub_cancel_left]

theorem exec_chunkGrant_of_peer_full (n : Nat) (hu : s.reserve cid key 17 = none) :
    exec (.chunkGrant cid key (256 + n)) s = .next (s.later (.chunkGrant cid key (256 + n))) := by
  refine (if_pos (Nat.le_add_right 256 n)).trans ?_
  simp only [hu]

theorem exec_chunkGrant_of_noPiece (hl : link < 256) (hp : s.pieceOf cid key = none) : exec (.chunkGrant cid key link) s = .next s := by
  refine (if_neg (Nat.not_le.2 hl)).trans ?_
  rw [hp]

/-- A chunk for a member of this package is bound to a buffer. -/
theorem exec_chunkGrant_of_local {u : State} (hp : s.pieceOf cid key = some (c, p)) (hst : p.st = 0)
    (hu : s.reserve cid key 16 = some u) : exec (.chunkGrant cid key 16) s =
      .next ((u.setColl (c.setPiece { p with st := 1, res := 16 })).push (.chunkArbitration 16)) := by
  change execChunkGrant cid key 16 s = _
  simp [execChunkGrant, hp, hst, hu]

/-- A granted chunk is bound to a free VC of a link of its route. -/
theorem exec_chunkGrant_of_route {j v : Nat} (hp : s.pieceOf cid key = some (c, p)) (hst : p.st = 0) (hl : link < 16)
    (hj : s.routeTo (entryNode (s.memberEntry c p.target)) = some j)
    (hv : [4, 5, 6, 7].find? (fun v => !(s.boundVcs j).contains v) = some v) : exec (.chunkGrant cid key link) s =
      .next ((s.setColl (c.setPiece { p with st := 1, res := j, vc := v })).push (.chunkArbitration j)) := by
  change execChunkGrant cid key link s = _
  have hpeer : ¬ 256 ≤ link := by omega
  have hlocal : link ≠ 16 := by omega
  simp only [execChunkGrant, if_neg hpeer, hp, hst, ne_eq, not_true, if_false, if_neg hlocal, hj, hv]

theorem exec_chunkArbitration_of_units (hl : 32 ≤ link) : exec (.chunkArbitration link) s = .next (unitTurn s (link - 32)) := if_pos hl

theorem exec_chunkArbitration_of_noCandidate (hl : link < 32) (hr : link < 16 → (s.link link).replay.any isChunkFlit = false)
    (hw : s.chunkWinner link (s.chunkCands link) = none) : exec (.chunkArbitration link) s = .next s := by
  change execChunkArbitration link s = _
  have hfree : ¬ (link < 16 ∧ (s.link link).replay.any isChunkFlit = true) := fun h => by simp [hr h.1] at h
  simp only [execChunkArbitration, if_neg (Nat.not_le.2 hl), if_neg hfree, hw]

/-- The winner of an arbitration within the package moves, and the next candidates are looked at. -/
theorem exec_chunkArbitration_of_winner {q : Post} (hmin : 16 ≤ link) (hmax : link < 32)
    (hw : s.chunkWinner link (s.chunkCands link) = some (c, p, q)) (hlog : s.logged (s.proc q.pid) = false) :
    exec (.chunkArbitration link) s = .next (if ((s.moveChunk link c p q).chunkCands link).isEmpty then s.moveChunk link c p q
      else (s.moveChunk link c p q).push (.chunkArbitration link)) := by
  change execChunkArbitration link s = _
  have hunit : ¬ 32 ≤ link := Nat.not_le.2 hmax
  have hlink : ¬ link < 16 := Nat.not_lt.2 hmin
  simp only [execChunkArbitration, if_neg hunit, hlink, false_and, if_false, hw, State.logGate_of_notLogged hlog]

/-! #### Completion (R383, R392) -/

theorem exec_collComplete_of_unknown (num : Nat) (hc : s.collOf cid = none) : exec (.collComplete cid num) s = .next s := by
  change execCollComplete cid num s = _
  simp only [execCollComplete, hc]

theorem exec_collComplete_of_otherNumber {num : Nat} (hc : s.collOf cid = some c) (hn : c.num ≠ num) :
    exec (.collComplete cid num) s = .next s := by
  change execCollComplete cid num s = _
  simp only [execCollComplete, hc]
  exact if_pos (.inl hn)

theorem exec_collComplete_of_noPost (hc : s.collOf cid = some c) (hp : s.postsOf cid c.num = []) :
    exec (.collComplete cid c.num) s = .next (s.endColl c) := by
  change execCollComplete cid c.num s = _
  simp only [execCollComplete, hc, hp]
  exact if_neg (by simp)

/-- A member of an aborted collective gets its status, and no block is written. -/
theorem exec_collComplete_of_aborted {q : Post} {rest : List Post} (hc : s.collOf cid = some c) (hp : s.postsOf cid c.num = q :: rest)
    (hst : c.status ≠ 0) : exec (.collComplete cid c.num) s = .next (finishPost s c q 0 c.flags) := by
  change execCollComplete cid c.num s = _
  simp [execCollComplete, hc, hp, hst]

end

/-! #### Truss queues (R393, R394) -/

section
variable {s : State} {r : Req}

theorem exec_truss_of_closed (h : s.trussOpen r = false) :
    exec (.trussPush r) s = .next (s.trussDeny r false) ∧ exec (.trussPop r) s = .next (s.trussDeny r false) :=
  ⟨if_pos (by rw [h]; rfl), congrArg _ (if_neg (by simp [h]))⟩

theorem exec_trussPop_of_open (h : s.trussOpen r = true) : exec (.trussPop r) s = .next (popTruss s r false) := congrArg _ (if_pos h)

/-- The place of the generation that a PUSH of a source joins: the oldest of the queue without a result that lacks it. -/
def pushPlace (s : State) (q src : Nat) : Option Nat :=
  s.truss.findIdx? fun g => decide (g.q = q) && g.result.isNone && !(g.parts.any fun p => decide (p.1 = src))

/-- A generation that one PUSH begins. -/
def firstGen (q src : Nat) (x : Word) : TrussGen := { q := q, parts := [(src, toW32 x)], popped := [], result := none, flags := 0 }

variable {x : Word} (hopen : s.trussOpen r = true) (hop : r.op = .store x)
include hopen hop

theorem exec_trussPush_of_place {i : Nat} {g : TrussGen} (hp : pushPlace s (trussOf r.pa) (s.trussSource r) = some i)
    (hg : s.truss[i]? = some g) : exec (.trussPush r) s =
      .next (((s.setGen i (({ g with parts := g.parts ++ [(s.trussSource r, toW32 x)] }).settle (s.trussCfg (trussOf r.pa)))).complete
        r 0 0 .none false).retryPops (trussOf r.pa)) := by
  change execTrussPush r s = _
  rw [pushPlace] at hp
  simp only [execTrussPush, hop, hopen, hp, hg]
  rfl

/-- With no generation to join, a PUSH begins one while fewer than two are open, and waits otherwise. -/
theorem exec_trussPush_of_noPlace (hp : pushPlace s (trussOf r.pa) (s.trussSource r) = none) : exec (.trussPush r) s =
    if 2 ≤ (s.truss.filter fun g => decide (g.q = trussOf r.pa)).length then .next (s.later (.trussPush r))
    else .next ((({ s with truss := s.truss ++ [(firstGen (trussOf r.pa) (s.trussSource r) x).settle (s.trussCfg (trussOf r.pa))] }).complete
      r 0 0 .none false).retryPops (trussOf r.pa)) := by
  change execTrussPush r s = _
  rw [pushPlace] at hp
  simp only [execTrussPush, hop, hopen, hp]
  rfl

end

section
variable {s : State} {addr : Nat} {x : Word}

theorem exec_trussQueueWrite_of_refused (h : trussCfgOk x = false) : exec (.trussQueueWrite addr x) s = .next s := if_pos (by rw [h]; rfl)

/-- An accepted configuration is written; V = 1 discards the queue's generations (R393). -/
theorem exec_trussQueueWrite_of_accepted {u : State} (h : trussCfgOk x = true)
    (hu : u = s.setReg addr (regWritten (regSpec addr) (s.reg addr) x)) : exec (.trussQueueWrite addr x) s =
      if x.getLsbD 63 then
        .next (({ u with truss := u.truss.filter fun g => decide (g.q ≠ (regOff addr - 0x1000) / 8) }).retryPops ((regOff addr - 0x1000) / 8))
      else .next u := by
  subst hu
  exact if_neg (by simp [h])

end

/-- Settles O52: each event by the branch that its hypotheses choose. -/
theorem collectivesAndTrussComplete : Obligations.CollectivesAndTrussComplete := by
  refine ⟨?cpost, fun s m p => ⟨exec_collAnnounce_of_noPost, fun hn hp => ?post, exec_collAnnounce_of_posted,
    exec_collAnnounce_of_unposted, rfl⟩, fun s cid key link c p => ⟨exec_chunkGrant_of_peer_full, fun n u => exec_chunkGrant_of_peer n, exec_chunkGrant_of_noPiece,
      fun hp hst => ⟨fun u => exec_chunkGrant_of_local hp hst, fun j v => exec_chunkGrant_of_route hp hst⟩,
      exec_chunkArbitration_of_units, exec_chunkArbitration_of_noCandidate, fun q => exec_chunkArbitration_of_winner,
      exec_collComplete_of_unknown, fun hc num => exec_collComplete_of_otherNumber hc, exec_collComplete_of_noPost,
      fun q rest => exec_collComplete_of_aborted⟩, ?truss⟩
  case cpost =>
    intro s u v z l a b va ws cw tab hs hva
    subst hva
    refine ⟨engMore_of_misaligned, fun ha hnf hma hst hsc hws => ?_⟩
    have hb : EngBegins s (s.descOp l b) graphQueue := ⟨ha, hnf, hst⟩
    have hr : DescReads s (s.descOp l b) 8 ws u := ⟨hs, hma, hsc, hws⟩
    refine ⟨exec_cpost_of_badComm hb hr, fun h64 hm hs2 hma2 hsc2 hcw => ?_⟩
    have hexec := exec_cpost_of_comm (a := a) hb hr ⟨h64, hm⟩ ⟨hs2, hma2, hsc2, hcw⟩ rfl
    refine ⟨fun hbad => hexec.trans (if_pos (by rw [hbad]; rfl)), fun hok hs3 hma3 hsc3 htab x own hx hown => ?_⟩
    subst hx
    have hpost : exec (.cpost l a b) s = postColl z.dropWords (s.descOp l b) (z.dropWords.g a) ws cw tab :=
      hexec.trans ((if_neg (by simp [hok])).trans (withWords_of_reads ⟨hs3, hma3, hsc3, htab⟩))
    refine ⟨fun hnone => hpost.trans (postColl_of_stranger hown hnone), fun y r q hr hall hf hsb hdb hbufs hdone hcnt hfull hq => ?_⟩
    exact ⟨memberPost y (s.descOp l b) (z.dropWords.g a) ws cw tab r, rfl, rfl, rfl, rfl, rfl, rfl,
      hpost.trans (postColl_of_member hown hr hall hf hsb hdb hbufs hdone hcnt hfull hq)⟩
  case post =>
    have hexec := exec_collAnnounce_of_post hn hp
    exact ⟨fun h => hexec.trans (if_pos (by rw [h]; rfl)), fun h => hexec.trans (if_neg (by simp only [h]; decide))⟩
  case truss =>
    intro s r g i q src x w hq hsrc hw
    subst hq hsrc hw
    refine ⟨exec_truss_of_closed, fun ho hop at_ hat => ?push, exec_trussPop_of_open, fun addr => ⟨exec_trussQueueWrite_of_refused,
      fun hok u hu => ⟨fun hv => ?keep, fun hv => ?discard⟩⟩⟩
    case push =>
      subst hat
      refine ⟨exec_trussPush_of_place ho hop, fun hp hlt => ⟨firstGen (trussOf r.pa) (s.trussSource r) x, rfl, rfl, rfl, rfl, ?_⟩, fun hp hge => ?_⟩
      · exact (exec_trussPush_of_noPlace ho hop hp).trans (if_neg (Nat.not_le.2 hlt))
      · exact (exec_trussPush_of_noPlace ho hop hp).trans (if_pos hge)
    case keep => exact (exec_trussQueueWrite_of_accepted hok hu).trans (if_neg (Bool.eq_false_iff.1 hv))
    case discard => exact (exec_trussQueueWrite_of_accepted hok hu).trans (if_pos hv)

end Sys2Proof.Machine

namespace Sys2Proof.Machine

/-! ### The host port and the management port (O59: R416–R421, R450, R455) -/

/-! #### BAR 0 (R417) -/

section
variable {s : State} {o : Nat} {x : Word} {d : Option Word}

theorem exec_hostBar0_of_silent (h : s.silent = true) : exec (.hostBar0 o d) s = .next s := if_pos h

section
variable (h : s.silent = false)
include h

theorem exec_hostBar0_of_area (ho : o < 0x800000) : exec (.hostBar0 o d) s =
    if s.boot.started && d.isSome && decide (o ≠ 0x408) then .next s.hostLost else bar0Register o d s :=
  (if_neg (by simp [h])).trans (if_pos ho)

theorem exec_hostBar0_of_early (ho : o < 0x800000) (hst : s.boot.started = true) (hne : o ≠ 0x408) :
    exec (.hostBar0 o (some x)) s = .next s.hostLost :=
  (exec_hostBar0_of_area h ho).trans (if_pos (by simp [hst, hne]))

/-- Before READY only reads and writes of RSTCTL are served (R447). -/
theorem exec_hostBar0_of_served (ho : o < 0x800000) (hs : s.boot.started = false ∨ d = none ∨ o = 0x408) :
    exec (.hostBar0 o d) s = bar0Register o d s := by
  refine (exec_hostBar0_of_area h ho).trans (if_neg ?_)
  rcases hs with hs | hs | hs <;> simp [hs]

/-- From READY on the words of the MSI-X table stand above the registers. -/
theorem exec_hostBar0_of_table (hst : s.boot.started = false) (ha : o % 8 = 0) (ho : 0x800000 ≤ o) (hin : o < 0x800400) :
    exec (.hostBar0 o none) s = .next (s.hostSees (s.msixWord ((o - 0x800000) / 8))) ∧
      exec (.hostBar0 o (some x)) s = .next (s.writeMsix ((o - 0x800000) / 8) x) := by
  have hk : (o - 0x800000) / 8 < 128 := by omega
  change execHostBar0 o none s = _ ∧ execHostBar0 o (some x) s = _
  simp [execHostBar0, h, hst, ha, Nat.not_lt.2 ho, hk]

/-- The pending bits read, and take no write. -/
theorem exec_hostBar0_of_pending (hst : s.boot.started = false) (ho : o = 0x800800) :
    exec (.hostBar0 o none) s = .next (s.hostSees (s.msixWord 128)) ∧ exec (.hostBar0 o (some x)) s = .next s := by
  subst ho
  change execHostBar0 0x800800 none s = _ ∧ execHostBar0 0x800800 (some x) s = _
  simp [execHostBar0, h, hst]

theorem exec_hostBar0_of_outside (ho : 0x800000 ≤ o)
    (hout : s.boot.started = true ∨ o % 8 ≠ 0 ∨ (0x800400 ≤ o ∧ o ≠ 0x800800)) :
    exec (.hostBar0 o d) s = .next (s.hostLost.hostOnes d.isNone) := by
  refine (if_neg (by simp [h])).trans ((if_neg (Nat.not_lt.2 ho)).trans ?_)
  split
  · rfl
  next hserved =>
    simp only [Bool.or_eq_true, decide_eq_true_eq, not_or] at hserved
    obtain ⟨hst, ha⟩ := hserved
    obtain ⟨hmin, hne⟩ := (hout.resolve_left hst).resolve_left ha
    have hk : ¬ (o - 0x800000) / 8 < 128 := by omega
    exact if_pos (by simp [hk, hne])

end

theorem bar0Register_of_misaligned (ha : o % 8 ≠ 0) : bar0Register o d s =
    .next ((s.hostDrop 0 { cause := 0x040, tval := BitVec.ofNat 64 (blockAddr 0 0 o), words := [] }).hostOnes d.isNone) := if_pos ha

theorem bar0Register_of_noContext (ha : o % 8 = 0) (hst : s.boot.started = false) (hv : (s.desc 0).valid = false) : bar0Register o d s =
    .next ((s.hostDrop 0 { cause := 0x043, tval := BitVec.ofNat 64 (blockAddr 0 0 o), words := [] }).hostOnes d.isNone) :=
  (if_neg (not_not.2 ha)).trans (if_pos (by rw [hst, hv]; rfl))

section
variable (ha : o % 8 = 0) (hv : s.boot.started = true ∨ (s.desc 0).valid = true)
include ha hv

theorem bar0Register_read : bar0Register o none s =
    .next ((s.readReg (blockAddr 0 0 o)).2.hostSees (s.readReg (blockAddr 0 0 o)).1) :=
  (if_neg (not_not.2 ha)).trans (if_neg (by rcases hv with hv | hv <;> rw [hv] <;> simp))

theorem bar0Register_write : bar0Register o (some x) s = exec (.registerWrite (blockAddr 0 0 o) x) s :=
  (if_neg (not_not.2 ha)).trans (if_neg (by rcases hv with hv | hv <;> rw [hv] <;> simp))

end

end

/-! #### BAR 2 (R417, R418) -/

section
variable {s : State} {o : Nat} {bs : List Byte}

theorem exec_hostLaunchWrite_of_silent (h : s.silent = true) : exec (.hostLaunchWrite o bs) s = .next s := if_pos h

theorem exec_hostLaunchWrite_of_early (h : s.silent = false) (hst : s.boot.started = true) :
    exec (.hostLaunchWrite o bs) s = .next (s.hostLost.hostOnes bs.isEmpty) := (if_neg (by simp [h])).trans (if_pos hst)

/-- The port takes accesses of the host: it is not silent, and READY has come. -/
structure PortReady (s : State) : Prop where
  answers : s.silent = false
  ready : s.boot.started = false

/-- No earlier access of the host, and no hold, keeps a new one waiting. -/
structure PortFree (s : State) : Prop extends PortReady s where
  open_ : s.ingressHeld = false
  first : s.hostBehind = false

theorem exec_hostLaunchWrite_of_behind (h : PortReady s) (hw : s.ingressHeld = true ∨ s.hostBehind = true) :
    exec (.hostLaunchWrite o bs) s = .next (s.later (.hostLaunchWrite o bs)) :=
  (if_neg (by simp [h.answers])).trans ((if_neg (by simp [h.ready])).trans (if_pos (by simpa using hw)))

/-- An access that waits for nothing goes by its queue, its slots, and their locks. -/
theorem exec_hostLaunchWrite_of_free (h : PortFree s) {n : Nat} (hn : n = if bs = [] then 8 else bs.length) :
    exec (.hostLaunchWrite o bs) s =
      if 64 ≤ o / 0x80000 || !s.lqOn (o / 0x80000) || decide (128 * s.lqN (o / 0x80000) < o % 0x80000 + n)
      then .next (s.hostLost.hostOnes bs.isEmpty)
      else if s.slotsLocked ((s.reg (lqReg (o / 0x80000) 0)).toNat % 2 ^ 56 + o % 0x80000) n
      then .next (s.later (.hostLaunchWrite o bs))
      else .next (if bs.isEmpty
        then slotRead s (s.lqCtx (o / 0x80000)) (s.reg (lqReg (o / 0x80000) 0) + BitVec.ofNat 64 (o % 0x80000))
        else slotWrites (n + 1) s (s.lqCtx (o / 0x80000)) (s.reg (lqReg (o / 0x80000) 0)) (o % 0x80000) bs) := by
  have hlen : (if bs.isEmpty then 8 else bs.length) = n := by simp only [hn, List.isEmpty_iff]
  change execHostLaunchWrite o bs s = _
  simp only [execHostLaunchWrite, hlen]
  exact (if_neg (by simp [h.answers])).trans ((if_neg (by simp [h.ready])).trans (if_neg (by simp [h.open_, h.first])))

end

/-! #### BAR 4 (R419, R450) -/

section
variable {s : State} {o n : Nat} {d : Option Word}

theorem exec_hostAperture_of_silent (h : s.silent = true) : exec (.hostAperture o n d) s = .next s := if_pos h

theorem exec_hostAperture_of_recovery (h : s.silent = false) (hr : s.boot.recovery = true) : exec (.hostAperture o n d) s =
    .next (if o / 0x200000 = 0 then recoveryAccess (o % 0x200000) n d s else s.hostLost.hostOnes d.isNone) :=
  (if_neg (by simp [h])).trans (if_pos hr)

theorem exec_hostAperture_of_early (h : s.silent = false) (hr : s.boot.recovery = false) (hst : s.boot.started = true) :
    exec (.hostAperture o n d) s = .next (s.hostLost.hostOnes d.isNone) :=
  (if_neg (by simp [h])).trans ((if_neg (by simp [hr])).trans (if_pos hst))

theorem exec_hostAperture_of_behind (h : PortReady s) (hr : s.boot.recovery = false) (hw : s.ingressHeld = true ∨ s.hostBehind = true) :
    exec (.hostAperture o n d) s = .next (s.later (.hostAperture o n d)) :=
  (if_neg (by simp [h.answers])).trans ((if_neg (by simp [hr])).trans ((if_neg (by simp [h.ready])).trans (if_pos (by simpa using hw))))

/-- An access that waits for nothing goes by its aperture, the part that it maps, and a lock. -/
theorem exec_hostAperture_of_free (h : PortFree s) (hr : s.boot.recovery = false) {w : Word} {base : Nat}
    (hw : w = s.reg (blockAddr 0 0x12 (0x100 + 8 * (o / 0x200000)))) (hb : base = 2 ^ 54 + field w 21 27 * 2 ^ 21) :
    exec (.hostAperture o n d) s =
      if 16 ≤ o / 0x200000 || !w.getLsbD 63 || decide (partBytes base < o % 0x200000 + n) then .next (s.hostLost.hostOnes d.isNone)
      else if s.isLocked (base + o % 0x200000) then .next (s.later (.hostAperture o n d))
      else apertureAccess (BitVec.ofNat 64 (base + o % 0x200000)) n d s := by
  subst hb hw
  exact (if_neg (by simp [h.answers])).trans ((if_neg (by simp [hr])).trans ((if_neg (by simp [h.ready])).trans
    (if_neg (by simp [h.open_, h.first]))))

end

/-! #### Registers of block 0x00 -/

@[simp] theorem regBlock_blockAddr_zero {o : Nat} (h : o < 2 ^ 40) : regBlock (blockAddr 0 0 o) = 0 := by
  unfold regBlock blockAddr
  omega

@[simp] theorem regOff_blockAddr_zero {o : Nat} (h : o < 2 ^ 40) : regOff (blockAddr 0 0 o) = o := by
  unfold regOff blockAddr
  omega

/-- What a write of the registers at 0x4A0 to 0x4D7 of block 0x00 leaves as it was. -/
def AttOnly (s t : State) : Prop :=
  t.mem = s.mem ∧ t.cur = s.cur ∧ ∀ a, a < blockAddr 0 0 0x4A0 ∨ blockAddr 0 0 0x4D8 ≤ a → t.reg a = s.reg a

section
variable {s t : State} {o : Nat} {x : Word}

theorem AttOnly.refl (s : State) : AttOnly s s := ⟨rfl, rfl, fun _ _ => rfl⟩

theorem AttOnly.setReg (h : AttOnly s t) (hmin : 0x4A0 ≤ o) (hmax : o < 0x4D8) : AttOnly s (t.setReg (blockAddr 0 0 o) x) := by
  obtain ⟨hmem, hcur, hregs⟩ := h
  refine ⟨hmem, hcur, fun a ha => (t.reg_setReg_ne x ?_).trans (hregs a ha)⟩
  unfold blockAddr at ha ⊢
  omega

theorem AttOnly.push (h : AttOnly s t) (e : Ev) : AttOnly s (t.push e) := h

theorem execAttctlGo_attOnly (h : AttOnly s t) : ∃ u, execAttctlGo t = .next u ∧ AttOnly s u := by
  unfold execAttctlGo
  split
  · exact ⟨_, rfl, h.setReg (by decide) (by decide)⟩
  · exact ⟨_, rfl, (h.setReg (by decide) (by decide)).push _⟩

theorem writeAttctl_attOnly (s : State) (x : Word) : ∃ t, writeAttctl s x = .next t ∧ AttOnly s t := by
  have hwritten : AttOnly s (s.writePlainReg regAttctl x) := (AttOnly.refl s).setReg (by decide) (by decide)
  unfold writeAttctl
  split
  · exact execAttctlGo_attOnly hwritten
  · exact ⟨_, rfl, hwritten⟩

/-- ATTNONCE takes no write while a report is made (R451). -/
theorem writeMgmt_attOnly (ha : o % 8 = 0) (hmin : 0x4A0 ≤ o) (hmax : o < 0x4D8) (s : State) (x : Word) :
    ∃ t, writeMgmt s (blockAddr 0 0 o) x = .next t ∧ AttOnly s t := by
  have hoff : regOff (blockAddr 0 0 o) = o := regOff_blockAddr_zero (by omega)
  have h008 : o ≠ 0x008 := by omega
  have h180 : o ≠ 0x180 := by omega
  have h200 : o ≠ 0x200 := by omega
  have h320 : o ≠ 0x320 := by omega
  have h408 : o ≠ 0x408 := by omega
  simp only [writeMgmt, hoff, if_neg h008, if_neg h180, if_neg h200, if_neg h320, if_neg h408]
  by_cases hnonce : o < 0x4D0
  · rw [if_pos ⟨hmin, hnonce⟩]
    refine ⟨_, rfl, ?_⟩
    split
    · exact AttOnly.refl s
    · exact (AttOnly.refl s).setReg hmin hmax
  · obtain rfl : o = 0x4D0 := by omega
    exact writeAttctl_attOnly s x

/-! #### The management port (R455) -/

theorem exec_block_of_dark (h : s.boot.powered = false) : exec (.blockRead o) s = .next s ∧ exec (.blockWrite o x) s = .next s :=
  ⟨if_pos (by simp [h]), if_pos (by simp [h])⟩

variable (h : s.boot.powered = true)
include h

theorem exec_blockRead_of_refused (hbad : o % 8 ≠ 0 ∨ 65536 ≤ o ∨ (s.boot.recovery = true ∧ o ≠ 0x400)) :
    exec (.blockRead o) s = .next { s with out := .nack :: s.out } :=
  (if_neg (by simp [h])).trans (if_pos (by simpa [or_assoc] using hbad))

theorem exec_blockRead_of_register (ha : o % 8 = 0) (ho : o < 65536) (hr : s.boot.recovery = false ∨ o = 0x400) :
    exec (.blockRead o) s = .next { (s.readReg (blockAddr 0 0 o)).2 with
      out := .mgmt (s.readReg (blockAddr 0 0 o)).1 :: (s.readReg (blockAddr 0 0 o)).2.out } := by
  refine (if_neg (by simp [h])).trans (if_neg ?_)
  rcases hr with hr | hr
  · simp [ha, ho, hr]
  · simp [hr]

theorem exec_blockWrite_of_refused (hbad : o % 8 ≠ 0 ∨ o < 0x4A0 ∨ 0x4D8 ≤ o) :
    exec (.blockWrite o x) s = .next { s with out := .nack :: s.out } :=
  (if_neg (by simp [h])).trans (if_neg (by omega))

theorem exec_blockWrite_of_att (ha : o % 8 = 0) (hmin : 0x4A0 ≤ o) (hmax : o < 0x4D8) :
    exec (.blockWrite o x) s = writeMgmt s (blockAddr 0 0 o) x :=
  (if_neg (by simp [h])).trans (if_pos ⟨ha, hmin, hmax⟩)

end

/-! #### MSI-X, host reads, HWAKE (R419–R421) -/

section
variable {s : State}

theorem exec_msixSend_of_noVector {v : Nat} (h : 64 ≤ v) : exec (.msixSend v) s = .next s := if_pos h

theorem exec_msixSend_of_vector {v : Nat} (h : v < 64) : exec (.msixSend v) s = if (s.msixWord (2 * v + 1)).getLsbD 32
    then .next (s.setMsix 128 (s.msixWord 128 ||| BitVec.ofNat 64 (2 ^ v))) else .next { s with out := .msix v :: s.out } :=
  if_neg (Nat.not_le.2 h)

theorem exec_hostRead_of_noTag {tag status : Nat} {bs : List Byte} (h : s.hostReads.find? (fun e => decide (e.1 = tag)) = none) :
    exec (.hostReadCompletion tag status bs) s = .next s ∧ exec (.hostReadTimeout tag) s = .next s := by
  change execHostReadCompletion tag status bs s = _ ∧ execHostReadTimeout tag s = _
  simp only [execHostReadCompletion, execHostReadTimeout, h, and_self]

theorem exec_hostRead_of_tag {tag status : Nat} {bs : List Byte} {e : Nat × Req}
    (h : s.hostReads.find? (fun e => decide (e.1 = tag)) = some e) :
    exec (.hostReadCompletion tag status bs) s = .next ((s.freeTag tag).hostReadEnds e.2 status bs) ∧
      exec (.hostReadTimeout tag) s = .next ((s.freeTag tag).hostReadEnds e.2 0xFF []) := by
  change execHostReadCompletion tag status bs s = _ ∧ execHostReadTimeout tag s = _
  simp only [execHostReadCompletion, execHostReadTimeout, h, and_self]

end

/-- Settles O59: each access by whether the port answers, whether it waits, and what it reaches. -/
theorem hostAndManagementAccessesComplete : Obligations.HostAndManagementAccessesComplete := by
  refine ⟨?bar0, ?bar2, ?bar4, fun s v => ⟨exec_msixSend_of_noVector, fun hv hm => ?sent, fun hv hm => ?masked⟩,
    fun s tag status bs => ⟨exec_hostRead_of_noTag, fun e => exec_hostRead_of_tag⟩, fun s hk => ?hwake, ?management⟩
  case bar0 =>
    intro s o x d
    refine ⟨exec_hostBar0_of_silent, fun h ho => ⟨exec_hostBar0_of_early h ho, fun hs => ?register⟩, fun h ho =>
      ⟨exec_hostBar0_of_outside h ho, fun hst ha => exec_hostBar0_of_table h hst ha ho, exec_hostBar0_of_pending h⟩⟩
    case register =>
      rw [exec_hostBar0_of_served h ho hs]
      refine ⟨bar0Register_of_misaligned, bar0Register_of_noContext, fun ha hv => ?_⟩
      refine ⟨?_, ?_⟩
      · rintro rfl
        exact bar0Register_read ha hv
      · rintro rfl
        rw [bar0Register_write ha hv]
        exact ⟨rfl, everyInstructionAndEveryStepGoesOn.1 (.registerWrite (blockAddr 0 0 o) x) s⟩
  case bar2 =>
    intro s o q y n bs base hq hy hbase hn
    subst hq hy hbase
    refine ⟨exec_hostLaunchWrite_of_silent, exec_hostLaunchWrite_of_early, fun h hst => ⟨exec_hostLaunchWrite_of_behind ⟨h, hst⟩,
      fun hheld hbehind => ?_⟩⟩
    have hfree : PortFree s := ⟨⟨h, hst⟩, hheld, hbehind⟩
    rw [exec_hostLaunchWrite_of_free hfree hn]
    refine ⟨fun hout => if_pos (by simpa [or_assoc] using hout), fun hq hon hin => ?_⟩
    rw [if_neg (by simp [hon]; omega)]
    refine ⟨fun hl => if_pos hl, fun hl => ?_⟩
    rw [if_neg (Bool.eq_false_iff.1 hl)]
    refine ⟨fun hbs => ?_, ?_, ?_⟩
    · rw [if_neg (by simpa using hbs)]
    · rintro xs u rfl hr
      simp [slotRead, hr]
    · rintro f u rfl hr
      simp [slotRead, hr, State.hostOnes]
  case bar4 =>
    intro s o n i y d w base hi hy hw hbase
    subst hi hy
    refine ⟨exec_hostAperture_of_silent, fun h hr => ?recovery, fun h hr hst => exec_hostAperture_of_early h hr hst, fun h hr hst =>
      ⟨exec_hostAperture_of_behind ⟨h, hst⟩ hr, fun hheld hbehind => ?_⟩⟩
    case recovery =>
      rw [exec_hostAperture_of_recovery h hr]
      exact ⟨fun hi => by rw [if_pos hi], fun hi => by rw [if_neg hi]⟩
    have hfree : PortFree s := ⟨⟨h, hst⟩, hheld, hbehind⟩
    rw [exec_hostAperture_of_free hfree hr hw hbase]
    refine ⟨fun hout => if_pos (by simpa [or_assoc] using hout), fun hi hv hin => ?_⟩
    rw [if_neg (by simp [hv]; omega)]
    refine ⟨fun hl => if_pos hl, fun hl c hc => ?_⟩
    subst hc
    rw [if_neg (Bool.eq_false_iff.1 hl)]
    refine ⟨?_, ?_, ?_, ?_⟩
    · rintro bs u rfl hr
      simp only [apertureAccess, hr]
    · rintro f u rfl hr
      simp only [apertureAccess, hr]
      rfl
    · rintro x u rfl hr
      simp only [apertureAccess, hr]
    · rintro x f u rfl hr
      simp only [apertureAccess, hr]
  case sent => exact (exec_msixSend_of_vector hv).trans (if_neg (Bool.eq_false_iff.1 hm))
  case masked => exact (exec_msixSend_of_vector hv).trans (if_pos hm)
  case hwake =>
    exact ⟨s.setReg (blockAddr 0 0 0x320) 0, rfl, State.reg_setReg_self hk, fun a ha => s.reg_setReg_ne 0 ha, rfl, rfl⟩
  case management =>
    intro s o x
    refine ⟨exec_block_of_dark, fun h => ⟨exec_blockRead_of_refused h, fun ha ho hr r hreg => ?_, exec_blockWrite_of_refused h,
      fun ha hmin hmax => ?_⟩⟩
    · subst hreg
      exact exec_blockRead_of_register h ha ho hr
    · obtain ⟨t, ht, hatt⟩ := writeMgmt_attOnly ha hmin hmax s x
      exact ⟨t, (exec_blockWrite_of_att h ha hmin hmax).trans ht, hatt⟩

end Sys2Proof.Machine
